-- ==== Sys2Proof/Word.lean ====
section
/-! DEFINITION. The word types of the model and their plainest arithmetic. -/

namespace Sys2Proof

/-- One byte (R7: every multi-byte field is little-endian, so bytes are the unit of every record). -/
abbrev Byte := BitVec 8

/-- A run of bytes of host memory: the host address as a DPA (R60) and the bytes there. -/
abbrev HostRun := Nat × List Byte

/-- The little-endian value of a byte list (R7). -/
def leNat : List Byte → Nat
  | [] => 0
  | b :: bs => b.toNat + 256 * leNat bs

/-- The little-endian encoding of a number in a given count of bytes (R7). -/
def leBytes : Nat → Nat → List Byte
  | 0, _ => []
  | k + 1, v => BitVec.ofNat 8 v :: leBytes k (v / 256)

/-- The field of `n` bytes at offset `o` of a record (R7); bytes past the end read 0. -/
def fieldAt (bs : List Byte) (o n : Nat) : Nat := leNat ((bs.drop o).take n)

/-- The bytes of a field are all zero. -/
def allZero (d : List Byte) (o n : Nat) : Bool := fieldAt d o n = 0

/-- Bits `[hi:lo]` of a number. -/
def bitsOf (v hi lo : Nat) : Nat := (v / 2 ^ lo) % 2 ^ (hi + 1 - lo)

/-- A number as a truth value of its bit `i`. -/
def bitAt (v i : Nat) : Bool := v.testBit i

/-- 0 or 1. -/
def bit01 (b : Bool) : Nat := if b then 1 else 0

/-- Saturating count: one more, at most `top`. -/
def satInc (top v : Nat) : Nat := if v < top then v + 1 else top

/-- Saturating sum, at most `top`. -/
def satAdd (top v k : Nat) : Nat := min top (v + k)

/-- The signed value of a `w`-bit number. -/
def signedOf (w v : Nat) : Int := (BitVec.ofNat w v).toInt

/-- Ceiling division. -/
def ceilDiv (a b : Nat) : Nat := (a + b - 1) / b

end Sys2Proof
end

