-- ==== Sys2Proof/Syntax.lean ====
section
/-! DEFINITION. The commands of the block: the ONE inductive `Instr`, one constructor per row of
spec/opcode_table.json, and the plain data its operands are made of. A host command carries the packet
as the device took it; an event carries what reaches the device from outside at that step. -/

namespace Sys2Proof

/-- A command as taken from a ring (R421): its header fields and its payload bytes. `ring` names the
ring it came from: a context 0 to 255, or 256 for the CAN0 exchange of recovery (R486). -/
structure Cmd where
  ring : Nat := 0
  family : Nat := 0
  operation : Nat := 0
  flags : Nat := 0
  tag : Nat := 0
  context : Nat := 0
  partition : Nat := 0
  rsv11 : Nat := 0
  length : Nat := 0
  payload : Nat := 0
  deadline : Nat := 0
  rsv32 : Nat := 0
  pw : List Nat := []
  crc : Nat := 0
  data : List Byte := []
deriving DecidableEq, Repr

/-- The two directions of a ring segment: forward runs HD, CD0, CD1, CD2, CD3, HD. -/
inductive RingDir where
  | fwd
  | rev
deriving DecidableEq, Repr

/-- A ring flit (R42): header fields, the CRC as received, and the 64-byte body. -/
structure Flit where
  dest : Nat := 0
  src : Nat := 0
  vc : Nat := 0
  kind : Nat := 0
  first : Bool := false
  last : Bool := false
  poison : Bool := false
  rsv : Bool := false
  seq : Nat := 0
  rsvSeq : Nat := 0
  crc : Nat := 0
  body : List Byte := []
deriving DecidableEq, Repr

/-- The descriptor of a ring packet (R44). -/
structure Desc where
  dpa : Nat := 0
  length : Nat := 0
  tag : Nat := 0
  status : Nat := 0
  requester : Nat := 0
  peer : Nat := 0
  message : List Byte := []
deriving DecidableEq, Repr

/-- What the access of a granule met (R157 to R163). -/
inductive Ecc where
  | ok
  /-- a corrected single-bit error (R158) -/
  | corrected
  /-- an uncorrectable error (R159) -/
  | uncorrectable
  /-- TSV transfer CRC failures that a retry cured: how many retries, and the lanes at fault (R162, R163) -/
  | retried (retries : Nat) (lanes : List Nat)
  /-- all three TSV retries failed (R163) -/
  | transferFailed (lanes : List Nat)
deriving DecidableEq, Repr

/-- What the SECDED of solver memory met in a link's data (R341). -/
inductive Secded where
  | ok
  | corrected
  | uncorrectable
deriving DecidableEq, Repr

/-- The header ECC of a CSI-2 packet (R262). -/
inductive HeaderEcc where
  | ok
  | corrected
  | uncorrectable
deriving DecidableEq, Repr

/-- Two consecutive samples of a monitored rail in microvolts, the later one last (R403, R558). -/
structure RailSamples where
  rail : Nat
  first : Nat
  second : Nat
deriving DecidableEq, Repr

/-- A frame and who holds it: a core 0 to 63, or a hub DMA engine from 64 (R211, R213). -/
structure FrameUse where
  index : Nat
  requester : Nat
deriving DecidableEq, Repr

/-- A try at the write resolution of the job with this tag, and the granules that read uncorrectable in it (R220, R225). -/
structure WriteTry where
  tag : Nat
  bad : List Nat := []
deriving DecidableEq, Repr

/-- A frame to move below the target, and the granules of it that read uncorrectable (R225, R233). -/
structure FrameCopy where
  index : Nat
  bad : List Nat := []
deriving DecidableEq, Repr

/-- A CSI-2 packet header: its virtual channel, its data type and what its ECC finds (R261, R262). -/
structure CsiHeader where
  vc : Nat
  dt : Nat
  ecc : HeaderEcc := .ok
deriving DecidableEq, Repr

/-- The package a peer access comes from and its tag (R44, R66). -/
structure PeerSource where
  package : Nat
  tag : Nat
deriving DecidableEq, Repr

/-- Pair A or pair B (R375); also the E-stop channel each of them names (R394). -/
inductive Pair where
  | a
  | b
deriving DecidableEq, Repr

/-- How the host link went down (R437, R570). -/
inductive LinkDownKind where
  | hotReset
  | linkDown
  | perst
deriving DecidableEq, Repr

/-- The end of a PTM dialog (R32). -/
inductive PtmResult where
  | failed
  /-- the host's PTM time, and the time-base cycle of the link at that instant -/
  | ok (hostTime cycle : Nat)
deriving DecidableEq, Repr

/-- A node's identity as enumeration reads it (R299). -/
structure NodeIdent where
  kind : Nat := 0
  modelId : Nat := 0
  serial : Nat := 0
  firmware : Nat := 0
  downLat : Nat := 0
  upLat : Nat := 0
  turn : Nat := 0
  staleLimit : Nat := 0
deriving DecidableEq, Repr

/-- What the training of one line found (R299): lock obtained, the nodes that answered with their
identities, their round trips and the segment delays in ns, and whether the steps ended in 500 links. -/
structure TrainReport where
  locked : Bool := true
  nodes : List NodeIdent := []
  roundTrip : List Nat := []
  segments : List Nat := []
  inTime : Bool := true
deriving DecidableEq, Repr

/-- Temperatures sampled at a chain boundary (R171, R521): junctions of CD0 to CD3 and the hub,
stacks S0 to S3, in degrees Celsius. -/
structure TempSample where
  junction : List Nat := []
  stack : List Nat := []
deriving DecidableEq, Repr

/-- Powers averaged over the furlong just ended, in mW (R518). -/
structure PowerSample where
  package : Nat := 0
  die : List Nat := []
deriving DecidableEq, Repr

/-- An entry of the wear record (R508). -/
structure WearEntry where
  kind : Nat := 0
  place : Nat := 0
  unit : Nat := 0
  detail : Nat := 0
deriving DecidableEq, Repr

/-- What a start met on its way (R471 to R473): verification results that rest on the signature engine,
the segments, dies and stacks that came up, the faulty resources a rebuild found, and its length. -/
structure StartReport where
  loaderOk : Bool := true
  imageOk : Bool := true
  imageOkAfterCopy : Bool := true
  segFwd : List Bool := []
  segRev : List Bool := []
  dieOk : List Bool := []
  stackOk : List Bool := []
  rebuilt : List WearEntry := []
  keyMatches : Bool := true
  startMs : Nat := 0
deriving DecidableEq, Repr

/-- The result of one self-test vector (R503). -/
inductive VectorResult where
  | pass
  | coreFail
  /-- a march failure of a physical bank -/
  | bankFail (bank : Nat)
deriving DecidableEq, Repr

/-- What a full self-test pass found (R505). -/
structure SelftestReport where
  cores : List (Nat × Nat) := []
  banks : List (Nat × Nat × Nat) := []
  clusters : List Nat := []
  pipes : List Nat := []
  durationMs : Nat := 0
deriving DecidableEq, Repr

/-- A CAN frame on the bus (R449, R457), with the SOF sample point in time-base cycles of the link. -/
structure CanFrame where
  id : Nat := 0
  xtd : Bool := false
  remote : Bool := false
  fdf : Bool := false
  brs : Bool := false
  esi : Bool := false
  dlc : Nat := 0
  data : List Byte := []
  sofCycle : Nat := 0
  /-- the controller's own frame, received in a loopback mode (R453) -/
  own : Bool := false
deriving DecidableEq, Repr

/-- A bus error (R467): met while sending or receiving, with the counter steps that ISO 11898-1 gives
for it. -/
structure CanError where
  sending : Bool := false
  tecStep : Nat := 0
  recStep : Nat := 0
deriving DecidableEq, Repr

/-- Arithmetic, logic and shift operations of the scalar set (R98). -/
inductive AluOp where
  | add | sub | mul | and | or | xor | shl | shrU | shrS
  | eq | ne | ltU | ltS | leU | leS
deriving DecidableEq, Repr

/-- Branch conditions of the scalar set (R98). -/
inductive BrCond where
  | eq | ne | ltU | ltS | geU | geS
deriving DecidableEq, Repr

/-- The scalar instructions of UC64 (R98, R99): the kinds the manual names, in the conventional
three-register and register-immediate forms (DESIGN CHOICE 11: the manual lists no forms). `undefined`
is an encoding that stands for no instruction (R119, cause 4). -/
inductive Scalar where
  | alu (op : AluOp) (d a b : Nat)
  | aluImm (op : AluOp) (d a : Nat) (imm : Int)
  | branch (c : BrCond) (a b : Nat) (target : Nat)
  | jump (target : Nat)
  | call (d : Nat) (target : Nat)
  | ret (a : Nat)
  /-- load of `size` bytes 1, 2, 4 or 8, zero- or sign-extended, from byte address g_a + off -/
  | load (size : Nat) (signed : Bool) (d a : Nat) (off : Int)
  | store (size : Nat) (b a : Nat) (off : Int)
  | undefined
deriving DecidableEq, Repr

/-- The commands of the block: one constructor per row of spec/opcode_table.json. -/
inductive Instr where
  /-- R433: Returns the firmware version, hardware revision, present cores, mode, open contexts and the defaulted and rebuilt flags. -/
  | devInfo (c : Cmd)
  /-- R6: Requests a change of operating mode, which the mode table and the conditions of other chapters accept or refuse. -/
  | devMode (c : Cmd)
  /-- R411: Opens the lowest free client context, 1 to 255, with the given rings and vector. -/
  | devContextOpen (c : Cmd)
  /-- R414: Closes a client context: discards its unstarted commands, cancels its jobs, then frees its sequences and allocations. -/
  | devContextClose (c : Cmd)
  /-- R493: Writes the identity record of all dies and the certificate chain to the output address. -/
  | devIdentity (c : Cmd)
  /-- R495: Writes a statement signed with the device key over the nonce, the hashes and the configuration in force. -/
  | devAttest (c : Cmd)
  /-- R433: Allocates DRAM of one compute die or hub memory and returns its DPA. -/
  | memAlloc (c : Cmd)
  /-- R433: Frees an allocation, or is refused with ST_BUSY while the allocation is in use. -/
  | memFree (c : Cmd)
  /-- R433: Copies a range of bytes between two non-overlapping device or host ranges. -/
  | memCopy (c : Cmd)
  /-- R433: Fills a range with a 32-bit pattern. -/
  | memFill (c : Cmd)
  /-- R67: Opens an inbound peer window with a base, a size, permissions and a package mask. -/
  | memWindowOpen (c : Cmd)
  /-- R70: Closes an inbound peer window, so that every peer access arriving after the close is refused. -/
  | memWindowClose (c : Cmd)
  /-- R70: The last peer access admitted before a window close drains, and MEM.WINDOW_CLOSE completes. -/
  | windowDrainDone (slot : Nat)
  /-- R360: Checks a job descriptor and its descriptor arrays, then accepts the job and reserves its save area. -/
  | jobSubmit (c : Cmd)
  /-- R366: Ends the named job at its next mark, or at once when it holds no core. -/
  | jobCancel (c : Cmd)
  /-- R366: Returns the state, the release count, the flag record and the re-run count of a job. -/
  | jobQuery (c : Cmd)
  /-- R355: Loads a piece of the shadow table; the piece that brings row 79 also validates the whole table. -/
  | schLoad (c : Cmd)
  /-- R357: Requests a switch to the shadow table at a mile boundary. -/
  | schArm (c : Cmd)
  /-- R345: Sets the class of a partition 1 to 15, in CONFIG only. -/
  | schPartition (c : Cmd)
  /-- R358: Returns SCH_STATUS and the active and shadow table ids, or the job counts of a context. -/
  | schQuery (c : Cmd)
  /-- R204: Checks the parameters and creates a KV pool of frames and frame-table entries on its dies. -/
  | kvPoolCreate (c : Cmd)
  /-- R576: Checks the parameters and creates a sequence, allocating every frame at once for a CTL or PER sequence. -/
  | kvSeqCreate (c : Cmd)
  /-- R224: Creates a child sequence that shares the parent's pages below the prefix, adding a reference to each. -/
  | kvSeqFork (c : Cmd)
  /-- R226: Drops every reference that a sequence holds and releases its seq_id. -/
  | kvSeqFree (c : Cmd)
  /-- R232: Registers or replaces the host swap area. -/
  | kvSwapArea (c : Cmd)
  /-- R231: Suspends a DEL or BGD sequence and swaps its private frames out to the host. -/
  | kvSwapOut (c : Cmd)
  /-- R231: Resumes a suspended sequence when enough frames are free. -/
  | kvSwapIn (c : Cmd)
  /-- R234: Moves the frames of a pool below a target frame number and shrinks the pool. -/
  | kvCompact (c : Cmd)
  /-- R433: Returns the state and frame counts of a sequence, or the free frames and entries of a pool. -/
  | kvQuery (c : Cmd)
  /-- R312: Checks and stores a robot model record, clearing the task set and the contacts. -/
  | solModelLoad (c : Cmd)
  /-- R580: Checks and stores a task set, pending while the engine runs. -/
  | solTasksLoad (c : Cmd)
  /-- R321: Checks and stores the contact frames and contact points. -/
  | solContacts (c : Cmd)
  /-- R336: Starts the dynamics engine with a hold limit, in CONFIG only. -/
  | solStart (c : Cmd)
  /-- R337: Stops the engine after the result in progress. -/
  | solStop (c : Cmd)
  /-- R338: Returns the flags, iterations, engine state, sample TS, residual and signature of the latest result. -/
  | solQuery (c : Cmd)
  /-- R264: Checks and stores the configuration of an intake stream. -/
  | itkStreamConfig (c : Cmd)
  /-- R271: Checks and stores an intake pipe profile. -/
  | itkPipeConfig (c : Cmd)
  /-- R265: Checks the profile and buffers of a stream and starts it. -/
  | itkStreamStart (c : Cmd)
  /-- R266: Stops a stream, voids its open frames and completes once every place of the stream is resolved. -/
  | itkStreamStop (c : Cmd)
  /-- R299: Trains, measures and enumerates the named joint lines. -/
  | jlTrain (c : Cmd)
  /-- R304: A line's training ends in ENUMERATED, CONFIGURED or FAILED, and JL.TRAIN completes once every named line has ended. -/
  | lineTrainingComplete (line : Nat) (report : TrainReport)
  /-- R301: Checks and replaces or removes a node-table entry, in CONFIG only. -/
  | jlNodeConfig (c : Cmd)
  /-- R302: Checks the found nodes against their entries and starts the named lines. -/
  | jlStart (c : Cmd)
  /-- R302: Stops the named running lines after one TORQUE_OFF frame. -/
  | jlStop (c : Cmd)
  /-- R455: Sets the bit timing, the FIFO sizes and the flags of a stopped controller. -/
  | canConfig (c : Cmd)
  /-- R460: Writes a filter list into the inactive bank and requests a switch of banks. -/
  | canFilters (c : Cmd)
  /-- R464: Places a transmit element in the lowest free transmit buffer. -/
  | canSend (c : Cmd)
  /-- R453: Requests a controller mode. -/
  | canMode (c : Cmd)
  /-- R407: Checks and stores the safety parameter block, in CONFIG only. -/
  | safeConfig (c : Cmd)
  /-- R408: Decides the safe state with cause 1 in RUN and DEGRADED. -/
  | safeTrip (c : Cmd)
  /-- R402: Tests the release conditions and schedules the end of the safe state for the next link boundary. -/
  | safeRelease (c : Cmd)
  /-- R408: Returns the Assize status, causes, entry link, E-stop state and counts. -/
  | safeQuery (c : Cmd)
  /-- R479: Checks an image header and starts receiving the image into staging. -/
  | fwBegin (c : Cmd)
  /-- R480: Writes one piece of the image to staging flash, reads it back and marks it present. -/
  | fwPiece (c : Cmd)
  /-- R481: Returns the missing pieces and writes the piece bitmap. -/
  | fwStatus (c : Cmd)
  /-- R482: Verifies the body hash of the staging body and commits it for copying at the next start. -/
  | fwCommit (c : Cmd)
  /-- R482: Erases the staging area and sets the state EMPTY. -/
  | fwAbort (c : Cmd)
  /-- R490: Copies bytes from the working copy of the configuration record. -/
  | cfgRead (c : Cmd)
  /-- R490: Replaces bytes of the working copy of the configuration record. -/
  | cfgWrite (c : Cmd)
  /-- R490: Checks the working copy, sets its sequence and check word, and writes it to flash. -/
  | cfgCommit (c : Cmd)
  /-- R533: Sets up the recorder ring, clears it and starts recording. -/
  | recConfig (c : Cmd)
  /-- R534: Acts as a recorder trigger and completes once the ring is frozen. -/
  | recFreeze (c : Cmd)
  /-- R536: Exports the frozen ring, or the flash copy, to host memory inside BGD windows. -/
  | recExport (c : Cmd)
  /-- R537: Replays a recording in place of the live sources and captures the commands that are computed. -/
  | recReplay (c : Cmd)
  /-- R538: Programs or clears one fault-injection slot, in TEST only. -/
  | testInject (c : Cmd)
  /-- R505: Runs a full self-test pass on the named dies and, on request, on the hub. -/
  | testSelftest (c : Cmd) (found : SelftestReport)
  /-- R539: Sends 1,024 test units through a target's loopback and counts the units in error. -/
  | testLoopback (c : Cmd) (unitsInError : Nat)
  /-- R524: Brings the device from CONFIG into retained idle by stopping intake, putting the stacks in self-refresh and switching the compute dies off. -/
  | pwrStateEnterRetainedIdle (c : Cmd)
  /-- R526: Powers and reloads the compute dies and returns the stacks to service. -/
  | pwrStateLeaveRetainedIdle (c : Cmd)
  /-- R520: Sets the package power cap. -/
  | pwrLimit (c : Cmd)
  /-- R433: Returns the package power, the hottest temperatures and the operating points. -/
  | pwrQuery (c : Cmd)
  /-- R415: A write to HL_DB_SQ[c] advances a submission tail, or sets doorbell_error when the write is invalid. -/
  | sqDoorbell (ctx : Nat) (value : Nat) (host : List HostRun)
  /-- R418: A write to HL_DB_CQ[c] releases completion entries and rearms the context's message. -/
  | cqDoorbell (ctx : Nat) (value : Nat)
  /-- R417: The device takes a posted command of a context in round robin and copies its header and payload into hub memory. -/
  | commandTake
  /-- R427: The deadline of a command that has not started passes, and the command completes with ST_TIMEOUT. -/
  | commandStartDeadlineExpiry (ctx : Nat)
  /-- R548: A write of the key to DEV_RESET restarts the whole device, except in the modes and states that forbid it. -/
  | devResetWrite (value : Nat)
  /-- R550: A write that sets enable in HL_CTX0_CFG checks the ring settings and opens context 0, or sets cfg_error. -/
  | ctx0Enable (value : Nat)
  /-- R552: A write that clears enable in HL_CTX0_CFG stops taking commands from context 0 and discards the entries not yet taken. -/
  | ctx0Disable (value : Nat)
  /-- R441: A write to HL_BAR2_BASE moves the BAR2 aperture for every BAR2 request that arrives after it. -/
  | bar2BaseWrite (value : Nat)
  /-- R439: A host read through BAR2 reaches a DPA, or is refused and returns all ones. -/
  | bar2Read (offset len : Nat)
  /-- R439: A host write through BAR2 reaches a DPA, or is refused and discarded. -/
  | bar2Write (offset : Nat) (data : List Byte)
  /-- R463: A write of a count to CAN_RXQ_RELEASE releases the oldest elements of a receive FIFO. -/
  | canRxqReleaseWrite (k f value : Nat)
  /-- R549: A write of request = 1 to TB_PTM_CTRL starts a PTM dialog at once, unless a dialog is already running. -/
  | ptmRequest (value : Nat)
  /-- R32: The PTM interval in miles elapses and a dialog starts. -/
  | ptmIntervalExpiry
  /-- R32: A PTM dialog ends, and on success the host time and device TS are latched as one pair. -/
  | ptmDialogComplete (result : PtmResult)
  /-- R549: A read of TB_PTM_HOST_LO latches the other three PTM registers from the same dialog for that requester. -/
  | ptmHostLoRead (requester : Nat)
  /-- R543: A read of the LO register of a pair latches its HI register for that requester. -/
  | loRegisterRead (requester offset : Nat)
  /-- R542: A host read of a register with RC fields returns them and clears them. -/
  | rcRegisterRead (offset : Nat)
  /-- R553: A host write to any other register takes effect only in the writable fields, under their conditions, and is otherwise ignored. -/
  | registerWrite (offset value : Nat)
  /-- R437: A hot reset, a link down or a PERST_N assertion resets the endpoint and closes the client contexts. -/
  | hostLinkDown (how : LinkDownKind)
  /-- R563: The hub leaves reset, latches BOOTSEL, starts LINK_COUNT at 0 and begins the start sequence. -/
  | hubResetRelease (bootsel : Nat)
  /-- R471: The start sequence ends, and the device enters CONFIG, TEST or RECOVERY. -/
  | startSequenceComplete (report : StartReport)
  /-- R562: RESET_N falls and the whole device is reset. -/
  | resetAssert
  /-- R564: Power is lost at any moment; the flash rules keep the flash usable. -/
  | powerLoss
  /-- R10: A link ends: LINK_COUNT increments, and per-link slewing, sampling and record writing take place. -/
  | linkBoundary (estopA estopB : Bool)
  /-- R18: A chain begins: the row changes, cores move, temperatures are sampled, and chain-boundary actions run. -/
  | chainBoundary (temps : TempSample)
  /-- R518: A furlong begins, and the power controller sets the operating points of the compute dies. -/
  | furlongBoundary (power : PowerSample)
  /-- R517: A raised VCORE setpoint has settled, and the die clock switches to the new point. -/
  | opChangeSettled (die : Nat)
  /-- R12: A compute die receives the hub's LINK_COUNT message and reports a time-base fault on a mismatch. -/
  | linkCountCheck (die count : Nat)
  /-- R21: A RUN request without SYNC_IN enters RUN at the next mile boundary of the existing grid. -/
  | runEntryAtMile
  /-- R22: The first SYNC_IN timing edge after a RUN request ends the current link, sets the new mile base and enters RUN. -/
  | syncAlignEdge (cycles : Nat)
  /-- R23: No SYNC_IN edge arrives within two periods, so DEV.MODE completes with ST_TIMEOUT in CONFIG. -/
  | syncAlignTimeout
  /-- R24: A SYNC_IN edge in RUN is measured against its expected boundary, or counted as stray. -/
  | syncInEdge (cycle : Nat)
  /-- R26: Two expected boundaries pass without an edge, so sync_lost is set and the grid runs freely. -/
  | syncLost
  /-- R55: A segment receiver checks the CRC and sequence of a flit, accepts, forwards or discards it, and answers with ACK or NAK. -/
  | ringFlitReceive (seg : Nat) (dir : RingDir) (flit : Flit) (lanes : List Nat)
  /-- R55: An ACK frees the acknowledged flits from the sender's replay buffer. -/
  | ringAck (seg : Nat) (dir : RingDir) (seq : Nat)
  /-- R56: A NAK makes the sender resend every buffered flit from the named sequence number. -/
  | ringNak (seg : Nat) (dir : RingDir) (seq : Nat)
  /-- R56: No ACK arrives within 200 ns, and the sender replays from the oldest unacknowledged flit. -/
  | ringAckTimeout (seg : Nat) (dir : RingDir)
  /-- R49: A CREDIT flit returns buffer credits of a virtual channel to the sender. -/
  | ringCredit (seg : Nat) (dir : RingDir) (vc count : Nat)
  /-- R59: A segment retraining ends, and waiting traffic resumes. -/
  | ringRetrainDone (seg : Nat) (fwdUp revUp : Bool)
  /-- R58: A lasting-faulty ring lane is replaced by a spare in a quiet period at a chain boundary. -/
  | ringLaneSpare (seg : Nat) (dir : RingDir) (scanFails : List Nat)
  /-- R44: A READ_REQ packet reaches its target, which checks access and returns a READ_RSP. -/
  | ringReadRequest (vc src : Nat) (d : Desc) (ecc : List Ecc) (flips : List Nat)
  /-- R46: A WRITE_REQ packet reaches its target, which writes the data and answers with a WRITE_RSP once the data is visible. -/
  | ringWriteRequest (vc src : Nat) (d : Desc) (data : List Byte) (poison : Bool) (ecc : List Ecc)
  /-- R44: A READ_RSP with its data and status reaches the requester. -/
  | ringReadResponse (d : Desc) (data : List Byte) (poison : Bool)
  /-- R46: A WRITE_RSP reaches the requester and acknowledges its write. -/
  | ringWriteResponse (d : Desc)
  /-- R44: A MESSAGE packet with a firmware-defined body reaches its target. -/
  | ringMessage (d : Desc)
  /-- R69: A peer access arrives at the owning hub, which admits it through an open window or refuses it with status 3. -/
  | peerAccess (link slot offset len : Nat) (src : PeerSource) (write : Bool) (data : List Byte)
  /-- R64: A P-link trains at 8 or 4 lanes, or stays untrained on a package-number conflict. -/
  | plinkTrain (link lanes far : Nat)
  /-- R168: A remapped row's copy completes, and its remap entry becomes valid. -/
  | rowRemapDone (die : Nat)
  /-- R172: A channel's refresh interval elapses, and the channel refreshes for 160 ns. -/
  | dramRefresh (die channel : Nat) (scanFails : List Nat)
  /-- R166: The scrubber reads the next granule and writes a corrected error back. -/
  | patrolScrubRead (die : Nat) (ecc : Ecc)
  /-- R116: Ends a tile with the mark sequence, and saves the context when a stop request is pending. -/
  | tmark (core : Nat) (flips : List Nat)
  /-- R116: Performs the mark sequence and ends the job, or the release, on the core. -/
  | halt (core : Nat)
  /-- R104: Checks a matrix format descriptor and issues a matrix instruction to the matrix unit. -/
  | mxm (core gDesc gAct gWt gOut m n : Nat) (flips : List Nat)
  /-- R106: Checks a vector descriptor and issues a vector instruction. -/
  | vop (core gDesc : Nat) (flips : List Nat)
  /-- R75: Loads one NG4 grid table. -/
  | gridld (core grid gAddr : Nat)
  /-- R109: Queues a DMA descriptor on a channel, stalling while the queue is full. -/
  | dma (core channel gDesc : Nat) (flips : List Nat)
  /-- R101: Waits until every descriptor queued on the named channels has completed. -/
  | dwait (core mask : Nat)
  /-- R101: Waits until the named units are idle. -/
  | uwait (core mask : Nat)
  /-- R118: Records a signal to a rank's semaphore, to be delivered at this tile's mark. -/
  | sig (core gRank sem : Nat)
  /-- R101: Waits until a semaphore reaches a count, then subtracts the count. -/
  | waits (core sem gCount : Nat)
  /-- R122: Sets or clears a live-table entry within the job's declared live limit. -/
  | live (core entry gBase gLen : Nat)
  /-- R101: Reads the arithmetic flag word. -/
  | flagrd (core gD : Nat)
  /-- R101: Returns the scratchpad DPA of a job rank. -/
  | rankdpa (core gD gRank : Nat)
  /-- R101: Reads TS. -/
  | tsrd (core gD : Nat)
  /-- R99: Executes a scalar UC64 instruction, including loads and stores to the core's own scratchpad. -/
  | scalarInstruction (core : Nat) (op : Scalar) (flips : List Nat)
  /-- R105: The matrix unit finishes an instruction and writes its outputs and flags. -/
  | matrixInstructionComplete (core : Nat) (flips : List Nat)
  /-- R108: The vector unit finishes an instruction. -/
  | vectorInstructionComplete (core : Nat) (flips : List Nat)
  /-- R113: Every read of a descriptor has returned and every write is acknowledged, so waiting DWAITs may return. -/
  | dmaDescriptorComplete (core channel : Nat) (flips : List Nat)
  /-- R115: A tile reaches 4 links without beginning its mark, and takes a tile fault of cause 1. -/
  | tileTimerExpiry (core : Nat)
  /-- R124: A context save completes, the job becomes PREEMPTED and its cores are freed. -/
  | contextSaveDone (core : Nat)
  /-- R124: A restore has cleared the scratchpad, rewritten the live regions, code and descriptors, and starts a tile at the restored pc. -/
  | contextRestoreDone (core : Nat)
  /-- R148: A retiring bank's copy into the spare completes; the switch follows at the next tile mark. -/
  | bankMigrationDone (core : Nat) (flips : List Nat)
  /-- R503: A self-test vector runs on a core or spare, and each failure counts an event. -/
  | selftestVector (die phys : Nat) (result : VectorResult)
  /-- R211: A frame-table agent LOOKUP raises the reader count of a resident or pinned frame, or fails. -/
  | ftLookup (index pool requester : Nat)
  /-- R211: A RELEASE lowers the reader count, and may return the frame. -/
  | ftRelease (x : FrameUse)
  /-- R211: A REF_ADD raises the reference count and sets cow above 1. -/
  | ftRefAdd (index n : Nat)
  /-- R211: A REF_SUB lowers the reference count, and may return the frame. -/
  | ftRefSub (index : Nat)
  /-- R211: A CAS writes a new entry only when the whole entry equals the expected value. -/
  | ftCas (index expected new : Nat)
  /-- R211: An ALLOC takes a free entry and frame number for a pool. -/
  | ftAlloc (die pool state : Nat)
  /-- R220: Before a job's first tile, every page of its write ranges is allocated, copied or pinned, and the write list is written. -/
  | kvWriteResolution (ctx : Nat) (x : WriteTry)
  /-- R446: A frame's copy to the swap area is confirmed by a read, and the entry becomes swapped. -/
  | swapOutFrameDone (index : Nat) (ok : Bool)
  /-- R214: A frame's copy back completes, and the entry becomes resident. -/
  | swapInFrameDone (index : Nat) (ok : Bool) (data : List Byte)
  /-- R447: A failed swap read is retried at a chain boundary, and is poisoned after the third retry fails. -/
  | swapReadRetry (index : Nat) (ok : Bool) (data : List Byte)
  /-- R233: Compaction copies one frame below the target and switches its entry by CAS, or retries at a later chain. -/
  | compactionMove (x : FrameCopy)
  /-- R351: At offset 95, stop requests go to every job that holds a core that moves at the next boundary. -/
  | chainGuardStart
  /-- R357: At link b − 5, hub firmware decides whether the armed switch takes place or is deferred. -/
  | schSwitchDecision
  /-- R353: A moving core's job has not reached its mark or saved by the end of the first link, and ends with ST_TILE_FAULT. -/
  | saveDeadlineExpiry (core : Nat)
  /-- R354: Queued and preempted jobs are placed on the free cores of their partition in order. -/
  | jobPlacement (part : Nat)
  /-- R349: A RELEASE row event releases every event job with the matching release_id. -/
  | rowEventRelease (ev : Nat)
  /-- R369: A SELFTEST row event opens a self-test slot on a BGD partition's cores. -/
  | rowEventSelftest (ev : Nat)
  /-- R369: At the slot's last link, self-test is interrupted and the cores are cleared and returned to placement. -/
  | selftestSlotEnd (part : Nat)
  /-- R349: A BGD_WINDOW row event opens a window in which compaction and export transfers may start. -/
  | rowEventBgdWindow (ev : Nat)
  /-- R349: A BGD window ends, and the transfers in progress finish without successors. -/
  | bgdWindowEnd
  /-- R361: A periodic job is released at its phase, or the release is skipped when the previous one has not ended. -/
  | periodicRelease (ctx tag : Nat)
  /-- R362: A job's budget is used up, and stop requests end the release with TASK_OVERRUN. -/
  | budgetExpiry (ctx tag : Nat)
  /-- R365: A job that has never started passes its deadline and ends with ST_TIMEOUT. -/
  | jobDeadlineExpiry (ctx tag : Nat)
  /-- R267: A frame-start packet stamps the frame, assigns its sequence number and holds its lines for the first-packet checks. -/
  | csiFrameStart (port vc : Nat) (ecc : HeaderEcc)
  /-- R268: A long packet is checked and counted against the frame's limits, or makes it VOID_CORRUPT. -/
  | csiLongPacket (port vc dt : Nat) (payload : List Byte) (ecc : HeaderEcc) (crcOk : Bool)
  /-- R268: A frame-end packet closes a frame, which is void when lines are missing. -/
  | csiFrameEnd (port vc : Nat) (ecc : HeaderEcc)
  /-- R261: A packet of an unsupported kind is discarded and counted. -/
  | csiPacketDiscard (port : Nat) (header : CsiHeader)
  /-- R269: A waiting frame takes the lowest idle pipe and loads its profile. -/
  | pipeAssign
  /-- R273: A frame's tensor is complete, or it has become void, and it is published in order. -/
  | sampleResolved (stream : Nat) (seq : Nat) (writeOk : Bool)
  /-- R277: A frame not resolved within its decode budget becomes VOID_LATE, and its buffer is freed. -/
  | decodeBudgetExpiry (stream : Nat) (seq : Nat)
  /-- R498: A check frame completes, and a mismatch counts an event against the pipe. -/
  | pipeCheckFrameDone (pipe : Nat) (ok : Bool)
  /-- R285: At 0.10 µs the device sends a down frame on every running line, with slots chosen under R294. -/
  | downFrameSend
  /-- R288: An up frame arrives with the sample slots of a line. -/
  | upFrameReceive (line : Nat) (bytes : List Byte)
  /-- R305: At 0.80 µs a line with no up comma counts a miss, and is declared down in the fourth such link. -/
  | upCommaWindowClose (line : Nat) (seen : Bool)
  /-- R295: At 1.80 µs missing or bad sample slots are replaced as stale. -/
  | upFrameDeadline
  /-- R307: The front stage begins when the up frames are resolved, by 1.80 µs, and reads the target block. -/
  | frontStageStart
  /-- R326: At 0.70 µs the solve stage begins the active-set iterations. -/
  | solveStageStart (memory : Secded)
  /-- R332: At 1.70 µs the result record goes to the Assize and to the recorder. -/
  | resultHandoff
  /-- R309: A stage does not complete by its deadline, so the result carries STAGE_OVERRUN and is not output. -/
  | stageDeadlineMiss (solve : Bool)
  /-- R340: A solver cluster runs its check pattern, and a mismatch counts an event. -/
  | clusterCheck (cluster : Nat) (ok : Bool)
  /-- R341: After an uncorrectable error, the model, tasks and contacts are rewritten to solver memory at a chain boundary. -/
  | solverMemoryRewrite
  /-- R335: Consecutive holds reach hold_limit and the device enters the safe state with cause 8. -/
  | holdLimitReached
  /-- R379: The Assize computes kinematics and velocity terms from the samples. -/
  | assizeFirstPart
  /-- R381: The Assize completes inverse dynamics and the five checks, passing or failing the result. -/
  | assizeCheck
  /-- R383: The Assize cannot finish by 0.08 µs, so the result fails. -/
  | assizeDeadlineMiss
  /-- R380: Each chain the Assize checks the CRC of its model and contact copies. -/
  | assizeCopyCheck (flips : List Nat)
  /-- R383: The Assize reloads its copies from hub memory at a chain boundary. -/
  | assizeCopyReload
  /-- R386: A watchdog window closes without a kick, which is a watchdog fault. -/
  | watchdogWindowClose (w : Nat)
  /-- R376: A pair's comparator finds a mismatch, halts the pair and asserts its FAULT output. -/
  | lockstepMismatch (pair : Pair)
  /-- R377: Two heartbeats are missing, and the silent pair is halted. -/
  | heartbeatLoss (pair : Pair)
  /-- R396: An E-stop channel becomes asserted after two low samples, which enters the safe state. -/
  | estopChannelAssert (ch : Pair)
  /-- R394: An E-stop channel becomes deasserted after two high samples. -/
  | estopChannelDeassert (ch : Pair)
  /-- R397: The channels differ for more than 100 links, and a discrepancy fault is latched. -/
  | estopDiscrepancy
  /-- R398: Both channels have been deasserted for 1,000 links, and the E-stop condition clears. -/
  | estopClear
  /-- R400: The safe state is decided: DAMP commands, fault outputs, the CAN broadcast and vector 1 follow. -/
  | safeStateEntry
  /-- R400: The damp period ends, and every slot carries TORQUE_OFF. -/
  | torqueOffPhaseStart
  /-- R402: At the next boundary the release takes effect, or is cancelled by a new cause. -/
  | safeReleaseEffect
  /-- R403: REFCLK deviates or stops, so the time base moves to the internal oscillator with cause 19. -/
  | clockFault
  /-- R403: A monitored rail is outside its window in two samples, which is cause 20. -/
  | supplyFault (x : RailSamples)
  /-- R407: The safety parameters are lost in RUN, which is cause 23. -/
  | safetyParamsLost
  /-- R459: A received frame is filtered and stored in a FIFO or dedicated buffer, or rejected. -/
  | canFrameReceive (k : Nat) (frame : CanFrame)
  /-- R465: At the start of arbitration the controller offers the winning pending buffer. -/
  | canArbitration (k : Nat)
  /-- R464: A frame is transmitted, and its CAN.SEND completes with the SOF TS. -/
  | canFrameTransmitted (k : Nat) (loopDelay : Option Nat)
  /-- R467: The controller enters bus-off and drives recessive. -/
  | canBusOff (k : Nat)
  /-- R467: The recovery sequence ends, the counters are 0 and pending buffers resume. -/
  | canBusOffRecovered (k : Nat)
  /-- R468: RXD stays dominant for 256 bit times, so stuck_dominant is set. -/
  | canStuckDominant (k : Nat)
  /-- R469: TXD would stay dominant beyond 32 bit times, so the controller is forced recessive and stopped. -/
  | canTxTimeout (k : Nat)
  /-- R454: A requested mode takes effect at bus idle, pending buffers are discarded, and CAN.MODE completes. -/
  | canModeChangeEffect (k : Nat)
  /-- R461: The controller switches filter banks at bus idle, and CAN.FILTERS completes. -/
  | canFilterBankSwitch (k : Nat)
  /-- R486: A pause of more than 100 ms inside a recovery command over CAN0 discards the command. -/
  | canRecoveryPauseTimeout
  /-- R510: Pending retirements are written to the alternate half of the wear record. -/
  | wearRecordWrite
  /-- R527: All compute dies are off, and PWR.STATE completes in RETAINED. -/
  | retainedIdleEntered
  /-- R527: The stacks are back in service, and PWR.STATE completes in ACTIVE. -/
  | retainedIdleLeft
  /-- R534: The post-trigger count ends, and the ring freezes. -/
  | recorderFreeze
  /-- R537: A recorded event is replayed in its shifted link in place of its live source. -/
  | replayEvent
  /-- R437: The PCIe link trains again after a hot reset or link down, and the host traffic that waited resumes. -/
  | hostLinkUp (width rate : Nat) (ptm : Bool)
  /-- R260: A CSI-2 port's clock and data lanes enter high-speed receive, and link_up is set. -/
  | csiPortLinkUp (port lanes : Nat)
  /-- R260: A CSI-2 port leaves high-speed receive, and link_up is cleared. -/
  | csiPortLinkDown (port : Nat)
  /-- R467: A controller detects a bus error while sending or receiving, sends an error frame and updates TEC and REC, which may change its error state. -/
  | canBusError (k : Nat) (err : CanError)
  /-- R468: After a stuck-dominant period, 11 consecutive recessive bits let the controller integrate again and start transmissions. -/
  | canIntegrateAgain (k : Nat)
  /-- R444: Data of a hub DMA read of host memory returns over PCIe, so a transfer such as MEM.COPY from the host can be written on and complete. -/
  | hostDmaReadCompletion (ctx tag : Nat) (data : List HostRun)
  /-- R480: An erase, program or read-back of the external xSPI flash ends, and the FW.PIECE, CFG.COMMIT or wear-record write that waited for it can proceed. -/
  | flashOperationDone (ok : Bool)
deriving DecidableEq, Repr

end Sys2Proof
end

