-- ==== Sys2Proof/Decode.lean ====
section
/-! DEFINITION. The table's words: spec/opcode_table.json gives bits to no row. -/

namespace Sys2Proof

/-- The command a word spells by the table's bits. Every row of the table has an empty field list and no
fixed bits, so a word spells none. -/
def decodeTableWord (_nbits _w : Nat) : Option Instr := none

end Sys2Proof
end

