-- ==== Sys2Proof/Config.lean ====
section
/-! DEFINITION. What an implementation fixes and the manual leaves open: constants without a body
(free values: no proof can see what they are). A fresh draw applies one of them to the counter
`State.free`; a value that depends on operands applies one to the operands. -/

namespace Sys2Proof

/-- The hardware revision of the part, read at DEV_REVISION and compared with hw_compat (R476). -/
opaque Config.hwRevision : Nat

/-- Byte `j` of the public identity block of logic die `i` in ring die order, or of DRAM die `i - 5`
(R492): contents written at manufacture. -/
opaque Config.identityByte : Nat → Nat → Byte

/-- The public identity block (R492), of which manufacture chose what the table does not fix: reserved bytes read 0
(R8), lot is ASCII, and the wafer is 1 to 25. -/
def Config.identityBlock (die j : Nat) : Byte :=
  if j = 0 then 0x55
  else if j = 1 then 0x57
  else if j = 2 then (if die = 0 then 2 else if die ≤ 4 then 1 else 3)
  else if j = 3 || j = 13 || 18 ≤ j then 0
  else if j ≤ 9 then BitVec.ofNat 8 ((Config.identityByte die j).toNat % 128)
  else if j = 10 then BitVec.ofNat 8 (1 + (Config.identityByte die j).toNat % 25)
  else Config.identityByte die j

/-- The length and the bytes of the certificate chain that manufacture wrote (R493). -/
opaque Config.certLength : Nat
opaque Config.certByte : Nat → Byte

/-- The certificate chain of the certificate block (R493): it stands from 0x220 of a block of 64 KiB (R475). -/
def Config.certChain : List Byte := (List.range (Config.certLength % 64993)).map Config.certByte

/-- The 448 production trim bytes of the certificate block (R493). -/
opaque Config.trimByte : Nat → Byte

/-- The device public key, 32 bytes (R494). -/
opaque Config.deviceKeyByte : Nat → Byte

/-- Byte `i` of the SHA-512 of a run of bytes: its computation is not in the manual. -/
opaque Config.sha512Byte : List Byte → Nat → Byte

/-- SHA-512 (R476, R482): 64 bytes. -/
def Config.sha512 (d : List Byte) : List Byte := (List.range 64).map (Config.sha512Byte d)

/-- Ed25519 verification under boot-ROM key `key_id` of message and signature (R476). -/
opaque Config.ed25519Ok : Nat → List Byte → List Byte → Bool

/-- The rollback floor that check 6 of R476 meets in RECOVERY, where neither a record nor defaults are in
force (R488). -/
opaque Config.romFloor : Nat

/-- Bytes of flash beyond the 256 MiB that every device has (R475). -/
opaque Config.extraFlash : Nat

/-- Byte `i` of the Ed25519 signature of the device key over a message. -/
opaque Config.deviceSignByte : List Byte → Nat → Byte

/-- The signature of R495: 64 bytes. -/
def Config.deviceSign (m : List Byte) : List Byte := (List.range 64).map (Config.deviceSignByte m)

/-- The byte that a location with unspecified content happens to hold (R156, R575): it depends on the
start and on the address. -/
opaque Config.unspecByte : Nat → Nat → Byte

/-- The fraction of a link, in time-base cycles, at which a step falls that the manual fixes no
instant for (R14). -/
opaque Config.freeCycle : Nat → Nat

/-- A fresh free number (the draw's place in the run, and which of its values). -/
opaque Config.freeNat : Nat → Nat → Nat

/-- The value of a vector result that the manual bounds or orders but does not fix (R107): operation
code, parameter bytes, input bit patterns. -/
opaque Config.vectorValue : Nat → List Byte → List Nat → Nat

/-- The bits of a NaN written to an FP32 place (R93 "NaN as computed"): the manual fixes that it is a NaN
and neither its sign nor its payload; the draw and which of its values. -/
opaque Config.nanBits : Nat → Nat → Nat

/-- The bits of a NaN that a matrix instruction writes to an FP32 output or keeps: a function of everything the
instruction works on (R92), and the element's place. -/
opaque Config.matrixNan : List Nat → Nat → Nat

/-- The fixed tree order of a row sum (R107): for a row length, which two partial sums each addition takes. -/
opaque Config.treePick : Nat → Nat → Nat

/-- How many words of the code region a UC64 instruction has after its first; the manual gives no encoding. -/
opaque Config.instrTail : Nat

/-- How many words a UC64 instruction occupies in the code region. -/
def Config.instrWords : Nat := Config.instrTail + 1

/-- The worst-case cycles of the front and the solve stage for a structure (R308): the structure is the
list of model bodies, tasks, contact points, iteration cap and refinement count. -/
opaque Config.wcetFront : List Nat → Nat
opaque Config.wcetSolve : List Nat → Nat

/-- The order of the additions of a sum of the dynamics engine or the Assize (R314, R324, R379), which the manual
does not give: formula, number of terms, step. -/
opaque Config.sumPick : Nat → Nat → Nat → Nat

/-- Whether the products of a formula's sums are added by fused steps. -/
opaque Config.fuses : Nat → Bool

/-- The accuracy of the engine's sine, cosine and arc tangent in units in the last place, which the manual does not
state, and the error of one of them within it: function, operands. -/
opaque Config.trigUlps : Nat
opaque Config.trigError : Nat → List Nat → Nat

/-- A weighted mean of the resize stage (R270 stage 5) whose FP32 operations do not all come out exact: the manual
gives no order of them. Mode, total weight and weights; the FP32 patterns of the values. -/
opaque Config.resized : List Nat → List Nat → Nat

end Sys2Proof
end

