-- ==== Sys2Proof/Machine/Numbers.lean ====
section
/-! DEFINITION. The number formats of the device (chapter 03): exact dyadic values, round to nearest even,
the conversions of R93 and R94 with their flags, and the CRCs of the manual. -/

namespace Sys2Proof.Machine

/-- A value of a floating-point format (R78): a finite one is (-1)^neg * m * 2^e, exactly. -/
inductive Fp where
  | nan
  | inf (neg : Bool)
  | fin (neg : Bool) (m : Nat) (e : Int)
deriving DecidableEq, Repr

def Fp.zero : Fp := .fin false 0 0
def Fp.one : Fp := .fin false 1 0

def Fp.isNan : Fp → Bool
  | .nan => true
  | _ => false

def Fp.isFinite : Fp → Bool
  | .fin _ _ _ => true
  | _ => false

def Fp.isNeg : Fp → Bool
  | .nan => false
  | .inf n => n
  | .fin n _ _ => n

/-- `m / 2^d`, to nearest with ties to even. -/
def rneShift (m d : Nat) : Nat :=
  let q := m / 2 ^ d
  let r := m % 2 ^ d
  if 2 * r > 2 ^ d then q + 1
  else if 2 * r = 2 ^ d then q + q % 2
  else q

/-- A magnitude m * 2^e rounded to a precision of `p` bits with smallest step 2^qmin: the rounded integer
and its exponent. -/
def roundMag (p : Nat) (qmin : Int) (m : Nat) (e : Int) : Nat × Int :=
  if m = 0 then (0, qmin)
  else
    let q := max (e + (Nat.log2 m + 1 : Nat) - (p : Int)) qmin
    if q ≤ e then (m * 2 ^ (e - q).toNat, q) else (rneShift m (q - e).toNat, q)

/-- The unsigned bit pattern of a rounded magnitude: exponent and mantissa fields in one number, which
grows past the largest finite pattern where the value is out of range. -/
def magBits (p : Nat) (qmin : Int) (m : Nat) (e : Int) : Nat :=
  let r := roundMag p qmin m e
  (r.2 - qmin).toNat * 2 ^ (p - 1) + r.1

/-- The value of a pattern of a format with infinities: `eb` exponent bits, precision `p` (R78, R79). -/
def decodeFp (eb p : Nat) (qmin : Int) (w : Nat) : Fp :=
  let m := w % 2 ^ (p - 1)
  let e := (w / 2 ^ (p - 1)) % 2 ^ eb
  let neg := (w / 2 ^ (p - 1 + eb)) % 2 = 1
  if e = 2 ^ eb - 1 then (if m = 0 then .inf neg else .nan)
  else if e = 0 then .fin neg m qmin
  else .fin neg (2 ^ (p - 1) + m) (qmin + (e : Int) - 1)

def decode32 (w : Nat) : Fp := decodeFp 8 24 (-149) w
def decodeBf16 (w : Nat) : Fp := decodeFp 8 8 (-133) w
def decodeE5M2 (w : Nat) : Fp := decodeFp 5 3 (-16) w

/-- E4M3 has no infinity; only e = 15, m = 7 is a NaN (R78). -/
def decodeE4M3 (w : Nat) : Fp :=
  let m := w % 8
  let e := (w / 8) % 16
  let neg := (w / 128) % 2 = 1
  if e = 15 ∧ m = 7 then .nan
  else if e = 0 then .fin neg m (-9)
  else .fin neg (8 + m) ((e : Int) - 10)

/-- The value of a UE5M3 code below 0xF8 (R80). -/
def decodeUE5M3 (w : Nat) : Fp :=
  let m := w % 8
  let e := (w / 8) % 32
  if e = 0 then .fin false m (-17) else .fin false (8 + m) ((e : Int) - 18)

/-- The rounding of one step to FP32 (rne32 of R92). -/
def rne32 : Fp → Fp
  | .fin neg m e =>
    if magBits 24 (-149) m e ≥ 0x7F800000 then .inf neg
    else .fin neg (roundMag 24 (-149) m e).1 (roundMag 24 (-149) m e).2
  | x => x

/-- The FP32 pattern of a value; the pattern of a NaN is the argument. -/
def encode32 (nanWord : Nat) : Fp → Nat
  | .nan => nanWord
  | .inf neg => bit01 neg * 2 ^ 31 + 0x7F800000
  | .fin neg m e => bit01 neg * 2 ^ 31 + min (magBits 24 (-149) m e) 0x7F800000

/-- A free NaN pattern (R93): sign and payload free, exponent all ones, payload not zero. -/
def nanPattern (draw i : Nat) : Nat :=
  (Config.nanBits draw (2 * i) % 2) * 2 ^ 31 + 0x7F800000 + 1 + Config.nanBits draw (2 * i + 1) % (2 ^ 23 - 1)

/-- Sign and magnitude of a signed multiple of a power of two. -/
def ofInt (v : Int) (e : Int) : Fp := .fin (v < 0) v.natAbs e

/-- Signed integer of a finite value's numerator. -/
def sgn (neg : Bool) (m : Nat) : Int := if neg then -(m : Int) else m

/-- Exact sum, before rounding (R92). A sum of exact zeros keeps the sign when both agree. -/
def addExact : Fp → Fp → Fp
  | .nan, _ => .nan
  | _, .nan => .nan
  | .inf a, .inf b => if a = b then .inf a else .nan
  | .inf a, _ => .inf a
  | _, .inf b => .inf b
  | .fin na ma ea, .fin nb mb eb =>
    let e := min ea eb
    let v := sgn na ma * 2 ^ (ea - e).toNat + sgn nb mb * 2 ^ (eb - e).toNat
    if v = 0 then .fin (na && nb) 0 0 else ofInt v e

/-- Exact product, before rounding (R89). -/
def mulExact : Fp → Fp → Fp
  | .nan, _ => .nan
  | _, .nan => .nan
  | .inf a, .inf b => .inf (a != b)
  | .inf a, .fin b m _ => if m = 0 then .nan else .inf (a != b)
  | .fin a m _, .inf b => if m = 0 then .nan else .inf (a != b)
  | .fin na ma ea, .fin nb mb eb => .fin (na != nb) (ma * mb) (ea + eb)

def Fp.neg : Fp → Fp
  | .nan => .nan
  | .inf a => .inf (!a)
  | .fin a m e => .fin (!a) m e

def add32 (a b : Fp) : Fp := rne32 (addExact a b)
def mul32 (a b : Fp) : Fp := rne32 (mulExact a b)
def sub32 (a b : Fp) : Fp := rne32 (addExact a b.neg)
/-- a * b + c with one rounding. -/
def fma32 (a b c : Fp) : Fp := rne32 (addExact (mulExact a b) c)

/-- Quotient to nearest even: enough quotient bits and a sticky bit stand in for the exact quotient. -/
def div32 : Fp → Fp → Fp
  | .nan, _ => .nan
  | _, .nan => .nan
  | .inf _, .inf _ => .nan
  | .inf a, .fin b _ _ => .inf (a != b)
  | .fin a _ _, .inf b => .fin (a != b) 0 0
  | .fin na ma ea, .fin nb mb eb =>
    if mb = 0 then (if ma = 0 then .nan else .inf (na != nb))
    else
      let k := 64 + Nat.log2 mb
      let n := ma * 2 ^ k
      rne32 (.fin (na != nb) (2 * (n / mb) + (if n % mb = 0 then 0 else 1)) (ea - eb - k - 1))

/-- A value within `n` units in the last place of an exact one, the free number saying which (R107). -/
def nearUlp (n draw : Nat) (x : Fp) : Fp :=
  match x, rne32 x with
  | .fin neg mx ex, .fin _ m q =>
    let c := m + draw % (2 * n + 1) - n
    let e := min q ex
    let off := ((c : Int) * 2 ^ (q - e).toNat - (mx : Int) * 2 ^ (ex - e).toNat).natAbs
    if off ≤ n * 2 ^ (q - e).toNat then rne32 (.fin neg c q) else rne32 x
  | _, y => y

/-- The integer square root. -/
def isqrt (n : Nat) : Nat :=
  (List.range (Nat.log2 n / 2 + 1)).reverse.foldl (fun r i => if (r + 2 ^ i) ^ 2 ≤ n then r + 2 ^ i else r) 0

/-- 1 / x of a finite value other than 0, to more than 60 bits. -/
def recipExact (neg : Bool) (m : Nat) (e : Int) : Fp :=
  let k := 64 + Nat.log2 m
  .fin neg (2 * (2 ^ k / m) + (if 2 ^ k % m = 0 then 0 else 1)) (-e - k - 1)

/-- 1 / sqrt x of a finite value above 0, to more than 60 bits. -/
def rsqrtExact (m : Nat) (e : Int) : Fp :=
  let m' := if e % 2 = 0 then m else 2 * m
  let e' := if e % 2 = 0 then e else e - 1
  let k := 64 + Nat.log2 m'
  let r := isqrt (2 ^ (2 * k) / m')
  .fin false (2 * r + (if r * r * m' = 2 ^ (2 * k) then 0 else 1)) (-(e' / 2) - k - 1)

/-- 2 to the power of a fraction of 64 bits, in units of 2^-80: one square root more of 2 for each bit. -/
def pow2Frac (f : Nat) : Nat :=
  ((List.range 64).foldl (fun (st : Nat × Nat) i =>
    let c := isqrt (st.2 * 2 ^ 80)
    (if f / 2 ^ (63 - i) % 2 = 1 then st.1 * c / 2 ^ 80 else st.1, c)) (2 ^ 80, 2 * 2 ^ 80)).1

/-- 2 to the power of a finite value, to more than 60 bits; far outside FP32, a value as far outside. -/
def pow2Exact (neg : Bool) (m : Nat) (e : Int) : Fp :=
  let d := (-e).toNat
  let v := sgn neg (m * 2 ^ e.toNat)
  let k := max (-400) (min 400 (v / 2 ^ d))
  .fin false (pow2Frac ((v % 2 ^ d).toNat * 2 ^ 64 / 2 ^ d)) (k - 80)

/-- Order of two values that are not NaN, as -1, 0, 1; zeros of both signs are equal. -/
def cmpFp : Fp → Fp → Int
  | .inf a, .inf b => if a = b then 0 else if a then -1 else 1
  | .inf a, _ => if a then -1 else 1
  | _, .inf b => if b then 1 else -1
  | .fin na ma ea, .fin nb mb eb =>
    let e := min ea eb
    let a := sgn na ma * 2 ^ (ea - e).toNat
    let b := sgn nb mb * 2 ^ (eb - e).toNat
    if a < b then -1 else if a = b then 0 else 1
  | .nan, _ => 0
  | _, .nan => 0

def ltFp (a b : Fp) : Bool := !a.isNan && !b.isNan && cmpFp a b = -1
def leFp (a b : Fp) : Bool := !a.isNan && !b.isNan && cmpFp a b ≤ 0

/-- The magnitude of a value. -/
def absFp : Fp → Fp
  | .nan => .nan
  | .inf _ => .inf false
  | .fin _ m e => .fin false m e

/-- The nearest integer, ties to even (R93: 2.5 becomes 2, -3.5 becomes -4). -/
def toIntRne : Bool → Nat → Int → Int
  | neg, m, e =>
    let v := if 0 ≤ e then m * 2 ^ e.toNat else rneShift m (-e).toNat
    sgn neg v

/-- Flag bits of the arithmetic flag word (R95). -/
def flagSat : Nat := 1
def flagNan : Nat := 2
def flagInf : Nat := 4
def flagScaleReserved : Nat := 8

/-- An integer output of R93 and R94: `lo` to `hi` after the zero point is added, encoded in `w` bits. -/
def convertInt (lo hi zp : Int) (w : Nat) : Fp → Nat × Nat
  | .nan => ((BitVec.ofInt w zp).toNat, flagNan)
  | .inf neg => ((BitVec.ofInt w (if neg then lo else hi)).toNat, flagSat)
  | .fin neg m e =>
    let v := toIntRne neg m e + zp
    if v < lo then ((BitVec.ofInt w lo).toNat, flagSat)
    else if v > hi then ((BitVec.ofInt w hi).toNat, flagSat)
    else ((BitVec.ofInt w v).toNat, 0)

/-- An FP8 output of R93: saturates at the largest finite pattern. -/
def convertFp8 (p : Nat) (qmin : Int) (top nanCode : Nat) : Fp → Nat × Nat
  | .nan => (nanCode, flagNan)
  | .inf neg => (bit01 neg * 128 + top, flagSat)
  | .fin neg m e =>
    let b := magBits p qmin m e
    if b > top then (bit01 neg * 128 + top, flagSat) else (bit01 neg * 128 + b, 0)

/-- The BF16 output of R93. -/
def convertBf16 : Fp → Nat × Nat
  | .nan => (0x7FC0, flagNan)
  | .inf neg => (bit01 neg * 2 ^ 15 + 0x7F80, flagInf)
  | .fin neg m e =>
    let b := magBits 8 (-133) m e
    if b ≥ 0x7F80 then (bit01 neg * 2 ^ 15 + 0x7F80, flagInf) else (bit01 neg * 2 ^ 15 + b, 0)

/-- The FP32 output of R93. -/
def convert32 (nanWord : Nat) : Fp → Nat × Nat
  | .nan => (nanWord, flagNan)
  | .inf neg => (bit01 neg * 2 ^ 31 + 0x7F800000, flagInf)
  | .fin neg m e =>
    let b := min (magBits 24 (-149) m e) 0x7F800000
    (bit01 neg * 2 ^ 31 + b, if b = 0x7F800000 then flagInf else 0)

/-- Conversion to an output format (R71, R93, R94): format code, zero point, NaN pattern, value. -/
def convertTo (fmt zp nanWord : Nat) (z : Fp) : Nat × Nat :=
  if fmt = 0x1 then convertInt (-8) 7 0 4 z
  else if fmt = 0x2 then convertInt 0 15 zp 4 z
  else if fmt = 0x3 then convertInt (-128) 127 0 8 z
  else if fmt = 0x4 then convertInt 0 255 zp 8 z
  else if fmt = 0x5 then convertFp8 4 (-9) 0x7E 0x7F z
  else if fmt = 0x6 then convertFp8 3 (-16) 0x7B 0x7E z
  else if fmt = 0x7 then convertBf16 z
  else convert32 nanWord z

/-- The operand pairs of the matrix unit (R81): mode, weight format, activation format. -/
def pairOk (mode w a : Nat) : Bool :=
  match mode with
  | 0 => (w = 1 || w = 2) && (a = 1 || a = 2)
  | 1 => w ≤ 2 && 3 ≤ a && a ≤ 6
  | 2 => (w = 3 || w = 4) && (a = 3 || a = 4)
  | 3 => (w = 5 || w = 6) && (a = 5 || a = 6)
  | 4 => w = 7 && a = 7
  | _ => false

/-- Width in bits of a format (R71). -/
def fmtBits (fmt : Nat) : Nat :=
  if fmt ≤ 2 then 4 else if fmt ≤ 6 then 8 else if fmt = 7 then 16 else 32

/-- The value of a floating-point element of format 5 to 8. -/
def decodeFmt (fmt w : Nat) : Fp :=
  if fmt = 5 then decodeE4M3 w else if fmt = 6 then decodeE5M2 w
  else if fmt = 7 then decodeBf16 w else decode32 w

/-- The operand value of an integer element (R71, R73): format, zero point, grid, code. -/
def intOperand (fmt zp : Nat) (grid : List Int) (w : Nat) : Int :=
  if fmt = 0 then grid.getD w 0
  else if fmt = 1 then signedOf 4 w
  else if fmt = 2 then (w : Int) - zp
  else if fmt = 3 then signedOf 8 w
  else (w : Int) - zp

/-- Element `i` of a packed row of elements of `bits` bits (R72): two 4-bit codes share a byte, the lower
index in bits [3:0]. -/
def elemAt (bits : Nat) (bs : List Byte) (i : Nat) : Nat :=
  if bits = 4 then ((fieldAt bs (i / 2) 1) / (if i % 2 = 0 then 1 else 16)) % 16
  else fieldAt bs (i * (bits / 8)) (bits / 8)

/-- Bytes of a list of elements packed the same way. -/
def packElems (bits : Nat) : List Nat → List Byte
  | [] => []
  | [a] => if bits = 4 then [BitVec.ofNat 8 (a % 16)] else leBytes (bits / 8) a
  | a :: b :: r =>
    if bits = 4 then BitVec.ofNat 8 (a % 16 + 16 * (b % 16)) :: packElems bits r
    else leBytes (bits / 8) a ++ packElems bits (b :: r)

/-- An FP32 bit pattern is finite. -/
def finite32 (w : Nat) : Bool := (decode32 w).isFinite

/-- An FP32 bit pattern is finite and above 0. -/
def positive32 (w : Nat) : Bool := finite32 w && ltFp .zero (decode32 w)

/-- An FP32 bit pattern is finite and at least 0. -/
def nonneg32 (w : Nat) : Bool := finite32 w && leFp .zero (decode32 w)

/-- One bit of a reflected CRC. -/
def crcBit (poly r : Nat) : Nat := if r % 2 = 1 then (r / 2) ^^^ poly else r / 2

/-- One byte of a reflected CRC. -/
def crcByte (poly r : Nat) (b : Byte) : Nat :=
  (List.range 8).foldl (fun x _ => crcBit poly x) (r ^^^ b.toNat)

/-- CRC-32C over bytes: reflected polynomial 0x82F63B78, register all ones, complemented at the end
(PRESUMED 12: the manual names CRC-32C and does not write the polynomial out). -/
def crc32c (bs : List Byte) : Nat :=
  (bs.foldl (crcByte 0x82F63B78) 0xFFFFFFFF) ^^^ 0xFFFFFFFF

end Sys2Proof.Machine
end

