-- ==== Sys2Proof/Machine/State.lean ====
section
/-! DEFINITION. The state of the block: plain data, one structure per block of the device, with the
reset value of each field as its default; the closed reasons for a stop; and `State.reset`. Counts and
indexes are `Nat` with the width the manual gives in their docstring. -/

namespace Sys2Proof.Machine

/-- Faults of the model. No row of this hardware stops with a fault: the block reports faults in its own
registers (R547, R399). `never` is raised by no meaning; it keeps the type inhabited (safe). -/
inductive Fault where
  | never
deriving DecidableEq, Repr

/-- Refusals of the model: a row without a meaning, by the row's mnemonic (safe: the run stops). -/
inductive Refusal where
  | notModelled (mnemonic : String)
deriving DecidableEq, Repr

/-- Operating modes (R3), with `start` for a start in progress (R546). -/
inductive Mode where
  | start | config | run | degraded | test | recovery | replay
deriving DecidableEq, Repr

/-- Level of an output ball (R568). -/
inductive Pin where
  | low | high | hiZ
deriving DecidableEq, Repr

/-- Output balls of the hub. -/
structure Pins where
  syncOut : Pin := .low
  camTrig : List Pin := List.replicate 16 .low
  faultA : Pin := .hiZ
  faultB : Pin := .hiZ
  safeState : Pin := .hiZ
  vcoreSel : List Nat := [0, 0, 0, 0]
deriving DecidableEq, Repr

/-- A DEV.MODE request for RUN that waits for its boundary or edge (R21 to R23). -/
structure RunReq where
  ring : Nat := 0
  tag : Nat := 0
  link : Nat := 0
  sync : Bool := false
  previous : Nat := 0
deriving DecidableEq, Repr

/-- The time base (chapter 01). -/
structure TimeBase where
  /-- LINK_COUNT, 64 bits (R10) -/
  link : Nat := 0
  /-- REFCLK cycles of the link in progress (R9, R25) -/
  cycles : Nat := 200
  /-- mile base A, 64 bits (R18, R19) -/
  mile : Nat := 0
  dieLink : List Nat := [0, 0, 0, 0]
  /-- the LINK_COUNT message of this chain is on its way to the die (R12) -/
  countDue : List Bool := [false, false, false, false]
  syncCtrl : Nat := 0x8
  phaseErr : Int := 0
  stray : Nat := 0
  syncLost : Bool := false
  edgeMissed : Nat := 0
  edgeSeen : Bool := false
  syncFree : Bool := false
  syncUsed : Bool := false
  camCfg : List Nat := List.replicate 16 0x4
  camTiming : List Nat := List.replicate 16 0x3E800000
  camHeld : Bool := false
  runReq : Option RunReq := none
  ptmInterval : Nat := 64
  ptmFailed : Bool := false
  ptmBusy : Bool := false
  ptmActive : Bool := false
  ptmHost : Nat := 0
  ptmTs : Nat := 0
  ptmMiles : Nat := 0
  /-- a PTM-capable path to the root exists (R448) -/
  ptmPath : Bool := false
  clockInternal : Bool := false
deriving DecidableEq, Repr

/-- The DEV block (chapter 23). -/
structure Dev where
  mode : Mode := .start
  inReset : Bool := true
  fwReady : Bool := false
  package : Nat := 0
  faultCause : Nat := 0
  faultLink : Nat := 0
  bootsel : Nat := 0
deriving DecidableEq, Repr

/-- A completion that waits to be written (R418, R428). `seq` is the place of its command in its ring;
`settles` says that writing it settles that command (R424); `release` marks a release completion of R364,
which can be dropped. -/
structure Completion where
  seq : Nat := 0
  tag : Nat := 0
  status : Nat := 0
  opcode : Nat := 0
  res0 : Nat := 0
  res1 : Nat := 0
  res2 : Nat := 0
  settles : Bool := true
  release : Bool := false
deriving DecidableEq, Repr

/-- Where a taken command stands (R423, R424). -/
inductive SlotState where
  | waiting | started | completing
deriving DecidableEq, Repr

/-- A command taken from a ring and not settled (R417). -/
structure Slot where
  cmd : Cmd := {}
  /-- place in its ring, counted from reset -/
  seq : Nat := 0
  state : SlotState := .waiting
deriving DecidableEq, Repr

/-- A client context (R411 to R420, R368). -/
structure Ctx where
  isOpen : Bool := false
  sqAddr : Nat := 0
  cqAddr : Nat := 0
  sqLog : Nat := 0
  cqLog : Nat := 0
  vector : Nat := 0xFF
  sqHead : Nat := 0
  sqTail : Nat := 0
  cqHead : Nat := 0
  cqTail : Nat := 0
  phase : Bool := true
  stalled : Bool := false
  dbError : Bool := false
  dropped : Nat := 0
  slots : List Slot := []
  waiting : List Completion := []
  msgSent : Bool := false
  accepted : Nat := 0
  ended : Nat := 0
  closing : Bool := false
  /-- commands taken so far: the next command's place -/
  nextSeq : Nat := 0
  /-- completions of commands before this place are discarded (R414, R552) -/
  muteBelow : Nat := 0
deriving DecidableEq, Repr

/-- What a started command waits for before it completes. -/
inductive Wait where
  | windowDrain (slot : Nat)
  | copyRead (src dst len : Nat)
  | contextClose (ctx : Nat)
  /-- SCH.ARM, accepted in a link; whether its boundary has been decided (R357) -/
  | arm (link : Nat) (decided : Bool)
  /-- lines still in training, lines that trained, counts of nodes found (4 bits a line), any failure -/
  | train (waiting trained found : Nat) (failed : Bool)
  | canSend (k buf : Nat)
  | canMode (k : Nat)
  | canFilters (k : Nat)
  | seqFree (seq : Nat)
  | swapOut (seq : Nat)
  | swapIn (seq : Nat)
  | compact (pool : Nat)
  | safeRelease
  | flash
  | recFreeze
  | recExport (addr bytes : Nat) (flash : Bool)
  | replay
  | powerEnter
  | powerLeave
  | runEntry
deriving DecidableEq, Repr

/-- A command that has started and has not completed. -/
structure Open where
  cmd : Cmd := {}
  wait : Wait := .safeRelease
deriving DecidableEq, Repr

/-- An inbound peer window (R67 to R70). -/
structure Window where
  isOpen : Bool := false
  base : Nat := 0
  size : Nat := 0
  read : Bool := false
  write : Bool := false
  mask : Nat := 0
  inFlight : Nat := 0
  closing : Bool := false
deriving DecidableEq, Repr

/-- An allocation of MEM.ALLOC (R413, R433), or a region hub firmware took for itself. -/
structure Alloc where
  base : Nat := 0
  size : Nat := 0
  ctx : Nat := 0
  firmware : Bool := false
deriving DecidableEq, Repr

/-- The reply on the bus to the latest host read (R438, R439, R440). -/
structure BusReply where
  data : List Byte := []
  poisoned : Bool := false
  unsupported : Bool := false
deriving DecidableEq, Repr

/-- A request of a hub DMA engine on the host link (R436, R444). -/
structure HostReq where
  engine : Nat := 0
  write : Bool := false
  addr : Nat := 0
  len : Nat := 0
deriving DecidableEq, Repr

/-- The host link (chapters 16 and 17). -/
structure HostLink where
  /-- requests that wait for a slot of the link, oldest first, the next engine of the round robin, and the requests
  granted by the latest slots (R445) -/
  reqs : List HostReq := []
  reqTurn : Nat := 0
  granted : List HostReq := []
  linkUp : Bool := false
  width : Nat := 0
  rate : Nat := 0
  linkDowns : Nat := 0
  bar2Base : Nat := 0
  bar2Refused : Nat := 0
  events : Nat := 0
  /-- MSI-X table, 64 vectors of 4 words; the control word masks the vector at reset (PRESUMED 8) -/
  msix : List Nat := (List.replicate 64 [0, 0, 0, 1]).flatten
  pba : Nat := 0
  sent : List Nat := []
  ctx0Sq : Nat := 0
  ctx0Cq : Nat := 0
  ctx0Cfg : Nat := 0x00FF0000
  ctxs : List Ctx := List.replicate 256 {}
  /-- the commands of the CAN0 exchange in RECOVERY (R486) -/
  canCtx : Ctx := {}
  rr : Nat := 0
  opens : List Open := []
  latches : List (Nat × Nat × Nat) := []
  bus : BusReply := {}
  windows : List Window := List.replicate 64 {}
  allocs : List Alloc := []
deriving DecidableEq, Repr

/-- Memory by 48-bit DPA (R60). `cells` is sorted by address, without an entry equal to the byte its
address reads as when unlisted. `poison` lists poisoned DRAM granules by base address (R159) and
`checkPat` those of them written with the reserved check pattern (R168). `badParity` lists scratchpad
bytes with bad parity by DPA (R144). -/
structure Memory where
  cells : List Host.Cell := []
  poison : List Nat := []
  checkPat : List Nat := []
  badParity : List Nat := []
deriving DecidableEq, Repr

/-- One direction of a ring segment: sender side and receiver side (R49 to R59). -/
structure SegDir where
  up : Bool := false
  narrow : Bool := false
  sparesLeft : Nat := 8
  retired : List Nat := []
  scanDue : Bool := false
  txSeq : Nat := 0
  rxSeq : Nat := 0
  replay : List Flit := []
  /-- credits the sender holds, per virtual channel (R49) -/
  credits : List Nat := [16, 64, 128, 16]
  /-- receive buffers freed and not yet returned as credits -/
  owed : List Nat := [0, 0, 0, 0]
  tokens : Nat := 64
  /-- flit slots since the bucket's latest token (R50) -/
  tokenSlots : Nat := 0
  /-- flit slots of the link in progress that have gone by (R50) -/
  slots : Nat := 0
  /-- the VC0 flit at the head has met an empty bucket (R51) -/
  vc0Waits : Bool := false
  deficits : List Nat := [0, 0, 0]
  sendQ : List (List Flit) := [[], [], [], []]
  /-- a forwarded packet has begun to queue on the channel and its last flit has not arrived (R40, R45) -/
  partWay : List Bool := [false, false, false, false]
  /-- flits of the sending die's own packets that wait for the end of such a packet (R45) -/
  heldQ : List (List Flit) := [[], [], [], []]
  recvQ : List (List Flit) := [[], [], [], []]
  /-- flits sent and not yet received, oldest first -/
  wire : List Flit := []
  /-- the sequence number that the latest NAKs named, and how many in a row (R59) -/
  nakSeq : Option Nat := none
  nakRun : Nat := 0
  /-- the receiver's latest answer: a NAK, and the sequence number it names (R55) -/
  answer : Option (Bool × Nat) := none
deriving DecidableEq, Repr

/-- A ring segment (R38, R59; DEV_SEG_STATUS, DEV_SEG_COUNTS). -/
structure Segment where
  fwd : SegDir := {}
  rev : SegDir := {}
  retraining : Bool := false
  retrains : Nat := 0
  crcErrors : Nat := 0
  vc0Over : Nat := 0
deriving DecidableEq, Repr

/-- A ring packet as delivered to its die (R44). -/
structure RingPacket where
  kind : Nat := 0
  desc : Desc := {}
  data : List Byte := []
  poison : Bool := false
deriving DecidableEq, Repr

/-- A P-link (R64, R65, R69; DEV_PLINK_STATUS). -/
structure PLink where
  trained : Bool := false
  conflict : Bool := false
  width : Nat := 0
  far : Nat := 0
  refused : Nat := 0
deriving DecidableEq, Repr

/-- The package ring and peer ports (chapter 02): the segments, and the packets that reached their target
latest, kind by kind. -/
structure Ring where
  segs : List Segment := List.replicate 5 {}
  /-- the latest response or peer answer that the device has made -/
  sent : Option RingPacket := none
  /-- the latest responses and the latest message delivered (R44, R46) -/
  readRsp : Option RingPacket := none
  writeAck : Option Desc := none
  message : Option Desc := none
  plinks : List PLink := List.replicate 2 {}
  /-- requests that left for other packages, oldest first (R66, R68) -/
  peerOut : List RingPacket := []
deriving DecidableEq, Repr

/-- The register block of a tile sequencer (R98). -/
structure RegBlock where
  g : List (BitVec 64) := List.replicate 32 0
  pc : Nat := 0
  flags : Nat := 0
  grids : List (List Int) := List.replicate 4 [-127, -96, -75, -58, -44, -32, -21, -10, 0, 10, 21, 32, 44, 58, 75, 96]
  sems : List Nat := List.replicate 16 0
  ranks : List Nat := List.replicate 64 0xFF
  live : List (Nat × Nat) := List.replicate 16 (0, 0)
  tiles : Nat := 0
  reruns : Nat := 0
deriving DecidableEq, Repr

/-- A job's name: its context and the tag of its JOB.SUBMIT (R431). -/
structure JobKey where
  ctx : Nat := 0
  tag : Nat := 0
deriving DecidableEq, Repr

/-- A matrix instruction as issued (R101, R104): descriptor bytes read at issue, operand and output word addresses,
shape, and the grid tables as they stood at issue (R77). `seen` holds its operand and side-table bytes as it entered
its unit and `early` the byte ranges that units of the core had yet to write then, by which it is known which outputs
R87 and R103 leave unspecified. -/
structure MatrixOp where
  desc : List Byte := []
  act : Nat := 0
  wt : Nat := 0
  out : Nat := 0
  m : Nat := 0
  n : Nat := 0
  grids : List (List Int) := []
  seen : List (List Byte) := []
  early : List (Nat × Nat) := []
deriving DecidableEq, Repr

/-- A vector instruction as issued (R101, R106), with the same record of its inputs; `param` is its parameter block
as it was checked. -/
structure VectorOp where
  desc : List Byte := []
  param : List Byte := []
  seen : List (List Byte) := []
  early : List (Nat × Nat) := []
deriving DecidableEq, Repr

/-- A DMA descriptor in its queue (R109, R110), with the source bytes of its runs as it came to the head of its
channel: what of them is overwritten before it completes is unspecified (R103). -/
structure DmaOp where
  desc : List Byte := []
  seen : Option (List (List Byte)) := none
deriving DecidableEq, Repr

/-- What the sequencer of a core waits for (R101, R102, R109). -/
inductive CoreWait where
  | none
  | dma (mask : Nat)
  | units (mask : Nat)
  | sem (sem count : Nat)
  | issueMatrix (op : MatrixOp)
  | issueVector (op : VectorOp)
  | issueDma (channel : Nat) (desc : List Byte)
  | mark (halt : Bool)
deriving DecidableEq, Repr

/-- What a physical core is doing. -/
inductive CoreRun where
  | idle
  | running
  | saving
  | saved
  | restoring
  | halted
  | selftest
deriving DecidableEq, Repr

/-- A physical compute core with its scratchpad's bank state (chapters 04 and 05). -/
structure Core where
  reg : RegBlock := {}
  snap : RegBlock := {}
  run : CoreRun := .idle
  job : Option JobKey := none
  rank : Nat := 0
  tileStart : Nat := 0
  stopReq : Bool := false
  wait : CoreWait := .none
  matrix : List MatrixOp := []
  vector : List VectorOp := []
  dma : List (List DmaOp) := [[], [], [], []]
  sigs : List (Nat × Nat) := []
  readers : List Nat := []
  held : Option (Nat × Nat × List Nat) := none
  /-- (cause, pc, TS) of the latest tile fault reported (R119) -/
  fault : Option (Nat × Nat × Nat) := none
  retired : Bool := false
  spareUsed : Bool := false
  retiredA : Nat := 0x7F
  retiredB : Nat := 0x7F
  sparesLeft : Nat := 2
  migrating : Option Nat := none
  copyDone : Bool := false
  parityEvents : Nat := 0
  lastBank : Nat := 0
  /-- next vector of the suite (R369) -/
  testVector : Nat := 0
  /-- matrix and vector domains switched on (R514) -/
  unitsOn : Bool := false
deriving DecidableEq, Repr

/-- The compute cores: 18 physical cores per die, die after die, and the map of the 64 logical cores
(R130, R131): `some p` the physical core of the same die, `none` absent. -/
structure Cores where
  phys : List Core := List.replicate 72 {}
  map : List (Option Nat) := (List.replicate 4 ((List.range 16).map some)).flatten
deriving DecidableEq, Repr

/-- A row remap (R167, R168): its copy runs, then its table entry is valid; neither once a later remap of the
same row took its place. -/
structure Remap where
  /-- the row as a wear-record entry (R508) -/
  row : WearEntry := {}
  spare : Nat := 0
  copying : Bool := true
  valid : Bool := false
deriving DecidableEq, Repr

/-- The DRAM controller of one compute die and its stack (chapter 06), with the die's condition
(CD_STATUS). -/
structure Dram where
  inService : Bool := false
  fwLoaded : Bool := false
  powered : Bool := false
  tbFault : Bool := false
  trained : Bool := false
  tripped : Bool := false
  /-- the stack does not answer until the next start: tripped, or its die out of service (R173, R473, R522) -/
  dead : Bool := false
  selfRefresh : Bool := false
  /-- 0 below 85, 1 below 98, 2 below 101, 3 below 105 degrees (R172) -/
  band : Nat := 0
  nextBand : Nat := 0
  temp : Nat := 0
  remaps : List Remap := []
  withdrawn : List Nat := []
  /-- lanes whose place a spare has taken: channel and lane (R164) -/
  lanesRetired : List (Nat × Nat) := []
  scanDue : List Nat := []
  narrow : List Nat := []
  retries : Nat := 0
  corrected : Nat := 0
  uncorrected : Nat := 0
  lastUe : Nat := 0
  scrub : Nat := 0
  p0Mask : Nat := 0
deriving DecidableEq, Repr

/-- A free list: the numbers below `bound` that are not in `used`, which rises strictly. -/
structure FreeList where
  bound : Nat := 0
  used : List Nat := []
deriving DecidableEq, Repr

/-- A KV pool on one die (R205, R208). -/
structure PoolDie where
  base : Nat := 0
  firstEntry : Nat := 0
  frames : FreeList := {}
  entries : FreeList := {}
deriving DecidableEq, Repr

/-- A KV pool (R203). -/
structure Pool where
  id : Nat := 0
  fmt : Nat := 0
  dieMask : Nat := 0
  heads : Nat := 0
  hd16 : Nat := 0
  frameKib : Nat := 0
  layers : Nat := 0
  framesPerDie : Nat := 0
  entriesPerDie : Nat := 0
  dies : List PoolDie := [{}, {}, {}, {}]
deriving DecidableEq, Repr

/-- States of a sequence (R231). -/
inductive SeqState where
  | active | suspending | suspended | resuming
deriving DecidableEq, Repr

/-- A KV sequence (R215). -/
structure KvSeq where
  id : Nat := 0
  ctx : Nat := 0
  pool : Nat := 0
  cls : Nat := 0
  priority : Nat := 0
  maxTokens : Nat := 0
  length : Nat := 0
  admitted : Nat := 0
  state : SeqState := .active
  bt : List Nat := [0, 0, 0, 0]
  freeing : Bool := false
deriving DecidableEq, Repr

/-- A swap transfer in progress: frame index, direction, swap unit, retries (R446, R447). -/
structure Xfer where
  index : Nat := 0
  out : Bool := true
  unit : Nat := 0
  retries : Nat := 0
  failed : Bool := false
  /-- link of the latest failed read (R447) -/
  failedAt : Nat := 0
deriving DecidableEq, Repr

/-- A compaction in progress (R233, R234): failed tries, frames moved. -/
structure Compaction where
  pool : Nat := 0
  target : Nat := 0
  /-- per frame index that failed: its tries, and the link of the latest -/
  tries : List (Nat × Nat × Nat) := []
  moved : Nat := 0
deriving DecidableEq, Repr

/-- The KV manager (chapter 08). The frame tables themselves lie in memory (R208). -/
structure Kv where
  agentReady : List Bool := [false, false, false, false]
  pools : List Pool := []
  seqs : List KvSeq := []
  /-- swap area: host DPA and size in 1 KiB units (R232) -/
  area : Option (Nat × Nat) := none
  swapUnits : FreeList := {}
  xfers : List Xfer := []
  compaction : Option Compaction := none
  /-- first and one past the last entry of each die's table that no pool holds (R208) -/
  entriesLo : List Nat := [0, 0, 0, 0]
  entriesHi : List Nat := [2097152, 2097152, 2097152, 2097152]
  /-- what the frame-table agents answered latest: an entry, or none for a failure (R211) -/
  reply : Option Nat := none
  /-- hub DMA engines with the frames whose reader count their transfers have raised (R213) -/
  engineReads : List (Nat × Nat) := []
  cow : List Nat := [0, 0, 0, 0]
  moves : List Nat := [0, 0, 0, 0]
deriving DecidableEq, Repr

/-- A row event (R348). -/
structure RowEvent where
  offset : Nat := 0
  kind : Nat := 0
  partition : Nat := 0
  releaseId : Nat := 0
  length : Nat := 0
  reserved : Nat := 0
deriving DecidableEq, Repr

/-- A row of the cyclic table (R348). -/
structure TableRow where
  masks : List Nat := List.replicate 16 0
  events : List RowEvent := List.replicate 8 {}
deriving DecidableEq, Repr

/-- A cyclic table (R347): header bytes as loaded, identity and rows. -/
structure Table where
  header : List Byte := []
  rowBytes : List Byte := []
  id : Nat := 0
  rows : List TableRow := []
deriving DecidableEq, Repr

/-- Shadow states (R355). -/
inductive ShadowState where
  | empty | part | valid | invalid
deriving DecidableEq, Repr

/-- Job states (R367). -/
inductive JobState where
  | queued | running | stopping | preempted | idle | ended
deriving DecidableEq, Repr

/-- A KV binding record (R218). -/
structure Binding where
  seq : Nat := 0
  flags : Nat := 0
  writeStart : Nat := 0
  writeCount : Nat := 0
  wlist : Nat := 0
deriving DecidableEq, Repr

/-- The saved context of one rank (R124): register block and the live regions' words. -/
structure Saved where
  rank : Nat := 0
  /-- where its bytes lie in a save area; 0 for none -/
  addr : Nat := 0
  reg : RegBlock := {}
  regions : List (Nat × List Byte) := []
  poisoned : Bool := false
  /-- the save has completed (R124) -/
  done : Bool := false
deriving DecidableEq, Repr

/-- A job (R359, R430). -/
structure Job where
  key : JobKey := {}
  /-- place of its JOB.SUBMIT in its ring, and the operation bytes of its completions -/
  seq : Nat := 0
  cls : Nat := 0
  partition : Nat := 0
  cores : Nat := 1
  priority : Nat := 0
  mode : Nat := 0
  period : Nat := 0
  releaseId : Nat := 0
  wdSlot : Nat := 0xFF
  offset : Nat := 0
  budget : Nat := 0
  maxLive : Nat := 0
  snap : Nat := 0
  codeAddr : Nat := 0
  codeBytes : Nat := 0
  codeBase : Nat := 0
  entryPc : Nat := 0
  descBase : Nat := 0
  attnAddr : Nat := 0
  visionAddr : Nat := 0
  kvAddr : Nat := 0
  batchAddr : Nat := 0
  streams : List Nat := []
  attn : List Byte := []
  vision : List Byte := []
  bindings : List Binding := []
  usesMask : Bool := false
  deadline : Nat := 0
  /-- acceptance order and link (R354, R388) -/
  order : Nat := 0
  acceptedLink : Nat := 0
  state : JobState := .queued
  placed : List Nat := []
  halted : List Nat := []
  released : Bool := false
  releasePending : Bool := false
  releases : Nat := 0
  /-- link of the latest release, or of a skipped one -/
  releasedAt : Option Nat := none
  everRan : Bool := false
  charged : Nat := 0
  /-- link charged last (R362) -/
  chargedLink : Option Nat := none
  flagRec : Nat := 0
  reruns : Nat := 0
  overrun : Bool := false
  /-- a core of the release in progress was stopped at a mark, so the release has no HALT (R362, R387) -/
  markEnd : Bool := false
  /-- status with which the job ends at its next marks (R119, R366) -/
  endWith : Option Nat := none
  saves : List Saved := []
  saveAreas : List Nat := []
  pinned : List Nat := []
  resolved : Bool := false
  /-- a release began while the job was PREEMPTED: its next tile starts at entry_pc (R354, R363) -/
  fresh : Bool := false
  /-- streams and buffers that the batch table names (R280) -/
  batch : List (Nat × Nat) := []
  /-- the input snapshot of the P0 release that is due next or in progress (R370) -/
  input : List Byte := []
deriving DecidableEq, Repr

/-- Schedule, partitions and jobs (chapter 14). -/
structure Sch where
  active : Table := { rows := List.replicate 80 { masks := 0x3C :: List.replicate 15 0 } }
  shadow : ShadowState := .empty
  shadowTable : Table := {}
  armed : Bool := false
  /-- the link of the earliest SCH.ARM of the arm in force (R357) -/
  armLink : Nat := 0
  /-- the mile boundary for which a switch is decided, and the table that takes over there (R357) -/
  switchAt : Option Nat := none
  next : Table := {}
  deferAt : Option Nat := none
  lastDecision : Nat := 0
  deferReason : Nat := 0
  /-- class of P0 to P15; 7 undefined (SCH_PART_STATUS) -/
  classes : List Nat := 0 :: List.replicate 15 7
  row : Nat := 0
  jobs : List Job := []
  nextOrder : Nat := 0
  overruns : Nat := 0
  missed : Nat := 0
  bgdUntil : Nat := 0
  /-- open self-test slots: partition, first link, end link, cores (R369) -/
  slots : List (Nat × Nat × Nat × List Nat) := []
deriving DecidableEq, Repr

/-- A body record of the robot model (R311): FP32 fields as bit patterns, with axis and rotation normalised (R312). -/
structure Body where
  parent : Nat := 0xFF
  jointType : Nat := 0
  joint : Nat := 0xFF
  axis : List Nat := []
  rot : List Nat := []
  trans : List Nat := []
  mass : Nat := 0
  com : List Nat := []
  inertia : List Nat := []
  armature : Nat := 0
  qMin : Nat := 0
  qMax : Nat := 0
  vMax : Nat := 0
  tauMax : Nat := 0
  gear : Nat := 0
  encScale : Nat := 0
  encOffset : Int := 0
  tauRate : Nat := 0
  raw : List Byte := []
deriving DecidableEq, Repr

/-- A robot model (R310). -/
structure Model where
  rev : Nat := 0
  imuNode : Nat := 0xFF
  gravity : List Nat := []
  imuRot : List Nat := []
  bodies : List Body := []
  raw : List Byte := []
deriving DecidableEq, Repr

/-- A task of a task set (R315). -/
structure Task where
  kind : Nat := 0
  body : Nat := 0
  firstJoint : Nat := 0
  count : Nat := 0
  target : Nat := 0
  offset : List Nat := []
  weight : Nat := 0
  kp : Nat := 0
  kd : Nat := 0
deriving DecidableEq, Repr

/-- A task set (R315). -/
structure TaskSet where
  id : Nat := 0
  iterCap : Nat := 0
  refine : Nat := 0
  limitLinks : Nat := 0
  tol : Nat := 0
  reg : Nat := 0
  tasks : List Task := []
  raw : List Byte := []
deriving DecidableEq, Repr

/-- A contact frame (R321): FP32 patterns. -/
structure ContactFrame where
  body : Nat := 0
  normal : List Nat := []
  tangent : List Nat := []
  mu : Nat := 0
deriving DecidableEq, Repr

/-- A contact point (R321). -/
structure ContactPoint where
  frame : Nat := 0
  offset : List Nat := []
  fnMin : Nat := 0
  fnMax : Nat := 0
deriving DecidableEq, Repr

/-- Contact frames and points (R321). -/
structure Contacts where
  frames : List ContactFrame := []
  points : List ContactPoint := []
  raw : List Byte := []
deriving DecidableEq, Repr

/-- Engine states (R339). -/
inductive EngState where
  | empty | loaded | running
deriving DecidableEq, Repr

/-- A result of the engine on its way (R332): `n` is the sample link. -/
structure Result where
  n : Nat := 0
  sampleTs : Nat := 0
  flags : Nat := 0
  iterations : Nat := 0
  active : Nat := 0
  residual : Nat := 0
  signature : Nat := 0
  taskSet : Nat := 0
  contactMask : Nat := 0
  tau : List Nat := []
  qdd : List Nat := []
  force : List Nat := []
  /-- base linear velocity that the hand-off carries (R380) -/
  baseVel : List Nat := []
deriving DecidableEq, Repr

/-- Values read from an accepted target buffer (R317, R319). -/
structure Targets where
  taskSet : Nat := 0
  contactMask : Nat := 0
  estLink : Nat := 0
  basePos : List Nat := [0, 0, 0]
  baseVel : List Nat := [0, 0, 0]
  words : List Nat := List.replicate 500 0
deriving DecidableEq, Repr

/-- What the front stage hands to the solve stage (R313 to R320): flags so far, the loaded structure, the targets,
and the state of the link as FP32 patterns. -/
structure FrontData where
  n : Nat := 0
  flags : Nat := 0
  model : Model := {}
  tasks : TaskSet := {}
  contacts : Contacts := {}
  targets : Targets := {}
  q : List Nat := []
  qd : List Nat := []
  quat : List Nat := []
  rate : List Nat := []
deriving DecidableEq, Repr

/-- The warm state (R330): structure record, working set, multipliers and accelerations. -/
structure Warm where
  record : List Byte := []
  working : List Nat := []
  mult : List Nat := []
  qdd : List Nat := []
deriving DecidableEq, Repr

/-- The dynamics engine (chapter 13). -/
structure Sol where
  state : EngState := .empty
  model : Option Model := none
  tasks : Option TaskSet := none
  pending : Option TaskSet := none
  contacts : Option Contacts := none
  holdLimit : Nat := 25
  startLink : Nat := 0
  wcetFront : Nat := 0
  wcetSolve : Nat := 0
  /-- targets in use: the latest accepted buffer that carried the active set's id (R320) -/
  targets : Targets := {}
  /-- the latest accepted buffer (R319) -/
  latest : Option Targets := none
  front : Option FrontData := none
  solved : Option Result := none
  last : Option Result := none
  warm : Option Warm := none
  faults : Nat := 0
  pivotReg : Nat := 0
  holdRun : Nat := 0
  spareLeft : Bool := true
  clustersRetired : List Nat := []
  clustersLost : Bool := false
  /-- corrected errors of solver memory (R341) -/
  memCorrected : Nat := 0
  memRewrite : Bool := false
  /-- last good base orientation (R313) -/
  lastQuat : List Nat := [0x3F800000, 0, 0, 0]
deriving DecidableEq, Repr

/-- States of a joint line (R304). -/
inductive LineState where
  | down | training | enumerated | configured | running | failed
deriving DecidableEq, Repr

/-- A joint line (R282 to R305). -/
structure Line where
  state : LineState := .down
  found : List NodeIdent := []
  maxSegment : Nat := 0
  reason : Nat := 0
  delays : List Nat := []
  frameCrc : Nat := 0
  commaMiss : Nat := 0
  missRun : Nat := 0
  seq : Nat := 0
  upDone : Bool := false
  stopping : Bool := false
  trainStart : Nat := 0
  /-- down frames of a line that went DOWN in service (R305) -/
  sendWhileDown : Bool := false
  /-- the latest down frame sent (R285) -/
  downFrame : List Byte := []
deriving DecidableEq, Repr

/-- A node-table entry (R300). -/
structure NodeCfg where
  kind : Nat := 0
  joint : Nat := 0xFF
  staleLimit : Nat := 1
  upStaleLimit : Nat := 1
  serial : Nat := 0
  modelId : Nat := 0
deriving DecidableEq, Repr

/-- A command slot's fields (R287): FP32 bit patterns. -/
structure CmdSlot where
  torque : Nat := 0
  qTarget : Nat := 0
  vTarget : Nat := 0
  stiffness : Nat := 0
  damping : Nat := 0
  mode : Nat := 0
  hold : Bool := false
deriving DecidableEq, Repr

/-- A node as the device sees it (R289 to R297; JL_NODE_STATUS). -/
structure Node where
  present : Bool := false
  lost : Bool := false
  selfDamp : Bool := false
  kind : Nat := 0
  staleRun : Nat := 0
  staleTotal : Nat := 0
  refCounter : Option (Nat × Nat) := none
  stale : Bool := true
  sample : List Byte := List.replicate 48 0
  /-- TS stamp of the last good sample (R289) -/
  stamp : Nat := 0
  slotCounter : Nat := 0
  slot : CmdSlot := {}
  slotSent : CmdSlot := {}
deriving DecidableEq, Repr

/-- The joint lines (chapter 12). -/
structure Jl where
  lines : List Line := List.replicate 16 {}
  nodes : List Node := List.replicate 64 {}
  table : List (Option NodeCfg) := List.replicate 64 none
  /-- an injection acted on a frame of this link (R530) -/
  injected : Bool := false
deriving DecidableEq, Repr

/-- The state of a link from the delivered samples (R313): FP32 bit patterns. -/
structure LinkState where
  q : List Nat := []
  qd : List Nat := []
  quat : List Nat := []
  rate : List Nat := []
  stale : Bool := false
deriving DecidableEq, Repr

/-- An E-stop channel as the pairs sample it (R394, R395). -/
structure Estop where
  raw : Bool := false
  lowRun : Nat := 0
  highRun : Nat := 0
  asserted : Bool := false
  changes : List Nat := []
  chatter : Bool := false
deriving DecidableEq, Repr

/-- A watchdog (R386 to R388): the link its source started, and the windows in which it was kicked, each by its
opening link, the latest first. -/
structure Watchdog where
  source : Option Nat := none
  kicked : List Nat := []
  lastFault : Option Nat := none
deriving DecidableEq, Repr

/-- The safety logic (chapter 15). -/
structure Asz where
  safe : Bool := false
  torqueOff : Bool := false
  entryPending : Bool := false
  firstCause : Nat := 0
  causes : Nat := 0
  entryLink : Nat := 0
  pairAOk : Bool := true
  pairBOk : Bool := true
  paramsValid : Bool := false
  params : List Byte := []
  estopA : Estop := {}
  estopB : Estop := {}
  differRun : Nat := 0
  discrepancy : Bool := false
  bothAsserted : Bool := false
  clearRun : Nat := 0
  estopClear : Bool := false
  disagreements : Nat := 0
  disagreeLinks : List Nat := []
  wdFault : Nat := 0
  watchdogs : List Watchdog := List.replicate 64 {}
  runStart : Nat := 0
  /-- SAFE.RELEASE that waits for the boundary (R402) -/
  releaseAt : Option Nat := none
  /-- a cause arose between the test and the boundary (R402) -/
  releaseCancelled : Bool := false
  /-- TORQUE_OFF until the first result that passes after a release (R402) -/
  offUntilPass : Bool := false
  /-- causes that only a start clears, kept after the safe state ended with a mode change (R404) -/
  startCauses : Nat := 0
  copyModel : List Byte := []
  copyContacts : List Byte := []
  copyCrc : Nat := 0
  reloadDue : Bool := false
  /-- first parts of the checks in hand, newest first: the sample link and its state (R379) -/
  firstParts : List (Nat × LinkState) := []
  /-- last good base orientation, of the Assize's own (R313, R380) -/
  lastQuat : List Nat := [0x3F800000, 0, 0, 0]
  /-- result handed off and waiting for the check (R379) -/
  check : Option Result := none
  /-- a passed result: the link whose down frame it governs, and its torques (R294, R384) -/
  verdict : Option (Nat × List Nat) := none
  tauPrev : List Nat := List.replicate 64 0
  /-- VAUX is outside its window (R568) -/
  vauxBad : Bool := false
  p0ReleasedSince : Bool := false
deriving DecidableEq, Repr

/-- A CSI-2 port (R260 to R262). -/
structure Port where
  linkUp : Bool := false
  lanes : Nat := 0
  eccCorrected : Nat := 0
  eccUncorrected : Nat := 0
  crcErrors : Nat := 0
  discarded : Nat := 0
deriving DecidableEq, Repr

/-- A stream configuration (R263). -/
structure StreamCfg where
  port : Nat := 0
  vc : Nat := 0
  dt : Nat := 0
  width : Nat := 0
  height : Nat := 0
  maxBytes : Nat := 0
  embLines : Nat := 0
  profile : Nat := 0
  nbuf : Nat := 2
  flags : Nat := 0
  latency : Nat := 0
  period : Nat := 0
  budget : Nat := 0
  fcOffset : Nat := 0
  bufs : List Nat := []
deriving DecidableEq, Repr

/-- A frame from its start until its sample is published and its end seen (R267 to R277). -/
structure Frame where
  seq : Nat := 0
  /-- place among all frame starts (R269) -/
  order : Nat := 0
  startLink : Nat := 0
  startTs : Nat := 0
  captureTs : Nat := 0
  budget : Nat := 0
  strict : Bool := true
  lines : Nat := 0
  bytes : Nat := 0
  /-- word count of the first image line (R268) -/
  firstWc : Nat := 0
  ended : Bool := false
  counter : Option Nat := none
  buffer : Option Nat := none
  pipe : Option Nat := none
  /-- payload bytes of the image lines -/
  payload : List Byte := []
  /-- none while open; the cause once resolved: 0 OK, 1 to 11 the void causes (R272) -/
  resolved : Option Nat := none
  crc : Nat := 0
  tensorBytes : Nat := 0
  /-- TS units from frame start to resolution -/
  took : Nat := 0
  published : Bool := false
  /-- an injection acted on this frame (R538): the bit it flips, and what it holds the sample back for: a link,
  or 0 for the stream's next sample -/
  injected : Bool := false
  flip : Option Nat := none
  heldFor : Option Nat := none
deriving DecidableEq, Repr

/-- A stream (R263 to R281). -/
structure Stream where
  cfg : Option StreamCfg := none
  running : Bool := false
  nextSeq : Nat := 0
  frames : List Frame := []
  /-- decode times of the last 16 OK samples in TS units, newest first (R276) -/
  decodes : List Nat := []
  budget : Nat := 0
  corrupt : Nat := 0
  late : Nat := 0
  droppedCount : Nat := 0
deriving DecidableEq, Repr

/-- A pipe profile (R271). -/
structure Profile where
  demosaic : Nat := 0
  resize : Nat := 0
  ofmt : Nat := 4
  layout : Nat := 0
  outZp : Nat := 0
  channels : Nat := 1
  rw : Nat := 0
  rh : Nat := 0
  cx : Nat := 0
  cy : Nat := 0
  cw : Nat := 0
  ch : Nat := 0
  raw : List Byte := []
deriving DecidableEq, Repr

/-- An intake pipe (R269, R498, R499). -/
structure Pipe where
  inService : Bool := true
  retired : Bool := false
  frame : Option (Nat × Nat) := none
deriving DecidableEq, Repr

/-- Sensor intake (chapter 11). -/
structure Itk where
  ports : List Port := List.replicate 8 {}
  streams : List Stream := List.replicate 16 {}
  profiles : List (Option Profile) := List.replicate 16 none
  pipes : List Pipe := [{}, {}, {}, {}, { inService := false }]
  /-- frame starts so far (R269) -/
  starts : Nat := 0
deriving DecidableEq, Repr

/-- A receive FIFO of a CAN controller (R462, R463). -/
structure RxFifo where
  size : Nat := 0
  elems : List (List Byte) := List.replicate 64 (List.replicate 80 0)
  fill : Nat := 0
  put : Nat := 0
  get : Nat := 0
  lost : Nat := 0
deriving DecidableEq, Repr

/-- A filter bank (R458, R460): element words as loaded. -/
structure FilterBank where
  std : List Nat := []
  ext : List (Nat × Nat × Nat) := []
  nonStd : Nat := 0
  nonExt : Nat := 0
  rejectRemote : Bool := false
deriving DecidableEq, Repr

/-- A transmit buffer (R464): the element, and the CAN.SEND that placed it (ring, tag) unless it is the
safe-state broadcast. -/
structure TxBuf where
  elem : List Byte := []
  pending : Bool := false
  owner : Option (Nat × Nat) := none
deriving DecidableEq, Repr

/-- A CAN FD controller (chapter 18). -/
structure Can where
  mode : Nat := 0
  request : Option Nat := none
  configured : Bool := false
  errState : Nat := 0
  recovering : Bool := false
  stuck : Bool := false
  noStart : Bool := false
  txTimeout : Bool := false
  urgentPending : Bool := false
  safeSkipped : Bool := false
  switchPending : Bool := false
  activeBank : Nat := 0
  releaseError : Bool := false
  loopDelay : Nat := 0
  arb : Nat := 0
  dataTiming : Nat := 0
  loopComp : Nat := 0
  tecCount : Nat := 0
  recCount : Nat := 0
  busOffCount : Nat := 0
  tdcFail : Nat := 0
  fdEn : Bool := false
  brsEn : Bool := false
  autoRecover : Bool := false
  fifo0 : RxFifo := {}
  fifo1 : RxFifo := {}
  mailboxes : List (List Byte) := List.replicate 16 (List.replicate 80 0)
  full : Nat := 0
  tx : List TxBuf := List.replicate 32 {}
  banks : List FilterBank := [{}, {}]
  /-- the buffer offered at the arbitration in progress, with its SOF TS (R465) -/
  sending : Option (Nat × Nat) := none
  /-- TXD is forced recessive (R469) -/
  forcedRecessive : Bool := false
  /-- bytes of the recovery command being received (R486) -/
  recovery : List Byte := []
  replies : List (Nat × List Byte) := []
deriving DecidableEq, Repr

/-- States of the staging area (R484). -/
inductive StagingState where
  | empty | receiving | committed | copying | installed
deriving DecidableEq, Repr

/-- A flash operation in progress for a command or for the wear record (R480, R490, R510). -/
inductive FlashOp where
  | piece (index : Nat) (data : List Byte)
  | cfgCommit (rec : List Byte)
  | wear (half : Nat) (rec : List Byte)
deriving DecidableEq, Repr

/-- Start, update and configuration (chapter 19). -/
structure Fw where
  /-- flash content; an unlisted byte is erased (0xFF) -/
  flash : List Host.Cell := []
  stage : Nat := 0
  recoveryReason : Nat := 0
  copied : Bool := false
  wearRebuilt : Bool := false
  cfgDefaulted : Bool := false
  /-- vector 10 is due at the next CONFIG entry (R489) -/
  defaultsDue : Bool := false
  cfgReason : Nat := 0
  startMs : Nat := 0
  version : Nat := 0
  staging : StagingState := .empty
  header : List Byte := []
  present : List Nat := []
  op : Option FlashOp := none
  /-- working copy of the configuration record (R490) -/
  work : List Byte := []
  /-- sequence and check word of the configuration in force (R495) -/
  cfgSequence : Nat := 0
  cfgCheck : Nat := 0
  /-- record in force at this start (R488, R490) -/
  inForce : List Byte := []
  dirty : Bool := false
  flashFormat : Nat := 0
  floor : Nat := 0
  loaderHash : List Byte := []
  imageHash : List Byte := []
  keyMatches : Bool := true
deriving DecidableEq, Repr

/-- Wear and spares (chapter 20). A resource is named by its wear-record entry (R508); kinds 9 and 10
name the segment-direction and channel counters that have no spare of their own (R497). -/
structure Spr where
  /-- links of the events in each resource's window, newest first -/
  windows : List (WearEntry × List Nat) := []
  lasting : List WearEntry := []
  /-- the link in which each lasting resource became so (R58) -/
  since : List (WearEntry × Nat) := []
  entries : List WearEntry := []
  inFlash : Nat := 0
  sequence : Nat := 0
  half : Nat := 0
  writeDue : Option Nat := none
  degraded : Bool := false
  recordFull : Bool := false
  last : WearEntry := {}
  pipeSpareLeft : Bool := true
deriving DecidableEq, Repr

/-- Power states (R527). -/
inductive PwrState where
  | active | entering | retained | leaving
deriving DecidableEq, Repr

/-- Thermal state of a logic die (R522; THM_DIE). -/
structure Therm where
  tripped : Bool := false
  hot : Bool := false
  junctionMax : Nat := 0
  junction : Nat := 0
  /-- highest stack temperature over the last furlong (R518) -/
  stackMax : Nat := 0
  /-- highest samples of the furlong in progress: junction and stack -/
  runMax : Nat := 0
  runStack : Nat := 0
deriving DecidableEq, Repr

/-- Power, heat and idle (chapter 21). -/
structure Pwr where
  state : PwrState := .active
  cap : Nat := 120
  capUnmet : Bool := false
  op : List Nat := [0, 0, 0, 0]
  /-- a raised setpoint that settles: the point the clock switches to (R517) -/
  settling : List (Option Nat) := [none, none, none, none]
  /-- per die, the changes of VCOREn_SEL whose wider window still holds, newest first: old code, new code and the
  link of the change (R558) -/
  selChanges : List (List (Nat × Nat × Nat)) := [[], [], [], []]
  parked : List Bool := [false, false, false, false]
  off : List Bool := [false, false, false, false]
  dieMw : List Nat := [0, 0, 0, 0]
  packageMw : Nat := 0
  therm : List Therm := List.replicate 5 {}
  /-- the furlong boundary at which the maxima of the furlong before were taken -/
  shiftedAt : Option Nat := none
deriving DecidableEq, Repr

/-- Recorder states (REC_STATUS). -/
inductive RecState where
  | stopped | recording | post | frozen
deriving DecidableEq, Repr

/-- A replay in progress (R537). -/
structure Replay where
  records : List (List Byte) := []
  firstLink : Nat := 0
  t0 : Nat := 0
  capture : Nat := 0
  captureEnd : Nat := 0
  /-- a record did not fit the capture area: REC.REPLAY ends with ST_LIMIT -/
  full : Bool := false
deriving DecidableEq, Repr

/-- The recorder (chapter 22): records oldest first. -/
structure Rec where
  state : RecState := .stopped
  die : Nat := 0
  ringMib : Nat := 0
  kinds : Nat := 0
  scale : Nat := 1
  triggers : Nat := 0
  postLinks : Nat := 0
  ringBase : Nat := 0
  records : List (List Byte) := []
  /-- the staging buffer in the hub, and where in the ring its next byte goes (R529) -/
  buffer : List Byte := []
  ringPos : Nat := 0
  seq : Nat := 0
  lostNow : Nat := 0
  lost : Nat := 0
  gaps : Nat := 0
  missed : Nat := 0
  freezeAt : Option Nat := none
  firstTrigger : Nat := 0
  safetyTrigger : Bool := false
  /-- mile base A of the recording, taken at the freeze (R536) -/
  mile : Nat := 0
  flashCopy : List Byte := []
  replay : Option Replay := none
deriving DecidableEq, Repr

/-- A fault-injection slot (R538). -/
structure Inject where
  armed : Bool := false
  target : Nat := 0
  index : Nat := 0
  dir : Nat := 0
  action : Nat := 0
  trigger : Nat := 0
  param : Nat := 0
  value : Nat := 0
  limit : Nat := 0
  units : Nat := 0
  done : Nat := 0
  injected : Nat := 0
  suppressed : Nat := 0
  /-- a unit held back (actions 3 and 4): its place, the link it is due in (0: after the next unit), bytes -/
  held : Option (Nat × Nat × List Byte) := none
deriving DecidableEq, Repr

/-- The state of the block. -/
structure State where
  pending : List Instr := []
  free : Nat := 0
  /-- time-base cycle of the link in progress at which the latest capture was taken (R15) -/
  instant : Nat := 0
  starts : Nat := 0
  pins : Pins := {}
  tb : TimeBase := {}
  dev : Dev := {}
  hl : HostLink := {}
  mem : Memory := {}
  ring : Ring := {}
  cores : Cores := {}
  dram : List Dram := List.replicate 4 {}
  kv : Kv := {}
  sch : Sch := {}
  sol : Sol := {}
  jl : Jl := {}
  asz : Asz := {}
  itk : Itk := {}
  can : List Can := List.replicate 4 {}
  fw : Fw := {}
  spr : Spr := {}
  pwr : Pwr := {}
  recd : Rec := {}
  fi : List Inject := List.replicate 16 {}
deriving DecidableEq, Repr

/-- The machine right after reset: the hub held in reset, every register at the value the manual gives
for reset, and where it gives none at the value the assumption log names. -/
def State.reset : State := {}

end Sys2Proof.Machine
end

