-- ==== Sys2Proof/Machine/Ops.lean ====
section
/-! DEFINITION. The named operations over the state: one update per block, time stamps (chapter 01), and
memory by device physical address with its regions, poison and parity (R60, R135, R152 to R161). -/

namespace Sys2Proof.Machine

/-- What a step of the block answers. -/
abbrev Out := Host.Outcome State Fault Refusal

/-- A run of a record. -/
def part (d : List Byte) (o n : Nat) : List Byte := (d.drop o).take n
/-- A record with a run replaced. -/
def splice (d : List Byte) (o : Nat) (x : List Byte) : List Byte := d.take o ++ x ++ d.drop (o + x.length)

/-! ### One update per block -/

def State.onPins (s : State) (f : Pins → Pins) : State := { s with pins := f s.pins }
def State.onTb (s : State) (f : TimeBase → TimeBase) : State := { s with tb := f s.tb }
def State.onDev (s : State) (f : Dev → Dev) : State := { s with dev := f s.dev }
def State.onHl (s : State) (f : HostLink → HostLink) : State := { s with hl := f s.hl }
def State.onMem (s : State) (f : Memory → Memory) : State := { s with mem := f s.mem }
def State.onRing (s : State) (f : Ring → Ring) : State := { s with ring := f s.ring }
def State.onCores (s : State) (f : Cores → Cores) : State := { s with cores := f s.cores }
def State.onDram (s : State) (d : Nat) (f : Dram → Dram) : State := { s with dram := s.dram.modify d f }
def State.onKv (s : State) (f : Kv → Kv) : State := { s with kv := f s.kv }
def State.onSch (s : State) (f : Sch → Sch) : State := { s with sch := f s.sch }
def State.onSol (s : State) (f : Sol → Sol) : State := { s with sol := f s.sol }
def State.onJl (s : State) (f : Jl → Jl) : State := { s with jl := f s.jl }
def State.onAsz (s : State) (f : Asz → Asz) : State := { s with asz := f s.asz }
def State.onItk (s : State) (f : Itk → Itk) : State := { s with itk := f s.itk }
def State.onCan (s : State) (k : Nat) (f : Can → Can) : State := { s with can := s.can.modify k f }
def State.onFw (s : State) (f : Fw → Fw) : State := { s with fw := f s.fw }
def State.onSpr (s : State) (f : Spr → Spr) : State := { s with spr := f s.spr }
def State.onPwr (s : State) (f : Pwr → Pwr) : State := { s with pwr := f s.pwr }
def State.onRec (s : State) (f : Rec → Rec) : State := { s with recd := f s.recd }
def State.onFi (s : State) (i : Nat) (f : Inject → Inject) : State := { s with fi := s.fi.modify i f }

/-- Entry `k` of the context table. -/
def State.ctx (s : State) (k : Nat) : Ctx := if k = 256 then s.hl.canCtx else s.hl.ctxs.getD k {}
def State.onCtx (s : State) (k : Nat) (f : Ctx → Ctx) : State :=
  if k = 256 then s.onHl fun h => { h with canCtx := f h.canCtx }
  else s.onHl fun h => { h with ctxs := h.ctxs.modify k f }

def State.line (s : State) (l : Nat) : Line := s.jl.lines.getD l {}
def State.onLine (s : State) (l : Nat) (f : Line → Line) : State :=
  s.onJl fun j => { j with lines := j.lines.modify l f }
def State.node (s : State) (n : Nat) : Node := s.jl.nodes.getD n {}
def State.onNode (s : State) (n : Nat) (f : Node → Node) : State :=
  s.onJl fun j => { j with nodes := j.nodes.modify n f }
def State.stream (s : State) (i : Nat) : Stream := s.itk.streams.getD i {}
def State.onStream (s : State) (i : Nat) (f : Stream → Stream) : State :=
  s.onItk fun k => { k with streams := k.streams.modify i f }
def State.onPort (s : State) (i : Nat) (f : Port → Port) : State :=
  s.onItk fun k => { k with ports := k.ports.modify i f }
def State.onPipe (s : State) (i : Nat) (f : Pipe → Pipe) : State :=
  s.onItk fun k => { k with pipes := k.pipes.modify i f }
def State.canAt (s : State) (k : Nat) : Can := s.can.getD k {}
def State.dramAt (s : State) (d : Nat) : Dram := s.dram.getD d {}
def State.seg (s : State) (g : Nat) : Segment := s.ring.segs.getD g {}
def State.onSeg (s : State) (g : Nat) (f : Segment → Segment) : State :=
  s.onRing fun r => { r with segs := r.segs.modify g f }
def State.segDir (s : State) (g : Nat) (d : RingDir) : SegDir :=
  match d with
  | .fwd => (s.seg g).fwd
  | .rev => (s.seg g).rev
def State.onSegDir (s : State) (g : Nat) (d : RingDir) (f : SegDir → SegDir) : State :=
  s.onSeg g fun x =>
    match d with
    | .fwd => { x with fwd := f x.fwd }
    | .rev => { x with rev := f x.rev }

/-! ### Cores: logical and physical (R61, R98, R130) -/

/-- Index of a physical core among the 72: die and physical number. -/
def physIndex (die phys : Nat) : Nat := die * 18 + phys

/-- The physical core index of a global logical core, or none while it is absent (R131). -/
def State.physOf (s : State) (c : Nat) : Option Nat := (s.cores.map.getD c none).map (physIndex (c / 16))

def State.phys (s : State) (p : Nat) : Core := s.cores.phys.getD p {}
def State.onPhys (s : State) (p : Nat) (f : Core → Core) : State :=
  s.onCores fun c => { c with phys := c.phys.modify p f }

/-- The core that a global logical core number names. -/
def State.core (s : State) (c : Nat) : Core :=
  match s.physOf c with
  | some p => s.phys p
  | none => {}
def State.onCore (s : State) (c : Nat) (f : Core → Core) : State :=
  match s.physOf c with
  | some p => s.onPhys p f
  | none => s

/-- A logical core is present (R61, R131); every core of a die out of service is absent (R473, log 37). -/
def State.corePresent (s : State) (c : Nat) : Bool :=
  c < 64 && (s.physOf c).isSome && (s.dramAt (c / 16)).inService

/-! ### Time stamps (R13, R14) -/

/-- TS of a link boundary: fraction 0. -/
def linkTs (link : Nat) : Nat := (link % 2 ^ 48) * 65536

/-- Time-base cycles of the link in progress (R9). -/
def State.linkCycles (s : State) : Nat := s.tb.cycles * 16

/-- TS at a time-base cycle of the link in progress (R14); a cycle past the link's end counts as its last. The
cycles of the link are those it has as it begins, also where an edge then cuts it short (DESIGN CHOICE 151). -/
def State.tsAt (s : State) (cycle : Nat) : Nat :=
  linkTs s.tb.link + (min cycle (s.linkCycles - 1)) * 65536 / s.linkCycles

/-- Time-base cycle of a step for which no instant of the link is fixed: a free one, not before that of the latest
capture (R15, log 2). -/
def State.instantNow (s : State) : Nat := s.instant + Config.freeCycle s.free % max 1 (s.linkCycles - s.instant)

/-- TS of a step for which no instant of the link is fixed (R14, R15). -/
def State.tsNow (s : State) : Nat := s.tsAt s.instantNow

/-- A free draw has been taken (log 2), and with it the instant that it gives. -/
def State.bump (s : State) : State := { s with free := s.free + 1, instant := s.instantNow }

/-- A free number of this draw. -/
def State.draw (s : State) (i : Nat) : Nat := Config.freeNat s.free i

/-- Bytes that nothing determines. -/
def State.freeBytes (s : State) (n : Nat) : List Byte := (List.range n).map fun i => BitVec.ofNat 8 (s.draw i)

/-- Offset of a link from the mile base (R18). -/
def State.phase (s : State) (link : Nat) : Nat := link - s.tb.mile

/-- The chain row of the link in progress (chapter 01). -/
def State.chainRow (s : State) : Nat := (s.phase s.tb.link / 100) % 80

def State.running (s : State) : Bool := s.dev.mode = .run || s.dev.mode = .degraded

/-! ### Regions of the address map (R60) -/

def dramTop : Nat := 2 ^ 37
def stackSize : Nat := 2 ^ 35
/-- First offset of the reserved region of a stack (R155). -/
def reservedOff : Nat := 0x7FC000000
def spadBase : Nat := 0x004000000000
def spadTop : Nat := 0x004400000000
def spadBytes : Nat := 0x600000
def hubBase : Nat := 0x004800000000
def hubTop : Nat := 0x004801800000
def regBase : Nat := 0x005000000000
def regTop : Nat := 0x005004000000
def peerBase : Nat := 0x006000000000
def peerTop : Nat := 0x016000000000
def hostBase : Nat := 2 ^ 47
def hostTop : Nat := 2 ^ 48
/-- The target region (R318). -/
def targetBase : Nat := 0x0048017FD000
def targetTop : Nat := 0x0048017FF000
/-- The sample board (R278). -/
def boardBase : Nat := 0x0048017FF000
def boardTop : Nat := 0x0048017FF880

def isDram (a : Nat) : Bool := a < dramTop
/-- The reserved region of any stack (R155). -/
def isReserved (a : Nat) : Bool := a < dramTop && reservedOff ≤ a % stackSize
/-- A populated scratchpad address, whether or not its core is present (R60). -/
def isSpad (a : Nat) : Bool :=
  spadBase ≤ a && a < spadTop && (a - spadBase) % 2 ^ 32 < 2 ^ 28 && (a - spadBase) % 2 ^ 24 < spadBytes
def isHub (a : Nat) : Bool := hubBase ≤ a && a < hubTop
def isReg (a : Nat) : Bool := regBase ≤ a && a < regTop
def isPeer (a : Nat) : Bool := peerBase ≤ a && a < peerTop
def isHost (a : Nat) : Bool := hostBase ≤ a && a < hostTop

/-- The global logical core that a scratchpad address names (R60, R61). -/
def spadCore (a : Nat) : Nat := (a - spadBase) / 2 ^ 32 * 16 + ((a - spadBase) % 2 ^ 32) / 2 ^ 24

/-- First byte of a core's scratchpad (R60). -/
def spadOf (c : Nat) : Nat := spadBase + (c / 16) * 2 ^ 32 + (c % 16) * 2 ^ 24

/-- A frame-table entry's bytes (R208): the first 16 MiB of a reserved region. -/
def isFrameTable (a : Nat) : Bool := a < dramTop && reservedOff ≤ a % stackSize && a % stackSize < reservedOff + 2 ^ 24

/-- Every byte of a range satisfies a region test, where the region is a range of addresses: its first and
last byte do and lie less than a region apart. -/
def rangeIn (p : Nat → Bool) (a n : Nat) : Bool := n = 0 || (p a && p (a + n - 1))

/-- The range lies wholly inside one stack and outside its reserved region. -/
def inOpenDram (a n : Nat) : Bool :=
  n ≤ stackSize && isDram a && a % stackSize + n ≤ reservedOff

/-- The range lies wholly in hub memory, or in host memory. -/
def inHub (a n : Nat) : Bool := hubBase ≤ a && a + n ≤ hubTop
def inHost (a n : Nat) : Bool := hostBase ≤ a && a + n ≤ hostTop
/-- The range lies inside one populated scratchpad. -/
def inSpad (a n : Nat) : Bool := isSpad a && (a - spadBase) % 2 ^ 24 + n ≤ spadBytes

/-- Two ranges share a byte. -/
def overlaps (a n b m : Nat) : Bool := a < b + m && b < a + n && 0 < n && 0 < m

/-- A byte of the range lies in the target region, which only P0 cores and hub control cores reach (R318). -/
def touchesTarget (a n : Nat) : Bool := overlaps a n targetBase (targetTop - targetBase)

/-- The payload ranges of R421: host memory, DRAM outside the reserved region, or hub memory; hub DMA does
not reach the target region (R63, R318). -/
def payloadRange (a n : Nat) : Bool := inHost a n || inOpenDram a n || (inHub a n && !touchesTarget a n)

/-- What hub DMA may reach for a host command (R61, R63, R142, R155): the payload ranges, and the
scratchpads of present cores. -/
def State.dmaRange (s : State) (a n : Nat) : Bool :=
  payloadRange a n || (inSpad a n && s.corePresent (spadCore a))

/-! ### Memory (R60, R143, R156, R574) -/

/-- The byte that an unlisted address is known to hold: scratchpads and hub memory are cleared to 0 at
every start (R143, R574) and the frame tables (R471 step 7); every other content is unspecified (R156). -/
def fixedByte (a : Nat) : Option Byte :=
  if isSpad a || isHub a || isFrameTable a then some 0 else none

/-- What an unlisted address reads as (log 4); host memory keeps its content through a start. -/
def unlisted (starts a : Nat) : Byte :=
  (fixedByte a).getD (Config.unspecByte (if isHost a then 0 else starts) a)

/-- The listed byte at an address. -/
def cellGet : List Host.Cell → Nat → Option Byte
  | [], _ => none
  | (k, v) :: r, a => if k = a then some v else cellGet r a

/-- Write one byte: the list stays sorted, and a byte equal to the fixed one of its address is not listed. -/
def cellPut : List Host.Cell → Nat → Byte → List Host.Cell
  | [], a, v => if fixedByte a = some v then [] else [(a, v)]
  | (k, w) :: r, a, v =>
    if a < k then (if fixedByte a = some v then (k, w) :: r else (a, v) :: (k, w) :: r)
    else if a = k then (if fixedByte a = some v then r else (a, v) :: r)
    else (k, w) :: cellPut r a v

/-- Addresses strictly rising, and all above a bound. -/
def cellsSorted : Nat → List Host.Cell → Bool
  | _, [] => true
  | lo, (k, v) :: r => lo ≤ k && fixedByte k != some v && cellsSorted (k + 1) r

/-- The canonical form of memory. -/
def Memory.wf (m : Memory) : Bool := cellsSorted 0 m.cells

/-- Read one byte. -/
def State.byteAt (s : State) (a : Nat) : Byte := (cellGet s.mem.cells a).getD (unlisted s.starts a)

/-- Read a run of bytes. -/
def State.bytesAt (s : State) (a n : Nat) : List Byte := (List.range n).map fun i => s.byteAt (a + i)

/-- Read a little-endian number (R7). -/
def State.natAt (s : State) (a n : Nat) : Nat := leNat (s.bytesAt a n)

/-- The list of cells after a run of bytes is written. -/
def cellsPut : List Host.Cell → Nat → List Byte → List Host.Cell
  | m, _, [] => m
  | m, a, b :: bs => cellsPut (cellPut m a b) (a + 1) bs

/-- Base of the 64-byte granule of an address (R153). -/
def granule (a : Nat) : Nat := a / 64 * 64

/-- The granules a range touches. -/
def granulesOf (a n : Nat) : List Nat :=
  if n = 0 then [] else (List.range ((a + n - 1) / 64 - a / 64 + 1)).map fun i => granule a + 64 * i

/-- Bytes of a write that land: a poisoned granule written only in part stays poisoned (R161). -/
def State.write (s : State) (a : Nat) (bs : List Byte) : State :=
  s.onMem fun m => { m with
    cells := cellsPut m.cells a bs
    poison := m.poison.filter fun g => !(a ≤ g && g + 64 ≤ a + bs.length)
    checkPat := m.checkPat.filter fun g => !(a ≤ g && g + 64 ≤ a + bs.length)
    badParity := m.badParity.filter fun b => !(a ≤ b && b < a + bs.length) }

/-- Write a little-endian number. -/
def State.writeNat (s : State) (a n v : Nat) : State := s.write a (leBytes n v)

/-- A read of the range meets a poisoned granule (R159) or a byte with bad parity (R145). -/
def State.rangePoisoned (s : State) (a n : Nat) : Bool :=
  s.mem.poison.any (fun g => overlaps a n g 64) || s.mem.badParity.any (fun b => a ≤ b && b < a + n)

/-- The memory behind an address does not answer, so reads return poisoned data: a stack that has tripped (R173),
never came up (R473) or whose controller has stopped in self-refresh (R174), or a die that is switched off (R522,
R524; DESIGN CHOICE 37 for these). -/
def State.dramDead (s : State) (a : Nat) : Bool :=
  (isDram a && ((s.dramAt (a / stackSize)).dead || (s.dramAt (a / stackSize)).selfRefresh)) || (isSpad a && s.pwr.off.getD (spadCore a / 16) false)

/-- The hub has tripped and its safe-state sequence has reached TORQUE_OFF, or none runs: only the time base, the
fault outputs and TORQUE_OFF frames go on (R523). -/
def State.hubDead (s : State) : Bool :=
  (s.pwr.therm.getD 4 {}).tripped && (!s.asz.safe || s.asz.torqueOff)

/-- A read returns poisoned data. -/
def State.readPoisoned (s : State) (a n : Nat) : Bool := s.rangePoisoned a n || s.dramDead a

/-- A write of part of a poisoned granule fails with status 1 (R161), as does any write to a tripped stack. -/
def State.writePoisoned (s : State) (a n : Nat) : Bool :=
  s.dramDead a || s.mem.poison.any fun g => overlaps a n g 64 && !(a ≤ g && g + 64 ≤ a + n)

/-- Granules become poisoned (R159), or poisoned with the check pattern (R168). -/
def State.poisonGranules (s : State) (gs : List Nat) (check : Bool) : State :=
  s.onMem fun m => { m with
    poison := (m.poison.filter fun g => !gs.contains g) ++ gs
    checkPat := if check then (m.checkPat.filter fun g => !gs.contains g) ++ gs
                else m.checkPat.filter fun g => !gs.contains g }

/-- Bytes get bad parity (R144). -/
def State.flipParity (s : State) (as : List Nat) : State :=
  s.onMem fun m => { m with badParity := (m.badParity.filter fun b => !as.contains b) ++ as }

/-- Every byte of a range is erased to the fixed byte of its address: the clear of R143. -/
def State.clearRange (s : State) (a n : Nat) : State :=
  s.onMem fun m => { m with
    cells := m.cells.filter fun c => !(a ≤ c.1 && c.1 < a + n)
    badParity := m.badParity.filter fun b => !(a ≤ b && b < a + n) }

/-- Clear a core's whole scratchpad (R143). -/
def State.clearSpad (s : State) (c : Nat) : State := s.clearRange (spadOf c) spadBytes

/-- Runs of host memory that the host wrote on its own. -/
def State.hostRuns (s : State) (runs : List HostRun) : State :=
  runs.foldl (fun x r => if inHost r.1 r.2.length then x.write r.1 r.2 else x) s

end Sys2Proof.Machine
end

