-- ==== Sys2Proof/Machine/Events.lean ====
section
/-! DEFINITION. What many rows do on the side: status codes, MSI-X and pending bits (R442, R443), recorder
records and triggers (R529 to R534), the decision of the safe state (R400, R401), device faults (R547),
DEGRADED (R506), error windows (R500, R501), and the selection of units by fault injection (R538, R539). -/

namespace Sys2Proof.Machine

/-! ### Status codes (R434) -/

def stOk : Nat := 0x0000
def stBadOpcode : Nat := 0x0001
def stBadParam : Nat := 0x0002
def stBadLength : Nat := 0x0003
def stCrc : Nat := 0x0004
def stMode : Nat := 0x0005
def stBusy : Nat := 0x0006
def stLimit : Nat := 0x0007
def stTimeout : Nat := 0x0008
def stDenied : Nat := 0x0009
def stNoMemory : Nat := 0x0100
def stMemPoison : Nat := 0x0101
def stClassDenied : Nat := 0x0200
def stNoMaskCore : Nat := 0x0201
def stTableInvalid : Nat := 0x0202
def stDeferred : Nat := 0x0203
def stPreempted : Nat := 0x0204
def stCancelled : Nat := 0x0205
def stTileFault : Nat := 0x0206
def stKvSwapped : Nat := 0x0300
def stSolverHold : Nat := 0x0400
def stSafeState : Nat := 0x0800
def stFwHeader : Nat := 0x0900
def stFwSignature : Nat := 0x0901
def stFwSequence : Nat := 0x0902
def stCfgDefaulted : Nat := 0x0903

/-! ### Recorder (R529 to R534) -/

/-- The 16-byte record header and a body (R530). -/
def recordBytes (kind flags seq ts : Nat) (body : List Byte) : List Byte :=
  leBytes 1 kind ++ leBytes 1 flags ++ leBytes 2 (16 + body.length) ++ leBytes 4 seq ++ leBytes 8 ts ++ body

/-- Total length of the records held. -/
def recordsLen (rs : List (List Byte)) : Nat := (rs.map List.length).sum

/-- The newest records that fit into `cap` bytes, oldest first. -/
def trimRecords (cap : Nat) : List (List Byte) → List (List Byte)
  | [] => []
  | r :: rs => if recordsLen (r :: rs) ≤ cap then r :: rs else trimRecords cap rs

/-- One record into the ring: the sequence count rises, the oldest records leave (R529, R534). -/
def Rec.push (r : Rec) (kind flags ts : Nat) (body : List Byte) : Rec :=
  { r with
    records := trimRecords (r.ringMib * 2 ^ 20) (r.records ++ [recordBytes kind flags r.seq ts body])
    seq := (r.seq + 1) % 2 ^ 32
    buffer := r.buffer ++ recordBytes kind flags r.seq ts body }

/-- Bytes of the hub's staging buffer (R529). -/
def stagingBytes : Nat := 512 * 1024

/-- A record is due: written when recording, its kind enabled and the staging buffer not full; after losses a
GAP record comes first (R529, R533). -/
def Rec.put (r : Rec) (kind flags ts : Nat) (body : List Byte) : Rec :=
  if r.state ≠ .recording ∧ r.state ≠ .post then r
  else if kind ≤ 5 && !bitAt r.kinds (kind - 1) then r
  else if r.buffer.length + 16 + body.length + (if r.lostNow = 0 then 0 else 24) > stagingBytes then
    { r with lostNow := r.lostNow + 1, lost := r.lost + 1 }
  else if r.lostNow = 0 then r.push kind flags ts body
  else
    ({ (r.push 6 0 ts (leBytes 8 r.lostNow)) with lostNow := 0, gaps := satInc 255 r.gaps }).push kind flags ts body

/-- A record with a free place in its link (log 2). -/
def State.record (s : State) (kind flags : Nat) (body : List Byte) : State :=
  (s.onRec fun r => r.put kind flags s.tsNow body).bump

/-- A record of replay into the capture area (R537). -/
def State.capture (s : State) (rec : List Byte) : State :=
  match s.recd.replay with
  | none => s
  | some p =>
    if p.full || p.capture + rec.length > p.captureEnd then
      s.onRec fun r => { r with replay := some { p with full := true } }
    else (s.write p.capture rec).onRec fun r =>
      { r with replay := some { p with capture := p.capture + rec.length }, seq := (r.seq + 1) % 2 ^ 32 }

/-- Body of a SCHED record (R530). A field that the manual does not give for a code is free. -/
def schedBody (s : State) (code : Nat) (part arg0 arg1 : Option Nat) : List Byte :=
  leBytes 2 code ++ leBytes 1 (part.getD (s.draw 1)) ++ leBytes 1 0 ++ leBytes 4 (arg0.getD (s.draw 2)) ++
    leBytes 8 (arg1.getD (s.draw 3))

/-- A SCHED record (R530). -/
def State.sched (s : State) (code : Nat) (part arg0 : Option Nat) : State :=
  s.record 4 0 (schedBody s code part arg0 none)

/-- A trigger of the recorder (R534). The manual gives no numbers for the cause byte: it is free. -/
def State.recTrigger (s : State) (safety : Bool) : State :=
  match s.recd.state with
  | .stopped => s
  | .frozen => s.onRec fun r => { r with missed := satInc 255 r.missed }
  | .post => s.record 7 0 (leBytes 1 (s.draw 1) ++ leBytes 7 0)
  | .recording =>
    (s.record 7 0 (leBytes 1 (s.draw 1) ++ leBytes 7 0)).onRec fun r => { r with
      state := .post
      freezeAt := some (s.tb.link + r.postLinks)
      firstTrigger := s.tsNow
      safetyTrigger := safety }

/-! ### Request slots of the host link (R436, R437, R444, R445) -/

/-- The request that a slot takes: engine 7 first, engines 0 to 6 in round robin from `turn` on. -/
def slotChoice (rs : List HostReq) (turn : Nat) : Option HostReq :=
  match rs.find? fun r => r.engine = 7 with
  | some r => some r
  | none => ((List.range 7).map fun i => (turn + i) % 7).findSome? fun e => rs.find? fun r => r.engine = e

/-- One request slot. -/
def HostLink.slot (h : HostLink) : HostLink :=
  match slotChoice h.reqs h.reqTurn with
  | none => h
  | some r => { h with
      reqs := h.reqs.erase r, granted := h.granted ++ [r]
      reqTurn := if r.engine = 7 then h.reqTurn else (r.engine + 1) % 7 }

/-- So many slots. -/
def HostLink.grant : Nat → HostLink → HostLink
  | 0, h => h
  | n + 1, h => HostLink.grant n h.slot

/-- Slots serve every waiting request; while the link is down they wait (R437). -/
def State.hostSlots (s : State) : State :=
  if s.hl.linkUp && s.hl.reqs ≠ [] then s.onHl fun h => HostLink.grant h.reqs.length { h with granted := [] } else s

/-- Requests for a range of host memory, none of which crosses a 4 KiB boundary. -/
def hostPieces (a n : Nat) : List (Nat × Nat) :=
  (List.range (ceilDiv (a % 4096 + n) 4096)).map fun i =>
    let lo := max a (a / 4096 * 4096 + 4096 * i)
    (lo, min (a + n) (a / 4096 * 4096 + 4096 * (i + 1)) - lo)

/-- An engine asks for a range of host memory. -/
def State.hostRequest (s : State) (engine : Nat) (write : Bool) (a n : Nat) : State :=
  if !isHost a then s
  else (s.onHl fun h => { h with reqs := h.reqs ++ (hostPieces a n).map fun p =>
    { engine := engine, write := write, addr := p.1, len := p.2 } }).hostSlots

/-- An engine of 0 to 3, or of 4 and 5: which of them serves a transfer the manual leaves open (R444). -/
def State.dataEngine (s : State) : Nat := s.draw (2 ^ 40) % 4
def State.swapEngine (s : State) : Nat := 4 + s.draw (2 ^ 40) % 2

/-! ### MSI-X (R442, R443) -/

/-- Vector `v` is masked by its control word. -/
def State.vectorMasked (s : State) (v : Nat) : Bool := bitAt (s.hl.msix.getD (4 * v + 3) 1) 0

/-- Send the message of a vector, or set its pending bit while it is masked or the link is down. -/
def State.sendVector (s : State) (v : Nat) : State :=
  if !s.hl.linkUp || s.vectorMasked v then s.onHl fun h => { h with pba := h.pba ||| 2 ^ v }
  else s.onHl fun h => { h with sent := h.sent ++ [v] }

/-- An event of vector `v` 0 to 15 (R443): a message goes out only when the pending bit rises. -/
def State.raiseEvent (s : State) (v : Nat) : State :=
  let s := if v = 1 && bitAt s.recd.triggers 1 then s.recTrigger true else s
  if bitAt s.hl.events v then s
  else (s.onHl fun h => { h with events := h.events ||| 2 ^ v }).sendVector v

/-! ### Device faults, DEGRADED, modes -/

/-- A bit of DEV_FAULT_CAUSE is set (R547). -/
def State.deviceFault (s : State) (b : Nat) : State :=
  (s.onDev fun d => { d with
    faultLink := if d.faultCause = 0 then s.tb.link else d.faultLink
    faultCause := d.faultCause ||| 2 ^ b }).raiseEvent 0

/-- A mode change takes effect (R546). -/
def State.enterMode (s : State) (m : Mode) : State :=
  (s.onDev fun d => { d with mode := m }).sched 5 none none

/-- The degraded condition is set; RUN passes to DEGRADED in the same link (R506). -/
def State.setDegraded (s : State) : State :=
  let s := s.onSpr fun p => { p with degraded := true }
  if s.dev.mode = .run then s.enterMode .degraded else s

/-! ### The safe state (R399 to R401) -/

/-- Causes that only a start can clear (R399). -/
def startOnly (c : Nat) : Bool := [13, 14, 15, 17, 18, 19, 20, 21, 22, 23].contains c

/-- A cause of the safe state arises (R399 to R401): the first one decides, later ones are recorded; in
REPLAY the decision is captured as a SCHED record (R537). -/
def State.decideSafe (s : State) (c : Nat) : State :=
  let s := if startOnly c then s.onAsz fun a => { a with startCauses := a.startCauses ||| 2 ^ c } else s
  let s := if c = 12 then s.onAsz fun a => { a with p0ReleasedSince := false } else s
  if s.dev.mode = .replay then
    (s.capture (recordBytes 4 0 s.recd.seq s.tsNow (schedBody s 7 none (some c) none))).bump
  else if !s.running then s
  else if s.asz.safe then s.onAsz fun a => { a with
    causes := a.causes ||| 2 ^ c
    releaseCancelled := a.releaseCancelled || a.releaseAt.isSome }
  else
    let s := s.onAsz fun a => { a with
      safe := true, torqueOff := false, entryPending := true, firstCause := c, causes := 2 ^ c
      entryLink := s.tb.link, releaseAt := none, releaseCancelled := false, offUntilPass := false }
    let s := s.sched 7 none (some c)
    if bitAt s.recd.triggers 0 then s.recTrigger true else s

/-! ### Error windows (R496, R500, R501) -/

/-- Window length in links and threshold (R500). -/
def windowLinks : Nat := 2500000
def windowK : Nat := 3

def State.isRetired (s : State) (r : WearEntry) : Bool := s.spr.entries.contains r
def State.isLasting (s : State) (r : WearEntry) : Bool := s.spr.lasting.contains r

/-- Links of a resource's events. -/
def State.windowOf (s : State) (r : WearEntry) : List Nat := (s.spr.windows.lookup r).getD []

/-- The counter of a retired resource stops counting; a lane position or a row address names its spare from then on,
which counts anew (R164, R168, R501). -/
def State.stopsCounting (s : State) (r : WearEntry) : Bool := s.isRetired r && r.kind ≠ 4 && r.kind ≠ 5

/-- A resource becomes lasting (R500); it shows in SPR_LAST. The counters of segment directions and channels,
kinds 9 and 10 here, have no spare and no entry of their own (R497). -/
def State.makeLasting (s : State) (r : WearEntry) : State :=
  if s.stopsCounting r || s.isLasting r || 8 < r.kind then s
  else s.onSpr fun p => { p with lasting := p.lasting ++ [r], since := (r, s.tb.link) :: p.since, last := r }

/-- An error event of a resource, stamped with the present link (R35, R500, R501). -/
def State.errEvent (s : State) (r : WearEntry) : State :=
  if s.stopsCounting r then s
  else
    let w := s.tb.link :: (s.windowOf r).filter fun l => s.tb.link < l + windowLinks
    let s := s.onSpr fun p => { p with windows := (r, w) :: p.windows.filter fun x => x.1 ≠ r }
    if windowK ≤ w.length then s.makeLasting r else s

/-- Several events. -/
def State.errEvents (s : State) (rs : List WearEntry) : State := rs.foldl State.errEvent s

/-- A retirement: entered in the wear record, to be in flash within 500,000 links (R507, R510, R511). -/
def State.retire (s : State) (r : WearEntry) : State :=
  let s := s.onSpr fun p => { p with
    lasting := p.lasting.filter (· ≠ r)
    since := p.since.filter fun x => x.1 ≠ r
    windows := p.windows.filter fun x => x.1 ≠ r
    entries := if p.entries.length < 4091 then p.entries ++ [r] else p.entries
    writeDue := if p.entries.length < 4091 then some (p.writeDue.getD (s.tb.link + 500000)) else p.writeDue }
  if s.spr.entries.contains r || s.spr.recordFull then s
  else (s.onSpr fun p => { p with recordFull := true }).raiseEvent 13

/-! ### Fault injection (R538, R539) -/

/-- A slot's condition selects the unit that is its `n`-th (counted from 1). The pseudo-random generator is
not in the manual: whether it selects a unit is free, apart from probability 0. -/
def Inject.selects (j : Inject) (link n draw : Nat) : Bool :=
  if j.trigger = 1 then j.value ≤ link && j.done = 0
  else if j.trigger = 2 then n % j.value = 0
  else draw % 65536 < bitsOf j.value 47 32

/-- One slot meets a unit: it counts the unit, and acts unless a lower slot has acted. -/
def Inject.meet (j : Inject) (target index dir link draw : Nat) (taken : Bool) : Inject × Bool :=
  if !j.armed || j.target ≠ target || j.index ≠ index || j.dir ≠ dir then (j, false)
  else
    let n := j.units + 1
    if !j.selects link n draw then ({ j with units := n }, false)
    else if taken then ({ j with units := n, suppressed := satInc 255 j.suppressed }, false)
    else
      ({ j with units := n, done := j.done + 1, injected := satInc 65535 j.injected
                armed := !(j.limit ≠ 0 && j.done + 1 = j.limit) }, true)

/-- All slots meet a unit, lowest first: the new slots and the slot that acts. -/
def injectAll (target index dir link : Nat) (draw : Nat → Nat) :
    Nat → Bool → List Inject → List Inject × Option (Nat × Inject)
  | _, _, [] => ([], none)
  | i, taken, j :: r =>
    let (j', acts) := j.meet target index dir link (draw i) taken
    let (r', who) := injectAll target index dir link draw (i + 1) (taken || acts) r
    (j' :: r', if acts then some (i, j') else who)

/-- The slot, if any, that acts on this unit, and the state with every slot's counts. -/
def State.inject (s : State) (target index dir : Nat) : Option (Nat × Inject) × State :=
  let (fi', who) := injectAll target index dir s.tb.link s.draw 0 false s.fi
  (who, ({ s with fi := fi' }).bump)

/-- Flip bit `k` of a byte run (R538, action 2). -/
def flipBit (k : Nat) (bs : List Byte) : List Byte :=
  bs.modify (k / 8) fun b => b ^^^ BitVec.ofNat 8 (2 ^ (k % 8))

end Sys2Proof.Machine
end

