-- ==== Sys2Proof/Machine/Completions.lean ====
section
/-! DEFINITION. Completions and the life of a taken command (R415 to R429): the 64-byte entry, the order in
which entries are written, the completion message, settlement, and the frame of every host command row. -/

namespace Sys2Proof

/-- The opcode field of a completion: family byte, then operation byte (R428). -/
def Cmd.opcode (c : Cmd) : Nat := c.family + 256 * c.operation

/-- Flags of a command header (R421). -/
def Cmd.ordered (c : Cmd) : Bool := bitAt c.flags 0
def Cmd.crcPresent (c : Cmd) : Bool := bitAt c.flags 1
def Cmd.isInline (c : Cmd) : Bool := bitAt c.flags 2
def Cmd.fence (c : Cmd) : Bool := bitAt c.flags 3

/-- Parameter word `i`. -/
def Cmd.word (c : Cmd) (i : Nat) : Nat := c.pw.getD i 0
/-- An address in two consecutive parameter words, the lower word first (R421). -/
def Cmd.addr (c : Cmd) (i : Nat) : Nat := c.word i + 2 ^ 32 * c.word (i + 1)

namespace Machine

/-- A completion entry (R428). -/
def entryBytes (c : Completion) (ts sqHead : Nat) (phase : Bool) : List Byte :=
  leBytes 4 c.tag ++ leBytes 2 c.status ++ leBytes 2 c.opcode ++ leBytes 8 c.res0 ++ leBytes 8 c.res1 ++
    leBytes 8 c.res2 ++ leBytes 8 ts ++ leBytes 2 sqHead ++ leBytes 1 (bit01 phase) ++ leBytes 21 0

/-- A completion may be written now (R426): no unsettled ORDERED command stands before its command, and if
its own command is ORDERED nothing at all stands before it. -/
def Ctx.mayWrite (x : Ctx) (c : Completion) : Bool :=
  x.slots.all fun sl =>
    c.seq ≤ sl.seq || !(sl.cmd.ordered || x.slots.any fun o => o.seq = c.seq && o.cmd.ordered)

/-- A place of the completion ring is free (R415). -/
def Ctx.cqRoom (x : Ctx) : Bool := (x.cqTail + 1) % 2 ^ x.cqLog ≠ x.cqHead

/-- The command at a place is settled (R424). -/
def Ctx.settle (x : Ctx) (seq : Nat) : Ctx := { x with slots := x.slots.filter fun sl => sl.seq ≠ seq }

/-- The completion tail moves on; the phase turns at the end of a pass (R419). -/
def Ctx.bumpTail (x : Ctx) : Ctx :=
  let t := (x.cqTail + 1) % 2 ^ x.cqLog
  { x with cqTail := t, phase := if t = 0 then !x.phase else x.phase }

/-- A delayed or reordered write of a completion entry that injection held back goes out (R538). -/
def State.releaseHeld (s : State) (i : Nat) : State :=
  match (s.fi.getD i {}).held with
  | some (a, _, bs) => ((s.write a bs).hostRequest 7 true a 64).onFi i fun j => { j with held := none }
  | none => s

/-- Write a completion entry's bytes, through fault injection on completion writes (R538, R539): dropped
never written, corrupted with one bit flipped, held back until after the next entry, or delayed by links. -/
def State.writeEntry (s : State) (ring addr : Nat) (bs : List Byte) : State :=
  let reorders := (List.range 16).filter fun i =>
    let j := s.fi.getD i {}
    j.target = 6 && j.index = ring && match j.held with | some (_, due, _) => due = 0 | none => false
  let (who, s) := s.inject 6 ring 0
  let s := match who with
    | none => (s.write addr bs).hostRequest 7 true addr 64
    | some (i, j) =>
      if j.action = 1 then s
      else if j.action = 2 then (s.write addr (flipBit j.param bs)).hostRequest 7 true addr 64
      else s.onFi i fun x => { x with held := some (addr, if j.action = 3 then 0 else s.tb.link + j.param, bs) }
  reorders.foldl State.releaseHeld s

/-- Write one completion of a client context into its ring (R418, R428). -/
def State.writeCompletion (s : State) (ring : Nat) (c : Completion) : State :=
  let x := s.ctx ring
  let s1 := (s.writeEntry ring (x.cqAddr + 64 * x.cqTail) (entryBytes c s.tsNow x.sqHead x.phase)).bump
  let s2 := s1.onCtx ring fun x =>
    let x := (if c.settles then x.settle c.seq else x).bumpTail
    { x with waiting := x.waiting.erase c, stalled := false }
  if x.vector ≠ 0xFF ∧ !x.msgSent then
    (s2.onCtx ring fun x => { x with msgSent := true }).sendVector x.vector
  else s2

/-- Write waiting completions in the order produced, as far as R418 and R426 allow. -/
def State.flush (ring : Nat) : Nat → State → State
  | 0, s => s
  | k + 1, s =>
    if !s.hl.linkUp then s
    else
      match (s.ctx ring).waiting.find? (s.ctx ring).mayWrite with
      | none => s
      | some c =>
        if (s.ctx ring).cqRoom then State.flush ring k (s.writeCompletion ring c)
        else s.onCtx ring fun x => { x with stalled := true }

/-- Write what can be written of a ring. -/
def State.flushRing (s : State) (ring : Nat) : State :=
  State.flush ring (s.ctx ring).waiting.length s

/-- The answer to a command over CAN0: its entry in one frame on identifier 0x7E1 (R486). The submission head
and the phase have no meaning there and are free. -/
def State.canReply (s : State) (c : Completion) : State :=
  ((s.onCan 0 fun k => { k with
    replies := k.replies ++ [(0x7E1, entryBytes c s.tsNow (s.draw 1 % 65536) (s.draw 2 % 2 = 1))] }).bump).onCtx
      256 fun x => x.settle c.seq

/-- A completion is produced (R418, R429): discarded when its context closed, else it waits its turn; a
release completion that finds the 64 places full is dropped and counted. -/
def State.produce (s : State) (ring : Nat) (c : Completion) : State :=
  if ring = 256 then s.canReply c
  else
    let x := s.ctx ring
    if !x.isOpen || x.closing || (c.settles && c.seq < x.muteBelow) then
      s.onCtx ring fun x => if c.settles then x.settle c.seq else x
    else if c.release && 64 ≤ (x.waiting.filter (·.release)).length then
      s.onCtx ring fun x => { x with dropped := satInc 255 x.dropped }
    else
      (s.onCtx ring fun x => { x with
        waiting := x.waiting ++ [c]
        slots := x.slots.map fun sl => if c.settles && sl.seq = c.seq then { sl with state := .completing } else sl
        }).flushRing ring

/-- Place of a started command in its ring. -/
def State.seqOf (s : State) (c : Cmd) : Nat :=
  (((s.ctx c.ring).slots.find? fun sl => sl.cmd = c && sl.state = .started).map (·.seq)).getD 0

/-- A started command completes (R428, R429). -/
def State.complete (s : State) (c : Cmd) (status : Nat) (res0 : Nat := 0) (res1 : Nat := 0)
    (res2 : Nat := 0) : State :=
  s.produce c.ring { seq := s.seqOf c, tag := c.tag, status := status, opcode := c.opcode,
                     res0 := res0, res1 := res1, res2 := res2 }

/-- A started command does not complete yet: it waits. -/
def State.await (s : State) (c : Cmd) (w : Wait) : State :=
  s.onHl fun h => { h with opens := h.opens ++ [{ cmd := c, wait := w }] }

/-- The commands that wait for something. -/
def State.awaiting (s : State) (p : Wait → Bool) : List Cmd :=
  (s.hl.opens.filter fun o => p o.wait).map (·.cmd)

/-- What commands wait for has come: they complete with one status and the result words. -/
def State.finish (s : State) (p : Wait → Bool) (status : Nat) (res0 : Nat := 0) (res1 : Nat := 0)
    (res2 : Nat := 0) : State :=
  let cs := s.awaiting p
  cs.foldl (fun x c => x.complete c status res0 res1 res2)
    (s.onHl fun h => { h with opens := h.opens.filter fun o => !p o.wait })

/-- The command is the next of its ring to start, and its fence, if any, is satisfied (R423, R425). -/
def State.startable (s : State) (c : Cmd) : Bool :=
  match (s.ctx c.ring).slots.find? (fun sl => sl.state = .waiting) with
  | none => false
  | some sl =>
    sl.cmd = c && (!c.fence || (s.ctx c.ring).slots.all fun o => sl.seq ≤ o.seq)

/-- The next waiting command of a ring starts (R423). -/
def markStarted : List Slot → List Slot
  | [] => []
  | sl :: r => if sl.state = .waiting then { sl with state := .started } :: r else sl :: markStarted r

/-- A deadline TS has passed (R427). -/
def State.deadlinePassed (s : State) (deadline : Nat) : Bool := deadline ≠ 0 && deadline < s.tsNow

end Machine

end Sys2Proof
end

