-- ==== Sys2Proof/Machine/Segments.lean ====
section
/-! DEFINITION. The senders of the package ring (chapter 02): flits and packets, routes, the channel of an
originator, arbitration, credits and tokens of a segment direction, and what a transfer between two dies puts on
the ring (R37 to R54). -/

namespace Sys2Proof

def RingDir.code : RingDir → Nat
  | .fwd => 0
  | .rev => 1

/-! ### Flits (R42, R44) -/

def Flit.header (f : Flit) : List Byte :=
  leBytes 1 (f.dest % 8 + 8 * (f.src % 8) + 64 * (f.vc % 4)) ++
  leBytes 1 (f.kind % 16 + 16 * bit01 f.first + 32 * bit01 f.last + 64 * bit01 f.poison + 128 * bit01 f.rsv) ++
  leBytes 2 (f.seq % 4096 + 4096 * (f.rsvSeq % 16))

/-- The check of a flit: CRC-32C over header bytes 0 to 3 and the body. -/
def Flit.check (f : Flit) : Nat := Machine.crc32c (f.header ++ f.body)
/-- The 72 bytes on the wire. -/
def Flit.bytes (f : Flit) : List Byte := f.header ++ leBytes 4 f.crc ++ f.body

def parseFlit (bs : List Byte) : Flit :=
  let r := fieldAt bs 0 1
  let k := fieldAt bs 1 1
  let q := fieldAt bs 2 2
  { dest := r % 8, src := bitsOf r 5 3, vc := bitsOf r 7 6, kind := k % 16, first := bitAt k 4, last := bitAt k 5
    poison := bitAt k 6, rsv := bitAt k 7, seq := q % 4096, rsvSeq := q / 4096, crc := fieldAt bs 4 4
    body := bs.drop 8 }

/-- A flit kind that is sequenced and buffered (R43). -/
def Flit.sequenced (f : Flit) : Bool := 4 ≤ f.kind
/-- A packet kind (R42); codes 9 to 15 are reserved. -/
def Flit.packet (f : Flit) : Bool := 4 ≤ f.kind && f.kind ≤ 8

/-- The descriptor of a packet (R44). -/
def Desc.bytes (d : Desc) : List Byte :=
  leBytes 8 d.dpa ++ leBytes 2 d.length ++ leBytes 2 d.tag ++ leBytes 1 d.status ++ leBytes 1 d.requester ++
    leBytes 1 d.peer ++ leBytes 1 0 ++ (d.message ++ List.replicate 48 0).take 48

namespace Machine

/-! ### Places on the ring (R38, R39) -/

/-- Direction of a route between two ring die numbers. -/
def routeDir (src dst : Nat) : RingDir := if (dst + 5 - src) % 5 ≤ 2 then .fwd else .rev
/-- The die that sends on a segment direction, and the die that receives. -/
def senderDie (g : Nat) : RingDir → Nat
  | .fwd => g
  | .rev => (g + 1) % 5
def receiverDie (g : Nat) : RingDir → Nat
  | .fwd => (g + 1) % 5
  | .rev => g
/-- The segment on which a die sends in a direction, and the one that feeds a segment direction. -/
def segmentFrom (die : Nat) : RingDir → Nat
  | .fwd => die
  | .rev => (die + 4) % 5
def upstream (g : Nat) : RingDir → Nat
  | .fwd => (g + 4) % 5
  | .rev => (g + 1) % 5
/-- The flits of a packet: its descriptor and its data in runs of 64 bytes. -/
def packetFlits (src dst vc kind : Nat) (d : Desc) (data : List Byte) (poison : Bool) : List Flit :=
  let n := ceilDiv data.length 64
  let one (i : Nat) (body : List Byte) : Flit :=
    { dest := dst, src := src, vc := vc, kind := kind, first := i = 0, last := i = n
      poison := poison && decide (0 < i), body := body }
  one 0 d.bytes :: (List.range n).map fun i =>
    one (i + 1) (((data.drop (64 * i)).take 64 ++ List.replicate 64 0).take 64)

/-! ### The sender: arbitration, credits, replay (R49 to R54) -/

def SegDir.queue (d : SegDir) (v : Nat) : List Flit := d.sendQ.getD v []
/-- A channel has a flit and a credit for it. -/
def SegDir.ready (d : SegDir) (v : Nat) : Bool := d.queue v ≠ [] && decide (0 < d.credits.getD v 0)

/-- Shares of VC1, VC2 and VC3 (R52). -/
def shares : List Nat := [12, 7, 1]

/-- The channel that sends next, and the deficits before it sends. -/
def SegDir.choose (d : SegDir) : Option (Nat × List Nat) :=
  if d.ready 0 && decide (0 < d.tokens) then some (0, d.deficits)
  else match [1, 2, 3].find? fun v => d.ready v && decide (0 < d.deficits.getD (v - 1) 0) with
    | some v => some (v, d.deficits)
    | none => ([1, 2, 3].find? d.ready).map fun v => (v, shares)

/-- Flit slots go by, taken or idle: every 20th gives the bucket a token, up to 64 (R50). -/
def SegDir.pass (d : SegDir) (n : Nat) : SegDir :=
  { d with tokens := min 64 (d.tokens + (d.tokenSlots + n) / 20), tokenSlots := (d.tokenSlots + n) % 20
           slots := d.slots + n }

/-- The head of a channel goes on the wire with the next sequence number, and into the replay buffer. -/
def SegDir.send (d : SegDir) (v : Nat) (def' : List Nat) : SegDir :=
  match d.queue v with
  | [] => d
  | f :: rest =>
    let g := { f with seq := d.txSeq, rsvSeq := 0 }
    let g := { g with crc := g.check }
    ({ d with
      sendQ := d.sendQ.set v rest
      credits := d.credits.modify v (· - 1)
      tokens := if v = 0 then d.tokens - 1 else d.tokens
      vc0Waits := d.vc0Waits && v ≠ 0
      deficits := if v = 0 then def' else def'.modify (v - 1) (· - 1)
      txSeq := (d.txSeq + 1) % 4096
      replay := d.replay ++ [g]
      wire := d.wire ++ [g] }).pass 1

/-- Receive buffers of a virtual channel are free again: their credits are owed to the sender (R49). -/
def State.freeBuffers (s : State) (g : Nat) (dir : RingDir) (v n : Nat) : State :=
  s.onSegDir g dir fun d => { d with owed := d.owed.modify v (· + n) }

/-- Flit slots of the link in progress: 0.28125 ns each, twice that at 64 lanes (R41). -/
def State.linkSlots (s : State) (g : Nat) (dir : RingDir) : Nat :=
  s.tb.cycles * 320 / (if (s.segDir g dir).narrow then 18 else 9)

/-- The segment direction may send: trained, no retraining, room in the replay buffer, and a slot of the link left
(R54, R59). -/
def State.sendsFlits (s : State) (g : Nat) (dir : RingDir) : Bool :=
  (s.segDir g dir).up && !(s.seg g).retraining && decide ((s.segDir g dir).replay.length < 256) &&
    decide ((s.segDir g dir).slots < s.linkSlots g dir)

/-- A VC0 flit that finds the bucket empty is counted once (R51). -/
def State.countVc0 (s : State) (g : Nat) (dir : RingDir) : State :=
  let d := s.segDir g dir
  if d.ready 0 && d.tokens = 0 && !d.vc0Waits then
    (s.onSeg g fun x => { x with vc0Over := satInc 65535 x.vc0Over }).onSegDir g dir fun d => { d with vc0Waits := true }
  else s

/-- Slot after slot, waiting flits go out as far as credits, tokens and the replay buffer allow: a VC0 flit without
a token waits for the next one while flits of other channels, or nothing, take the slots (R50, R51). -/
def State.pumpN (g : Nat) (dir : RingDir) : Nat → State → State
  | 0, s => s
  | k + 1, s =>
    if !s.sendsFlits g dir then s
    else
      let s := s.countVc0 g dir
      match (s.segDir g dir).choose with
      | none => if (s.segDir g dir).ready 0 then State.pumpN g dir k (s.onSegDir g dir fun d => d.pass 1) else s
      | some (v, def') =>
        let through := ((s.segDir g dir).queue v).head?.any fun f => f.src ≠ senderDie g dir
        let s := s.onSegDir g dir fun d => d.send v def'
        State.pumpN g dir k (if through then s.freeBuffers (upstream g dir) dir v 1 else s)

/-- The time since the latest flit of a segment direction is not fixed: a free number of the link's slots has gone
by idle (R50, log 49). -/
def State.idleSlots (s : State) (g : Nat) (dir : RingDir) : State :=
  (s.onSegDir g dir fun d => d.pass (s.draw 0 % (s.linkSlots g dir - d.slots + 1))).bump

/-- What waits at a segment direction goes out as far as it may. -/
def State.pump (s : State) (g : Nat) (dir : RingDir) : State :=
  let n := ((s.segDir g dir).sendQ.map List.length).sum
  if n = 0 then s else State.pumpN g dir (21 * n) (s.idleSlots g dir)

/-- Flits of one of the sending die's own packets wait for their turn; a packet that is being forwarded on the
channel ends first (R45). -/
def State.queueFlits (s : State) (g : Nat) (dir : RingDir) (v : Nat) (fs : List Flit) : State :=
  (s.onSegDir g dir fun d =>
    if d.partWay.getD v false then { d with heldQ := d.heldQ.modify v (· ++ fs) }
    else { d with sendQ := d.sendQ.modify v (· ++ fs) }).pump g dir

/-- A flit is passed on at once, before the rest of its packet has arrived (R40, R45). -/
def State.forwardFlit (s : State) (g : Nat) (dir : RingDir) (f : Flit) : State :=
  (s.onSegDir g dir fun d =>
    if f.last then { d with
      sendQ := d.sendQ.modify f.vc (· ++ f :: d.heldQ.getD f.vc []), heldQ := d.heldQ.set f.vc []
      partWay := d.partWay.set f.vc false }
    else { d with sendQ := d.sendQ.modify f.vc (· ++ [f]), partWay := d.partWay.set f.vc true }).pump g dir

/-- A die puts a packet to another die on its one route. -/
def State.launch (s : State) (src dst vc kind : Nat) (p : RingPacket) : State :=
  if src = dst then s
  else s.queueFlits (segmentFrom src (routeDir src dst)) (routeDir src dst) vc
    (packetFlits src dst vc kind p.desc p.data p.poison)

/-! ### Who sends on which channel (R48, R66) -/

/-- The originators of ring traffic (R48, R66). -/
inductive Origin where
  | control
  | realTime
  | bulk
  | management
deriving DecidableEq, Repr

/-- Virtual channel of an originator's traffic (R48). -/
def Origin.channel : Origin → Nat
  | .control => 0
  | .realTime => 1
  | .bulk => 2
  | .management => 3

/-- Originators by the class of a partition's jobs: CTL, PER, and DEL or BGD (R48, R342). -/
def classOrigin (cls : Nat) : Origin := if cls = 0 then .control else if cls = 1 then .realTime else .bulk

/-- The job that stands on a core gives its traffic its class; a tile program cannot choose (R48). -/
def State.coreOrigin (s : State) (c : Nat) : Origin :=
  match (s.core c).job.bind fun k => s.sch.jobs.find? fun j => j.key = k with
  | some j => classOrigin j.cls
  | none => .bulk

/-- Hub control cores and die managers. -/
def isFirmware (req : Nat) : Bool := req = 0xFF || req = 0xF0 || req = 0xF1

/-- A request of this requester and peer byte travels on this channel (R48, R66): a core's on that of its job; hub
DMA serves CTL, PER and bulk work; firmware sends control and management traffic; another package's accesses never
travel on VC0 or VC1. -/
def State.channelFits (s : State) (vc : Nat) (d : Desc) : Bool :=
  if bitAt d.peer 2 then vc = 2 || vc = 3
  else if d.requester < 64 then vc = (s.coreOrigin d.requester).channel
  else if d.requester = 0xFE then vc ≤ 2
  else if isFirmware d.requester then vc = 0 || vc = 3
  else vc ≤ 3

/-- A range of scratchpad bytes meets the code region of the job on its core (R100). -/
def State.meetsCode (s : State) (a n : Nat) : Bool :=
  isSpad a && ((s.core (spadCore a)).job.bind fun k => s.sch.jobs.find? fun j => j.key = k).any fun j =>
    overlaps a n (spadOf (spadCore a) + 4 * j.codeBase) j.codeBytes

/-! ### Transfers between dies (R37, R44, R46, R68) -/

/-- Ring die number of the die that serves an address (R37, R60): host memory and other packages lie behind HD. -/
def servingDie (a : Nat) : Nat :=
  if isDram a then a / stackSize + 1 else if isSpad a then spadCore a / 16 + 1 else 0

/-- Pieces of at most 256 bytes: offset and length (R44). -/
def ringPieces (n : Nat) : List (Nat × Nat) := (List.range (ceilDiv n 256)).map fun i => (256 * i, min 256 (n - 256 * i))

/-- A read by a die crosses the ring: its READ_REQ packets, and the READ_RSP packets with the data. -/
def State.carryRead (s : State) (o : Origin) (die req a : Nat) (data : List Byte) : State :=
  if servingDie a = die then s
  else (ringPieces data.length).foldl (fun x p =>
    let d : Desc := { dpa := a + p.1, length := p.2, requester := req }
    (x.launch die (servingDie a) o.channel 4 { kind := 4, desc := d }).launch (servingDie a) die o.channel 6
      { kind := 6, desc := d, data := (data.drop p.1).take p.2 }) s

/-- A write by a die crosses the ring: its WRITE_REQ packets with the data, and the WRITE_RSP packets. -/
def State.carryWrite (s : State) (o : Origin) (die req a : Nat) (data : List Byte) : State :=
  if servingDie a = die then s
  else (ringPieces data.length).foldl (fun x p =>
    let d : Desc := { dpa := a + p.1, length := p.2, requester := req }
    (x.launch die (servingDie a) o.channel 5 { kind := 5, desc := d, data := (data.drop p.1).take p.2 }).launch
      (servingDie a) die o.channel 7 { kind := 7, desc := d }) s

/-- Hub DMA moves bytes between two ranges: the source is read over the ring and the destination written over it. -/
def State.carryHub (s : State) (o : Origin) (src dst : Nat) (data : List Byte) : State :=
  (s.carryRead o 0 0xFE src data).carryWrite o 0 0xFE dst data

/-- A message of hub firmware to another die (R44, R48). -/
def State.carryMessage (s : State) (o : Origin) (dst : Nat) (body : List Byte) : State :=
  s.launch 0 dst o.channel 8 { kind := 8, desc := { requester := 0xFF, message := body } }

/-- A request to another package leaves over the P-links, its peer byte naming both packages (R44, R66, R68). -/
def State.leavePackage (s : State) (kind : Nat) (d : Desc) (pkg : Nat) (data : List Byte) : State :=
  s.onRing fun r => { r with peerOut := r.peerOut ++
    [{ kind := kind, desc := { d with peer := pkg % 4 + 4 + 8 * (s.dev.package % 4) }, data := data }] }

end Machine

end Sys2Proof
end

