-- ==== Sys2Proof/Machine/DramRows.lean ====
section
/-! DEFINITION. Stacked DRAM (chapter 06): the decode of an address, what the error codes of an access do, row
remaps, lane spares, patrol scrub, refresh, and the bands and trip of a stack. -/

namespace Sys2Proof.Machine

/-! ### Address decode (R154) and resources (R508) -/

def chanOf (a : Nat) : Nat := a % stackSize / 2 ^ 6 % 32
def rowBank (a : Nat) : Nat := a % stackSize / 2 ^ 15 % 16
def rowDie (a : Nat) : Nat := a % stackSize / 2 ^ 19 % 8
def rowNumber (a : Nat) : Nat := a % stackSize / 2 ^ 22

/-- The row that holds an address, as the wear record names it. -/
def rowEntry (a : Nat) : WearEntry :=
  { kind := 5, place := a / stackSize, unit := chanOf a
    detail := rowNumber a + 2 ^ 13 * rowDie a + 2 ^ 16 * rowBank a }

/-- Number of the 32 KiB block that holds a row: o[34:15] (R170, R508). -/
def blockOfRow (r : WearEntry) : Nat := r.detail % 2 ^ 13 * 128 + r.detail / 2 ^ 13 % 8 * 16 + r.detail / 2 ^ 16 % 16

def tsvLane (d ch lane : Nat) : WearEntry := { kind := 4, place := d, unit := ch, detail := lane }
/-- The counter of a channel's failed transfers (R497). -/
def channelCounter (d ch : Nat) : WearEntry := { kind := 10, place := d, unit := ch }

/-- The stack answers accesses. -/
def Dram.serves (m : Dram) : Bool := m.trained && !m.dead && !m.selfRefresh

/-! ### Row remaps (R167 to R170) -/

/-- The block of a row is withdrawn from allocation (R170). -/
def State.withdrawBlock (s : State) (r : WearEntry) : State :=
  let b := r.place * stackSize + 32768 * blockOfRow r
  if (s.dramAt r.place).withdrawn.contains b then s
  else ((s.onDram r.place fun m => { m with withdrawn := m.withdrawn ++ [b] }).retire
    { kind := 6, place := r.place, detail := blockOfRow r }).setDegraded

/-- A row must be remapped: its copy into the lowest free spare row of its channel starts, unless one runs. -/
def State.remapRow (s : State) (r : WearEntry) : State :=
  let m := s.dramAt r.place
  let used := (m.remaps.filter fun x => x.row.unit = r.unit).length
  if m.remaps.any fun x => x.row = r && x.copying then s
  else if 256 ≤ used then s.withdrawBlock r
  else s.onDram r.place fun m => { m with remaps := m.remaps ++ [{ row := r, spare := used }] }

/-- The oldest copy of a stack completes: its granules that read uncorrectable carry the check pattern, and its
entry becomes valid in place of an older one of that row. -/
def State.remapDone (s : State) (d : Nat) : State :=
  match (s.dramAt d).remaps.find? (·.copying) with
  | none => s
  | some x =>
    let s := s.poisonGranules (s.mem.poison.filter fun g => rowEntry g = x.row) true
    (s.onDram d fun m => { m with
      remaps := m.remaps.map fun y =>
        if y = x then { y with copying := false, valid := true }
        else if y.row = x.row then { y with valid := false } else y }).retire x.row

/-- ROW_REMAP_DONE (R168). -/
def execRowRemapDone (die : Nat) (s : State) : Out := .next (s.remapDone die)

/-! ### What an access met (R157 to R163) -/

/-- Events against the lanes of failed transfers; a channel that failed every retry counts too, and is scanned
when it is lasting (R163, R497). -/
def State.laneEvents (s : State) (d ch retries : Nat) (lanes : List Nat) (failed : Bool) : State :=
  let s := s.onDram d fun m => { m with retries := satAdd 65535 m.retries retries }
  let s := s.errEvents (lanes.map (tsvLane d ch))
  if !failed then s
  else
    let s := s.errEvent (channelCounter d ch)
    if windowK ≤ (s.windowOf (channelCounter d ch)).length && !(s.dramAt d).scanDue.contains ch then
      s.onDram d fun m => { m with scanDue := m.scanDue ++ [ch] }
    else s

/-- A corrected error (R158, R168). -/
def State.correctedError (s : State) (a : Nat) : State :=
  let r := rowEntry a
  let s := (s.onDram r.place fun m => { m with corrected := satInc 65535 m.corrected }).errEvent r
  if s.isLasting r then s.remapRow r else s

/-- An uncorrectable error (R159): the granule is poisoned, its address recorded, and its row remapped unless the
granule holds the check pattern of an earlier remap. -/
def State.uncorrectableError (s : State) (a : Nat) : State :=
  let known := s.mem.checkPat.contains (granule a)
  let s := (s.poisonGranules [granule a] known).onDram (a / stackSize) fun m => { m with
    uncorrected := satInc 65535 m.uncorrected, lastUe := granule a }
  if known then s else s.remapRow (rowEntry a)

/-- What a granule's read gives: one that is poisoned, or holds the check pattern of a remap, reads uncorrectable
until it is written in full (R159, R168). -/
def State.granuleEcc (s : State) (g : Nat) : Ecc → Ecc
  | .transferFailed lanes => .transferFailed lanes
  | e => if s.mem.poison.contains g then .uncorrectable else e

/-- The read of a granule: whether its data is poisoned, and what it leaves (R158, R159, R163). -/
def State.readGranule (s : State) (g : Nat) (e : Ecc) : Bool × State :=
  match s.granuleEcc g e with
  | .ok => (false, s)
  | .corrected => (false, s.correctedError g)
  | .uncorrectable => (true, s.uncorrectableError g)
  | .retried n lanes => (false, s.laneEvents (g / stackSize) (chanOf g) n lanes false)
  | .transferFailed lanes => (true, s.laneEvents (g / stackSize) (chanOf g) 3 lanes true)

/-- The granules of a read, each with what its access meets. -/
def State.readGranules : List Nat → List Ecc → State → Bool × State
  | [], _, s => (false, s)
  | g :: gs, es, s =>
    let r := s.readGranule g (es.headD .ok)
    let t := State.readGranules gs es.tail r.2
    (r.1 || t.1, t.2)

/-- A read of a range meets in each of its granules what `ecc` lists, and nothing where the list ends: whether data
is poisoned, and what is counted, recorded and remapped. A stack that does not answer counts nothing (R173). -/
def State.dramRead (s : State) (a n : Nat) (ecc : List Ecc) : Bool × State :=
  if !isDram a then (false, s)
  else if s.dramDead a then (true, s)
  else State.readGranules (granulesOf a n) ecc s

/-- What a read of a range leaves behind (R159, R168). -/
def State.afterRead (s : State) (a n : Nat) : State := (s.dramRead a n []).2

/-- The bytes of a write that fall into a granule. -/
def granulePart (a : Nat) (data : List Byte) (g : Nat) : Nat × List Byte :=
  if a ≤ g then (g, (data.drop (g - a)).take 64) else (a, data.take (g + 64 - a))

/-- The write of a granule's bytes (R161, R163): whether it failed. A full granule is replaced; a part of one is a
read and a write, and stays undone where that read is uncorrectable. -/
def State.writeGranule (s : State) (a : Nat) (data : List Byte) (g : Nat) (e : Ecc) : Bool × State :=
  let p := granulePart a data g
  let whole := p.2.length = 64
  match e with
  | .transferFailed lanes => (true, s.laneEvents (g / stackSize) (chanOf g) 3 lanes true)
  | .retried n lanes =>
    let s := s.laneEvents (g / stackSize) (chanOf g) n lanes false
    if whole || !s.mem.poison.contains g then (false, s.write p.1 p.2) else (true, s.uncorrectableError g)
  | .uncorrectable => if whole then (false, s.write p.1 p.2) else (true, s.uncorrectableError g)
  | .corrected =>
    if whole then (false, s.write p.1 p.2)
    else if s.mem.poison.contains g then (true, s.uncorrectableError g)
    else (false, (s.correctedError g).write p.1 p.2)
  | .ok => if whole || !s.mem.poison.contains g then (false, s.write p.1 p.2) else (true, s.uncorrectableError g)

/-- The granules of a write. -/
def State.writeGranules (a : Nat) (data : List Byte) : List Nat → List Ecc → State → Bool × State
  | [], _, s => (false, s)
  | g :: gs, es, s =>
    let r := s.writeGranule a data g (es.headD .ok)
    let t := State.writeGranules a data gs es.tail r.2
    (r.1 || t.1, t.2)

/-- A write of a range: whether it failed, and the state it leaves. -/
def State.dramWrite (s : State) (a : Nat) (data : List Byte) (ecc : List Ecc) : Bool × State :=
  if s.dramDead a then (true, s)
  else if !isDram a || (ecc = [] && !s.writePoisoned a data.length) then (false, s.write a data)
  else State.writeGranules a data (granulesOf a data.length) ecc s

/-! ### Transfers of hub DMA (R37, R161) -/

/-- Hub DMA writes bytes at an address, over the ring where another die holds it: whether it failed. That the
transfers of a host command are bulk traffic R48 does not say (DESIGN CHOICE 155). -/
def State.putOut (s : State) (a : Nat) (out : List Byte) : Bool × State :=
  let r := s.dramWrite a out []
  (r.1, (r.2.hostRequest s.dataEngine true a out.length).carryWrite .bulk 0 0xFE a out)

/-- Hub DMA moves a range: it is read where it lies, crosses the ring and is written. -/
def State.moveBytes (s : State) (src dst n : Nat) : Bool × State :=
  let data := s.bytesAt src n
  (((s.afterRead src n).hostRequest s.dataEngine false src n).carryRead .bulk 0 0xFE src data).putOut dst data

/-! ### Patrol scrub (R166) -/

/-- Scrub runs in these modes. -/
def State.scrubs (s : State) : Bool := s.running || s.dev.mode = .config

/-- PATROL_SCRUB_READ (R166, R159): the next granule in address order; an uncorrectable error is a block event. -/
def execPatrolScrubRead (die : Nat) (ecc : Ecc) (s : State) : Out :=
  .next (if !s.scrubs || !(s.dramAt die).serves then s
    else
      let g := die * stackSize + (s.dramAt die).scrub
      let s1 := (s.readGranule g ecc).2
      let s2 := s1.onDram die fun m => { m with scrub := (m.scrub + 64) % stackSize }
      if s.granuleEcc g ecc = .uncorrectable then s2.raiseEvent 4 else s2)

/-! ### Refresh and lane spares (R164, R165, R172, R497) -/

/-- A lasting lane of a channel: a spare of its group takes its place, or the channel runs on its other group. -/
def State.retireTsvLane (s : State) (d ch lane : Nat) : State :=
  let group := (s.dramAt d).lanesRetired.filter fun x => x.1 = ch && x.2 / 64 = lane / 64
  let s := s.retire (tsvLane d ch lane)
  if group.length < 2 then s.onDram d fun m => { m with lanesRetired := m.lanesRetired ++ [(ch, lane)] }
  else (s.onDram d fun m => { m with
      narrow := if m.narrow.contains ch then m.narrow else m.narrow ++ [ch] }).setDegraded

/-- Lanes of a channel that are lasting, ascending (R502). -/
def State.lastingTsv (s : State) (d ch : Nat) : List Nat :=
  (List.range 128).filter fun l => s.isLasting (tsvLane d ch l)

/-- DRAM_REFRESH (R172): lasting lanes are replaced; a due scan makes the lanes that fail it lasting, to be
replaced at the next refresh (DEDUCED 38). -/
def execDramRefresh (die channel : Nat) (scanFails : List Nat) (s : State) : Out :=
  .next (if !(s.dramAt die).serves then s
    else
      let s1 := if (s.dramAt die).scanDue.contains channel then
          scanFails.foldl (fun x l => x.makeLasting (tsvLane die channel l))
            (s.onDram die fun m => { m with scanDue := m.scanDue.filter (· ≠ channel) })
        else s
      (s.lastingTsv die channel).foldl (fun x l => x.retireTsvLane die channel l) s1)

/-! ### Temperature bands and the trip (R171 to R173) -/

/-- Lower bound of a band in degrees. -/
def bandBound (b : Nat) : Nat := if b = 0 then 0 else if b = 1 then 85 else if b = 2 then 98 else 101

/-- The band a temperature names on its own. -/
def bandOf (t : Nat) : Nat := if t < 85 then 0 else if t < 98 then 1 else if t < 101 then 2 else 3

/-- The band after a sample: hotter at once, cooler only 2 degrees below the bound between (R171). -/
def nextBand (cur t : Nat) : Nat :=
  if cur ≤ bandOf t then bandOf t
  else if t + 2 ≤ bandBound cur then
    (if t + 2 ≤ bandBound (cur - 1) then (if t + 2 ≤ bandBound (cur - 2) then cur - 3 else cur - 2) else cur - 1)
  else cur

/-- A stack trips (R173). -/
def State.tripStack (s : State) (d : Nat) : State :=
  if (s.dramAt d).tripped then s
  else ((s.onDram d fun m => { m with tripped := true, dead := true, selfRefresh := true, trained := false }).deviceFault 2).decideSafe
    17

/-- The sample of a stack at a chain boundary (R171). -/
def State.sampleStack (s : State) (d t : Nat) : State :=
  let s := s.onDram d fun m => { m with temp := t, nextBand := nextBand m.band t }
  if 105 ≤ t && (s.dramAt d).trained then s.tripStack d else s

end Sys2Proof.Machine
end

