-- ==== Sys2Proof/Machine/Operands.lean ====
section
/-! DEFINITION. The operands of host commands: the header's encoding (R421), the operation table with fixed
lengths, parameter words and contexts (R433, R573), the checks of R422, and the frame that every host
command row shares (R423, R425, R427, R525). -/

namespace Sys2Proof

/-- The 64 bytes of a command header (R421). -/
def Cmd.headerBytes (c : Cmd) : List Byte :=
  leBytes 1 c.family ++ leBytes 1 c.operation ++ leBytes 2 c.flags ++ leBytes 4 c.tag ++ leBytes 2 c.context ++
    leBytes 1 c.partition ++ leBytes 1 c.rsv11 ++ leBytes 4 c.length ++ leBytes 8 c.payload ++
    leBytes 8 c.deadline ++ leBytes 8 c.rsv32 ++ (List.range 5).flatMap (fun i => leBytes 4 (c.word i)) ++
    leBytes 4 c.crc

/-- A command header read from 64 bytes (R421). -/
def parseHeader (ring : Nat) (bs data : List Byte) : Cmd :=
  { ring := ring, family := fieldAt bs 0 1, operation := fieldAt bs 1 1, flags := fieldAt bs 2 2
    tag := fieldAt bs 4 4, context := fieldAt bs 8 2, partition := fieldAt bs 10 1, rsv11 := fieldAt bs 11 1
    length := fieldAt bs 12 4, payload := fieldAt bs 16 8, deadline := fieldAt bs 24 8
    rsv32 := fieldAt bs 32 8, pw := (List.range 5).map (fun i => fieldAt bs (40 + 4 * i) 4)
    crc := fieldAt bs 60 4, data := data }

namespace Machine

/-- Payload length of an operation (R573). -/
inductive LenRule where
  | fixed (n : Nat)
  | atLeastOne
  | ownRule
deriving DecidableEq, Repr

/-- A row of the operation table: codes, payload length, context 0 only, and the bits of each parameter
word that the operation uses (R433, R573). -/
structure OpRow where
  fam : Nat := 0
  op : Nat := 0
  len : LenRule := .fixed 0
  only0 : Bool := true
  words : List Nat := []
deriving DecidableEq, Repr

def w32 : Nat := 0xFFFFFFFF

/-- Families DEV to KV. -/
def opTableA : List OpRow := [
  ⟨1, 1, .fixed 0, false, []⟩,
  ⟨1, 2, .fixed 0, true, [0xF]⟩,
  ⟨1, 3, .fixed 32, true, []⟩,
  ⟨1, 4, .fixed 0, true, [0xFF]⟩,
  ⟨1, 5, .fixed 0, false, [w32, w32, w32]⟩,
  ⟨1, 6, .fixed 32, false, [w32, w32, w32]⟩,
  ⟨2, 1, .fixed 0, false, [0xF, w32, 0x1F]⟩,
  ⟨2, 2, .fixed 0, false, [w32, w32]⟩,
  ⟨2, 3, .fixed 0, false, [w32, w32, w32, w32, w32]⟩,
  ⟨2, 4, .fixed 0, false, [w32, w32, w32, w32]⟩,
  ⟨2, 5, .fixed 0, true, [0xF33F, w32, w32, w32]⟩,
  ⟨2, 6, .fixed 0, true, [0x3F]⟩,
  ⟨3, 1, .fixed 128, false, []⟩,
  ⟨3, 2, .fixed 0, false, [w32, 0xFF]⟩,
  ⟨3, 3, .fixed 0, false, [w32, 0xFF]⟩,
  ⟨4, 1, .ownRule, true, [0xFFFF]⟩,
  ⟨4, 2, .fixed 0, true, []⟩,
  ⟨4, 3, .fixed 0, true, [0xF0F]⟩,
  ⟨4, 4, .fixed 0, false, [0x800000FF]⟩,
  ⟨5, 1, .fixed 16, true, []⟩,
  ⟨5, 2, .fixed 64, false, []⟩,
  ⟨5, 3, .fixed 32, false, [w32, w32, w32]⟩,
  ⟨5, 4, .fixed 0, false, [w32]⟩,
  ⟨5, 5, .fixed 0, true, [w32, w32, w32]⟩,
  ⟨5, 6, .fixed 0, false, [w32]⟩,
  ⟨5, 7, .fixed 0, false, [w32]⟩,
  ⟨5, 8, .fixed 0, true, [w32, w32]⟩,
  ⟨5, 9, .fixed 0, false, [w32]⟩]

/-- Families SOL to PWR. -/
def opTableB : List OpRow := [
  ⟨6, 1, .ownRule, true, []⟩,
  ⟨6, 2, .ownRule, true, []⟩,
  ⟨6, 3, .ownRule, true, []⟩,
  ⟨6, 4, .fixed 0, true, [0xFF]⟩,
  ⟨6, 5, .fixed 0, true, []⟩,
  ⟨6, 6, .fixed 0, false, []⟩,
  ⟨7, 1, .fixed 64, true, []⟩,
  ⟨7, 2, .fixed 128, true, []⟩,
  ⟨7, 3, .fixed 0, true, [0xF]⟩,
  ⟨7, 4, .fixed 0, true, [0xF]⟩,
  ⟨8, 1, .fixed 0, true, [0xFFFF]⟩,
  ⟨8, 2, .fixed 32, true, []⟩,
  ⟨8, 3, .fixed 0, true, [0xFFFF]⟩,
  ⟨8, 4, .fixed 0, true, [0xFFFF]⟩,
  ⟨9, 1, .fixed 32, true, [3]⟩,
  ⟨9, 2, .ownRule, true, [3]⟩,
  ⟨9, 3, .fixed 72, false, [3]⟩,
  ⟨9, 4, .fixed 0, true, [3, 7]⟩,
  ⟨0xA, 1, .fixed 832, true, []⟩,
  ⟨0xA, 2, .fixed 0, true, []⟩,
  ⟨0xA, 3, .fixed 0, true, []⟩,
  ⟨0xA, 4, .fixed 0, false, []⟩,
  ⟨0xB, 1, .fixed 256, true, []⟩,
  ⟨0xB, 2, .ownRule, true, [w32, w32]⟩,
  ⟨0xB, 3, .fixed 0, true, [w32, w32, w32]⟩,
  ⟨0xB, 4, .fixed 0, true, []⟩,
  ⟨0xB, 5, .fixed 0, true, []⟩,
  ⟨0xC, 1, .fixed 0, true, [w32, w32, w32, w32]⟩,
  ⟨0xC, 2, .atLeastOne, true, [w32]⟩,
  ⟨0xC, 3, .fixed 0, true, []⟩,
  ⟨0xD, 1, .fixed 32, true, []⟩,
  ⟨0xD, 2, .fixed 0, true, []⟩,
  ⟨0xD, 3, .fixed 0, true, [w32, w32, w32, 1]⟩,
  ⟨0xD, 4, .fixed 32, true, []⟩,
  ⟨0xE, 1, .fixed 32, true, []⟩,
  ⟨0xE, 2, .fixed 0, true, [0x1F]⟩,
  ⟨0xE, 3, .fixed 0, true, [0xFF0F]⟩,
  ⟨0xF, 1, .fixed 0, true, [1]⟩,
  ⟨0xF, 2, .fixed 0, true, [0xFF]⟩,
  ⟨0xF, 3, .fixed 0, false, []⟩]

def opTable : List OpRow := opTableA ++ opTableB

/-- The operation table's row of a command. -/
def Cmd.opRow (c : Cmd) : Option OpRow := opTable.find? fun r => r.fam = c.family && r.op = c.operation

/-- Every bit set in `v` is set in the mask. -/
def onlyBits (mask v : Nat) : Bool := v &&& mask = v

/-- The command's parameter words use only bits the operation uses (R8, R421). Of the words whose use
depends on bit 31, KV.QUERY names a sequence in [15:0] or a pool and die in [9:0], and SCH.QUERY without
bit 31 uses nothing. -/
def wordsOk (c : Cmd) (r : OpRow) : Bool :=
  (List.range 5).all (fun i => onlyBits (r.words.getD i 0) (c.word i)) &&
  (if c.family = 5 ∧ c.operation = 9 then
    (if bitAt (c.word 0) 31 then onlyBits 0x800003FF (c.word 0) else onlyBits 0xFFFF (c.word 0))
   else if c.family = 4 ∧ c.operation = 4 then bitAt (c.word 0) 31 || c.word 0 = 0
   else true)

/-- Row 2 of R422: a length that no command, or not this operation, may have. -/
def lengthBad (c : Cmd) (r : OpRow) : Bool :=
  (if c.isInline then
    c.length % 16 ≠ 0 || (if c.ring = 256 then 65536 else 4032) < c.length || c.payload ≠ 0
   else
    2 ^ 20 < c.length || (0 < c.length && c.payload = 0) || (c.length = 0 && c.payload ≠ 0)) ||
  (match r.len with
   | .fixed n => c.length ≠ n
   | .atLeastOne => c.length = 0
   | .ownRule => false)

/-- Row 3 of R422: the payload's address; in RECOVERY host memory only (R485). -/
def payloadAddrBad (s : State) (c : Cmd) : Bool :=
  !c.isInline && 0 < c.length &&
  !(if s.dev.mode = .recovery then inHost c.payload c.length else payloadRange c.payload c.length)

/-- The allocation that starts at an address as MEM.ALLOC returned it. -/
def State.allocAt (s : State) (a : Nat) : Option Alloc :=
  s.hl.allocs.find? fun x => x.base = a && !x.firmware

/-- No byte of the range lies in an allocation of another context (R413). -/
def State.ownsRange (s : State) (ctx a n : Nat) : Bool :=
  ctx = 0 || s.hl.allocs.all fun x => x.firmware || x.ctx = ctx || !overlaps a n x.base x.size

def State.seqNamed (s : State) (id : Nat) : Option KvSeq := s.kv.seqs.find? fun q => q.id = id && !q.freeing

/-- Row 6 of R422: a context other than 0 that names another context, or an existing job, allocation or
sequence of another context (R413). -/
def State.deniedNames (s : State) (c : Cmd) : Bool :=
  let ctx := c.ring
  let seqDenied (id : Nat) : Bool := match s.seqNamed id with
    | some q => q.ctx ≠ ctx
    | none => false
  if ctx = 0 ∨ ctx = 256 then false
  else
    (!c.isInline && 0 < c.length && !s.ownsRange ctx c.payload c.length) ||
    (match c.family, c.operation with
     | 1, 5 => !s.ownsRange ctx (c.addr 0) (c.word 2)
     | 1, 6 => !s.ownsRange ctx (c.addr 0) (c.word 2)
     | 2, 2 => match s.allocAt (c.addr 0) with
       | some x => x.ctx ≠ ctx
       | none => false
     | 2, 3 => !s.ownsRange ctx (c.addr 0) (c.word 4) || !s.ownsRange ctx (c.addr 2) (c.word 4)
     | 2, 4 => !s.ownsRange ctx (c.addr 0) (c.word 2)
     | 3, 2 => c.word 1 % 256 ≠ ctx
     | 3, 3 => c.word 1 % 256 ≠ ctx
     | 4, 4 => bitAt (c.word 0) 31 && c.word 0 % 256 ≠ ctx
     | 5, 3 => seqDenied (c.word 0)
     | 5, 4 => seqDenied (c.word 0)
     | 5, 6 => seqDenied (c.word 0)
     | 5, 7 => seqDenied (c.word 0)
     | 5, 9 => !bitAt (c.word 0) 31 && seqDenied (c.word 0)
     | _, _ => false)

/-- Row 8 of R422. -/
def formBad (c : Cmd) (r : OpRow) : Bool :=
  !onlyBits 0xF c.flags || c.rsv11 ≠ 0 || c.rsv32 ≠ 0 ||
  c.context ≠ (if c.ring = 256 then 0 else c.ring) ||
  (c.partition ≠ 0 && !(c.family = 3 && c.operation = 1)) ||
  (c.crc ≠ 0 && !c.crcPresent) || !wordsOk c r ||
  (c.family = 0xA && !c.crcPresent) || (c.ring = 256 && !(c.crcPresent && c.isInline))

/-- The checks of rows 1 to 8 of R422 on a command as it is taken, in order. -/
def State.takeStatus (s : State) (c : Cmd) : Nat :=
  match Cmd.opRow c with
  | none => stBadOpcode
  | some r =>
    if lengthBad c r then stBadLength
    else if payloadAddrBad s c then stBadParam
    else if !c.isInline && 0 < c.length && s.readPoisoned c.payload c.length then stMemPoison
    else if c.crcPresent && c.crc ≠ crc32c (c.headerBytes.take 60 ++ c.data) then stCrc
    else if (r.only0 && c.ring ≠ 0 && c.ring ≠ 256) || s.deniedNames c then stDenied
    else if s.dev.mode = .recovery && !(c.family = 1 && c.operation = 1) && c.family ≠ 0xB then stMode
    else if formBad c r then stBadParam
    else stOk

/-- A command writes its output and completes: in RECOVERY into host memory only (R485), and with ST_BAD_PARAM
where hub DMA may not write (R63, R155), or ST_MEM_POISON for part of a poisoned granule (R161). -/
def State.output (s : State) (c : Cmd) (a : Nat) (out : List Byte) (status res0 : Nat) (res1 : Nat := 0) : State :=
  let n := out.length
  if !(if s.dev.mode = .recovery then inHost a n else s.dmaRange a n) then s.complete c stBadParam
  else if (s.putOut a out).1 then (s.putOut a out).2.complete c stMemPoison
  else (s.putOut a out).2.complete c status res0 res1

/-- DRAM or a scratchpad lies under a range. -/
def onDie (a n : Nat) : Bool := 0 < n && (isDram a || isSpad a)

/-- Retained idle, or on the way in or out of it, refuses the command (R525). -/
def State.retainedRefuses (s : State) (c : Cmd) : Bool :=
  s.pwr.state ≠ .active &&
  (match c.family, c.operation with
   | 3, 1 => true
   | 2, 1 => decide (c.word 0 % 16 ≤ 3)
   | 2, 2 => isDram (c.addr 0)
   | 2, 3 => onDie (c.addr 0) (c.word 4) || onDie (c.addr 2) (c.word 4)
   | 2, 4 => onDie (c.addr 0) (c.word 2)
   | 2, 5 => isDram (c.addr 1) || isSpad (c.addr 1)
   | 5, 5 => false
   | 5, _ => true
   | 4, 2 => true
   | 0xE, 2 => true
   | 1, 2 => decide (c.word 0 % 16 ≠ 0)
   | _, _ => false)

/-- The frame of every host command row: the command runs when it is the next of its ring to start and its
fence is satisfied (R423, R425); a deadline that has passed ends it with ST_TIMEOUT (row 9 of R422), except
for JOB.SUBMIT; names and retained idle are checked; then its own rule answers. -/
def runCmd (fam op : Nat) (c : Cmd) (s : State) (body : State → State) : State :=
  if c.family ≠ fam ∨ c.operation ≠ op ∨ s.startable c = false ∨ s.hubDead = true then s
  else
    let s1 := s.onCtx c.ring fun x => { x with slots := markStarted x.slots }
    if s.deadlinePassed c.deadline && !(fam = 3 && op = 1) then (s1.complete c stTimeout).bump
    else if s.deniedNames c then s1.complete c stDenied
    else if s.retainedRefuses c then s1.complete c stMode
    else body s1

end Machine

end Sys2Proof
end

