-- ==== Sys2Proof/Machine/Flags.lean ====
section
/-! DEFINITION. The registers of BAR0 as the state gives them: every status, flag and count field of the
register tables (chapters 01 to 23), each block as one function of the block offset. -/

namespace Sys2Proof.Machine

/-- A word built of fields: (lowest bit, value). -/
def packWord (fs : List (Nat × Nat)) : Nat := (fs.map fun f => f.2 * 2 ^ f.1).sum

def lo32 (v : Nat) : Nat := v % 2 ^ 32
def hi32 (v : Nat) : Nat := (v / 2 ^ 32) % 2 ^ 32

/-- Hub firmware runs: the start has ended outside RECOVERY (R544, R546), and no hub trip has ended it (R523). -/
def State.up (s : State) : Bool := s.dev.mode ≠ .start && s.dev.mode ≠ .recovery && !s.hubDead

/-- Code of the operating mode (DEV_STATUS). -/
def Mode.code : Mode → Nat
  | .config => 0
  | .run => 1
  | .degraded => 2
  | .test => 3
  | .recovery => 4
  | .replay => 5
  | .start => 0xF

/-! ### DEV (chapter 23) -/

def segStatus (g : Segment) : Nat :=
  packWord [(31, bit01 g.fwd.up), (30, bit01 g.rev.up), (29, bit01 g.retraining), (8, g.retrains)]
def segCounts (g : Segment) : Nat := packWord [(16, g.crcErrors), (0, g.vc0Over)]
def plinkStatus (p : PLink) : Nat :=
  packWord [(31, bit01 p.trained), (30, bit01 p.conflict), (28, p.width), (26, p.far), (16, p.refused)]

def State.regDev (s : State) (o : Nat) : Nat :=
  if o = 0x000 then 0x57554800
  else if o = 0x004 then Config.hwRevision % 65536
  else if o = 0x008 then packWord [(31, bit01 s.dev.fwReady), (26, s.dev.package), (0, s.dev.mode.code)]
  else if o = 0x00C then s.dev.faultCause
  else if o = 0x010 then lo32 s.dev.faultLink
  else if o = 0x014 then hi32 s.dev.faultLink
  else if 0x040 ≤ o ∧ o < 0x060 then leNat ((List.range 4).map fun j => Config.identityBlock 0 (o - 0x040 + j))
  else if 0x100 ≤ o ∧ o < 0x128 then
    (if o % 8 = 0 then segStatus (s.seg ((o - 0x100) / 8)) else segCounts (s.seg ((o - 0x100) / 8)))
  else if 0x180 ≤ o ∧ o < 0x188 then plinkStatus (s.ring.plinks.getD ((o - 0x180) / 4) {})
  else 0

/-! ### TB (chapters 01 and 23) -/

def State.syncStatus (s : State) : Nat :=
  packWord [(31, bit01 s.tb.syncLost), (30, bit01 (s.tb.phaseErr ≠ 0)), (16, s.tb.stray),
            (0, (BitVec.ofInt 16 s.tb.phaseErr).toNat)]

def State.regTb (s : State) (o : Nat) : Nat :=
  if o = 0x000 then lo32 s.tb.link
  else if o = 0x004 then hi32 s.tb.link
  else if o = 0x008 then lo32 s.tsNow
  else if o = 0x00C then hi32 s.tsNow
  else if o = 0x010 then lo32 s.tb.mile
  else if o = 0x014 then hi32 s.tb.mile
  else if o = 0x020 then s.tb.syncCtrl
  else if o = 0x024 then s.syncStatus
  else if o = 0x030 then packWord [(30, bit01 s.tb.ptmFailed), (0, s.tb.ptmInterval)]
  else if o = 0x038 then lo32 s.tb.ptmHost
  else if o = 0x03C then hi32 s.tb.ptmHost
  else if o = 0x040 then lo32 s.tb.ptmTs
  else if o = 0x044 then hi32 s.tb.ptmTs
  else if 0x100 ≤ o ∧ o < 0x180 then
    (if o % 8 = 0 then s.tb.camCfg.getD ((o - 0x100) / 8) 0 else s.tb.camTiming.getD ((o - 0x100) / 8) 0)
  else 0

/-! ### HL (chapters 16, 17, 23) -/

def ctxStatus (x : Ctx) : Nat :=
  packWord [(31, bit01 x.isOpen), (30, bit01 x.stalled), (29, bit01 x.dbError), (16, x.dropped), (0, x.sqHead)]

def State.linkStatus (s : State) : Nat :=
  packWord [(31, bit01 s.hl.linkUp), (30, bit01 s.tb.ptmActive), (24, s.hl.width), (20, s.hl.rate),
            (0, s.hl.linkDowns)]

def State.regHl (s : State) (o : Nat) : Nat :=
  if o = 0x000 then s.linkStatus
  else if o = 0x004 then s.hl.bar2Base
  else if o = 0x008 then s.hl.bar2Refused
  else if o = 0x010 then s.hl.events
  else if o = 0x020 then lo32 s.hl.ctx0Sq
  else if o = 0x024 then hi32 s.hl.ctx0Sq
  else if o = 0x028 then lo32 s.hl.ctx0Cq
  else if o = 0x02C then hi32 s.hl.ctx0Cq
  else if o = 0x030 then s.hl.ctx0Cfg
  else if 0x2000 ≤ o ∧ o < 0x2400 then ctxStatus (s.ctx ((o - 0x2000) / 4))
  else if 0x8000 ≤ o ∧ o < 0x8400 then s.hl.msix.getD ((o - 0x8000) / 4) 0
  else if o = 0x9000 then lo32 s.hl.pba
  else if o = 0x9004 then hi32 s.hl.pba
  else 0

/-! ### SCH (chapter 14) -/

def ShadowState.code : ShadowState → Nat
  | .empty => 0
  | .part => 1
  | .valid => 2
  | .invalid => 3

/-- Number of bits set in a 64-bit mask. -/
def popcount64 (m : Nat) : Nat := ((List.range 64).filter fun i => bitAt m i).length

/-- Mask of a partition in a row of a table. -/
def Table.mask (t : Table) (row p : Nat) : Nat := (t.rows.getD row {}).masks.getD p 0

/-- Mask of a partition in the row in force. -/
def State.maskNow (s : State) (p : Nat) : Nat := s.sch.active.mask s.sch.row p

/-- The P0 mask of the active table (R344: the same in every row). -/
def State.p0Mask (s : State) : Nat := s.sch.active.mask 0 0

def Job.live (j : Job) : Bool := j.state ≠ .ended

def State.partStatus (s : State) (p : Nat) : Nat :=
  let js := s.sch.jobs.filter fun j => j.partition = p
  packWord [(29, s.sch.classes.getD p 7), (16, popcount64 (s.maskNow p)),
    (8, min 255 (js.filter fun j => j.state = .running || j.state = .stopping).length),
    (0, min 255 (js.filter fun j => j.state = .queued || j.state = .preempted).length)]

def State.schStatus (s : State) : Nat :=
  packWord [(30, s.sch.shadow.code), (29, bit01 s.sch.armed), (27, s.sch.lastDecision), (24, s.sch.deferReason),
            (16, s.sch.shadowTable.rows.length), (0, s.sch.row)]

def State.regSch (s : State) (o : Nat) : Nat :=
  if o = 0x000 then s.schStatus
  else if o = 0x004 then s.sch.active.id
  else if o = 0x010 then lo32 s.p0Mask
  else if o = 0x014 then hi32 s.p0Mask
  else if 0x040 ≤ o ∧ o < 0x080 then s.partStatus ((o - 0x040) / 4)
  else if o = 0x080 then packWord [(16, s.sch.overruns), (0, s.sch.missed)]
  else 0

/-! ### SOL (chapter 13) -/

def EngState.code : EngState → Nat
  | .empty => 0
  | .loaded => 1
  | .running => 2

def State.solStatus (s : State) : Nat :=
  let r := s.sol.last.getD {}
  packWord [(30, s.sol.state.code), (29, bit01 s.sol.pending.isSome), (24, r.iterations),
            (23, bit01 s.sol.spareLeft), (0, r.flags % 65536)]

/-- SOL_WCET (R308). -/
def wcetWord (front solve : Nat) : Nat := packWord [(16, solve), (0, front)]

def State.regSol (s : State) (o : Nat) : Nat :=
  if o = 0x000 then s.solStatus
  else if o = 0x004 then (s.sol.last.getD {}).signature
  else if o = 0x008 then packWord [(16, s.sol.faults), (0, s.sol.pivotReg)]
  else if o = 0x00C then wcetWord s.sol.wcetFront s.sol.wcetSolve
  else if o = 0x010 then s.sol.holdRun
  else 0

/-! ### ASZ (chapter 15) -/

def State.aszStatus (s : State) : Nat :=
  packWord [(31, bit01 s.asz.safe), (30, bit01 s.asz.torqueOff), (29, bit01 (s.pins.faultA ≠ .high)),
            (28, bit01 (s.pins.faultB ≠ .high)), (27, bit01 s.asz.pairAOk), (26, bit01 s.asz.pairBOk),
            (25, bit01 s.asz.paramsValid), (16, s.asz.firstCause)]

/-- A channel reads as asserted: asserted or chattering (R394, R395). -/
def Estop.active (e : Estop) : Bool := e.asserted || e.chatter

def State.aszEstop (s : State) : Nat :=
  packWord [(31, bit01 s.asz.estopA.active), (30, bit01 s.asz.estopB.active), (29, bit01 s.asz.estopA.chatter),
            (28, bit01 s.asz.estopB.chatter), (27, bit01 s.asz.discrepancy), (26, bit01 s.asz.estopA.raw),
            (25, bit01 s.asz.estopB.raw), (0, min 65535 s.asz.clearRun)]

/-- Stamps inside a sliding window of `w` links that ends with the present link (R35). -/
def State.inWindow (s : State) (w : Nat) (ls : List Nat) : List Nat :=
  ls.filter fun l => s.tb.link < l + w && l ≤ s.tb.link

def State.aszCounts (s : State) : Nat :=
  packWord [(16, s.asz.disagreements), (8, min 255 (s.inWindow 100 s.asz.disagreeLinks).length),
            (0, min 255 (s.inWindow 1000 s.asz.disagreeLinks).length)]

def State.regAsz (s : State) (o : Nat) : Nat :=
  if o = 0x000 then s.aszStatus
  else if o = 0x004 then s.asz.causes
  else if o = 0x008 then lo32 s.asz.entryLink
  else if o = 0x00C then hi32 s.asz.entryLink
  else if o = 0x010 then s.aszEstop
  else if o = 0x014 then s.aszCounts
  else if o = 0x018 then lo32 s.asz.wdFault
  else if o = 0x01C then hi32 s.asz.wdFault
  else 0

/-! ### KV (chapter 08) -/

/-- Numbers still free in a free list. -/
def FreeList.count (f : FreeList) : Nat := f.bound - f.used.length

/-- Entries of a frame table (R208). -/
def tableEntries : Nat := 2097152

def Pool.onDie (p : Pool) (d : Nat) : Bool := bitAt p.dieMask d
def Pool.die (p : Pool) (d : Nat) : PoolDie := p.dies.getD d {}

def State.freeEntries (s : State) (d : Nat) : Nat :=
  let ps := s.kv.pools.filter fun p => p.onDie d
  tableEntries - (ps.map fun p => p.entriesPerDie).sum + (ps.map fun p => (p.die d).entries.count).sum

def State.kvDieStatus (s : State) (d : Nat) : Nat :=
  if s.kv.agentReady.getD d false then packWord [(31, 1), (0, s.freeEntries d)] else 0

def State.regKv (s : State) (o : Nat) : Nat :=
  if o < 0x010 then s.kvDieStatus (o / 4)
  else if o = 0x010 then
    packWord [(31, bit01 s.kv.area.isSome), (30, bit01 (s.kv.xfers ≠ [])), (0, s.kv.swapUnits.count)]
  else if 0x020 ≤ o ∧ o < 0x030 then
    packWord [(16, s.kv.cow.getD ((o - 0x020) / 4) 0), (0, s.kv.moves.getD ((o - 0x020) / 4) 0)]
  else 0

/-! ### ITK (chapter 11) -/

def portStatus (p : Port) : Nat :=
  packWord [(31, bit01 p.linkUp), (28, p.lanes), (16, p.eccCorrected), (8, p.eccUncorrected), (0, p.crcErrors)]

/-- The pipe that holds a frame of the stream; 7 for none. -/
def State.pipeOf (s : State) (st : Nat) : Nat :=
  (s.itk.pipes.findIdx? fun p => match p.frame with
    | some (a, _) => a = st
    | none => false).getD 7

/-- Samples are published in strict order (R273). -/
def State.strictOrder (s : State) : Bool := s.running || s.dev.mode = .replay

def State.regItk (s : State) (o : Nat) : Nat :=
  if o < 0x020 then portStatus (s.itk.ports.getD (o / 4) {})
  else if 0x040 ≤ o ∧ o < 0x0C0 then
    let i := (o - 0x040) / 8
    let st := s.stream i
    if o % 8 = 0 then
      packWord [(31, bit01 st.running), (30, bit01 s.strictOrder), (27, s.pipeOf i), (0, st.budget)]
    else packWord [(24, st.corrupt), (16, st.late), (8, st.droppedCount)]
  else 0

/-! ### JL (chapter 12) -/

def LineState.code : LineState → Nat
  | .down => 0
  | .training => 1
  | .enumerated => 2
  | .configured => 3
  | .running => 4
  | .failed => 5

def lineStatus (l : Line) : Nat :=
  packWord [(29, l.state.code), (26, l.found.length), (16, l.maxSegment), (8, l.reason)]
def nodeStatus (n : Node) : Nat :=
  packWord [(31, bit01 n.present), (30, bit01 n.lost), (29, bit01 n.selfDamp), (27, n.kind), (16, n.staleRun),
            (0, n.staleTotal)]

def State.regJl (s : State) (o : Nat) : Nat :=
  if o < 0x080 then
    (if o % 8 = 0 then lineStatus (s.line (o / 8))
     else packWord [(16, (s.line (o / 8)).frameCrc), (0, (s.line (o / 8)).commaMiss)])
  else if 0x100 ≤ o ∧ o < 0x200 then nodeStatus (s.node ((o - 0x100) / 4))
  else 0

/-! ### CAN (chapter 18) -/

def canStatus (c : Can) : Nat :=
  packWord [(29, c.mode), (27, c.errState), (26, bit01 c.recovering), (25, bit01 c.stuck), (24, bit01 c.txTimeout),
            (23, bit01 c.urgentPending), (22, bit01 c.safeSkipped), (21, bit01 c.switchPending), (20, c.activeBank),
            (19, bit01 c.releaseError), (0, c.loopDelay)]
def rxStatus (f : RxFifo) : Nat := packWord [(24, f.lost), (16, f.fill), (8, f.put), (0, f.get)]

def canPending (c : Can) : Nat :=
  ((List.range 32).map fun b => bit01 (c.tx.getD b {}).pending * 2 ^ b).sum

def canReg (c : Can) (o : Nat) : Nat :=
  if o = 0x000 then canStatus c
  else if o = 0x004 then c.arb
  else if o = 0x008 then c.dataTiming
  else if o = 0x00C then c.loopComp
  else if o = 0x010 then packWord [(24, min 255 c.tecCount), (16, min 255 c.recCount), (8, c.busOffCount), (0, c.tdcFail)]
  else if o = 0x014 then rxStatus c.fifo0
  else if o = 0x018 then rxStatus c.fifo1
  else if o = 0x024 then c.full
  else if o = 0x028 then canPending c
  else 0

/-- Standard and extended filter elements of a bank as message RAM holds them (R456, R458). -/
def bankStd (b : FilterBank) : List Byte := (List.range 128).flatMap fun i => leBytes 4 (b.std.getD i 0)
def bankExt (b : FilterBank) : List Byte :=
  (List.range 64).flatMap fun i =>
    let e := b.ext.getD i (0, 0, 0)
    leBytes 4 e.1 ++ leBytes 4 e.2.1 ++ leBytes 4 e.2.2

/-- Message RAM of a controller, byte by byte (R456). -/
def msgRam (c : Can) (o : Nat) : Byte :=
  let b0 := c.banks.getD 0 {}
  let b1 := c.banks.getD 1 {}
  if o < 0x0200 then (bankStd b0).getD o 0
  else if o < 0x0500 then (bankExt b0).getD (o - 0x0200) 0
  else if o < 0x0700 then (bankStd b1).getD (o - 0x0500) 0
  else if o < 0x0A00 then (bankExt b1).getD (o - 0x0700) 0
  else if o < 0x1E00 then ((c.fifo0.elems.getD ((o - 0x0A00) / 80) []).getD ((o - 0x0A00) % 80) 0)
  else if o < 0x3200 then ((c.fifo1.elems.getD ((o - 0x1E00) / 80) []).getD ((o - 0x1E00) % 80) 0)
  else if o < 0x3700 then ((c.mailboxes.getD ((o - 0x3200) / 80) []).getD ((o - 0x3200) % 80) 0)
  else if o < 0x4000 then (((c.tx.getD ((o - 0x3700) / 72) {}).elem).getD ((o - 0x3700) % 72) 0)
  else 0

def State.regCan (s : State) (o : Nat) : Nat :=
  if o < 0x400 then canReg (s.canAt (o / 0x100)) (o % 0x100)
  else if 0x10000 ≤ o ∧ o < 0x20000 then
    leNat ((List.range 4).map fun i => msgRam (s.canAt ((o - 0x10000) / 0x4000)) ((o - 0x10000) % 0x4000 + i))
  else 0

/-! ### FW, CFG, SPR, PWR, THM, REC, FI (chapters 19 to 22) -/

def StagingState.code : StagingState → Nat
  | .empty => 0
  | .receiving => 1
  | .committed => 2
  | .copying => 3
  | .installed => 4

/-- piece_count of the stored header (R476). -/
def Fw.pieceCount (f : Fw) : Nat := fieldAt f.header 28 4
/-- Pieces not yet marked present. -/
def Fw.missing (f : Fw) : List Nat := (List.range f.pieceCount).filter fun i => !f.present.contains i
def Fw.firstMissing (f : Fw) : Nat := f.missing.headD f.pieceCount

def State.regFw (s : State) (o : Nat) : Nat :=
  if o = 0x000 then
    packWord [(28, s.fw.stage), (26, s.dev.bootsel), (24, s.fw.recoveryReason), (23, bit01 s.fw.copied),
              (22, bit01 s.fw.wearRebuilt), (21, bit01 s.fw.cfgDefaulted), (0, min 65535 s.fw.startMs)]
  else if o = 0x004 then s.fw.version
  else if o = 0x008 then
    packWord [(29, s.fw.staging.code), (16, s.fw.missing.length), (0, s.fw.firstMissing)]
  else 0

def State.regCfg (s : State) (o : Nat) : Nat :=
  if o = 0 then packWord [(31, bit01 s.fw.cfgDefaulted), (28, s.fw.cfgReason), (27, bit01 s.fw.dirty),
                          (0, s.fw.flashFormat)]
  else 0

/-- Spare physical cores of a die: in no map and not retired (R130). -/
def State.spareCores (s : State) (d : Nat) : List Nat :=
  (List.range 18).filter fun p =>
    !(s.phys (physIndex d p)).retired && !((s.cores.map.drop (16 * d)).take 16).contains (some p)

def State.sprCores (s : State) (d : Nat) : Nat :=
  let here (c : Nat) : Bool := s.corePresent (16 * d + c)
  packWord [(30, min 2 (s.spareCores d).length), (16, ((List.range 16).filter here).length),
            (0, ((List.range 16).map fun c => bit01 (!here c) * 2 ^ c).sum)]

def sprRing (g : Segment) : Nat :=
  packWord [(28, g.fwd.sparesLeft), (24, g.rev.sparesLeft), (23, bit01 g.fwd.narrow), (22, bit01 g.rev.narrow)]

/-- Pipes in service: built, not retired and not the spare. -/
def State.pipesInService (s : State) : Nat := (s.itk.pipes.filter fun p => p.inService && !p.retired).length

def State.sprStatus (s : State) : Nat :=
  packWord [(31, bit01 s.spr.degraded), (30, bit01 s.spr.recordFull),
            (29, bit01 (s.spr.inFlash < s.spr.entries.length)), (23, bit01 s.spr.pipeSpareLeft),
            (20, s.pipesInService), (0, s.spr.entries.length)]

def State.regSpr (s : State) (o : Nat) : Nat :=
  if o = 0x000 then s.sprStatus
  else if 0x010 ≤ o ∧ o < 0x020 then s.sprCores ((o - 0x010) / 4)
  else if 0x020 ≤ o ∧ o < 0x034 then sprRing (s.seg ((o - 0x020) / 4))
  else if o = 0x040 then packWord [(24, s.spr.last.kind), (16, s.spr.last.place), (0, s.spr.last.unit)]
  else 0

def PwrState.code : PwrState → Nat
  | .active => 0
  | .entering => 1
  | .retained => 2
  | .leaving => 3

/-- Operating points of CD0 to CD3, 2 bits each. -/
def State.opBits (s : State) : Nat := packWord ((List.range 4).map fun d => (2 * d, s.pwr.op.getD d 0))

def State.regPwr (s : State) (o : Nat) : Nat :=
  if o = 0x000 then packWord [(30, s.pwr.state.code), (29, bit01 s.pwr.capUnmet), (16, s.pwr.cap), (0, s.opBits)]
  else if o = 0x004 then s.pwr.packageMw
  else if 0x010 ≤ o ∧ o < 0x020 then
    let d := (o - 0x010) / 4
    packWord [(30, s.pwr.op.getD d 0), (29, bit01 (s.pwr.parked.getD d false)), (28, bit01 (s.pwr.off.getD d false)),
              (0, s.pwr.dieMw.getD d 0 % 2 ^ 24)]
  else 0

def State.regThm (s : State) (o : Nat) : Nat :=
  if o < 0x014 then
    let t := s.pwr.therm.getD (o / 4) {}
    packWord [(31, bit01 t.tripped), (30, bit01 t.hot), (8, t.junctionMax), (0, t.junction)]
  else 0

def RecState.code : RecState → Nat
  | .stopped => 0
  | .recording => 1
  | .post => 2
  | .frozen => 3

def State.regRec (s : State) (o : Nat) : Nat :=
  if o = 0 then packWord [(30, s.recd.state.code), (29, bit01 s.recd.replay.isSome),
                          (28, bit01 (s.recd.flashCopy ≠ [])), (8, s.recd.missed), (0, s.recd.gaps)]
  else 0

def State.regFi (s : State) (o : Nat) : Nat :=
  if o < 0x040 then
    let j := s.fi.getD (o / 4) {}
    packWord [(31, bit01 j.armed), (16, j.suppressed), (0, j.injected)]
  else 0

/-! ### CD blocks (chapters 04, 05, 06, 23) -/

/-- Physical cores that can run bitmap masks (R132). -/
def maskCapable (p : Nat) : Bool := p = 0 || p = 1 || p = 17

/-- CD_CORE_MAP of a logical core; the physical core that an absent one shows is not stated and is free. -/
def State.coreMap (s : State) (c : Nat) : Nat :=
  match s.cores.map.getD c none with
  | some p => packWord [(31, 1), (30, bit01 (maskCapable p)), (0, p)]
  | none => s.draw 7 % 18

def spadStatus (k : Core) : Nat :=
  packWord [(31, bit01 k.migrating.isSome), (30, bit01 (k.sparesLeft = 0)), (28, k.sparesLeft), (21, k.retiredB),
            (14, k.retiredA)]
def spadParity (k : Core) : Nat := packWord [(24, k.lastBank), (0, k.parityEvents)]

def dramStatus (m : Dram) : Nat :=
  packWord [(31, bit01 m.tripped), (30, bit01 m.selfRefresh), (28, m.band - 1), (27, bit01 (1 ≤ m.band)),
            (26, bit01 m.trained), (16, m.temp), (0, (m.remaps.filter (·.valid)).length)]

def State.regCd (s : State) (d o : Nat) : Nat :=
  let m := s.dramAt d
  if o = 0x000 then packWord [(31, bit01 m.inService), (30, bit01 m.fwLoaded), (29, bit01 m.powered),
                              (28, bit01 m.tbFault)]
  else if 0x010 ≤ o ∧ o < 0x030 then
    leNat ((List.range 4).map fun j => Config.identityBlock (d + 1) (o - 0x010 + j))
  else if 0x100 ≤ o ∧ o < 0x140 then s.coreMap (16 * d + (o - 0x100) / 4)
  else if 0x200 ≤ o ∧ o < 0x290 then
    (if o % 8 = 0 then spadStatus (s.phys (physIndex d ((o - 0x200) / 8)))
     else spadParity (s.phys (physIndex d ((o - 0x200) / 8))))
  else if o = 0x400 then dramStatus m
  else if o = 0x404 then packWord [(16, m.uncorrected), (0, m.corrected)]
  else if o = 0x408 then packWord [(24, m.lanesRetired.length), (16, m.narrow.length), (0, m.retries)]
  else if o = 0x410 then lo32 m.lastUe
  else if o = 0x414 then hi32 m.lastUe
  else 0

/-- The register at a BAR0 offset as its block holds it (R540). An unassigned offset reads 0 (R438). -/
def State.blockReg (s : State) (off : Nat) : Nat :=
  if off % 4 ≠ 0 then 0
  else if off < 0x10000 then s.regDev off
  else if off < 0x20000 then s.regTb (off - 0x10000)
  else if off < 0x30000 then s.regHl (off - 0x20000)
  else if off < 0x40000 then s.regSch (off - 0x30000)
  else if off < 0x50000 then s.regSol (off - 0x40000)
  else if off < 0x60000 then s.regAsz (off - 0x50000)
  else if off < 0x70000 then s.regKv (off - 0x60000)
  else if off < 0x80000 then s.regItk (off - 0x70000)
  else if off < 0x90000 then s.regJl (off - 0x80000)
  else if off < 0xB0000 then s.regCan (off - 0x90000)
  else if off < 0xC0000 then s.regFw (off - 0xB0000)
  else if off < 0xD0000 then s.regCfg (off - 0xC0000)
  else if off < 0xE0000 then s.regSpr (off - 0xD0000)
  else if off < 0xF0000 then s.regPwr (off - 0xE0000)
  else if off < 0x100000 then s.regThm (off - 0xF0000)
  else if off < 0x110000 then s.regRec (off - 0x100000)
  else if off < 0x120000 then s.regFi (off - 0x110000)
  else if 0x1000000 ≤ off ∧ off < 0x1400000 then s.regCd ((off - 0x1000000) / 0x100000) (off % 0x100000)
  else 0

/-- Blocks that hardware or the start itself serves from the hub's leaving reset: DEV, TB, HL and FW (R544). -/
def servedEarly (off : Nat) : Bool := off < 0x30000 || (0xB0000 ≤ off && off < 0xC0000)

/-- The contents of a register: what a read returns, but for the latched HI halves (R543). Until hub firmware runs,
and in RECOVERY, every block that only it keeps reads its reset values (R544). -/
def State.reg (s : State) (off : Nat) : Nat :=
  if (s.dev.mode = .start || s.dev.mode = .recovery) && !servedEarly off then State.reset.blockReg off
  else s.blockReg off

/-- LO registers and the HI registers that a read of them latches (R543, R549). -/
def latchedBy (lo : Nat) : List Nat :=
  if lo = 0x10038 then [0x1003C, 0x10040, 0x10044]
  else if [0x10, 0x10000, 0x10008, 0x10010, 0x30010, 0x50008, 0x50018].contains lo then [lo + 4]
  else if 0x1000000 ≤ lo && lo < 0x1400000 && lo % 0x100000 = 0x410 then [lo + 4]
  else []

/-- A register that a LO read latches. -/
def isLatched (off : Nat) : Bool :=
  [0x14, 0x10004, 0x1000C, 0x10014, 0x1003C, 0x10040, 0x10044, 0x30014, 0x5000C, 0x5001C].contains off ||
  (0x1000000 ≤ off && off < 0x1400000 && off % 0x100000 = 0x414)

/-- The value latched for a requester, or 0 before its first LO read (R543). -/
def State.latched (s : State) (requester off : Nat) : Nat :=
  ((s.hl.latches.find? fun l => l.1 = requester && l.2.1 = off).map fun l => l.2.2).getD 0

/-- What a read by a requester returns. -/
def State.readReg (s : State) (requester off : Nat) : Nat :=
  if isLatched off then s.latched requester off else s.reg off

/-- A requester latches a value (R543). -/
def State.setLatch (s : State) (requester off v : Nat) : State :=
  s.onHl fun h => { h with
    latches := (requester, off, v) :: h.latches.filter fun l => !(l.1 = requester && l.2.1 = off) }

/-- A read of a LO register latches its HI registers (R543, R549). -/
def State.latchRead (s : State) (requester lo : Nat) : State :=
  (latchedBy lo).foldl (fun x off => x.setLatch requester off (s.reg off)) s

end Sys2Proof.Machine
end

