-- ==== Sys2Proof/Machine/Registers.lean ====
section
/-! DEFINITION. Meanings of the register rows (chapter 23): the reads that latch or clear, and the host's
writes with their conditions (R438, R441, R443, R463, R541 to R553). -/

namespace Sys2Proof.Machine

/-- The reply on the bus to an aligned 32-bit read, or Unsupported Request (R438). -/
def State.reply (s : State) (off v : Nat) : State :=
  s.onHl fun h => { h with bus := if off % 4 = 0 then { data := leBytes 4 v } else { unsupported := true } }

/-! ### Reads -/

/-- What a host read clears in DEV, TB and HL (R542). -/
def State.clearA (s : State) (off : Nat) : State :=
  if 0x100 ≤ off ∧ off < 0x128 then
    (if off % 8 = 0 then s.onSeg ((off - 0x100) / 8) fun g => { g with retrains := 0 }
     else s.onSeg ((off - 0x100) / 8) fun g => { g with crcErrors := 0, vc0Over := 0 })
  else if 0x180 ≤ off ∧ off < 0x188 then
    s.onRing fun r => { r with plinks := r.plinks.modify ((off - 0x180) / 4) fun p => { p with refused := 0 } }
  else if off = 0x10024 then s.onTb fun t => { t with stray := 0 }
  else if off = 0x20000 then s.onHl fun h => { h with linkDowns := 0 }
  else if off = 0x20008 then s.onHl fun h => { h with bar2Refused := 0 }
  else if 0x22000 ≤ off ∧ off < 0x22400 then s.onCtx ((off - 0x22000) / 4) fun x => { x with dropped := 0 }
  else s

/-- What a host read clears in SCH, SOL, ASZ, KV and ITK. Bits 63 to 32 of ASZ_WD_FAULT clear as far as the
read of HI returned them. -/
def State.clearB (s : State) (off : Nat) : State :=
  if off = 0x30080 then s.onSch fun x => { x with overruns := 0, missed := 0 }
  else if off = 0x40008 then s.onSol fun x => { x with faults := 0, pivotReg := 0 }
  else if off = 0x50014 then s.onAsz fun a => { a with disagreements := 0 }
  else if off = 0x50018 then s.onAsz fun a => { a with wdFault := a.wdFault / 2 ^ 32 * 2 ^ 32 }
  else if off = 0x5001C then
    let seen := s.latched 0 off
    s.onAsz fun a => { a with
      wdFault := a.wdFault % 2 ^ 32 + 2 ^ 32 * ((a.wdFault / 2 ^ 32) ^^^ ((a.wdFault / 2 ^ 32) &&& seen)) }
  else if 0x60020 ≤ off ∧ off < 0x60030 then
    s.onKv fun k => { k with cow := k.cow.set ((off - 0x60020) / 4) 0, moves := k.moves.set ((off - 0x60020) / 4) 0 }
  else if 0x70000 ≤ off ∧ off < 0x70020 then
    s.onPort ((off - 0x70000) / 4) fun p => { p with eccCorrected := 0, eccUncorrected := 0, crcErrors := 0 }
  else if 0x70040 ≤ off ∧ off < 0x700C0 ∧ off % 8 = 4 then
    s.onStream ((off - 0x70040) / 8) fun t => { t with corrupt := 0, late := 0, droppedCount := 0 }
  else s

/-- What a host read clears in JL, CAN, REC, FI and the CD blocks. -/
def State.clearC (s : State) (off : Nat) : State :=
  if 0x80000 ≤ off ∧ off < 0x80080 ∧ off % 8 = 4 then
    s.onLine ((off - 0x80000) / 8) fun l => { l with frameCrc := 0, commaMiss := 0 }
  else if 0x80100 ≤ off ∧ off < 0x80200 then
    s.onNode ((off - 0x80100) / 4) fun n => { n with staleTotal := 0 }
  else if 0x90000 ≤ off ∧ off < 0x90400 then
    let k := (off - 0x90000) / 0x100
    if off % 0x100 = 0x10 then s.onCan k fun c => { c with busOffCount := 0, tdcFail := 0 }
    else if off % 0x100 = 0x14 then s.onCan k fun c => { c with fifo0 := { c.fifo0 with lost := 0 } }
    else if off % 0x100 = 0x18 then s.onCan k fun c => { c with fifo1 := { c.fifo1 with lost := 0 } }
    else s
  else if off = 0x100000 then s.onRec fun r => { r with missed := 0, gaps := 0 }
  else if 0x110000 ≤ off ∧ off < 0x110040 then
    s.onFi ((off - 0x110000) / 4) fun j => { j with suppressed := 0, injected := 0 }
  else if 0x1000000 ≤ off ∧ off < 0x1400000 then
    let d := (off - 0x1000000) / 0x100000
    let o := off % 0x100000
    if 0x200 ≤ o ∧ o < 0x290 ∧ o % 8 = 4 then
      s.onPhys (physIndex d ((o - 0x200) / 8)) fun c => { c with parityEvents := 0 }
    else if o = 0x404 then s.onDram d fun m => { m with corrected := 0, uncorrected := 0 }
    else if o = 0x408 then s.onDram d fun m => { m with retries := 0 }
    else s
  else s

/-- A host read clears the RC fields of its register (R542). -/
def State.clearRc (s : State) (off : Nat) : State :=
  if off % 4 ≠ 0 then s
  else if off < 0x30000 then s.clearA off
  else if off < 0x80000 then s.clearB off
  else s.clearC off

/-- A read by a requester: it latches the HI halves of a LO register (R543, R549) and, by the host, clears RC
fields (R542, R553) and gets its reply. -/
def State.busRead (s : State) (requester off : Nat) : State :=
  let v := s.readReg requester off
  let s1 := if off % 4 = 0 then s.latchRead requester off else s
  (if requester = 0 then (s1.clearRc off).reply off v else s1).bump

/-- LO_REGISTER_READ (R543). -/
def execLoRegisterRead (requester offset : Nat) (s : State) : Out := .next (s.busRead requester offset)

/-- RC_REGISTER_READ (R542): a host read. -/
def execRcRegisterRead (offset : Nat) (s : State) : Out := .next (s.busRead 0 offset)

/-- PTM_HOST_LO_READ (R549): the other three PTM registers latch with it. -/
def execPtmHostLoRead (requester : Nat) (s : State) : Out := .next (s.busRead requester 0x10038)

/-! ### SYNC_OUT (R28) -/

/-- A link begins a mile, or a chain (R18). -/
def State.mileLink (s : State) (link : Nat) : Bool := s.tb.mile ≤ link && (link - s.tb.mile) % 8000 = 0
def State.chainLink (s : State) (link : Nat) : Bool := s.tb.mile ≤ link && (link - s.tb.mile) % 100 = 0

/-- SYNC_OUT as the link begins (R28). -/
def State.driveSyncOut (s : State) : State :=
  let on := bitAt s.tb.syncCtrl 3 && s.dev.mode ≠ .recovery &&
    (if bitAt s.tb.syncCtrl 4 then s.chainLink s.tb.link else s.mileLink s.tb.link)
  s.onPins fun p => { p with syncOut := if on then .high else .low }

/-! ### Camera triggers (R29 to R31) -/

/-- Pulse width of a trigger in links; 0 is treated as 1. -/
def camWidth (cfg : Nat) : Nat := max 1 (bitsOf cfg 7 2)

/-- Level of a trigger's ball in the present link (R29, R31). Its pulses start at the links t ≥ A of R29: a pulse
that an earlier t, before A, would have started is not driven in the first links after A (DESIGN CHOICE 123). -/
def State.camLevel (s : State) (n : Nat) : Pin :=
  let cfg := s.tb.camCfg.getD n 0
  let t := s.tb.camTiming.getD n 0
  let period := t / 65536
  let since := (s.phase s.tb.link + period - t % 65536) % period
  let asserted := bitAt cfg 0 && !s.tb.camHeld && t % 65536 ≤ s.phase s.tb.link && decide (since < camWidth cfg)
  if asserted != bitAt cfg 1 then .high else .low

/-- Every trigger's ball follows R29. -/
def State.driveCams (s : State) : State :=
  s.onPins fun p => { p with camTrig := (List.range 16).map s.camLevel }

/-- A trigger setting that R30 accepts: CFG word and TIMING word. -/
def camOk (cfg t : Nat) : Bool := 64 ≤ t / 65536 && t % 65536 < t / 65536 && camWidth cfg < t / 65536

/-! ### Writes -/

/-- PTM: a request starts a dialog at once, unless one runs (R549) or no path exists (R448). -/
def State.startPtm (s : State) : State :=
  if s.tb.ptmBusy || !s.tb.ptmPath || !s.hl.linkUp then s
  else s.onTb fun t => { t with ptmBusy := true, ptmMiles := 0 }

/-- A write to TB_PTM_CTRL (R549). -/
def State.writePtm (s : State) (v : Nat) : State :=
  let s := s.onTb fun t => { t with
    ptmFailed := t.ptmFailed && !bitAt v 30
    ptmInterval := if v % 256 = 0 then t.ptmInterval else v % 256 }
  if bitAt v 31 then s.startPtm else s

/-- PTM_REQUEST (R549): a write to TB_PTM_CTRL. -/
def execPtmRequest (value : Nat) (s : State) : Out := .next (s.writePtm value)

/-- PTM_INTERVAL_EXPIRY (R32): the interval in miles has elapsed since the last dialog began. -/
def execPtmIntervalExpiry (s : State) : Out :=
  .next (if s.tb.ptmInterval ≤ s.tb.ptmMiles then s.startPtm else s)

/-- PTM_DIALOG_COMPLETE (R32): the pair is latched as one unit, or not at all. -/
def execPtmDialogComplete (result : PtmResult) (s : State) : Out :=
  .next (if !s.tb.ptmBusy then s
    else match result with
      | .failed => s.onTb fun t => { t with ptmBusy := false, ptmFailed := true }
      | .ok hostTime cycle => s.onTb fun t => { t with
          ptmBusy := false, ptmActive := true, ptmHost := hostTime % 2 ^ 64, ptmTs := s.tsAt cycle })

/-- A new link of camera settings: kept when R30 accepts it, in CONFIG only. -/
def State.writeCam (s : State) (n : Nat) (cfg t : Nat) : State :=
  if s.dev.mode = .config ∧ camOk cfg t = true then
    (s.onTb fun x => { x with camCfg := x.camCfg.set n cfg, camTiming := x.camTiming.set n t }).driveCams
  else s

/-- BAR2_BASE_WRITE (R441). -/
def execBar2BaseWrite (value : Nat) (s : State) : Out :=
  .next (s.onHl fun h => { h with bar2Base := value % 2 ^ 18 })

/-- The ring settings of context 0 that R550 accepts. -/
def ctx0Ok (sq cq cfg : Nat) : Bool :=
  let sqLog := cfg % 256
  let cqLog := bitsOf cfg 15 8
  let v := bitsOf cfg 23 16
  sq % 4096 = 0 && cq % 4096 = 0 && inHost sq (64 * 2 ^ sqLog) && inHost cq (64 * 2 ^ cqLog) &&
    4 ≤ sqLog && sqLog ≤ 16 && 4 ≤ cqLog && cqLog ≤ 16 && ((16 ≤ v && v ≤ 63) || v = 0xFF)

/-- A freshly opened context (R411, R419, R551): heads and tails 0, phase 1; places of commands count on, and the
W1C and RC fields of its status register keep their values. -/
def openCtx (old : Ctx) (sq cq sqLog cqLog vector : Nat) : Ctx :=
  { isOpen := true, sqAddr := sq, cqAddr := cq, sqLog := sqLog, cqLog := cqLog, vector := vector
    dbError := old.dbError, dropped := old.dropped, slots := old.slots, nextSeq := old.nextSeq, muteBelow := old.nextSeq
    accepted := old.accepted, ended := old.ended }

/-- A write to HL_CTX0_CFG that sets enable while it is 0 (R550, R551). -/
def State.enableCtx0 (s : State) (v : Nat) : State :=
  let cfg := v &&& 0x00FFFFFF
  if ctx0Ok s.hl.ctx0Sq s.hl.ctx0Cq cfg then
    ((s.onHl fun h => { h with
        ctx0Cfg := 0x80000000 + (if bitAt h.ctx0Cfg 30 && !bitAt v 30 then 0x40000000 else 0) + cfg }).onCtx 0
      fun x => openCtx x s.hl.ctx0Sq s.hl.ctx0Cq (cfg % 256) (bitsOf cfg 15 8) (bitsOf cfg 23 16))
  else s.onHl fun h => { h with ctx0Cfg := 0x40000000 + cfg }

/-- Enable of context 0 is cleared (R552). -/
def State.disableCtx0 (s : State) : State :=
  (s.onHl fun h => { h with ctx0Cfg := h.ctx0Cfg % 2 ^ 31 }).onCtx 0 fun x => { x with
    isOpen := false, sqHead := x.sqTail, waiting := [], stalled := false, muteBelow := x.nextSeq
    slots := x.slots.filter fun sl => sl.state ≠ .completing }

/-- A write to HL_CTX0_CFG (R550): while enable is 1 only a write that clears it takes effect. -/
def State.writeCtx0Cfg (s : State) (v : Nat) : State :=
  if bitAt s.hl.ctx0Cfg 31 then (if bitAt v 31 then s else s.disableCtx0)
  else if bitAt v 31 then s.enableCtx0 v
  else s.onHl fun h => { h with
    ctx0Cfg := (if bitAt h.ctx0Cfg 30 && !bitAt v 30 then 0x40000000 else 0) + (v &&& 0x00FFFFFF) }

/-- CTX0_ENABLE (R550): a write of HL_CTX0_CFG with enable set. -/
def execCtx0Enable (value : Nat) (s : State) : Out := .next (s.writeCtx0Cfg (value ||| 0x80000000))

/-- CTX0_DISABLE (R552): a write of HL_CTX0_CFG with enable clear. -/
def execCtx0Disable (value : Nat) (s : State) : Out := .next (s.writeCtx0Cfg (value % 2 ^ 31))

/-- CAN_RXQ_RELEASE_WRITE (R463): the `n` oldest elements of a FIFO are released. -/
def RxFifo.release (f : RxFifo) (n : Nat) : RxFifo := { f with fill := f.fill - n, get := (f.get + n) % f.size }

def State.releaseRxq (s : State) (k f value : Nat) : State :=
  let n := value % 128
  let q := if f = 0 then (s.canAt k).fifo0 else (s.canAt k).fifo1
  if n = 0 then s
  else if q.fill < n then s.onCan k fun c => { c with releaseError := true }
  else if f = 0 then s.onCan k fun c => { c with fifo0 := c.fifo0.release n }
  else s.onCan k fun c => { c with fifo1 := c.fifo1.release n }

def execCanRxqReleaseWrite (k f value : Nat) (s : State) : Out := .next (s.releaseRxq k f value)

/-- A write to the MSI-X table: clearing a vector's mask sends its pending message. Of a control word only the mask is
a bit; the others are reserved and read 0 (R8). -/
def State.writeMsix (s : State) (i v : Nat) : State :=
  let s := s.onHl fun h => { h with msix := h.msix.set i (if i % 4 = 3 then v % 2 else v) }
  if i % 4 = 3 && !bitAt v 0 && bitAt s.hl.pba (i / 4) && s.hl.linkUp then
    s.onHl fun h => { h with pba := h.pba - 2 ^ (i / 4), sent := h.sent ++ [i / 4] }
  else s

/-- W1C bits of a CAN_STATUS register (R467 to R469, R459, R463, R466). -/
def State.writeCanStatus (s : State) (k v : Nat) : State :=
  s.onCan k fun c => { c with
    stuck := c.stuck && !bitAt v 25
    txTimeout := c.txTimeout && !bitAt v 24
    urgentPending := c.urgentPending && !bitAt v 23
    safeSkipped := c.safeSkipped && !bitAt v 22
    releaseError := c.releaseError && !bitAt v 19 }

/-- Bits of `a` that are not in `b`. -/
def clearBits (a b : Nat) : Nat := a ^^^ (a &&& b)

/-- A host write to any register but DEV_RESET and the doorbells (R541, R553): only the writable fields take
it, under their conditions. -/
def State.writeReg (s : State) (off v : Nat) : State :=
  if off % 4 ≠ 0 then s
  else if off = 0x0C then s.onDev fun d => { d with faultCause := clearBits d.faultCause v }
  else if off = 0x10020 then
    (if s.dev.mode = .config then s.onTb fun t => { t with syncCtrl := v &&& 0x1F } else s)
  else if off = 0x10024 then s.onTb fun t => { t with syncLost := t.syncLost && !bitAt v 31 }
  else if off = 0x10030 then s.writePtm v
  else if 0x10100 ≤ off ∧ off < 0x10180 then
    let n := (off - 0x10100) / 8
    if off % 8 = 0 then s.writeCam n (v &&& 0xFF) (s.tb.camTiming.getD n 0)
    else s.writeCam n (s.tb.camCfg.getD n 0) v
  else if off = 0x20004 then s.onHl fun h => { h with bar2Base := v % 2 ^ 18 }
  else if off = 0x20010 then s.onHl fun h => { h with events := clearBits h.events v }
  else if off = 0x20020 ∧ !bitAt s.hl.ctx0Cfg 31 then
    s.onHl fun h => { h with ctx0Sq := h.ctx0Sq / 2 ^ 32 * 2 ^ 32 + v }
  else if off = 0x20024 ∧ !bitAt s.hl.ctx0Cfg 31 then
    s.onHl fun h => { h with ctx0Sq := h.ctx0Sq % 2 ^ 32 + 2 ^ 32 * (v % 65536) }
  else if off = 0x20028 ∧ !bitAt s.hl.ctx0Cfg 31 then
    s.onHl fun h => { h with ctx0Cq := h.ctx0Cq / 2 ^ 32 * 2 ^ 32 + v }
  else if off = 0x2002C ∧ !bitAt s.hl.ctx0Cfg 31 then
    s.onHl fun h => { h with ctx0Cq := h.ctx0Cq % 2 ^ 32 + 2 ^ 32 * (v % 65536) }
  else if off = 0x20030 then s.writeCtx0Cfg v
  else if 0x22000 ≤ off ∧ off < 0x22400 then
    s.onCtx ((off - 0x22000) / 4) fun x => { x with dbError := x.dbError && !bitAt v 29 }
  else if 0x28000 ≤ off ∧ off < 0x28400 then s.writeMsix ((off - 0x28000) / 4) v
  else if 0x90000 ≤ off ∧ off < 0x90400 then
    let k := (off - 0x90000) / 0x100
    if off % 0x100 = 0 then s.writeCanStatus k v
    else if off % 0x100 = 0x1C then s.releaseRxq k 0 v
    else if off % 0x100 = 0x20 then s.releaseRxq k 1 v
    else if off % 0x100 = 0x24 then s.onCan k fun c => { c with full := clearBits c.full v }
    else s
  else s

/-- REGISTER_WRITE (R553): a 32-bit write to any other register. -/
def execRegisterWrite (offset value : Nat) (s : State) : Out := .next (s.writeReg offset (value % 2 ^ 32))

end Sys2Proof.Machine
end

