-- ==== Sys2Proof/Machine/HostLink.lean ====
section
/-! DEFINITION. Meanings of the host-link rows (chapters 16 and 17): doorbells, taking a command, deadlines,
BAR2 accesses, data of hub DMA reads, and the link coming up. -/

namespace Sys2Proof.Machine

/-! ### Scratchpad banks behind an address (R136, R147) -/

/-- The physical bank behind logical bank `i` of a core (R135, R148): a retired bank's place is taken by
bank 64, or by 65 when 64 is used or retired. -/
def physBank (k : Core) (i : Nat) : Nat :=
  if i = k.retiredA then (if k.retiredB = 64 then 65 else 64)
  else if i = k.retiredB then (if k.retiredA = 65 then 64 else 65)
  else i

/-- Logical bank of a scratchpad byte (R136). -/
def bankOf (a : Nat) : Nat := ((a - spadBase) % 2 ^ 24 / 4) % 64

/-- Physical banks that hold bytes with bad parity inside a read of `n` bytes at `a`. -/
def State.badBanks (s : State) (a n : Nat) : List Nat :=
  let k := s.core (spadCore a)
  ((s.mem.badParity.filter fun b => a ≤ b && b < a + n).map fun b => physBank k (bankOf b)).dedup

/-- One event against each bad bank that a poisoned access met (R147). -/
def State.bankEvents (s : State) (a n : Nat) : State :=
  if !isSpad a then s
  else
    let c := spadCore a
    (s.badBanks a n).foldl (fun x b =>
      (x.onCore c fun k => { k with parityEvents := satInc 65535 k.parityEvents, lastBank := b }).errEvent
        { kind := 2, place := c / 16, unit := (s.cores.map.getD c none).getD 0, detail := b }) s

/-! ### Doorbells (R415, R418, R420) -/

def doorbellError (x : Ctx) : Ctx := { x with dbError := true }

/-- SQ_DOORBELL (R415): a new submission tail; `host` is what the host wrote into its memory before ringing. -/
def execSqDoorbell (ctx value : Nat) (host : List HostRun) (s : State) : Out :=
  let s := s.hostRuns host
  .next (if (s.ctx ctx).isOpen && decide (value < 2 ^ (s.ctx ctx).sqLog)
    then s.onCtx ctx fun x => { x with sqTail := value }
    else s.onCtx ctx doorbellError)

/-- CQ_DOORBELL (R418): entries are released, the message is rearmed, and waiting completions are written. -/
def execCqDoorbell (ctx value : Nat) (s : State) : Out :=
  .next (if (s.ctx ctx).isOpen && decide (value < 2 ^ (s.ctx ctx).cqLog)
    then (s.onCtx ctx fun x => { x with cqHead := value, msgSent := false, stalled := false }).flushRing ctx
    else s.onCtx ctx doorbellError)

/-! ### Taking a command (R416, R417, R422) -/

/-- Entries posted and not taken. -/
def Ctx.posted (x : Ctx) : Nat := (x.sqTail + 2 ^ x.sqLog - x.sqHead) % 2 ^ x.sqLog

/-- Entries a header asks for (R416). -/
def cmdEntries (c : Cmd) : Nat := 1 + (if bitAt c.flags 2 then ceilDiv c.length 64 else 0)

/-- The header at a ring's submission head. -/
def State.headHeader (s : State) (ring : Nat) : Cmd :=
  let x := s.ctx ring
  parseHeader ring (s.bytesAt (x.sqAddr + 64 * x.sqHead) 64) []

/-- The first `n` inline payload bytes behind a header, wrapping past the end of the ring (R416). -/
def State.inlineBytes (s : State) (ring n : Nat) : List Byte :=
  let x := s.ctx ring
  ((List.range (ceilDiv n 64)).flatMap fun i =>
    s.bytesAt (x.sqAddr + 64 * ((x.sqHead + 1 + i) % 2 ^ x.sqLog)) 64).take n

/-- A context from which a command, or a header that asks for too much, can be taken (R416 to R418). -/
def State.takeable (s : State) (ring : Nat) : Bool :=
  let x := s.ctx ring
  x.isOpen && !x.closing && !x.stalled && decide (x.slots.length < 64) && decide (0 < x.posted) &&
    (let h := s.headHeader ring
     decide (2 ^ x.sqLog - 1 < (cmdEntries h)) || decide ((cmdEntries h) ≤ x.posted))

/-- Payload bytes read at an address, where the address may be read at all. -/
def State.payloadBytes (s : State) (h : Cmd) : List Byte :=
  if payloadRange h.payload h.length && decide (h.length ≤ 2 ^ 20) then s.bytesAt h.payload h.length else []

/-- Hub DMA has read a payload: what that read met, and its way over the ring. -/
def State.readPayload (s : State) (c : Cmd) : State :=
  if c.isInline || c.data = [] then s
  else ((s.afterRead c.payload c.length).hostRequest s.dataEngine false c.payload c.length).carryRead .bulk 0 0xFE
    c.payload c.data

/-- Engine 7 fetches the entries of a ring, wrapping past its end (R416, R444). -/
def State.fetchEntries (s : State) (ring n : Nat) : State :=
  let x := s.ctx ring
  (List.range n).foldl (fun y i => y.hostRequest 7 false (x.sqAddr + 64 * ((x.sqHead + i) % 2 ^ x.sqLog)) 64) s

/-- A command enters the slots of its ring. -/
def Ctx.enter (x : Ctx) (c : Cmd) (st : SlotState) : Ctx :=
  { x with slots := x.slots ++ [{ cmd := c, seq := x.nextSeq, state := st }], nextSeq := x.nextSeq + 1 }

/-- A taken command passes rows 1 to 8 of R422 and waits to start, or completes with its status. The
COMMAND record is due (R530). -/
def State.enterCommand (s : State) (c : Cmd) : State :=
  let s := s.record 3 0 (leBytes 2 c.ring ++ leBytes 6 0 ++ c.headerBytes)
  let st := s.takeStatus c
  if st = stOk then s.onCtx c.ring fun x => x.enter c .waiting
  else
    let s := s.onCtx c.ring fun x => x.enter c .completing
    s.produce c.ring { seq := (s.ctx c.ring).nextSeq - 1, tag := c.tag, status := st, opcode := c.opcode }

/-- Take one command of a ring. -/
def State.takeFrom (s : State) (ring : Nat) : State :=
  let x := s.ctx ring
  let h := s.headHeader ring
  if 2 ^ x.sqLog - 1 < (cmdEntries h) then
    let s := (s.fetchEntries ring 1).onCtx ring fun x => { (x.enter h .completing) with sqHead := x.sqTail }
    s.produce ring { seq := (s.ctx ring).nextSeq - 1, tag := h.tag, status := stBadLength, opcode := h.opcode }
  else
    let c := { h with data := if bitAt h.flags 2 then s.inlineBytes ring h.length else s.payloadBytes h }
    (((s.fetchEntries ring (cmdEntries h)).readPayload c).onCtx ring fun x => { x with sqHead := (x.sqHead + (cmdEntries h)) % 2 ^ x.sqLog }).enterCommand c

/-- The context whose turn it is (R417): the first takeable one from the round's place on, else from 0. -/
def State.turn (s : State) : Option Nat :=
  match ((List.range 256).drop s.hl.rr).find? s.takeable with
  | some k => some k
  | none => (List.range 256).find? s.takeable

/-- COMMAND_TAKE (R417). -/
def execCommandTake (s : State) : Out :=
  .next (if !s.dev.fwReady || !s.hl.linkUp || s.hubDead then s
    else match s.turn with
      | none => s
      | some k => (s.onHl fun h => { h with rr := (k + 1) % 256 }).takeFrom k)

/-- COMMAND_START_DEADLINE_EXPIRY (R427): the oldest waiting command of the context whose deadline has passed
completes with ST_TIMEOUT; JOB.SUBMIT follows R365. -/
def execCommandStartDeadlineExpiry (ctx : Nat) (s : State) : Out :=
  .next (match (s.ctx ctx).slots.find? fun sl =>
      sl.state = .waiting && s.deadlinePassed sl.cmd.deadline && !(sl.cmd.family = 3 && sl.cmd.operation = 1) with
    | none => s
    | some sl => (s.onCtx ctx fun x => { x with
          slots := x.slots.map fun o => if o.seq = sl.seq then { o with state := .completing } else o }).bump.produce
        ctx { seq := sl.seq, tag := sl.cmd.tag, status := stTimeout, opcode := sl.cmd.opcode })

/-! ### BAR2 (R439, R440) -/

/-- The P0 partition's scratchpads are closed to BAR2 in RUN, DEGRADED and REPLAY (R439). -/
def State.p0Closed (s : State) (a : Nat) : Bool :=
  isSpad a && bitAt s.p0Mask (spadCore a) && (s.running || s.dev.mode = .replay)

/-- A BAR2 access that is not refused (R439, R525). -/
def State.bar2Ok (s : State) (a n : Nat) : Bool :=
  (inOpenDram a n || (inSpad a n && s.corePresent (spadCore a)) || (inHub a n && !touchesTarget a n)) &&
    !s.p0Closed a && !(s.pwr.state ≠ .active && (isDram a || isSpad a))

/-- The DPA that a BAR2 offset reaches (R441). -/
def State.bar2Addr (s : State) (offset : Nat) : Nat := s.hl.bar2Base * 2 ^ 30 + offset

def State.bar2Refuse (s : State) : State :=
  s.onHl fun h => { h with bar2Refused := satInc (2 ^ 32 - 1) h.bar2Refused }

/-- BAR2_READ (R439, R440). -/
def execBar2Read (offset len : Nat) (s : State) : Out :=
  let a := s.bar2Addr offset
  .next (if !s.bar2Ok a len then
      s.bar2Refuse.onHl fun h => { h with bus := { data := List.replicate len 0xFF } }
    else (((s.afterRead a len).bankEvents a len).carryRead .bulk 0 0xFE a (s.bytesAt a len)).onHl fun h => { h with
      bus := { data := s.bytesAt a len, poisoned := s.readPoisoned a len } })

/-- BAR2_WRITE (R439). -/
def execBar2Write (offset : Nat) (data : List Byte) (s : State) : Out :=
  let a := s.bar2Addr offset
  .next (if !s.bar2Ok a data.length then s.bar2Refuse else (s.putOut a data).2)

/-! ### MEM.COPY and data that returns from host memory (R433, R444) -/

/-- Granule-sized pieces of a range: offset and length of each. -/
def piecesOf (a n : Nat) : List (Nat × Nat) :=
  (granulesOf a n).map fun g =>
    let lo := max a g
    (lo - a, min (a + n) (g + 64) - lo)

/-- A copy meets poison: it completes with ST_MEM_POISON, and no byte of a poisoned access is written (R145,
R159). Which of the other pieces were written before it ended is free. -/
def State.copyPoisoned (s : State) (src dst n : Nat) : Nat × State :=
  (piecesOf src n).foldl (fun (x : Nat × State) p =>
    if s.readPoisoned (src + p.1) p.2 || s.draw (p.1 + 1) % 2 = 0 then x
    else (x.1 + p.2, (x.2.moveBytes (src + p.1) (dst + p.1) p.2).2)) (0, s)

/-- The copy itself: bytes copied, or what R145 and R159 leave. A range that the command may no longer reach, its
core being absent since (R61), ends it with ST_BAD_PARAM (DESIGN CHOICE 156). -/
def State.runCopy (s : State) (c : Cmd) (src dst n : Nat) : State :=
  if !s.dmaRange src n || !s.dmaRange dst n then s.complete c stBadParam
  else if s.readPoisoned src n then
    let (k, s1) := s.copyPoisoned src dst n
    (((s1.afterRead src n).bankEvents src n).bump).complete c stMemPoison k
  else if (s.moveBytes src dst n).1 then (s.moveBytes src dst n).2.complete c stMemPoison
  else (s.moveBytes src dst n).2.complete c stOk n

/-- MEM_COPY (R433): from host memory it waits for the data to return (R444). -/
def execMemCopy (c : Cmd) (s : State) : Out :=
  .next (runCmd 2 3 c s fun s =>
    let src := c.addr 0
    let dst := c.addr 2
    let n := c.word 4
    if n = 0 || overlaps src n dst n || !s.dmaRange src n || !s.dmaRange dst n then s.complete c stBadParam
    else if isHost src then s.await c (.copyRead src dst n)
    else s.runCopy c src dst n)

/-- HOST_DMA_READ_COMPLETION (R444): the data the host memory held arrives, and the copy is written on. -/
def execHostDmaReadCompletion (ctx tag : Nat) (data : List HostRun) (s : State) : Out :=
  .next (if !s.hl.linkUp then s
    else match s.hl.opens.find? fun o => o.cmd.ring = ctx && o.cmd.tag = tag &&
        (match o.wait with | .copyRead _ _ _ => true | _ => false) with
      | none => s
      | some o => match o.wait with
        | .copyRead src dst n =>
          ((s.hostRuns data).onHl fun h => { h with opens := h.opens.erase o }).runCopy o.cmd src dst n
        | _ => s)

/-- A 32-bit pattern repeated over `n` bytes. -/
def fillBytes (pattern n : Nat) : List Byte := (List.replicate (n / 4) (leBytes 4 pattern)).flatten

/-- MEM_FILL (R433). -/
def execMemFill (c : Cmd) (s : State) : Out :=
  .next (runCmd 2 4 c s fun s =>
    let dst := c.addr 0
    let n := c.word 2
    if n % 4 ≠ 0 || !s.dmaRange dst n then s.complete c stBadParam
    else if (s.putOut dst (fillBytes (c.word 3) n)).1 then
      (s.putOut dst (fillBytes (c.word 3) n)).2.complete c stMemPoison
    else (s.putOut dst (fillBytes (c.word 3) n)).2.complete c stOk)

/-! ### Peer windows (R67 to R70) -/

/-- The range lies wholly in the DRAM, scratchpad or hub memory range, with no byte of a reserved region
(R67). -/
def windowRange (a n : Nat) : Bool :=
  inOpenDram a n || (spadBase ≤ a && a + n ≤ spadTop) || inHub a n

/-- MEM_WINDOW_OPEN (R67). A slot that is open, or still drains, is in use: ST_BUSY (log 20). -/
def execMemWindowOpen (c : Cmd) (s : State) : Out :=
  .next (runCmd 2 5 c s fun s =>
    let w0 := c.word 0
    let slot := w0 % 64
    let base := c.addr 1
    let size := c.word 3 * 4096
    let x := s.hl.windows.getD slot {}
    if c.word 3 = 0 || 2 ^ 34 < size || base % 4096 ≠ 0 || !windowRange base size then s.complete c stBadParam
    else if x.isOpen || x.closing then s.complete c stBusy
    else
      let w : Window := { isOpen := true, base := base, size := size, read := bitAt w0 8
                          write := bitAt w0 9, mask := bitsOf w0 15 12 }
      (s.onHl fun h => { h with windows := h.windows.set slot w }).complete c stOk)

/-- MEM_WINDOW_CLOSE (R70): refuses every later access at once; it completes when admitted ones have drained. -/
def execMemWindowClose (c : Cmd) (s : State) : Out :=
  .next (runCmd 2 6 c s fun s =>
    let slot := c.word 0 % 64
    let x := s.hl.windows.getD slot {}
    if !x.isOpen then s.complete c stBadParam
    else if x.inFlight = 0 then
      (s.onHl fun h => { h with windows := h.windows.set slot {} }).complete c stOk
    else (s.onHl fun h => { h with windows := h.windows.set slot { x with isOpen := false, closing := true } }).await
      c (.windowDrain slot))

/-- WINDOW_DRAIN_DONE (R70). -/
def execWindowDrainDone (slot : Nat) (s : State) : Out :=
  .next (if (s.hl.windows.getD slot {}).closing && (s.hl.windows.getD slot {}).inFlight = 0 then
      (s.onHl fun h => { h with windows := h.windows.set slot {} }).finish (· = .windowDrain slot) stOk
    else s)

/-- HOST_LINK_UP (R435, R437): the link trains at x16, x8 or x4, and requests and completions that waited go out. -/
def execHostLinkUp (width rate : Nat) (ptm : Bool) (s : State) : Out :=
  .next (if s.dev.inReset then s
    else
      let s := s.onHl fun h => { h with linkUp := true, width := width, rate := rate }
      let s := s.onTb fun t => { t with ptmPath := ptm }
      (List.range 256).foldl State.flushRing s.hostSlots)

end Sys2Proof.Machine
end

