-- ==== Sys2Proof/Machine/CanBus.lean ====
section
/-! DEFINITION. Meanings of the CAN rows (chapter 18): configuration, filters, modes, transmission,
reception, bus faults, and the recovery exchange over CAN0 (R486). -/

namespace Sys2Proof.Machine

/-! ### Bit timing and CAN.CONFIG (R451, R455) -/

/-- Prescaler, TSEG1, TSEG2 and SJW of CAN_ARB_TIMING and of CAN_DATA_TIMING; each field is its value - 1. -/
def arbParts (w : Nat) : Nat × Nat × Nat × Nat :=
  (bitsOf w 8 0 + 1, bitsOf w 16 9 + 1, bitsOf w 23 17 + 1, bitsOf w 30 24 + 1)
def dataParts (w : Nat) : Nat × Nat × Nat × Nat :=
  (bitsOf w 4 0 + 1, bitsOf w 12 8 + 1, bitsOf w 19 16 + 1, bitsOf w 23 20 + 1)

/-- The further conditions of R451: SJW at most TSEG2 and TSEG1, and a least bit time in clocks. -/
def timingOk (p : Nat × Nat × Nat × Nat) (clocks : Nat) : Bool :=
  p.2.2.2 ≤ p.2.2.1 && p.2.2.2 ≤ p.2.1 && clocks ≤ p.1 * (1 + p.2.1 + p.2.2.1)

/-- Control field of a filter element (R458). -/
def ctlMatch (c : Nat) : Nat := bitsOf c 1 0
def ctlDest (c : Nat) : Nat := bitsOf c 4 2
def ctlUrgent (c : Nat) : Bool := bitAt c 5
def ctlMailbox (c : Nat) : Nat := bitsOf c 9 6

/-- A filter element as (id_a, id_b, control). -/
def stdElem (w : Nat) : Nat × Nat × Nat := (bitsOf w 10 0, bitsOf w 21 11, bitsOf w 31 22)
def extElem (w : Nat × Nat × Nat) : Nat × Nat × Nat := (bitsOf w.1 28 0, bitsOf w.2.1 28 0, bitsOf w.2.2 9 0)

/-- Elements of a bank, standard or extended. -/
def bankElems (b : FilterBank) (xtd : Bool) : List (Nat × Nat × Nat) :=
  if xtd then b.ext.map extElem else b.std.map stdElem

/-- The bank names FIFO `f` (R455, R460). -/
def namesFifo (b : FilterBank) (f : Nat) : Bool :=
  b.nonStd = f + 1 || b.nonExt = f + 1 ||
  ((bankElems b false ++ bankElems b true).any fun e => ctlMatch e.2.2 ≠ 0 && ctlDest e.2.2 = f + 1)

/-- Status of a CAN.CONFIG payload against the active filter bank (R451, R455). A FIFO size above 64 is out
of its range: ST_LIMIT (log 21). -/
def canConfigStatus (active : FilterBank) (d : List Byte) : Nat :=
  let arb := fieldAt d 0 4
  let dat := fieldAt d 4 4
  let loopc := fieldAt d 8 4
  let f0 := fieldAt d 12 1
  let f1 := fieldAt d 13 1
  let fl := fieldAt d 14 1
  if (arbParts arb).2.1 < 2 || 64 < f0 || 64 < f1 then stLimit
  else if !timingOk (arbParts arb) 80 || !timingOk (dataParts dat) 8 || bitAt arb 31 ||
      !onlyBits 0x01FF1F1F dat || !onlyBits 0x7F7F0000 loopc || !onlyBits 7 fl || fieldAt d 15 17 ≠ 0 ||
      (bitAt fl 1 && !bitAt fl 0) || (f0 = 0 && namesFifo active 0) || (f1 = 0 && namesFifo active 1) then stBadParam
  else stOk

/-- A controller takes a CAN.CONFIG payload: timing, FIFO sizes with the FIFOs empty (log 22), flags. -/
def canConfigured (c : Can) (d : List Byte) : Can :=
  let fl := fieldAt d 14 1
  { c with
    configured := true, arb := fieldAt d 0 4, dataTiming := fieldAt d 4 4, loopComp := fieldAt d 8 4
    fifo0 := { c.fifo0 with size := fieldAt d 12 1, fill := 0, put := 0, get := 0 }
    fifo1 := { c.fifo1 with size := fieldAt d 13 1, fill := 0, put := 0, get := 0 }
    fdEn := bitAt fl 0, brsEn := bitAt fl 1, autoRecover := bitAt fl 2 }

def activeBankOf (c : Can) : FilterBank := c.banks.getD c.activeBank {}

/-- CAN_CONFIG (R455). -/
def execCanConfig (c : Cmd) (s : State) : Out :=
  .next (runCmd 9 1 c s fun s =>
    let k := c.word 0 % 4
    let x := s.canAt k
    if x.mode ≠ 0 then s.complete c stBusy
    else
      let st := canConfigStatus (activeBankOf x) c.data
      if st ≠ stOk then s.complete c st
      else (s.onCan k fun x => canConfigured x c.data).complete c stOk)

/-! ### CAN.FILTERS (R458, R460, R461) -/

/-- A filter bank read from a payload. -/
def parseBank (d : List Byte) : FilterBank :=
  let n := fieldAt d 0 1
  let m := fieldAt d 1 1
  { std := (List.range n).map fun i => fieldAt d (16 + 4 * i) 4
    ext := (List.range m).map fun i =>
      let o := 16 + 4 * n + 12 * i
      (fieldAt d o 4, fieldAt d (o + 4) 4, fieldAt d (o + 8) 4)
    nonStd := fieldAt d 2 1, nonExt := fieldAt d 3 1, rejectRemote := bitAt (fieldAt d 4 1) 0 }

/-- A filter element breaks R460. -/
def elemBad (e : Nat × Nat × Nat) : Bool :=
  (ctlMatch e.2.2 = 0 && (e.1 ≠ 0 || e.2.1 ≠ 0 || e.2.2 ≠ 0)) || 4 < ctlDest e.2.2 ||
  (ctlMailbox e.2.2 ≠ 0 && ctlDest e.2.2 ≠ 3)

def extWordsBad (w : Nat × Nat × Nat) : Bool :=
  !onlyBits 0x1FFFFFFF w.1 || !onlyBits 0x1FFFFFFF w.2.1 || !onlyBits 0x3FF w.2.2

/-- Payload length of a filter list (R460): the elements, zero-padded to a multiple of 16 bytes. -/
def filtersLen (d : List Byte) : Nat := ceilDiv (16 + 4 * fieldAt d 0 1 + 12 * fieldAt d 1 1) 16 * 16

/-- Status of a CAN.FILTERS payload (R460), with the FIFO sizes in force. -/
def canFiltersStatus (size0 size1 : Nat) (d : List Byte) : Nat :=
  let b := parseBank d
  let used := 16 + 4 * fieldAt d 0 1 + 12 * fieldAt d 1 1
  if d.length < 16 || d.length ≠ filtersLen d then stBadLength
  else if 128 < fieldAt d 0 1 || 64 < fieldAt d 1 1 then stLimit
  else if 2 < b.nonStd || 2 < b.nonExt || !onlyBits 1 (fieldAt d 4 1) || fieldAt d 5 11 ≠ 0 ||
      (d.drop used).any (· ≠ 0) || b.ext.any extWordsBad ||
      (bankElems b false ++ bankElems b true).any elemBad ||
      (size0 = 0 && namesFifo b 0) || (size1 = 0 && namesFifo b 1) then stBadParam
  else stOk

/-- The controller switches to the inactive bank. -/
def canSwitched (c : Can) : Can := { c with activeBank := 1 - c.activeBank, switchPending := false }

/-- The bank switch of controller `k` takes place and CAN.FILTERS completes (R461). -/
def State.canSwitch (s : State) (k : Nat) : State :=
  (s.onCan k canSwitched).finish (· = .canFilters k) stOk

/-- CAN_FILTERS (R460, R461). -/
def execCanFilters (c : Cmd) (s : State) : Out :=
  .next (runCmd 9 2 c s fun s =>
    let k := c.word 0 % 4
    let x := s.canAt k
    let st := canFiltersStatus x.fifo0.size x.fifo1.size c.data
    if st ≠ stOk then s.complete c st
    else if x.switchPending then s.complete c stBusy
    else
      let s := s.onCan k fun x => { x with
        banks := x.banks.set (1 - x.activeBank) (parseBank c.data), switchPending := true }
      let s := s.await c (.canFilters k)
      if x.mode = 0 then s.canSwitch k else s)

/-- CAN_FILTER_BANK_SWITCH (R461): at bus idle. -/
def execCanFilterBankSwitch (k : Nat) (s : State) : Out :=
  .next (if (s.canAt k).switchPending then s.canSwitch k else s)

/-! ### Modes (R453, R454) -/

/-- The device mode allows a controller mode (R453); a replay holds every controller stopped (R537). -/
def State.canModeAllowed (s : State) (m : Nat) : Bool :=
  (m ≤ 2 || (m = 3 && (s.dev.mode = .config || s.dev.mode = .test)) || (m = 4 && s.dev.mode = .test)) &&
    (m = 0 || s.recd.replay.isNone)

/-- CAN_MODE (R453). A second request while one is pending finds the controller in use: ST_BUSY (log 23). -/
def execCanMode (c : Cmd) (s : State) : Out :=
  .next (runCmd 9 4 c s fun s =>
    let k := c.word 0 % 4
    let m := c.word 1 % 8
    let x := s.canAt k
    if 4 < m then s.complete c stBadParam
    else if !s.canModeAllowed m then s.complete c stMode
    else if (m = 1 || m = 3 || m = 4) && !x.configured then s.complete c stBadParam
    else if x.request.isSome then s.complete c stBusy
    else (s.onCan k fun x => { x with
        request := some m
        recovering := x.recovering || (m = 1 && x.errState = 2) }).await c (.canMode k))

/-- Pending buffers of a controller are discarded (R454). -/
def State.canDiscard (s : State) (k : Nat) : State :=
  (s.onCan k fun x => { x with
    tx := x.tx.map fun b => { b with pending := false, owner := none }, sending := none }).finish
      (fun w => match w with | .canSend k' _ => k' = k | _ => false) stMode

/-- CAN_MODE_CHANGE_EFFECT (R450, R454): the requested mode takes effect at bus idle. -/
def State.canModeEffect (s : State) (k m : Nat) : State :=
  let x := s.canAt k
  let s1 := if (x.mode = 1 || x.mode = 4) && m ≠ x.mode then s.canDiscard k else s
  let s2 := s1.onCan k fun x => { x with mode := m, request := none, forcedRecessive := false }
  let s3 := if m = 0 && (s2.canAt k).switchPending then s2.canSwitch k else s2
  s3.finish (· = .canMode k) stOk

def execCanModeChangeEffect (k : Nat) (s : State) : Out :=
  .next (match (s.canAt k).request with
    | some m => s.canModeEffect k m
    | none => s)

/-- A device mode that does not allow a controller's mode stops the controller (R454). -/
def State.canStopDisallowed (s : State) : State :=
  (List.range 4).foldl (fun x k =>
    if x.canModeAllowed ((x.canAt k).request.getD (x.canAt k).mode) then x
    else (x.finish (· = .canMode k) stMode).onCan k fun c => { c with request := some 0 }) s

/-- TXD of a controller (R450, R453, R467, R469): recessive, high, unless a frame of its own is in progress on the bus,
whose bits drive it. -/
def Can.txd (c : Can) : Option Pin :=
  if c.mode = 0 || c.mode = 2 || c.mode = 3 || c.errState = 2 || c.forcedRecessive || c.sending.isNone then some .high
  else none

/-! ### Transmission (R457, R464, R465, R538) -/

/-- Data bytes of a frame by its DLC (R457). -/
def dlcLen (fdf : Bool) (dlc : Nat) : Nat :=
  if dlc ≤ 8 then dlc else if fdf then [12, 16, 20, 24, 32, 48, 64].getD (dlc - 9) 64 else 8

/-- A transmit element that R464 refuses. -/
def txElemBad (c : Can) (d : List Byte) : Bool :=
  let idw := fieldAt d 0 4
  let inf := fieldAt d 4 4
  let fdf := bitAt inf 4
  bitAt idw 31 || !onlyBits 0x3F inf || (fdf && !c.fdEn) || (bitAt inf 5 && (!fdf || !c.brsEn)) ||
    (bitAt idw 30 && fdf) || (!bitAt idw 29 && bitsOf idw 28 11 ≠ 0)

/-- can_ctrl of the safety parameters in force (R406): 0xFF for none. -/
def State.canCtrl (s : State) : Nat := if s.asz.paramsValid then fieldAt s.asz.params 1 1 else 0xFF

/-- The lowest free transmit buffer that CAN.SEND may use (R464). -/
def State.freeTx (s : State) (k : Nat) : Option Nat :=
  (List.range (if s.canCtrl = k then 31 else 32)).find? fun b => !((s.canAt k).tx.getD b {}).pending

/-- CAN_SEND (R464): completes when the frame has been transmitted. -/
def execCanSend (c : Cmd) (s : State) : Out :=
  .next (runCmd 9 3 c s fun s =>
    let k := c.word 0 % 4
    let x := s.canAt k
    if x.mode ≠ 1 && x.mode ≠ 4 then s.complete c stMode
    else match s.freeTx k with
      | none => s.complete c stBusy
      | some b =>
        if txElemBad x c.data then s.complete c stBadParam
        else
          let t : TxBuf := { elem := c.data, pending := true, owner := some (c.ring, c.tag) }
          (s.onCan k fun x => { x with tx := x.tx.set b t }).await c (.canSend k b))

/-- The arbitration field of an element in transmission order (R465, ISO 11898-1): base identifier, RTR or
SRR, IDE, identifier extension, RTR. Lower wins. -/
def arbField (d : List Byte) : Nat :=
  let idw := fieldAt d 0 4
  let rtr := bit01 (bitAt idw 30)
  if bitAt idw 29 then bitsOf idw 28 18 * 2 ^ 21 + 2 ^ 20 + 2 ^ 19 + bitsOf idw 17 0 * 2 + rtr
  else bitsOf idw 10 0 * 2 ^ 21 + rtr * 2 ^ 20

/-- Fault injection holds buffer `b` back (R538, actions 3 and 4). -/
def State.txHeld (s : State) (k b : Nat) : Bool :=
  s.fi.any fun j => j.target = 4 && j.index = k &&
    match j.held with
    | some (x, due, _) => x = b && (due = 0 || s.tb.link < due)
    | none => false

/-- Buffers that may be offered now. -/
def State.txReady (s : State) (k : Nat) : List Nat :=
  (List.range 32).filter fun b => ((s.canAt k).tx.getD b {}).pending && !s.txHeld k b

/-- The buffer with the lowest arbitration field, the lowest number among equals. -/
def bestTx (c : Can) : List Nat → Option Nat
  | [] => none
  | b :: r =>
    match bestTx c r with
    | none => some b
    | some x => if arbField (c.tx.getD x {}).elem < arbField (c.tx.getD b {}).elem then some x else some b

/-- CAN_ARBITRATION (R465): the reserved buffer first, else the one that would win. -/
def execCanArbitration (k : Nat) (s : State) : Out :=
  let x := s.canAt k
  .next (if (x.mode ≠ 1 && x.mode ≠ 4) || x.errState = 2 || x.noStart || x.forcedRecessive || x.sending.isSome then s
    else
      let ready := s.txReady k
      match if s.canCtrl = k && ready.contains 31 then some 31 else bestTx x ready with
      | none => s
      | some b => (s.onCan k fun x => { x with sending := some (b, s.tsNow) }).bump)

/-- Error state by the counters (R467, ISO 11898-1). -/
def canErrState (c : Can) : Can :=
  if c.errState = 2 then c
  else { c with errState := if 127 < c.tecCount || 127 < c.recCount then 1 else 0 }

/-- The receive layout of an element (R457): TS, identifier word, information word, 64 data bytes. -/
def rxElement (ts idw inf : Nat) (data : List Byte) : List Byte :=
  leBytes 8 ts ++ leBytes 4 idw ++ leBytes 4 inf ++ (data ++ List.replicate 64 0).take 64

/-- The frame of buffer `b` has gone out: its CAN.SEND completes (R464), the CAN record is due (R530). -/
def State.canSent (s : State) (k b ts : Nat) : State :=
  let e := ((s.canAt k).tx.getD b {}).elem
  let inf := fieldAt e 4 4
  let len := dlcLen (bitAt inf 4) (inf % 16)
  let s := s.onCan k fun x => canErrState { x with
    tx := x.tx.set b { elem := e }, sending := none, tecCount := x.tecCount - 1 }
  let s := s.onRec fun r => r.put 2 0 ts (leBytes 1 k ++ leBytes 1 1 ++ leBytes 6 0 ++
    rxElement ts (fieldAt e 0 4) (inf % 256 + 0xFF00) ((e.drop 8).take len))
  s.finish (· = .canSend k b) stOk ts b

/-- A transmitted frame releases what reordering held back. -/
def State.canUnhold (s : State) (k : Nat) : State :=
  { s with fi := s.fi.map fun j =>
      if j.target = 4 && j.index = k && (match j.held with | some (_, due, _) => due = 0 | none => false)
      then { j with held := none } else j }

/-- Loop-delay compensation applies to the frame of buffer `b` (R452). -/
def Can.compensated (c : Can) (b : Nat) : Bool :=
  let inf := fieldAt (c.tx.getD b {}).elem 4 4
  bitAt c.dataTiming 24 && bitAt inf 4 && bitAt inf 5

/-- The measurement of R452 fails: no edge within 127 clocks, or L + ssp_offset above 127. -/
def Can.tdcFails (c : Can) (loopDelay : Option Nat) : Bool :=
  match loopDelay with
  | none => true
  | some l => 127 < l || 127 < l + bitsOf c.loopComp 30 24

/-- CAN_FRAME_TRANSMITTED (R452, R464, R539): a failed measurement is a bit error of the transmitter, which raises
its error counter by 8 under ISO 11898-1 (PRESUMED 18). -/
def execCanFrameTransmitted (k : Nat) (loopDelay : Option Nat) (s : State) : Out :=
  .next (match (s.canAt k).sending with
    | none => s
    | some (b, ts) =>
      if (s.canAt k).compensated b && (s.canAt k).tdcFails loopDelay then
        s.onCan k fun x => canErrState { x with
          tdcFail := satInc 255 x.tdcFail, tecCount := min 256 (x.tecCount + 8), sending := none }
      else
        let s := if (s.canAt k).compensated b then
            s.onCan k fun x => { x with loopDelay := loopDelay.getD 0 } else s
        match s.inject 4 k 0 with
        | (none, s) => (s.canUnhold k).canSent k b ts
        | (some (i, j), s) =>
          if j.action = 1 then
            (s.onCan k fun x => { x with tx := x.tx.set b {}, sending := none }).finish (· = .canSend k b) stTimeout
          else if j.action = 2 then s.onCan k fun x => { x with sending := none }
          else (s.onCan k fun x => { x with sending := none }).onFi i fun y =>
            { y with held := some (b, if j.action = 3 then 0 else s.tb.link + j.param, []) })

/-! ### Reception (R457 to R463) -/

/-- The identifier satisfies a filter element (R458). -/
def elemMatches (id : Nat) (e : Nat × Nat × Nat) : Bool :=
  match ctlMatch e.2.2 with
  | 0 => false
  | 1 => e.1 ≤ id && id ≤ e.2.1
  | 2 => id = e.1 || id = e.2.1
  | _ => (id ^^^ e.1) &&& e.2.1 = 0

/-- The deciding element: its index and control field; without a match the destination of the kind. -/
def decide459 (b : FilterBank) (xtd : Bool) (id : Nat) : Nat × Nat :=
  match (bankElems b xtd).findIdx? (elemMatches id) with
  | some i => (i, ((bankElems b xtd).getD i (0, 0, 0)).2.2)
  | none => (0xFF, 4 * (if xtd then b.nonExt else b.nonStd))

/-- Store an element in a FIFO (R462). -/
def RxFifo.store (f : RxFifo) (e : List Byte) : RxFifo :=
  if f.fill = f.size then { f with lost := satInc 255 f.lost }
  else { f with elems := f.elems.set f.put e, put := (f.put + 1) % f.size, fill := f.fill + 1 }

/-- Store an element at its destination (R458, R462). -/
def Can.store (c : Can) (ctl : Nat) (e : List Byte) : Can :=
  match ctlDest ctl with
  | 1 => { c with fifo0 := c.fifo0.store e }
  | 2 => { c with fifo1 := c.fifo1.store e }
  | 3 => { c with mailboxes := c.mailboxes.set (ctlMailbox ctl) e, full := c.full ||| 2 ^ ctlMailbox ctl }
  | _ => c

def CanFrame.idWord (f : CanFrame) : Nat := f.id + bit01 f.xtd * 2 ^ 29 + bit01 f.remote * 2 ^ 30

/-- Information word of a received frame, with urgent flag and filter index. -/
def frameInfo (f : CanFrame) (urgent : Bool) (filter : Nat) : Nat :=
  packWord [(0, f.dlc), (4, bit01 f.fdf), (5, bit01 f.brs), (6, bit01 f.esi), (7, bit01 urgent), (8, filter)]

/-- A frame received without error is filtered and stored (R459). -/
def State.canStore (s : State) (k : Nat) (f : CanFrame) : State :=
  let b := activeBankOf (s.canAt k)
  let (i, ctl) := decide459 b f.xtd f.id
  let urgent := ctlUrgent ctl && ctlDest ctl ≠ 0 && i ≠ 0xFF
  let idw := f.id + bit01 f.xtd * 2 ^ 29 + bit01 f.remote * 2 ^ 30
  let e := rxElement (s.tsAt f.sofCycle) idw (frameInfo f urgent i) (f.data.take (dlcLen f.fdf f.dlc))
  let s := s.onRec fun r => r.put 2 0 (s.tsAt f.sofCycle) (leBytes 1 k ++ leBytes 7 0 ++ e)
  if b.rejectRemote && f.remote && !f.fdf then s
  else
    let s := s.onCan k fun c => c.store ctl e
    if urgent then (s.onCan k fun c => { c with urgentPending := true }).raiseEvent 9 else s

/-- Successful reception steps the receive counter (R467, ISO 11898-1): down by one, or from above 127 to a
value from 119 to 127, which the standard leaves open. -/
def State.canRecDown (s : State) (k : Nat) : State :=
  let x := s.canAt k
  if x.mode ≠ 1 && x.mode ≠ 4 then s
  else (s.onCan k fun c => canErrState { c with
      recCount := if 127 < c.recCount then 119 + s.draw 1 % 9 else c.recCount - 1 }).bump

/-- The ROM serves CAN0 (R470, R472, R486). -/
def State.canRecovery (s : State) : Bool :=
  s.dev.mode = .recovery && (s.dev.bootsel = 2 || s.fw.recoveryReason = 2 || s.fw.recoveryReason = 3)

/-- A 64-byte frame of a recovery command (R486): the header first, then the payload; the whole command is
taken when its last frame has arrived. -/
def State.canRecoveryFrame (s : State) (d : List Byte) : State :=
  let bs := (s.canAt 0).recovery ++ d
  let h := parseHeader 256 bs []
  if bs.length < 64 * (1 + ceilDiv h.length 64) then s.onCan 0 fun c => { c with recovery := bs }
  else (s.onCan 0 fun c => { c with recovery := [] }).enterCommand
    { h with data := (bs.drop 64).take h.length }

/-- The controller takes part in a frame of this kind now (R453). -/
def Can.hears (c : Can) (f : CanFrame) : Bool :=
  ((c.mode = 1 && !f.own) || (c.mode = 2 && !f.own) || (c.mode = 3 && f.own) || c.mode = 4) && c.errState ≠ 2 &&
    (c.fdEn || !f.fdf)

/-- CAN_FRAME_RECEIVE (R459, R486). -/
def execCanFrameReceive (k : Nat) (frame : CanFrame) (s : State) : Out :=
  .next (if s.canRecovery && decide (k = 0) then
      (if frame.id = 0x7E0 && !frame.xtd && frame.fdf && frame.brs && decide (frame.data.length = 64)
       then s.canRecoveryFrame frame.data else s)
    else if s.up && (s.canAt k).hears frame then (s.canStore k frame).canRecDown k
    else s)

/-- CAN_RECOVERY_PAUSE_TIMEOUT (R486): the command being received is discarded. -/
def execCanRecoveryPauseTimeout (s : State) : Out :=
  .next (s.onCan 0 fun c => { c with recovery := [] })

/-! ### Bus faults (R467 to R469) -/

/-- CAN_BUS_ERROR (R467): the counters take the standard's steps; the frame in progress is repeated later. -/
def execCanBusError (k : Nat) (err : CanError) (s : State) : Out :=
  .next (s.onCan k fun c =>
    if (c.mode ≠ 1 && c.mode ≠ 4) || c.errState = 2 then c
    else canErrState { c with
      tecCount := if err.sending then min 256 (c.tecCount + err.tecStep) else c.tecCount
      recCount := if err.sending then c.recCount else min 256 (c.recCount + err.recStep)
      sending := if err.sending then none else c.sending })

/-- CAN_BUS_OFF (R467): entered when the transmit counter has passed 255. -/
def execCanBusOff (k : Nat) (s : State) : Out :=
  .next (if (s.canAt k).errState ≠ 2 ∧ 255 < (s.canAt k).tecCount then
      (s.onCan k fun c => { c with
        errState := 2, busOffCount := satInc 255 c.busOffCount, sending := none
        recovering := c.autoRecover }).raiseEvent 9
    else s)

/-- CAN_BUS_OFF_RECOVERED (R467). -/
def execCanBusOffRecovered (k : Nat) (s : State) : Out :=
  .next (s.onCan k fun c =>
    if c.errState = 2 && c.recovering then { c with errState := 0, recovering := false, tecCount := 0, recCount := 0 }
    else c)

/-- CAN_STUCK_DOMINANT (R468). -/
def execCanStuckDominant (k : Nat) (s : State) : Out :=
  .next (if (s.canAt k).mode = 0 then s
    else (s.onCan k fun c => { c with stuck := true, noStart := true }).raiseEvent 9)

/-- CAN_INTEGRATE_AGAIN (R468): 11 consecutive recessive bits. -/
def execCanIntegrateAgain (k : Nat) (s : State) : Out :=
  .next (s.onCan k fun c => { c with noStart := false })

/-- CAN_TX_TIMEOUT (R469): TXD is forced recessive and the controller is stopped under R454. -/
def execCanTxTimeout (k : Nat) (s : State) : Out :=
  .next (if (s.canAt k).mode ≠ 1 ∧ (s.canAt k).mode ≠ 4 then s
    else s.onCan k fun c => { c with
      txTimeout := true, forcedRecessive := true, sending := none, request := some 0 })

end Sys2Proof.Machine
end

