-- ==== Sys2Proof/Machine/Board.lean ====
section
/-! DEFINITION. The sample board (R278): entries, the flip of the index word, and what becomes of entries whose
buffer a job's end cleared (R281). -/

namespace Sys2Proof.Machine

def boardIndex (st : Nat) : Nat := boardBase + 2048 + 8 * st

/-- Address of the board entry in force of a stream (R278). -/
def State.boardEntry (s : State) (st : Nat) : Nat := boardBase + 128 * st + 64 * (s.natAt (boardIndex st) 8 % 2)

/-- A publication: the entry not current, then the index word (R278). -/
def State.putBoard (s : State) (st seq : Nat) (entry : List Byte) : State :=
  let cur := s.natAt (boardIndex st) 8 % 2
  (s.write (boardBase + 128 * st + 64 * (1 - cur)) entry).writeNat (boardIndex st) 8 (1 - cur + 2 ^ 32 * (seq % 2 ^ 32))

/-- The entry before a stream's first publication: VOID_DROPPED, cause 9, seq all ones (R278). -/
def firstEntry (st : Nat) : List Byte :=
  leBytes 1 st ++ leBytes 1 3 ++ leBytes 1 9 ++ leBytes 1 0 ++ leBytes 4 0xFFFFFFFF ++ leBytes 56 0

/-- Address of a buffer of a stream. -/
def Stream.bufAddr (x : Stream) (b : Nat) : Nat := (x.cfg.getD {}).bufs.getD b 0

/-- The buffer that a stream's entry in force publishes: the tensor of its record, while that is valid (R272, R278). -/
def State.boardTensor (s : State) (st : Nat) : Option Nat :=
  let e := s.bytesAt (s.boardEntry st) 64
  if bitAt (fieldAt e 3 1) 0 then some (fieldAt e 32 8) else none

/-- The published sample of a stream lies in the scratchpad of a core. -/
def State.boardIn (s : State) (st g : Nat) : Bool :=
  (s.boardTensor st).any fun a => isSpad a && spadCore a = g

/-- Board entries that name a buffer in a cleared scratchpad are published again with valid = 0 (R281). -/
def State.republish (s : State) (g : Nat) : State :=
  ((List.range 16).filter fun st => s.boardIn st g).foldl (fun x st =>
    let e := x.bytesAt (x.boardEntry st) 64
    let flags := fieldAt e 3 1
    (x.putBoard st (fieldAt e 4 4) (e.take 3 ++ leBytes 1 (flags - flags % 2) ++ (e.drop 4).take 44 ++
      leBytes 8 x.tsNow ++ e.drop 56)).bump) s

end Sys2Proof.Machine
end

