-- ==== Sys2Proof/Machine/Watchdogs.lean ====
section
/-! DEFINITION. Watchdogs (R386 to R389): their windows, the moment they arm, kicks, faults, and the meaning
of a window's close. -/

namespace Sys2Proof.Machine

/-- Period, phase, open and close offset of a configured watchdog (R386, R387, R406). -/
def State.wdParams (s : State) (w : Nat) : Option (Nat × Nat × Nat × Nat) :=
  if !s.asz.paramsValid then none
  else if w = 0 then some (100, 0, fieldAt s.asz.params 40 2, fieldAt s.asz.params 42 2)
  else if w ≤ 3 then some (1, 0, 0, 1)
  else
    let o := 320 + 8 * w
    let t := fieldAt s.asz.params o 2
    if t = 0 then none
    else some (t, fieldAt s.asz.params (o + 2) 2, fieldAt s.asz.params (o + 4) 2, fieldAt s.asz.params (o + 6) 2)

def State.watchdog (s : State) (w : Nat) : Watchdog := s.asz.watchdogs.getD w {}
def State.onWd (s : State) (w : Nat) (f : Watchdog → Watchdog) : State :=
  s.onAsz fun a => { a with watchdogs := a.watchdogs.modify w f }

/-- The watchdogs judge: in RUN and DEGRADED, and on replayed data during a replay (R388, R537), while pair A runs
them (R375). -/
def State.judging (s : State) : Bool :=
  s.asz.pairAOk && (s.running || (s.dev.mode = .replay && s.recd.replay.isSome))

/-- First link of RUN, or of the replay in progress. -/
def State.runFrom (s : State) : Nat :=
  match s.recd.replay with
  | some p => p.t0
  | none => s.asz.runStart

/-- Opening link of window `k` (R386). -/
def State.wdOpen (s : State) (p : Nat × Nat × Nat × Nat) (k : Nat) : Nat := s.tb.mile + p.2.1 + k * p.1 + p.2.2.1

/-- Window `k` counts: it opens at or after the first link of RUN and after the link in which the source
started (R388). -/
def State.wdArms (s : State) (w : Nat) (p : Nat × Nat × Nat × Nat) (k : Nat) : Bool :=
  match (s.watchdog w).source with
  | none => false
  | some src => s.runFrom ≤ s.wdOpen p k && src < s.wdOpen p k

/-- The window in whose period a link falls, and the offset in it (R34). -/
def State.wdPlace (s : State) (p : Nat × Nat × Nat × Nat) : Option (Nat × Nat) :=
  let base := s.tb.mile + p.2.1
  if s.tb.link < base then none else some ((s.tb.link - base) / p.1, (s.tb.link - base) % p.1)

/-- The device decides or warns on a watchdog fault (R389); two faults of a watchdog in one link are one. -/
def State.wdFaulty (s : State) (w : Nat) : State :=
  if (s.watchdog w).lastFault = some s.tb.link then s
  else
    let s := s.onWd w fun d => { d with lastFault := some s.tb.link }
    let s := (s.onAsz fun a => { a with wdFault := a.wdFault ||| 2 ^ w }).sched 8 none (some w)
    let s := if bitAt s.recd.triggers 3 then s.recTrigger true else s
    if w ≤ 3 || bitAt (fieldAt s.asz.params 32 8) w then s.decideSafe 11 else s.raiseEvent 1

/-- A kick (R386, R388): it counts once inside a window that is armed; a second one, or one outside every
window after the watchdog has armed, is a fault. -/
def State.kick (s : State) (w : Nat) : State :=
  match s.wdParams w with
  | none => s
  | some p =>
    match s.wdPlace p with
    | none => s
    | some (k, ofs) =>
      if !s.judging then s
      else if p.2.2.1 ≤ ofs && ofs < p.2.2.2 then
        (if !s.wdArms w p k then s
         else if (s.watchdog w).kicked.contains (s.wdOpen p k) then s.wdFaulty w
         else s.onWd w fun d => { d with kicked := (s.wdOpen p k :: d.kicked).take 2 })
      else if (p.2.2.2 ≤ ofs && s.wdArms w p k) || (0 < k && s.wdArms w p (k - 1)) then s.wdFaulty w
      else s

/-- The source of a watchdog starts. -/
def State.wdStart (s : State) (w : Nat) : State :=
  s.onWd w fun _ => { source := some s.tb.link }

/-- The source of a watchdog stops or ends: the watchdog disarms, and in RUN and DEGRADED that is itself a
fault when its bit of wd_safe_mask is set (R388). -/
def State.wdStop (s : State) (w : Nat) : State :=
  let armed := (s.wdParams w).isSome && (s.watchdog w).source.isSome
  let s1 := s.onWd w fun d => { d with source := none, kicked := [] }
  if armed && s.running && decide (4 ≤ w) && bitAt (fieldAt s.asz.params 32 8) w then s1.wdFaulty w else s1

/-- WATCHDOG_WINDOW_CLOSE (R386): the link of the close offset of a window that armed and saw no kick. -/
def execWatchdogWindowClose (w : Nat) (s : State) : Out :=
  .next (match s.wdParams w with
    | none => s
    | some p =>
      let base := s.tb.mile + p.2.1 + p.2.2.2
      if s.tb.link < base || (s.tb.link - base) % p.1 ≠ 0 || !s.judging then s
      else
        let k := (s.tb.link - base) / p.1
        if s.wdArms w p k && !(s.watchdog w).kicked.contains (s.wdOpen p k) then s.wdFaulty w else s)

end Sys2Proof.Machine
end

