-- ==== Sys2Proof/Machine/Frames.lean ====
section
/-! DEFINITION. DRAM and hub allocation (R155, R433), free lists, and the frame-table agent: entries, its six
operations as indivisible steps, and the return of a frame (chapter 08). -/

namespace Sys2Proof.Machine

/-! ### Placing a range -/

def alignUp (a n : Nat) : Nat := ceilDiv n a * a

/-- A range of `n` bytes at `a` lies in `[lo, hi)` and meets none of the taken ranges. -/
def fits (lo hi n : Nat) (taken : List (Nat × Nat)) (a : Nat) : Bool :=
  lo ≤ a && a + n ≤ hi && taken.all fun t => !overlaps a n t.1 t.2

/-- A place for `n` bytes, aligned: the drawn one where it is free, else the lowest; none where no place is
left. Which free place is taken is the firmware's choice (log 24). -/
def placeRange (lo hi n align : Nat) (taken : List (Nat × Nat)) (draw : Nat) : Option Nat :=
  let first := alignUp align lo
  let slots := (hi - n - first) / align + 1
  let a := first + align * (draw % slots)
  if fits lo hi n taken a then some a
  else (((lo :: taken.map fun t => t.1 + t.2).map (alignUp align)).filter (fits lo hi n taken)).min?

/-- What MEM.ALLOC may not use in the DRAM of a die: allocations, pools, save areas, withdrawn 32 KiB blocks. -/
def State.takenRanges (s : State) : List (Nat × Nat) :=
  (s.hl.allocs.map fun a => (a.base, a.size)) ++ (s.dram.flatMap (·.withdrawn)).map fun b => (b, 32768)

/-- A place for a region in the DRAM of die `d`. -/
def State.placeDram (s : State) (d n align i : Nat) : Option Nat :=
  placeRange (d * stackSize) (d * stackSize + reservedOff) n align s.takenRanges (s.draw i)

/-- A place in hub memory outside the target region and the sample board. -/
def State.placeHub (s : State) (n align i : Nat) : Option Nat :=
  placeRange hubBase targetBase n align s.takenRanges (s.draw i)

def State.addAlloc (s : State) (a : Alloc) : State := s.onHl fun h => { h with allocs := h.allocs ++ [a] }
def State.dropAlloc (s : State) (base : Nat) : State :=
  s.onHl fun h => { h with allocs := h.allocs.filter fun a => a.base ≠ base }

/-! ### Free lists -/

/-- Keep a strictly rising list of numbers. -/
def insertNat (a : Nat) : List Nat → List Nat
  | [] => [a]
  | b :: r => if a < b then a :: b :: r else if a = b then b :: r else b :: insertNat a r

/-- Insertion into a list ordered by `before`, behind the elements that go before. -/
def insertBy {α : Type} (before : α → α → Bool) (a : α) : List α → List α
  | [] => [a]
  | b :: r => if before a b then a :: b :: r else b :: insertBy before a r

/-- A list in the order of `before`. -/
def sortBy {α : Type} (before : α → α → Bool) (l : List α) : List α := l.foldr (insertBy before) []

/-- The `k`-th number that is not in the rising list. -/
def nthFree (used : List Nat) (k : Nat) : Nat := used.foldl (fun c u => if u ≤ c then c + 1 else c) k

/-- Take one free number; which one is the firmware's choice (log 24). -/
def FreeList.take (f : FreeList) (draw : Nat) : Option (Nat × FreeList) :=
  if f.count = 0 then none
  else
    let n := nthFree f.used (draw % f.count)
    some (n, { f with used := insertNat n f.used })

/-- A number comes back. -/
def FreeList.put (f : FreeList) (n : Nat) : FreeList := { f with used := f.used.filter (· ≠ n) }

/-- A run of `n` consecutive free numbers. -/
def FreeList.takeRun (f : FreeList) (n draw : Nat) : Option (Nat × FreeList) :=
  match placeRange 0 f.bound n 1 (f.used.map fun u => (u, 1)) draw with
  | none => none
  | some a => some (a, { f with used := (List.range n).foldl (fun u i => insertNat (a + i) u) f.used })

/-- A run of numbers comes back. -/
def FreeList.putRun (f : FreeList) (a n : Nat) : FreeList :=
  { f with used := f.used.filter fun u => !(a ≤ u && u < a + n) }

/-! ### Frame-table entries (R207 to R209) -/

/-- An entry's fields (R209). -/
structure FtEntry where
  home : Nat := 0
  gen : Nat := 0
  cow : Bool := false
  state : Nat := 0
  readers : Nat := 0
  refs : Nat := 0
  rsv : Nat := 0
  pool : Nat := 0
  number : Nat := 0
deriving DecidableEq, Repr

def ftFree : Nat := 0
def ftResident : Nat := 1
def ftSwappingOut : Nat := 2
def ftSwapped : Nat := 3
def ftSwappingIn : Nat := 4
def ftPinned : Nat := 5

def parseEntry (v : Nat) : FtEntry :=
  { home := bitsOf v 63 62, gen := bitsOf v 61 58, cow := bitAt v 57, state := bitsOf v 56 54
    readers := bitsOf v 53 46, refs := bitsOf v 45 34, rsv := bitsOf v 33 32, pool := bitsOf v 31 26
    number := bitsOf v 25 0 }

def FtEntry.word (e : FtEntry) : Nat :=
  (e.home % 4) * 2 ^ 62 + (e.gen % 16) * 2 ^ 58 + bit01 e.cow * 2 ^ 57 + (e.state % 8) * 2 ^ 54 +
    (e.readers % 256) * 2 ^ 46 + (e.refs % 4096) * 2 ^ 34 + (e.rsv % 4) * 2 ^ 32 + (e.pool % 64) * 2 ^ 26 +
    e.number % 2 ^ 26

/-- Die and entry of a frame index (R207). -/
def idxDie (index : Nat) : Nat := index / 2 ^ 21 % 4
def idxEntry (index : Nat) : Nat := index % 2 ^ 21

/-- The block-table element of a page without a frame (R207). -/
def noFrame : Nat := 0xFFFFFFFF

/-- DPA of an entry (R208). -/
def entryAddr (index : Nat) : Nat := idxDie index * stackSize + reservedOff + 8 * idxEntry index

def State.entryWord (s : State) (index : Nat) : Nat := s.natAt (entryAddr index) 8
def State.entry (s : State) (index : Nat) : FtEntry := parseEntry (s.entryWord index)
def State.setEntry (s : State) (index : Nat) (e : FtEntry) : State := s.writeNat (entryAddr index) 8 e.word

/-! ### Pools (R203 to R206) -/

def State.pool (s : State) (id : Nat) : Option Pool := s.kv.pools.find? fun p => p.id = id
def State.onPool (s : State) (id : Nat) (f : Pool → Pool) : State :=
  s.onKv fun k => { k with pools := k.pools.map fun p => if p.id = id then f p else p }
def State.onPoolDie (s : State) (id d : Nat) (f : PoolDie → PoolDie) : State :=
  s.onPool id fun p => { p with dies := p.dies.modify d f }

/-- Bytes of an element: 1 for FP8, 2 for BF16. -/
def Pool.elem (p : Pool) : Nat := if p.fmt = 5 then 1 else 2
/-- Bytes of one K or V page (R205). -/
def Pool.page (p : Pool) : Nat := 256 * p.hd16 * p.elem
def Pool.frameBytes (p : Pool) : Nat := p.frameKib * 1024
/-- Bytes of the scale plane (R205, R206). -/
def Pool.plane (p : Pool) : Nat := if p.fmt = 5 then p.entriesPerDie * p.heads * 4 else 0
/-- DPA of a frame (R205). -/
def Pool.frameBase (p : Pool) (d f : Nat) : Nat := (p.die d).base + p.plane + f * p.frameBytes
/-- DPA of the scale records of an entry (R206). -/
def Pool.scaleAddr (p : Pool) (d entry : Nat) : Nat :=
  (p.die d).base + (entry - (p.die d).firstEntry) * p.heads * 4

/-! ### The agent's operations (R211, R214) -/

/-- The return of a frame: state free, cow clear, entry and frame number or swap units back on their lists. -/
def State.returnFrame (s : State) (index : Nat) : State :=
  let e := s.entry index
  let d := idxDie index
  let s1 := s.setEntry index { e with state := ftFree, cow := false }
  let s2 := s1.onPoolDie e.pool d fun x => { x with
    entries := x.entries.put (idxEntry index - x.firstEntry)
    frames := if e.state = ftResident || e.state = ftPinned then x.frames.put e.number else x.frames }
  if e.state = ftSwapped then
    s2.onKv fun k => { k with swapUnits := k.swapUnits.putRun e.number ((s.pool e.pool).getD {}).frameKib }
  else s2

/-- The return condition, tested after a decrement (R211). -/
def State.maybeReturn (s : State) (index : Nat) : State :=
  let e := s.entry index
  if e.refs = 0 && e.readers = 0 && (e.state = ftResident || e.state = ftPinned || e.state = ftSwapped) then
    s.returnFrame index
  else s

/-- A LOOKUP of this entry for a pool succeeds. -/
def FtEntry.readable (e : FtEntry) (die pool : Nat) : Bool :=
  (e.state = ftResident || e.state = ftPinned) && e.pool = pool && e.home = die

/-- LOOKUP: the entry found, and the state with one more reader. -/
def State.ftLookup (s : State) (index pool : Nat) : Option FtEntry × State :=
  let e := s.entry index
  if e.readable (idxDie index) pool then
    let e' := { e with readers := e.readers + 1 }
    (some e', s.setEntry index e')
  else (none, s)

def State.ftRelease (s : State) (index : Nat) : State :=
  let e := s.entry index
  if e.readers = 0 then s else (s.setEntry index { e with readers := e.readers - 1 }).maybeReturn index

def State.ftRefAdd (s : State) (index n : Nat) : State :=
  let e := s.entry index
  s.setEntry index { e with refs := e.refs + n, cow := e.cow || decide (1 < e.refs + n) }

def State.ftRefSub (s : State) (index : Nat) : State :=
  let e := s.entry index
  if e.refs = 0 then s else (s.setEntry index { e with refs := e.refs - 1 }).maybeReturn index

/-- CAS: the new entry is written only over the expected one; otherwise the current entry is the answer. -/
def State.ftCas (s : State) (index expected new : Nat) : State :=
  if s.entryWord index = expected then (s.writeNat (entryAddr index) 8 new).onKv fun x => { x with reply := none }
  else s.onKv fun x => { x with reply := some (s.entryWord index) }

/-- ALLOC of an entry with a frame number: the index, and the state after it; draws `i` and `i + 1`. -/
def State.ftAlloc (s : State) (die pool state i : Nat) : Option (Nat × State) :=
  match s.pool pool with
  | none => none
  | some p =>
    if !p.onDie die then none
    else
      let x := p.die die
      match x.entries.take (s.draw i) with
      | none => none
      | some (k, es) =>
        let index := die * 2 ^ 21 + x.firstEntry + k
        let gen := (s.entry index).gen + 1
        if state = ftSwapped then
          match s.kv.swapUnits.takeRun p.frameKib (s.draw (i + 1)) with
          | none => none
          | some (u, us) =>
            let s1 := (s.onPoolDie pool die fun x => { x with entries := es }).onKv fun k => { k with swapUnits := us }
            some (index, s1.setEntry index
              { home := die, gen := gen, state := state, refs := 1, pool := pool, number := u })
        else
          match x.frames.take (s.draw (i + 1)) with
          | none => none
          | some (f, fs) =>
            let s1 := s.onPoolDie pool die fun x => { x with entries := es, frames := fs }
            some (index, s1.setEntry index
              { home := die, gen := gen, state := state, refs := 1, pool := pool, number := f })

/-- DPA of the frame that a resident entry names. -/
def State.frameAddr (s : State) (index : Nat) : Nat :=
  let e := s.entry index
  ((s.pool e.pool).getD {}).frameBase (idxDie index) e.number

/-- Copy the bytes of one frame to another place, granule by granule: those listed in `bad` read uncorrectable, as do
those already poisoned. Each is recorded and remapped where it lay, written with the reserved check pattern, and stays
poisoned in the copy (R159, R168, R225). Hub DMA copies on VC2 (R48, R233). -/
def State.copyFrame (s : State) (src dst n : Nat) (bad : List Nat) : State :=
  let s := (s.dramRead src n ((granulesOf src n).map fun g => if bad.contains g then .uncorrectable else .ok)).2
  let lost := (granulesOf src n).filter fun g => s.readPoisoned g 64
  let s1 := (s.write dst (s.bytesAt src n)).carryHub .bulk src dst (s.bytesAt src n)
  if lost = [] then s1 else s1.poisonGranules (lost.map fun g => g - src + dst) true

/-- Copy the scale records of an entry (R206, R225). A granule of them that reads uncorrectable is treated as one of
the frame: the granules that receive them become poisoned (DESIGN CHOICE 166). -/
def State.copyScales (s : State) (src dst n : Nat) : State :=
  if s.readPoisoned src n then (s.afterRead src n).poisonGranules (granulesOf dst n) true 
  else (s.write dst (s.bytesAt src n)).carryHub .bulk src dst (s.bytesAt src n)

/-! ### The agent's rows -/

/-- FT_RELEASE (R211, R213): the requester, a core 0 to 63 or a hub DMA engine, holds the frame no longer. -/
def execFtRelease (x : FrameUse) (s : State) : Out :=
  .next (((s.ftRelease x.index).onKv fun k => { k with
    engineReads := k.engineReads.filter (· ≠ (x.requester, x.index)) }).onCore x.requester fun k => { k with
      readers := k.readers.filter (· ≠ x.index) })

/-- FT_REF_ADD (R211): a count above 4,095 never arises (R224 row 6). -/
def execFtRefAdd (index n : Nat) (s : State) : Out :=
  .next (if (s.entry index).refs + n ≤ 4095 then s.ftRefAdd index n else s)

/-- FT_REF_SUB (R211). -/
def execFtRefSub (index : Nat) (s : State) : Out := .next (s.ftRefSub index)

/-- FT_CAS (R211). -/
def execFtCas (index expected new : Nat) (s : State) : Out := .next (s.ftCas index expected new)

/-- FT_ALLOC (R211). -/
def execFtAlloc (die pool state : Nat) (s : State) : Out :=
  .next (match s.ftAlloc die pool state 0 with
    | some (_, t) => t.bump
    | none => s)

/-! ### MEM.ALLOC and MEM.FREE (R433, R155) -/

/-- MEM_ALLOC (R433). -/
def execMemAlloc (c : Cmd) (s : State) : Out :=
  .next (runCmd 2 1 c s fun s =>
    let place := c.word 0 % 16
    let n := c.word 1 * 4096
    let al := c.word 2 % 32
    if 4 < place || n = 0 || al < 12 || 30 < al then s.complete c stBadParam
    else
      let found := if place = 4 then s.placeHub n (2 ^ al) 0
        else if (s.dramAt place).inService then s.placeDram place n (2 ^ al) 0 else none
      match found with
      | none => s.complete c stNoMemory
      | some a => ((s.addAlloc { base := a, size := n, ctx := c.ring }).bump).complete c stOk a)

/-- Bytes of a sequence's block table on one die (R216). -/
def tableBytes (p : Pool) (q : KvSeq) : Nat := p.layers * (q.maxTokens / 16) * 4

/-- An allocation holds a block table of a live sequence. -/
def State.holdsTable (s : State) (x : Alloc) : Bool :=
  s.kv.seqs.any fun q =>
    let p := (s.pool q.pool).getD {}
    (List.range 4).any fun d => p.onDie d && overlaps x.base x.size (q.bt.getD d 0) (tableBytes p q)

/-- Attention and vision descriptors' addresses (R179, R247). -/
def attnAddrs (d : List Byte) : List Nat := (List.range 16).map fun i => fieldAt d (32 + 8 * i) 8
def visionAddrs (d : List Byte) : List Nat := (List.range 4).map fun i => fieldAt d (48 + 8 * i) 8

/-- Record `i` of an array of records of `n` bytes. -/
def recordOf (bs : List Byte) (n i : Nat) : List Byte := (bs.drop (n * i)).take n
def recordsOf (bs : List Byte) (n : Nat) : List (List Byte) := (List.range (bs.length / n)).map (recordOf bs n)

/-- Ranges that a job names: its code image and arrays, and the bytes at its descriptors' addresses. -/
def Job.names (j : Job) : List (Nat × Nat) :=
  [(j.codeAddr, j.codeBytes), (j.attnAddr, j.attn.length), (j.visionAddr, j.vision.length),
   (j.kvAddr, 32 * j.bindings.length), (j.batchAddr, 64 * j.streams.length)] ++
  (j.bindings.map fun b => (b.wlist, if b.writeCount = 0 then 0 else 8)) ++
  ((recordsOf j.attn 176).flatMap attnAddrs ++ (recordsOf j.vision 80).flatMap visionAddrs).map
    fun a => (a, if a = 0 then 0 else 1)

/-- An allocation is named by a job that has not ended. -/
def State.namedByJob (s : State) (x : Alloc) : Bool :=
  s.sch.jobs.any fun j => j.names.any fun r => overlaps x.base x.size r.1 r.2

/-- An allocation lies under an open window. -/
def State.underWindow (s : State) (x : Alloc) : Bool :=
  s.hl.windows.any fun w => (w.isOpen || w.closing) && overlaps x.base x.size w.base w.size

/-- MEM_FREE (R433, R579). -/
def execMemFree (c : Cmd) (s : State) : Out :=
  .next (runCmd 2 2 c s fun s =>
    match s.allocAt (c.addr 0) with
    | none => s.complete c stBadParam
    | some x =>
      if s.holdsTable x || s.underWindow x || s.namedByJob x then s.complete c stBusy
      else (s.dropAlloc x.base).complete c stOk)

end Sys2Proof.Machine
end

