-- ==== Sys2Proof/Machine/Jobs.lean ====
section
/-! DEFINITION. What job rows share: results and completions (R129, R364), cores of a job, their loading,
saving and clearing (R124, R143, R432), retirement of banks and cores (R131, R148 to R151, R373), the end of a
job (R119, R222, R366, R390), and the mark sequence (R116). -/

namespace Sys2Proof.Machine

/-! ### Jobs -/

def State.job (s : State) (k : JobKey) : Option Job := s.sch.jobs.find? fun j => j.key = k
def State.onJob (s : State) (k : JobKey) (f : Job → Job) : State :=
  s.onSch fun x => { x with jobs := x.jobs.map fun j => if j.key = k then f j else j }

/-- The job that runs on a core. -/
def State.coreJob (s : State) (c : Nat) : Option Job := (s.core c).job.bind s.job

/-- Result word 2: flag record, re-run count, TASK_OVERRUN (R129, R362, R433). -/
def resultWord2 (flags reruns : Nat) (overrun : Bool) : Nat :=
  flags % 2 ^ 32 + min reruns 65535 * 2 ^ 32 + bit01 overrun * 2 ^ 48

/-- The opcode of a JOB.SUBMIT completion. -/
def submitOpcode : Nat := 0x0103

/-- The completion of a release, with its number (R364). -/
def State.releaseCompletion (s : State) (j : Job) (status : Nat) (overrun : Bool) : State :=
  s.produce j.key.ctx
    { seq := j.seq, tag := j.key.tag, status := status, opcode := submitOpcode, res0 := (j.releases - 1) % 2 ^ 32
      res1 := j.charged % 2 ^ 32, res2 := resultWord2 j.flagRec j.reruns overrun, settles := false, release := true }

/-- The one completion of a once job, or the final one of a periodic or event job (R364): bit 63 set. A job
that ends between releases reports flags 0 (R129). -/
def State.endCompletion (s : State) (j : Job) (status : Nat) : State :=
  s.produce j.key.ctx
    { seq := j.seq, tag := j.key.tag, status := status, opcode := submitOpcode
      res0 := 2 ^ 63 + (j.releases - 1) % 2 ^ 32, res1 := j.charged % 2 ^ 32
      res2 := resultWord2 (if j.mode = 0 || j.released then j.flagRec else 0) j.reruns j.overrun
      settles := j.mode = 0 }

/-- A sequence and its length after a job that wrote it completed with ST_OK (R222). -/
def grownSeq (bs : List Binding) (q : KvSeq) : KvSeq :=
  bs.foldl (fun q b => if b.seq = q.id && decide (0 < b.writeCount)
    then { q with length := max q.length (b.writeStart + b.writeCount) } else q) q

/-- A pinned frame returns to resident (R222). -/
def State.unpin (s : State) (index : Nat) : State :=
  let e := s.entry index
  if e.state = ftPinned then (s.setEntry index { e with state := ftResident }).maybeReturn index else s

/-! ### Banks and cores: retirement (R131, R148 to R151) -/

/-- Banks of a physical core that are lasting and not retired, ascending (R502). -/
def State.lastingBanks (s : State) (d u : Nat) : List Nat :=
  (s.spr.lasting.filter fun r => r.kind = 2 && r.place = d && r.unit = u).foldl (fun l r => insertNat r.detail l) []

def coreEntry (d u : Nat) : WearEntry := { kind := 1, place := d, unit := u }

/-- A spare bank takes the place of a bank (R148, R150); with none left the whole core is retired (R151). -/
def State.takeBank (s : State) (d u b : Nat) : State :=
  let p := physIndex d u
  if (s.phys p).sparesLeft = 0 then s.makeLasting (coreEntry d u)
  else (s.onPhys p fun k => { k with
      retiredA := if k.retiredA = 0x7F then b else k.retiredA
      retiredB := if k.retiredA = 0x7F then k.retiredB else b
      sparesLeft := k.sparesLeft - 1, migrating := none, copyDone := false }).retire
    { kind := 2, place := d, unit := u, detail := b }

/-- A core that holds no job, its units switched off; its grid tables keep what they hold (R75, R514). -/
def Core.cleared (k : Core) : Core :=
  { k with reg := { grids := k.reg.grids }, snap := { grids := k.reg.grids }, run := .idle, job := none, rank := 0
           stopReq := false, wait := .none, matrix := [], vector := [], dma := [[], [], [], []], sigs := []
           readers := [], held := none, unitsOn := false }

/-- The context of core `p` on the banks of core `q`; the registers of a core that holds no job stay behind. -/
def Core.adopt (q p : Core) : Core :=
  { p with reg := if p.job.isSome then p.reg else q.reg, snap := if p.job.isSome then p.snap else q.snap
           retired := q.retired, retiredA := q.retiredA, retiredB := q.retiredB, sparesLeft := q.sparesLeft
           migrating := none, copyDone := false, parityEvents := q.parityEvents, lastBank := q.lastBank
           testVector := q.testVector }

/-- The logical core that a physical one carries. -/
def State.logicalOn (s : State) (d u : Nat) : Option Nat :=
  (List.range 16).find? fun c => s.cores.map.getD (16 * d + c) none = some u

/-- The moves of R131 for logical core `c` of die `d`: logical core and new physical core, in order. Where 17 holds
`c` itself, the second branch, read literally, would move `c` to 16 and then back to the core that is to be retired:
it moves to 16 (DESIGN CHOICE 38). -/
def State.coreMoves (s : State) (d c : Nat) : List (Nat × Option Nat) :=
  let sp := s.spareCores d
  let lowest := if sp.contains 16 then some 16 else if sp.contains 17 then some 17 else none
  if c ≤ 1 then
    if sp.contains 17 then [(c, some 17)]
    else match s.logicalOn d 17 with
      | some x => if sp.contains 16 && decide (x ≠ c) then [(x, some 16), (c, some 17)] else [(c, lowest)]
      | none => [(c, lowest)]
  else [(c, lowest)]

/-- A logical core changes its physical core, or is absent. -/
def State.remap (s : State) (g : Nat) (q : Option Nat) : State :=
  let d := g / 16
  match s.physOf g with
  | none => s
  | some p =>
    let old := s.phys p
    let s := match q with
      | some u => s.onPhys (physIndex d u) fun k => k.adopt old
      | none => s
    (s.onPhys p Core.cleared).onCores fun x => { x with map := x.map.set g q }

/-- Physical core `u` of die `d` is retired. -/
def State.retireCore (s : State) (d u : Nat) (absent : Bool) : State :=
  if (s.phys (physIndex d u)).retired then s
  else
    let s := (s.onPhys (physIndex d u) fun k => { k with retired := true, migrating := none }).retire (coreEntry d u)
    if absent then s.setDegraded else s

/-- The physical core under logical core `g` is to be retired. -/
def State.coreDue (s : State) (g : Nat) : Bool :=
  match s.cores.map.getD g none with
  | some u => s.isLasting (coreEntry (g / 16) u)
  | none => false

/-- Moves of R131 on cores that hold no job; the scratchpads that come into service are cleared (R143). -/
def State.moveIdle (s : State) (g : Nat) : State :=
  match s.cores.map.getD g none with
  | none => s
  | some u =>
    let d := g / 16
    let ms := s.coreMoves d (g % 16)
    if !s.coreDue g || !(ms.all fun m => (s.core (16 * d + m.1)).job = none) then s
    else
      let s := ms.foldl (fun x m => (x.remap (16 * d + m.1) m.2).clearSpad (16 * d + m.1)) s
      s.retireCore d u (ms.any fun m => m.2 = none)

/-- A job's end, whatever the status: frames unpinned, lengths under ST_OK, save areas freed, watchdog
disarmed, counts, completion (R222, R364, R368, R388, R390). The move of a P0 core waits for it (R373). -/
def State.endJob (s : State) (k : JobKey) (status : Nat) : State :=
  match s.job k with
  | none => s
  | some j =>
    let s := j.pinned.foldl State.unpin s
    let s := if status = stOk then s.onKv fun x => { x with seqs := x.seqs.map (grownSeq j.bindings) } else s
    let s := j.saveAreas.foldl (fun x a => if a = 0 then x else x.dropAlloc a) s
    let s := s.onSch fun x => { x with jobs := x.jobs.filter fun i => i.key ≠ k }
    let s := s.onCtx k.ctx fun x => { x with ended := (x.ended + 1) % 2 ^ 32 }
    let s := s.endCompletion j status
    let s := s.sched 4 (some j.partition) (some status)
    let s := if j.wdSlot ≠ 0xFF then s.wdStop j.wdSlot else s
    if j.partition = 0 then
      let s := s.wdStop 0
      let s := if s.running then s.decideSafe 12 else s
      ((List.range 64).filter fun g => bitAt s.p0Mask g).foldl State.moveIdle s
    else s

/-- A core that holds no job and is to be retired moves. In RUN and DEGRADED a core of P0 puts the device into the
safe state and ends the P0 job first (R373). -/
def State.retireIdle (s : State) (g : Nat) : State :=
  if !s.coreDue g || (s.core g).job.isSome then s
  else if !(bitAt s.p0Mask g && s.running) then s.moveIdle g
  else
    let s := s.decideSafe 12
    match s.sch.jobs.find? fun j => j.partition = 0 with
    | none => s.moveIdle g
    | some j => if j.placed = [] then s.endJob j.key stTileFault else s

/-- What is due on a core that holds no job: lasting banks take spares at once, whose content is cleared (R150), and
a lasting core is retired. -/
def State.serviceIdle (s : State) (g : Nat) : State :=
  match s.cores.map.getD g none with
  | none => s
  | some u =>
    let d := g / 16
    let bs := s.lastingBanks d u
    let s := bs.foldl (fun x b => x.takeBank d u b) s
    (if bs = [] then s else s.clearSpad g).retireIdle g

/-! ### Loading and freeing cores -/

/-- Self-test begins on the cores of open slots that hold no job (R369). -/
def State.beginSelftests (s : State) : State :=
  (s.sch.slots.flatMap fun x => x.2.2.2).foldl (fun x g =>
    if (x.core g).job = none && (x.core g).run = .idle then x.onCore g fun y => { y with run := .selftest, unitsOn := true }
    else x) s

/-- A core ends its part in a job: readers fall, the scratchpad is cleared (R143), and what is due on it is
done; board entries that name a buffer in it lose valid (R281). -/
def State.freeCore (s : State) (g : Nat) : State :=
  let s := (s.core g).readers.foldl State.ftRelease s
  ((((s.clearSpad g).republish g).onCore g Core.cleared).serviceIdle g).beginSelftests

/-- A core leaves a preempted job; its scratchpad stays until the next placement clears it. -/
def State.vacate (s : State) (g : Nat) : State := ((s.onCore g Core.cleared).serviceIdle g).beginSelftests

/-- The code region of a job's core is loaded from the job's code image (R100, R124): the bytes come over the ring
where another die or the host holds them. -/
def State.loadCode (s : State) (g : Nat) (j : Job) : State :=
  let code := s.bytesAt j.codeAddr j.codeBytes
  ((s.afterRead j.codeAddr j.codeBytes).carryRead (classOrigin j.cls) (g / 16 + 1) 0xFF j.codeAddr code).write
    (spadOf g + 4 * j.codeBase) code

/-- Hub firmware writes a job's descriptors to a core (R432). -/
def State.loadDescs (s : State) (g : Nat) (j : Job) : State :=
  let a := spadOf g + 4 * j.descBase
  (s.write a (j.attn ++ j.vision)).carryWrite (classOrigin j.cls) 0 0xFF a (j.attn ++ j.vision)

/-- Clear the scratchpad, then code region and descriptors (R124, R143, R432). -/
def State.loadSpad (s : State) (g : Nat) (j : Job) : State := ((s.clearSpad g).loadCode g j).loadDescs g j

/-- Rank table of a job (R98). -/
def rankTable (placed : List Nat) : List Nat := (List.range 64).map fun r => placed.getD r 0xFF

/-- General registers at a release's first tile (R363): the release number in g1, zero above. -/
def releaseRegs (n : Nat) : List (BitVec 64) := 0 :: BitVec.ofNat 64 n :: List.replicate 30 0

/-- General registers at a once job's first tile, which the manual does not give: free (log 25). -/
def State.freeRegs (s : State) : List (BitVec 64) := 0 :: (List.range 31).map fun i => BitVec.ofNat 64 (s.draw i)

/-- The register block of a job's first tile on a core (R98, R363), with the grid tables that the core holds (R75). -/
def State.firstBlock (s : State) (j : Job) (g : Nat) : RegBlock :=
  { g := if j.mode = 0 then s.freeRegs else releaseRegs (j.releases - 1), pc := j.entryPc, ranks := rankTable j.placed
    grids := (s.core g).reg.grids }

/-- A tile starts with a register block. -/
def Core.startTile (k : Core) (r : RegBlock) (ts : Nat) : Core :=
  { k with reg := r, snap := r, run := .running, wait := .none, matrix := [], vector := [], dma := [[], [], [], []]
           sigs := [], readers := [], held := none, tileStart := ts, unitsOn := true }

/-- The release's first tile on a core whose context stands at a HALT (R363). -/
def releaseBlock (j : Job) (r : RegBlock) : RegBlock :=
  { r with g := releaseRegs (j.releases - 1), pc := j.entryPc, ranks := rankTable j.placed, reruns := 0 }

/-! ### The end of a job on its cores (R119, R366) -/

/-- A job has left a core; with its last core it ends. -/
def State.leaveCore (s : State) (k : JobKey) (g : Nat) : State :=
  let s := s.onJob k fun j => { j with placed := j.placed.filter (· ≠ g) }
  match s.job k with
  | none => s
  | some j => if j.placed = [] then s.endJob k (j.endWith.getD stOk) else s

/-- The job ends on one core; with its last core it ends. -/
def State.endOnCore (s : State) (g : Nat) : State :=
  match (s.core g).job with
  | none => s
  | some k => (s.freeCore g).leaveCore k g

/-- A job ends on one of its cores, which may be absent by now (R131). -/
def State.endPart (s : State) (k : JobKey) (g : Nat) : State :=
  if (s.physOf g).isNone then s.leaveCore k g else s.endOnCore g

/-- A job is to end with a status: on cores whose tile runs at their next mark, elsewhere at once; a job that
holds no core ends at once (R366). -/
def State.requestEnd (s : State) (k : JobKey) (status : Nat) : State :=
  match s.job k with
  | none => s
  | some j =>
    let s := s.onJob k fun x => { x with endWith := some (x.endWith.getD status) }
    if j.placed = [] then s.endJob k (j.endWith.getD status)
    else j.placed.foldl (fun x g =>
      if (x.core g).run = .running then x.onCore g fun y => { y with stopReq := true } else x.endPart k g) s

/-- The job fails on a core: it ends there at once and on its other cores at their next marks (R119). -/
def State.failOn (s : State) (g status : Nat) : State :=
  match (s.core g).job with
  | none => s
  | some k => ((s.onCore g fun y => { y with run := .halted }).requestEnd k status)

/-! ### Saving (R121, R122, R124, R145) -/

/-- Core groups of a save area: bytes per core (R123). -/
def Job.saveBytes (j : Job) : Nat := 1024 + j.maxLive

/-- DPA of a core's part of the save area on its die; 0 where the job has none there (log 26). -/
def Job.saveAddr (j : Job) (g : Nat) : Nat :=
  let a := j.saveAreas.getD (g / 16) 0
  if a = 0 then 0 else a + ((j.placed.takeWhile (· ≠ g)).filter fun x => x / 16 = g / 16).length * j.saveBytes

/-- Bytes of a saved context. -/
def Saved.bytes (o : Saved) : Nat := 1024 + (o.regions.map (·.2.length)).sum

/-- Live regions of a register block, as byte ranges of a scratchpad. -/
def liveRanges (g : Nat) (r : RegBlock) : List (Nat × Nat) :=
  (r.live.filter fun e => e.2 ≠ 0).map fun e => (spadOf g + 4 * e.1, 4 * e.2)

/-- A live region of a core's snapshot reads with bad parity. -/
def State.liveBad (s : State) (g : Nat) : Bool := (liveRanges g (s.core g).snap).any fun r => s.readPoisoned r.1 r.2

/-- A live region was read with bad parity: events are counted, and the job ends with cause 7 (R145, R147). -/
def State.liveFault (s : State) (g : Nat) : State :=
  let k := s.core g
  let s := (liveRanges g k.snap).foldl (fun x r => x.bankEvents r.1 r.2) s
  (s.onCore g fun y => { y with fault := some (7, k.reg.pc, s.tsNow) }).bump.failOn g stTileFault

/-- A core saves the context of its mark snapshot, unless a live region reads with bad parity (R145). -/
def State.saveCore (s : State) (g : Nat) : State :=
  match s.coreJob g with
  | none => s
  | some j =>
    let k := s.core g
    let rs := liveRanges g k.snap
    if s.liveBad g then s.liveFault g
    else
      let sv : Saved := { rank := k.rank, reg := k.snap, addr := j.saveAddr g
                          regions := rs.map fun r => (r.1 - spadOf g, s.bytesAt r.1 r.2) }
      (s.onJob j.key fun x => { x with saves := x.saves.filter (fun o => o.rank ≠ k.rank) ++ [sv] }).onCore g
        fun y => { y with run := .saving, stopReq := false, matrix := [], vector := [], wait := .none
                          dma := [[], [], [], []], sigs := [], held := none }

/-- All ranks of a job are saved, an absent core's as it went (R131): it is PREEMPTED and its cores are free (R367); an overrun is reported
first, and ends a once job (R362). -/
def State.checkPreempted (s : State) (k : JobKey) : State :=
  match s.job k with
  | none => s
  | some j =>
    if j.placed = [] || !(j.placed.all fun g => (s.core g).run = .saved || (s.physOf g).isNone) then s
    else
      let s := j.placed.foldl State.vacate s
      let s := s.onJob k fun x => { x with state := .preempted, placed := [] }
      if !j.overrun then s.onJob k fun x => { x with releasePending := x.releasePending || x.released }
      else if j.mode = 0 then s.endJob k stTimeout
      else (s.releaseCompletion j stTimeout true).onJob k fun x => { x with
        released := false, releasePending := false, overrun := false, halted := [] }

/-- Bytes of the save area, whose layout the manual does not give, are free (log 26). -/
def State.fillFree (s : State) (a n : Nat) : State :=
  (s.write a ((List.range n).map fun i => BitVec.ofNat 8 (s.draw i))).bump

/-- The save of a core has completed (R124): poisoned when its stack has tripped (R126). -/
def State.saveDone (s : State) (g : Nat) : State :=
  match s.coreJob g with
  | none => s
  | some j =>
    let k := s.core g
    let a := j.saveAddr g
    let dead := s.dramDead a
    let s := if a = 0 || dead then s else s.fillFree a (1024 + ((k.snap.live.map (·.2)).sum * 4))
    let s := s.onJob j.key fun x => { x with
      saves := x.saves.map fun o => if o.rank = k.rank then { o with done := true, poisoned := dead } else o }
    (s.onCore g fun y => { y with run := .saved }).checkPreempted j.key

/-- A stop request to every core of a job (R117, R351, R367): running tiles go on to their mark; a core that stands
at a HALT or has not started is saved from its snapshot; a restore in progress is dropped, its save area still
being good. -/
def State.stopJob (s : State) (k : JobKey) : State :=
  match s.job k with
  | none => s
  | some j =>
    if j.placed = [] || j.endWith.isSome || (j.state ≠ .running && j.state ≠ .idle) then s
    else
      let s := s.onJob k fun x => { x with
        state := if x.state = .idle then .preempted else .stopping
        releasePending := x.releasePending && x.state ≠ .idle }
      let s := j.placed.foldl (fun x g =>
        match (x.core g).run with
        | .running => x.onCore g fun y => { y with stopReq := true }
        | .restoring => x.onCore g fun y => { y with run := .saved }
        | .saving => x
        | .saved => x
        | _ => x.saveCore g) s
      s.checkPreempted k

/-! ### HALT and marks (R116, R363, R432) -/

/-- Sum of a counter field over the cores' copies, saturating (R432). -/
def State.counterSum (s : State) (j : Job) (i off : Nat) : Nat :=
  min (2 ^ 32 - 1)
    ((j.placed.map fun g => s.natAt (spadOf g + 4 * j.descBase + 176 * i + off) 4).sum)

/-- The counter fields of the attention descriptors on a core. -/
def Job.counterRanges (j : Job) (g : Nat) : List (Nat × Nat) :=
  (List.range (j.attn.length / 176)).map fun i => (spadOf g + 4 * j.descBase + 176 * i + 160, 16)

/-- A counter field on one of the job's cores reads with bad parity. -/
def State.countersBad (s : State) (j : Job) : Bool :=
  j.placed.any fun g => (j.counterRanges g).any fun r => s.readPoisoned r.1 r.2

/-- Counter fields of the attention descriptors go back to the array at attn_addr (R432); where one reads with bad
parity, events are counted and none is written (R145, R147). -/
def State.writeCounters (s : State) (j : Job) : State :=
  if s.countersBad j then (j.placed.flatMap j.counterRanges).foldl (fun x r => x.bankEvents r.1 r.2) s
  else
    let out (i : Nat) : List Byte := [160, 164, 168, 172].flatMap fun off => leBytes 4 (s.counterSum j i off)
    (List.range (j.attn.length / 176)).foldl (fun x i =>
      ((x.dramWrite (j.attnAddr + 176 * i + 160) (out i) []).2).carryWrite (classOrigin j.cls) 0 0xFF
        (j.attnAddr + 176 * i + 160) (out i)) s

/-- A job or release has halted on its last core. A once job ends; a periodic or event job's release ends, and
the job is IDLE, or goes on being saved when it was stopped (R362, R363, R364, R367). Counters that read with bad
parity are poisoned data to hub DMA (DEDUCED 164). -/
def State.allHalted (s : State) (k : JobKey) : State :=
  match s.job k with
  | none => s
  | some j =>
    let status := if j.overrun then stTimeout else if s.countersBad j then stMemPoison else stOk
    let s := s.writeCounters j
    if j.mode = 0 then
      let s := s.onJob k fun x => { x with endWith := some status }
      j.placed.foldl (fun x g => x.endPart k g) s
    else
      let s := s.releaseCompletion j status j.overrun
      let s := if j.partition = 0 && !j.markEnd then s.kick 0 else s
      let s := if j.wdSlot ≠ 0xFF && decide (status = stOk) then s.kick j.wdSlot else s
      s.onJob k fun x => { x with
        released := false, overrun := false, halted := []
        state := if x.state = .stopping then .stopping else .idle }

/-- HALT, or the mark of an overrun release, on a core. -/
def State.haltCore (s : State) (g : Nat) : State :=
  match s.coreJob g with
  | none => s
  | some j =>
    let s := (s.onCore g fun y => { y with run := .halted, stopReq := false }).onJob j.key fun x => { x with
      halted := x.halted ++ [(s.core g).rank] }
    let all := decide (j.placed.length ≤ j.halted.length + 1)
    let s := if all then s.allHalted j.key else s
    if j.state = .stopping && (!all || decide (j.mode ≠ 0)) then s.saveCore g else s

/-- A stop request is taken at a mark (R117, R362, R366). -/
def State.takeStop (s : State) (g : Nat) : State :=
  match s.coreJob g with
  | none => s
  | some j =>
    if j.endWith.isSome then s.endOnCore g
    else if j.overrun && j.state ≠ .stopping then (s.onJob j.key fun x => { x with markEnd := true }).haltCore g
    else s.saveCore g

/-- The next tile begins at the mark snapshot. -/
def State.nextTile (s : State) (g : Nat) : State :=
  (s.onCore g fun y => { y with tileStart := s.tsNow }).bump

/-- A waiting WAITS of a core whose semaphore has reached its count returns (R101). -/
def wakeSem (k : Core) : Core :=
  match k.wait with
  | .sem i n =>
    if n ≤ k.reg.sems.getD i 0 then
      { k with wait := .none
               reg := { k.reg with sems := k.reg.sems.set i (k.reg.sems.getD i 0 - n), pc := k.reg.pc + Config.instrWords } }
    else k
  | _ => k

/-- One signal arrives at a core of the job (R118). -/
def State.deliver (s : State) (g sem : Nat) : State :=
  s.onCore g fun k => wakeSem { k with
    reg := { k.reg with sems := k.reg.sems.set sem ((k.reg.sems.getD sem 0 + 1) % 2 ^ 32) } }

/-- The moves of R131 at a tile mark of a core (R133, R373): the job's context goes with it, as after a save and
a restore; a core without a replacement is absent and its job is saved. -/
def State.moveAtMark (s : State) (g : Nat) (j : Job) (q : Option Nat) : State :=
  let k := s.core g
  let rs := liveRanges g k.snap
  match q with
  | some _ =>
    let kept := rs.map fun r => (r.1, s.bytesAt r.1 r.2)
    let s := (s.remap g q).loadSpad g j
    kept.foldl (fun x r => x.write r.1 r.2) s
  | none =>
    let s := ((s.saveCore g).saveDone g).remap g none
    s.stopJob j.key

/-- A core of the job's partition can run bitmap masks (R132, R133). -/
def State.partHasMask (s : State) (part : Nat) : Bool :=
  (List.range 64).any fun g => bitAt (s.maskNow part) g &&
    match s.cores.map.getD g none with
    | some u => maskCapable u
    | none => false

/-- Running jobs with bitmap masks that a move leaves without a mask-capable core in their partition end at their
next marks, and one that is between marks at once (R133). -/
def State.maskChecks (s : State) : State :=
  (s.sch.jobs.filter fun j => j.usesMask && j.placed ≠ [] && j.endWith = none && !s.partHasMask j.partition).foldl
    (fun x j => x.requestEnd j.key stNoMaskCore) s

/-- Retirement of the physical core under a core at its mark (R131, R133, R373). A logical core on 17 that
has to make way moves at its own mark, and the core that it makes way for follows, at once if it holds no job. -/
def State.retireAtMark (s : State) (g : Nat) : State :=
  match s.coreJob g, s.cores.map.getD g none with
  | some j, some u =>
    let d := g / 16
    let due := s.coreDue g
    let ms := if due then s.coreMoves d (g % 16) else [(g % 16, some 16)]
    if !due && !(u = 17 && (s.spareCores d).contains 16 && (s.coreDue (16 * d) || s.coreDue (16 * d + 1))) then s
    else if !(ms.all fun m => m.1 = g % 16 || (s.core (16 * d + m.1)).job = none) then s
    else if due && bitAt s.p0Mask g && s.running then (s.decideSafe 12).failOn g stTileFault
    else if s.liveBad g then s.liveFault g
    else
      let s := ms.foldl (fun x m => if m.1 = g % 16 then x.moveAtMark g j m.2
        else (x.remap (16 * d + m.1) m.2).clearSpad (16 * d + m.1)) s
      let s := if due then s.retireCore d u (ms.any fun m => m.2 = none)
        else (s.retireIdle (16 * d)).retireIdle (16 * d + 1)
      s.maskChecks
  | _, _ => s

/-- Banks at a tile mark (R148): a copy that has completed is switched in, and then a lasting bank's copy begins; the
core is to be retired when no spare is left for it (R151). Of two lasting banks of a running core the second waits for
the first one's switch (DESIGN CHOICE 163). -/
def State.banksAtMark (s : State) (g : Nat) : State :=
  match s.cores.map.getD g none with
  | none => s
  | some u =>
    let d := g / 16
    let s := match (s.core g).migrating with
      | some b => if (s.core g).copyDone then s.takeBank d u b else s
      | none => s
    let k := s.core g
    match k.migrating, (s.lastingBanks d u).find? fun b => k.migrating ≠ some b with
    | some _, some _ => if k.sparesLeft ≤ 1 then s.makeLasting (coreEntry d u) else s
    | none, some b =>
      if k.sparesLeft = 0 then s.makeLasting (coreEntry d u)
      else s.onCore g fun y => { y with migrating := some b, copyDone := false }
    | _, none => s

/-- Steps 2 to 4 of the mark sequence (R116), with `pc` past the instruction. -/
def State.markSteps (s : State) (g : Nat) : State :=
  let k := s.core g
  let s := k.readers.foldl State.ftRelease s
  let s := match k.job with
    | some key => s.onJob key fun j => { j with flagRec := j.flagRec ||| k.reg.flags }
    | none => s
  let s := k.sigs.foldl (fun x sg => x.deliver sg.1 sg.2) s
  s.onCore g fun y =>
    let r := { y.reg with flags := 0, tiles := y.reg.tiles + 1, reruns := 0, pc := y.reg.pc + Config.instrWords }
    { y with reg := r, snap := r, readers := [], sigs := [], held := none, wait := .none }

/-- The mark sequence after the units are idle (R116): steps 2 to 6, with the retirements that wait for a
tile mark. -/
def State.mark (s : State) (g : Nat) (halt : Bool) : State :=
  let s := (s.markSteps g).banksAtMark g
  let s := s.retireAtMark g
  if (s.core g).run ≠ .running then s
  else if halt && !((s.coreJob g).any fun j => j.endWith.isSome) then s.haltCore g
  else if halt || (s.core g).stopReq then s.takeStop g
  else s.nextTile g

/-! ### Tile faults (R119 to R121, R146) -/

/-- An abort (R120): units stop, signals and flags are discarded, readers fall, the block is the snapshot's. -/
def State.abort (s : State) (g : Nat) : State :=
  let k := s.core g
  (k.readers.foldl State.ftRelease s).onCore g fun y => { y with
    reg := y.snap, matrix := [], vector := [], dma := [[], [], [], []], sigs := [], readers := [], held := none
    wait := .none }

/-- A parity abort: the tile is re-run up to twice, unless a stop request is pending, which a retirement of the core
is too: then the context of the mark snapshot moves or is saved (R117, R121, R146). -/
def State.rerun (s : State) (g : Nat) : State :=
  let k := s.core g
  if 2 ≤ k.reg.reruns then s.failOn g stTileFault
  else
    let up (r : RegBlock) : RegBlock := { r with reruns := r.reruns + 1 }
    let s := s.onCore g fun y => { y with reg := up y.reg, snap := up y.snap }
    let s := match k.job with
      | some key => s.onJob key fun j => { j with reruns := j.reruns + 1 }
      | none => s
    let s := s.retireAtMark g
    if (s.core g).run ≠ .running then s else if (s.core g).stopReq then s.takeStop g else s.nextTile g

/-- A tile fault with its cause (R119). -/
def State.tileFault (s : State) (g cause : Nat) : State :=
  let s := ((s.onCore g fun k => { k with fault := some (cause, k.reg.pc, s.tsNow) }).bump).abort g
  if cause = 7 then s.rerun g
  else if cause = 8 then s.failOn g stMemPoison
  else if cause = 9 then s.failOn g stKvSwapped
  else s.failOn g stTileFault

end Sys2Proof.Machine
end

