-- ==== Sys2Proof/Machine/Arith.lean ====
section
/-! DEFINITION. FP32 arithmetic of the dynamics engine and the Assize (R306, R314, R324, R379): roots, angles, sums and
the linear algebra over them. The manual gives the formulas and no order of their operations: a formula that it writes
out is evaluated from left to right, one rounding an operation; the order of a sum and the fusing of its products are
free, except where no order can change the result (DESIGN CHOICE 31). -/

namespace Sys2Proof.Machine

/-! ### Roots and angles -/

/-- Correctly rounded square root; of a negative value a NaN. -/
def sqrt32 : Fp → Fp
  | .nan => .nan
  | .inf n => if n then .nan else .inf false
  | .fin n m e =>
    if m = 0 then .fin n 0 0
    else if n then .nan
    else
      let k : Nat := if e % 2 = 0 then 128 else 129
      let v := m * 2 ^ k
      let r := isqrt v
      rne32 (.fin false (2 * r + (if r * r = v then 0 else 1)) ((e - k) / 2 - 1))

/-- The arc tangent of 1 / n in units of 2^-p. -/
def atanInv (p n : Nat) : Nat :=
  ((List.range p).foldl (fun (st : Int × Nat) i =>
    let t : Int := ((st.2 / (2 * i + 1) : Nat) : Int)
    (if i % 2 = 0 then st.1 + t else st.1 - t, st.2 / (n * n))) ((0 : Int), 2 ^ p / n)).1.toNat

/-- pi in units of 2^-320, by Machin's formula, to more than 300 bits. -/
def piUnits : Nat := (16 * atanInv 340 5 - 4 * atanInv 340 239) / 2 ^ 20

/-- An angle in units of 2^-320, reduced to 0 to 2 pi. -/
def turnUnits (neg : Bool) (m : Nat) (e : Int) : Nat :=
  ((sgn neg (m * 2 ^ (e + 320).toNat)) % (2 * piUnits : Nat)).toNat

/-- The series of the sine and the cosine of an angle in units of 2^-320, from its first term on. -/
def trigSeries (x : Nat) (odd : Nat) (first : Nat) : Int :=
  ((List.range 60).foldl (fun (st : Int × Nat) i =>
    let t : Int := ((st.2 : Nat) : Int)
    (if i % 2 = 0 then st.1 + t else st.1 - t,
      st.2 * (x * x / 2 ^ 320) / 2 ^ 320 / ((2 * i + 1 + odd) * (2 * i + 2 + odd)))) ((0 : Int), first)).1

/-- A value that the engine forms to an accuracy that the manual does not state: `f` says which function. -/
def accurate (f : Nat) (args : List Nat) (exact : Fp) : Fp :=
  nearUlp Config.trigUlps (Config.trigError f args) exact

/-- The sine and the cosine of an angle in radians. -/
def sin32 : Fp → Fp
  | .fin n m e =>
    let x := turnUnits n m e
    accurate 0 [encode32 0 (.fin n m e)] (ofInt (trigSeries x 1 x) (-320))
  | _ => .nan
def cos32 : Fp → Fp
  | .fin n m e => accurate 1 [encode32 0 (.fin n m e)] (ofInt (trigSeries (turnUnits n m e) 0 (2 ^ 320)) (-320))
  | _ => .nan

/-- One halving of the angle of a vector whose second component is above 0. -/
def halveAngle (v : Int × Nat) : Int × Nat :=
  let r := isqrt (v.1.natAbs ^ 2 + v.2 ^ 2)
  if v.1 < 0 then ((v.2 : Int), r + v.1.natAbs) else (v.1 + r, v.2)

/-- The angle of a vector with second component at least 0: 0 to pi. -/
def atan32 (y x : Fp) : Fp :=
  match y, x with
  | .fin _ my ey, .fin nx mx ex =>
    let low := min ey ex
    let a := my * 2 ^ (ey - low).toNat
    let b := mx * 2 ^ (ex - low).toNat
    let s := 2 ^ 200
    if a = 0 then (if nx && b ≠ 0 then accurate 2 [0, 1] (.fin false piUnits (-320)) else .zero)
    else
      let v := (List.range 90).foldl (fun w _ => halveAngle w) (sgn nx (b * s), a * s)
      accurate 2 [encode32 0 y, encode32 0 x] (.fin false (v.2 * 2 ^ 250 / max 1 v.1.toNat) (-160))
  | _, _ => .nan

/-! ### Sums -/

/-- The least power of two that a finite value is a multiple of, and how many of it the value is. -/
def Fp.units : Fp → Int × Nat
  | .fin _ m e =>
    let k := Nat.log2 (m ^^^ (m - 1))
    (e + k, m / 2 ^ k)
  | _ => (0, 0)

def Fp.isZero : Fp → Bool
  | .fin _ m _ => m = 0
  | _ => false

/-- A finite value of at most `p` bits above a smallest step. -/
def Fp.fits (p : Nat) (qmin : Int) (x : Fp) : Bool :=
  x.isFinite && (x.isZero || (x.units.2 ≤ 2 ^ p && qmin ≤ x.units.1 && x.units.1 ≤ 64))

/-- No order of a sum's additions can change its result: every partial sum is exact, or only two values are added. -/
def orderFree (p : Nat) (qmin : Int) (xs : List Fp) : Bool :=
  let us := xs.map Fp.units
  let low := us.foldl (fun a u => min a u.1) ((us.headD (0, 0)).1)
  xs.all Fp.isFinite && (xs.length ≤ 1 || (xs.length = 2 && xs.all (Fp.fits p qmin)) ||
    ((us.map fun u => u.2 * 2 ^ (u.1 - low).toNat).sum ≤ 2 ^ p && decide (qmin ≤ low) && decide (low ≤ 64)))

/-- The sum of values by a free tree: each addition takes two of the partial sums. -/
def pickSum (round : Fp → Fp) (tag len : Nat) : Nat → List Fp → Fp
  | 0, xs => xs.headD .zero
  | k + 1, xs =>
    let i := Config.sumPick tag len (2 * k) % xs.length
    let ys := xs.eraseIdx i
    let j := Config.sumPick tag len (2 * k + 1) % ys.length
    if ys = [] then xs.headD .zero
    else pickSum round tag len k (round (addExact (xs.getD i .zero) (ys.getD j .zero)) :: ys.eraseIdx j)

/-- The sum of products by fused steps, in a free order. -/
def pickFused (tag len : Nat) : Nat → Fp → List (Fp × Fp) → Fp
  | 0, acc, _ => acc
  | k + 1, acc, ps =>
    let i := Config.sumPick tag len k % ps.length
    let p := ps.getD i (.zero, .zero)
    if ps = [] then acc else pickFused tag len k (fma32 p.1 p.2 acc) (ps.eraseIdx i)

/-- A sum of products in FP32; `tag` names the formula. -/
def dot32 (tag : Nat) (a b : List Fp) : Fp :=
  let ps := (a.zip b).filter fun p => !(mulExact p.1 p.2).isZero
  let xs := ps.map fun p => mulExact p.1 p.2
  if orderFree 24 (-149) xs then rne32 (xs.foldl addExact .zero)
  else if Config.fuses tag then pickFused tag ps.length ps.length .zero ps
  else pickSum rne32 tag ps.length ps.length (ps.map fun p => mul32 p.1 p.2)

/-- A sum in FP32. -/
def sum32 (tag : Nat) (xs : List Fp) : Fp := dot32 tag xs (xs.map fun _ => .one)

/-- The rounding of one step to FP64. -/
def rne64 : Fp → Fp
  | .fin neg m e =>
    let r := roundMag 53 (-1074) m e
    if 2 ^ 1024 ≤ (if 0 ≤ r.2 then r.1 * 2 ^ r.2.toNat else 0) then .inf neg else .fin neg r.1 r.2
  | x => x

/-- A sum of FP32 products with FP64 accumulation (R306, R325). -/
def dot64 (tag : Nat) (a b : List Fp) : Fp :=
  let xs := (List.zipWith mulExact a b).filter fun x => !x.isZero
  if orderFree 53 (-1074) xs then rne64 (xs.foldl addExact .zero) else pickSum rne64 tag xs.length xs.length xs

/-! ### Vectors and matrices, matrices as lists of rows -/

abbrev Vec := List Fp

def zeros (n : Nat) : Vec := List.replicate n .zero
/-- The unit vector of `n` elements at `i`, scaled. -/
def unitVec (n i : Nat) (x : Fp) : Vec := (zeros n).set i x
def vadd (a b : Vec) : Vec := List.zipWith add32 a b
def vsub (a b : Vec) : Vec := List.zipWith sub32 a b
def vscale (c : Fp) (v : Vec) : Vec := v.map (mul32 c)
def vneg (v : Vec) : Vec := v.map Fp.neg
/-- A sum of vectors of three elements. -/
def vsum (tag : Nat) (vs : List Vec) : Vec := (List.range 3).map fun i => sum32 tag (vs.map fun v => v.getD i .zero)
def cross (a b : Vec) : Vec :=
  let x (i : Nat) : Fp := a.getD i .zero
  let y (i : Nat) : Fp := b.getD i .zero
  [dot32 1 [x 1, (x 2).neg] [y 2, y 1], dot32 1 [x 2, (x 0).neg] [y 0, y 2], dot32 1 [x 0, (x 1).neg] [y 1, y 0]]
def mulVec (m : List Vec) (v : Vec) : Vec := m.map fun r => dot32 2 r v
def colOf (m : List Vec) (i : Nat) : Vec := m.map fun r => r.getD i .zero
def transpose (n : Nat) (m : List Vec) : List Vec := (List.range n).map (colOf m)
/-- The product of two 3 x 3 matrices. -/
def mulMat (a b : List Vec) : List Vec := a.map fun r => (List.range 3).map fun j => dot32 2 r (colOf b j)
def norm32 (v : Vec) : Fp := sqrt32 (dot32 3 v v)
/-- A vector over its norm; one of norm 0 stays. -/
def normalise (v : Vec) : Vec := if (norm32 v).isZero then v else v.map fun x => div32 x (norm32 v)

/-- The largest magnitude of a vector, 0 of an empty one; a NaN among its elements is the result. -/
def maxAbs (v : Vec) : Fp :=
  if v.any Fp.isNan then .nan else v.foldl (fun a x => if ltFp a (absFp x) then absFp x else a) .zero
/-- The largest positive part of the elements. -/
def maxPos (v : Vec) : Fp := if v.any Fp.isNan then .nan else v.foldl (fun a x => if ltFp a x then x else a) .zero

/-! ### Rotations -/

/-- The product of two quaternions w, x, y, z. -/
def quatMul (a b : Vec) : Vec :=
  let x (i : Nat) : Fp := a.getD i .zero
  let y (i : Nat) : Fp := b.getD i .zero
  [dot32 4 [x 0, (x 1).neg, (x 2).neg, (x 3).neg] [y 0, y 1, y 2, y 3],
   dot32 4 [x 0, x 1, x 2, (x 3).neg] [y 1, y 0, y 3, y 2],
   dot32 4 [x 0, (x 1).neg, x 2, x 3] [y 2, y 3, y 0, y 1],
   dot32 4 [x 0, x 1, (x 2).neg, x 3] [y 3, y 2, y 1, y 0]]

def quatConj (a : Vec) : Vec := a.take 1 ++ vneg (a.drop 1)

/-- The rotation matrix of a unit quaternion. -/
def quatMat (q : Vec) : List Vec :=
  let g (i : Nat) : Fp := q.getD i .zero
  let two (i : Nat) : Fp := mulExact (.fin false 2 0) (g i)
  let d (i j : Nat) : Fp := dot32 5 [.one, (two i).neg, (two j).neg] [.one, g i, g j]
  let plus (i j k : Nat) : Fp := dot32 5 [two i, two 0] [g j, g k]
  let minus (i j k : Nat) : Fp := dot32 5 [two i, (two 0).neg] [g j, g k]
  [[d 2 3, minus 1 2 3, plus 1 3 2], [plus 1 2 3, d 1 3, minus 2 3 1], [minus 1 3 2, plus 2 3 1, d 1 2]]

/-- The rotation about a unit axis by an angle. -/
def axisMat (a : Vec) (angle : Fp) : List Vec :=
  let s := sin32 angle
  let c := cos32 angle
  let u := sub32 .one c
  let g (i : Nat) : Fp := a.getD i .zero
  let entry (i j : Nat) (t : Fp) : Fp := dot32 6 [mul32 u (g i), s, c] [g j, t, if i = j then .one else .zero]
  [[entry 0 0 .zero, entry 0 1 (g 2).neg, entry 0 2 (g 1)],
   [entry 1 0 (g 2), entry 1 1 .zero, entry 1 2 (g 0).neg],
   [entry 2 0 (g 1).neg, entry 2 1 (g 0), entry 2 2 .zero]]

/-- The rotation vector of a rotation matrix, with an angle of 0 to pi (R316). At an angle of pi it is one of two,
and which is free. -/
def rotVec (e : List Vec) : Vec :=
  let g (i j : Nat) : Fp := (e.getD i []).getD j .zero
  let half (x : Fp) : Fp := mul32 (.fin false 1 (-1)) x
  let s := [half (sub32 (g 2 1) (g 1 2)), half (sub32 (g 0 2) (g 2 0)), half (sub32 (g 1 0) (g 0 1))]
  let c := half (sum32 7 [g 0 0, g 1 1, g 2 2, Fp.one.neg])
  let sn := norm32 s
  let angle := atan32 sn c
  if !sn.isZero then s.map fun x => mul32 x (div32 angle sn)
  else if !c.isNeg then s
  else
    let a := [0, 1, 2].map fun i => sqrt32 (half (add32 (g i i) .one))
    let top := if ltFp (a.getD 0 .zero) (a.getD 1 .zero) then (if ltFp (a.getD 1 .zero) (a.getD 2 .zero) then 2 else 1)
      else (if ltFp (a.getD 0 .zero) (a.getD 2 .zero) then 2 else 0)
    let flip := Config.trigError 3 (a.map (encode32 0)) % 2 = 1
    [0, 1, 2].map fun i =>
      let x := a.getD i .zero
      let neg := (if i = top then false else (g i top).isNeg) != flip
      mul32 angle (if neg then x.neg else x)

end Sys2Proof.Machine
end

