-- ==== Sys2Proof/Machine/Dynamics.lean ====
section
/-! DEFINITION. Rigid-body dynamics (R314): the kinematics of every body, Jacobians, the mass matrix, and recursive
Newton-Euler with and without accelerations, which the engine and the Assize share (R379). Vectors are in the world
frame; the six base variables are the linear and then the angular ones of body 0 in that frame (DESIGN CHOICE 169). -/

namespace Sys2Proof.Machine

def vec32 (ws : List Nat) : Vec := ws.map decode32

/-- The tensor of Ixx, Iyy, Izz, Ixy, Ixz, Iyz (R311). -/
def tensor (v : Vec) : List Vec :=
  let g (i : Nat) : Fp := v.getD i .zero
  [[g 0, g 3, g 4], [g 3, g 1, g 5], [g 4, g 5, g 2]]

/-- Body `i` of a model. -/
def Model.body (m : Model) (i : Nat) : Body := m.bodies.getD i {}
def Model.floating (m : Model) : Bool := (m.bodies.headD {}).jointType = 0
/-- Bodies 1 and up, which have a joint each. -/
def Model.moving (m : Model) : List Body := m.bodies.drop 1
/-- Bodies with a joint, in ascending joint order. -/
def Model.ordered (m : Model) : List Body :=
  (List.range 64).filterMap fun j => m.moving.find? fun b => b.joint = j
/-- Variables before the first joint's. -/
def Model.baseVars (m : Model) : Nat := if m.floating then 6 else 0
def Model.nv (m : Model) : Nat := m.baseVars + m.moving.length
def Model.hasJoint (m : Model) (j : Nat) : Bool := m.moving.any fun b => b.joint = j
/-- The variable of a model joint: joints follow the base in body order (DESIGN CHOICE 169). -/
def Model.varOf (m : Model) (j : Nat) : Nat := m.baseVars + (m.moving.findIdx fun b => b.joint = j)
/-- armature * gear^2 (R314). -/
def Body.rotor (b : Body) : Fp := mul32 (mul32 (decode32 b.armature) (decode32 b.gear)) (decode32 b.gear)
def Body.revolute (b : Body) : Bool := b.jointType = 1

/-! ### Kinematics -/

/-- A body as it moves: orientation, origin, velocities, joint axis, centre of mass, accelerations, inertia. -/
structure BodyKin where
  rot : List Vec := []
  pos : Vec := []
  vel : Vec := []
  omega : Vec := []
  axis : Vec := []
  com : Vec := []
  acc : Vec := []
  alpha : Vec := []
  inertia : List Vec := []
deriving DecidableEq, Repr

/-- A point fixed in a body. -/
def BodyKin.point (k : BodyKin) (offset : Vec) : Vec := vadd k.pos (mulVec k.rot offset)
/-- Velocity and acceleration of a point fixed in a body. -/
def BodyKin.velAt (k : BodyKin) (x : Vec) : Vec := vadd k.vel (cross k.omega (vsub x k.pos))
def BodyKin.accAt (k : BodyKin) (x : Vec) : Vec :=
  let r := vsub x k.pos
  vsum 10 [k.acc, cross k.alpha r, cross k.omega (cross k.omega r)]

/-- The pose and motion of the base, with its accelerations. -/
structure BaseMotion where
  rot : List Vec := []
  pos : Vec := zeros 3
  vel : Vec := zeros 3
  omega : Vec := zeros 3
  acc : Vec := zeros 3
  alpha : Vec := zeros 3
deriving DecidableEq, Repr

/-- The inertia and centre of mass of a body with an orientation. -/
def BodyKin.withMass (k : BodyKin) (b : Body) : BodyKin :=
  { k with
    com := k.point (vec32 b.com)
    inertia := mulMat (mulMat k.rot (tensor (vec32 b.inertia))) (transpose 3 k.rot) }

/-- The motion of a body from its parent's and its joint's position, velocity and acceleration. That rot carries the
parent frame's axes to the joint frame's is read so (DEDUCED 168). -/
def childKin (b : Body) (p : BodyKin) (q qd qdd : Fp) : BodyKin :=
  let jr := mulMat p.rot (quatMat (vec32 b.rot))
  let axis := mulVec jr (vec32 b.axis)
  let origin := p.point (vec32 b.trans)
  let spin := vscale qd axis
  let wa := cross p.omega spin
  let k : BodyKin :=
    if b.revolute then
      { rot := mulMat jr (axisMat (vec32 b.axis) q), pos := origin, axis := axis, omega := vadd p.omega spin
        vel := p.velAt origin, acc := p.accAt origin, alpha := vsum 11 [p.alpha, vscale qdd axis, wa] }
    else
      let pos := vadd origin (vscale q axis)
      { rot := jr, pos := pos, axis := axis, omega := p.omega, alpha := p.alpha, vel := vadd (p.velAt pos) spin
        acc := vsum 12 [p.accAt pos, vscale qdd axis, wa, wa] }
  k.withMass b

/-- Every body, from the base outward. -/
def Model.kin (m : Model) (base : BaseMotion) (q qd qdd : Vec) : List BodyKin :=
  let root : BodyKin := { rot := base.rot, pos := base.pos, vel := base.vel, omega := base.omega, acc := base.acc
                          alpha := base.alpha, axis := zeros 3 }
  (List.range m.moving.length).foldl (fun ks i =>
    let b := m.moving.getD i {}
    ks ++ [childKin b (ks.getD b.parent {}) (q.getD i .zero) (qd.getD i .zero) (qdd.getD i .zero)])
    [root.withMass (m.body 0)]

/-! ### Jacobians -/

/-- The bodies from body `i` down to the base whose joints move it. -/
def Model.path (m : Model) : Nat → Nat → List Nat
  | 0, _ => []
  | k + 1, i => if i = 0 then [] else i :: m.path k (m.body i).parent

/-- Angular and linear column of variable `v` for a world point fixed in body `i`. -/
def jacColumn (m : Model) (ks : List BodyKin) (i : Nat) (x : Vec) (v : Nat) : Vec × Vec :=
  if v < m.baseVars then
    (if v < 3 then (zeros 3, unitVec 3 v .one)
     else
      let u := unitVec 3 (v - 3) .one
      (u, cross u (vsub x (ks.headD {}).pos)))
  else
    let j := v - m.baseVars + 1
    let k := ks.getD j {}
    if !(m.path 65 i).contains j then (zeros 3, zeros 3)
    else if (m.body j).revolute then (k.axis, cross k.axis (vsub x k.pos)) else (zeros 3, k.axis)

/-- The Jacobian's rows: three angular or three linear ones. -/
def angularRows (m : Model) (ks : List BodyKin) (i : Nat) : List Vec :=
  (List.range 3).map fun r => (List.range m.nv).map fun v => (jacColumn m ks i (zeros 3) v).1.getD r .zero
def linearRows (m : Model) (ks : List BodyKin) (i : Nat) (x : Vec) : List Vec :=
  (List.range 3).map fun r => (List.range m.nv).map fun v => (jacColumn m ks i x v).2.getD r .zero

/-! ### The mass matrix and Newton-Euler (R314) -/

/-- What body `i` adds to an element of M, as factors of products: its mass and inertia move with the composite body
of every joint below it. -/
def massTerms (m : Model) (ks : List BodyKin) (i a b : Nat) : Vec × Vec :=
  let k := ks.getD i {}
  let ca := jacColumn m ks i k.com a
  let cb := jacColumn m ks i k.com b
  (vscale (decode32 (m.body i).mass) ca.2 ++ mulVec k.inertia ca.1, cb.2 ++ cb.1)

/-- M(q), with armature * gear^2 on each joint's diagonal. -/
def Model.massMatrix (m : Model) (ks : List BodyKin) : List Vec :=
  (List.range m.nv).map fun a => (List.range m.nv).map fun b =>
    let ts := (List.range m.bodies.length).map fun i => massTerms m ks i a b
    let rotor := if a = b && m.baseVars ≤ a then (m.moving.getD (a - m.baseVars) {}).rotor else .zero
    dot32 13 (rotor :: ts.flatMap fun t => t.1) (.one :: ts.flatMap fun t => t.2)

/-- Force and moment about its origin that a body's motion needs, gravity counted as an acceleration. -/
def bodyForce (m : Model) (ks : List BodyKin) (i : Nat) : Vec × Vec :=
  let k := ks.getD i {}
  let f := vscale (decode32 (m.body i).mass) (vsub (k.accAt k.com) (vec32 m.gravity))
  let n := vadd (mulVec k.inertia k.alpha) (cross k.omega (mulVec k.inertia k.omega))
  (f, vadd n (cross (vsub k.com k.pos) f))

/-- A force that acts on a body at a world point. -/
structure External where
  body : Nat := 0
  point : Vec := []
  force : Vec := []
deriving DecidableEq, Repr

/-- One body's force passes to its parent. -/
def passDown (m : Model) (ks : List BodyKin) (fs : List (Vec × Vec)) (i : Nat) : List (Vec × Vec) :=
  let f := fs.getD i ([], [])
  let j := (m.body i).parent
  let r := vsub (ks.getD i {}).pos (ks.getD j {}).pos
  fs.modify j fun g => (vadd g.1 f.1, vsum 14 [g.2, f.2, cross r f.1])

/-- Recursive Newton-Euler: M qdd + h less the external forces, one element a variable. -/
def Model.inverseDynamics (m : Model) (ks : List BodyKin) (qdd : Vec) (ext : List External) : Vec :=
  let own := (List.range m.bodies.length).map (bodyForce m ks)
  let loaded := ext.foldl (fun fs x => fs.modify x.body fun g =>
    (vsub g.1 x.force, vsub g.2 (cross (vsub x.point (ks.getD x.body {}).pos) x.force))) own
  let fs := (List.range m.moving.length).reverse.foldl (fun fs i => passDown m ks fs (i + 1)) loaded
  let base := if m.floating then (fs.headD ([], [])).1 ++ (fs.headD ([], [])).2 else []
  base ++ (List.range m.moving.length).map fun i =>
    let f := fs.getD (i + 1) ([], [])
    let b := m.moving.getD i {}
    let axis := (ks.getD (i + 1) {}).axis
    dot32 15 ((if b.revolute then f.2 else f.1) ++ [b.rotor]) (axis ++ [qdd.getD i .zero])

/-! ### The centre of mass and momentum (R316) -/

def Model.massOf (m : Model) (i : Nat) : Fp := decode32 (m.body i).mass
def Model.totalMass (m : Model) : Fp := sum32 16 ((List.range m.bodies.length).map m.massOf)
/-- The mass-weighted mean of one vector a body. -/
def Model.meanOf (m : Model) (f : Nat → Vec) : Vec :=
  (List.range 3).map fun r => div32 (dot32 17 ((List.range m.bodies.length).map m.massOf)
    ((List.range m.bodies.length).map fun i => (f i).getD r .zero)) m.totalMass
def Model.centre (m : Model) (ks : List BodyKin) : Vec := m.meanOf fun i => (ks.getD i {}).com

/-- Momentum of a motion that gives each body's centre of mass a linear vector and the body an angular one: linear
rows, then angular rows about the centre of mass. -/
def Model.momentumOf (m : Model) (ks : List BodyKin) (lin ang : Nat → Vec) : Vec :=
  let bs := List.range m.bodies.length
  let c := m.centre ks
  vsum 18 (bs.map fun i => vscale (m.massOf i) (lin i)) ++
    vsum 19 (bs.flatMap fun i =>
      [cross (vsub (ks.getD i {}).com c) (vscale (m.massOf i) (lin i)), ang i])

end Sys2Proof.Machine
end

