-- ==== Sys2Proof/Machine/Problem.lean ====
section
/-! DEFINITION. The whole-body problem (R315, R316, R321 to R327): task terms, contacts, limit bounds, the rows of the
problem in their order, the KKT matrix and its factors, the residual, and the active-set iteration. -/

namespace Sys2Proof.Machine

/-! ### The state of a link as the problem reads it (R313) -/

/-- 2 µs in FP32. -/
def twoMicro : Fp := div32 (.fin false 2 0) (.fin false 1000000 0)

/-- base_pos + base_vel * (n - est_link) * 2 µs (R313). -/
def Targets.basePosAt (t : Targets) (n : Nat) : Vec :=
  let gap := rne32 (ofInt ((n : Int) - t.estLink) 0)
  vadd (vec32 t.basePos) ((vec32 t.baseVel).map fun v => mul32 (mul32 v gap) twoMicro)

/-- The base of a model: where its record fixes it, or as the samples and the estimator have it (R311, R313). -/
def Model.baseMotion (m : Model) (pos vel quat rate : Vec) : BaseMotion :=
  if m.floating then
    let r := quatMat quat
    { rot := r, pos := pos, vel := vel, omega := mulVec r rate }
  else { rot := quatMat (vec32 (m.body 0).rot), pos := vec32 (m.body 0).trans }

def FrontData.base (f : FrontData) : BaseMotion :=
  f.model.baseMotion (f.targets.basePosAt f.n) (vec32 f.targets.baseVel) (vec32 f.quat) (vec32 f.rate)

/-- The bodies with all accelerations of the variables at 0: their accelerations are the J̇q̇ of the manual. -/
def FrontData.kin (f : FrontData) : List BodyKin :=
  f.model.kin f.base (vec32 f.q) (vec32 f.qd) (zeros f.model.moving.length)

/-- h(q, q̇), with gravity (R314). -/
def FrontData.bias (f : FrontData) : Vec := f.model.inverseDynamics f.kin (zeros f.model.moving.length) []

/-- Position and velocity of a model joint. -/
def FrontData.jointQ (f : FrontData) (j : Nat) : Fp := decode32 (f.q.getD (f.model.varOf j - f.model.baseVars) 0)
def FrontData.jointQd (f : FrontData) (j : Nat) : Fp := decode32 (f.qd.getD (f.model.varOf j - f.model.baseVars) 0)

/-! ### Tasks (R316) -/

/-- The terms of a task: the rows of its Jacobian, the accelerations it wants, and J̇q̇. -/
structure TaskTerms where
  rows : List Vec := []
  want : Vec := []
  bias : Vec := []
deriving DecidableEq, Repr

/-- a_ff + kp (ref - cur) + kd (v_ref - v), element by element. -/
def Task.desired (t : Task) (ff ref cur vref v : Vec) : Vec :=
  (List.range ff.length).map fun i =>
    let g (x : Vec) : Fp := x.getD i .zero
    add32 (add32 (g ff) (mul32 (decode32 t.kp) (sub32 (g ref) (g cur)))) (mul32 (decode32 t.kd) (sub32 (g vref) (g v)))

/-- A reference quaternion as the engine uses it: normalised, the identity where its norm is 0. -/
def refQuat (q : Vec) : Vec := if (norm32 q).isZero then [.one, .zero, .zero, .zero] else normalise q

/-- Position rows of a point of a body. -/
def FrontData.pointTerms (f : FrontData) (t : Task) (pRef vRef ff : Vec) : TaskTerms :=
  let k := f.kin.getD t.body {}
  let x := k.point (vec32 t.offset)
  { rows := linearRows f.model f.kin t.body x, want := t.desired ff pRef x vRef (k.velAt x), bias := k.accAt x }

/-- Orientation rows of a body: the error is the rotation vector of R_ref R^T. -/
def FrontData.turnTerms (f : FrontData) (t : Task) (quat wRef ff : Vec) : TaskTerms :=
  let k := f.kin.getD t.body {}
  let e := rotVec (mulMat (quatMat (refQuat quat)) (transpose 3 k.rot))
  { rows := angularRows f.model f.kin t.body, want := t.desired ff e (zeros 3) wRef k.omega, bias := k.alpha }

def TaskTerms.join (a b : TaskTerms) : TaskTerms :=
  { rows := a.rows ++ b.rows, want := a.want ++ b.want, bias := a.bias ++ b.bias }

/-- Rows of the centre of mass. -/
def FrontData.centreTerms (f : FrontData) (t : Task) (pRef vRef ff : Vec) : TaskTerms :=
  let m := f.model
  let ks := f.kin
  let k (i : Nat) : BodyKin := ks.getD i {}
  { rows := transpose 3 ((List.range m.nv).map fun v => m.meanOf fun i => (jacColumn m ks i (k i).com v).2)
    want := t.desired ff pRef (m.centre ks) vRef (m.meanOf fun i => (k i).velAt (k i).com)
    bias := m.meanOf fun i => (k i).accAt (k i).com }

/-- Rows of momentum: kp is not used. -/
def FrontData.momentumTerms (f : FrontData) (t : Task) (hRef ff : Vec) : TaskTerms :=
  let m := f.model
  let ks := f.kin
  let k (i : Nat) : BodyKin := ks.getD i {}
  let iw (i : Nat) (v : Vec) : Vec := mulVec (k i).inertia v
  let h := m.momentumOf ks (fun i => (k i).velAt (k i).com) fun i => iw i (k i).omega
  { rows := transpose 6 ((List.range m.nv).map fun v =>
      m.momentumOf ks (fun i => (jacColumn m ks i (k i).com v).2) fun i => iw i (jacColumn m ks i (k i).com v).1)
    want := (List.range 6).map fun i =>
      add32 (ff.getD i .zero) (mul32 (decode32 t.kd) (sub32 (hRef.getD i .zero) (h.getD i .zero)))
    bias := m.momentumOf ks (fun i => (k i).accAt (k i).com) fun i =>
      vadd (iw i (k i).alpha) (cross (k i).omega (iw i (k i).omega)) }

/-- Rows of a joint posture. -/
def FrontData.postureTerms (f : FrontData) (t : Task) (w : Vec) : TaskTerms :=
  let js := (List.range t.count).map fun i => t.firstJoint + i
  let part (i : Nat) : Vec := (w.drop (i * t.count)).take t.count
  { rows := js.map fun j => unitVec f.model.nv (f.model.varOf j) .one
    want := t.desired (part 2) (part 0) (js.map f.jointQ) (part 1) (js.map f.jointQd), bias := zeros t.count }

/-- The terms of a task, from its target words (R316). -/
def FrontData.terms (f : FrontData) (t : Task) : TaskTerms :=
  let w := vec32 (f.targets.words.drop t.target)
  let at3 (i : Nat) : Vec := (w.drop i).take 3
  match t.kind with
  | 0 => (f.pointTerms t (at3 0) (at3 7) (at3 13)).join (f.turnTerms t ((w.drop 3).take 4) (at3 10) (at3 16))
  | 1 => f.pointTerms t (at3 0) (at3 3) (at3 6)
  | 2 => f.turnTerms t (w.take 4) (at3 4) (at3 7)
  | 3 => f.centreTerms t (at3 0) (at3 3) (at3 6)
  | 4 => f.momentumTerms t (w.take 6) ((w.drop 6).take 6)
  | _ => f.postureTerms t w

/-! ### Contacts (R321, R322) -/

/-- The points of the active frames, in point order. -/
def Contacts.active (k : Contacts) (mask : Nat) : List ContactPoint := k.points.filter fun p => bitAt mask p.frame

/-- An active point in the world: its body and place, and its directions t1, t2 = n x t1, n. -/
structure WorldPoint where
  body : Nat := 0
  place : Vec := []
  dirs : List Vec := []
  mu : Fp := .zero
  fnMin : Fp := .zero
  fnMax : Fp := .zero
deriving DecidableEq, Repr

def Contacts.world (k : Contacts) (ks : List BodyKin) (p : ContactPoint) : WorldPoint :=
  let fr := k.frames.getD p.frame {}
  let b := ks.getD fr.body {}
  let n := mulVec b.rot (vec32 fr.normal)
  let t := mulVec b.rot (vec32 fr.tangent)
  { body := fr.body, place := b.point (vec32 p.offset), dirs := [t, cross n t, n], mu := decode32 fr.mu
    fnMin := decode32 p.fnMin, fnMax := decode32 p.fnMax }

/-- The active points of a link's problem. -/
def FrontData.contactsAt (f : FrontData) : List WorldPoint :=
  (f.contacts.active f.targets.contactMask).map (f.contacts.world f.kin)

/-- The rows of J_c: three for each active point, t1, t2, n. -/
def FrontData.contactRows (f : FrontData) : List Vec :=
  f.contactsAt.flatMap fun p => p.dirs.map fun d => (List.range f.model.nv).map fun v =>
    dot32 20 d (jacColumn f.model f.kin p.body p.place v).2

/-- J̇_c q̇. -/
def FrontData.contactBias (f : FrontData) : Vec :=
  f.contactsAt.flatMap fun p => p.dirs.map fun d => dot32 20 d ((f.kin.getD p.body {}).accAt p.place)

/-- The contact forces of a solution as forces on the bodies. -/
def contactForces (ps : List WorldPoint) (force : Vec) : List External :=
  (List.range ps.length).map fun i =>
    let p := ps.getD i {}
    { body := p.body, point := p.place
      force := (List.range 3).map fun r => dot32 21 ((force.drop (3 * i)).take 3) (p.dirs.map fun d => d.getD r .zero) }

/-! ### Limit bounds (R323) -/

/-- Lower and upper bound of a joint's acceleration, and whether position and velocity terms cross: then the velocity
terms stand alone. -/
def limitBounds (limitLinks : Nat) (b : Body) (q qd : Fp) : Fp × Fp × Bool :=
  let t := div32 (.fin false (2 * limitLinks) 0) (.fin false 1000000 0)
  let tt := mul32 t t
  let vm := decode32 b.vMax
  let pos (lim : Nat) : Fp := div32 (mul32 (.fin false 2 0) (sub32 (sub32 (decode32 lim) q) (mul32 qd t))) tt
  let hi := div32 (sub32 vm qd) t
  let lo := div32 (sub32 vm.neg qd) t
  let qmax := if ltFp (pos b.qMax) hi then pos b.qMax else hi
  let qmin := if ltFp lo (pos b.qMin) then pos b.qMin else lo
  if ltFp qmax qmin then (lo, hi, true) else (qmin, qmax, false)

def FrontData.bounds (f : FrontData) (b : Body) : Fp × Fp × Bool :=
  limitBounds f.tasks.limitLinks b (f.jointQ b.joint) (f.jointQd b.joint)

/-- LIMIT_CONFLICT (R323). -/
def FrontData.conflict (f : FrontData) : Bool := f.model.ordered.any fun b => (f.bounds b).2.2

/-! ### The problem (R322) -/

/-- Minimise x^T H x / 2 + g^T x with A x = b and C x ≤ d. -/
structure Qp where
  hess : List Vec := []
  grad : Vec := []
  eqRows : List Vec := []
  eqRhs : Vec := []
  inRows : List Vec := []
  inRhs : Vec := []
  reg : Fp := .zero
deriving DecidableEq, Repr

def FrontData.activePoints (f : FrontData) : Nat := (f.contacts.active f.targets.contactMask).length
def FrontData.eqRows (f : FrontData) : Nat := (if f.model.floating then 6 else 0) + 3 * f.activePoints
def FrontData.ineqRows (f : FrontData) : Nat := 4 * f.model.moving.length + 6 * f.activePoints

/-- Row `v` of M q̈ - J_c^T f, over the variables x. -/
def FrontData.forceRow (f : FrontData) (v : Nat) : Vec :=
  f.model.massMatrix f.kin |>.getD v [] |> (· ++ vneg (colOf f.contactRows v))

/-- The weighted rows of all tasks: weight, row over x, and a - J̇q̇. -/
def FrontData.taskRows (f : FrontData) : List (Fp × Vec × Fp) :=
  f.tasks.tasks.flatMap fun t =>
    let x := f.terms t
    (List.range x.rows.length).map fun i =>
      (decode32 t.weight, x.rows.getD i [] ++ zeros (3 * f.activePoints),
        sub32 (x.want.getD i .zero) (x.bias.getD i .zero))

/-- The friction and normal-force rows of active point `i` (R322). -/
def FrontData.pointRows (f : FrontData) (i : Nat) (p : WorldPoint) : List (Vec × Fp) × List (Vec × Fp) :=
  let n := f.model.nv + 3 * f.activePoints
  let o := f.model.nv + 3 * i
  let facet := (div32 p.mu (sqrt32 (.fin false 2 0))).neg
  let row (k : Nat) (s : Fp) : Vec := (unitVec n (o + k) s).set (o + 2) facet
  ([(row 0 .one, .zero), (row 0 Fp.one.neg, .zero), (row 1 .one, .zero), (row 1 Fp.one.neg, .zero)],
   [(unitVec n (o + 2) Fp.one.neg, p.fnMin.neg), (unitVec n (o + 2) .one, p.fnMax)])

/-- The inequality rows in the order of R322, each with its right-hand side. -/
def FrontData.inequalities (f : FrontData) : List (Vec × Fp) :=
  let n := f.model.nv + 3 * f.activePoints
  let torque := f.model.ordered.flatMap fun b =>
    let v := f.model.varOf b.joint
    let h := f.bias.getD v .zero
    let t := decode32 b.tauMax
    [(vneg (f.forceRow v), add32 t h), (f.forceRow v, sub32 t h)]
  let limit := f.model.ordered.flatMap fun b =>
    let v := f.model.varOf b.joint
    [(unitVec n v Fp.one.neg, (f.bounds b).1.neg), (unitVec n v .one, (f.bounds b).2.1)]
  let ps := f.contactsAt
  let points := (List.range ps.length).map fun i => f.pointRows i (ps.getD i {})
  torque ++ limit ++ (points.flatMap fun p => p.1) ++ points.flatMap fun p => p.2

/-- The problem of a link. -/
def FrontData.qp (f : FrontData) : Qp :=
  let n := f.model.nv + 3 * f.activePoints
  let rho := decode32 f.tasks.reg
  let rows := f.taskRows
  let base := List.range f.model.baseVars
  let pad (r : Vec) : Vec := r ++ zeros (3 * f.activePoints)
  { hess := (List.range n).map fun a => (List.range n).map fun b =>
      dot32 22 ((rows.map fun r => mul32 r.1 (r.2.1.getD a .zero)) ++ [if a = b then rho else .zero])
        ((rows.map fun r => r.2.1.getD b .zero) ++ [.one])
    grad := (List.range n).map fun a =>
      (dot32 23 (rows.map fun r => mul32 r.1 (r.2.1.getD a .zero)) (rows.map fun r => r.2.2)).neg
    eqRows := base.map f.forceRow ++ f.contactRows.map pad
    eqRhs := (base.map fun v => (f.bias.getD v .zero).neg) ++ vneg f.contactBias
    inRows := f.inequalities.map fun r => r.1, inRhs := f.inequalities.map fun r => r.2, reg := rho }

/-! ### Factors (R324, R325) -/

/-- The rows of A: the equality rows, and the inequality rows of a working set. -/
def Qp.rows (p : Qp) (w : List Nat) : List Vec := p.eqRows ++ w.map fun i => p.inRows.getD i []
def Qp.rhs (p : Qp) (w : List Nat) : Vec := vneg p.grad ++ p.eqRhs ++ w.map fun i => p.inRhs.getD i .zero

/-- The KKT matrix [[H, A^T], [A, -rho I]]. -/
def Qp.kkt (p : Qp) (w : List Nat) : List Vec :=
  let a := p.rows w
  ((List.range p.hess.length).map fun i => p.hess.getD i [] ++ colOf a i) ++
    (List.range a.length).map fun j => a.getD j [] ++ unitVec a.length j p.reg.neg

/-- Factors of LDL^T: the rows of L below the diagonal, the pivots, and whether one was replaced. -/
structure Factors where
  lower : List Vec := []
  pivots : Vec := []
  replaced : Bool := false
deriving DecidableEq, Repr

/-- A row of L, from the rows before it. -/
def lowerRow (row : Vec) (ls : List Vec) (ds : Vec) : Vec :=
  (ls.zip ds).foldl (fun li p =>
    let s := dot32 24 (.one :: vneg li) (row.getD li.length .zero :: List.zipWith mul32 p.1 ds)
    li ++ [div32 s p.2]) []

/-- The pivot that stands for a computed one: one below 10^-9 dmax is replaced by 10^-6 dmax with its sign. -/
def pivotOf (dmax d : Fp) : Fp × Bool :=
  if ltFp (mulExact (absFp d) (.fin false (10 ^ 9) 0)) dmax then
    let x := div32 dmax (.fin false (10 ^ 6) 0)
    (if d.isNeg && !d.isZero then x.neg else x, true)
  else (d, false)

/-- The factors of a symmetric matrix, pivots in the order of its rows (R324, DESIGN CHOICE 170). -/
def factorise (m : List Vec) : Factors :=
  let diag := (List.range m.length).map fun i => (m.getD i []).getD i .zero
  let dmax := if (maxAbs diag).isZero then .one else maxAbs diag
  m.foldl (fun (x : Factors) row =>
    let i := x.pivots.length
    let li := lowerRow row x.lower x.pivots
    let d := dot32 25 (.one :: vneg li) (row.getD i .zero :: List.zipWith mul32 li x.pivots)
    { lower := x.lower ++ [li], pivots := x.pivots ++ [(pivotOf dmax d).1]
      replaced := x.replaced || (pivotOf dmax d).2 }) {}

/-- A solve with the factors. -/
def Factors.solve (x : Factors) (rhs : Vec) : Vec :=
  let y := x.lower.foldl (fun ys l => ys ++ [dot32 26 (.one :: vneg ys) (rhs.getD ys.length .zero :: l)]) []
  let z := List.zipWith div32 y x.pivots
  (List.range z.length).reverse.foldl (fun (done : Vec) i =>
    let col := (x.lower.drop (i + 1)).map fun l => l.getD i .zero
    dot32 27 (.one :: vneg done) (z.getD i .zero :: col) :: done) []

/-- A refinement step: the residual with FP64 accumulation, and a correction with the same factors (R325). -/
def Factors.refine (x : Factors) (m : List Vec) (rhs z : Vec) : Vec :=
  let res := (List.range m.length).map fun i =>
    rne32 (dot64 28 (rhs.getD i .zero :: vneg (m.getD i [])) (.one :: z))
  vadd z (x.solve res)

/-- The solve of a working set: x, then the multipliers, and whether a pivot was replaced. -/
def Qp.solveFor (p : Qp) (refine : Nat) (w : List Nat) : Vec × Bool :=
  let m := p.kkt w
  let x := factorise m
  ((List.range refine).foldl (fun z _ => x.refine m (p.rhs w) z) (x.solve (p.rhs w)), x.replaced)

/-! ### The residual and the iteration (R326, R327) -/

/-- How far an inequality row is violated: C x - d. -/
def Qp.excess (p : Qp) (x : Vec) (i : Nat) : Fp :=
  dot32 29 (p.inRows.getD i [] ++ [(p.inRhs.getD i .zero).neg]) (x ++ [.one])

/-- The residual r of a solution for a working set. -/
def Qp.residual (p : Qp) (w : List Nat) (z : Vec) : Fp :=
  let n := p.hess.length
  let x := z.take n
  let mult := z.drop n
  let mu := mult.drop p.eqRows.length
  let a := p.rows w
  let scale := add32 .one (maxAbs p.grad)
  let stat := (List.range n).map fun i =>
    dot32 30 (p.hess.getD i [] ++ [p.grad.getD i .zero] ++ colOf a i) (x ++ [.one] ++ mult)
  let eq := (List.range p.eqRows.length).map fun i =>
    dot32 31 (p.eqRows.getD i [] ++ [(p.eqRhs.getD i .zero).neg]) (x ++ [.one])
  let feas := maxAbs [maxAbs eq, maxPos ((List.range p.inRows.length).map (p.excess x))]
  maxAbs [div32 (maxAbs stat) scale, div32 feas (add32 .one (maxAbs [maxAbs p.eqRhs, maxAbs p.inRhs])),
    div32 (maxPos (vneg mu)) scale]

/-- The index of the largest value among those above 0, the lowest at a tie. -/
def largest (vs : List (Nat × Fp)) : Option Nat :=
  (vs.foldl (fun (a : Option (Nat × Fp)) v =>
    if ltFp ((a.map fun y => y.2).getD .zero) v.2 then some v else a) none).map fun v => v.1

/-- The violated inequality row outside the working set with the largest violation / (1 + |d_v|) (R326). -/
def Qp.mostViolated (p : Qp) (w : List Nat) (x : Vec) : Option Nat :=
  largest (((List.range p.inRows.length).filter fun i => !w.contains i).map fun i =>
    (i, div32 (p.excess x i) (add32 .one (absFp (p.inRhs.getD i .zero)))))

/-- The row of the working set with the most negative multiplier. -/
def mostNegative (w : List Nat) (mu : Vec) : Option Nat := largest (w.zip (vneg mu))

/-- What the iteration of R326 has come to: the working set, the one solved last with its solution x, λ, μ. -/
structure IterState where
  it : Nat := 0
  w : List Nat := []
  solved : List Nat := []
  sol : Vec := []
  residual : Fp := .zero
  pivot : Bool := false
deriving DecidableEq, Repr

/-- A row takes its place in a working set. -/
def insertAsc (a : Nat) : List Nat → List Nat
  | [] => [a]
  | b :: r => if a < b then a :: b :: r else b :: insertAsc a r

/-- The iteration of R326: `k` iterations are left. -/
def Qp.iterate (p : Qp) (refine tol : Nat) : Nat → IterState → IterState
  | 0, x => x
  | k + 1, x =>
    let z := p.solveFor refine x.w
    let r := p.residual x.w z.1
    let y : IterState := { x with it := x.it + 1, solved := x.w, sol := z.1, residual := r, pivot := x.pivot || z.2 }
    if leFp r (decode32 tol) then y
    else
      match p.mostViolated x.w (z.1.take p.hess.length) with
      | some v => p.iterate refine tol k { y with w := insertAsc v x.w }
      | none =>
        match mostNegative x.w (z.1.drop (p.hess.length + p.eqRows.length)) with
        | some v => p.iterate refine tol k { y with w := x.w.filter (· ≠ v) }
        | none => y

/-! ### Torques (R322) -/

/-- τ = M_a q̈ + h_a - J_c,a^T f of a model joint. -/
def FrontData.torque (f : FrontData) (x : Vec) (j : Nat) : Fp :=
  let v := f.model.varOf j
  dot32 32 (f.forceRow v ++ [f.bias.getD v .zero]) (x ++ [.one])

end Sys2Proof.Machine
end

