-- ==== Sys2Proof/Machine/Solver.lean ====
section
/-! DEFINITION. The dynamics engine (chapter 13): its commands, the state of a link from the samples, task
targets, results, and its rows of time. -/

namespace Sys2Proof.Machine

/-! ### Exact vectors -/

def vecAt (d : List Byte) (o n : Nat) : List Fp := (List.range n).map fun i => decode32 (fieldAt d (o + 4 * i) 4)

def dotFp (a b : List Fp) : Fp := (List.zipWith mulExact a b).foldl addExact .zero
def subFp (a b : Fp) : Fp := addExact a b.neg

/-- A decimal bound n / d against a value: value * d and n, compared exactly. -/
def leRatio (a : Fp) (n d : Nat) : Bool := leFp (mulExact a (.fin false d 0)) (.fin false n 0)
def geRatio (a : Fp) (n d : Nat) : Bool := leFp (.fin false n 0) (mulExact a (.fin false d 0))

/-- The norm of a vector differs from 1 by at most 10^-3, on the exact norm (R312, R321). -/
def unitNorm (v : List Fp) : Bool := leRatio (dotFp v v) 1002001 1000000 && geRatio (dotFp v v) 998001 1000000

def det2 (a b c : Fp) : Fp := subFp (mulExact a c) (mulExact b b)

/-- A symmetric tensor Ixx, Iyy, Izz, Ixy, Ixz, Iyz is positive semidefinite: all its principal minors are at
least 0. -/
def psd (xx yy zz xy xz yz : Fp) : Bool :=
  let nn (x : Fp) : Bool := leFp .zero x
  let cross := mulExact (.fin false 2 0) (mulExact xy (mulExact xz yz))
  let det := subFp (addExact (mulExact xx (mulExact yy zz)) cross)
    (addExact (mulExact xx (mulExact yz yz)) (addExact (mulExact yy (mulExact xz xz)) (mulExact zz (mulExact xy xy))))
  nn xx && nn yy && nn zz && nn (det2 xx xy yy) && nn (det2 xx xz zz) && nn (det2 yy yz zz) && nn det

/-- The inertia test of R312: positive semidefinite, and principal moments that keep the triangle
inequalities, which is tr(I)/2 - I positive semidefinite. -/
def inertiaOk (v : List Fp) : Bool :=
  let g (i : Nat) : Fp := v.getD i .zero
  let half := mulExact (.fin false 1 (-1)) (addExact (g 0) (addExact (g 1) (g 2)))
  psd (g 0) (g 1) (g 2) (g 3) (g 4) (g 5) &&
    psd (subFp half (g 0)) (subFp half (g 1)) (subFp half (g 2)) (g 3).neg (g 4).neg (g 5).neg

/-! ### The robot model (R310 to R312) -/

/-- FP32 patterns of a record. -/
def wordsAt (d : List Byte) (o n : Nat) : List Nat := (List.range n).map fun i => fieldAt d (o + 4 * i) 4

/-- FP32 patterns of a record, normalised in FP32 as accepted axes and quaternions are (R312). -/
def unitAt (d : List Byte) (o n : Nat) : List Nat := (normalise (vecAt d o n)).map (encode32 0x7FC00000)

def parseBody (d : List Byte) : Body :=
  { parent := fieldAt d 0 1, jointType := fieldAt d 1 1, joint := fieldAt d 2 1
    axis := unitAt d 4 3, rot := unitAt d 16 4, trans := wordsAt d 32 3, mass := fieldAt d 44 4
    com := wordsAt d 48 3, inertia := wordsAt d 60 6, armature := fieldAt d 100 4, qMin := fieldAt d 84 4
    qMax := fieldAt d 88 4, vMax := fieldAt d 92 4, tauMax := fieldAt d 96 4, gear := fieldAt d 104 4
    encScale := fieldAt d 108 4, encOffset := signedOf 32 (fieldAt d 112 4), tauRate := fieldAt d 116 4, raw := d }

/-- A model record: imu_rot is normalised for a floating base and unused for a fixed one (R312). -/
def parseModel (d : List Byte) : Model :=
  { rev := fieldAt d 0 4, imuNode := fieldAt d 5 1, gravity := wordsAt d 8 3, raw := d
    imuRot := if fieldAt d 65 1 = 0 then unitAt d 20 4 else []
    bodies := (List.range (fieldAt d 4 1)).map fun i => parseBody ((d.drop (64 + 128 * i)).take 128) }

def allFinite (v : List Fp) : Bool := v.all Fp.isFinite

/-- A value equals a small number exactly. -/
def isFp (a b : Fp) : Bool := leFp a b && leFp b a

/-- A body record breaks R311 or R312. -/
def bodyBad (floating : Bool) (i : Nat) (b : Body) : Bool :=
  let d := b.raw
  let rot := vecAt d 16 4
  let com := vecAt d 48 3
  let inertia := vecAt d 60 6
  let mass := decode32 (fieldAt d 44 4)
  !allZero d 3 1 || !allZero d 120 8 || !allFinite (rot ++ vecAt d 32 3 ++ com ++ inertia) || !mass.isFinite ||
    mass.isNeg && !isFp mass .zero || !unitNorm rot || !inertiaOk inertia ||
    (if i = 0 then
      b.parent ≠ 0xFF || b.joint ≠ 0xFF || !(b.jointType = 0 || b.jointType = 3) || !allZero d 4 12 ||
        !allZero d 84 36 ||
        (floating && (isFp mass .zero || !(vecAt d 32 3).all (isFp .zero) || !isFp (rot.getD 0 .zero) .one ||
          !(rot.drop 1).all (isFp .zero)))
    else
      i ≤ b.parent || !(b.jointType = 1 || b.jointType = 2) || 63 < b.joint || !allFinite (vecAt d 4 3) ||
        !unitNorm (vecAt d 4 3) || !finite32 b.qMin || !finite32 b.qMax || leFp (decode32 b.qMax) (decode32 b.qMin) ||
        !positive32 b.vMax || !positive32 b.tauMax || !positive32 b.gear || !positive32 b.encScale ||
        !positive32 b.tauRate || !nonneg32 (fieldAt d 100 4))

/-- The list holds a value twice. -/
def hasDup : List Nat → Bool
  | [] => false
  | a :: r => r.contains a || hasDup r

/-- The whole record breaks a rule of R312. -/
def modelBad (m : Model) : Bool :=
  let d := m.raw
  !allZero d 6 2 || !allZero d 36 28 || !allFinite (vecAt d 8 3) ||
    (m.floating && (m.imuNode = 0xFF || 63 < m.imuNode || !allFinite (vecAt d 20 4) || !unitNorm (vecAt d 20 4))) ||
    (!m.floating && m.imuNode ≠ 0xFF) || hasDup (m.moving.map (·.joint)) ||
    (List.range m.bodies.length).any fun i => bodyBad m.floating i (m.bodies.getD i {})

/-- The Assize takes its copies (R380). -/
def State.copyToAssize (s : State) (model contacts : List Byte) : State :=
  s.onAsz fun a => { a with
    copyModel := model, copyContacts := contacts, copyCrc := crc32c (model ++ contacts), reloadDue := false }

/-- SOL_MODEL_LOAD (R312, R339). -/
def execSolModelLoad (c : Cmd) (s : State) : Out :=
  .next (runCmd 6 1 c s fun s =>
    let n := fieldAt c.data 4 1
    let m := parseModel c.data
    if s.sol.state = .running then s.complete c stBusy
    else if n < 2 || 65 < n then s.complete c stLimit
    else if c.length ≠ 64 + 128 * n then s.complete c stBadLength
    else if modelBad m then s.complete c stBadParam
    else ((s.onSol fun x => { x with
        state := .loaded, model := some m, tasks := none, pending := none, contacts := none }).copyToAssize
        c.data []).complete c stOk)

/-! ### Task sets (R315, R316, R580) -/

def Task.rows (t : Task) : Nat := if t.kind = 0 || t.kind = 4 then 6 else if t.kind = 5 then t.count else 3
def Task.words (t : Task) : Nat :=
  match t.kind with
  | 0 => 19
  | 1 => 9
  | 2 => 10
  | 3 => 9
  | 4 => 12
  | _ => 3 * t.count

def parseTask (d : List Byte) : Task :=
  { kind := fieldAt d 0 1, body := fieldAt d 1 1, firstJoint := fieldAt d 2 1, count := fieldAt d 3 1
    target := fieldAt d 4 2, offset := wordsAt d 8 3, weight := fieldAt d 20 4, kp := fieldAt d 24 4
    kd := fieldAt d 28 4 }

def taskRecord (d : List Byte) (i : Nat) : List Byte := (d.drop (16 + 48 * i)).take 48

/-- FP32 1e-4. -/
def defaultTol : Nat := 0x38D1B717

def parseTasks (d : List Byte) : TaskSet :=
  { id := fieldAt d 0 4, iterCap := if fieldAt d 5 1 = 0 then 8 else fieldAt d 5 1, refine := fieldAt d 6 1
    limitLinks := if fieldAt d 7 1 = 0 then 100 else fieldAt d 7 1
    tol := if isFp (decode32 (fieldAt d 8 4)) .zero then defaultTol else fieldAt d 8 4, reg := fieldAt d 12 4
    tasks := (List.range (fieldAt d 4 1)).map fun i => parseTask (taskRecord d i), raw := d }

/-- Row 5 of R580 for one task record; weight, kp and kd below 0 are reserved values (log 32). -/
def taskBad (m : Model) (d : List Byte) : Bool :=
  let t := parseTask d
  5 < t.kind || !allZero d 6 2 || !allZero d 32 16 || !allFinite (vecAt d 8 3) || !nonneg32 (fieldAt d 20 4) ||
    !nonneg32 (fieldAt d 24 4) || !nonneg32 (fieldAt d 28 4) || (1 < t.kind && !allZero d 8 12) ||
    (if t.kind ≤ 2 then decide (m.bodies.length ≤ t.body) else t.body ≠ 0) ||
    (if t.kind = 5 then 63 < t.firstJoint ||
        (List.range (min t.count (64 - t.firstJoint))).any fun i => !m.hasJoint (t.firstJoint + i)
     else t.firstJoint ≠ 0 || t.count ≠ 0)

def negative32 (w : Nat) : Bool := ltFp (decode32 w) .zero

/-- Row 6 of R580. -/
def tasksLimit (d : List Byte) (x : TaskSet) : Bool :=
  16 < fieldAt d 5 1 || 2 < fieldAt d 6 1 || 200 < fieldAt d 7 1 || negative32 (fieldAt d 8 4) ||
    negative32 x.reg || x.tasks.any (fun t => t.kind = 5 && (t.count = 0 || 64 < t.firstJoint + t.count)) ||
    192 < (x.tasks.map Task.rows).sum || x.tasks.any fun t => 500 < t.target + t.words

/-- What the cycles of the stages depend on (R308). -/
def structureOf (m : Model) (x : TaskSet) (k : Option Contacts) : List Nat :=
  [m.bodies.length, bit01 m.floating] ++ m.moving.flatMap (fun b => [b.parent, b.jointType]) ++
    x.tasks.flatMap (fun t => [t.kind, t.body, t.firstJoint, t.count]) ++
    [(k.getD {}).points.length, x.iterCap, x.refine]

/-- Worst cases as SOL_WCET holds them (R308). -/
def frontCycles (l : List Nat) : Nat := Config.wcetFront l % 65536
def solveCycles (l : List Nat) : Nat := Config.wcetSolve l % 65536

/-- A worst case beyond its window of R307. -/
def wcetBad (l : List Nat) : Bool := 2314 < frontCycles l || 2600 < solveCycles l

/-- SOL_TASKS_LOAD (R580, R308, R320). -/
def execSolTasksLoad (c : Cmd) (s : State) : Out :=
  .next (runCmd 6 2 c s fun s =>
    let n := fieldAt c.data 4 1
    let x := parseTasks c.data
    match s.sol.model with
    | none => s.complete c stMode
    | some m =>
      let l := structureOf m x s.sol.contacts
      if s.sol.pending.isSome then s.complete c stBusy
      else if n = 0 || 32 < n then s.complete c stLimit
      else if c.length ≠ 16 + 48 * n then s.complete c stBadLength
      else if !finite32 (fieldAt c.data 8 4) || !finite32 x.reg ||
          ((List.range n).any fun i => taskBad m (taskRecord c.data i)) ||
          s.sol.tasks.any (fun y => y.id = x.id) then s.complete c stBadParam
      else if tasksLimit c.data x || wcetBad l then s.complete c stLimit
      else (s.onSol fun y => { y with
          tasks := if y.state = .running then y.tasks else some x
          pending := if y.state = .running then some x else none
          wcetFront := frontCycles l, wcetSolve := solveCycles l }).complete c stOk
            (wcetWord (frontCycles l) (solveCycles l)))

/-! ### Contacts (R321) -/

def frameBad (m : Model) (d : List Byte) : Bool :=
  let n := vecAt d 4 3
  let t := vecAt d 16 3
  let p := absFp (dotFp n t)
  !allZero d 1 3 || m.bodies.length ≤ fieldAt d 0 1 || !allFinite (n ++ t) || !positive32 (fieldAt d 28 4) ||
    !unitNorm n || !unitNorm t || !leRatio p 1 1000

def pointBad (nFrames : Nat) (d : List Byte) : Bool :=
  !allZero d 1 3 || nFrames ≤ fieldAt d 0 1 || !allFinite (vecAt d 4 5) ||
    ltFp (decode32 (fieldAt d 20 4)) (decode32 (fieldAt d 16 4))

def contactFrame (d : List Byte) (i : Nat) : List Byte := (d.drop (8 + 32 * i)).take 32
def contactPoint (d : List Byte) (i : Nat) : List Byte := (d.drop (8 + 32 * fieldAt d 0 1 + 24 * i)).take 24

def parseContacts (d : List Byte) : Contacts :=
  { raw := d
    frames := (List.range (fieldAt d 0 1)).map fun i =>
      let x := contactFrame d i
      { body := fieldAt x 0 1, normal := wordsAt x 4 3, tangent := wordsAt x 16 3, mu := fieldAt x 28 4 }
    points := (List.range (fieldAt d 1 1)).map fun i =>
      let x := contactPoint d i
      { frame := fieldAt x 0 1, offset := wordsAt x 4 3, fnMin := fieldAt x 16 4, fnMax := fieldAt x 20 4 } }

/-- SOL_CONTACTS (R321, R380). -/
def execSolContacts (c : Cmd) (s : State) : Out :=
  .next (runCmd 6 3 c s fun s =>
    let d := c.data
    let nf := fieldAt d 0 1
    let np := fieldAt d 1 1
    if s.sol.state = .running then s.complete c stBusy
    else match s.sol.model with
      | none => s.complete c stMode
      | some m =>
        if 8 < nf || 16 < np then s.complete c stLimit
        else if c.length ≠ 8 + 32 * nf + 24 * np then s.complete c stBadLength
        else if !allZero d 2 6 || ((List.range nf).any fun i => frameBad m (contactFrame d i)) ||
            ((List.range np).any fun i => pointBad nf (contactPoint d i)) then s.complete c stBadParam
        else ((s.onSol fun x => { x with contacts := some (parseContacts d) }).copyToAssize m.raw d).complete c stOk)

/-! ### Start, stop, query (R336 to R339) -/

/-- The node mapped to a model joint (R577): its node-table entry is a joint drive with that joint. -/
def State.nodeOfJoint (s : State) (j : Nat) : Option Nat :=
  (List.range 64).find? fun n => match s.jl.table.getD n none with
    | some e => e.kind = 0 && e.joint = j
    | none => false

/-- The model joint a node is mapped to (R577). -/
def State.jointOf (s : State) (n : Nat) : Option Nat :=
  match s.jl.table.getD n none, s.sol.model with
  | some e, some m => if e.kind = 0 && m.hasJoint e.joint then some e.joint else none
  | _, _ => none

/-- A node feeds the base state (R577). -/
def State.feedsBase (s : State) (n : Nat) : Bool := s.sol.model.any fun m => m.floating && m.imuNode = n

/-- Row 3 of R336. -/
def State.startUnready (s : State) : Bool :=
  match s.sol.model with
  | none => true
  | some m =>
    s.sol.tasks.isNone || s.sol.contacts.isNone || (m.moving.any fun b => (s.nodeOfJoint b.joint).isNone) ||
      (m.floating && !((s.jl.table.getD m.imuNode none).any fun e => e.kind = 1))

/-- SOL_START (R336, R308, R331, R335). -/
def execSolStart (c : Cmd) (s : State) : Out :=
  .next (runCmd 6 4 c s fun s =>
    let x := s.sol.tasks.getD {}
    let l := structureOf (s.sol.model.getD {}) x s.sol.contacts
    let limit := c.word 0 % 256
    if s.dev.mode ≠ .config then s.complete c stMode
    else if s.sol.state = .running then s.complete c stBusy
    else if s.startUnready then s.complete c stBadParam
    else if s.sol.clustersLost || wcetBad l || 100 < limit then s.complete c stLimit
    else (((s.onSol fun y => { y with
        state := .running, startLink := s.tb.link, holdLimit := if limit = 0 then 25 else limit, warm := none
        targets := { taskSet := x.id }, latest := none, memRewrite := false
        wcetFront := frontCycles l, wcetSolve := solveCycles l }).wdStart 1).wdStart 2).complete c stOk)

/-- SOL_STOP (R337, R339): the result in progress goes on. -/
def execSolStop (c : Cmd) (s : State) : Out :=
  .next (runCmd 6 5 c s fun s =>
    if s.running then s.complete c stMode
    else if s.sol.state = .running then
      (((s.onSol fun x => { x with state := .loaded, pending := none }).wdStop 1).wdStop 2).complete c stOk
    else s.complete c stOk)

def flagHold : Nat := 0x40

/-- SOL_QUERY (R338). -/
def execSolQuery (c : Cmd) (s : State) : Out :=
  .next (runCmd 6 6 c s fun s =>
    let r := s.sol.last.getD {}
    s.complete c (if bitAt r.flags 6 then stSolverHold else stOk)
      (r.flags % 2 ^ 32 + r.iterations * 2 ^ 32 + s.sol.state.code * 2 ^ 40) r.sampleTs
      (r.residual + r.signature * 2 ^ 32))

/-! ### The front stage (R313 to R320) -/

/-- Links of every running line are resolved for this link (R307). -/
def State.linesResolved (s : State) : Bool := s.jl.lines.all fun l => l.state ≠ .running || l.upDone

/-- Joint position: (count - enc_offset) * enc_scale / gear, one rounding a step (R313). -/
def jointPos (b : Body) (sample : List Byte) : Fp :=
  div32 (mul32 (rne32 (ofInt (signedOf 32 (fieldAt sample 0 4) - b.encOffset) 0)) (decode32 b.encScale))
    (decode32 b.gear)
/-- Joint velocity: velocity / gear (R313). -/
def jointVel (b : Body) (sample : List Byte) : Fp := div32 (decode32 (fieldAt sample 4 4)) (decode32 b.gear)

/-- The sample that feeds a joint, and whether it is stale. -/
def State.jointSample (s : State) (j : Nat) : List Byte × Bool :=
  match s.nodeOfJoint j with
  | some n => ((s.node n).sample, (s.node n).stale)
  | none => ([], true)

/-- The base orientation: the IMU quaternion, int16 components over 32,767, normalised, times the conjugate of imu_rot
(R289, R313). -/
def baseOrientation (m : Model) (comps : List Nat) : Vec :=
  quatMul (normalise (comps.map fun c => div32 (ofInt (signedOf 16 c) 0) (.fin false 32767 0)))
    (quatConj (vec32 m.imuRot))

/-- The base angular rate: the IMU's, rotated by imu_rot into the body-0 frame (R313). -/
def baseRate (m : Model) (imu : List Byte) : Vec := mulVec (quatMat (vec32 m.imuRot)) (vecAt imu 0 3)

/-- The state of the link, for a model and the last good orientation (R313, R380). -/
def State.linkState (s : State) (m : Model) (last : List Nat) : LinkState :=
  let js := m.moving.map fun b => (b, s.jointSample b.joint)
  let imu := (s.node m.imuNode).sample
  let comps := (List.range 4).map fun i => fieldAt imu (24 + 2 * i) 2
  let lost := m.floating && comps.all (· = 0)
  { q := js.map fun x => encode32 (nanPattern s.free x.1.joint) (jointPos x.1 x.2.1)
    qd := js.map fun x => encode32 (nanPattern s.free (64 + x.1.joint)) (jointVel x.1 x.2.1)
    quat := if !m.floating then [] else if lost then last
      else (baseOrientation m comps).map (encode32 (nanPattern s.free 128))
    rate := if m.floating then (baseRate m imu).map (encode32 (nanPattern s.free 129)) else []
    stale := js.any (fun x => x.2.2) || (m.floating && (s.node m.imuNode).stale) || lost }

/-- Address of the current target buffer (R317). -/
def State.targetBuffer (s : State) : Nat := 0x0048017FE000 + 0x800 * (s.natAt targetBase 8 % 2)

def parseTargets (d : List Byte) : Targets :=
  { taskSet := fieldAt d 0 4, contactMask := fieldAt d 4 1, estLink := fieldAt d 8 8
    basePos := (List.range 3).map fun i => fieldAt d (16 + 4 * i) 4
    baseVel := (List.range 3).map fun i => fieldAt d (28 + 4 * i) 4
    words := (List.range 500).map fun i => fieldAt d (48 + 4 * i) 4 }

/-- A buffer is accepted (R319). -/
def Sol.accepts (x : Sol) (t : Targets) : Bool :=
  let ts := x.tasks.getD {}
  (t.taskSet = ts.id || x.pending.any fun p => p.id = t.taskSet) &&
    decide (t.contactMask < 2 ^ (x.contacts.getD {}).frames.length) &&
    ts.tasks.all fun k => ((t.words.drop k.target).take k.words).all finite32

/-- The engine reads the target block (R319, R320): its flags, and the targets now in use. -/
def State.readTargets (s : State) : Nat × State :=
  let t := parseTargets (s.bytesAt s.targetBuffer 2048)
  let ok := s.sol.accepts t
  let latest := if ok then some t else s.sol.latest
  let id := (s.sol.tasks.getD {}).id
  let used := latest.any fun x => x.taskSet = id
  let old := used && latest.any fun x => x.estLink + 200 < s.tb.link
  ((if ok then 0 else 0x100) + (if old then 0x200 else 0),
    s.onSol fun x => { x with latest := latest, targets := if used then latest.getD {} else x.targets })

/-- A pending task set becomes active at a chain boundary whose accepted buffer carries its id (R320). -/
def State.taskSwitch (s : State) : State :=
  match s.sol.pending with
  | none => s
  | some p =>
    if s.sol.state = .running && s.sol.latest.any (fun t => t.taskSet = p.id) then
      s.onSol fun x => { x with tasks := some p, pending := none, targets := x.latest.getD {} }
    else s

/-- FRONT_STAGE_START (R307, R313, R319): the front stage of this link's samples. -/
def execFrontStageStart (s : State) : Out :=
  .next (match s.sol.model, s.sol.tasks, s.sol.contacts with
    | some m, some x, some k =>
      if s.sol.state ≠ .running || s.tb.link ≤ s.sol.startLink || !s.linesResolved ||
          s.sol.front.any (fun f => f.n = s.tb.link) then s
      else
        let (fl, s) := s.readTargets
        let ls := s.linkState m s.sol.lastQuat
        (s.onSol fun y => { y with
          lastQuat := if m.floating then ls.quat else y.lastQuat
          front := some { n := s.tb.link, flags := fl + (if ls.stale then 0x80 else 0), model := m, tasks := x
                          contacts := k, targets := y.targets, q := ls.q, qd := ls.qd, quat := ls.quat
                          rate := ls.rate } }).bump
    | _, _, _ => s)

/-! ### The problem and its solution (R322 to R331) -/

/-- The structure record (R330). -/
def FrontData.record (f : FrontData) : List Byte :=
  leBytes 4 f.model.rev ++ leBytes 4 f.tasks.id ++ leBytes 1 f.targets.contactMask ++
    leBytes 1 f.tasks.tasks.length ++ leBytes 1 f.activePoints ++ leBytes 1 f.eqRows ++ leBytes 2 f.ineqRows ++
    leBytes 2 0

/-- The solution's vectors as the result holds them (R322, R332): accelerations, forces, torques by model joint. -/
def FrontData.qdd (f : FrontData) (x : Vec) (nan : Nat) : List Nat := (x.take f.model.nv).map (encode32 nan)
def FrontData.forces (f : FrontData) (x : Vec) (nan : Nat) : List Nat := (x.drop f.model.nv).map (encode32 nan)
def FrontData.torques (f : FrontData) (x : Vec) (nan : Nat) : List Nat :=
  (List.range 64).map fun j => if f.model.hasJoint j then encode32 nan (f.torque x j) else 0

/-- An output is rejected (R329): an element is not finite, or a torque lies above 4 * tau_max. -/
def rejected (m : Model) (qdd force tau : List Nat) : Bool :=
  !(qdd ++ force ++ tau).all finite32 || m.moving.any fun b =>
    ltFp (mulExact (.fin false 4 0) (decode32 b.tauMax)) (absFp (decode32 (tau.getD b.joint 0)))

/-- The iteration of a link's problem (R326), from its first working set. -/
def FrontData.iteration (f : FrontData) (w : List Nat) : IterState :=
  f.qp.iterate f.tasks.refine f.tasks.tol f.tasks.iterCap { w := w }

/-- The outcome of R328: 0 converged, 1 accepted at the cap, 2 failed. -/
def outcomeOf (tol r : Fp) : Nat :=
  if leFp r tol then 0 else if leFp r (mulExact (.fin false 10 0) tol) then 1 else 2

/-- The result of a solve (R326 to R333), and the warm state after it (R330, R331); `nan` are the bits of a NaN. -/
def FrontData.solve (f : FrontData) (warm : Option Warm) (memoryError : Bool) (nan : Nat) : Result × Option Warm :=
  let start := match warm with
    | none => (0x20, [])
    | some x => if x.record = f.record then (0, x.working) else (0x10, [])
  let x := f.iteration start.2
  let outcome := outcomeOf (decode32 f.tasks.tol) x.residual
  let z := x.sol.take (f.model.nv + 3 * f.activePoints)
  let qdd := f.qdd z nan
  let force := f.forces z nan
  let tau := f.torques z nan
  let rej := memoryError || (outcome ≠ 2 && rejected f.model qdd force tau)
  let hold := rej || outcome = 2
  let flags := f.flags + start.1 + outcome + (if x.pivot then 4 else 0) + (if rej then 8 else 0) +
    (if hold then flagHold else 0) + (if f.conflict then 0x400 else 0)
  ({ n := f.n, sampleTs := linkTs f.n, flags := flags, iterations := x.it, active := x.w.length
     residual := encode32 nan x.residual, signature := crc32c f.record, taskSet := f.tasks.id
     contactMask := f.targets.contactMask, tau := tau, qdd := qdd ++ List.replicate (70 - qdd.length) 0
     force := force ++ List.replicate (48 - force.length) 0, baseVel := f.targets.baseVel },
   if hold then none
   else some { record := f.record, working := x.w, qdd := qdd
               mult := (x.sol.drop (f.model.nv + 3 * f.activePoints)).map (encode32 nan) })

/-- SOLVE_STAGE_START (R307, R326, R341): the front stage has completed, which kicks watchdog 1 (R387). A corrected
error of solver memory is counted; an uncorrectable one rejects the result. -/
def execSolveStageStart (memory : Secded) (s : State) : Out :=
  .next (match s.sol.front with
    | none => s
    | some f =>
      if f.n + 1 ≠ s.tb.link then s
      else
        let lost := memory = .uncorrectable
        let (r, w) := f.solve s.sol.warm lost (nanPattern s.free 0)
        ((s.onSol fun x => { x with
          front := none, solved := some r, warm := w, memRewrite := x.memRewrite || lost
          memCorrected := if memory = .corrected then x.memCorrected + 1 else x.memCorrected }).kick 1).bump)

/-- The flags of a link whose stage was late, handled as a rejected result: STAGE_OVERRUN, RES_REJECT and HOLD (R309,
R329). -/
def overrunFlags : Nat := 0x848

/-- The result of a link whose stage was late (R309): its numbers are open. -/
def State.overrunResult (s : State) (f : FrontData) : Result :=
  { n := f.n, sampleTs := linkTs f.n, flags := f.flags + overrunFlags + (if s.sol.warm = none then 0x20 else 0)
    iterations := s.draw 0 % 17, active := s.draw 1 % 256, residual := s.draw 2 % 2 ^ 32
    signature := crc32c f.record, taskSet := f.tasks.id, contactMask := f.targets.contactMask
    tau := (List.range 64).map fun j => if f.model.hasJoint j then s.draw (3 + j) % 2 ^ 32 else 0
    qdd := (List.range 70).map fun i => if i < f.model.nv then s.draw (67 + i) % 2 ^ 32 else 0
    force := (List.range 48).map fun i => if i < 3 * f.activePoints then s.draw (137 + i) % 2 ^ 32 else 0
    baseVel := f.targets.baseVel }

/-- STAGE_DEADLINE_MISS (R309): the front stage at 0.70 µs, or the solve stage at 1.70 µs. -/
def execStageDeadlineMiss (solve : Bool) (s : State) : Out :=
  .next (if solve then
      match s.sol.solved with
      | none => s
      | some r =>
        if r.n + 1 ≠ s.tb.link || bitAt r.flags 11 then s
        else s.onSol fun x => { x with
          warm := none, solved := some { r with flags := r.flags ||| overrunFlags } }
    else
      match s.sol.front with
      | none => s
      | some f =>
        if f.n + 1 ≠ s.tb.link then s
        else (s.onSol fun x => { x with
          front := none, solved := some (s.overrunResult f), warm := none }).bump)

/-- A solver fault: CAP_FAIL, RES_REJECT or STAGE_OVERRUN (R329). -/
def solverFault (flags : Nat) : Bool := bitAt flags 1 || bitAt flags 3 || bitAt flags 11

/-- RESULT_HANDOFF (R307, R332, R387): the result goes to the Assize and shows in the registers. -/
def execResultHandoff (s : State) : Out :=
  .next (match s.sol.solved with
    | none => s
    | some r =>
      if r.n + 1 ≠ s.tb.link then s
      else
        let s := s.onSol fun x => { x with
          solved := none, last := some r
          faults := if solverFault r.flags then satInc 65535 x.faults else x.faults
          pivotReg := if bitAt r.flags 2 then satInc 65535 x.pivotReg else x.pivotReg }
        let s := s.onAsz fun a => { a with check := if bitAt r.flags 6 then none else some r }
        let s := if solverFault r.flags then s.raiseEvent 6 else s
        if bitAt r.flags 11 then s else s.kick 2)

/-! ### Clusters and solver memory (R340, R341) -/

def clusterEntry (u : Nat) : WearEntry := { kind := 7, place := 4, unit := u }

/-- A lasting cluster is replaced at a chain boundary: by the spare, cluster 16, or the device has too few. -/
def State.retireCluster (s : State) (u : Nat) : State :=
  let spare := s.sol.spareLeft
  let s := (s.retire (clusterEntry u)).onSol fun x => { x with
    clustersRetired := x.clustersRetired ++ [u], spareLeft := false, clustersLost := x.clustersLost || !spare }
  if spare then s else s.setDegraded.decideSafe 18

/-- Every lasting cluster, in ascending order (R502). -/
def State.serviceClusters (s : State) : State :=
  ((List.range 17).filter fun u => s.isLasting (clusterEntry u)).foldl State.retireCluster s

/-- CLUSTER_CHECK (R340). -/
def execClusterCheck (cluster : Nat) (ok : Bool) (s : State) : Out :=
  .next (if ok || s.sol.clustersRetired.contains cluster then s else s.errEvent (clusterEntry cluster))

/-- SOLVER_MEMORY_REWRITE (R341): at a chain boundary; the next result starts cold. -/
def execSolverMemoryRewrite (s : State) : Out :=
  .next (if s.sol.memRewrite && s.phase s.tb.link % 100 = 0 then
      s.onSol fun x => { x with memRewrite := false, warm := none }
    else s)

end Sys2Proof.Machine
end

