-- ==== Sys2Proof/Machine/Lines.lean ====
section
/-! DEFINITION. Joint lines (chapter 12): training, the node table, start and stop, down frames with the source
of every command slot, up frames with the stale tests, lost nodes and lost lines. -/

namespace Sys2Proof.Machine

/-! ### Lines and their nodes (R283, R300, R304) -/

def maskLines (m : Nat) : List Nat := (List.range 16).filter fun l => bitAt m l

/-- Node numbers of a line, position 0 first (R283). -/
def lineNodes (l : Nat) : List Nat := (List.range 4).map fun p => 4 * l + p

def State.entryOf (s : State) (n : Nat) : Option NodeCfg := s.jl.table.getD n none

/-- Configured node count of a line (R286). -/
def State.configured (s : State) (l : Nat) : Nat := ((lineNodes l).filter fun n => (s.entryOf n).isSome).length

/-- Every found node of a line has an entry (R304). -/
def State.allEntries (s : State) (l : Nat) : Bool :=
  (List.range (s.line l).found.length).all fun p => (s.entryOf (4 * l + p)).isSome

/-- The test of R304 at the end of training and after JL.NODE_CONFIG. -/
def State.testLine (s : State) (l : Nat) : State :=
  let full := s.allEntries l
  match (s.line l).state with
  | .enumerated => if full then s.onLine l fun x => { x with state := .configured } else s
  | .configured => if full then s else s.onLine l fun x => { x with state := .enumerated }
  | _ => s

/-! ### Training (R299) -/

/-- JL_TRAIN (R299). -/
def execJlTrain (c : Cmd) (s : State) : Out :=
  .next (runCmd 8 1 c s fun s =>
    let m := c.word 0 % 65536
    let ls := maskLines m
    if s.dev.mode ≠ .config && s.dev.mode ≠ .test then s.complete c stMode
    else if ls.any fun l => (s.line l).state = .running || (s.line l).state = .training then s.complete c stBusy
    else if m = 0 then s.complete c stOk
    else (ls.foldl (fun x l => x.onLine l fun y => { y with
        state := .training, trainStart := s.tb.link, sendWhileDown := false }) s).await c (.train m 0 0 false))

/-- Reason of a failed training; 0 when every step passed (R299). -/
def trainReason (late : Bool) (r : TrainReport) : Nat :=
  if !r.locked || r.nodes = [] then 1
  else if r.segments.any (25 < ·) then 2
  else if r.nodes.any (fun n => 120 < n.downLat || 120 < n.upLat) then 3
  else if late || !r.inTime then 5
  else 0

/-- A line's training ended: the commands that wait for it. -/
def trainWait (l found : Nat) (ok : Bool) (o : Open) : Open :=
  match o.wait with
  | .train w t f bad =>
    if bitAt w l then
      { o with wait := .train (w - 2 ^ l) (if ok then t + 2 ^ l else t) (f + found * 2 ^ (4 * l)) (bad || !ok) }
    else o
  | _ => o

/-- JL.TRAIN completes once every named line has ended. -/
def State.finishTrain (s : State) : State :=
  (s.hl.opens.filterMap fun o => match o.wait with
    | .train 0 t f bad => some (t, f, bad)
    | _ => none).foldl (fun x r =>
      x.finish (· = .train 0 r.1 r.2.1 r.2.2) (if r.2.2 then stTimeout else stOk) r.1 r.2.1) s

/-- LINE_TRAINING_COMPLETE (R299, R304). -/
def execLineTrainingComplete (line : Nat) (report : TrainReport) (s : State) : Out :=
  .next (if (s.line line).state ≠ .training then s
    else
      let nodes := report.nodes.take 4
      let why := trainReason (decide ((s.line line).trainStart + 500 < s.tb.link)) { report with nodes := nodes }
      let s := s.onLine line fun x => { x with
        state := if why = 0 then .enumerated else .failed
        reason := why, found := nodes, maxSegment := min 255 (report.segments.foldl max 0)
        delays := (List.range nodes.length).map fun p =>
          (report.roundTrip.getD p 0 - (nodes.getD p {}).turn) / 2 }
      let s := (List.range 4).foldl (fun x p => x.onNode (4 * line + p) fun y => { y with
        present := why = 0 && decide (p < nodes.length), kind := (nodes.getD p {}).kind % 4 }) s
      let s := s.testLine line
      (s.onHl fun h => { h with opens := h.opens.map (trainWait line nodes.length (why = 0)) }).finishTrain)

/-! ### The node table (R300, R301) -/

def parseNode (d : List Byte) : NodeCfg :=
  { kind := fieldAt d 2 1, joint := fieldAt d 3 1, staleLimit := fieldAt d 4 1, upStaleLimit := fieldAt d 5 1
    serial := fieldAt d 8 8, modelId := fieldAt d 16 4 }

/-- The configured positions of a line have a gap. -/
def gapped (configured : List Bool) : Bool :=
  (List.range 4).any fun p => configured.getD p false && (List.range p).any fun q => !configured.getD q false

/-- A field of JL.NODE_CONFIG out of range (R301). -/
def nodeLimit (d : List Byte) : Bool :=
  let e := parseNode d
  15 < fieldAt d 0 1 || 3 < fieldAt d 1 1 ||
    (e.kind ≠ 0xFF && ((63 < e.joint && e.joint ≠ 0xFF) || e.staleLimit = 0 || 50 < e.staleLimit ||
      e.upStaleLimit = 0 || 8 < e.upStaleLimit))

/-- The ST_BAD_PARAM cases of R301 for node `n`. -/
def State.nodeBad (s : State) (d : List Byte) (n : Nat) : Bool :=
  let e := parseNode d
  let remove := e.kind = 0xFF
  !allZero d 6 2 || !allZero d 20 12 ||
    (!remove && (3 < e.kind || (e.kind ≠ 0 && e.joint ≠ 0xFF) ||
      (e.kind = 0 && (e.joint = 0xFF || (List.range 64).any fun m => m ≠ n &&
        (s.entryOf m).any fun x => x.kind = 0 && x.joint = e.joint)))) ||
    gapped ((lineNodes (n / 4)).map fun m => if m = n then !remove else (s.entryOf m).isSome)

/-- JL_NODE_CONFIG (R301, R304). -/
def execJlNodeConfig (c : Cmd) (s : State) : Out :=
  .next (runCmd 8 2 c s fun s =>
    let d := c.data
    let l := fieldAt d 0 1
    let n := 4 * l + fieldAt d 1 1
    if s.dev.mode ≠ .config then s.complete c stMode
    else if (s.line l).state = .running then s.complete c stBusy
    else if nodeLimit d then s.complete c stLimit
    else if s.nodeBad d n then s.complete c stBadParam
    else
      let e := if fieldAt d 2 1 = 0xFF then none else some (parseNode d)
      ((s.onJl fun j => { j with table := j.table.set n e }).testLine l).complete c stOk)

/-! ### Start and stop (R302 to R304) -/

/-- A found node matches its entry (R302). -/
def matchesEntry (e : Option NodeCfg) (i : NodeIdent) : Bool :=
  e.any fun x => x.kind = i.kind && x.modelId = i.modelId && x.serial = i.serial && x.staleLimit = i.staleLimit

/-- A line may start (R302). -/
def State.lineReady (s : State) (l : Nat) : Bool :=
  (s.line l).state = .configured && (List.range (s.line l).found.length).all fun p =>
    matchesEntry (s.entryOf (4 * l + p)) ((s.line l).found.getD p {})

/-- A line starts: counters and seq start at 0 (R304). -/
def State.startLine (s : State) (l : Nat) : State :=
  (lineNodes l).foldl (fun x n => x.onNode n fun y => { y with
      slotCounter := 0, refCounter := none, staleRun := 0, slot := {}, slotSent := {} })
    (s.onLine l fun x => { x with
      state := .running, seq := 0, missRun := 0, stopping := false, sendWhileDown := false, upDone := false })

/-- JL_START (R302). -/
def execJlStart (c : Cmd) (s : State) : Out :=
  .next (runCmd 8 3 c s fun s =>
    let ls := maskLines (c.word 0)
    if s.dev.mode ≠ .config && s.dev.mode ≠ .test then s.complete c stMode
    else if !ls.all s.lineReady then s.complete c stBadParam
    else if ls = [] then s.complete c stOk
    else ((ls.foldl State.startLine s).wdStart 3).complete c stOk)

/-- A line leaves RUNNING: its nodes give no more samples. -/
def State.muteLine (s : State) (l : Nat) : State :=
  (lineNodes l).foldl (fun x n => x.onNode n fun y => { y with stale := true }) s

/-- JL_STOP (R302, R304). -/
def execJlStop (c : Cmd) (s : State) : Out :=
  .next (runCmd 8 4 c s fun s =>
    if s.running then s.complete c stMode
    else (((maskLines (c.word 0)).filter fun l => (s.line l).state = .running).foldl (fun x l =>
      (x.onLine l fun y => { y with state := .configured, stopping := true }).muteLine l) s).complete c stOk)

/-- Every line holding a node mapped to a model joint, or an IMU node, is RUNNING (R303). -/
def State.linesReady (s : State) : Bool :=
  (List.range 64).all fun n =>
    !((s.jointOf n).isSome || (s.entryOf n).any fun e => e.kind = 1) || (s.line (n / 4)).state = .running

/-! ### Down frames (R285 to R287, R294, R400) -/

/-- The safe-state commands go out in this link (R400). -/
def State.safeNow (s : State) : Bool := s.asz.safe && decide (s.asz.entryLink < s.tb.link)

def State.dampLinks (s : State) : Nat := fieldAt s.asz.params 28 4

/-- The DAMP period has ended (R400). -/
def State.dampOver (s : State) : Bool := decide (s.asz.entryLink + s.dampLinks < s.tb.link)

def State.bodyOf (s : State) (j : Nat) : Body :=
  (s.sol.model.bind fun m => m.moving.find? fun b => b.joint = j).getD {}

/-- Damping of a DAMP slot: K_safe / gear^2, rounded once (R400). -/
def State.dampValue (s : State) (j : Nat) : Nat :=
  let g := decode32 (s.bodyOf j).gear
  encode32 0x7FC00000 (div32 (decode32 (fieldAt s.asz.params (64 + 4 * j) 4)) (mulExact g g))

/-- Torque of a TORQUE slot: joint torque over gear (R334). -/
def State.slotTorque (s : State) (j tau : Nat) : Nat :=
  encode32 0x7FC00000 (div32 (decode32 tau) (decode32 (s.bodyOf j).gear))

/-- The torques of a result that governs this link's down frame (R294). -/
def State.passed (s : State) : Option (List Nat) :=
  match s.asz.verdict with
  | some (l, tau) => if l = s.tb.link then some tau else none
  | none => none

/-- A replay drives the device in this link (R537). -/
def State.replaying (s : State) : Bool :=
  s.dev.mode = .replay && s.recd.replay.any fun p => p.t0 ≤ s.tb.link

/-- The content of a node's slot as computed: the first row of R294 that applies, where REPLAY computes as RUN
does. -/
def State.slotOf (s : State) (n : Nat) : CmdSlot :=
  match s.entryOf n with
  | none => {}
  | some e =>
    if e.kind = 0 && (s.jointOf n).isNone then {}
    else if s.safeNow then
      (match s.jointOf n with
       | some j => if s.dampOver then {} else { mode := 3, damping := s.dampValue j }
       | none => {})
    else if !(s.running || s.replaying) then {}
    else match s.passed, s.jointOf n with
      | some tau, some j => { mode := 1, torque := s.slotTorque j (tau.getD j 0) }
      | _, _ => if s.asz.offUntilPass then {} else { (s.node n).slot with hold := true }

def slotBytes (c : CmdSlot) (counter : Nat) : List Byte :=
  let b := leBytes 4 c.torque ++ leBytes 4 c.qTarget ++ leBytes 4 c.vTarget ++ leBytes 4 c.stiffness ++
    leBytes 4 c.damping ++ leBytes 1 c.mode ++ leBytes 1 (bit01 c.hold) ++ leBytes 2 counter ++ leBytes 4 0
  b ++ leBytes 4 (crc32c b)

/-- Mode code of the down header (R286, log 33). -/
def State.headerMode (s : State) (l : Nat) : Nat :=
  if s.safeNow then 4
  else match (s.line l).state with
    | .training => 0
    | .failed => 0
    | .enumerated => 1
    | .configured => 2
    | .running => 3
    | .down => 3

/-- The link is a mile boundary (R286). -/
def State.onMile (s : State) : Bool := s.tb.mile ≤ s.tb.link && s.phase s.tb.link % 8000 = 0

def State.downHeader (s : State) (l : Nat) : List Byte :=
  let b := leBytes 4 s.tb.link ++ leBytes 1 l ++ leBytes 1 (s.configured l) ++ leBytes 2 (s.line l).seq ++
    leBytes 1 (s.headerMode l) ++ leBytes 1 (bit01 s.safeNow + 2 * bit01 s.onMile) ++ leBytes 2 0
  b ++ leBytes 4 (crc32c b)

/-- The bytes of a down frame behind the comma (R285). -/
def State.downBytes (s : State) (l : Nat) : List Byte :=
  let b := s.downHeader l ++ [3, 2, 1, 0].flatMap fun p =>
    let n := s.node (4 * l + p)
    slotBytes n.slotSent n.slotCounter
  b ++ leBytes 4 (crc32c b)

/-- A line sends a down frame in this link: running, or its last frame after JL.STOP, or down in service. -/
def Line.sends (x : Line) : Bool := x.state = .running || x.stopping || (x.state = .down && x.sendWhileDown)

/-- One line's down frame goes out (R285), through fault injection on joint lines (R538). -/
def State.sendLine (s : State) (l : Nat) : State :=
  let s := (lineNodes l).foldl (fun x n => x.onNode n fun y => { y with
    slotSent := if (s.line l).stopping || s.dev.mode = .replay then {} else y.slot }) s
  let bytes := s.downBytes l
  let (who, s) := s.inject 3 l 0
  let sent := match who with
    | none => bytes
    | some (_, j) => if j.action = 2 then flipBit j.param bytes else []
  let s := s.onLine l fun x => { x with seq := (x.seq + 1) % 65536, stopping := false, downFrame := sent }
  let s := s.onJl fun j => { j with injected := j.injected || who.isSome }
  (lineNodes l).foldl (fun x n => x.onNode n fun y => { y with slotCounter := (y.slotCounter + 1) % 65536 }) s

/-- Joint-side torque of the command computed for each joint in this link (R381, R578). -/
def State.newTauPrev (s : State) (old : List Nat) : List Nat :=
  (List.range 64).map fun j =>
    match (List.range 64).find? fun n => s.jointOf n = some j with
    | none => 0
    | some n =>
      if (s.node n).slot.mode ≠ 1 then 0
      else match s.passed with
        | some tau => tau.getD j 0
        | none => old.getD j 0

/-- A CAPTURE record (R530, R537): the computed slots of the configured nodes. -/
def State.captureSlots (s : State) : State :=
  if !s.replaying then s
  else
    let ns := (List.range 64).filter fun n => (s.entryOf n).isSome
    let body := leBytes 8 ((ns.map fun n => 2 ^ n).sum) ++ leBytes 4 (s.sol.last.getD {}).flags ++ leBytes 4 0 ++
      ns.flatMap fun n => slotBytes (s.node n).slot (s.node n).slotCounter
    s.capture (recordBytes 8 0 s.recd.seq (linkTs s.tb.link) body)

/-- The links whose commands are holds are counted (R335). -/
def State.countHold (s : State) : State :=
  if s.passed.isSome then s.onSol fun x => { x with holdRun := 0 }
  else if s.running && !s.safeNow && !s.asz.offUntilPass then
    s.onSol fun x => { x with holdRun := satInc 255 x.holdRun }
  else s

/-- DOWN_FRAME_SEND (R285, R294, R378, R387): with both pairs halted no frame goes out. -/
def execDownFrameSend (s : State) : Out :=
  .next (
    let s1 := (List.range 64).foldl (fun x n => x.onNode n fun y => { y with slot := s.slotOf n }) s
    let s2 := s1.onAsz fun a => { a with tauPrev := s1.newTauPrev a.tauPrev }
    let s3 := s2.countHold.captureSlots
    let s4 := s3.onAsz fun a => { a with
      verdict := none, offUntilPass := a.offUntilPass && s3.passed.isNone }
    if !s.asz.pairAOk && !s.asz.pairBOk then s4
    else (((List.range 16).filter fun l => (s.line l).sends).foldl State.sendLine s4).kick 3)

/-! ### Up frames (R288 to R296, R305) -/

/-- A node is lost (R296). -/
def State.loseNode (s : State) (n : Nat) : State :=
  let s := (s.onNode n fun y => { y with lost := true }).raiseEvent 1
  if (s.jointOf n).isSome || s.feedsBase n then s.decideSafe 9 else s

/-- A node's slot of this link is stale (R295, R296). -/
def State.staleNode (s : State) (n : Nat) : State :=
  let s := s.onNode n fun y => { y with
    stale := true, staleRun := satInc 255 y.staleRun, staleTotal := satInc 65535 y.staleTotal }
  let limit := ((s.entryOf n).getD {}).upStaleLimit
  if limit ≤ (s.node n).staleRun && !(s.node n).lost then s.loseNode n else s

/-- The stamp of a sample: the TS of its link boundary plus its sample_offset, an int16 (R289). -/
def sampleStamp (link : Nat) (d : List Byte) : Nat :=
  (((linkTs link : Nat) : Int) + signedOf 16 (fieldAt d 42 2)).emod (2 ^ 64) |>.toNat

/-- A node's slot of this link is good (R295, R296). -/
def State.goodNode (s : State) (n : Nat) (d : List Byte) : State :=
  s.onNode n fun y => { y with
    sample := d, stamp := sampleStamp s.tb.link d, stale := false, staleRun := 0, lost := false, selfDamp := bitAt (fieldAt d 38 2) 1 }

/-- One sample slot (R295): with its CRC good its counter becomes the reference. -/
def State.judgeSlot (s : State) (headerOk : Bool) (n : Nat) (d : List Byte) : State :=
  let crcOk := d.length = 48 && fieldAt d 44 4 = crc32c (d.take 44)
  let counter := fieldAt d 40 2
  let counterOk := match (s.node n).refCounter with
    | none => true
    | some (v, l) => counter = (v + (s.tb.link - l)) % 65536
  let good := headerOk && crcOk && bitAt (fieldAt d 38 2) 0 && counterOk
  let s := if crcOk then s.onNode n fun y => { y with refCounter := some (counter, s.tb.link) } else s
  if good then s.goodNode n d else s.staleNode n

/-- An up frame's bytes behind the comma are judged (R288, R295): slots lie in descending position order. -/
def State.judgeFrame (s : State) (l : Nat) (d : List Byte) : State :=
  let k := s.configured l
  let headerOk := fieldAt d 12 4 = crc32c (d.take 12) && decide (16 ≤ d.length)
  let frameOk := fieldAt d (16 + 48 * k) 4 = crc32c (d.take (16 + 48 * k)) && decide (20 + 48 * k ≤ d.length)
  let s := if headerOk && frameOk then s else s.onLine l fun x => { x with frameCrc := satInc 65535 x.frameCrc }
  (List.range k).foldl (fun x i => x.judgeSlot headerOk (4 * l + (k - 1 - i)) ((d.drop (16 + 48 * i)).take 48))
    (s.onLine l fun x => { x with upDone := true })

/-- UP_FRAME_RECEIVE (R288, R295), through fault injection (R538, R539): a frame dropped or held back leaves
its slots to the deadline. -/
def execUpFrameReceive (line : Nat) (bytes : List Byte) (s : State) : Out :=
  .next (if (s.line line).state ≠ .running || (s.line line).upDone || s.replaying then s
    else
      let (who, s) := s.inject 3 line 1
      let s := s.onJl fun j => { j with injected := j.injected || who.isSome }
      match who with
      | none => s.judgeFrame line bytes
      | some (_, j) => if j.action = 2 then s.judgeFrame line (flipBit j.param bytes) else s)

/-- A running line goes down (R305). -/
def State.lineDown (s : State) (l : Nat) : State :=
  (((s.onLine l fun x => { x with state := .down, reason := 4, sendWhileDown := true }).muteLine l).raiseEvent
    8).decideSafe 10

/-- UP_COMMA_WINDOW_CLOSE (R305). -/
def execUpCommaWindowClose (line : Nat) (seen : Bool) (s : State) : Out :=
  .next (if (s.line line).state ≠ .running then s
    else if seen then s.onLine line fun x => { x with missRun := 0 }
    else
      let s := s.onLine line fun x => { x with missRun := x.missRun + 1, commaMiss := satInc 65535 x.commaMiss }
      if 3 < (s.line line).missRun then s.lineDown line else s)

/-- A line whose up frame has not come by 1.80 µs: every configured slot is stale (R295). -/
def State.lateLine (s : State) (l : Nat) : State :=
  ((lineNodes l).filter fun n => (s.entryOf n).isSome).foldl State.staleNode
    (s.onLine l fun x => { x with upDone := true })

/-- UP_FRAME_DEADLINE (R295): in a replay the recorded samples stand, and the lines count as resolved. -/
def execUpFrameDeadline (s : State) : Out :=
  .next (if s.replaying then s.onJl fun j => { j with lines := j.lines.map fun l => { l with upDone := true } }
    else ((List.range 16).filter fun l => (s.line l).state = .running && !(s.line l).upDone).foldl State.lateLine s)

/-- A link begins: no up frame has come yet, and no frame was injected. -/
def State.linesNewLink (s : State) : State :=
  s.onJl fun j => { j with lines := j.lines.map (fun l => { l with upDone := false }), injected := false }

end Sys2Proof.Machine
end

