-- ==== Sys2Proof/Machine/Assize.lean ====
section
/-! DEFINITION. The Assize and the safe state (chapter 15): the checks of a result, disagreements, the lockstep
pairs, the emergency-stop inputs, the safe-state sequence and its release, and the SAFE commands. -/

namespace Sys2Proof.Machine

/-! ### The checks (R379 to R385, R578) -/

/-- ASSIZE_FIRST_PART (R379, R380): from the samples of this link, with the Assize's own copies. -/
def execAssizeFirstPart (s : State) : Out :=
  .next (if s.asz.copyModel = [] || !s.linesResolved then s
    else
      let m := parseModel s.asz.copyModel
      let ls := s.linkState m s.asz.lastQuat
      (s.onAsz fun a => { a with
        firstParts := (s.tb.link, ls) :: a.firstParts.filter fun x => x.1 + 1 = s.tb.link
        lastQuat := if m.floating then ls.quat else a.lastQuat }).bump)

/-- A field of the safety parameters as FP32. -/
def State.param32 (s : State) (o : Nat) : Fp := decode32 (fieldAt s.asz.params o 4)

/-- Check 1 of R381. -/
def originOk (r : Result) : Bool := r.sampleTs = linkTs r.n && (r.qdd ++ r.force ++ r.tau).all finite32

/-- The rows e = M q̈ + h - S^T τ - J_c^T f of a result, with the Assize's own model, contacts and samples and the
hand-off's base velocity and contact mask, by one Newton-Euler pass (R379, R380, R381). -/
def assizeRows (m : Model) (k : Contacts) (r : Result) (x : LinkState) : Vec :=
  let qdd := vec32 r.qdd
  let joints := (qdd.drop m.baseVars).take m.moving.length
  let base := m.baseMotion (zeros 3) (vec32 r.baseVel) (vec32 x.quat) (vec32 x.rate)
  let base := if m.floating then { base with acc := qdd.take 3, alpha := (qdd.drop 3).take 3 } else base
  let ks := m.kin base (vec32 x.q) (vec32 x.qd) joints
  let ps := (k.active r.contactMask).map (k.world ks)
  let need := m.inverseDynamics ks joints (contactForces ps (vec32 r.force))
  (List.range m.nv).map fun v => if v < m.baseVars then need.getD v .zero
    else sub32 (need.getD v .zero) (decode32 (r.tau.getD (m.moving.getD (v - m.baseVars) {}).joint 0))

/-- The scale of row `v`: base_force_scale, base_torque_scale, or the joint's tau_max (R381). -/
def State.rowScale (s : State) (m : Model) (v : Nat) : Fp :=
  if v < m.baseVars then s.param32 (if v < 3 then 16 else 20)
  else decode32 (m.moving.getD (v - m.baseVars) {}).tauMax

/-- Check 2 of R381: the largest |e_i| / s_i is at most dyn_tol. -/
def State.residualOk (s : State) (r : Result) (x : LinkState) : Bool :=
  let m := parseModel s.asz.copyModel
  let e := assizeRows m (parseContacts s.asz.copyContacts) r x
  leFp (maxAbs ((List.range m.nv).map fun v => div32 (e.getD v .zero) (s.rowScale m v))) (s.param32 8)

/-- Check 3 of R381, compared exactly. -/
def State.limitOk (s : State) (m : Model) (r : Result) : Bool :=
  m.moving.all fun b =>
    leFp (absFp (decode32 (r.tau.getD b.joint 0))) (mulExact (decode32 b.tauMax) (addExact .one (s.param32 12)))

/-- Check 4 of R381, compared exactly with the command sent in the previous link. -/
def State.rateOk (s : State) (m : Model) (r : Result) : Bool :=
  m.moving.all fun b =>
    leFp (absFp (subFp (decode32 (r.tau.getD b.joint 0)) (decode32 (s.asz.tauPrev.getD b.joint 0))))
      (decode32 b.tauRate)

/-- Joint power, where it is above 0. -/
def jointPower (tau qd : Nat) : Fp :=
  let p := mulExact (decode32 tau) (decode32 qd)
  if ltFp .zero p then p else .zero

/-- Check 5 of R381, compared exactly. -/
def State.powerOk (s : State) (m : Model) (r : Result) (x : LinkState) : Bool :=
  leFp (((List.range m.moving.length).map fun i =>
    jointPower (r.tau.getD (m.moving.getD i {}).joint 0) (x.qd.getD i 0)).foldl addExact .zero) (s.param32 24)

/-- A result passes (R382): every check, with valid safety parameters (R578). -/
def State.resultPasses (s : State) (r : Result) (x : LinkState) : Bool :=
  let m := parseModel s.asz.copyModel
  s.asz.paramsValid && originOk r && s.residualOk r x && s.limitOk m r && s.rateOk m r && s.powerOk m r x

/-- Modes in which the windows of R385 take a disagreement (R578). -/
def State.windowMode (s : State) : Bool := s.running || s.dev.mode = .replay

/-- A disagreement, stamped with this link (R384, R385). -/
def State.disagree (s : State) : State :=
  let s := (s.onAsz fun a => { a with
    disagreements := satInc 65535 a.disagreements
    disagreeLinks := if s.windowMode then s.tb.link :: s.inWindow 1000 a.disagreeLinks else a.disagreeLinks
    }).sched 6 none none
  let s := if bitAt s.recd.triggers 2 then s.recTrigger true else s
  if !s.windowMode then s
  else
    let s := if 3 ≤ (s.inWindow 100 s.asz.disagreeLinks).length then s.decideSafe 6 else s
    if 10 ≤ (s.inWindow 1000 s.asz.disagreeLinks).length then s.decideSafe 7 else s

/-- ASSIZE_CHECK (R379, R381, R384): its second part ends in link n + 2, whose down frame it governs. -/
def execAssizeCheck (s : State) : Out :=
  .next (match s.asz.check with
    | none => s
    | some r =>
      match s.asz.firstParts.find? fun p => p.1 = r.n with
      | none => s
      | some (_, x) =>
        if r.n + 2 ≠ s.tb.link then s
        else if s.resultPasses r x then
          s.onAsz fun a => { a with check := none, verdict := some (s.tb.link, r.tau) }
        else (s.onAsz fun a => { a with check := none }).disagree)

/-- ASSIZE_DEADLINE_MISS (R383). -/
def execAssizeDeadlineMiss (s : State) : Out :=
  .next (match s.asz.check with
    | none => s
    | some r =>
      if r.n + 2 ≠ s.tb.link then s
      else (s.onAsz fun a => { a with check := none, reloadDue := true }).disagree)

/-- ASSIZE_COPY_CHECK (R380): the bits `flips` of the copies, model then contacts, have turned over; the CRC of the
copies is compared with the one stored at load. -/
def execAssizeCopyCheck (flips : List Nat) (s : State) : Out :=
  let all := flips.foldl (fun bs k => flipBit k bs) (s.asz.copyModel ++ s.asz.copyContacts)
  let t := s.onAsz fun a => { a with
    copyModel := all.take a.copyModel.length, copyContacts := all.drop a.copyModel.length }
  .next (if s.asz.copyModel = [] || crc32c all = s.asz.copyCrc then t else t.decideSafe 22)

/-- ASSIZE_COPY_RELOAD (R383): at a chain boundary, from hub memory. -/
def execAssizeCopyReload (s : State) : Out :=
  .next (if !s.asz.reloadDue || s.phase s.tb.link % 100 ≠ 0 then s
    else s.copyToAssize ((s.sol.model.map (·.raw)).getD []) ((s.sol.contacts.map (·.raw)).getD []))

/-- HOLD_LIMIT_REACHED (R335). -/
def execHoldLimitReached (s : State) : Out :=
  .next (if s.running && !s.asz.safe && s.sol.holdLimit ≤ s.sol.holdRun then s.decideSafe 8 else s)

/-! ### Fault outputs (R400, R405, R568) -/

/-- A fault output: high only in RUN and DEGRADED, outside the safe state, with its pair running. -/
def State.faultPin (s : State) (pairOk : Bool) : Pin :=
  if s.dev.inReset || s.asz.vauxBad then .hiZ
  else if s.running && pairOk && (!s.asz.safe || s.asz.entryPending) then .high
  else .low

def State.safePin (s : State) : Pin :=
  if s.dev.inReset || s.asz.vauxBad then .hiZ
  else if s.running && s.asz.safe && !s.asz.entryPending then .high
  else .low

/-- The three outputs follow the state. -/
def State.driveSafe (s : State) : State :=
  s.onPins fun p => { p with
    faultA := s.faultPin s.asz.pairAOk, faultB := s.faultPin s.asz.pairBOk, safeState := s.safePin }

/-! ### The pairs (R376 to R378) -/

/-- A pair is halted and its FAULT output falls, and its cause arises, also when the other pair has
halted before (log 40). -/
def State.haltPair (s : State) (p : Pair) : State :=
  match p with
  | .a =>
    if !s.asz.pairAOk then s
    else
      ((s.onAsz fun a => { a with pairAOk := false }).driveSafe).decideSafe 13
  | .b =>
    if !s.asz.pairBOk then s
    else
      ((s.onAsz fun a => { a with pairBOk := false }).driveSafe).decideSafe 14

/-- LOCKSTEP_MISMATCH (R376): the comparator halts the pair. -/
def execLockstepMismatch (pair : Pair) (s : State) : Out := .next (s.haltPair pair)

/-- HEARTBEAT_LOSS (R377): the receiving pair, which must run, halts the silent one. -/
def execHeartbeatLoss (pair : Pair) (s : State) : Out :=
  .next (if (match pair with | .a => s.asz.pairBOk | .b => s.asz.pairAOk) then s.haltPair pair else s)

/-! ### Emergency-stop inputs (R394 to R398) -/

/-- A sample of a channel (R394, R395): high is `true`. -/
def Estop.sample (e : Estop) (high : Bool) (link : Nat) : Estop :=
  let changes := (if high = e.raw then e.changes else link :: e.changes).filter fun l => link < l + 100
  { e with
    raw := high, changes := changes, chatter := decide (8 < changes.length)
    lowRun := if high then 0 else min 2 (e.lowRun + 1), highRun := if high then min 2 (e.highRun + 1) else 0 }

/-- What a channel is after the changes that its samples demand. -/
def Estop.demanded (e : Estop) : Bool :=
  (if 2 ≤ e.lowRun then true else if 2 ≤ e.highRun then false else e.asserted) || e.chatter

/-- Runs of R397 and R398, and the clearing of a discrepancy, for this link's samples. -/
def estopRuns (a : Asz) : Asz :=
  let x := a.estopA.demanded
  let y := a.estopB.demanded
  let both := a.bothAsserted || (x && y)
  let cleared := a.discrepancy && both && !x && !y
  let disc := a.discrepancy && !cleared
  let clear := !x && !y && !disc
  { a with
    differRun := if x = y then 0 else a.differRun + 1
    bothAsserted := a.discrepancy && both && !cleared, discrepancy := disc
    clearRun := if clear then satInc 65535 a.clearRun else 0, estopClear := a.estopClear && clear }

/-- A channel that begins to chatter reads as asserted (R395, R396). -/
def State.chatterCauses (s : State) (before after : Estop) (c : Nat) : State :=
  let s := if after.chatter && !before.active then s.decideSafe c else s
  if after.chatter && !before.chatter then s.decideSafe 5 else s

/-- Both pairs sample both channels at a link boundary (R394). -/
def State.sampleEstops (s : State) (highA highB : Bool) : State :=
  let a := s.asz.estopA
  let b := s.asz.estopB
  let s := s.onAsz fun z => estopRuns { z with estopA := a.sample highA s.tb.link, estopB := b.sample highB s.tb.link }
  (s.chatterCauses a s.asz.estopA 2).chatterCauses b s.asz.estopB 3

/-- ESTOP_CHANNEL_ASSERT (R394, R396). -/
def execEstopChannelAssert (ch : Pair) (s : State) : Out :=
  .next (match ch with
    | .a =>
      if s.asz.estopA.lowRun < 2 || s.asz.estopA.asserted then s
      else
        let t := s.onAsz fun a => { a with estopA := { a.estopA with asserted := true } }
        if s.asz.estopA.chatter then t else t.decideSafe 2
    | .b =>
      if s.asz.estopB.lowRun < 2 || s.asz.estopB.asserted then s
      else
        let t := s.onAsz fun a => { a with estopB := { a.estopB with asserted := true } }
        if s.asz.estopB.chatter then t else t.decideSafe 3)

/-- ESTOP_CHANNEL_DEASSERT (R394). -/
def execEstopChannelDeassert (ch : Pair) (s : State) : Out :=
  .next (match ch with
    | .a => if s.asz.estopA.highRun < 2 then s
      else s.onAsz fun a => { a with estopA := { a.estopA with asserted := false } }
    | .b => if s.asz.estopB.highRun < 2 then s
      else s.onAsz fun a => { a with estopB := { a.estopB with asserted := false } })

/-- ESTOP_DISCREPANCY (R397): more than 100 links. -/
def execEstopDiscrepancy (s : State) : Out :=
  .next (if s.asz.differRun ≤ 100 || s.asz.discrepancy then s
    else ((s.onAsz fun a => { a with
      discrepancy := true, bothAsserted := false, clearRun := 0, estopClear := false }).raiseEvent 1).decideSafe 4)

/-- ESTOP_CLEAR (R398). -/
def execEstopClear (s : State) : Out :=
  .next (if s.asz.clearRun < 1000 then s else s.onAsz fun a => { a with estopClear := true })

/-! ### The safe state (R399 to R405) -/

/-- The safe-state frame (R400 item 5, R466) into the reserved buffer 31. -/
def safeElement (canId cause link : Nat) : List Byte :=
  let idw := if bitAt canId 31 then canId % 2 ^ 29 + 2 ^ 29 else canId % 2 ^ 11
  leBytes 4 idw ++ leBytes 4 8 ++ leBytes 1 cause ++ leBytes 1 0 ++ leBytes 4 link ++ leBytes 2 0 ++ leBytes 56 0

def State.broadcast (s : State) : State :=
  let k := s.canCtrl
  if 3 < k then s
  else
    let x := s.canAt k
    if x.mode ≠ 1 || x.errState = 2 then s.onCan k fun y => { y with safeSkipped := true }
    else s.onCan k fun y => { y with
      tx := y.tx.set 31 { elem := safeElement (fieldAt s.asz.params 4 4) s.asz.firstCause s.asz.entryLink
                          pending := true } }

/-- SAFE_STATE_ENTRY (R400): fault outputs, broadcast and vector 1. -/
def execSafeStateEntry (s : State) : Out :=
  .next (if !s.asz.entryPending then s
    else ((s.onAsz fun a => { a with entryPending := false }).driveSafe.broadcast).raiseEvent 1)

/-- TORQUE_OFF_PHASE_START (R400). -/
def execTorqueOffPhaseStart (s : State) : Out :=
  .next (if s.asz.safe && s.dampOver then s.onAsz fun a => { a with torqueOff := true } else s)

/-- The ring die number of the die that holds P0 (R39, R344). -/
def State.p0Ring (s : State) : Nat :=
  ((List.range 4).find? fun d => s.p0Mask / 2 ^ (16 * d) % 2 ^ 16 ≠ 0).getD 0 + 1

/-- Segments of the route between HD and the die that holds P0 (R39, R59). -/
def State.p0Segs (s : State) : List Nat :=
  match s.p0Ring with
  | 1 => [0]
  | 2 => [0, 1]
  | 3 => [4, 3]
  | _ => [4]

/-- A node that is mapped to a model joint or feeds the base state is lost (R399). -/
def State.mappedLost (s : State) : Bool :=
  (List.range 64).any fun n => (s.node n).lost && ((s.jointOf n).isSome || s.feedsBase n)

/-- A cause has been cleared, as R399 asks. -/
def State.causeCleared (s : State) (c : Nat) : Bool :=
  !startOnly c &&
  (if c = 2 || c = 3 || c = 5 then s.asz.estopClear
   else if c = 4 then !s.asz.discrepancy
   else if c = 9 then !s.mappedLost
   else if c = 10 then s.linesReady
   else if c = 12 then s.asz.p0ReleasedSince
   else if c = 16 then s.p0Segs.all fun g => (s.seg g).fwd.up && (s.seg g).rev.up && !(s.seg g).retraining
   else true)

/-- The conditions of a release (R402). -/
def State.mayRelease (s : State) : Bool :=
  s.asz.torqueOff && ((List.range 24).all fun c => !bitAt s.asz.causes c || s.causeCleared c) &&
    s.sol.state = .running && s.linesReady

/-- The safe state ends (R402, R404). -/
def State.endSafe (s : State) : State :=
  ((s.onAsz fun a => { a with
    safe := false, torqueOff := false, entryPending := false, firstCause := 0, causes := 0, releaseAt := none
    releaseCancelled := false }).driveSafe).finish (· = .safeRelease) stOk

/-- SAFE_RELEASE_EFFECT (R402). -/
def execSafeReleaseEffect (s : State) : Out :=
  .next (match s.asz.releaseAt with
    | none => s
    | some l =>
      if s.tb.link < l then s
      else if s.asz.releaseCancelled then
        (s.onAsz fun a => { a with releaseAt := none, releaseCancelled := false }).finish (· = .safeRelease) stSafeState
      else (s.onAsz fun a => { a with disagreeLinks := [], offUntilPass := true }).onSol
        (fun x => { x with holdRun := 0 }) |>.endSafe)

/-- CLOCK_FAULT (R403). -/
def execClockFault (s : State) : Out :=
  .next ((s.onTb fun t => { t with clockInternal := true }).decideSafe 19)

/-- Setpoint of a regulator code, in microvolts (R557). -/
def setpoint (code : Nat) : Nat := [780000, 700000, 620000, 550000].getD code 0
/-- A range from a share below the lower of two voltages to the share above the higher, the share in hundredths. -/
def rangeAbout (lo hi share : Nat) : Nat × Nat := (lo * (100 - share) / 100, hi * (100 + share) / 100)

/-- Window of a VCORE rail: its setpoint +-6 %, and for 10 links after each change of the code from 6 % below the
lower to 6 % above the higher of the old and new setpoints (R557, R558). -/
def State.vcoreWindow (s : State) (d : Nat) : Nat × Nat :=
  let now := s.pins.vcoreSel.getD d 0
  let late := (s.pwr.selChanges.getD d []).filter fun c => s.tb.link < c.2.2 + 10
  let points := setpoint now :: late.flatMap fun c => [setpoint c.1, setpoint c.2.1]
  rangeAbout (points.foldl min (setpoint now)) (points.foldl max 0) 6

/-- Monitored windows of a rail in microvolts (R557), rails numbered in the order of its table: 0 to 3 VCORE0 to
VCORE3, 4 VHUB, 5 VSRAM, 6 to 9 VDRAM0 to VDRAM3, 10 VPP, 11 VPHY09, 12 VPHY12, 13 VIO, 14 VIO_CAN, 15 VAUX. -/
def State.railWindows (s : State) (rail : Nat) : List (Nat × Nat) :=
  if rail < 4 then [s.vcoreWindow rail]
  else if rail = 4 then [rangeAbout 750000 750000 6]
  else if rail = 5 then [rangeAbout 800000 800000 6]
  else if rail < 10 then [rangeAbout 1100000 1100000 6]
  else if rail = 11 then [rangeAbout 900000 900000 6]
  else if rail = 12 then [rangeAbout 1200000 1200000 6]
  else if rail = 14 then [rangeAbout 1800000 1800000 8, rangeAbout 3300000 3300000 8]
  else if rail = 15 then [rangeAbout 3300000 3300000 8]
  else [rangeAbout 1800000 1800000 8]

/-- A sample of a rail lies in its window. -/
def State.railGood (s : State) (rail sample : Nat) : Bool :=
  (s.railWindows rail).any fun w => decide (w.1 ≤ sample) && decide (sample ≤ w.2)

/-- SUPPLY_FAULT (R403, R557, R558): two consecutive samples of a rail in microvolts, the later one last; a VCORE is
watched only while its die is in service. VAUX outside its window leaves the fault outputs undriven (R568). -/
def execSupplyFault (x : RailSamples) (s : State) : Out :=
  .next (if x.rail < 4 && !(s.dramAt x.rail).inService then s
    else
      let s := if x.rail = 15 then (s.onAsz fun a => { a with vauxBad := !s.railGood 15 x.second }).driveSafe else s
      if s.railGood x.rail x.first || s.railGood x.rail x.second then s else (s.decideSafe 20).driveSafe)

/-- SAFETY_PARAMS_LOST (R407). -/
def execSafetyParamsLost (s : State) : Out :=
  let t := s.onAsz fun a => { a with paramsValid := false }
  .next (if s.running then t.decideSafe 23 else t)

/-! ### SAFE commands (R402, R406 to R408) -/

def wdField (d : List Byte) (w i : Nat) : Nat := fieldAt d (320 + 8 * w + 2 * i) 2

/-- Step 2 of R407. -/
def paramsReserved (d : List Byte) : Bool :=
  let id := fieldAt d 4 4
  fieldAt d 0 1 ≠ 1 || !allZero d 2 2 || !allZero d 44 20 ||
    (if bitAt id 31 then bitsOf id 30 29 ≠ 0 else bitsOf id 30 11 ≠ 0) ||
    (List.range 16).any (fun w => !allZero d (320 + 8 * w) 8) ||
    (List.range 64).any (fun w => wdField d w 0 = 0 && !allZero d (322 + 8 * w) 6) ||
    !allFinite (vecAt d 8 5 ++ vecAt d 64 64)

/-- Step 3 of R407. -/
def paramsLimit (d : List Byte) : Bool :=
  let ctrl := fieldAt d 1 1
  let f (o : Nat) : Fp := decode32 (fieldAt d o 4)
  (3 < ctrl && ctrl ≠ 0xFF) || !positive32 (fieldAt d 8 4) || !leFp (f 8) (.fin false 1 (-1)) ||
    !nonneg32 (fieldAt d 12 4) || !leFp (f 12) (decode32 0x3D4CCCCD) || !positive32 (fieldAt d 16 4) ||
    !positive32 (fieldAt d 20 4) || !positive32 (fieldAt d 24 4) || fieldAt d 28 4 < 50000 ||
    1000000 < fieldAt d 28 4 || 98 < fieldAt d 40 2 || fieldAt d 42 2 ≤ fieldAt d 40 2 || 100 < fieldAt d 42 2 ||
    (List.range 64).any (fun j => !nonneg32 (fieldAt d (64 + 4 * j) 4)) ||
    (List.range 64).any fun w => wdField d w 0 ≠ 0 && wdField d w 0 ≤ wdField d w 1

/-- Step 4 of R407. -/
def paramsEntryBad (d : List Byte) : Bool :=
  (List.range 64).any fun w =>
    (wdField d w 0 ≠ 0 && !(wdField d w 2 < wdField d w 3 && wdField d w 3 ≤ wdField d w 0)) ||
      (4 ≤ w && bitAt (fieldAt d 32 8) w && wdField d w 0 = 0)

/-- The tests of a parameter block in order (R407): also used on the configuration record. -/
def paramsStatus (d : List Byte) : Nat :=
  if paramsReserved d then stBadParam
  else if paramsLimit d then stLimit
  else if paramsEntryBad d then stBadParam
  else stOk

/-- SAFE_CONFIG (R407). -/
def execSafeConfig (c : Cmd) (s : State) : Out :=
  .next (runCmd 0xA 1 c s fun s =>
    if s.dev.mode ≠ .config then s.complete c stMode
    else if paramsStatus c.data ≠ stOk then s.complete c (paramsStatus c.data)
    else (s.onAsz fun a => { a with params := c.data, paramsValid := true }).complete c stOk)

/-- SAFE_TRIP (R408). -/
def execSafeTrip (c : Cmd) (s : State) : Out :=
  .next (runCmd 0xA 2 c s fun s =>
    if s.running then (s.decideSafe 1).complete c stOk else s.complete c stMode)

/-- SAFE_RELEASE (R402): completes at the boundary at which it takes effect or is cancelled. -/
def execSafeRelease (c : Cmd) (s : State) : Out :=
  .next (runCmd 0xA 3 c s fun s =>
    if !s.asz.safe then s.complete c stOk
    else if !s.mayRelease then s.complete c stSafeState
    else (s.onAsz fun a => { a with releaseAt := some (a.releaseAt.getD (s.tb.link + 1)) }).await c .safeRelease)

/-- SAFE_QUERY (R408). -/
def execSafeQuery (c : Cmd) (s : State) : Out :=
  .next (runCmd 0xA 4 c s fun s =>
    s.complete c stOk (s.aszStatus + 2 ^ 32 * s.asz.causes) s.asz.entryLink (s.aszEstop + 2 ^ 32 * s.aszCounts))

end Sys2Proof.Machine
end

