-- ==== Sys2Proof/Machine/Pipe.lean ====
section
/-! DEFINITION. The ten stages of an intake pipe (R270): from the payload bytes of a frame to the tensor. Pixel
packing inside CSI-2 lines follows MIPI CSI-2 (PRESUMED 35). -/

namespace Sys2Proof.Machine

/-! ### Formats (R261) -/

inductive PixKind where
  | raw (bits : Nat)
  | yuv
  | rgb
  | depth
deriving DecidableEq, Repr

/-- Kind of an image data type; none for embedded data and types not accepted. -/
def pixKind (dt : Nat) : Option PixKind :=
  if dt = 0x1E then some .yuv
  else if dt = 0x24 then some .rgb
  else if dt = 0x2A then some (.raw 8)
  else if dt = 0x2B then some (.raw 10)
  else if dt = 0x2C then some (.raw 12)
  else if dt = 0x2D then some (.raw 14)
  else if dt = 0x2E then some (.raw 16)
  else if 0x30 ≤ dt && dt ≤ 0x37 then some .depth
  else none

/-- Data types that a port accepts (R261). -/
def dtAccepted (dt : Nat) : Bool := dt = 0x12 || (pixKind dt).isSome

/-- Line bytes for a width, and the width constraint (R261). -/
def PixKind.lineBytes (k : PixKind) (w : Nat) : Nat :=
  match k with
  | .raw bits => bits * w / 8
  | .yuv => 2 * w
  | .rgb => 3 * w
  | .depth => 2 * w

def PixKind.widthOk (k : PixKind) (w : Nat) : Bool :=
  match k with
  | .raw bits => if bits = 10 || bits = 14 then w % 4 = 0 else if bits = 12 then w % 2 = 0 else true
  | .yuv => w % 2 = 0
  | _ => true

/-! ### Stage 1: unpack -/

/-- Component `c` of pixel `x` in a line's bytes: codes to unsigned integers. -/
def unpack (k : PixKind) (line : List Byte) (x c : Nat) : Nat :=
  let b (i : Nat) : Nat := fieldAt line i 1
  match k with
  | .raw bits =>
    if bits = 8 then b x
    else if bits = 10 then b (x / 4 * 5 + x % 4) * 4 + b (x / 4 * 5 + 4) / 4 ^ (x % 4) % 4
    else if bits = 12 then b (x / 2 * 3 + x % 2) * 16 + b (x / 2 * 3 + 2) / 16 ^ (x % 2) % 16
    else if bits = 14 then b (x / 4 * 7 + x % 4) * 64 + fieldAt line (x / 4 * 7 + 4) 3 / 64 ^ (x % 4) % 64
    else fieldAt line (2 * x) 2
  | .depth => fieldAt line (2 * x) 2
  | .yuv => if c = 0 then b (2 * x + 1) else if c = 1 then b (x / 2 * 4) else b (x / 2 * 4 + 2)
  | .rgb => b (3 * x + (2 - c))

/-! ### Stages 2 and 3: black level, demosaic -/

/-- A frame as the pipe reads it: kind, width, height, bytes of a line, payload of the image lines. -/
structure Image where
  kind : PixKind := .raw 8
  w : Nat := 0
  h : Nat := 0
  line : Nat := 0
  payload : List Byte := []
deriving DecidableEq, Repr

def Image.isRaw (m : Image) : Bool :=
  match m.kind with
  | .raw _ => true
  | _ => false

/-- Input channels. -/
def Image.inChannels (m : Image) : Nat :=
  match m.kind with
  | .yuv => 3
  | .rgb => 3
  | _ => 1

/-- black[i] of a profile. -/
def Profile.black (p : Profile) (i : Nat) : Nat := fieldAt p.raw (8 + 2 * i) 2

/-- Component `c` of pixel (x, y) after the black level: an integer. -/
def Image.level (m : Image) (p : Profile) (c x y : Nat) : Nat :=
  let v := unpack m.kind ((m.payload.drop (y * m.line)).take m.line) x c
  v - p.black (if m.isRaw then 2 * (y % 2) + x % 2 else 0)

/-- Colour of a Bayer site: 0 red, 1 green, 2 blue, for the patterns RGGB, GRBG, GBRG, BGGR. -/
def bayer (pattern x y : Nat) : Nat :=
  let ph := 2 * (y % 2) + x % 2
  (match pattern with
   | 1 => [0, 1, 1, 2]
   | 2 => [1, 0, 2, 1]
   | 3 => [1, 2, 0, 1]
   | _ => [2, 1, 1, 0]).getD ph 0

/-- Neighbours of a site at offsets (dx, dy) - 1, with the edges replicated. -/
def clampAdd (v d top : Nat) : Nat := min (v + d - 1) (top - 1)

/-- Colour `c` at a site by bilinear interpolation over its 3 x 3 neighbourhood: the mean of the neighbours of
that colour. -/
def Image.demosaic (m : Image) (p : Profile) (c x y : Nat) : Fp :=
  if bayer p.demosaic x y = c then .fin false (m.level p 0 x y) 0
  else
    let sites := ([0, 1, 2].flatMap fun dy => [0, 1, 2].map fun dx => (dx, dy)).filter fun d =>
      bayer p.demosaic (x + d.1 + 1) (y + d.2 + 1) = c
    let total := (sites.map fun d => m.level p 0 (clampAdd x d.1 m.w) (clampAdd y d.2 m.h)).sum
    .fin false total (-(Nat.log2 sites.length : Int))

/-- Component `c` of pixel (x, y) after stage 3. -/
def Image.pixel (m : Image) (p : Profile) (c x y : Nat) : Fp :=
  if p.demosaic = 0 then .fin false (m.level p c x y) 0 else m.demosaic p c x y

/-! ### Stages 4 to 8 -/

def Profile.fp (p : Profile) (o i : Nat) : Fp := decode32 (fieldAt p.raw (o + 4 * i) 4)

/-- Row `c` of M v + o, each operation rounded, in row order; only with three channels. -/
def Image.colour (m : Image) (p : Profile) (c x y : Nat) : Fp :=
  if p.channels ≠ 3 then m.pixel p c x y
  else
    let t (i : Nat) : Fp := mul32 (p.fp 16 (3 * c + i)) (m.pixel p i x y)
    add32 (add32 (add32 (t 0) (t 1)) (t 2)) (p.fp 52 c)

/-- The input positions that an output position covers in one direction, with their coverage; the coverages sum to
`w` (area, R270 stage 5). -/
def areaTaps (w rw x : Nat) : List (Nat × Nat) :=
  (List.range (((x + 1) * w - 1) / rw - x * w / rw + 1)).map fun k =>
    let i := x * w / rw + k
    (i, min ((i + 1) * rw) ((x + 1) * w) - max (i * rw) (x * w))

/-- The two input positions beside the source coordinate (x + 0.5) w / rw - 0.5, clamped to the edges, with their
weights, which sum to 2 rw (bilinear, R270 stage 5). -/
def bilinearTaps (w rw x : Nat) : List (Nat × Nat) :=
  let n := min ((2 * x + 1) * w - rw) (2 * rw * (w - 1))
  let i := n / (2 * rw)
  let f := n % (2 * rw)
  [(i, 2 * rw - f), (min (i + 1) (w - 1), f)]

/-- A weighted mean in FP32. R270 orders neither its roundings nor its divisions: where every partial result is exact
the mean is exact, an infinity or a NaN among the values is the sum's, and else the value is free (DESIGN CHOICE 31). -/
def weightedMean (seed : List Nat) (nan total : Nat) (taps : List (Nat × Fp)) : Fp :=
  let live := taps.filter fun t => t.1 ≠ 0
  let g := live.foldl (fun a t => Nat.gcd a t.1) total
  let d := total / g
  let us := (live.map fun t => t.2.units).filter fun u => u.2 ≠ 0
  let low := us.foldl (fun a u => min a u.1) ((us.headD (0, 0)).1)
  let size := (us.map fun u => u.2 * 2 ^ (u.1 - low).toNat).sum
  match live.foldl (fun a t => addExact a (mulExact (.fin false (t.1 / g) 0) t.2)) (.fin true 0 0) with
  | .fin neg m e =>
    if d = 2 ^ Nat.log2 d && decide (d * size ≤ 2 ^ 24) && decide (-149 ≤ low - (Nat.log2 d : Int)) then
      .fin neg m (e - Nat.log2 d)
    else decode32 (Config.resized (seed ++ live.map fun t => t.1) (live.map fun t => encode32 nan t.2) % 2 ^ 32)
  | x => x

/-- Component of the resized image. -/
def Image.resized (m : Image) (p : Profile) (nan : Nat) (c x y : Nat) : Fp :=
  let taps := if p.resize = 0 then areaTaps else bilinearTaps
  let total := if p.resize = 0 then m.w * m.h else 4 * p.rw * p.rh
  weightedMean [p.resize, total] nan total ((taps m.h p.rh y).flatMap fun j =>
    (taps m.w p.rw x).map fun i => (i.2 * j.2, m.colour p c i.1 j.1))

/-- Normalise, then quantise with out_scale_inv = 1.0: the code of channel `c` at (x, y) of the crop. -/
def Image.code (m : Image) (p : Profile) (nan : Nat) (c x y : Nat) : Nat :=
  let v := m.resized p nan c (p.cx + x) (p.cy + y)
  (convertTo p.ofmt p.outZp nan (add32 (mul32 v (p.fp 76 c)) (p.fp 88 c))).1

/-! ### Stages 9 and 10: layout -/

/-- Channels of a block (R244). -/
def Profile.block (p : Profile) : Nat := if p.layout = 0 then 16 else 32
def Profile.blocks (p : Profile) : Nat := ceilDiv p.channels p.block
/-- Bytes of an element. -/
def Profile.elem (p : Profile) : Nat := if p.ofmt = 7 then 2 else 1
/-- Bytes of the tensor (R270). -/
def Profile.tensorBytes (p : Profile) : Nat := p.blocks * p.ch * p.cw * p.block * p.elem

/-- The tensor's bytes: [1][C/B][ch][cw][B], padding channels at the encoding of zero (R244, R245). -/
def Image.tensor (m : Image) (p : Profile) (nan : Nat) : List Byte :=
  let pad := if p.ofmt = 4 then p.outZp else 0
  (List.range p.blocks).flatMap fun k => (List.range p.ch).flatMap fun y => (List.range p.cw).flatMap fun x =>
    (List.range p.block).flatMap fun b =>
      let c := k * p.block + b
      leBytes p.elem (if c < p.channels then m.code p nan c x y else pad)

/-- Every `scale`-th row and column of a tensor, with all channel blocks (R532). -/
def thinTensor (p : Profile) (scale : Nat) (t : List Byte) : List Byte :=
  let cell := p.block * p.elem
  (List.range p.blocks).flatMap fun k =>
    ((List.range p.ch).filter fun y => y % scale = 0).flatMap fun y =>
      ((List.range p.cw).filter fun x => x % scale = 0).flatMap fun x =>
        (t.drop (((k * p.ch + y) * p.cw + x) * cell)).take cell

end Sys2Proof.Machine
end

