-- ==== Sys2Proof/Machine/Recorder.lean ====
section
/-! DEFINITION. The recorder's commands (chapter 22): the ring's setup, the freeze and the flash copy, and the
export, which starts only inside BGD windows. -/

namespace Sys2Proof.Machine

/-! ### REC.CONFIG (R533) -/

/-- Ring size in MiB of a REC.CONFIG block. -/
def recMib (d : List Byte) : Nat := if fieldAt d 4 4 = 0 then 4096 else fieldAt d 4 4

/-- A value of the block is out of its range. -/
def recLimit (d : List Byte) : Bool :=
  3 < fieldAt d 0 1 || ([1, 2, 4, 8].contains (fieldAt d 2 1) = false) || recMib d < 256 || 8192 < recMib d ||
    recMib d % 256 ≠ 0 || 2500000 < fieldAt d 8 4

/-- A reserved bit or byte of the block is set. -/
def recReserved (d : List Byte) : Bool :=
  !onlyBits 0x1F (fieldAt d 1 1) || !onlyBits 0xF (fieldAt d 3 1) || !allZero d 12 20

/-- The ring in force has this die and size. -/
def Rec.hasRing (r : Rec) (die mib : Nat) : Bool := r.state ≠ .stopped && r.die = die && r.ringMib = mib

/-- A place for the ring: the one in force where it stays, else in the DRAM of its die, without the old ring. -/
def State.placeRing (s : State) (die mib : Nat) : Option Nat :=
  if s.recd.hasRing die mib then some s.recd.ringBase
  else if !(s.dramAt die).inService then none
  else (if s.recd.state = .stopped then s else s.dropAlloc s.recd.ringBase).placeDram die (mib * 2 ^ 20) 64 0

/-- The ring takes its place, is cleared and records (R533). -/
def State.startRing (s : State) (d : List Byte) (base : Nat) : State :=
  let die := fieldAt d 0 1
  let mib := recMib d
  let s := if s.recd.hasRing die mib then s
    else (if s.recd.state = .stopped then s else s.dropAlloc s.recd.ringBase).addAlloc
      { base := base, size := mib * 2 ^ 20, firmware := true }
  (s.onRec fun r => { r with
    state := .recording, die := die, ringMib := mib, kinds := fieldAt d 1 1, scale := fieldAt d 2 1
    triggers := fieldAt d 3 1, postLinks := fieldAt d 8 4, ringBase := base, records := [], buffer := [], ringPos := 0, seq := 0
    lostNow := 0, lost := 0, freezeAt := none, firstTrigger := 0, safetyTrigger := false }).bump

/-- REC_CONFIG (R533). -/
def execRecConfig (c : Cmd) (s : State) : Out :=
  .next (runCmd 0xD 1 c s fun s =>
    let die := fieldAt c.data 0 1
    let mib := recMib c.data
    if s.dev.mode = .replay || (s.dev.mode ≠ .config && !s.recd.hasRing die mib) then s.complete c stMode
    else if recLimit c.data then s.complete c stLimit
    else if recReserved c.data then s.complete c stBadParam
    else match s.placeRing die mib with
      | none => s.complete c stNoMemory
      | some base => (s.startRing c.data base).complete c stOk)

/-! ### The ring in DRAM (R529) -/

/-- A run of bytes goes to the ring on VC2; a die that no longer answers drops it. -/
def State.ringWrite (s : State) (a : Nat) (bytes : List Byte) : State :=
  if bytes = [] || s.dramDead a then s
  else ((s.dramWrite a bytes []).2).carryWrite .bulk 0 0xFE a bytes

/-- The staging buffer drains as a link ends: its records go on behind the last ones, and from the ring's end to its
beginning (DESIGN CHOICE 66). A stack in self-refresh takes none (R174). -/
def State.drainRecorder (s : State) : State :=
  let r := s.recd
  if r.buffer = [] || (s.dramAt r.die).selfRefresh then s
  else
    let size := r.ringMib * 2 ^ 20
    let room := size - r.ringPos
    ((s.ringWrite (r.ringBase + r.ringPos) (r.buffer.take room)).ringWrite r.ringBase (r.buffer.drop room)).onRec
      fun x => { x with buffer := [], ringPos := (r.ringPos + r.buffer.length) % size }

/-! ### Freeze and flash copy (R534 to R536) -/

/-- LINK_COUNT of a recorded time stamp, which holds its low 48 bits (R13). -/
def State.linkOfTs (s : State) (ts : Nat) : Nat :=
  s.tb.link - (s.tb.link + 2 ^ 48 - ts / 65536 % 2 ^ 48) % 2 ^ 48

def recordTs (r : List Byte) : Nat := fieldAt r 8 8

/-- Export header (R536) over the given records. -/
def State.exportHeader (s : State) (rs : List (List Byte)) : List Byte :=
  leBytes 4 0x43525755 ++ leBytes 4 1 ++ leBytes 8 s.recd.mile ++ leBytes 8 s.recd.firstTrigger ++
    leBytes 8 (s.linkOfTs (recordTs (rs.headD []))) ++ leBytes 8 (s.linkOfTs (recordTs (rs.getLastD []))) ++
    leBytes 8 (recordsLen rs) ++ leBytes 8 s.recd.lost ++ leBytes 8 s.recd.kinds

/-- Bytes of the export scratch (R475): the flash holds at least 256 MiB. -/
def scratchBytes : Nat := 0x10000000 - 0x0C100000 + Config.extraFlash

/-- RECORDER_FREEZE (R534, R535): the post-trigger count has ended. -/
def execRecorderFreeze (s : State) : Out :=
  .next (if s.recd.state ≠ .post || !(s.recd.freezeAt.any fun l => l ≤ s.tb.link) then s
    else
      let s := s.onRec fun r => { r with state := .frozen, freezeAt := none, mile := s.tb.mile }
      let kept := trimRecords (scratchBytes - 64) s.recd.records
      (s.onRec fun r => { r with
        flashCopy := if r.safetyTrigger then s.exportHeader kept ++ kept.flatten else r.flashCopy }).finish
          (· = .recFreeze) stOk)

/-- REC_FREEZE (R534): a trigger; it completes once the ring is frozen. -/
def execRecFreeze (c : Cmd) (s : State) : Out :=
  .next (runCmd 0xD 2 c s fun s =>
    match s.recd.state with
    | .stopped => s.complete c stBusy
    | .frozen => (s.recTrigger false).complete c stOk
    | _ => (s.recTrigger false).await c .recFreeze)

/-! ### Export (R349, R536) -/

/-- The bytes that REC.EXPORT writes. -/
def State.exportBytes (s : State) (flash : Bool) : List Byte :=
  if flash then s.recd.flashCopy else s.exportHeader s.recd.records ++ s.recd.records.flatten

/-- A BGD window is open: transfers may start (R349). -/
def State.bgdOpen (s : State) : Bool := s.tb.link < s.sch.bgdUntil && s.hl.linkUp

/-- One waiting export runs: engine 6 writes it to host memory, a ring's bytes crossing the package ring (R48, R444). A ring on a die that no longer answers reads as
poisoned data (R145, R173). -/
def State.runExport (s : State) (o : Open) : State :=
  match o.wait with
  | .recExport a n flash =>
    let s := s.onHl fun h => { h with opens := h.opens.erase o }
    if !flash && s.dramDead s.recd.ringBase then s.complete o.cmd stMemPoison
    else
      let bytes := (s.exportBytes flash).take n
      let s := if flash then s else s.carryRead .bulk 0 0xFE s.recd.ringBase bytes
      ((s.write a bytes).hostRequest 6 true a bytes.length).complete o.cmd stOk n
  | _ => s

/-- Waiting exports run while a window is open. -/
def State.runExports (s : State) : State :=
  if !s.bgdOpen then s
  else (s.hl.opens.filter fun o => match o.wait with | .recExport _ _ _ => true | _ => false).foldl State.runExport s

/-- REC_EXPORT (R536). -/
def execRecExport (c : Cmd) (s : State) : Out :=
  .next (runCmd 0xD 3 c s fun s =>
    let flash := bitAt (c.word 3) 0
    let n := (s.exportBytes flash).length
    if (if flash then s.recd.flashCopy = [] else s.recd.state ≠ .frozen) then s.complete c stBusy
    else if c.word 2 < n then s.complete c stLimit
    else if !inHost (c.addr 0) n then s.complete c stBadParam
    else (s.await c (.recExport (c.addr 0) n flash)).runExports)

end Sys2Proof.Machine
end

