-- ==== Sys2Proof/Machine/Kv.lean ====
section
/-! DEFINITION. Meanings of the KV rows (chapter 08): pools, sequences, forks, write resolution with
copy-on-write and victims, swap transfers, compaction, queries, and the agent's LOOKUP. -/

namespace Sys2Proof.Machine

/-! ### Pools (R203, R204) -/

/-- A KV.POOL_CREATE block (R203). -/
def parsePool (d : List Byte) : Pool :=
  { id := fieldAt d 0 1, fmt := fieldAt d 1 1, dieMask := fieldAt d 2 1, heads := fieldAt d 3 1
    hd16 := fieldAt d 4 1, frameKib := fieldAt d 5 1, layers := fieldAt d 6 2
    framesPerDie := fieldAt d 8 4, entriesPerDie := fieldAt d 12 4 }

/-- A field of the block is out of range, or the frame is too small (R204). -/
def poolBad (p : Pool) : Bool :=
  p.id = 0 || 63 < p.id || (p.fmt ≠ 5 && p.fmt ≠ 7) || p.dieMask = 0 || 15 < p.dieMask ||
  p.heads = 0 || 16 < p.heads || p.hd16 = 0 || 16 < p.hd16 || p.frameKib < 2 || 64 < p.frameKib ||
  p.layers = 0 || 256 < p.layers || p.framesPerDie = 0 || tableEntries < p.framesPerDie ||
  p.entriesPerDie < p.framesPerDie || tableEntries < p.entriesPerDie ||
  p.frameBytes < p.heads * 2 * p.page

/-- Entries of all pools on a die (R204). -/
def State.entriesUsed (s : State) (d : Nat) : Nat :=
  ((s.kv.pools.filter fun p => p.onDie d).map (·.entriesPerDie)).sum

/-- Bytes of the pool memory on each die (R205). -/
def Pool.regionBytes (p : Pool) : Nat := p.plane + p.framesPerDie * p.frameBytes

/-- The dies of a pool. -/
def Pool.dieList (p : Pool) : List Nat := (List.range 4).filter p.onDie

/-- The pool on one die: its region, and a contiguous range of entries from one end of what is left. -/
def State.poolOnDie (s : State) (p : Pool) (d base : Nat) : State :=
  let lo := s.kv.entriesLo.getD d 0
  let hi := s.kv.entriesHi.getD d 0
  let low := s.draw (4 + d) % 2 = 0
  let first := if low then lo else hi - p.entriesPerDie
  let x : PoolDie := { base := base, firstEntry := first, frames := { bound := p.framesPerDie }
                       entries := { bound := p.entriesPerDie } }
  let s := s.addAlloc { base := base, size := p.regionBytes, firmware := true }
  let s := s.onKv fun k => { k with
    entriesLo := if low then k.entriesLo.set d (lo + p.entriesPerDie) else k.entriesLo
    entriesHi := if low then k.entriesHi else k.entriesHi.set d first }
  s.onPoolDie p.id d fun _ => x

/-- Places of the pool memory on its dies, or none when a die lacks room. -/
def State.poolPlaces (s : State) (p : Pool) : Option (List (Nat × Nat)) :=
  p.dieList.foldr (fun d acc =>
    match acc, if (s.dramAt d).inService then s.placeDram d p.regionBytes 4096 d else none with
    | some l, some a => some ((d, a) :: l)
    | _, _ => none) (some [])

/-- KV_POOL_CREATE (R203 to R208). -/
def execKvPoolCreate (c : Cmd) (s : State) : Out :=
  .next (runCmd 5 1 c s fun s =>
    let p := parsePool c.data
    if poolBad p || (s.pool p.id).isSome then s.complete c stBadParam
    else if p.dieList.any fun d => decide (tableEntries < s.entriesUsed d + p.entriesPerDie) then s.complete c stLimit
    else match s.poolPlaces p with
      | none => s.complete c stNoMemory
      | some places =>
        let s := s.onKv fun k => { k with pools := k.pools ++ [p] }
        ((places.foldl (fun x q => x.poolOnDie p q.1 q.2) s).bump).complete c stOk)

/-! ### Sequences (R215 to R217, R576) -/

def State.seqAt (s : State) (id : Nat) : Option KvSeq := s.kv.seqs.find? fun q => q.id = id
def State.onSeq (s : State) (id : Nat) (f : KvSeq → KvSeq) : State :=
  s.onKv fun k => { k with seqs := k.seqs.map fun q => if q.id = id then f q else q }

/-- Pages of a layer. -/
def KvSeq.pages (q : KvSeq) : Nat := q.maxTokens / 16

/-- DPA of a block-table element (R216). -/
def KvSeq.elemAddr (q : KvSeq) (d layer page : Nat) : Nat :=
  q.bt.getD d 0 + layer * q.pages * 4 + page * 4

def State.element (s : State) (q : KvSeq) (d layer page : Nat) : Nat := s.natAt (q.elemAddr d layer page) 4

/-- The places of a block table: die, layer, page, over pages `[a, b)`. -/
def pagePlaces (p : Pool) (a b : Nat) : List (Nat × Nat × Nat) :=
  p.dieList.flatMap fun d => (List.range p.layers).flatMap fun l => (List.range (b - a)).map fun i => (d, l, a + i)

/-- Block-table addresses break R576 for a pool and token count. -/
def tablesBad (p : Pool) (q : KvSeq) : Bool :=
  (List.range 4).any fun d =>
    let a := q.bt.getD d 0
    if p.onDie d then
      a = 0 || a % 64 ≠ 0 || !inOpenDram a (tableBytes p q) || a / stackSize ≠ d
    else a ≠ 0

/-- No block table lies in an allocation of another context (R413). -/
def State.ownsTables (s : State) (ctx : Nat) (p : Pool) (q : KvSeq) : Bool :=
  p.dieList.all fun d => s.ownsRange ctx (q.bt.getD d 0) (tableBytes p q)

def btOf (d : List Byte) (o : Nat) : List Nat := (List.range 4).map fun i => fieldAt d (o + 8 * i) 8

/-- A KV.SEQ_CREATE block (R215). -/
def parseSeq (ctx : Nat) (d : List Byte) : KvSeq :=
  { id := fieldAt d 0 2, ctx := ctx, pool := fieldAt d 2 1, cls := fieldAt d 3 1, priority := fieldAt d 4 1
    maxTokens := fieldAt d 8 4, bt := btOf d 16 }

/-- Fill the block tables of a new sequence with "no frame" (R216). -/
def State.clearTables (s : State) (p : Pool) (q : KvSeq) : State :=
  p.dieList.foldl (fun x d => x.write (q.bt.getD d 0) (List.replicate (tableBytes p q) 0xFF)) s

/-- A new frame for one page (R217, R220). -/
def State.newPage (s : State) (q : KvSeq) (state : Nat) (pl : Nat × Nat × Nat) : State :=
  match s.ftAlloc pl.1 q.pool state 0 with
  | none => s
  | some (index, t) => (t.writeNat (q.elemAddr pl.1 pl.2.1 pl.2.2) 4 index).bump

/-- Free frames and entries of a pool on a die. -/
def Pool.freeFrames (p : Pool) (d : Nat) : Nat := (p.die d).frames.count
def Pool.freeIndexes (p : Pool) (d : Nat) : Nat := (p.die d).entries.count

/-- KV_SEQ_CREATE (R215 to R217, R576). -/
def execKvSeqCreate (c : Cmd) (s : State) : Out :=
  .next (runCmd 5 2 c s fun s =>
    let d := c.data
    let q := parseSeq c.ring d
    match s.pool q.pool with
    | none => s.complete c stBadParam
    | some p =>
      if 4095 < q.id || (s.seqAt q.id).isSome || 3 < q.cls || 7 < q.priority || q.maxTokens < 16 ||
          262144 < q.maxTokens || q.maxTokens % 16 ≠ 0 || fieldAt d 5 3 ≠ 0 || fieldAt d 12 4 ≠ 0 ||
          fieldAt d 48 16 ≠ 0 || tablesBad p q then s.complete c stBadParam
      else if !s.ownsTables c.ring p q then s.complete c stDenied
      else
        let need := p.layers * q.pages
        if q.cls ≤ 1 && p.dieList.any (fun d => decide (p.freeFrames d < need) || decide (p.freeIndexes d < need)) then
          s.complete c stNoMemory
        else
          let s := s.clearTables p q
          let s := if q.cls ≤ 1 then (pagePlaces p 0 q.pages).foldl (fun x pl => x.newPage q ftResident pl) s else s
          (s.onKv fun k => { k with seqs := k.seqs ++ [{ q with admitted := s.tsNow }] }).complete c stOk)

/-- Frames of a sequence: the elements that name one. -/
def State.framesOf (s : State) (p : Pool) (q : KvSeq) (a b : Nat) : List Nat :=
  ((pagePlaces p a b).map fun pl => s.element q pl.1 pl.2.1 pl.2.2).filter (· ≠ noFrame)

/-- A child takes one element of its parent (R223). -/
def State.shareElem (s : State) (q child : KvSeq) (pl : Nat × Nat × Nat) : State :=
  let e := s.element q pl.1 pl.2.1 pl.2.2
  if e = noFrame then s
  else (s.writeNat (child.elemAddr pl.1 pl.2.1 pl.2.2) 4 e).ftRefAdd e 1

/-- KV_SEQ_FORK (R223, R224). -/
def execKvSeqFork (c : Cmd) (s : State) : Out :=
  .next (runCmd 5 3 c s fun s =>
    let pre := c.word 2
    match s.seqNamed (c.word 0) with
    | none => s.complete c stBadParam
    | some q =>
      let p := (s.pool q.pool).getD {}
      let child : KvSeq := { q with id := c.word 1, ctx := c.ring, length := pre, state := .active
                                    bt := btOf c.data 0, freeing := false }
      let frames := s.framesOf p q 0 (ceilDiv pre 16)
      if 4095 < child.id || (s.seqAt child.id).isSome || q.length < pre || tablesBad p child then s.complete c stBadParam
      else if !s.ownsTables c.ring p child then s.complete c stDenied
      else if q.cls ≤ 1 then s.complete c stClassDenied
      else if q.state ≠ .active then s.complete c stKvSwapped
      else if frames.any fun i => (s.entry i).state = ftPinned then s.complete c stBusy
      else if frames.any fun i => 4095 ≤ (s.entry i).refs then s.complete c stLimit
      else
        let s := s.clearTables p child
        let s := (pagePlaces p 0 (ceilDiv pre 16)).foldl (fun x pl => x.shareElem q child pl) s
        (s.onKv fun k => { k with seqs := k.seqs ++ [{ child with admitted := s.tsNow }] }).complete c stOk
          frames.length)

/-- A job that has not ended names a sequence. -/
def State.seqInUse (s : State) (id : Nat) : Bool :=
  s.sch.jobs.any fun j => j.bindings.any fun b => b.seq = id

/-- References dropped, sequence removed (R226). -/
def State.removeSeq (s : State) (id : Nat) : State :=
  match s.seqAt id with
  | none => s
  | some q =>
    let p := (s.pool q.pool).getD {}
    ((s.framesOf p q 0 q.pages).foldl State.ftRefSub s).onKv fun k => { k with seqs := k.seqs.filter (·.id ≠ id) }

/-- A transfer of a sequence's frames is in progress (R214). -/
def State.seqMoving (s : State) (q : KvSeq) : Bool :=
  let p := (s.pool q.pool).getD {}
  let fs := s.framesOf p q 0 q.pages
  s.kv.xfers.any fun x => fs.contains x.index

/-- KV_SEQ_FREE (R214, R226). -/
def execKvSeqFree (c : Cmd) (s : State) : Out :=
  .next (runCmd 5 4 c s fun s =>
    match s.seqNamed (c.word 0) with
    | none => s.complete c stBadParam
    | some q =>
      if s.seqInUse q.id then s.complete c stBusy
      else if s.seqMoving q then (s.onSeq q.id fun q => { q with freeing := true }).await c (.seqFree q.id)
      else (s.removeSeq q.id).complete c stOk)

/-! ### Swapping (R228 to R232, R446, R447) -/

/-- An entry is in state swapped. -/
def State.anySwapped (s : State) : Bool :=
  s.kv.pools.any fun p => p.dieList.any fun d => (p.die d).entries.used.any fun k =>
    (s.entry (d * 2 ^ 21 + (p.die d).firstEntry + k)).state = ftSwapped

/-- KV_SWAP_AREA (R232). Transfers in progress go on, in the units of the new area with their numbers (DEDUCED 167). -/
def execKvSwapArea (c : Cmd) (s : State) : Out :=
  .next (runCmd 5 5 c s fun s =>
    let a := c.addr 0
    let m := c.word 2
    if a % 4096 ≠ 0 || m = 0 || 65535 < m || !inHost a (m * 2 ^ 20) then s.complete c stBadParam
    else if s.anySwapped then s.complete c stBusy
    else (s.onKv fun k => { k with
      area := some (a, m * 1024), swapUnits := { bound := m * 1024, used := k.swapUnits.used } }).complete c stOk)

/-- A private frame that can begin to swap out: refs 1, resident, no reader (R229). -/
def FtEntry.swappable (e : FtEntry) : Bool := e.state = ftResident && e.refs = 1 && e.readers = 0

/-- The swap-out of one frame begins: a run of units, and the state by CAS (R229). -/
def State.beginOut (s : State) (index : Nat) : State :=
  let e := s.entry index
  let kib := ((s.pool e.pool).getD {}).frameKib
  if !e.swappable then s
  else match s.kv.swapUnits.takeRun kib (s.draw 0) with
    | none => s
    | some (u, us) =>
      ((s.setEntry index { e with state := ftSwappingOut }).onKv fun k => { k with
        swapUnits := us, xfers := k.xfers ++ [{ index := index, out := true, unit := u }] }).bump

/-- Frames of a sequence with one reference that are resident. -/
def State.privateFrames (s : State) (q : KvSeq) : List Nat :=
  (s.framesOf ((s.pool q.pool).getD {}) q 0 q.pages).filter fun i =>
    (s.entry i).state = ftResident && (s.entry i).refs = 1

/-- A job that a suspension stops: it names the sequence and is DEL or BGD (R229, R342). -/
def stopsFor (id : Nat) (j : Job) : Bool := 2 ≤ j.cls && j.bindings.any fun b => b.seq = id

/-- Jobs of a suspending sequence still hold their cores: not all contexts are saved (R229). -/
def State.seqRuns (s : State) (id : Nat) : Bool := s.sch.jobs.any fun j => stopsFor id j && j.placed ≠ []

/-- A suspending sequence whose last private frame is swapped is suspended (R231). -/
def State.checkSuspended (s : State) (id : Nat) : State :=
  match s.seqAt id with
  | none => s
  | some q =>
    if q.state = .suspending && !s.seqRuns id && !s.seqMoving q && s.privateFrames q = [] then
      (s.onSeq id fun q => { q with state := .suspended }).finish (· = .swapOut id) stOk
    else s

/-- Swap-outs that a suspending sequence can begin now, once the contexts of its jobs are saved (R229). -/
def State.driveOut (s : State) (id : Nat) : State :=
  match s.seqAt id with
  | none => s
  | some q =>
    if q.state = .suspending && !s.seqRuns id then ((s.privateFrames q).foldl State.beginOut s).checkSuspended id else s

/-- A sequence is suspended: its running jobs are stopped, and then its private frames swap out (R229). A job of class
PER is stopped at core moves only (R342). -/
def State.suspendSeq (s : State) (id : Nat) : State :=
  let users := (s.sch.jobs.filter (stopsFor id)).map (·.key)
  let s := users.foldl State.stopJob s
  (s.onSeq id fun q => { q with state := .suspending }).driveOut id

/-- Units that a sequence's private frames need fit into the free ones. -/
def State.swapFits (s : State) (q : KvSeq) : Bool :=
  s.kv.area.isSome &&
    decide ((s.privateFrames q).length * ((s.pool q.pool).getD {}).frameKib ≤ s.kv.swapUnits.count)

/-- KV_SWAP_OUT (R230, R231). Of a sequence that is not active: ST_KV_SWAPPED; without room in a swap area:
ST_NO_MEMORY (log 27). -/
def execKvSwapOut (c : Cmd) (s : State) : Out :=
  .next (runCmd 5 6 c s fun s =>
    match s.seqNamed (c.word 0) with
    | none => s.complete c stBadParam
    | some q =>
      if q.cls ≤ 1 then s.complete c stClassDenied
      else if q.state ≠ .active then s.complete c stKvSwapped
      else if !s.swapFits q then s.complete c stNoMemory
      else (s.await c (.swapOut q.id)).suspendSeq q.id)

/-- Swapped frames of a sequence on a die. -/
def State.swappedOn (s : State) (q : KvSeq) (d : Nat) : List Nat :=
  (s.framesOf ((s.pool q.pool).getD {}) q 0 q.pages).filter fun i =>
    idxDie i = d && (s.entry i).state = ftSwapped

/-- The condition of R230. -/
def State.canResume (s : State) (q : KvSeq) : Bool :=
  let p := (s.pool q.pool).getD {}
  p.dieList.all fun d => 64 * (s.swappedOn q d).length + p.framesPerDie ≤ 64 * p.freeFrames d

/-- A resuming sequence whose last frame is resident is active (R231). -/
def State.checkActive (s : State) (id : Nat) : State :=
  match s.seqAt id with
  | none => s
  | some q =>
    if q.state = .resuming && !s.seqMoving q then
      (s.onSeq id fun q => { q with state := .active }).finish (· = .swapIn id) stOk
    else s

/-- The swap-in of one frame begins: a frame number is taken (R214). -/
def State.beginIn (s : State) (index : Nat) : State :=
  let e := s.entry index
  let d := idxDie index
  match s.pool e.pool with
  | none => s
  | some p =>
    match (p.die d).frames.take (s.draw 0) with
    | none => s
    | some (f, fs) =>
      (((s.onPoolDie p.id d fun x => { x with frames := fs }).setEntry index
        { e with state := ftSwappingIn, number := f }).onKv fun k => { k with
          xfers := k.xfers ++ [{ index := index, out := false, unit := e.number }] }).bump

/-- A suspended sequence resumes (R230, R231). -/
def State.resumeSeq (s : State) (id : Nat) : State :=
  match s.seqAt id with
  | none => s
  | some q =>
    let fs := (List.range 4).flatMap (s.swappedOn q)
    (fs.foldl State.beginIn (s.onSeq id fun q => { q with state := .resuming })).checkActive id

/-- KV_SWAP_IN (R230, R231). Of an active sequence there is nothing to do; of one in transfer: ST_BUSY (log
27). -/
def execKvSwapIn (c : Cmd) (s : State) : Out :=
  .next (runCmd 5 7 c s fun s =>
    match s.seqNamed (c.word 0) with
    | none => s.complete c stBadParam
    | some q =>
      if q.cls ≤ 1 then s.complete c stClassDenied
      else if q.state = .active then s.complete c stOk
      else if q.state ≠ .suspended then s.complete c stBusy
      else if !s.canResume q then s.complete c stNoMemory
      else (s.await c (.swapIn q.id)).resumeSeq q.id)

/-- Highest priority first, then earliest admission (R230). -/
def resumeBefore (a b : KvSeq) : Bool :=
  b.priority < a.priority || (a.priority = b.priority && a.admitted ≤ b.admitted)

/-- The resume check of a chain boundary, and swap-outs that had readers are tried again (R229, R230). -/
def State.resumeCheck (s : State) : State :=
  let order := sortBy resumeBefore (s.kv.seqs.filter fun q => q.state = .suspended && !q.freeing)
  let s := order.foldl (fun x q => if x.canResume q then x.resumeSeq q.id else x) s
  (s.kv.seqs.map (·.id)).foldl State.driveOut s

/-- Sequences to which a frame belongs: the transfer's end may end their change of state. -/
def State.afterXfer (s : State) : State :=
  let s := (s.kv.seqs.map (·.id)).foldl (fun x i => (x.checkSuspended i).checkActive i) s
  (s.kv.seqs.filter fun q => q.freeing).foldl (fun x q =>
    if x.seqMoving q then x else (x.removeSeq q.id).finish (· = .seqFree q.id) stOk) s

def State.countMove (s : State) (d : Nat) : State :=
  s.onKv fun k => { k with moves := k.moves.modify d (satInc 65535) }

/-- The transfer of a frame, in one direction. -/
def State.xfer (s : State) (index : Nat) (out : Bool) : Option Xfer :=
  s.kv.xfers.find? fun x => x.index = index && x.out = out
def State.dropXfer (s : State) (index : Nat) : State :=
  s.onKv fun k => { k with xfers := k.xfers.filter fun x => x.index ≠ index }

/-- DPA of a swap unit (R446). -/
def State.unitAddr (s : State) (u : Nat) : Nat := (s.kv.area.getD (0, 0)).1 + 1024 * u

/-- SWAP_OUT_FRAME_DONE (R214, R446): after the confirming read succeeds the entry is swapped and its frame
number free; the frame's bytes are in the swap area. -/
def execSwapOutFrameDone (index : Nat) (ok : Bool) (s : State) : Out :=
  .next (match s.xfer index true with
    | none => s
    | some x =>
      if !ok || !s.hl.linkUp then s
      else
        let e := s.entry index
        let p := (s.pool e.pool).getD {}
        let src := s.frameAddr index
        let s := (piecesOf src p.frameBytes).foldl (fun y pc =>
          if s.readPoisoned (src + pc.1) pc.2 then y
          else y.write (s.unitAddr x.unit + pc.1) (s.bytesAt (src + pc.1) pc.2)) s
        let engine := s.swapEngine
        let s := ((s.carryRead .bulk 0 0xFE src (s.bytesAt src p.frameBytes)).hostRequest engine true (s.unitAddr x.unit)
          p.frameBytes).hostRequest engine false (s.unitAddr x.unit + p.frameBytes - 1024) 4
        let s := s.onPoolDie p.id (idxDie index) fun y => { y with frames := y.frames.put e.number }
        let s := s.setEntry index { e with state := ftSwapped, number := x.unit, gen := e.gen + 1 }
        ((s.dropXfer index).countMove (idxDie index)).afterXfer)

/-- A frame is back: resident, generation + 1, its units free (R214). -/
def State.inDone (s : State) (index : Nat) (x : Xfer) : State :=
  let e := s.entry index
  let p := (s.pool e.pool).getD {}
  let s := s.setEntry index { e with state := ftResident, gen := e.gen + 1 }
  let s := s.onKv fun k => { k with swapUnits := k.swapUnits.putRun x.unit p.frameKib }
  ((s.dropXfer index).countMove (idxDie index)).afterXfer

/-- A swap-in read of a frame's units (R444). -/
def State.readUnits (s : State) (index : Nat) (x : Xfer) : State :=
  s.hostRequest s.swapEngine false (s.unitAddr x.unit) ((s.pool (s.entry index).pool).getD {}).frameBytes

/-- The data that a swap-in read brought: the frame's bytes, as many as came; they cross the ring (R48). -/
def State.frameIn (s : State) (index : Nat) (data : List Byte) : State :=
  let bytes := data.take ((s.pool (s.entry index).pool).getD {}).frameBytes
  (s.write (s.frameAddr index) bytes).carryWrite .bulk 0 0xFE (s.frameAddr index) bytes

/-- SWAP_IN_FRAME_DONE (R214, R447): a read that failed is tried again at the next chain boundaries. -/
def execSwapInFrameDone (index : Nat) (ok : Bool) (data : List Byte) (s : State) : Out :=
  .next (match s.xfer index false with
    | none => s
    | some x =>
      if !s.hl.linkUp || x.failed then s
      else if ok then ((s.readUnits index x).frameIn index data).inDone index x
      else (s.readUnits index x).onKv fun k => { k with xfers := k.xfers.map fun y => if y.index = index then { y with
        failed := true, failedAt := s.tb.link } else y })

/-- SWAP_READ_RETRY (R447): once at each chain boundary after a failed read; the third failed retry poisons the frame with the check pattern. -/
def execSwapReadRetry (index : Nat) (ok : Bool) (data : List Byte) (s : State) : Out :=
  .next (match s.xfer index false with
    | none => s
    | some x =>
      if !s.hl.linkUp || !x.failed || s.phase s.tb.link % 100 ≠ 0 || s.tb.link ≤ x.failedAt then s
      else if ok then ((s.readUnits index x).frameIn index data).inDone index x
      else if 2 ≤ x.retries then
        let p := (s.pool (s.entry index).pool).getD {}
        ((s.readUnits index x).poisonGranules (granulesOf (s.frameAddr index) p.frameBytes) true).inDone index x
      else (s.readUnits index x).onKv fun k => { k with xfers := k.xfers.map fun y =>
        if y.index = index then { y with retries := y.retries + 1, failedAt := s.tb.link } else y })

/-! ### Write resolution (R220, R221, R225, R228) -/

/-- Pages of a layer that a binding writes: first and one past the last (R219). -/
def Binding.firstPage (b : Binding) : Nat := b.writeStart / 16
def Binding.endPage (b : Binding) : Nat := if b.writeCount = 0 then b.writeStart / 16 else ceilDiv (b.writeStart + b.writeCount) 16
def Binding.writes (b : Binding) : Bool := bitAt b.flags 1

/-- `a` is suspended before `b` (R228): BGD first, lowest priority, latest admission. -/
def victimBefore (a b : KvSeq) : Bool :=
  b.cls < a.cls || (a.cls = b.cls && (a.priority < b.priority || (a.priority = b.priority && b.admitted ≤ a.admitted)))

/-- The next victim for a sequence (R228). -/
def State.victim (s : State) (q : KvSeq) : Option KvSeq :=
  (sortBy victimBefore (s.kv.seqs.filter fun v =>
    v.pool = q.pool && v.id ≠ q.id && decide (2 ≤ v.cls) && v.state = .active && !v.freeing &&
    (v.priority < q.priority || (v.priority = q.priority && q.admitted < v.admitted)))).head?

/-- Copy-on-write of a page (R225), where an entry and a frame can be had. -/
def State.copyOnWrite (s : State) (q : KvSeq) (pl : Nat × Nat × Nat) (old : Nat) (bad : List Nat) : Option State :=
  (s.ftAlloc pl.1 q.pool ftPinned 0).map fun x =>
    let index := x.1
    let p := (s.pool q.pool).getD {}
    let t := (x.2.ftLookup old q.pool).2
    let t := t.copyFrame (t.frameAddr old) (t.frameAddr index) p.frameBytes bad
    let t := if p.fmt = 5 then
        t.copyScales (p.scaleAddr pl.1 (idxEntry old)) (p.scaleAddr pl.1 (idxEntry index)) (p.heads * 4) else t
    let t := t.writeNat (q.elemAddr pl.1 pl.2.1 pl.2.2) 4 index
    (((t.ftRefSub old).ftRelease old).onKv fun k => { k with cow := k.cow.modify pl.1 (satInc 65535) }).bump

/-- One page of a write range is resolved (R220); none where an ALLOC it needs finds no frame or no entry. -/
def State.resolvePage (s : State) (q : KvSeq) (pl : Nat × Nat × Nat) (bad : List Nat) : Option State :=
  let e := s.element q pl.1 pl.2.1 pl.2.2
  if e = noFrame then
    (s.ftAlloc pl.1 q.pool ftPinned 0).map fun x => (x.2.writeNat (q.elemAddr pl.1 pl.2.1 pl.2.2) 4 x.1).bump
  else
    let x := s.entry e
    if 1 < x.refs then s.copyOnWrite q pl e bad
    else some (if x.state = ftResident then s.setEntry e { x with state := ftPinned, cow := false } else s)

/-- The frames of a binding's write range, in the order of the write list: die, layer, page. -/
def State.writeFrames (s : State) (b : Binding) : List Nat :=
  match s.seqAt b.seq with
  | none => []
  | some q =>
    let p := (s.pool q.pool).getD {}
    (pagePlaces p b.firstPage b.endPage).map fun pl => s.element q pl.1 pl.2.1 pl.2.2

/-- How far a resolution has come: the state, and where it lacked something, the pool and the die. -/
structure Resolving where
  s : State
  lacks : Option (KvSeq × Nat) := none

/-- One page more. -/
def Resolving.page (q : KvSeq) (bad : List Nat) (r : Resolving) (pl : Nat × Nat × Nat) : Resolving :=
  if r.lacks.isSome then r
  else match r.s.resolvePage q pl bad with
    | some t => { s := t }
    | none => { r with lacks := some (q, pl.1) }

/-- A binding is resolved, and its write list written (R220). -/
def Resolving.binding (bad : List Nat) (r : Resolving) (b : Binding) : Resolving :=
  match r.s.seqAt b.seq with
  | none => r
  | some q =>
    let p := (r.s.pool q.pool).getD {}
    let r := (pagePlaces p b.firstPage b.endPage).foldl (Resolving.page q bad) r
    if r.lacks.isSome then r
    else { s := r.s.write b.wlist ((r.s.writeFrames b).flatMap fun i => leBytes 8 (r.s.frameAddr i)) }

/-- The resolution of a job's write bindings, in the order of R220. -/
def State.resolveAll (s : State) (bs : List Binding) (bad : List Nat) : Resolving :=
  bs.foldl (Resolving.binding bad) { s := s }

/-- The first tiles of a job that was placed and waited for its resolution. -/
def State.startPlaced (s : State) (k : JobKey) : State :=
  match s.job k with
  | none => s
  | some j =>
    (j.placed.foldl (fun x g =>
      if (x.core g).run = .idle then x.onCore g fun y => y.startTile y.reg s.tsNow else x) s).bump

/-- KV_WRITE_RESOLUTION (R220, R221, R225, R228), in which the granules of `x.bad` read uncorrectable. Nothing happens
while a page is pinned by another job or a sequence is not active. Where a pool lacks frames, what was allocated for the
job is undone and a victim suspended, one at a time; with none left, or where entries are lacking, the job ends
unstarted. -/
def execKvWriteResolution (ctx : Nat) (x : WriteTry) (s : State) : Out :=
  .next (match s.job { ctx := ctx, tag := x.tag } with
    | none => s
    | some j =>
      let bs := j.bindings.filter Binding.writes
      if j.resolved || bs = [] then s
      else if bs.any fun b => !(s.seqAt b.seq).any fun q => q.state = .active then s
      else if bs.any fun b => (s.writeFrames b).any fun i => i ≠ noFrame && (s.entry i).state = ftPinned then s
      else
        let r := s.resolveAll bs x.bad
        match r.lacks with
        | none =>
          let pins := bs.flatMap r.s.writeFrames
          (r.s.onJob j.key fun x => { x with resolved := true, pinned := pins }).startPlaced j.key
        | some (q, d) =>
          if ((r.s.pool q.pool).getD {}).freeIndexes d = 0 then s.requestEnd j.key stNoMemory
          else if s.kv.seqs.any fun v => v.pool = q.pool && v.state = .suspending then s
          else match s.victim q with
            | none => s.requestEnd j.key stNoMemory
            | some v => if s.swapFits v then s.suspendSeq v.id else s.requestEnd j.key stNoMemory)

/-! ### Compaction (R233, R234) -/

/-- Frames of a pool whose number is at or above a target, as frame indexes. -/
def State.aboveTarget (s : State) (p : Pool) (target : Nat) : List Nat :=
  p.dieList.flatMap fun d =>
    (((p.die d).entries.used).map fun k => d * 2 ^ 21 + (p.die d).firstEntry + k).filter fun i =>
      let e := s.entry i
      (e.state = ftResident || e.state = ftPinned || e.state = ftSwappingOut || e.state = ftSwappingIn) &&
        decide (target ≤ e.number)

/-- Compaction ends with every frame below the target: the pool shrinks and its tail goes back (R234). -/
def State.shrinkPool (s : State) (p : Pool) (target : Nat) : State :=
  let q := { p with framesPerDie := target }
  let s := s.onPool p.id fun x => { x with
    framesPerDie := target
    dies := x.dies.map fun y => { y with frames := { y.frames with bound := target } } }
  let bases := p.dieList.map fun d => (p.die d).base
  s.onHl fun h => { h with allocs := h.allocs.map fun a =>
    if a.firmware && bases.contains a.base then { a with size := q.regionBytes } else a }

/-- Compaction completes when nothing is left above the target. -/
def State.checkCompacted (s : State) : State :=
  match s.kv.compaction with
  | none => s
  | some x =>
    let p := (s.pool x.pool).getD {}
    if s.aboveTarget p x.target = [] then
      ((s.shrinkPool p x.target).onKv fun k => { k with compaction := none }).finish (· = .compact x.pool) stOk x.moved
    else s

/-- KV_COMPACT (R234). A target of 0 or above frames_per_die is out of range; a second compaction finds the KV
manager busy (log 27). -/
def execKvCompact (c : Cmd) (s : State) : Out :=
  .next (runCmd 5 8 c s fun s =>
    let target := c.word 1
    match s.pool (c.word 0) with
    | none => s.complete c stBadParam
    | some p =>
      if target = 0 || p.framesPerDie < target then s.complete c stBadParam
      else if s.kv.compaction.isSome then s.complete c stBusy
      else if p.dieList.any fun d =>
          let used := (p.die d).frames.used
          let below := (used.filter fun u => decide (u < target)).length
          decide (target - below < used.length - below) then s.complete c stNoMemory
      else ((s.onKv fun k => { k with compaction := some { pool := p.id, target := target } }).await c
        (.compact p.id)).checkCompacted)

/-- A frame that failed is tried again at the next chain (R233). -/
def State.triedNow (s : State) (x : Compaction) (index : Nat) : Bool :=
  (x.tries.lookup index).any fun t => s.phase t.2 / 100 = s.phase s.tb.link / 100

/-- A failed try of a frame; the sixteenth ends the compaction with ST_BUSY (R234). -/
def State.failMove (s : State) (x : Compaction) (index : Nat) : State :=
  let n := ((x.tries.lookup index).getD (0, 0)).1 + 1
  if 16 ≤ n then
    (s.onKv fun k => { k with compaction := none }).finish (· = .compact x.pool) stBusy x.moved
  else s.onKv fun k => { k with compaction := some { x with
    tries := (index, n, s.tb.link) :: x.tries.filter fun t => t.1 ≠ index } }

/-- COMPACTION_MOVE (R225, R233, R349), in which the granules of `m.bad` read uncorrectable: inside a BGD window only. -/
def execCompactionMove (m : FrameCopy) (s : State) : Out :=
  let index := m.index
  .next (match s.kv.compaction with
    | none => s
    | some x =>
      let p := (s.pool x.pool).getD {}
      let d := idxDie index
      let e := s.entry index
      if s.sch.bgdUntil ≤ s.tb.link || !(s.aboveTarget p x.target).contains index || s.triedNow x index then s
      else if e.state ≠ ftResident || e.readers ≠ 0 then s.failMove x index
      else
        let fl := (p.die d).frames
        let below := x.target - (fl.used.filter fun u => decide (u < x.target)).length
        if below = 0 then s.failMove x index
        else
          let f := nthFree fl.used (s.draw 0 % below)
          let s := s.copyFrame (s.frameAddr index) (p.frameBase d f) p.frameBytes m.bad
          let s := s.onPoolDie p.id d fun y => { y with frames := { y.frames.put e.number with
            used := insertNat f (y.frames.put e.number).used } }
          let s := s.setEntry index { e with number := f, gen := e.gen + 1 }
          let s := s.onKv fun k => { k with compaction := some { x with moved := x.moved + 1 } }
          (s.countMove d).bump.checkCompacted)

/-! ### Queries and lookups -/

def SeqState.code : SeqState → Nat
  | .active => 0
  | .suspending => 1
  | .suspended => 2
  | .resuming => 3

/-- KV_QUERY (R433). -/
def execKvQuery (c : Cmd) (s : State) : Out :=
  .next (runCmd 5 9 c s fun s =>
    if bitAt (c.word 0) 31 then
      match s.pool (c.word 0 % 256) with
      | none => s.complete c stBadParam
      | some p =>
        let d := bitsOf (c.word 0) 9 8
        if p.onDie d then s.complete c stOk (p.freeFrames d) (p.freeIndexes d) else s.complete c stBadParam
    else match s.seqNamed (c.word 0) with
      | none => s.complete c stBadParam
      | some q =>
        let fs := s.framesOf ((s.pool q.pool).getD {}) q 0 q.pages
        let n := (fs.filter fun i => (s.entry i).state = ftResident || (s.entry i).state = ftPinned).length
        let m := (fs.filter fun i => (s.entry i).state = ftSwapped).length
        s.complete c stOk (q.state.code + 2 ^ 32 * q.length) (n + 2 ^ 32 * m))

/-- A core may use a frame of a die: one of P0 reads no DRAM (R176). -/
def State.lookupOpen (s : State) (g index : Nat) : Bool := !bitAt (s.dramAt (idxDie index)).p0Mask g

/-- A LOOKUP by a core's tile (R176, R211 to R213): at most one reader per frame and tile, 256 frames per tile;
whether it succeeded, and the state it leaves. -/
def State.coreLookup (s : State) (g index pool : Nat) : Bool × State :=
  let k := s.core g
  let reply (t : State) (e : Option Nat) : State := t.onKv fun x => { x with reply := e }
  if 2 ^ 23 ≤ index then (false, s.tileFault g 9)
  else if !s.lookupOpen g index then (false, s.tileFault g 3)
  else if !(s.entry index).readable (idxDie index) pool then (false, (reply s none).tileFault g 9)
  else if k.readers.contains index then (true, reply s (some (s.entryWord index)))
  else if 256 ≤ k.readers.length then (false, s.tileFault g 5)
  else
    let t := (s.ftLookup index pool).2
    (true, reply (t.onCore g fun y => { y with readers := y.readers ++ [index] }) (some (t.entryWord index)))

/-- A LOOKUP by hub DMA engine `e` (R211, R213): it raises a frame once in a transfer, until its RELEASE. -/
def State.engineLookup (s : State) (e index pool : Nat) : State :=
  if 2 ^ 23 ≤ index then s.onKv fun x => { x with reply := none }
  else if s.kv.engineReads.contains (e, index) then
    s.onKv fun x => { x with reply := if (s.entry index).readable (idxDie index) pool then some (s.entryWord index) else none }
  else match s.ftLookup index pool with
    | (some _, t) => t.onKv fun x => { x with
        reply := some (t.entryWord index), engineReads := x.engineReads ++ [(e, index)] }
    | (none, t) => t.onKv fun x => { x with reply := none }

/-- FT_LOOKUP (R211): by a core 0 to 63 or by a hub DMA engine. -/
def execFtLookup (index pool requester : Nat) (s : State) : Out :=
  .next (if requester < 64 then
      (if (s.core requester).run = .running then (s.coreLookup requester index pool).2 else s)
    else s.engineLookup requester index pool)

end Sys2Proof.Machine
end

