-- ==== Sys2Proof/Machine/Submit.lean ====
section
/-! DEFINITION. Meanings of JOB.SUBMIT, JOB.CANCEL and JOB.QUERY: the descriptor (R430), the checks of R360,
R431, R177, R180, R248, R218 and R219 in their order, the save area (R123), and acceptance. -/

namespace Sys2Proof.Machine

/-! ### The partition of a job -/

/-- Largest core count of a partition in any row of the active table (R360). -/
def State.maxCores (s : State) (p : Nat) : Nat := ((List.range 80).map fun r => popcount64 (s.sch.active.mask r p)).foldl max 0

/-- A partition's mask differs between rows of a table. -/
def Table.varies (t : Table) (p : Nat) : Bool := (List.range 80).any fun r => t.mask r p ≠ t.mask 0 p

/-- The partition holds a mask-capable core in some row (R180). -/
def State.partMask (s : State) (p : Nat) : Bool :=
  (List.range 64).any fun g =>
    (match s.cores.map.getD g none with
     | some u => maskCapable u
     | none => false) && (List.range 80).any fun r => bitAt (s.sch.active.mask r p) g

/-- Live size that a job on moving cores may have: 239 KiB (R125). -/
def moveLive : Nat := 239 * 1024

/-! ### Descriptor checks (R180, R248) -/

/-- A DPA that a descriptor may name: DRAM outside the reserved regions, a scratchpad, or hub memory. -/
def descAddrOk (a : Nat) : Bool := (isDram a && !isReserved a) || isSpad a || isHub a

/-- An address that a condition uses: in a permitted range, and 0 where unused. -/
def descAddrBad (used : Bool) (a : Nat) : Bool := if used then !descAddrOk a else a ≠ 0

/-- Status of one attention descriptor (R180, R200). -/
def State.attnStatus (s : State) (part : Nat) (d : List Byte) : Nat :=
  let dir := fieldAt d 0 1
  let qf := fieldAt d 1 1
  let kf := fieldAt d 2 1
  let outf := fieldAt d 3 1
  let fl := fieldAt d 4 1
  let pool := fieldAt d 5 1
  let hd := fieldAt d 6 1
  let head := fieldAt d 7 1
  let q := fieldAt d 8 4
  let k := fieldAt d 12 4
  let ropeLen := fieldAt d 28 4
  let a (i : Nat) : Nat := fieldAt d (32 + 8 * i) 8
  let seg := bitAt fl 0
  let bitmap := bitAt fl 1
  let rope := bitAt fl 2
  let paged := bitAt fl 5
  if dir = 2 && s.sch.classes.getD part 7 ≠ 3 then stClassDenied
  else if bitmap && !s.partMask part then stNoMaskCore
  else if hd = 0 || 16 < hd || q = 0 || 262144 < q || k = 0 || 262144 < k || 15 < head || 262144 < ropeLen then stLimit
  else if 2 < dir || (qf ≠ 5 && qf ≠ 7) || (kf ≠ 5 && kf ≠ 7) || (qf = 5 && kf = 7) ||
      (dir = 2 && (qf ≠ 7 || kf ≠ 7)) ||
      (if dir = 2 then outf ≠ 7 && outf ≠ 8 else outf ≠ 5 && outf ≠ 7 && outf ≠ 8) || bitAt fl 7 ||
      !positive32 (fieldAt d 24 4) || (!rope && ropeLen ≠ 0) || (!paged && (pool ≠ 0 || head ≠ 0)) ||
      (paged && (s.pool pool).isNone) || !descAddrOk (a 0) || !descAddrOk (a 1) || descAddrBad (!paged) (a 2) ||
      !descAddrOk (a 3) || descAddrBad (dir ≠ 0 || bitAt fl 4) (a 4) || descAddrBad seg (a 5) || descAddrBad seg (a 6) ||
      descAddrBad seg (a 7) || descAddrBad bitmap (a 8) || descAddrBad bitmap (a 9) || descAddrBad rope (a 10) ||
      descAddrBad rope (a 11) || descAddrBad (dir = 2) (a 12) || descAddrBad (dir = 2) (a 13) ||
      descAddrBad (dir = 2) (a 14) || descAddrBad (dir = 2) (a 15) then stBadParam
  else stOk

/-- A vision descriptor has side tables (R84, R247). -/
def visionSide (d : List Byte) : Bool :=
  fieldAt d 18 1 / 4 % 8 ≠ 0 || (fieldAt d 0 1 ≤ 1 && (fieldAt d 2 1 % 16 = 2 || fieldAt d 2 1 % 16 = 4))

/-- A field outside its range in R247, that of an operation; a field that R247 gives the value 0 is out of range with
another (log 28). -/
def visionLimit (d : List Byte) : Bool :=
  let op := fieldAt d 0 1
  let conv := op ≤ 1
  let win := conv || op ≤ 3
  let f (o : Nat) : Nat := fieldAt d o 1
  let kmax := if conv then 11 else if win then 8 else 1
  let smax := if conv then 4 else if win then 8 else 1
  let dmax := if conv then 8 else 1
  let padMax (i : Nat) : Nat := if conv then 10 else if win then f (if i < 2 then 6 else 7) - 1 else 0
  let out (lo hi v : Nat) : Bool := v < lo || hi < v
  let c := fieldAt d 22 2
  let g := fieldAt d 16 2
  let zpMax := if f 3 % 16 = 2 then 15 else if f 3 % 16 = 4 then 255 else 0
  (op ≠ 0 && f 1 ≠ 0) || (!conv && f 2 ≠ 0) || (f 4 % 16 ≠ 4 && f 19 ≠ 0) || zpMax < f 40 ||
  (!conv && fieldAt d 56 8 ≠ 0) || (!visionSide d && fieldAt d 64 8 ≠ 0) || out 1 7 (f 3 % 16) || out 3 (if op = 4 then 8 else 7) (f 4 % 16) || out 1 kmax (f 6) || out 1 kmax (f 7) ||
  out 1 smax (f 8) || out 1 smax (f 9) || out 1 dmax (f 10) || out 1 dmax (f 11) ||
  (List.range 4).any (fun i => padMax i < f (12 + i)) ||
  (if op = 0 then out 1 16384 g else if op = 1 then g ≠ c else g ≠ 1) || out 1 64 (fieldAt d 20 2) ||
  out 1 16384 c || out 1 8192 (fieldAt d 24 2) || out 1 8192 (fieldAt d 26 2) ||
  (if op = 0 then out 1 16384 (fieldAt d 28 2) else fieldAt d 28 2 ≠ c) || 64 < f 41 || 64 < f 42

/-- Output rows or columns of ops 0 to 3 (R249), 0 when below 1. -/
def outSize (n padA padB dil k stride : Nat) : Nat :=
  if n + padA + padB < dil * (k - 1) + 1 then 0 else (n + padA + padB - dil * (k - 1) - 1) / stride + 1

/-- Status of one vision descriptor (R248). -/
def State.visionStatus (s : State) (part : Nat) (d : List Byte) : Nat :=
  let f (o : Nat) : Nat := fieldAt d o 1
  let op := f 0
  let conv := op ≤ 1
  let wf := f 2
  let af := f 3 % 16
  let qn := f 18
  let c := fieldAt d 22 2
  let k := fieldAt d 28 2
  let g := fieldAt d 16 2
  let bIn := if bitAt (f 5) 0 then 32 else 16
  let bOut := if bitAt (f 5) 1 then 32 else 16
  if visionLimit d then stLimit
  else if 6 < op || (op = 0 && !pairOk (f 1) (wf % 16) af) ||
      (conv && (63 < wf || 8 ≤ wf % 16 || (16 ≤ wf && wf % 16 ≠ 0))) || 15 < f 3 || 15 < f 4 || 3 < f 5 ||
      bitAt qn 7 || qn % 4 = 3 || fieldAt d 30 2 ≠ 0 || fieldAt d 43 5 ≠ 0 ||
      c % g ≠ 0 || k % g ≠ 0 ||
      (op = 0 && 1 < g && ((c / g) % bIn ≠ 0 || (k / g) % bOut ≠ 0)) ||
      (op ≤ 3 && (outSize (fieldAt d 24 2) (f 12) (f 13) (f 10) (f 6) (f 8) = 0 ||
        outSize (fieldAt d 26 2) (f 14) (f 15) (f 11) (f 7) (f 9) = 0)) ||
      s.maxCores part < f 41 || s.maxCores part < f 42 ||
      !descAddrOk (fieldAt d 48 8) || (conv && !descAddrOk (fieldAt d 56 8)) ||
      (visionSide d && !descAddrOk (fieldAt d 64 8)) || !descAddrOk (fieldAt d 72 8) then stBadParam
  else stOk

/-- The first status that is not ST_OK, of a list. -/
def firstBad (l : List Nat) : Nat := (l.find? (· ≠ stOk)).getD stOk

/-! ### KV bindings (R218, R219) -/

def parseBinding (d : List Byte) : Binding :=
  { seq := fieldAt d 0 2, flags := fieldAt d 2 1, writeStart := fieldAt d 4 4, writeCount := fieldAt d 8 4
    wlist := fieldAt d 16 8 }

/-- Bytes of a binding's write list (R219). -/
def wlistBytes (p : Pool) (b : Binding) : Nat := p.dieList.length * p.layers * (b.endPage - b.firstPage) * 8

/-- The list lies where hub firmware may write it: payload ranges outside the target region and the sample
board. -/
def outRange (a n : Nat) : Bool :=
  inHost a n || inOpenDram a n || (inHub a n && !touchesTarget a n && !overlaps a n boardBase (boardTop - boardBase))

/-- Status of one binding record (R219). -/
def State.bindingStatus (s : State) (ctx : Nat) (d : List Byte) : Nat :=
  let b := parseBinding d
  match s.seqNamed b.seq with
  | none => stBadParam
  | some q =>
    let p := (s.pool q.pool).getD {}
    if ctx ≠ 0 && q.ctx ≠ ctx then stDenied
    else if 7 < b.flags || fieldAt d 3 1 ≠ 0 || fieldAt d 12 4 ≠ 0 || fieldAt d 24 8 ≠ 0 ||
        (if b.writes then q.length < b.writeStart || b.writeCount = 0 || q.maxTokens < b.writeStart + b.writeCount
         else b.writeStart ≠ 0 || b.writeCount ≠ 0 || b.wlist ≠ 0) ||
        (bitAt b.flags 2 && (b.writeStart % 16 ≠ 0 || b.writeCount % 16 ≠ 0)) ||
        (b.writes && (b.wlist % 8 ≠ 0 || !outRange b.wlist (wlistBytes p b))) then stBadParam
    else stOk

/-! ### The job descriptor (R359, R360, R430, R431) -/

/-- The periods of R359. -/
def periods : List Nat := [1, 2, 4, 5, 8, 10, 16, 20, 40, 80]

/-- A job as its descriptor gives it (R430). -/
def parseJob (c : Cmd) : Job :=
  let d := c.data
  { key := { ctx := c.ring, tag := c.tag }, cls := fieldAt d 0 1, partition := c.partition, cores := fieldAt d 1 1
    priority := fieldAt d 2 1, mode := fieldAt d 3 1, period := fieldAt d 4 1, releaseId := fieldAt d 5 1
    wdSlot := fieldAt d 6 1, offset := fieldAt d 8 4, budget := fieldAt d 12 4, maxLive := fieldAt d 16 4
    snap := fieldAt d 20 4, codeAddr := fieldAt d 24 8, codeBytes := fieldAt d 32 4, codeBase := fieldAt d 36 4
    entryPc := fieldAt d 40 4, descBase := fieldAt d 44 4, attnAddr := fieldAt d 48 8, visionAddr := fieldAt d 64 8
    kvAddr := fieldAt d 72 8, batchAddr := fieldAt d 80 8
    streams := (List.range (min 16 (fieldAt d 62 2))).map fun i => fieldAt d (96 + i) 1
    deadline := c.deadline }

/-- An array of `n` bytes: address 0 exactly when it is empty, and inside the payload ranges (R430, R431). -/
def arrayBad (a n : Nat) : Bool := if n = 0 then a ≠ 0 else a = 0 || !payloadRange a n

def snapBytes : Nat := 3088

/-- Row 2 of R360, with R431 and R432. -/
def State.jobFieldsBad (s : State) (c : Cmd) (j : Job) : Bool :=
  let d := c.data
  let nAttn := fieldAt d 56 2
  let nVision := fieldAt d 58 2
  let nKv := fieldAt d 60 2
  let nStr := fieldAt d 62 2
  let descBytes := 176 * nAttn + 80 * nVision
  let top := if j.mode = 0 then 2 ^ 32 - 1 else if j.mode = 2 then 7995
    else if j.partition = 0 then 100 else 100 * j.period - 5
  15 < j.partition || 3 < s.sch.classes.getD j.partition 7 || 3 < j.cls || j.cores = 0 || 64 < j.cores || 7 < j.priority ||
  2 < j.mode || (if j.mode = 1 then !periods.contains j.period || 100 * j.period ≤ j.offset else j.period ≠ 0 || j.offset ≠ 0) ||
  (if j.mode = 2 then 15 < j.releaseId else j.releaseId ≠ 0) || j.budget = 0 || top < j.budget ||
  6 * 2 ^ 20 - 4096 < j.maxLive || j.maxLive % 4 ≠ 0 ||
  (if j.partition = 0 then spadBytes < 4 * j.snap + snapBytes else j.snap ≠ 0) ||
  (j.wdSlot ≠ 0xFF && (j.wdSlot < 32 || 63 < j.wdSlot || j.cls ≠ 1 || j.mode ≠ 1 ||
    s.sch.jobs.any fun o => o.wdSlot = j.wdSlot)) ||
  fieldAt d 7 1 ≠ 0 || fieldAt d 88 8 ≠ 0 || fieldAt d 112 16 ≠ 0 || ((d.drop (96 + j.streams.length)).take (16 - j.streams.length)).any (· ≠ 0) ||
  j.codeBytes < 4 || 2 ^ 20 < j.codeBytes || j.codeBytes % 4 ≠ 0 || !payloadRange j.codeAddr j.codeBytes ||
  spadBytes < 4 * j.codeBase + j.codeBytes || j.entryPc < j.codeBase || j.codeBase + j.codeBytes / 4 ≤ j.entryPc ||
  4096 < nAttn || 4096 < nVision || 64 < nKv || 16 < nStr || (nStr ≠ 0 && j.cls ≠ 1) ||
  arrayBad j.attnAddr (176 * nAttn) || arrayBad j.visionAddr (80 * nVision) || arrayBad j.kvAddr (32 * nKv) ||
  arrayBad j.batchAddr (64 * nStr) || (nStr ≠ 0 && (j.batchAddr % 8 ≠ 0 || !outRange j.batchAddr (64 * nStr))) ||
  spadBytes < 4 * j.descBase + descBytes || overlaps (4 * j.descBase) descBytes (4 * j.codeBase) j.codeBytes ||
  j.streams.any (15 < ·) || !decide j.streams.Nodup || (s.job j.key).isSome

/-- The addresses of an attention descriptor that its conditions use (R179, R180). -/
def attnUses (d : List Byte) : List Nat :=
  let fl := fieldAt d 4 1
  let dir := fieldAt d 0 1
  let used (i : Nat) : Bool :=
    if i ≤ 1 || i = 3 then true
    else if i = 2 then !bitAt fl 5
    else if i = 4 then dir ≠ 0 || bitAt fl 4
    else if i ≤ 7 then bitAt fl 0
    else if i ≤ 9 then bitAt fl 1
    else if i ≤ 11 then bitAt fl 2
    else dir = 2
  ((List.range 16).filter used).map fun i => fieldAt d (32 + 8 * i) 8

/-- The addresses of a vision descriptor that it uses (R247). -/
def visionUses (d : List Byte) : List Nat :=
  [fieldAt d 48 8, fieldAt d 72 8] ++ (if fieldAt d 0 1 ≤ 1 then [fieldAt d 56 8] else []) ++
    (if visionSide d then [fieldAt d 64 8] else [])

/-- An address that the job uses points into DRAM (R177). -/
def namesDram (j : Job) (attn vision : List Byte) : Bool :=
  isDram j.codeAddr || (attn ≠ [] && isDram j.attnAddr) || (vision ≠ [] && isDram j.visionAddr) ||
    (j.streams ≠ [] && isDram j.batchAddr) || (recordsOf attn 176).any (fun d => (attnUses d).any isDram) ||
    (recordsOf vision 80).any fun d => (visionUses d).any isDram

/-- Row 5 of R360: what a P0 job must be. -/
def State.p0JobBad (s : State) (c : Cmd) (j : Job) (attn vision : List Byte) : Bool :=
  (s.sch.jobs.any fun o => o.partition = 0) || j.mode ≠ 1 || j.period ≠ 1 || j.offset ≠ 0 || 100 < j.budget ||
  j.cores ≠ popcount64 s.p0Mask || fieldAt c.data 60 2 ≠ 0 || namesDram j attn vision

/-- The status of a JOB.SUBMIT up to its save area, with the descriptor arrays as read; ORDERED on a periodic or
event job is turned away before R360 is tested (R426). A range in another context's allocation is denied after the rows
of R360 (R413; DESIGN CHOICE 171 for the place). -/
def State.submitStatus (s : State) (c : Cmd) (j : Job) : Nat :=
  let nAttn := fieldAt c.data 56 2
  let nVision := fieldAt c.data 58 2
  let nKv := fieldAt c.data 60 2
  let attn := s.bytesAt j.attnAddr (176 * nAttn)
  let vision := s.bytesAt j.visionAddr (80 * nVision)
  let kv := s.bytesAt j.kvAddr (32 * nKv)
  if j.partition = 0 && c.ring ≠ 0 then stDenied
  else if c.ordered && (j.mode = 1 || j.mode = 2) then stBadParam
  else if 1024 ≤ s.sch.jobs.length then stBusy
  else if s.jobFieldsBad c j then stBadParam
  else if j.cls ≠ s.sch.classes.getD j.partition 7 || (j.mode = 0 && j.cls = 1) || (j.mode ≠ 0 && 2 ≤ j.cls) then stClassDenied
  else if s.maxCores j.partition < j.cores || (moveLive < j.maxLive && s.sch.active.varies j.partition) then stLimit
  else if j.partition = 0 && s.p0JobBad c j attn vision then stBadParam
  else if (0 < nAttn && s.readPoisoned j.attnAddr (176 * nAttn)) ||
      (0 < nVision && s.readPoisoned j.visionAddr (80 * nVision)) || (0 < nKv && s.readPoisoned j.kvAddr (32 * nKv)) then
    stMemPoison
  else if !({ j with attn := attn, vision := vision, bindings := (recordsOf kv 32).map parseBinding }.names.all
      fun r => s.ownsRange c.ring r.1 r.2) then stDenied
  else
    firstBad [firstBad ((recordsOf attn 176).map (s.attnStatus j.partition)),
      firstBad ((recordsOf vision 80).map (s.visionStatus j.partition)),
      firstBad ((recordsOf kv 32).map (s.bindingStatus c.ring))]

/-- Most cores that a job can hold on a die under the active table. -/
def State.coresOn (s : State) (j : Job) (d : Nat) : Nat :=
  min j.cores (((List.range 80).map fun r => popcount64 (s.sch.active.mask r j.partition / 2 ^ (16 * d) % 2 ^ 16)).foldl max 0)

/-- Save areas of a job (R123): on each die, 1 KiB and the live size for as many cores as the active table can give the
job there (log 26); none for P0. -/
def State.saveAreasFor (s : State) (j : Job) : Option (List Nat) :=
  if j.partition = 0 then some [0, 0, 0, 0]
  else (List.range 4).foldr (fun d acc =>
    match acc, if 0 < s.coresOn j d && (s.dramAt d).inService then s.placeDram d (s.coresOn j d * j.saveBytes) 64 d
        else some 0 with
    | some l, some a => some (a :: l)
    | _, _ => none) (some [])

/-- A job is accepted (R361, R367, R368, R388, R424). -/
def State.acceptJob (s : State) (c : Cmd) (j : Job) (areas : List Nat) : State :=
  let attn := s.bytesAt j.attnAddr (176 * fieldAt c.data 56 2)
  let vision := s.bytesAt j.visionAddr (80 * fieldAt c.data 58 2)
  let kv := s.bytesAt j.kvAddr (32 * fieldAt c.data 60 2)
  let j := { j with
    seq := s.seqOf c, attn := attn, vision := vision, bindings := (recordsOf kv 32).map parseBinding
    usesMask := (recordsOf attn 176).any fun d => bitAt (fieldAt d 4 1) 1
    order := s.sch.nextOrder, acceptedLink := s.tb.link, saveAreas := areas
    released := j.mode = 0, releasePending := j.mode = 0, releases := bit01 (j.mode = 0) }
  let s := (List.range 4).foldl (fun x d => if areas.getD d 0 = 0 then x
    else x.addAlloc { base := areas.getD d 0, size := s.coresOn j d * j.saveBytes, firmware := true }) s
  let s := s.onSch fun x => { x with jobs := x.jobs ++ [j], nextOrder := x.nextOrder + 1 }
  let s := s.onCtx c.ring fun x => { x with accepted := (x.accepted + 1) % 2 ^ 32 }
  let s := if j.partition = 0 then s.wdStart 0 else s
  let s := if j.wdSlot ≠ 0xFF then s.wdStart j.wdSlot else s
  if j.mode = 0 then s else (s.onCtx c.ring fun x => x.settle j.seq).flushRing c.ring

/-- JOB_SUBMIT (R360, R430 to R432). -/
def execJobSubmit (c : Cmd) (s : State) : Out :=
  .next (runCmd 3 1 c s fun s =>
    let j := parseJob c
    let st := s.submitStatus c j
    if st ≠ stOk then s.complete c st
    else match s.saveAreasFor j with
      | none => s.complete c stNoMemory
      | some areas => (s.bump).acceptJob c j areas)

/-- The job that a command names by tag and context. -/
def State.namedJob (s : State) (c : Cmd) : Option Job := s.job { ctx := c.word 1 % 256, tag := c.word 0 }

/-- JOB_CANCEL (R366). -/
def execJobCancel (c : Cmd) (s : State) : Out :=
  .next (runCmd 3 2 c s fun s =>
    match s.namedJob c with
    | none => s.complete c stBadParam
    | some j =>
      if j.partition = 0 && (s.running || s.dev.mode = .replay) then s.complete c stMode
      else (s.complete c stOk).requestEnd j.key stCancelled)

def JobState.code : JobState → Nat
  | .queued => 0
  | .running => 1
  | .stopping => 2
  | .preempted => 3
  | .idle => 4
  | .ended => 5

/-- JOB_QUERY (R129, R366, R433). -/
def execJobQuery (c : Cmd) (s : State) : Out :=
  .next (runCmd 3 3 c s fun s =>
    match s.namedJob c with
    | none => s.complete c stBadParam
    | some j => s.complete c (if j.state = .preempted then stPreempted else stOk) j.state.code j.releases
        (resultWord2 j.flagRec j.reruns false))

end Sys2Proof.Machine
end

