-- ==== Sys2Proof/Machine/Schedule.lean ====
section
/-! DEFINITION. Meanings of the scheduling rows (chapter 14): the shadow table and its checks, the switch, the
guard, placement, saves and restores, releases, budgets, deadlines, row events and self-test slots. -/

namespace Sys2Proof.Machine

/-! ### The shadow table (R347, R348, R355, R356) -/

def parseEvent (d : List Byte) : RowEvent :=
  { offset := fieldAt d 0 1, kind := fieldAt d 1 1, partition := fieldAt d 2 1, releaseId := fieldAt d 3 1
    length := fieldAt d 4 2, reserved := fieldAt d 6 2 }

def parseRow (d : List Byte) : TableRow :=
  { masks := (List.range 16).map fun p => fieldAt d (8 * p) 8
    events := (List.range 8).map fun e => parseEvent ((d.drop (128 + 8 * e)).take 8) }

/-- An event's fields are in range (R348). -/
def eventOk (e : RowEvent) : Bool :=
  e.reserved = 0 && e.offset ≤ 99 &&
  (match e.kind with
   | 0 => e.offset = 0 && e.partition = 0 && e.releaseId = 0 && e.length = 0
   | 1 => e.partition = 0 && e.releaseId ≤ 15 && e.length = 0
   | 2 => 1 ≤ e.partition && e.partition ≤ 15 && e.releaseId = 0 && 1 ≤ e.length && e.offset + e.length ≤ 95
   | 3 => e.partition = 0 && e.releaseId = 0 && 1 ≤ e.length && e.offset + e.length ≤ 95
   | _ => false)

/-- The first (row, index) of a table at which a test fails. -/
def firstFail (test : Nat → Nat → Bool) (width : Nat) : Option (Nat × Nat) :=
  (List.range 80).findSome? fun r => ((List.range width).find? fun i => !test r i).map fun i => (r, i)

/-- Masks of partitions below `p` in a row. -/
def Table.below (t : Table) (r p : Nat) : Nat := (List.range p).foldl (fun m q => m ||| t.mask r q) 0

/-- Every core of a mask is present. -/
def State.allPresent (s : State) (m : Nat) : Bool := (List.range 64).all fun g => !bitAt m g || s.corePresent g

/-- The mask names cores of one die only. -/
def oneDie (m : Nat) : Bool := (List.range 4).any fun d => m / 2 ^ (16 * d) < 2 ^ 16 && m % 2 ^ (16 * d) = 0

/-- Check 4 of R356: absent cores. -/
def State.absentCheck (s : State) (t : Table) : Option (Nat × Nat) :=
  firstFail (fun r p => s.allPresent (t.mask r p)) 16

/-- Check 9 of R356: a job above 239 KiB on a partition that varies. -/
def State.liveCheck (s : State) (t : Table) : Option (Nat × Nat) :=
  ((List.range 16).find? fun p => t.varies p && s.sch.jobs.any fun j => j.partition = p && moveLive < j.maxLive).map
    fun p => (0, p)

/-- The first failing check of R356: code, row and index. Of two partitions that share a core, either may be
named (log 29). -/
def State.tableCheck (s : State) (t : Table) : Option (Nat × Nat × Nat) :=
  let h := t.header
  let fail (code : Nat) (x : Option (Nat × Nat)) : Option (Nat × Nat × Nat) := x.map fun y => (code, y.1, y.2)
  let overlap : Option (Nat × Nat) :=
    (firstFail (fun r p => t.mask r p &&& t.below r p = 0) 16).map fun x =>
      if s.draw 0 % 2 = 0 then x
      else (x.1, ((List.range x.2).find? fun q => t.mask x.1 q &&& t.mask x.1 x.2 ≠ 0).getD x.2)
  let cls (p : Nat) : Nat := s.sch.classes.getD p 7
  let ev (r i : Nat) : RowEvent := ((t.rows.getD r {}).events).getD i {}
  (fail 1 (if fieldAt h 0 4 = 0x54535755 && fieldAt h 4 2 = 1 && fieldAt h 6 2 = 80 && fieldAt h 8 4 ≠ 0 &&
      fieldAt h 16 48 = 0 then none else some (0, 0))).or <|
  (fail 2 (if fieldAt h 12 4 = crc32c (h.take 12 ++ t.rowBytes) then none else some (0, 0))).or <|
  (fail 3 overlap).or <|
  (fail 4 (s.absentCheck t)).or <|
  (fail 5 (firstFail (fun r _ => t.mask r 0 = t.mask 0 0 && t.mask r 0 ≠ 0 && popcount64 (t.mask r 0) ≤ 16 &&
      oneDie (t.mask r 0)) 1)).or <|
  (fail 6 (firstFail (fun r p => t.mask r p = 0 || cls p ≠ 7) 16)).or <|
  (fail 7 (firstFail (fun r i => eventOk (ev r i)) 8)).or <|
  (fail 8 (firstFail (fun r i => (ev r i).kind ≠ 2 ||
      (cls (ev r i).partition = 3 && t.mask r (ev r i).partition ≠ 0)) 8)).or <|
  fail 9 (s.liveCheck t)

/-- Validation of a shadow that has all rows (R356). -/
def State.validate (s : State) (c : Cmd) : State :=
  match s.tableCheck s.sch.shadowTable with
  | none => (s.onSch fun x => { x with shadow := .valid }).complete c stOk
  | some (code, row, i) =>
    (s.onSch fun x => { x with shadow := .invalid }).bump.complete c stTableInvalid (code + 2 ^ 8 * row + 2 ^ 16 * i)

/-- SCH_LOAD (R355, R356). -/
def execSchLoad (c : Cmd) (s : State) : Out :=
  .next (runCmd 4 1 c s fun s =>
    let first := c.word 0 % 256
    let count := bitsOf (c.word 0) 15 8
    let loaded := s.sch.shadowTable.rows.length
    if c.length ≠ (if first = 0 then 64 else 0) + 192 * count then s.complete c stBadLength
    else if 80 < first + count || (first ≠ 0 && (s.sch.shadow ≠ .part || first ≠ loaded)) then s.complete c stBadParam
    else
      let old : Table := if first = 0 then { header := c.data.take 64, id := fieldAt c.data 8 4 } else s.sch.shadowTable
      let bytes := if first = 0 then c.data.drop 64 else c.data
      let t := { old with
        rows := old.rows ++ (List.range count).map fun i => parseRow ((bytes.drop (192 * i)).take 192)
        rowBytes := old.rowBytes ++ bytes }
      let s := s.onSch fun x => { x with shadow := .part, shadowTable := t }
      if t.rows.length = 80 then s.validate c else s.complete c stOk)

/-- SCH_ARM (R357, R358). -/
def execSchArm (c : Cmd) (s : State) : Out :=
  .next (runCmd 4 2 c s fun s =>
    (s.onSch fun x => { x with armed := true, armLink := if x.armed then x.armLink else s.tb.link }).await c
      (.arm s.tb.link false))

/-- A table gives a partition cores in some row. -/
def Table.gives (t : Table) (p : Nat) : Bool := (List.range 80).any fun r => t.mask r p ≠ 0

/-- SCH_PARTITION (R345). -/
def execSchPartition (c : Cmd) (s : State) : Out :=
  .next (runCmd 4 3 c s fun s =>
    let p := c.word 0 % 16
    let k := bitsOf (c.word 0) 11 8
    if s.dev.mode ≠ .config then s.complete c stMode
    else if p = 0 || !(k = 1 || k = 2 || k = 3 || k = 15) then s.complete c stBadParam
    else if (s.sch.jobs.any fun j => j.partition = p) ||
        (k = 15 && (s.sch.active.gives p || (s.sch.shadow = .valid && s.sch.shadowTable.gives p) ||
          (s.sch.switchAt.isSome && s.sch.next.gives p))) then s.complete c stBusy
    else (s.onSch fun x => { x with classes := x.classes.set p (if k = 15 then 7 else k) }).complete c stOk)

/-- SCH_QUERY (R358, R368). -/
def execSchQuery (c : Cmd) (s : State) : Out :=
  .next (runCmd 4 4 c s fun s =>
    if bitAt (c.word 0) 31 then
      let x := s.ctx (c.word 0 % 256)
      if !x.isOpen then s.complete c stBadParam else s.complete c stOk (x.accepted + 2 ^ 32 * x.ended)
    else s.complete c stOk s.schStatus s.sch.active.id (if s.sch.shadow = .empty then 0 else s.sch.shadowTable.id))

/-! ### The switch and moving cores (R350 to R353, R357) -/

/-- The partition that holds a core in a row of a table (R343). -/
def Table.holder (t : Table) (row g : Nat) : Option Nat := (List.range 16).find? fun p => bitAt (t.mask row p) g

/-- First link of the next chain. -/
def State.nextChain (s : State) : Nat := s.tb.link + 100 - s.phase s.tb.link % 100

/-- Table and row of the next chain. -/
def State.nextRow (s : State) : Table × Nat :=
  let r := (s.sch.row + 1) % 80
  (if r = 0 && s.sch.switchAt = some s.nextChain then s.sch.next else s.sch.active, r)

/-- A core moves at the next boundary (R350). -/
def State.coreMoving (s : State) (g : Nat) : Bool :=
  s.sch.active.holder s.sch.row g ≠ s.nextRow.1.holder s.nextRow.2 g

/-- The last five links of a chain (R350). -/
def State.inGuard (s : State) : Bool := 95 ≤ s.phase s.tb.link % 100

/-- A SCH.ARM accepted before a link is decided in it (R357). -/
def markDecided (link : Nat) (o : Open) : Open :=
  match o.wait with
  | .arm l _ => if l < link then { o with wait := .arm l true } else o
  | _ => o

/-- A SCH.ARM of the link in progress, which waits for the following boundary (R357). -/
def State.armsLater (s : State) : Bool := s.hl.opens.any fun o => o.wait = .arm s.tb.link false

/-- SCH_SWITCH_DECISION (R357): at the start of link b - 5 of a mile boundary b, once, for an arm in force by then. -/
def execSchSwitchDecision (s : State) : Out :=
  .next (if !s.sch.armed || s.tb.link ≤ s.sch.armLink || s.phase (s.tb.link + 5) % 8000 ≠ 0 || !s.up ||
      s.sch.switchAt = some (s.tb.link + 5) || s.sch.deferAt = some (s.tb.link + 5) then s
    else
      let b := s.tb.link + 5
      let t := s.sch.shadowTable
      let why :=
        if s.sch.shadow ≠ .valid then 1
        else if (s.running || s.dev.mode = .replay) && t.mask 0 0 ≠ s.p0Mask then 2
        else if (s.absentCheck t).isSome then 3
        else if (s.liveCheck t).isSome then 4
        else 0
      let s := s.onHl fun h => { h with opens := h.opens.map (markDecided s.tb.link) }
      s.onSch fun x =>
        if why = 0 then { x with
          armed := s.armsLater, armLink := s.tb.link, switchAt := some b, next := t, shadow := .empty, shadowTable := {}
          lastDecision := 1, deferReason := 0 }
        else { x with deferAt := some b, lastDecision := 2, deferReason := why })

/-- Hub firmware writes the P0 core mask of the active table to every DRAM controller (R176). -/
def State.sendP0Mask (s : State) : State :=
  { s with dram := s.dram.map fun d => { d with p0Mask := s.p0Mask } }

/-- A SCH.ARM whose boundary has been decided. -/
def Wait.isDecided : Wait → Bool
  | .arm _ d => d
  | _ => false

/-- At a mile boundary the table that was decided takes over, or the arm's commands complete as deferred. -/
def State.tableSwitch (s : State) : State :=
  if s.sch.switchAt = some s.tb.link then
    let s := s.onSch fun x => { x with active := x.next, next := {}, switchAt := none }
    let s := s.sendP0Mask.sched 2 none none
    s.finish Wait.isDecided stOk
  else if s.sch.deferAt = some s.tb.link then
    (s.onSch fun x => { x with deferAt := none }).finish Wait.isDecided stDeferred
  else s

/-- CHAIN_GUARD_START (R351): stop requests to the jobs that hold a core that moves; P0 is never stopped by
the schedule (R342). -/
def execChainGuardStart (s : State) : Out :=
  .next (if s.phase s.tb.link % 100 ≠ 95 || !s.up then s
    else
      (s.sch.jobs.filter fun j => j.partition ≠ 0 && j.placed.any s.coreMoving).foldl (fun x j => x.stopJob j.key) s)

/-- A core is held by a job of another partition than the row's and has not left it in time: its tile still runs, or
its save still runs after the first link of the chain (R353). -/
def State.overstays (s : State) (g : Nat) : Bool :=
  match s.coreJob g with
  | none => false
  | some j => s.sch.active.holder s.sch.row g ≠ some j.partition &&
      ((s.core g).run = .running || ((s.core g).run = .saving && decide (1 ≤ s.phase s.tb.link % 100)))

/-- SAVE_DEADLINE_EXPIRY (R353). -/
def execSaveDeadlineExpiry (core : Nat) (s : State) : Out :=
  .next (if s.overstays core then s.failOn core stTileFault else s)

/-! ### Self-test slots (R369) -/

/-- A core lies in an open self-test slot. -/
def State.inSlot (s : State) (g : Nat) : Bool := s.sch.slots.any fun x => x.2.2.2.contains g

/-! ### Placement (R354, R124, R432) -/

/-- A die admits jobs: in service and switched on, and for a job outside P0 not parked (R519). -/
def State.dieOpen (s : State) (part d : Nat) : Bool :=
  (s.dramAt d).inService && !(s.pwr.off.getD d false) && (part = 0 || !(s.pwr.parked.getD d false))

/-- A core of a partition is free for placement (R352, R354, R369, R519): one that is to be retired is not (R496). -/
def State.coreFree (s : State) (part g : Nat) : Bool :=
  bitAt (s.maskNow part) g && s.corePresent g && (s.core g).job = none && (s.core g).run = .idle && !s.inSlot g &&
    s.dieOpen part (g / 16) && !(s.inGuard && s.coreMoving g) && !s.coreDue g

/-- The sequences of a job are active (R221, R230). -/
def State.seqsActive (s : State) (j : Job) : Bool :=
  j.bindings.all fun b => (s.seqAt b.seq).any fun q => q.state = .active

/-- A candidate of R354 that may be placed: its release is pending and its sequences are active (R221, R230). -/
def State.candidate (s : State) (part : Nat) (j : Job) : Bool :=
  j.partition = part && (j.state = .queued || j.state = .preempted) && j.placed = [] && j.releasePending &&
    j.endWith = none && s.seqsActive j

/-- Order of placement (R354). -/
def placeBefore (a b : Job) : Bool :=
  let pre (j : Job) : Nat := if j.state = .preempted then 0 else 1
  b.priority < a.priority || (a.priority = b.priority && (pre a < pre b || (pre a = pre b && a.order ≤ b.order)))

/-- The cores a job gets of the free ones (R354): the lowest, with a mask-capable one as rank 0 when needed. -/
def State.pickCores (s : State) (free : List Nat) (j : Job) : Option (List Nat) :=
  let capable (g : Nat) : Bool := match s.cores.map.getD g none with
    | some u => maskCapable u
    | none => false
  if free.length < j.cores then none
  else if !j.usesMask then some (free.take j.cores)
  else match free.find? capable with
    | none => none
    | some g => some (g :: (free.filter (· ≠ g)).take (j.cores - 1))

/-- The input snapshot of a P0 release (R370), for samples of link `n`. -/
def State.snapshot (s : State) (n : Nat) : List Byte :=
  leBytes 8 (linkTs n) ++
    leBytes 8 ((List.range 64).map fun i => bit01 (s.node i).stale * 2 ^ i).sum ++
    (List.range 64).flatMap fun i => (s.node i).sample

/-- The snapshot of a release is written into rank 0's scratchpad, on VC0 (R370). -/
def State.putSnapshot (s : State) (j : Job) : State :=
  match j.placed.head? with
  | none => s
  | some g => (s.write (spadOf g + 4 * j.snap) j.input).carryWrite .control 0 0xFF (spadOf g + 4 * j.snap) j.input

/-- The snapshot of a release that is due is taken from the samples of link `n`, and written where the job's cores are
known and its previous release has ended (R370). -/
def State.writeSnapshot (s : State) (j : Job) (n : Nat) : State :=
  let j := { j with input := s.snapshot n }
  let s := s.onJob j.key fun x => { x with input := j.input }
  if j.released then s else s.putSnapshot j

/-- A link in which a job holds a core counts once (R362). -/
def State.chargeLink (s : State) (k : JobKey) : State :=
  s.onJob k fun j => if j.chargedLink = some s.tb.link then j
    else { j with charged := j.charged + 1, chargedLink := some s.tb.link }

/-- A job's first placement: cores loaded, first tiles at entry_pc, unless write ranges wait for their
resolution (R220). -/
def State.startFirst (s : State) (k : JobKey) (gs : List Nat) : State :=
  match s.job k with
  | none => s
  | some j =>
    let waits := (j.bindings.any Binding.writes) && !j.resolved
    let s := (List.range gs.length).foldl (fun x r =>
      let g := gs.getD r 0
      let b := x.firstBlock j g
      ((x.loadSpad g j).onCore g fun y =>
        let z := { y with job := some k, rank := r, stopReq := false }
        if waits then { z with reg := b, snap := b, unitsOn := true } else z.startTile b x.tsNow).bump) s
    let s := if j.partition = 0 then s.putSnapshot j else s
    if s.readPoisoned j.codeAddr j.codeBytes then s.requestEnd k stMemPoison else s

/-- A preempted job's cores begin their restore; a release that began meanwhile starts at entry_pc. -/
def State.startRestore (s : State) (k : JobKey) (gs : List Nat) : State :=
  let s := s.onJob k fun j => { j with
    saves := if j.fresh then j.saves.map fun o => { o with reg := releaseBlock j o.reg } else j.saves
    halted := if j.fresh then [] else j.halted
    fresh := false }
  (List.range gs.length).foldl (fun x r => x.onCore (gs.getD r 0) fun y =>
    { y with job := some k, rank := r, run := .restoring, stopReq := false, unitsOn := true }) s

/-- A job is placed on cores (R367). -/
def State.placeJob (s : State) (j : Job) (gs : List Nat) : State :=
  let s := s.onJob j.key fun x => { x with
    state := .running, placed := gs, releasePending := false, everRan := true }
  let s := if j.state = .queued then s.startFirst j.key gs else s.startRestore j.key gs
  s.chargeLink j.key

/-- JOB_PLACEMENT (R354). -/
def execJobPlacement (part : Nat) (s : State) : Out :=
  .next (if !s.up then s
    else (sortBy placeBefore (s.sch.jobs.filter (s.candidate part))).foldl (fun x j =>
      match x.pickCores ((List.range 64).filter (x.coreFree part)) j with
      | none => x
      | some gs => x.placeJob j gs) s)

/-- CONTEXT_SAVE_DONE (R124, R229, R367, R369). -/
def execContextSaveDone (core : Nat) (s : State) : Out :=
  .next (if (s.core core).run = .saving then
      let s := s.saveDone core
      (s.kv.seqs.map (·.id)).foldl State.driveOut s
    else s)

/-- CONTEXT_RESTORE_DONE (R124, R143, R159, R432): the scratchpad is cleared, rank table and live regions come back from
where they were saved, then code and descriptors, and a new tile begins at the restored pc. -/
def execContextRestoreDone (core : Nat) (s : State) : Out :=
  .next (match s.coreJob core with
    | none => s
    | some j =>
      let k := s.core core
      match j.saves.find? fun o => o.rank = k.rank with
      | none => s
      | some sv =>
        if k.run ≠ .restoring then s
        else if sv.poisoned || (sv.addr ≠ 0 && s.readPoisoned sv.addr sv.bytes) || s.readPoisoned j.codeAddr j.codeBytes then
          (s.afterRead sv.addr sv.bytes).failOn core stMemPoison
        else
          let s := if sv.addr = 0 then s
            else s.carryRead (classOrigin j.cls) (core / 16 + 1) 0xFF sv.addr (s.bytesAt sv.addr sv.bytes)
          let s := sv.regions.foldl (fun x r => x.write (spadOf core + r.1) r.2) (s.clearSpad core)
          let s := (s.loadCode core j).loadDescs core j
          let b := { sv.reg with ranks := rankTable j.placed }
          let s := s.onCore core fun y =>
            let z := y.startTile b s.tsNow
            if j.halted.contains k.rank then { z with run := .halted } else z
          s.bump)

/-! ### Releases (R361 to R363, R280) -/

/-- The board entries of a job's streams go into its batch table, and their buffers are busy (R280). -/
def State.copyBatch (s : State) (j : Job) : State :=
  let rows := j.streams.flatMap fun st => s.bytesAt (s.boardEntry st) 64
  let held := j.streams.filterMap fun st => (s.boardTensor st).map fun a => (st, a)
  ((s.write j.batchAddr rows).carryWrite (classOrigin j.cls) 0 0xFF j.batchAddr rows).onJob j.key fun x => { x with batch := held }

/-- A release starts its first tiles on the cores that the job keeps (R363). -/
def State.startRelease (s : State) (k : JobKey) : State :=
  match s.job k with
  | none => s
  | some j =>
    let s := if j.partition = 0 then s.putSnapshot j else s
    (j.placed.foldl (fun x g => x.onCore g fun y => y.startTile (releaseBlock j y.snap) x.tsNow) s).bump

/-- A release of a periodic or event job in this link (R361, R363); one that finds the previous not ended is
skipped and counted. In a guard a job on cores that move starts nothing: it is saved, its release pending (R351,
R352). -/
def State.releaseJob (s : State) (j : Job) : State :=
  if j.released then
    (s.onSch fun x => { x with missed := satInc 65535 x.missed }).onJob j.key fun x => { x with releasedAt := some s.tb.link }
  else if j.endWith.isSome then s
  else
    let s := s.onJob j.key fun x => { x with
      released := true, releases := x.releases + 1, releasedAt := some s.tb.link, charged := 1
      chargedLink := some s.tb.link, flagRec := 0, overrun := false, markEnd := false }
    let s := s.sched 3 (some j.partition) none
    let s := if j.streams = [] then s else s.copyBatch j
    let s := if j.partition = 0 then s.onAsz fun a => { a with p0ReleasedSince := true } else s
    let waits (t : State) : State := t.onJob j.key fun x => { x with releasePending := true, fresh := true, halted := [] }
    match j.state with
    | .idle =>
      if s.inGuard && j.placed.any s.coreMoving then waits (s.stopJob j.key)
      else (s.onJob j.key fun x => { x with state := .running }).startRelease j.key
    | .preempted => waits s
    | .stopping => waits s
    | _ => s.onJob j.key fun x => { x with releasePending := true }

/-- The modes in which a job may be released (R361). -/
def State.releaseMode (s : State) (j : Job) : Bool :=
  s.up && (j.partition ≠ 0 || s.running || s.dev.mode = .replay)

/-- A link of the periodic job's phase (R361). -/
def State.periodicDue (s : State) (j : Job) (link : Nat) : Bool :=
  j.mode = 1 && s.tb.mile ≤ link && (link - s.tb.mile) % (100 * j.period) = j.offset

/-- PERIODIC_RELEASE (R361). Pair B runs the releases of P0 (R375). -/
def execPeriodicRelease (ctx tag : Nat) (s : State) : Out :=
  .next (match s.job { ctx := ctx, tag := tag } with
    | none => s
    | some j =>
      if s.periodicDue j s.tb.link && s.releaseMode j && j.releasedAt ≠ some s.tb.link &&
          (j.partition ≠ 0 || s.asz.pairBOk) then
        s.releaseJob j else s)

/-- The event `ev` of the row in force, when its link is the present one (R349). Pair B runs the table (R375). -/
def State.eventNow (s : State) (ev kind : Nat) : Option RowEvent :=
  let e := ((s.sch.active.rows.getD s.sch.row {}).events).getD ev {}
  if s.up && s.asz.pairBOk && e.kind = kind && e.offset = s.phase s.tb.link % 100 then some e else none

/-- ROW_EVENT_RELEASE (R349, R361). -/
def execRowEventRelease (ev : Nat) (s : State) : Out :=
  .next (match s.eventNow ev 1 with
    | none => s
    | some e => (s.sch.jobs.filter fun j =>
        j.mode = 2 && j.releaseId = e.releaseId && s.releaseMode j && j.releasedAt ≠ some s.tb.link).foldl (fun x j => x.releaseJob j) s)

/-- BUDGET_EXPIRY (R362): stop requests, or the release's end at once when the job holds no core. -/
def execBudgetExpiry (ctx tag : Nat) (s : State) : Out :=
  .next (match s.job { ctx := ctx, tag := tag } with
    | none => s
    | some j =>
      if j.charged < j.budget || !j.released || j.overrun || j.endWith.isSome then s
      else
        let s := s.onSch fun x => { x with overruns := satInc 65535 x.overruns }
        if j.placed = [] then
          (if j.mode = 0 then (s.onJob j.key fun x => { x with overrun := true }).endJob j.key stTimeout
           else (s.releaseCompletion j stTimeout true).onJob j.key fun x => { x with
             released := false, releasePending := false, fresh := false, halted := [] })
        else
          let s := s.onJob j.key fun x => { x with overrun := true }
          j.placed.foldl (fun x g =>
            match (x.core g).run with
            | .running => x.onCore g fun y => { y with stopReq := true }
            | .restoring => x.onCore g fun y => { y with stopReq := true }
            | .idle => x.haltCore g
            | _ => x) s)

/-- JOB_DEADLINE_EXPIRY (R365). -/
def execJobDeadlineExpiry (ctx tag : Nat) (s : State) : Out :=
  .next (match s.job { ctx := ctx, tag := tag } with
    | none => s
    | some j =>
      if j.state = .queued && !j.everRan && s.deadlinePassed j.deadline then s.bump.endJob j.key stTimeout else s)

/-! ### Row events of self-test and BGD windows (R349, R369) -/

/-- ROW_EVENT_SELFTEST (R349, R369): one that meets an open slot of its partition keeps that slot open for its own
length. -/
def execRowEventSelftest (ev : Nat) (s : State) : Out :=
  .next (match s.eventNow ev 2 with
    | none => s
    | some e =>
      if s.sch.classes.getD e.partition 7 ≠ 3 then s
      else if s.sch.slots.any fun x => x.1 = e.partition then
        s.onSch fun x => { x with slots := x.slots.map fun y =>
          if y.1 = e.partition then (y.1, y.2.1, max y.2.2.1 (s.tb.link + e.length), y.2.2.2) else y }
      else
        let gs := (List.range 64).filter fun g => bitAt (s.maskNow e.partition) g && s.corePresent g
        let s := s.onSch fun x => { x with slots := x.slots ++ [(e.partition, s.tb.link, s.tb.link + e.length, gs)] }
        let s := (s.sch.jobs.filter fun j => j.placed.any gs.contains).foldl (fun x j => x.stopJob j.key) s
        s.beginSelftests)

/-- SELFTEST_SLOT_END (R369): in the slot's last link the cores are cleared and returned to placement. -/
def execSelftestSlotEnd (part : Nat) (s : State) : Out :=
  .next (match s.sch.slots.find? fun x => x.1 = part with
    | none => s
    | some x =>
      if s.tb.link + 1 < x.2.2.1 then s
      else
        let s := s.onSch fun y => { y with slots := y.slots.filter fun z => z.1 ≠ part }
        x.2.2.2.foldl (fun y g => if (y.core g).run = .selftest then y.freeCore g else y) s)

/-- ROW_EVENT_BGD_WINDOW (R349): exports that wait for a window start. -/
def execRowEventBgdWindow (ev : Nat) (s : State) : Out :=
  .next (match s.eventNow ev 3 with
    | none => s
    | some e => (s.onSch fun x => { x with bgdUntil := max x.bgdUntil (s.tb.link + e.length) }).runExports)

/-- BGD_WINDOW_END (R349): no transfer starts from now on. -/
def execBgdWindowEnd (s : State) : Out :=
  .next (if s.sch.bgdUntil ≤ s.tb.link then s.onSch fun x => { x with bgdUntil := 0 } else s)

end Sys2Proof.Machine
end

