-- ==== Sys2Proof/Machine/Intake.lean ====
section
/-! DEFINITION. Sensor intake (chapter 11): stream and pipe configuration, frames from start to publication, the
pipes and their check frames, decode budgets, and the ports. -/

namespace Sys2Proof.Machine

/-! ### Streams (R263 to R266) -/

def parseStream (d : List Byte) : StreamCfg :=
  { port := fieldAt d 1 1, vc := fieldAt d 2 1, dt := fieldAt d 3 1, width := fieldAt d 4 2, height := fieldAt d 6 2
    maxBytes := fieldAt d 8 4, embLines := fieldAt d 12 1, profile := fieldAt d 13 1, nbuf := fieldAt d 14 1
    flags := fieldAt d 15 1, latency := fieldAt d 16 4, period := fieldAt d 20 4, budget := fieldAt d 24 4
    fcOffset := fieldAt d 28 2, bufs := (List.range 4).map fun i => fieldAt d (32 + 8 * i) 8 }

def StreamCfg.kind (x : StreamCfg) : PixKind := (pixKind x.dt).getD .depth
/-- Bytes of an image line (R261). -/
def StreamCfg.lineBytes (x : StreamCfg) : Nat := x.kind.lineBytes x.width
/-- Lines of a frame (R263). -/
def StreamCfg.allLines (x : StreamCfg) : Nat := x.embLines + x.height

/-- Row 2 of R264. -/
def streamLimit (x : StreamCfg) : Bool :=
  x.width < 16 || 8192 < x.width || x.height < 8 || 8192 < x.height || x.maxBytes = 0 || 67108864 < x.maxBytes ||
    4 < x.embLines || x.nbuf < 2 || 4 < x.nbuf || x.period < 100 || 1000000 < x.period ||
    (x.budget ≠ 0 && (x.budget < 100 || x.period < x.budget))

/-- Row 3 of R264 for stream `i`. -/
def State.streamBad (s : State) (d : List Byte) (i : Nat) (x : StreamCfg) : Bool :=
  15 < i || 7 < x.port || 15 < x.vc || (pixKind x.dt).isNone || 15 < x.profile || 7 < x.flags ||
    fieldAt d 30 2 ≠ 0 || !x.kind.widthOk x.width ||
    (List.range 16).any (fun k => k ≠ i && (s.stream k).cfg.any fun y => y.port = x.port && y.vc = x.vc) ||
    x.maxBytes < x.lineBytes * x.height || (bitAt x.flags 0 && decide (x.lineBytes < x.fcOffset + 4)) ||
    (List.range 4).any fun b =>
      if b < x.nbuf then !(isHub (x.bufs.getD b 0) || isSpad (x.bufs.getD b 0)) else x.bufs.getD b 0 ≠ 0

/-- ITK_STREAM_CONFIG (R264). -/
def execItkStreamConfig (c : Cmd) (s : State) : Out :=
  .next (runCmd 7 1 c s fun s =>
    let i := fieldAt c.data 0 1
    let x := parseStream c.data
    if (s.stream i).running then s.complete c stBusy
    else if s.dev.mode = .recovery then s.complete c stMode
    else if streamLimit x then s.complete c stLimit
    else if s.streamBad c.data i x then s.complete c stBadParam
    else (s.onStream i fun y => { y with cfg := some x }).complete c stOk)

def parseProfile (d : List Byte) : Profile :=
  { demosaic := fieldAt d 1 1, resize := fieldAt d 2 1, ofmt := fieldAt d 3 1, layout := fieldAt d 4 1
    outZp := fieldAt d 5 1, channels := fieldAt d 6 1, rw := fieldAt d 64 2, rh := fieldAt d 66 2
    cx := fieldAt d 68 2, cy := fieldAt d 70 2, cw := fieldAt d 72 2, ch := fieldAt d 74 2, raw := d }

/-- A field of a profile out of its range (R270, R271, log 34). -/
def profileLimit (i : Nat) (p : Profile) : Bool :=
  15 < i || 1 < p.resize || !(4 ≤ p.ofmt && p.ofmt ≤ 7) || 1 < p.layout || (p.ofmt ≠ 4 && p.outZp ≠ 0) ||
    !(p.channels = 1 || p.channels = 3) || p.rw = 0 || p.rh = 0 || p.cw = 0 || p.rw < p.cx + p.cw || p.ch = 0 ||
    p.rh < p.cy + p.ch

/-- A reserved value or byte of a profile. -/
def profileBad (p : Profile) : Bool := 4 < p.demosaic || fieldAt p.raw 7 1 ≠ 0 || fieldAt p.raw 100 28 ≠ 0

/-- A running stream names the profile. -/
def State.profileBusy (s : State) (i : Nat) : Bool :=
  s.itk.streams.any fun x => x.running && (x.cfg.getD {}).profile = i

/-- ITK_PIPE_CONFIG (R271). -/
def execItkPipeConfig (c : Cmd) (s : State) : Out :=
  .next (runCmd 7 2 c s fun s =>
    let i := fieldAt c.data 0 1
    let p := parseProfile c.data
    if s.profileBusy i then s.complete c stBusy
    else if profileLimit i p then s.complete c stLimit
    else if profileBad p then s.complete c stBadParam
    else (s.onItk fun x => { x with profiles := x.profiles.set i (some p) }).complete c stOk)

/-- A profile suits a stream's data type and size (R270). -/
def profileSuits (x : StreamCfg) (p : Profile) : Bool :=
  (match x.kind with
   | .raw _ => p.channels = (if p.demosaic = 0 then 1 else 3)
   | .depth => p.demosaic = 0 && p.channels = 1
   | _ => p.demosaic = 0 && p.channels = 3) &&
  ceilDiv x.width 8 ≤ p.rw && p.rw ≤ x.width && ceilDiv x.height 8 ≤ p.rh && p.rh ≤ x.height

/-- Room of a buffer: to the end of its memory, or to the next buffer of the stream (log 36). -/
def StreamCfg.room (x : StreamCfg) (b : Nat) : Nat :=
  let a := x.bufs.getD b 0
  let top := if isHub a then hubTop else spadOf (spadCore a) + spadBytes
  ((((x.bufs.take x.nbuf).filter (a < ·)).foldl min top)) - a

/-- ITK_STREAM_START (R265): a stream that runs is ST_BUSY, one without a configuration ST_BAD_PARAM
(log 36). -/
def execItkStreamStart (c : Cmd) (s : State) : Out :=
  .next (runCmd 7 3 c s fun s =>
    let i := c.word 0 % 16
    if (s.stream i).running then s.complete c stBusy
    else match (s.stream i).cfg with
      | none => s.complete c stBadParam
      | some x =>
        match s.itk.profiles.getD x.profile none with
        | none => s.complete c stBadParam
        | some p =>
          if !profileSuits x p then s.complete c stBadParam
          else if (List.range x.nbuf).any fun b => x.room b < p.tensorBytes then s.complete c stLimit
          else ((s.onStream i fun y => { y with
              running := true, nextSeq := 0, frames := [], decodes := []
              budget := if x.budget = 0 then x.period else x.budget }).wdStart (16 + i)).complete c stOk)

/-! ### Buffers and pipes (R269, R279) -/

/-- Buffers of a stream that are busy (R279): published, named by a batch row, or held by a frame. -/
def State.bufBusy (s : State) (i b : Nat) : Bool :=
  let a := (s.stream i).bufAddr b
  s.boardTensor i = some a || (s.sch.jobs.any fun j => j.batch.contains (i, a)) ||
    (s.stream i).frames.any fun f => f.buffer = some b && !f.published && (f.resolved = none || f.resolved = some 0)

/-- The lowest buffer that is not busy. -/
def State.freeBuf (s : State) (i : Nat) : Option Nat :=
  (List.range ((s.stream i).cfg.getD {}).nbuf).find? fun b => !s.bufBusy i b

def pipeEntry (u : Nat) : WearEntry := { kind := 8, place := 4, unit := u }

/-- A lasting pipe that holds no frame is retired (R496, R501, R504): in service it takes the spare, if one is
left. -/
def State.retirePipe (s : State) (u : Nat) : State :=
  let p := s.itk.pipes.getD u {}
  if p.retired || p.frame.isSome || !s.isLasting (pipeEntry u) then s
  else
    let spare := s.spr.pipeSpareLeft
    let s := (s.retire (pipeEntry u)).onPipe u fun x => { x with retired := true, inService := false }
    if !p.inService then s.onSpr fun x => { x with pipeSpareLeft := false }
    else if spare then (s.onSpr fun x => { x with pipeSpareLeft := false }).onItk fun x => { x with
      pipes := x.pipes.map fun y => if y.retired then y else { y with inService := true } }
    else s.setDegraded

/-- A frame leaves its pipe. -/
def State.leavePipe (s : State) (i seq : Nat) : State :=
  match s.itk.pipes.findIdx? fun p => p.frame = some (i, seq) with
  | none => s
  | some u => (s.onPipe u fun p => { p with frame := none }).retirePipe u

/-- PIPE_ASSIGN (R269): the frame that started first of those waiting takes the lowest idle pipe. -/
def State.waitingFrames (s : State) : List (Nat × Frame) :=
  (List.range 16).flatMap fun i => ((s.stream i).frames.filter fun f =>
    f.buffer.isSome && f.pipe.isNone && f.resolved.isNone).map fun f => (i, f)

def State.onFrame (s : State) (i seq : Nat) (f : Frame → Frame) : State :=
  s.onStream i fun x => { x with frames := x.frames.map fun y => if y.seq = seq then f y else y }

def earlier (a b : Nat × Frame) : Bool := a.2.order < b.2.order

def execPipeAssign (s : State) : Out :=
  .next (match s.itk.pipes.findIdx? (fun p => p.inService && p.frame.isNone), (sortBy earlier s.waitingFrames).head? with
    | some u, some (i, f) =>
      (s.onPipe u fun p => { p with frame := some (i, f.seq) }).onFrame i f.seq fun y => { y with pipe := some u }
    | _, _ => s)

/-! ### Resolution and publication (R272 to R279) -/

/-- Status of a cause code (R272). -/
def causeStatus (c : Nat) : Nat := if c = 0 then 0 else if c ≤ 5 then 1 else if c = 6 then 2 else 3

/-- The sample record (R272). -/
def recordOfFrame (i : Nat) (f : Frame) : List Byte :=
  let c := f.resolved.getD 9
  let ok := c = 0
  leBytes 1 i ++ leBytes 1 (causeStatus c) ++ leBytes 1 c ++
    leBytes 1 (bit01 ok + 2 * bit01 f.counter.isSome + 4 * (if ok then f.buffer.getD 0 else 0)) ++
    leBytes 4 f.seq ++ leBytes 8 f.captureTs ++ leBytes 4 (f.counter.getD 0) ++ leBytes 4 (if ok then f.crc else 0) ++
    leBytes 4 (min (f.took / 256) (2 ^ 32 - 1)) ++ leBytes 4 (if ok then f.tensorBytes else 0)

/-- The decode budget after an OK sample (R276). -/
def autoBudget (x : StreamCfg) (decodes : List Nat) : Nat :=
  if x.budget ≠ 0 then x.budget
  else if decodes.length < 4 then x.period
  else min x.period (max 100 (8 * ceilDiv decodes.sum (decodes.length * 65536)))

/-- The INTAKE record of a published sample (R530, R532), padded to a multiple of 8. -/
def State.recordIntake (s : State) (i : Nat) (f : Frame) (p : Profile) : State :=
  let x := (s.stream i).cfg.getD {}
  if !bitAt x.flags 2 then s
  else
    let tensor := if f.resolved = some 0
      then thinTensor p s.recd.scale (s.bytesAt (x.bufs.getD (f.buffer.getD 0) 0) f.tensorBytes) else []
    let pad := List.replicate ((8 - tensor.length % 8) % 8) 0
    s.record 5 (bit01 f.injected) (recordOfFrame i f ++ leBytes 1 s.recd.scale ++ leBytes 7 0 ++ tensor ++ pad)

/-- One sample is published (R276, R278, R279, R387). -/
def State.publish (s : State) (i : Nat) (f : Frame) : State :=
  let x := (s.stream i).cfg.getD {}
  let p := (s.itk.profiles.getD x.profile none).getD {}
  let ok := f.resolved = some 0
  let entry := recordOfFrame i f ++ leBytes 8 (if ok then x.bufs.getD (f.buffer.getD 0) 0 else 0) ++
    leBytes 2 p.ch ++ leBytes 2 p.cw ++ leBytes 2 p.channels ++ leBytes 1 p.ofmt ++ leBytes 1 p.layout ++
    leBytes 8 s.tsNow ++ leBytes 8 0
  let s := (s.putBoard i f.seq entry).bump
  let s := s.onStream i fun y =>
    let ds := if ok then (f.took :: y.decodes).take 16 else y.decodes
    { y with decodes := ds, budget := if ok then autoBudget x ds else y.budget }
  let s := (s.onFrame i f.seq fun y => { y with published := true }).recordIntake i f p
  if ok then s.kick (16 + i) else s

/-- A resolved sample that nothing holds back (R273, R275): in strict order every earlier one is published. -/
def publishable (fs : List Frame) (f : Frame) : Bool :=
  f.resolved.isSome && !f.published && (!f.strict || fs.all fun g => f.order ≤ g.order || g.published)

/-- Frames that are published and whose end has been seen are forgotten. -/
def dropDone (x : Stream) : Stream := { x with frames := x.frames.filter fun f => !(f.published && f.ended) }

/-- Publish what may be published of a stream, in order. -/
def State.publishReady (i : Nat) : Nat → State → State
  | 0, s => s.onStream i dropDone
  | k + 1, s =>
    match (s.stream i).frames.find? (publishable (s.stream i).frames) with
    | none => s.onStream i dropDone
    | some f => State.publishReady i k (s.publish i f)

def State.publishAll (s : State) (i : Nat) : State := State.publishReady i (s.stream i).frames.length s

/-- A frame is resolved, with a cause, at a TS; its pipe is left, and its class of void is counted. -/
def State.resolve (s : State) (i seq cause ts : Nat) : State :=
  let s := (s.onFrame i seq fun f => { f with resolved := some cause, took := ts - f.startTs }).leavePipe i seq
  let s := s.onStream i fun x =>
    match causeStatus cause with
    | 0 => x
    | 1 => { x with corrupt := satInc 255 x.corrupt }
    | 2 => { x with late := satInc 255 x.late }
    | _ => { x with droppedCount := satInc 255 x.droppedCount }
  s.publishAll i

/-- The first link that a frame's decode budget does not cover (R277). -/
def Frame.budgetEnd (f : Frame) : Nat := f.startLink + f.budget

/-- A frame whose decode budget has run out becomes VOID_LATE, as of the link in which it ran out (R277). -/
def State.voidLate (s : State) (i : Nat) (f : Frame) : State := s.resolve i f.seq 6 (linkTs f.budgetEnd)

/-- A frame becomes a void now, unless its budget has run out before. -/
def State.void (s : State) (i seq cause : Nat) : State :=
  match (s.stream i).frames.find? fun f => f.seq = seq && decide (f.budgetEnd ≤ s.tb.link) with
  | some f => s.voidLate i f
  | none => (s.resolve i seq cause s.tsNow).bump

/-- The open, unresolved frame of a stream. -/
def Stream.current (x : Stream) : Option Frame := x.frames.find? fun f => !f.ended

/-- ITK_STREAM_STOP (R266): every frame that is not resolved becomes VOID_DROPPED, and with that every place of
the stream is resolved. -/
def execItkStreamStop (c : Cmd) (s : State) : Out :=
  .next (runCmd 7 4 c s fun s =>
    let i := c.word 0 % 16
    if !(s.stream i).running then s.complete c stBadParam
    else
      let s := ((s.stream i).frames.filter fun f => f.resolved.isNone).foldl (fun x f => x.void i f.seq 9) s
      let s := (s.onStream i fun x => { x with running := false, frames := [] }).wdStop (16 + i)
      s.complete c stOk)

/-! ### Packets (R261, R262, R267, R268) -/

/-- The running stream on a port and virtual channel. -/
def State.streamOn (s : State) (port vc : Nat) : Option Nat :=
  (List.range 16).find? fun i => (s.stream i).running && (s.stream i).cfg.any fun x => x.port = port && x.vc = vc

/-- The frame open on a port and virtual channel becomes void. -/
def State.voidOpen (s : State) (port vc cause : Nat) : State :=
  match s.streamOn port vc with
  | none => s
  | some i => match (s.stream i).current with
    | some f => if f.resolved.isNone then s.void i f.seq cause else s
    | none => s

/-- What the header ECC of a packet does; whether the packet stands (R262). -/
def State.header (s : State) (port vc : Nat) (e : HeaderEcc) : Bool × State :=
  match e with
  | .ok => (true, s)
  | .corrected => (true, s.onPort port fun p => { p with eccCorrected := satInc 255 p.eccCorrected })
  | .uncorrectable =>
    (false, (s.onPort port fun p => { p with eccUncorrected := satInc 255 p.eccUncorrected }).voidOpen port vc 2)

/-- A buffer lies in a scratchpad whose core runs no job of a PER partition (R281). -/
def State.bufShut (s : State) (a : Nat) : Bool :=
  isSpad a && !((s.coreJob (spadCore a)).any fun j => s.sch.classes.getD j.partition 7 = 1)

/-- A frame starts (R267, R275, R281), through fault injection on intake (R538, R539). -/
def State.startFrame (s : State) (i : Nat) : State :=
  let x := (s.stream i).cfg.getD {}
  let ts := s.tsNow
  let (who, s) := (s.bump).inject 5 i 0
  let act := (who.map fun w => w.2.action).getD 0
  let param := (who.map fun w => w.2.param).getD 0
  let f : Frame := { seq := (s.stream i).nextSeq, order := s.itk.starts, startLink := s.tb.link, startTs := ts
                     captureTs := (ts + 2 ^ 64 - x.latency) % 2 ^ 64, budget := (s.stream i).budget
                     strict := s.strictOrder, injected := who.isSome
                     flip := if act = 2 then some param else none
                     heldFor := if act = 3 then some 0 else if act = 4 then some (s.tb.link + param) else none }
  let s := (s.onItk fun k => { k with starts := k.starts + 1 }).onStream i fun y => { y with
    nextSeq := (y.nextSeq + 1) % 2 ^ 32, frames := y.frames ++ [f] }
  if act = 1 then s.void i f.seq 11
  else if (x.bufs.take x.nbuf).any s.bufShut then s.void i f.seq 10
  else s

/-- CSI_FRAME_START (R267, R268). -/
def execCsiFrameStart (port vc : Nat) (ecc : HeaderEcc) (s : State) : Out :=
  .next (if s.replaying then s
    else
      let (stands, s) := s.header port vc ecc
      match s.streamOn port vc with
      | none => s
      | some i =>
        if !stands then s
        else
          let s := match (s.stream i).current with
            | none => s
            | some f =>
              let s := if f.resolved.isNone then s.void i f.seq 4 else s
              (s.onFrame i f.seq fun y => { y with ended := true }).onStream i dropDone
          s.startFrame i)

/-- Payload bytes that a port's frames hold in its line FIFO (R269). -/
def State.fifoBytes (s : State) (port : Nat) : Nat :=
  ((List.range 16).map fun i =>
    if (s.stream i).cfg.any fun x => x.port = port then
      (((s.stream i).frames.filter fun f => f.pipe.isNone && f.resolved.isNone).map (·.bytes)).sum else 0).sum

/-- Bytes of a port's line FIFO (R267). -/
def fifoSize : Nat := 512 * 1024

/-- Frame counter of the first embedded line (R268). -/
def frameCounter (x : StreamCfg) (line : List Byte) : Option Nat :=
  let n := if bitAt x.flags 1 then 4 else 2
  if bitAt x.flags 0 && decide (x.fcOffset + n ≤ line.length) then some (fieldAt line x.fcOffset n) else none

/-- The first long packet passes R267. -/
def firstOk (x : StreamCfg) (dt wc : Nat) : Bool :=
  if 0 < x.embLines then dt = 0x12 && 1 ≤ wc && wc ≤ x.lineBytes else dt = x.dt && wc = x.lineBytes

/-- A line of an open frame that has passed its checks. -/
def Frame.addLine (f : Frame) (x : StreamCfg) (payload : List Byte) : Frame :=
  let image := x.embLines ≤ f.lines
  { f with
    lines := f.lines + 1, bytes := f.bytes + payload.length
    firstWc := if f.lines = x.embLines then payload.length else f.firstWc
    counter := if f.lines = 0 && 0 < x.embLines then frameCounter x payload else f.counter
    payload := if image then f.payload ++ payload else f.payload }

/-- A line is counted against the frame's limits (R268). -/
def State.addLine (s : State) (i : Nat) (f : Frame) (x : StreamCfg) (payload : List Byte) : State :=
  if x.allLines ≤ f.lines || (x.embLines < f.lines && payload.length ≠ f.firstWc) ||
      x.maxBytes < f.bytes + payload.length then s.void i f.seq 3
  else
    let s := s.onFrame i f.seq fun y => y.addLine x payload
    if f.pipe.isNone && decide (fifoSize < s.fifoBytes x.port) then s.void i f.seq 8 else s

/-- The first long packet of a frame takes a buffer (R267, R279). -/
def State.takeBuf (s : State) (i : Nat) (f : Frame) : State :=
  match s.freeBuf i with
  | none => s.void i f.seq 7
  | some b => s.onFrame i f.seq fun y => { y with buffer := some b }

/-- A packet whose payload carries the bit that an injection flips fails its CRC (R538, R262). -/
def Frame.flipped (f : Frame) (n : Nat) : Bool := f.flip.any fun k => f.bytes ≤ k / 8 && k / 8 < f.bytes + n

/-- CSI_LONG_PACKET (R262, R267, R268). -/
def execCsiLongPacket (port vc dt : Nat) (payload : List Byte) (ecc : HeaderEcc) (crcOk : Bool) (s : State) : Out :=
  .next (if s.replaying then s
    else
      let (stands, s) := s.header port vc ecc
      let discard (s : State) : State :=
        if dtAccepted dt then s else s.onPort port fun p => { p with discarded := p.discarded + 1 }
      if !stands then s
      else if !crcOk then (discard (s.onPort port fun p => { p with crcErrors := satInc 255 p.crcErrors })).voidOpen port vc 2
      else if !dtAccepted dt then discard s
      else match s.streamOn port vc with
        | none => s
        | some i => match (s.stream i).current with
          | none => s
          | some f =>
            let x := (s.stream i).cfg.getD {}
            if f.flipped payload.length then
              (s.onPort port fun p => { p with crcErrors := satInc 255 p.crcErrors }).voidOpen port vc 2
            else if f.resolved.isSome then s
            else if f.lines = 0 then
              (if !firstOk x dt payload.length then s.void i f.seq 1
               else
                 let s := s.takeBuf i f
                 match (s.stream i).current with
                 | some g => if g.resolved.isNone then s.addLine i g x payload else s
                 | none => s)
            else s.addLine i f x payload)

/-- CSI_FRAME_END (R268, R269): missing lines make the frame void; else its last line has been processed. -/
def execCsiFrameEnd (port vc : Nat) (ecc : HeaderEcc) (s : State) : Out :=
  .next (if s.replaying then s
    else
      let (stands, s) := s.header port vc ecc
      match s.streamOn port vc with
      | none => s
      | some i => match (s.stream i).current with
        | none => s
        | some f =>
          if !stands then s
          else
            let x := (s.stream i).cfg.getD {}
            let s := if f.resolved.isNone && decide (f.lines < x.allLines) then s.void i f.seq 4 else s
            ((s.onFrame i f.seq fun y => { y with ended := true }).leavePipe i f.seq).onStream i dropDone)

/-- CSI_PACKET_DISCARD (R261): its header's ECC counts as any header's does (R262). -/
def execCsiPacketDiscard (port : Nat) (x : CsiHeader) (s : State) : Out :=
  .next (if s.replaying then s
    else
      let h := s.header port x.vc x.ecc
      if !h.1 || dtAccepted x.dt then h.2 else h.2.onPort port fun p => { p with discarded := p.discarded + 1 })

/-! ### The tensor (R270, R273, R276, R277) -/

/-- A sample that an injection holds back (R538). -/
def State.frameHeld (s : State) (i : Nat) (f : Frame) : Bool :=
  f.heldFor.any fun l => if l = 0
    then !((s.stream i).frames.any fun g => f.order < g.order && g.resolved.isSome) &&
      (s.stream i).nextSeq ≤ f.seq + 1
    else s.tb.link < l

/-- A write of a tensor is refused: in a scratchpad without a running job of a PER partition (R281), in that job's
code region (R100) or in the target region (R318); or it meets poison. -/
def State.tensorRefused (s : State) (a n : Nat) : Bool :=
  s.bufShut a || s.meetsCode a n || touchesTarget a n || s.writePoisoned a n

/-- SAMPLE_RESOLVED (R270, R273): the tensor is complete, or a write of it was refused or poisoned; a frame whose
budget has run out is VOID_LATE (R277). -/
def execSampleResolved (stream seq : Nat) (writeOk : Bool) (s : State) : Out :=
  .next (match (s.stream stream).frames.find? fun f => f.seq = seq with
    | none => s
    | some f =>
      if f.resolved.isSome || !f.ended || f.pipe.isNone || s.frameHeld stream f then s
      else
        let x := (s.stream stream).cfg.getD {}
        let p := (s.itk.profiles.getD x.profile none).getD {}
        let a := x.bufs.getD (f.buffer.getD 0) 0
        if f.budgetEnd ≤ s.tb.link then s.voidLate stream f
        else if !writeOk || s.tensorRefused a p.tensorBytes then s.void stream seq 5
        else
          let m : Image := { kind := x.kind, w := x.width, h := x.height, line := x.lineBytes, payload := f.payload }
          let t := m.tensor p (nanPattern s.free 0)
          let s := ((s.write a t).carryWrite .realTime 0 0xFE a t).onFrame stream seq fun y => { y with crc := crc32c t, tensorBytes := t.length, payload := [] }
          (s.resolve stream seq 0 (max s.tsNow f.startTs)).bump)

/-- DECODE_BUDGET_EXPIRY (R277): at the start of link s + budget. -/
def execDecodeBudgetExpiry (stream seq : Nat) (s : State) : Out :=
  .next (match (s.stream stream).frames.find? fun f => f.seq = seq with
    | none => s
    | some f =>
      if f.resolved.isSome || s.tb.link < f.budgetEnd then s else s.voidLate stream f)

/-- PIPE_CHECK_FRAME_DONE (R498, R499): on an idle pipe while no frame waits. -/
def execPipeCheckFrameDone (pipe : Nat) (ok : Bool) (s : State) : Out :=
  .next (let p := s.itk.pipes.getD pipe {}
    if ok || p.retired || p.frame.isSome || s.waitingFrames ≠ [] then s
    else s.errEvent (pipeEntry pipe))

/-- CSI_PORT_LINK_UP (R260). -/
def execCsiPortLinkUp (port lanes : Nat) (s : State) : Out :=
  .next (if lanes = 1 || lanes = 2 || lanes = 4 then s.onPort port fun p => { p with linkUp := true, lanes := lanes } else s)

/-- CSI_PORT_LINK_DOWN (R260). -/
def execCsiPortLinkDown (port : Nat) (s : State) : Out :=
  .next (s.onPort port fun p => { p with linkUp := false })

end Sys2Proof.Machine
end

