-- ==== Sys2Proof/Machine/Firmware.lean ====
section
/-! DEFINITION. Flash, firmware update, the configuration record, the wear record and identity (chapters 19 and
20): the FW and CFG commands, DEV.IDENTITY, DEV.ATTEST, and the flash operations they wait for. -/

namespace Sys2Proof.Machine

/-! ### Flash (R475): an unlisted byte is erased -/

def flashByte (f : List Host.Cell) (a : Nat) : Byte := (cellGet f a).getD 0xFF
def flashBytes (f : List Host.Cell) (a n : Nat) : List Byte := (List.range n).map fun i => flashByte f (a + i)

/-- The listed bytes of a run. -/
def runCells : Nat → List Byte → List Host.Cell
  | _, [] => []
  | a, b :: bs => if b = 0xFF then runCells (a + 1) bs else (a, b) :: runCells (a + 1) bs

/-- A range takes the cells given. -/
def flashReplace (f : List Host.Cell) (a n : Nat) (cs : List Host.Cell) : List Host.Cell :=
  (f.filter fun c => c.1 < a) ++ cs ++ f.filter fun c => a + n ≤ c.1

def flashErase (f : List Host.Cell) (a n : Nat) : List Host.Cell := flashReplace f a n []
def flashWrite (f : List Host.Cell) (a : Nat) (bs : List Byte) : List Host.Cell := flashReplace f a bs.length (runCells a bs)

/-- Layout of the flash (R475). -/
def cfgFlash : Nat := 0x00040000
def wearFlash : Nat := 0x00050000
def runningFlash : Nat := 0x00100000
def stagingFlash : Nat := 0x06110000
def imageSize : Nat := 96 * 2 ^ 20
def bodySize : Nat := imageSize - 65536

/-! ### Image header (R476, R477) -/

def hdrKind (d : List Byte) : Nat := fieldAt d 6 1
def hdrVersion (d : List Byte) : Nat := fieldAt d 16 4
def hdrBody (d : List Byte) : Nat := fieldAt d 20 4

/-- The checks of R476 in order. -/
def headerStatus (floor : Nat) (d : List Byte) : Nat :=
  let k := hdrKind d
  let top := if k = 1 then 100597760 else 258048
  if fieldAt d 0 4 ≠ 0x57465755 || fieldAt d 4 2 ≠ 1 || !(k = 1 || k = 2) || fieldAt d 7 1 ≠ 0 ||
      !allZero d 33 31 || !allZero d 128 64 then stFwHeader
  else if fieldAt d 8 4 ≠ 0x4800 then stFwHeader
  else if 31 < Config.hwRevision || !bitAt (fieldAt d 12 4) Config.hwRevision then stFwHeader
  else if hdrBody d = 0 || top < hdrBody d || fieldAt d 24 4 ≠ 65536 || fieldAt d 28 4 ≠ ceilDiv (hdrBody d) 65536 then
    stFwHeader
  else if 3 < fieldAt d 32 1 then stFwHeader
  else if k = 1 && hdrVersion d / 256 < floor / 256 then stFwHeader
  else if !Config.ed25519Ok (fieldAt d 32 1) (d.take 192) ((d.drop 192).take 64) then stFwSignature
  else stOk

/-! ### Update in pieces (R478 to R484, R487) -/

/-- An FW command is in progress: the next one waits (R478). -/
def Fw.busy (f : Fw) : Bool := match f.op with
  | some (.piece _ _) => true
  | _ => false

/-- The frame of an FW command. -/
def runFw (op : Nat) (c : Cmd) (s : State) (body : State → State) : State :=
  if s.fw.busy then s else runCmd 0xB op c s body

/-- FW_BEGIN (R479). -/
def execFwBegin (c : Cmd) (s : State) : Out :=
  .next (runFw 1 c s fun s =>
    let st := headerStatus s.fw.floor c.data
    match s.fw.staging with
    | .receiving => s.complete c (if c.data = s.fw.header then stOk else stFwSequence)
    | .committed => s.complete c stFwSequence
    | .copying => s.complete c stFwSequence
    | _ =>
      if hdrKind c.data = 2 && s.dev.mode ≠ .recovery then s.complete c stFwHeader
      else if st ≠ stOk then s.complete c st
      else (s.onFw fun f => { f with staging := .receiving, header := c.data, present := [] }).complete c stOk)

/-- Bytes of piece `i` of the stored image (R480). -/
def Fw.pieceLen (f : Fw) (i : Nat) : Nat :=
  if i + 1 = f.pieceCount then hdrBody f.header - 65536 * (f.pieceCount - 1) else 65536

/-- FW_PIECE (R480): the piece goes to flash, and the command waits for the read-back. -/
def execFwPiece (c : Cmd) (s : State) : Out :=
  .next (if s.fw.op.isSome then s
    else runFw 2 c s fun s =>
      let i := c.word 0
      if c.data.length ≠ s.fw.pieceLen i then s.complete c stBadLength
      else if s.fw.staging ≠ .receiving || s.fw.pieceCount ≤ i then s.complete c stFwSequence
      else if crc32c c.data ≠ c.word 1 then s.complete c stCrc
      else if s.fw.present.contains i then s.complete c stOk
      else (s.onFw fun f => { f with op := some (.piece i c.data) }).await c .flash)

/-- The piece bitmap (R481). -/
def Fw.bitmap (f : Fw) : List Byte :=
  (List.range (ceilDiv f.pieceCount 8)).map fun i => BitVec.ofNat 8
    ((List.range 8).map fun b => bit01 (f.present.contains (8 * i + b)) * 2 ^ b).sum

/-- Frames of a bitmap sent over CAN0 (R486). -/
def State.bitmapFrames (s : State) (bm : List Byte) : State :=
  s.onCan 0 fun k => { k with
    replies := k.replies ++ (List.range (ceilDiv bm.length 64)).map fun i =>
      (0x7E1, ((bm.drop (64 * i)).take 64 ++ List.replicate 64 0).take 64) }

/-- FW_STATUS (R481, R486). -/
def execFwStatus (c : Cmd) (s : State) : Out :=
  .next (runFw 3 c s fun s =>
    let bm := s.fw.bitmap
    let res0 := s.fw.missing.length
    let res1 := s.fw.firstMissing
    if s.fw.staging ≠ .receiving then s.complete c stFwSequence
    else if c.word 2 < bm.length then s.complete c stLimit res0 res1
    else if c.ring = 256 then
      (if c.addr 0 ≠ 0 then s.complete c stBadParam else (s.complete c stOk res0 res1).bitmapFrames bm)
    else s.output c (c.addr 0) bm stOk res0 res1)

/-- The staging area is erased (R482). -/
def Fw.eraseStaging (f : Fw) : Fw :=
  { f with staging := .empty, header := [], present := [], flash := flashErase f.flash stagingFlash bodySize }

/-- The staging image is copied over the running image or, kind 2, into the loader sector: the header last, and
the state INSTALLED (R482, R487). -/
def Fw.install (f : Fw) : Fw :=
  let dst := if hdrKind f.header = 2 then 0 else runningFlash
  let size := if hdrKind f.header = 2 then cfgFlash else imageSize
  let off := if hdrKind f.header = 2 then 0x1000 else 0x10000
  let body := (f.flash.filter fun c => stagingFlash ≤ c.1 && c.1 < stagingFlash + hdrBody f.header).map fun c =>
    (c.1 - stagingFlash + dst + off, c.2)
  { f with staging := .installed, flash := flashReplace f.flash dst size (runCells dst f.header ++ body) }

/-- FW_COMMIT (R482, R487). -/
def execFwCommit (c : Cmd) (s : State) : Out :=
  .next (runFw 4 c s fun s =>
    if s.fw.staging ≠ .receiving || s.fw.missing ≠ [] then s.complete c stFwSequence
    else if Config.sha512 (flashBytes s.fw.flash stagingFlash (hdrBody s.fw.header)) ≠ (s.fw.header.drop 64).take 64 then
      (s.onFw Fw.eraseStaging).complete c stFwSignature
    else if s.dev.mode = .recovery then (s.onFw Fw.install).complete c stOk
    else (s.onFw fun f => { f with staging := .committed }).complete c stOk)

/-- FW_ABORT (R482): in a state that R482 does not name there is nothing to abort. -/
def execFwAbort (c : Cmd) (s : State) : Out :=
  .next (runFw 5 c s fun s =>
    if s.fw.staging = .receiving || s.fw.staging = .committed then (s.onFw Fw.eraseStaging).complete c stOk
    else s.complete c stFwSequence)

/-! ### The configuration record (R488 to R490) -/

def cfgBytes : Nat := 12288
def cfgRecord (f : List Host.Cell) : List Byte := flashBytes f cfgFlash cfgBytes

/-- A record with its check word computed. -/
def sealed (d : List Byte) : List Byte := splice d 0x2FFC (leBytes 4 (crc32c (d.take 0x2FFC)))

/-- Why a record is not used (CFG_STATUS reason): 1 check word, 3 magic or length, 2 format version; 0 none. -/
def cfgReasonOf (d : List Byte) : Nat :=
  if crc32c (d.take 0x2FFC) ≠ fieldAt d 0x2FFC 4 then 1
  else if fieldAt d 0 4 ≠ 0x46435755 || fieldAt d 8 4 ≠ cfgBytes then 3
  else if fieldAt d 4 2 ≠ 1 then 2
  else 0

/-- Production trims of the certificate block (R493). -/
def trimBytes : List Byte := (List.range 448).map Config.trimByte

/-- The factory defaults as a record (R489, R490): sequence 0, a valid check word; fields that R489 does not name
are 0. -/
def defaultRecord : List Byte :=
  let zero := List.replicate cfgBytes (0 : Byte)
  let d := splice zero 0 (leBytes 4 0x46435755 ++ leBytes 2 1 ++ leBytes 2 0 ++ leBytes 4 cfgBytes)
  let d := splice d 0x40 trimBytes
  let d := splice d 0x200 (leBytes 4 0x8)
  let d := splice d 0x208 ((List.replicate 16 (leBytes 4 0x4 ++ leBytes 4 0x3E800000)).flatten)
  sealed (splice d 0x640 ((List.replicate 64 (leBytes 2 0 ++ leBytes 1 0xFF ++ leBytes 29 0)).flatten))

/-- Status of CFG.READ and DEV.INFO while defaults are in force (R489). -/
def State.cfgOk (s : State) : Nat := if s.fw.cfgDefaulted then stCfgDefaulted else stOk

/-- CFG_READ (R490): a range past the record is ST_LIMIT, as for CFG.WRITE. -/
def execCfgRead (c : Cmd) (s : State) : Out :=
  .next (runCmd 0xC 1 c s fun s =>
    if cfgBytes < c.word 0 + c.word 1 then s.complete c stLimit
    else s.output c (c.addr 2) (part s.fw.work (c.word 0) (c.word 1)) s.cfgOk (c.word 1))

/-- The working copy differs from the record in flash (CFG_STATUS). -/
def Fw.markDirty (f : Fw) : Fw := { f with dirty := f.work ≠ cfgRecord f.flash }

/-- CFG_WRITE (R490). -/
def execCfgWrite (c : Cmd) (s : State) : Out :=
  .next (runCmd 0xC 2 c s fun s =>
    if cfgBytes < c.word 0 + c.data.length then s.complete c stLimit
    else (s.onFw fun f => { f with work := splice f.work (c.word 0) c.data }.markDirty).complete c stOk)

/-- The blocks of a record's sections (R488). -/
def nodeBlock (d : List Byte) (n : Nat) : List Byte := part d (0x640 + 32 * n) 32
def canBlock (d : List Byte) (k : Nat) : List Byte := part d (0xE40 + 64 * k) 64
def filterBlock (d : List Byte) (k : Nat) : List Byte := part d (0xF40 + 1296 * k) 1296
def streamBlock (d : List Byte) (i : Nat) : List Byte := part d (0x2380 + 64 * i) 64
def profileBlock (d : List Byte) (i : Nat) : List Byte := part d (0x2780 + 128 * i) 128
/-- The payload in a zero-padded filter block, and what pads it. -/
def filterPayload (b : List Byte) : List Byte := b.take (filtersLen b)

def nodeOf (b : List Byte) : Option NodeCfg := if (parseNode b).kind = 0xFF then none else some (parseNode b)
def streamCfgOf (b : List Byte) : Option StreamCfg := if (parseStream b).width = 0 then none else some (parseStream b)
def profileOf (b : List Byte) : Option Profile := if (parseProfile b).channels = 0 then none else some (parseProfile b)
/-- A CAN block and filter block of zeros stand for a stopped controller without settings (R489). -/
def noCan (d : List Byte) (k : Nat) : Bool := (canBlock d k ++ filterBlock d k).all (· = 0)

/-- The node table and the streams that a record describes stand in for those in force, so that the checks of the
record's blocks see one another. -/
def State.withRecord (s : State) (d : List Byte) : State :=
  (s.onJl fun j => { j with table := (List.range 64).map fun n => nodeOf (nodeBlock d n) }).onItk fun k => { k with
    streams := (List.range 16).map fun i => { cfg := streamCfgOf (streamBlock d i) } }

/-- A failed check: its status, and the block where the failing byte lies. -/
abbrev CfgFail := Option (Nat × Nat × Nat)

def failIf (b : Bool) (status base size : Nat) : CfgFail := if b then some (status, base, size) else none
def failWith (status base size : Nat) : CfgFail := failIf (status ≠ stOk) status base size

/-- The first byte of a run that differs from what it must be. -/
def mustBe (d : List Byte) (o : Nat) (x : List Byte) : CfgFail :=
  ((List.range x.length).find? fun i => d.getD (o + i) 0 ≠ x.getD i 0).map fun i => (stBadParam, o + i, 1)

/-- One trigger of a record (R30). -/
def camFail (d : List Byte) (n : Nat) : CfgFail :=
  let o := 0x208 + 8 * n
  if !onlyBits 0xFF (fieldAt d o 4) then some (stBadParam, o, 4)
  else failIf (!camOk (fieldAt d o 4) (fieldAt d (o + 4) 4)) stLimit o 8

def State.nodeFail (s : State) (d : List Byte) (n : Nat) : CfgFail :=
  let b := nodeBlock d n
  let o := 0x640 + 32 * n
  if (nodeOf b).isNone then none
  else if nodeLimit b then some (stLimit, o, 32)
  else failIf (fieldAt b 0 1 ≠ n / 4 || fieldAt b 1 1 ≠ n % 4 || s.nodeBad b n) stBadParam o 32

/-- A controller of a record: R451 and R455 against the record's own filters, its mode code, R460. -/
def canFail (d : List Byte) (k : Nat) : CfgFail :=
  let b := canBlock d k
  let f := filterBlock d k
  let st := canConfigStatus (parseBank f) (b.take 32)
  let ft := canFiltersStatus (fieldAt b 12 1) (fieldAt b 13 1) (filterPayload f)
  if noCan d k then none
  else if st ≠ stOk then some (st, 0xE40 + 64 * k, 32)
  else if 4 < fieldAt b 32 1 then some (stBadParam, 0xE40 + 64 * k + 32, 1)
  else if !allZero b 33 31 then some (stBadParam, 0xE40 + 64 * k + 33, 31)
  else if ft ≠ stOk then some (if ft = stBadLength then stLimit else ft, 0xF40 + 1296 * k, 1296)
  else failIf ((f.drop (filtersLen f)).any (· ≠ 0)) stBadParam (0xF40 + 1296 * k) 1296

def State.streamFail (s : State) (d : List Byte) (i : Nat) : CfgFail :=
  let b := streamBlock d i
  let x := parseStream b
  if (streamCfgOf b).isNone then none
  else if streamLimit x then some (stLimit, 0x2380 + 64 * i, 64)
  else failIf (fieldAt b 0 1 ≠ i || s.streamBad b i x) stBadParam (0x2380 + 64 * i) 64

def profileFail (d : List Byte) (i : Nat) : CfgFail :=
  let b := profileBlock d i
  let p := parseProfile b
  if (profileOf b).isNone then none
  else if profileLimit i p then some (stLimit, 0x2780 + 128 * i, 128)
  else failIf (fieldAt b 0 1 ≠ i || profileBad p) stBadParam (0x2780 + 128 * i) 128

/-- The checks of CFG.COMMIT in order (R490). -/
def State.cfgFail (s : State) (d : List Byte) : CfgFail :=
  let r := s.withRecord d
  ([mustBe d 0 (leBytes 4 0x46435755 ++ leBytes 2 1), mustBe d 8 (leBytes 4 cfgBytes), mustBe d 0x40 trimBytes,
    failIf (!onlyBits 0x1F (fieldAt d 0x200 4)) stBadParam 0x200 4] ++
    (List.range 16).map (camFail d) ++
    [failIf (3 < fieldAt d 0x24 1) stLimit 0x24 1, failWith (paramsStatus (part d 0x300 832)) 0x300 832] ++
    (List.range 64).map (r.nodeFail d) ++ (List.range 4).map (canFail d) ++
    (List.range 16).map (r.streamFail d) ++ (List.range 16).map (profileFail d)).findSome? id

/-- The sequence that CFG.COMMIT writes (R490). -/
def State.nextCfgSeq (s : State) : Nat :=
  if s.fw.cfgDefaulted then 1 else (fieldAt (cfgRecord s.fw.flash) 12 4 + 1) % 2 ^ 32

/-- CFG_COMMIT (R490): the working copy is checked with its new sequence and check word, and goes to flash. The
failing byte is known to its block; which byte of it is free. -/
def execCfgCommit (c : Cmd) (s : State) : Out :=
  .next (if s.fw.op.isSome then s
    else runCmd 0xC 3 c s fun s =>
      let d := sealed (splice s.fw.work 12 (leBytes 4 s.nextCfgSeq))
      match s.cfgFail d with
      | some (st, base, size) => (s.complete c st (base + s.draw 0 % size)).bump
      | none => (s.onFw fun f => { f with work := d, op := some (.cfgCommit d) }).await c .flash)

/-! ### The wear record (R507 to R511) -/

def wearEntryBytes (e : WearEntry) : List Byte :=
  leBytes 1 e.kind ++ leBytes 1 e.place ++ leBytes 2 e.unit ++ leBytes 4 e.detail
def parseWear (d : List Byte) : WearEntry :=
  { kind := fieldAt d 0 1, place := fieldAt d 1 1, unit := fieldAt d 2 2, detail := fieldAt d 4 4 }

/-- A half of the wear record (R507). -/
def wearHalf (sequence : Nat) (es : List WearEntry) : List Byte :=
  let body := leBytes 4 0x52575755 ++ leBytes 2 1 ++ leBytes 2 0 ++ leBytes 4 sequence ++ leBytes 4 es.length ++
    leBytes 16 0 ++ es.flatMap wearEntryBytes ++ List.replicate (32728 - 8 * es.length) 0 ++ leBytes 4 0
  body ++ leBytes 4 (crc32c body)

def halfBytes (f : List Host.Cell) (h : Nat) : List Byte := flashBytes f (wearFlash + 32768 * h) 32768
def halfValid (d : List Byte) : Bool :=
  fieldAt d 0 4 = 0x52575755 && fieldAt d 4 2 = 1 && fieldAt d 12 4 ≤ 4091 &&
    crc32c (d.take 0x7FFC) = fieldAt d 0x7FFC 4
def halfEntries (d : List Byte) : List WearEntry :=
  (List.range (fieldAt d 12 4)).map fun i => parseWear (d.drop (32 + 8 * i))

/-- WEAR_RECORD_WRITE (R491, R510): pending retirements go to the half that does not hold the newest record. -/
def execWearRecordWrite (s : State) : Out :=
  .next (if s.spr.writeDue.isNone || s.fw.op.isSome then s
    else s.onFw fun f => { f with
      op := some (.wear (1 - s.spr.half) (wearHalf ((s.spr.sequence + 1) % 2 ^ 32) s.spr.entries)) })

/-- FLASH_OPERATION_DONE (R480, R490, R491, R510): the operation in progress has been read back. After a
mismatch it is done again. -/
def execFlashOperationDone (ok : Bool) (s : State) : Out :=
  .next (match s.fw.op with
    | none => s
    | some op =>
      if !ok then s
      else match op with
        | .piece i data => (s.onFw fun f => { f with
            op := none, present := f.present ++ [i], flash := flashWrite f.flash (stagingFlash + 65536 * i) data }).finish
              (· = .flash) stOk
        | .cfgCommit rec => (s.onFw fun f => { f with
            op := none, flash := flashWrite f.flash cfgFlash rec, flashFormat := 1 }.markDirty).finish (· = .flash) stOk
        | .wear half rec =>
          let s := s.onFw fun f => { f with op := none, flash := flashWrite f.flash (wearFlash + 32768 * half) rec }
          s.onSpr fun p => { p with
            half := half, sequence := fieldAt rec 8 4, inFlash := fieldAt rec 12 4
            writeDue := if p.entries.length ≤ fieldAt rec 12 4 then none else p.writeDue })

/-! ### Identity and attestation (R492 to R495) -/

def identityEntry (place die : Nat) : List Byte :=
  leBytes 1 place ++ leBytes 7 0 ++ (List.range 32).map (Config.identityBlock die)

/-- The identity record without the certificate chain. -/
def identityHead : List Byte :=
  leBytes 2 1 ++ leBytes 1 5 ++ leBytes 1 32 ++ leBytes 4 Config.certChain.length ++ leBytes 8 0 ++
    (List.range 5).flatMap (fun i => identityEntry i i) ++ (List.range 32).flatMap fun i => identityEntry i (i + 5)

/-- DEV_IDENTITY (R493). -/
def execDevIdentity (c : Cmd) (s : State) : Out :=
  .next (runCmd 1 5 c s fun s =>
    let out := identityHead ++ Config.certChain
    if c.word 2 < out.length then s.complete c stLimit
    else s.output c (c.addr 0) out stOk out.length)

/-- The statement of R495 without its signature. -/
def State.statement (s : State) (nonce : List Byte) : List Byte :=
  leBytes 4 0x54415755 ++ leBytes 2 1 ++ leBytes 1 s.dev.mode.code ++
    leBytes 1 (bit01 s.fw.cfgDefaulted + 2 * bit01 s.fw.wearRebuilt) ++ leBytes 8 s.tsNow ++ nonce ++
    (List.range 32).map Config.deviceKeyByte ++ Config.sha512 identityHead ++ s.fw.loaderHash ++ s.fw.imageHash ++
    leBytes 4 s.fw.version ++ leBytes 4 s.fw.cfgSequence ++ leBytes 4 s.fw.cfgCheck ++ leBytes 4 0

/-- DEV_ATTEST (R494, R495). -/
def execDevAttest (c : Cmd) (s : State) : Out :=
  .next (runCmd 1 6 c s fun s =>
    let m := s.statement c.data
    if !s.fw.keyMatches then s.complete c stFwSignature
    else if c.word 2 < 352 then s.complete c stLimit
    else (s.output c (c.addr 0) (m ++ Config.deviceSign m) stOk 352).bump)

end Sys2Proof.Machine
end

