-- ==== Sys2Proof/Machine/Ring.lean ====
section
/-! DEFINITION. The package ring and the peer ports (chapter 02): the receivers of the segments, retry, lane
spares, ring packets at their target, peer accesses and P-link training. -/

namespace Sys2Proof

namespace Machine

/-! ### Packets that a die answers with -/

/-- A die answers another die on the channel of the request (R53). -/
def State.sendPacket (s : State) (src dst vc kind : Nat) (p : RingPacket) : State :=
  (s.onRing fun r => { r with sent := some p }).launch src dst vc kind p

/-! ### The receiver: check, sequence, forward (R40, R43, R45, R55, R57) -/

/-- The counter of a segment direction, and one of its lanes (R57, R508). -/
def dirCounter (g : Nat) (dir : RingDir) : WearEntry := { kind := 9, place := g, unit := dir.code }
def ringLane (g : Nat) (dir : RingDir) (lane : Nat) : WearEntry := { kind := 3, place := g, unit := dir.code, detail := lane }

def State.answerRing (s : State) (g : Nat) (dir : RingDir) (nak : Bool) (n : Nat) : State :=
  s.onSegDir g dir fun d => { d with answer := some (nak, n) }

/-- A CRC failure: counted, an event of the segment direction and of each lane at fault unless an injection
caused it (R539), and answered with NAK. -/
def State.crcFailure (s : State) (g : Nat) (dir : RingDir) (lanes : List Nat) (injected : Bool) : State :=
  let s := s.onSeg g fun x => { x with crcErrors := satInc 65535 x.crcErrors }
  if injected then s
  else
    let s := (s.errEvent (dirCounter g dir)).errEvents (lanes.map (ringLane g dir))
    if windowK ≤ (s.windowOf (dirCounter g dir)).length then s.onSegDir g dir fun d => { d with scanDue := true } else s

/-- A flit of a packet for this die joins the flits before it; with the last one the packet is here, and its
buffers are free. -/
def State.keepFlit (s : State) (g : Nat) (dir : RingDir) (f : Flit) : State :=
  let fs := ((s.segDir g dir).recvQ.getD f.vc []) ++ [f]
  if f.last then (s.onSegDir g dir fun d => { d with recvQ := d.recvQ.set f.vc [] }).freeBuffers g dir f.vc fs.length
  else s.onSegDir g dir fun d => { d with recvQ := d.recvQ.set f.vc fs }

/-- A sequenced flit in order is accepted: kept at its die, else passed on at once (R40). What becomes of a flit of
a reserved kind, 0x9 to 0xF, R42 does not say: it is acknowledged like another and dropped, and its buffer is free
(DESIGN CHOICE 152). -/
def State.acceptFlit (s : State) (g : Nat) (dir : RingDir) (f : Flit) : State :=
  let s := (s.onSegDir g dir fun d => { d with rxSeq := (d.rxSeq + 1) % 4096 }).answerRing g dir false f.seq
  if !f.packet then s.freeBuffers g dir f.vc 1
  else if f.dest = receiverDie g dir then s.keepFlit g dir f
  else s.forwardFlit (segmentFrom (receiverDie g dir) dir) dir f

/-- A flit meets the receiver: a bad check or a gap is answered with NAK naming the number still needed, a
number already accepted is discarded. -/
def State.arriveFlit (s : State) (g : Nat) (dir : RingDir) (f : Flit) (lanes : List Nat) (injected : Bool) : State :=
  let need := (s.segDir g dir).rxSeq
  if f.crc ≠ f.check then (s.crcFailure g dir lanes injected).answerRing g dir true need
  else if !f.sequenced then s
  else if f.seq = need then s.acceptFlit g dir f
  else if (need + 4096 - f.seq) % 4096 ≤ 2048 then s
  else s.answerRing g dir true need

/-- Slots that hold a unit of a target back until after its next unit (R538, action 3). -/
def State.reorders (s : State) (target index dir : Nat) : List Nat :=
  (List.range 16).filter fun i =>
    let j := s.fi.getD i {}
    j.target = target && j.index = index && j.dir = dir &&
      match j.held with | some (_, due, _) => due = 0 | none => false

/-- A flit held back arrives. -/
def State.releaseFlit (s : State) (i : Nat) : State :=
  let j := s.fi.getD i {}
  match j.held with
  | some (_, _, bs) =>
    (s.onFi i fun x => { x with held := none }).arriveFlit j.index (if j.dir = 0 then .fwd else .rev) (parseFlit bs) [] true
  | none => s

/-- A sequenced flit passes the injection slots of its segment direction (R538, R539). -/
def State.injectFlit (s : State) (g : Nat) (dir : RingDir) (f : Flit) (lanes : List Nat) : State :=
  let late := s.reorders 1 g dir.code
  let (who, s) := s.inject 1 g dir.code
  let s := match who with
    | none => s.arriveFlit g dir f lanes false
    | some (i, j) =>
      if j.action = 1 then s
      else if j.action = 2 then s.arriveFlit g dir (parseFlit (flipBit j.param f.bytes)) [] true
      else s.onFi i fun x => { x with held := some (0, if j.action = 3 then 0 else s.tb.link + j.param, f.bytes) }
  late.foldl State.releaseFlit s

/-- RING_FLIT_RECEIVE (R42, R43, R55, R57). -/
def execRingFlitReceive (seg : Nat) (dir : RingDir) (flit : Flit) (lanes : List Nat) (s : State) : Out :=
  .next (if !(s.segDir seg dir).up || (s.seg seg).retraining then s
    else
      let s := s.onSegDir seg dir fun d => { d with wire := d.wire.drop 1 }
      if flit.sequenced then s.injectFlit seg dir flit lanes else s.arriveFlit seg dir flit lanes false)

/-! ### Retry and retraining (R55, R56, R59) -/

/-- Flits after the one numbered `q`. -/
def afterSeq (q : Nat) : List Flit → List Flit
  | [] => []
  | f :: r => if f.seq = q then r else afterSeq q r

/-- Flits from the one numbered `q` on. -/
def fromSeq (q : Nat) : List Flit → List Flit
  | [] => []
  | f :: r => if f.seq = q then f :: r else fromSeq q r

/-- RING_ACK (R55): frees the flits up to the one named. -/
def execRingAck (seg : Nat) (dir : RingDir) (seq : Nat) (s : State) : Out :=
  .next (if ((s.segDir seg dir).replay.any fun f => f.seq = seq) then
      (s.onSegDir seg dir fun d => { d with replay := afterSeq seq d.replay }).pump seg dir
    else s)

/-- The segment is retrained (R59): flits on the wire are lost and come again from the replay buffers. -/
def State.retrain (s : State) (g : Nat) : State :=
  let s := s.onSeg g fun x => { x with
    retraining := true, retrains := satInc 255 x.retrains
    fwd := { x.fwd with wire := [], nakSeq := none, nakRun := 0 }
    rev := { x.rev with wire := [], nakSeq := none, nakRun := 0 } }
  if s.running && s.p0Segs.contains g then s.decideSafe 16 else s.deviceFault 1

/-- RING_NAK (R56, R59): the sender resends from the number named; the eighth NAK in a row of one number
retrains the segment. -/
def execRingNak (seg : Nat) (dir : RingDir) (seq : Nat) (s : State) : Out :=
  .next (if !(s.segDir seg dir).up || (s.seg seg).retraining then s
    else
      let s := s.onSegDir seg dir fun d => { d with
        nakRun := if d.nakSeq = some seq then d.nakRun + 1 else 1
        nakSeq := some seq
        wire := d.wire ++ fromSeq seq d.replay }
      if 8 ≤ (s.segDir seg dir).nakRun then s.retrain seg else s)

/-- RING_ACK_TIMEOUT (R56): replay from the oldest unacknowledged flit. -/
def execRingAckTimeout (seg : Nat) (dir : RingDir) (s : State) : Out :=
  .next (if !(s.segDir seg dir).up || (s.seg seg).retraining then s
    else s.onSegDir seg dir fun d => { d with wire := d.wire ++ d.replay })

/-- Buffer sizes of the virtual channels (R49). -/
def vcBuffers : List Nat := [16, 64, 128, 16]

/-- RING_CREDIT (R49): credits return to the sender, never more than buffers have become free. -/
def execRingCredit (seg : Nat) (dir : RingDir) (vc count : Nat) (s : State) : Out :=
  .next (if !(s.segDir seg dir).up || 4 ≤ vc then s
    else (s.onSegDir seg dir fun d => { d with
        credits := d.credits.modify vc fun c => min (vcBuffers.getD vc 0) (c + min count (d.owed.getD vc 0))
        owed := d.owed.modify vc (· - count) }).pump seg dir)

/-- RING_RETRAIN_DONE (R59): waiting traffic resumes on the directions that trained. -/
def execRingRetrainDone (seg : Nat) (fwdUp revUp : Bool) (s : State) : Out :=
  .next (if !(s.seg seg).retraining then s
    else ((s.onSeg seg fun x => { x with
        retraining := false
        fwd := { x.fwd with up := fwdUp, wire := if fwdUp then x.fwd.replay else [] }
        rev := { x.rev with up := revUp, wire := if revUp then x.rev.replay else [] } }).pump seg .fwd).pump seg .rev)

/-! ### Lane spares (R41, R58, R497) -/

/-- Lanes of a segment direction that were lasting before the present link began, and so are due at its chain
boundary. -/
def State.lastingLanes (s : State) (g : Nat) (dir : RingDir) : List Nat :=
  (List.range 136).filter fun l =>
    s.isLasting (ringLane g dir l) && decide ((s.spr.since.lookup (ringLane g dir l)).getD 0 < s.tb.link)

/-- A lasting lane: a spare takes its place, or the direction runs at 64 lanes. -/
def State.retireRingLane (s : State) (g : Nat) (dir : RingDir) (lane : Nat) : State :=
  let d := s.segDir g dir
  let s := (s.retire (ringLane g dir lane)).onSegDir g dir fun d => { d with retired := d.retired ++ [lane] }
  if 0 < d.sparesLeft then s.onSegDir g dir fun d => { d with sparesLeft := d.sparesLeft - 1 }
  else (s.onSegDir g dir fun d => { d with narrow := true }).setDegraded

/-- RING_LANE_SPARE (R58, R497): the quiet period at a chain boundary. Lanes already lasting are replaced; those
that fail the scan become lasting now, and are replaced at the next chain boundary (DEDUCED 38). -/
def execRingLaneSpare (seg : Nat) (dir : RingDir) (scanFails : List Nat) (s : State) : Out :=
  .next (if s.phase s.tb.link % 100 ≠ 0 then s
    else
      let due := s.lastingLanes seg dir
      let fails := if (s.segDir seg dir).scanDue then scanFails else []
      let s := fails.foldl (fun x l => x.makeLasting (ringLane seg dir l))
        (s.onSegDir seg dir fun d => { d with scanDue := false })
      due.foldl (fun x l => x.retireRingLane seg dir l) s)

/-! ### Packets at their target (R37, R44, R46, R61 to R63, R142, R155, R176, R318) -/

/-- The status of an access by a requester: 0, or 2 for an address that does not exist or is not his, or a write
into the code region of the core's job (R100). -/
def State.accessStatus (s : State) (req a n : Nat) (write : Bool) : Nat :=
  let ok :=
    0 < n && n ≤ 256 && !(write && !isFirmware req && s.meetsCode a n) &&
    (if isDram a then
      a % stackSize + n ≤ stackSize && (isFirmware req || a % stackSize + n ≤ reservedOff) &&
        !(req < 64 && bitAt (s.dramAt (a / stackSize)).p0Mask req)
     else if isSpad a then
      inSpad a n && s.corePresent (spadCore a) &&
        (isFirmware req || req = 0xFE || req = spadCore a || (req < 64 && (s.core (spadCore a)).reg.ranks.contains req))
     else if isHub a then inHub a n && (!touchesTarget a n || req = 0xFF || (req < 64 && bitAt s.p0Mask req))
     else if isReg a then isFirmware req && a % 4 = 0 && n = 4
     else if isHost a then inHost a n
     else isPeer a && isPeer (a + n - 1) && (a - peerBase) / 2 ^ 34 = (a + n - 1 - peerBase) / 2 ^ 34 &&
      (req < 64 || req = 0xFE))
  if ok then 0 else 2

/-- The access leaves for another package, or waits for the host link: no answer is made here. -/
def State.leavesDevice (s : State) (a : Nat) : Bool := isPeer a || (isHost a && !s.hl.linkUp)

/-- What becomes of an admitted access that leaves the device: one to a peer window goes to the package that its
descriptor names (R66, R68), one to host memory waits for the link. -/
def State.leave (s : State) (kind : Nat) (d : Desc) (data : List Byte) : State :=
  if isPeer d.dpa then s.leavePackage kind d (d.peer % 4) data else s

/-- An answer with no data of its own. -/
def State.answerFree (s : State) (vc dst : Nat) (d : Desc) (status : Nat) : State :=
  (s.sendPacket (servingDie d.dpa) dst vc 6
    { kind := 6, desc := { d with status := status }, data := s.freeBytes d.length }).bump

/-- A read at its target that access checks admitted: data, and poison from DRAM, TSV or parity (R47, R145,
R159). -/
def State.serveRead (s : State) (vc src : Nat) (d : Desc) (ecc : List Ecc) (flips : List Nat) : State :=
  let a := d.dpa
  let n := d.length
  let s := s.flipParity (flips.filter fun b => isSpad b)
  let (bad, s) := s.dramRead a n ecc
  let poison := bad || s.readPoisoned a n
  let data := if isReg a then leBytes 4 (s.readReg (d.requester + 1) (a - regBase)) else s.bytesAt a n
  let s := if isReg a then s.busRead (d.requester + 1) (a - regBase) else s
  (s.bankEvents a n).sendPacket (servingDie a) src vc 6
    { kind := 6, desc := { d with status := bit01 poison }, data := data, poison := poison }

/-- RING_READ_REQUEST (R44), on the channel of its originator (R48, R66). -/
def execRingReadRequest (vc src : Nat) (d : Desc) (ecc : List Ecc) (flips : List Nat) (s : State) : Out :=
  .next (if !s.channelFits vc d then s
    else if s.accessStatus d.requester d.dpa d.length false ≠ 0 then s.answerFree vc src d 2
    else if s.leavesDevice d.dpa then s.leave 4 d []
    else s.serveRead vc src d ecc flips)

/-- A write at its target that access checks admitted (R46, R161, R163): poisoned data and failed transfers are
not written; part of a granule that reads uncorrectable leaves it poisoned. -/
def State.serveWrite (s : State) (d : Desc) (data : List Byte) (poison : Bool) (ecc : List Ecc) : Nat × State :=
  let a := d.dpa
  let data := data.take d.length
  if poison then (1, s)
  else if isReg a then (0, s.writeReg (a - regBase) (leNat data))
  else
    let (bad, s) := s.dramWrite a data ecc
    (bit01 bad, s)

/-- RING_WRITE_REQUEST (R46), on the channel of its originator (R48, R66). -/
def execRingWriteRequest (vc src : Nat) (d : Desc) (data : List Byte) (poison : Bool) (ecc : List Ecc) (s : State) :
    Out :=
  .next (if !s.channelFits vc d then s
    else if s.accessStatus d.requester d.dpa d.length true = 0 && s.leavesDevice d.dpa then s.leave 5 d data
    else
      let (status, s) := if s.accessStatus d.requester d.dpa d.length true ≠ 0 then (2, s)
        else s.serveWrite d data poison ecc
      s.sendPacket (servingDie d.dpa) src vc 7 { kind := 7, desc := { d with status := status } })

/-! ### Responses and messages at their requester (R44, R46, R63, R114) -/

/-- A response with an error reaches a core that runs a tile: a tile fault (R63, R69, R114, R119). -/
def State.responseFault (s : State) (d : Desc) (poison : Bool) : State :=
  if 64 ≤ d.requester || (s.core d.requester).run ≠ .running then s
  else if d.status = 1 || poison then s.tileFault d.requester (if isSpad d.dpa then 7 else 8)
  else if d.status = 2 || d.status = 3 then s.tileFault d.requester 3
  else s

/-- RING_READ_RESPONSE (R44). -/
def execRingReadResponse (d : Desc) (data : List Byte) (poison : Bool) (s : State) : Out :=
  .next ((s.onRing fun r => { r with
    readRsp := some { kind := 6, desc := d, data := data, poison := poison } }).responseFault d poison)

/-- RING_WRITE_RESPONSE (R46). -/
def execRingWriteResponse (d : Desc) (s : State) : Out :=
  .next ((s.onRing fun r => { r with writeAck := some d }).responseFault d false)

/-- RING_MESSAGE (R44): the body is the firmware's. -/
def execRingMessage (d : Desc) (s : State) : Out := .next (s.onRing fun r => { r with message := some d })

/-! ### Peer ports (R64 to R69) -/

/-- PLINK_TRAIN (R64, R65): at 8 or 4 lanes, or untrained on the same package number; a change is an event. -/
def execPlinkTrain (link lanes far : Nat) (s : State) : Out :=
  let old := s.ring.plinks.getD link {}
  let conflict := far = s.dev.package && 4 ≤ lanes
  let width := if conflict || lanes < 4 then 0 else if lanes < 8 then 1 else 2
  let new : PLink := { old with trained := width ≠ 0, conflict := conflict, width := width, far := far % 4 }
  let s1 := s.onRing fun r => { r with plinks := r.plinks.set link new }
  .next (if new.trained ≠ old.trained || new.conflict ≠ old.conflict || new.width ≠ old.width then s1.raiseEvent 3
    else s1)

/-- A window admits a peer access (R69). -/
def Window.admits (w : Window) (offset len src : Nat) (write : Bool) : Bool :=
  w.isOpen && decide (offset + len ≤ w.size) && bitAt w.mask src && (if write then w.write else w.read)

/-- The descriptor of a peer access and of its answer: the tag is echoed, and the peer byte names both packages
(R44). The hub makes the access for the other package, as hub DMA (DEDUCED 153). -/
def State.peerDesc (s : State) (a len tag src : Nat) : Desc :=
  { dpa := a, length := len, tag := tag % 65536, requester := 0xFE, peer := s.dev.package % 4 + 4 + 8 * (src % 4) }

/-- An access through a window at its target, carried to its die on VC2 (R66): what of it is done, and the answer. A scratchpad of an absent core
and the target region answer status 2 (R61, R318). -/
def State.servePeer (s : State) (a len tag src : Nat) (write : Bool) (data : List Byte) : State :=
  let d := s.peerDesc a len tag src
  let put (s : State) (p : RingPacket) : State := s.onRing fun r => { r with sent := some p }
  if !(inOpenDram a len || (inSpad a len && s.corePresent (spadCore a)) || (inHub a len && !touchesTarget a len)) then
    put s { kind := if write then 7 else 6, desc := { d with status := 2 } }
  else if write then
    let (bad, t) := s.dramWrite a data []
    put (t.carryWrite .bulk 0 0xFE a data) { kind := 7, desc := { d with status := bit01 bad } }
  else
    let t := ((s.dramRead a len []).2.bankEvents a len).carryRead .bulk 0 0xFE a (s.bytesAt a len)
    put t
      { kind := 6, desc := { d with status := bit01 (s.readPoisoned a len) }, data := s.bytesAt a len
        poison := s.readPoisoned a len }

/-- PEER_ACCESS (R66, R69): an access is admitted through an open window and stays in flight in its link, or is
refused with status 3 and counted at its P-link. It is a unit of the inbound direction of fault injection; the
link's retry hides what an injection did to its flits. -/
def execPeerAccess (link slot offset len : Nat) (src : PeerSource) (write : Bool) (data : List Byte) (s : State) : Out :=
  let w := s.hl.windows.getD slot {}
  let s := (s.inject 2 link 1).2
  .next (if w.admits offset (if write then data.length else len) src.package write then
      (s.onHl fun h => { h with windows := h.windows.modify slot fun x => { x with inFlight := x.inFlight + 1 } }).servePeer
        (w.base + offset) (if write then data.length else len) src.tag src.package write data
    else s.onRing fun r => { r with
      plinks := r.plinks.modify link fun p => { p with refused := satInc 255 p.refused }
      sent := some { kind := if write then 7 else 6
                     desc := { s.peerDesc (peerBase + slot * 2 ^ 34 + offset) len src.tag src.package with status := 3 } } })

end Machine

end Sys2Proof
end

