-- ==== Sys2Proof/Machine/Power.lean ====
section
/-! DEFINITION. Power, heat and idle (chapter 21): the power controller, operating points, parking, trips of logic
dies, retained idle, and the PWR commands. -/

namespace Sys2Proof.Machine

/-! ### Operating points (R516, R517) -/

def State.opOf (s : State) (d : Nat) : Nat := s.pwr.op.getD d 0
/-- Ratio r of a point, in hundredths. -/
def opRatio (o : Nat) : Nat := if o = 0 then 100 else if o = 1 then 68 else if o = 2 then 41 else 18

/-- Drive a die's regulator code; a change widens the die's window for 10 links (R558). -/
def State.selectCode (s : State) (d o : Nat) : State :=
  let old := s.pins.vcoreSel.getD d 0
  let s := if old = o then s else s.onPwr fun p => { p with
    selChanges := p.selChanges.modify d fun l => (old, o, s.tb.link) :: l.filter fun c => s.tb.link < c.2.2 + 10 }
  s.onPins fun p => { p with vcoreSel := p.vcoreSel.set d o }

/-- A die goes to another point (R517): lowering switches the clock at once; raising sets the code and waits for
the regulator. -/
def State.changeOp (s : State) (d o : Nat) : State :=
  if o < s.opOf d then (s.selectCode d o).onPwr fun p => { p with settling := p.settling.set d (some o) }
  else (s.selectCode d o).onPwr fun p => { p with op := p.op.set d o, settling := p.settling.set d none }

/-- OP_CHANGE_SETTLED (R517). -/
def execOpChangeSettled (die : Nat) (s : State) : Out :=
  .next (match s.pwr.settling.getD die none with
    | none => s
    | some o => s.onPwr fun p => { p with op := p.op.set die o, settling := p.settling.set die none })

/-! ### Temperatures (R518, R521, R522) -/

def State.thermOf (s : State) (i : Nat) : Therm := s.pwr.therm.getD i {}
def State.onTherm (s : State) (i : Nat) (f : Therm → Therm) : State :=
  s.onPwr fun p => { p with therm := p.therm.modify i f }

/-- At a furlong boundary the maxima of the furlong just ended are taken, once. -/
def State.shiftTherm (s : State) : State :=
  if s.pwr.shiftedAt = some s.tb.link then s
  else s.onPwr fun p => { p with
    shiftedAt := some s.tb.link
    therm := p.therm.map fun t => { t with
      junctionMax := t.runMax, stackMax := t.runStack, runMax := 0, runStack := 0 } }

/-- P0's die. -/
def State.p0Die (s : State) : Nat := s.p0Ring - 1
def State.hotDie (s : State) (d : Nat) : Bool := 100 ≤ (s.thermOf d).junctionMax || 95 ≤ (s.thermOf d).stackMax
def State.coolDie (s : State) (d : Nat) : Bool := (s.thermOf d).junctionMax < 95 && (s.thermOf d).stackMax < 92

/-! ### The power controller (R518, R519) -/

/-- Compute dies that the controller sets: switched on, and not P0's. -/
def State.ruled (s : State) : List Nat :=
  (List.range 4).filter fun d => d ≠ s.p0Die && !(s.pwr.off.getD d false)

/-- One step down on each die of a list that is above OP3. -/
def State.stepDown (s : State) (ds : List Nat) : State :=
  ds.foldl (fun x d => if x.opOf d < 3 then x.changeOp d (x.opOf d + 1) else x) s

/-- The die that a step up would take: the lowest of those with the largest point among the cool dies. -/
def State.stepUpDie (s : State) (ds : List Nat) : Option Nat :=
  let cool := ds.filter fun d => s.coolDie d && decide (0 < s.opOf d)
  let top := (cool.map s.opOf).foldl max 0
  cool.find? fun d => s.opOf d = top

/-- The estimate of R518 fits under the cap: p + p_d * (r' / r - 1) <= cap - 2 W, in mW, by whole numbers. -/
def estimateFits (p pd o cap : Nat) : Bool :=
  p * opRatio o + pd * (opRatio (o - 1) - opRatio o) + 2000 * opRatio o ≤ cap * 1000 * opRatio o

/-- Parking of P0's die, which lasts until a furlong in which the parked die is cool ends (R519). -/
def State.park (s : State) : State :=
  let d := s.p0Die
  let s := s.onPwr fun p => { p with parked := p.parked.mapIdx fun i on => on && !s.coolDie i }
  if s.hotDie d then
    let s := s.onPwr fun p => { p with parked := p.parked.set d true }
    (s.sch.jobs.filter fun j => j.partition ≠ 0 && j.placed.any fun g => g / 16 = d).foldl
      (fun x j => x.stopJob j.key) s
  else s

/-- P0's die runs at OP0 (R516): a die that the active table has given to P0 is raised to it. -/
def State.raiseP0 (s : State) : State :=
  if s.opOf s.p0Die = 0 || s.pwr.off.getD s.p0Die false then s else s.changeOp s.p0Die 0

/-- The decision of a furlong (R518). -/
def State.decidePower (s : State) (p : Nat) : State :=
  let ds := s.ruled
  let s1 :=
    if s.pwr.cap * 1000 < p then s.stepDown ds
    else
      let s1 := s.stepDown (ds.filter s.hotDie)
      if p + 2000 ≤ s.pwr.cap * 1000 && !(ds.any s.hotDie) then
        match s.stepUpDie ds with
        | none => s1
        | some d => if estimateFits p (s.pwr.dieMw.getD d 0) (s.opOf d) s.pwr.cap then s1.changeOp d (s.opOf d - 1) else s1
      else s1
  if decide (s.pwr.cap * 1000 < p) && ds.all fun d => s1.opOf d = 3 then
    (s1.onPwr fun x => { x with capUnmet := true }).raiseEvent 12
  else s1.onPwr fun x => { x with capUnmet := false }

/-- FURLONG_BOUNDARY (R518, R519): the averages of the furlong just ended, the decision, and parking. -/
def execFurlongBoundary (power : PowerSample) (s : State) : Out :=
  .next (if s.phase s.tb.link % 1000 ≠ 0 || !s.up then s
    else
      let s := s.shiftTherm.onPwr fun p => { p with
        packageMw := power.package, dieMw := (List.range 4).map fun d => power.die.getD d 0 }
      if s.pwr.state ≠ .active then s else (s.decidePower power.package).park)

/-! ### Trips of logic dies (R522, R523) -/

/-- A compute die trips: its jobs end, it goes to OP3 and is switched off until the next start. -/
def State.tripDie (s : State) (d : Nat) : State :=
  let s := ((s.onTherm d fun t => { t with tripped := true }).deviceFault 3).decideSafe 21
  let s := ((List.range 16).map fun c => 16 * d + c).foldl (fun x g => x.failOn g stTileFault) s
  let s := (s.selectCode d 3).onPwr fun p => { p with
    op := p.op.set d 3, settling := p.settling.set d none, off := p.off.set d true, parked := p.parked.set d false }
  s.onDram d fun m => { m with inService := false, powered := false, dead := true, trained := false }

/-- The junction sample of a logic die, 4 the hub (R521, R522). -/
def State.sampleJunction (s : State) (i t : Nat) : State :=
  let was := (s.thermOf i).hot
  let s := s.onTherm i fun x => { x with junction := t, hot := 100 ≤ t, runMax := max x.runMax t }
  let s := if i = 4 && decide (100 ≤ t) && !was then s.raiseEvent 12 else s
  if t < 110 || (s.thermOf i).tripped then s
  else if i < 4 then s.tripDie i
  else ((s.onTherm 4 fun x => { x with tripped := true }).deviceFault 3).decideSafe 21

/-- A thermal report of a die manager to the hub, on VC3 (R48); its body is the firmware's (log 154). -/
def State.report (s : State) (d : Nat) (body : List Nat) : State :=
  s.launch (d + 1) 0 Origin.management.channel 8
    { kind := 8, desc := { requester := 0xF0, message := body.flatMap (leBytes 2) } }

/-- The samples of a chain boundary (R171, R521). A die that is switched off gives none. -/
def State.sampleTemps (s : State) (t : TempSample) : State :=
  let s := if s.phase s.tb.link % 1000 = 0 then s.shiftTherm else s
  let on := (List.range 4).filter fun d => !(s.pwr.off.getD d false)
  let s := on.foldl (fun x d =>
    let v := t.stack.getD d 0
    ((x.report d [v, t.junction.getD d 0]).onTherm d fun y => { y with runStack := max y.runStack v }).sampleStack d v) s
  (on ++ [4]).foldl (fun x i => x.sampleJunction i (t.junction.getD i 0)) s

/-! ### Power domains of the hub (R513, R515) -/

/-- Switched domains of the hub. -/
structure HubDomains where
  peerPorts : Bool
  csi : Bool
  pipes : Bool
  can : Bool
  /-- time base, pairs A and B, the Assize, dynamics engine and joint lines: on whenever the hub is powered -/
  always : Bool
deriving DecidableEq, Repr

/-- What the hub has switched on (R515): the rule ties every domain to state that stands elsewhere, so that a
training, a configuration or a change of a CAN mode switches it in the same step. -/
def State.hubDomains (s : State) : HubDomains where
  peerPorts := s.ring.plinks.any fun l => l.trained
  csi := s.itk.streams.any fun x => x.cfg.isSome
  pipes := s.itk.streams.any fun x => x.cfg.isSome
  can := s.can.any fun x => x.mode ≠ 0
  always := true

/-! ### PWR commands and retained idle (R520, R524 to R527) -/

/-- A transfer that R524 lets no entry interrupt. -/
def State.transfersRun (s : State) : Bool :=
  s.sch.jobs.any Job.live || s.kv.xfers ≠ [] || s.kv.compaction.isSome ||
    s.awaiting (fun w => match w with | .recExport _ _ _ => true | _ => false) ≠ []

/-- PWR.STATE with pw0 [0] = 1 (R524, R527): in RETAINED the device is there already. -/
def execPwrStateEnterRetainedIdle (c : Cmd) (s : State) : Out :=
  .next (if !bitAt (c.word 0) 0 then s
    else runCmd 0xF 1 c s fun s =>
      if s.dev.mode ≠ .config then s.complete c stMode
      else if s.pwr.state = .entering || s.pwr.state = .leaving then s.complete c stBusy
      else if s.pwr.state = .retained then s.complete c stOk
      else if s.transfersRun then s.complete c stBusy
      else
        let s := s.onPwr fun p => { p with state := .entering }
        ((List.range 4).foldl (fun x d => x.onDram d fun m => { m with selfRefresh := true }) s).await c .powerEnter)

/-- RETAINED_IDLE_ENTERED (R524, R525, R527): every compute-die domain is off, and scratchpad content is lost. -/
def execRetainedIdleEntered (s : State) : Out :=
  .next (if s.pwr.state ≠ .entering then s
    else
      let s := s.onPwr fun p => { p with state := .retained, off := [true, true, true, true] }
      let s := (List.range 4).foldl (fun x d => x.onDram d fun m => { m with powered := false }) s
      (s.onCores fun k => { k with phys := k.phys.map fun q => { q.cleared with reg := {}, snap := {} } }).finish
        (· = .powerEnter) stOk)

/-- PWR.STATE with pw0 [0] = 0 (R526, R527): in ACTIVE the device is there already. -/
def execPwrStateLeaveRetainedIdle (c : Cmd) (s : State) : Out :=
  .next (if bitAt (c.word 0) 0 then s
    else runCmd 0xF 1 c s fun s =>
      if s.pwr.state = .entering || s.pwr.state = .leaving then s.complete c stBusy
      else if s.pwr.state = .active then s.complete c stOk
      else (s.onPwr fun p => { p with state := .leaving }).await c .powerLeave)

/-- A compute die comes back from retained idle (R526), unless it is out of service until the next start. -/
def State.wakeDie (s : State) (d : Nat) : State :=
  if (s.thermOf d).tripped || !(s.dramAt d).inService then s
  else
    let s := (s.selectCode d 0).onPwr fun p => { p with
      op := p.op.set d 0, settling := p.settling.set d none, off := p.off.set d false }
    let s := s.onDram d fun m => { m with powered := true, fwLoaded := true, selfRefresh := m.tripped }
    let s := s.onTb fun t => { t with dieLink := t.dieLink.set d t.link }
    (List.range 16).foldl (fun x c => x.clearSpad (16 * d + c)) s

/-- RETAINED_IDLE_LEFT (R526, R527). -/
def execRetainedIdleLeft (s : State) : Out :=
  .next (if s.pwr.state ≠ .leaving then s
    else (((List.range 4).foldl State.wakeDie s).onPwr fun p => { p with state := .active }).finish (· = .powerLeave) stOk)

/-- PWR.LIMIT (R520). -/
def execPwrLimit (c : Cmd) (s : State) : Out :=
  .next (runCmd 0xF 2 c s fun s =>
    let w := c.word 0
    if w = 0 then (s.onPwr fun p => { p with cap := 120 }).complete c stOk
    else if w < 40 || 120 < w then s.complete c stLimit
    else (s.onPwr fun p => { p with cap := w }).complete c stOk)

/-- PWR.QUERY (R433). -/
def execPwrQuery (c : Cmd) (s : State) : Out :=
  .next (runCmd 0xF 3 c s fun s =>
    s.complete c stOk s.pwr.packageMw
      ((s.pwr.therm.map (·.junction)).foldl max 0 + 256 * (s.dram.map (·.temp)).foldl max 0) s.opBits)

end Sys2Proof.Machine
end

