-- ==== Sys2Proof/Machine/Replay.lean ====
section
/-! DEFINITION. The LINK record (R530, R531) and REPLAY (R537): the start of a replay, one recorded event after
another in place of its live source, and the replay's end. -/

namespace Sys2Proof.Machine

/-! ### LINK records (R530, R531) -/

/-- The nodes of a LINK record: those of the node table. -/
def State.linkNodes (s : State) : List Nat := (List.range 64).filter fun n => (s.entryOf n).isSome

def State.isImu (s : State) (n : Nat) : Bool := (s.entryOf n).any fun e => e.kind = 1
def State.isDrive (s : State) (n : Nat) : Bool := (s.entryOf n).any fun e => e.kind = 0

/-- One node's LINK entry (R531). -/
def State.linkEntry (s : State) (n : Nat) : List Byte :=
  let x := s.node n
  if s.isImu n then x.sample.take 44 ++ leBytes 4 0
  else
    x.sample.take 8 ++ (x.sample.drop (if s.isDrive n then 12 else 8)).take 4 ++ leBytes 4 x.slotSent.torque ++
      leBytes 2 (fieldAt x.sample 36 2 % 2 ^ 15 + 2 ^ 15 * bit01 x.stale) ++ (x.sample.drop 40).take 4 ++
      leBytes 1 x.slotSent.mode ++ leBytes 1 (bit01 x.slotSent.hold)

/-- Body of the LINK record of this link (R530). -/
def State.linkBody (s : State) : List Byte :=
  leBytes 8 ((s.linkNodes.map fun n => 2 ^ n).sum) ++
    leBytes 1 (bit01 s.asz.estopA.raw + 2 * bit01 s.asz.estopB.raw + 4 * bit01 s.asz.estopA.active +
      8 * bit01 s.asz.estopB.active) ++ leBytes 7 0 ++ s.linkNodes.flatMap s.linkEntry

/-- The LINK record of a link, written as the link ends. -/
def State.recordLink (s : State) : State :=
  s.onRec fun r => r.put 1 (bit01 s.jl.injected) (linkTs s.tb.link) s.linkBody

/-! ### The start of a replay (R537) -/

/-- The records of an export image: each one's length stands in its header. -/
def splitRecords : Nat → List Byte → List (List Byte)
  | 0, _ => []
  | k + 1, d =>
    let n := fieldAt d 2 2
    if n < 16 || d.length < n then [] else d.take n :: splitRecords k (d.drop n)

def recordKind (r : List Byte) : Nat := fieldAt r 0 1

/-- Links from the first recorded link to a record; a record stamped before it counts as of that link. -/
def recordOffset (first : Nat) (r : List Byte) : Nat :=
  let d := (fieldAt r 8 8 / 65536 + 2 ^ 48 - first % 2 ^ 48) % 2 ^ 48
  if d < 2 ^ 47 then d else 0

/-- The first link from `now + 100` on whose place in its mile is that of the first recorded link. -/
def replayStart (now mile first recMile : Nat) : Nat :=
  let base := now + 100
  base + (((first : Int) - recMile + mile - base) % 8000).toNat

/-- A recording to replay: its records, first recorded link and mile base; or the status that refuses it. -/
def State.recording (s : State) (src : Nat) : Except Nat (List (List Byte) × Nat × Nat) :=
  if src = 0 then
    (if s.recd.state ≠ .frozen then .error stBusy
     else .ok (s.recd.records, fieldAt (s.recd.records.headD []) 8 8 / 65536, s.recd.mile))
  else
    let h := s.bytesAt src 64
    let n := fieldAt h 40 8
    if !inOpenDram src (64 + n) || fieldAt h 0 4 ≠ 0x43525755 || fieldAt h 4 4 ≠ 1 then .error stBadParam
    else if s.readPoisoned src (64 + n) then .error stMemPoison
    else .ok (splitRecords (n / 16) (s.bytesAt (src + 64) n), fieldAt h 24 8, fieldAt h 8 8)

/-- The replay ends, and REC.REPLAY completes. -/
def State.endReplay (s : State) (status : Nat) : State :=
  (s.onRec fun r => { r with replay := none }).finish (· = .replay) status

/-- REC_REPLAY (R537). -/
def execRecReplay (c : Cmd) (s : State) : Out :=
  .next (runCmd 0xD 4 c s fun s =>
    let cap := fieldAt c.data 8 8
    let n := fieldAt c.data 16 8
    if s.dev.mode ≠ .replay then s.complete c stMode
    else if !allZero c.data 24 8 || !s.dmaRange cap n then s.complete c stBadParam
    else if s.recd.replay.isSome then s.complete c stBusy
    else match s.recording (fieldAt c.data 0 8) with
      | .error st => s.complete c st
      | .ok (rs, first, mile) =>
        let p : Replay := { records := rs, firstLink := first, t0 := replayStart s.tb.link s.tb.mile first mile
                            capture := cap, captureEnd := cap + n }
        ((s.onRec fun r => { r with replay := some p }).canStopDisallowed).await c .replay)

/-! ### Recorded events (R537) -/

/-- A record is due in this link or has been. -/
def Replay.due (p : Replay) (link : Nat) (r : List Byte) : Bool := p.t0 + recordOffset p.firstLink r ≤ link

/-- Records whose events are inputs: LINK, received CAN frames, INTAKE. -/
def isInput (r : List Byte) : Bool :=
  recordKind r = 1 || (recordKind r = 2 && fieldAt r 17 1 = 0) || recordKind r = 5

/-- A sample slot from a 24-byte entry: what the entry does not hold is free. -/
def State.sampleOf (s : State) (n : Nat) (e : List Byte) : List Byte :=
  let free (i k : Nat) : List Byte := (List.range k).map fun j => BitVec.ofNat 8 (s.draw (64 * n + i + j))
  let head := if s.isDrive n then e.take 8 ++ free 0 4 ++ (e.drop 8).take 4 ++ free 4 20
    else e.take 12 ++ free 0 24
  head ++ free 24 2 ++ leBytes 2 (fieldAt e 16 2 % 2 ^ 15) ++ (e.drop 18).take 4 ++ leBytes 4 0

/-- One node's recorded slot stands in for the live one. -/
def State.replayNode (s : State) (n : Nat) (e : List Byte) : State :=
  if s.isImu n then s.goodNode n (e.take 44 ++ leBytes 4 0)
  else if bitAt (fieldAt e 16 2) 15 then s.staleNode n
  else s.goodNode n (s.sampleOf n e)

/-- Entries of the nodes of a LINK record, ascending. -/
def State.replayEntries (s : State) : List Nat → List Byte → State
  | [], _ => s
  | n :: ns, d =>
    let k := if s.isImu n then 48 else 24
    (s.replayNode n (d.take k)).replayEntries ns (d.drop k)

/-- A LINK record: samples and E-stop samples. -/
def State.replayLink (s : State) (r : List Byte) : State :=
  let e := fieldAt r 24 1
  let ns := (List.range 64).filter fun n => bitAt (fieldAt r 16 8) n
  ((s.replayEntries ns (r.drop 32)).sampleEstops (bitAt e 0) (bitAt e 1)).bump

/-- A received frame from its record; its place in the link stays. -/
def State.replayCan (s : State) (r : List Byte) : State :=
  let e := (r.drop 24).take 80
  let idw := fieldAt e 8 4
  let inf := fieldAt e 12 4
  let f : CanFrame := { id := idw % 2 ^ 29, xtd := bitAt idw 29, remote := bitAt idw 30, fdf := bitAt inf 4
                        brs := bitAt inf 5, esi := bitAt inf 6, dlc := inf % 16
                        data := (e.drop 16).take (dlcLen (bitAt inf 4) (inf % 16))
                        sofCycle := ceilDiv (fieldAt e 0 8 % 65536 * s.linkCycles) 65536 }
  s.canStore (fieldAt r 16 1) f

/-- Offsets of the cells that a thinned tensor keeps (R532). -/
def thinOffsets (p : Profile) (scale : Nat) : List Nat :=
  (List.range p.blocks).flatMap fun k =>
    ((List.range p.ch).filter fun y => y % scale = 0).flatMap fun y =>
      ((List.range p.cw).filter fun x => x % scale = 0).map fun x => ((k * p.ch + y) * p.cw + x) * (p.block * p.elem)

/-- A recorded tensor goes to its buffer; cells that the recording does not hold stay as they are. -/
def State.writeThin (s : State) (p : Profile) (a : Nat) : List Nat → List Byte → State
  | [], _ => s
  | o :: os, t =>
    let cell := p.block * p.elem
    (s.write (a + o) (t.take cell)).writeThin p a os (t.drop cell)

/-- An INTAKE record is published as its stream's sample, its capture time moved with its link. -/
def State.replaySample (s : State) (shift : Nat) (r : List Byte) : State :=
  let i := fieldAt r 16 1
  let flags := fieldAt r 19 1
  let x := (s.stream i).cfg.getD {}
  let p := (s.itk.profiles.getD x.profile none).getD {}
  let cause := fieldAt r 18 1
  let b := flags / 4
  let a := x.bufs.getD b 0
  let shut := s.tensorRefused a p.tensorBytes
  let f : Frame :=
    { seq := fieldAt r 20 4, captureTs := (fieldAt r 24 8 + shift * 65536) % 2 ^ 64
      counter := if bitAt flags 1 then some (fieldAt r 32 4) else none
      crc := fieldAt r 36 4, took := fieldAt r 40 4 * 256, tensorBytes := fieldAt r 44 4
      buffer := if cause = 0 then some b else none, ended := true
      resolved := some (if cause = 0 && shut then 5 else cause) }
  if (s.stream i).cfg.isNone then s
  else
    let s := if cause = 0 && !shut then s.writeThin p a (thinOffsets p (fieldAt r 48 1)) (r.drop 56) else s
    s.publish i f

/-- One recorded input takes effect. -/
def State.replayRecord (s : State) (p : Replay) (r : List Byte) : State :=
  if recordKind r = 1 then s.replayLink r
  else if recordKind r = 2 then s.replayCan r
  else s.replaySample (p.t0 - p.firstLink) r

/-- REPLAY_EVENT (R537): the oldest recorded input that is due; records of commands, of decisions, of losses and
of sent frames are no inputs. -/
def execReplayEvent (s : State) : Out :=
  .next (match s.recd.replay with
    | none => s
    | some p =>
      let rest := p.records.filter fun r => !p.due s.tb.link r || isInput r
      match rest.find? (p.due s.tb.link) with
      | none => s.onRec fun x => { x with replay := some { p with records := rest } }
      | some r =>
        (s.onRec fun x => { x with replay := some { p with records := rest.erase r } }).replayRecord p r)

/-- As a link ends: a full capture area or an exhausted recording ends the replay (R537). -/
def State.checkReplay (s : State) : State :=
  match s.recd.replay with
  | none => s
  | some p =>
    if p.full then s.endReplay stLimit
    else if p.t0 ≤ s.tb.link && p.records.all (fun r => p.due s.tb.link r && !isInput r) then s.endReplay stOk
    else s

end Sys2Proof.Machine
end

