-- ==== Sys2Proof/Machine/Device.lean ====
section
/-! DEFINITION. The device as a whole: DEV commands for modes and contexts (R6, R411 to R414), the host link
going down (R437), resets and loss of power (R548, R562 to R564), and the start sequence (R471 to R473). -/

namespace Sys2Proof.Machine

/-! ### DEV.INFO (R433) -/

/-- Mask of present logical cores. -/
def State.coreMask (s : State) : Nat :=
  if s.dev.mode = .recovery then 0 else ((List.range 64).map fun g => bit01 (s.corePresent g) * 2 ^ g).sum

/-- Open contexts. -/
def State.openCount (s : State) : Nat := (s.hl.ctxs.filter (·.isOpen)).length

/-- DEV_INFO (R433, R489). -/
def execDevInfo (c : Cmd) (s : State) : Out :=
  .next (runCmd 1 1 c s fun s =>
    s.complete c s.cfgOk (s.fw.version + 2 ^ 32 * (Config.hwRevision % 65536)) s.coreMask
      (packWord [(0, s.dev.mode.code), (8, s.openCount % 256), (16, bit01 s.fw.cfgDefaulted),
        (17, bit01 s.fw.wearRebuilt)]))

/-! ### Modes (R3 to R6, R21 to R23, R404, R405) -/

/-- The outputs that follow the mode, and the controllers whose mode it does not allow (R31, R405, R454). -/
def State.modeOutputs (s : State) : State := s.canStopDisallowed.driveSafe.driveCams

/-- Why RUN is refused, or ST_OK: R346, R303, R337, R407, R404, R405 (log 39 for the order). -/
def State.runStatus (s : State) : Nat :=
  if s.sch.active.id = 0 || !(s.sch.jobs.any fun j => j.partition = 0 && j.live) then stMode
  else if !s.linesReady then stMode
  else if s.sol.state ≠ .running then stMode
  else if !s.asz.paramsValid then stMode
  else if s.asz.startCauses ≠ 0 || s.asz.estopA.active || s.asz.estopB.active || s.asz.discrepancy then stSafeState
  else stOk

/-- CONFIG is entered: vector 10 is raised once when defaults are in force (R489). -/
def State.enterConfig (s : State) : State :=
  let s := s.enterMode .config
  let s := if s.fw.defaultsDue then (s.onFw fun f => { f with defaultsDue := false }).raiseEvent 10 else s
  s.modeOutputs

/-- RUN, DEGRADED, TEST or REPLAY is left for CONFIG (R6, R404, R537). -/
def State.backToConfig (s : State) : State :=
  let s := if s.asz.safe then s.endSafe else s
  let s := if s.recd.replay.isSome then s.endReplay stCancelled else s
  (s.onTb fun t => { t with syncUsed := false, syncFree := false, phaseErr := 0 }).enterConfig

/-- RUN is requested: with sync_in_en every trigger is held (R21, R22, R31). A request while another waits joins it
(DESIGN CHOICE 39). -/
def State.requestRun (s : State) (c : Cmd) : State :=
  let sync := bitAt s.tb.syncCtrl 0
  if s.tb.runReq.isSome then s.await c .runEntry
  else ((s.onTb fun t => { t with
      runReq := some { ring := c.ring, tag := c.tag, link := t.link, sync := sync, previous := s.dev.mode.code }
      camHeld := sync }).driveCams).await c .runEntry

/-- The request ends without RUN: the grid and the triggers stay (R19, R31). -/
def State.dropRun (s : State) (r : RunReq) (status : Nat) : State :=
  ((s.onTb fun t => { t with runReq := none, camHeld := false }).driveCams).finish (· = .runEntry) status r.previous

/-- TEST or REPLAY is entered from CONFIG; at the entry to REPLAY the disagreement window is empty (R537). A request
for RUN that still waits ends with ST_MODE (DESIGN CHOICE 39). -/
def State.enterBench (s : State) (m : Mode) : State :=
  let s := match s.tb.runReq with
    | some r => s.dropRun r stMode
    | none => s
  let s := if m = .replay then s.onAsz fun a => { a with disagreeLinks := [] } else s
  (s.enterMode m).modeOutputs

/-- The status of a request that R6 does not carry out, or ST_OK where it does. -/
def State.modeStatus (s : State) (m : Nat) : Nat :=
  let cur := s.dev.mode
  if 6 ≤ m then stBadParam
  else if m = cur.code || (m = 1 && cur = .degraded) then stOk
  else if m = 2 || m = 4 then stMode
  else if cur = .config then (if m = 1 then s.runStatus else stOk)
  else if m = 0 then (if s.asz.safe && !s.asz.torqueOff then stSafeState else stOk)
  else stMode

/-- DEV_MODE (R6). -/
def execDevMode (c : Cmd) (s : State) : Out :=
  .next (runCmd 1 2 c s fun s =>
    let m := c.word 0 % 16
    let cur := s.dev.mode
    let prev := cur.code
    if s.modeStatus m ≠ stOk then s.complete c (s.modeStatus m) prev
    else if m = prev || (m = 1 && cur = .degraded) then s.complete c stOk prev
    else if m = 1 then s.requestRun c
    else if m = 0 then s.backToConfig.complete c stOk prev
    else (s.enterBench (if m = 3 then .test else .replay)).complete c stOk prev)

/-! ### Contexts (R411 to R414) -/

/-- The block of DEV.CONTEXT_OPEN breaks R412. -/
def ctxBlockBad (d : List Byte) : Bool :=
  let sq := fieldAt d 16 1
  let cq := fieldAt d 17 1
  let v := fieldAt d 18 1
  fieldAt d 0 8 % 4096 ≠ 0 || fieldAt d 8 8 % 4096 ≠ 0 || sq < 4 || 16 < sq || cq < 4 || 16 < cq ||
    !inHost (fieldAt d 0 8) (64 * 2 ^ sq) || !inHost (fieldAt d 8 8) (64 * 2 ^ cq) ||
    !(v = 0xFF || (16 ≤ v && v ≤ 63)) || !allZero d 19 13

/-- The lowest free context number from 1 to 255. -/
def State.freeCtx (s : State) : Option Nat := (List.range 256).find? fun k => 1 ≤ k && !(s.ctx k).isOpen

/-- DEV_CONTEXT_OPEN (R411, R412). -/
def execDevContextOpen (c : Cmd) (s : State) : Out :=
  .next (runCmd 1 3 c s fun s =>
    let d := c.data
    match s.freeCtx with
    | none => s.complete c stLimit
    | some k =>
      if ctxBlockBad d then s.complete c stBadParam
      else (s.onCtx k fun x =>
        { openCtx x (fieldAt d 0 8) (fieldAt d 8 8) (fieldAt d 16 1) (fieldAt d 17 1) (fieldAt d 18 1) with
          accepted := 0, ended := 0 }).complete c stOk k)

/-- A context begins to close (R414 steps 1 and 2). -/
def State.startClose (s : State) (k : Nat) : State :=
  let s := s.onCtx k fun x => { x with
    closing := true, muteBelow := x.nextSeq, waiting := [], stalled := false, sqHead := x.sqTail
    slots := x.slots.filter fun sl => sl.state = .started }
  (s.sch.jobs.filter fun j => j.key.ctx = k).foldl (fun x j => x.requestEnd j.key stCancelled) s

/-- Sequences of a closing context are freed under R226, as far as nothing uses them. -/
def State.freeSeqs (s : State) (k : Nat) : State :=
  (s.kv.seqs.filter fun q => q.ctx = k && !q.freeing).foldl (fun x q =>
    if x.seqInUse q.id then x
    else if x.seqMoving q then x.onSeq q.id fun y => { y with freeing := true }
    else x.removeSeq q.id) s

/-- The close goes on (R414 steps 3 and 4): once its jobs and started commands have ended, sequences go, then
allocations, and the command completes. -/
def State.settleClose (s : State) (k : Nat) : State :=
  let x := s.ctx k
  if !x.closing || x.slots ≠ [] || s.sch.jobs.any fun j => j.key.ctx = k then s
  else
    let s := s.freeSeqs k
    if s.kv.seqs.any fun q => q.ctx = k then s
    else
      let s := s.onHl fun h => { h with allocs := h.allocs.filter fun a => a.firmware || a.ctx ≠ k }
      (s.onCtx k fun x => { x with isOpen := false, closing := false }).finish (· = .contextClose k) stOk

def State.settleCloses (s : State) : State := (List.range 256).foldl State.settleClose s

/-- DEV_CONTEXT_CLOSE (R414). -/
def execDevContextClose (c : Cmd) (s : State) : Out :=
  .next (runCmd 1 4 c s fun s =>
    let k := c.word 0 % 256
    if k = 0 || !(s.ctx k).isOpen then s.complete c stBadParam
    else if (s.ctx k).closing then s.complete c stBusy
    else ((s.startClose k).await c (.contextClose k)).settleClose k)

/-- HOST_LINK_DOWN (R437, R448, R552, R570): the endpoint is reset and the contexts close; nothing else is
reset. -/
def execHostLinkDown (how : LinkDownKind) (s : State) : Out :=
  .next (if s.dev.inReset then s
    else
      let down := s.hl.linkUp && how ≠ .hotReset
      let s := s.onHl fun h => { h with
        linkUp := false, linkDowns := if down then satInc 65535 h.linkDowns else h.linkDowns
        msix := (List.replicate 64 [0, 0, 0, 1]).flatten, pba := 0, bar2Base := 0 }
      let s := s.onTb fun t => { t with ptmPath := false, ptmActive := false, ptmBusy := false }
      let s := s.disableCtx0
      (((List.range 256).filter fun k => 1 ≤ k && (s.ctx k).isOpen && !(s.ctx k).closing).foldl
        State.startClose s).settleCloses)

/-! ### Resets (R548, R562 to R564) -/

/-- Flash after a reset or loss of power: a record or half whose write it broke no longer gives its check word,
and a piece is not marked (R480, R490, R491). -/
def Fw.survivor (f : Fw) : Fw :=
  let flash := match f.op with
    | some (.cfgCommit _) => flashErase f.flash cfgFlash 65536
    | some (.wear h _) => flashErase f.flash (wearFlash + 32768 * h) 32768
    | _ => f.flash
  { flash := flash, staging := f.staging, header := f.header, present := f.present }

/-- A loader's copy that the reset may have caught: a start by flash boot was in progress that found COMMITTED or
COPYING (R471 step 2, R484). Whether the loader had begun is free (DESIGN CHOICE 175). -/
def State.copyCaught (s : State) : Bool :=
  s.dev.mode = .start && (s.dev.bootsel = 0 || s.dev.bootsel = 3) &&
    (s.fw.staging = .committed || s.fw.staging = .copying) && s.draw 0 % 2 = 0

/-- A copy broken off: the running image has no header, and the next start takes it from piece 0 (R482, R483). -/
def Fw.brokenCopy (f : Fw) : Fw :=
  { f with staging := .copying, flash := flashErase f.flash runningFlash 65536 }

/-- The device in reset: flash and the host's memory keep their content. -/
def State.inResetFrom (s : State) : State :=
  { State.reset with
    pending := s.pending, free := s.free + 1, starts := s.starts
    fw := if s.copyCaught then s.fw.survivor.brokenCopy else s.fw.survivor
    recd := { flashCopy := s.recd.flashCopy }
    mem := { cells := s.mem.cells.filter fun c => isHost c.1 } }

/-- RESET_ASSERT (R562). -/
def execResetAssert (s : State) : Out := .next s.inResetFrom

/-- POWER_LOSS (R564). -/
def execPowerLoss (s : State) : Out := .next s.inResetFrom

/-- DEV_RESET_WRITE (R548). -/
def execDevResetWrite (value : Nat) (s : State) : Out :=
  .next (if value % 2 ^ 32 = 0xA5A50001 && !s.running && s.dev.mode ≠ .replay && !s.asz.safe then s.inResetFrom else s)

/-- HUB_RESET_RELEASE (R10, R470, R563): the straps are latched, LINK_COUNT is 0 and the start begins. -/
def execHubResetRelease (bootsel : Nat) (s : State) : Out :=
  .next (if !s.dev.inReset then s
    else (({ s with starts := s.starts + 1 }.onDev fun d => { d with
        inReset := false, mode := .start, bootsel := bootsel % 4 }).onFw fun f => { f with stage := 1 }).driveSafe.driveSyncOut)

/-! ### The start sequence (R471 to R474, R509, R574) -/

/-- CAN0 as the ROM runs it: CAN FD at 500 kbit/s and 2 Mbit/s, in mode 1 (R486). -/
def romCan (c : Can) : Can :=
  { c with
    mode := 1, fdEn := true, brsEn := true
    arb := packWord [(24, 15), (17, 15), (9, 62), (0, 1)], dataTiming := packWord [(24, 1), (20, 3), (16, 3), (8, 14), (0, 1)]
    loopComp := packWord [(24, 32), (16, 8)] }

/-- RECOVERY (R472, R485, R486): the ROM takes commands, over CAN0 unless BOOTSEL selects PCIe alone. -/
def State.enterRecovery (s : State) (reason : Nat) : State :=
  let s := (s.onFw fun f => { f with stage := 15, recoveryReason := reason, floor := Config.romFloor }).onDev fun d => { d with
    mode := .recovery, fwReady := true }
  (if s.canRecovery then s.onCan 0 romCan else s).driveSyncOut

/-- A core entry of the wear record (R131, R509): a spare is withdrawn, else its logical core moves. -/
def State.applyCore (s : State) (d u : Nat) : State :=
  let mark (x : State) : State := x.onPhys (physIndex d u) fun k => { k with retired := true }
  match s.logicalOn d u with
  | none => mark s
  | some c =>
    let ms := s.coreMoves d c
    let s := mark (ms.foldl (fun x m => x.remap (16 * d + m.1) m.2) s)
    if ms.any fun m => m.2 = none then s.onSpr fun p => { p with degraded := true } else s

/-- A bank entry. -/
def applyBank (k : Core) (b : Nat) : Core :=
  if k.sparesLeft = 0 then k
  else { k with
    retiredA := if k.retiredA = 0x7F then b else k.retiredA
    retiredB := if k.retiredA = 0x7F then k.retiredB else b
    sparesLeft := k.sparesLeft - 1 }

/-- A segment direction runs at 64 lanes when no spare is left; a retired spare is withdrawn. -/
def applyLane (x : SegDir) (lane : Nat) : SegDir :=
  { x with retired := x.retired ++ [lane], sparesLeft := x.sparesLeft - 1, narrow := x.narrow || x.sparesLeft = 0 }

/-- A TSV lane entry. -/
def applyTsv (m : Dram) (ch lane : Nat) : Dram :=
  if (m.lanesRetired.filter fun x => x.1 = ch && x.2 / 64 = lane / 64).length < 2 then
    { m with lanesRetired := m.lanesRetired ++ [(ch, lane)] }
  else { m with narrow := if m.narrow.contains ch then m.narrow else m.narrow ++ [ch] }

/-- A row entry: the lowest free spare row of its channel, in place of an older remap of the row. -/
def applyRow (m : Dram) (r : WearEntry) : Dram :=
  let used := (m.remaps.filter fun x => x.row.unit = r.unit).length
  if 256 ≤ used then m
  else { m with remaps := (m.remaps.map fun y => if y.row = r then { y with valid := false } else y) ++
      [{ row := r, spare := used, copying := false, valid := true }] }

/-- A pipe entry: the spare takes its place, or it is the spare. -/
def applyPipe (k : Itk) (u : Nat) (spare : Bool) : Itk :=
  let was := (k.pipes.getD u {}).inService
  let ps := k.pipes.modify u fun p => { p with retired := true, inService := false }
  { k with pipes := if was && spare then ps.map fun p => if p.retired then p else { p with inService := true } else ps }

/-- One entry of the wear record is applied (R509). -/
def State.applyEntry (s : State) (r : WearEntry) : State :=
  let lacking (b : Bool) (x : State) : State := if b then x.onSpr fun p => { p with degraded := true } else x
  match r.kind with
  | 1 => s.applyCore r.place r.unit
  | 2 => s.onPhys (physIndex r.place r.unit) fun k => applyBank k r.detail
  | 3 =>
    let dir : RingDir := if r.unit = 0 then .fwd else .rev
    lacking ((s.segDir r.place dir).sparesLeft = 0) (s.onSegDir r.place dir fun x => applyLane x r.detail)
  | 4 =>
    let t := s.onDram r.place fun m => applyTsv m r.unit r.detail
    lacking ((t.dramAt r.place).narrow ≠ (s.dramAt r.place).narrow) t
  | 5 => s.onDram r.place fun m => applyRow m r
  | 6 => lacking true (s.onDram r.place fun m => { m with
      withdrawn := m.withdrawn ++ [r.place * stackSize + 32768 * r.detail] })
  | 7 => lacking (!s.sol.spareLeft) (s.onSol fun x => { x with
      clustersRetired := x.clustersRetired ++ [r.unit], clustersLost := x.clustersLost || !x.spareLeft
      spareLeft := false })
  | 8 =>
    let was := (s.itk.pipes.getD r.unit {}).inService
    let spare := s.spr.pipeSpareLeft
    lacking (was && !spare) ((s.onItk fun k => applyPipe k r.unit spare).onSpr fun p => { p with pipeSpareLeft := false })
  | _ => s

/-- Step 2, and the second copy that R472 allows: the staging image over the running image. -/
def State.copyStaged (s : State) (report : StartReport) : State × Bool :=
  let first := s.fw.staging = .committed || s.fw.staging = .copying
  let s := if first then s.onFw fun f => { f.install with copied := true } else s
  if report.imageOk then (s, true)
  else if s.fw.staging = .installed then (s.onFw fun f => { f.install with copied := true }, report.imageOkAfterCopy)
  else (s, false)

/-- Step 3: version and hashes of what runs. -/
def State.readImage (s : State) (keyMatches : Bool) (ms : Nat) : State :=
  s.onFw fun f =>
    let h := flashBytes f.flash runningFlash 256
    { f with
      version := hdrVersion h, imageHash := (h.drop 64).take 64
      loaderHash := (flashBytes f.flash 0 256).drop 64 |>.take 64, keyMatches := keyMatches, startMs := ms }

/-- Step 4: the configuration record, or factory defaults (R488 to R490). -/
def State.readConfig (s : State) : State :=
  s.onFw fun f =>
    let d := cfgRecord f.flash
    let why := cfgReasonOf d
    let w := if why = 0 then d else defaultRecord
    { f with
      cfgDefaulted := why ≠ 0, defaultsDue := why ≠ 0, cfgReason := why, work := w, inForce := w
      cfgSequence := fieldAt w 12 4, cfgCheck := fieldAt w 0x2FFC 4
      flashFormat := if why = 1 then 0 else fieldAt d 4 2
      floor := if why = 0 then fieldAt w 0x20 4 else f.version }.markDirty

/-- Step 4: the valid half of the wear record with the higher sequence, or a rebuild that writes both halves
(R491). -/
def State.readWear (s : State) (rebuilt : List WearEntry) : State :=
  let a := halfBytes s.fw.flash 0
  let b := halfBytes s.fw.flash 1
  let take (h : Nat) (d : List Byte) : State := s.onSpr fun p => { p with
    entries := halfEntries d, inFlash := fieldAt d 12 4, sequence := fieldAt d 8 4, half := h }
  if halfValid a && (!halfValid b || fieldAt b 8 4 ≤ fieldAt a 8 4) then take 0 a
  else if halfValid b then take 1 b
  else
    let es := rebuilt.take 4091
    ((s.onFw fun f => { f with
        wearRebuilt := true
        flash := flashWrite (flashWrite f.flash wearFlash (wearHalf 1 es)) (wearFlash + 32768) (wearHalf 2 es)
        }).onSpr fun p => { p with entries := es, inFlash := es.length, sequence := 2, half := 1 }).raiseEvent 13

/-- Step 5: a segment trains, or fails training (R59, R473). -/
def State.startSegment (s : State) (g : Nat) (fwd rev : Bool) : State :=
  let s := s.onSeg g fun x => { x with fwd := { x.fwd with up := fwd }, rev := { x.rev with up := rev } }
  if fwd && rev then s else (s.deviceFault 1).onSpr fun p => { p with degraded := true }

/-- Steps 6 and 7: a die loads and its stack trains, or the die stays out of service with its cores absent
(R473). -/
def State.startDie (s : State) (d : Nat) (die stack : Bool) : State :=
  let ok := die && stack
  let s := s.onDram d fun m => { m with
    inService := ok, fwLoaded := die, powered := true, trained := ok, dead := !ok }
  let s := s.onTb fun t => { t with dieLink := t.dieLink.set d t.link }
  let s := s.onKv fun k => { k with agentReady := k.agentReady.set d ok }
  if ok then s
  else (((s.onCores fun k => { k with map := (List.range 64).map fun g =>
      if g / 16 = d then none else k.map.getD g none }).deviceFault 4)).onSpr fun p => { p with degraded := true }

/-- A controller as the record sets it up: timing, filters, and a request for its mode. -/
def startCan (d : List Byte) (k : Nat) (x : Can) : Can :=
  let m := fieldAt (canBlock d k) 32 1
  if noCan d k then x
  else { canConfigured x ((canBlock d k).take 32) with
    banks := [parseBank (filterPayload (filterBlock d k)), {}], request := if m = 0 then none else some m }

/-- Step 8: the configuration record is applied (R488). -/
def State.applyConfig (s : State) : State :=
  let d := s.fw.inForce
  let cam (n : Nat) : Nat × Nat :=
    let x := fieldAt d (0x208 + 8 * n) 4
    let t := fieldAt d (0x20C + 8 * n) 4
    if camOk x t then (x &&& 0xFF, t) else (s.tb.camCfg.getD n 0, s.tb.camTiming.getD n 0)
  let s := s.onDev fun v => { v with package := fieldAt d 0x24 1 % 4 }
  let s := s.onTb fun t => { t with
    syncCtrl := fieldAt d 0x200 4 &&& 0x1F, camCfg := (List.range 16).map fun n => (cam n).1
    camTiming := (List.range 16).map fun n => (cam n).2 }
  let s := s.onAsz fun a => { a with
    paramsValid := !s.fw.cfgDefaulted, params := if s.fw.cfgDefaulted then [] else part d 0x300 832 }
  let s := s.onJl fun j => { j with table := (List.range 64).map fun n => nodeOf (nodeBlock d n) }
  let s := s.onItk fun k => { k with
    profiles := (List.range 16).map fun i => profileOf (profileBlock d i)
    streams := (List.range 16).map fun i => { (k.streams.getD i {}) with cfg := streamCfgOf (streamBlock d i) } }
  { s with can := (List.range 4).map fun k => startCan d k (s.canAt k) }

/-- Steps 7 and 8: frame tables, scratchpads and hub memory hold zeros (R143, R574), and the sample board is as
R278 has it before any publication. -/
def State.initMemory (s : State) : State :=
  (List.range 16).foldl (fun x st => x.write (boardBase + 128 * st) (firstEntry st))
    (s.onMem fun m => { m with cells := m.cells.filter fun c => (fixedByte c.1).isNone, badParity := [] })

/-- START_SEQUENCE_COMPLETE (R470 to R473): the start ends in CONFIG, TEST or RECOVERY. -/
def execStartSequenceComplete (report : StartReport) (s : State) : Out :=
  .next (if s.dev.inReset || s.dev.mode ≠ .start then s
    else if s.dev.bootsel = 1 || s.dev.bootsel = 2 then s.enterRecovery 1
    else if !report.loaderOk then s.enterRecovery 2
    else
      let (s, ok) := s.copyStaged report
      if !ok then s.enterRecovery 3
      else
        let s := ((s.readImage report.keyMatches report.startMs).readConfig).readWear report.rebuilt
        let s := (List.range 5).foldl (fun x g =>
          x.startSegment g (report.segFwd.getD g true) (report.segRev.getD g true)) s
        let s := s.spr.entries.foldl State.applyEntry s
        let s := (List.range 4).foldl (fun x d =>
          x.startDie d (report.dieOk.getD d true) (report.stackOk.getD d true)) s
        let s := s.applyConfig.initMemory.sendP0Mask
        let s := (s.onFw fun f => { f with stage := 9 }).onDev fun d => { d with fwReady := true }
        let s := s.onSch fun x => { x with row := s.chainRow }
        if s.dev.bootsel = 3 then s.enterBench .test else s.enterConfig)

end Sys2Proof.Machine
end

