-- ==== Sys2Proof/Machine/Matrix.lean ====
section
/-! DEFINITION. The matrix unit and the vector unit (chapters 03, 04, 10): checks of their descriptors, and the
results with every rounding the manual fixes (R81 to R95, R104 to R108, R258, R259). -/

namespace Sys2Proof.Machine

/-- A byte range given by word address lies inside the 6 MiB scratchpad. -/
def inOwn (word bytes : Nat) : Bool := 4 * word + bytes ≤ spadBytes

/-! ### Matrix format descriptors (R83 to R85, R104) -/

structure MxDesc where
  mode : Nat := 0
  wfmt : Nat := 0
  grid : Nat := 0
  afmt : Nat := 0
  ofmt : Nat := 0
  group : Nat := 32
  gs : Bool := false
  ch : Bool := false
  tok : Bool := false
  bias : Bool := false
  cont : Bool := false
  hold : Bool := false
  outZp : Nat := 0
  scaleInv : Nat := 0
  k : Nat := 0
  gsAddr : Nat := 0
  wzpAddr : Nat := 0
  chAddr : Nat := 0
  tokAddr : Nat := 0
deriving DecidableEq, Repr

def parseMx (d : List Byte) : MxDesc :=
  let f (o : Nat) : Nat := fieldAt d o 1
  { mode := f 0, wfmt := f 1 % 16, grid := bitsOf (f 1) 5 4, afmt := f 2 % 16, ofmt := f 3 % 16
    group := [32, 64, 128].getD (f 4 % 4) 32, gs := bitAt (f 4) 2, ch := bitAt (f 5) 0, tok := bitAt (f 5) 1
    bias := bitAt (f 5) 2, cont := bitAt (f 5) 3, hold := bitAt (f 5) 4, outZp := f 6, scaleInv := fieldAt d 8 4
    k := fieldAt d 12 4, gsAddr := fieldAt d 16 4, wzpAddr := fieldAt d 20 4, chAddr := fieldAt d 24 4
    tokAddr := fieldAt d 28 4 }

/-- Groups of a reduction (R84). -/
def MxDesc.ng (x : MxDesc) : Nat := ceilDiv x.k x.group
def hasZp (fmt : Nat) : Bool := fmt = 2 || fmt = 4

/-- The side tables as (used, word address, bytes) for a tile of `m` rows and `n` channels (R84). -/
def MxDesc.tables (x : MxDesc) (m n : Nat) : List (Bool × Nat × Nat) :=
  [(x.gs, x.gsAddr, n * x.ng), (hasZp x.wfmt, x.wzpAddr, n * x.ng), (x.ch || x.bias, x.chAddr, 8 * n),
   (x.tok || hasZp x.afmt, x.tokAddr, 8 * m)]

/-- The reserved values and bits of a descriptor, and what R85 names besides the held accumulator. A descriptor, operand
or output range that leaves the scratchpad is not in that list: it is an address fault, cause 3 (DESIGN CHOICE 162). -/
def mxFormatBad (d : List Byte) (m n : Nat) : Bool :=
  let x := parseMx d
  let f (o : Nat) : Nat := fieldAt d o 1
  4 < x.mode || 63 < f 1 || 15 < f 2 || 15 < f 3 || 7 < f 4 || f 4 % 4 = 3 || 31 < f 5 || f 7 ≠ 0 ||
  !pairOk x.mode x.wfmt x.afmt || (x.grid ≠ 0 && x.wfmt ≠ 0) || x.ofmt < 3 || 8 < x.ofmt ||
  (x.outZp ≠ 0 && x.ofmt ≠ 4) || x.k < 16 || 65536 < x.k || x.k % 16 ≠ 0 ||
  m = 0 || 64 < m || n = 0 || 64 < n ||
  (x.tables m n).any fun t => if t.1 then !inOwn t.2.1 t.2.2 else t.2.1 ≠ 0

/-- Bytes of an operand row, and of an output row (R104). -/
def operandRow (k fmt : Nat) : Nat := ceilDiv (k * fmtBits fmt) 32 * 4
def outputRow (n ofmt : Nat) : Nat := ceilDiv (n * (fmtBits ofmt / 8)) 4 * 4

/-- Word addresses of the operands and side tables: activations, weights, group scales, zero points, channel and
token records. -/
def MatrixOp.addrs (o : MatrixOp) : List Nat :=
  let x := parseMx o.desc
  [o.act, o.wt, x.gsAddr, x.wzpAddr, x.chAddr, x.tokAddr]

/-- The byte ranges an instruction reads and writes, by word address: of a channel or token record only the fields
that the descriptor uses (R84). -/
def MatrixOp.reads (o : MatrixOp) : List (Nat × Nat) :=
  let x := parseMx o.desc
  [(o.act, o.m * operandRow x.k x.afmt), (o.wt, o.n * operandRow x.k x.wfmt)] ++
    (if x.gs then [(x.gsAddr, o.n * x.ng)] else []) ++ (if hasZp x.wfmt then [(x.wzpAddr, o.n * x.ng)] else []) ++
    (List.range o.n).flatMap (fun n =>
      (if x.ch then [(x.chAddr + 2 * n, 4)] else []) ++ (if x.bias then [(x.chAddr + 2 * n + 1, 4)] else [])) ++
    (List.range o.m).flatMap fun t =>
      (if x.tok then [(x.tokAddr + 2 * t, 4)] else []) ++ (if hasZp x.afmt then [(x.tokAddr + 2 * t + 1, 1)] else [])
def MatrixOp.writes (o : MatrixOp) : Nat × Nat :=
  let x := parseMx o.desc
  (o.out, if x.hold then 0 else o.m * outputRow o.n x.ofmt)

/-- Bytes of the operands and side tables as they stand, in the order of `addrs`. -/
def State.matrixIn (s : State) (base : Nat) (o : MatrixOp) : List (List Byte) :=
  let x := parseMx o.desc
  let tab (i : Nat) : List Byte :=
    let t := (x.tables o.m o.n).getD i (false, 0, 0)
    if t.1 then s.bytesAt (base + 4 * t.2.1) t.2.2 else []
  [s.bytesAt (base + 4 * o.act) (o.m * operandRow x.k x.afmt), s.bytesAt (base + 4 * o.wt) (o.n * operandRow x.k x.wfmt),
   tab 0, tab 1, tab 2, tab 3]

/-- What output (t, n) depends on: operand or table, byte offset and length in it (R84, R92). -/
def MxDesc.parts (x : MxDesc) (t n : Nat) : List (Nat × Nat × Nat) :=
  [(0, t * operandRow x.k x.afmt, operandRow x.k x.afmt), (1, n * operandRow x.k x.wfmt, operandRow x.k x.wfmt)] ++
    (if x.gs then [(2, n * x.ng, x.ng)] else []) ++ (if hasZp x.wfmt then [(3, n * x.ng, x.ng)] else []) ++
    (if x.ch then [(4, 8 * n, 4)] else []) ++ (if x.bias then [(4, 8 * n + 4, 4)] else []) ++
    (if x.tok then [(5, 8 * t, 4)] else []) ++ (if hasZp x.afmt then [(5, 8 * t + 4, 1)] else [])

/-- Output (t, n) depends on bytes that were overwritten while the instruction stood in its unit, or that another unit
had yet to write when it entered: it is unspecified (R87, R103). -/
def MatrixOp.stale (o : MatrixOp) (base : Nat) (now : List (List Byte)) (t n : Nat) : Bool :=
  ((parseMx o.desc).parts t n).any fun p =>
    decide (part (o.seen.getD p.1 []) p.2.1 p.2.2 ≠ part (now.getD p.1 []) p.2.1 p.2.2) ||
      o.early.any fun r => overlaps (base + 4 * o.addrs.getD p.1 0 + p.2.1) p.2.2 r.1 r.2

/-! ### Matrix results (R88 to R93) -/

/-- An element of an operand as a value: integer formats by R71 and R73, others by R78. -/
def MatrixOp.value (fmt zp : Nat) (grid : List Int) (code : Nat) : Fp :=
  if fmt ≤ 4 then ofInt (intOperand fmt zp grid code) 0 else decodeFmt fmt code

/-- The exact integer sum of a group (R88). -/
def groupInt (ws as : List Int) : Int := ((ws.zip as).map fun p => p.1 * p.2).sum

/-- The FP32 sum of a group, in ascending order, one rounding per addition (R89). -/
def groupFp : List (Fp × Fp) → Fp
  | [] => .zero
  | p :: r => r.foldl (fun acc q => add32 acc (rne32 (mulExact q.1 q.2))) (rne32 (mulExact p.1 p.2))

/-- The scale code of a group. -/
def scaleCode (x : MxDesc) (gs : List Byte) (n g : Nat) : Nat := if x.gs then fieldAt gs (n * x.ng + g) 1 else 0x78

/-- One group's step of the accumulator (R90 to R92): accumulator and flags. -/
def groupStep (x : MxDesc) (grid : List Int) (gs wz aRow wRow : List Byte) (azp n : Nat) (st : Fp × Nat) (g : Nat) :
    Fp × Nat :=
  let code := scaleCode x gs n g
  if code = 0 then st
  else if 0xF8 ≤ code then (st.1, st.2 ||| flagScaleReserved)
  else
    let ids := (List.range (min x.group (x.k - g * x.group))).map fun i => g * x.group + i
    let wzp := if hasZp x.wfmt then (if x.wfmt = 2 then fieldAt wz (n * x.ng + g) 1 % 16 else fieldAt wz (n * x.ng + g) 1) else 0
    let wc (i : Nat) : Nat := elemAt (fmtBits x.wfmt) wRow i
    let ac (i : Nat) : Nat := elemAt (fmtBits x.afmt) aRow i
    let pf := if x.afmt ≤ 4 then
        ofInt (groupInt (ids.map fun i => intOperand x.wfmt wzp grid (wc i)) (ids.map fun i => intOperand x.afmt azp [] (ac i))) 0
      else groupFp (ids.map fun i => (MatrixOp.value x.wfmt wzp grid (wc i), MatrixOp.value x.afmt azp [] (ac i)))
    (add32 st.1 (mul32 pf (decodeUE5M3 code)), st.2)

/-- The factors after the accumulator, and conversion (R92, R93): output code and flags. -/
def finishOutput (x : MxDesc) (ch tok : List Byte) (t n nanWord : Nat) (acc : Fp) : Nat × Nat :=
  let y := if x.ch then mul32 acc (decode32 (fieldAt ch (8 * n) 4)) else acc
  let y := if x.tok then mul32 y (decode32 (fieldAt tok (8 * t) 4)) else y
  let y := if x.bias then add32 y (decode32 (fieldAt ch (8 * n + 4) 4)) else y
  let z := if 3 ≤ x.ofmt && x.ofmt ≤ 6 then mul32 y (decode32 x.scaleInv) else y
  convertTo x.ofmt x.outZp nanWord z

/-- Accumulators of a matrix instruction, rows of `m` by `n`, with flags, from its operand and table bytes. -/
def MatrixOp.accumulators (o : MatrixOp) (inp : List (List Byte)) (held : List Nat) : List (Fp × Nat) :=
  let x := parseMx o.desc
  let tok := inp.getD 5 []
  let grid := o.grids.getD x.grid []
  (List.range (o.m * o.n)).map fun i =>
    let t := i / o.n
    let n := i % o.n
    let aRow := part (inp.getD 0 []) (t * operandRow x.k x.afmt) (operandRow x.k x.afmt)
    let wRow := part (inp.getD 1 []) (n * operandRow x.k x.wfmt) (operandRow x.k x.wfmt)
    let azp := if hasZp x.afmt then (if x.afmt = 2 then fieldAt tok (8 * t + 4) 1 % 16 else fieldAt tok (8 * t + 4) 1) else 0
    let start := if x.cont then decode32 (held.getD i 0) else .zero
    (List.range x.ng).foldl (groupStep x grid (inp.getD 2 []) (inp.getD 3 []) aRow wRow azp n) (start, 0)

/-- Everything a matrix instruction works on (R92). -/
def MatrixOp.key (o : MatrixOp) (inp : List (List Byte)) (held : List Nat) : List Nat :=
  o.desc.map (·.toNat) ++ [o.m, o.n] ++ o.grids.flatten.map (fun v => (v + 128).toNat) ++ inp.flatten.map (·.toNat) ++ held

/-- The NaN pattern of output `i`: a NaN "as computed" (R93), the same for the same inputs (R92). -/
def nanOf (key : List Nat) (i : Nat) : Nat :=
  Config.matrixNan key (2 * i) % 2 * 2 ^ 31 + 0x7F800000 + 1 + Config.matrixNan key (2 * i + 1) % (2 ^ 23 - 1)

/-- The accumulators that a matrix instruction keeps, and flags; unspecified ones are free. -/
def State.matrixKept (s : State) (base : Nat) (o : MatrixOp) (held : List Nat) : List Nat × Nat :=
  let inp := s.matrixIn base o
  let accs := o.accumulators inp held
  let one (i : Nat) : Nat × Nat :=
    let a := accs.getD i (.zero, 0)
    if o.stale base inp (i / o.n) (i % o.n) then (s.draw (2 * i) % 2 ^ 32, s.draw (2 * i + 1) % 16)
    else (encode32 (nanOf (o.key inp held) i) a.1, a.2)
  let outs := (List.range (o.m * o.n)).map one
  (outs.map (·.1), (outs.map (·.2)).foldl (· ||| ·) 0)

/-- Output bytes and flags of a matrix instruction that writes; unspecified elements are free. -/
def State.matrixOutput (s : State) (base : Nat) (o : MatrixOp) (held : List Nat) : List Byte × Nat :=
  let x := parseMx o.desc
  let inp := s.matrixIn base o
  let accs := o.accumulators inp held
  let outs := (List.range (o.m * o.n)).map fun i =>
    let a := accs.getD i (.zero, 0)
    let r := finishOutput x (inp.getD 4 []) (inp.getD 5 []) (i / o.n) (i % o.n) (nanOf (o.key inp held) i) a.1
    if o.stale base inp (i / o.n) (i % o.n) then (s.draw (2 * i) % 2 ^ fmtBits x.ofmt, s.draw (2 * i + 1) % 16)
    else (r.1, r.2 ||| a.2)
  let row (t : Nat) : List Byte :=
    let bs := packElems (fmtBits x.ofmt) (((outs.map (·.1)).drop (t * o.n)).take o.n)
    bs ++ List.replicate (outputRow o.n x.ofmt - bs.length) 0
  ((List.range o.m).flatMap row, (outs.map (·.2)).foldl (· ||| ·) 0)

/-! ### Vector descriptors (R106, R107, R259) -/

structure VDesc where
  op : Nat := 0
  infmt : Nat := 0
  outfmt : Nat := 0
  scalar : Bool := false
  wantMax : Bool := false
  count : Nat := 0
  src0 : Nat := 0
  src1 : Nat := 0
  dst : Nat := 0
  param : Nat := 0
deriving DecidableEq, Repr

def parseV (d : List Byte) : VDesc :=
  { op := fieldAt d 0 1, infmt := fieldAt d 1 1, outfmt := fieldAt d 2 1, scalar := bitAt (fieldAt d 3 1) 0
    wantMax := bitAt (fieldAt d 3 1) 1, count := fieldAt d 4 4, src0 := fieldAt d 8 4, src1 := fieldAt d 12 4
    dst := fieldAt d 16 4, param := fieldAt d 20 4 }

/-- Row max, row sum, mean and sum of squares. -/
def VDesc.reduction (v : VDesc) : Bool := v.op = 0x0B || v.op = 0x0C || v.op = 0x0E
/-- Row length and row count of a reduction; pixels and channels of an argmax (R106, R259). -/
def VDesc.rowLen (v : VDesc) : Nat := v.count % 2 ^ 20
def VDesc.rows (v : VDesc) : Nat := v.count / 2 ^ 20 + 1
/-- Input elements. -/
def VDesc.elems (v : VDesc) : Nat := if v.reduction || v.op = 0x10 then v.rowLen * v.rows else v.count
/-- Output elements. -/
def VDesc.outs (v : VDesc) : Nat :=
  if v.op = 0x10 then v.rowLen else if v.op = 0x0E then 2 * v.rows else if v.reduction then v.rows else v.count
/-- Operations of two inputs. -/
def VDesc.binary (v : VDesc) : Bool := v.op ≤ 6

/-- Bytes of the parameter block: that of an argmax by R259; a rotary one holds an entry of cos and sin for each pair
(R198), a polynomial one five words for each of 32 segments, others 16 bytes (log 30). -/
def VDesc.paramBytes (v : VDesc) : Nat := if v.op = 0x0D then 640 else if v.op = 0x0F then 8 * (v.count / 2) else 16
/-- The operation has a parameter block. -/
def VDesc.hasParam (v : VDesc) : Bool := v.param ≠ 0 || v.op = 0x0D || v.op = 0x0F || v.op = 0x10

/-- A format fault of a vector descriptor (R106, R196, R259). A count or input format other than those that R196 gives
operation 0x11 counts as a reserved value (DESIGN CHOICE 159). -/
def vFormatBad (d : List Byte) : Bool :=
  let v := parseV d
  v.op = 0 || 0x11 < v.op || v.infmt = 0 || 8 < v.infmt || v.outfmt = 0 || 8 < v.outfmt || 3 < fieldAt d 3 1 ||
  (if v.reduction || v.op = 0x10 then v.rowLen = 0 else v.count = 0 || 2 ^ 20 < v.count) || fieldAt d 24 8 ≠ 0 ||
  (v.op = 0x10 && v.outfmt ≠ v.infmt) || (v.op = 0x11 && (v.count ≠ 4096 || v.infmt ≠ 8))

/-- Bytes of `n` packed elements. -/
def packedBytes (fmt n : Nat) : Nat := ceilDiv (n * fmtBits fmt) 8

/-- Fields of the argmax parameter block (R259). -/
def argBlock (p : List Byte) : Nat := fieldAt p 0 1
def argPlane (p : List Byte) : Nat := fieldAt p 4 4
def argMaxAddr (p : List Byte) : Nat := fieldAt p 8 4

/-- Byte ranges of the first input, by word address: an argmax reads, block after block and pixel after pixel, the
channels that are no padding (R244, R258, R259). -/
def VDesc.mainReads (v : VDesc) (p : List Byte) : List (Nat × Nat) :=
  let e := fmtBits v.infmt
  let b := max 1 (argBlock p)
  if v.op = 0x10 then
    (List.range (ceilDiv v.rows b)).flatMap fun j => (List.range v.rowLen).map fun i =>
      (v.src0 + (j * argPlane p + i) * b * e / 32, packedBytes v.infmt (min b (v.rows - j * b)))
  else [(v.src0, packedBytes v.infmt v.elems)]

/-- Byte ranges of the second input: a second operand, or the 512 bitmap bytes of a mask (R196). -/
def VDesc.otherReads (v : VDesc) : List (Nat × Nat) :=
  if v.binary then [(v.src1, if v.scalar then ceilDiv (fmtBits v.infmt) 8 else packedBytes v.infmt v.elems)]
  else if v.op = 0x11 then [(v.src1, 512)] else []

/-- Byte ranges read, by word address. -/
def VDesc.reads (v : VDesc) (p : List Byte) : List (Nat × Nat) :=
  v.mainReads p ++ v.otherReads ++ (if v.hasParam then [(v.param, v.paramBytes)] else [])

/-- Byte ranges written, by word address. -/
def VDesc.writes (v : VDesc) (p : List Byte) : List (Nat × Nat) :=
  if v.op = 0x10 then
    (v.dst, 2 * v.rowLen) :: (if v.wantMax then [(argMaxAddr p, packedBytes v.infmt v.rowLen)] else [])
  else [(v.dst, packedBytes v.outfmt v.outs)]

/-! ### Vector results (R94, R107, R108, R184, R196, R198, R258) -/

/-- Bytes of a vector instruction's inputs as they stand, range by range. -/
def State.vectorIn (s : State) (base : Nat) (v : VDesc) (p : List Byte) : List (List Byte) :=
  (v.reads p).map fun r => s.bytesAt (base + 4 * r.1) r.2

/-- Zero points and output multiplier of a vector operation: none without a parameter block; with one, the
manual gives their place in no rule, so they are free functions of the block (log 30). -/
def vInZp (v : VDesc) (p : List Byte) : Nat := if v.param = 0 then 0 else Config.vectorValue 0x100 p [] % 256
def vOutZp (v : VDesc) (p : List Byte) : Nat := if v.param = 0 then 0 else Config.vectorValue 0x101 p [] % 256
def vScale (v : VDesc) (p : List Byte) (z : Fp) : Fp :=
  if v.param = 0 || v.outfmt = 7 || v.outfmt = 8 then z
  else mul32 z (decode32 (Config.vectorValue 0x102 p [] % 2 ^ 32))

/-- An input element as a value: exact (R107). -/
def vValue (v : VDesc) (p : List Byte) (code : Nat) : Fp :=
  if v.infmt ≤ 4 then ofInt (intOperand v.infmt (if v.infmt = 2 then vInZp v p % 16 else vInZp v p) [] code) 0
  else decodeFmt v.infmt code

/-- A free number of a result: a function of operation, block, count, place and inputs (R108, log 30). -/
def vDraw (v : VDesc) (p : List Byte) (i : Nat) (ins : List Fp) : Nat :=
  Config.vectorValue v.op p ([v.count, i] ++ ins.map (encode32 0x7FC00000))

/-- A result that the manual does not fix (log 30). -/
def vFree (v : VDesc) (p : List Byte) (i : Nat) (ins : List Fp) : Fp := decode32 (vDraw v p i ins % 2 ^ 32)

/-- The larger of two values that are not NaN. -/
def maxFp (a b : Fp) : Fp := if ltFp a b then b else a
def minFp (a b : Fp) : Fp := if ltFp b a then b else a

/-- An integer from -149 to 127 (R184). -/
def smallInt : Fp → Option Int
  | .fin neg m e =>
    let v := sgn neg m
    let k := if 0 ≤ e then v * 2 ^ e.toNat else v / 2 ^ (-e).toNat
    if (0 ≤ e || v % 2 ^ (-e).toNat = 0) && -149 ≤ k && k ≤ 127 then some k else none
  | _ => none

/-- exp2 (R107, R184): within 2 ulp, exact for the integers of R184; a NaN stays one (R187). -/
def exp2Fp (draw : Nat) (a : Fp) : Fp :=
  match a with
  | .nan => .nan
  | .inf neg => if neg then .zero else .inf false
  | .fin neg m e => match smallInt a with
    | some k => .fin false 1 k
    | none => nearUlp 2 draw (pow2Exact neg m e)

/-- Reciprocal within 1 ulp (R107); the quotient by 0 the manual does not give. -/
def recipFp (draw : Nat) : Fp → Fp
  | .nan => .nan
  | .inf neg => .fin neg 0 0
  | .fin neg m e => if m = 0 then decode32 (draw % 2 ^ 32) else nearUlp 1 draw (recipExact neg m e)

/-- Reciprocal square root within 1 ulp, NaN for a negative input (R107); that of 0 the manual does not give. -/
def rsqrtFp (draw : Nat) : Fp → Fp
  | .nan => .nan
  | .inf neg => if neg then .nan else .zero
  | .fin neg m e =>
    if m = 0 then decode32 (draw % 2 ^ 32) else if neg then .nan else nearUlp 1 draw (rsqrtExact m e)

/-- x c + y d in FP32 (R198): which of the two products are rounded before the sum the manual does not give. -/
def rotSum (how : Nat) (x c y d : Fp) : Fp :=
  if how % 4 = 0 then add32 (mul32 x c) (mul32 y d)
  else if how % 4 = 1 then fma32 x c (mul32 y d)
  else if how % 4 = 2 then fma32 y d (mul32 x c)
  else rne32 (addExact (mulExact x c) (mulExact y d))

/-- The other element of a rotary pair (R198): neighbours, or half the count apart; which of the two holds for an
operation is in its parameter block at a place that the manual does not give. -/
def interleaved (v : VDesc) (p : List Byte) : Bool := Config.vectorValue 0x103 p [v.count] % 2 = 1
def rotPair (inter : Bool) (count i : Nat) : Nat × Nat × Nat :=
  let h := count / 2
  if inter then (i / 2, i / 2 * 2, i / 2 * 2 + 1) else (i % h, i % h, i % h + h)

/-- Element `i` of a rotary embedding (R198): the pairs rotate by the entries of cos and sin in the block, pair by
pair. -/
def rotElem (v : VDesc) (p : List Byte) (a : Nat → Fp) (i : Nat) : Fp :=
  let pr := rotPair (interleaved v p) v.count i
  let x := a pr.2.1
  let y := a pr.2.2
  let c := decode32 (fieldAt p (8 * pr.1) 4)
  let d := decode32 (fieldAt p (8 * pr.1 + 4) 4)
  let how := vDraw v p i [x, y, c, d]
  if v.count / 2 * 2 ≤ i then vFree v p i [a i]
  else if i = pr.2.1 then rotSum how x c y d.neg else rotSum how x d y c

/-- One elementwise result. The third operand of an fma has no place in the descriptor: it is free (log 30). -/
def vElem (v : VDesc) (p : List Byte) (i : Nat) (a b : Fp) : Fp :=
  match v.op with
  | 0x01 => add32 a b
  | 0x02 => sub32 a b
  | 0x03 => mul32 a b
  | 0x04 => fma32 a b (vFree v p i [a, b])
  | 0x05 => if a.isNan || b.isNan then .nan else maxFp a b
  | 0x06 => if a.isNan || b.isNan then vFree v p i [a, b] else minFp a b
  | 0x07 => a
  | 0x08 => exp2Fp (vDraw v p i [a]) a
  | 0x09 => recipFp (vDraw v p i [a]) a
  | 0x0A => rsqrtFp (vDraw v p i [a]) a
  | _ => vFree v p i [a, b]

/-- A sum by the fixed tree of its row length (R107): each addition takes two of the partial sums. -/
def treeSum (len : Nat) : Nat → List Fp → Fp
  | 0, xs => xs.headD .zero
  | k + 1, xs =>
    let i := Config.treePick len (2 * k) % xs.length
    let a := xs.getD i .zero
    let ys := xs.eraseIdx i
    let j := Config.treePick len (2 * k + 1) % ys.length
    if ys = [] then a else treeSum len k (add32 a (ys.getD j .zero) :: ys.eraseIdx j)

/-- The results of a row of a reduction (R107, R187). -/
def vRow (v : VDesc) (p : List Byte) (r : Nat) (xs : List Fp) : List Fp :=
  if v.op = 0x0B then [if xs.any Fp.isNan then .nan else xs.foldl maxFp (.inf true)]
  else if v.op = 0x0C then [treeSum xs.length (xs.length - 1) xs]
  else if xs.any Fp.isNan then [.nan, .nan]
  else [vFree v p (2 * r) xs, vFree v p (2 * r + 1) xs]

/-- `b` ranks above `a` for an argmax: NaN is below every number (R258). -/
def ranksAbove (a b : Fp) : Bool := if a.isNan then !b.isNan else ltFp a b

/-- Index and value of the largest, the lowest index among equals. -/
def argmax : Nat → List Fp → Nat × Fp
  | _, [] => (0, .nan)
  | i, x :: r =>
    match r with
    | [] => (i, x)
    | _ =>
      let m := argmax (i + 1) r
      if ranksAbove x m.2 then m else (i, x)

/-- Code of an element of the first input. -/
def VDesc.code (v : VDesc) (inp : List (List Byte)) (i : Nat) : Nat := elemAt (fmtBits v.infmt) (inp.getD 0 []) i

/-- Code of channel `c` of pixel `i` of an argmax (R244, R259). -/
def VDesc.argCode (v : VDesc) (p : List Byte) (inp : List (List Byte)) (i c : Nat) : Nat :=
  let b := max 1 (argBlock p)
  elemAt (fmtBits v.infmt) (inp.getD (c / b * v.rowLen + i) []) (c % b)

/-- Index, maximum code and flags of a pixel of an argmax (R93, R95, R258). -/
def VDesc.argPixel (v : VDesc) (p : List Byte) (inp : List (List Byte)) (nan i : Nat) : Nat × Nat × Nat :=
  let codes := (List.range v.rows).map (v.argCode p inp i)
  let m := argmax 0 (codes.map (vValue v p))
  (m.1,
   if m.2.isNan then (convertTo v.infmt 0 nan .nan).1 else codes.getD m.1 0,
   if !v.wantMax then 0 else if m.2.isNan then flagNan else if m.2.isFinite || v.infmt < 7 then 0 else flagInf)

/-- The value of output `i` of an instruction other than an argmax, before its conversion. -/
def VDesc.value (v : VDesc) (p : List Byte) (inp : List (List Byte)) (i : Nat) : Fp :=
  let a (j : Nat) : Fp := vValue v p (v.code inp j)
  if v.reduction then
    let per := if v.op = 0x0E then 2 else 1
    (vRow v p (i / per) ((List.range v.rowLen).map fun j => a (i / per * v.rowLen + j))).getD (i % per) .zero
  else if v.op = 0x0F then rotElem v p a i
  else if v.op = 0x11 then (if bitAt (fieldAt (inp.getD 1 []) (i / 8) 1) (i % 8) then a i else .inf true)
  else vElem v p i (a i) (if v.binary then vValue v p (elemAt (fmtBits v.infmt) (inp.getD 1 []) (if v.scalar then 0 else i)) else .zero)

/-- The NaN pattern of an FP32 output, the same for the same inputs (R108). -/
def VDesc.nan (v : VDesc) (p : List Byte) (inp : List (List Byte)) (i : Nat) : Nat :=
  let key := [v.count, i] ++ inp.flatten.map (·.toNat)
  0x7F800001 + Config.vectorValue v.op p (1 :: key) % (2 ^ 23 - 1) + 2 ^ 31 * (Config.vectorValue v.op p (2 :: key) % 2)

/-- What output `i` depends on: input range, byte offset and length in it. -/
def VDesc.parts (v : VDesc) (p : List Byte) (i : Nat) : List (Nat × Nat × Nat) :=
  let e := fmtBits v.infmt
  let elem (j : Nat) : Nat × Nat × Nat := (0, j * e / 8, ceilDiv e 8)
  let b := max 1 (argBlock p)
  let last := (v.reads p).length - 1
  (if v.op = 0x10 then (List.range (ceilDiv v.rows b)).map fun j => (j * v.rowLen + i, 0, packedBytes v.infmt (min b (v.rows - j * b)))
   else if v.reduction then
     let r := if v.op = 0x0E then i / 2 else i
     (List.range v.rowLen).map fun j => elem (r * v.rowLen + j)
   else if v.op = 0x0F then [elem i, elem (rotPair (interleaved v p) v.count i).2.1, elem (rotPair (interleaved v p) v.count i).2.2]
   else [elem i]) ++
  (if v.binary then [(1, if v.scalar then 0 else i * e / 8, ceilDiv e 8)] else if v.op = 0x11 then [(1, i / 8, 1)] else []) ++
  (if v.hasParam then [(last, 0, v.paramBytes)] else [])

/-- Output `i` is unspecified (R87, R103). -/
def VectorOp.stale (o : VectorOp) (base : Nat) (now : List (List Byte)) (i : Nat) : Bool :=
  let v := parseV o.desc
  (v.parts o.param i).any fun q =>
    decide (part (o.seen.getD q.1 []) q.2.1 q.2.2 ≠ part (now.getD q.1 []) q.2.1 q.2.2) ||
      o.early.any fun r => overlaps (base + 4 * ((v.reads o.param).getD q.1 (0, 0)).1 + q.2.1) q.2.2 r.1 r.2

/-- Output bytes with their byte offsets in the scratchpad, and flags; unspecified outputs are free. -/
def State.vectorOutput (s : State) (base : Nat) (o : VectorOp) : List (Nat × List Byte) × Nat :=
  let v := parseV o.desc
  let p := o.param
  let inp := s.vectorIn base v p
  if v.op = 0x10 then
    let rs := (List.range v.rowLen).map fun i =>
      if o.stale base inp i then (s.draw (3 * i) % 2 ^ 16, s.draw (3 * i + 1) % 2 ^ fmtBits v.infmt, s.draw (3 * i + 2) % 16)
      else v.argPixel p inp (v.nan p inp i) i
    ((4 * v.dst, rs.flatMap fun x => leBytes 2 x.1) ::
      (if v.wantMax then [(4 * argMaxAddr p, packElems (fmtBits v.infmt) (rs.map (·.2.1)))] else []),
     (rs.map (·.2.2)).foldl (· ||| ·) 0)
  else
    let zp := if v.outfmt = 2 then vOutZp v p % 16 else vOutZp v p
    let rs := (List.range v.outs).map fun i =>
      if o.stale base inp i then (s.draw (2 * i) % 2 ^ fmtBits v.outfmt, s.draw (2 * i + 1) % 16)
      else convertTo v.outfmt zp (v.nan p inp i) (vScale v p (v.value p inp i))
    ([(4 * v.dst, packElems (fmtBits v.outfmt) (rs.map (·.1)))], (rs.map (·.2)).foldl (· ||| ·) 0)

end Sys2Proof.Machine
end

