-- ==== Sys2Proof/Machine/Tile.lean ====
section
/-! DEFINITION. Meanings of the compute-core rows (chapters 04 and 05): tile instructions, scalar instructions,
the completions of units and DMA channels, the tile timer, bank migration and self-test vectors. -/

namespace Sys2Proof.Machine

/-! ### The sequencer -/

/-- The sequencer of a core executes an instruction now. -/
def State.ready (s : State) (g : Nat) : Bool := (s.core g).run = .running && (s.core g).wait = .none

/-- The next instruction is fetched with bad parity (R145). -/
def State.fetchBad (s : State) (g : Nat) : Bool :=
  s.rangePoisoned (spadOf g + 4 * (s.core g).reg.pc) (4 * Config.instrWords)

/-- A fetch with bad parity: events, an abort, and the code region is reloaded from the job's code image before the
re-run (R145, R147). -/
def State.fetchFault (s : State) (g : Nat) : State :=
  let s1 := s.bankEvents (spadOf g + 4 * (s.core g).reg.pc) (4 * Config.instrWords)
  (match s.coreJob g with
   | none => s1
   | some j => s1.loadCode g j).tileFault g 7

/-- A tile instruction of a core, after parity flips in its scratchpad; otherwise nothing happens. -/
def State.tileOp (s : State) (g : Nat) (flips : List Nat) (f : Core → State → State) : State :=
  if s.ready g then
    let s := s.flipParity (flips.filter isSpad)
    if s.fetchBad g then s.fetchFault g else f (s.core g) s
  else s

/-- Value of a general register; g0 reads 0 (R98). -/
def RegBlock.get (r : RegBlock) (i : Nat) : Nat := if i = 0 then 0 else (r.g.getD i 0).toNat

/-- Write a general register; a write of g0 is ignored (R98). -/
def RegBlock.set (r : RegBlock) (i v : Nat) : RegBlock :=
  if i = 0 then r else { r with g := r.g.set i (BitVec.ofNat 64 v) }

/-- The next instruction. -/
def RegBlock.step (r : RegBlock) : RegBlock := { r with pc := r.pc + Config.instrWords }

def State.onReg (s : State) (g : Nat) (f : RegBlock → RegBlock) : State := s.onCore g fun k => { k with reg := f k.reg }

/-- The instruction ends and the next one follows. -/
def State.advance (s : State) (g : Nat) : State := s.onReg g RegBlock.step

/-! ### What the units of a core have yet to write (R103, R110) -/

structure DmaDesc where
  src : Nat := 0
  dst : Nat := 0
  len : Nat := 0
  cnt1 : Nat := 0
  cnt2 : Nat := 0
  s1 : Int := 0
  s2 : Int := 0
  d1 : Int := 0
  d2 : Int := 0
  idx : Nat := 0
  scale : Nat := 0
  gather : Bool := false
  xlate : Bool := false
  peer : Bool := false
  pool : Nat := 0
  pkg : Nat := 0
deriving DecidableEq, Repr

def parseDma (d : List Byte) : DmaDesc :=
  let i32 (o : Nat) : Int := signedOf 32 (fieldAt d o 4)
  { src := fieldAt d 0 8, dst := fieldAt d 8 8, len := fieldAt d 16 4, cnt1 := fieldAt d 20 2, cnt2 := fieldAt d 22 2
    s1 := i32 24, s2 := i32 28, d1 := i32 32, d2 := i32 36, idx := fieldAt d 40 4, scale := fieldAt d 44 4
    gather := bitAt (fieldAt d 48 1) 0, xlate := bitAt (fieldAt d 48 1) 1, peer := bitAt (fieldAt d 48 1) 2
    pool := fieldAt d 49 1, pkg := fieldAt d 50 1 }

/-- Runs of a DMA descriptor: planes and rows. -/
def DmaDesc.runs (x : DmaDesc) : List (Nat × Nat) :=
  (List.range x.cnt2).flatMap fun p => (List.range x.cnt1).map fun r => (p, r)
/-- Destinations of the runs, in the order of R110. -/
def DmaDesc.dsts (x : DmaDesc) : List Int := x.runs.map fun pr => (x.dst : Int) + pr.1 * x.d2 + pr.2 * x.d1

/-- Byte ranges, by DPA, that the matrix and vector units of a core have yet to write. -/
def Core.unitOutputs (k : Core) (g : Nat) : List (Nat × Nat) :=
  (k.matrix.map fun o => (spadOf g + 4 * o.writes.1, o.writes.2)) ++
    k.vector.flatMap fun o => ((parseV o.desc).writes o.param).map fun w => (spadOf g + 4 * w.1, w.2)
/-- Those that its DMA channels have yet to write, but for one channel, whose queue runs in order (R109). -/
def Core.dmaOutputs (k : Core) (ch : Nat) : List (Nat × Nat) :=
  ((List.range 4).filter (· ≠ ch)).flatMap fun c => (k.dma.getD c []).flatMap fun o =>
    (parseDma o.desc).dsts.map fun a => (a.toNat, (parseDma o.desc).len)
/-- Byte ranges that the units of a core have yet to write, one channel (4: none) left out. -/
def State.outputs (s : State) (g ch : Nat) : List (Nat × Nat) := (s.core g).unitOutputs g ++ (s.core g).dmaOutputs ch

/-- A read by a core's tile meets what a unit of it, or of the core that owns the scratchpad, has yet to write. -/
def State.early (s : State) (g ch a n : Nat) : Bool :=
  (s.outputs g ch ++ if isSpad a && decide (spadCore a ≠ g) then s.outputs (spadCore a) 4 else []).any fun r =>
    overlaps a n r.1 r.2

/-- Bytes that a core's tile reads: those that a unit has yet to write are unspecified (R103). -/
def State.tileBytes (s : State) (g a n : Nat) : List Byte :=
  if !s.early g 4 a n then s.bytesAt a n
  else (List.range n).map fun i => if s.early g 4 (a + i) 1 then BitVec.ofNat 8 (s.draw i) else s.byteAt (a + i)

/-- A free draw was taken, if such a read needed one. -/
def State.afterTileRead (s : State) (g a n : Nat) : State := if s.early g 4 a n then s.bump else s

/-! ### Reads of the own scratchpad (R99, R100, R145, R147) -/

/-- A read of own scratchpad ranges (byte address, bytes) with its parity check: events and an abort with cause
7, or the rest (R145, R147). -/
def State.readOwn (s : State) (g : Nat) (rs : List (Nat × Nat)) (f : State → State) : State :=
  if rs.any fun r => s.readPoisoned r.1 r.2 then
    (rs.foldl (fun x r => x.bankEvents r.1 r.2) s).tileFault g 7
  else f s

/-- Own ranges by word address. -/
def ownRanges (g : Nat) (rs : List (Nat × Nat)) : List (Nat × Nat) := rs.map fun r => (spadOf g + 4 * r.1, r.2)

/-- Ranges to be read and written are in the own scratchpad, and no write touches the code region (R99, R100). -/
def State.rangesOk (s : State) (g : Nat) (rd wr : List (Nat × Nat)) : Bool :=
  (rd ++ wr).all (fun r => inOwn r.1 r.2) && wr.all fun r => !s.meetsCode (spadOf g + 4 * r.1) r.2

/-! ### Units: issue, idle, and what waits (R101, R102, R109, R116) -/

def Core.dmaQueue (k : Core) (ch : Nat) : List DmaOp := k.dma.getD ch []
def Core.dmaIdle (k : Core) (mask : Nat) : Bool := (List.range 4).all fun ch => !bitAt mask ch || k.dmaQueue ch = []
/-- Units of a UWAIT mask: bit 0 the matrix unit, bit 1 the vector unit. -/
def Core.unitsIdle (k : Core) (mask : Nat) : Bool := (!bitAt mask 0 || k.matrix = []) && (!bitAt mask 1 || k.vector = [])
def Core.allIdle (k : Core) : Bool := k.unitsIdle 3 && k.dmaIdle 15

/-- Put a waiting issue into its queue. -/
def Core.push (k : Core) (w : CoreWait) : Core :=
  match w with
  | .issueMatrix op => { k with matrix := k.matrix ++ [op], wait := .none, reg := k.reg.step }
  | .issueVector op => { k with vector := k.vector ++ [op], wait := .none, reg := k.reg.step }
  | .issueDma ch d => { k with dma := k.dma.modify ch (· ++ [{ desc := d }]), wait := .none, reg := k.reg.step }
  | _ => k

/-- What an issue finds as it enters its unit: its inputs, and what other instructions have yet to write (R87,
R103). -/
def State.entering (s : State) (g : Nat) (w : CoreWait) : CoreWait :=
  match w with
  | .issueMatrix op => .issueMatrix { op with seen := s.matrixIn (spadOf g) op, early := s.outputs g 4 }
  | .issueVector op => .issueVector { op with seen := s.vectorIn (spadOf g) (parseV op.desc) op.param, early := s.outputs g 4 }
  | w => w

/-- Index `p` of a gather's list. -/
def State.dmaIndex (s : State) (g : Nat) (x : DmaDesc) (p : Nat) : Nat := leNat (s.tileBytes g (spadOf g + 4 * x.idx + 4 * p) 4)

/-- Bases of a descriptor's source planes where no frame table is used (R110). -/
def State.plainBases (s : State) (g : Nat) (x : DmaDesc) : List Int :=
  (List.range x.cnt2).map fun p =>
    if x.gather then (x.src : Int) + s.dmaIndex g x p * x.scale else (x.src : Int) + p * x.s2

/-- Sources of the runs, in the order of R110. -/
def DmaDesc.srcs (x : DmaDesc) (bases : List Int) : List Int := x.runs.map fun pr => bases.getD pr.1 0 + pr.2 * x.s1

/-- The descriptor at the head of a channel starts: its source bytes are noted, but for a peer's and for those that
a frame table names. -/
def State.startDma (s : State) (g ch : Nat) : State :=
  match (s.core g).dmaQueue ch with
  | [] => s
  | o :: rest =>
    let x := parseDma o.desc
    if o.seen.isSome || (x.gather && x.xlate) then s
    else
      let seen := (x.srcs (s.plainBases g x)).map fun a => if isPeer a.toNat then [] else s.bytesAt a.toNat x.len
      s.onCore g fun k => { k with dma := k.dma.set ch ({ o with seen := some seen } :: rest) }

/-- What a core waits for has come. -/
def Core.canGo (k : Core) : Bool :=
  match k.wait with
  | .none => false
  | .dma mask => k.dmaIdle mask
  | .units mask => k.unitsIdle mask
  | .sem _ _ => false
  | .issueMatrix _ => k.matrix.length < 2
  | .issueVector _ => k.vector.length < 2
  | .issueDma ch _ => (Core.dmaQueue k ch).length < 8
  | .mark _ => k.allIdle

/-- A core whose wait has ended goes on; a mark that waited for its units is performed. -/
def State.resume (s : State) (g : Nat) : State :=
  let k := s.core g
  if !k.canGo then s
  else match k.wait with
    | .dma _ => s.onCore g fun y => { y with wait := .none, reg := y.reg.step }
    | .units _ => s.onCore g fun y => { y with wait := .none, reg := y.reg.step }
    | .mark h => s.mark g h
    | .issueDma ch d => (s.onCore g fun y => y.push (.issueDma ch d)).startDma g ch
    | w => s.onCore g fun y => y.push (s.entering g w)

/-- The sequencer waits, or goes on at once when nothing is to wait for. -/
def State.waitFor (s : State) (g : Nat) (w : CoreWait) : State :=
  (s.onCore g fun y => { y with wait := w }).resume g

/-! ### Tile instructions (R101) -/

/-- TMARK (R116). -/
def execTmark (core : Nat) (flips : List Nat) (s : State) : Out :=
  .next (s.tileOp core flips fun _ s => s.waitFor core (.mark false))

/-- HALT (R116). -/
def execHalt (core : Nat) (s : State) : Out :=
  .next (s.tileOp core [] fun _ s => s.waitFor core (.mark true))

/-- Hold and shape of the matrix instruction before the next one (R85, R86). -/
def Core.heldShape (k : Core) : Option (Nat × Nat) :=
  match k.matrix.getLast? with
  | some o => if (parseMx o.desc).hold then some (o.m, o.n) else none
  | none => k.held.map fun h => (h.1, h.2.1)

/-- MXM (R85, R99, R100, R104). -/
def execMxm (core gDesc gAct gWt gOut m n : Nat) (flips : List Nat) (s : State) : Out :=
  .next (s.tileOp core flips fun k s =>
    let w := k.reg.get gDesc
    let a := spadOf core + 4 * w
    if !inOwn w 32 then s.tileFault core 3
    else s.readOwn core [(a, 32)] fun s =>
      let d := s.tileBytes core a 32
      let s := s.afterTileRead core a 32
      let op : MatrixOp := { desc := d, act := k.reg.get gAct, wt := k.reg.get gWt, out := k.reg.get gOut
                             m := m, n := n, grids := k.reg.grids }
      if mxFormatBad d m n || ((parseMx d).cont && k.heldShape ≠ some (m, n)) then s.tileFault core 2
      else if !s.rangesOk core op.reads [op.writes] then s.tileFault core 3
      else s.waitFor core (.issueMatrix op))

/-- A vector instruction whose parameter block has been read (R99, R100, R259). -/
def State.vopBlock (s : State) (g : Nat) (d p : List Byte) : State :=
  let v := parseV d
  if v.op = 0x10 && argBlock p ≠ 16 && argBlock p ≠ 32 then s.tileFault g 2
  else if !s.rangesOk g (v.reads p) (v.writes p) then s.tileFault g 3
  else s.waitFor g (.issueVector { desc := d, param := p })

/-- VOP (R99, R100, R106, R107). -/
def execVop (core gDesc : Nat) (flips : List Nat) (s : State) : Out :=
  .next (s.tileOp core flips fun k s =>
    let w := k.reg.get gDesc
    let a := spadOf core + 4 * w
    if !inOwn w 32 then s.tileFault core 3
    else s.readOwn core [(a, 32)] fun s =>
      let d := s.tileBytes core a 32
      let s := s.afterTileRead core a 32
      let v := parseV d
      let b := spadOf core + 4 * v.param
      if vFormatBad d then s.tileFault core 2
      else if v.op = 0x11 && !maskCapable ((s.cores.map.getD core none).getD 0) then s.tileFault core 4
      else if !v.hasParam then s.vopBlock core d []
      else if !inOwn v.param v.paramBytes then s.tileFault core 3
      else s.readOwn core [(b, v.paramBytes)] fun s =>
        (s.afterTileRead core b v.paramBytes).vopBlock core d (s.tileBytes core b v.paramBytes))

/-- GRIDLD (R74, R75). That a table which leaves the own scratchpad is an address fault, cause 3, no rule says
(DESIGN CHOICE 162). -/
def execGridld (core grid gAddr : Nat) (s : State) : Out :=
  .next (s.tileOp core [] fun k s =>
    let w := k.reg.get gAddr
    let a := spadOf core + 4 * w
    if !inOwn w 16 then s.tileFault core 3
    else s.readOwn core [(a, 16)] fun s =>
      let t := (s.tileBytes core a 16).map fun b => b.toInt
      (s.afterTileRead core a 16).onReg core fun r => { r.step with grids := r.grids.set grid t })

/-- SIG (R118): recorded for this tile's mark; a rank without a core gets nothing. -/
def execSig (core gRank sem : Nat) (s : State) : Out :=
  .next (s.tileOp core [] fun k s =>
    let target := k.reg.ranks.getD (k.reg.get gRank) 0xFF
    (s.onCore core fun y => { y with sigs := if target = 0xFF then y.sigs else y.sigs ++ [(target, sem % 16)] }).advance core)

/-- WAITS (R101). -/
def execWaits (core sem gCount : Nat) (s : State) : Out :=
  .next (s.tileOp core [] fun k s =>
    s.onCore core fun y => wakeSem { y with wait := .sem (sem % 16) (k.reg.get gCount) })

/-- DWAIT (R101, R113). -/
def execDwait (core mask : Nat) (s : State) : Out :=
  .next (s.tileOp core [] fun _ s => s.waitFor core (.dma mask))

/-- UWAIT (R101). -/
def execUwait (core mask : Nat) (s : State) : Out :=
  .next (s.tileOp core [] fun _ s => s.waitFor core (.units mask))

/-- LIVE (R101, R122): beyond the declared limit it is a tile fault and the entry keeps its value. The entry's eight
bytes hold base and length in 32 bits each (DESIGN CHOICE 161). Neither need lie inside the core's own 6 MiB: no rule
checks it, and a save or restore then reaches what lies there (DESIGN CHOICE 161). -/
def execLive (core entry gBase gLen : Nat) (s : State) : Out :=
  .next (s.tileOp core [] fun k s =>
    let len := k.reg.get gLen
    let e := if len = 0 then (0, 0) else (k.reg.get gBase % 2 ^ 32, len)
    let t := k.reg.live.set (entry % 16) e
    if ((s.coreJob core).getD {}).maxLive < 4 * (t.map (·.2)).sum then s.tileFault core 6
    else s.onReg core fun r => { r.step with live := t })

/-- FLAGRD (R95, R101). -/
def execFlagrd (core gD : Nat) (s : State) : Out :=
  .next (s.tileOp core [] fun _ s => s.onReg core fun r => r.step.set gD r.flags)

/-- RANKDPA (R60, R101). For a rank without a core the result is free (log 31). -/
def execRankdpa (core gD gRank : Nat) (s : State) : Out :=
  .next (s.tileOp core [] fun k s =>
    let target := k.reg.ranks.getD (k.reg.get gRank) 0xFF
    (s.onReg core fun r => r.step.set gD (if target = 0xFF then s.draw 1 else spadOf target)).bump)

/-- TSRD (R14, R101). -/
def execTsrd (core gD : Nat) (s : State) : Out :=
  .next (s.tileOp core [] fun _ s => (s.onReg core fun r => r.step.set gD s.tsNow).bump)

/-! ### Scalar instructions (R98 to R100, R119) -/

/-- Result of an arithmetic operation; a shift by 64 or more is not given and free (log 11). -/
def aluResult (op : AluOp) (a b : BitVec 64) (free : Nat) : BitVec 64 :=
  let flag (c : Bool) : BitVec 64 := if c then 1 else 0
  match op with
  | .add => a + b
  | .sub => a - b
  | .mul => a * b
  | .and => a &&& b
  | .or => a ||| b
  | .xor => a ^^^ b
  | .shl => if b.toNat < 64 then a <<< b.toNat else BitVec.ofNat 64 free
  | .shrU => if b.toNat < 64 then a >>> b.toNat else BitVec.ofNat 64 free
  | .shrS => if b.toNat < 64 then a.sshiftRight b.toNat else BitVec.ofNat 64 free
  | .eq => flag (a = b)
  | .ne => flag (a ≠ b)
  | .ltU => flag (a.ult b)
  | .ltS => flag (a.slt b)
  | .leU => flag (a.ule b)
  | .leS => flag (a.sle b)

def brTaken (c : BrCond) (a b : BitVec 64) : Bool :=
  match c with
  | .eq => a = b
  | .ne => a ≠ b
  | .ltU => a.ult b
  | .ltS => a.slt b
  | .geU => !a.ult b
  | .geS => !a.slt b

/-- Byte offset of a scalar access in the own scratchpad, or none outside it (R99). One that is not aligned to its
size, or crosses a word, is made byte by byte and raises no fault: R99 gives no rule for it (DESIGN CHOICE 165). -/
def scalarAddr (base : Nat) (off : Int) (size : Nat) : Option Nat :=
  let a := (base : Int) + off
  if 0 ≤ a ∧ a.toNat + size ≤ spadBytes then some a.toNat else none

/-- A loaded value, extended to 64 bits. -/
def loadValue (size : Nat) (signed : Bool) (v : Nat) : Nat :=
  if signed then (BitVec.ofInt 64 (signedOf (8 * size) v)).toNat else v

/-- One scalar instruction. -/
def State.scalarStep (s : State) (g : Nat) (k : Core) (op : Scalar) : State :=
  let r := k.reg
  let bv (i : Nat) : BitVec 64 := BitVec.ofNat 64 (r.get i)
  match op with
  | .alu op d a b => (s.onReg g fun x => x.step.set d (aluResult op (bv a) (bv b) (s.draw 1)).toNat).bump
  | .aluImm op d a imm => (s.onReg g fun x => x.step.set d (aluResult op (bv a) (BitVec.ofInt 64 imm) (s.draw 1)).toNat).bump
  | .branch c a b target => if brTaken c (bv a) (bv b) then s.onReg g fun x => { x with pc := target } else s.advance g
  | .jump target => s.onReg g fun x => { x with pc := target }
  | .call d target => s.onReg g fun x => { x.set d (x.pc + Config.instrWords) with pc := target }
  | .ret a => s.onReg g fun x => { x with pc := x.get a }
  | .load size signed d a off =>
    match scalarAddr (r.get a) off size with
    | none => s.tileFault g 3
    | some o => s.readOwn g [(spadOf g + o, size)] fun s =>
        (s.afterTileRead g (spadOf g + o) size).onReg g fun x =>
          x.step.set d (loadValue size signed (leNat (s.tileBytes g (spadOf g + o) size)))
  | .store size b a off =>
    match scalarAddr (r.get a) off size with
    | none => s.tileFault g 3
    | some o =>
      if s.meetsCode (spadOf g + o) size then s.tileFault g 3
      else (s.writeNat (spadOf g + o) size (r.get b)).advance g
  | .undefined => s.tileFault g 4

/-- SCALAR_INSTRUCTION (R98, R99, R100). -/
def execScalarInstruction (core : Nat) (op : Scalar) (flips : List Nat) (s : State) : Out :=
  .next (s.tileOp core flips fun k s => s.scalarStep core k op)

/-! ### Unit completions (R92, R95, R105, R108) -/

/-- A unit of a running tile completes. -/
def State.unitOp (s : State) (g : Nat) (flips : List Nat) (f : Core → State → State) : State :=
  if (s.core g).run = .running then
    let s := s.flipParity (flips.filter isSpad)
    f (s.core g) s
  else s

/-- MATRIX_INSTRUCTION_COMPLETE (R86 to R95). -/
def execMatrixInstructionComplete (core : Nat) (flips : List Nat) (s : State) : Out :=
  .next (s.unitOp core flips fun k s =>
    match k.matrix with
    | [] => s
    | o :: rest =>
      s.readOwn core (ownRanges core o.reads) fun s =>
        let held := match k.held with | some h => h.2.2 | none => []
        if (parseMx o.desc).hold then
          let out := s.matrixKept (spadOf core) o held
          ((s.onCore core fun y => { y with
            matrix := rest, held := some (o.m, o.n, out.1), reg := { y.reg with flags := y.reg.flags ||| out.2 } }).bump).resume core
        else
          let out := s.matrixOutput (spadOf core) o held
          let s := (s.write (spadOf core + 4 * o.out) out.1).bump
          (s.onCore core fun y => { y with
            matrix := rest, held := none, reg := { y.reg with flags := y.reg.flags ||| out.2 } }).resume core)

/-- VECTOR_INSTRUCTION_COMPLETE (R94, R95, R107, R108, R258). -/
def execVectorInstructionComplete (core : Nat) (flips : List Nat) (s : State) : Out :=
  .next (s.unitOp core flips fun k s =>
    match k.vector with
    | [] => s
    | o :: rest =>
      s.readOwn core (ownRanges core ((parseV o.desc).reads o.param)) fun s =>
        let out := s.vectorOutput (spadOf core) o
        let s := (out.1.foldl (fun x w => x.write (spadOf core + w.1) w.2) s).bump
        (s.onCore core fun y => { y with
          vector := rest, reg := { y.reg with flags := y.reg.flags ||| out.2 } }).resume core)

/-! ### DMA channels (R68, R109 to R114) -/

/-- Reserved fields and ranges of a DMA descriptor (R110, R111). -/
def dmaFieldsBad (d : List Byte) : Bool :=
  let x := parseDma d
  7 < fieldAt d 48 1 || 3 < fieldAt d 50 1 || fieldAt d 51 13 ≠ 0 || x.len = 0 || 65536 < x.len || x.cnt1 = 0 ||
  x.cnt2 = 0 || (!x.gather && x.idx ≠ 0) || (x.xlate && x.scale ≠ 0) || (!x.xlate && x.pool ≠ 0) ||
  (x.gather && !inOwn x.idx (4 * x.cnt2))

/-- The index list of a gather. -/
def DmaDesc.indexRange (x : DmaDesc) (g : Nat) : List (Nat × Nat) :=
  if x.gather then ownRanges g [(x.idx, 4 * x.cnt2)] else []

/-- A run of `n` bytes lies wholly inside one populated range that a tile's DMA may name (R60 to R62, R68,
R111, R155). -/
def State.runOk (s : State) (peer : Bool) (a : Int) (n : Nat) : Bool :=
  let b := a.toNat
  decide (0 ≤ a) && (inOpenDram b n || (inSpad b n && s.corePresent (spadCore b)) || inHub b n || inHost b n ||
    (peer && isPeer b && isPeer (b + n - 1) && (b - peerBase) / 2 ^ 34 = (b + n - 1 - peerBase) / 2 ^ 34))

/-- A core may reach a run: its own scratchpad, and one whose core's rank table names it (R142), no DRAM for P0
(R176), the target region for P0 only (R318). -/
def State.mayReach (s : State) (g a n : Nat) : Bool :=
  if isSpad a then spadCore a = g || (s.core (spadCore a)).reg.ranks.contains g
  else if isDram a then !bitAt (s.dramAt (a / stackSize)).p0Mask g
  else if isHub a then !touchesTarget a n || bitAt s.p0Mask g
  else true

/-- The fault of a descriptor whose runs are these, or 0: a run outside what R111 allows, one that its target does not
admit (R63, R142, R176, R318), or a write into a code region (R100). -/
def State.dmaCause (s : State) (g : Nat) (x : DmaDesc) (srcs : List Int) : Nat :=
  if (srcs ++ x.dsts).any fun a => !s.runOk x.peer a x.len then 5
  else if (x.dsts.any fun a => s.meetsCode a.toNat x.len) || (srcs ++ x.dsts).any fun a => !s.mayReach g a.toNat x.len then 3
  else 0

/-- DMA (R109 to R111): the channel checks all but what a frame table names, before the descriptor is queued. -/
def execDma (core channel gDesc : Nat) (flips : List Nat) (s : State) : Out :=
  .next (s.tileOp core flips fun k s =>
    let w := k.reg.get gDesc
    let a := spadOf core + 4 * w
    if !inOwn w 64 then s.tileFault core 3
    else s.readOwn core [(a, 64)] fun s =>
      let d := s.tileBytes core a 64
      let s := s.afterTileRead core a 64
      let x := parseDma d
      if dmaFieldsBad d then s.tileFault core 5
      else s.readOwn core (x.indexRange core) fun s =>
        let cause := s.dmaCause core x (if x.gather && x.xlate then [] else x.srcs (s.plainBases core x))
        if cause ≠ 0 then s.tileFault core cause else s.waitFor core (.issueDma (channel % 4) d))

/-- The frame lookups of a transfer, plane by plane (R112, R212): whether all succeeded; the first that fails has
ended the tile. -/
def State.dmaLookups (s : State) (g pool : Nat) : List Nat → Bool × State
  | [] => (true, s)
  | i :: r =>
    let t := s.coreLookup g i pool
    if t.1 then State.dmaLookups t.2 g pool r else t

/-- Bases of the source planes with the frame table's help. -/
def State.frameBases (s : State) (g : Nat) (x : DmaDesc) : List Int :=
  (List.range x.cnt2).map fun p => ((s.frameAddr (s.dmaIndex g x p) + x.src : Nat) : Int)

/-- A transfer's state: the device, and whether the tile has ended. -/
structure DmaRun where
  s : State
  dead : Bool := false

/-- Source bytes of run `i` of a transfer: those that changed since the descriptor came to the head of its channel, or
that a unit has yet to write, are unspecified (R103), and so is all that a descriptor writes over its own source
(R113). -/
def State.dmaData (s : State) (g ch : Nat) (o : DmaOp) (free : Bool) (i a n : Nat) : List Byte :=
  let now := s.bytesAt a n
  let was := match o.seen with
    | some l => l.getD i now
    | none => now
  (List.range n).map fun j =>
    if free || was.getD j 0 ≠ now.getD j 0 || s.early g ch (a + j) 1 then BitVec.ofNat 8 (s.draw j) else now.getD j 0

/-- A peer package is asked for a run, or given one (R68). -/
def State.peerRun (s : State) (kind g : Nat) (x : DmaDesc) (a : Nat) (data : List Byte) : State :=
  (ringPieces x.len).foldl (fun y p =>
    y.leavePackage kind { dpa := a + p.1, length := p.2, requester := g } x.pkg ((data.drop p.1).take p.2)) s

/-- One byte run of a transfer: poisoned data ends the tile with cause 7 or 8 and is not written (R114); bytes cross
the ring on the job's channel where their dies differ (R37, R48); data of a peer package is free. -/
def dmaRun (g ch : Nat) (x : DmaDesc) (o : DmaOp) (free : Bool) (r : DmaRun) (t : Nat × Int × Int) : DmaRun :=
  let s := r.s
  let src := t.2.1.toNat
  let dst := t.2.2.toNat
  if r.dead then r
  else if !isPeer src && s.readPoisoned src x.len then
    { s := ((s.afterRead src x.len).bankEvents src x.len).tileFault g (if isSpad src then 7 else 8), dead := true }
  else
    let data := if isPeer src then s.freeBytes x.len else s.dmaData g ch o free t.1 src x.len
    let s1 := (if isPeer src then s.peerRun 4 g x src [] else s.carryRead (s.coreOrigin g) (g / 16 + 1) g src data).bump
    if isPeer dst then { s := s1.peerRun 5 g x dst data }
    else
      let w := s1.dramWrite dst data []
      if w.1 then { s := w.2.tileFault g 8, dead := true }
      else { s := w.2.carryWrite (s.coreOrigin g) (g / 16 + 1) g dst data }

/-- The destination of a descriptor overlaps its own source (R113). -/
def DmaDesc.overlapsSelf (x : DmaDesc) (srcs : List Int) : Bool :=
  srcs.any fun a => x.dsts.any fun b => overlaps a.toNat x.len b.toNat x.len

/-- All runs of a descriptor, in the order of R110; none moves a byte before all have been checked (R111). -/
def State.dmaCopy (s : State) (g ch : Nat) (o : DmaOp) (srcs : List Int) : DmaRun :=
  let x := parseDma o.desc
  let ts := (List.range srcs.length).map fun i => (i, srcs.getD i 0, x.dsts.getD i 0)
  ts.foldl (dmaRun g ch x o (x.overlapsSelf srcs)) { s := s }

/-- DMA_DESCRIPTOR_COMPLETE (R109, R111 to R114). -/
def execDmaDescriptorComplete (core channel : Nat) (flips : List Nat) (s : State) : Out :=
  .next (s.unitOp core flips fun k s =>
    match k.dmaQueue channel with
    | [] => s
    | o :: rest =>
      let x := parseDma o.desc
      s.readOwn core (x.indexRange core) fun s =>
        let found := if x.gather && x.xlate then
            s.dmaLookups core x.pool ((List.range x.cnt2).map (s.dmaIndex core x))
          else (true, s)
        if !found.1 then found.2
        else
          let s := found.2
          let srcs := x.srcs (if x.gather && x.xlate then s.frameBases core x else s.plainBases core x)
          let cause := s.dmaCause core x srcs
          if cause ≠ 0 then s.tileFault core cause
          else
            let r := s.dmaCopy core channel o srcs
            if r.dead then r.s
            else ((r.s.onCore core fun y => { y with dma := y.dma.set channel rest }).startDma core channel).resume core)

/-! ### Timer, migration, self-test -/

/-- TILE_TIMER_EXPIRY (R115): 4 links since the tile's start; the wait of a mark's first step counts. -/
def execTileTimerExpiry (core : Nat) (s : State) : Out :=
  .next (if (s.core core).run = .running && decide ((s.core core).tileStart + 262144 ≤ s.tsNow) then s.tileFault core 1
    else s)

/-- Words of a physical bank of a core that hold bytes with bad parity. -/
def State.bankWords (s : State) (g b : Nat) : List Nat :=
  ((s.mem.badParity.filter fun a => isSpad a && spadCore a = g && physBank (s.core g) (bankOf a) = b).map fun a => a / 4 * 4).dedup

/-- BANK_MIGRATION_DONE (R147 to R149): each word that failed parity in the copy counts an event, and its bytes stay
poisoned. -/
def execBankMigrationDone (core : Nat) (flips : List Nat) (s : State) : Out :=
  .next (match (s.core core).migrating with
    | none => s
    | some b =>
      let s := s.flipParity (flips.filter isSpad)
      ((s.bankWords core b).foldl (fun x w => x.bankEvents w 4) s).onCore core fun y => { y with copyDone := true })

/-- A spare that fails the suite is retired as a spare (R504). -/
def State.retireSpare (s : State) (d u : Nat) : State :=
  if s.isLasting (coreEntry d u) && (s.spareCores d).contains u then
    (s.onPhys (physIndex d u) fun k => { k with retired := true }).retire (coreEntry d u)
  else s

/-- What became lasting on a physical core that holds no job is retired: its banks in ascending order, then the
core; a core that stands at a HALT stands at its mark (log 38); a spare is retired as a spare (R496, R502,
R504). -/
def State.serviceTested (s : State) (d u : Nat) : State :=
  match s.logicalOn d u with
  | some c =>
    if (s.core (16 * d + c)).job = none then s.serviceIdle (16 * d + c)
    else if (s.core (16 * d + c)).run = .halted then s.retireAtMark (16 * d + c)
    else s
  | none => ((s.lastingBanks d u).foldl (fun x b => x.takeBank d u b) s).retireSpare d u

/-- P0's cores are tested in CONFIG while they hold no job (R505). -/
def State.testsP0 (s : State) (d u : Nat) : Bool :=
  s.dev.mode = .config && match s.logicalOn d u with
    | some c => bitAt s.p0Mask (16 * d + c) && (s.core (16 * d + c)).job = none
    | none => false

/-- SELFTEST_VECTOR (R503 to R505): on a core in self-test, on a spare, or on P0's idle cores in CONFIG. What it
makes lasting is retired as the link ends, in the order of R502 (log 38). -/
def execSelftestVector (die phys : Nat) (result : VectorResult) (s : State) : Out :=
  let k := s.phys (physIndex die phys)
  .next (if k.run ≠ .selftest && !(s.spareCores die).contains phys && !s.testsP0 die phys then s
    else match result with
      | .pass => s.onPhys (physIndex die phys) fun y => { y with testVector := y.testVector + 1 }
      | .coreFail => s.errEvent (coreEntry die phys)
      | .bankFail b => s.errEvent { kind := 2, place := die, unit := phys, detail := b })

end Sys2Proof.Machine
end

