-- ==== Sys2Proof/Machine/Provoke.lean ====
section
/-! DEFINITION. The TEST commands (chapters 20 and 22): fault injection slots, the full self-test pass, and the
loopback test. -/

namespace Sys2Proof.Machine

/-! ### TEST.INJECT (R538) -/

/-- Greatest index of a target. -/
def injectTop (t : Nat) : Nat := [0, 4, 1, 15, 3, 15, 255].getD t 0

/-- Bit length of a target's unit: flits, down and up frames, completion entries; for CAN and intake the unit's
length differs from frame to frame, and the field itself bounds it. -/
def State.unitBits (s : State) (t index dir : Nat) : Nat :=
  if t ≤ 2 then 576
  else if t = 3 then (if dir = 0 then 1184 else 8 * (20 + 48 * s.configured index))
  else if t = 6 then 512
  else 65536

/-- A value of the block is out of its range. -/
def State.injectLimit (s : State) (d : List Byte) : Bool :=
  let t := fieldAt d 1 1
  let i := fieldAt d 2 1
  let dir := fieldAt d 3 1
  let act := fieldAt d 4 1
  let trig := fieldAt d 5 1
  let param := fieldAt d 6 2
  let v := fieldAt d 8 8
  15 < fieldAt d 0 1 || 4 < act ||
    (act ≠ 0 && (t = 0 || 6 < t || injectTop t < i || (if t ≤ 3 then 1 else 0) < dir || trig = 0 || 3 < trig ||
      (if act = 2 then s.unitBits t i dir ≤ param else if act = 4 then param = 0 || 255 < param else param ≠ 0) ||
      (trig = 2 && (v = 0 || 65535 < v))))

/-- A reserved bit or byte of the block is set. -/
def injectReserved (d : List Byte) : Bool :=
  !allZero d 20 12 || (fieldAt d 4 1 ≠ 0 && fieldAt d 5 1 = 3 && fieldAt d 14 2 ≠ 0)

/-- A slot as a block programs it; counts and a unit held back stay. -/
def Inject.program (j : Inject) (d : List Byte) : Inject :=
  if fieldAt d 4 1 = 0 then { j with armed := false }
  else { j with
    armed := true, target := fieldAt d 1 1, index := fieldAt d 2 1, dir := fieldAt d 3 1, action := fieldAt d 4 1
    trigger := fieldAt d 5 1, param := fieldAt d 6 2, value := fieldAt d 8 8, limit := fieldAt d 16 4
    units := 0, done := 0 }

/-- TEST_INJECT (R538). -/
def execTestInject (c : Cmd) (s : State) : Out :=
  .next (runCmd 0xE 1 c s fun s =>
    if s.dev.mode ≠ .test || s.sol.state = .running || (s.sch.jobs.any fun j => j.partition = 0 && j.state ≠ .ended) then
      s.complete c stMode
    else if s.injectLimit c.data then s.complete c stLimit
    else if injectReserved c.data then s.complete c stBadParam
    else (s.onFi (fieldAt c.data 0 1) fun j => j.program c.data).complete c stOk)

/-! ### TEST.SELFTEST (R503, R505) -/

/-- The findings of a pass on the named dies and, on request, the hub: one entry for each failed run. -/
def findingsOf (mask : Nat) (f : SelftestReport) : SelftestReport :=
  { cores := f.cores.filter fun x => bitAt (mask % 16) x.1 && decide (x.2 < 18)
    banks := f.banks.filter fun x => bitAt (mask % 16) x.1 && decide (x.2.1 < 18)
    clusters := if bitAt mask 4 then f.clusters else []
    pipes := if bitAt mask 4 then f.pipes else []
    durationMs := f.durationMs }

/-- Each failure counts one event (R500, R503); what became lasting is retired as the link ends (R502). -/
def State.applyFindings (s : State) (f : SelftestReport) : State :=
  let s := f.cores.foldl (fun x e => x.errEvent (coreEntry e.1 e.2)) s
  let s := f.banks.foldl (fun x e => x.errEvent { kind := 2, place := e.1, unit := e.2.1, detail := e.2.2 }) s
  let s := f.clusters.foldl (fun x u => x.errEvent (clusterEntry u)) s
  f.pipes.foldl (fun x u => x.errEvent (pipeEntry u)) s

/-- TEST_SELFTEST (R505). -/
def execTestSelftest (c : Cmd) (found : SelftestReport) (s : State) : Out :=
  .next (runCmd 0xE 2 c s fun s =>
    if s.dev.mode ≠ .test then s.complete c stMode
    else
      let f := findingsOf (c.word 0) found
      (s.applyFindings f).complete c stOk
        (packWord [(0, min 255 f.cores.dedup.length), (8, min 255 f.banks.dedup.length),
          (16, min 15 f.clusters.dedup.length), (20, min 7 f.pipes.dedup.length)]) (f.durationMs % 2 ^ 32))

/-! ### TEST.LOOPBACK (R539) -/

/-- A loopback's target and index exist: targets 1 to 4, and a CSI-2 port as 5. -/
def loopTarget (t i : Nat) : Bool := 1 ≤ t && t ≤ 5 && decide (i ≤ (if t = 5 then 7 else injectTop t))

/-- TEST_LOOPBACK (R539): 1,024 units. -/
def execTestLoopback (c : Cmd) (unitsInError : Nat) (s : State) : Out :=
  .next (runCmd 0xE 3 c s fun s =>
    if s.dev.mode ≠ .test then s.complete c stMode
    else if !loopTarget (c.word 0 % 16) (bitsOf (c.word 0) 15 8) then s.complete c stLimit
    else s.complete c stOk 1024 (min unitsInError 1024))

end Sys2Proof.Machine
end

