-- ==== Sys2Proof/Machine/TimeBase.lean ====
section
/-! DEFINITION. The tick grid (chapter 01): the link boundary and what is bound to it, the chain boundary, the
check of the dies' counts, entry to RUN, and SYNC_IN. -/

namespace Sys2Proof.Machine

/-! ### SYNC_IN (R22 to R27) -/

/-- Links between expected SYNC_IN edges. -/
def State.syncPeriod (s : State) : Nat := if bitAt s.tb.syncCtrl 2 then 100 else 8000

/-- Edges are measured: RUN was entered with SYNC_IN, and it has not been lost since (R24, R26). -/
def State.syncMeasured (s : State) : Bool := s.running && s.tb.syncUsed && !s.tb.syncFree

/-- A link begins at a boundary that an edge is expected to mark. -/
def State.syncBoundary (s : State) (link : Nat) : Bool := s.tb.mile ≤ link && (link - s.tb.mile) % s.syncPeriod = 0

/-- Phase error in whole REFCLK cycles of an edge at a time-base cycle of the link in progress, against the
boundary at its start or its end (R24). How an offset that is no whole number of cycles becomes one R24 leaves open:
it is rounded down to the cycle in progress, so an edge between 99 and 100 cycles after the boundary is measured as
+99, and one less than 99 cycles before it as the next whole number (DESIGN CHOICE 157). -/
def State.syncError (s : State) (cycle : Nat) : Option Int :=
  if s.syncBoundary s.tb.link && decide (cycle / 16 ≤ 99) then some (cycle / 16 : Nat)
  else if s.syncBoundary (s.tb.link + 1) && decide (ceilDiv (s.linkCycles - cycle) 16 ≤ 99) then
    some (-(ceilDiv (s.linkCycles - cycle) 16 : Nat))
  else none

/-- SYNC_IN_EDGE (R24 to R26). Whether an edge that meets no measurement, once sync_lost is set or RUN was entered
without SYNC_IN, still counts in sync_stray R26 leaves open: it is neither measured nor counted (DESIGN CHOICE 158). -/
def execSyncInEdge (cycle : Nat) (s : State) : Out :=
  .next (if !s.syncMeasured || s.linkCycles ≤ cycle then s
    else match s.syncError cycle with
      | some e => s.onTb fun t => { t with phaseErr := e, edgeSeen := true }
      | none => s.onTb fun t => { t with stray := satInc 255 t.stray })

/-- SYNC_LOST (R26): in the link of the second expected boundary in a row without an edge; the grid runs freely. -/
def execSyncLost (s : State) : Out :=
  .next (if !s.syncMeasured || !s.syncBoundary s.tb.link || s.tb.edgeSeen || s.tb.edgeMissed = 0 then s
    else (s.onTb fun t => { t with syncLost := true, syncFree := true, phaseErr := 0 }).raiseEvent 2)

/-- As a link with an expected boundary ends, its window has closed. -/
def State.countEdge (s : State) : State :=
  if s.syncMeasured && s.syncBoundary s.tb.link then
    s.onTb fun t => { t with edgeMissed := if t.edgeSeen then 0 else t.edgeMissed + 1, edgeSeen := false }
  else s

/-! ### The link boundary (R9, R10) -/

/-- Length of the link that begins, and the phase error left (R25). -/
def slewed (e : Int) : Nat × Int :=
  if 0 < e then (201, e - 1) else if e < 0 then (199, e + 1) else (200, 0)

/-- A new link: the counts step on, and its length follows the remaining phase error (R9 to R11, R25). -/
def State.countLink (s : State) : State :=
  { s.onTb fun t => { t with
      link := t.link + 1, cycles := (slewed t.phaseErr).1, phaseErr := (slewed t.phaseErr).2
      dieLink := t.dieLink.map (· + 1) } with instant := 0 }

/-- Miles since the latest PTM dialog began (R32). -/
def State.countMile (s : State) : State :=
  if s.mileLink s.tb.link then s.onTb fun t => { t with ptmMiles := t.ptmMiles + 1 } else s

/-- The table and row in force in the next link. -/
def State.rowOfNext (s : State) : Table × Nat :=
  if s.chainLink (s.tb.link + 1) then s.nextRow else (s.sch.active, s.sch.row)

/-- A link in which a row is in force is a release link of a job (R349, R361). -/
def State.releaseLink (s : State) (tr : Table × Nat) (link : Nat) (j : Job) : Bool :=
  j.endWith = none &&
    (s.periodicDue j link || (j.mode = 2 && (((tr.1.rows.getD tr.2 {}).events).any fun e =>
      e.kind = 1 && e.releaseId = j.releaseId && e.offset = s.phase link % 100)))

/-- Input snapshots of the P0 releases of a link (R370), from the samples of the link before. -/
def State.writeSnapshots (s : State) (tr : Table × Nat) (link : Nat) : State :=
  (s.sch.jobs.filter fun j => j.partition = 0 && s.releaseMode j && s.releaseLink tr link j).foldl
    (fun x j => x.writeSnapshot j (link - 1)) s

/-- Links that count against a budget (R362); the wait of a once job for a suspended sequence counts too (R221). -/
def State.chargeJobs (s : State) : State :=
  (s.sch.jobs.filter fun j => if j.mode = 0 then j.placed ≠ [] || !s.seqsActive j else j.released).foldl
    (fun x j => x.chargeLink j.key) s

/-- A changed temperature band takes effect (R171). -/
def State.applyBands (s : State) : State := { s with dram := s.dram.map fun d => { d with band := d.nextBand } }

/-- Units that injection delays until this link arrive (R538). -/
def State.releaseDue (s : State) : State :=
  (List.range 16).foldl (fun x i =>
    match (x.fi.getD i {}).held with
    | none => x
    | some (_, due, _) =>
      if due = 0 || x.tb.link < due then x
      else if (x.fi.getD i {}).target = 1 then x.releaseFlit i
      else if (x.fi.getD i {}).target = 6 then x.releaseHeld i
      else x.onFi i fun j => { j with held := none }) s

/-- The flit slots that are left of a link of `n` slots go by idle, and the next link's begin (R50). -/
def SegDir.endSlots (n : Nat) (x : SegDir) : SegDir := { x.pass (n - x.slots) with slots := 0 }

/-- The link's flit slots end on every segment direction. -/
def State.endSlots (s : State) : State :=
  (List.range 5).foldl (fun x g =>
    (x.onSegDir g .fwd (SegDir.endSlots (x.linkSlots g .fwd))).onSegDir g .rev (SegDir.endSlots (x.linkSlots g .rev))) s

/-- Flits that no slot of the link before was left for go on (R51). -/
def State.pumpAll (s : State) : State :=
  (List.range 5).foldl (fun x g => (x.pump g .fwd).pump g .rev) s

/-- Peer accesses admitted in a link have drained by its end. -/
def State.drainWindows (s : State) : State :=
  s.onHl fun h => { h with windows := h.windows.map fun w => { w with inFlight := 0 } }

/-- What became lasting in the link on cores that hold no job and on pipes that hold no frame is retired, in
ascending order of resource number (R496, R502). -/
def State.serviceLasting (s : State) : State :=
  if s.spr.lasting = [] then s
  else (List.range 5).foldl State.retirePipe
    ((List.range 72).foldl (fun x p => x.serviceTested (p / 18) (p % 18)) s)

/-- What the link that ends leaves behind: retirements, its LINK record, the edge's window, the snapshots of the
next link's releases, drained transfers. -/
def State.endLink (s : State) : State :=
  let s := s.serviceLasting.recordLink.checkReplay.countEdge.drainRecorder
  (s.writeSnapshots s.rowOfNext (s.tb.link + 1)).drainWindows.endSlots

/-- What begins with a link. -/
def State.beginLink (s : State) (estopA estopB : Bool) : State :=
  let s := s.countLink.linesNewLink.applyBands
  let s := if s.replaying then s else s.sampleEstops estopA estopB
  (s.countMile.driveSyncOut.driveCams.chargeJobs.releaseDue.pumpAll).runExports.settleCloses

/-- LINK_BOUNDARY (R10): no link ends while the hub is in reset. -/
def execLinkBoundary (estopA estopB : Bool) (s : State) : Out :=
  .next (if s.dev.inReset then s else s.endLink.beginLink estopA estopB)

/-! ### The chain boundary (R18) -/

/-- The row of the chain that begins (R357); the change of row is recorded. -/
def State.changeRow (s : State) : State :=
  let s := s.tableSwitch.raiseP0
  if s.sch.row = s.chainRow then s else (s.onSch fun x => { x with row := s.chainRow }).sched 1 none none

/-- Dies that hold a count to check: in service and switched on. -/
def State.dieCounts (s : State) (d : Nat) : Bool := (s.dramAt d).inService && !(s.pwr.off.getD d false)

/-- Hub firmware sends LINK_COUNT to each compute die on VC0 (R12), as the first eight bytes of a message
(DESIGN CHOICE 154). -/
def State.sendCounts (s : State) : State :=
  ((List.range 4).filter s.dieCounts).foldl (fun x d =>
    (x.carryMessage .control (d + 1) (leBytes 8 x.tb.link)).onTb fun t => { t with countDue := t.countDue.set d true }) s

/-- CHAIN_BOUNDARY: LINK_COUNT goes to the dies, the row changes, sequences resume, task sets take over, clusters are
replaced, temperatures are sampled (R12, R171, R231, R316, R340, R357, R521). -/
def execChainBoundary (temps : TempSample) (s : State) : Out :=
  .next (if !s.chainLink s.tb.link || !s.up then s
    else s.sendCounts.changeRow.resumeCheck.taskSwitch.serviceClusters.sampleTemps temps)

/-- LINK_COUNT_CHECK (R12): the message of the chain meets the count that a die holds. -/
def execLinkCountCheck (die count : Nat) (s : State) : Out :=
  .next (if !s.up || !s.dieCounts die || !(s.tb.countDue.getD die false) then s
    else
      let s := s.onTb fun t => { t with dieLink := t.dieLink.set die count, countDue := t.countDue.set die false }
      if s.tb.dieLink.getD die 0 = s.tb.link then s
      else ((s.onDram die fun m => { m with tbFault := true }).deviceFault 0).decideSafe 15)

/-! ### Entry to RUN (R21 to R23, R31) -/

/-- RUN begins with this link (R4, R21, R22, R370, R405, R506). -/
def State.startRun (s : State) (r : RunReq) : State :=
  let s := s.onTb fun t => { t with
    runReq := none, camHeld := false, phaseErr := 0, syncFree := false, edgeMissed := 0, edgeSeen := r.sync
    syncUsed := r.sync }
  let s := s.onAsz fun a => { a with runStart := s.tb.link, disagreeLinks := [] }
  let s := (s.onSol fun x => { x with holdRun := 0 }).enterMode .run
  let s := if s.spr.degraded then s.enterMode .degraded else s
  let s := s.writeSnapshots (s.sch.active, s.chainRow) s.tb.link
  s.modeOutputs.finish (· = .runEntry) stOk r.previous

/-- RUN_ENTRY_AT_MILE (R21): the next mile boundary after the request. -/
def execRunEntryAtMile (s : State) : Out :=
  .next (match s.tb.runReq with
    | none => s
    | some r =>
      if r.sync || !s.mileLink s.tb.link || s.tb.link ≤ r.link then s
      else if s.runStatus ≠ stOk then s.dropRun r s.runStatus
      else s.startRun r)

/-- SYNC_ALIGN_EDGE (R22): the edge ends the link in progress after `cycles` time-base cycles, the next link is
the new A, and RUN begins with it. The E-stop inputs read as at the boundary before, and a table switch decided
for the next mile boundary takes place at this one. -/
def execSyncAlignEdge (cycles : Nat) (s : State) : Out :=
  .next (match s.tb.runReq with
    | none => s
    | some r =>
      if !r.sync || cycles = 0 || s.linkCycles < cycles then s
      else if s.runStatus ≠ stOk then s.dropRun r s.runStatus
      else
        let s := s.endLink.onTb fun t => { t with mile := t.link + 1 }
        let s := s.onSch fun x => { x with
          switchAt := x.switchAt.map fun _ => s.tb.mile, deferAt := x.deferAt.map fun _ => s.tb.mile }
        (s.beginLink s.asz.estopA.raw s.asz.estopB.raw).startRun r)

/-- SYNC_ALIGN_TIMEOUT (R23, R31): two periods after the request. -/
def execSyncAlignTimeout (s : State) : Out :=
  .next (match s.tb.runReq with
    | none => s
    | some r =>
      if !r.sync || s.tb.link < r.link + 2 * s.syncPeriod then s
      else s.dropRun r stTimeout)

end Sys2Proof.Machine
end

