-- ==== Sys2Proof/Machine/Dispatch.lean ====
section
/-! DEFINITION. The one dispatch: one arm per command, each a direct call of its meaning. -/

namespace Sys2Proof.Machine

def exec (i : Instr) (s : State) : Host.Outcome State Fault Refusal :=
  match i with
  | .devInfo c => Sys2Proof.Machine.execDevInfo c s
  | .devMode c => Sys2Proof.Machine.execDevMode c s
  | .devContextOpen c => Sys2Proof.Machine.execDevContextOpen c s
  | .devContextClose c => Sys2Proof.Machine.execDevContextClose c s
  | .devIdentity c => Sys2Proof.Machine.execDevIdentity c s
  | .devAttest c => Sys2Proof.Machine.execDevAttest c s
  | .memAlloc c => Sys2Proof.Machine.execMemAlloc c s
  | .memFree c => Sys2Proof.Machine.execMemFree c s
  | .memCopy c => Sys2Proof.Machine.execMemCopy c s
  | .memFill c => Sys2Proof.Machine.execMemFill c s
  | .memWindowOpen c => Sys2Proof.Machine.execMemWindowOpen c s
  | .memWindowClose c => Sys2Proof.Machine.execMemWindowClose c s
  | .windowDrainDone slot => Sys2Proof.Machine.execWindowDrainDone slot s
  | .jobSubmit c => Sys2Proof.Machine.execJobSubmit c s
  | .jobCancel c => Sys2Proof.Machine.execJobCancel c s
  | .jobQuery c => Sys2Proof.Machine.execJobQuery c s
  | .schLoad c => Sys2Proof.Machine.execSchLoad c s
  | .schArm c => Sys2Proof.Machine.execSchArm c s
  | .schPartition c => Sys2Proof.Machine.execSchPartition c s
  | .schQuery c => Sys2Proof.Machine.execSchQuery c s
  | .kvPoolCreate c => Sys2Proof.Machine.execKvPoolCreate c s
  | .kvSeqCreate c => Sys2Proof.Machine.execKvSeqCreate c s
  | .kvSeqFork c => Sys2Proof.Machine.execKvSeqFork c s
  | .kvSeqFree c => Sys2Proof.Machine.execKvSeqFree c s
  | .kvSwapArea c => Sys2Proof.Machine.execKvSwapArea c s
  | .kvSwapOut c => Sys2Proof.Machine.execKvSwapOut c s
  | .kvSwapIn c => Sys2Proof.Machine.execKvSwapIn c s
  | .kvCompact c => Sys2Proof.Machine.execKvCompact c s
  | .kvQuery c => Sys2Proof.Machine.execKvQuery c s
  | .solModelLoad c => Sys2Proof.Machine.execSolModelLoad c s
  | .solTasksLoad c => Sys2Proof.Machine.execSolTasksLoad c s
  | .solContacts c => Sys2Proof.Machine.execSolContacts c s
  | .solStart c => Sys2Proof.Machine.execSolStart c s
  | .solStop c => Sys2Proof.Machine.execSolStop c s
  | .solQuery c => Sys2Proof.Machine.execSolQuery c s
  | .itkStreamConfig c => Sys2Proof.Machine.execItkStreamConfig c s
  | .itkPipeConfig c => Sys2Proof.Machine.execItkPipeConfig c s
  | .itkStreamStart c => Sys2Proof.Machine.execItkStreamStart c s
  | .itkStreamStop c => Sys2Proof.Machine.execItkStreamStop c s
  | .jlTrain c => Sys2Proof.Machine.execJlTrain c s
  | .lineTrainingComplete line report => Sys2Proof.Machine.execLineTrainingComplete line report s
  | .jlNodeConfig c => Sys2Proof.Machine.execJlNodeConfig c s
  | .jlStart c => Sys2Proof.Machine.execJlStart c s
  | .jlStop c => Sys2Proof.Machine.execJlStop c s
  | .canConfig c => Sys2Proof.Machine.execCanConfig c s
  | .canFilters c => Sys2Proof.Machine.execCanFilters c s
  | .canSend c => Sys2Proof.Machine.execCanSend c s
  | .canMode c => Sys2Proof.Machine.execCanMode c s
  | .safeConfig c => Sys2Proof.Machine.execSafeConfig c s
  | .safeTrip c => Sys2Proof.Machine.execSafeTrip c s
  | .safeRelease c => Sys2Proof.Machine.execSafeRelease c s
  | .safeQuery c => Sys2Proof.Machine.execSafeQuery c s
  | .fwBegin c => Sys2Proof.Machine.execFwBegin c s
  | .fwPiece c => Sys2Proof.Machine.execFwPiece c s
  | .fwStatus c => Sys2Proof.Machine.execFwStatus c s
  | .fwCommit c => Sys2Proof.Machine.execFwCommit c s
  | .fwAbort c => Sys2Proof.Machine.execFwAbort c s
  | .cfgRead c => Sys2Proof.Machine.execCfgRead c s
  | .cfgWrite c => Sys2Proof.Machine.execCfgWrite c s
  | .cfgCommit c => Sys2Proof.Machine.execCfgCommit c s
  | .recConfig c => Sys2Proof.Machine.execRecConfig c s
  | .recFreeze c => Sys2Proof.Machine.execRecFreeze c s
  | .recExport c => Sys2Proof.Machine.execRecExport c s
  | .recReplay c => Sys2Proof.Machine.execRecReplay c s
  | .testInject c => Sys2Proof.Machine.execTestInject c s
  | .testSelftest c found => Sys2Proof.Machine.execTestSelftest c found s
  | .testLoopback c unitsInError => Sys2Proof.Machine.execTestLoopback c unitsInError s
  | .pwrStateEnterRetainedIdle c => Sys2Proof.Machine.execPwrStateEnterRetainedIdle c s
  | .pwrStateLeaveRetainedIdle c => Sys2Proof.Machine.execPwrStateLeaveRetainedIdle c s
  | .pwrLimit c => Sys2Proof.Machine.execPwrLimit c s
  | .pwrQuery c => Sys2Proof.Machine.execPwrQuery c s
  | .sqDoorbell ctx value host => Sys2Proof.Machine.execSqDoorbell ctx value host s
  | .cqDoorbell ctx value => Sys2Proof.Machine.execCqDoorbell ctx value s
  | .commandTake => Sys2Proof.Machine.execCommandTake s
  | .commandStartDeadlineExpiry ctx => Sys2Proof.Machine.execCommandStartDeadlineExpiry ctx s
  | .devResetWrite value => Sys2Proof.Machine.execDevResetWrite value s
  | .ctx0Enable value => Sys2Proof.Machine.execCtx0Enable value s
  | .ctx0Disable value => Sys2Proof.Machine.execCtx0Disable value s
  | .bar2BaseWrite value => Sys2Proof.Machine.execBar2BaseWrite value s
  | .bar2Read offset len => Sys2Proof.Machine.execBar2Read offset len s
  | .bar2Write offset data => Sys2Proof.Machine.execBar2Write offset data s
  | .canRxqReleaseWrite k f value => Sys2Proof.Machine.execCanRxqReleaseWrite k f value s
  | .ptmRequest value => Sys2Proof.Machine.execPtmRequest value s
  | .ptmIntervalExpiry => Sys2Proof.Machine.execPtmIntervalExpiry s
  | .ptmDialogComplete result => Sys2Proof.Machine.execPtmDialogComplete result s
  | .ptmHostLoRead requester => Sys2Proof.Machine.execPtmHostLoRead requester s
  | .loRegisterRead requester offset => Sys2Proof.Machine.execLoRegisterRead requester offset s
  | .rcRegisterRead offset => Sys2Proof.Machine.execRcRegisterRead offset s
  | .registerWrite offset value => Sys2Proof.Machine.execRegisterWrite offset value s
  | .hostLinkDown how => Sys2Proof.Machine.execHostLinkDown how s
  | .hubResetRelease bootsel => Sys2Proof.Machine.execHubResetRelease bootsel s
  | .startSequenceComplete report => Sys2Proof.Machine.execStartSequenceComplete report s
  | .resetAssert => Sys2Proof.Machine.execResetAssert s
  | .powerLoss => Sys2Proof.Machine.execPowerLoss s
  | .linkBoundary estopA estopB => Sys2Proof.Machine.execLinkBoundary estopA estopB s
  | .chainBoundary temps => Sys2Proof.Machine.execChainBoundary temps s
  | .furlongBoundary power => Sys2Proof.Machine.execFurlongBoundary power s
  | .opChangeSettled die => Sys2Proof.Machine.execOpChangeSettled die s
  | .linkCountCheck die count => Sys2Proof.Machine.execLinkCountCheck die count s
  | .runEntryAtMile => Sys2Proof.Machine.execRunEntryAtMile s
  | .syncAlignEdge cycles => Sys2Proof.Machine.execSyncAlignEdge cycles s
  | .syncAlignTimeout => Sys2Proof.Machine.execSyncAlignTimeout s
  | .syncInEdge cycle => Sys2Proof.Machine.execSyncInEdge cycle s
  | .syncLost => Sys2Proof.Machine.execSyncLost s
  | .ringFlitReceive seg dir flit lanes => Sys2Proof.Machine.execRingFlitReceive seg dir flit lanes s
  | .ringAck seg dir seq => Sys2Proof.Machine.execRingAck seg dir seq s
  | .ringNak seg dir seq => Sys2Proof.Machine.execRingNak seg dir seq s
  | .ringAckTimeout seg dir => Sys2Proof.Machine.execRingAckTimeout seg dir s
  | .ringCredit seg dir vc count => Sys2Proof.Machine.execRingCredit seg dir vc count s
  | .ringRetrainDone seg fwdUp revUp => Sys2Proof.Machine.execRingRetrainDone seg fwdUp revUp s
  | .ringLaneSpare seg dir scanFails => Sys2Proof.Machine.execRingLaneSpare seg dir scanFails s
  | .ringReadRequest vc src d ecc flips => Sys2Proof.Machine.execRingReadRequest vc src d ecc flips s
  | .ringWriteRequest vc src d data poison ecc => Sys2Proof.Machine.execRingWriteRequest vc src d data poison ecc s
  | .ringReadResponse d data poison => Sys2Proof.Machine.execRingReadResponse d data poison s
  | .ringWriteResponse d => Sys2Proof.Machine.execRingWriteResponse d s
  | .ringMessage d => Sys2Proof.Machine.execRingMessage d s
  | .peerAccess link slot offset len src write data => Sys2Proof.Machine.execPeerAccess link slot offset len src write data s
  | .plinkTrain link lanes far => Sys2Proof.Machine.execPlinkTrain link lanes far s
  | .rowRemapDone die => Sys2Proof.Machine.execRowRemapDone die s
  | .dramRefresh die channel scanFails => Sys2Proof.Machine.execDramRefresh die channel scanFails s
  | .patrolScrubRead die ecc => Sys2Proof.Machine.execPatrolScrubRead die ecc s
  | .tmark core flips => Sys2Proof.Machine.execTmark core flips s
  | .halt core => Sys2Proof.Machine.execHalt core s
  | .mxm core gDesc gAct gWt gOut m n flips => Sys2Proof.Machine.execMxm core gDesc gAct gWt gOut m n flips s
  | .vop core gDesc flips => Sys2Proof.Machine.execVop core gDesc flips s
  | .gridld core grid gAddr => Sys2Proof.Machine.execGridld core grid gAddr s
  | .dma core channel gDesc flips => Sys2Proof.Machine.execDma core channel gDesc flips s
  | .dwait core mask => Sys2Proof.Machine.execDwait core mask s
  | .uwait core mask => Sys2Proof.Machine.execUwait core mask s
  | .sig core gRank sem => Sys2Proof.Machine.execSig core gRank sem s
  | .waits core sem gCount => Sys2Proof.Machine.execWaits core sem gCount s
  | .live core entry gBase gLen => Sys2Proof.Machine.execLive core entry gBase gLen s
  | .flagrd core gD => Sys2Proof.Machine.execFlagrd core gD s
  | .rankdpa core gD gRank => Sys2Proof.Machine.execRankdpa core gD gRank s
  | .tsrd core gD => Sys2Proof.Machine.execTsrd core gD s
  | .scalarInstruction core op flips => Sys2Proof.Machine.execScalarInstruction core op flips s
  | .matrixInstructionComplete core flips => Sys2Proof.Machine.execMatrixInstructionComplete core flips s
  | .vectorInstructionComplete core flips => Sys2Proof.Machine.execVectorInstructionComplete core flips s
  | .dmaDescriptorComplete core channel flips => Sys2Proof.Machine.execDmaDescriptorComplete core channel flips s
  | .tileTimerExpiry core => Sys2Proof.Machine.execTileTimerExpiry core s
  | .contextSaveDone core => Sys2Proof.Machine.execContextSaveDone core s
  | .contextRestoreDone core => Sys2Proof.Machine.execContextRestoreDone core s
  | .bankMigrationDone core flips => Sys2Proof.Machine.execBankMigrationDone core flips s
  | .selftestVector die phys result => Sys2Proof.Machine.execSelftestVector die phys result s
  | .ftLookup index pool requester => Sys2Proof.Machine.execFtLookup index pool requester s
  | .ftRelease x => Sys2Proof.Machine.execFtRelease x s
  | .ftRefAdd index n => Sys2Proof.Machine.execFtRefAdd index n s
  | .ftRefSub index => Sys2Proof.Machine.execFtRefSub index s
  | .ftCas index expected new => Sys2Proof.Machine.execFtCas index expected new s
  | .ftAlloc die pool state => Sys2Proof.Machine.execFtAlloc die pool state s
  | .kvWriteResolution ctx x => Sys2Proof.Machine.execKvWriteResolution ctx x s
  | .swapOutFrameDone index ok => Sys2Proof.Machine.execSwapOutFrameDone index ok s
  | .swapInFrameDone index ok data => Sys2Proof.Machine.execSwapInFrameDone index ok data s
  | .swapReadRetry index ok data => Sys2Proof.Machine.execSwapReadRetry index ok data s
  | .compactionMove x => Sys2Proof.Machine.execCompactionMove x s
  | .chainGuardStart => Sys2Proof.Machine.execChainGuardStart s
  | .schSwitchDecision => Sys2Proof.Machine.execSchSwitchDecision s
  | .saveDeadlineExpiry core => Sys2Proof.Machine.execSaveDeadlineExpiry core s
  | .jobPlacement part => Sys2Proof.Machine.execJobPlacement part s
  | .rowEventRelease ev => Sys2Proof.Machine.execRowEventRelease ev s
  | .rowEventSelftest ev => Sys2Proof.Machine.execRowEventSelftest ev s
  | .selftestSlotEnd part => Sys2Proof.Machine.execSelftestSlotEnd part s
  | .rowEventBgdWindow ev => Sys2Proof.Machine.execRowEventBgdWindow ev s
  | .bgdWindowEnd => Sys2Proof.Machine.execBgdWindowEnd s
  | .periodicRelease ctx tag => Sys2Proof.Machine.execPeriodicRelease ctx tag s
  | .budgetExpiry ctx tag => Sys2Proof.Machine.execBudgetExpiry ctx tag s
  | .jobDeadlineExpiry ctx tag => Sys2Proof.Machine.execJobDeadlineExpiry ctx tag s
  | .csiFrameStart port vc ecc => Sys2Proof.Machine.execCsiFrameStart port vc ecc s
  | .csiLongPacket port vc dt payload ecc crcOk => Sys2Proof.Machine.execCsiLongPacket port vc dt payload ecc crcOk s
  | .csiFrameEnd port vc ecc => Sys2Proof.Machine.execCsiFrameEnd port vc ecc s
  | .csiPacketDiscard port header => Sys2Proof.Machine.execCsiPacketDiscard port header s
  | .pipeAssign => Sys2Proof.Machine.execPipeAssign s
  | .sampleResolved stream seq writeOk => Sys2Proof.Machine.execSampleResolved stream seq writeOk s
  | .decodeBudgetExpiry stream seq => Sys2Proof.Machine.execDecodeBudgetExpiry stream seq s
  | .pipeCheckFrameDone pipe ok => Sys2Proof.Machine.execPipeCheckFrameDone pipe ok s
  | .downFrameSend => Sys2Proof.Machine.execDownFrameSend s
  | .upFrameReceive line bytes => Sys2Proof.Machine.execUpFrameReceive line bytes s
  | .upCommaWindowClose line seen => Sys2Proof.Machine.execUpCommaWindowClose line seen s
  | .upFrameDeadline => Sys2Proof.Machine.execUpFrameDeadline s
  | .frontStageStart => Sys2Proof.Machine.execFrontStageStart s
  | .solveStageStart memoryError => Sys2Proof.Machine.execSolveStageStart memoryError s
  | .resultHandoff => Sys2Proof.Machine.execResultHandoff s
  | .stageDeadlineMiss solve => Sys2Proof.Machine.execStageDeadlineMiss solve s
  | .clusterCheck cluster ok => Sys2Proof.Machine.execClusterCheck cluster ok s
  | .solverMemoryRewrite => Sys2Proof.Machine.execSolverMemoryRewrite s
  | .holdLimitReached => Sys2Proof.Machine.execHoldLimitReached s
  | .assizeFirstPart => Sys2Proof.Machine.execAssizeFirstPart s
  | .assizeCheck => Sys2Proof.Machine.execAssizeCheck s
  | .assizeDeadlineMiss => Sys2Proof.Machine.execAssizeDeadlineMiss s
  | .assizeCopyCheck flips => Sys2Proof.Machine.execAssizeCopyCheck flips s
  | .assizeCopyReload => Sys2Proof.Machine.execAssizeCopyReload s
  | .watchdogWindowClose w => Sys2Proof.Machine.execWatchdogWindowClose w s
  | .lockstepMismatch pair => Sys2Proof.Machine.execLockstepMismatch pair s
  | .heartbeatLoss pair => Sys2Proof.Machine.execHeartbeatLoss pair s
  | .estopChannelAssert ch => Sys2Proof.Machine.execEstopChannelAssert ch s
  | .estopChannelDeassert ch => Sys2Proof.Machine.execEstopChannelDeassert ch s
  | .estopDiscrepancy => Sys2Proof.Machine.execEstopDiscrepancy s
  | .estopClear => Sys2Proof.Machine.execEstopClear s
  | .safeStateEntry => Sys2Proof.Machine.execSafeStateEntry s
  | .torqueOffPhaseStart => Sys2Proof.Machine.execTorqueOffPhaseStart s
  | .safeReleaseEffect => Sys2Proof.Machine.execSafeReleaseEffect s
  | .clockFault => Sys2Proof.Machine.execClockFault s
  | .supplyFault x => Sys2Proof.Machine.execSupplyFault x s
  | .safetyParamsLost => Sys2Proof.Machine.execSafetyParamsLost s
  | .canFrameReceive k frame => Sys2Proof.Machine.execCanFrameReceive k frame s
  | .canArbitration k => Sys2Proof.Machine.execCanArbitration k s
  | .canFrameTransmitted k loopDelay => Sys2Proof.Machine.execCanFrameTransmitted k loopDelay s
  | .canBusOff k => Sys2Proof.Machine.execCanBusOff k s
  | .canBusOffRecovered k => Sys2Proof.Machine.execCanBusOffRecovered k s
  | .canStuckDominant k => Sys2Proof.Machine.execCanStuckDominant k s
  | .canTxTimeout k => Sys2Proof.Machine.execCanTxTimeout k s
  | .canModeChangeEffect k => Sys2Proof.Machine.execCanModeChangeEffect k s
  | .canFilterBankSwitch k => Sys2Proof.Machine.execCanFilterBankSwitch k s
  | .canRecoveryPauseTimeout => Sys2Proof.Machine.execCanRecoveryPauseTimeout s
  | .wearRecordWrite => Sys2Proof.Machine.execWearRecordWrite s
  | .retainedIdleEntered => Sys2Proof.Machine.execRetainedIdleEntered s
  | .retainedIdleLeft => Sys2Proof.Machine.execRetainedIdleLeft s
  | .recorderFreeze => Sys2Proof.Machine.execRecorderFreeze s
  | .replayEvent => Sys2Proof.Machine.execReplayEvent s
  | .hostLinkUp width rate ptm => Sys2Proof.Machine.execHostLinkUp width rate ptm s
  | .csiPortLinkUp port lanes => Sys2Proof.Machine.execCsiPortLinkUp port lanes s
  | .csiPortLinkDown port => Sys2Proof.Machine.execCsiPortLinkDown port s
  | .canBusError k err => Sys2Proof.Machine.execCanBusError k err s
  | .canIntegrateAgain k => Sys2Proof.Machine.execCanIntegrateAgain k s
  | .hostDmaReadCompletion ctx tag data => Sys2Proof.Machine.execHostDmaReadCompletion ctx tag data s
  | .flashOperationDone ok => Sys2Proof.Machine.execFlashOperationDone ok s

end Sys2Proof.Machine
end

