-- ==== Sys2Proof/Safety.lean ====
section
/-! DEFINITION. The terms in which claims are stated: a step that goes on, a host command that starts, what only a
completion touches, and what a run keeps. -/

namespace Sys2Proof.Safety

open Sys2Proof.Machine

/-- A step goes on: it answers a next state. -/
def Goes (o : Host.Outcome State Fault Refusal) : Prop := ∃ t, o = .next t

/-- The state that a step answers, where it answers one. -/
def nextOf : Host.Outcome State Fault Refusal → Option State
  | .next t => some t
  | _ => none

/-- The command is of this row, is the next of its ring to start with its fence satisfied (R423, R425), and nothing
turns it away before its own rule answers: the hub runs (R523), its deadline has not passed (R427; JOB.SUBMIT
follows R365), it names nothing of another context (R413), and retained idle does not refuse it (R525). -/
def Starts (fam op : Nat) (c : Cmd) (s : State) : Prop :=
  c.family = fam ∧ c.operation = op ∧ s.startable c = true ∧ s.hubDead = false ∧
    (s.deadlinePassed c.deadline = false ∨ (fam = 3 ∧ op = 1)) ∧ s.deniedNames c = false ∧
    s.retainedRefuses c = false

/-- The state in which the command's own rule answers: its slot is marked as started. -/
def begun (c : Cmd) (s : State) : State :=
  s.onCtx c.ring fun x => { x with slots := markStarted x.slots }

/-- Every block is as it was but those that a completion touches: the host link with its rings, the memory that
holds them, the injection slots (completions are a target, R538), CAN 0 (which carries the answers of R486) and the
model's count of free draws. -/
def KeepsBlocks (s t : State) : Prop :=
  t.pending = s.pending ∧ t.starts = s.starts ∧ t.pins = s.pins ∧ t.tb = s.tb ∧ t.dev = s.dev ∧ t.ring = s.ring ∧
    t.cores = s.cores ∧ t.dram = s.dram ∧ t.kv = s.kv ∧ t.sch = s.sch ∧ t.sol = s.sol ∧ t.jl = s.jl ∧
    t.asz = s.asz ∧ t.itk = s.itk ∧ t.fw = s.fw ∧ t.spr = s.spr ∧ t.pwr = s.pwr ∧ t.recd = s.recd

/-- Every table of the device has the size the manual gives it: contexts (R411), peer windows (R67), physical and
logical cores (R130), stacks, CAN controllers, injection slots (R538), segments (R38), P-links (R64), lines, nodes
and node table (R283, R300), ports, streams, profiles and pipes (R260, R263, R269, R271), watchdogs (R387), and the
lists of the power controller (R516, R518). -/
def Shaped (s : State) : Prop :=
  (s.hl.ctxs.length = 256 ∧ s.hl.windows.length = 64) ∧
  (s.cores.phys.length = 72 ∧ s.cores.map.length = 64) ∧
  s.dram.length = 4 ∧ s.can.length = 4 ∧ s.fi.length = 16 ∧
  (s.ring.segs.length = 5 ∧ s.ring.plinks.length = 2) ∧
  (s.jl.lines.length = 16 ∧ s.jl.nodes.length = 64 ∧ s.jl.table.length = 64) ∧
  (s.itk.ports.length = 8 ∧ s.itk.streams.length = 16 ∧ s.itk.profiles.length = 16 ∧ s.itk.pipes.length = 5) ∧
  s.asz.watchdogs.length = 64 ∧
  (s.pwr.op.length = 4 ∧ s.pwr.settling.length = 4 ∧ s.pwr.parked.length = 4 ∧ s.pwr.off.length = 4 ∧
    s.pwr.therm.length = 5)

/-- Bytes have been carried by hub DMA: nothing has changed but memory, the ring that carries them, the requests of the
host link, and the model's count of free draws with the instant they give. -/
def OnlyCarried (s t : State) : Prop :=
  t = { s with
    mem := t.mem, ring := t.ring, free := t.free, instant := t.instant
    hl := { s.hl with reqs := t.hl.reqs, reqTurn := t.hl.reqTurn, granted := t.hl.granted } }

/-- Every block stands at its reset values; only the host's memory, the flash and the recorder's copy in flash keep
their contents (R548, R562, R564). A flash operation or a loader's copy that the reset broke off is not kept. -/
def InReset (s t : State) : Prop :=
  t.dev = State.reset.dev ∧ t.tb = State.reset.tb ∧ t.hl = State.reset.hl ∧ t.asz = State.reset.asz ∧
    t.pins = State.reset.pins ∧ t.sch = State.reset.sch ∧ t.kv = State.reset.kv ∧ t.cores = State.reset.cores ∧
    t.dram = State.reset.dram ∧ t.ring = State.reset.ring ∧ t.sol = State.reset.sol ∧ t.jl = State.reset.jl ∧
    t.itk = State.reset.itk ∧ t.can = State.reset.can ∧ t.spr = State.reset.spr ∧ t.pwr = State.reset.pwr ∧
    t.fi = State.reset.fi ∧ t.mem.poison = [] ∧ t.mem.badParity = [] ∧
    (∀ a, isHost a = true → t.byteAt a = s.byteAt a) ∧
    (s.fw.op = none → s.dev.mode ≠ .start → t.fw.flash = s.fw.flash ∧ t.fw.staging = s.fw.staging) ∧
    t.recd.flashCopy = s.recd.flashCopy

/-- No fault-injection slot is armed and none holds a unit back (R538). -/
def Uninjected (s : State) : Prop := s.fi.all (fun j => !j.armed && j.held.isNone) = true

/-- Everything is as it was but the physical core that a logical core stands on and the model's count of free draws
with the instant they give. -/
def OnlyCore (g : Nat) (s t : State) : Prop :=
  t = { s with cores := { s.cores with phys := t.cores.phys }, free := t.free, instant := t.instant } ∧
    ∀ h, s.physOf h ≠ s.physOf g → t.core h = s.core h

end Sys2Proof.Safety
end

