-- ==== Sys2Proof/Certificates/Slice0/Obligations.lean ====
section
/-! DEFINITION. The statements for the provers, grouped by the chapters of the manual. A statement of a command's
result is an equation with the next state, or names the next state and says what it holds; `Starts` gives the
conditions under which the command's own rule answers, and `begun` the state in which it does. -/

open Sys2Proof Sys2Proof.Machine Sys2Proof.Safety

/-- A step takes the command at the front of the queue and runs it on the state with the rest of the queue. -/
def Obligations.StepRunsTheFrontCommand : Prop :=
  ∀ (c : Instr) (s : State), step { s with pending := c :: s.pending } = exec c s

/-- The model's choice (log 13): with no command waiting, any number of steps leaves the state as it is. -/
def Obligations.EmptyQueueIdles : Prop :=
  ∀ (s : State) (k : Nat), s.pending = [] → Host.Core.run Sys2Proof.core k s = .next s

/-- Whole machine: every command of the table completes in every state, and changes nothing of the queue. -/
def Obligations.ExecLeavesTheQueue : Prop :=
  ∀ (c : Instr) (s : State), ∃ t : State, exec c s = .next t ∧ t.pending = s.pending

/-- Whole machine: the memory's canonical form is kept by every step, whatever command stands in front. -/
def Obligations.MemoryStaysCanonical : Prop :=
  ∀ s t : State, s.mem.wf = true → step s = .next t → t.mem.wf = true

/-- Whole machine: no command makes a table of the device longer or shorter. -/
def Obligations.TablesKeepTheirSizes : Prop :=
  ∀ s t : State, Shaped s → step s = .next t → Shaped t

/-- The state after reset is canonical and well shaped, with no command waiting. -/
def Obligations.ResetMeetsTheInvariants : Prop :=
  State.reset.mem.wf = true ∧ Shaped State.reset ∧ State.reset.pending = []

/-- Whole machine: LINK_COUNT changes at a link boundary only, by one, and falls back only into reset. -/
def Obligations.LinkCountStepsByOne : Prop :=
  ∀ (c : Instr) (s t : State), exec c s = .next t →
    t.tb.link = s.tb.link ∨
      (t.tb.link = s.tb.link + 1 ∧ ((∃ a b, c = .linkBoundary a b) ∨ ∃ k, c = .syncAlignEdge k)) ∨
      (t.dev.inReset = true ∧ t.tb.link = 0)

/-- Whole machine: outside the requests, the start and the resets, the only mode change is RUN to DEGRADED. -/
def Obligations.OnlyNamedCommandsChangeTheMode : Prop :=
  ∀ (c : Instr) (s t : State), exec c s = .next t →
    (∀ x, c ≠ .devMode x) → c ≠ .runEntryAtMile → (∀ k, c ≠ .syncAlignEdge k) →
    (∀ r, c ≠ .startSequenceComplete r) → (∀ b, c ≠ .hubResetRelease b) → c ≠ .resetAssert → c ≠ .powerLoss →
    (∀ v, c ≠ .devResetWrite v) →
    t.dev.mode = s.dev.mode ∨ (s.dev.mode = .run ∧ t.dev.mode = .degraded)

/-- Whole machine: a safe state once decided is left only by its release, by DEV.MODE, or through reset. -/
def Obligations.SafeStateEndsOnlyWhereNamed : Prop :=
  ∀ (c : Instr) (s t : State), exec c s = .next t → s.asz.safe = true →
    c ≠ .safeReleaseEffect → (∀ x, c ≠ .devMode x) → c ≠ .resetAssert → c ≠ .powerLoss → (∀ v, c ≠ .devResetWrite v) →
    t.asz.safe = true

/-- Whole machine: only a start brings a halted pair back. -/
def Obligations.LostPairStaysLost : Prop :=
  ∀ (c : Instr) (s t : State), exec c s = .next t → c ≠ .resetAssert → c ≠ .powerLoss → (∀ v, c ≠ .devResetWrite v) →
    (s.asz.pairAOk = false → t.asz.pairAOk = false) ∧ (s.asz.pairBOk = false → t.asz.pairBOk = false)

/-- R6, R433, R489: what DEV.INFO and an allowed DEV.MODE do. A request for RUN that finds one waiting joins it, and a
change to TEST or REPLAY ends the request that waits (the model's choices, log 39). -/
def Obligations.DevInfoAndModeComplete : Prop :=
  (∀ (c : Cmd) (s : State), Starts 1 1 c s →
    exec (.devInfo c) s = .next ((begun c s).complete c (if s.fw.cfgDefaulted then stCfgDefaulted else stOk)
      (s.fw.version + 2 ^ 32 * (Config.hwRevision % 65536)) s.coreMask
      (packWord [(0, s.dev.mode.code), (8, (begun c s).openCount % 256), (16, bit01 s.fw.cfgDefaulted),
        (17, bit01 s.fw.wearRebuilt)]))) ∧
  (∀ (c : Cmd) (s : State), Starts 1 2 c s → s.dev.mode ≠ .start →
    (c.word 0 % 16 = s.dev.mode.code ∨ (c.word 0 % 16 = 1 ∧ s.dev.mode = .degraded)) →
    exec (.devMode c) s = .next ((begun c s).complete c stOk s.dev.mode.code)) ∧
  (∀ (c : Cmd) (s : State), Starts 1 2 c s → s.dev.mode = .config → c.word 0 % 16 = 3 →
    ∃ u : State, exec (.devMode c) s = .next (u.complete c stOk 0) ∧ u.dev.mode = .test ∧ u.asz = s.asz ∧
      u.tb.runReq = none ∧ u.tb.link = s.tb.link ∧ u.tb.mile = s.tb.mile) ∧
  (∀ (c : Cmd) (s : State), Starts 1 2 c s → s.dev.mode = .config → c.word 0 % 16 = 5 →
    ∃ u : State, exec (.devMode c) s = .next (u.complete c stOk 0) ∧ u.dev.mode = .replay ∧
      u.asz.disagreeLinks = [] ∧ u.tb.runReq = none ∧ u.tb.link = s.tb.link ∧ u.tb.mile = s.tb.mile) ∧
  (∀ (c : Cmd) (s : State), Starts 1 2 c s →
    (s.dev.mode = .run ∨ s.dev.mode = .degraded ∨ s.dev.mode = .test ∨ s.dev.mode = .replay) → c.word 0 % 16 = 0 →
    (s.asz.safe = true → s.asz.torqueOff = true) →
    ∃ u : State, exec (.devMode c) s = .next (u.complete c stOk s.dev.mode.code) ∧ u.dev.mode = .config ∧
      u.asz.safe = false ∧ u.tb.link = s.tb.link ∧ u.tb.mile = s.tb.mile) ∧
  (∀ (c : Cmd) (s : State), Starts 1 2 c s → s.dev.mode = .config → s.tb.runReq = none → c.word 0 % 16 = 1 →
    (begun c s).runStatus = stOk →
    ∃ t : State, exec (.devMode c) s = .next t ∧ t.dev.mode = .config ∧
      t.tb.runReq = some { ring := c.ring, tag := c.tag, link := s.tb.link, sync := bitAt s.tb.syncCtrl 0, previous := 0 } ∧
      t.tb.camHeld = bitAt s.tb.syncCtrl 0 ∧ t.hl.opens = s.hl.opens ++ [{ cmd := c, wait := .runEntry }]) ∧
  (∀ (c : Cmd) (s : State), Starts 1 2 c s → s.dev.mode = .config → s.tb.runReq ≠ none → c.word 0 % 16 = 1 →
    (begun c s).runStatus = stOk → exec (.devMode c) s = .next ((begun c s).await c .runEntry))

/-- R6, R404: the requests that DEV.MODE turns away. -/
def Obligations.DevModeRefusals : Prop :=
  (∀ (c : Cmd) (s : State), Starts 1 2 c s → 6 ≤ c.word 0 % 16 →
    exec (.devMode c) s = .next ((begun c s).complete c stBadParam s.dev.mode.code)) ∧
  (∀ (c : Cmd) (s : State) (m : Mode), Starts 1 2 c s → c.word 0 % 16 = m.code → m = .degraded ∨ m = .recovery →
    s.dev.mode ≠ m → exec (.devMode c) s = .next ((begun c s).complete c stMode s.dev.mode.code)) ∧
  (∀ (c : Cmd) (s : State), Starts 1 2 c s → s.dev.mode = .run ∨ s.dev.mode = .degraded →
    c.word 0 % 16 = 3 ∨ c.word 0 % 16 = 5 →
    exec (.devMode c) s = .next ((begun c s).complete c stMode s.dev.mode.code)) ∧
  (∀ (c : Cmd) (s : State), Starts 1 2 c s → s.dev.mode = .test ∨ s.dev.mode = .replay →
    c.word 0 % 16 = 1 ∨ c.word 0 % 16 = 3 ∨ c.word 0 % 16 = 5 → c.word 0 % 16 ≠ s.dev.mode.code →
    exec (.devMode c) s = .next ((begun c s).complete c stMode s.dev.mode.code)) ∧
  (∀ (c : Cmd) (s : State), Starts 1 2 c s → s.dev.mode = .config → c.word 0 % 16 = 1 →
    (begun c s).runStatus ≠ stOk → exec (.devMode c) s = .next ((begun c s).complete c (begun c s).runStatus 0)) ∧
  (∀ (c : Cmd) (s : State), Starts 1 2 c s → s.dev.mode = .run ∨ s.dev.mode = .degraded → c.word 0 % 16 = 0 →
    s.asz.safe = true → s.asz.torqueOff = false →
    exec (.devMode c) s = .next ((begun c s).complete c stSafeState s.dev.mode.code))

/-- R411, R412, R419: opening a context; R414: closing one that holds nothing. -/
def Obligations.ContextsOpenAndClose : Prop :=
  (∀ (c : Cmd) (s : State) (k : Nat), Starts 1 3 c s → Shaped s → (begun c s).freeCtx = some k →
    ctxBlockBad c.data = false →
    ∃ u : State, exec (.devContextOpen c) s = .next (u.complete c stOk k) ∧ 1 ≤ k ∧ k < 256 ∧
      (u.ctx k).isOpen = true ∧ (u.ctx k).sqAddr = fieldAt c.data 0 8 ∧ (u.ctx k).cqAddr = fieldAt c.data 8 8 ∧
      (u.ctx k).sqLog = fieldAt c.data 16 1 ∧ (u.ctx k).cqLog = fieldAt c.data 17 1 ∧
      (u.ctx k).vector = fieldAt c.data 18 1 ∧ (u.ctx k).sqHead = 0 ∧ (u.ctx k).sqTail = 0 ∧
      (u.ctx k).cqHead = 0 ∧ (u.ctx k).cqTail = 0 ∧ (u.ctx k).phase = true ∧
      (∀ j, 1 ≤ j → j < k → (s.ctx j).isOpen = true) ∧ (∀ j, j ≠ k → u.ctx j = (begun c s).ctx j)) ∧
  (∀ (c : Cmd) (s : State) (k : Nat), Starts 1 4 c s → Shaped s → c.word 0 % 256 = k → k ≠ 0 → c.ring ≠ k →
    (s.ctx k).isOpen = true → (s.ctx k).closing = false → (s.ctx k).slots = [] →
    (s.sch.jobs.all fun j => j.key.ctx ≠ k) = true → (s.kv.seqs.all fun q => q.ctx ≠ k) = true →
    ∃ t : State, exec (.devContextClose c) s = .next t ∧ (t.ctx k).isOpen = false ∧
      ∀ a ∈ t.hl.allocs, a.firmware = true ∨ a.ctx ≠ k) ∧
  (∀ (c : Cmd) (s : State), Starts 1 3 c s →
    ((begun c s).freeCtx = none → exec (.devContextOpen c) s = .next ((begun c s).complete c stLimit)) ∧
    ((begun c s).freeCtx ≠ none → ctxBlockBad c.data = true →
      exec (.devContextOpen c) s = .next ((begun c s).complete c stBadParam))) ∧
  (∀ (c : Cmd) (s : State) (k : Nat), Starts 1 4 c s → c.word 0 % 256 = k →
    (k = 0 ∨ (s.ctx k).isOpen = false →
      exec (.devContextClose c) s = .next ((begun c s).complete c stBadParam)) ∧
    (k ≠ 0 → (s.ctx k).isOpen = true → (s.ctx k).closing = true →
      exec (.devContextClose c) s = .next ((begun c s).complete c stBusy)) ∧
    (k ≠ 0 → (s.ctx k).isOpen = true → (s.ctx k).closing = false → exec (.devContextClose c) s =
      .next ((((begun c s).startClose k).await c (.contextClose k)).settleClose k)))

/-- R493 to R495: where the records go, and what is refused. -/
def Obligations.IdentityAndAttestationWriteTheirRecords : Prop :=
  (∀ (c : Cmd) (s : State), Starts 1 5 c s →
    let out := identityHead ++ Config.certChain
    out.length ≤ c.word 2 →
    (if s.dev.mode = .recovery then inHost (c.addr 0) out.length else (begun c s).dmaRange (c.addr 0) out.length) = true →
    s.writePoisoned (c.addr 0) out.length = false →
    ∃ u : State, exec (.devIdentity c) s = .next (u.complete c stOk out.length) ∧
      u.mem = (s.write (c.addr 0) out).mem ∧ OnlyCarried (begun c s) u) ∧
  (∀ (c : Cmd) (s : State), Starts 1 6 c s → s.fw.keyMatches = true → 352 ≤ c.word 2 →
    let m := (begun c s).statement c.data ++ Config.deviceSign ((begun c s).statement c.data)
    (if s.dev.mode = .recovery then inHost (c.addr 0) m.length else (begun c s).dmaRange (c.addr 0) m.length) = true →
    s.writePoisoned (c.addr 0) m.length = false →
    ∃ u : State, exec (.devAttest c) s = .next ((u.complete c stOk 352).bump) ∧
      u.mem = (s.write (c.addr 0) m).mem ∧ OnlyCarried (begun c s) u) ∧
  (∀ (c : Cmd) (s : State), Starts 1 5 c s → c.word 2 < (identityHead ++ Config.certChain).length →
    exec (.devIdentity c) s = .next ((begun c s).complete c stLimit)) ∧
  (∀ (c : Cmd) (s : State), Starts 1 5 c s → let out := identityHead ++ Config.certChain
    let reach := if s.dev.mode = .recovery then inHost (c.addr 0) out.length else (begun c s).dmaRange (c.addr 0) out.length
    out.length ≤ c.word 2 →
    (reach = false → exec (.devIdentity c) s = .next ((begun c s).complete c stBadParam)) ∧
    (reach = true → s.writePoisoned (c.addr 0) out.length = true →
      ∃ u : State, exec (.devIdentity c) s = .next (u.complete c stMemPoison))) ∧
  (∀ (c : Cmd) (s : State), Starts 1 6 c s → s.fw.keyMatches = true → 352 ≤ c.word 2 →
    let m := (begun c s).statement c.data ++ Config.deviceSign ((begun c s).statement c.data)
    let reach := if s.dev.mode = .recovery then inHost (c.addr 0) m.length else (begun c s).dmaRange (c.addr 0) m.length
    (reach = false → exec (.devAttest c) s = .next (((begun c s).complete c stBadParam).bump)) ∧
    (reach = true → s.writePoisoned (c.addr 0) m.length = true →
      ∃ u : State, exec (.devAttest c) s = .next ((u.complete c stMemPoison).bump))) ∧
  (∀ (c : Cmd) (s : State), Starts 1 6 c s → s.fw.keyMatches = false →
    exec (.devAttest c) s = .next ((begun c s).complete c stFwSignature)) ∧
  (∀ (c : Cmd) (s : State), Starts 1 6 c s → s.fw.keyMatches = true → c.word 2 < 352 →
    exec (.devAttest c) s = .next ((begun c s).complete c stLimit))

/-- R415, R418, R420: submission and completion doorbells. -/
def Obligations.DoorbellsMoveTheirRings : Prop :=
  (∀ (s : State) (k v : Nat) (host : List HostRun), Shaped s → k < 256 → (s.ctx k).isOpen = true →
    v < 2 ^ (s.ctx k).sqLog →
    ∃ t : State, exec (.sqDoorbell k v host) s = .next t ∧ t.ctx k = { s.ctx k with sqTail := v } ∧
      (∀ j, j ≠ k → t.ctx j = s.ctx j) ∧ t.mem = (s.hostRuns host).mem ∧ KeepsBlocks s t) ∧
  (∀ (s : State) (k v : Nat) (host : List HostRun), Shaped s → k < 256 →
    (s.ctx k).isOpen = false ∨ 2 ^ (s.ctx k).sqLog ≤ v →
    ∃ t : State, exec (.sqDoorbell k v host) s = .next t ∧ t.ctx k = { s.ctx k with dbError := true } ∧
      (∀ j, j ≠ k → t.ctx j = s.ctx j) ∧ t.mem = (s.hostRuns host).mem ∧ KeepsBlocks s t) ∧
  (∀ (s : State) (k v : Nat), Shaped s → k < 256 → (s.ctx k).isOpen = true → v < 2 ^ (s.ctx k).cqLog →
    (s.ctx k).waiting = [] →
    ∃ t : State, exec (.cqDoorbell k v) s = .next t ∧
      t.ctx k = { s.ctx k with cqHead := v, msgSent := false, stalled := false } ∧
      (∀ j, j ≠ k → t.ctx j = s.ctx j) ∧ t.mem = s.mem ∧ KeepsBlocks s t) ∧
  (∀ (s : State) (k v : Nat), Shaped s → k < 256 → (s.ctx k).isOpen = false ∨ 2 ^ (s.ctx k).cqLog ≤ v →
    ∃ t : State, exec (.cqDoorbell k v) s = .next t ∧ t.ctx k = { s.ctx k with dbError := true } ∧
      (∀ j, j ≠ k → t.ctx j = s.ctx j) ∧ t.mem = s.mem ∧ KeepsBlocks s t)

/-- R416, R417, R422: taking a command of a ring, which passes every check or completes with its status; R427: a
command whose deadline passed. -/
def Obligations.CommandsAreTakenInTurn : Prop :=
  (∀ (s : State) (k : Nat), Shaped s → s.dev.fwReady = true → s.hl.linkUp = true → s.hubDead = false →
    s.turn = some k →
    let h := s.headHeader k
    let c : Cmd := { h with data := if bitAt h.flags 2 then s.inlineBytes k h.length else s.payloadBytes h }
    cmdEntries h ≤ 2 ^ (s.ctx k).sqLog - 1 →
    s.takeStatus c = stOk →
    ∃ t : State, exec .commandTake s = .next t ∧ t.hl.rr = (k + 1) % 256 ∧
      t.ctx k = { s.ctx k with
        sqHead := ((s.ctx k).sqHead + cmdEntries h) % 2 ^ (s.ctx k).sqLog
        slots := (s.ctx k).slots ++ [{ cmd := c, seq := (s.ctx k).nextSeq, state := .waiting }]
        nextSeq := (s.ctx k).nextSeq + 1 } ∧
      (∀ j, j ≠ k → t.ctx j = s.ctx j) ∧ t.mem.cells = s.mem.cells) ∧
  (∀ (s : State) (k : Nat), s.dev.fwReady = true → s.hl.linkUp = true → s.hubDead = false → s.turn = some k →
    exec .commandTake s = .next ((s.onHl fun h => { h with rr := (k + 1) % 256 }).takeFrom k)) ∧
  (∀ s : State, s.dev.fwReady = false ∨ s.hl.linkUp = false ∨ s.hubDead = true ∨ s.turn = none →
    exec .commandTake s = .next s) ∧
  (∀ (s : State) (c : Cmd), Shaped s → c.ring < 256 → let t := s.enterCommand c
    (s.takeStatus c = stOk → t.mem = s.mem ∧ t.ctx c.ring = (s.ctx c.ring).enter c .waiting) ∧
    (s.takeStatus c ≠ stOk → ∃ u : State, t = u.produce c.ring { seq := (s.ctx c.ring).nextSeq, tag := c.tag
                                                                 status := s.takeStatus c, opcode := c.opcode } ∧
      u.ctx c.ring = (s.ctx c.ring).enter c .completing ∧ u.mem = s.mem)) ∧
  (∀ (s : State) (k : Nat), ((s.ctx k).slots.find? fun x => x.state = .waiting && s.deadlinePassed x.cmd.deadline &&
      !(x.cmd.family = 3 && x.cmd.operation = 1)) = none →
    exec (.commandStartDeadlineExpiry k) s = .next s) ∧
  (∀ (s : State) (k : Nat) (sl : Slot),
    ((s.ctx k).slots.find? fun x => x.state = .waiting && s.deadlinePassed x.cmd.deadline &&
      !(x.cmd.family = 3 && x.cmd.operation = 1)) = some sl →
    ∃ u : State, exec (.commandStartDeadlineExpiry k) s = .next (u.produce k
        { seq := sl.seq, tag := sl.cmd.tag, status := 8, opcode := sl.cmd.opcode }) ∧ u.mem = s.mem ∧
      KeepsBlocks s u)

/-- R428, R418, R419, R424: the entry of a completion, its place, and what else changes. -/
def Obligations.CompletionIsWrittenOnce : Prop :=
  ∀ (s : State) (c : Cmd) (sl : Slot) (st r0 r1 r2 : Nat),
    let x := s.ctx c.ring
    let t := s.complete c st r0 r1 r2
    Shaped s → Uninjected s → c.ring < 256 → x.isOpen = true → x.closing = false → x.waiting = [] → x.cqRoom = true →
    s.hl.linkUp = true → x.slots = [sl] → sl.cmd = c → sl.state = .started → x.muteBelow ≤ sl.seq →
    (let e := entryBytes
        { seq := sl.seq, tag := c.tag, status := st, opcode := c.opcode, res0 := r0, res1 := r1, res2 := r2 }
        s.tsNow x.sqHead x.phase
     e.length = 64 ∧ t.mem.cells = cellsPut s.mem.cells (x.cqAddr + 64 * x.cqTail) e) ∧
    (t.ctx c.ring).slots = [] ∧ (t.ctx c.ring).waiting = [] ∧
    (t.ctx c.ring).cqTail = (x.cqTail + 1) % 2 ^ x.cqLog ∧
    (t.ctx c.ring).phase = (if (x.cqTail + 1) % 2 ^ x.cqLog = 0 then !x.phase else x.phase) ∧
    (∀ j, j ≠ c.ring → t.ctx j = s.ctx j) ∧ KeepsBlocks s t

/-- R548, R562 to R564, R10, R471, R472. -/
def Obligations.ResetsAndStart : Prop :=
  (∀ s : State, ∃ t : State, exec .resetAssert s = .next t ∧ InReset s t) ∧
  (∀ s : State, ∃ t : State, exec .powerLoss s = .next t ∧ InReset s t) ∧
  (∀ (s : State) (v : Nat), v % 2 ^ 32 = 0xA5A50001 → s.dev.mode ≠ .run → s.dev.mode ≠ .degraded →
    s.dev.mode ≠ .replay → s.asz.safe = false → ∃ t : State, exec (.devResetWrite v) s = .next t ∧ InReset s t) ∧
  (∀ (s : State) (v : Nat), v % 2 ^ 32 ≠ 0xA5A50001 ∨ s.dev.mode = .run ∨ s.dev.mode = .degraded ∨
      s.dev.mode = .replay ∨ s.asz.safe = true → exec (.devResetWrite v) s = .next s) ∧
  (∀ (s : State) (b : Nat), s.dev.inReset = true →
    ∃ t : State, exec (.hubResetRelease b) s = .next t ∧ t.dev.inReset = false ∧ t.dev.mode = .start ∧
      t.dev.bootsel = b % 4 ∧ t.tb = s.tb ∧ t.starts = s.starts + 1 ∧ t.mem = s.mem ∧ t.asz = s.asz) ∧
  (∀ (s : State) (r : StartReport), s.dev.inReset = false → s.dev.mode = .start →
    s.dev.bootsel = 1 ∨ s.dev.bootsel = 2 ∨ r.loaderOk = false →
    ∃ t : State, exec (.startSequenceComplete r) s = .next t ∧ t.dev.mode = .recovery ∧ t.dev.fwReady = true ∧
      t.fw.recoveryReason = (if s.dev.bootsel = 1 ∨ s.dev.bootsel = 2 then 1 else 2) ∧ t.mem = s.mem) ∧
  (∀ (s : State) (r : StartReport), s.dev.inReset = false → s.dev.mode = .start →
    s.dev.bootsel = 0 ∨ s.dev.bootsel = 3 → r.loaderOk = true → r.imageOk = false → r.imageOkAfterCopy = false →
    ∃ t : State, exec (.startSequenceComplete r) s = .next t ∧ t.dev.mode = .recovery ∧ t.dev.fwReady = true ∧
      t.fw.recoveryReason = 3 ∧ t.mem = s.mem) ∧
  (∀ (s : State) (r : StartReport), s.dev.inReset = false → s.dev.mode = .start →
    s.dev.bootsel = 0 ∨ s.dev.bootsel = 3 → r.loaderOk = true → r.imageOk = true →
    ∃ t : State, exec (.startSequenceComplete r) s = .next t ∧
      t.dev.mode = (if s.dev.bootsel = 3 then .test else .config) ∧ t.dev.fwReady = true ∧ t.dev.inReset = false)

/-- R550 to R552. -/
def Obligations.ContextZeroOpensByItsRegister : Prop :=
  (∀ (s : State) (v : Nat), Shaped s → bitAt s.hl.ctx0Cfg 31 = false →
    ctx0Ok s.hl.ctx0Sq s.hl.ctx0Cq ((v ||| 0x80000000) &&& 0x00FFFFFF) = true →
    ∃ t : State, exec (.ctx0Enable v) s = .next t ∧ (t.ctx 0).isOpen = true ∧ (t.ctx 0).sqAddr = s.hl.ctx0Sq ∧
      (t.ctx 0).cqAddr = s.hl.ctx0Cq ∧ (t.ctx 0).sqHead = 0 ∧ (t.ctx 0).sqTail = 0 ∧ (t.ctx 0).cqTail = 0 ∧
      (t.ctx 0).phase = true ∧ t.mem = s.mem ∧ KeepsBlocks s t) ∧
  (∀ (s : State) (v : Nat), bitAt s.hl.ctx0Cfg 31 = false →
    ctx0Ok s.hl.ctx0Sq s.hl.ctx0Cq ((v ||| 0x80000000) &&& 0x00FFFFFF) = false →
    ∃ t : State, exec (.ctx0Enable v) s = .next t ∧ t.hl.ctxs = s.hl.ctxs ∧
      t.hl.ctx0Cfg = 0x40000000 + ((v ||| 0x80000000) &&& 0x00FFFFFF) ∧ t.mem = s.mem ∧ KeepsBlocks s t) ∧
  (∀ (s : State) (v : Nat), bitAt s.hl.ctx0Cfg 31 = true → bitAt (v ||| 0x80000000) 31 = true →
    exec (.ctx0Enable v) s = .next s) ∧
  (∀ (s : State) (v : Nat), bitAt s.hl.ctx0Cfg 31 = false → bitAt (v % 2 ^ 31) 31 = false →
    exec (.ctx0Disable v) s = .next (s.onHl fun h => { h with
      ctx0Cfg := (if bitAt h.ctx0Cfg 30 && !bitAt (v % 2 ^ 31) 30 then 0x40000000 else 0) +
        (v % 2 ^ 31 &&& 0x00FFFFFF) })) ∧
  (∀ (s : State) (v : Nat), Shaped s → bitAt s.hl.ctx0Cfg 31 = true → bitAt (v % 2 ^ 31) 31 = false →
    ∃ t : State, exec (.ctx0Disable v) s = .next t ∧ (t.ctx 0).isOpen = false ∧ (t.ctx 0).sqHead = (s.ctx 0).sqTail ∧
      (t.ctx 0).waiting = [] ∧ t.hl.ctx0Cfg = s.hl.ctx0Cfg % 2 ^ 31 ∧ t.mem = s.mem ∧ KeepsBlocks s t)

/-- R439 to R441. -/
def Obligations.Bar2AccessesReachOrAreRefused : Prop :=
  (∀ (s : State) (v : Nat), exec (.bar2BaseWrite v) s = .next (s.onHl fun h => { h with bar2Base := v % 2 ^ 18 })) ∧
  (∀ (s : State) (o : Nat) (d : List Byte), s.mem.wf = true → s.bar2Ok (s.hl.bar2Base * 2 ^ 30 + o) d.length = true →
    s.writePoisoned (s.hl.bar2Base * 2 ^ 30 + o) d.length = false →
    ∃ t : State, exec (.bar2Write o d) s = .next t ∧ t.bytesAt (s.hl.bar2Base * 2 ^ 30 + o) d.length = d ∧
      (∀ a, a < s.hl.bar2Base * 2 ^ 30 + o ∨ s.hl.bar2Base * 2 ^ 30 + o + d.length ≤ a → t.byteAt a = s.byteAt a) ∧
      OnlyCarried s t) ∧
  (∀ (s : State) (o : Nat) (d : List Byte), s.bar2Ok (s.hl.bar2Base * 2 ^ 30 + o) d.length = true →
    s.dramDead (s.hl.bar2Base * 2 ^ 30 + o) = true →
    ∃ t : State, exec (.bar2Write o d) s = .next t ∧ t.mem = s.mem ∧ OnlyCarried s t) ∧
  (∀ (s : State) (o : Nat) (d : List Byte), s.bar2Ok (s.hl.bar2Base * 2 ^ 30 + o) d.length = false →
    exec (.bar2Write o d) s =
      .next (s.onHl fun h => { h with bar2Refused := satInc (2 ^ 32 - 1) h.bar2Refused })) ∧
  (∀ (s : State) (o n : Nat), s.bar2Ok (s.hl.bar2Base * 2 ^ 30 + o) n = false →
    ∃ t : State, exec (.bar2Read o n) s = .next t ∧ t.hl.bus.data = List.replicate n 0xFF ∧ t.hl.bus.poisoned = false ∧
      t.hl.bar2Refused = satInc (2 ^ 32 - 1) s.hl.bar2Refused ∧ t.mem = s.mem ∧ KeepsBlocks s t) ∧
  (∀ (s : State) (o n : Nat), s.bar2Ok (s.hl.bar2Base * 2 ^ 30 + o) n = true →
    ∃ t : State, exec (.bar2Read o n) s = .next t ∧ t.hl.bus.data = s.bytesAt (s.hl.bar2Base * 2 ^ 30 + o) n ∧
      t.hl.bus.poisoned = s.readPoisoned (s.hl.bar2Base * 2 ^ 30 + o) n ∧ t.hl.bus.unsupported = false ∧
      t.hl.bar2Refused = s.hl.bar2Refused ∧ t.mem.cells = s.mem.cells ∧ t.asz = s.asz ∧ t.sch = s.sch) ∧
  (∀ (s : State) (o n : Nat), s.bar2Ok (s.hl.bar2Base * 2 ^ 30 + o) n = true →
    s.readPoisoned (s.hl.bar2Base * 2 ^ 30 + o) n = false →
    ∃ t : State, exec (.bar2Read o n) s = .next t ∧ t.mem = s.mem ∧
      OnlyCarried (s.onHl fun h => { h with bus := { data := s.bytesAt (s.hl.bar2Base * 2 ^ 30 + o) n } }) t)

/-- R438, R542, R543, R549. A requester is 0 for the host. -/
def Obligations.RegisterReadsLatchAndClear : Prop :=
  (∀ (s : State) (r o : Nat), o % 4 = 0 →
    ∃ t : State, exec (.loRegisterRead r o) s = .next t ∧ (∀ h ∈ latchedBy o, t.latched r h = s.reg h) ∧
      (r = 0 → t.hl.bus = { data := leBytes 4 (s.readReg 0 o) }) ∧ (r ≠ 0 → KeepsBlocks s t) ∧ t.mem = s.mem) ∧
  (∀ (s : State) (r : Nat),
    ∃ t : State, exec (.ptmHostLoRead r) s = .next t ∧ t.latched r 0x1003C = s.tb.ptmHost / 2 ^ 32 % 2 ^ 32 ∧
      t.latched r 0x10040 = s.tb.ptmTs % 2 ^ 32 ∧ t.latched r 0x10044 = s.tb.ptmTs / 2 ^ 32 % 2 ^ 32 ∧
      (r = 0 → t.hl.bus.data = leBytes 4 (s.tb.ptmHost % 2 ^ 32)) ∧ t.tb = s.tb ∧ t.mem = s.mem) ∧
  (∀ s : State, ∃ t : State, exec (.loRegisterRead 0 0x10000) s = .next t ∧ t.hl.bus.data = leBytes 4 (s.tb.link % 2 ^ 32) ∧
    t.latched 0 0x10004 = s.tb.link / 2 ^ 32 % 2 ^ 32 ∧ t.tb = s.tb ∧ t.mem = s.mem) ∧
  (∀ (s : State) (o : Nat), o % 4 = 0 →
    ∃ t : State, exec (.rcRegisterRead o) s = .next t ∧ t.hl.bus = { data := leBytes 4 (s.readReg 0 o) } ∧
      t.mem = s.mem ∧ t.dev.mode = s.dev.mode) ∧
  (∀ s : State, ∃ t : State, exec (.rcRegisterRead 0x20008) s = .next t ∧
    t.hl.bus.data = leBytes 4 s.hl.bar2Refused ∧ t.hl.bar2Refused = 0 ∧ t.mem = s.mem ∧ KeepsBlocks s t) ∧
  (∀ s : State, ∃ t : State, exec (.rcRegisterRead 0x10024) s = .next t ∧
    t.hl.bus.data = leBytes 4 s.syncStatus ∧ t.tb = { s.tb with stray := 0 } ∧ t.mem = s.mem) ∧
  (∀ (s : State) (o : Nat), o % 4 ≠ 0 → ∃ t : State, exec (.rcRegisterRead o) s = .next t ∧ t.hl.bus.unsupported = true ∧
    t.mem = s.mem ∧ KeepsBlocks s t)

/-- R443, R463, R541, R549, R553. -/
def Obligations.RegisterWritesTakeTheirFields : Prop :=
  (∀ (s : State) (v : Nat), s.dev.mode = .config →
    exec (.registerWrite 0x10020 v) s = .next (s.onTb fun t => { t with syncCtrl := (v % 2 ^ 32) &&& 0x1F })) ∧
  (∀ (s : State) (v : Nat), s.dev.mode ≠ .config → exec (.registerWrite 0x10020 v) s = .next s) ∧
  (∀ (s : State) (v : Nat), exec (.registerWrite 0x20010 v) s =
    .next (s.onHl fun h => { h with events := h.events ^^^ (h.events &&& (v % 2 ^ 32)) })) ∧
  (∀ (s : State) (o v : Nat), o % 4 ≠ 0 ∨ o = 0x10000 → exec (.registerWrite o v) s = .next s) ∧
  (∀ (s : State) (v : Nat), bitAt v 31 = true → bitAt v 30 = false → v % 256 = 0 → s.tb.ptmBusy = false →
    s.tb.ptmPath = true → s.hl.linkUp = true →
    exec (.ptmRequest v) s = .next (s.onTb fun t => { t with ptmBusy := true, ptmMiles := 0 })) ∧
  (∀ s : State, s.tb.ptmInterval ≤ s.tb.ptmMiles → s.tb.ptmBusy = false → s.tb.ptmPath = true → s.hl.linkUp = true →
    exec .ptmIntervalExpiry s = .next (s.onTb fun t => { t with ptmBusy := true, ptmMiles := 0 })) ∧
  (∀ (s : State) (h cyc : Nat), s.tb.ptmBusy = true →
    exec (.ptmDialogComplete (.ok h cyc)) s = .next (s.onTb fun t => { t with
      ptmBusy := false, ptmActive := true, ptmHost := h % 2 ^ 64, ptmTs := s.tsAt cyc }) ∧
    exec (.ptmDialogComplete .failed) s = .next (s.onTb fun t => { t with ptmBusy := false, ptmFailed := true })) ∧
  (∀ (s : State) (k f v : Nat), (if f = 0 then (s.canAt k).fifo0 else (s.canAt k).fifo1).fill < v % 128 →
    exec (.canRxqReleaseWrite k f v) s = .next (s.onCan k fun c => { c with releaseError := true })) ∧
  (∀ (s : State) (k v : Nat), 0 < v % 128 → v % 128 ≤ (s.canAt k).fifo0.fill →
    exec (.canRxqReleaseWrite k 0 v) s = .next (s.onCan k fun c => { c with fifo0 := { c.fifo0 with
      fill := c.fifo0.fill - v % 128, get := (c.fifo0.get + v % 128) % c.fifo0.size } })) ∧
  (∀ (s : State) (k v : Nat), 0 < v % 128 → v % 128 ≤ (s.canAt k).fifo1.fill →
    exec (.canRxqReleaseWrite k 1 v) s = .next (s.onCan k fun c => { c with fifo1 := { c.fifo1 with
      fill := c.fifo1.fill - v % 128, get := (c.fifo1.get + v % 128) % c.fifo1.size } }))

/-- R10, R25: the count, the length of the next link and the error left. -/
def Obligations.LinkBoundarySlewsTheGrid : Prop :=
  (∀ (s : State) (a b : Bool), s.dev.inReset = true → exec (.linkBoundary a b) s = .next s) ∧
  (∀ (s : State) (a b : Bool), s.dev.inReset = false →
    ∃ t : State, exec (.linkBoundary a b) s = .next t ∧ t.tb.link = s.tb.link + 1 ∧
      t.tb.cycles = (if 0 < s.tb.phaseErr then 201 else if s.tb.phaseErr < 0 then 199 else 200) ∧
      t.tb.phaseErr =
        (if 0 < s.tb.phaseErr then s.tb.phaseErr - 1 else if s.tb.phaseErr < 0 then s.tb.phaseErr + 1 else 0) ∧
      t.tb.mile = s.tb.mile) ∧
  (∀ (s : State) (cyc : Nat) (e : Int), s.syncMeasured = true → cyc < s.linkCycles → s.syncError cyc = some e →
    exec (.syncInEdge cyc) s = .next (s.onTb fun t => { t with phaseErr := e, edgeSeen := true }))

/-- R21 to R24, R26. That an edge which meets no measurement counts nowhere is the model's choice (log 158), and so is
that a request whose conditions have gone by the time it would take effect ends (log 39). -/
def Obligations.SyncEdgesAreMeasuredOrStray : Prop :=
  (∀ (s : State) (cyc : Nat), s.syncMeasured = true → cyc < s.linkCycles → s.syncError cyc = none →
    exec (.syncInEdge cyc) s = .next (s.onTb fun t => { t with stray := satInc 255 t.stray })) ∧
  (∀ (s : State) (cyc : Nat), s.syncMeasured = false ∨ s.linkCycles ≤ cyc → exec (.syncInEdge cyc) s = .next s) ∧
  (∀ s : State, s.syncMeasured = false ∨ s.syncBoundary s.tb.link = false ∨ s.tb.edgeSeen = true ∨
    s.tb.edgeMissed = 0 → exec .syncLost s = .next s) ∧
  (∀ s : State, s.tb.runReq = none → exec .runEntryAtMile s = .next s ∧ exec .syncAlignTimeout s = .next s ∧
    ∀ k, exec (.syncAlignEdge k) s = .next s) ∧
  (∀ (s : State) (r : RunReq), s.tb.runReq = some r →
    (r.sync = true ∨ s.mileLink s.tb.link = false ∨ s.tb.link ≤ r.link → exec .runEntryAtMile s = .next s) ∧
    (r.sync = false → s.mileLink s.tb.link = true → r.link < s.tb.link → s.runStatus ≠ stOk →
      exec .runEntryAtMile s = .next (s.dropRun r s.runStatus)) ∧
    (∀ k, r.sync = false ∨ k = 0 ∨ s.linkCycles < k → exec (.syncAlignEdge k) s = .next s) ∧
    (∀ k, r.sync = true → 0 < k → k ≤ s.linkCycles → s.runStatus ≠ stOk →
      exec (.syncAlignEdge k) s = .next (s.dropRun r s.runStatus)) ∧
    (r.sync = false ∨ s.tb.link < r.link + 2 * s.syncPeriod → exec .syncAlignTimeout s = .next s)) ∧
  (∀ s : State, s.syncMeasured = true → s.syncBoundary s.tb.link = true → s.tb.edgeSeen = false →
    s.tb.edgeMissed ≠ 0 →
    ∃ t : State, exec .syncLost s = .next t ∧ t.tb.syncLost = true ∧ t.tb.syncFree = true ∧ bitAt t.hl.events 2 = true ∧
      t.mem = s.mem) ∧
  (∀ (s : State) (r : RunReq), s.tb.runReq = some r → r.sync = false → s.mileLink s.tb.link = true →
    r.link < s.tb.link → s.runStatus = stOk →
    ∃ t : State, exec .runEntryAtMile s = .next t ∧ t.dev.mode = (if s.spr.degraded then .degraded else .run) ∧
      t.tb.runReq = none ∧ t.tb.mile = s.tb.mile ∧ t.tb.link = s.tb.link) ∧
  (∀ (s : State) (r : RunReq) (k : Nat), s.tb.runReq = some r → r.sync = true → 0 < k → k ≤ s.linkCycles →
    s.runStatus = stOk →
    ∃ t : State, exec (.syncAlignEdge k) s = .next t ∧ (t.dev.mode = .run ∨ t.dev.mode = .degraded) ∧
      t.tb.link = s.tb.link + 1 ∧ t.tb.mile = s.tb.link + 1 ∧ t.tb.runReq = none) ∧
  (∀ (s : State) (r : RunReq), s.tb.runReq = some r → r.sync = true → r.link + 2 * s.syncPeriod ≤ s.tb.link →
    ∃ t : State, exec .syncAlignTimeout s = .next t ∧ t.dev.mode = s.dev.mode ∧ t.tb.runReq = none ∧
      t.tb.camHeld = false ∧ t.tb.mile = s.tb.mile)

/-- R55, R57: what a segment receiver does with a flit. -/
def Obligations.RingFlitsAreCheckedAndAnswered : Prop :=
  ∀ (s : State) (g : Nat) (dir : RingDir) (f : Flit) (lanes : List Nat), Shaped s → g < 5 →
    (((s.segDir g dir).up = false ∨ (s.seg g).retraining = true) → exec (.ringFlitReceive g dir f lanes) s = .next s) ∧
    ((s.segDir g dir).up = true → (s.seg g).retraining = false → Uninjected s → f.sequenced = true →
      ∃ t : State, exec (.ringFlitReceive g dir f lanes) s = .next t ∧ t.mem = s.mem ∧ t.tb = s.tb ∧ t.hl = s.hl ∧
        (f.crc ≠ f.check → (t.segDir g dir).answer = some (true, (s.segDir g dir).rxSeq) ∧
          (t.segDir g dir).rxSeq = (s.segDir g dir).rxSeq ∧ (t.seg g).crcErrors = satInc 65535 (s.seg g).crcErrors) ∧
        (f.crc = f.check → f.seq = (s.segDir g dir).rxSeq →
          (t.segDir g dir).rxSeq = ((s.segDir g dir).rxSeq + 1) % 4096 ∧
          (t.segDir g dir).answer = some (false, f.seq)) ∧
        (f.crc = f.check → f.seq ≠ (s.segDir g dir).rxSeq →
          ((s.segDir g dir).rxSeq + 4096 - f.seq) % 4096 ≤ 2048 →
          (t.segDir g dir).rxSeq = (s.segDir g dir).rxSeq ∧ (t.segDir g dir).answer = (s.segDir g dir).answer) ∧
        (f.crc = f.check → f.seq ≠ (s.segDir g dir).rxSeq →
          2048 < ((s.segDir g dir).rxSeq + 4096 - f.seq) % 4096 →
          (t.segDir g dir).rxSeq = (s.segDir g dir).rxSeq ∧
          (t.segDir g dir).answer = some (true, (s.segDir g dir).rxSeq))) ∧
    ((s.segDir g dir).up = true → (s.seg g).retraining = false → f.sequenced = false → f.crc = f.check →
      exec (.ringFlitReceive g dir f lanes) s = .next (s.onSegDir g dir fun d => { d with wire := d.wire.drop 1 }))

/-- R49, R55, R56, R59. -/
def Obligations.RingSendersRetryAndRetrain : Prop :=
  (∀ (s : State) (g : Nat) (dir : RingDir) (q : Nat), Shaped s → g < 5 →
    ((s.segDir g dir).replay.any fun f => f.seq = q) = true →
    ∃ t more, exec (.ringAck g dir q) s = .next t ∧
      (t.segDir g dir).replay = afterSeq q (s.segDir g dir).replay ++ more ∧ t.mem = s.mem ∧ t.hl = s.hl) ∧
  (∀ (s : State) (g : Nat) (dir : RingDir) (q : Nat), Shaped s → g < 5 → (s.segDir g dir).up = true →
    (s.seg g).retraining = false →
    let run := if (s.segDir g dir).nakSeq = some q then (s.segDir g dir).nakRun + 1 else 1
    (run < 8 → exec (.ringNak g dir q) s = .next (s.onSegDir g dir fun d => { d with
        nakRun := run, nakSeq := some q, wire := d.wire ++ fromSeq q d.replay })) ∧
    (8 ≤ run → ∃ t : State, exec (.ringNak g dir q) s = .next t ∧ (t.seg g).retraining = true ∧
      (t.seg g).retrains = satInc 255 (s.seg g).retrains ∧ (t.seg g).fwd.wire = [] ∧ (t.seg g).rev.wire = [] ∧
      (t.segDir g dir).replay = (s.segDir g dir).replay)) ∧
  (∀ (s : State) (g : Nat) (dir : RingDir), (s.segDir g dir).up = true → (s.seg g).retraining = false →
    exec (.ringAckTimeout g dir) s =
      .next (s.onSegDir g dir fun d => { d with wire := d.wire ++ d.replay })) ∧
  (∀ (s : State) (g : Nat) (dir : RingDir) (v n : Nat), (s.segDir g dir).up = true → v < 4 →
    ((s.segDir g dir).sendQ.all fun q => q.isEmpty) = true → Shaped s → g < 5 →
    exec (.ringCredit g dir v n) s = .next (s.onSegDir g dir fun d => { d with
      credits := d.credits.modify v fun c => min (vcBuffers.getD v 0) (c + min n (d.owed.getD v 0))
      owed := d.owed.modify v (· - n) })) ∧
  (∀ (s : State) (g : Nat) (dir : RingDir) (v n : Nat), (s.segDir g dir).up = true → v < 4 → Shaped s → g < 5 →
    ∃ t : State, exec (.ringCredit g dir v n) s = .next t ∧
      (t.segDir g dir).owed = (s.segDir g dir).owed.modify v (· - n) ∧ t.mem = s.mem ∧ t.hl = s.hl) ∧
  (∀ (s : State) (g : Nat) (a b : Bool), Shaped s → g < 5 → (s.seg g).retraining = true →
    ∃ t : State, exec (.ringRetrainDone g a b) s = .next t ∧ (t.seg g).retraining = false ∧ (t.seg g).fwd.up = a ∧
      (t.seg g).rev.up = b ∧ t.mem = s.mem ∧ t.asz = s.asz)

/-- R41, R58, R497. -/
def Obligations.RingLanesTakeSpares : Prop :=
  ∀ (s : State) (g : Nat) (dir : RingDir) (fails : List Nat), Shaped s → g < 5 →
    (s.phase s.tb.link % 100 ≠ 0 → exec (.ringLaneSpare g dir fails) s = .next s) ∧
    (s.phase s.tb.link % 100 = 0 →
      ∃ t : State, exec (.ringLaneSpare g dir fails) s = .next t ∧
        (t.segDir g dir).retired = (s.segDir g dir).retired ++ s.lastingLanes g dir ∧
        (t.segDir g dir).sparesLeft = (s.segDir g dir).sparesLeft - (s.lastingLanes g dir).length ∧
        (t.segDir g dir).narrow =
          ((s.segDir g dir).narrow || decide ((s.segDir g dir).sparesLeft < (s.lastingLanes g dir).length)) ∧
        (t.segDir g dir).scanDue = false ∧ t.mem = s.mem)

/-- R44, R46, R63, R66, R68, R159. The channel of a request is that of its originator (R48). -/
def Obligations.RingAccessesReadAndWriteMemory : Prop :=
  (∀ (s : State) (v src : Nat) (d : Desc) (e : List Ecc) (fl : List Nat), s.channelFits v d = true →
    s.accessStatus d.requester d.dpa d.length false ≠ 0 →
    ∃ t p, exec (.ringReadRequest v src d e fl) s = .next t ∧ t.ring.sent = some p ∧ p.kind = 6 ∧
      p.desc = { d with status := 2 } ∧ t.mem = s.mem) ∧
  (∀ (s : State) (v src : Nat) (d : Desc), s.channelFits v d = true →
    s.accessStatus d.requester d.dpa d.length false = 0 → isReg d.dpa = false → s.leavesDevice d.dpa = false →
    ∃ t : State, exec (.ringReadRequest v src d [] []) s = .next t ∧ t.ring.sent = some
        { kind := 6, desc := { d with status := bit01 (s.readPoisoned d.dpa d.length) }
          data := s.bytesAt d.dpa d.length, poison := s.readPoisoned d.dpa d.length } ∧ (∀ a, t.byteAt a = s.byteAt a)) ∧
  (∀ (s : State) (v src : Nat) (d : Desc), s.channelFits v d = true →
    s.accessStatus d.requester d.dpa d.length false = 0 → isReg d.dpa = true →
    ∃ t p, exec (.ringReadRequest v src d [] []) s = .next t ∧ t.ring.sent = some p ∧ p.kind = 6 ∧
      p.data = leBytes 4 (s.readReg (d.requester + 1) (d.dpa - regBase)) ∧ (∀ a, t.byteAt a = s.byteAt a)) ∧
  (∀ (s : State) (v src : Nat) (d : Desc) (e : List Ecc) (fl : List Nat), s.channelFits v d = true →
    s.accessStatus d.requester d.dpa d.length false = 0 → isPeer d.dpa = true →
    ∃ t : State, exec (.ringReadRequest v src d e fl) s = .next t ∧ t.mem = s.mem ∧ t.ring.peerOut = s.ring.peerOut ++
      [{ kind := 4, desc := { d with peer := d.peer % 4 % 4 + 4 + 8 * (s.dev.package % 4) } }]) ∧
  (∀ (s : State) (v src : Nat) (d : Desc) (data : List Byte), s.mem.wf = true → s.channelFits v d = true →
    s.accessStatus d.requester d.dpa d.length true = 0 → s.leavesDevice d.dpa = false → isReg d.dpa = false →
    data.length = d.length → s.writePoisoned d.dpa d.length = false →
    ∃ t : State, exec (.ringWriteRequest v src d data false []) s = .next t ∧ t.bytesAt d.dpa d.length = data ∧
      (∀ a, a < d.dpa ∨ d.dpa + d.length ≤ a → t.byteAt a = s.byteAt a) ∧
      t.ring.sent = some { kind := 7, desc := { d with status := 0 } }) ∧
  (∀ (s : State) (v src : Nat) (d : Desc) (data : List Byte) (e : List Ecc), s.channelFits v d = true →
    s.accessStatus d.requester d.dpa d.length true = 0 → s.leavesDevice d.dpa = false →
    ∃ t : State, exec (.ringWriteRequest v src d data true e) s = .next t ∧ t.mem = s.mem ∧
      t.ring.sent = some { kind := 7, desc := { d with status := 1 } }) ∧
  (∀ (s : State) (v src : Nat) (d : Desc) (data : List Byte) (po : Bool) (e : List Ecc), s.channelFits v d = true →
    s.accessStatus d.requester d.dpa d.length true ≠ 0 →
    ∃ t : State, exec (.ringWriteRequest v src d data po e) s = .next t ∧ t.mem = s.mem ∧
      t.ring.sent = some { kind := 7, desc := { d with status := 2 } })

/-- R44, R46, R61, R64, R66, R69. The answer to a refused peer access names the address in the window (log 153). -/
def Obligations.ResponsesAndPeersReachTheirTarget : Prop :=
  (∀ (s : State) (d : Desc) (data : List Byte) (po : Bool),
    64 ≤ d.requester ∨ (s.core d.requester).run ≠ .running ∨ (d.status = 0 ∧ po = false) →
    exec (.ringReadResponse d data po) s = .next (s.onRing fun r => { r with
      readRsp := some { kind := 6, desc := d, data := data, poison := po } })) ∧
  (∀ (s : State) (d : Desc), 64 ≤ d.requester ∨ (s.core d.requester).run ≠ .running ∨ d.status = 0 →
    exec (.ringWriteResponse d) s = .next (s.onRing fun r => { r with writeAck := some d })) ∧
  (∀ (s : State) (d : Desc), exec (.ringMessage d) s = .next (s.onRing fun r => { r with message := some d })) ∧
  (∀ (s : State) (l k o n src tag : Nat) (w : Bool) (data : List Byte),
    (s.hl.windows.getD k {}).admits o (if w then data.length else n) src w = false →
    ∃ t : State, exec (.peerAccess l k o n ⟨src, tag⟩ w data) s = .next t ∧ (∀ a, t.byteAt a = s.byteAt a) ∧ t.hl = s.hl ∧
      t.ring.plinks = s.ring.plinks.modify l (fun p => { p with refused := satInc 255 p.refused }) ∧
      t.ring.sent = some { kind := if w then 7 else 6
                           desc := { s.peerDesc (peerBase + k * 2 ^ 34 + o) n tag src with status := 3 } }) ∧
  (∀ (s : State) (l k o n src tag : Nat) (data : List Byte), s.mem.wf = true →
    let a := (s.hl.windows.getD k {}).base + o
    (s.hl.windows.getD k {}).admits o data.length src true = true →
    inOpenDram a data.length = true ∨ (inSpad a data.length = true ∧ s.corePresent (spadCore a) = true) ∨
      (inHub a data.length = true ∧ touchesTarget a data.length = false) →
    s.writePoisoned a data.length = false →
    ∃ t : State, exec (.peerAccess l k o n ⟨src, tag⟩ true data) s = .next t ∧ t.bytesAt a data.length = data ∧
      (∀ b, b < a ∨ a + data.length ≤ b → t.byteAt b = s.byteAt b) ∧ t.asz = s.asz ∧ t.cores = s.cores ∧
      t.ring.sent = some { kind := 7, desc := { s.peerDesc a data.length tag src with status := 0 } }) ∧
  (∀ (s : State) (l k o n src tag : Nat) (data : List Byte),
    let a := (s.hl.windows.getD k {}).base + o
    (s.hl.windows.getD k {}).admits o n src false = true →
    inOpenDram a n = true ∨ (inSpad a n = true ∧ s.corePresent (spadCore a) = true) ∨
      (inHub a n = true ∧ touchesTarget a n = false) →
    ∃ t : State, exec (.peerAccess l k o n ⟨src, tag⟩ false data) s = .next t ∧ (∀ b, t.byteAt b = s.byteAt b) ∧
      t.asz = s.asz ∧ t.ring.sent = some
        { kind := 6, desc := { s.peerDesc a n tag src with status := bit01 (s.readPoisoned a n) }
          data := s.bytesAt a n, poison := s.readPoisoned a n }) ∧
  (∀ (s : State) (l n far : Nat), Shaped s → l < 2 →
    ∃ t : State, exec (.plinkTrain l n far) s = .next t ∧ (t.ring.plinks.getD l {}).far = far % 4 ∧
      (far = s.dev.package → 4 ≤ n → (t.ring.plinks.getD l {}).trained = false ∧ (t.ring.plinks.getD l {}).conflict = true) ∧
      (far ≠ s.dev.package → 8 ≤ n → (t.ring.plinks.getD l {}).trained = true ∧ (t.ring.plinks.getD l {}).width = 2) ∧
      (far ≠ s.dev.package → 4 ≤ n → n < 8 → (t.ring.plinks.getD l {}).trained = true ∧
        (t.ring.plinks.getD l {}).width = 1) ∧
      (n < 4 → (t.ring.plinks.getD l {}).trained = false) ∧ t.mem = s.mem)

/-- R159, R164, R166, R168, R172. -/
def Obligations.StacksScrubRefreshAndRemap : Prop :=
  (∀ (s : State) (d : Nat), s.scrubs = true → (s.dramAt d).serves = true →
    s.mem.poison.contains (d * stackSize + (s.dramAt d).scrub) = false →
    exec (.patrolScrubRead d .ok) s =
      .next (s.onDram d fun m => { m with scrub := (m.scrub + 64) % stackSize })) ∧
  (∀ (s : State) (d : Nat) (e : Ecc), Shaped s → d < 4 → s.scrubs = true → (s.dramAt d).serves = true →
    ∃ t : State, exec (.patrolScrubRead d e) s = .next t ∧
      (t.dramAt d).scrub = ((s.dramAt d).scrub + 64) % stackSize ∧ t.mem.cells = s.mem.cells) ∧
  (∀ (s : State) (d : Nat), Shaped s → d < 4 → s.scrubs = true → (s.dramAt d).serves = true →
    (s.dramAt d).scrub < stackSize →
    ∃ t : State, exec (.patrolScrubRead d .uncorrectable) s = .next t ∧
      granule (d * stackSize + (s.dramAt d).scrub) ∈ t.mem.poison ∧
      (t.dramAt d).lastUe = granule (d * stackSize + (s.dramAt d).scrub) ∧
      (t.dramAt d).uncorrected = satInc 65535 (s.dramAt d).uncorrected ∧
      (t.dramAt d).scrub = ((s.dramAt d).scrub + 64) % stackSize ∧ bitAt t.hl.events 4 = true) ∧
  (∀ (s : State) (d ch : Nat) (fails : List Nat), (s.dramAt d).serves = true →
    (s.dramAt d).scanDue.contains ch = false → s.lastingTsv d ch = [] →
    exec (.dramRefresh d ch fails) s = .next s) ∧
  (∀ (s : State) (d ch l : Nat) (fails : List Nat), Shaped s → d < 4 → (s.dramAt d).serves = true →
    (s.dramAt d).scanDue.contains ch = false → s.lastingTsv d ch = [l] →
    ((s.dramAt d).lanesRetired.filter fun x => x.1 = ch && x.2 / 64 = l / 64).length < 2 →
    ∃ t : State, exec (.dramRefresh d ch fails) s = .next t ∧
      (t.dramAt d).lanesRetired = (s.dramAt d).lanesRetired ++ [(ch, l)] ∧
      s.isLasting (tsvLane d ch l) = true ∧ t.isLasting (tsvLane d ch l) = false ∧ t.mem = s.mem) ∧
  (∀ (s : State) (d : Nat) (x : Remap), Shaped s → d < 4 → (s.dramAt d).remaps.find? (·.copying) = some x →
    s.spr.entries.length < 4091 →
    ∃ t : State, exec (.rowRemapDone d) s = .next t ∧ { x with copying := false, valid := true } ∈ (t.dramAt d).remaps ∧
      (∀ y ∈ (t.dramAt d).remaps, y.row = x.row → y.valid = true → y = { x with copying := false, valid := true }) ∧
      x.row ∈ t.spr.entries ∧ t.mem.cells = s.mem.cells)

/-- R12, R357, R517, R518, R521. -/
def Obligations.ChainAndFurlongBoundariesSampleTheDevice : Prop :=
  (∀ (s : State) (x : TempSample), Shaped s → s.chainLink s.tb.link = true → s.up = true →
    ∃ t : State, exec (.chainBoundary x) s = .next t ∧ t.sch.row = s.chainRow ∧ t.tb.link = s.tb.link ∧
      t.tb.mile = s.tb.mile ∧
      (∀ d, d < 4 → s.dieCounts d = true → s.tb.countDue.length = 4 → t.tb.countDue.getD d false = true) ∧
      (t.thermOf 4).junction = x.junction.getD 4 0 ∧
      (∀ d, d < 4 → s.pwr.off.getD d false = false → (t.thermOf d).junction = x.junction.getD d 0)) ∧
  (∀ (s : State) (x : TempSample), s.chainLink s.tb.link = false → exec (.chainBoundary x) s = .next s) ∧
  (∀ (s : State) (p : PowerSample), Shaped s → s.phase s.tb.link % 1000 = 0 → s.up = true → s.pwr.state = .active →
    s.pwr.cap * 1000 < p.package →
    ∃ t : State, exec (.furlongBoundary p) s = .next t ∧ t.pwr.packageMw = p.package ∧
      (∀ d, d ∈ s.ruled → s.opOf d < 3 → t.opOf d = s.opOf d + 1) ∧
      (∀ d, d ∉ s.ruled → t.opOf d = s.opOf d) ∧
      t.pwr.capUnmet = s.ruled.all fun d => decide (2 ≤ s.opOf d ∧ s.opOf d ≤ 3)) ∧
  (∀ (s : State) (p : PowerSample), Shaped s → s.phase s.tb.link % 1000 = 0 → s.up = true →
    ∃ t : State, exec (.furlongBoundary p) s = .next t ∧ t.pwr.packageMw = p.package ∧
      t.pwr.dieMw = (List.range 4).map (fun d => p.die.getD d 0) ∧ t.tb = s.tb) ∧
  (∀ (s : State) (d o : Nat), s.pwr.settling.getD d none = some o →
    exec (.opChangeSettled d) s = .next (s.onPwr fun p => { p with
      op := p.op.set d o, settling := p.settling.set d none })) ∧
  (∀ (s : State) (d : Nat), s.up = true → d < 4 → (s.dramAt d).inService = true → s.pwr.off.getD d false = false →
    Shaped s → s.tb.dieLink.length = 4 → s.tb.countDue.getD d false = true →
    exec (.linkCountCheck d s.tb.link) s = .next (s.onTb fun t => { t with
      dieLink := t.dieLink.set d s.tb.link, countDue := t.countDue.set d false })) ∧
  (∀ (s : State) (d n : Nat), s.up = true → d < 4 → (s.dramAt d).inService = true → s.pwr.off.getD d false = false →
    Shaped s → s.tb.dieLink.length = 4 → s.tb.countDue.getD d false = true → n ≠ s.tb.link →
    ∃ t : State, exec (.linkCountCheck d n) s = .next t ∧ (t.dramAt d).tbFault = true ∧ bitAt t.dev.faultCause 0 = true ∧
      bitAt t.asz.startCauses 15 = true ∧ (s.running = true → t.asz.safe = true))

/-- R433, R520, R524 to R527. -/
def Obligations.PowerCommandsAndRetainedIdle : Prop :=
  (∀ (c : Cmd) (s : State), Starts 0xF 2 c s →
    (40 ≤ c.word 0 → c.word 0 ≤ 120 →
      exec (.pwrLimit c) s = .next (((begun c s).onPwr fun p => { p with cap := c.word 0 }).complete c stOk)) ∧
    (c.word 0 = 0 → exec (.pwrLimit c) s = .next (((begun c s).onPwr fun p => { p with cap := 120 }).complete c stOk)) ∧
    (0 < c.word 0 → c.word 0 < 40 ∨ 120 < c.word 0 →
      exec (.pwrLimit c) s = .next ((begun c s).complete c stLimit))) ∧
  (∀ (c : Cmd) (s : State), Starts 0xF 3 c s →
    exec (.pwrQuery c) s = .next ((begun c s).complete c stOk s.pwr.packageMw
      ((s.pwr.therm.map (·.junction)).foldl max 0 + 256 * (s.dram.map (·.temp)).foldl max 0) s.opBits)) ∧
  (∀ (c : Cmd) (s : State), Starts 0xF 1 c s → Shaped s → bitAt (c.word 0) 0 = true → s.dev.mode = .config →
    s.pwr.state = .active → s.transfersRun = false →
    ∃ t : State, exec (.pwrStateEnterRetainedIdle c) s = .next t ∧ t.pwr.state = .entering ∧
      (∀ d, d < 4 → (t.dramAt d).selfRefresh = true) ∧ t.hl.opens = s.hl.opens ++ [{ cmd := c, wait := .powerEnter }] ∧
      t.mem = s.mem) ∧
  (∀ (c : Cmd) (s : State), Starts 0xF 1 c s → bitAt (c.word 0) 0 = true →
    (s.dev.mode ≠ .config → exec (.pwrStateEnterRetainedIdle c) s = .next ((begun c s).complete c stMode)) ∧
    (s.dev.mode = .config → s.pwr.state = .entering ∨ s.pwr.state = .leaving ∨
        (s.pwr.state = .active ∧ s.transfersRun = true) →
      exec (.pwrStateEnterRetainedIdle c) s = .next ((begun c s).complete c stBusy)) ∧
    (s.dev.mode = .config → s.pwr.state = .retained →
      exec (.pwrStateEnterRetainedIdle c) s = .next ((begun c s).complete c stOk))) ∧
  (∀ (c : Cmd) (s : State), Starts 0xF 1 c s → bitAt (c.word 0) 0 = false →
    (s.pwr.state = .entering ∨ s.pwr.state = .leaving →
      exec (.pwrStateLeaveRetainedIdle c) s = .next ((begun c s).complete c stBusy)) ∧
    (s.pwr.state = .active → exec (.pwrStateLeaveRetainedIdle c) s = .next ((begun c s).complete c stOk))) ∧
  (∀ (c : Cmd) (s : State), (bitAt (c.word 0) 0 = false → exec (.pwrStateEnterRetainedIdle c) s = .next s) ∧
    (bitAt (c.word 0) 0 = true → exec (.pwrStateLeaveRetainedIdle c) s = .next s)) ∧
  (∀ s : State, (s.pwr.state ≠ .entering → exec .retainedIdleEntered s = .next s) ∧
    (s.pwr.state ≠ .leaving → exec .retainedIdleLeft s = .next s)) ∧
  (∀ s : State, Shaped s → s.pwr.state = .entering →
    ∃ t : State, exec .retainedIdleEntered s = .next t ∧ t.pwr.state = .retained ∧ t.pwr.off = [true, true, true, true] ∧
      (∀ d, d < 4 → (t.dramAt d).powered = false) ∧ t.awaiting (· = .powerEnter) = []) ∧
  (∀ (c : Cmd) (s : State), Starts 0xF 1 c s → bitAt (c.word 0) 0 = false → s.pwr.state = .retained →
    exec (.pwrStateLeaveRetainedIdle c) s =
      .next (((begun c s).onPwr fun p => { p with state := .leaving }).await c .powerLeave)) ∧
  (∀ s : State, Shaped s → s.pwr.state = .leaving →
    ∃ t : State, exec .retainedIdleLeft s = .next t ∧ t.pwr.state = .active ∧ t.awaiting (· = .powerLeave) = [] ∧
      (∀ d, d < 4 → (s.thermOf d).tripped = false → (s.dramAt d).inService = true →
        (t.dramAt d).powered = true ∧ (t.dramAt d).selfRefresh = (s.dramAt d).tripped ∧ t.opOf d = 0 ∧
        t.pwr.off.getD d false = false))

/-- R155, R433, R579: allocation and release of device memory. -/
def Obligations.MemoryIsPlacedInFreeRanges : Prop :=
  (∀ (c : Cmd) (s : State) (d a : Nat), Starts 2 1 c s → c.word 0 % 16 = d → d < 4 → (s.dramAt d).inService = true →
    0 < c.word 1 → 12 ≤ c.word 2 % 32 → c.word 2 % 32 ≤ 30 →
    s.placeDram d (c.word 1 * 4096) (2 ^ (c.word 2 % 32)) 0 = some a →
    exec (.memAlloc c) s = .next
      ((((begun c s).addAlloc { base := a, size := c.word 1 * 4096, ctx := c.ring }).bump).complete c stOk a) ∧
    a % 2 ^ (c.word 2 % 32) = 0 ∧ d * stackSize ≤ a ∧ a + c.word 1 * 4096 ≤ d * stackSize + reservedOff ∧
    (∀ x ∈ s.hl.allocs, overlaps a (c.word 1 * 4096) x.base x.size = false) ∧
    (∀ m ∈ s.dram, ∀ b ∈ m.withdrawn, overlaps a (c.word 1 * 4096) b 32768 = false)) ∧
  (∀ (c : Cmd) (s : State) (a : Nat), Starts 2 1 c s → c.word 0 % 16 = 4 →
    0 < c.word 1 → 12 ≤ c.word 2 % 32 → c.word 2 % 32 ≤ 30 →
    s.placeHub (c.word 1 * 4096) (2 ^ (c.word 2 % 32)) 0 = some a →
    exec (.memAlloc c) s = .next
      ((((begun c s).addAlloc { base := a, size := c.word 1 * 4096, ctx := c.ring }).bump).complete c stOk a) ∧
    a % 2 ^ (c.word 2 % 32) = 0 ∧ hubBase ≤ a ∧ a + c.word 1 * 4096 ≤ targetBase ∧
    (∀ x ∈ s.hl.allocs, overlaps a (c.word 1 * 4096) x.base x.size = false)) ∧
  (∀ (c : Cmd) (s : State), Starts 2 1 c s → let d := c.word 0 % 16
    let n := c.word 1 * 4096
    let al := c.word 2 % 32
    let found := if d = 4 then s.placeHub n (2 ^ al) 0
      else if (s.dramAt d).inService = true then s.placeDram d n (2 ^ al) 0 else none
    (4 < d ∨ c.word 1 = 0 ∨ al < 12 ∨ 30 < al → exec (.memAlloc c) s = .next ((begun c s).complete c stBadParam)) ∧
    (d ≤ 4 → 0 < c.word 1 → 12 ≤ al → al ≤ 30 → found = none →
      exec (.memAlloc c) s = .next ((begun c s).complete c stNoMemory))) ∧
  (∀ (c : Cmd) (s : State), Starts 2 2 c s → s.allocAt (c.addr 0) = none →
    exec (.memFree c) s = .next ((begun c s).complete c stBadParam)) ∧
  (∀ (c : Cmd) (s : State) (x : Alloc), Starts 2 2 c s → s.allocAt (c.addr 0) = some x →
    (s.holdsTable x = false → s.underWindow x = false → s.namedByJob x = false →
      exec (.memFree c) s = .next (((begun c s).dropAlloc x.base).complete c stOk)) ∧
    (s.holdsTable x = true ∨ s.underWindow x = true ∨ s.namedByJob x = true →
      exec (.memFree c) s = .next ((begun c s).complete c stBusy)))

/-- R37, R145, R159, R433, R444: copies and fills, and the bytes after them. Where a copy meets poison, which of the other
pieces it has copied is free; a range that can no longer be reached ends it (log 156). -/
def Obligations.CopiesAndFillsWriteTheirRange : Prop :=
  (∀ (c : Cmd) (s : State), Starts 2 3 c s →
    (c.word 4 = 0 ∨ overlaps (c.addr 0) (c.word 4) (c.addr 2) (c.word 4) = true ∨ s.dmaRange (c.addr 0) (c.word 4) = false ∨
      s.dmaRange (c.addr 2) (c.word 4) = false →
      exec (.memCopy c) s = .next ((begun c s).complete c stBadParam)) ∧
    (0 < c.word 4 → overlaps (c.addr 0) (c.word 4) (c.addr 2) (c.word 4) = false →
      s.dmaRange (c.addr 0) (c.word 4) = true → s.dmaRange (c.addr 2) (c.word 4) = true →
      (isHost (c.addr 0) = true → exec (.memCopy c) s =
        .next ((begun c s).await c (.copyRead (c.addr 0) (c.addr 2) (c.word 4)))) ∧
      (isHost (c.addr 0) = false → s.readPoisoned (c.addr 0) (c.word 4) = false →
        s.writePoisoned (c.addr 2) (c.word 4) = false →
        ∃ u : State, exec (.memCopy c) s = .next (u.complete c stOk (c.word 4)) ∧
          u.mem = (s.write (c.addr 2) (s.bytesAt (c.addr 0) (c.word 4))).mem ∧ OnlyCarried (begun c s) u) ∧
      (isHost (c.addr 0) = false → s.readPoisoned (c.addr 0) (c.word 4) = true →
        ∃ (u : State) (k : Nat), exec (.memCopy c) s = .next (u.complete c stMemPoison k)))) ∧
  (∀ (s : State) (ctx tag src dst n : Nat) (data : List HostRun) (o : Open),
    (s.hl.linkUp = false → exec (.hostDmaReadCompletion ctx tag data) s = .next s) ∧
    (s.hl.linkUp = true →
      (s.hl.opens.find? fun o => o.cmd.ring = ctx && o.cmd.tag = tag &&
        (match o.wait with | .copyRead _ _ _ => true | _ => false)) = some o → o.wait = .copyRead src dst n →
      let v := (s.hostRuns data).onHl fun h => { h with opens := h.opens.erase o }
      (s.dmaRange src n = true → s.dmaRange dst n = true →
        (s.hostRuns data).readPoisoned src n = false → (s.hostRuns data).writePoisoned dst n = false →
        ∃ u : State, exec (.hostDmaReadCompletion ctx tag data) s = .next (u.complete o.cmd stOk n) ∧
          u.mem = ((s.hostRuns data).write dst ((s.hostRuns data).bytesAt src n)).mem ∧ OnlyCarried v u) ∧
      (s.dmaRange src n = false ∨ s.dmaRange dst n = false →
        exec (.hostDmaReadCompletion ctx tag data) s = .next (v.complete o.cmd stBadParam)))) ∧
  (∀ (c : Cmd) (s : State), Starts 2 4 c s →
    (c.word 2 % 4 ≠ 0 ∨ s.dmaRange (c.addr 0) (c.word 2) = false →
      exec (.memFill c) s = .next ((begun c s).complete c stBadParam)) ∧
    (c.word 2 % 4 = 0 → s.dmaRange (c.addr 0) (c.word 2) = true → s.writePoisoned (c.addr 0) (c.word 2) = false →
      (∃ u : State, exec (.memFill c) s = .next (u.complete c stOk) ∧
        u.mem = (s.write (c.addr 0) (fillBytes (c.word 3) (c.word 2))).mem ∧ OnlyCarried (begun c s) u) ∧
      (fillBytes (c.word 3) (c.word 2)).length = c.word 2 ∧
      (∀ i, i < c.word 2 → (fillBytes (c.word 3) (c.word 2))[i]? = (leBytes 4 (c.word 3))[i % 4]?))) ∧
  (∀ (s : State) (a : Nat) (bs : List Byte), s.mem.wf = true →
    (s.write a bs).bytesAt a bs.length = bs ∧
    ∀ b, b < a ∨ a + bs.length ≤ b → (s.write a bs).byteAt b = s.byteAt b)

/-- R67, R70: peer windows. -/
def Obligations.PeerWindowsOpenAndClose : Prop :=
  (∀ (c : Cmd) (s : State) (k : Nat), Starts 2 5 c s → c.word 0 % 64 = k → 0 < c.word 3 →
    c.word 3 * 4096 ≤ 2 ^ 34 → c.addr 1 % 4096 = 0 → windowRange (c.addr 1) (c.word 3 * 4096) = true →
    ((s.hl.windows.getD k {}).isOpen = false → (s.hl.windows.getD k {}).closing = false →
      let w : Window := { isOpen := true, base := c.addr 1, size := c.word 3 * 4096, read := bitAt (c.word 0) 8
                          write := bitAt (c.word 0) 9, mask := bitsOf (c.word 0) 15 12 }
      exec (.memWindowOpen c) s =
        .next (((begun c s).onHl fun h => { h with windows := h.windows.set k w }).complete c stOk)) ∧
    ((s.hl.windows.getD k {}).isOpen = true ∨ (s.hl.windows.getD k {}).closing = true →
      exec (.memWindowOpen c) s = .next ((begun c s).complete c stBusy))) ∧
  (∀ (c : Cmd) (s : State), Starts 2 5 c s → c.word 3 = 0 ∨ 2 ^ 34 < c.word 3 * 4096 ∨ c.addr 1 % 4096 ≠ 0 ∨
    windowRange (c.addr 1) (c.word 3 * 4096) = false →
    exec (.memWindowOpen c) s = .next ((begun c s).complete c stBadParam)) ∧
  (∀ (c : Cmd) (s : State), Starts 2 6 c s → (s.hl.windows.getD (c.word 0 % 64) {}).isOpen = false →
    exec (.memWindowClose c) s = .next ((begun c s).complete c stBadParam)) ∧
  (∀ (s : State) (k : Nat), (s.hl.windows.getD k {}).closing = false ∨ (s.hl.windows.getD k {}).inFlight ≠ 0 →
    exec (.windowDrainDone k) s = .next s) ∧
  (∀ (c : Cmd) (s : State) (k : Nat), Starts 2 6 c s → c.word 0 % 64 = k →
    (s.hl.windows.getD k {}).isOpen = true →
    ((s.hl.windows.getD k {}).inFlight = 0 → exec (.memWindowClose c) s =
      .next (((begun c s).onHl fun h => { h with windows := h.windows.set k {} }).complete c stOk)) ∧
    ((s.hl.windows.getD k {}).inFlight ≠ 0 → Shaped s →
      ∃ t : State, exec (.memWindowClose c) s = .next t ∧
        (t.hl.windows.getD k {}).isOpen = false ∧ (t.hl.windows.getD k {}).closing = true ∧
        (∀ o n src w, (t.hl.windows.getD k {}).admits o n src w = false) ∧
        t.hl.opens = s.hl.opens ++ [{ cmd := c, wait := .windowDrain k }] ∧ t.mem = s.mem ∧ KeepsBlocks s t)) ∧
  (∀ (s : State) (k : Nat), (s.hl.windows.getD k {}).closing = true → (s.hl.windows.getD k {}).inFlight = 0 →
    exec (.windowDrainDone k) s =
      .next ((s.onHl fun h => { h with windows := h.windows.set k {} }).finish (· = .windowDrain k) stOk))

/-- R176, R209, R211 to R213: the operations of the frame-table agent, what each returns, and its frame. -/
def Obligations.FrameTableOperationsAreExact : Prop :=
  let outside (s t : State) (index : Nat) : Prop :=
    ∀ a, a < entryAddr index ∨ entryAddr index + 8 ≤ a → t.byteAt a = s.byteAt a
  let answered (s : State) (v : Option Nat) : State := s.onKv fun x => { x with reply := v }
  (∀ w, w < 2 ^ 64 → (parseEntry w).word = w) ∧
  (∀ (s : State) (index pool r : Nat), 64 ≤ r → index < 2 ^ 23 →
    (s.mem.wf = true → (s.entry index).readable (idxDie index) pool = true → (s.entry index).readers < 255 →
      s.kv.engineReads.contains (r, index) = false →
      ∃ t : State, exec (.ftLookup index pool r) s = .next t ∧
        t.entry index = { s.entry index with readers := (s.entry index).readers + 1 } ∧ outside s t index ∧
        t.kv = { s.kv with reply := some (t.entryWord index), engineReads := s.kv.engineReads ++ [(r, index)] }) ∧
    ((s.entry index).readable (idxDie index) pool = true → s.kv.engineReads.contains (r, index) = true →
      exec (.ftLookup index pool r) s = .next (answered s (some (s.entryWord index)))) ∧
    ((s.entry index).readable (idxDie index) pool = false →
      exec (.ftLookup index pool r) s = .next (answered s none))) ∧
  (∀ (s : State) (index pool r : Nat), r < 64 → (s.core r).run = .running → index < 2 ^ 23 → s.lookupOpen r index = true →
    (s.mem.wf = true → (s.entry index).readable (idxDie index) pool = true → (s.entry index).readers < 255 →
      (s.core r).readers.contains index = false → (s.core r).readers.length < 256 →
      ∃ t : State, exec (.ftLookup index pool r) s = .next t ∧
        t.entry index = { s.entry index with readers := (s.entry index).readers + 1 } ∧ outside s t index ∧
        t.kv = { s.kv with reply := some (t.entryWord index) } ∧
        (t.core r).readers = (s.core r).readers ++ [index]) ∧
    ((s.entry index).readable (idxDie index) pool = true → (s.core r).readers.contains index = true →
      exec (.ftLookup index pool r) s = .next (answered s (some (s.entryWord index)))) ∧
    ((s.entry index).readable (idxDie index) pool = true → (s.core r).readers.contains index = false →
      256 ≤ (s.core r).readers.length → exec (.ftLookup index pool r) s = .next (s.tileFault r 5)) ∧
    ((s.entry index).readable (idxDie index) pool = false →
      exec (.ftLookup index pool r) s = .next ((answered s none).tileFault r 9))) ∧
  (∀ (s : State) (index pool r : Nat),
    (r < 64 → (s.core r).run ≠ .running → exec (.ftLookup index pool r) s = .next s) ∧
    (r < 64 → (s.core r).run = .running → index < 2 ^ 23 → s.lookupOpen r index = false →
      exec (.ftLookup index pool r) s = .next (s.tileFault r 3)) ∧
    (r < 64 → (s.core r).run = .running → 2 ^ 23 ≤ index →
      exec (.ftLookup index pool r) s = .next (s.tileFault r 9)) ∧
    (64 ≤ r → 2 ^ 23 ≤ index → exec (.ftLookup index pool r) s = .next (answered s none))) ∧
  (∀ (s : State) (index r : Nat), s.mem.wf = true → 0 < (s.entry index).readers →
    1 < (s.entry index).readers ∨ 0 < (s.entry index).refs →
    ∃ t : State, exec (.ftRelease ⟨index, r⟩) s = .next t ∧
      t.entry index = { s.entry index with readers := (s.entry index).readers - 1 } ∧ outside s t index ∧
      t.kv = { s.kv with engineReads := s.kv.engineReads.filter (· ≠ (r, index)) } ∧
      (t.core r).readers = (s.core r).readers.filter (· ≠ index)) ∧
  (∀ (s : State) (index r : Nat), s.mem.wf = true → (s.entry index).readers = 1 → (s.entry index).refs = 0 →
    (s.entry index).state = ftResident ∨ (s.entry index).state = ftPinned →
    ∃ t : State, exec (.ftRelease ⟨index, r⟩) s = .next t ∧
      t.entry index = { s.entry index with readers := 0, state := ftFree, cow := false } ∧ outside s t index ∧
      (∀ p q, s.pool (s.entry index).pool = some p → t.pool (s.entry index).pool = some q → idxDie index < p.dies.length →
        (s.entry index).number ∉ (q.die (idxDie index)).frames.used)) ∧
  (∀ (s : State) (index n : Nat), s.mem.wf = true →
    ((s.entry index).refs + n ≤ 4095 →
      ∃ t : State, exec (.ftRefAdd index n) s = .next t ∧
        t.entry index = { s.entry index with
          refs := (s.entry index).refs + n, cow := (s.entry index).cow || decide (1 < (s.entry index).refs + n) } ∧
        outside s t index ∧ t.kv = s.kv) ∧
    (4095 < (s.entry index).refs + n → exec (.ftRefAdd index n) s = .next s)) ∧
  (∀ (s : State) (index : Nat), s.mem.wf = true → 0 < (s.entry index).refs →
    1 < (s.entry index).refs ∨ 0 < (s.entry index).readers →
    ∃ t : State, exec (.ftRefSub index) s = .next t ∧
      t.entry index = { s.entry index with refs := (s.entry index).refs - 1 } ∧ outside s t index ∧ t.kv = s.kv) ∧
  (∀ (s : State) (index : Nat), s.mem.wf = true → (s.entry index).refs = 1 → (s.entry index).readers = 0 →
    (s.entry index).state = ftResident ∨ (s.entry index).state = ftPinned ∨ (s.entry index).state = ftSwapped →
    ∃ t : State, exec (.ftRefSub index) s = .next t ∧
      t.entry index = { s.entry index with refs := 0, state := ftFree, cow := false } ∧ outside s t index ∧
      ∀ p q, s.pool (s.entry index).pool = some p → t.pool (s.entry index).pool = some q → idxDie index < p.dies.length →
        (idxEntry index - (p.die (idxDie index)).firstEntry) ∉ (q.die (idxDie index)).entries.used) ∧
  (∀ (s : State) (index e n : Nat),
    (s.entryWord index = e →
      exec (.ftCas index e n) s = .next (answered (s.writeNat (entryAddr index) 8 n) none)) ∧
    (s.entryWord index ≠ e → exec (.ftCas index e n) s = .next (answered s (some (s.entryWord index))))) ∧
  (∀ (s u : State) (die pool state index : Nat), s.mem.wf = true → s.ftAlloc die pool state 0 = some (index, u) →
    die < 4 → pool < 64 → state < 8 → index / 2 ^ 21 = die →
    ∃ t : State, exec (.ftAlloc die pool state) s = .next t ∧ (t.entry index).home = die ∧
      (t.entry index).gen = ((s.entry index).gen + 1) % 16 ∧ (t.entry index).state = state ∧
      (t.entry index).refs = 1 ∧ (t.entry index).readers = 0 ∧ (t.entry index).pool = pool ∧
      (t.entry index).cow = false ∧ outside s t index) ∧
  (∀ (s : State) (die pool state : Nat), s.ftAlloc die pool state 0 = none →
    exec (.ftAlloc die pool state) s = .next s)

/-- R203 to R205, R215 to R217, R223, R224, R226, R413, R433: with the outcomes that refuse. -/
def Obligations.PoolsAndSequencesAreCreated : Prop :=
  (∀ (c : Cmd) (s : State), Starts 5 1 c s → let p := parsePool c.data
    let full := p.dieList.any fun d => decide (tableEntries < s.entriesUsed d + p.entriesPerDie)
    (poolBad p = true ∨ (s.pool p.id).isSome = true →
      exec (.kvPoolCreate c) s = .next ((begun c s).complete c stBadParam)) ∧
    (poolBad p = false → s.pool p.id = none →
      (full = true → exec (.kvPoolCreate c) s = .next ((begun c s).complete c stLimit)) ∧
      (full = false → s.poolPlaces p = none → exec (.kvPoolCreate c) s = .next ((begun c s).complete c stNoMemory)) ∧
      (full = false → ∀ places, s.poolPlaces p = some places →
        ∃ (u : State) (q : Pool), exec (.kvPoolCreate c) s = .next (u.complete c stOk) ∧ u.pool p.id = some q ∧
          q = { p with dies := q.dies } ∧ u.mem = s.mem ∧ u.kv.seqs = s.kv.seqs ∧
          (∀ d a, (d, a) ∈ places → (q.die d).base = a ∧ (q.die d).frames = { bound := p.framesPerDie } ∧
            (q.die d).entries = { bound := p.entriesPerDie }) ∧
          u.hl.allocs = s.hl.allocs ++ places.map fun x => { base := x.2, size := p.regionBytes, firmware := true }))) ∧
  (∀ (c : Cmd) (s : State), Starts 5 2 c s → let q := parseSeq c.ring c.data
    (s.pool q.pool = none → exec (.kvSeqCreate c) s = .next ((begun c s).complete c stBadParam)) ∧
    (∀ p, s.pool q.pool = some p → (4095 < q.id ∨ (s.seqAt q.id).isSome = true ∨ 3 < q.cls ∨ 7 < q.priority ∨
        q.maxTokens < 16 ∨ 262144 < q.maxTokens ∨ q.maxTokens % 16 ≠ 0 ∨ tablesBad p q = true ∨
        fieldAt c.data 5 3 ≠ 0 ∨ fieldAt c.data 12 4 ≠ 0 ∨ fieldAt c.data 48 16 ≠ 0) →
      exec (.kvSeqCreate c) s = .next ((begun c s).complete c stBadParam)) ∧
    (∀ p, s.pool q.pool = some p → q.id ≤ 4095 → s.seqAt q.id = none → q.cls ≤ 3 → q.priority ≤ 7 →
      16 ≤ q.maxTokens → q.maxTokens ≤ 262144 → q.maxTokens % 16 = 0 → fieldAt c.data 5 3 = 0 →
      fieldAt c.data 12 4 = 0 → fieldAt c.data 48 16 = 0 → tablesBad p q = false →
      let short := p.dieList.any fun d => decide (p.freeFrames d < p.layers * q.pages ∨ p.freeIndexes d < p.layers * q.pages)
      (s.ownsTables c.ring p q = false → exec (.kvSeqCreate c) s = .next ((begun c s).complete c stDenied)) ∧
      (s.ownsTables c.ring p q = true → q.cls ≤ 1 → short = true →
        exec (.kvSeqCreate c) s = .next ((begun c s).complete c stNoMemory)) ∧
      (s.ownsTables c.ring p q = true → q.cls ≤ 1 → short = false →
        ∃ (u : State) (n : Nat), exec (.kvSeqCreate c) s = .next (u.complete c stOk) ∧
          u.kv.seqs = s.kv.seqs ++ [{ q with admitted := n }]) ∧
      (s.ownsTables c.ring p q = true → 2 ≤ q.cls → s.mem.wf = true →
        ∃ (u : State) (n : Nat), exec (.kvSeqCreate c) s = .next (u.complete c stOk) ∧
          u.kv = { s.kv with seqs := s.kv.seqs ++ [{ q with admitted := n }] } ∧
          (∀ d i, d < 4 → p.onDie d = true → i < tableBytes p q → u.byteAt (q.bt.getD d 0 + i) = 0xFF)))) ∧
  (∀ (c : Cmd) (s : State), Starts 5 3 c s →
    (s.seqNamed (c.word 0) = none → exec (.kvSeqFork c) s = .next ((begun c s).complete c stBadParam)) ∧
    (∀ q, s.seqNamed (c.word 0) = some q → let p := (s.pool q.pool).getD {}
      let child : KvSeq := { q with id := c.word 1, ctx := c.ring, length := c.word 2, state := .active
                                    bt := btOf c.data 0, freeing := false }
      let frames := s.framesOf p q 0 (ceilDiv (c.word 2) 16)
      let st := if 4095 < c.word 1 ∨ (s.seqAt (c.word 1)).isSome = true ∨ q.length < c.word 2 ∨ tablesBad p child = true
          then stBadParam
        else if s.ownsTables c.ring p child = false then stDenied
        else if q.cls ≤ 1 then stClassDenied
        else if q.state ≠ .active then stKvSwapped
        else if ∃ i ∈ frames, (s.entry i).state = ftPinned then stBusy
        else if ∃ i ∈ frames, 4095 ≤ (s.entry i).refs then stLimit
        else stOk
      (st ≠ stOk → exec (.kvSeqFork c) s = .next ((begun c s).complete c st)) ∧
      (st = stOk → ∃ (u : State) (n : Nat), exec (.kvSeqFork c) s = .next (u.complete c stOk frames.length) ∧
        u.kv = { s.kv with seqs := s.kv.seqs ++ [{ child with admitted := n }] }))) ∧
  (∀ (c : Cmd) (s : State), Starts 5 4 c s →
    (s.seqNamed (c.word 0) = none → exec (.kvSeqFree c) s = .next ((begun c s).complete c stBadParam)) ∧
    (∀ q, s.seqNamed (c.word 0) = some q →
      (s.seqInUse q.id = true → exec (.kvSeqFree c) s = .next ((begun c s).complete c stBusy)) ∧
      (s.seqInUse q.id = false → s.seqMoving q = true → exec (.kvSeqFree c) s =
        .next (((begun c s).onSeq q.id fun q => { q with freeing := true }).await c (.seqFree q.id))) ∧
      (s.seqInUse q.id = false → s.seqMoving q = false →
        ∃ u : State, exec (.kvSeqFree c) s = .next (u.complete c stOk) ∧
          u.kv.seqs = s.kv.seqs.filter (fun x => x.id ≠ q.id)))) ∧
  (∀ (c : Cmd) (s : State), Starts 5 9 c s → bitAt (c.word 0) 31 = false →
    (s.seqNamed (c.word 0) = none → exec (.kvQuery c) s = .next ((begun c s).complete c stBadParam)) ∧
    (∀ q, s.seqNamed (c.word 0) = some q → ∃ r, exec (.kvQuery c) s =
      .next ((begun c s).complete c stOk (q.state.code + 2 ^ 32 * q.length) r))) ∧
  (∀ (c : Cmd) (s : State), Starts 5 9 c s → bitAt (c.word 0) 31 = true → let d := bitsOf (c.word 0) 9 8
    (s.pool (c.word 0 % 256) = none → exec (.kvQuery c) s = .next ((begun c s).complete c stBadParam)) ∧
    (∀ p, s.pool (c.word 0 % 256) = some p →
      (p.onDie d = false → exec (.kvQuery c) s = .next ((begun c s).complete c stBadParam)) ∧
      (p.onDie d = true → exec (.kvQuery c) s =
        .next ((begun c s).complete c stOk (p.freeFrames d) (p.freeIndexes d)))))

/-- R214, R229 to R232, R446, R447: with the outcomes that refuse. -/
def Obligations.SwappingMovesFramesAndStates : Prop :=
  (∀ (c : Cmd) (s : State), Starts 5 5 c s →
    let bad := decide (c.addr 0 % 4096 ≠ 0 ∨ c.word 2 = 0 ∨ 65535 < c.word 2) || !inHost (c.addr 0) (c.word 2 * 2 ^ 20)
    (bad = true → exec (.kvSwapArea c) s = .next ((begun c s).complete c stBadParam)) ∧
    (bad = false → s.anySwapped = true → exec (.kvSwapArea c) s = .next ((begun c s).complete c stBusy)) ∧
    (bad = false → s.anySwapped = false → exec (.kvSwapArea c) s = .next (((begun c s).onKv fun k => { k with
      area := some (c.addr 0, c.word 2 * 1024)
      swapUnits := { bound := c.word 2 * 1024, used := k.swapUnits.used } }).complete c stOk))) ∧
  (∀ (c : Cmd) (s : State), Starts 5 6 c s →
    (s.seqNamed (c.word 0) = none → exec (.kvSwapOut c) s = .next ((begun c s).complete c stBadParam)) ∧
    (∀ q, s.seqNamed (c.word 0) = some q →
      (q.cls ≤ 1 → exec (.kvSwapOut c) s = .next ((begun c s).complete c stClassDenied)) ∧
      (2 ≤ q.cls → q.state ≠ .active → exec (.kvSwapOut c) s = .next ((begun c s).complete c stKvSwapped)) ∧
      (2 ≤ q.cls → q.state = .active → s.swapFits q = false →
        exec (.kvSwapOut c) s = .next ((begun c s).complete c stNoMemory)) ∧
      (2 ≤ q.cls → q.state = .active → s.swapFits q = true →
        exec (.kvSwapOut c) s = .next (((begun c s).await c (.swapOut q.id)).suspendSeq q.id)))) ∧
  (∀ (c : Cmd) (s : State), Starts 5 7 c s →
    (s.seqNamed (c.word 0) = none → exec (.kvSwapIn c) s = .next ((begun c s).complete c stBadParam)) ∧
    (∀ q, s.seqNamed (c.word 0) = some q →
      (q.cls ≤ 1 → exec (.kvSwapIn c) s = .next ((begun c s).complete c stClassDenied)) ∧
      (2 ≤ q.cls → q.state = .active → exec (.kvSwapIn c) s = .next ((begun c s).complete c stOk)) ∧
      (2 ≤ q.cls → q.state = .suspending ∨ q.state = .resuming →
        exec (.kvSwapIn c) s = .next ((begun c s).complete c stBusy)) ∧
      (2 ≤ q.cls → q.state = .suspended → s.canResume q = false →
        exec (.kvSwapIn c) s = .next ((begun c s).complete c stNoMemory)) ∧
      (2 ≤ q.cls → q.state = .suspended → s.canResume q = true →
        exec (.kvSwapIn c) s = .next (((begun c s).await c (.swapIn q.id)).resumeSeq q.id)))) ∧
  (∀ (s : State) (id : Nat) (q : KvSeq), s.seqAt id = some q → q.state = .suspending → s.seqRuns id = false →
    s.seqMoving q = false → s.privateFrames q = [] →
    ∃ t r, t = s.checkSuspended id ∧ t.seqAt id = some r ∧ r.state = .suspended ∧
      t.awaiting (· = .swapOut id) = []) ∧
  (∀ (s : State) (index : Nat) (x : Xfer), s.xfer index true = some x →
    (s.hl.linkUp = false → exec (.swapOutFrameDone index true) s = .next s) ∧
    exec (.swapOutFrameDone index false) s = .next s ∧
    (s.hl.linkUp = true → s.mem.wf = true → x.unit < 2 ^ 26 →
      ∃ u : State, exec (.swapOutFrameDone index true) s = .next u.afterXfer ∧
        u.kv.xfers = s.kv.xfers.filter (fun y => y.index ≠ index) ∧ u.kv.seqs = s.kv.seqs ∧
        (u.entry index).state = ftSwapped ∧ (u.entry index).number = x.unit ∧
        (u.entry index).gen = ((s.entry index).gen + 1) % 16 ∧ (u.entry index).refs = (s.entry index).refs)) ∧
  (∀ (s : State) (index : Nat) (x : Xfer) (data : List Byte), s.xfer index false = some x → s.hl.linkUp = true →
    (x.failed = false →
      exec (.swapInFrameDone index true data) s =
        .next (((s.readUnits index x).frameIn index data).inDone index x) ∧
      exec (.swapReadRetry index true data) s = .next s ∧
      ∃ t : State, exec (.swapInFrameDone index false data) s = .next t ∧ t.mem = s.mem ∧
        ∀ y, t.xfer index false = some y → y.failed = true ∧ y.failedAt = s.tb.link) ∧
    (x.failed = true → exec (.swapInFrameDone index true data) s = .next s) ∧
    (x.failed = true → s.phase s.tb.link % 100 = 0 → x.failedAt < s.tb.link →
      exec (.swapReadRetry index true data) s =
        .next (((s.readUnits index x).frameIn index data).inDone index x) ∧
      (x.retries < 2 → ∃ t : State, exec (.swapReadRetry index false data) s = .next t ∧ t.mem = s.mem ∧
        ∀ y, t.xfer index false = some y → y.retries = x.retries + 1 ∧ y.failedAt = s.tb.link) ∧
      (2 ≤ x.retries → ∃ u : State, exec (.swapReadRetry index false data) s = .next (u.inDone index x) ∧
        u.kv = s.kv ∧ u.mem.cells = s.mem.cells ∧
        (∀ g ∈ granulesOf (s.frameAddr index) ((s.pool (s.entry index).pool).getD {}).frameBytes,
          g ∈ u.mem.poison ∧ g ∈ u.mem.checkPat)))) ∧
  (∀ (s : State) (index : Nat) (x : Xfer), s.mem.wf = true → index < 2 ^ 23 →
    ∃ u : State, s.inDone index x = u.afterXfer ∧ (u.entry index).state = ftResident ∧
      (u.entry index).gen = ((s.entry index).gen + 1) % 16 ∧ u.kv.seqs = s.kv.seqs ∧
      u.kv.xfers = s.kv.xfers.filter (fun y => y.index ≠ index))

/-- R220, R221, R228, R233, R234, R349. -/
def Obligations.WriteResolutionAndCompaction : Prop :=
  (∀ (s : State) (ctx tag : Nat) (j : Job) (bad : List Nat), s.job { ctx := ctx, tag := tag } = some j →
    let bs := j.bindings.filter Binding.writes
    let r := s.resolveAll bs bad
    let waits := (bs.any fun b => !(s.seqAt b.seq).any fun q => q.state = .active) ||
      bs.any fun b => (s.writeFrames b).any fun i => i ≠ noFrame && (s.entry i).state = ftPinned
    (j.resolved = true ∨ bs = [] ∨ waits = true → exec (.kvWriteResolution ctx ⟨tag, bad⟩) s = .next s) ∧
    (j.resolved = false → bs ≠ [] → waits = false →
      (r.lacks = none → ∃ t k, exec (.kvWriteResolution ctx ⟨tag, bad⟩) s = .next t ∧ t.job j.key = some k ∧
        k.resolved = true ∧ k.pinned = bs.flatMap r.s.writeFrames) ∧
      (∀ q d, r.lacks = some (q, d) →
        (((r.s.pool q.pool).getD {}).freeIndexes d = 0 →
          exec (.kvWriteResolution ctx ⟨tag, bad⟩) s = .next (s.requestEnd j.key stNoMemory)) ∧
        (((r.s.pool q.pool).getD {}).freeIndexes d ≠ 0 →
          ((s.kv.seqs.any fun v => v.pool = q.pool && v.state = .suspending) = true →
            exec (.kvWriteResolution ctx ⟨tag, bad⟩) s = .next s) ∧
          ((s.kv.seqs.any fun v => v.pool = q.pool && v.state = .suspending) = false →
            (s.victim q = none →
              exec (.kvWriteResolution ctx ⟨tag, bad⟩) s = .next (s.requestEnd j.key stNoMemory)) ∧
            (∀ v, s.victim q = some v → exec (.kvWriteResolution ctx ⟨tag, bad⟩) s =
              .next (if s.swapFits v then s.suspendSeq v.id else s.requestEnd j.key stNoMemory))))))) ∧
  (∀ (s : State) (j : Job) (st : Nat), s.job j.key = some j → j.placed = [] → (s.requestEnd j.key st).job j.key = none) ∧
  (∀ (s : State) (q v : KvSeq), s.victim q = some v →
    v ∈ s.kv.seqs ∧ v.pool = q.pool ∧ v.id ≠ q.id ∧ 2 ≤ v.cls ∧ v.state = .active ∧
      ∀ w ∈ s.kv.seqs, w.pool = q.pool → w.id ≠ q.id → 2 ≤ w.cls → w.state = .active → w.freeing = false →
        w.priority < q.priority → w.cls ≤ v.cls ∧ (w.cls = v.cls → v.priority ≤ w.priority)) ∧
  (∀ (c : Cmd) (s : State), Starts 5 8 c s →
    (s.pool (c.word 0) = none → exec (.kvCompact c) s = .next ((begun c s).complete c stBadParam)) ∧
    (∀ p, s.pool (c.word 0) = some p →
      let short := p.dieList.any fun d =>
        let used := (p.die d).frames.used
        let below := (used.filter fun u => decide (u < c.word 1)).length
        decide (c.word 1 - below < used.length - below)
      (c.word 1 = 0 ∨ p.framesPerDie < c.word 1 → exec (.kvCompact c) s = .next ((begun c s).complete c stBadParam)) ∧
      (0 < c.word 1 → c.word 1 ≤ p.framesPerDie →
        (s.kv.compaction ≠ none → exec (.kvCompact c) s = .next ((begun c s).complete c stBusy)) ∧
        (s.kv.compaction = none → short = true → exec (.kvCompact c) s = .next ((begun c s).complete c stNoMemory)) ∧
        (s.kv.compaction = none → short = false → exec (.kvCompact c) s = .next ((((begun c s).onKv fun k => { k with
          compaction := some { pool := p.id, target := c.word 1 } }).await c (.compact p.id)).checkCompacted))))) ∧
  (∀ (s : State) (index : Nat) (bad : List Nat) (x : Compaction), s.kv.compaction = some x →
    let p := (s.pool x.pool).getD {}
    let room := x.target - (((p.die (idxDie index)).frames.used).filter fun u => decide (u < x.target)).length
    (s.sch.bgdUntil ≤ s.tb.link ∨ (s.aboveTarget p x.target).contains index = false ∨ s.triedNow x index = true →
      exec (.compactionMove ⟨index, bad⟩) s = .next s) ∧
    (s.tb.link < s.sch.bgdUntil → (s.aboveTarget p x.target).contains index = true → s.triedNow x index = false →
      ((s.entry index).state ≠ ftResident ∨ (s.entry index).readers ≠ 0 ∨ room = 0 →
        exec (.compactionMove ⟨index, bad⟩) s = .next (s.failMove x index)) ∧
      ((s.entry index).state = ftResident → (s.entry index).readers = 0 → 0 < room → s.mem.wf = true →
        ∃ u : State, exec (.compactionMove ⟨index, bad⟩) s = .next u.checkCompacted ∧
          u.kv.compaction = some { x with moved := x.moved + 1 } ∧ u.sch = s.sch ∧ u.asz = s.asz ∧
          u.entry index = { s.entry index with
            gen := ((s.entry index).gen + 1) % 16
            number := nthFree (p.die (idxDie index)).frames.used (s.draw 0 % room) % 2 ^ 26 })))

/-- R123, R360, R361, R366, R368, R433. -/
def Obligations.JobsAreSubmittedCancelledAndQueried : Prop :=
  (∀ (c : Cmd) (s : State), Starts 3 1 c s → (begun c s).submitStatus c (parseJob c) ≠ stOk →
    exec (.jobSubmit c) s = .next ((begun c s).complete c ((begun c s).submitStatus c (parseJob c)))) ∧
  (∀ (c : Cmd) (s : State), Starts 3 1 c s → (begun c s).submitStatus c (parseJob c) = stOk →
    (begun c s).saveAreasFor (parseJob c) = none →
    exec (.jobSubmit c) s = .next ((begun c s).complete c stNoMemory)) ∧
  (∀ (c : Cmd) (s : State) (areas : List Nat), Starts 3 1 c s → (begun c s).submitStatus c (parseJob c) = stOk →
    (begun c s).saveAreasFor (parseJob c) = some areas →
    ∃ t : State, ∃ j : Job, exec (.jobSubmit c) s = .next t ∧ t.job { ctx := c.ring, tag := c.tag } = some j ∧
      t.sch.jobs = s.sch.jobs ++ [j] ∧ j.state = .queued ∧ j.placed = [] ∧ j.cores = (parseJob c).cores ∧
      j.partition = c.partition ∧ j.mode = (parseJob c).mode ∧ j.codeAddr = (parseJob c).codeAddr ∧
      j.entryPc = (parseJob c).entryPc ∧ j.saveAreas = areas ∧ j.order = s.sch.nextOrder ∧
      j.releasePending = decide (j.mode = 0) ∧ t.sch.nextOrder = s.sch.nextOrder + 1 ∧
      (t.ctx c.ring).accepted = ((s.ctx c.ring).accepted + 1) % 2 ^ 32) ∧
  (∀ (c : Cmd) (s : State), Starts 3 2 c s →
    (s.namedJob c = none → exec (.jobCancel c) s = .next ((begun c s).complete c stBadParam)) ∧
    (∀ j, s.namedJob c = some j →
      (j.partition = 0 → s.running = true ∨ s.dev.mode = .replay →
        exec (.jobCancel c) s = .next ((begun c s).complete c stMode)) ∧
      ((j.partition = 0 → s.running = false ∧ s.dev.mode ≠ .replay) →
        exec (.jobCancel c) s = .next (((begun c s).complete c stOk).requestEnd j.key stCancelled) ∧
        (j.placed = [] → ∃ t : State, exec (.jobCancel c) s = .next t ∧ t.job j.key = none)))) ∧
  (∀ (c : Cmd) (s : State), Starts 3 3 c s →
    (s.namedJob c = none → exec (.jobQuery c) s = .next ((begun c s).complete c stBadParam)) ∧
    (∀ j, s.namedJob c = some j →
      exec (.jobQuery c) s = .next ((begun c s).complete c (if j.state = .preempted then stPreempted else stOk)
        j.state.code j.releases (resultWord2 j.flagRec j.reruns false))))

/-- R345, R355 to R358. -/
def Obligations.TablesAreLoadedArmedAndSwitched : Prop :=
  (∀ (c : Cmd) (s : State) (first count : Nat), Starts 4 1 c s → c.word 0 % 256 = first →
    bitsOf (c.word 0) 15 8 = count →
    let head := if first = 0 then 64 else 0
    let inTurn := first = 0 ∨ (s.sch.shadow = .part ∧ s.sch.shadowTable.rows.length = first)
    let old : Table := if first = 0 then { header := c.data.take 64, id := fieldAt c.data 8 4 } else s.sch.shadowTable
    let bytes := if first = 0 then c.data.drop 64 else c.data
    let t : Table := { old with
      rows := old.rows ++ (List.range count).map fun i => parseRow ((bytes.drop (192 * i)).take 192)
      rowBytes := old.rowBytes ++ bytes }
    let u := (begun c s).onSch fun x => { x with shadow := .part, shadowTable := t }
    (c.length ≠ head + 192 * count → exec (.schLoad c) s = .next ((begun c s).complete c stBadLength)) ∧
    (c.length = head + 192 * count → 80 < first + count ∨ ¬inTurn →
      exec (.schLoad c) s = .next ((begun c s).complete c stBadParam)) ∧
    (c.length = head + 192 * count → inTurn →
      (first + count < 80 → exec (.schLoad c) s = .next (u.complete c stOk)) ∧
      (first + count = 80 → s.tableCheck t = none →
        exec (.schLoad c) s = .next ((u.onSch fun x => { x with shadow := .valid }).complete c stOk)) ∧
      (first + count = 80 → ∀ code row i, s.tableCheck t = some (code, row, i) →
        exec (.schLoad c) s = .next ((u.onSch fun x => { x with shadow := .invalid }).bump.complete c stTableInvalid
          (code + 2 ^ 8 * row + 2 ^ 16 * i))))) ∧
  (∀ (c : Cmd) (s : State), Starts 4 2 c s →
    exec (.schArm c) s = .next (((begun c s).onSch fun x => { x with
      armed := true, armLink := if x.armed then x.armLink else s.tb.link }).await c (.arm s.tb.link false))) ∧
  (∀ (c : Cmd) (s : State) (p k : Nat), Starts 4 3 c s → c.word 0 % 16 = p → bitsOf (c.word 0) 11 8 = k →
    let used := (s.sch.jobs.any fun j => j.partition = p) || (k = 15 && (s.sch.active.gives p ||
      (s.sch.shadow = .valid && s.sch.shadowTable.gives p) || (s.sch.switchAt.isSome && s.sch.next.gives p)))
    (s.dev.mode ≠ .config → exec (.schPartition c) s = .next ((begun c s).complete c stMode)) ∧
    (s.dev.mode = .config → p = 0 ∨ (k ≠ 1 ∧ k ≠ 2 ∧ k ≠ 3 ∧ k ≠ 15) →
      exec (.schPartition c) s = .next ((begun c s).complete c stBadParam)) ∧
    (s.dev.mode = .config → p ≠ 0 → k = 1 ∨ k = 2 ∨ k = 3 ∨ k = 15 →
      (used = true → exec (.schPartition c) s = .next ((begun c s).complete c stBusy)) ∧
      (used = false → exec (.schPartition c) s = .next (((begun c s).onSch fun x => { x with
        classes := x.classes.set p (if k = 15 then 7 else k) }).complete c stOk)))) ∧
  (∀ (c : Cmd) (s : State), Starts 4 4 c s → bitAt (c.word 0) 31 = true →
    ((s.ctx (c.word 0 % 256)).isOpen = false → exec (.schQuery c) s = .next ((begun c s).complete c stBadParam)) ∧
    ((s.ctx (c.word 0 % 256)).isOpen = true → exec (.schQuery c) s = .next ((begun c s).complete c stOk
      ((s.ctx (c.word 0 % 256)).accepted + 2 ^ 32 * (s.ctx (c.word 0 % 256)).ended)))) ∧
  (∀ (c : Cmd) (s : State), Starts 4 4 c s → bitAt (c.word 0) 31 = false →
    exec (.schQuery c) s = .next ((begun c s).complete c stOk s.schStatus s.sch.active.id
      (if s.sch.shadow = .empty then 0 else s.sch.shadowTable.id))) ∧
  (∀ s : State, s.sch.armed = false ∨ s.tb.link ≤ s.sch.armLink ∨ s.phase (s.tb.link + 5) % 8000 ≠ 0 ∨
    s.sch.switchAt = some (s.tb.link + 5) ∨ s.sch.deferAt = some (s.tb.link + 5) → exec .schSwitchDecision s = .next s) ∧
  (∀ s : State, s.sch.armed = true → s.sch.armLink < s.tb.link → s.phase (s.tb.link + 5) % 8000 = 0 → s.up = true →
    s.sch.switchAt ≠ some (s.tb.link + 5) → s.sch.deferAt ≠ some (s.tb.link + 5) →
    let x := s.sch.shadowTable
    let why := if s.sch.shadow ≠ .valid then 1
      else if (s.running = true ∨ s.dev.mode = .replay) ∧ x.mask 0 0 ≠ s.p0Mask then 2
      else if s.absentCheck x ≠ none then 3
      else if s.liveCheck x ≠ none then 4
      else 0
    ∃ t : State, exec .schSwitchDecision s = .next t ∧ t.mem = s.mem ∧ t.sch.active = s.sch.active ∧
      (why ≠ 0 → t.sch = { s.sch with deferAt := some (s.tb.link + 5), lastDecision := 2, deferReason := why }) ∧
      (why = 0 → t.sch = { s.sch with
        armed := s.armsLater, armLink := s.tb.link, switchAt := some (s.tb.link + 5), next := x, shadow := .empty
        shadowTable := {}, lastDecision := 1, deferReason := 0 }))

/-- R350, R351, R353, R354, R367. -/
def Obligations.TheGuardStopsWhatMoves : Prop :=
  (∀ (s : State) (j : Job), s.phase s.tb.link % 100 = 95 → s.up = true →
    (s.sch.jobs.filter fun j => j.partition ≠ 0 && j.placed.any s.coreMoving) = [j] → s.job j.key = some j →
    j.state = .running → j.endWith = none → (∀ g ∈ j.placed, (s.core g).run = .running) →
    ∃ t : State, ∃ k : Job, exec .chainGuardStart s = .next t ∧ t.job j.key = some k ∧ k.state = .stopping ∧
      (∀ g ∈ j.placed, (t.core g).stopReq = true ∧ (t.core g).run = .running) ∧ t.mem = s.mem ∧ t.hl = s.hl) ∧
  (∀ s : State, s.phase s.tb.link % 100 ≠ 95 → exec .chainGuardStart s = .next s) ∧
  (∀ (s : State) (g : Nat), s.overstays g = true →
    exec (.saveDeadlineExpiry g) s = .next (s.failOn g stTileFault)) ∧
  (∀ (s : State) (g : Nat) (j : Job), s.coreJob g = some j → s.sch.active.holder s.sch.row g = some j.partition →
    exec (.saveDeadlineExpiry g) s = .next s) ∧
  (∀ (s : State) (part : Nat) (j : Job) (gs : List Nat), s.up = true →
    0 < j.cores → s.sch.jobs.filter (s.candidate part) = [j] → s.pickCores ((List.range 64).filter (s.coreFree part)) j = some gs →
    exec (.jobPlacement part) s = .next (s.placeJob j gs) ∧ gs.length = j.cores ∧
    (∀ g ∈ gs, s.coreFree part g = true) ∧
    (j.usesMask = false → ∀ g, g < 64 → s.coreFree part g = true → g ∉ gs → ∀ x ∈ gs, x < g)) ∧
  (∀ (s : State) (part : Nat) (j : Job), s.up = true → s.sch.jobs.filter (s.candidate part) = [j] →
    s.pickCores ((List.range 64).filter (s.coreFree part)) j = none → exec (.jobPlacement part) s = .next s) ∧
  (∀ (s : State) (part : Nat), s.up = true → s.sch.jobs.filter (s.candidate part) = [] →
    exec (.jobPlacement part) s = .next s)

/-- R349, R351, R352, R361 to R363, R365, R375. -/
def Obligations.ReleasesBudgetsAndDeadlines : Prop :=
  (∀ (s : State) (ctx tag : Nat) (j : Job), s.job { ctx := ctx, tag := tag } = some j →
    s.periodicDue j s.tb.link = true → s.releaseMode j = true → j.releasedAt ≠ some s.tb.link →
    j.partition ≠ 0 ∨ s.asz.pairBOk = true →
    (j.released = false → j.endWith = none → j.state ≠ .idle ∨ (s.inGuard && j.placed.any s.coreMoving) = false →
      ∃ t : State, ∃ k : Job, exec (.periodicRelease ctx tag) s = .next t ∧ t.job j.key = some k ∧
        k.releases = j.releases + 1 ∧ k.released = true ∧ k.releasedAt = some s.tb.link ∧ k.charged = 1 ∧
        k.flagRec = 0 ∧ k.overrun = false ∧ (j.state = .idle → k.state = .running) ∧
        (j.state = .queued → k.releasePending = true ∧ k.state = .queued) ∧
        (j.state = .preempted ∨ j.state = .stopping → k.releasePending = true ∧ k.fresh = true ∧ k.state = j.state) ∧
        t.sch.missed = s.sch.missed) ∧
    (j.released = false → j.endWith = none → j.state = .idle → (s.inGuard && j.placed.any s.coreMoving) = true →
      (∀ g ∈ j.placed, s.liveBad g = false) →
      ∃ t : State, ∃ k : Job, exec (.periodicRelease ctx tag) s = .next t ∧ t.job j.key = some k ∧
        k.releases = j.releases + 1 ∧ k.released = true ∧ k.releasePending = true ∧ k.fresh = true ∧
        k.state = .preempted) ∧
    (j.released = false → j.endWith.isSome = true → exec (.periodicRelease ctx tag) s = .next s) ∧
    (j.released = true → ∃ t : State, ∃ k : Job, exec (.periodicRelease ctx tag) s = .next t ∧ t.job j.key = some k ∧
      k = { j with releasedAt := some s.tb.link } ∧ t.sch.missed = satInc 65535 s.sch.missed ∧ t.mem = s.mem)) ∧
  (∀ (s : State) (ctx tag : Nat) (j : Job), s.job { ctx := ctx, tag := tag } = some j →
    s.periodicDue j s.tb.link = false ∨ s.releaseMode j = false ∨ j.releasedAt = some s.tb.link ∨
      (j.partition = 0 ∧ s.asz.pairBOk = false) → exec (.periodicRelease ctx tag) s = .next s) ∧
  (∀ (s : State) (ev : Nat),
    (s.eventNow ev 1 = none → exec (.rowEventRelease ev) s = .next s) ∧
    (∀ e j, s.eventNow ev 1 = some e →
      (s.sch.jobs.filter fun j => j.mode = 2 && j.releaseId = e.releaseId && s.releaseMode j &&
        j.releasedAt ≠ some s.tb.link) = [j] →
      exec (.rowEventRelease ev) s = .next (s.releaseJob j))) ∧
  (∀ (s : State) (ctx tag : Nat) (j : Job), s.job { ctx := ctx, tag := tag } = some j →
    (j.charged < j.budget ∨ j.released = false ∨ j.overrun = true ∨ j.endWith.isSome = true →
      exec (.budgetExpiry ctx tag) s = .next s) ∧
    (j.budget ≤ j.charged → j.released = true → j.overrun = false → j.endWith = none →
      (j.placed ≠ [] → (∀ g ∈ j.placed, (s.core g).run = .running) →
        ∃ t : State, ∃ k : Job, exec (.budgetExpiry ctx tag) s = .next t ∧ t.job j.key = some k ∧ k.overrun = true ∧
          (∀ g ∈ j.placed, (t.core g).stopReq = true) ∧ t.sch.overruns = satInc 65535 s.sch.overruns ∧ t.mem = s.mem) ∧
      (j.placed = [] → j.mode ≠ 0 → ∃ t : State, ∃ k : Job, exec (.budgetExpiry ctx tag) s = .next t ∧
        t.job j.key = some k ∧ k.released = false ∧ k.releasePending = false ∧
        t.sch.overruns = satInc 65535 s.sch.overruns) ∧
      (j.placed = [] → j.mode = 0 → ∃ t : State, exec (.budgetExpiry ctx tag) s = .next t ∧
        t.job j.key = none ∧ t.sch.overruns = satInc 65535 s.sch.overruns))) ∧
  (∀ (s : State) (ctx tag : Nat) (j : Job), s.job { ctx := ctx, tag := tag } = some j →
    (j.state = .queued → j.everRan = false → s.deadlinePassed j.deadline = true →
      exec (.jobDeadlineExpiry ctx tag) s = .next (s.bump.endJob j.key stTimeout) ∧
        (s.bump.endJob j.key stTimeout).job j.key = none) ∧
    (j.state ≠ .queued ∨ j.everRan = true ∨ s.deadlinePassed j.deadline = false →
      exec (.jobDeadlineExpiry ctx tag) s = .next s))

/-- R121, R124, R145, R147, R149, R159, R229, R349, R367, R369, R432. -/
def Obligations.SlotsWindowsSavesAndRestores : Prop :=
  (∀ (s : State) (ev : Nat) (e : RowEvent), s.eventNow ev 2 = some e → s.sch.classes.getD e.partition 7 = 3 →
    ((∀ x ∈ s.sch.slots, x.1 ≠ e.partition) →
      (∀ j ∈ s.sch.jobs, ∀ g ∈ j.placed, bitAt (s.maskNow e.partition) g = false) →
      let gs := (List.range 64).filter fun g => bitAt (s.maskNow e.partition) g && s.corePresent g
      ∃ t : State, exec (.rowEventSelftest ev) s = .next t ∧
        t.sch.slots = s.sch.slots ++ [(e.partition, s.tb.link, s.tb.link + e.length, gs)] ∧ t.mem = s.mem ∧
        (∀ g ∈ gs, ∀ p, s.physOf g = some p → p < s.cores.phys.length → (s.core g).job = none →
          (s.core g).run = .idle → (t.core g).run = .selftest)) ∧
    ((s.sch.slots.any fun x => x.1 = e.partition) = true →
      exec (.rowEventSelftest ev) s = .next (s.onSch fun x => { x with slots := x.slots.map fun y =>
        if y.1 = e.partition then (y.1, y.2.1, max y.2.2.1 (s.tb.link + e.length), y.2.2.2) else y }))) ∧
  (∀ (s : State) (part : Nat) (x : Nat × Nat × Nat × List Nat), (s.sch.slots.find? fun x => x.1 = part) = some x →
    (s.tb.link + 1 < x.2.2.1 → exec (.selftestSlotEnd part) s = .next s) ∧
    (x.2.2.1 ≤ s.tb.link + 1 → ∃ t : State, exec (.selftestSlotEnd part) s = .next t ∧
      t.sch.slots = s.sch.slots.filter (fun z => z.1 ≠ part))) ∧
  (∀ (s : State) (ev : Nat),
    (s.eventNow ev 3 = none → exec (.rowEventBgdWindow ev) s = .next s) ∧
    (∀ e, s.eventNow ev 3 = some e → ∃ t : State, exec (.rowEventBgdWindow ev) s = .next t ∧
      t.sch = { s.sch with bgdUntil := max s.sch.bgdUntil (s.tb.link + e.length) } ∧ t.asz = s.asz ∧ t.cores = s.cores)) ∧
  (∀ s : State, (s.sch.bgdUntil ≤ s.tb.link →
      exec .bgdWindowEnd s = .next (s.onSch fun x => { x with bgdUntil := 0 })) ∧
    (s.tb.link < s.sch.bgdUntil → exec .bgdWindowEnd s = .next s)) ∧
  (∀ (s : State) (g : Nat), (s.core g).run ≠ .saving → exec (.contextSaveDone g) s = .next s) ∧
  (∀ (s : State) (g : Nat) (j : Job), (s.core g).run = .saving → s.coreJob g = some j →
    ((∃ h ∈ j.placed, h ≠ g ∧ s.physOf h ≠ s.physOf g ∧ s.physOf h ≠ none ∧ (s.core h).run ≠ .saved) →
      ∃ u : State, exec (.contextSaveDone g) s = .next ((u.kv.seqs.map (·.id)).foldl State.driveOut u) ∧
        (u.core g).run = .saved ∧ (∀ h, s.physOf h ≠ s.physOf g → u.core h = s.core h) ∧ u.kv = s.kv ∧
        ∃ k, u.job j.key = some k ∧ k.placed = j.placed ∧ k.saves.length = j.saves.length) ∧
    (j.placed ≠ [] → (∀ h ∈ j.placed, h ≠ g → (s.core h).run = .saved) → j.overrun = false → s.spr.lasting = [] →
      ∃ u : State, exec (.contextSaveDone g) s = .next ((u.kv.seqs.map (·.id)).foldl State.driveOut u) ∧
        ∃ k, u.job j.key = some k ∧ k.state = .preempted ∧ k.placed = [] ∧
          k.releasePending = (j.releasePending || j.released))) ∧
  (∀ (s : State) (g : Nat) (j : Job) (v : Saved), s.coreJob g = some j → (s.core g).run = .restoring →
    (j.saves.find? fun o => o.rank = (s.core g).rank) = some v →
    (v.poisoned = false → v.addr = 0 ∨ s.readPoisoned v.addr v.bytes = false →
      s.readPoisoned j.codeAddr j.codeBytes = false →
      ∃ t : State, exec (.contextRestoreDone g) s = .next t ∧
        (t.core g).run = (if (s.core g).rank ∈ j.halted then .halted else .running) ∧
        (t.core g).reg = { v.reg with ranks := rankTable j.placed } ∧ (t.core g).snap = (t.core g).reg ∧
        t.sch = s.sch ∧ t.hl = s.hl) ∧
    (v.poisoned = true ∨ (v.addr ≠ 0 ∧ s.readPoisoned v.addr v.bytes = true) ∨
        s.readPoisoned j.codeAddr j.codeBytes = true →
      exec (.contextRestoreDone g) s = .next ((s.afterRead v.addr v.bytes).failOn g stMemPoison))) ∧
  (∀ (s : State) (g : Nat) (flips : List Nat),
    ((s.core g).migrating = none → exec (.bankMigrationDone g flips) s = .next s) ∧
    (∀ b, (s.core g).migrating = some b →
      ∃ t : State, exec (.bankMigrationDone g flips) s = .next t ∧ (t.core g).copyDone = true ∧
        (t.core g).migrating = some b ∧ (t.core g).reg = (s.core g).reg ∧
        t.mem.cells = s.mem.cells ∧ t.mem.poison = s.mem.poison ∧ t.sch = s.sch ∧ t.hl = s.hl ∧
        ((s.flipParity (flips.filter isSpad)).bankWords g b = [] → t.core g = { s.core g with copyDone := true })))

/-- R98 to R101, R103, R119, R145: scalar instructions, the register reads, and the timestamp read. A value that a unit
has yet to write, or that no rule gives, is free (logs 11, 31). -/
def Obligations.ScalarInstructionsWriteTheirRegister : Prop :=
  (∀ (r : RegBlock) (v : Nat), r.set 0 v = r ∧ r.get 0 = 0) ∧
  (∀ (s : State) (g : Nat) (flips : List Nat), s.ready g = true → let u := s.flipParity (flips.filter isSpad)
    let k := s.core g
    let bv (i : Nat) : BitVec 64 := BitVec.ofNat 64 (k.reg.get i)
    (u.fetchBad g = true → ∀ op, exec (.scalarInstruction g op flips) s = .next (u.fetchFault g)) ∧
    (u.fetchBad g = false →
    (∀ op d a b, ∃ t : State, exec (.scalarInstruction g (.alu op d a b) flips) s = .next t ∧ OnlyCore g u t ∧
      t.core g = { k with reg := k.reg.step.set d (aluResult op (bv a) (bv b) (s.draw 1)).toNat }) ∧
    (∀ op d a imm, ∃ t : State, exec (.scalarInstruction g (.aluImm op d a imm) flips) s = .next t ∧ OnlyCore g u t ∧
      t.core g = { k with reg := k.reg.step.set d (aluResult op (bv a) (BitVec.ofInt 64 imm) (s.draw 1)).toNat }) ∧
    (∀ c a b target, ∃ t : State, exec (.scalarInstruction g (.branch c a b target) flips) s = .next t ∧ OnlyCore g u t ∧
      t.core g = { k with reg := { k.reg with
        pc := if brTaken c (bv a) (bv b) = true then target else k.reg.pc + Config.instrWords } }) ∧
    (∀ target, ∃ t : State, exec (.scalarInstruction g (.jump target) flips) s = .next t ∧ OnlyCore g u t ∧
      t.core g = { k with reg := { k.reg with pc := target } }) ∧
    (∀ d target, ∃ t : State, exec (.scalarInstruction g (.call d target) flips) s = .next t ∧ OnlyCore g u t ∧
      t.core g = { k with reg := { k.reg.set d (k.reg.pc + Config.instrWords) with pc := target } }) ∧
    (∀ a, ∃ t : State, exec (.scalarInstruction g (.ret a) flips) s = .next t ∧ OnlyCore g u t ∧
      t.core g = { k with reg := { k.reg with pc := k.reg.get a } }) ∧
    (∀ size sgn d a off o, scalarAddr (k.reg.get a) off size = some o → u.readPoisoned (spadOf g + o) size = false →
      ∃ (t : State) (v : Nat), exec (.scalarInstruction g (.load size sgn d a off) flips) s = .next t ∧ OnlyCore g u t ∧
        t.core g = { k with reg := k.reg.step.set d (loadValue size sgn v) } ∧
        (s.early g 4 (spadOf g + o) size = false → v = s.natAt (spadOf g + o) size)) ∧
    (∀ size sgn d a off o, scalarAddr (k.reg.get a) off size = some o → u.readPoisoned (spadOf g + o) size = true →
      exec (.scalarInstruction g (.load size sgn d a off) flips) s =
        .next ((u.bankEvents (spadOf g + o) size).tileFault g 7)) ∧
    (∀ size b a off o, scalarAddr (k.reg.get a) off size = some o → s.meetsCode (spadOf g + o) size = false →
      ∃ t : State, exec (.scalarInstruction g (.store size b a off) flips) s = .next t ∧
        OnlyCore g (u.writeNat (spadOf g + o) size (k.reg.get b)) t ∧ t.core g = { k with reg := k.reg.step }) ∧
    (∀ size sgn d a off, scalarAddr (k.reg.get a) off size = none →
      exec (.scalarInstruction g (.load size sgn d a off) flips) s = .next (u.tileFault g 3)) ∧
    (∀ size b a off, (scalarAddr (k.reg.get a) off size = none ∨
        ∃ o, scalarAddr (k.reg.get a) off size = some o ∧ s.meetsCode (spadOf g + o) size = true) →
      exec (.scalarInstruction g (.store size b a off) flips) s = .next (u.tileFault g 3)) ∧
    exec (.scalarInstruction g .undefined flips) s = .next (u.tileFault g 4))) ∧
  (∀ (s : State) (g d : Nat), s.ready g = true → s.fetchBad g = false →
    (∃ t : State, exec (.flagrd g d) s = .next t ∧ OnlyCore g s t ∧
      t.core g = { s.core g with reg := (s.core g).reg.step.set d (s.core g).reg.flags }) ∧
    (∃ t : State, exec (.tsrd g d) s = .next t ∧ OnlyCore g s t ∧
      t.core g = { s.core g with reg := (s.core g).reg.step.set d s.tsNow }) ∧
    (∀ r, ∃ (t : State) (v : Nat), exec (.rankdpa g d r) s = .next t ∧ OnlyCore g s t ∧
      t.core g = { s.core g with reg := (s.core g).reg.step.set d v } ∧
      ∀ c, (s.core g).reg.ranks.getD ((s.core g).reg.get r) 0xFF = c → c ≠ 0xFF → v = spadOf c)) ∧
  (∀ (s : State) (g d r : Nat), s.ready g = true → s.fetchBad g = true →
    exec (.flagrd g d) s = .next (s.fetchFault g) ∧ exec (.tsrd g d) s = .next (s.fetchFault g) ∧
    exec (.rankdpa g d r) s = .next (s.fetchFault g)) ∧
  (∀ (s : State) (g : Nat), s.ready g = false → ∀ op flips, exec (.scalarInstruction g op flips) s = .next s)

/-- R74, R101, R103, R113, R118, R122, R145. The split of a LIVE entry and the cause of a GRIDLD outside the scratchpad are
the model's choices (logs 161, 162). -/
def Obligations.TileInstructionsSetTheCoreState : Prop :=
  (∀ (s : State) (g : Nat), s.ready g = true → s.fetchBad g = false → let k := s.core g
    (∀ mask, ∃ t : State, exec (.dwait g mask) s = .next t ∧ OnlyCore g s t ∧ t.core g =
      if k.dmaIdle mask = true then { k with reg := k.reg.step } else { k with wait := .dma mask }) ∧
    (∀ mask, ∃ t : State, exec (.uwait g mask) s = .next t ∧ OnlyCore g s t ∧ t.core g =
      if k.unitsIdle mask = true then { k with reg := k.reg.step } else { k with wait := .units mask }) ∧
    (∀ i c, ∃ t : State, exec (.waits g i c) s = .next t ∧ OnlyCore g s t ∧ t.core g =
      if k.reg.get c ≤ k.reg.sems.getD (i % 16) 0 then
        { k with reg := { k.reg.step with
          sems := k.reg.sems.set (i % 16) (k.reg.sems.getD (i % 16) 0 - k.reg.get c) } }
      else { k with wait := .sem (i % 16) (k.reg.get c) }) ∧
    (∀ r i, ∃ t : State, exec (.sig g r i) s = .next t ∧ OnlyCore g s t ∧ t.core g =
      { k with
        sigs := if k.reg.ranks.getD (k.reg.get r) 0xFF = 0xFF then k.sigs
          else k.sigs ++ [(k.reg.ranks.getD (k.reg.get r) 0xFF, i % 16)]
        reg := k.reg.step }) ∧
    (∀ e b l j, s.coreJob g = some j →
      let v := k.reg.live.set (e % 16) (if k.reg.get l = 0 then (0, 0) else (k.reg.get b % 2 ^ 32, k.reg.get l))
      (4 * (v.map (·.2)).sum ≤ j.maxLive → ∃ t : State, exec (.live g e b l) s = .next t ∧ OnlyCore g s t ∧
        t.core g = { k with reg := { k.reg.step with live := v } }) ∧
      (j.maxLive < 4 * (v.map (·.2)).sum → exec (.live g e b l) s = .next (s.tileFault g 6))) ∧
    (∀ i a, let w := spadOf g + 4 * k.reg.get a
      (inOwn (k.reg.get a) 16 = false → exec (.gridld g i a) s = .next (s.tileFault g 3)) ∧
      (inOwn (k.reg.get a) 16 = true → s.readPoisoned w 16 = true →
        exec (.gridld g i a) s = .next ((s.bankEvents w 16).tileFault g 7)) ∧
      (inOwn (k.reg.get a) 16 = true → s.readPoisoned w 16 = false →
        ∃ t : State, exec (.gridld g i a) s = .next t ∧ OnlyCore g s t ∧
          t.core g = { k with reg := { k.reg.step with
            grids := k.reg.grids.set i ((s.tileBytes g w 16).map fun b => b.toInt) } } ∧
          (s.early g 4 w 16 = false → s.tileBytes g w 16 = s.bytesAt w 16)))) ∧
  (∀ (s : State) (g : Nat) (i : Instr), s.ready g = true → s.fetchBad g = true →
    (∃ m, i = .dwait g m) ∨ (∃ m, i = .uwait g m) ∨ (∃ a b, i = .waits g a b) ∨ (∃ a b, i = .sig g a b) ∨
      (∃ e b l, i = .live g e b l) ∨ (∃ a b, i = .gridld g a b) → exec i s = .next (s.fetchFault g)) ∧
  (∀ (s : State) (g : Nat) (i : Instr), s.ready g = false →
    (∃ m, i = .dwait g m) ∨ (∃ m, i = .uwait g m) ∨ (∃ a b, i = .waits g a b) ∨ (∃ a b, i = .sig g a b) ∨
      (∃ e b l, i = .live g e b l) ∨ (∃ a b, i = .gridld g a b) → exec i s = .next s)

/-- R86, R87, R95, R101, R103, R104, R107, R109 to R111, R113, R145: what a unit takes, and what it leaves as it
completes. The causes of ranges outside the scratchpad are the model's choice (log 162). -/
def Obligations.UnitsTakeTheirDescriptors : Prop :=
  (∀ (s : State) (g : Nat) (flips : List Nat), s.ready g = true → let u := s.flipParity (flips.filter isSpad)
    let k := s.core g
    u.fetchBad g = false →
    (∀ gd ga gw go m n, let a := spadOf g + 4 * k.reg.get gd
      let v := u.afterTileRead g a 32
      let op : MatrixOp := { desc := u.tileBytes g a 32, act := k.reg.get ga, wt := k.reg.get gw, out := k.reg.get go
                             m := m, n := n, grids := k.reg.grids }
      let bad := mxFormatBad op.desc m n || ((parseMx op.desc).cont && k.heldShape ≠ some (m, n))
      (inOwn (k.reg.get gd) 32 = false → exec (.mxm g gd ga gw go m n flips) s = .next (u.tileFault g 3)) ∧
      (inOwn (k.reg.get gd) 32 = true → u.readPoisoned a 32 = false →
        (bad = true → exec (.mxm g gd ga gw go m n flips) s = .next (v.tileFault g 2)) ∧
        (bad = false → u.rangesOk g op.reads [op.writes] = false →
          exec (.mxm g gd ga gw go m n flips) s = .next (v.tileFault g 3)) ∧
        (bad = false → u.rangesOk g op.reads [op.writes] = true →
          ∃ t : State, exec (.mxm g gd ga gw go m n flips) s = .next t ∧ OnlyCore g u t ∧ t.core g =
            if k.matrix.length < 2 then { k with
              matrix := k.matrix ++ [{ op with seen := s.matrixIn (spadOf g) op, early := s.outputs g 4 }], reg := k.reg.step }
            else { k with wait := .issueMatrix op }))) ∧
    (∀ gd, let a := spadOf g + 4 * k.reg.get gd
      let d := u.tileBytes g a 32
      let v := parseV d
      let w := u.afterTileRead g a 32
      let b := spadOf g + 4 * v.param
      let p := if v.hasParam = true then w.tileBytes g b v.paramBytes else []
      let able := v.op ≠ 0x11 ∨ maskCapable ((s.cores.map.getD g none).getD 0) = true
      (inOwn (k.reg.get gd) 32 = false → exec (.vop g gd flips) s = .next (u.tileFault g 3)) ∧
      (inOwn (k.reg.get gd) 32 = true → u.readPoisoned a 32 = false →
        (vFormatBad d = true → exec (.vop g gd flips) s = .next (w.tileFault g 2)) ∧
        (vFormatBad d = false → ¬able → exec (.vop g gd flips) s = .next (w.tileFault g 4)) ∧
        (vFormatBad d = false → able →
          (v.hasParam = true → inOwn v.param v.paramBytes = true ∧ u.readPoisoned b v.paramBytes = false) →
          (v.op = 0x10 → argBlock p = 16 ∨ argBlock p = 32) → u.rangesOk g (v.reads p) (v.writes p) = true →
          ∃ t : State, exec (.vop g gd flips) s = .next t ∧ OnlyCore g u t ∧ t.core g =
            if k.vector.length < 2 then { k with
              vector := k.vector ++ [{ desc := d, param := p, seen := s.vectorIn (spadOf g) v p, early := s.outputs g 4 }]
              reg := k.reg.step }
            else { k with wait := .issueVector { desc := d, param := p } }))) ∧
    (∀ ch gd, let a := spadOf g + 4 * k.reg.get gd
      let d := u.tileBytes g a 64
      let x := parseDma d
      let w := u.afterTileRead g a 64
      let cause := w.dmaCause g x (if (x.gather && x.xlate) = true then [] else x.srcs (w.plainBases g x))
      (inOwn (k.reg.get gd) 64 = false → exec (.dma g ch gd flips) s = .next (u.tileFault g 3)) ∧
      (inOwn (k.reg.get gd) 64 = true → u.readPoisoned a 64 = false →
        (dmaFieldsBad d = true → exec (.dma g ch gd flips) s = .next (w.tileFault g 5)) ∧
        (dmaFieldsBad d = false → ((x.indexRange g).any fun r => u.readPoisoned r.1 r.2) = false →
          (cause ≠ 0 → exec (.dma g ch gd flips) s = .next (w.tileFault g cause)) ∧
          (cause = 0 → ∃ (t : State) (q : List (List DmaOp)), exec (.dma g ch gd flips) s = .next t ∧ OnlyCore g u t ∧
            t.core g = (if (k.dmaQueue (ch % 4)).length < 8 then { k with dma := q, reg := k.reg.step }
              else { k with wait := .issueDma (ch % 4) d }) ∧
            q.map (List.map DmaOp.desc) =
              (k.dma.modify (ch % 4) (· ++ [{ desc := d }])).map (List.map DmaOp.desc)))))) ∧
  (∀ (s : State) (g : Nat) (flips : List Nat), (s.core g).run = .running → let u := s.flipParity (flips.filter isSpad)
    let k := s.core g
    let flagged (x : State) (f : Core → Core) (n : Nat) : State := x.bump.onCore g fun y =>
      { f y with reg := { y.reg with flags := y.reg.flags ||| n } }
    (k.matrix = [] → exec (.matrixInstructionComplete g flips) s = .next u) ∧
    (∀ o rest, k.matrix = o :: rest → let held := match k.held with | some h => h.2.2 | none => []
      (((ownRanges g o.reads).any fun r => u.readPoisoned r.1 r.2) = true →
        exec (.matrixInstructionComplete g flips) s =
          .next (((ownRanges g o.reads).foldl (fun x r => x.bankEvents r.1 r.2) u).tileFault g 7)) ∧
      (((ownRanges g o.reads).any fun r => u.readPoisoned r.1 r.2) = false →
        ((parseMx o.desc).hold = false → let out := u.matrixOutput (spadOf g) o held
          exec (.matrixInstructionComplete g flips) s = .next ((flagged (u.write (spadOf g + 4 * o.out) out.1)
            (fun y => { y with matrix := rest, held := none }) out.2).resume g)) ∧
        ((parseMx o.desc).hold = true → let out := u.matrixKept (spadOf g) o held
          exec (.matrixInstructionComplete g flips) s = .next ((flagged u
            (fun y => { y with matrix := rest, held := some (o.m, o.n, out.1) }) out.2).resume g)))) ∧
    (k.vector = [] → exec (.vectorInstructionComplete g flips) s = .next u) ∧
    (∀ o rest, k.vector = o :: rest → let rs := ownRanges g ((parseV o.desc).reads o.param)
      ((rs.any fun r => u.readPoisoned r.1 r.2) = true → exec (.vectorInstructionComplete g flips) s =
        .next ((rs.foldl (fun x r => x.bankEvents r.1 r.2) u).tileFault g 7)) ∧
      ((rs.any fun r => u.readPoisoned r.1 r.2) = false → let out := u.vectorOutput (spadOf g) o
        exec (.vectorInstructionComplete g flips) s = .next ((flagged
          (out.1.foldl (fun x w => x.write (spadOf g + w.1) w.2) u) (fun y => { y with vector := rest }) out.2).resume g))) ∧
    (∀ ch, k.dmaQueue ch = [] → exec (.dmaDescriptorComplete g ch flips) s = .next u) ∧
    (∀ ch o rest, k.dmaQueue ch = o :: rest → let x := parseDma o.desc
      let data := u.dmaData g ch o (overlaps x.src x.len x.dst x.len) 0 x.src x.len
      x.cnt1 = 1 → x.cnt2 = 1 → x.gather = false → u.dmaCause g x [(x.src : Int)] = 0 →
      isPeer x.src = false → isPeer x.dst = false → u.readPoisoned x.src x.len = false →
      u.writePoisoned x.dst x.len = false →
      (∃ w : State, exec (.dmaDescriptorComplete g ch flips) s =
        .next (((w.onCore g fun y => { y with dma := y.dma.set ch rest }).startDma g ch).resume g) ∧
        w.mem = (u.write x.dst data).mem ∧ OnlyCarried u w) ∧
      (overlaps x.src x.len x.dst x.len = false → o.seen = some [u.bytesAt x.src x.len] →
        u.early g ch x.src x.len = false → data = u.bytesAt x.src x.len))) ∧
  (∀ (s : State) (g : Nat), (s.core g).wait = .none → s.resume g = s)

/-- R115, R116, R145, R363, R367, R369, R503, R505. -/
def Obligations.MarksEndTilesAndJobs : Prop :=
  (∀ (s : State) (g : Nat) (flips : List Nat) (j : Job), s.ready g = true → s.coreJob g = some j → s.spr.lasting = [] →
    (s.flipParity (flips.filter isSpad)).fetchBad g = false → s.fetchBad g = false →
    let k := s.core g
    let r : RegBlock := { k.reg with flags := 0, tiles := k.reg.tiles + 1, reruns := 0
                                     pc := k.reg.pc + Config.instrWords }
    k.allIdle = true → k.readers = [] → k.sigs = [] → k.migrating = none → k.stopReq = false → j.endWith = none →
    (∃ t : State, ∃ i : Job, exec (.tmark g flips) s = .next t ∧ (t.core g).reg = r ∧ (t.core g).snap = r ∧
      (t.core g).run = .running ∧ (t.core g).wait = .none ∧ (t.core g).held = none ∧ (t.core g).tileStart = s.tsNow ∧
      t.job j.key = some i ∧ i = { j with flagRec := j.flagRec ||| k.reg.flags } ∧ t.mem.cells = s.mem.cells ∧
      t.hl = s.hl ∧ ∀ h, s.physOf h ≠ s.physOf g → t.core h = s.core h) ∧
    (j.state = .running → j.halted.length + 1 < j.placed.length →
      ∃ t : State, ∃ i : Job, exec (.halt g) s = .next t ∧ (t.core g).run = .halted ∧ (t.core g).snap = r ∧
        t.job j.key = some i ∧ i = { j with
          flagRec := j.flagRec ||| k.reg.flags, halted := j.halted ++ [k.rank] } ∧ t.mem = s.mem) ∧
    (j.state = .running → j.placed.length = j.halted.length + 1 → j.mode ≠ 0 →
      ∃ t : State, ∃ i : Job, exec (.halt g) s = .next t ∧ (t.core g).run = .halted ∧ t.job j.key = some i ∧
        i.state = .idle ∧ i.released = false ∧ i.halted = [] ∧ i.overrun = false ∧
        i.flagRec = (j.flagRec ||| k.reg.flags) ∧ i.placed = j.placed) ∧
    (j.state = .running → j.placed = [g] → j.halted = [] → j.mode = 0 →
      ∃ t : State, exec (.halt g) s = .next t ∧ t.job j.key = none)) ∧
  (∀ (s : State) (g : Nat) (flips : List Nat), s.ready g = true → let u := s.flipParity (flips.filter isSpad)
    (u.fetchBad g = true → exec (.tmark g flips) s = .next (u.fetchFault g)) ∧
    (s.fetchBad g = true → exec (.halt g) s = .next (s.fetchFault g)) ∧
    ((s.core g).allIdle = false → u.fetchBad g = false →
      ∃ t : State, exec (.tmark g flips) s = .next t ∧ OnlyCore g u t ∧
        t.core g = { s.core g with wait := .mark false }) ∧
    ((s.core g).allIdle = false → s.fetchBad g = false →
      ∃ t : State, exec (.halt g) s = .next t ∧ OnlyCore g s t ∧ t.core g = { s.core g with wait := .mark true })) ∧
  (∀ (s : State) (g : Nat), (s.core g).run = .running → (s.core g).tileStart + 262144 ≤ s.tsNow →
    exec (.tileTimerExpiry g) s = .next (s.tileFault g 1)) ∧
  (∀ (s : State) (g : Nat), s.tsNow < (s.core g).tileStart + 262144 → exec (.tileTimerExpiry g) s = .next s) ∧
  (∀ (s : State) (g : Nat), (s.core g).run ≠ .running → exec (.tileTimerExpiry g) s = .next s) ∧
  (∀ (s : State) (die u : Nat),
    ((s.phys (physIndex die u)).run = .selftest ∨ (s.spareCores die).contains u = true ∨ s.testsP0 die u = true →
      exec (.selftestVector die u .pass) s =
        .next (s.onPhys (physIndex die u) fun y => { y with testVector := y.testVector + 1 }) ∧
      exec (.selftestVector die u .coreFail) s = .next (s.errEvent (coreEntry die u)) ∧
      ∀ b, exec (.selftestVector die u (.bankFail b)) s =
        .next (s.errEvent { kind := 2, place := die, unit := u, detail := b })) ∧
    ((s.phys (physIndex die u)).run ≠ .selftest → (s.spareCores die).contains u = false → s.testsP0 die u = false →
      ∀ r, exec (.selftestVector die u r) s = .next s))

/-- R312, R320, R321, R336 to R338, R380, R580. -/
def Obligations.SolverTakesModelTasksAndContacts : Prop :=
  (∀ (c : Cmd) (s : State), Starts 6 1 c s → let n := fieldAt c.data 4 1
    (s.sol.state = .running → exec (.solModelLoad c) s = .next ((begun c s).complete c stBusy)) ∧
    (s.sol.state ≠ .running → n < 2 ∨ 65 < n → exec (.solModelLoad c) s = .next ((begun c s).complete c stLimit)) ∧
    (s.sol.state ≠ .running → 2 ≤ n → n ≤ 65 → c.length ≠ 64 + 128 * n →
      exec (.solModelLoad c) s = .next ((begun c s).complete c stBadLength)) ∧
    (s.sol.state ≠ .running → 2 ≤ n → n ≤ 65 → c.length = 64 + 128 * n → modelBad (parseModel c.data) = true →
      exec (.solModelLoad c) s = .next ((begun c s).complete c stBadParam)) ∧
    (s.sol.state ≠ .running → 2 ≤ n → n ≤ 65 → c.length = 64 + 128 * n → modelBad (parseModel c.data) = false →
      ∃ u : State, exec (.solModelLoad c) s = .next (u.complete c stOk) ∧
        u.sol = { s.sol with state := .loaded, model := some (parseModel c.data), tasks := none, pending := none
                             contacts := none } ∧
        u.asz = { s.asz with copyModel := c.data, copyContacts := [], copyCrc := crc32c (c.data ++ [])
                             reloadDue := false } ∧
        u.mem = s.mem ∧ u.jl = s.jl)) ∧
  (∀ (c : Cmd) (s : State), Starts 6 2 c s → s.sol.model = none →
    exec (.solTasksLoad c) s = .next ((begun c s).complete c stMode)) ∧
  (∀ (c : Cmd) (s : State) (m : Model), Starts 6 2 c s → s.sol.model = some m →
    let n := fieldAt c.data 4 1
    let x := parseTasks c.data
    let l := structureOf m x s.sol.contacts
    let bad := !finite32 (fieldAt c.data 8 4) || !finite32 x.reg ||
      ((List.range n).any fun i => taskBad m (taskRecord c.data i)) || s.sol.tasks.any (fun y => y.id = x.id)
    (s.sol.pending ≠ none → exec (.solTasksLoad c) s = .next ((begun c s).complete c stBusy)) ∧
    (s.sol.pending = none → n = 0 ∨ 32 < n → exec (.solTasksLoad c) s = .next ((begun c s).complete c stLimit)) ∧
    (s.sol.pending = none → 1 ≤ n → n ≤ 32 → c.length ≠ 16 + 48 * n →
      exec (.solTasksLoad c) s = .next ((begun c s).complete c stBadLength)) ∧
    (s.sol.pending = none → 1 ≤ n → n ≤ 32 → c.length = 16 + 48 * n → bad = true →
      exec (.solTasksLoad c) s = .next ((begun c s).complete c stBadParam)) ∧
    (s.sol.pending = none → 1 ≤ n → n ≤ 32 → c.length = 16 + 48 * n → bad = false → tasksLimit c.data x = true →
      exec (.solTasksLoad c) s = .next ((begun c s).complete c stLimit)) ∧
    (s.sol.pending = none → 1 ≤ n → n ≤ 32 → c.length = 16 + 48 * n → bad = false → tasksLimit c.data x = false →
      exec (.solTasksLoad c) s = .next (if wcetBad l = true then (begun c s).complete c stLimit
        else ((begun c s).onSol fun y => { y with
          tasks := if s.sol.state = .running then y.tasks else some x
          pending := if s.sol.state = .running then some x else none
          wcetFront := frontCycles l, wcetSolve := solveCycles l }).complete c stOk
            (wcetWord (frontCycles l) (solveCycles l))))) ∧
  (∀ (c : Cmd) (s : State), Starts 6 3 c s →
    (s.sol.state = .running → exec (.solContacts c) s = .next ((begun c s).complete c stBusy)) ∧
    (s.sol.state ≠ .running → s.sol.model = none →
      exec (.solContacts c) s = .next ((begun c s).complete c stMode))) ∧
  (∀ (c : Cmd) (s : State) (m : Model), Starts 6 3 c s → s.sol.state ≠ .running → s.sol.model = some m →
    let nf := fieldAt c.data 0 1
    let np := fieldAt c.data 1 1
    let bad := !allZero c.data 2 6 || ((List.range nf).any fun i => frameBad m (contactFrame c.data i)) ||
      ((List.range np).any fun i => pointBad nf (contactPoint c.data i))
    (8 < nf ∨ 16 < np → exec (.solContacts c) s = .next ((begun c s).complete c stLimit)) ∧
    (nf ≤ 8 → np ≤ 16 → c.length ≠ 8 + 32 * nf + 24 * np →
      exec (.solContacts c) s = .next ((begun c s).complete c stBadLength)) ∧
    (nf ≤ 8 → np ≤ 16 → c.length = 8 + 32 * nf + 24 * np → bad = true →
      exec (.solContacts c) s = .next ((begun c s).complete c stBadParam)) ∧
    (nf ≤ 8 → np ≤ 16 → c.length = 8 + 32 * nf + 24 * np → bad = false →
      ∃ u : State, exec (.solContacts c) s = .next (u.complete c stOk) ∧
        u.sol = { s.sol with contacts := some (parseContacts c.data) } ∧
        (parseContacts c.data).frames.length = nf ∧ (parseContacts c.data).points.length = np ∧
        u.asz = { s.asz with copyModel := m.raw, copyContacts := c.data, copyCrc := crc32c (m.raw ++ c.data)
                             reloadDue := false } ∧ u.mem = s.mem)) ∧
  (∀ (c : Cmd) (s : State), Starts 6 4 c s →
    let x := s.sol.tasks.getD {}
    let l := structureOf (s.sol.model.getD {}) x s.sol.contacts
    (s.dev.mode ≠ .config → exec (.solStart c) s = .next ((begun c s).complete c stMode)) ∧
    (s.dev.mode = .config → s.sol.state = .running →
      exec (.solStart c) s = .next ((begun c s).complete c stBusy)) ∧
    (s.dev.mode = .config → s.sol.state ≠ .running → s.startUnready = true →
      exec (.solStart c) s = .next ((begun c s).complete c stBadParam)) ∧
    (s.dev.mode = .config → s.sol.state ≠ .running → s.startUnready = false →
      s.sol.clustersLost = true ∨ 100 < c.word 0 % 256 →
      exec (.solStart c) s = .next ((begun c s).complete c stLimit)) ∧
    (s.dev.mode = .config → s.sol.state ≠ .running → s.startUnready = false → s.sol.clustersLost = false →
      c.word 0 % 256 ≤ 100 →
      ∃ u : State, exec (.solStart c) s = .next (u.complete c (if wcetBad l = true then stLimit else stOk)) ∧
        (wcetBad l = true → u = begun c s) ∧
        (wcetBad l = false →
          u.sol = { s.sol with
            state := .running, startLink := s.tb.link
            holdLimit := if c.word 0 % 256 = 0 then 25 else c.word 0 % 256, warm := none
            targets := { taskSet := x.id }, latest := none, memRewrite := false
            wcetFront := frontCycles l, wcetSolve := solveCycles l } ∧
          (u.watchdog 1).source = (if 1 < s.asz.watchdogs.length then some s.tb.link else none) ∧
          (u.watchdog 2).source = (if 2 < s.asz.watchdogs.length then some s.tb.link else none) ∧ u.mem = s.mem))) ∧
  (∀ (c : Cmd) (s : State), Starts 6 5 c s → s.running = false →
    ∃ u : State, exec (.solStop c) s = .next (u.complete c stOk) ∧ u.sol.state ≠ .running ∧ u.mem = s.mem ∧
      (s.sol.state = .running → u.sol = { s.sol with state := .loaded, pending := none } ∧
        (u.watchdog 1).source = none ∧ (u.watchdog 2).source = none) ∧
      (s.sol.state ≠ .running → u = begun c s)) ∧
  (∀ (c : Cmd) (s : State), Starts 6 5 c s → s.running = true →
    exec (.solStop c) s = .next ((begun c s).complete c stMode)) ∧
  (∀ (c : Cmd) (s : State), Starts 6 6 c s → let r := s.sol.last.getD {}
    exec (.solQuery c) s = .next ((begun c s).complete c (if bitAt r.flags 6 then stSolverHold else stOk)
      (r.flags % 2 ^ 32 + r.iterations * 2 ^ 32 + s.sol.state.code * 2 ^ 40) r.sampleTs
      (r.residual + r.signature * 2 ^ 32)))

/-- R307, R309, R313, R326, R332, R340, R341: each stage acts in its own link alone. The bits of a NaN and the numbers
of a link whose front stage was late are free (log 5, log 31). -/
def Obligations.SolverStagesHandTheirResultOn : Prop :=
  (∀ (s : State) (m : Model) (x : TaskSet) (k : Contacts), s.sol.model = some m → s.sol.tasks = some x →
    s.sol.contacts = some k →
    (s.sol.state = .running → s.sol.startLink < s.tb.link → s.linesResolved = true →
      (∀ f ∈ s.sol.front, f.n ≠ s.tb.link) →
      ∃ t : State, ∃ f : FrontData, exec .frontStageStart s = .next t ∧ t.sol.front = some f ∧ f.n = s.tb.link ∧
        f.model = m ∧ f.tasks = x ∧ f.contacts = k ∧ f.targets = t.sol.targets ∧
        f.q = (s.linkState m s.sol.lastQuat).q ∧ f.qd = (s.linkState m s.sol.lastQuat).qd ∧
        f.quat = (s.linkState m s.sol.lastQuat).quat ∧ f.rate = (s.linkState m s.sol.lastQuat).rate ∧
        bitAt f.flags 7 = (s.linkState m s.sol.lastQuat).stale ∧ t.mem = s.mem ∧ t.hl = s.hl ∧ t.asz = s.asz) ∧
    (s.sol.state ≠ .running ∨ s.tb.link ≤ s.sol.startLink ∨ s.linesResolved = false ∨
      (∃ f ∈ s.sol.front, f.n = s.tb.link) → exec .frontStageStart s = .next s)) ∧
  (∀ s : State, s.sol.model = none ∨ s.sol.tasks = none ∨ s.sol.contacts = none →
    exec .frontStageStart s = .next s) ∧
  (∀ (s : State) (f : FrontData) (e : Secded), s.sol.front = some f → f.n + 1 = s.tb.link →
    let o := f.solve s.sol.warm (decide (e = .uncorrectable)) (nanPattern s.free 0)
    exec (.solveStageStart e) s = .next (((s.onSol fun x => { x with
      front := none, solved := some o.1, warm := o.2
      memRewrite := x.memRewrite || decide (e = .uncorrectable)
      memCorrected := if e = .corrected then x.memCorrected + 1 else x.memCorrected }).kick 1).bump)) ∧
  (∀ (s : State) (e : Secded), (∀ f ∈ s.sol.front, f.n + 1 ≠ s.tb.link) →
    exec (.solveStageStart e) s = .next s ∧ exec (.stageDeadlineMiss false) s = .next s) ∧
  (∀ (f : FrontData) (w : Option Warm) (lost : Bool) (nan : Nat), (f.solve w lost nan).1.n = f.n ∧
    (f.solve w lost nan).1.sampleTs = linkTs f.n ∧ (f.solve w lost nan).1.iterations ≤ f.tasks.iterCap ∧
    (f.solve w lost nan).1.tau.length = 64 ∧ (lost = true → (f.solve w lost nan).2 = none)) ∧
  (∀ (s : State) (r : Result), s.sol.solved = some r → r.n + 1 = s.tb.link →
    ∃ t : State, exec .resultHandoff s = .next t ∧ t.sol.solved = none ∧ t.sol.last = some r ∧
      t.asz.check = (if bitAt r.flags 6 then none else some r) ∧
      t.sol.faults = (if solverFault r.flags then satInc 65535 s.sol.faults else s.sol.faults) ∧
      (solverFault r.flags = true → bitAt t.hl.events 6 = true)) ∧
  (∀ (s : State) (r : Result), s.sol.solved = some r → r.n + 1 = s.tb.link → bitAt r.flags 11 = false →
    exec (.stageDeadlineMiss true) s = .next (s.onSol fun x => { x with
      warm := none, solved := some { r with flags := r.flags ||| 0x848 } })) ∧
  (∀ (s : State) (r : Result), s.sol.solved = some r → bitAt r.flags 11 = true →
    exec (.stageDeadlineMiss true) s = .next s) ∧
  (∀ s : State, (∀ r ∈ s.sol.solved, r.n + 1 ≠ s.tb.link) →
    exec .resultHandoff s = .next s ∧ exec (.stageDeadlineMiss true) s = .next s) ∧
  (∀ (s : State) (f : FrontData), s.sol.front = some f → f.n + 1 = s.tb.link →
    ∃ t : State, ∃ r : Result, exec (.stageDeadlineMiss false) s = .next t ∧ t.sol.front = none ∧
      t.sol.solved = some r ∧ r.n = f.n ∧ r.flags = f.flags + 0x848 + (if s.sol.warm = none then 0x20 else 0) ∧
      t.sol.warm = none ∧ t.mem = s.mem ∧ t.hl = s.hl) ∧
  (∀ (s : State) (u : Nat), exec (.clusterCheck u true) s = .next s) ∧
  (∀ (s : State) (u : Nat), s.sol.clustersRetired.contains u = true → exec (.clusterCheck u false) s = .next s) ∧
  (∀ (s : State) (u : Nat), s.sol.clustersRetired.contains u = false → s.isRetired (clusterEntry u) = false →
    s.isLasting (clusterEntry u) = false →
    ∃ t : State, exec (.clusterCheck u false) s = .next t ∧ t.sol = s.sol ∧ t.mem = s.mem ∧
      t.isLasting (clusterEntry u) =
        decide (2 ≤ ((s.windowOf (clusterEntry u)).filter fun l => s.tb.link < l + windowLinks).length)) ∧
  (∀ s : State, s.sol.memRewrite = true → s.phase s.tb.link % 100 = 0 →
    exec .solverMemoryRewrite s = .next (s.onSol fun x => { x with memRewrite := false, warm := none })) ∧
  (∀ s : State, s.sol.memRewrite = false ∨ s.phase s.tb.link % 100 ≠ 0 →
    exec .solverMemoryRewrite s = .next s)

/-- R379 to R385. -/
def Obligations.AssizeJudgesEveryResult : Prop :=
  (∀ s : State, s.asz.copyModel ≠ [] → s.linesResolved = true →
    ∃ t : State, exec .assizeFirstPart s = .next t ∧
      t.asz.firstParts = (s.tb.link, s.linkState (parseModel s.asz.copyModel) s.asz.lastQuat) ::
        s.asz.firstParts.filter (fun x => x.1 + 1 = s.tb.link) ∧ t.mem = s.mem ∧ t.sol = s.sol ∧ t.hl = s.hl) ∧
  (∀ s : State, s.asz.copyModel = [] ∨ s.linesResolved = false → exec .assizeFirstPart s = .next s) ∧
  (∀ (s : State) (r : Result) (x : LinkState), s.asz.check = some r → r.n + 2 = s.tb.link →
    (s.asz.firstParts.find? fun p => p.1 = r.n) = some (r.n, x) →
    exec .assizeCheck s = .next (if s.resultPasses r x = true then
      s.onAsz fun a => { a with check := none, verdict := some (s.tb.link, r.tau) }
      else (s.onAsz fun a => { a with check := none }).disagree)) ∧
  (∀ s : State, (∀ r ∈ s.asz.check, r.n + 2 ≠ s.tb.link ∨ (s.asz.firstParts.find? fun p => p.1 = r.n) = none) →
    exec .assizeCheck s = .next s) ∧
  (∀ (s : State) (r : Result) (x : LinkState), let m := parseModel s.asz.copyModel
    s.resultPasses r x = true ↔ s.asz.paramsValid = true ∧ originOk r = true ∧ s.residualOk r x = true ∧
      s.limitOk m r = true ∧ s.rateOk m r = true ∧ s.powerOk m r x = true) ∧
  (∀ (s : State) (r : Result), s.asz.check = some r → r.n + 2 = s.tb.link →
    exec .assizeDeadlineMiss s = .next ((s.onAsz fun a => { a with check := none, reloadDue := true }).disagree)) ∧
  (∀ s : State, (∀ r ∈ s.asz.check, r.n + 2 ≠ s.tb.link) → exec .assizeDeadlineMiss s = .next s) ∧
  (∀ s : State, s.running = true → s.asz.safe = false →
    (s.disagree).asz.disagreements = satInc 65535 s.asz.disagreements ∧
    ((s.inWindow 100 s.asz.disagreeLinks).length = 2 → (s.disagree).asz.safe = true ∧
      (s.disagree).asz.firstCause = 6 ∧ (s.disagree).asz.entryLink = s.tb.link) ∧
    ((s.inWindow 100 s.asz.disagreeLinks).length < 2 → (s.inWindow 1000 s.asz.disagreeLinks).length < 9 →
      (s.disagree).asz.safe = false)) ∧
  (∀ s : State, s.asz.reloadDue = true → s.phase s.tb.link % 100 = 0 →
    ∃ t : State, exec .assizeCopyReload s = .next t ∧ t.asz.reloadDue = false ∧
      t.asz.copyModel = (s.sol.model.map (·.raw)).getD [] ∧
      t.asz.copyContacts = (s.sol.contacts.map (·.raw)).getD [] ∧
      t.asz.copyCrc = crc32c (t.asz.copyModel ++ t.asz.copyContacts) ∧ t.mem = s.mem) ∧
  (∀ s : State, s.asz.reloadDue = false ∨ s.phase s.tb.link % 100 ≠ 0 → exec .assizeCopyReload s = .next s) ∧
  (∀ (s : State) (flips : List Nat),
    let all := flips.foldl (fun bs k => flipBit k bs) (s.asz.copyModel ++ s.asz.copyContacts)
    let turned := s.onAsz fun a => { a with
      copyModel := all.take a.copyModel.length, copyContacts := all.drop a.copyModel.length }
    (s.asz.copyModel = [] ∨ crc32c all = s.asz.copyCrc → exec (.assizeCopyCheck flips) s = .next turned) ∧
    (s.asz.copyModel ≠ [] → crc32c all ≠ s.asz.copyCrc →
      exec (.assizeCopyCheck flips) s = .next (turned.decideSafe 22) ∧
      bitAt (turned.decideSafe 22).asz.startCauses 22 = true ∧
      (s.running = true → (turned.decideSafe 22).asz.safe = true ∧
        bitAt (turned.decideSafe 22).asz.causes 22 = true)))

/-- R335, R376, R377, R386, R389, R401, R403, R407, R557. -/
def Obligations.MonitorsDecideTheSafeState : Prop :=
  let low (s : State) : Pin := if s.dev.inReset = true ∨ s.asz.vauxBad = true then .hiZ else .low
  (∀ s : State, s.asz.pairAOk = true →
    ∃ t : State, exec (.lockstepMismatch .a) s = .next t ∧ t.asz.pairAOk = false ∧ t.asz.pairBOk = s.asz.pairBOk ∧
      t.pins.faultA = low s ∧ bitAt t.asz.startCauses 13 = true ∧
      (s.running = true → t.asz.safe = true ∧ bitAt t.asz.causes 13 = true) ∧
      (s.asz.pairBOk = true → exec (.heartbeatLoss .a) s = .next t)) ∧
  (∀ s : State, s.asz.pairBOk = true →
    ∃ t : State, exec (.lockstepMismatch .b) s = .next t ∧ t.asz.pairBOk = false ∧ t.asz.pairAOk = s.asz.pairAOk ∧
      t.pins.faultB = low s ∧ bitAt t.asz.startCauses 14 = true ∧
      (s.running = true → t.asz.safe = true ∧ bitAt t.asz.causes 14 = true) ∧
      (s.asz.pairAOk = true → exec (.heartbeatLoss .b) s = .next t)) ∧
  (∀ s : State, (s.asz.pairBOk = false → exec (.heartbeatLoss .a) s = .next s) ∧
    (s.asz.pairAOk = false → exec (.heartbeatLoss .b) s = .next s)) ∧
  (∀ (s : State) (w k : Nat) (p : Nat × Nat × Nat × Nat), s.wdParams w = some p → w < 64 → Shaped s →
    s.tb.link = s.tb.mile + p.2.1 + p.2.2.2 + k * p.1 → 0 < p.1 → s.running = true → s.asz.pairAOk = true →
    s.wdArms w p k = true → (s.watchdog w).kicked.contains (s.wdOpen p k) = false →
    (s.watchdog w).lastFault ≠ some s.tb.link →
    ∃ t : State, exec (.watchdogWindowClose w) s = .next t ∧ bitAt t.asz.wdFault w = true ∧
      (w ≤ 3 → t.asz.safe = true ∧ bitAt t.asz.causes 11 = true) ∧
      (3 < w → bitAt (fieldAt s.asz.params 32 8) w = false → t.asz.safe = s.asz.safe ∧ bitAt t.hl.events 1 = true)) ∧
  (∀ (s : State) (w k : Nat) (p : Nat × Nat × Nat × Nat), s.wdParams w = some p →
    s.tb.link = s.tb.mile + p.2.1 + p.2.2.2 + k * p.1 → 0 < p.1 →
    s.judging = false ∨ s.wdArms w p k = false ∨ (s.watchdog w).kicked.contains (s.wdOpen p k) = true →
    exec (.watchdogWindowClose w) s = .next s) ∧
  (∀ (s : State) (w : Nat) (p : Nat × Nat × Nat × Nat), s.wdParams w = some p →
    s.tb.link < s.tb.mile + p.2.1 + p.2.2.2 ∨ (s.tb.link - (s.tb.mile + p.2.1 + p.2.2.2)) % p.1 ≠ 0 →
    exec (.watchdogWindowClose w) s = .next s) ∧
  (∀ (s : State) (w : Nat), s.wdParams w = none → exec (.watchdogWindowClose w) s = .next s) ∧
  (∀ s : State, s.running = true → s.asz.safe = false →
    (∃ t : State, exec .clockFault s = .next t ∧ t.tb.clockInternal = true ∧ t.asz.safe = true ∧ t.asz.firstCause = 19 ∧
      t.asz.entryLink = s.tb.link ∧ t.asz.entryPending = true) ∧
    (∀ rail first second, (rail < 4 → (s.dramAt rail).inService = true) → s.railGood rail first = false →
      s.railGood rail second = false →
      ∃ t : State, exec (.supplyFault ⟨rail, first, second⟩) s = .next t ∧ t.asz.safe = true ∧ t.asz.firstCause = 20 ∧
        t.asz.entryPending = true ∧ (rail = 15 → t.asz.vauxBad = true ∧ t.pins.faultA = .hiZ ∧
          t.pins.faultB = .hiZ ∧ t.pins.safeState = .hiZ)) ∧
    (∃ t : State, exec .safetyParamsLost s = .next t ∧ t.asz.paramsValid = false ∧ t.asz.firstCause = 23) ∧
    (s.sol.holdLimit ≤ s.sol.holdRun → ∃ t : State, exec .holdLimitReached s = .next t ∧ t.asz.safe = true ∧
      t.asz.firstCause = 8 ∧ t.asz.entryPending = true)) ∧
  (∀ (s : State) (c : Nat), s.running = true → s.asz.safe = true →
    (s.decideSafe c).asz.firstCause = s.asz.firstCause ∧ (s.decideSafe c).asz.entryLink = s.asz.entryLink ∧
    (s.decideSafe c).asz.causes = s.asz.causes ||| 2 ^ c ∧ (s.decideSafe c).asz.torqueOff = s.asz.torqueOff) ∧
  (∀ (s : State) (rail first second : Nat),
    (rail < 4 → (s.dramAt rail).inService = false → exec (.supplyFault ⟨rail, first, second⟩) s = .next s) ∧
    (rail ≠ 15 → s.railGood rail first = true ∨ s.railGood rail second = true →
      exec (.supplyFault ⟨rail, first, second⟩) s = .next s) ∧
    (s.railGood 15 first = true ∨ s.railGood 15 second = true →
      ∃ t : State, exec (.supplyFault ⟨15, first, second⟩) s = .next t ∧ t.asz.vauxBad = !s.railGood 15 second ∧
        t.asz.safe = s.asz.safe ∧ t.asz.causes = s.asz.causes ∧ (t.pins.faultA = .hiZ ↔ s.dev.inReset = true ∨
          s.railGood 15 second = false)) ∧
    (s.running = false → s.asz.safe = false → s.dev.mode ≠ .replay → s.railGood rail first = false →
      s.railGood rail second = false → ∃ t : State, exec (.supplyFault ⟨rail, first, second⟩) s = .next t ∧
        t.asz.safe = false ∧ t.mem = s.mem)) ∧
  (∀ s : State, s.running = false → s.dev.mode ≠ .replay →
    (∃ t : State, exec .clockFault s = .next t ∧ t.tb.clockInternal = true ∧ t.asz.safe = s.asz.safe ∧
      bitAt t.asz.startCauses 19 = true) ∧
    exec .safetyParamsLost s = .next (s.onAsz fun a => { a with paramsValid := false }) ∧
    exec .holdLimitReached s = .next s) ∧
  (∀ s : State, exec .clockFault s = .next ((s.onTb fun t => { t with clockInternal := true }).decideSafe 19) ∧
    (s.running = true →
      exec .safetyParamsLost s = .next ((s.onAsz fun a => { a with paramsValid := false }).decideSafe 23)) ∧
    (s.asz.safe = true ∨ s.sol.holdRun < s.sol.holdLimit → exec .holdLimitReached s = .next s))

/-- R394, R396 to R398, R400, R402, R407. -/
def Obligations.EmergencyStopsAndTheSafeSequence : Prop :=
  (∀ s : State, 2 ≤ s.asz.estopA.lowRun → s.asz.estopA.asserted = false → s.asz.estopA.chatter = false →
    s.dev.mode ≠ .replay →
    ∃ t : State, exec (.estopChannelAssert .a) s = .next t ∧ t.asz.estopA = { s.asz.estopA with asserted := true } ∧
      t.asz.estopB = s.asz.estopB ∧ t.mem = s.mem ∧
      (s.running = true → s.asz.safe = false → t.asz.safe = true ∧ t.asz.firstCause = 2) ∧
      (s.running = false → t.asz.safe = s.asz.safe)) ∧
  (∀ s : State, 2 ≤ s.asz.estopB.lowRun → s.asz.estopB.asserted = false → s.asz.estopB.chatter = false →
    s.dev.mode ≠ .replay →
    ∃ t : State, exec (.estopChannelAssert .b) s = .next t ∧ t.asz.estopB = { s.asz.estopB with asserted := true } ∧
      t.asz.estopA = s.asz.estopA ∧ t.mem = s.mem ∧
      (s.running = true → s.asz.safe = false → t.asz.safe = true ∧ t.asz.firstCause = 3) ∧
      (s.running = false → t.asz.safe = s.asz.safe)) ∧
  (∀ s : State,
    (s.asz.estopA.lowRun < 2 → exec (.estopChannelAssert .a) s = .next s) ∧
    (s.asz.estopA.highRun < 2 → exec (.estopChannelDeassert .a) s = .next s) ∧
    (2 ≤ s.asz.estopA.highRun → exec (.estopChannelDeassert .a) s =
      .next (s.onAsz fun a => { a with estopA := { a.estopA with asserted := false } })) ∧
    (2 ≤ s.asz.estopB.highRun → exec (.estopChannelDeassert .b) s =
      .next (s.onAsz fun a => { a with estopB := { a.estopB with asserted := false } })) ∧
    (s.asz.estopB.highRun < 2 → exec (.estopChannelDeassert .b) s = .next s) ∧
    (s.asz.estopB.lowRun < 2 → exec (.estopChannelAssert .b) s = .next s) ∧
    (s.asz.estopA.asserted = true → exec (.estopChannelAssert .a) s = .next s) ∧
    (s.asz.estopB.asserted = true → exec (.estopChannelAssert .b) s = .next s) ∧
    (2 ≤ s.asz.estopA.lowRun → s.asz.estopA.asserted = false →
      let t := s.onAsz fun a => { a with estopA := { a.estopA with asserted := true } }
      exec (.estopChannelAssert .a) s = .next (if s.asz.estopA.chatter then t else t.decideSafe 2)) ∧
    (2 ≤ s.asz.estopB.lowRun → s.asz.estopB.asserted = false →
      let t := s.onAsz fun a => { a with estopB := { a.estopB with asserted := true } }
      exec (.estopChannelAssert .b) s = .next (if s.asz.estopB.chatter then t else t.decideSafe 3))) ∧
  (∀ s : State, 100 < s.asz.differRun → s.asz.discrepancy = false →
    ∃ t : State, exec .estopDiscrepancy s = .next t ∧ t.asz.discrepancy = true ∧ t.asz.clearRun = 0 ∧
      t.asz.estopClear = false ∧ bitAt t.hl.events 1 = true ∧
      (s.running = true → t.asz.safe = true ∧ bitAt t.asz.causes 4 = true)) ∧
  (∀ s : State, (s.asz.differRun ≤ 100 ∨ s.asz.discrepancy = true → exec .estopDiscrepancy s = .next s) ∧
    (1000 ≤ s.asz.clearRun → exec .estopClear s = .next (s.onAsz fun a => { a with estopClear := true })) ∧
    (s.asz.clearRun < 1000 → exec .estopClear s = .next s)) ∧
  (∀ s : State, s.asz.entryPending = true → s.asz.safe = true → s.running = true → s.dev.inReset = false →
    s.asz.vauxBad = false →
    ∃ t : State, exec .safeStateEntry s = .next t ∧ t.asz.entryPending = false ∧ t.pins.faultA = .low ∧
      t.pins.faultB = .low ∧ t.pins.safeState = .high ∧ bitAt t.hl.events 1 = true ∧ t.mem = s.mem ∧
      t.asz.safe = true ∧ t.asz.causes = s.asz.causes) ∧
  (∀ s : State, (s.asz.entryPending = true → ∃ t : State, exec .safeStateEntry s = .next t ∧
      t.asz = { s.asz with entryPending := false } ∧ bitAt t.hl.events 1 = true ∧ t.mem = s.mem) ∧
    (s.asz.entryPending = false → exec .safeStateEntry s = .next s)) ∧
  (∀ s : State, (s.asz.safe = true → s.dampOver = true →
      exec .torqueOffPhaseStart s = .next (s.onAsz fun a => { a with torqueOff := true })) ∧
    (s.asz.safe = false ∨ s.dampOver = false → exec .torqueOffPhaseStart s = .next s)) ∧
  (∀ s : State, (∀ l ∈ s.asz.releaseAt, s.tb.link < l) → exec .safeReleaseEffect s = .next s) ∧
  (∀ (s : State) (l : Nat), s.asz.releaseAt = some l → l ≤ s.tb.link →
    (s.asz.releaseCancelled = false → ∃ t : State, exec .safeReleaseEffect s = .next t ∧ t.asz.safe = false ∧
      t.asz.causes = 0 ∧ t.asz.disagreeLinks = [] ∧ t.asz.offUntilPass = true ∧ t.sol.holdRun = 0 ∧
      t.awaiting (· = .safeRelease) = [] ∧ (s.running = true → s.dev.inReset = false → s.asz.vauxBad = false →
        t.pins.safeState = .low ∧ (s.asz.pairAOk = true → t.pins.faultA = .high))) ∧
    (s.asz.releaseCancelled = true → ∃ t : State, exec .safeReleaseEffect s = .next t ∧ t.asz.safe = s.asz.safe ∧
      t.asz.causes = s.asz.causes ∧ t.asz.entryLink = s.asz.entryLink ∧ t.awaiting (· = .safeRelease) = [])) ∧
  (∀ (c : Cmd) (s : State), Starts 0xA 3 c s →
    (s.asz.safe = false → exec (.safeRelease c) s = .next ((begun c s).complete c stOk)) ∧
    (s.asz.safe = true → s.mayRelease = false → exec (.safeRelease c) s = .next ((begun c s).complete c stSafeState)) ∧
    (s.asz.safe = true → s.mayRelease = true → exec (.safeRelease c) s =
      .next (((begun c s).onAsz fun a => { a with releaseAt := some (a.releaseAt.getD (s.tb.link + 1)) }).await c
        .safeRelease))) ∧
  (∀ (c : Cmd) (s : State), Starts 0xA 1 c s →
    (s.dev.mode = .config → paramsStatus c.data = stOk → exec (.safeConfig c) s =
      .next (((begun c s).onAsz fun a => { a with params := c.data, paramsValid := true }).complete c stOk)) ∧
    (s.dev.mode = .config → paramsStatus c.data ≠ stOk →
      exec (.safeConfig c) s = .next ((begun c s).complete c (paramsStatus c.data))) ∧
    (s.dev.mode ≠ .config → exec (.safeConfig c) s = .next ((begun c s).complete c stMode)))

/-- R408. -/
def Obligations.SafeTripAndQueryAnswer : Prop :=
  (∀ (c : Cmd) (s : State), Starts 0xA 2 c s → s.running = true →
    ∃ u : State, exec (.safeTrip c) s = .next (u.complete c stOk) ∧ u.asz.safe = true ∧ bitAt u.asz.causes 1 = true ∧
      (s.asz.safe = false → u.asz.firstCause = 1 ∧ u.asz.entryLink = s.tb.link ∧ u.asz.entryPending = true) ∧
      u.mem = s.mem ∧ u.tb = s.tb) ∧
  (∀ (c : Cmd) (s : State), Starts 0xA 2 c s → s.running = false →
    exec (.safeTrip c) s = .next ((begun c s).complete c stMode)) ∧
  (∀ (c : Cmd) (s : State), Starts 0xA 4 c s → 
    exec (.safeQuery c) s = .next ((begun c s).complete c stOk (s.aszStatus + 2 ^ 32 * s.asz.causes) s.asz.entryLink
      (s.aszEstop + 2 ^ 32 * s.aszCounts)))

/-- R260 to R271, R277, R279, R281. -/
def Obligations.IntakeTakesFramesToSamples : Prop :=
  (∀ (c : Cmd) (s : State), Starts 7 1 c s → let i := fieldAt c.data 0 1
    (s.stream i).running = false → s.dev.mode ≠ .recovery → streamLimit (parseStream c.data) = false →
    s.streamBad c.data i (parseStream c.data) = false →
    exec (.itkStreamConfig c) s =
      .next (((begun c s).onStream i fun y => { y with cfg := some (parseStream c.data) }).complete c stOk)) ∧
  (∀ (c : Cmd) (s : State), Starts 7 1 c s → let i := fieldAt c.data 0 1
    ((s.stream i).running = true → exec (.itkStreamConfig c) s = .next ((begun c s).complete c stBusy)) ∧
    ((s.stream i).running = false → s.dev.mode = .recovery →
      exec (.itkStreamConfig c) s = .next ((begun c s).complete c stMode)) ∧
    ((s.stream i).running = false → s.dev.mode ≠ .recovery → streamLimit (parseStream c.data) = true →
      exec (.itkStreamConfig c) s = .next ((begun c s).complete c stLimit)) ∧
    ((s.stream i).running = false → s.dev.mode ≠ .recovery → streamLimit (parseStream c.data) = false →
      s.streamBad c.data i (parseStream c.data) = true →
      exec (.itkStreamConfig c) s = .next ((begun c s).complete c stBadParam))) ∧
  (∀ (c : Cmd) (s : State), Starts 7 2 c s → let i := fieldAt c.data 0 1
    (s.profileBusy i = true → exec (.itkPipeConfig c) s = .next ((begun c s).complete c stBusy)) ∧
    (s.profileBusy i = false → profileLimit i (parseProfile c.data) = true →
      exec (.itkPipeConfig c) s = .next ((begun c s).complete c stLimit)) ∧
    (s.profileBusy i = false → profileLimit i (parseProfile c.data) = false → profileBad (parseProfile c.data) = true →
      exec (.itkPipeConfig c) s = .next ((begun c s).complete c stBadParam))) ∧
  (∀ (c : Cmd) (s : State), Starts 7 2 c s → let i := fieldAt c.data 0 1
    s.profileBusy i = false → profileLimit i (parseProfile c.data) = false → profileBad (parseProfile c.data) = false →
    exec (.itkPipeConfig c) s = .next (((begun c s).onItk fun x => { x with
      profiles := x.profiles.set i (some (parseProfile c.data)) }).complete c stOk)) ∧
  (∀ (c : Cmd) (s : State) (x : StreamCfg) (p : Profile), Starts 7 3 c s → Shaped s → let i := c.word 0 % 16
    (s.stream i).running = false → (s.stream i).cfg = some x → s.itk.profiles.getD x.profile none = some p →
    profileSuits x p = true → (∀ b, b < x.nbuf → p.tensorBytes ≤ x.room b) →
    ∃ u : State, exec (.itkStreamStart c) s = .next (u.complete c stOk) ∧ u.stream i = { s.stream i with
        running := true, nextSeq := 0, frames := [], decodes := []
        budget := if x.budget = 0 then x.period else x.budget } ∧
      (∀ k, k ≠ i → u.stream k = s.stream k) ∧ (u.watchdog (16 + i)).source = some s.tb.link ∧ u.mem = s.mem) ∧
  (∀ (c : Cmd) (s : State), Starts 7 3 c s → let i := c.word 0 % 16
    ((s.stream i).running = true → exec (.itkStreamStart c) s = .next ((begun c s).complete c stBusy)) ∧
    ((s.stream i).running = false → ((s.stream i).cfg = none ∨ ∃ x, (s.stream i).cfg = some x ∧
        (s.itk.profiles.getD x.profile none = none ∨
          ∃ p, s.itk.profiles.getD x.profile none = some p ∧ profileSuits x p = false)) →
      exec (.itkStreamStart c) s = .next ((begun c s).complete c stBadParam)) ∧
    ∀ x p, (s.stream i).running = false → (s.stream i).cfg = some x → s.itk.profiles.getD x.profile none = some p →
      profileSuits x p = true → (∃ b, b < x.nbuf ∧ x.room b < p.tensorBytes) →
      exec (.itkStreamStart c) s = .next ((begun c s).complete c stLimit)) ∧
  (∀ (c : Cmd) (s : State), Starts 7 4 c s → Shaped s → let i := c.word 0 % 16
    (s.stream i).running = true → ∃ u : State, exec (.itkStreamStop c) s = .next (u.complete c stOk) ∧
      (u.stream i).running = false ∧ (u.stream i).frames = []) ∧
  (∀ (c : Cmd) (s : State), Starts 7 4 c s → (s.stream (c.word 0 % 16)).running = false →
    exec (.itkStreamStop c) s = .next ((begun c s).complete c stBadParam)) ∧
  (∀ (s : State) (port vc dt : Nat) (d : List Byte) (ok : Bool) (e : HeaderEcc),
    (s.replaying = true → exec (.csiFrameStart port vc e) s = .next s ∧ exec (.csiFrameEnd port vc e) s = .next s ∧
      exec (.csiLongPacket port vc dt d e ok) s = .next s ∧ exec (.csiPacketDiscard port ⟨vc, dt, e⟩) s = .next s) ∧
    (s.replaying = false →
      let h := (s.header port vc .uncorrectable).2
      exec (.csiFrameStart port vc .uncorrectable) s = .next h ∧ exec (.csiFrameEnd port vc .uncorrectable) s = .next h ∧
      exec (.csiLongPacket port vc dt d .uncorrectable ok) s = .next h ∧
      exec (.csiPacketDiscard port ⟨vc, dt, .uncorrectable⟩) s = .next h) ∧
    (s.replaying = false →
      let h := s.onPort port fun p => { p with eccCorrected := satInc 255 p.eccCorrected }
      exec (.csiFrameStart port vc .corrected) s = exec (.csiFrameStart port vc .ok) h ∧
      exec (.csiFrameEnd port vc .corrected) s = exec (.csiFrameEnd port vc .ok) h ∧
      exec (.csiLongPacket port vc dt d .corrected ok) s = exec (.csiLongPacket port vc dt d .ok ok) h ∧
      exec (.csiPacketDiscard port ⟨vc, dt, .corrected⟩) s = exec (.csiPacketDiscard port ⟨vc, dt, .ok⟩) h) ∧
    (s.replaying = false → s.streamOn port vc = none → exec (.csiFrameStart port vc .ok) s = .next s ∧
      exec (.csiFrameEnd port vc .ok) s = .next s ∧
      (dtAccepted dt = true → exec (.csiLongPacket port vc dt d .ok true) s = .next s))) ∧
  (∀ (s : State) (port vc i : Nat) (x : StreamCfg), Shaped s → Uninjected s → s.replaying = false →
    s.streamOn port vc = some i → (s.stream i).cfg = some x → (s.stream i).current = none →
    ((x.bufs.take x.nbuf).any s.bufShut) = false →
    ∃ t : State, ∃ f : Frame, exec (.csiFrameStart port vc .ok) s = .next t ∧
      (t.stream i).frames = (s.stream i).frames ++ [f] ∧ f.seq = (s.stream i).nextSeq ∧ f.startLink = s.tb.link ∧
      f.captureTs = (s.tsNow + 2 ^ 64 - x.latency) % 2 ^ 64 ∧ f.resolved = none ∧ f.lines = 0 ∧
      (t.stream i).nextSeq = ((s.stream i).nextSeq + 1) % 2 ^ 32 ∧ t.mem = s.mem ∧ t.hl = s.hl) ∧
  (∀ (s : State) (port vc i : Nat), s.replaying = false → s.streamOn port vc = some i →
    ((s.stream i).current = none → exec (.csiFrameStart port vc .ok) s = .next (s.startFrame i)) ∧
    ∀ f, (s.stream i).current = some f →
      let v := if f.resolved.isNone then s.void i f.seq 4 else s
      exec (.csiFrameStart port vc .ok) s =
        .next (((v.onFrame i f.seq fun y => { y with ended := true }).onStream i dropDone).startFrame i)) ∧
  (∀ (s : State) (port vc dt i : Nat) (d : List Byte) (x : StreamCfg) (f : Frame), s.replaying = false →
    dtAccepted dt = true → s.streamOn port vc = some i → (s.stream i).cfg = some x → (s.stream i).current = some f →
    f.flipped d.length = false → f.resolved = none → f.lines ≠ 0 → f.pipe ≠ none → f.lines < x.allLines →
    (x.embLines < f.lines → d.length = f.firstWc) → f.bytes + d.length ≤ x.maxBytes →
    exec (.csiLongPacket port vc dt d .ok true) s = .next (s.onFrame i f.seq fun y => y.addLine x d)) ∧
  (∀ (s : State) (port vc dt : Nat) (d : List Byte), s.replaying = false →
    (dtAccepted dt = false → exec (.csiLongPacket port vc dt d .ok true) s =
      .next (s.onPort port fun p => { p with discarded := p.discarded + 1 })) ∧
    (let q := s.onPort port fun p => { p with crcErrors := satInc 255 p.crcErrors }
     exec (.csiLongPacket port vc dt d .ok false) s = .next ((if dtAccepted dt = true then q else
       q.onPort port fun p => { p with discarded := p.discarded + 1 }).voidOpen port vc 2)) ∧
    (∀ i, dtAccepted dt = true → s.streamOn port vc = some i → (s.stream i).current = none →
      exec (.csiLongPacket port vc dt d .ok true) s = .next s) ∧
    (∀ i f, dtAccepted dt = true → s.streamOn port vc = some i → (s.stream i).current = some f →
      f.flipped d.length = false →
      (f.resolved ≠ none → exec (.csiLongPacket port vc dt d .ok true) s = .next s) ∧
      (f.resolved = none → f.lines ≠ 0 → exec (.csiLongPacket port vc dt d .ok true) s =
        .next (s.addLine i f ((s.stream i).cfg.getD {}) d)) ∧
      (f.resolved = none → f.lines = 0 → firstOk ((s.stream i).cfg.getD {}) dt d.length = false →
        exec (.csiLongPacket port vc dt d .ok true) s = .next (s.void i f.seq 1))) ∧
    (dtAccepted dt = true → s.streamOn port vc = none → exec (.csiLongPacket port vc dt d .ok false) s =
      .next (s.onPort port fun p => { p with crcErrors := satInc 255 p.crcErrors }))) ∧
  (∀ (s : State) (port vc i : Nat) (f : Frame), s.replaying = false → s.streamOn port vc = some i →
    (s.stream i).current = some f → ((s.stream i).cfg.getD {}).allLines ≤ f.lines →
    exec (.csiFrameEnd port vc .ok) s =
      .next (((s.onFrame i f.seq fun y => { y with ended := true }).leavePipe i f.seq).onStream i dropDone)) ∧
  (∀ (s : State) (port vc i : Nat), s.replaying = false → s.streamOn port vc = some i →
    ((s.stream i).current = none → exec (.csiFrameEnd port vc .ok) s = .next s) ∧
    ∀ f, (s.stream i).current = some f → f.lines < ((s.stream i).cfg.getD {}).allLines →
      let v := if f.resolved.isNone then s.void i f.seq 4 else s
      exec (.csiFrameEnd port vc .ok) s =
        .next (((v.onFrame i f.seq fun y => { y with ended := true }).leavePipe i f.seq).onStream i dropDone)) ∧
  (∀ (s : State) (port vc dt : Nat), s.replaying = false →
    (dtAccepted dt = true → exec (.csiPacketDiscard port ⟨vc, dt, .ok⟩) s = .next s) ∧
    (dtAccepted dt = false → exec (.csiPacketDiscard port ⟨vc, dt, .ok⟩) s =
      .next (s.onPort port fun p => { p with discarded := p.discarded + 1 }))) ∧
  (∀ (s : State) (u i : Nat) (f : Frame), (s.itk.pipes.findIdx? fun p => p.inService && p.frame.isNone) = some u →
    (sortBy earlier s.waitingFrames).head? = some (i, f) →
    exec .pipeAssign s = .next ((s.onPipe u fun p => { p with frame := some (i, f.seq) }).onFrame i f.seq fun y =>
      { y with pipe := some u }) ∧ ∀ g ∈ s.waitingFrames, f.order ≤ g.2.order) ∧
  (∀ s : State, (s.itk.pipes.findIdx? fun p => p.inService && p.frame.isNone) = none ∨ s.waitingFrames = [] →
    exec .pipeAssign s = .next s) ∧
  (∀ (s : State) (i q : Nat) (f : Frame), ((s.stream i).frames.find? fun f => f.seq = q) = some f →
    f.resolved = none → f.ended = true → f.pipe ≠ none → s.frameHeld i f = false →
    let x := (s.stream i).cfg.getD {}
    let p := (s.itk.profiles.getD x.profile none).getD {}
    let a := x.bufs.getD (f.buffer.getD 0) 0
    let m : Image := { kind := x.kind, w := x.width, h := x.height, line := x.lineBytes, payload := f.payload }
    (s.tb.link < f.startLink + f.budget → s.tensorRefused a p.tensorBytes = false →
      ∃ u : State, exec (.sampleResolved i q true) s = .next ((u.resolve i q 0 (max s.tsNow f.startTs)).bump) ∧
        u.mem.cells = cellsPut s.mem.cells a (m.tensor p (nanPattern s.free 0)) ∧ u.hl = s.hl ∧ u.asz = s.asz) ∧
    (s.tb.link < f.startLink + f.budget → s.tensorRefused a p.tensorBytes = true →
      exec (.sampleResolved i q true) s = .next (s.void i q 5)) ∧
    (s.tb.link < f.startLink + f.budget → exec (.sampleResolved i q false) s = .next (s.void i q 5)) ∧
    (f.startLink + f.budget ≤ s.tb.link → ∀ ok, exec (.sampleResolved i q ok) s =
      .next (s.resolve i q 6 (linkTs (f.startLink + f.budget))))) ∧
  (∀ (s : State) (i q : Nat), ((s.stream i).frames.find? fun f => f.seq = q) = none →
    exec (.decodeBudgetExpiry i q) s = .next s ∧ ∀ ok, exec (.sampleResolved i q ok) s = .next s) ∧
  (∀ (s : State) (i q : Nat) (f : Frame), ((s.stream i).frames.find? fun f => f.seq = q) = some f →
    (f.resolved ≠ none → exec (.decodeBudgetExpiry i q) s = .next s) ∧
    (f.resolved ≠ none ∨ f.ended = false ∨ f.pipe = none ∨ s.frameHeld i f = true →
      ∀ ok, exec (.sampleResolved i q ok) s = .next s)) ∧
  (∀ (s : State) (i q : Nat) (f : Frame), ((s.stream i).frames.find? fun f => f.seq = q) = some f → f.resolved = none →
    (s.tb.link < f.startLink + f.budget → exec (.decodeBudgetExpiry i q) s = .next s) ∧
    (f.startLink + f.budget ≤ s.tb.link →
      exec (.decodeBudgetExpiry i q) s = .next (s.resolve i q 6 (linkTs (f.startLink + f.budget))))) ∧
  (∀ (s : State) (u : Nat), exec (.pipeCheckFrameDone u true) s = .next s ∧
    ((s.itk.pipes.getD u {}).retired = false → (s.itk.pipes.getD u {}).frame = none → s.waitingFrames = [] →
      exec (.pipeCheckFrameDone u false) s = .next (s.errEvent (pipeEntry u))) ∧
    ((s.itk.pipes.getD u {}).retired = true ∨ (s.itk.pipes.getD u {}).frame ≠ none ∨ s.waitingFrames ≠ [] →
      exec (.pipeCheckFrameDone u false) s = .next s)) ∧
  (∀ (s : State) (port n : Nat), exec (.csiPortLinkDown port) s = .next (s.onPort port fun p => { p with linkUp := false }) ∧
    (n = 1 ∨ n = 2 ∨ n = 4 → exec (.csiPortLinkUp port n) s =
      .next (s.onPort port fun p => { p with linkUp := true, lanes := n })) ∧
    (n ≠ 1 → n ≠ 2 → n ≠ 4 → exec (.csiPortLinkUp port n) s = .next s))

/-- R285, R294, R295, R299, R300, R302, R304, R305, R378. -/
def Obligations.LinesCarryCommandsAndSamples : Prop :=
  (∀ (c : Cmd) (s : State), Starts 8 1 c s → Shaped s → s.dev.mode = .config ∨ s.dev.mode = .test →
    c.word 0 % 65536 ≠ 0 →
    (∀ l ∈ maskLines (c.word 0 % 65536), (s.line l).state ≠ .running ∧ (s.line l).state ≠ .training) →
    ∃ t : State, exec (.jlTrain c) s = .next t ∧
      t.hl.opens = s.hl.opens ++ [{ cmd := c, wait := .train (c.word 0 % 65536) 0 0 false }] ∧
      (∀ l, l < 16 → bitAt (c.word 0 % 65536) l = true → (t.line l).state = .training ∧
        (t.line l).trainStart = s.tb.link) ∧
      (∀ l, l < 16 → bitAt (c.word 0 % 65536) l = false → t.line l = s.line l) ∧ t.mem = s.mem) ∧
  (∀ (c : Cmd) (s : State), Starts 8 1 c s → let ls := maskLines (c.word 0 % 65536)
    (s.dev.mode ≠ .config → s.dev.mode ≠ .test → exec (.jlTrain c) s = .next ((begun c s).complete c stMode)) ∧
    (s.dev.mode = .config ∨ s.dev.mode = .test →
      (∃ l ∈ ls, (s.line l).state = .running ∨ (s.line l).state = .training) →
      exec (.jlTrain c) s = .next ((begun c s).complete c stBusy)) ∧
    (s.dev.mode = .config ∨ s.dev.mode = .test → c.word 0 % 65536 = 0 →
      exec (.jlTrain c) s = .next ((begun c s).complete c stOk))) ∧
  (∀ (s : State) (l : Nat) (r : TrainReport), (s.line l).state ≠ .training →
    exec (.lineTrainingComplete l r) s = .next s) ∧
  (∀ (s : State) (l : Nat) (r : TrainReport), Shaped s → l < 16 → (s.line l).state = .training →
    let nodes := r.nodes.take 4
    let why := trainReason (decide ((s.line l).trainStart + 500 < s.tb.link)) { r with nodes := nodes }
    ∃ t : State, exec (.lineTrainingComplete l r) s = .next t ∧ (t.line l).found = nodes ∧ (t.line l).reason = why ∧
      (t.line l).state = (if why ≠ 0 then .failed else
        if ((List.range nodes.length).all fun p => (s.entryOf (4 * l + p)).isSome) = true then .configured
        else .enumerated) ∧
      (∀ k, k ≠ l → t.line k = s.line k) ∧ t.jl.table = s.jl.table) ∧
  (∀ (c : Cmd) (s : State), Starts 8 2 c s → s.dev.mode = .config → let l := fieldAt c.data 0 1
    let n := 4 * l + fieldAt c.data 1 1
    let e := if fieldAt c.data 2 1 = 0xFF then none else some (parseNode c.data)
    (s.line l).state ≠ .running → nodeLimit c.data = false → s.nodeBad c.data n = false →
    exec (.jlNodeConfig c) s =
      .next (((((begun c s).onJl fun j => { j with table := j.table.set n e }).testLine l)).complete c stOk)) ∧
  (∀ (c : Cmd) (s : State), Starts 8 2 c s → let l := fieldAt c.data 0 1
    let n := 4 * l + fieldAt c.data 1 1
    (s.dev.mode ≠ .config → exec (.jlNodeConfig c) s = .next ((begun c s).complete c stMode)) ∧
    (s.dev.mode = .config → (s.line l).state = .running →
      exec (.jlNodeConfig c) s = .next ((begun c s).complete c stBusy)) ∧
    (s.dev.mode = .config → (s.line l).state ≠ .running → nodeLimit c.data = true →
      exec (.jlNodeConfig c) s = .next ((begun c s).complete c stLimit)) ∧
    (s.dev.mode = .config → (s.line l).state ≠ .running → nodeLimit c.data = false → s.nodeBad c.data n = true →
      exec (.jlNodeConfig c) s = .next ((begun c s).complete c stBadParam))) ∧
  (∀ (c : Cmd) (s : State), Starts 8 3 c s →
    (s.dev.mode ≠ .config → s.dev.mode ≠ .test → exec (.jlStart c) s = .next ((begun c s).complete c stMode)) ∧
    (s.dev.mode = .config ∨ s.dev.mode = .test → (∃ l ∈ maskLines (c.word 0), s.lineReady l = false) →
      exec (.jlStart c) s = .next ((begun c s).complete c stBadParam))) ∧
  (∀ (c : Cmd) (s : State), Starts 8 4 c s → s.running = true →
    exec (.jlStop c) s = .next ((begun c s).complete c stMode)) ∧
  (∀ (c : Cmd) (s : State), Starts 8 3 c s → Shaped s → s.dev.mode = .config ∨ s.dev.mode = .test →
    (∀ l ∈ maskLines (c.word 0), s.lineReady l = true) →
    ∃ u : State, exec (.jlStart c) s = .next (u.complete c stOk) ∧
      (∀ l ∈ maskLines (c.word 0), (u.line l).state = .running ∧ (u.line l).seq = 0 ∧
        ∀ n, n / 4 = l → (u.node n).slotCounter = 0 ∧ (u.node n).staleRun = 0) ∧
      (∀ l, l ∉ maskLines (c.word 0) → u.line l = s.line l) ∧ u.mem = s.mem) ∧
  (∀ (c : Cmd) (s : State), Starts 8 4 c s → Shaped s → s.running = false →
    ∃ u : State, exec (.jlStop c) s = .next (u.complete c stOk) ∧
      (∀ l ∈ maskLines (c.word 0), (s.line l).state = .running →
        (u.line l).state = .configured ∧ (u.line l).stopping = true) ∧
      (∀ l, l ∉ maskLines (c.word 0) ∨ (s.line l).state ≠ .running → u.line l = s.line l) ∧ u.mem = s.mem) ∧
  (∀ s : State, Shaped s → Uninjected s →
    ∃ t : State, exec .downFrameSend s = .next t ∧ (∀ n, n < 64 → (t.node n).slot = s.slotOf n) ∧
      t.asz.verdict = none ∧
      (s.asz.pairAOk = false → s.asz.pairBOk = false → ∀ l, t.line l = s.line l) ∧
      (s.asz.pairAOk = true ∨ s.asz.pairBOk = true → ∀ l, l < 16 →
        (t.line l).seq = if (s.line l).sends = true then ((s.line l).seq + 1) % 65536 else (s.line l).seq)) ∧
  (∀ (s : State) (l : Nat) (d : List Byte), (s.line l).state = .running → (s.line l).upDone = false →
    s.replaying = false → Uninjected s →
    ∃ u : State, exec (.upFrameReceive l d) s = .next (u.judgeFrame l d) ∧ u.jl = s.jl ∧ u.tb = s.tb ∧ u.mem = s.mem ∧
      u.hl = s.hl) ∧
  (∀ (s : State) (l : Nat) (d : List Byte),
    ((s.line l).state ≠ .running ∨ (s.line l).upDone = true ∨ s.replaying = true →
      exec (.upFrameReceive l d) s = .next s) ∧
    ((s.line l).state = .running → (s.line l).upDone = false → s.replaying = false → ∀ (w : Nat) (j : Inject),
      (s.inject 3 l 1).1 = some (w, j) → let u := (s.inject 3 l 1).2.onJl fun x => { x with injected := true }
      exec (.upFrameReceive l d) s = .next (if j.action = 2 then u.judgeFrame l (flipBit j.param d) else u))) ∧
  (∀ (s : State) (n : Nat) (d : List Byte) (ok : Bool), Shaped s → n < 64 →
    let crcOk := decide (d.length = 48) && decide (fieldAt d 44 4 = crc32c (d.take 44))
    let inTurn := match (s.node n).refCounter with
      | none => true
      | some (v, l) => decide (fieldAt d 40 2 = (v + (s.tb.link - l)) % 65536)
    (ok = true → crcOk = true → bitAt (fieldAt d 38 2) 0 = true → inTurn = true →
      ((s.judgeSlot ok n d).node n).sample = d ∧ ((s.judgeSlot ok n d).node n).stale = false ∧
      ((s.judgeSlot ok n d).node n).staleRun = 0 ∧ ((s.judgeSlot ok n d).node n).lost = false ∧
      ((s.judgeSlot ok n d).node n).refCounter = some (fieldAt d 40 2, s.tb.link)) ∧
    (ok = false ∨ crcOk = false ∨ bitAt (fieldAt d 38 2) 0 = false ∨ inTurn = false →
      ((s.judgeSlot ok n d).node n).sample = (s.node n).sample ∧ ((s.judgeSlot ok n d).node n).stale = true ∧
      ((s.judgeSlot ok n d).node n).staleRun = satInc 255 (s.node n).staleRun)) ∧
  (∀ (s : State) (l : Nat), Shaped s → l < 16 → (s.line l).state = .running →
    exec (.upCommaWindowClose l true) s = .next (s.onLine l fun x => { x with missRun := 0 }) ∧
    ((s.line l).missRun < 3 → exec (.upCommaWindowClose l false) s = .next (s.onLine l fun x => { x with
      missRun := x.missRun + 1, commaMiss := satInc 65535 x.commaMiss })) ∧
    ((s.line l).missRun = 3 → ∃ t : State, exec (.upCommaWindowClose l false) s = .next t ∧
      (t.line l).state = .down ∧ (t.line l).reason = 4 ∧ bitAt t.hl.events 8 = true ∧
      (s.running = true → t.asz.safe = true ∧ bitAt t.asz.causes 10 = true)) ∧
    (3 < (s.line l).missRun → ∃ t : State, exec (.upCommaWindowClose l false) s = .next t ∧
      (t.line l).state = .down ∧ (t.line l).reason = 4 ∧ bitAt t.hl.events 8 = true)) ∧
  (∀ (s : State) (l : Nat) (seen : Bool), (s.line l).state ≠ .running →
    exec (.upCommaWindowClose l seen) s = .next s) ∧
  (∀ (s : State) (l : Nat), s.safeNow = true ∧ s.headerMode l = 4 ∨ s.safeNow = false ∧ s.headerMode l =
    (match (s.line l).state with
     | .training => 0
     | .failed => 0
     | .enumerated => 1
     | .configured => 2
     | .running => 3
     | .down => 3)) ∧
  (∀ s : State, Shaped s → ∃ t : State, exec .upFrameDeadline s = .next t ∧ t.linesResolved = true)

/-- R453, R455, R459, R461, R462, R464, R465, R467 to R469, R486. -/
def Obligations.CanControllersFollowTheirCommands : Prop :=
  (∀ (c : Cmd) (s : State), Starts 9 1 c s → let k := c.word 0 % 4
    ((s.canAt k).mode ≠ 0 → exec (.canConfig c) s = .next ((begun c s).complete c stBusy)) ∧
    ((s.canAt k).mode = 0 → canConfigStatus (activeBankOf (s.canAt k)) c.data = stOk → exec (.canConfig c) s =
      .next (((begun c s).onCan k fun x => canConfigured x c.data).complete c stOk)) ∧
    ((s.canAt k).mode = 0 → canConfigStatus (activeBankOf (s.canAt k)) c.data ≠ stOk → exec (.canConfig c) s =
      .next ((begun c s).complete c (canConfigStatus (activeBankOf (s.canAt k)) c.data)))) ∧
  (∀ (c : Cmd) (s : State), Starts 9 2 c s → Shaped s → let k := c.word 0 % 4
    let x := s.canAt k
    canFiltersStatus x.fifo0.size x.fifo1.size c.data = stOk → x.switchPending = false →
    ∃ t : State, exec (.canFilters c) s = .next t ∧
      (t.canAt k).banks = x.banks.set (1 - x.activeBank) (parseBank c.data) ∧
      (x.mode ≠ 0 → (t.canAt k).switchPending = true ∧ (t.canAt k).activeBank = x.activeBank ∧
        t.hl.opens = s.hl.opens ++ [{ cmd := c, wait := .canFilters k }]) ∧
      (x.mode = 0 → (t.canAt k).switchPending = false ∧ (t.canAt k).activeBank = 1 - x.activeBank ∧
        t.awaiting (· = .canFilters k) = [])) ∧
  (∀ (c : Cmd) (s : State), Starts 9 2 c s → let x := s.canAt (c.word 0 % 4)
    let st := canFiltersStatus x.fifo0.size x.fifo1.size c.data
    (st ≠ stOk → exec (.canFilters c) s = .next ((begun c s).complete c st)) ∧
    (st = stOk → x.switchPending = true → exec (.canFilters c) s = .next ((begun c s).complete c stBusy))) ∧
  (∀ (s : State) (k : Nat), (s.canAt k).switchPending = true →
    exec (.canFilterBankSwitch k) s = .next ((s.onCan k canSwitched).finish (· = .canFilters k) stOk)) ∧
  (∀ (s : State) (k : Nat), (s.canAt k).switchPending = false → exec (.canFilterBankSwitch k) s = .next s) ∧
  (∀ (c : Cmd) (s : State), Starts 9 4 c s → let x := s.canAt (c.word 0 % 4)
    let m := c.word 1 % 8
    (4 < m → exec (.canMode c) s = .next ((begun c s).complete c stBadParam)) ∧
    (m ≤ 4 → s.canModeAllowed m = false → exec (.canMode c) s = .next ((begun c s).complete c stMode)) ∧
    (s.canModeAllowed m = true → m = 1 ∨ m = 3 ∨ m = 4 → x.configured = false →
      exec (.canMode c) s = .next ((begun c s).complete c stBadParam)) ∧
    (m ≤ 4 → s.canModeAllowed m = true → (m = 1 ∨ m = 3 ∨ m = 4 → x.configured = true) → x.request ≠ none →
      exec (.canMode c) s = .next ((begun c s).complete c stBusy))) ∧
  (∀ (c : Cmd) (s : State), Starts 9 4 c s → let k := c.word 0 % 4
    let m := c.word 1 % 8
    m ≤ 4 → s.canModeAllowed m = true → (m = 1 ∨ m = 3 ∨ m = 4 → (s.canAt k).configured = true) →
    (s.canAt k).request = none →
    exec (.canMode c) s = .next (((begun c s).onCan k fun x => { x with
      request := some m, recovering := x.recovering || decide (m = 1 ∧ x.errState = 2) }).await c (.canMode k))) ∧
  (∀ (s : State) (k m : Nat), k < 4 → Shaped s → (s.canAt k).request = some m →
    ∃ t : State, exec (.canModeChangeEffect k) s = .next t ∧ (t.canAt k).mode = m ∧ (t.canAt k).request = none ∧
      t.awaiting (· = .canMode k) = []) ∧
  (∀ (s : State) (k : Nat), (s.canAt k).request = none → exec (.canModeChangeEffect k) s = .next s) ∧
  (∀ (c : Cmd) (s : State), Starts 9 3 c s → let k := c.word 0 % 4
    ((s.canAt k).mode ≠ 1 → (s.canAt k).mode ≠ 4 → exec (.canSend c) s = .next ((begun c s).complete c stMode)) ∧
    ((s.canAt k).mode = 1 ∨ (s.canAt k).mode = 4 → s.freeTx k = none →
      exec (.canSend c) s = .next ((begun c s).complete c stBusy)) ∧
    ((s.canAt k).mode = 1 ∨ (s.canAt k).mode = 4 → s.freeTx k ≠ none → txElemBad (s.canAt k) c.data = true →
      exec (.canSend c) s = .next ((begun c s).complete c stBadParam))) ∧
  (∀ (c : Cmd) (s : State) (b : Nat), Starts 9 3 c s → let k := c.word 0 % 4
    (s.canAt k).mode = 1 ∨ (s.canAt k).mode = 4 → s.freeTx k = some b → txElemBad (s.canAt k) c.data = false →
    exec (.canSend c) s = .next (((begun c s).onCan k fun x => { x with
      tx := x.tx.set b { elem := c.data, pending := true, owner := some (c.ring, c.tag) } }).await c (.canSend k b))) ∧
  (∀ (s : State) (k b : Nat), (s.canAt k).mode = 1 ∨ (s.canAt k).mode = 4 → (s.canAt k).errState ≠ 2 →
    (s.canAt k).noStart = false → (s.canAt k).forcedRecessive = false → (s.canAt k).sending = none →
    (s.canCtrl = k → 31 ∉ s.txReady k) → bestTx (s.canAt k) (s.txReady k) = some b →
    exec (.canArbitration k) s = .next ((s.onCan k fun x => { x with sending := some (b, s.tsNow) }).bump) ∧
    b ∈ s.txReady k ∧ ∀ o ∈ s.txReady k,
      arbField ((s.canAt k).tx.getD b {}).elem ≤ arbField ((s.canAt k).tx.getD o {}).elem) ∧
  (∀ (s : State) (k : Nat), ((s.canAt k).mode ≠ 1 ∧ (s.canAt k).mode ≠ 4) ∨ (s.canAt k).errState = 2 ∨
    (s.canAt k).noStart = true ∨ (s.canAt k).forcedRecessive = true ∨ (s.canAt k).sending ≠ none ∨ s.txReady k = [] →
    exec (.canArbitration k) s = .next s) ∧
  (∀ (s : State) (k : Nat), s.canCtrl = k → (s.canAt k).mode = 1 ∨ (s.canAt k).mode = 4 → (s.canAt k).errState ≠ 2 →
    (s.canAt k).noStart = false → (s.canAt k).forcedRecessive = false → (s.canAt k).sending = none →
    31 ∈ s.txReady k →
    exec (.canArbitration k) s = .next ((s.onCan k fun x => { x with sending := some (31, s.tsNow) }).bump)) ∧
  (∀ (s : State) (k b ts : Nat) (d : Option Nat), k < 4 → Shaped s → Uninjected s → b < (s.canAt k).tx.length →
    (s.canAt k).sending = some (b, ts) → ((s.canAt k).compensated b = true → (s.canAt k).tdcFails d = false) →
    ∃ t : State, exec (.canFrameTransmitted k d) s = .next t ∧ ((t.canAt k).tx.getD b {}).pending = false ∧
      (t.canAt k).sending = none ∧ (t.canAt k).tecCount = (s.canAt k).tecCount - 1 ∧
      t.awaiting (· = .canSend k b) = []) ∧
  (∀ (s : State) (k b ts : Nat) (d : Option Nat), (s.canAt k).sending = some (b, ts) →
    ((s.canAt k).compensated b = true → (s.canAt k).tdcFails d = true → exec (.canFrameTransmitted k d) s =
      .next (s.onCan k fun x => canErrState { x with
        tdcFail := satInc 255 x.tdcFail, tecCount := min 256 (x.tecCount + 8), sending := none })) ∧
    (((s.canAt k).compensated b = true → (s.canAt k).tdcFails d = false) → ∀ (w : Nat) (j : Inject) (u : State),
      (if (s.canAt k).compensated b then s.onCan k fun x => { x with loopDelay := d.getD 0 } else s).inject 4 k 0 =
        (some (w, j), u) →
      (j.action = 1 → exec (.canFrameTransmitted k d) s = .next ((u.onCan k fun x => { x with
        tx := x.tx.set b {}, sending := none }).finish (· = .canSend k b) stTimeout)) ∧
      (j.action = 2 → exec (.canFrameTransmitted k d) s = .next (u.onCan k fun x => { x with sending := none })) ∧
      (j.action ≠ 1 → j.action ≠ 2 → exec (.canFrameTransmitted k d) s =
        .next ((u.onCan k fun x => { x with sending := none }).onFi w fun y => { y with
          held := some (b, if j.action = 3 then 0 else u.tb.link + j.param, []) })))) ∧
  (∀ (s : State) (k : Nat) (d : Option Nat), (s.canAt k).sending = none →
    exec (.canFrameTransmitted k d) s = .next s) ∧
  (∀ (s : State) (k : Nat) (f : CanFrame), s.canRecovery = false → s.up = true → (s.canAt k).hears f = true →
    exec (.canFrameReceive k f) s = .next ((s.canStore k f).canRecDown k)) ∧
  (∀ (s : State) (k : Nat) (f : CanFrame),
    (s.canRecovery = false ∨ k ≠ 0 → s.up = false ∨ (s.canAt k).hears f = false →
      exec (.canFrameReceive k f) s = .next s) ∧
    (k ≠ 0 → s.up = true → (s.canAt k).hears f = true →
      exec (.canFrameReceive k f) s = .next ((s.canStore k f).canRecDown k)) ∧
    (s.canRecovery = true → f.id = 0x7E0 → f.xtd = false → f.fdf = true → f.brs = true → f.data.length = 64 →
      exec (.canFrameReceive 0 f) s = .next (s.canRecoveryFrame f.data)) ∧
    (s.canRecovery = true → f.id ≠ 0x7E0 ∨ f.xtd = true ∨ f.fdf = false ∨ f.brs = false ∨ f.data.length ≠ 64 →
      exec (.canFrameReceive 0 f) s = .next s)) ∧
  (∀ (q : RxFifo) (e : List Byte), q.fill < q.size → q.size ≤ q.elems.length → q.put < q.size →
    (q.store e).fill = q.fill + 1 ∧ (q.store e).elems[q.put]? = some e ∧ (q.store e).lost = q.lost) ∧
  (∀ (q : RxFifo) (e : List Byte), q.fill = q.size → (q.store e).elems = q.elems ∧ (q.store e).fill = q.fill ∧
    (q.store e).lost = satInc 255 q.lost) ∧
  (∀ s : State, exec .canRecoveryPauseTimeout s = .next (s.onCan 0 fun c => { c with recovery := [] })) ∧
  (∀ (s : State) (k : Nat) (e : CanError), k < 4 → Shaped s → (s.canAt k).mode = 1 → (s.canAt k).errState = 0 →
    ∃ t : State, exec (.canBusError k e) s = .next t ∧
      (t.canAt k).tecCount = (if e.sending = true then min 256 ((s.canAt k).tecCount + e.tecStep)
        else (s.canAt k).tecCount) ∧
      ((t.canAt k).errState = 1 ↔ 127 < (t.canAt k).tecCount ∨ 127 < (t.canAt k).recCount) ∧
      (∀ j, j ≠ k → t.canAt j = s.canAt j)) ∧
  (∀ (s : State) (k : Nat) (e : CanError), k < 4 → Shaped s →
    ((s.canAt k).mode = 1 ∨ (s.canAt k).mode = 4 → (s.canAt k).errState ≠ 2 →
      ∃ t : State, exec (.canBusError k e) s = .next t ∧ t.canAt k = canErrState { s.canAt k with
        tecCount := if e.sending then min 256 ((s.canAt k).tecCount + e.tecStep) else (s.canAt k).tecCount
        recCount := if e.sending then (s.canAt k).recCount else min 256 ((s.canAt k).recCount + e.recStep)
        sending := if e.sending then none else (s.canAt k).sending } ∧
        ∀ j, j ≠ k → t.canAt j = s.canAt j) ∧
    ((s.canAt k).mode ≠ 1 ∧ (s.canAt k).mode ≠ 4 ∨ (s.canAt k).errState = 2 →
      ∃ t : State, exec (.canBusError k e) s = .next t ∧ t.can = s.can ∧ t.mem = s.mem ∧ t.hl = s.hl)) ∧
  (∀ (s : State) (k : Nat), k < 4 → Shaped s → (s.canAt k).errState ≠ 2 → 255 < (s.canAt k).tecCount →
    ∃ t : State, exec (.canBusOff k) s = .next t ∧ (t.canAt k).errState = 2 ∧ (t.canAt k).sending = none ∧
      (t.canAt k).busOffCount = satInc 255 (s.canAt k).busOffCount ∧ bitAt t.hl.events 9 = true ∧
      (t.canAt k).recovering = (s.canAt k).autoRecover) ∧
  (∀ (s : State) (k : Nat), (s.canAt k).errState = 2 ∨ (s.canAt k).tecCount ≤ 255 →
    exec (.canBusOff k) s = .next s) ∧
  (∀ (s : State) (k : Nat), (s.canAt k).errState ≠ 2 ∨ (s.canAt k).recovering = false →
    ∃ t : State, exec (.canBusOffRecovered k) s = .next t ∧ t.can = s.can ∧ t.mem = s.mem ∧ t.hl = s.hl) ∧
  (∀ (s : State) (k : Nat), (s.canAt k).mode = 0 → exec (.canStuckDominant k) s = .next s) ∧
  (∀ (s : State) (k : Nat), (s.canAt k).mode ≠ 1 → (s.canAt k).mode ≠ 4 →
    exec (.canTxTimeout k) s = .next s) ∧
  (∀ (s : State) (k : Nat), k < 4 → Shaped s → (s.canAt k).errState = 2 → (s.canAt k).recovering = true →
    ∃ t : State, exec (.canBusOffRecovered k) s = .next t ∧ t.canAt k = { s.canAt k with
      errState := 0, recovering := false, tecCount := 0, recCount := 0 }) ∧
  (∀ (s : State) (k : Nat), k < 4 → Shaped s → (s.canAt k).mode ≠ 0 →
    ∃ t : State, exec (.canStuckDominant k) s = .next t ∧ (t.canAt k).stuck = true ∧ (t.canAt k).noStart = true ∧
      bitAt t.hl.events 9 = true) ∧
  (∀ (s : State) (k : Nat), exec (.canIntegrateAgain k) s = .next (s.onCan k fun c => { c with noStart := false })) ∧
  (∀ (s : State) (k : Nat), (s.canAt k).mode = 1 ∨ (s.canAt k).mode = 4 → exec (.canTxTimeout k) s =
    .next (s.onCan k fun c => { c with
      txTimeout := true, forcedRecessive := true, sending := none, request := some 0 }))

/-- R478 to R482, R490, R510. -/
def Obligations.FirmwareAndConfigurationReachFlash : Prop :=
  (∀ (c : Cmd) (s : State), s.fw.busy = true → exec (.fwBegin c) s = .next s ∧ exec (.fwPiece c) s = .next s ∧
    exec (.fwStatus c) s = .next s ∧ exec (.fwCommit c) s = .next s ∧ exec (.fwAbort c) s = .next s) ∧
  (∀ (c : Cmd) (s : State), s.fw.op ≠ none → exec (.fwPiece c) s = .next s ∧ exec (.cfgCommit c) s = .next s) ∧
  (∀ (c : Cmd) (s : State), Starts 0xB 1 c s → s.fw.busy = false →
    s.fw.staging = .empty ∨ s.fw.staging = .installed → hdrKind c.data ≠ 2 ∨ s.dev.mode = .recovery →
    exec (.fwBegin c) s = .next (if headerStatus s.fw.floor c.data = stOk then
      ((begun c s).onFw fun f => { f with staging := .receiving, header := c.data, present := [] }).complete c stOk
      else (begun c s).complete c (headerStatus s.fw.floor c.data))) ∧
  (∀ (c : Cmd) (s : State), Starts 0xB 1 c s → s.fw.busy = false →
    (s.fw.staging = .receiving → exec (.fwBegin c) s =
      .next ((begun c s).complete c (if c.data = s.fw.header then stOk else stFwSequence))) ∧
    (s.fw.staging = .committed ∨ s.fw.staging = .copying →
      exec (.fwBegin c) s = .next ((begun c s).complete c stFwSequence)) ∧
    (s.fw.staging = .empty ∨ s.fw.staging = .installed → hdrKind c.data = 2 → s.dev.mode ≠ .recovery →
      exec (.fwBegin c) s = .next ((begun c s).complete c stFwHeader))) ∧
  (∀ (c : Cmd) (s : State), Starts 0xB 2 c s → s.fw.op = none → let n := s.fw.pieceLen (c.word 0)
    (c.data.length ≠ n → exec (.fwPiece c) s = .next ((begun c s).complete c stBadLength)) ∧
    (c.data.length = n → s.fw.staging ≠ .receiving ∨ s.fw.pieceCount ≤ c.word 0 →
      exec (.fwPiece c) s = .next ((begun c s).complete c stFwSequence)) ∧
    (c.data.length = n → s.fw.staging = .receiving → c.word 0 < s.fw.pieceCount → crc32c c.data ≠ c.word 1 →
      exec (.fwPiece c) s = .next ((begun c s).complete c stCrc))) ∧
  (∀ (c : Cmd) (s : State), Starts 0xB 2 c s → s.fw.op = none → c.data.length = s.fw.pieceLen (c.word 0) →
    s.fw.staging = .receiving → c.word 0 < s.fw.pieceCount → crc32c c.data = c.word 1 →
    (s.fw.present.contains (c.word 0) = true → exec (.fwPiece c) s = .next ((begun c s).complete c stOk)) ∧
    (s.fw.present.contains (c.word 0) = false → exec (.fwPiece c) s =
      .next (((begun c s).onFw fun f => { f with op := some (.piece (c.word 0) c.data) }).await c .flash))) ∧
  (∀ (s : State) (i : Nat) (d : List Byte), s.fw.op = some (.piece i d) →
    exec (.flashOperationDone false) s = .next s ∧
    ∃ t : State, exec (.flashOperationDone true) s = .next t ∧ t.fw.op = none ∧ t.fw.present = s.fw.present ++ [i] ∧
      t.fw.flash = flashWrite s.fw.flash (stagingFlash + 65536 * i) d ∧ t.awaiting (· = .flash) = []) ∧
  (∀ (s : State) (d : List Byte), s.fw.op = some (.cfgCommit d) →
    exec (.flashOperationDone false) s = .next s ∧
    ∃ t : State, exec (.flashOperationDone true) s = .next t ∧ t.fw.op = none ∧
      t.fw.flash = flashWrite s.fw.flash cfgFlash d ∧ t.fw.work = s.fw.work ∧ t.awaiting (· = .flash) = []) ∧
  (∀ (s : State) (h : Nat) (d : List Byte), s.fw.op = some (.wear h d) →
    exec (.flashOperationDone false) s = .next s ∧
    ∃ t : State, exec (.flashOperationDone true) s = .next t ∧
      t.fw = { s.fw with op := none, flash := flashWrite s.fw.flash (wearFlash + 32768 * h) d } ∧ t.spr.half = h ∧
      t.spr.sequence = fieldAt d 8 4 ∧ t.spr.inFlash = fieldAt d 12 4 ∧ t.spr.entries = s.spr.entries ∧
      t.mem = s.mem) ∧
  (∀ (s : State) (ok : Bool), s.fw.op = none → exec (.flashOperationDone ok) s = .next s) ∧
  (∀ (f : List Host.Cell) (a : Nat) (d : List Byte), (∀ b c, f = b ++ c → ∀ x ∈ b, ∀ y ∈ c, x.1 < y.1) →
    flashBytes (flashWrite f a d) a d.length = d ∧
    ∀ b, b < a ∨ a + d.length ≤ b → flashByte (flashWrite f a d) b = flashByte f b) ∧
  (∀ (c : Cmd) (s : State), Starts 0xB 3 c s → s.fw.busy = false →
    let miss := s.fw.missing.length
    let first := s.fw.firstMissing
    (s.fw.staging ≠ .receiving → exec (.fwStatus c) s = .next ((begun c s).complete c stFwSequence)) ∧
    (s.fw.staging = .receiving → c.word 2 < s.fw.bitmap.length →
      exec (.fwStatus c) s = .next ((begun c s).complete c stLimit miss first)) ∧
    (s.fw.staging = .receiving → s.fw.bitmap.length ≤ c.word 2 → c.ring ≠ 256 → exec (.fwStatus c) s =
      .next ((begun c s).output c (c.addr 0) s.fw.bitmap stOk miss first)) ∧
    (s.fw.staging = .receiving → s.fw.bitmap.length ≤ c.word 2 → c.ring = 256 → c.addr 0 ≠ 0 →
      exec (.fwStatus c) s = .next ((begun c s).complete c stBadParam)) ∧
    (s.fw.staging = .receiving → s.fw.bitmap.length ≤ c.word 2 → c.ring = 256 → c.addr 0 = 0 →
      exec (.fwStatus c) s = .next (((begun c s).complete c stOk miss first).bitmapFrames s.fw.bitmap))) ∧
  (∀ (c : Cmd) (s : State), Starts 0xB 4 c s → s.fw.busy = false →
    (s.fw.staging ≠ .receiving ∨ s.fw.missing ≠ [] →
      exec (.fwCommit c) s = .next ((begun c s).complete c stFwSequence)) ∧
    (s.fw.staging = .receiving → s.fw.missing = [] → s.dev.mode ≠ .recovery → exec (.fwCommit c) s = .next (
      if Config.sha512 (flashBytes s.fw.flash stagingFlash (hdrBody s.fw.header)) = (s.fw.header.drop 64).take 64
      then ((begun c s).onFw fun f => { f with staging := .committed }).complete c stOk
      else ((begun c s).onFw Fw.eraseStaging).complete c stFwSignature)) ∧
    (s.fw.staging = .receiving → s.fw.missing = [] → s.dev.mode = .recovery → exec (.fwCommit c) s = .next (
      if Config.sha512 (flashBytes s.fw.flash stagingFlash (hdrBody s.fw.header)) = (s.fw.header.drop 64).take 64
      then ((begun c s).onFw Fw.install).complete c stOk
      else ((begun c s).onFw Fw.eraseStaging).complete c stFwSignature))) ∧
  (∀ (c : Cmd) (s : State), Starts 0xB 5 c s → s.fw.busy = false → s.fw.staging ≠ .receiving →
    s.fw.staging ≠ .committed → exec (.fwAbort c) s = .next ((begun c s).complete c stFwSequence)) ∧
  (∀ (c : Cmd) (s : State), Starts 0xB 5 c s → s.fw.busy = false →
    s.fw.staging = .receiving ∨ s.fw.staging = .committed →
    ∃ u : State, exec (.fwAbort c) s = .next (u.complete c stOk) ∧ u.fw.staging = .empty ∧ u.fw.present = [] ∧
      (∀ a, stagingFlash ≤ a → a < stagingFlash + bodySize → flashByte u.fw.flash a = 0xFF) ∧ u.mem = s.mem) ∧
  (∀ (c : Cmd) (s : State), Starts 0xC 1 c s →
    (c.word 0 + c.word 1 ≤ cfgBytes → exec (.cfgRead c) s = .next ((begun c s).output c (c.addr 2)
      (part s.fw.work (c.word 0) (c.word 1)) s.cfgOk (c.word 1))) ∧
    (cfgBytes < c.word 0 + c.word 1 → exec (.cfgRead c) s = .next ((begun c s).complete c stLimit))) ∧
  (∀ (c : Cmd) (s : State), Starts 0xC 2 c s →
    (cfgBytes < c.word 0 + c.data.length → exec (.cfgWrite c) s = .next ((begun c s).complete c stLimit)) ∧
    (c.word 0 + c.data.length ≤ cfgBytes → s.fw.work.length = cfgBytes →
      ∃ u : State, exec (.cfgWrite c) s = .next (u.complete c stOk) ∧ u.fw.work.length = cfgBytes ∧
        part u.fw.work (c.word 0) c.data.length = c.data ∧ u.fw.flash = s.fw.flash ∧ u.mem = s.mem ∧
        (∀ i, i < c.word 0 ∨ c.word 0 + c.data.length ≤ i → u.fw.work[i]? = s.fw.work[i]?))) ∧
  (∀ (c : Cmd) (s : State), Starts 0xC 3 c s → s.fw.op = none →
    let d := sealed (splice s.fw.work 12 (leBytes 4 s.nextCfgSeq))
    exec (.cfgCommit c) s = .next (match s.cfgFail d with
      | some (st, base, size) => ((begun c s).complete c st (base + s.draw 0 % size)).bump
      | none => ((begun c s).onFw fun f => { f with work := d, op := some (.cfgCommit d) }).await c .flash)) ∧
  (∀ s : State, s.spr.writeDue ≠ none → s.fw.op = none → exec .wearRecordWrite s = .next (s.onFw fun f => { f with
    op := some (.wear (1 - s.spr.half) (wearHalf ((s.spr.sequence + 1) % 2 ^ 32) s.spr.entries)) })) ∧
  (∀ s : State, s.spr.writeDue = none ∨ s.fw.op ≠ none → exec .wearRecordWrite s = .next s)

/-- R503, R505, R533, R534, R536 to R539. -/
def Obligations.RecorderAndTestCommandsAnswer : Prop :=
  (∀ (c : Cmd) (s : State) (base : Nat), Starts 0xD 1 c s → s.dev.mode ≠ .replay →
    s.dev.mode = .config ∨ s.recd.hasRing (fieldAt c.data 0 1) (recMib c.data) = true → recLimit c.data = false →
    recReserved c.data = false → (begun c s).placeRing (fieldAt c.data 0 1) (recMib c.data) = some base →
    ∃ u : State, exec (.recConfig c) s = .next (u.complete c stOk) ∧ u.recd.state = .recording ∧
      u.recd.records = [] ∧ u.recd.seq = 0 ∧ u.recd.ringBase = base ∧ u.recd.ringMib = recMib c.data ∧
      u.recd.kinds = fieldAt c.data 1 1 ∧ u.recd.triggers = fieldAt c.data 3 1 ∧
      u.recd.postLinks = fieldAt c.data 8 4 ∧ u.recd.freezeAt = none ∧ u.mem = s.mem) ∧
  (∀ (c : Cmd) (s : State), Starts 0xD 1 c s →
    let open_ := s.dev.mode ≠ .replay ∧
      (s.dev.mode = .config ∨ s.recd.hasRing (fieldAt c.data 0 1) (recMib c.data) = true)
    (¬ open_ → exec (.recConfig c) s = .next ((begun c s).complete c stMode)) ∧
    (open_ → recLimit c.data = true → exec (.recConfig c) s = .next ((begun c s).complete c stLimit)) ∧
    (open_ → recLimit c.data = false → recReserved c.data = true →
      exec (.recConfig c) s = .next ((begun c s).complete c stBadParam)) ∧
    (open_ → recLimit c.data = false → recReserved c.data = false →
      (begun c s).placeRing (fieldAt c.data 0 1) (recMib c.data) = none →
      exec (.recConfig c) s = .next ((begun c s).complete c stNoMemory))) ∧
  (∀ (c : Cmd) (s : State), Starts 0xD 2 c s →
    (s.recd.state = .stopped → exec (.recFreeze c) s = .next ((begun c s).complete c stBusy)) ∧
    (s.recd.state = .recording → ∃ t : State, exec (.recFreeze c) s = .next t ∧ t.recd.state = .post ∧
      t.recd.freezeAt = some (s.tb.link + s.recd.postLinks) ∧ t.recd.safetyTrigger = false ∧
      t.hl.opens = s.hl.opens ++ [{ cmd := c, wait := .recFreeze }] ∧ t.mem = s.mem) ∧
    (s.recd.state = .post → ∃ t : State, exec (.recFreeze c) s = .next t ∧ t.recd.state = .post ∧
      t.recd.freezeAt = s.recd.freezeAt ∧ t.hl.opens = s.hl.opens ++ [{ cmd := c, wait := .recFreeze }] ∧
      t.mem = s.mem) ∧
    (s.recd.state = .frozen → exec (.recFreeze c) s = .next (((begun c s).onRec fun r => { r with
      missed := satInc 255 r.missed }).complete c stOk))) ∧
  (∀ s : State, s.recd.state ≠ .post ∨ s.recd.freezeAt = none → exec .recorderFreeze s = .next s) ∧
  (∀ (s : State) (l : Nat), s.recd.state = .post → s.recd.freezeAt = some l →
    (s.tb.link < l → exec .recorderFreeze s = .next s) ∧
    (l ≤ s.tb.link → ∃ t : State, exec .recorderFreeze s = .next t ∧ t.recd.state = .frozen ∧ t.recd.freezeAt = none ∧
      t.recd.records = s.recd.records ∧ t.recd.mile = s.tb.mile ∧ t.awaiting (· = .recFreeze) = [] ∧
      (s.recd.safetyTrigger = false → t.recd.flashCopy = s.recd.flashCopy) ∧
      (s.recd.safetyTrigger = true → let kept := trimRecords (scratchBytes - 64) s.recd.records
        t.recd.flashCopy = (s.onRec fun r => { r with mile := s.tb.mile }).exportHeader kept ++ kept.flatten))) ∧
  (∀ (c : Cmd) (s : State), Starts 0xD 3 c s →
    let flash := bitAt (c.word 3) 0
    let n := (s.exportBytes flash).length
    let ready := (flash = true ∧ s.recd.flashCopy ≠ []) ∨ (flash = false ∧ s.recd.state = .frozen)
    let waits := (begun c s).await c (.recExport (c.addr 0) n flash)
    (¬ ready → exec (.recExport c) s = .next ((begun c s).complete c stBusy)) ∧
    (ready → c.word 2 < n → exec (.recExport c) s = .next ((begun c s).complete c stLimit)) ∧
    (ready → n ≤ c.word 2 → inHost (c.addr 0) n = false →
      exec (.recExport c) s = .next ((begun c s).complete c stBadParam)) ∧
    (ready → n ≤ c.word 2 → inHost (c.addr 0) n = true → s.bgdOpen = false → exec (.recExport c) s = .next waits) ∧
    (ready → n ≤ c.word 2 → inHost (c.addr 0) n = true → s.bgdOpen = true →
      exec (.recExport c) s = .next waits.runExports)) ∧
  (∀ (s : State) (a n : Nat) (c : Cmd) (flash : Bool),
    let o : Open := { cmd := c, wait := .recExport a n flash }
    let rest := s.onHl fun h => { h with opens := h.opens.erase o }
    let v := rest.write a ((s.exportBytes flash).take n)
    (flash = false → s.dramDead s.recd.ringBase = true → s.runExport o = rest.complete c stMemPoison) ∧
    (flash = true ∨ s.dramDead s.recd.ringBase = false →
      ∃ u : State, s.runExport o = u.complete c stOk n ∧ OnlyCarried v u ∧ u.mem = v.mem)) ∧
  (∀ (c : Cmd) (s : State) (rs : List (List Byte)) (first mile : Nat), Starts 0xD 4 c s → s.dev.mode = .replay →
    allZero c.data 24 8 = true → (begun c s).dmaRange (fieldAt c.data 8 8) (fieldAt c.data 16 8) = true →
    s.recd.replay = none → (begun c s).recording (fieldAt c.data 0 8) = .ok (rs, first, mile) →
    ∃ t : State, ∃ p : Replay, exec (.recReplay c) s = .next t ∧ t.recd.replay = some p ∧ p.records = rs ∧
      p.firstLink = first ∧ p.capture = fieldAt c.data 8 8 ∧
      p.captureEnd = fieldAt c.data 8 8 + fieldAt c.data 16 8 ∧
      p.t0 = replayStart s.tb.link s.tb.mile first mile ∧ { cmd := c, wait := .replay } ∈ t.hl.opens) ∧
  (∀ (c : Cmd) (s : State), Starts 0xD 4 c s →
    let good := allZero c.data 24 8 && (begun c s).dmaRange (fieldAt c.data 8 8) (fieldAt c.data 16 8)
    (s.dev.mode ≠ .replay → exec (.recReplay c) s = .next ((begun c s).complete c stMode)) ∧
    (s.dev.mode = .replay → good = false → exec (.recReplay c) s = .next ((begun c s).complete c stBadParam)) ∧
    (s.dev.mode = .replay → good = true → s.recd.replay ≠ none →
      exec (.recReplay c) s = .next ((begun c s).complete c stBusy)) ∧
    (s.dev.mode = .replay → good = true → s.recd.replay = none → ∀ st,
      (begun c s).recording (fieldAt c.data 0 8) = .error st →
      exec (.recReplay c) s = .next ((begun c s).complete c st))) ∧
  (∀ s : State, s.recd.replay = none → exec .replayEvent s = .next s) ∧
  (∀ (s : State) (p : Replay), s.recd.replay = some p →
    let rest := p.records.filter fun r => !p.due s.tb.link r || isInput r
    (rest.find? (p.due s.tb.link) = none → exec .replayEvent s =
      .next (s.onRec fun x => { x with replay := some { p with records := rest } })) ∧
    ∀ r, rest.find? (p.due s.tb.link) = some r → exec .replayEvent s =
      .next ((s.onRec fun x => { x with replay := some { p with records := rest.erase r } }).replayRecord p r)) ∧
  (∀ (s : State) (p : Replay), s.recd.replay = some p → (∀ r ∈ p.records, p.due s.tb.link r = false) →
    exec .replayEvent s = .next s) ∧
  (∀ (s : State) (p : Replay) (r : List Byte) (rest : List (List Byte)), s.recd.replay = some p →
    p.records = r :: rest → p.due s.tb.link r = true → isInput r = true → (∀ x ∈ rest, p.due s.tb.link x = false) →
    exec .replayEvent s =
      .next ((s.onRec fun x => { x with replay := some { p with records := rest } }).replayRecord p r)) ∧
  (∀ (c : Cmd) (s : State), Starts 0xE 1 c s →
    s.dev.mode ≠ .test ∨ s.sol.state = .running ∨ (∃ j ∈ s.sch.jobs, j.partition = 0 ∧ j.state ≠ .ended) →
    exec (.testInject c) s = .next ((begun c s).complete c stMode)) ∧
  (∀ (c : Cmd) (s : State), Starts 0xE 1 c s → s.dev.mode = .test → s.sol.state ≠ .running →
    (∀ j ∈ s.sch.jobs, j.partition ≠ 0 ∨ j.state = .ended) →
    (s.injectLimit c.data = true → exec (.testInject c) s = .next ((begun c s).complete c stLimit)) ∧
    (s.injectLimit c.data = false → injectReserved c.data = true →
      exec (.testInject c) s = .next ((begun c s).complete c stBadParam)) ∧
    (s.injectLimit c.data = false → injectReserved c.data = false → exec (.testInject c) s =
      .next (((begun c s).onFi (fieldAt c.data 0 1) fun j => j.program c.data).complete c stOk))) ∧
  (∀ (c : Cmd) (s : State) (r : SelftestReport), Starts 0xE 2 c s →
    (s.dev.mode ≠ .test → exec (.testSelftest c r) s = .next ((begun c s).complete c stMode)) ∧
    (s.dev.mode = .test → let f := findingsOf (c.word 0) r
      exec (.testSelftest c r) s = .next (((begun c s).applyFindings f).complete c stOk
        (packWord [(0, min 255 f.cores.dedup.length), (8, min 255 f.banks.dedup.length),
          (16, min 15 f.clusters.dedup.length), (20, min 7 f.pipes.dedup.length)]) (f.durationMs % 2 ^ 32)))) ∧
  (∀ (c : Cmd) (s : State) (e : Nat), Starts 0xE 3 c s → s.dev.mode = .test →
    loopTarget (c.word 0 % 16) (bitsOf (c.word 0) 15 8) = true →
    exec (.testLoopback c e) s = .next ((begun c s).complete c stOk 1024 (min e 1024))) ∧
  (∀ (c : Cmd) (s : State) (e : Nat), Starts 0xE 3 c s →
    (s.dev.mode ≠ .test → exec (.testLoopback c e) s = .next ((begun c s).complete c stMode)) ∧
    (s.dev.mode = .test → loopTarget (c.word 0 % 16) (bitsOf (c.word 0) 15 8) = false →
      exec (.testLoopback c e) s = .next ((begun c s).complete c stLimit)))

/-- R433, R435, R437, R442, R552, R570. -/
def Obligations.QueriesAndTheHostLinkKeepTheDevice : Prop :=
  (∀ (c : Cmd) (s : State) (i : Instr), Uninjected s → i = .devInfo c ∨ i = .jobQuery c ∨ i = .schQuery c ∨
      i = .kvQuery c ∨ i = .solQuery c ∨ i = .safeQuery c ∨ i = .pwrQuery c →
    ∃ t : State, exec i s = .next t ∧ KeepsBlocks s t ∧ t.fi = s.fi ∧ t.hl.opens = s.hl.opens ∧
      t.hl.allocs = s.hl.allocs ∧ t.hl.windows = s.hl.windows ∧ (s.hl.linkUp = false → t.mem = s.mem)) ∧
  (∀ (s : State) (how : LinkDownKind), s.dev.inReset = false →
    ∃ t : State, exec (.hostLinkDown how) s = .next t ∧ t.hl.linkUp = false ∧ t.hl.bar2Base = 0 ∧
      t.tb.ptmPath = false ∧ t.tb.link = s.tb.link ∧ bitAt t.hl.ctx0Cfg 31 = false ∧
      (∀ v, v < 64 → t.vectorMasked v = true) ∧
      (s.spr.lasting = [] → t.dev = s.dev ∧ t.hl.pba = 0) ∧
      (Shaped s → (t.ctx 0).isOpen = false ∧
        ∀ k, k < 256 → (t.ctx k).isOpen = true → (t.ctx k).closing = true)) ∧
  (∀ (s : State) (w r : Nat) (ptm : Bool), s.dev.inReset = false →
    ∃ t : State, exec (.hostLinkUp w r ptm) s = .next t ∧ t.hl.linkUp = true ∧ t.hl.width = w ∧ t.hl.rate = r ∧
      t.tb = { s.tb with ptmPath := ptm } ∧ t.dev = s.dev ∧
      (s.hl.ctxs.all (fun x => x.waiting.isEmpty) = true → t.mem = s.mem ∧ t.hl.ctxs = s.hl.ctxs)) ∧
  (∀ (s : State) (how : LinkDownKind) (w r : Nat) (ptm : Bool), s.dev.inReset = true →
    exec (.hostLinkDown how) s = .next s ∧ exec (.hostLinkUp w r ptm) s = .next s)
end

