-- ==== Sys2Proof/Laws/State.lean ====
section
/-! SUPPORT. One lemma per field per update of the state: what the named updates write and what they leave. -/

namespace Sys2Proof.Machine

@[simp] theorem State.onPins_pending (s : State) (f : Pins → Pins) : (s.onPins f).pending = s.pending := rfl
@[simp] theorem State.onPins_free (s : State) (f : Pins → Pins) : (s.onPins f).free = s.free := rfl
@[simp] theorem State.onPins_starts (s : State) (f : Pins → Pins) : (s.onPins f).starts = s.starts := rfl
@[simp] theorem State.onPins_instant (s : State) (f : Pins → Pins) : (s.onPins f).instant = s.instant := rfl
@[simp] theorem State.onPins_pins (s : State) (f : Pins → Pins) : (s.onPins f).pins = f s.pins := rfl
@[simp] theorem State.onPins_tb (s : State) (f : Pins → Pins) : (s.onPins f).tb = s.tb := rfl
@[simp] theorem State.onPins_dev (s : State) (f : Pins → Pins) : (s.onPins f).dev = s.dev := rfl
@[simp] theorem State.onPins_hl (s : State) (f : Pins → Pins) : (s.onPins f).hl = s.hl := rfl
@[simp] theorem State.onPins_mem (s : State) (f : Pins → Pins) : (s.onPins f).mem = s.mem := rfl
@[simp] theorem State.onPins_ring (s : State) (f : Pins → Pins) : (s.onPins f).ring = s.ring := rfl
@[simp] theorem State.onPins_cores (s : State) (f : Pins → Pins) : (s.onPins f).cores = s.cores := rfl
@[simp] theorem State.onPins_dram (s : State) (f : Pins → Pins) : (s.onPins f).dram = s.dram := rfl
@[simp] theorem State.onPins_kv (s : State) (f : Pins → Pins) : (s.onPins f).kv = s.kv := rfl
@[simp] theorem State.onPins_sch (s : State) (f : Pins → Pins) : (s.onPins f).sch = s.sch := rfl
@[simp] theorem State.onPins_sol (s : State) (f : Pins → Pins) : (s.onPins f).sol = s.sol := rfl
@[simp] theorem State.onPins_jl (s : State) (f : Pins → Pins) : (s.onPins f).jl = s.jl := rfl
@[simp] theorem State.onPins_asz (s : State) (f : Pins → Pins) : (s.onPins f).asz = s.asz := rfl
@[simp] theorem State.onPins_itk (s : State) (f : Pins → Pins) : (s.onPins f).itk = s.itk := rfl
@[simp] theorem State.onPins_can (s : State) (f : Pins → Pins) : (s.onPins f).can = s.can := rfl
@[simp] theorem State.onPins_fw (s : State) (f : Pins → Pins) : (s.onPins f).fw = s.fw := rfl
@[simp] theorem State.onPins_spr (s : State) (f : Pins → Pins) : (s.onPins f).spr = s.spr := rfl
@[simp] theorem State.onPins_pwr (s : State) (f : Pins → Pins) : (s.onPins f).pwr = s.pwr := rfl
@[simp] theorem State.onPins_recd (s : State) (f : Pins → Pins) : (s.onPins f).recd = s.recd := rfl
@[simp] theorem State.onPins_fi (s : State) (f : Pins → Pins) : (s.onPins f).fi = s.fi := rfl

@[simp] theorem State.onTb_pending (s : State) (f : TimeBase → TimeBase) : (s.onTb f).pending = s.pending := rfl
@[simp] theorem State.onTb_free (s : State) (f : TimeBase → TimeBase) : (s.onTb f).free = s.free := rfl
@[simp] theorem State.onTb_starts (s : State) (f : TimeBase → TimeBase) : (s.onTb f).starts = s.starts := rfl
@[simp] theorem State.onTb_instant (s : State) (f : TimeBase → TimeBase) : (s.onTb f).instant = s.instant := rfl
@[simp] theorem State.onTb_pins (s : State) (f : TimeBase → TimeBase) : (s.onTb f).pins = s.pins := rfl
@[simp] theorem State.onTb_tb (s : State) (f : TimeBase → TimeBase) : (s.onTb f).tb = f s.tb := rfl
@[simp] theorem State.onTb_dev (s : State) (f : TimeBase → TimeBase) : (s.onTb f).dev = s.dev := rfl
@[simp] theorem State.onTb_hl (s : State) (f : TimeBase → TimeBase) : (s.onTb f).hl = s.hl := rfl
@[simp] theorem State.onTb_mem (s : State) (f : TimeBase → TimeBase) : (s.onTb f).mem = s.mem := rfl
@[simp] theorem State.onTb_ring (s : State) (f : TimeBase → TimeBase) : (s.onTb f).ring = s.ring := rfl
@[simp] theorem State.onTb_cores (s : State) (f : TimeBase → TimeBase) : (s.onTb f).cores = s.cores := rfl
@[simp] theorem State.onTb_dram (s : State) (f : TimeBase → TimeBase) : (s.onTb f).dram = s.dram := rfl
@[simp] theorem State.onTb_kv (s : State) (f : TimeBase → TimeBase) : (s.onTb f).kv = s.kv := rfl
@[simp] theorem State.onTb_sch (s : State) (f : TimeBase → TimeBase) : (s.onTb f).sch = s.sch := rfl
@[simp] theorem State.onTb_sol (s : State) (f : TimeBase → TimeBase) : (s.onTb f).sol = s.sol := rfl
@[simp] theorem State.onTb_jl (s : State) (f : TimeBase → TimeBase) : (s.onTb f).jl = s.jl := rfl
@[simp] theorem State.onTb_asz (s : State) (f : TimeBase → TimeBase) : (s.onTb f).asz = s.asz := rfl
@[simp] theorem State.onTb_itk (s : State) (f : TimeBase → TimeBase) : (s.onTb f).itk = s.itk := rfl
@[simp] theorem State.onTb_can (s : State) (f : TimeBase → TimeBase) : (s.onTb f).can = s.can := rfl
@[simp] theorem State.onTb_fw (s : State) (f : TimeBase → TimeBase) : (s.onTb f).fw = s.fw := rfl
@[simp] theorem State.onTb_spr (s : State) (f : TimeBase → TimeBase) : (s.onTb f).spr = s.spr := rfl
@[simp] theorem State.onTb_pwr (s : State) (f : TimeBase → TimeBase) : (s.onTb f).pwr = s.pwr := rfl
@[simp] theorem State.onTb_recd (s : State) (f : TimeBase → TimeBase) : (s.onTb f).recd = s.recd := rfl
@[simp] theorem State.onTb_fi (s : State) (f : TimeBase → TimeBase) : (s.onTb f).fi = s.fi := rfl

@[simp] theorem State.onDev_pending (s : State) (f : Dev → Dev) : (s.onDev f).pending = s.pending := rfl
@[simp] theorem State.onDev_free (s : State) (f : Dev → Dev) : (s.onDev f).free = s.free := rfl
@[simp] theorem State.onDev_starts (s : State) (f : Dev → Dev) : (s.onDev f).starts = s.starts := rfl
@[simp] theorem State.onDev_instant (s : State) (f : Dev → Dev) : (s.onDev f).instant = s.instant := rfl
@[simp] theorem State.onDev_pins (s : State) (f : Dev → Dev) : (s.onDev f).pins = s.pins := rfl
@[simp] theorem State.onDev_tb (s : State) (f : Dev → Dev) : (s.onDev f).tb = s.tb := rfl
@[simp] theorem State.onDev_dev (s : State) (f : Dev → Dev) : (s.onDev f).dev = f s.dev := rfl
@[simp] theorem State.onDev_hl (s : State) (f : Dev → Dev) : (s.onDev f).hl = s.hl := rfl
@[simp] theorem State.onDev_mem (s : State) (f : Dev → Dev) : (s.onDev f).mem = s.mem := rfl
@[simp] theorem State.onDev_ring (s : State) (f : Dev → Dev) : (s.onDev f).ring = s.ring := rfl
@[simp] theorem State.onDev_cores (s : State) (f : Dev → Dev) : (s.onDev f).cores = s.cores := rfl
@[simp] theorem State.onDev_dram (s : State) (f : Dev → Dev) : (s.onDev f).dram = s.dram := rfl
@[simp] theorem State.onDev_kv (s : State) (f : Dev → Dev) : (s.onDev f).kv = s.kv := rfl
@[simp] theorem State.onDev_sch (s : State) (f : Dev → Dev) : (s.onDev f).sch = s.sch := rfl
@[simp] theorem State.onDev_sol (s : State) (f : Dev → Dev) : (s.onDev f).sol = s.sol := rfl
@[simp] theorem State.onDev_jl (s : State) (f : Dev → Dev) : (s.onDev f).jl = s.jl := rfl
@[simp] theorem State.onDev_asz (s : State) (f : Dev → Dev) : (s.onDev f).asz = s.asz := rfl
@[simp] theorem State.onDev_itk (s : State) (f : Dev → Dev) : (s.onDev f).itk = s.itk := rfl
@[simp] theorem State.onDev_can (s : State) (f : Dev → Dev) : (s.onDev f).can = s.can := rfl
@[simp] theorem State.onDev_fw (s : State) (f : Dev → Dev) : (s.onDev f).fw = s.fw := rfl
@[simp] theorem State.onDev_spr (s : State) (f : Dev → Dev) : (s.onDev f).spr = s.spr := rfl
@[simp] theorem State.onDev_pwr (s : State) (f : Dev → Dev) : (s.onDev f).pwr = s.pwr := rfl
@[simp] theorem State.onDev_recd (s : State) (f : Dev → Dev) : (s.onDev f).recd = s.recd := rfl
@[simp] theorem State.onDev_fi (s : State) (f : Dev → Dev) : (s.onDev f).fi = s.fi := rfl

@[simp] theorem State.onHl_pending (s : State) (f : HostLink → HostLink) : (s.onHl f).pending = s.pending := rfl
@[simp] theorem State.onHl_free (s : State) (f : HostLink → HostLink) : (s.onHl f).free = s.free := rfl
@[simp] theorem State.onHl_starts (s : State) (f : HostLink → HostLink) : (s.onHl f).starts = s.starts := rfl
@[simp] theorem State.onHl_instant (s : State) (f : HostLink → HostLink) : (s.onHl f).instant = s.instant := rfl
@[simp] theorem State.onHl_pins (s : State) (f : HostLink → HostLink) : (s.onHl f).pins = s.pins := rfl
@[simp] theorem State.onHl_tb (s : State) (f : HostLink → HostLink) : (s.onHl f).tb = s.tb := rfl
@[simp] theorem State.onHl_dev (s : State) (f : HostLink → HostLink) : (s.onHl f).dev = s.dev := rfl
@[simp] theorem State.onHl_hl (s : State) (f : HostLink → HostLink) : (s.onHl f).hl = f s.hl := rfl
@[simp] theorem State.onHl_mem (s : State) (f : HostLink → HostLink) : (s.onHl f).mem = s.mem := rfl
@[simp] theorem State.onHl_ring (s : State) (f : HostLink → HostLink) : (s.onHl f).ring = s.ring := rfl
@[simp] theorem State.onHl_cores (s : State) (f : HostLink → HostLink) : (s.onHl f).cores = s.cores := rfl
@[simp] theorem State.onHl_dram (s : State) (f : HostLink → HostLink) : (s.onHl f).dram = s.dram := rfl
@[simp] theorem State.onHl_kv (s : State) (f : HostLink → HostLink) : (s.onHl f).kv = s.kv := rfl
@[simp] theorem State.onHl_sch (s : State) (f : HostLink → HostLink) : (s.onHl f).sch = s.sch := rfl
@[simp] theorem State.onHl_sol (s : State) (f : HostLink → HostLink) : (s.onHl f).sol = s.sol := rfl
@[simp] theorem State.onHl_jl (s : State) (f : HostLink → HostLink) : (s.onHl f).jl = s.jl := rfl
@[simp] theorem State.onHl_asz (s : State) (f : HostLink → HostLink) : (s.onHl f).asz = s.asz := rfl
@[simp] theorem State.onHl_itk (s : State) (f : HostLink → HostLink) : (s.onHl f).itk = s.itk := rfl
@[simp] theorem State.onHl_can (s : State) (f : HostLink → HostLink) : (s.onHl f).can = s.can := rfl
@[simp] theorem State.onHl_fw (s : State) (f : HostLink → HostLink) : (s.onHl f).fw = s.fw := rfl
@[simp] theorem State.onHl_spr (s : State) (f : HostLink → HostLink) : (s.onHl f).spr = s.spr := rfl
@[simp] theorem State.onHl_pwr (s : State) (f : HostLink → HostLink) : (s.onHl f).pwr = s.pwr := rfl
@[simp] theorem State.onHl_recd (s : State) (f : HostLink → HostLink) : (s.onHl f).recd = s.recd := rfl
@[simp] theorem State.onHl_fi (s : State) (f : HostLink → HostLink) : (s.onHl f).fi = s.fi := rfl

@[simp] theorem State.onMem_pending (s : State) (f : Memory → Memory) : (s.onMem f).pending = s.pending := rfl
@[simp] theorem State.onMem_free (s : State) (f : Memory → Memory) : (s.onMem f).free = s.free := rfl
@[simp] theorem State.onMem_starts (s : State) (f : Memory → Memory) : (s.onMem f).starts = s.starts := rfl
@[simp] theorem State.onMem_instant (s : State) (f : Memory → Memory) : (s.onMem f).instant = s.instant := rfl
@[simp] theorem State.onMem_pins (s : State) (f : Memory → Memory) : (s.onMem f).pins = s.pins := rfl
@[simp] theorem State.onMem_tb (s : State) (f : Memory → Memory) : (s.onMem f).tb = s.tb := rfl
@[simp] theorem State.onMem_dev (s : State) (f : Memory → Memory) : (s.onMem f).dev = s.dev := rfl
@[simp] theorem State.onMem_hl (s : State) (f : Memory → Memory) : (s.onMem f).hl = s.hl := rfl
@[simp] theorem State.onMem_mem (s : State) (f : Memory → Memory) : (s.onMem f).mem = f s.mem := rfl
@[simp] theorem State.onMem_ring (s : State) (f : Memory → Memory) : (s.onMem f).ring = s.ring := rfl
@[simp] theorem State.onMem_cores (s : State) (f : Memory → Memory) : (s.onMem f).cores = s.cores := rfl
@[simp] theorem State.onMem_dram (s : State) (f : Memory → Memory) : (s.onMem f).dram = s.dram := rfl
@[simp] theorem State.onMem_kv (s : State) (f : Memory → Memory) : (s.onMem f).kv = s.kv := rfl
@[simp] theorem State.onMem_sch (s : State) (f : Memory → Memory) : (s.onMem f).sch = s.sch := rfl
@[simp] theorem State.onMem_sol (s : State) (f : Memory → Memory) : (s.onMem f).sol = s.sol := rfl
@[simp] theorem State.onMem_jl (s : State) (f : Memory → Memory) : (s.onMem f).jl = s.jl := rfl
@[simp] theorem State.onMem_asz (s : State) (f : Memory → Memory) : (s.onMem f).asz = s.asz := rfl
@[simp] theorem State.onMem_itk (s : State) (f : Memory → Memory) : (s.onMem f).itk = s.itk := rfl
@[simp] theorem State.onMem_can (s : State) (f : Memory → Memory) : (s.onMem f).can = s.can := rfl
@[simp] theorem State.onMem_fw (s : State) (f : Memory → Memory) : (s.onMem f).fw = s.fw := rfl
@[simp] theorem State.onMem_spr (s : State) (f : Memory → Memory) : (s.onMem f).spr = s.spr := rfl
@[simp] theorem State.onMem_pwr (s : State) (f : Memory → Memory) : (s.onMem f).pwr = s.pwr := rfl
@[simp] theorem State.onMem_recd (s : State) (f : Memory → Memory) : (s.onMem f).recd = s.recd := rfl
@[simp] theorem State.onMem_fi (s : State) (f : Memory → Memory) : (s.onMem f).fi = s.fi := rfl

@[simp] theorem State.onRing_pending (s : State) (f : Ring → Ring) : (s.onRing f).pending = s.pending := rfl
@[simp] theorem State.onRing_free (s : State) (f : Ring → Ring) : (s.onRing f).free = s.free := rfl
@[simp] theorem State.onRing_starts (s : State) (f : Ring → Ring) : (s.onRing f).starts = s.starts := rfl
@[simp] theorem State.onRing_instant (s : State) (f : Ring → Ring) : (s.onRing f).instant = s.instant := rfl
@[simp] theorem State.onRing_pins (s : State) (f : Ring → Ring) : (s.onRing f).pins = s.pins := rfl
@[simp] theorem State.onRing_tb (s : State) (f : Ring → Ring) : (s.onRing f).tb = s.tb := rfl
@[simp] theorem State.onRing_dev (s : State) (f : Ring → Ring) : (s.onRing f).dev = s.dev := rfl
@[simp] theorem State.onRing_hl (s : State) (f : Ring → Ring) : (s.onRing f).hl = s.hl := rfl
@[simp] theorem State.onRing_mem (s : State) (f : Ring → Ring) : (s.onRing f).mem = s.mem := rfl
@[simp] theorem State.onRing_ring (s : State) (f : Ring → Ring) : (s.onRing f).ring = f s.ring := rfl
@[simp] theorem State.onRing_cores (s : State) (f : Ring → Ring) : (s.onRing f).cores = s.cores := rfl
@[simp] theorem State.onRing_dram (s : State) (f : Ring → Ring) : (s.onRing f).dram = s.dram := rfl
@[simp] theorem State.onRing_kv (s : State) (f : Ring → Ring) : (s.onRing f).kv = s.kv := rfl
@[simp] theorem State.onRing_sch (s : State) (f : Ring → Ring) : (s.onRing f).sch = s.sch := rfl
@[simp] theorem State.onRing_sol (s : State) (f : Ring → Ring) : (s.onRing f).sol = s.sol := rfl
@[simp] theorem State.onRing_jl (s : State) (f : Ring → Ring) : (s.onRing f).jl = s.jl := rfl
@[simp] theorem State.onRing_asz (s : State) (f : Ring → Ring) : (s.onRing f).asz = s.asz := rfl
@[simp] theorem State.onRing_itk (s : State) (f : Ring → Ring) : (s.onRing f).itk = s.itk := rfl
@[simp] theorem State.onRing_can (s : State) (f : Ring → Ring) : (s.onRing f).can = s.can := rfl
@[simp] theorem State.onRing_fw (s : State) (f : Ring → Ring) : (s.onRing f).fw = s.fw := rfl
@[simp] theorem State.onRing_spr (s : State) (f : Ring → Ring) : (s.onRing f).spr = s.spr := rfl
@[simp] theorem State.onRing_pwr (s : State) (f : Ring → Ring) : (s.onRing f).pwr = s.pwr := rfl
@[simp] theorem State.onRing_recd (s : State) (f : Ring → Ring) : (s.onRing f).recd = s.recd := rfl
@[simp] theorem State.onRing_fi (s : State) (f : Ring → Ring) : (s.onRing f).fi = s.fi := rfl

@[simp] theorem State.onCores_pending (s : State) (f : Cores → Cores) : (s.onCores f).pending = s.pending := rfl
@[simp] theorem State.onCores_free (s : State) (f : Cores → Cores) : (s.onCores f).free = s.free := rfl
@[simp] theorem State.onCores_starts (s : State) (f : Cores → Cores) : (s.onCores f).starts = s.starts := rfl
@[simp] theorem State.onCores_instant (s : State) (f : Cores → Cores) : (s.onCores f).instant = s.instant := rfl
@[simp] theorem State.onCores_pins (s : State) (f : Cores → Cores) : (s.onCores f).pins = s.pins := rfl
@[simp] theorem State.onCores_tb (s : State) (f : Cores → Cores) : (s.onCores f).tb = s.tb := rfl
@[simp] theorem State.onCores_dev (s : State) (f : Cores → Cores) : (s.onCores f).dev = s.dev := rfl
@[simp] theorem State.onCores_hl (s : State) (f : Cores → Cores) : (s.onCores f).hl = s.hl := rfl
@[simp] theorem State.onCores_mem (s : State) (f : Cores → Cores) : (s.onCores f).mem = s.mem := rfl
@[simp] theorem State.onCores_ring (s : State) (f : Cores → Cores) : (s.onCores f).ring = s.ring := rfl
@[simp] theorem State.onCores_cores (s : State) (f : Cores → Cores) : (s.onCores f).cores = f s.cores := rfl
@[simp] theorem State.onCores_dram (s : State) (f : Cores → Cores) : (s.onCores f).dram = s.dram := rfl
@[simp] theorem State.onCores_kv (s : State) (f : Cores → Cores) : (s.onCores f).kv = s.kv := rfl
@[simp] theorem State.onCores_sch (s : State) (f : Cores → Cores) : (s.onCores f).sch = s.sch := rfl
@[simp] theorem State.onCores_sol (s : State) (f : Cores → Cores) : (s.onCores f).sol = s.sol := rfl
@[simp] theorem State.onCores_jl (s : State) (f : Cores → Cores) : (s.onCores f).jl = s.jl := rfl
@[simp] theorem State.onCores_asz (s : State) (f : Cores → Cores) : (s.onCores f).asz = s.asz := rfl
@[simp] theorem State.onCores_itk (s : State) (f : Cores → Cores) : (s.onCores f).itk = s.itk := rfl
@[simp] theorem State.onCores_can (s : State) (f : Cores → Cores) : (s.onCores f).can = s.can := rfl
@[simp] theorem State.onCores_fw (s : State) (f : Cores → Cores) : (s.onCores f).fw = s.fw := rfl
@[simp] theorem State.onCores_spr (s : State) (f : Cores → Cores) : (s.onCores f).spr = s.spr := rfl
@[simp] theorem State.onCores_pwr (s : State) (f : Cores → Cores) : (s.onCores f).pwr = s.pwr := rfl
@[simp] theorem State.onCores_recd (s : State) (f : Cores → Cores) : (s.onCores f).recd = s.recd := rfl
@[simp] theorem State.onCores_fi (s : State) (f : Cores → Cores) : (s.onCores f).fi = s.fi := rfl

@[simp] theorem State.onKv_pending (s : State) (f : Kv → Kv) : (s.onKv f).pending = s.pending := rfl
@[simp] theorem State.onKv_free (s : State) (f : Kv → Kv) : (s.onKv f).free = s.free := rfl
@[simp] theorem State.onKv_starts (s : State) (f : Kv → Kv) : (s.onKv f).starts = s.starts := rfl
@[simp] theorem State.onKv_instant (s : State) (f : Kv → Kv) : (s.onKv f).instant = s.instant := rfl
@[simp] theorem State.onKv_pins (s : State) (f : Kv → Kv) : (s.onKv f).pins = s.pins := rfl
@[simp] theorem State.onKv_tb (s : State) (f : Kv → Kv) : (s.onKv f).tb = s.tb := rfl
@[simp] theorem State.onKv_dev (s : State) (f : Kv → Kv) : (s.onKv f).dev = s.dev := rfl
@[simp] theorem State.onKv_hl (s : State) (f : Kv → Kv) : (s.onKv f).hl = s.hl := rfl
@[simp] theorem State.onKv_mem (s : State) (f : Kv → Kv) : (s.onKv f).mem = s.mem := rfl
@[simp] theorem State.onKv_ring (s : State) (f : Kv → Kv) : (s.onKv f).ring = s.ring := rfl
@[simp] theorem State.onKv_cores (s : State) (f : Kv → Kv) : (s.onKv f).cores = s.cores := rfl
@[simp] theorem State.onKv_dram (s : State) (f : Kv → Kv) : (s.onKv f).dram = s.dram := rfl
@[simp] theorem State.onKv_kv (s : State) (f : Kv → Kv) : (s.onKv f).kv = f s.kv := rfl
@[simp] theorem State.onKv_sch (s : State) (f : Kv → Kv) : (s.onKv f).sch = s.sch := rfl
@[simp] theorem State.onKv_sol (s : State) (f : Kv → Kv) : (s.onKv f).sol = s.sol := rfl
@[simp] theorem State.onKv_jl (s : State) (f : Kv → Kv) : (s.onKv f).jl = s.jl := rfl
@[simp] theorem State.onKv_asz (s : State) (f : Kv → Kv) : (s.onKv f).asz = s.asz := rfl
@[simp] theorem State.onKv_itk (s : State) (f : Kv → Kv) : (s.onKv f).itk = s.itk := rfl
@[simp] theorem State.onKv_can (s : State) (f : Kv → Kv) : (s.onKv f).can = s.can := rfl
@[simp] theorem State.onKv_fw (s : State) (f : Kv → Kv) : (s.onKv f).fw = s.fw := rfl
@[simp] theorem State.onKv_spr (s : State) (f : Kv → Kv) : (s.onKv f).spr = s.spr := rfl
@[simp] theorem State.onKv_pwr (s : State) (f : Kv → Kv) : (s.onKv f).pwr = s.pwr := rfl
@[simp] theorem State.onKv_recd (s : State) (f : Kv → Kv) : (s.onKv f).recd = s.recd := rfl
@[simp] theorem State.onKv_fi (s : State) (f : Kv → Kv) : (s.onKv f).fi = s.fi := rfl

@[simp] theorem State.onSch_pending (s : State) (f : Sch → Sch) : (s.onSch f).pending = s.pending := rfl
@[simp] theorem State.onSch_free (s : State) (f : Sch → Sch) : (s.onSch f).free = s.free := rfl
@[simp] theorem State.onSch_starts (s : State) (f : Sch → Sch) : (s.onSch f).starts = s.starts := rfl
@[simp] theorem State.onSch_instant (s : State) (f : Sch → Sch) : (s.onSch f).instant = s.instant := rfl
@[simp] theorem State.onSch_pins (s : State) (f : Sch → Sch) : (s.onSch f).pins = s.pins := rfl
@[simp] theorem State.onSch_tb (s : State) (f : Sch → Sch) : (s.onSch f).tb = s.tb := rfl
@[simp] theorem State.onSch_dev (s : State) (f : Sch → Sch) : (s.onSch f).dev = s.dev := rfl
@[simp] theorem State.onSch_hl (s : State) (f : Sch → Sch) : (s.onSch f).hl = s.hl := rfl
@[simp] theorem State.onSch_mem (s : State) (f : Sch → Sch) : (s.onSch f).mem = s.mem := rfl
@[simp] theorem State.onSch_ring (s : State) (f : Sch → Sch) : (s.onSch f).ring = s.ring := rfl
@[simp] theorem State.onSch_cores (s : State) (f : Sch → Sch) : (s.onSch f).cores = s.cores := rfl
@[simp] theorem State.onSch_dram (s : State) (f : Sch → Sch) : (s.onSch f).dram = s.dram := rfl
@[simp] theorem State.onSch_kv (s : State) (f : Sch → Sch) : (s.onSch f).kv = s.kv := rfl
@[simp] theorem State.onSch_sch (s : State) (f : Sch → Sch) : (s.onSch f).sch = f s.sch := rfl
@[simp] theorem State.onSch_sol (s : State) (f : Sch → Sch) : (s.onSch f).sol = s.sol := rfl
@[simp] theorem State.onSch_jl (s : State) (f : Sch → Sch) : (s.onSch f).jl = s.jl := rfl
@[simp] theorem State.onSch_asz (s : State) (f : Sch → Sch) : (s.onSch f).asz = s.asz := rfl
@[simp] theorem State.onSch_itk (s : State) (f : Sch → Sch) : (s.onSch f).itk = s.itk := rfl
@[simp] theorem State.onSch_can (s : State) (f : Sch → Sch) : (s.onSch f).can = s.can := rfl
@[simp] theorem State.onSch_fw (s : State) (f : Sch → Sch) : (s.onSch f).fw = s.fw := rfl
@[simp] theorem State.onSch_spr (s : State) (f : Sch → Sch) : (s.onSch f).spr = s.spr := rfl
@[simp] theorem State.onSch_pwr (s : State) (f : Sch → Sch) : (s.onSch f).pwr = s.pwr := rfl
@[simp] theorem State.onSch_recd (s : State) (f : Sch → Sch) : (s.onSch f).recd = s.recd := rfl
@[simp] theorem State.onSch_fi (s : State) (f : Sch → Sch) : (s.onSch f).fi = s.fi := rfl

@[simp] theorem State.onSol_pending (s : State) (f : Sol → Sol) : (s.onSol f).pending = s.pending := rfl
@[simp] theorem State.onSol_free (s : State) (f : Sol → Sol) : (s.onSol f).free = s.free := rfl
@[simp] theorem State.onSol_starts (s : State) (f : Sol → Sol) : (s.onSol f).starts = s.starts := rfl
@[simp] theorem State.onSol_instant (s : State) (f : Sol → Sol) : (s.onSol f).instant = s.instant := rfl
@[simp] theorem State.onSol_pins (s : State) (f : Sol → Sol) : (s.onSol f).pins = s.pins := rfl
@[simp] theorem State.onSol_tb (s : State) (f : Sol → Sol) : (s.onSol f).tb = s.tb := rfl
@[simp] theorem State.onSol_dev (s : State) (f : Sol → Sol) : (s.onSol f).dev = s.dev := rfl
@[simp] theorem State.onSol_hl (s : State) (f : Sol → Sol) : (s.onSol f).hl = s.hl := rfl
@[simp] theorem State.onSol_mem (s : State) (f : Sol → Sol) : (s.onSol f).mem = s.mem := rfl
@[simp] theorem State.onSol_ring (s : State) (f : Sol → Sol) : (s.onSol f).ring = s.ring := rfl
@[simp] theorem State.onSol_cores (s : State) (f : Sol → Sol) : (s.onSol f).cores = s.cores := rfl
@[simp] theorem State.onSol_dram (s : State) (f : Sol → Sol) : (s.onSol f).dram = s.dram := rfl
@[simp] theorem State.onSol_kv (s : State) (f : Sol → Sol) : (s.onSol f).kv = s.kv := rfl
@[simp] theorem State.onSol_sch (s : State) (f : Sol → Sol) : (s.onSol f).sch = s.sch := rfl
@[simp] theorem State.onSol_sol (s : State) (f : Sol → Sol) : (s.onSol f).sol = f s.sol := rfl
@[simp] theorem State.onSol_jl (s : State) (f : Sol → Sol) : (s.onSol f).jl = s.jl := rfl
@[simp] theorem State.onSol_asz (s : State) (f : Sol → Sol) : (s.onSol f).asz = s.asz := rfl
@[simp] theorem State.onSol_itk (s : State) (f : Sol → Sol) : (s.onSol f).itk = s.itk := rfl
@[simp] theorem State.onSol_can (s : State) (f : Sol → Sol) : (s.onSol f).can = s.can := rfl
@[simp] theorem State.onSol_fw (s : State) (f : Sol → Sol) : (s.onSol f).fw = s.fw := rfl
@[simp] theorem State.onSol_spr (s : State) (f : Sol → Sol) : (s.onSol f).spr = s.spr := rfl
@[simp] theorem State.onSol_pwr (s : State) (f : Sol → Sol) : (s.onSol f).pwr = s.pwr := rfl
@[simp] theorem State.onSol_recd (s : State) (f : Sol → Sol) : (s.onSol f).recd = s.recd := rfl
@[simp] theorem State.onSol_fi (s : State) (f : Sol → Sol) : (s.onSol f).fi = s.fi := rfl

@[simp] theorem State.onJl_pending (s : State) (f : Jl → Jl) : (s.onJl f).pending = s.pending := rfl
@[simp] theorem State.onJl_free (s : State) (f : Jl → Jl) : (s.onJl f).free = s.free := rfl
@[simp] theorem State.onJl_starts (s : State) (f : Jl → Jl) : (s.onJl f).starts = s.starts := rfl
@[simp] theorem State.onJl_instant (s : State) (f : Jl → Jl) : (s.onJl f).instant = s.instant := rfl
@[simp] theorem State.onJl_pins (s : State) (f : Jl → Jl) : (s.onJl f).pins = s.pins := rfl
@[simp] theorem State.onJl_tb (s : State) (f : Jl → Jl) : (s.onJl f).tb = s.tb := rfl
@[simp] theorem State.onJl_dev (s : State) (f : Jl → Jl) : (s.onJl f).dev = s.dev := rfl
@[simp] theorem State.onJl_hl (s : State) (f : Jl → Jl) : (s.onJl f).hl = s.hl := rfl
@[simp] theorem State.onJl_mem (s : State) (f : Jl → Jl) : (s.onJl f).mem = s.mem := rfl
@[simp] theorem State.onJl_ring (s : State) (f : Jl → Jl) : (s.onJl f).ring = s.ring := rfl
@[simp] theorem State.onJl_cores (s : State) (f : Jl → Jl) : (s.onJl f).cores = s.cores := rfl
@[simp] theorem State.onJl_dram (s : State) (f : Jl → Jl) : (s.onJl f).dram = s.dram := rfl
@[simp] theorem State.onJl_kv (s : State) (f : Jl → Jl) : (s.onJl f).kv = s.kv := rfl
@[simp] theorem State.onJl_sch (s : State) (f : Jl → Jl) : (s.onJl f).sch = s.sch := rfl
@[simp] theorem State.onJl_sol (s : State) (f : Jl → Jl) : (s.onJl f).sol = s.sol := rfl
@[simp] theorem State.onJl_jl (s : State) (f : Jl → Jl) : (s.onJl f).jl = f s.jl := rfl
@[simp] theorem State.onJl_asz (s : State) (f : Jl → Jl) : (s.onJl f).asz = s.asz := rfl
@[simp] theorem State.onJl_itk (s : State) (f : Jl → Jl) : (s.onJl f).itk = s.itk := rfl
@[simp] theorem State.onJl_can (s : State) (f : Jl → Jl) : (s.onJl f).can = s.can := rfl
@[simp] theorem State.onJl_fw (s : State) (f : Jl → Jl) : (s.onJl f).fw = s.fw := rfl
@[simp] theorem State.onJl_spr (s : State) (f : Jl → Jl) : (s.onJl f).spr = s.spr := rfl
@[simp] theorem State.onJl_pwr (s : State) (f : Jl → Jl) : (s.onJl f).pwr = s.pwr := rfl
@[simp] theorem State.onJl_recd (s : State) (f : Jl → Jl) : (s.onJl f).recd = s.recd := rfl
@[simp] theorem State.onJl_fi (s : State) (f : Jl → Jl) : (s.onJl f).fi = s.fi := rfl

@[simp] theorem State.onAsz_pending (s : State) (f : Asz → Asz) : (s.onAsz f).pending = s.pending := rfl
@[simp] theorem State.onAsz_free (s : State) (f : Asz → Asz) : (s.onAsz f).free = s.free := rfl
@[simp] theorem State.onAsz_starts (s : State) (f : Asz → Asz) : (s.onAsz f).starts = s.starts := rfl
@[simp] theorem State.onAsz_instant (s : State) (f : Asz → Asz) : (s.onAsz f).instant = s.instant := rfl
@[simp] theorem State.onAsz_pins (s : State) (f : Asz → Asz) : (s.onAsz f).pins = s.pins := rfl
@[simp] theorem State.onAsz_tb (s : State) (f : Asz → Asz) : (s.onAsz f).tb = s.tb := rfl
@[simp] theorem State.onAsz_dev (s : State) (f : Asz → Asz) : (s.onAsz f).dev = s.dev := rfl
@[simp] theorem State.onAsz_hl (s : State) (f : Asz → Asz) : (s.onAsz f).hl = s.hl := rfl
@[simp] theorem State.onAsz_mem (s : State) (f : Asz → Asz) : (s.onAsz f).mem = s.mem := rfl
@[simp] theorem State.onAsz_ring (s : State) (f : Asz → Asz) : (s.onAsz f).ring = s.ring := rfl
@[simp] theorem State.onAsz_cores (s : State) (f : Asz → Asz) : (s.onAsz f).cores = s.cores := rfl
@[simp] theorem State.onAsz_dram (s : State) (f : Asz → Asz) : (s.onAsz f).dram = s.dram := rfl
@[simp] theorem State.onAsz_kv (s : State) (f : Asz → Asz) : (s.onAsz f).kv = s.kv := rfl
@[simp] theorem State.onAsz_sch (s : State) (f : Asz → Asz) : (s.onAsz f).sch = s.sch := rfl
@[simp] theorem State.onAsz_sol (s : State) (f : Asz → Asz) : (s.onAsz f).sol = s.sol := rfl
@[simp] theorem State.onAsz_jl (s : State) (f : Asz → Asz) : (s.onAsz f).jl = s.jl := rfl
@[simp] theorem State.onAsz_asz (s : State) (f : Asz → Asz) : (s.onAsz f).asz = f s.asz := rfl
@[simp] theorem State.onAsz_itk (s : State) (f : Asz → Asz) : (s.onAsz f).itk = s.itk := rfl
@[simp] theorem State.onAsz_can (s : State) (f : Asz → Asz) : (s.onAsz f).can = s.can := rfl
@[simp] theorem State.onAsz_fw (s : State) (f : Asz → Asz) : (s.onAsz f).fw = s.fw := rfl
@[simp] theorem State.onAsz_spr (s : State) (f : Asz → Asz) : (s.onAsz f).spr = s.spr := rfl
@[simp] theorem State.onAsz_pwr (s : State) (f : Asz → Asz) : (s.onAsz f).pwr = s.pwr := rfl
@[simp] theorem State.onAsz_recd (s : State) (f : Asz → Asz) : (s.onAsz f).recd = s.recd := rfl
@[simp] theorem State.onAsz_fi (s : State) (f : Asz → Asz) : (s.onAsz f).fi = s.fi := rfl

@[simp] theorem State.onItk_pending (s : State) (f : Itk → Itk) : (s.onItk f).pending = s.pending := rfl
@[simp] theorem State.onItk_free (s : State) (f : Itk → Itk) : (s.onItk f).free = s.free := rfl
@[simp] theorem State.onItk_starts (s : State) (f : Itk → Itk) : (s.onItk f).starts = s.starts := rfl
@[simp] theorem State.onItk_instant (s : State) (f : Itk → Itk) : (s.onItk f).instant = s.instant := rfl
@[simp] theorem State.onItk_pins (s : State) (f : Itk → Itk) : (s.onItk f).pins = s.pins := rfl
@[simp] theorem State.onItk_tb (s : State) (f : Itk → Itk) : (s.onItk f).tb = s.tb := rfl
@[simp] theorem State.onItk_dev (s : State) (f : Itk → Itk) : (s.onItk f).dev = s.dev := rfl
@[simp] theorem State.onItk_hl (s : State) (f : Itk → Itk) : (s.onItk f).hl = s.hl := rfl
@[simp] theorem State.onItk_mem (s : State) (f : Itk → Itk) : (s.onItk f).mem = s.mem := rfl
@[simp] theorem State.onItk_ring (s : State) (f : Itk → Itk) : (s.onItk f).ring = s.ring := rfl
@[simp] theorem State.onItk_cores (s : State) (f : Itk → Itk) : (s.onItk f).cores = s.cores := rfl
@[simp] theorem State.onItk_dram (s : State) (f : Itk → Itk) : (s.onItk f).dram = s.dram := rfl
@[simp] theorem State.onItk_kv (s : State) (f : Itk → Itk) : (s.onItk f).kv = s.kv := rfl
@[simp] theorem State.onItk_sch (s : State) (f : Itk → Itk) : (s.onItk f).sch = s.sch := rfl
@[simp] theorem State.onItk_sol (s : State) (f : Itk → Itk) : (s.onItk f).sol = s.sol := rfl
@[simp] theorem State.onItk_jl (s : State) (f : Itk → Itk) : (s.onItk f).jl = s.jl := rfl
@[simp] theorem State.onItk_asz (s : State) (f : Itk → Itk) : (s.onItk f).asz = s.asz := rfl
@[simp] theorem State.onItk_itk (s : State) (f : Itk → Itk) : (s.onItk f).itk = f s.itk := rfl
@[simp] theorem State.onItk_can (s : State) (f : Itk → Itk) : (s.onItk f).can = s.can := rfl
@[simp] theorem State.onItk_fw (s : State) (f : Itk → Itk) : (s.onItk f).fw = s.fw := rfl
@[simp] theorem State.onItk_spr (s : State) (f : Itk → Itk) : (s.onItk f).spr = s.spr := rfl
@[simp] theorem State.onItk_pwr (s : State) (f : Itk → Itk) : (s.onItk f).pwr = s.pwr := rfl
@[simp] theorem State.onItk_recd (s : State) (f : Itk → Itk) : (s.onItk f).recd = s.recd := rfl
@[simp] theorem State.onItk_fi (s : State) (f : Itk → Itk) : (s.onItk f).fi = s.fi := rfl

@[simp] theorem State.onFw_pending (s : State) (f : Fw → Fw) : (s.onFw f).pending = s.pending := rfl
@[simp] theorem State.onFw_free (s : State) (f : Fw → Fw) : (s.onFw f).free = s.free := rfl
@[simp] theorem State.onFw_starts (s : State) (f : Fw → Fw) : (s.onFw f).starts = s.starts := rfl
@[simp] theorem State.onFw_instant (s : State) (f : Fw → Fw) : (s.onFw f).instant = s.instant := rfl
@[simp] theorem State.onFw_pins (s : State) (f : Fw → Fw) : (s.onFw f).pins = s.pins := rfl
@[simp] theorem State.onFw_tb (s : State) (f : Fw → Fw) : (s.onFw f).tb = s.tb := rfl
@[simp] theorem State.onFw_dev (s : State) (f : Fw → Fw) : (s.onFw f).dev = s.dev := rfl
@[simp] theorem State.onFw_hl (s : State) (f : Fw → Fw) : (s.onFw f).hl = s.hl := rfl
@[simp] theorem State.onFw_mem (s : State) (f : Fw → Fw) : (s.onFw f).mem = s.mem := rfl
@[simp] theorem State.onFw_ring (s : State) (f : Fw → Fw) : (s.onFw f).ring = s.ring := rfl
@[simp] theorem State.onFw_cores (s : State) (f : Fw → Fw) : (s.onFw f).cores = s.cores := rfl
@[simp] theorem State.onFw_dram (s : State) (f : Fw → Fw) : (s.onFw f).dram = s.dram := rfl
@[simp] theorem State.onFw_kv (s : State) (f : Fw → Fw) : (s.onFw f).kv = s.kv := rfl
@[simp] theorem State.onFw_sch (s : State) (f : Fw → Fw) : (s.onFw f).sch = s.sch := rfl
@[simp] theorem State.onFw_sol (s : State) (f : Fw → Fw) : (s.onFw f).sol = s.sol := rfl
@[simp] theorem State.onFw_jl (s : State) (f : Fw → Fw) : (s.onFw f).jl = s.jl := rfl
@[simp] theorem State.onFw_asz (s : State) (f : Fw → Fw) : (s.onFw f).asz = s.asz := rfl
@[simp] theorem State.onFw_itk (s : State) (f : Fw → Fw) : (s.onFw f).itk = s.itk := rfl
@[simp] theorem State.onFw_can (s : State) (f : Fw → Fw) : (s.onFw f).can = s.can := rfl
@[simp] theorem State.onFw_fw (s : State) (f : Fw → Fw) : (s.onFw f).fw = f s.fw := rfl
@[simp] theorem State.onFw_spr (s : State) (f : Fw → Fw) : (s.onFw f).spr = s.spr := rfl
@[simp] theorem State.onFw_pwr (s : State) (f : Fw → Fw) : (s.onFw f).pwr = s.pwr := rfl
@[simp] theorem State.onFw_recd (s : State) (f : Fw → Fw) : (s.onFw f).recd = s.recd := rfl
@[simp] theorem State.onFw_fi (s : State) (f : Fw → Fw) : (s.onFw f).fi = s.fi := rfl

@[simp] theorem State.onSpr_pending (s : State) (f : Spr → Spr) : (s.onSpr f).pending = s.pending := rfl
@[simp] theorem State.onSpr_free (s : State) (f : Spr → Spr) : (s.onSpr f).free = s.free := rfl
@[simp] theorem State.onSpr_starts (s : State) (f : Spr → Spr) : (s.onSpr f).starts = s.starts := rfl
@[simp] theorem State.onSpr_instant (s : State) (f : Spr → Spr) : (s.onSpr f).instant = s.instant := rfl
@[simp] theorem State.onSpr_pins (s : State) (f : Spr → Spr) : (s.onSpr f).pins = s.pins := rfl
@[simp] theorem State.onSpr_tb (s : State) (f : Spr → Spr) : (s.onSpr f).tb = s.tb := rfl
@[simp] theorem State.onSpr_dev (s : State) (f : Spr → Spr) : (s.onSpr f).dev = s.dev := rfl
@[simp] theorem State.onSpr_hl (s : State) (f : Spr → Spr) : (s.onSpr f).hl = s.hl := rfl
@[simp] theorem State.onSpr_mem (s : State) (f : Spr → Spr) : (s.onSpr f).mem = s.mem := rfl
@[simp] theorem State.onSpr_ring (s : State) (f : Spr → Spr) : (s.onSpr f).ring = s.ring := rfl
@[simp] theorem State.onSpr_cores (s : State) (f : Spr → Spr) : (s.onSpr f).cores = s.cores := rfl
@[simp] theorem State.onSpr_dram (s : State) (f : Spr → Spr) : (s.onSpr f).dram = s.dram := rfl
@[simp] theorem State.onSpr_kv (s : State) (f : Spr → Spr) : (s.onSpr f).kv = s.kv := rfl
@[simp] theorem State.onSpr_sch (s : State) (f : Spr → Spr) : (s.onSpr f).sch = s.sch := rfl
@[simp] theorem State.onSpr_sol (s : State) (f : Spr → Spr) : (s.onSpr f).sol = s.sol := rfl
@[simp] theorem State.onSpr_jl (s : State) (f : Spr → Spr) : (s.onSpr f).jl = s.jl := rfl
@[simp] theorem State.onSpr_asz (s : State) (f : Spr → Spr) : (s.onSpr f).asz = s.asz := rfl
@[simp] theorem State.onSpr_itk (s : State) (f : Spr → Spr) : (s.onSpr f).itk = s.itk := rfl
@[simp] theorem State.onSpr_can (s : State) (f : Spr → Spr) : (s.onSpr f).can = s.can := rfl
@[simp] theorem State.onSpr_fw (s : State) (f : Spr → Spr) : (s.onSpr f).fw = s.fw := rfl
@[simp] theorem State.onSpr_spr (s : State) (f : Spr → Spr) : (s.onSpr f).spr = f s.spr := rfl
@[simp] theorem State.onSpr_pwr (s : State) (f : Spr → Spr) : (s.onSpr f).pwr = s.pwr := rfl
@[simp] theorem State.onSpr_recd (s : State) (f : Spr → Spr) : (s.onSpr f).recd = s.recd := rfl
@[simp] theorem State.onSpr_fi (s : State) (f : Spr → Spr) : (s.onSpr f).fi = s.fi := rfl

@[simp] theorem State.onPwr_pending (s : State) (f : Pwr → Pwr) : (s.onPwr f).pending = s.pending := rfl
@[simp] theorem State.onPwr_free (s : State) (f : Pwr → Pwr) : (s.onPwr f).free = s.free := rfl
@[simp] theorem State.onPwr_starts (s : State) (f : Pwr → Pwr) : (s.onPwr f).starts = s.starts := rfl
@[simp] theorem State.onPwr_instant (s : State) (f : Pwr → Pwr) : (s.onPwr f).instant = s.instant := rfl
@[simp] theorem State.onPwr_pins (s : State) (f : Pwr → Pwr) : (s.onPwr f).pins = s.pins := rfl
@[simp] theorem State.onPwr_tb (s : State) (f : Pwr → Pwr) : (s.onPwr f).tb = s.tb := rfl
@[simp] theorem State.onPwr_dev (s : State) (f : Pwr → Pwr) : (s.onPwr f).dev = s.dev := rfl
@[simp] theorem State.onPwr_hl (s : State) (f : Pwr → Pwr) : (s.onPwr f).hl = s.hl := rfl
@[simp] theorem State.onPwr_mem (s : State) (f : Pwr → Pwr) : (s.onPwr f).mem = s.mem := rfl
@[simp] theorem State.onPwr_ring (s : State) (f : Pwr → Pwr) : (s.onPwr f).ring = s.ring := rfl
@[simp] theorem State.onPwr_cores (s : State) (f : Pwr → Pwr) : (s.onPwr f).cores = s.cores := rfl
@[simp] theorem State.onPwr_dram (s : State) (f : Pwr → Pwr) : (s.onPwr f).dram = s.dram := rfl
@[simp] theorem State.onPwr_kv (s : State) (f : Pwr → Pwr) : (s.onPwr f).kv = s.kv := rfl
@[simp] theorem State.onPwr_sch (s : State) (f : Pwr → Pwr) : (s.onPwr f).sch = s.sch := rfl
@[simp] theorem State.onPwr_sol (s : State) (f : Pwr → Pwr) : (s.onPwr f).sol = s.sol := rfl
@[simp] theorem State.onPwr_jl (s : State) (f : Pwr → Pwr) : (s.onPwr f).jl = s.jl := rfl
@[simp] theorem State.onPwr_asz (s : State) (f : Pwr → Pwr) : (s.onPwr f).asz = s.asz := rfl
@[simp] theorem State.onPwr_itk (s : State) (f : Pwr → Pwr) : (s.onPwr f).itk = s.itk := rfl
@[simp] theorem State.onPwr_can (s : State) (f : Pwr → Pwr) : (s.onPwr f).can = s.can := rfl
@[simp] theorem State.onPwr_fw (s : State) (f : Pwr → Pwr) : (s.onPwr f).fw = s.fw := rfl
@[simp] theorem State.onPwr_spr (s : State) (f : Pwr → Pwr) : (s.onPwr f).spr = s.spr := rfl
@[simp] theorem State.onPwr_pwr (s : State) (f : Pwr → Pwr) : (s.onPwr f).pwr = f s.pwr := rfl
@[simp] theorem State.onPwr_recd (s : State) (f : Pwr → Pwr) : (s.onPwr f).recd = s.recd := rfl
@[simp] theorem State.onPwr_fi (s : State) (f : Pwr → Pwr) : (s.onPwr f).fi = s.fi := rfl

@[simp] theorem State.onRec_pending (s : State) (f : Rec → Rec) : (s.onRec f).pending = s.pending := rfl
@[simp] theorem State.onRec_free (s : State) (f : Rec → Rec) : (s.onRec f).free = s.free := rfl
@[simp] theorem State.onRec_starts (s : State) (f : Rec → Rec) : (s.onRec f).starts = s.starts := rfl
@[simp] theorem State.onRec_instant (s : State) (f : Rec → Rec) : (s.onRec f).instant = s.instant := rfl
@[simp] theorem State.onRec_pins (s : State) (f : Rec → Rec) : (s.onRec f).pins = s.pins := rfl
@[simp] theorem State.onRec_tb (s : State) (f : Rec → Rec) : (s.onRec f).tb = s.tb := rfl
@[simp] theorem State.onRec_dev (s : State) (f : Rec → Rec) : (s.onRec f).dev = s.dev := rfl
@[simp] theorem State.onRec_hl (s : State) (f : Rec → Rec) : (s.onRec f).hl = s.hl := rfl
@[simp] theorem State.onRec_mem (s : State) (f : Rec → Rec) : (s.onRec f).mem = s.mem := rfl
@[simp] theorem State.onRec_ring (s : State) (f : Rec → Rec) : (s.onRec f).ring = s.ring := rfl
@[simp] theorem State.onRec_cores (s : State) (f : Rec → Rec) : (s.onRec f).cores = s.cores := rfl
@[simp] theorem State.onRec_dram (s : State) (f : Rec → Rec) : (s.onRec f).dram = s.dram := rfl
@[simp] theorem State.onRec_kv (s : State) (f : Rec → Rec) : (s.onRec f).kv = s.kv := rfl
@[simp] theorem State.onRec_sch (s : State) (f : Rec → Rec) : (s.onRec f).sch = s.sch := rfl
@[simp] theorem State.onRec_sol (s : State) (f : Rec → Rec) : (s.onRec f).sol = s.sol := rfl
@[simp] theorem State.onRec_jl (s : State) (f : Rec → Rec) : (s.onRec f).jl = s.jl := rfl
@[simp] theorem State.onRec_asz (s : State) (f : Rec → Rec) : (s.onRec f).asz = s.asz := rfl
@[simp] theorem State.onRec_itk (s : State) (f : Rec → Rec) : (s.onRec f).itk = s.itk := rfl
@[simp] theorem State.onRec_can (s : State) (f : Rec → Rec) : (s.onRec f).can = s.can := rfl
@[simp] theorem State.onRec_fw (s : State) (f : Rec → Rec) : (s.onRec f).fw = s.fw := rfl
@[simp] theorem State.onRec_spr (s : State) (f : Rec → Rec) : (s.onRec f).spr = s.spr := rfl
@[simp] theorem State.onRec_pwr (s : State) (f : Rec → Rec) : (s.onRec f).pwr = s.pwr := rfl
@[simp] theorem State.onRec_recd (s : State) (f : Rec → Rec) : (s.onRec f).recd = f s.recd := rfl
@[simp] theorem State.onRec_fi (s : State) (f : Rec → Rec) : (s.onRec f).fi = s.fi := rfl

@[simp] theorem State.onDram_pending (s : State) (k : Nat) (f : Dram → Dram) : (s.onDram k f).pending = s.pending := rfl
@[simp] theorem State.onDram_free (s : State) (k : Nat) (f : Dram → Dram) : (s.onDram k f).free = s.free := rfl
@[simp] theorem State.onDram_starts (s : State) (k : Nat) (f : Dram → Dram) : (s.onDram k f).starts = s.starts := rfl
@[simp] theorem State.onDram_instant (s : State) (k : Nat) (f : Dram → Dram) : (s.onDram k f).instant = s.instant := rfl
@[simp] theorem State.onDram_pins (s : State) (k : Nat) (f : Dram → Dram) : (s.onDram k f).pins = s.pins := rfl
@[simp] theorem State.onDram_tb (s : State) (k : Nat) (f : Dram → Dram) : (s.onDram k f).tb = s.tb := rfl
@[simp] theorem State.onDram_dev (s : State) (k : Nat) (f : Dram → Dram) : (s.onDram k f).dev = s.dev := rfl
@[simp] theorem State.onDram_hl (s : State) (k : Nat) (f : Dram → Dram) : (s.onDram k f).hl = s.hl := rfl
@[simp] theorem State.onDram_mem (s : State) (k : Nat) (f : Dram → Dram) : (s.onDram k f).mem = s.mem := rfl
@[simp] theorem State.onDram_ring (s : State) (k : Nat) (f : Dram → Dram) : (s.onDram k f).ring = s.ring := rfl
@[simp] theorem State.onDram_cores (s : State) (k : Nat) (f : Dram → Dram) : (s.onDram k f).cores = s.cores := rfl
@[simp] theorem State.onDram_dram (s : State) (k : Nat) (f : Dram → Dram) : (s.onDram k f).dram = s.dram.modify k f := rfl
@[simp] theorem State.onDram_kv (s : State) (k : Nat) (f : Dram → Dram) : (s.onDram k f).kv = s.kv := rfl
@[simp] theorem State.onDram_sch (s : State) (k : Nat) (f : Dram → Dram) : (s.onDram k f).sch = s.sch := rfl
@[simp] theorem State.onDram_sol (s : State) (k : Nat) (f : Dram → Dram) : (s.onDram k f).sol = s.sol := rfl
@[simp] theorem State.onDram_jl (s : State) (k : Nat) (f : Dram → Dram) : (s.onDram k f).jl = s.jl := rfl
@[simp] theorem State.onDram_asz (s : State) (k : Nat) (f : Dram → Dram) : (s.onDram k f).asz = s.asz := rfl
@[simp] theorem State.onDram_itk (s : State) (k : Nat) (f : Dram → Dram) : (s.onDram k f).itk = s.itk := rfl
@[simp] theorem State.onDram_can (s : State) (k : Nat) (f : Dram → Dram) : (s.onDram k f).can = s.can := rfl
@[simp] theorem State.onDram_fw (s : State) (k : Nat) (f : Dram → Dram) : (s.onDram k f).fw = s.fw := rfl
@[simp] theorem State.onDram_spr (s : State) (k : Nat) (f : Dram → Dram) : (s.onDram k f).spr = s.spr := rfl
@[simp] theorem State.onDram_pwr (s : State) (k : Nat) (f : Dram → Dram) : (s.onDram k f).pwr = s.pwr := rfl
@[simp] theorem State.onDram_recd (s : State) (k : Nat) (f : Dram → Dram) : (s.onDram k f).recd = s.recd := rfl
@[simp] theorem State.onDram_fi (s : State) (k : Nat) (f : Dram → Dram) : (s.onDram k f).fi = s.fi := rfl

@[simp] theorem State.onCan_pending (s : State) (k : Nat) (f : Can → Can) : (s.onCan k f).pending = s.pending := rfl
@[simp] theorem State.onCan_free (s : State) (k : Nat) (f : Can → Can) : (s.onCan k f).free = s.free := rfl
@[simp] theorem State.onCan_starts (s : State) (k : Nat) (f : Can → Can) : (s.onCan k f).starts = s.starts := rfl
@[simp] theorem State.onCan_instant (s : State) (k : Nat) (f : Can → Can) : (s.onCan k f).instant = s.instant := rfl
@[simp] theorem State.onCan_pins (s : State) (k : Nat) (f : Can → Can) : (s.onCan k f).pins = s.pins := rfl
@[simp] theorem State.onCan_tb (s : State) (k : Nat) (f : Can → Can) : (s.onCan k f).tb = s.tb := rfl
@[simp] theorem State.onCan_dev (s : State) (k : Nat) (f : Can → Can) : (s.onCan k f).dev = s.dev := rfl
@[simp] theorem State.onCan_hl (s : State) (k : Nat) (f : Can → Can) : (s.onCan k f).hl = s.hl := rfl
@[simp] theorem State.onCan_mem (s : State) (k : Nat) (f : Can → Can) : (s.onCan k f).mem = s.mem := rfl
@[simp] theorem State.onCan_ring (s : State) (k : Nat) (f : Can → Can) : (s.onCan k f).ring = s.ring := rfl
@[simp] theorem State.onCan_cores (s : State) (k : Nat) (f : Can → Can) : (s.onCan k f).cores = s.cores := rfl
@[simp] theorem State.onCan_dram (s : State) (k : Nat) (f : Can → Can) : (s.onCan k f).dram = s.dram := rfl
@[simp] theorem State.onCan_kv (s : State) (k : Nat) (f : Can → Can) : (s.onCan k f).kv = s.kv := rfl
@[simp] theorem State.onCan_sch (s : State) (k : Nat) (f : Can → Can) : (s.onCan k f).sch = s.sch := rfl
@[simp] theorem State.onCan_sol (s : State) (k : Nat) (f : Can → Can) : (s.onCan k f).sol = s.sol := rfl
@[simp] theorem State.onCan_jl (s : State) (k : Nat) (f : Can → Can) : (s.onCan k f).jl = s.jl := rfl
@[simp] theorem State.onCan_asz (s : State) (k : Nat) (f : Can → Can) : (s.onCan k f).asz = s.asz := rfl
@[simp] theorem State.onCan_itk (s : State) (k : Nat) (f : Can → Can) : (s.onCan k f).itk = s.itk := rfl
@[simp] theorem State.onCan_can (s : State) (k : Nat) (f : Can → Can) : (s.onCan k f).can = s.can.modify k f := rfl
@[simp] theorem State.onCan_fw (s : State) (k : Nat) (f : Can → Can) : (s.onCan k f).fw = s.fw := rfl
@[simp] theorem State.onCan_spr (s : State) (k : Nat) (f : Can → Can) : (s.onCan k f).spr = s.spr := rfl
@[simp] theorem State.onCan_pwr (s : State) (k : Nat) (f : Can → Can) : (s.onCan k f).pwr = s.pwr := rfl
@[simp] theorem State.onCan_recd (s : State) (k : Nat) (f : Can → Can) : (s.onCan k f).recd = s.recd := rfl
@[simp] theorem State.onCan_fi (s : State) (k : Nat) (f : Can → Can) : (s.onCan k f).fi = s.fi := rfl

@[simp] theorem State.onFi_pending (s : State) (k : Nat) (f : Inject → Inject) : (s.onFi k f).pending = s.pending := rfl
@[simp] theorem State.onFi_free (s : State) (k : Nat) (f : Inject → Inject) : (s.onFi k f).free = s.free := rfl
@[simp] theorem State.onFi_starts (s : State) (k : Nat) (f : Inject → Inject) : (s.onFi k f).starts = s.starts := rfl
@[simp] theorem State.onFi_instant (s : State) (k : Nat) (f : Inject → Inject) : (s.onFi k f).instant = s.instant := rfl
@[simp] theorem State.onFi_pins (s : State) (k : Nat) (f : Inject → Inject) : (s.onFi k f).pins = s.pins := rfl
@[simp] theorem State.onFi_tb (s : State) (k : Nat) (f : Inject → Inject) : (s.onFi k f).tb = s.tb := rfl
@[simp] theorem State.onFi_dev (s : State) (k : Nat) (f : Inject → Inject) : (s.onFi k f).dev = s.dev := rfl
@[simp] theorem State.onFi_hl (s : State) (k : Nat) (f : Inject → Inject) : (s.onFi k f).hl = s.hl := rfl
@[simp] theorem State.onFi_mem (s : State) (k : Nat) (f : Inject → Inject) : (s.onFi k f).mem = s.mem := rfl
@[simp] theorem State.onFi_ring (s : State) (k : Nat) (f : Inject → Inject) : (s.onFi k f).ring = s.ring := rfl
@[simp] theorem State.onFi_cores (s : State) (k : Nat) (f : Inject → Inject) : (s.onFi k f).cores = s.cores := rfl
@[simp] theorem State.onFi_dram (s : State) (k : Nat) (f : Inject → Inject) : (s.onFi k f).dram = s.dram := rfl
@[simp] theorem State.onFi_kv (s : State) (k : Nat) (f : Inject → Inject) : (s.onFi k f).kv = s.kv := rfl
@[simp] theorem State.onFi_sch (s : State) (k : Nat) (f : Inject → Inject) : (s.onFi k f).sch = s.sch := rfl
@[simp] theorem State.onFi_sol (s : State) (k : Nat) (f : Inject → Inject) : (s.onFi k f).sol = s.sol := rfl
@[simp] theorem State.onFi_jl (s : State) (k : Nat) (f : Inject → Inject) : (s.onFi k f).jl = s.jl := rfl
@[simp] theorem State.onFi_asz (s : State) (k : Nat) (f : Inject → Inject) : (s.onFi k f).asz = s.asz := rfl
@[simp] theorem State.onFi_itk (s : State) (k : Nat) (f : Inject → Inject) : (s.onFi k f).itk = s.itk := rfl
@[simp] theorem State.onFi_can (s : State) (k : Nat) (f : Inject → Inject) : (s.onFi k f).can = s.can := rfl
@[simp] theorem State.onFi_fw (s : State) (k : Nat) (f : Inject → Inject) : (s.onFi k f).fw = s.fw := rfl
@[simp] theorem State.onFi_spr (s : State) (k : Nat) (f : Inject → Inject) : (s.onFi k f).spr = s.spr := rfl
@[simp] theorem State.onFi_pwr (s : State) (k : Nat) (f : Inject → Inject) : (s.onFi k f).pwr = s.pwr := rfl
@[simp] theorem State.onFi_recd (s : State) (k : Nat) (f : Inject → Inject) : (s.onFi k f).recd = s.recd := rfl
@[simp] theorem State.onFi_fi (s : State) (k : Nat) (f : Inject → Inject) : (s.onFi k f).fi = s.fi.modify k f := rfl

@[simp] theorem State.bump_pending (s : State) : s.bump.pending = s.pending := rfl
@[simp] theorem State.bump_free (s : State) : s.bump.free = s.free + 1 := rfl
@[simp] theorem State.bump_starts (s : State) : s.bump.starts = s.starts := rfl
@[simp] theorem State.bump_instant (s : State) : s.bump.instant = s.instantNow := rfl
@[simp] theorem State.bump_pins (s : State) : s.bump.pins = s.pins := rfl
@[simp] theorem State.bump_tb (s : State) : s.bump.tb = s.tb := rfl
@[simp] theorem State.bump_dev (s : State) : s.bump.dev = s.dev := rfl
@[simp] theorem State.bump_hl (s : State) : s.bump.hl = s.hl := rfl
@[simp] theorem State.bump_mem (s : State) : s.bump.mem = s.mem := rfl
@[simp] theorem State.bump_ring (s : State) : s.bump.ring = s.ring := rfl
@[simp] theorem State.bump_cores (s : State) : s.bump.cores = s.cores := rfl
@[simp] theorem State.bump_dram (s : State) : s.bump.dram = s.dram := rfl
@[simp] theorem State.bump_kv (s : State) : s.bump.kv = s.kv := rfl
@[simp] theorem State.bump_sch (s : State) : s.bump.sch = s.sch := rfl
@[simp] theorem State.bump_sol (s : State) : s.bump.sol = s.sol := rfl
@[simp] theorem State.bump_jl (s : State) : s.bump.jl = s.jl := rfl
@[simp] theorem State.bump_asz (s : State) : s.bump.asz = s.asz := rfl
@[simp] theorem State.bump_itk (s : State) : s.bump.itk = s.itk := rfl
@[simp] theorem State.bump_can (s : State) : s.bump.can = s.can := rfl
@[simp] theorem State.bump_fw (s : State) : s.bump.fw = s.fw := rfl
@[simp] theorem State.bump_spr (s : State) : s.bump.spr = s.spr := rfl
@[simp] theorem State.bump_pwr (s : State) : s.bump.pwr = s.pwr := rfl
@[simp] theorem State.bump_recd (s : State) : s.bump.recd = s.recd := rfl
@[simp] theorem State.bump_fi (s : State) : s.bump.fi = s.fi := rfl

@[simp] theorem State.onLine_pending (s : State) (k : Nat) (f : Line → Line) : (s.onLine k f).pending = s.pending := rfl
@[simp] theorem State.onLine_free (s : State) (k : Nat) (f : Line → Line) : (s.onLine k f).free = s.free := rfl
@[simp] theorem State.onLine_starts (s : State) (k : Nat) (f : Line → Line) : (s.onLine k f).starts = s.starts := rfl
@[simp] theorem State.onLine_instant (s : State) (k : Nat) (f : Line → Line) : (s.onLine k f).instant = s.instant := rfl
@[simp] theorem State.onLine_pins (s : State) (k : Nat) (f : Line → Line) : (s.onLine k f).pins = s.pins := rfl
@[simp] theorem State.onLine_tb (s : State) (k : Nat) (f : Line → Line) : (s.onLine k f).tb = s.tb := rfl
@[simp] theorem State.onLine_dev (s : State) (k : Nat) (f : Line → Line) : (s.onLine k f).dev = s.dev := rfl
@[simp] theorem State.onLine_hl (s : State) (k : Nat) (f : Line → Line) : (s.onLine k f).hl = s.hl := rfl
@[simp] theorem State.onLine_mem (s : State) (k : Nat) (f : Line → Line) : (s.onLine k f).mem = s.mem := rfl
@[simp] theorem State.onLine_ring (s : State) (k : Nat) (f : Line → Line) : (s.onLine k f).ring = s.ring := rfl
@[simp] theorem State.onLine_cores (s : State) (k : Nat) (f : Line → Line) : (s.onLine k f).cores = s.cores := rfl
@[simp] theorem State.onLine_dram (s : State) (k : Nat) (f : Line → Line) : (s.onLine k f).dram = s.dram := rfl
@[simp] theorem State.onLine_kv (s : State) (k : Nat) (f : Line → Line) : (s.onLine k f).kv = s.kv := rfl
@[simp] theorem State.onLine_sch (s : State) (k : Nat) (f : Line → Line) : (s.onLine k f).sch = s.sch := rfl
@[simp] theorem State.onLine_sol (s : State) (k : Nat) (f : Line → Line) : (s.onLine k f).sol = s.sol := rfl
@[simp] theorem State.onLine_jl (s : State) (k : Nat) (f : Line → Line) : (s.onLine k f).jl = { s.jl with lines := s.jl.lines.modify k f } := rfl
@[simp] theorem State.onLine_asz (s : State) (k : Nat) (f : Line → Line) : (s.onLine k f).asz = s.asz := rfl
@[simp] theorem State.onLine_itk (s : State) (k : Nat) (f : Line → Line) : (s.onLine k f).itk = s.itk := rfl
@[simp] theorem State.onLine_can (s : State) (k : Nat) (f : Line → Line) : (s.onLine k f).can = s.can := rfl
@[simp] theorem State.onLine_fw (s : State) (k : Nat) (f : Line → Line) : (s.onLine k f).fw = s.fw := rfl
@[simp] theorem State.onLine_spr (s : State) (k : Nat) (f : Line → Line) : (s.onLine k f).spr = s.spr := rfl
@[simp] theorem State.onLine_pwr (s : State) (k : Nat) (f : Line → Line) : (s.onLine k f).pwr = s.pwr := rfl
@[simp] theorem State.onLine_recd (s : State) (k : Nat) (f : Line → Line) : (s.onLine k f).recd = s.recd := rfl
@[simp] theorem State.onLine_fi (s : State) (k : Nat) (f : Line → Line) : (s.onLine k f).fi = s.fi := rfl

@[simp] theorem State.onNode_pending (s : State) (k : Nat) (f : Node → Node) : (s.onNode k f).pending = s.pending := rfl
@[simp] theorem State.onNode_free (s : State) (k : Nat) (f : Node → Node) : (s.onNode k f).free = s.free := rfl
@[simp] theorem State.onNode_starts (s : State) (k : Nat) (f : Node → Node) : (s.onNode k f).starts = s.starts := rfl
@[simp] theorem State.onNode_instant (s : State) (k : Nat) (f : Node → Node) : (s.onNode k f).instant = s.instant := rfl
@[simp] theorem State.onNode_pins (s : State) (k : Nat) (f : Node → Node) : (s.onNode k f).pins = s.pins := rfl
@[simp] theorem State.onNode_tb (s : State) (k : Nat) (f : Node → Node) : (s.onNode k f).tb = s.tb := rfl
@[simp] theorem State.onNode_dev (s : State) (k : Nat) (f : Node → Node) : (s.onNode k f).dev = s.dev := rfl
@[simp] theorem State.onNode_hl (s : State) (k : Nat) (f : Node → Node) : (s.onNode k f).hl = s.hl := rfl
@[simp] theorem State.onNode_mem (s : State) (k : Nat) (f : Node → Node) : (s.onNode k f).mem = s.mem := rfl
@[simp] theorem State.onNode_ring (s : State) (k : Nat) (f : Node → Node) : (s.onNode k f).ring = s.ring := rfl
@[simp] theorem State.onNode_cores (s : State) (k : Nat) (f : Node → Node) : (s.onNode k f).cores = s.cores := rfl
@[simp] theorem State.onNode_dram (s : State) (k : Nat) (f : Node → Node) : (s.onNode k f).dram = s.dram := rfl
@[simp] theorem State.onNode_kv (s : State) (k : Nat) (f : Node → Node) : (s.onNode k f).kv = s.kv := rfl
@[simp] theorem State.onNode_sch (s : State) (k : Nat) (f : Node → Node) : (s.onNode k f).sch = s.sch := rfl
@[simp] theorem State.onNode_sol (s : State) (k : Nat) (f : Node → Node) : (s.onNode k f).sol = s.sol := rfl
@[simp] theorem State.onNode_jl (s : State) (k : Nat) (f : Node → Node) : (s.onNode k f).jl = { s.jl with nodes := s.jl.nodes.modify k f } := rfl
@[simp] theorem State.onNode_asz (s : State) (k : Nat) (f : Node → Node) : (s.onNode k f).asz = s.asz := rfl
@[simp] theorem State.onNode_itk (s : State) (k : Nat) (f : Node → Node) : (s.onNode k f).itk = s.itk := rfl
@[simp] theorem State.onNode_can (s : State) (k : Nat) (f : Node → Node) : (s.onNode k f).can = s.can := rfl
@[simp] theorem State.onNode_fw (s : State) (k : Nat) (f : Node → Node) : (s.onNode k f).fw = s.fw := rfl
@[simp] theorem State.onNode_spr (s : State) (k : Nat) (f : Node → Node) : (s.onNode k f).spr = s.spr := rfl
@[simp] theorem State.onNode_pwr (s : State) (k : Nat) (f : Node → Node) : (s.onNode k f).pwr = s.pwr := rfl
@[simp] theorem State.onNode_recd (s : State) (k : Nat) (f : Node → Node) : (s.onNode k f).recd = s.recd := rfl
@[simp] theorem State.onNode_fi (s : State) (k : Nat) (f : Node → Node) : (s.onNode k f).fi = s.fi := rfl

@[simp] theorem State.onStream_pending (s : State) (k : Nat) (f : Stream → Stream) : (s.onStream k f).pending = s.pending := rfl
@[simp] theorem State.onStream_free (s : State) (k : Nat) (f : Stream → Stream) : (s.onStream k f).free = s.free := rfl
@[simp] theorem State.onStream_starts (s : State) (k : Nat) (f : Stream → Stream) : (s.onStream k f).starts = s.starts := rfl
@[simp] theorem State.onStream_instant (s : State) (k : Nat) (f : Stream → Stream) : (s.onStream k f).instant = s.instant := rfl
@[simp] theorem State.onStream_pins (s : State) (k : Nat) (f : Stream → Stream) : (s.onStream k f).pins = s.pins := rfl
@[simp] theorem State.onStream_tb (s : State) (k : Nat) (f : Stream → Stream) : (s.onStream k f).tb = s.tb := rfl
@[simp] theorem State.onStream_dev (s : State) (k : Nat) (f : Stream → Stream) : (s.onStream k f).dev = s.dev := rfl
@[simp] theorem State.onStream_hl (s : State) (k : Nat) (f : Stream → Stream) : (s.onStream k f).hl = s.hl := rfl
@[simp] theorem State.onStream_mem (s : State) (k : Nat) (f : Stream → Stream) : (s.onStream k f).mem = s.mem := rfl
@[simp] theorem State.onStream_ring (s : State) (k : Nat) (f : Stream → Stream) : (s.onStream k f).ring = s.ring := rfl
@[simp] theorem State.onStream_cores (s : State) (k : Nat) (f : Stream → Stream) : (s.onStream k f).cores = s.cores := rfl
@[simp] theorem State.onStream_dram (s : State) (k : Nat) (f : Stream → Stream) : (s.onStream k f).dram = s.dram := rfl
@[simp] theorem State.onStream_kv (s : State) (k : Nat) (f : Stream → Stream) : (s.onStream k f).kv = s.kv := rfl
@[simp] theorem State.onStream_sch (s : State) (k : Nat) (f : Stream → Stream) : (s.onStream k f).sch = s.sch := rfl
@[simp] theorem State.onStream_sol (s : State) (k : Nat) (f : Stream → Stream) : (s.onStream k f).sol = s.sol := rfl
@[simp] theorem State.onStream_jl (s : State) (k : Nat) (f : Stream → Stream) : (s.onStream k f).jl = s.jl := rfl
@[simp] theorem State.onStream_asz (s : State) (k : Nat) (f : Stream → Stream) : (s.onStream k f).asz = s.asz := rfl
@[simp] theorem State.onStream_itk (s : State) (k : Nat) (f : Stream → Stream) : (s.onStream k f).itk = { s.itk with streams := s.itk.streams.modify k f } := rfl
@[simp] theorem State.onStream_can (s : State) (k : Nat) (f : Stream → Stream) : (s.onStream k f).can = s.can := rfl
@[simp] theorem State.onStream_fw (s : State) (k : Nat) (f : Stream → Stream) : (s.onStream k f).fw = s.fw := rfl
@[simp] theorem State.onStream_spr (s : State) (k : Nat) (f : Stream → Stream) : (s.onStream k f).spr = s.spr := rfl
@[simp] theorem State.onStream_pwr (s : State) (k : Nat) (f : Stream → Stream) : (s.onStream k f).pwr = s.pwr := rfl
@[simp] theorem State.onStream_recd (s : State) (k : Nat) (f : Stream → Stream) : (s.onStream k f).recd = s.recd := rfl
@[simp] theorem State.onStream_fi (s : State) (k : Nat) (f : Stream → Stream) : (s.onStream k f).fi = s.fi := rfl

@[simp] theorem State.onPort_pending (s : State) (k : Nat) (f : Port → Port) : (s.onPort k f).pending = s.pending := rfl
@[simp] theorem State.onPort_free (s : State) (k : Nat) (f : Port → Port) : (s.onPort k f).free = s.free := rfl
@[simp] theorem State.onPort_starts (s : State) (k : Nat) (f : Port → Port) : (s.onPort k f).starts = s.starts := rfl
@[simp] theorem State.onPort_instant (s : State) (k : Nat) (f : Port → Port) : (s.onPort k f).instant = s.instant := rfl
@[simp] theorem State.onPort_pins (s : State) (k : Nat) (f : Port → Port) : (s.onPort k f).pins = s.pins := rfl
@[simp] theorem State.onPort_tb (s : State) (k : Nat) (f : Port → Port) : (s.onPort k f).tb = s.tb := rfl
@[simp] theorem State.onPort_dev (s : State) (k : Nat) (f : Port → Port) : (s.onPort k f).dev = s.dev := rfl
@[simp] theorem State.onPort_hl (s : State) (k : Nat) (f : Port → Port) : (s.onPort k f).hl = s.hl := rfl
@[simp] theorem State.onPort_mem (s : State) (k : Nat) (f : Port → Port) : (s.onPort k f).mem = s.mem := rfl
@[simp] theorem State.onPort_ring (s : State) (k : Nat) (f : Port → Port) : (s.onPort k f).ring = s.ring := rfl
@[simp] theorem State.onPort_cores (s : State) (k : Nat) (f : Port → Port) : (s.onPort k f).cores = s.cores := rfl
@[simp] theorem State.onPort_dram (s : State) (k : Nat) (f : Port → Port) : (s.onPort k f).dram = s.dram := rfl
@[simp] theorem State.onPort_kv (s : State) (k : Nat) (f : Port → Port) : (s.onPort k f).kv = s.kv := rfl
@[simp] theorem State.onPort_sch (s : State) (k : Nat) (f : Port → Port) : (s.onPort k f).sch = s.sch := rfl
@[simp] theorem State.onPort_sol (s : State) (k : Nat) (f : Port → Port) : (s.onPort k f).sol = s.sol := rfl
@[simp] theorem State.onPort_jl (s : State) (k : Nat) (f : Port → Port) : (s.onPort k f).jl = s.jl := rfl
@[simp] theorem State.onPort_asz (s : State) (k : Nat) (f : Port → Port) : (s.onPort k f).asz = s.asz := rfl
@[simp] theorem State.onPort_itk (s : State) (k : Nat) (f : Port → Port) : (s.onPort k f).itk = { s.itk with ports := s.itk.ports.modify k f } := rfl
@[simp] theorem State.onPort_can (s : State) (k : Nat) (f : Port → Port) : (s.onPort k f).can = s.can := rfl
@[simp] theorem State.onPort_fw (s : State) (k : Nat) (f : Port → Port) : (s.onPort k f).fw = s.fw := rfl
@[simp] theorem State.onPort_spr (s : State) (k : Nat) (f : Port → Port) : (s.onPort k f).spr = s.spr := rfl
@[simp] theorem State.onPort_pwr (s : State) (k : Nat) (f : Port → Port) : (s.onPort k f).pwr = s.pwr := rfl
@[simp] theorem State.onPort_recd (s : State) (k : Nat) (f : Port → Port) : (s.onPort k f).recd = s.recd := rfl
@[simp] theorem State.onPort_fi (s : State) (k : Nat) (f : Port → Port) : (s.onPort k f).fi = s.fi := rfl

@[simp] theorem State.onPipe_pending (s : State) (k : Nat) (f : Pipe → Pipe) : (s.onPipe k f).pending = s.pending := rfl
@[simp] theorem State.onPipe_free (s : State) (k : Nat) (f : Pipe → Pipe) : (s.onPipe k f).free = s.free := rfl
@[simp] theorem State.onPipe_starts (s : State) (k : Nat) (f : Pipe → Pipe) : (s.onPipe k f).starts = s.starts := rfl
@[simp] theorem State.onPipe_instant (s : State) (k : Nat) (f : Pipe → Pipe) : (s.onPipe k f).instant = s.instant := rfl
@[simp] theorem State.onPipe_pins (s : State) (k : Nat) (f : Pipe → Pipe) : (s.onPipe k f).pins = s.pins := rfl
@[simp] theorem State.onPipe_tb (s : State) (k : Nat) (f : Pipe → Pipe) : (s.onPipe k f).tb = s.tb := rfl
@[simp] theorem State.onPipe_dev (s : State) (k : Nat) (f : Pipe → Pipe) : (s.onPipe k f).dev = s.dev := rfl
@[simp] theorem State.onPipe_hl (s : State) (k : Nat) (f : Pipe → Pipe) : (s.onPipe k f).hl = s.hl := rfl
@[simp] theorem State.onPipe_mem (s : State) (k : Nat) (f : Pipe → Pipe) : (s.onPipe k f).mem = s.mem := rfl
@[simp] theorem State.onPipe_ring (s : State) (k : Nat) (f : Pipe → Pipe) : (s.onPipe k f).ring = s.ring := rfl
@[simp] theorem State.onPipe_cores (s : State) (k : Nat) (f : Pipe → Pipe) : (s.onPipe k f).cores = s.cores := rfl
@[simp] theorem State.onPipe_dram (s : State) (k : Nat) (f : Pipe → Pipe) : (s.onPipe k f).dram = s.dram := rfl
@[simp] theorem State.onPipe_kv (s : State) (k : Nat) (f : Pipe → Pipe) : (s.onPipe k f).kv = s.kv := rfl
@[simp] theorem State.onPipe_sch (s : State) (k : Nat) (f : Pipe → Pipe) : (s.onPipe k f).sch = s.sch := rfl
@[simp] theorem State.onPipe_sol (s : State) (k : Nat) (f : Pipe → Pipe) : (s.onPipe k f).sol = s.sol := rfl
@[simp] theorem State.onPipe_jl (s : State) (k : Nat) (f : Pipe → Pipe) : (s.onPipe k f).jl = s.jl := rfl
@[simp] theorem State.onPipe_asz (s : State) (k : Nat) (f : Pipe → Pipe) : (s.onPipe k f).asz = s.asz := rfl
@[simp] theorem State.onPipe_itk (s : State) (k : Nat) (f : Pipe → Pipe) : (s.onPipe k f).itk = { s.itk with pipes := s.itk.pipes.modify k f } := rfl
@[simp] theorem State.onPipe_can (s : State) (k : Nat) (f : Pipe → Pipe) : (s.onPipe k f).can = s.can := rfl
@[simp] theorem State.onPipe_fw (s : State) (k : Nat) (f : Pipe → Pipe) : (s.onPipe k f).fw = s.fw := rfl
@[simp] theorem State.onPipe_spr (s : State) (k : Nat) (f : Pipe → Pipe) : (s.onPipe k f).spr = s.spr := rfl
@[simp] theorem State.onPipe_pwr (s : State) (k : Nat) (f : Pipe → Pipe) : (s.onPipe k f).pwr = s.pwr := rfl
@[simp] theorem State.onPipe_recd (s : State) (k : Nat) (f : Pipe → Pipe) : (s.onPipe k f).recd = s.recd := rfl
@[simp] theorem State.onPipe_fi (s : State) (k : Nat) (f : Pipe → Pipe) : (s.onPipe k f).fi = s.fi := rfl

@[simp] theorem State.onSeg_pending (s : State) (k : Nat) (f : Segment → Segment) : (s.onSeg k f).pending = s.pending := rfl
@[simp] theorem State.onSeg_free (s : State) (k : Nat) (f : Segment → Segment) : (s.onSeg k f).free = s.free := rfl
@[simp] theorem State.onSeg_starts (s : State) (k : Nat) (f : Segment → Segment) : (s.onSeg k f).starts = s.starts := rfl
@[simp] theorem State.onSeg_instant (s : State) (k : Nat) (f : Segment → Segment) : (s.onSeg k f).instant = s.instant := rfl
@[simp] theorem State.onSeg_pins (s : State) (k : Nat) (f : Segment → Segment) : (s.onSeg k f).pins = s.pins := rfl
@[simp] theorem State.onSeg_tb (s : State) (k : Nat) (f : Segment → Segment) : (s.onSeg k f).tb = s.tb := rfl
@[simp] theorem State.onSeg_dev (s : State) (k : Nat) (f : Segment → Segment) : (s.onSeg k f).dev = s.dev := rfl
@[simp] theorem State.onSeg_hl (s : State) (k : Nat) (f : Segment → Segment) : (s.onSeg k f).hl = s.hl := rfl
@[simp] theorem State.onSeg_mem (s : State) (k : Nat) (f : Segment → Segment) : (s.onSeg k f).mem = s.mem := rfl
@[simp] theorem State.onSeg_ring (s : State) (k : Nat) (f : Segment → Segment) : (s.onSeg k f).ring = { s.ring with segs := s.ring.segs.modify k f } := rfl
@[simp] theorem State.onSeg_cores (s : State) (k : Nat) (f : Segment → Segment) : (s.onSeg k f).cores = s.cores := rfl
@[simp] theorem State.onSeg_dram (s : State) (k : Nat) (f : Segment → Segment) : (s.onSeg k f).dram = s.dram := rfl
@[simp] theorem State.onSeg_kv (s : State) (k : Nat) (f : Segment → Segment) : (s.onSeg k f).kv = s.kv := rfl
@[simp] theorem State.onSeg_sch (s : State) (k : Nat) (f : Segment → Segment) : (s.onSeg k f).sch = s.sch := rfl
@[simp] theorem State.onSeg_sol (s : State) (k : Nat) (f : Segment → Segment) : (s.onSeg k f).sol = s.sol := rfl
@[simp] theorem State.onSeg_jl (s : State) (k : Nat) (f : Segment → Segment) : (s.onSeg k f).jl = s.jl := rfl
@[simp] theorem State.onSeg_asz (s : State) (k : Nat) (f : Segment → Segment) : (s.onSeg k f).asz = s.asz := rfl
@[simp] theorem State.onSeg_itk (s : State) (k : Nat) (f : Segment → Segment) : (s.onSeg k f).itk = s.itk := rfl
@[simp] theorem State.onSeg_can (s : State) (k : Nat) (f : Segment → Segment) : (s.onSeg k f).can = s.can := rfl
@[simp] theorem State.onSeg_fw (s : State) (k : Nat) (f : Segment → Segment) : (s.onSeg k f).fw = s.fw := rfl
@[simp] theorem State.onSeg_spr (s : State) (k : Nat) (f : Segment → Segment) : (s.onSeg k f).spr = s.spr := rfl
@[simp] theorem State.onSeg_pwr (s : State) (k : Nat) (f : Segment → Segment) : (s.onSeg k f).pwr = s.pwr := rfl
@[simp] theorem State.onSeg_recd (s : State) (k : Nat) (f : Segment → Segment) : (s.onSeg k f).recd = s.recd := rfl
@[simp] theorem State.onSeg_fi (s : State) (k : Nat) (f : Segment → Segment) : (s.onSeg k f).fi = s.fi := rfl

@[simp] theorem State.onPhys_pending (s : State) (k : Nat) (f : Core → Core) : (s.onPhys k f).pending = s.pending := rfl
@[simp] theorem State.onPhys_free (s : State) (k : Nat) (f : Core → Core) : (s.onPhys k f).free = s.free := rfl
@[simp] theorem State.onPhys_starts (s : State) (k : Nat) (f : Core → Core) : (s.onPhys k f).starts = s.starts := rfl
@[simp] theorem State.onPhys_instant (s : State) (k : Nat) (f : Core → Core) : (s.onPhys k f).instant = s.instant := rfl
@[simp] theorem State.onPhys_pins (s : State) (k : Nat) (f : Core → Core) : (s.onPhys k f).pins = s.pins := rfl
@[simp] theorem State.onPhys_tb (s : State) (k : Nat) (f : Core → Core) : (s.onPhys k f).tb = s.tb := rfl
@[simp] theorem State.onPhys_dev (s : State) (k : Nat) (f : Core → Core) : (s.onPhys k f).dev = s.dev := rfl
@[simp] theorem State.onPhys_hl (s : State) (k : Nat) (f : Core → Core) : (s.onPhys k f).hl = s.hl := rfl
@[simp] theorem State.onPhys_mem (s : State) (k : Nat) (f : Core → Core) : (s.onPhys k f).mem = s.mem := rfl
@[simp] theorem State.onPhys_ring (s : State) (k : Nat) (f : Core → Core) : (s.onPhys k f).ring = s.ring := rfl
@[simp] theorem State.onPhys_cores (s : State) (k : Nat) (f : Core → Core) : (s.onPhys k f).cores = { s.cores with phys := s.cores.phys.modify k f } := rfl
@[simp] theorem State.onPhys_dram (s : State) (k : Nat) (f : Core → Core) : (s.onPhys k f).dram = s.dram := rfl
@[simp] theorem State.onPhys_kv (s : State) (k : Nat) (f : Core → Core) : (s.onPhys k f).kv = s.kv := rfl
@[simp] theorem State.onPhys_sch (s : State) (k : Nat) (f : Core → Core) : (s.onPhys k f).sch = s.sch := rfl
@[simp] theorem State.onPhys_sol (s : State) (k : Nat) (f : Core → Core) : (s.onPhys k f).sol = s.sol := rfl
@[simp] theorem State.onPhys_jl (s : State) (k : Nat) (f : Core → Core) : (s.onPhys k f).jl = s.jl := rfl
@[simp] theorem State.onPhys_asz (s : State) (k : Nat) (f : Core → Core) : (s.onPhys k f).asz = s.asz := rfl
@[simp] theorem State.onPhys_itk (s : State) (k : Nat) (f : Core → Core) : (s.onPhys k f).itk = s.itk := rfl
@[simp] theorem State.onPhys_can (s : State) (k : Nat) (f : Core → Core) : (s.onPhys k f).can = s.can := rfl
@[simp] theorem State.onPhys_fw (s : State) (k : Nat) (f : Core → Core) : (s.onPhys k f).fw = s.fw := rfl
@[simp] theorem State.onPhys_spr (s : State) (k : Nat) (f : Core → Core) : (s.onPhys k f).spr = s.spr := rfl
@[simp] theorem State.onPhys_pwr (s : State) (k : Nat) (f : Core → Core) : (s.onPhys k f).pwr = s.pwr := rfl
@[simp] theorem State.onPhys_recd (s : State) (k : Nat) (f : Core → Core) : (s.onPhys k f).recd = s.recd := rfl
@[simp] theorem State.onPhys_fi (s : State) (k : Nat) (f : Core → Core) : (s.onPhys k f).fi = s.fi := rfl

@[simp] theorem State.onCtx_pending (s : State) (k : Nat) (f : Ctx → Ctx) : (s.onCtx k f).pending = s.pending := by
  unfold State.onCtx; split <;> rfl
@[simp] theorem State.onCtx_free (s : State) (k : Nat) (f : Ctx → Ctx) : (s.onCtx k f).free = s.free := by
  unfold State.onCtx; split <;> rfl
@[simp] theorem State.onCtx_starts (s : State) (k : Nat) (f : Ctx → Ctx) : (s.onCtx k f).starts = s.starts := by
  unfold State.onCtx; split <;> rfl
@[simp] theorem State.onCtx_instant (s : State) (k : Nat) (f : Ctx → Ctx) : (s.onCtx k f).instant = s.instant := by
  unfold State.onCtx; split <;> rfl
@[simp] theorem State.onCtx_pins (s : State) (k : Nat) (f : Ctx → Ctx) : (s.onCtx k f).pins = s.pins := by
  unfold State.onCtx; split <;> rfl
@[simp] theorem State.onCtx_tb (s : State) (k : Nat) (f : Ctx → Ctx) : (s.onCtx k f).tb = s.tb := by
  unfold State.onCtx; split <;> rfl
@[simp] theorem State.onCtx_dev (s : State) (k : Nat) (f : Ctx → Ctx) : (s.onCtx k f).dev = s.dev := by
  unfold State.onCtx; split <;> rfl
@[simp] theorem State.onCtx_mem (s : State) (k : Nat) (f : Ctx → Ctx) : (s.onCtx k f).mem = s.mem := by
  unfold State.onCtx; split <;> rfl
@[simp] theorem State.onCtx_ring (s : State) (k : Nat) (f : Ctx → Ctx) : (s.onCtx k f).ring = s.ring := by
  unfold State.onCtx; split <;> rfl
@[simp] theorem State.onCtx_cores (s : State) (k : Nat) (f : Ctx → Ctx) : (s.onCtx k f).cores = s.cores := by
  unfold State.onCtx; split <;> rfl
@[simp] theorem State.onCtx_dram (s : State) (k : Nat) (f : Ctx → Ctx) : (s.onCtx k f).dram = s.dram := by
  unfold State.onCtx; split <;> rfl
@[simp] theorem State.onCtx_kv (s : State) (k : Nat) (f : Ctx → Ctx) : (s.onCtx k f).kv = s.kv := by
  unfold State.onCtx; split <;> rfl
@[simp] theorem State.onCtx_sch (s : State) (k : Nat) (f : Ctx → Ctx) : (s.onCtx k f).sch = s.sch := by
  unfold State.onCtx; split <;> rfl
@[simp] theorem State.onCtx_sol (s : State) (k : Nat) (f : Ctx → Ctx) : (s.onCtx k f).sol = s.sol := by
  unfold State.onCtx; split <;> rfl
@[simp] theorem State.onCtx_jl (s : State) (k : Nat) (f : Ctx → Ctx) : (s.onCtx k f).jl = s.jl := by
  unfold State.onCtx; split <;> rfl
@[simp] theorem State.onCtx_asz (s : State) (k : Nat) (f : Ctx → Ctx) : (s.onCtx k f).asz = s.asz := by
  unfold State.onCtx; split <;> rfl
@[simp] theorem State.onCtx_itk (s : State) (k : Nat) (f : Ctx → Ctx) : (s.onCtx k f).itk = s.itk := by
  unfold State.onCtx; split <;> rfl
@[simp] theorem State.onCtx_can (s : State) (k : Nat) (f : Ctx → Ctx) : (s.onCtx k f).can = s.can := by
  unfold State.onCtx; split <;> rfl
@[simp] theorem State.onCtx_fw (s : State) (k : Nat) (f : Ctx → Ctx) : (s.onCtx k f).fw = s.fw := by
  unfold State.onCtx; split <;> rfl
@[simp] theorem State.onCtx_spr (s : State) (k : Nat) (f : Ctx → Ctx) : (s.onCtx k f).spr = s.spr := by
  unfold State.onCtx; split <;> rfl
@[simp] theorem State.onCtx_pwr (s : State) (k : Nat) (f : Ctx → Ctx) : (s.onCtx k f).pwr = s.pwr := by
  unfold State.onCtx; split <;> rfl
@[simp] theorem State.onCtx_recd (s : State) (k : Nat) (f : Ctx → Ctx) : (s.onCtx k f).recd = s.recd := by
  unfold State.onCtx; split <;> rfl
@[simp] theorem State.onCtx_fi (s : State) (k : Nat) (f : Ctx → Ctx) : (s.onCtx k f).fi = s.fi := by
  unfold State.onCtx; split <;> rfl
@[simp] theorem State.write_pending (s : State) (a : Nat) (bs : List Byte) : (s.write a bs).pending = s.pending := rfl
@[simp] theorem State.write_free (s : State) (a : Nat) (bs : List Byte) : (s.write a bs).free = s.free := rfl
@[simp] theorem State.write_starts (s : State) (a : Nat) (bs : List Byte) : (s.write a bs).starts = s.starts := rfl
@[simp] theorem State.write_instant (s : State) (a : Nat) (bs : List Byte) : (s.write a bs).instant = s.instant := rfl
@[simp] theorem State.write_pins (s : State) (a : Nat) (bs : List Byte) : (s.write a bs).pins = s.pins := rfl
@[simp] theorem State.write_tb (s : State) (a : Nat) (bs : List Byte) : (s.write a bs).tb = s.tb := rfl
@[simp] theorem State.write_dev (s : State) (a : Nat) (bs : List Byte) : (s.write a bs).dev = s.dev := rfl
@[simp] theorem State.write_hl (s : State) (a : Nat) (bs : List Byte) : (s.write a bs).hl = s.hl := rfl
@[simp] theorem State.write_ring (s : State) (a : Nat) (bs : List Byte) : (s.write a bs).ring = s.ring := rfl
@[simp] theorem State.write_cores (s : State) (a : Nat) (bs : List Byte) : (s.write a bs).cores = s.cores := rfl
@[simp] theorem State.write_dram (s : State) (a : Nat) (bs : List Byte) : (s.write a bs).dram = s.dram := rfl
@[simp] theorem State.write_kv (s : State) (a : Nat) (bs : List Byte) : (s.write a bs).kv = s.kv := rfl
@[simp] theorem State.write_sch (s : State) (a : Nat) (bs : List Byte) : (s.write a bs).sch = s.sch := rfl
@[simp] theorem State.write_sol (s : State) (a : Nat) (bs : List Byte) : (s.write a bs).sol = s.sol := rfl
@[simp] theorem State.write_jl (s : State) (a : Nat) (bs : List Byte) : (s.write a bs).jl = s.jl := rfl
@[simp] theorem State.write_asz (s : State) (a : Nat) (bs : List Byte) : (s.write a bs).asz = s.asz := rfl
@[simp] theorem State.write_itk (s : State) (a : Nat) (bs : List Byte) : (s.write a bs).itk = s.itk := rfl
@[simp] theorem State.write_can (s : State) (a : Nat) (bs : List Byte) : (s.write a bs).can = s.can := rfl
@[simp] theorem State.write_fw (s : State) (a : Nat) (bs : List Byte) : (s.write a bs).fw = s.fw := rfl
@[simp] theorem State.write_spr (s : State) (a : Nat) (bs : List Byte) : (s.write a bs).spr = s.spr := rfl
@[simp] theorem State.write_pwr (s : State) (a : Nat) (bs : List Byte) : (s.write a bs).pwr = s.pwr := rfl
@[simp] theorem State.write_recd (s : State) (a : Nat) (bs : List Byte) : (s.write a bs).recd = s.recd := rfl
@[simp] theorem State.write_fi (s : State) (a : Nat) (bs : List Byte) : (s.write a bs).fi = s.fi := rfl

@[simp] theorem State.poisonGranules_pending (s : State) (gs : List Nat) (check : Bool) : (s.poisonGranules gs check).pending = s.pending := rfl
@[simp] theorem State.poisonGranules_free (s : State) (gs : List Nat) (check : Bool) : (s.poisonGranules gs check).free = s.free := rfl
@[simp] theorem State.poisonGranules_starts (s : State) (gs : List Nat) (check : Bool) : (s.poisonGranules gs check).starts = s.starts := rfl
@[simp] theorem State.poisonGranules_instant (s : State) (gs : List Nat) (check : Bool) : (s.poisonGranules gs check).instant = s.instant := rfl
@[simp] theorem State.poisonGranules_pins (s : State) (gs : List Nat) (check : Bool) : (s.poisonGranules gs check).pins = s.pins := rfl
@[simp] theorem State.poisonGranules_tb (s : State) (gs : List Nat) (check : Bool) : (s.poisonGranules gs check).tb = s.tb := rfl
@[simp] theorem State.poisonGranules_dev (s : State) (gs : List Nat) (check : Bool) : (s.poisonGranules gs check).dev = s.dev := rfl
@[simp] theorem State.poisonGranules_hl (s : State) (gs : List Nat) (check : Bool) : (s.poisonGranules gs check).hl = s.hl := rfl
@[simp] theorem State.poisonGranules_ring (s : State) (gs : List Nat) (check : Bool) : (s.poisonGranules gs check).ring = s.ring := rfl
@[simp] theorem State.poisonGranules_cores (s : State) (gs : List Nat) (check : Bool) : (s.poisonGranules gs check).cores = s.cores := rfl
@[simp] theorem State.poisonGranules_dram (s : State) (gs : List Nat) (check : Bool) : (s.poisonGranules gs check).dram = s.dram := rfl
@[simp] theorem State.poisonGranules_kv (s : State) (gs : List Nat) (check : Bool) : (s.poisonGranules gs check).kv = s.kv := rfl
@[simp] theorem State.poisonGranules_sch (s : State) (gs : List Nat) (check : Bool) : (s.poisonGranules gs check).sch = s.sch := rfl
@[simp] theorem State.poisonGranules_sol (s : State) (gs : List Nat) (check : Bool) : (s.poisonGranules gs check).sol = s.sol := rfl
@[simp] theorem State.poisonGranules_jl (s : State) (gs : List Nat) (check : Bool) : (s.poisonGranules gs check).jl = s.jl := rfl
@[simp] theorem State.poisonGranules_asz (s : State) (gs : List Nat) (check : Bool) : (s.poisonGranules gs check).asz = s.asz := rfl
@[simp] theorem State.poisonGranules_itk (s : State) (gs : List Nat) (check : Bool) : (s.poisonGranules gs check).itk = s.itk := rfl
@[simp] theorem State.poisonGranules_can (s : State) (gs : List Nat) (check : Bool) : (s.poisonGranules gs check).can = s.can := rfl
@[simp] theorem State.poisonGranules_fw (s : State) (gs : List Nat) (check : Bool) : (s.poisonGranules gs check).fw = s.fw := rfl
@[simp] theorem State.poisonGranules_spr (s : State) (gs : List Nat) (check : Bool) : (s.poisonGranules gs check).spr = s.spr := rfl
@[simp] theorem State.poisonGranules_pwr (s : State) (gs : List Nat) (check : Bool) : (s.poisonGranules gs check).pwr = s.pwr := rfl
@[simp] theorem State.poisonGranules_recd (s : State) (gs : List Nat) (check : Bool) : (s.poisonGranules gs check).recd = s.recd := rfl
@[simp] theorem State.poisonGranules_fi (s : State) (gs : List Nat) (check : Bool) : (s.poisonGranules gs check).fi = s.fi := rfl

@[simp] theorem State.flipParity_pending (s : State) (as : List Nat) : (s.flipParity as).pending = s.pending := rfl
@[simp] theorem State.flipParity_free (s : State) (as : List Nat) : (s.flipParity as).free = s.free := rfl
@[simp] theorem State.flipParity_starts (s : State) (as : List Nat) : (s.flipParity as).starts = s.starts := rfl
@[simp] theorem State.flipParity_instant (s : State) (as : List Nat) : (s.flipParity as).instant = s.instant := rfl
@[simp] theorem State.flipParity_pins (s : State) (as : List Nat) : (s.flipParity as).pins = s.pins := rfl
@[simp] theorem State.flipParity_tb (s : State) (as : List Nat) : (s.flipParity as).tb = s.tb := rfl
@[simp] theorem State.flipParity_dev (s : State) (as : List Nat) : (s.flipParity as).dev = s.dev := rfl
@[simp] theorem State.flipParity_hl (s : State) (as : List Nat) : (s.flipParity as).hl = s.hl := rfl
@[simp] theorem State.flipParity_ring (s : State) (as : List Nat) : (s.flipParity as).ring = s.ring := rfl
@[simp] theorem State.flipParity_cores (s : State) (as : List Nat) : (s.flipParity as).cores = s.cores := rfl
@[simp] theorem State.flipParity_dram (s : State) (as : List Nat) : (s.flipParity as).dram = s.dram := rfl
@[simp] theorem State.flipParity_kv (s : State) (as : List Nat) : (s.flipParity as).kv = s.kv := rfl
@[simp] theorem State.flipParity_sch (s : State) (as : List Nat) : (s.flipParity as).sch = s.sch := rfl
@[simp] theorem State.flipParity_sol (s : State) (as : List Nat) : (s.flipParity as).sol = s.sol := rfl
@[simp] theorem State.flipParity_jl (s : State) (as : List Nat) : (s.flipParity as).jl = s.jl := rfl
@[simp] theorem State.flipParity_asz (s : State) (as : List Nat) : (s.flipParity as).asz = s.asz := rfl
@[simp] theorem State.flipParity_itk (s : State) (as : List Nat) : (s.flipParity as).itk = s.itk := rfl
@[simp] theorem State.flipParity_can (s : State) (as : List Nat) : (s.flipParity as).can = s.can := rfl
@[simp] theorem State.flipParity_fw (s : State) (as : List Nat) : (s.flipParity as).fw = s.fw := rfl
@[simp] theorem State.flipParity_spr (s : State) (as : List Nat) : (s.flipParity as).spr = s.spr := rfl
@[simp] theorem State.flipParity_pwr (s : State) (as : List Nat) : (s.flipParity as).pwr = s.pwr := rfl
@[simp] theorem State.flipParity_recd (s : State) (as : List Nat) : (s.flipParity as).recd = s.recd := rfl
@[simp] theorem State.flipParity_fi (s : State) (as : List Nat) : (s.flipParity as).fi = s.fi := rfl

@[simp] theorem State.clearRange_pending (s : State) (a n : Nat) : (s.clearRange a n).pending = s.pending := rfl
@[simp] theorem State.clearRange_free (s : State) (a n : Nat) : (s.clearRange a n).free = s.free := rfl
@[simp] theorem State.clearRange_starts (s : State) (a n : Nat) : (s.clearRange a n).starts = s.starts := rfl
@[simp] theorem State.clearRange_instant (s : State) (a n : Nat) : (s.clearRange a n).instant = s.instant := rfl
@[simp] theorem State.clearRange_pins (s : State) (a n : Nat) : (s.clearRange a n).pins = s.pins := rfl
@[simp] theorem State.clearRange_tb (s : State) (a n : Nat) : (s.clearRange a n).tb = s.tb := rfl
@[simp] theorem State.clearRange_dev (s : State) (a n : Nat) : (s.clearRange a n).dev = s.dev := rfl
@[simp] theorem State.clearRange_hl (s : State) (a n : Nat) : (s.clearRange a n).hl = s.hl := rfl
@[simp] theorem State.clearRange_ring (s : State) (a n : Nat) : (s.clearRange a n).ring = s.ring := rfl
@[simp] theorem State.clearRange_cores (s : State) (a n : Nat) : (s.clearRange a n).cores = s.cores := rfl
@[simp] theorem State.clearRange_dram (s : State) (a n : Nat) : (s.clearRange a n).dram = s.dram := rfl
@[simp] theorem State.clearRange_kv (s : State) (a n : Nat) : (s.clearRange a n).kv = s.kv := rfl
@[simp] theorem State.clearRange_sch (s : State) (a n : Nat) : (s.clearRange a n).sch = s.sch := rfl
@[simp] theorem State.clearRange_sol (s : State) (a n : Nat) : (s.clearRange a n).sol = s.sol := rfl
@[simp] theorem State.clearRange_jl (s : State) (a n : Nat) : (s.clearRange a n).jl = s.jl := rfl
@[simp] theorem State.clearRange_asz (s : State) (a n : Nat) : (s.clearRange a n).asz = s.asz := rfl
@[simp] theorem State.clearRange_itk (s : State) (a n : Nat) : (s.clearRange a n).itk = s.itk := rfl
@[simp] theorem State.clearRange_can (s : State) (a n : Nat) : (s.clearRange a n).can = s.can := rfl
@[simp] theorem State.clearRange_fw (s : State) (a n : Nat) : (s.clearRange a n).fw = s.fw := rfl
@[simp] theorem State.clearRange_spr (s : State) (a n : Nat) : (s.clearRange a n).spr = s.spr := rfl
@[simp] theorem State.clearRange_pwr (s : State) (a n : Nat) : (s.clearRange a n).pwr = s.pwr := rfl
@[simp] theorem State.clearRange_recd (s : State) (a n : Nat) : (s.clearRange a n).recd = s.recd := rfl
@[simp] theorem State.clearRange_fi (s : State) (a n : Nat) : (s.clearRange a n).fi = s.fi := rfl


end Sys2Proof.Machine
end

