-- ==== Sys2Proof/Laws/Memory.lean ====
section
/-! SUPPORT. Memory: every write keeps the canonical form, a byte written is read back, and a write leaves every
other byte alone. -/

namespace Sys2Proof.Machine

/-- A list that starts above a bound starts above every lower one. -/
theorem cellsSorted_mono {lo lo' : Nat} {m : List Host.Cell} (h : cellsSorted lo m = true) (hl : lo' ≤ lo) :
    cellsSorted lo' m = true := by
  cases m with
  | nil => rfl
  | cons c r =>
    obtain ⟨k, v⟩ := c
    simp only [cellsSorted, Bool.and_eq_true, decide_eq_true_eq] at h ⊢
    exact ⟨⟨by omega, h.1.2⟩, h.2⟩

theorem cellPut_sorted (a : Nat) (v : Byte) (m : List Host.Cell) :
    ∀ lo, cellsSorted lo m = true → lo ≤ a → cellsSorted lo (cellPut m a v) = true := by
  induction m with
  | nil =>
    intro lo _ ha
    simp only [cellPut]
    split <;> simp_all [cellsSorted]
  | cons c r ih =>
    obtain ⟨k, w⟩ := c
    intro lo h ha
    simp only [cellsSorted, Bool.and_eq_true, decide_eq_true_eq] at h
    simp only [cellPut]
    split
    · rename_i hk
      split
      · simp only [cellsSorted, Bool.and_eq_true, decide_eq_true_eq]; exact h
      · rename_i hf
        simp only [cellsSorted, Bool.and_eq_true, decide_eq_true_eq, bne_iff_ne]
        exact ⟨⟨ha, hf⟩, ⟨by omega, by simpa using h.1.2⟩, h.2⟩
    · split
      · rename_i hk
        subst hk
        split
        · exact cellsSorted_mono h.2 (by omega)
        · rename_i hf
          simp only [cellsSorted, Bool.and_eq_true, decide_eq_true_eq, bne_iff_ne]
          exact ⟨⟨ha, hf⟩, h.2⟩
      · simp only [cellsSorted, Bool.and_eq_true, decide_eq_true_eq]
        exact ⟨h.1, ih _ h.2 (by omega)⟩

theorem cellsPut_sorted (bs : List Byte) : ∀ (m : List Host.Cell) (a : Nat), cellsSorted 0 m = true →
    cellsSorted 0 (cellsPut m a bs) = true := by
  induction bs with
  | nil => intro m a h; exact h
  | cons b bs ih => intro m a h; exact ih _ _ (cellPut_sorted a b m 0 h (Nat.zero_le a))

theorem cellsFilter_sorted (p : Host.Cell → Bool) (m : List Host.Cell) :
    ∀ lo, cellsSorted lo m = true → cellsSorted lo (m.filter p) = true := by
  induction m with
  | nil => intro lo _; rfl
  | cons c r ih =>
    obtain ⟨k, v⟩ := c
    intro lo h
    simp only [cellsSorted, Bool.and_eq_true, decide_eq_true_eq] at h
    simp only [List.filter_cons]
    split
    · simp only [cellsSorted, Bool.and_eq_true, decide_eq_true_eq]
      exact ⟨h.1, ih _ h.2⟩
    · exact cellsSorted_mono (ih _ h.2) (by omega)

/-- A write keeps the canonical form. -/
theorem write_wf (s : State) (a : Nat) (bs : List Byte) (h : s.mem.wf = true) : (s.write a bs).mem.wf = true :=
  cellsPut_sorted bs _ a h

theorem poisonGranules_wf (s : State) (gs : List Nat) (k : Bool) (h : s.mem.wf = true) :
    (s.poisonGranules gs k).mem.wf = true := h

theorem flipParity_wf (s : State) (as : List Nat) (h : s.mem.wf = true) : (s.flipParity as).mem.wf = true := h

theorem clearRange_wf (s : State) (a n : Nat) (h : s.mem.wf = true) : (s.clearRange a n).mem.wf = true :=
  cellsFilter_sorted _ _ 0 h

/-- An address below every listed one is not listed. -/
theorem cellGet_below {m : List Host.Cell} : ∀ {lo a : Nat}, cellsSorted lo m = true → a < lo → cellGet m a = none := by
  induction m with
  | nil => intros; rfl
  | cons c r ih =>
    obtain ⟨k, v⟩ := c
    intro lo a h ha
    simp only [cellsSorted, Bool.and_eq_true, decide_eq_true_eq] at h
    have hk : k ≠ a := by omega
    simp only [cellGet, hk, if_false]
    exact ih h.2 (by omega)

theorem cellGet_cellPut (a : Nat) (v : Byte) (m : List Host.Cell) : ∀ lo, cellsSorted lo m = true → ∀ b,
    cellGet (cellPut m a v) b = if b = a then (if fixedByte a = some v then none else some v) else cellGet m b := by
  induction m with
  | nil =>
    intro lo _ b
    simp only [cellPut]
    by_cases hf : fixedByte a = some v <;> by_cases hb : b = a
    · simp [hf, hb, cellGet]
    · simp [hf, hb, cellGet]
    · simp [hf, hb, cellGet]
    · simp [hf, hb, cellGet, Ne.symm hb]
  | cons c r ih =>
    obtain ⟨k, w⟩ := c
    intro lo h b
    simp only [cellsSorted, Bool.and_eq_true, decide_eq_true_eq] at h
    simp only [cellPut]
    by_cases hk : a < k
    · rw [if_pos hk]
      have hn : cellGet ((k, w) :: r) a = none := by
        have hka : k ≠ a := by omega
        simp only [cellGet, hka, if_false]
        exact cellGet_below h.2 (by omega)
      by_cases hf : fixedByte a = some v
      · rw [if_pos hf]
        by_cases hb : b = a
        · subst hb; simpa [hf] using hn
        · simp [hb]
      · rw [if_neg hf]
        by_cases hb : b = a
        · subst hb; simp [hf, cellGet]
        · simp [hb, cellGet, Ne.symm hb]
    · rw [if_neg hk]
      by_cases hka : a = k
      · subst hka
        rw [if_pos rfl]
        by_cases hf : fixedByte a = some v
        · rw [if_pos hf]
          by_cases hb : b = a
          · subst hb; simpa [hf] using cellGet_below h.2 (Nat.lt_succ_self _)
          · simp [hb, cellGet, Ne.symm hb]
        · rw [if_neg hf]
          by_cases hb : b = a
          · subst hb; simp [hf, cellGet]
          · simp [hb, cellGet, Ne.symm hb]
      · rw [if_neg hka]
        by_cases hkb : k = b
        · subst hkb
          simp [cellGet, Ne.symm hka]
        · simp only [cellGet, hkb, if_false]
          exact ih _ h.2 b

/-- What a listing reads as, where an unlisted address of its kind reads as `u`. -/
theorem cellGet_put_getD (m : List Host.Cell) (a : Nat) (v : Byte) (k : Nat) (h : cellsSorted 0 m = true) :
    ∀ b, (cellGet (cellPut m a v) b).getD (unlisted k b) =
      if b = a then v else (cellGet m b).getD (unlisted k b) := by
  intro b
  rw [cellGet_cellPut a v m 0 h b]
  by_cases hb : b = a
  · subst hb
    by_cases hf : fixedByte b = some v
    · simp [hf, unlisted]
    · simp [hf]
  · simp [hb]

/-- What a run of bytes leaves: the run at its place, every other byte as it was. -/
theorem cellsPut_getD (k : Nat) (bs : List Byte) : ∀ (m : List Host.Cell) (a : Nat), cellsSorted 0 m = true →
    ∀ b, (cellGet (cellsPut m a bs) b).getD (unlisted k b) =
      if a ≤ b ∧ b < a + bs.length then bs.getD (b - a) 0 else (cellGet m b).getD (unlisted k b) := by
  induction bs with
  | nil =>
    intro m a _ b
    have hn : ¬(a ≤ b ∧ b < a + 0) := by omega
    simp only [cellsPut, List.length_nil, if_neg hn]
  | cons v bs ih =>
    intro m a h b
    rw [cellsPut, ih _ _ (cellPut_sorted a v m 0 h (Nat.zero_le a)), cellGet_put_getD m a v k h b]
    simp only [List.length_cons]
    by_cases hb : b = a
    · subst hb
      have h1 : ¬(b + 1 ≤ b ∧ b < b + 1 + bs.length) := by omega
      have h2 : b ≤ b ∧ b < b + (bs.length + 1) := by omega
      simp [h2]
    · by_cases hr : a + 1 ≤ b ∧ b < a + 1 + bs.length
      · have h2 : a ≤ b ∧ b < a + (bs.length + 1) := by omega
        rw [if_pos hr, if_pos h2]
        obtain ⟨d, hd⟩ : ∃ d, b - a = d + 1 := ⟨b - a - 1, by omega⟩
        have hd' : b - (a + 1) = d := by omega
        simp [hd, hd']
      · have h2 : ¬(a ≤ b ∧ b < a + (bs.length + 1)) := by omega
        rw [if_neg hr, if_neg h2, if_neg hb]

/-- A byte inside a write is read back. -/
theorem byteAt_write_in (s : State) (a : Nat) (bs : List Byte) (b : Nat) (h : s.mem.wf = true) (h1 : a ≤ b)
    (h2 : b < a + bs.length) : (s.write a bs).byteAt b = bs.getD (b - a) 0 := by
  have e := cellsPut_getD s.starts bs s.mem.cells a h b
  rw [if_pos ⟨h1, h2⟩] at e
  exact e

/-- A byte outside a write is as it was. -/
theorem byteAt_write_out (s : State) (a : Nat) (bs : List Byte) (b : Nat) (h : s.mem.wf = true)
    (h1 : b < a ∨ a + bs.length ≤ b) : (s.write a bs).byteAt b = s.byteAt b := by
  have e := cellsPut_getD s.starts bs s.mem.cells a h b
  rw [if_neg (by omega)] at e
  exact e

end Sys2Proof.Machine
end

