-- ==== Sys2Proof/Laws/Kept.lean ====
section
/-! SUPPORT. What a step keeps, said once: the queue, LINK_COUNT, the memory's canonical form, the sizes of the tables,
the mode, the safe state and the loss of a pair. `Kept x r s` says that the state `s`, reached from `r`, keeps them all
but those that `x` lets go; the lemmas of this folder carry it through every operation of the model. -/

namespace Sys2Proof.Machine

open Sys2Proof.Safety

/-- What a command may change beside what every other keeps. -/
structure Exempt where
  mode : Bool := false
  link : Bool := false
  safe : Bool := false
  pairs : Bool := false
deriving DecidableEq, Repr

/-- The state `s` keeps of `r` everything that the exemption does not let go. -/
structure Kept (x : Exempt) (r s : State) : Prop where
  pending : s.pending = r.pending
  wf : r.mem.wf = true → s.mem.wf = true
  shaped : Shaped r → Shaped s
  mode : x.mode = true ∨ s.dev.mode = r.dev.mode ∨ (r.dev.mode = .run ∧ s.dev.mode = .degraded)
  link : x.link = true ∨ s.tb.link = r.tb.link
  safe : x.safe = true ∨ (r.asz.safe = true → s.asz.safe = true)
  pairA : x.pairs = true ∨ (r.asz.pairAOk = false → s.asz.pairAOk = false)
  pairB : x.pairs = true ∨ (r.asz.pairBOk = false → s.asz.pairBOk = false)

variable {x : Exempt} {r s : State}

theorem Kept.refl (x : Exempt) (s : State) : Kept x s s :=
  ⟨rfl, id, id, .inr (.inl rfl), .inr rfl, .inr id, .inr id, .inr id⟩

theorem Kept.ite {c : Prop} [Decidable c] {a b : State} (h1 : Kept x r a) (h2 : Kept x r b) :
    Kept x r (if c then a else b) := by
  split <;> assumption

theorem Kept.foldl {α : Type} (f : State → α → State) (hf : ∀ u i, Kept x r u → Kept x r (f u i)) (l : List α) :
    ∀ u, Kept x r u → Kept x r (l.foldl f u) := by
  induction l with
  | nil => intro u h; exact h
  | cons i l ih => intro u h; exact ih _ (hf u i h)

/-! The blocks that no kept item lies in. -/

theorem Kept.onPins (h : Kept x r s) (f : Pins → Pins) : Kept x r (s.onPins f) := ⟨h.1, h.2, h.3, h.4, h.5, h.6, h.7, h.8⟩
theorem Kept.onKv (h : Kept x r s) (f : Kv → Kv) : Kept x r (s.onKv f) := ⟨h.1, h.2, h.3, h.4, h.5, h.6, h.7, h.8⟩
theorem Kept.onSch (h : Kept x r s) (f : Sch → Sch) : Kept x r (s.onSch f) := ⟨h.1, h.2, h.3, h.4, h.5, h.6, h.7, h.8⟩
theorem Kept.onSol (h : Kept x r s) (f : Sol → Sol) : Kept x r (s.onSol f) := ⟨h.1, h.2, h.3, h.4, h.5, h.6, h.7, h.8⟩
theorem Kept.onFw (h : Kept x r s) (f : Fw → Fw) : Kept x r (s.onFw f) := ⟨h.1, h.2, h.3, h.4, h.5, h.6, h.7, h.8⟩
theorem Kept.onSpr (h : Kept x r s) (f : Spr → Spr) : Kept x r (s.onSpr f) := ⟨h.1, h.2, h.3, h.4, h.5, h.6, h.7, h.8⟩
theorem Kept.onRec (h : Kept x r s) (f : Rec → Rec) : Kept x r (s.onRec f) := ⟨h.1, h.2, h.3, h.4, h.5, h.6, h.7, h.8⟩
theorem Kept.bump (h : Kept x r s) : Kept x r s.bump := ⟨h.1, h.2, h.3, h.4, h.5, h.6, h.7, h.8⟩

/-! The tables whose entries change in place. -/

theorem Kept.onDram (h : Kept x r s) (k : Nat) (f : Dram → Dram) : Kept x r (s.onDram k f) :=
  ⟨h.1, h.2, fun e => by simpa [Shaped] using h.3 e, h.4, h.5, h.6, h.7, h.8⟩
theorem Kept.onCan (h : Kept x r s) (k : Nat) (f : Can → Can) : Kept x r (s.onCan k f) :=
  ⟨h.1, h.2, fun e => by simpa [Shaped] using h.3 e, h.4, h.5, h.6, h.7, h.8⟩
theorem Kept.onFi (h : Kept x r s) (k : Nat) (f : Inject → Inject) : Kept x r (s.onFi k f) :=
  ⟨h.1, h.2, fun e => by simpa [Shaped] using h.3 e, h.4, h.5, h.6, h.7, h.8⟩

/-! The blocks with a kept item: the change must keep it. -/

theorem Kept.onHl (h : Kept x r s) (f : HostLink → HostLink) (h1 : (f s.hl).ctxs.length = s.hl.ctxs.length)
    (h2 : (f s.hl).windows.length = s.hl.windows.length) : Kept x r (s.onHl f) :=
  ⟨h.1, h.2, fun e => by simpa [Shaped, h1, h2] using h.3 e, h.4, h.5, h.6, h.7, h.8⟩
theorem Kept.onRing (h : Kept x r s) (f : Ring → Ring) (h1 : (f s.ring).segs.length = s.ring.segs.length)
    (h2 : (f s.ring).plinks.length = s.ring.plinks.length) : Kept x r (s.onRing f) :=
  ⟨h.1, h.2, fun e => by simpa [Shaped, h1, h2] using h.3 e, h.4, h.5, h.6, h.7, h.8⟩
theorem Kept.onCores (h : Kept x r s) (f : Cores → Cores) (h1 : (f s.cores).phys.length = s.cores.phys.length)
    (h2 : (f s.cores).map.length = s.cores.map.length) : Kept x r (s.onCores f) :=
  ⟨h.1, h.2, fun e => by simpa [Shaped, h1, h2] using h.3 e, h.4, h.5, h.6, h.7, h.8⟩
theorem Kept.onJl (h : Kept x r s) (f : Jl → Jl) (h1 : (f s.jl).lines.length = s.jl.lines.length)
    (h2 : (f s.jl).nodes.length = s.jl.nodes.length) (h3 : (f s.jl).table.length = s.jl.table.length) :
    Kept x r (s.onJl f) :=
  ⟨h.1, h.2, fun e => by simpa [Shaped, h1, h2, h3] using h.3 e, h.4, h.5, h.6, h.7, h.8⟩
theorem Kept.onItk (h : Kept x r s) (f : Itk → Itk) (h1 : (f s.itk).ports.length = s.itk.ports.length)
    (h2 : (f s.itk).streams.length = s.itk.streams.length) (h3 : (f s.itk).profiles.length = s.itk.profiles.length)
    (h4 : (f s.itk).pipes.length = s.itk.pipes.length) : Kept x r (s.onItk f) :=
  ⟨h.1, h.2, fun e => by simpa [Shaped, h1, h2, h3, h4] using h.3 e, h.4, h.5, h.6, h.7, h.8⟩
theorem Kept.onPwr (h : Kept x r s) (f : Pwr → Pwr) (h1 : (f s.pwr).op.length = s.pwr.op.length)
    (h2 : (f s.pwr).settling.length = s.pwr.settling.length) (h3 : (f s.pwr).parked.length = s.pwr.parked.length)
    (h4 : (f s.pwr).off.length = s.pwr.off.length) (h5 : (f s.pwr).therm.length = s.pwr.therm.length) :
    Kept x r (s.onPwr f) :=
  ⟨h.1, h.2, fun e => by simpa [Shaped, h1, h2, h3, h4, h5] using h.3 e, h.4, h.5, h.6, h.7, h.8⟩
theorem Kept.onTb (h : Kept x r s) (f : TimeBase → TimeBase) (h1 : x.link = true ∨ (f s.tb).link = s.tb.link) :
    Kept x r (s.onTb f) :=
  ⟨h.1, h.2, h.3, h.4, h1.elim .inl fun e => h.5.imp id fun k => e.trans k, h.6, h.7, h.8⟩
theorem Kept.onDev (h : Kept x r s) (f : Dev → Dev) (h1 : x.mode = true ∨ (f s.dev).mode = s.dev.mode) :
    Kept x r (s.onDev f) :=
  ⟨h.1, h.2, h.3, h1.elim .inl fun e => h.4.imp id fun k => by
    show (f s.dev).mode = _ ∨ _ ∧ (f s.dev).mode = _
    rw [e]; exact k, h.5, h.6, h.7, h.8⟩
theorem Kept.onAsz (h : Kept x r s) (f : Asz → Asz) (h1 : (f s.asz).watchdogs.length = s.asz.watchdogs.length)
    (h2 : x.safe = true ∨ (s.asz.safe = true → (f s.asz).safe = true))
    (h3 : x.pairs = true ∨ (s.asz.pairAOk = false → (f s.asz).pairAOk = false))
    (h4 : x.pairs = true ∨ (s.asz.pairBOk = false → (f s.asz).pairBOk = false)) : Kept x r (s.onAsz f) :=
  ⟨h.1, h.2, fun e => by simpa [Shaped, h1] using h.3 e, h.4, h.5,
    h2.elim .inl fun e => h.6.imp id fun k => e ∘ k, h3.elim .inl fun e => h.7.imp id fun k => e ∘ k,
    h4.elim .inl fun e => h.8.imp id fun k => e ∘ k⟩
theorem Kept.onMem (h : Kept x r s) (f : Memory → Memory) (h1 : s.mem.wf = true → (f s.mem).wf = true) :
    Kept x r (s.onMem f) :=
  ⟨h.1, h1 ∘ h.2, h.3, h.4, h.5, h.6, h.7, h.8⟩

/-! A table written anew, at its size. -/

theorem Kept.newMap (h : Kept x r s) (f : Cores → Cores) (h1 : (f s.cores).phys.length = s.cores.phys.length)
    (h2 : (f s.cores).map.length = 64) : Kept x r (s.onCores f) :=
  ⟨h.1, h.2, fun e => by have y := h.3 e; exact ⟨y.1, ⟨h1.trans y.2.1.1, h2⟩, y.2.2⟩, h.4, h.5, h.6, h.7, h.8⟩
theorem Kept.newTable (h : Kept x r s) (f : Jl → Jl) (h1 : (f s.jl).lines.length = s.jl.lines.length)
    (h2 : (f s.jl).nodes.length = s.jl.nodes.length) (h3 : (f s.jl).table.length = 64) : Kept x r (s.onJl f) :=
  ⟨h.1, h.2, fun e => by
    obtain ⟨a, b, c, d, i, j, ⟨k, l, _⟩, m⟩ := h.3 e
    exact ⟨a, b, c, d, i, j, ⟨h1.trans k, h2.trans l, h3⟩, m⟩, h.4, h.5, h.6, h.7, h.8⟩
theorem Kept.newStreams (h : Kept x r s) (f : Itk → Itk) (h1 : (f s.itk).ports.length = s.itk.ports.length)
    (h2 : (f s.itk).streams.length = 16) (h3 : (f s.itk).profiles.length = 16)
    (h4 : (f s.itk).pipes.length = s.itk.pipes.length) : Kept x r (s.onItk f) :=
  ⟨h.1, h.2, fun e => by
    obtain ⟨a, b, c, d, i, j, k, ⟨l, _, _, m⟩, n⟩ := h.3 e
    exact ⟨a, b, c, d, i, j, k, ⟨h1.trans l, h2, h3, h4.trans m⟩, n⟩, h.4, h.5, h.6, h.7, h.8⟩
theorem Kept.newOff (h : Kept x r s) (f : Pwr → Pwr) (h1 : (f s.pwr).op.length = s.pwr.op.length)
    (h2 : (f s.pwr).settling.length = s.pwr.settling.length) (h3 : (f s.pwr).parked.length = s.pwr.parked.length)
    (h4 : (f s.pwr).off.length = 4) (h5 : (f s.pwr).therm.length = s.pwr.therm.length) : Kept x r (s.onPwr f) :=
  ⟨h.1, h.2, fun e => by
    obtain ⟨a, b, c, d, i, j, k, l, m, n, o, p, _, q⟩ := h.3 e
    exact ⟨a, b, c, d, i, j, k, l, m, h1.trans n, h2.trans o, h3.trans p, h4, h5.trans q⟩, h.4, h.5, h.6, h.7, h.8⟩
theorem Kept.newCan (h : Kept x r s) (l : List Can) (h1 : l.length = 4) : Kept x r { s with can := l } :=
  ⟨h.1, h.2, fun e => by
    obtain ⟨a, b, c, _, d⟩ := h.3 e
    exact ⟨a, b, c, h1, d⟩, h.4, h.5, h.6, h.7, h.8⟩

/-! One entry of a table. -/

theorem Kept.onCtx (h : Kept x r s) (k : Nat) (f : Ctx → Ctx) : Kept x r (s.onCtx k f) := by
  unfold State.onCtx
  split
  · exact h.onHl _ rfl rfl
  · exact h.onHl _ (List.length_modify ..) rfl
theorem Kept.onLine (h : Kept x r s) (k : Nat) (f : Line → Line) : Kept x r (s.onLine k f) :=
  h.onJl _ (List.length_modify ..) rfl rfl
theorem Kept.onNode (h : Kept x r s) (k : Nat) (f : Node → Node) : Kept x r (s.onNode k f) :=
  h.onJl _ rfl (List.length_modify ..) rfl
theorem Kept.onStream (h : Kept x r s) (k : Nat) (f : Stream → Stream) : Kept x r (s.onStream k f) :=
  h.onItk _ rfl (List.length_modify ..) rfl rfl
theorem Kept.onPort (h : Kept x r s) (k : Nat) (f : Port → Port) : Kept x r (s.onPort k f) :=
  h.onItk _ (List.length_modify ..) rfl rfl rfl
theorem Kept.onPipe (h : Kept x r s) (k : Nat) (f : Pipe → Pipe) : Kept x r (s.onPipe k f) :=
  h.onItk _ rfl rfl rfl (List.length_modify ..)
theorem Kept.onSeg (h : Kept x r s) (k : Nat) (f : Segment → Segment) : Kept x r (s.onSeg k f) :=
  h.onRing _ (List.length_modify ..) rfl
theorem Kept.onSegDir (h : Kept x r s) (k : Nat) (d : RingDir) (f : SegDir → SegDir) : Kept x r (s.onSegDir k d f) :=
  h.onSeg _ _
theorem Kept.onPhys (h : Kept x r s) (k : Nat) (f : Core → Core) : Kept x r (s.onPhys k f) :=
  h.onCores _ (List.length_modify ..) rfl
theorem Kept.onCore (h : Kept x r s) (k : Nat) (f : Core → Core) : Kept x r (s.onCore k f) := by
  unfold State.onCore
  split
  · exact h.onPhys _ _
  · exact h

/-! Memory. -/

theorem Kept.write (h : Kept x r s) (a : Nat) (bs : List Byte) : Kept x r (s.write a bs) :=
  h.onMem _ (write_wf s a bs)
theorem Kept.writeNat (h : Kept x r s) (a n v : Nat) : Kept x r (s.writeNat a n v) := h.write _ _
theorem Kept.poisonGranules (h : Kept x r s) (gs : List Nat) (k : Bool) : Kept x r (s.poisonGranules gs k) :=
  h.onMem _ id
theorem Kept.flipParity (h : Kept x r s) (as : List Nat) : Kept x r (s.flipParity as) := h.onMem _ id
theorem Kept.clearRange (h : Kept x r s) (a n : Nat) : Kept x r (s.clearRange a n) := h.onMem _ (clearRange_wf s a n)
theorem Kept.clearSpad (h : Kept x r s) (c : Nat) : Kept x r (s.clearSpad c) := h.clearRange _ _
theorem Kept.hostRuns (h : Kept x r s) (runs : List HostRun) : Kept x r (s.hostRuns runs) :=
  Kept.foldl _ (fun _ _ hu => .ite (hu.write _ _) hu) _ _ h

end Sys2Proof.Machine
end

