-- ==== Sys2Proof/Laws/KeptEvents.lean ====
section
/-! SUPPORT. What a step keeps (`Kept`), carried through what the whole machine shares: records, events, completions, registers, memory commands. -/

namespace Sys2Proof.Machine

open Sys2Proof.Safety

variable {x : Exempt} {r s : State}

theorem Kept.record (h : Kept x r s) (kind : Nat) (flags : Nat) (body : List Byte) : Kept x r (s.record kind flags body) := by
  unfold State.record
  repeat' with_reducible first
    | assumption | apply Kept.ite | apply Kept.onRec | apply Kept.bump
    | (refine Kept.foldl _ (fun _ _ _ => ?_) _ _ ?_) | rfl | exact .inr rfl | exact .inr id
    | (exact .inr (fun _ => rfl)) | exact .inl ‹_› | (simp; done) | split | dsimp only

theorem Kept.capture (h : Kept x r s) (rec : List Byte) : Kept x r (s.capture rec) := by
  unfold State.capture
  repeat' with_reducible first
    | assumption | apply Kept.ite | apply Kept.onRec | apply Kept.write
    | (refine Kept.foldl _ (fun _ _ _ => ?_) _ _ ?_) | rfl | exact .inr rfl | exact .inr id
    | (exact .inr (fun _ => rfl)) | exact .inl ‹_› | (simp; done) | split | dsimp only

theorem Kept.sched (h : Kept x r s) (code : Nat) (part : Option Nat) (arg0 : Option Nat) : Kept x r (s.sched code part arg0) := by
  unfold State.sched
  repeat' with_reducible first
    | assumption | apply Kept.ite | apply Kept.record | (refine Kept.foldl _ (fun _ _ _ => ?_) _ _ ?_) | rfl
    | exact .inr rfl | exact .inr id | (exact .inr (fun _ => rfl)) | exact .inl ‹_› | (simp; done) | split
    | dsimp only

theorem Kept.recTrigger (h : Kept x r s) (safety : Bool) : Kept x r (s.recTrigger safety) := by
  unfold State.recTrigger
  repeat' with_reducible first
    | assumption | apply Kept.ite | apply Kept.onRec | apply Kept.record
    | (refine Kept.foldl _ (fun _ _ _ => ?_) _ _ ?_) | rfl | exact .inr rfl | exact .inr id
    | (exact .inr (fun _ => rfl)) | exact .inl ‹_› | (simp; done) | split | dsimp only

theorem Kept.sendVector (h : Kept x r s) (v : Nat) : Kept x r (s.sendVector v) := by
  unfold State.sendVector
  repeat' with_reducible first
    | assumption | apply Kept.ite | apply Kept.onHl | (refine Kept.foldl _ (fun _ _ _ => ?_) _ _ ?_) | rfl
    | exact .inr rfl | exact .inr id | (exact .inr (fun _ => rfl)) | exact .inl ‹_› | (simp; done) | split
    | dsimp only

theorem Kept.raiseEvent (h : Kept x r s) (v : Nat) : Kept x r (s.raiseEvent v) := by
  unfold State.raiseEvent
  repeat' with_reducible first
    | assumption | apply Kept.ite | apply Kept.recTrigger | apply Kept.onHl | apply Kept.sendVector
    | (refine Kept.foldl _ (fun _ _ _ => ?_) _ _ ?_) | rfl | exact .inr rfl | exact .inr id
    | (exact .inr (fun _ => rfl)) | exact .inl ‹_› | (simp; done) | split | dsimp only

theorem Kept.deviceFault (h : Kept x r s) (b : Nat) : Kept x r (s.deviceFault b) := by
  unfold State.deviceFault
  repeat' with_reducible first
    | assumption | apply Kept.ite | apply Kept.onDev | apply Kept.raiseEvent
    | (refine Kept.foldl _ (fun _ _ _ => ?_) _ _ ?_) | rfl | exact .inr rfl | exact .inr id
    | (exact .inr (fun _ => rfl)) | exact .inl ‹_› | (simp; done) | split | dsimp only

theorem Kept.enterMode (h : Kept x r s) (m : Mode) (hx : x.mode = true) : Kept x r (s.enterMode m) := by
  unfold State.enterMode
  repeat' with_reducible first
    | assumption | apply Kept.ite | apply Kept.onDev | apply Kept.sched
    | (refine Kept.foldl _ (fun _ _ _ => ?_) _ _ ?_) | rfl | exact .inr rfl | exact .inr id
    | (exact .inr (fun _ => rfl)) | exact .inl ‹_› | (simp; done) | split | dsimp only

theorem Kept.setDegraded (h : Kept x r s) : Kept x r s.setDegraded := by
  unfold State.setDegraded
  dsimp only
  split
  · rename_i hr
    have k : Kept x s ((s.onSpr fun p => { p with degraded := true }).onDev fun d => { d with mode := .degraded }) :=
      ⟨rfl, id, id, .inr (.inr ⟨hr, rfl⟩), .inr rfl, .inr id, .inr id, .inr id⟩
    have k' : Kept x r ((s.onSpr fun p => { p with degraded := true }).onDev fun d => { d with mode := .degraded }) :=
      ⟨k.1.trans h.1, k.2 ∘ h.2, k.3 ∘ h.3, h.4.imp id fun e => .inr (e.elim (fun e => ⟨e ▸ hr, rfl⟩) fun e => ⟨e.1, rfl⟩),
        h.5, h.6, h.7, h.8⟩
    exact k'.sched _ _ _
  · exact h.onSpr _

theorem Kept.decideSafe (h : Kept x r s) (c : Nat) : Kept x r (s.decideSafe c) := by
  unfold State.decideSafe
  repeat' with_reducible first
    | assumption | apply Kept.ite | apply Kept.onAsz | apply Kept.capture | apply Kept.bump | apply Kept.sched
    | apply Kept.recTrigger | (refine Kept.foldl _ (fun _ _ _ => ?_) _ _ ?_) | rfl | exact .inr rfl | exact .inr id
    | (exact .inr (fun _ => rfl)) | exact .inl ‹_› | (simp; done) | split | dsimp only

theorem Kept.makeLasting (h : Kept x r s) (q : WearEntry) : Kept x r (s.makeLasting q) := by
  unfold State.makeLasting
  repeat' with_reducible first
    | assumption | apply Kept.ite | apply Kept.onSpr | (refine Kept.foldl _ (fun _ _ _ => ?_) _ _ ?_) | rfl
    | exact .inr rfl | exact .inr id | (exact .inr (fun _ => rfl)) | exact .inl ‹_› | (simp; done) | split
    | dsimp only

theorem Kept.errEvent (h : Kept x r s) (q : WearEntry) : Kept x r (s.errEvent q) := by
  unfold State.errEvent
  repeat' with_reducible first
    | assumption | apply Kept.ite | apply Kept.onSpr | apply Kept.makeLasting
    | (refine Kept.foldl _ (fun _ _ _ => ?_) _ _ ?_) | rfl | exact .inr rfl | exact .inr id
    | (exact .inr (fun _ => rfl)) | exact .inl ‹_› | (simp; done) | split | dsimp only

theorem Kept.errEvents (h : Kept x r s) (rs : List WearEntry) : Kept x r (s.errEvents rs) := by
  unfold State.errEvents
  repeat' with_reducible first
    | assumption | apply Kept.ite | apply Kept.errEvent | (refine Kept.foldl _ (fun _ _ _ => ?_) _ _ ?_) | rfl
    | exact .inr rfl | exact .inr id | (exact .inr (fun _ => rfl)) | exact .inl ‹_› | (simp; done) | split
    | dsimp only

theorem Kept.retire (h : Kept x r s) (q : WearEntry) : Kept x r (s.retire q) := by
  unfold State.retire
  repeat' with_reducible first
    | assumption | apply Kept.ite | apply Kept.onSpr | apply Kept.raiseEvent
    | (refine Kept.foldl _ (fun _ _ _ => ?_) _ _ ?_) | rfl | exact .inr rfl | exact .inr id
    | (exact .inr (fun _ => rfl)) | exact .inl ‹_› | (simp; done) | split | dsimp only

theorem injectAll_length (target index dir link : Nat) (draw : Nat → Nat) (l : List Inject) : ∀ i b,
    (injectAll target index dir link draw i b l).1.length = l.length := by
  induction l with
  | nil => intros; rfl
  | cons j l ih => intro i b; simp [injectAll, ih]

theorem Kept.inject (h : Kept x r s) (target index dir : Nat) : Kept x r (s.inject target index dir).2 :=
  ⟨h.1, h.2, fun e => by simpa [Shaped, State.inject, State.bump, injectAll_length] using h.3 e, h.4, h.5, h.6, h.7, h.8⟩

theorem slot_sizes (h : HostLink) :
    h.slot.ctxs.length = h.ctxs.length ∧ h.slot.windows.length = h.windows.length := by
  unfold HostLink.slot
  split <;> exact ⟨rfl, rfl⟩

theorem grant_sizes (n : Nat) : ∀ h : HostLink,
    (HostLink.grant n h).ctxs.length = h.ctxs.length ∧ (HostLink.grant n h).windows.length = h.windows.length := by
  induction n with
  | zero => intro h; exact ⟨rfl, rfl⟩
  | succ n ih => intro h; exact ⟨(ih _).1.trans (slot_sizes h).1, (ih _).2.trans (slot_sizes h).2⟩

theorem Kept.hostSlots (h : Kept x r s) : Kept x r s.hostSlots := by
  unfold State.hostSlots
  split
  · exact h.onHl _ (grant_sizes _ _).1 (grant_sizes _ _).2
  · exact h

theorem Kept.hostRequest (h : Kept x r s) (engine : Nat) (write : Bool) (a : Nat) (n : Nat) : Kept x r (s.hostRequest engine write a n) := by
  unfold State.hostRequest
  repeat' with_reducible first
    | assumption | apply Kept.ite | apply Kept.onHl | apply Kept.hostSlots
    | (refine Kept.foldl _ (fun _ _ _ => ?_) _ _ ?_) | rfl | exact .inr rfl | exact .inr id
    | (exact .inr (fun _ => rfl)) | exact .inl ‹_› | (simp; done) | split | dsimp only

theorem Kept.releaseHeld (h : Kept x r s) (i : Nat) : Kept x r (s.releaseHeld i) := by
  unfold State.releaseHeld
  repeat' with_reducible first
    | assumption | apply Kept.ite | apply Kept.write | apply Kept.hostRequest | apply Kept.onFi
    | (refine Kept.foldl _ (fun _ _ _ => ?_) _ _ ?_) | rfl | exact .inr rfl | exact .inr id
    | (exact .inr (fun _ => rfl)) | exact .inl ‹_› | (simp; done) | split | dsimp only

theorem Kept.writeEntry (h : Kept x r s) (ring : Nat) (addr : Nat) (bs : List Byte) : Kept x r (s.writeEntry ring addr bs) := by
  unfold State.writeEntry
  repeat' with_reducible first
    | assumption | apply Kept.ite | apply Kept.inject | apply Kept.write | apply Kept.hostRequest | apply Kept.onFi
    | apply Kept.releaseHeld | (refine Kept.foldl _ (fun _ _ _ => ?_) _ _ ?_) | rfl | exact .inr rfl | exact .inr id
    | (exact .inr (fun _ => rfl)) | exact .inl ‹_› | (simp; done) | split | dsimp only

theorem Kept.writeCompletion (h : Kept x r s) (ring : Nat) (c : Completion) : Kept x r (s.writeCompletion ring c) := by
  unfold State.writeCompletion
  repeat' with_reducible first
    | assumption | apply Kept.ite | apply Kept.writeEntry | apply Kept.bump | apply Kept.onCtx
    | apply Kept.sendVector | (refine Kept.foldl _ (fun _ _ _ => ?_) _ _ ?_) | rfl | exact .inr rfl | exact .inr id
    | (exact .inr (fun _ => rfl)) | exact .inl ‹_› | (simp; done) | split | dsimp only

theorem Kept.flush (ring k : Nat) : ∀ {s : State}, Kept x r s → Kept x r (State.flush ring k s) := by
  induction k with
  | zero => intro s h; exact h
  | succ k ih =>
    intro s h
    unfold State.flush
    refine .ite h ?_
    split
    · exact h
    · exact .ite (ih (h.writeCompletion _ _)) (h.onCtx _ _)

theorem Kept.flushRing (h : Kept x r s) (ring : Nat) : Kept x r (s.flushRing ring) := by
  unfold State.flushRing
  repeat' with_reducible first
    | assumption | apply Kept.ite | apply Kept.flush | (refine Kept.foldl _ (fun _ _ _ => ?_) _ _ ?_) | rfl
    | exact .inr rfl | exact .inr id | (exact .inr (fun _ => rfl)) | exact .inl ‹_› | (simp; done) | split
    | dsimp only

theorem Kept.canReply (h : Kept x r s) (c : Completion) : Kept x r (s.canReply c) := by
  unfold State.canReply
  repeat' with_reducible first
    | assumption | apply Kept.ite | apply Kept.onCan | apply Kept.bump | apply Kept.onCtx
    | (refine Kept.foldl _ (fun _ _ _ => ?_) _ _ ?_) | rfl | exact .inr rfl | exact .inr id
    | (exact .inr (fun _ => rfl)) | exact .inl ‹_› | (simp; done) | split | dsimp only

theorem Kept.produce (h : Kept x r s) (ring : Nat) (c : Completion) : Kept x r (s.produce ring c) := by
  unfold State.produce
  repeat' with_reducible first
    | assumption | apply Kept.ite | apply Kept.canReply | apply Kept.onCtx | apply Kept.flushRing
    | (refine Kept.foldl _ (fun _ _ _ => ?_) _ _ ?_) | rfl | exact .inr rfl | exact .inr id
    | (exact .inr (fun _ => rfl)) | exact .inl ‹_› | (simp; done) | split | dsimp only

theorem Kept.complete (h : Kept x r s) (c : Cmd) (status : Nat) (res0 : Nat) (res1 : Nat) (res2 : Nat) : Kept x r (s.complete c status res0 res1 res2) := by
  unfold State.complete
  repeat' with_reducible first
    | assumption | apply Kept.ite | apply Kept.produce | (refine Kept.foldl _ (fun _ _ _ => ?_) _ _ ?_) | rfl
    | exact .inr rfl | exact .inr id | (exact .inr (fun _ => rfl)) | exact .inl ‹_› | (simp; done) | split
    | dsimp only

theorem Kept.await (h : Kept x r s) (c : Cmd) (w : Wait) : Kept x r (s.await c w) := by
  unfold State.await
  repeat' with_reducible first
    | assumption | apply Kept.ite | apply Kept.onHl | (refine Kept.foldl _ (fun _ _ _ => ?_) _ _ ?_) | rfl
    | exact .inr rfl | exact .inr id | (exact .inr (fun _ => rfl)) | exact .inl ‹_› | (simp; done) | split
    | dsimp only

theorem Kept.finish (h : Kept x r s) (p : Wait → Bool) (status : Nat) (res0 : Nat) (res1 : Nat) (res2 : Nat) : Kept x r (s.finish p status res0 res1 res2) := by
  unfold State.finish
  repeat' with_reducible first
    | assumption | apply Kept.ite | apply Kept.complete | apply Kept.onHl
    | (refine Kept.foldl _ (fun _ _ _ => ?_) _ _ ?_) | rfl | exact .inr rfl | exact .inr id
    | (exact .inr (fun _ => rfl)) | exact .inl ‹_› | (simp; done) | split | dsimp only

theorem Kept.laneEvents (h : Kept x r s) (d : Nat) (ch : Nat) (retries : Nat) (lanes : List Nat) (failed : Bool) : Kept x r (s.laneEvents d ch retries lanes failed) := by
  unfold State.laneEvents
  repeat' with_reducible first
    | assumption | apply Kept.ite | apply Kept.onDram | apply Kept.errEvents | apply Kept.errEvent
    | (refine Kept.foldl _ (fun _ _ _ => ?_) _ _ ?_) | rfl | exact .inr rfl | exact .inr id
    | (exact .inr (fun _ => rfl)) | exact .inl ‹_› | (simp; done) | split | dsimp only

theorem Kept.withdrawBlock (h : Kept x r s) (q : WearEntry) : Kept x r (s.withdrawBlock q) := by
  unfold State.withdrawBlock
  repeat' with_reducible first
    | assumption | apply Kept.ite | apply Kept.onDram | apply Kept.retire | apply Kept.setDegraded
    | (refine Kept.foldl _ (fun _ _ _ => ?_) _ _ ?_) | rfl | exact .inr rfl | exact .inr id
    | (exact .inr (fun _ => rfl)) | exact .inl ‹_› | (simp; done) | split | dsimp only

theorem Kept.remapRow (h : Kept x r s) (q : WearEntry) : Kept x r (s.remapRow q) := by
  unfold State.remapRow
  repeat' with_reducible first
    | assumption | apply Kept.ite | apply Kept.withdrawBlock | apply Kept.onDram
    | (refine Kept.foldl _ (fun _ _ _ => ?_) _ _ ?_) | rfl | exact .inr rfl | exact .inr id
    | (exact .inr (fun _ => rfl)) | exact .inl ‹_› | (simp; done) | split | dsimp only

theorem Kept.correctedError (h : Kept x r s) (a : Nat) : Kept x r (s.correctedError a) := by
  unfold State.correctedError
  repeat' with_reducible first
    | assumption | apply Kept.ite | apply Kept.onDram | apply Kept.errEvent | apply Kept.remapRow
    | (refine Kept.foldl _ (fun _ _ _ => ?_) _ _ ?_) | rfl | exact .inr rfl | exact .inr id
    | (exact .inr (fun _ => rfl)) | exact .inl ‹_› | (simp; done) | split | dsimp only

theorem Kept.uncorrectableError (h : Kept x r s) (a : Nat) : Kept x r (s.uncorrectableError a) := by
  unfold State.uncorrectableError
  repeat' with_reducible first
    | assumption | apply Kept.ite | apply Kept.poisonGranules | apply Kept.onDram | apply Kept.remapRow
    | (refine Kept.foldl _ (fun _ _ _ => ?_) _ _ ?_) | rfl | exact .inr rfl | exact .inr id
    | (exact .inr (fun _ => rfl)) | exact .inl ‹_› | (simp; done) | split | dsimp only

theorem Kept.writeGranule (h : Kept x r s) (a : Nat) (data : List Byte) (g : Nat) (e : Ecc) :
    Kept x r (s.writeGranule a data g e).2 := by
  have k (n : Nat) (l : List Nat) (b : Bool) : Kept x r (s.laneEvents (g / stackSize) (chanOf g) n l b) :=
    Kept.laneEvents h (g / stackSize) (chanOf g) n l b
  unfold State.writeGranule
  cases e <;> dsimp only <;> (repeat' split) <;>
    first | exact Kept.write h _ _ | exact Kept.uncorrectableError h _ | exact Kept.write (Kept.correctedError h _) _ _ | exact Kept.write (k _ _ _) _ _ | exact Kept.uncorrectableError (k _ _ _) _ | exact k _ _ _

theorem Kept.writeGranules (a : Nat) (data : List Byte) (gs : List Nat) : ∀ (es : List Ecc) {s : State}, Kept x r s →
    Kept x r (State.writeGranules a data gs es s).2 := by
  induction gs with
  | nil => intro es s h; exact h
  | cons g gs ih => intro es s h; exact ih _ (h.writeGranule _ _ _ _)

theorem Kept.dramWrite (h : Kept x r s) (a : Nat) (data : List Byte) (ecc : List Ecc) :
    Kept x r (s.dramWrite a data ecc).2 := by
  unfold State.dramWrite
  split
  · exact h
  · split
    · exact h.write _ _
    · exact Kept.writeGranules _ _ _ _ h

theorem Kept.freeBuffers (h : Kept x r s) (g : Nat) (dir : RingDir) (v : Nat) (n : Nat) : Kept x r (s.freeBuffers g dir v n) := by
  unfold State.freeBuffers
  repeat' with_reducible first
    | assumption | apply Kept.ite | apply Kept.onSegDir | (refine Kept.foldl _ (fun _ _ _ => ?_) _ _ ?_) | rfl
    | exact .inr rfl | exact .inr id | (exact .inr (fun _ => rfl)) | exact .inl ‹_› | (simp; done) | split
    | dsimp only

theorem Kept.countVc0 (h : Kept x r s) (g : Nat) (dir : RingDir) : Kept x r (s.countVc0 g dir) := by
  unfold State.countVc0
  repeat' with_reducible first
    | assumption | apply Kept.ite | apply Kept.onSeg | apply Kept.onSegDir
    | (refine Kept.foldl _ (fun _ _ _ => ?_) _ _ ?_) | rfl | exact .inr rfl | exact .inr id
    | (exact .inr (fun _ => rfl)) | exact .inl ‹_› | (simp; done) | split | dsimp only

theorem Kept.pumpN (g : Nat) (dir : RingDir) (k : Nat) : ∀ {s : State}, Kept x r s →
    Kept x r (State.pumpN g dir k s) := by
  induction k with
  | zero => intro s h; exact h
  | succ k ih =>
    intro s h
    unfold State.pumpN
    refine .ite h ?_
    dsimp only
    split
    · exact .ite (ih ((h.countVc0 _ _).onSegDir _ _ _)) (h.countVc0 _ _)
    · exact ih (.ite (((h.countVc0 _ _).onSegDir _ _ _).freeBuffers _ _ _ _) ((h.countVc0 _ _).onSegDir _ _ _))

theorem Kept.idleSlots (h : Kept x r s) (g : Nat) (dir : RingDir) : Kept x r (s.idleSlots g dir) := by
  unfold State.idleSlots
  repeat' with_reducible first
    | assumption | apply Kept.ite | apply Kept.onSegDir | apply Kept.bump
    | (refine Kept.foldl _ (fun _ _ _ => ?_) _ _ ?_) | rfl | exact .inr rfl | exact .inr id
    | (exact .inr (fun _ => rfl)) | exact .inl ‹_› | (simp; done) | split | dsimp only

theorem Kept.pump (h : Kept x r s) (g : Nat) (dir : RingDir) : Kept x r (s.pump g dir) := by
  unfold State.pump
  repeat' with_reducible first
    | assumption | apply Kept.ite | apply Kept.pumpN | apply Kept.idleSlots
    | (refine Kept.foldl _ (fun _ _ _ => ?_) _ _ ?_) | rfl | exact .inr rfl | exact .inr id
    | (exact .inr (fun _ => rfl)) | exact .inl ‹_› | (simp; done) | split | dsimp only

theorem Kept.queueFlits (h : Kept x r s) (g : Nat) (dir : RingDir) (v : Nat) (fs : List Flit) : Kept x r (s.queueFlits g dir v fs) := by
  unfold State.queueFlits
  repeat' with_reducible first
    | assumption | apply Kept.ite | apply Kept.onSegDir | apply Kept.pump
    | (refine Kept.foldl _ (fun _ _ _ => ?_) _ _ ?_) | rfl | exact .inr rfl | exact .inr id
    | (exact .inr (fun _ => rfl)) | exact .inl ‹_› | (simp; done) | split | dsimp only

theorem Kept.launch (h : Kept x r s) (src : Nat) (dst : Nat) (vc : Nat) (kind : Nat) (p : RingPacket) : Kept x r (s.launch src dst vc kind p) := by
  unfold State.launch
  repeat' with_reducible first
    | assumption | apply Kept.ite | apply Kept.queueFlits | (refine Kept.foldl _ (fun _ _ _ => ?_) _ _ ?_) | rfl
    | exact .inr rfl | exact .inr id | (exact .inr (fun _ => rfl)) | exact .inl ‹_› | (simp; done) | split
    | dsimp only

theorem Kept.carryWrite (h : Kept x r s) (o : Origin) (die : Nat) (req : Nat) (a : Nat) (data : List Byte) : Kept x r (s.carryWrite o die req a data) := by
  unfold State.carryWrite
  repeat' with_reducible first
    | assumption | apply Kept.ite | apply Kept.launch | (refine Kept.foldl _ (fun _ _ _ => ?_) _ _ ?_) | rfl
    | exact .inr rfl | exact .inr id | (exact .inr (fun _ => rfl)) | exact .inl ‹_› | (simp; done) | split
    | dsimp only

theorem Kept.putOut (h : Kept x r s) (a : Nat) (out : List Byte) : Kept x r (s.putOut a out).2 := by
  unfold State.putOut
  repeat' with_reducible first
    | assumption | apply Kept.ite | apply Kept.dramWrite | apply Kept.hostRequest | apply Kept.carryWrite
    | (refine Kept.foldl _ (fun _ _ _ => ?_) _ _ ?_) | rfl | exact .inr rfl | exact .inr id
    | (exact .inr (fun _ => rfl)) | exact .inl ‹_› | (simp; done) | split | dsimp only

theorem Kept.output (h : Kept x r s) (c : Cmd) (a : Nat) (out : List Byte) (status : Nat) (res0 : Nat) (res1 : Nat) : Kept x r (s.output c a out status res0 res1) := by
  unfold State.output
  repeat' with_reducible first
    | assumption | apply Kept.ite | apply Kept.complete | apply Kept.putOut
    | (refine Kept.foldl _ (fun _ _ _ => ?_) _ _ ?_) | rfl | exact .inr rfl | exact .inr id
    | (exact .inr (fun _ => rfl)) | exact .inl ‹_› | (simp; done) | split | dsimp only

theorem Kept.runCmd {fam op : Nat} {c : Cmd} {body : State → State} (h : Kept x r s)
    (hb : ∀ u, Kept x r u → Kept x r (body u)) : Kept x r (runCmd fam op c s body) := by
  unfold Machine.runCmd
  exact .ite h (.ite ((h.onCtx _ _).complete _ _ _ _ _).bump (.ite ((h.onCtx _ _).complete _ _ _ _ _)
    (.ite ((h.onCtx _ _).complete _ _ _ _ _) (hb _ (h.onCtx _ _)))))

theorem Kept.setLatch (h : Kept x r s) (requester : Nat) (off : Nat) (v : Nat) : Kept x r (s.setLatch requester off v) := by
  unfold State.setLatch
  repeat' with_reducible first
    | assumption | apply Kept.ite | apply Kept.onHl | (refine Kept.foldl _ (fun _ _ _ => ?_) _ _ ?_) | rfl
    | exact .inr rfl | exact .inr id | (exact .inr (fun _ => rfl)) | exact .inl ‹_› | (simp; done) | split
    | dsimp only

theorem Kept.latchRead (h : Kept x r s) (requester : Nat) (lo : Nat) : Kept x r (s.latchRead requester lo) := by
  unfold State.latchRead
  repeat' with_reducible first
    | assumption | apply Kept.ite | apply Kept.setLatch | (refine Kept.foldl _ (fun _ _ _ => ?_) _ _ ?_) | rfl
    | exact .inr rfl | exact .inr id | (exact .inr (fun _ => rfl)) | exact .inl ‹_› | (simp; done) | split
    | dsimp only

theorem Kept.reply (h : Kept x r s) (off : Nat) (v : Nat) : Kept x r (s.reply off v) := by
  unfold State.reply
  repeat' with_reducible first
    | assumption | apply Kept.ite | apply Kept.onHl | (refine Kept.foldl _ (fun _ _ _ => ?_) _ _ ?_) | rfl
    | exact .inr rfl | exact .inr id | (exact .inr (fun _ => rfl)) | exact .inl ‹_› | (simp; done) | split
    | dsimp only

theorem Kept.clearA (h : Kept x r s) (off : Nat) : Kept x r (s.clearA off) := by
  unfold State.clearA
  repeat' with_reducible first
    | assumption | apply Kept.ite | apply Kept.onSeg | apply Kept.onRing | apply Kept.onTb | apply Kept.onHl
    | apply Kept.onCtx | (refine Kept.foldl _ (fun _ _ _ => ?_) _ _ ?_) | rfl | exact .inr rfl | exact .inr id
    | (exact .inr (fun _ => rfl)) | exact .inl ‹_› | (simp; done) | split | dsimp only

theorem Kept.clearB (h : Kept x r s) (off : Nat) : Kept x r (s.clearB off) := by
  unfold State.clearB
  repeat' with_reducible first
    | assumption | apply Kept.ite | apply Kept.onSch | apply Kept.onSol | apply Kept.onAsz | apply Kept.onKv
    | apply Kept.onPort | apply Kept.onStream | (refine Kept.foldl _ (fun _ _ _ => ?_) _ _ ?_) | rfl
    | exact .inr rfl | exact .inr id | (exact .inr (fun _ => rfl)) | exact .inl ‹_› | (simp; done) | split
    | dsimp only

theorem Kept.clearC (h : Kept x r s) (off : Nat) : Kept x r (s.clearC off) := by
  unfold State.clearC
  repeat' with_reducible first
    | assumption | apply Kept.ite | apply Kept.onLine | apply Kept.onNode | apply Kept.onCan | apply Kept.onRec
    | apply Kept.onFi | apply Kept.onPhys | apply Kept.onDram | (refine Kept.foldl _ (fun _ _ _ => ?_) _ _ ?_) | rfl
    | exact .inr rfl | exact .inr id | (exact .inr (fun _ => rfl)) | exact .inl ‹_› | (simp; done) | split
    | dsimp only

theorem Kept.clearRc (h : Kept x r s) (off : Nat) : Kept x r (s.clearRc off) := by
  unfold State.clearRc
  repeat' with_reducible first
    | assumption | apply Kept.ite | apply Kept.clearA | apply Kept.clearB | apply Kept.clearC
    | (refine Kept.foldl _ (fun _ _ _ => ?_) _ _ ?_) | rfl | exact .inr rfl | exact .inr id
    | (exact .inr (fun _ => rfl)) | exact .inl ‹_› | (simp; done) | split | dsimp only

theorem Kept.busRead (h : Kept x r s) (requester : Nat) (off : Nat) : Kept x r (s.busRead requester off) := by
  unfold State.busRead
  repeat' with_reducible first
    | assumption | apply Kept.ite | apply Kept.latchRead | apply Kept.clearRc | apply Kept.reply | apply Kept.bump
    | (refine Kept.foldl _ (fun _ _ _ => ?_) _ _ ?_) | rfl | exact .inr rfl | exact .inr id
    | (exact .inr (fun _ => rfl)) | exact .inl ‹_› | (simp; done) | split | dsimp only

theorem Kept.driveCams (h : Kept x r s) : Kept x r s.driveCams := by
  unfold State.driveCams
  repeat' with_reducible first
    | assumption | apply Kept.ite | apply Kept.onPins | (refine Kept.foldl _ (fun _ _ _ => ?_) _ _ ?_) | rfl
    | exact .inr rfl | exact .inr id | (exact .inr (fun _ => rfl)) | exact .inl ‹_› | (simp; done) | split
    | dsimp only

theorem Kept.startPtm (h : Kept x r s) : Kept x r s.startPtm := by
  unfold State.startPtm
  repeat' with_reducible first
    | assumption | apply Kept.ite | apply Kept.onTb | (refine Kept.foldl _ (fun _ _ _ => ?_) _ _ ?_) | rfl
    | exact .inr rfl | exact .inr id | (exact .inr (fun _ => rfl)) | exact .inl ‹_› | (simp; done) | split
    | dsimp only

theorem Kept.writePtm (h : Kept x r s) (v : Nat) : Kept x r (s.writePtm v) := by
  unfold State.writePtm
  repeat' with_reducible first
    | assumption | apply Kept.ite | apply Kept.onTb | apply Kept.startPtm
    | (refine Kept.foldl _ (fun _ _ _ => ?_) _ _ ?_) | rfl | exact .inr rfl | exact .inr id
    | (exact .inr (fun _ => rfl)) | exact .inl ‹_› | (simp; done) | split | dsimp only

theorem Kept.writeCam (h : Kept x r s) (n : Nat) (cfg : Nat) (t : Nat) : Kept x r (s.writeCam n cfg t) := by
  unfold State.writeCam
  repeat' with_reducible first
    | assumption | apply Kept.ite | apply Kept.onTb | apply Kept.driveCams
    | (refine Kept.foldl _ (fun _ _ _ => ?_) _ _ ?_) | rfl | exact .inr rfl | exact .inr id
    | (exact .inr (fun _ => rfl)) | exact .inl ‹_› | (simp; done) | split | dsimp only

theorem Kept.enableCtx0 (h : Kept x r s) (v : Nat) : Kept x r (s.enableCtx0 v) := by
  unfold State.enableCtx0
  repeat' with_reducible first
    | assumption | apply Kept.ite | apply Kept.onHl | apply Kept.onCtx
    | (refine Kept.foldl _ (fun _ _ _ => ?_) _ _ ?_) | rfl | exact .inr rfl | exact .inr id
    | (exact .inr (fun _ => rfl)) | exact .inl ‹_› | (simp; done) | split | dsimp only

theorem Kept.disableCtx0 (h : Kept x r s) : Kept x r s.disableCtx0 := by
  unfold State.disableCtx0
  repeat' with_reducible first
    | assumption | apply Kept.ite | apply Kept.onHl | apply Kept.onCtx
    | (refine Kept.foldl _ (fun _ _ _ => ?_) _ _ ?_) | rfl | exact .inr rfl | exact .inr id
    | (exact .inr (fun _ => rfl)) | exact .inl ‹_› | (simp; done) | split | dsimp only

theorem Kept.writeCtx0Cfg (h : Kept x r s) (v : Nat) : Kept x r (s.writeCtx0Cfg v) := by
  unfold State.writeCtx0Cfg
  repeat' with_reducible first
    | assumption | apply Kept.ite | apply Kept.disableCtx0 | apply Kept.enableCtx0 | apply Kept.onHl
    | (refine Kept.foldl _ (fun _ _ _ => ?_) _ _ ?_) | rfl | exact .inr rfl | exact .inr id
    | (exact .inr (fun _ => rfl)) | exact .inl ‹_› | (simp; done) | split | dsimp only

theorem Kept.releaseRxq (h : Kept x r s) (k : Nat) (f : Nat) (value : Nat) : Kept x r (s.releaseRxq k f value) := by
  unfold State.releaseRxq
  repeat' with_reducible first
    | assumption | apply Kept.ite | apply Kept.onCan | (refine Kept.foldl _ (fun _ _ _ => ?_) _ _ ?_) | rfl
    | exact .inr rfl | exact .inr id | (exact .inr (fun _ => rfl)) | exact .inl ‹_› | (simp; done) | split
    | dsimp only

theorem Kept.writeMsix (h : Kept x r s) (i : Nat) (v : Nat) : Kept x r (s.writeMsix i v) := by
  unfold State.writeMsix
  repeat' with_reducible first
    | assumption | apply Kept.ite | apply Kept.onHl | (refine Kept.foldl _ (fun _ _ _ => ?_) _ _ ?_) | rfl
    | exact .inr rfl | exact .inr id | (exact .inr (fun _ => rfl)) | exact .inl ‹_› | (simp; done) | split
    | dsimp only

theorem Kept.writeCanStatus (h : Kept x r s) (k : Nat) (v : Nat) : Kept x r (s.writeCanStatus k v) := by
  unfold State.writeCanStatus
  repeat' with_reducible first
    | assumption | apply Kept.ite | apply Kept.onCan | (refine Kept.foldl _ (fun _ _ _ => ?_) _ _ ?_) | rfl
    | exact .inr rfl | exact .inr id | (exact .inr (fun _ => rfl)) | exact .inl ‹_› | (simp; done) | split
    | dsimp only

theorem Kept.writeReg (h : Kept x r s) (off : Nat) (v : Nat) : Kept x r (s.writeReg off v) := by
  unfold State.writeReg
  repeat' with_reducible first
    | assumption | apply Kept.ite | apply Kept.onDev | apply Kept.onTb | apply Kept.writePtm | apply Kept.writeCam
    | apply Kept.onHl | apply Kept.writeCtx0Cfg | apply Kept.onCtx | apply Kept.writeMsix
    | apply Kept.writeCanStatus | apply Kept.releaseRxq | apply Kept.onCan
    | (refine Kept.foldl _ (fun _ _ _ => ?_) _ _ ?_) | rfl | exact .inr rfl | exact .inr id
    | (exact .inr (fun _ => rfl)) | exact .inl ‹_› | (simp; done) | split | dsimp only

theorem Kept.bankEvents (h : Kept x r s) (a : Nat) (n : Nat) : Kept x r (s.bankEvents a n) := by
  unfold State.bankEvents
  repeat' with_reducible first
    | assumption | apply Kept.ite | apply Kept.onCore | apply Kept.errEvent
    | (refine Kept.foldl _ (fun _ _ _ => ?_) _ _ ?_) | rfl | exact .inr rfl | exact .inr id
    | (exact .inr (fun _ => rfl)) | exact .inl ‹_› | (simp; done) | split | dsimp only

theorem Kept.enterCommand (h : Kept x r s) (c : Cmd) : Kept x r (s.enterCommand c) := by
  unfold State.enterCommand
  repeat' with_reducible first
    | assumption | apply Kept.ite | apply Kept.record | apply Kept.onCtx | apply Kept.produce
    | (refine Kept.foldl _ (fun _ _ _ => ?_) _ _ ?_) | rfl | exact .inr rfl | exact .inr id
    | (exact .inr (fun _ => rfl)) | exact .inl ‹_› | (simp; done) | split | dsimp only

theorem Kept.readGranule (h : Kept x r s) (g : Nat) (e : Ecc) : Kept x r (s.readGranule g e).2 := by
  unfold State.readGranule
  repeat' with_reducible first
    | assumption | apply Kept.ite | apply Kept.correctedError | apply Kept.uncorrectableError
    | apply Kept.laneEvents | (refine Kept.foldl _ (fun _ _ _ => ?_) _ _ ?_) | rfl | exact .inr rfl | exact .inr id
    | (exact .inr (fun _ => rfl)) | exact .inl ‹_› | (simp; done) | split | dsimp only

theorem Kept.readGranules (gs : List Nat) : ∀ (es : List Ecc) {s : State}, Kept x r s →
    Kept x r (State.readGranules gs es s).2 := by
  induction gs with
  | nil => intro es s h; exact h
  | cons g gs ih => intro es s h; exact ih _ (h.readGranule _ _)

theorem Kept.dramRead (h : Kept x r s) (a n : Nat) (ecc : List Ecc) : Kept x r (s.dramRead a n ecc).2 := by
  unfold State.dramRead
  split
  · exact h
  · split
    · exact h
    · exact Kept.readGranules _ _ h

theorem Kept.afterRead (h : Kept x r s) (a : Nat) (n : Nat) : Kept x r (s.afterRead a n) := by
  unfold State.afterRead
  repeat' with_reducible first
    | assumption | apply Kept.ite | apply Kept.dramRead | (refine Kept.foldl _ (fun _ _ _ => ?_) _ _ ?_) | rfl
    | exact .inr rfl | exact .inr id | (exact .inr (fun _ => rfl)) | exact .inl ‹_› | (simp; done) | split
    | dsimp only

theorem Kept.carryRead (h : Kept x r s) (o : Origin) (die : Nat) (req : Nat) (a : Nat) (data : List Byte) : Kept x r (s.carryRead o die req a data) := by
  unfold State.carryRead
  repeat' with_reducible first
    | assumption | apply Kept.ite | apply Kept.launch | (refine Kept.foldl _ (fun _ _ _ => ?_) _ _ ?_) | rfl
    | exact .inr rfl | exact .inr id | (exact .inr (fun _ => rfl)) | exact .inl ‹_› | (simp; done) | split
    | dsimp only

theorem Kept.readPayload (h : Kept x r s) (c : Cmd) : Kept x r (s.readPayload c) := by
  unfold State.readPayload
  repeat' with_reducible first
    | assumption | apply Kept.ite | apply Kept.afterRead | apply Kept.hostRequest | apply Kept.carryRead
    | (refine Kept.foldl _ (fun _ _ _ => ?_) _ _ ?_) | rfl | exact .inr rfl | exact .inr id
    | (exact .inr (fun _ => rfl)) | exact .inl ‹_› | (simp; done) | split | dsimp only

theorem Kept.fetchEntries (h : Kept x r s) (ring : Nat) (n : Nat) : Kept x r (s.fetchEntries ring n) := by
  unfold State.fetchEntries
  repeat' with_reducible first
    | assumption | apply Kept.ite | apply Kept.hostRequest | (refine Kept.foldl _ (fun _ _ _ => ?_) _ _ ?_) | rfl
    | exact .inr rfl | exact .inr id | (exact .inr (fun _ => rfl)) | exact .inl ‹_› | (simp; done) | split
    | dsimp only

theorem Kept.takeFrom (h : Kept x r s) (ring : Nat) : Kept x r (s.takeFrom ring) := by
  unfold State.takeFrom
  repeat' with_reducible first
    | assumption | apply Kept.ite | apply Kept.fetchEntries | apply Kept.onCtx | apply Kept.produce
    | apply Kept.readPayload | apply Kept.enterCommand | (refine Kept.foldl _ (fun _ _ _ => ?_) _ _ ?_) | rfl
    | exact .inr rfl | exact .inr id | (exact .inr (fun _ => rfl)) | exact .inl ‹_› | (simp; done) | split
    | dsimp only

theorem Kept.bar2Refuse (h : Kept x r s) : Kept x r s.bar2Refuse := by
  unfold State.bar2Refuse
  repeat' with_reducible first
    | assumption | apply Kept.ite | apply Kept.onHl | (refine Kept.foldl _ (fun _ _ _ => ?_) _ _ ?_) | rfl
    | exact .inr rfl | exact .inr id | (exact .inr (fun _ => rfl)) | exact .inl ‹_› | (simp; done) | split
    | dsimp only

theorem Kept.moveBytes (h : Kept x r s) (src : Nat) (dst : Nat) (n : Nat) : Kept x r (s.moveBytes src dst n).2 := by
  unfold State.moveBytes
  repeat' with_reducible first
    | assumption | apply Kept.ite | apply Kept.afterRead | apply Kept.hostRequest | apply Kept.carryRead
    | apply Kept.putOut | (refine Kept.foldl _ (fun _ _ _ => ?_) _ _ ?_) | rfl | exact .inr rfl | exact .inr id
    | (exact .inr (fun _ => rfl)) | exact .inl ‹_› | (simp; done) | split | dsimp only

theorem Kept.copyPoisoned (h : Kept x r s) (src dst n : Nat) : Kept x r (s.copyPoisoned src dst n).2 := by
  unfold State.copyPoisoned
  have hf : ∀ (l : List (Nat × Nat)) (p : Nat × State), Kept x r p.2 → Kept x r (l.foldl (fun (x : Nat × State) p =>
      if s.readPoisoned (src + p.1) p.2 || s.draw (p.1 + 1) % 2 = 0 then x
      else (x.1 + p.2, (x.2.moveBytes (src + p.1) (dst + p.1) p.2).2)) p).2 := by
    intro l
    induction l with
    | nil => intro p hp; exact hp
    | cons i l ih =>
      intro p hp
      refine ih _ ?_
      dsimp only
      split
      · exact hp
      · exact hp.moveBytes _ _ _
  exact hf _ (0, s) h

theorem Kept.runCopy (h : Kept x r s) (c : Cmd) (src : Nat) (dst : Nat) (n : Nat) : Kept x r (s.runCopy c src dst n) := by
  unfold State.runCopy
  repeat' with_reducible first
    | assumption | apply Kept.ite | apply Kept.complete | apply Kept.copyPoisoned | apply Kept.afterRead
    | apply Kept.bankEvents | apply Kept.bump | apply Kept.moveBytes
    | (refine Kept.foldl _ (fun _ _ _ => ?_) _ _ ?_) | rfl | exact .inr rfl | exact .inr id
    | (exact .inr (fun _ => rfl)) | exact .inl ‹_› | (simp; done) | split | dsimp only

theorem Kept.carryHub (h : Kept x r s) (o : Origin) (src : Nat) (dst : Nat) (data : List Byte) : Kept x r (s.carryHub o src dst data) := by
  unfold State.carryHub
  repeat' with_reducible first
    | assumption | apply Kept.ite | apply Kept.carryRead | apply Kept.carryWrite
    | (refine Kept.foldl _ (fun _ _ _ => ?_) _ _ ?_) | rfl | exact .inr rfl | exact .inr id
    | (exact .inr (fun _ => rfl)) | exact .inl ‹_› | (simp; done) | split | dsimp only

theorem Kept.leavePackage (h : Kept x r s) (kind : Nat) (d : Desc) (pkg : Nat) (data : List Byte) : Kept x r (s.leavePackage kind d pkg data) := by
  unfold State.leavePackage
  repeat' with_reducible first
    | assumption | apply Kept.ite | apply Kept.onRing | (refine Kept.foldl _ (fun _ _ _ => ?_) _ _ ?_) | rfl
    | exact .inr rfl | exact .inr id | (exact .inr (fun _ => rfl)) | exact .inl ‹_› | (simp; done) | split
    | dsimp only

theorem Kept.remapDone (h : Kept x r s) (d : Nat) : Kept x r (s.remapDone d) := by
  unfold State.remapDone
  repeat' with_reducible first
    | assumption | apply Kept.ite | apply Kept.poisonGranules | apply Kept.onDram | apply Kept.retire
    | (refine Kept.foldl _ (fun _ _ _ => ?_) _ _ ?_) | rfl | exact .inr rfl | exact .inr id
    | (exact .inr (fun _ => rfl)) | exact .inl ‹_› | (simp; done) | split | dsimp only

theorem Kept.retireTsvLane (h : Kept x r s) (d : Nat) (ch : Nat) (lane : Nat) : Kept x r (s.retireTsvLane d ch lane) := by
  unfold State.retireTsvLane
  repeat' with_reducible first
    | assumption | apply Kept.ite | apply Kept.retire | apply Kept.onDram | apply Kept.setDegraded
    | (refine Kept.foldl _ (fun _ _ _ => ?_) _ _ ?_) | rfl | exact .inr rfl | exact .inr id
    | (exact .inr (fun _ => rfl)) | exact .inl ‹_› | (simp; done) | split | dsimp only

theorem Kept.tripStack (h : Kept x r s) (d : Nat) : Kept x r (s.tripStack d) := by
  unfold State.tripStack
  repeat' with_reducible first
    | assumption | apply Kept.ite | apply Kept.onDram | apply Kept.deviceFault | apply Kept.decideSafe
    | (refine Kept.foldl _ (fun _ _ _ => ?_) _ _ ?_) | rfl | exact .inr rfl | exact .inr id
    | (exact .inr (fun _ => rfl)) | exact .inl ‹_› | (simp; done) | split | dsimp only

theorem Kept.sampleStack (h : Kept x r s) (d : Nat) (t : Nat) : Kept x r (s.sampleStack d t) := by
  unfold State.sampleStack
  repeat' with_reducible first
    | assumption | apply Kept.ite | apply Kept.onDram | apply Kept.tripStack
    | (refine Kept.foldl _ (fun _ _ _ => ?_) _ _ ?_) | rfl | exact .inr rfl | exact .inr id
    | (exact .inr (fun _ => rfl)) | exact .inl ‹_› | (simp; done) | split | dsimp only

theorem Kept.forwardFlit (h : Kept x r s) (g : Nat) (dir : RingDir) (f : Flit) : Kept x r (s.forwardFlit g dir f) := by
  unfold State.forwardFlit
  repeat' with_reducible first
    | assumption | apply Kept.ite | apply Kept.onSegDir | apply Kept.pump
    | (refine Kept.foldl _ (fun _ _ _ => ?_) _ _ ?_) | rfl | exact .inr rfl | exact .inr id
    | (exact .inr (fun _ => rfl)) | exact .inl ‹_› | (simp; done) | split | dsimp only

theorem Kept.driveSyncOut (h : Kept x r s) : Kept x r s.driveSyncOut := by
  unfold State.driveSyncOut
  repeat' with_reducible first
    | assumption | apply Kept.ite | apply Kept.onPins | (refine Kept.foldl _ (fun _ _ _ => ?_) _ _ ?_) | rfl
    | exact .inr rfl | exact .inr id | (exact .inr (fun _ => rfl)) | exact .inl ‹_› | (simp; done) | split
    | dsimp only

theorem Kept.applyPipe (h : Kept x r s) (u : Nat) (b : Bool) : Kept x r (s.onItk fun k => applyPipe k u b) :=
  h.onItk _ rfl rfl rfl (by unfold Machine.applyPipe; dsimp only; split <;> simp)

theorem Kept.carryMessage (h : Kept x r s) (o : Origin) (dst : Nat) (body : List Byte) : Kept x r (s.carryMessage o dst body) := by
  unfold State.carryMessage
  repeat' with_reducible first
    | assumption | apply Kept.ite | apply Kept.launch | (refine Kept.foldl _ (fun _ _ _ => ?_) _ _ ?_) | rfl
    | exact .inr rfl | exact .inr id | (exact .inr (fun _ => rfl)) | exact .inl ‹_› | (simp; done) | split
    | dsimp only

theorem Kept.resolvingFold {α : Type} (f : Resolving → α → Resolving) (hf : ∀ u i, Kept x r u.s → Kept x r (f u i).s)
    (l : List α) : ∀ u : Resolving, Kept x r u.s → Kept x r (l.foldl f u).s := by
  induction l with
  | nil => intro u h; exact h
  | cons i l ih => intro u h; exact ih _ (hf u i h)

end Sys2Proof.Machine
end

