-- ==== Sys2Proof/Laws/Commands.lean ====
section
/-! SUPPORT. The frame of a host command, said once: what `runCmd` answers where the command starts and where it does
not, and that a completion touches the host link, memory, the injection slots, CAN 0 and the count of draws alone. -/

namespace Sys2Proof.Machine

open Sys2Proof.Safety

/-- A command that starts is answered by its own rule, in the state in which its slot is marked. -/
theorem runCmd_starts {fam op : Nat} {c : Cmd} {s : State} (h : Starts fam op c s) (body : State → State) :
    runCmd fam op c s body = body (begun c s) := by
  obtain ⟨h1, h2, h3, h4, h5, h6, h7⟩ := h
  have hc : ¬(c.family ≠ fam ∨ c.operation ≠ op ∨ s.startable c = false ∨ s.hubDead = true) := by
    simp [h1, h2, h3, h4]
  have hb : begun c s = s.onCtx c.ring fun x => { x with slots := markStarted x.slots } := rfl
  have hd : (s.deadlinePassed c.deadline && !(fam = 3 && op = 1)) = false := by
    rcases h5 with e | ⟨e1, e2⟩
    · simp [e]
    · simp [e1, e2]
  unfold runCmd
  rw [if_neg hc]
  dsimp only
  rw [hd, h6, h7, hb]
  rfl

/-- A command that does not start changes nothing. -/
theorem runCmd_idle {fam op : Nat} {c : Cmd} {s : State}
    (h : c.family ≠ fam ∨ c.operation ≠ op ∨ s.startable c = false ∨ s.hubDead = true) (body : State → State) :
    runCmd fam op c s body = s := by
  unfold runCmd
  rw [if_pos h]

/-! Marking a slot touches the context table alone. -/

@[simp] theorem begun_pending (c : Cmd) (s : State) : (begun c s).pending = s.pending := by simp [begun]
@[simp] theorem begun_free (c : Cmd) (s : State) : (begun c s).free = s.free := by simp [begun]
@[simp] theorem begun_starts (c : Cmd) (s : State) : (begun c s).starts = s.starts := by simp [begun]
@[simp] theorem begun_pins (c : Cmd) (s : State) : (begun c s).pins = s.pins := by simp [begun]
@[simp] theorem begun_tb (c : Cmd) (s : State) : (begun c s).tb = s.tb := by simp [begun]
@[simp] theorem begun_dev (c : Cmd) (s : State) : (begun c s).dev = s.dev := by simp [begun]
@[simp] theorem begun_mem (c : Cmd) (s : State) : (begun c s).mem = s.mem := by simp [begun]
@[simp] theorem begun_ring (c : Cmd) (s : State) : (begun c s).ring = s.ring := by simp [begun]
@[simp] theorem begun_cores (c : Cmd) (s : State) : (begun c s).cores = s.cores := by simp [begun]
@[simp] theorem begun_dram (c : Cmd) (s : State) : (begun c s).dram = s.dram := by simp [begun]
@[simp] theorem begun_kv (c : Cmd) (s : State) : (begun c s).kv = s.kv := by simp [begun]
@[simp] theorem begun_sch (c : Cmd) (s : State) : (begun c s).sch = s.sch := by simp [begun]
@[simp] theorem begun_sol (c : Cmd) (s : State) : (begun c s).sol = s.sol := by simp [begun]
@[simp] theorem begun_jl (c : Cmd) (s : State) : (begun c s).jl = s.jl := by simp [begun]
@[simp] theorem begun_asz (c : Cmd) (s : State) : (begun c s).asz = s.asz := by simp [begun]
@[simp] theorem begun_itk (c : Cmd) (s : State) : (begun c s).itk = s.itk := by simp [begun]
@[simp] theorem begun_can (c : Cmd) (s : State) : (begun c s).can = s.can := by simp [begun]
@[simp] theorem begun_fw (c : Cmd) (s : State) : (begun c s).fw = s.fw := by simp [begun]
@[simp] theorem begun_spr (c : Cmd) (s : State) : (begun c s).spr = s.spr := by simp [begun]
@[simp] theorem begun_pwr (c : Cmd) (s : State) : (begun c s).pwr = s.pwr := by simp [begun]
@[simp] theorem begun_recd (c : Cmd) (s : State) : (begun c s).recd = s.recd := by simp [begun]
@[simp] theorem begun_fi (c : Cmd) (s : State) : (begun c s).fi = s.fi := by simp [begun]
@[simp] theorem begun_opens (c : Cmd) (s : State) : (begun c s).hl.opens = s.hl.opens := by
  unfold begun State.onCtx; split <;> rfl
@[simp] theorem begun_allocs (c : Cmd) (s : State) : (begun c s).hl.allocs = s.hl.allocs := by
  unfold begun State.onCtx; split <;> rfl

end Sys2Proof.Machine

namespace Sys2Proof.Safety

open Sys2Proof.Machine

/-! What a completion leaves. -/

theorem KeepsBlocks.refl (s : State) : KeepsBlocks s s := by simp [KeepsBlocks]

theorem KeepsBlocks.trans {r s t : State} (h : KeepsBlocks r s) (k : KeepsBlocks s t) : KeepsBlocks r t := by
  simp only [KeepsBlocks] at *
  simp only [k, h, and_self]

variable {r s : State}

theorem KeepsBlocks.onHl (h : KeepsBlocks r s) (f : HostLink → HostLink) : KeepsBlocks r (s.onHl f) := h
theorem KeepsBlocks.write (h : KeepsBlocks r s) (a : Nat) (bs : List Byte) : KeepsBlocks r (s.write a bs) := h
theorem KeepsBlocks.onFi (h : KeepsBlocks r s) (k : Nat) (f : Inject → Inject) : KeepsBlocks r (s.onFi k f) := h
theorem KeepsBlocks.onCan (h : KeepsBlocks r s) (k : Nat) (f : Can → Can) : KeepsBlocks r (s.onCan k f) := h
theorem KeepsBlocks.bump (h : KeepsBlocks r s) : KeepsBlocks r s.bump := h
theorem KeepsBlocks.onCtx (h : KeepsBlocks r s) (k : Nat) (f : Ctx → Ctx) : KeepsBlocks r (s.onCtx k f) := by
  unfold State.onCtx
  split <;> exact h
theorem KeepsBlocks.inject (h : KeepsBlocks r s) (target index dir : Nat) :
    KeepsBlocks r (s.inject target index dir).2 := h
theorem KeepsBlocks.ite {c : Prop} [Decidable c] {a b : State} (h1 : KeepsBlocks r a) (h2 : KeepsBlocks r b) :
    KeepsBlocks r (if c then a else b) := by
  split <;> assumption
theorem KeepsBlocks.foldl {α : Type} (f : State → α → State) (hf : ∀ u i, KeepsBlocks r u → KeepsBlocks r (f u i))
    (l : List α) : ∀ u, KeepsBlocks r u → KeepsBlocks r (l.foldl f u) := by
  induction l with
  | nil => intro u h; exact h
  | cons i l ih => intro u h; exact ih _ (hf u i h)

theorem KeepsBlocks.sendVector (h : KeepsBlocks r s) (v : Nat) : KeepsBlocks r (s.sendVector v) := by
  unfold State.sendVector
  repeat' with_reducible first | assumption | apply KeepsBlocks.ite | apply KeepsBlocks.onHl

theorem KeepsBlocks.hostRequest (h : KeepsBlocks r s) (engine : Nat) (write : Bool) (a n : Nat) :
    KeepsBlocks r (s.hostRequest engine write a n) := by
  unfold State.hostRequest State.hostSlots
  exact .ite h (.ite ((h.onHl _).onHl _) (h.onHl _))

theorem KeepsBlocks.writeEntry (h : KeepsBlocks r s) (ring addr : Nat) (bs : List Byte) :
    KeepsBlocks r (s.writeEntry ring addr bs) := by
  have hr : ∀ (u : State) (i : Nat), KeepsBlocks r u → KeepsBlocks r (u.releaseHeld i) := by
    intro u i hu
    unfold State.releaseHeld
    split
    · exact ((hu.write _ _).hostRequest _ _ _ _).onFi _ _
    · exact hu
  unfold State.writeEntry
  dsimp only
  refine KeepsBlocks.foldl _ hr _ _ ?_
  split
  · exact ((h.inject _ _ _).write _ _).hostRequest _ _ _ _
  · exact .ite (h.inject _ _ _) (.ite (((h.inject _ _ _).write _ _).hostRequest _ _ _ _) ((h.inject _ _ _).onFi _ _))

theorem KeepsBlocks.writeCompletion (h : KeepsBlocks r s) (ring : Nat) (c : Completion) :
    KeepsBlocks r (s.writeCompletion ring c) := by
  unfold State.writeCompletion
  exact .ite ((((h.writeEntry _ _ _).bump.onCtx _ _).onCtx _ _).sendVector _) ((h.writeEntry _ _ _).bump.onCtx _ _)

theorem KeepsBlocks.flush (ring k : Nat) : ∀ {s : State}, KeepsBlocks r s → KeepsBlocks r (State.flush ring k s) := by
  induction k with
  | zero => intro s h; exact h
  | succ k ih =>
    intro s h
    unfold State.flush
    refine .ite h ?_
    split
    · exact h
    · exact .ite (ih (h.writeCompletion _ _)) (h.onCtx _ _)

theorem KeepsBlocks.produce (h : KeepsBlocks r s) (ring : Nat) (c : Completion) :
    KeepsBlocks r (s.produce ring c) := by
  unfold State.produce
  exact .ite ((h.onCan _ _).bump.onCtx _ _) (.ite (h.onCtx _ _) (.ite (h.onCtx _ _)
    (KeepsBlocks.flush _ _ (h.onCtx _ _))))

/-- A completion touches nothing but what `KeepsBlocks` names. -/
theorem KeepsBlocks.complete (h : KeepsBlocks r s) (c : Cmd) (status res0 res1 res2 : Nat) :
    KeepsBlocks r (s.complete c status res0 res1 res2) := h.produce _ _

theorem KeepsBlocks.await (h : KeepsBlocks r s) (c : Cmd) (w : Wait) : KeepsBlocks r (s.await c w) := h

theorem KeepsBlocks.begun (s : State) (c : Cmd) : KeepsBlocks s (Safety.begun c s) := (KeepsBlocks.refl s).onCtx _ _

end Sys2Proof.Safety
end

