-- ==== Sys2Proof/Laws/KeptTiles.lean ====
section
/-! SUPPORT. What a step keeps (`Kept`), carried through watchdogs, the frame table, the sample board and the compute cores. -/

namespace Sys2Proof.Machine

open Sys2Proof.Safety

variable {x : Exempt} {r s : State}

theorem Kept.onWd (h : Kept x r s) (w : Nat) (f : Watchdog → Watchdog) : Kept x r (s.onWd w f) := by
  unfold State.onWd
  repeat' with_reducible first
    | assumption | apply Kept.ite | apply Kept.onAsz | (refine Kept.foldl _ (fun _ _ _ => ?_) _ _ ?_) | rfl
    | exact .inr rfl | exact .inr id | (exact .inr (fun _ => rfl)) | exact .inl ‹_› | (simp; done) | split
    | dsimp only

theorem Kept.wdFaulty (h : Kept x r s) (w : Nat) : Kept x r (s.wdFaulty w) := by
  unfold State.wdFaulty
  repeat' with_reducible first
    | assumption | apply Kept.ite | apply Kept.onWd | apply Kept.onAsz | apply Kept.sched | apply Kept.recTrigger
    | apply Kept.decideSafe | apply Kept.raiseEvent | (refine Kept.foldl _ (fun _ _ _ => ?_) _ _ ?_) | rfl
    | exact .inr rfl | exact .inr id | (exact .inr (fun _ => rfl)) | exact .inl ‹_› | (simp; done) | split
    | dsimp only

theorem Kept.kick (h : Kept x r s) (w : Nat) : Kept x r (s.kick w) := by
  unfold State.kick
  repeat' with_reducible first
    | assumption | apply Kept.ite | apply Kept.wdFaulty | apply Kept.onWd
    | (refine Kept.foldl _ (fun _ _ _ => ?_) _ _ ?_) | rfl | exact .inr rfl | exact .inr id
    | (exact .inr (fun _ => rfl)) | exact .inl ‹_› | (simp; done) | split | dsimp only

theorem Kept.wdStart (h : Kept x r s) (w : Nat) : Kept x r (s.wdStart w) := by
  unfold State.wdStart
  repeat' with_reducible first
    | assumption | apply Kept.ite | apply Kept.onWd | (refine Kept.foldl _ (fun _ _ _ => ?_) _ _ ?_) | rfl
    | exact .inr rfl | exact .inr id | (exact .inr (fun _ => rfl)) | exact .inl ‹_› | (simp; done) | split
    | dsimp only

theorem Kept.wdStop (h : Kept x r s) (w : Nat) : Kept x r (s.wdStop w) := by
  unfold State.wdStop
  repeat' with_reducible first
    | assumption | apply Kept.ite | apply Kept.onWd | apply Kept.wdFaulty
    | (refine Kept.foldl _ (fun _ _ _ => ?_) _ _ ?_) | rfl | exact .inr rfl | exact .inr id
    | (exact .inr (fun _ => rfl)) | exact .inl ‹_› | (simp; done) | split | dsimp only

theorem Kept.addAlloc (h : Kept x r s) (a : Alloc) : Kept x r (s.addAlloc a) := by
  unfold State.addAlloc
  repeat' with_reducible first
    | assumption | apply Kept.ite | apply Kept.onHl | (refine Kept.foldl _ (fun _ _ _ => ?_) _ _ ?_) | rfl
    | exact .inr rfl | exact .inr id | (exact .inr (fun _ => rfl)) | exact .inl ‹_› | (simp; done) | split
    | dsimp only

theorem Kept.dropAlloc (h : Kept x r s) (base : Nat) : Kept x r (s.dropAlloc base) := by
  unfold State.dropAlloc
  repeat' with_reducible first
    | assumption | apply Kept.ite | apply Kept.onHl | (refine Kept.foldl _ (fun _ _ _ => ?_) _ _ ?_) | rfl
    | exact .inr rfl | exact .inr id | (exact .inr (fun _ => rfl)) | exact .inl ‹_› | (simp; done) | split
    | dsimp only

theorem Kept.setEntry (h : Kept x r s) (index : Nat) (e : FtEntry) : Kept x r (s.setEntry index e) := by
  unfold State.setEntry
  repeat' with_reducible first
    | assumption | apply Kept.ite | apply Kept.writeNat | (refine Kept.foldl _ (fun _ _ _ => ?_) _ _ ?_) | rfl
    | exact .inr rfl | exact .inr id | (exact .inr (fun _ => rfl)) | exact .inl ‹_› | (simp; done) | split
    | dsimp only

theorem Kept.onPool (h : Kept x r s) (id : Nat) (f : Pool → Pool) : Kept x r (s.onPool id f) := by
  unfold State.onPool
  repeat' with_reducible first
    | assumption | apply Kept.ite | apply Kept.onKv | (refine Kept.foldl _ (fun _ _ _ => ?_) _ _ ?_) | rfl
    | exact .inr rfl | exact .inr id | (exact .inr (fun _ => rfl)) | exact .inl ‹_› | (simp; done) | split
    | dsimp only

theorem Kept.onPoolDie (h : Kept x r s) (id : Nat) (d : Nat) (f : PoolDie → PoolDie) : Kept x r (s.onPoolDie id d f) := by
  unfold State.onPoolDie
  repeat' with_reducible first
    | assumption | apply Kept.ite | apply Kept.onPool | (refine Kept.foldl _ (fun _ _ _ => ?_) _ _ ?_) | rfl
    | exact .inr rfl | exact .inr id | (exact .inr (fun _ => rfl)) | exact .inl ‹_› | (simp; done) | split
    | dsimp only

theorem Kept.returnFrame (h : Kept x r s) (index : Nat) : Kept x r (s.returnFrame index) := by
  unfold State.returnFrame
  repeat' with_reducible first
    | assumption | apply Kept.ite | apply Kept.setEntry | apply Kept.onPoolDie | apply Kept.onKv
    | (refine Kept.foldl _ (fun _ _ _ => ?_) _ _ ?_) | rfl | exact .inr rfl | exact .inr id
    | (exact .inr (fun _ => rfl)) | exact .inl ‹_› | (simp; done) | split | dsimp only

theorem Kept.maybeReturn (h : Kept x r s) (index : Nat) : Kept x r (s.maybeReturn index) := by
  unfold State.maybeReturn
  repeat' with_reducible first
    | assumption | apply Kept.ite | apply Kept.returnFrame | (refine Kept.foldl _ (fun _ _ _ => ?_) _ _ ?_) | rfl
    | exact .inr rfl | exact .inr id | (exact .inr (fun _ => rfl)) | exact .inl ‹_› | (simp; done) | split
    | dsimp only

theorem Kept.ftLookup (h : Kept x r s) (index pool : Nat) : Kept x r (s.ftLookup index pool).2 := by
  unfold State.ftLookup
  dsimp only
  split
  · exact h.setEntry _ _
  · exact h

theorem Kept.ftRelease (h : Kept x r s) (index : Nat) : Kept x r (s.ftRelease index) := by
  unfold State.ftRelease
  repeat' with_reducible first
    | assumption | apply Kept.ite | apply Kept.setEntry | apply Kept.maybeReturn
    | (refine Kept.foldl _ (fun _ _ _ => ?_) _ _ ?_) | rfl | exact .inr rfl | exact .inr id
    | (exact .inr (fun _ => rfl)) | exact .inl ‹_› | (simp; done) | split | dsimp only

theorem Kept.ftRefAdd (h : Kept x r s) (index : Nat) (n : Nat) : Kept x r (s.ftRefAdd index n) := by
  unfold State.ftRefAdd
  repeat' with_reducible first
    | assumption | apply Kept.ite | apply Kept.setEntry | (refine Kept.foldl _ (fun _ _ _ => ?_) _ _ ?_) | rfl
    | exact .inr rfl | exact .inr id | (exact .inr (fun _ => rfl)) | exact .inl ‹_› | (simp; done) | split
    | dsimp only

theorem Kept.ftRefSub (h : Kept x r s) (index : Nat) : Kept x r (s.ftRefSub index) := by
  unfold State.ftRefSub
  repeat' with_reducible first
    | assumption | apply Kept.ite | apply Kept.setEntry | apply Kept.maybeReturn
    | (refine Kept.foldl _ (fun _ _ _ => ?_) _ _ ?_) | rfl | exact .inr rfl | exact .inr id
    | (exact .inr (fun _ => rfl)) | exact .inl ‹_› | (simp; done) | split | dsimp only

theorem Kept.ftCas (h : Kept x r s) (index : Nat) (expected : Nat) (new : Nat) : Kept x r (s.ftCas index expected new) := by
  unfold State.ftCas
  repeat' with_reducible first
    | assumption | apply Kept.ite | apply Kept.writeNat | apply Kept.onKv
    | (refine Kept.foldl _ (fun _ _ _ => ?_) _ _ ?_) | rfl | exact .inr rfl | exact .inr id
    | (exact .inr (fun _ => rfl)) | exact .inl ‹_› | (simp; done) | split | dsimp only

theorem Kept.ftAlloc (h : Kept x r s) {die pool state i k : Nat} {t : State}
    (e : s.ftAlloc die pool state i = some (k, t)) : Kept x r t := by
  unfold State.ftAlloc at e
  split at e
  · cases e
  · split at e
    · cases e
    · dsimp only at e
      split at e
      · cases e
      · split at e <;> split at e
        · cases e
        · cases e
          exact ((h.onPoolDie _ _ _).onKv _).setEntry _ _
        · cases e
        · cases e
          exact (h.onPoolDie _ _ _).setEntry _ _

theorem Kept.copyFrame (h : Kept x r s) (src : Nat) (dst : Nat) (n : Nat) (bad : List Nat) : Kept x r (s.copyFrame src dst n bad) := by
  unfold State.copyFrame
  repeat' with_reducible first
    | assumption | apply Kept.ite | apply Kept.dramRead | apply Kept.write | apply Kept.carryHub
    | apply Kept.poisonGranules | (refine Kept.foldl _ (fun _ _ _ => ?_) _ _ ?_) | rfl | exact .inr rfl
    | exact .inr id | (exact .inr (fun _ => rfl)) | exact .inl ‹_› | (simp; done) | split | dsimp only

theorem Kept.putBoard (h : Kept x r s) (st : Nat) (seq : Nat) (entry : List Byte) : Kept x r (s.putBoard st seq entry) := by
  unfold State.putBoard
  repeat' with_reducible first
    | assumption | apply Kept.ite | apply Kept.write | apply Kept.writeNat
    | (refine Kept.foldl _ (fun _ _ _ => ?_) _ _ ?_) | rfl | exact .inr rfl | exact .inr id
    | (exact .inr (fun _ => rfl)) | exact .inl ‹_› | (simp; done) | split | dsimp only

theorem Kept.republish (h : Kept x r s) (g : Nat) : Kept x r (s.republish g) := by
  unfold State.republish
  repeat' with_reducible first
    | assumption | apply Kept.ite | apply Kept.putBoard | apply Kept.bump
    | (refine Kept.foldl _ (fun _ _ _ => ?_) _ _ ?_) | rfl | exact .inr rfl | exact .inr id
    | (exact .inr (fun _ => rfl)) | exact .inl ‹_› | (simp; done) | split | dsimp only

theorem Kept.onJob (h : Kept x r s) (k : JobKey) (f : Job → Job) : Kept x r (s.onJob k f) := by
  unfold State.onJob
  repeat' with_reducible first
    | assumption | apply Kept.ite | apply Kept.onSch | (refine Kept.foldl _ (fun _ _ _ => ?_) _ _ ?_) | rfl
    | exact .inr rfl | exact .inr id | (exact .inr (fun _ => rfl)) | exact .inl ‹_› | (simp; done) | split
    | dsimp only

theorem Kept.releaseCompletion (h : Kept x r s) (j : Job) (status : Nat) (overrun : Bool) : Kept x r (s.releaseCompletion j status overrun) := by
  unfold State.releaseCompletion
  repeat' with_reducible first
    | assumption | apply Kept.ite | apply Kept.produce | (refine Kept.foldl _ (fun _ _ _ => ?_) _ _ ?_) | rfl
    | exact .inr rfl | exact .inr id | (exact .inr (fun _ => rfl)) | exact .inl ‹_› | (simp; done) | split
    | dsimp only

theorem Kept.endCompletion (h : Kept x r s) (j : Job) (status : Nat) : Kept x r (s.endCompletion j status) := by
  unfold State.endCompletion
  repeat' with_reducible first
    | assumption | apply Kept.ite | apply Kept.produce | (refine Kept.foldl _ (fun _ _ _ => ?_) _ _ ?_) | rfl
    | exact .inr rfl | exact .inr id | (exact .inr (fun _ => rfl)) | exact .inl ‹_› | (simp; done) | split
    | dsimp only

theorem Kept.unpin (h : Kept x r s) (index : Nat) : Kept x r (s.unpin index) := by
  unfold State.unpin
  repeat' with_reducible first
    | assumption | apply Kept.ite | apply Kept.setEntry | apply Kept.maybeReturn
    | (refine Kept.foldl _ (fun _ _ _ => ?_) _ _ ?_) | rfl | exact .inr rfl | exact .inr id
    | (exact .inr (fun _ => rfl)) | exact .inl ‹_› | (simp; done) | split | dsimp only

theorem Kept.remap (h : Kept x r s) (g : Nat) (q : Option Nat) : Kept x r (s.remap g q) := by
  unfold State.remap
  repeat' with_reducible first
    | assumption | apply Kept.ite | apply Kept.onPhys | apply Kept.onCores
    | (refine Kept.foldl _ (fun _ _ _ => ?_) _ _ ?_) | rfl | exact .inr rfl | exact .inr id
    | (exact .inr (fun _ => rfl)) | exact .inl ‹_› | (simp; done) | split | dsimp only

theorem Kept.retireCore (h : Kept x r s) (d : Nat) (u : Nat) (absent : Bool) : Kept x r (s.retireCore d u absent) := by
  unfold State.retireCore
  repeat' with_reducible first
    | assumption | apply Kept.ite | apply Kept.onPhys | apply Kept.retire | apply Kept.setDegraded
    | (refine Kept.foldl _ (fun _ _ _ => ?_) _ _ ?_) | rfl | exact .inr rfl | exact .inr id
    | (exact .inr (fun _ => rfl)) | exact .inl ‹_› | (simp; done) | split | dsimp only

theorem Kept.moveIdle (h : Kept x r s) (g : Nat) : Kept x r (s.moveIdle g) := by
  unfold State.moveIdle
  repeat' with_reducible first
    | assumption | apply Kept.ite | apply Kept.remap | apply Kept.clearSpad | apply Kept.retireCore
    | (refine Kept.foldl _ (fun _ _ _ => ?_) _ _ ?_) | rfl | exact .inr rfl | exact .inr id
    | (exact .inr (fun _ => rfl)) | exact .inl ‹_› | (simp; done) | split | dsimp only

theorem Kept.endJob (h : Kept x r s) (k : JobKey) (status : Nat) : Kept x r (s.endJob k status) := by
  unfold State.endJob
  repeat' with_reducible first
    | assumption | apply Kept.ite | apply Kept.unpin | apply Kept.onKv | apply Kept.dropAlloc | apply Kept.onSch
    | apply Kept.onCtx | apply Kept.endCompletion | apply Kept.sched | apply Kept.wdStop | apply Kept.decideSafe
    | apply Kept.moveIdle | (refine Kept.foldl _ (fun _ _ _ => ?_) _ _ ?_) | rfl | exact .inr rfl | exact .inr id
    | (exact .inr (fun _ => rfl)) | exact .inl ‹_› | (simp; done) | split | dsimp only

theorem Kept.takeBank (h : Kept x r s) (d : Nat) (u : Nat) (b : Nat) : Kept x r (s.takeBank d u b) := by
  unfold State.takeBank
  repeat' with_reducible first
    | assumption | apply Kept.ite | apply Kept.makeLasting | apply Kept.onPhys | apply Kept.retire
    | (refine Kept.foldl _ (fun _ _ _ => ?_) _ _ ?_) | rfl | exact .inr rfl | exact .inr id
    | (exact .inr (fun _ => rfl)) | exact .inl ‹_› | (simp; done) | split | dsimp only

theorem Kept.retireIdle (h : Kept x r s) (g : Nat) : Kept x r (s.retireIdle g) := by
  unfold State.retireIdle
  repeat' with_reducible first
    | assumption | apply Kept.ite | apply Kept.moveIdle | apply Kept.decideSafe | apply Kept.endJob
    | (refine Kept.foldl _ (fun _ _ _ => ?_) _ _ ?_) | rfl | exact .inr rfl | exact .inr id
    | (exact .inr (fun _ => rfl)) | exact .inl ‹_› | (simp; done) | split | dsimp only

theorem Kept.serviceIdle (h : Kept x r s) (g : Nat) : Kept x r (s.serviceIdle g) := by
  unfold State.serviceIdle
  repeat' with_reducible first
    | assumption | apply Kept.ite | apply Kept.takeBank | apply Kept.clearSpad | apply Kept.retireIdle
    | (refine Kept.foldl _ (fun _ _ _ => ?_) _ _ ?_) | rfl | exact .inr rfl | exact .inr id
    | (exact .inr (fun _ => rfl)) | exact .inl ‹_› | (simp; done) | split | dsimp only

theorem Kept.beginSelftests (h : Kept x r s) : Kept x r s.beginSelftests := by
  unfold State.beginSelftests
  repeat' with_reducible first
    | assumption | apply Kept.ite | apply Kept.onCore | (refine Kept.foldl _ (fun _ _ _ => ?_) _ _ ?_) | rfl
    | exact .inr rfl | exact .inr id | (exact .inr (fun _ => rfl)) | exact .inl ‹_› | (simp; done) | split
    | dsimp only

theorem Kept.freeCore (h : Kept x r s) (g : Nat) : Kept x r (s.freeCore g) := by
  unfold State.freeCore
  repeat' with_reducible first
    | assumption | apply Kept.ite | apply Kept.ftRelease | apply Kept.clearSpad | apply Kept.republish
    | apply Kept.onCore | apply Kept.serviceIdle | apply Kept.beginSelftests
    | (refine Kept.foldl _ (fun _ _ _ => ?_) _ _ ?_) | rfl | exact .inr rfl | exact .inr id
    | (exact .inr (fun _ => rfl)) | exact .inl ‹_› | (simp; done) | split | dsimp only

theorem Kept.vacate (h : Kept x r s) (g : Nat) : Kept x r (s.vacate g) := by
  unfold State.vacate
  repeat' with_reducible first
    | assumption | apply Kept.ite | apply Kept.onCore | apply Kept.serviceIdle | apply Kept.beginSelftests
    | (refine Kept.foldl _ (fun _ _ _ => ?_) _ _ ?_) | rfl | exact .inr rfl | exact .inr id
    | (exact .inr (fun _ => rfl)) | exact .inl ‹_› | (simp; done) | split | dsimp only

theorem Kept.loadCode (h : Kept x r s) (g : Nat) (j : Job) : Kept x r (s.loadCode g j) := by
  unfold State.loadCode
  repeat' with_reducible first
    | assumption | apply Kept.ite | apply Kept.afterRead | apply Kept.carryRead | apply Kept.write
    | (refine Kept.foldl _ (fun _ _ _ => ?_) _ _ ?_) | rfl | exact .inr rfl | exact .inr id
    | (exact .inr (fun _ => rfl)) | exact .inl ‹_› | (simp; done) | split | dsimp only

theorem Kept.loadDescs (h : Kept x r s) (g : Nat) (j : Job) : Kept x r (s.loadDescs g j) := by
  unfold State.loadDescs
  repeat' with_reducible first
    | assumption | apply Kept.ite | apply Kept.write | apply Kept.carryWrite
    | (refine Kept.foldl _ (fun _ _ _ => ?_) _ _ ?_) | rfl | exact .inr rfl | exact .inr id
    | (exact .inr (fun _ => rfl)) | exact .inl ‹_› | (simp; done) | split | dsimp only

theorem Kept.loadSpad (h : Kept x r s) (g : Nat) (j : Job) : Kept x r (s.loadSpad g j) := by
  unfold State.loadSpad
  repeat' with_reducible first
    | assumption | apply Kept.ite | apply Kept.clearSpad | apply Kept.loadCode | apply Kept.loadDescs
    | (refine Kept.foldl _ (fun _ _ _ => ?_) _ _ ?_) | rfl | exact .inr rfl | exact .inr id
    | (exact .inr (fun _ => rfl)) | exact .inl ‹_› | (simp; done) | split | dsimp only

theorem Kept.leaveCore (h : Kept x r s) (k : JobKey) (g : Nat) : Kept x r (s.leaveCore k g) := by
  unfold State.leaveCore
  repeat' with_reducible first
    | assumption | apply Kept.ite | apply Kept.onJob | apply Kept.endJob
    | (refine Kept.foldl _ (fun _ _ _ => ?_) _ _ ?_) | rfl | exact .inr rfl | exact .inr id
    | (exact .inr (fun _ => rfl)) | exact .inl ‹_› | (simp; done) | split | dsimp only

theorem Kept.endOnCore (h : Kept x r s) (g : Nat) : Kept x r (s.endOnCore g) := by
  unfold State.endOnCore
  repeat' with_reducible first
    | assumption | apply Kept.ite | apply Kept.freeCore | apply Kept.leaveCore
    | (refine Kept.foldl _ (fun _ _ _ => ?_) _ _ ?_) | rfl | exact .inr rfl | exact .inr id
    | (exact .inr (fun _ => rfl)) | exact .inl ‹_› | (simp; done) | split | dsimp only

theorem Kept.endPart (h : Kept x r s) (k : JobKey) (g : Nat) : Kept x r (s.endPart k g) := by
  unfold State.endPart
  repeat' with_reducible first
    | assumption | apply Kept.ite | apply Kept.leaveCore | apply Kept.endOnCore
    | (refine Kept.foldl _ (fun _ _ _ => ?_) _ _ ?_) | rfl | exact .inr rfl | exact .inr id
    | (exact .inr (fun _ => rfl)) | exact .inl ‹_› | (simp; done) | split | dsimp only

theorem Kept.requestEnd (h : Kept x r s) (k : JobKey) (status : Nat) : Kept x r (s.requestEnd k status) := by
  unfold State.requestEnd
  repeat' with_reducible first
    | assumption | apply Kept.ite | apply Kept.onJob | apply Kept.endJob | apply Kept.onCore | apply Kept.endPart
    | (refine Kept.foldl _ (fun _ _ _ => ?_) _ _ ?_) | rfl | exact .inr rfl | exact .inr id
    | (exact .inr (fun _ => rfl)) | exact .inl ‹_› | (simp; done) | split | dsimp only

theorem Kept.failOn (h : Kept x r s) (g : Nat) (status : Nat) : Kept x r (s.failOn g status) := by
  unfold State.failOn
  repeat' with_reducible first
    | assumption | apply Kept.ite | apply Kept.onCore | apply Kept.requestEnd
    | (refine Kept.foldl _ (fun _ _ _ => ?_) _ _ ?_) | rfl | exact .inr rfl | exact .inr id
    | (exact .inr (fun _ => rfl)) | exact .inl ‹_› | (simp; done) | split | dsimp only

theorem Kept.liveFault (h : Kept x r s) (g : Nat) : Kept x r (s.liveFault g) := by
  unfold State.liveFault
  repeat' with_reducible first
    | assumption | apply Kept.ite | apply Kept.bankEvents | apply Kept.onCore | apply Kept.bump | apply Kept.failOn
    | (refine Kept.foldl _ (fun _ _ _ => ?_) _ _ ?_) | rfl | exact .inr rfl | exact .inr id
    | (exact .inr (fun _ => rfl)) | exact .inl ‹_› | (simp; done) | split | dsimp only

theorem Kept.saveCore (h : Kept x r s) (g : Nat) : Kept x r (s.saveCore g) := by
  unfold State.saveCore
  repeat' with_reducible first
    | assumption | apply Kept.ite | apply Kept.liveFault | apply Kept.onJob | apply Kept.onCore
    | (refine Kept.foldl _ (fun _ _ _ => ?_) _ _ ?_) | rfl | exact .inr rfl | exact .inr id
    | (exact .inr (fun _ => rfl)) | exact .inl ‹_› | (simp; done) | split | dsimp only

theorem Kept.checkPreempted (h : Kept x r s) (k : JobKey) : Kept x r (s.checkPreempted k) := by
  unfold State.checkPreempted
  repeat' with_reducible first
    | assumption | apply Kept.ite | apply Kept.vacate | apply Kept.onJob | apply Kept.endJob
    | apply Kept.releaseCompletion | (refine Kept.foldl _ (fun _ _ _ => ?_) _ _ ?_) | rfl | exact .inr rfl
    | exact .inr id | (exact .inr (fun _ => rfl)) | exact .inl ‹_› | (simp; done) | split | dsimp only

theorem Kept.fillFree (h : Kept x r s) (a : Nat) (n : Nat) : Kept x r (s.fillFree a n) := by
  unfold State.fillFree
  repeat' with_reducible first
    | assumption | apply Kept.ite | apply Kept.write | apply Kept.bump
    | (refine Kept.foldl _ (fun _ _ _ => ?_) _ _ ?_) | rfl | exact .inr rfl | exact .inr id
    | (exact .inr (fun _ => rfl)) | exact .inl ‹_› | (simp; done) | split | dsimp only

theorem Kept.saveDone (h : Kept x r s) (g : Nat) : Kept x r (s.saveDone g) := by
  unfold State.saveDone
  repeat' with_reducible first
    | assumption | apply Kept.ite | apply Kept.fillFree | apply Kept.onJob | apply Kept.onCore
    | apply Kept.checkPreempted | (refine Kept.foldl _ (fun _ _ _ => ?_) _ _ ?_) | rfl | exact .inr rfl
    | exact .inr id | (exact .inr (fun _ => rfl)) | exact .inl ‹_› | (simp; done) | split | dsimp only

theorem Kept.stopJob (h : Kept x r s) (k : JobKey) : Kept x r (s.stopJob k) := by
  unfold State.stopJob
  repeat' with_reducible first
    | assumption | apply Kept.ite | apply Kept.onJob | apply Kept.onCore | apply Kept.saveCore
    | apply Kept.checkPreempted | (refine Kept.foldl _ (fun _ _ _ => ?_) _ _ ?_) | rfl | exact .inr rfl
    | exact .inr id | (exact .inr (fun _ => rfl)) | exact .inl ‹_› | (simp; done) | split | dsimp only

theorem Kept.writeCounters (h : Kept x r s) (j : Job) : Kept x r (s.writeCounters j) := by
  unfold State.writeCounters
  repeat' with_reducible first
    | assumption | apply Kept.ite | apply Kept.bankEvents | apply Kept.dramWrite | apply Kept.carryWrite
    | (refine Kept.foldl _ (fun _ _ _ => ?_) _ _ ?_) | rfl | exact .inr rfl | exact .inr id
    | (exact .inr (fun _ => rfl)) | exact .inl ‹_› | (simp; done) | split | dsimp only

theorem Kept.allHalted (h : Kept x r s) (k : JobKey) : Kept x r (s.allHalted k) := by
  unfold State.allHalted
  repeat' with_reducible first
    | assumption | apply Kept.ite | apply Kept.writeCounters | apply Kept.onJob | apply Kept.endPart
    | apply Kept.releaseCompletion | apply Kept.kick | (refine Kept.foldl _ (fun _ _ _ => ?_) _ _ ?_) | rfl
    | exact .inr rfl | exact .inr id | (exact .inr (fun _ => rfl)) | exact .inl ‹_› | (simp; done) | split
    | dsimp only

theorem Kept.haltCore (h : Kept x r s) (g : Nat) : Kept x r (s.haltCore g) := by
  unfold State.haltCore
  repeat' with_reducible first
    | assumption | apply Kept.ite | apply Kept.onCore | apply Kept.onJob | apply Kept.allHalted
    | apply Kept.saveCore | (refine Kept.foldl _ (fun _ _ _ => ?_) _ _ ?_) | rfl | exact .inr rfl | exact .inr id
    | (exact .inr (fun _ => rfl)) | exact .inl ‹_› | (simp; done) | split | dsimp only

theorem Kept.takeStop (h : Kept x r s) (g : Nat) : Kept x r (s.takeStop g) := by
  unfold State.takeStop
  repeat' with_reducible first
    | assumption | apply Kept.ite | apply Kept.endOnCore | apply Kept.onJob | apply Kept.haltCore
    | apply Kept.saveCore | (refine Kept.foldl _ (fun _ _ _ => ?_) _ _ ?_) | rfl | exact .inr rfl | exact .inr id
    | (exact .inr (fun _ => rfl)) | exact .inl ‹_› | (simp; done) | split | dsimp only

theorem Kept.nextTile (h : Kept x r s) (g : Nat) : Kept x r (s.nextTile g) := by
  unfold State.nextTile
  repeat' with_reducible first
    | assumption | apply Kept.ite | apply Kept.onCore | apply Kept.bump
    | (refine Kept.foldl _ (fun _ _ _ => ?_) _ _ ?_) | rfl | exact .inr rfl | exact .inr id
    | (exact .inr (fun _ => rfl)) | exact .inl ‹_› | (simp; done) | split | dsimp only

theorem Kept.deliver (h : Kept x r s) (g : Nat) (sem : Nat) : Kept x r (s.deliver g sem) := by
  unfold State.deliver
  repeat' with_reducible first
    | assumption | apply Kept.ite | apply Kept.onCore | (refine Kept.foldl _ (fun _ _ _ => ?_) _ _ ?_) | rfl
    | exact .inr rfl | exact .inr id | (exact .inr (fun _ => rfl)) | exact .inl ‹_› | (simp; done) | split
    | dsimp only

theorem Kept.moveAtMark (h : Kept x r s) (g : Nat) (j : Job) (q : Option Nat) : Kept x r (s.moveAtMark g j q) := by
  unfold State.moveAtMark
  repeat' with_reducible first
    | assumption | apply Kept.ite | apply Kept.remap | apply Kept.loadSpad | apply Kept.write | apply Kept.saveCore
    | apply Kept.saveDone | apply Kept.stopJob | (refine Kept.foldl _ (fun _ _ _ => ?_) _ _ ?_) | rfl
    | exact .inr rfl | exact .inr id | (exact .inr (fun _ => rfl)) | exact .inl ‹_› | (simp; done) | split
    | dsimp only

theorem Kept.maskChecks (h : Kept x r s) : Kept x r s.maskChecks := by
  unfold State.maskChecks
  repeat' with_reducible first
    | assumption | apply Kept.ite | apply Kept.requestEnd | (refine Kept.foldl _ (fun _ _ _ => ?_) _ _ ?_) | rfl
    | exact .inr rfl | exact .inr id | (exact .inr (fun _ => rfl)) | exact .inl ‹_› | (simp; done) | split
    | dsimp only

theorem Kept.retireAtMark (h : Kept x r s) (g : Nat) : Kept x r (s.retireAtMark g) := by
  unfold State.retireAtMark
  repeat' with_reducible first
    | assumption | apply Kept.ite | apply Kept.decideSafe | apply Kept.failOn | apply Kept.liveFault
    | apply Kept.moveAtMark | apply Kept.remap | apply Kept.clearSpad | apply Kept.retireCore
    | apply Kept.retireIdle | apply Kept.maskChecks | (refine Kept.foldl _ (fun _ _ _ => ?_) _ _ ?_) | rfl
    | exact .inr rfl | exact .inr id | (exact .inr (fun _ => rfl)) | exact .inl ‹_› | (simp; done) | split
    | dsimp only

theorem Kept.banksAtMark (h : Kept x r s) (g : Nat) : Kept x r (s.banksAtMark g) := by
  unfold State.banksAtMark
  repeat' with_reducible first
    | assumption | apply Kept.ite | apply Kept.takeBank | apply Kept.makeLasting | apply Kept.onCore
    | (refine Kept.foldl _ (fun _ _ _ => ?_) _ _ ?_) | rfl | exact .inr rfl | exact .inr id
    | (exact .inr (fun _ => rfl)) | exact .inl ‹_› | (simp; done) | split | dsimp only

theorem Kept.markSteps (h : Kept x r s) (g : Nat) : Kept x r (s.markSteps g) := by
  unfold State.markSteps
  repeat' with_reducible first
    | assumption | apply Kept.ite | apply Kept.ftRelease | apply Kept.onJob | apply Kept.deliver | apply Kept.onCore
    | (refine Kept.foldl _ (fun _ _ _ => ?_) _ _ ?_) | rfl | exact .inr rfl | exact .inr id
    | (exact .inr (fun _ => rfl)) | exact .inl ‹_› | (simp; done) | split | dsimp only

theorem Kept.mark (h : Kept x r s) (g : Nat) (halt : Bool) : Kept x r (s.mark g halt) := by
  unfold State.mark
  repeat' with_reducible first
    | assumption | apply Kept.ite | apply Kept.markSteps | apply Kept.banksAtMark | apply Kept.retireAtMark
    | apply Kept.haltCore | apply Kept.takeStop | apply Kept.nextTile
    | (refine Kept.foldl _ (fun _ _ _ => ?_) _ _ ?_) | rfl | exact .inr rfl | exact .inr id
    | (exact .inr (fun _ => rfl)) | exact .inl ‹_› | (simp; done) | split | dsimp only

theorem Kept.abort (h : Kept x r s) (g : Nat) : Kept x r (s.abort g) := by
  unfold State.abort
  repeat' with_reducible first
    | assumption | apply Kept.ite | apply Kept.ftRelease | apply Kept.onCore
    | (refine Kept.foldl _ (fun _ _ _ => ?_) _ _ ?_) | rfl | exact .inr rfl | exact .inr id
    | (exact .inr (fun _ => rfl)) | exact .inl ‹_› | (simp; done) | split | dsimp only

theorem Kept.rerun (h : Kept x r s) (g : Nat) : Kept x r (s.rerun g) := by
  unfold State.rerun
  repeat' with_reducible first
    | assumption | apply Kept.ite | apply Kept.failOn | apply Kept.onCore | apply Kept.onJob
    | apply Kept.retireAtMark | apply Kept.takeStop | apply Kept.nextTile
    | (refine Kept.foldl _ (fun _ _ _ => ?_) _ _ ?_) | rfl | exact .inr rfl | exact .inr id
    | (exact .inr (fun _ => rfl)) | exact .inl ‹_› | (simp; done) | split | dsimp only

theorem Kept.tileFault (h : Kept x r s) (g : Nat) (cause : Nat) : Kept x r (s.tileFault g cause) := by
  unfold State.tileFault
  repeat' with_reducible first
    | assumption | apply Kept.ite | apply Kept.onCore | apply Kept.bump | apply Kept.abort | apply Kept.rerun
    | apply Kept.failOn | (refine Kept.foldl _ (fun _ _ _ => ?_) _ _ ?_) | rfl | exact .inr rfl | exact .inr id
    | (exact .inr (fun _ => rfl)) | exact .inl ‹_› | (simp; done) | split | dsimp only

theorem Kept.copyScales (h : Kept x r s) (src : Nat) (dst : Nat) (n : Nat) : Kept x r (s.copyScales src dst n) := by
  unfold State.copyScales
  repeat' with_reducible first
    | assumption | apply Kept.ite | apply Kept.afterRead | apply Kept.poisonGranules | apply Kept.write
    | apply Kept.carryHub | (refine Kept.foldl _ (fun _ _ _ => ?_) _ _ ?_) | rfl | exact .inr rfl | exact .inr id
    | (exact .inr (fun _ => rfl)) | exact .inl ‹_› | (simp; done) | split | dsimp only

end Sys2Proof.Machine
end

