-- ==== Sys2Proof/Laws/KeptControl.lean ====
section
/-! SUPPORT. What a step keeps (`Kept`), carried through the solver, the joint lines, CAN, the Assize and the recorder. -/

namespace Sys2Proof.Machine

open Sys2Proof.Safety

variable {x : Exempt} {r s : State}

theorem Kept.copyToAssize (h : Kept x r s) (model : List Byte) (contacts : List Byte) : Kept x r (s.copyToAssize model contacts) := by
  unfold State.copyToAssize
  repeat' with_reducible first
    | assumption | apply Kept.ite | apply Kept.onAsz | (refine Kept.foldl _ (fun _ _ _ => ?_) _ _ ?_) | rfl
    | exact .inr rfl | exact .inr id | (exact .inr (fun _ => rfl)) | exact .inl ‹_› | (simp; done) | split
    | dsimp only

theorem Kept.readTargets (h : Kept x r s) : Kept x r s.readTargets.2 := by
  unfold State.readTargets
  dsimp only
  exact h.onSol _

theorem Kept.taskSwitch (h : Kept x r s) : Kept x r s.taskSwitch := by
  unfold State.taskSwitch
  split
  · exact h
  · exact .ite (h.onSol _) h

theorem Kept.retireCluster (h : Kept x r s) (u : Nat) : Kept x r (s.retireCluster u) := by
  unfold State.retireCluster
  repeat' with_reducible first
    | assumption | apply Kept.ite | apply Kept.retire | apply Kept.onSol | apply Kept.setDegraded
    | apply Kept.decideSafe | (refine Kept.foldl _ (fun _ _ _ => ?_) _ _ ?_) | rfl | exact .inr rfl | exact .inr id
    | (exact .inr (fun _ => rfl)) | exact .inl ‹_› | (simp; done) | split | dsimp only

theorem Kept.serviceClusters (h : Kept x r s) : Kept x r s.serviceClusters := by
  unfold State.serviceClusters
  repeat' with_reducible first
    | assumption | apply Kept.ite | apply Kept.retireCluster | (refine Kept.foldl _ (fun _ _ _ => ?_) _ _ ?_) | rfl
    | exact .inr rfl | exact .inr id | (exact .inr (fun _ => rfl)) | exact .inl ‹_› | (simp; done) | split
    | dsimp only

theorem Kept.testLine (h : Kept x r s) (l : Nat) : Kept x r (s.testLine l) := by
  unfold State.testLine
  repeat' with_reducible first
    | assumption | apply Kept.ite | apply Kept.onLine | (refine Kept.foldl _ (fun _ _ _ => ?_) _ _ ?_) | rfl
    | exact .inr rfl | exact .inr id | (exact .inr (fun _ => rfl)) | exact .inl ‹_› | (simp; done) | split
    | dsimp only

theorem Kept.finishTrain (h : Kept x r s) : Kept x r s.finishTrain := by
  unfold State.finishTrain
  repeat' with_reducible first
    | assumption | apply Kept.ite | apply Kept.finish | (refine Kept.foldl _ (fun _ _ _ => ?_) _ _ ?_) | rfl
    | exact .inr rfl | exact .inr id | (exact .inr (fun _ => rfl)) | exact .inl ‹_› | (simp; done) | split
    | dsimp only

theorem Kept.startLine (h : Kept x r s) (l : Nat) : Kept x r (s.startLine l) := by
  unfold State.startLine
  repeat' with_reducible first
    | assumption | apply Kept.ite | apply Kept.onNode | apply Kept.onLine
    | (refine Kept.foldl _ (fun _ _ _ => ?_) _ _ ?_) | rfl | exact .inr rfl | exact .inr id
    | (exact .inr (fun _ => rfl)) | exact .inl ‹_› | (simp; done) | split | dsimp only

theorem Kept.muteLine (h : Kept x r s) (l : Nat) : Kept x r (s.muteLine l) := by
  unfold State.muteLine
  repeat' with_reducible first
    | assumption | apply Kept.ite | apply Kept.onNode | (refine Kept.foldl _ (fun _ _ _ => ?_) _ _ ?_) | rfl
    | exact .inr rfl | exact .inr id | (exact .inr (fun _ => rfl)) | exact .inl ‹_› | (simp; done) | split
    | dsimp only

theorem Kept.sendLine (h : Kept x r s) (l : Nat) : Kept x r (s.sendLine l) := by
  unfold State.sendLine
  repeat' with_reducible first
    | assumption | apply Kept.ite | apply Kept.onNode | apply Kept.inject | apply Kept.onLine | apply Kept.onJl
    | (refine Kept.foldl _ (fun _ _ _ => ?_) _ _ ?_) | rfl | exact .inr rfl | exact .inr id
    | (exact .inr (fun _ => rfl)) | exact .inl ‹_› | (simp; done) | split | dsimp only

theorem Kept.captureSlots (h : Kept x r s) : Kept x r s.captureSlots := by
  unfold State.captureSlots
  repeat' with_reducible first
    | assumption | apply Kept.ite | apply Kept.capture | (refine Kept.foldl _ (fun _ _ _ => ?_) _ _ ?_) | rfl
    | exact .inr rfl | exact .inr id | (exact .inr (fun _ => rfl)) | exact .inl ‹_› | (simp; done) | split
    | dsimp only

theorem Kept.countHold (h : Kept x r s) : Kept x r s.countHold := by
  unfold State.countHold
  repeat' with_reducible first
    | assumption | apply Kept.ite | apply Kept.onSol | (refine Kept.foldl _ (fun _ _ _ => ?_) _ _ ?_) | rfl
    | exact .inr rfl | exact .inr id | (exact .inr (fun _ => rfl)) | exact .inl ‹_› | (simp; done) | split
    | dsimp only

theorem Kept.loseNode (h : Kept x r s) (n : Nat) : Kept x r (s.loseNode n) := by
  unfold State.loseNode
  repeat' with_reducible first
    | assumption | apply Kept.ite | apply Kept.onNode | apply Kept.raiseEvent | apply Kept.decideSafe
    | (refine Kept.foldl _ (fun _ _ _ => ?_) _ _ ?_) | rfl | exact .inr rfl | exact .inr id
    | (exact .inr (fun _ => rfl)) | exact .inl ‹_› | (simp; done) | split | dsimp only

theorem Kept.staleNode (h : Kept x r s) (n : Nat) : Kept x r (s.staleNode n) := by
  unfold State.staleNode
  repeat' with_reducible first
    | assumption | apply Kept.ite | apply Kept.onNode | apply Kept.loseNode
    | (refine Kept.foldl _ (fun _ _ _ => ?_) _ _ ?_) | rfl | exact .inr rfl | exact .inr id
    | (exact .inr (fun _ => rfl)) | exact .inl ‹_› | (simp; done) | split | dsimp only

theorem Kept.goodNode (h : Kept x r s) (n : Nat) (d : List Byte) : Kept x r (s.goodNode n d) := by
  unfold State.goodNode
  repeat' with_reducible first
    | assumption | apply Kept.ite | apply Kept.onNode | (refine Kept.foldl _ (fun _ _ _ => ?_) _ _ ?_) | rfl
    | exact .inr rfl | exact .inr id | (exact .inr (fun _ => rfl)) | exact .inl ‹_› | (simp; done) | split
    | dsimp only

theorem Kept.judgeSlot (h : Kept x r s) (headerOk : Bool) (n : Nat) (d : List Byte) : Kept x r (s.judgeSlot headerOk n d) := by
  unfold State.judgeSlot
  repeat' with_reducible first
    | assumption | apply Kept.ite | apply Kept.onNode | apply Kept.goodNode | apply Kept.staleNode
    | (refine Kept.foldl _ (fun _ _ _ => ?_) _ _ ?_) | rfl | exact .inr rfl | exact .inr id
    | (exact .inr (fun _ => rfl)) | exact .inl ‹_› | (simp; done) | split | dsimp only

theorem Kept.judgeFrame (h : Kept x r s) (l : Nat) (d : List Byte) : Kept x r (s.judgeFrame l d) := by
  unfold State.judgeFrame
  repeat' with_reducible first
    | assumption | apply Kept.ite | apply Kept.onLine | apply Kept.judgeSlot
    | (refine Kept.foldl _ (fun _ _ _ => ?_) _ _ ?_) | rfl | exact .inr rfl | exact .inr id
    | (exact .inr (fun _ => rfl)) | exact .inl ‹_› | (simp; done) | split | dsimp only

theorem Kept.lineDown (h : Kept x r s) (l : Nat) : Kept x r (s.lineDown l) := by
  unfold State.lineDown
  repeat' with_reducible first
    | assumption | apply Kept.ite | apply Kept.onLine | apply Kept.muteLine | apply Kept.raiseEvent
    | apply Kept.decideSafe | (refine Kept.foldl _ (fun _ _ _ => ?_) _ _ ?_) | rfl | exact .inr rfl | exact .inr id
    | (exact .inr (fun _ => rfl)) | exact .inl ‹_› | (simp; done) | split | dsimp only

theorem Kept.lateLine (h : Kept x r s) (l : Nat) : Kept x r (s.lateLine l) := by
  unfold State.lateLine
  repeat' with_reducible first
    | assumption | apply Kept.ite | apply Kept.staleNode | apply Kept.onLine
    | (refine Kept.foldl _ (fun _ _ _ => ?_) _ _ ?_) | rfl | exact .inr rfl | exact .inr id
    | (exact .inr (fun _ => rfl)) | exact .inl ‹_› | (simp; done) | split | dsimp only

theorem Kept.linesNewLink (h : Kept x r s) : Kept x r s.linesNewLink := by
  unfold State.linesNewLink
  repeat' with_reducible first
    | assumption | apply Kept.ite | apply Kept.onJl | (refine Kept.foldl _ (fun _ _ _ => ?_) _ _ ?_) | rfl
    | exact .inr rfl | exact .inr id | (exact .inr (fun _ => rfl)) | exact .inl ‹_› | (simp; done) | split
    | dsimp only

theorem Kept.canSwitch (h : Kept x r s) (k : Nat) : Kept x r (s.canSwitch k) := by
  unfold State.canSwitch
  repeat' with_reducible first
    | assumption | apply Kept.ite | apply Kept.onCan | apply Kept.finish
    | (refine Kept.foldl _ (fun _ _ _ => ?_) _ _ ?_) | rfl | exact .inr rfl | exact .inr id
    | (exact .inr (fun _ => rfl)) | exact .inl ‹_› | (simp; done) | split | dsimp only

theorem Kept.canDiscard (h : Kept x r s) (k : Nat) : Kept x r (s.canDiscard k) := by
  unfold State.canDiscard
  repeat' with_reducible first
    | assumption | apply Kept.ite | apply Kept.onCan | apply Kept.finish
    | (refine Kept.foldl _ (fun _ _ _ => ?_) _ _ ?_) | rfl | exact .inr rfl | exact .inr id
    | (exact .inr (fun _ => rfl)) | exact .inl ‹_› | (simp; done) | split | dsimp only

theorem Kept.canModeEffect (h : Kept x r s) (k : Nat) (m : Nat) : Kept x r (s.canModeEffect k m) := by
  unfold State.canModeEffect
  repeat' with_reducible first
    | assumption | apply Kept.ite | apply Kept.canDiscard | apply Kept.onCan | apply Kept.canSwitch
    | apply Kept.finish | (refine Kept.foldl _ (fun _ _ _ => ?_) _ _ ?_) | rfl | exact .inr rfl | exact .inr id
    | (exact .inr (fun _ => rfl)) | exact .inl ‹_› | (simp; done) | split | dsimp only

theorem Kept.canStopDisallowed (h : Kept x r s) : Kept x r s.canStopDisallowed := by
  unfold State.canStopDisallowed
  repeat' with_reducible first
    | assumption | apply Kept.ite | apply Kept.finish | apply Kept.onCan
    | (refine Kept.foldl _ (fun _ _ _ => ?_) _ _ ?_) | rfl | exact .inr rfl | exact .inr id
    | (exact .inr (fun _ => rfl)) | exact .inl ‹_› | (simp; done) | split | dsimp only

theorem Kept.canSent (h : Kept x r s) (k : Nat) (b : Nat) (ts : Nat) : Kept x r (s.canSent k b ts) := by
  unfold State.canSent
  repeat' with_reducible first
    | assumption | apply Kept.ite | apply Kept.onCan | apply Kept.onRec | apply Kept.finish
    | (refine Kept.foldl _ (fun _ _ _ => ?_) _ _ ?_) | rfl | exact .inr rfl | exact .inr id
    | (exact .inr (fun _ => rfl)) | exact .inl ‹_› | (simp; done) | split | dsimp only

theorem Kept.canUnhold (h : Kept x r s) (k : Nat) : Kept x r (s.canUnhold k) :=
  ⟨h.1, h.2, fun e => by simpa [Shaped, State.canUnhold] using h.3 e, h.4, h.5, h.6, h.7, h.8⟩

theorem Kept.canStore (h : Kept x r s) (k : Nat) (f : CanFrame) : Kept x r (s.canStore k f) := by
  unfold State.canStore
  repeat' with_reducible first
    | assumption | apply Kept.ite | apply Kept.onRec | apply Kept.onCan | apply Kept.raiseEvent
    | (refine Kept.foldl _ (fun _ _ _ => ?_) _ _ ?_) | rfl | exact .inr rfl | exact .inr id
    | (exact .inr (fun _ => rfl)) | exact .inl ‹_› | (simp; done) | split | dsimp only

theorem Kept.canRecDown (h : Kept x r s) (k : Nat) : Kept x r (s.canRecDown k) := by
  unfold State.canRecDown
  repeat' with_reducible first
    | assumption | apply Kept.ite | apply Kept.onCan | apply Kept.bump
    | (refine Kept.foldl _ (fun _ _ _ => ?_) _ _ ?_) | rfl | exact .inr rfl | exact .inr id
    | (exact .inr (fun _ => rfl)) | exact .inl ‹_› | (simp; done) | split | dsimp only

theorem Kept.canRecoveryFrame (h : Kept x r s) (d : List Byte) : Kept x r (s.canRecoveryFrame d) := by
  unfold State.canRecoveryFrame
  repeat' with_reducible first
    | assumption | apply Kept.ite | apply Kept.onCan | apply Kept.enterCommand
    | (refine Kept.foldl _ (fun _ _ _ => ?_) _ _ ?_) | rfl | exact .inr rfl | exact .inr id
    | (exact .inr (fun _ => rfl)) | exact .inl ‹_› | (simp; done) | split | dsimp only

theorem Kept.disagree (h : Kept x r s) : Kept x r s.disagree := by
  unfold State.disagree
  repeat' with_reducible first
    | assumption | apply Kept.ite | apply Kept.onAsz | apply Kept.sched | apply Kept.recTrigger
    | apply Kept.decideSafe | (refine Kept.foldl _ (fun _ _ _ => ?_) _ _ ?_) | rfl | exact .inr rfl | exact .inr id
    | (exact .inr (fun _ => rfl)) | exact .inl ‹_› | (simp; done) | split | dsimp only

theorem Kept.driveSafe (h : Kept x r s) : Kept x r s.driveSafe := by
  unfold State.driveSafe
  repeat' with_reducible first
    | assumption | apply Kept.ite | apply Kept.onPins | (refine Kept.foldl _ (fun _ _ _ => ?_) _ _ ?_) | rfl
    | exact .inr rfl | exact .inr id | (exact .inr (fun _ => rfl)) | exact .inl ‹_› | (simp; done) | split
    | dsimp only

theorem Kept.haltPair (h : Kept x r s) (p : Pair) : Kept x r (s.haltPair p) := by
  unfold State.haltPair
  repeat' with_reducible first
    | assumption | apply Kept.ite | apply Kept.onAsz | apply Kept.driveSafe | apply Kept.decideSafe
    | (refine Kept.foldl _ (fun _ _ _ => ?_) _ _ ?_) | rfl | exact .inr rfl | exact .inr id
    | (exact .inr (fun _ => rfl)) | exact .inl ‹_› | (simp; done) | split | dsimp only

theorem Kept.chatterCauses (h : Kept x r s) (before : Estop) (after : Estop) (c : Nat) : Kept x r (s.chatterCauses before after c) := by
  unfold State.chatterCauses
  repeat' with_reducible first
    | assumption | apply Kept.ite | apply Kept.decideSafe | (refine Kept.foldl _ (fun _ _ _ => ?_) _ _ ?_) | rfl
    | exact .inr rfl | exact .inr id | (exact .inr (fun _ => rfl)) | exact .inl ‹_› | (simp; done) | split
    | dsimp only

theorem Kept.sampleEstops (h : Kept x r s) (highA highB : Bool) : Kept x r (s.sampleEstops highA highB) := by
  unfold State.sampleEstops
  exact Kept.chatterCauses (Kept.chatterCauses (h.onAsz _ rfl (.inr id) (.inr id) (.inr id)) _ _ _) _ _ _

theorem Kept.broadcast (h : Kept x r s) : Kept x r s.broadcast := by
  unfold State.broadcast
  repeat' with_reducible first
    | assumption | apply Kept.ite | apply Kept.onCan | (refine Kept.foldl _ (fun _ _ _ => ?_) _ _ ?_) | rfl
    | exact .inr rfl | exact .inr id | (exact .inr (fun _ => rfl)) | exact .inl ‹_› | (simp; done) | split
    | dsimp only

theorem Kept.endSafe (h : Kept x r s) (hx : x.safe = true) : Kept x r s.endSafe := by
  unfold State.endSafe
  repeat' with_reducible first
    | assumption | apply Kept.ite | apply Kept.onAsz | apply Kept.driveSafe | apply Kept.finish
    | (refine Kept.foldl _ (fun _ _ _ => ?_) _ _ ?_) | rfl | exact .inr rfl | exact .inr id
    | (exact .inr (fun _ => rfl)) | exact .inl ‹_› | (simp; done) | split | dsimp only

theorem Kept.startRing (h : Kept x r s) (d : List Byte) (base : Nat) : Kept x r (s.startRing d base) := by
  unfold State.startRing
  repeat' with_reducible first
    | assumption | apply Kept.ite | apply Kept.dropAlloc | apply Kept.addAlloc | apply Kept.onRec | apply Kept.bump
    | (refine Kept.foldl _ (fun _ _ _ => ?_) _ _ ?_) | rfl | exact .inr rfl | exact .inr id
    | (exact .inr (fun _ => rfl)) | exact .inl ‹_› | (simp; done) | split | dsimp only

theorem Kept.runExport (h : Kept x r s) (o : Open) : Kept x r (s.runExport o) := by
  unfold State.runExport
  repeat' with_reducible first
    | assumption | apply Kept.ite | apply Kept.onHl | apply Kept.complete | apply Kept.carryRead | apply Kept.write
    | apply Kept.hostRequest | (refine Kept.foldl _ (fun _ _ _ => ?_) _ _ ?_) | rfl | exact .inr rfl | exact .inr id
    | (exact .inr (fun _ => rfl)) | exact .inl ‹_› | (simp; done) | split | dsimp only

theorem Kept.runExports (h : Kept x r s) : Kept x r s.runExports := by
  unfold State.runExports
  repeat' with_reducible first
    | assumption | apply Kept.ite | apply Kept.runExport | (refine Kept.foldl _ (fun _ _ _ => ?_) _ _ ?_) | rfl
    | exact .inr rfl | exact .inr id | (exact .inr (fun _ => rfl)) | exact .inl ‹_› | (simp; done) | split
    | dsimp only

theorem Kept.ringWrite (h : Kept x r s) (a : Nat) (bytes : List Byte) : Kept x r (s.ringWrite a bytes) := by
  unfold State.ringWrite
  repeat' with_reducible first
    | assumption | apply Kept.ite | apply Kept.dramWrite | apply Kept.carryWrite
    | (refine Kept.foldl _ (fun _ _ _ => ?_) _ _ ?_) | rfl | exact .inr rfl | exact .inr id
    | (exact .inr (fun _ => rfl)) | exact .inl ‹_› | (simp; done) | split | dsimp only

theorem Kept.drainRecorder (h : Kept x r s) : Kept x r s.drainRecorder := by
  unfold State.drainRecorder
  repeat' with_reducible first
    | assumption | apply Kept.ite | apply Kept.ringWrite | apply Kept.onRec
    | (refine Kept.foldl _ (fun _ _ _ => ?_) _ _ ?_) | rfl | exact .inr rfl | exact .inr id
    | (exact .inr (fun _ => rfl)) | exact .inl ‹_› | (simp; done) | split | dsimp only

end Sys2Proof.Machine
end

