-- ==== Sys2Proof/Laws/KeptWork.lean ====
section
/-! SUPPORT. What a step keeps (`Kept`), carried through the KV manager, jobs and schedules. -/

namespace Sys2Proof.Machine

open Sys2Proof.Safety

variable {x : Exempt} {r s : State}

theorem Kept.poolOnDie (h : Kept x r s) (p : Pool) (d : Nat) (base : Nat) : Kept x r (s.poolOnDie p d base) := by
  unfold State.poolOnDie
  repeat' with_reducible first
    | assumption | apply Kept.ite | apply Kept.addAlloc | apply Kept.onKv | apply Kept.onPoolDie
    | (refine Kept.foldl _ (fun _ _ _ => ?_) _ _ ?_) | rfl | exact .inr rfl | exact .inr id
    | (exact .inr (fun _ => rfl)) | exact .inl ‹_› | (simp; done) | split | dsimp only

theorem Kept.onSeq (h : Kept x r s) (id : Nat) (f : KvSeq → KvSeq) : Kept x r (s.onSeq id f) := by
  unfold State.onSeq
  repeat' with_reducible first
    | assumption | apply Kept.ite | apply Kept.onKv | (refine Kept.foldl _ (fun _ _ _ => ?_) _ _ ?_) | rfl
    | exact .inr rfl | exact .inr id | (exact .inr (fun _ => rfl)) | exact .inl ‹_› | (simp; done) | split
    | dsimp only

theorem Kept.clearTables (h : Kept x r s) (p : Pool) (q : KvSeq) : Kept x r (s.clearTables p q) := by
  unfold State.clearTables
  repeat' with_reducible first
    | assumption | apply Kept.ite | apply Kept.write | (refine Kept.foldl _ (fun _ _ _ => ?_) _ _ ?_) | rfl
    | exact .inr rfl | exact .inr id | (exact .inr (fun _ => rfl)) | exact .inl ‹_› | (simp; done) | split
    | dsimp only

theorem Kept.shareElem (h : Kept x r s) (q : KvSeq) (child : KvSeq) (pl : Nat × Nat × Nat) : Kept x r (s.shareElem q child pl) := by
  unfold State.shareElem
  repeat' with_reducible first
    | assumption | apply Kept.ite | apply Kept.writeNat | apply Kept.ftRefAdd
    | (refine Kept.foldl _ (fun _ _ _ => ?_) _ _ ?_) | rfl | exact .inr rfl | exact .inr id
    | (exact .inr (fun _ => rfl)) | exact .inl ‹_› | (simp; done) | split | dsimp only

theorem Kept.removeSeq (h : Kept x r s) (id : Nat) : Kept x r (s.removeSeq id) := by
  unfold State.removeSeq
  repeat' with_reducible first
    | assumption | apply Kept.ite | apply Kept.ftRefSub | apply Kept.onKv
    | (refine Kept.foldl _ (fun _ _ _ => ?_) _ _ ?_) | rfl | exact .inr rfl | exact .inr id
    | (exact .inr (fun _ => rfl)) | exact .inl ‹_› | (simp; done) | split | dsimp only

theorem Kept.beginOut (h : Kept x r s) (index : Nat) : Kept x r (s.beginOut index) := by
  unfold State.beginOut
  repeat' with_reducible first
    | assumption | apply Kept.ite | apply Kept.setEntry | apply Kept.onKv | apply Kept.bump
    | (refine Kept.foldl _ (fun _ _ _ => ?_) _ _ ?_) | rfl | exact .inr rfl | exact .inr id
    | (exact .inr (fun _ => rfl)) | exact .inl ‹_› | (simp; done) | split | dsimp only

theorem Kept.checkSuspended (h : Kept x r s) (id : Nat) : Kept x r (s.checkSuspended id) := by
  unfold State.checkSuspended
  repeat' with_reducible first
    | assumption | apply Kept.ite | apply Kept.onSeq | apply Kept.finish
    | (refine Kept.foldl _ (fun _ _ _ => ?_) _ _ ?_) | rfl | exact .inr rfl | exact .inr id
    | (exact .inr (fun _ => rfl)) | exact .inl ‹_› | (simp; done) | split | dsimp only

theorem Kept.driveOut (h : Kept x r s) (id : Nat) : Kept x r (s.driveOut id) := by
  unfold State.driveOut
  repeat' with_reducible first
    | assumption | apply Kept.ite | apply Kept.beginOut | apply Kept.checkSuspended
    | (refine Kept.foldl _ (fun _ _ _ => ?_) _ _ ?_) | rfl | exact .inr rfl | exact .inr id
    | (exact .inr (fun _ => rfl)) | exact .inl ‹_› | (simp; done) | split | dsimp only

theorem Kept.suspendSeq (h : Kept x r s) (id : Nat) : Kept x r (s.suspendSeq id) := by
  unfold State.suspendSeq
  repeat' with_reducible first
    | assumption | apply Kept.ite | apply Kept.stopJob | apply Kept.onSeq | apply Kept.driveOut
    | (refine Kept.foldl _ (fun _ _ _ => ?_) _ _ ?_) | rfl | exact .inr rfl | exact .inr id
    | (exact .inr (fun _ => rfl)) | exact .inl ‹_› | (simp; done) | split | dsimp only

theorem Kept.checkActive (h : Kept x r s) (id : Nat) : Kept x r (s.checkActive id) := by
  unfold State.checkActive
  repeat' with_reducible first
    | assumption | apply Kept.ite | apply Kept.onSeq | apply Kept.finish
    | (refine Kept.foldl _ (fun _ _ _ => ?_) _ _ ?_) | rfl | exact .inr rfl | exact .inr id
    | (exact .inr (fun _ => rfl)) | exact .inl ‹_› | (simp; done) | split | dsimp only

theorem Kept.beginIn (h : Kept x r s) (index : Nat) : Kept x r (s.beginIn index) := by
  unfold State.beginIn
  repeat' with_reducible first
    | assumption | apply Kept.ite | apply Kept.onPoolDie | apply Kept.setEntry | apply Kept.onKv | apply Kept.bump
    | (refine Kept.foldl _ (fun _ _ _ => ?_) _ _ ?_) | rfl | exact .inr rfl | exact .inr id
    | (exact .inr (fun _ => rfl)) | exact .inl ‹_› | (simp; done) | split | dsimp only

theorem Kept.resumeSeq (h : Kept x r s) (id : Nat) : Kept x r (s.resumeSeq id) := by
  unfold State.resumeSeq
  repeat' with_reducible first
    | assumption | apply Kept.ite | apply Kept.beginIn | apply Kept.onSeq | apply Kept.checkActive
    | (refine Kept.foldl _ (fun _ _ _ => ?_) _ _ ?_) | rfl | exact .inr rfl | exact .inr id
    | (exact .inr (fun _ => rfl)) | exact .inl ‹_› | (simp; done) | split | dsimp only

theorem Kept.resumeCheck (h : Kept x r s) : Kept x r s.resumeCheck := by
  unfold State.resumeCheck
  repeat' with_reducible first
    | assumption | apply Kept.ite | apply Kept.resumeSeq | apply Kept.driveOut
    | (refine Kept.foldl _ (fun _ _ _ => ?_) _ _ ?_) | rfl | exact .inr rfl | exact .inr id
    | (exact .inr (fun _ => rfl)) | exact .inl ‹_› | (simp; done) | split | dsimp only

theorem Kept.afterXfer (h : Kept x r s) : Kept x r s.afterXfer := by
  unfold State.afterXfer
  repeat' with_reducible first
    | assumption | apply Kept.ite | apply Kept.checkSuspended | apply Kept.checkActive | apply Kept.removeSeq
    | apply Kept.finish | (refine Kept.foldl _ (fun _ _ _ => ?_) _ _ ?_) | rfl | exact .inr rfl | exact .inr id
    | (exact .inr (fun _ => rfl)) | exact .inl ‹_› | (simp; done) | split | dsimp only

theorem Kept.countMove (h : Kept x r s) (d : Nat) : Kept x r (s.countMove d) := by
  unfold State.countMove
  repeat' with_reducible first
    | assumption | apply Kept.ite | apply Kept.onKv | (refine Kept.foldl _ (fun _ _ _ => ?_) _ _ ?_) | rfl
    | exact .inr rfl | exact .inr id | (exact .inr (fun _ => rfl)) | exact .inl ‹_› | (simp; done) | split
    | dsimp only

theorem Kept.dropXfer (h : Kept x r s) (index : Nat) : Kept x r (s.dropXfer index) := by
  unfold State.dropXfer
  repeat' with_reducible first
    | assumption | apply Kept.ite | apply Kept.onKv | (refine Kept.foldl _ (fun _ _ _ => ?_) _ _ ?_) | rfl
    | exact .inr rfl | exact .inr id | (exact .inr (fun _ => rfl)) | exact .inl ‹_› | (simp; done) | split
    | dsimp only

theorem Kept.inDone (h : Kept x r s) (index : Nat) (y : Xfer) : Kept x r (s.inDone index y) := by
  unfold State.inDone
  repeat' with_reducible first
    | assumption | apply Kept.ite | apply Kept.setEntry | apply Kept.onKv | apply Kept.dropXfer
    | apply Kept.countMove | apply Kept.afterXfer | (refine Kept.foldl _ (fun _ _ _ => ?_) _ _ ?_) | rfl
    | exact .inr rfl | exact .inr id | (exact .inr (fun _ => rfl)) | exact .inl ‹_› | (simp; done) | split
    | dsimp only

theorem Kept.frameIn (h : Kept x r s) (index : Nat) (data : List Byte) : Kept x r (s.frameIn index data) := by
  unfold State.frameIn
  repeat' with_reducible first
    | assumption | apply Kept.ite | apply Kept.write | apply Kept.carryWrite
    | (refine Kept.foldl _ (fun _ _ _ => ?_) _ _ ?_) | rfl | exact .inr rfl | exact .inr id
    | (exact .inr (fun _ => rfl)) | exact .inl ‹_› | (simp; done) | split | dsimp only

theorem Kept.copyOnWrite (h : Kept x r s) {q : KvSeq} {pl : Nat × Nat × Nat} {old : Nat} {bad : List Nat} {t : State}
    (e : s.copyOnWrite q pl old bad = some t) : Kept x r t := by
  unfold State.copyOnWrite at e
  obtain ⟨p, hp, rfl⟩ := Option.map_eq_some_iff.mp e
  dsimp only
  refine Kept.bump (Kept.onKv (Kept.ftRelease (Kept.ftRefSub (Kept.writeNat ?_ _ _ _) _) _) _)
  exact .ite (Kept.copyScales (Kept.copyFrame (Kept.ftLookup (h.ftAlloc hp) _ _) _ _ _ _) _ _ _)
    (Kept.copyFrame (Kept.ftLookup (h.ftAlloc hp) _ _) _ _ _ _)

theorem Kept.resolvePage (h : Kept x r s) {q : KvSeq} {pl : Nat × Nat × Nat} {bad : List Nat} {t : State}
    (e : s.resolvePage q pl bad = some t) : Kept x r t := by
  unfold State.resolvePage at e
  dsimp only at e
  split at e
  · obtain ⟨p, hp, rfl⟩ := Option.map_eq_some_iff.mp e
    exact ((h.ftAlloc hp).writeNat _ _ _).bump
  · split at e
    · exact h.copyOnWrite e
    · cases e
      exact .ite (h.setEntry _ _) h

theorem Kept.startPlaced (h : Kept x r s) (k : JobKey) : Kept x r (s.startPlaced k) := by
  unfold State.startPlaced
  repeat' with_reducible first
    | assumption | apply Kept.ite | apply Kept.onCore | apply Kept.bump
    | (refine Kept.foldl _ (fun _ _ _ => ?_) _ _ ?_) | rfl | exact .inr rfl | exact .inr id
    | (exact .inr (fun _ => rfl)) | exact .inl ‹_› | (simp; done) | split | dsimp only

theorem Kept.shrinkPool (h : Kept x r s) (p : Pool) (target : Nat) : Kept x r (s.shrinkPool p target) := by
  unfold State.shrinkPool
  repeat' with_reducible first
    | assumption | apply Kept.ite | apply Kept.onPool | apply Kept.onHl
    | (refine Kept.foldl _ (fun _ _ _ => ?_) _ _ ?_) | rfl | exact .inr rfl | exact .inr id
    | (exact .inr (fun _ => rfl)) | exact .inl ‹_› | (simp; done) | split | dsimp only

theorem Kept.checkCompacted (h : Kept x r s) : Kept x r s.checkCompacted := by
  unfold State.checkCompacted
  repeat' with_reducible first
    | assumption | apply Kept.ite | apply Kept.shrinkPool | apply Kept.onKv | apply Kept.finish
    | (refine Kept.foldl _ (fun _ _ _ => ?_) _ _ ?_) | rfl | exact .inr rfl | exact .inr id
    | (exact .inr (fun _ => rfl)) | exact .inl ‹_› | (simp; done) | split | dsimp only

theorem Kept.failMove (h : Kept x r s) (y : Compaction) (index : Nat) : Kept x r (s.failMove y index) := by
  unfold State.failMove
  repeat' with_reducible first
    | assumption | apply Kept.ite | apply Kept.onKv | apply Kept.finish
    | (refine Kept.foldl _ (fun _ _ _ => ?_) _ _ ?_) | rfl | exact .inr rfl | exact .inr id
    | (exact .inr (fun _ => rfl)) | exact .inl ‹_› | (simp; done) | split | dsimp only

theorem Kept.coreLookup (h : Kept x r s) (g index pool : Nat) : Kept x r (s.coreLookup g index pool).2 := by
  unfold State.coreLookup
  dsimp only
  repeat' split
  all_goals dsimp only
  · exact h.tileFault _ _
  · exact h.tileFault _ _
  · exact (h.onKv _).tileFault _ _
  · exact h.onKv _
  · exact h.tileFault _ _
  · exact ((h.ftLookup _ _).onCore _ _).onKv _

theorem Kept.acceptJob (h : Kept x r s) (c : Cmd) (j : Job) (areas : List Nat) : Kept x r (s.acceptJob c j areas) := by
  unfold State.acceptJob
  repeat' with_reducible first
    | assumption | apply Kept.ite | apply Kept.addAlloc | apply Kept.onSch | apply Kept.onCtx | apply Kept.wdStart
    | apply Kept.flushRing | (refine Kept.foldl _ (fun _ _ _ => ?_) _ _ ?_) | rfl | exact .inr rfl | exact .inr id
    | (exact .inr (fun _ => rfl)) | exact .inl ‹_› | (simp; done) | split | dsimp only

theorem Kept.validate (h : Kept x r s) (c : Cmd) : Kept x r (s.validate c) := by
  unfold State.validate
  repeat' with_reducible first
    | assumption | apply Kept.ite | apply Kept.onSch | apply Kept.complete | apply Kept.bump
    | (refine Kept.foldl _ (fun _ _ _ => ?_) _ _ ?_) | rfl | exact .inr rfl | exact .inr id
    | (exact .inr (fun _ => rfl)) | exact .inl ‹_› | (simp; done) | split | dsimp only

theorem Kept.sendP0Mask (h : Kept x r s) : Kept x r s.sendP0Mask :=
  ⟨h.1, h.2, fun e => by simpa [Shaped, State.sendP0Mask] using h.3 e, h.4, h.5, h.6, h.7, h.8⟩

theorem Kept.tableSwitch (h : Kept x r s) : Kept x r s.tableSwitch := by
  unfold State.tableSwitch
  repeat' with_reducible first
    | assumption | apply Kept.ite | apply Kept.onSch | apply Kept.sendP0Mask | apply Kept.sched | apply Kept.finish
    | (refine Kept.foldl _ (fun _ _ _ => ?_) _ _ ?_) | rfl | exact .inr rfl | exact .inr id
    | (exact .inr (fun _ => rfl)) | exact .inl ‹_› | (simp; done) | split | dsimp only

theorem Kept.putSnapshot (h : Kept x r s) (j : Job) : Kept x r (s.putSnapshot j) := by
  unfold State.putSnapshot
  repeat' with_reducible first
    | assumption | apply Kept.ite | apply Kept.write | apply Kept.carryWrite
    | (refine Kept.foldl _ (fun _ _ _ => ?_) _ _ ?_) | rfl | exact .inr rfl | exact .inr id
    | (exact .inr (fun _ => rfl)) | exact .inl ‹_› | (simp; done) | split | dsimp only

theorem Kept.writeSnapshot (h : Kept x r s) (j : Job) (n : Nat) : Kept x r (s.writeSnapshot j n) := by
  unfold State.writeSnapshot
  repeat' with_reducible first
    | assumption | apply Kept.ite | apply Kept.onJob | apply Kept.putSnapshot
    | (refine Kept.foldl _ (fun _ _ _ => ?_) _ _ ?_) | rfl | exact .inr rfl | exact .inr id
    | (exact .inr (fun _ => rfl)) | exact .inl ‹_› | (simp; done) | split | dsimp only

theorem Kept.chargeLink (h : Kept x r s) (k : JobKey) : Kept x r (s.chargeLink k) := by
  unfold State.chargeLink
  repeat' with_reducible first
    | assumption | apply Kept.ite | apply Kept.onJob | (refine Kept.foldl _ (fun _ _ _ => ?_) _ _ ?_) | rfl
    | exact .inr rfl | exact .inr id | (exact .inr (fun _ => rfl)) | exact .inl ‹_› | (simp; done) | split
    | dsimp only

theorem Kept.startFirst (h : Kept x r s) (k : JobKey) (gs : List Nat) : Kept x r (s.startFirst k gs) := by
  unfold State.startFirst
  repeat' with_reducible first
    | assumption | apply Kept.ite | apply Kept.loadSpad | apply Kept.onCore | apply Kept.bump
    | apply Kept.putSnapshot | apply Kept.requestEnd | (refine Kept.foldl _ (fun _ _ _ => ?_) _ _ ?_) | rfl
    | exact .inr rfl | exact .inr id | (exact .inr (fun _ => rfl)) | exact .inl ‹_› | (simp; done) | split
    | dsimp only

theorem Kept.startRestore (h : Kept x r s) (k : JobKey) (gs : List Nat) : Kept x r (s.startRestore k gs) := by
  unfold State.startRestore
  repeat' with_reducible first
    | assumption | apply Kept.ite | apply Kept.onJob | apply Kept.onCore
    | (refine Kept.foldl _ (fun _ _ _ => ?_) _ _ ?_) | rfl | exact .inr rfl | exact .inr id
    | (exact .inr (fun _ => rfl)) | exact .inl ‹_› | (simp; done) | split | dsimp only

theorem Kept.placeJob (h : Kept x r s) (j : Job) (gs : List Nat) : Kept x r (s.placeJob j gs) := by
  unfold State.placeJob
  repeat' with_reducible first
    | assumption | apply Kept.ite | apply Kept.onJob | apply Kept.startFirst | apply Kept.startRestore
    | apply Kept.chargeLink | (refine Kept.foldl _ (fun _ _ _ => ?_) _ _ ?_) | rfl | exact .inr rfl | exact .inr id
    | (exact .inr (fun _ => rfl)) | exact .inl ‹_› | (simp; done) | split | dsimp only

theorem Kept.copyBatch (h : Kept x r s) (j : Job) : Kept x r (s.copyBatch j) := by
  unfold State.copyBatch
  repeat' with_reducible first
    | assumption | apply Kept.ite | apply Kept.write | apply Kept.carryWrite | apply Kept.onJob
    | (refine Kept.foldl _ (fun _ _ _ => ?_) _ _ ?_) | rfl | exact .inr rfl | exact .inr id
    | (exact .inr (fun _ => rfl)) | exact .inl ‹_› | (simp; done) | split | dsimp only

theorem Kept.startRelease (h : Kept x r s) (k : JobKey) : Kept x r (s.startRelease k) := by
  unfold State.startRelease
  repeat' with_reducible first
    | assumption | apply Kept.ite | apply Kept.putSnapshot | apply Kept.onCore | apply Kept.bump
    | (refine Kept.foldl _ (fun _ _ _ => ?_) _ _ ?_) | rfl | exact .inr rfl | exact .inr id
    | (exact .inr (fun _ => rfl)) | exact .inl ‹_› | (simp; done) | split | dsimp only

theorem Kept.releaseJob (h : Kept x r s) (j : Job) : Kept x r (s.releaseJob j) := by
  unfold State.releaseJob
  repeat' with_reducible first
    | assumption | apply Kept.ite | apply Kept.onSch | apply Kept.onJob | apply Kept.sched | apply Kept.copyBatch
    | apply Kept.onAsz | apply Kept.stopJob | apply Kept.startRelease
    | (refine Kept.foldl _ (fun _ _ _ => ?_) _ _ ?_) | rfl | exact .inr rfl | exact .inr id
    | (exact .inr (fun _ => rfl)) | exact .inl ‹_› | (simp; done) | split | dsimp only

theorem Kept.readUnits (h : Kept x r s) (index : Nat) (y : Xfer) : Kept x r (s.readUnits index y) := by
  unfold State.readUnits
  repeat' with_reducible first
    | assumption | apply Kept.ite | apply Kept.hostRequest | (refine Kept.foldl _ (fun _ _ _ => ?_) _ _ ?_) | rfl
    | exact .inr rfl | exact .inr id | (exact .inr (fun _ => rfl)) | exact .inl ‹_› | (simp; done) | split
    | dsimp only

theorem Kept.engineLookup (h : Kept x r s) (e index pool : Nat) : Kept x r (s.engineLookup e index pool) := by
  unfold State.engineLookup
  refine .ite (h.onKv _) (.ite (h.onKv _) ?_)
  have k := h.ftLookup index pool
  split <;> rename_i e <;> rw [e] at k <;> exact k.onKv _

theorem Kept.resolvingPage {q : KvSeq} {bad : List Nat} {u : Resolving} (h : Kept x r u.s) (pl : Nat × Nat × Nat) :
    Kept x r (u.page q bad pl).s := by
  unfold Resolving.page
  split
  · exact h
  · split
    · rename_i e
      exact h.resolvePage e
    · exact h

theorem Kept.resolvingBinding {bad : List Nat} {u : Resolving} (h : Kept x r u.s) (b : Binding) :
    Kept x r (u.binding bad b).s := by
  unfold Resolving.binding
  split
  · exact h
  · rename_i q _
    have k := Kept.resolvingFold (Resolving.page q bad) (fun _ _ hu => hu.resolvingPage _)
      (pagePlaces ((u.s.pool q.pool).getD {}) b.firstPage b.endPage) u h
    dsimp only
    split
    · exact k
    · exact k.write _ _

theorem Kept.resolveAll (h : Kept x r s) (bs : List Binding) (bad : List Nat) : Kept x r (s.resolveAll bs bad).s := by
  unfold State.resolveAll
  exact Kept.resolvingFold _ (fun _ _ hu => hu.resolvingBinding _) _ _ h

end Sys2Proof.Machine
end

