-- ==== Sys2Proof/Laws/KeptInputs.lean ====
section
/-! SUPPORT. What a step keeps (`Kept`), carried through intake, firmware, replay and tile instructions. -/

namespace Sys2Proof.Machine

open Sys2Proof.Safety

variable {x : Exempt} {r s : State}

theorem Kept.retirePipe (h : Kept x r s) (u : Nat) : Kept x r (s.retirePipe u) := by
  unfold State.retirePipe
  repeat' with_reducible first
    | assumption | apply Kept.ite | apply Kept.retire | apply Kept.onPipe | apply Kept.onSpr | apply Kept.onItk
    | apply Kept.setDegraded | (refine Kept.foldl _ (fun _ _ _ => ?_) _ _ ?_) | rfl | exact .inr rfl | exact .inr id
    | (exact .inr (fun _ => rfl)) | exact .inl ‹_› | (simp; done) | split | dsimp only

theorem Kept.leavePipe (h : Kept x r s) (i : Nat) (seq : Nat) : Kept x r (s.leavePipe i seq) := by
  unfold State.leavePipe
  repeat' with_reducible first
    | assumption | apply Kept.ite | apply Kept.onPipe | apply Kept.retirePipe
    | (refine Kept.foldl _ (fun _ _ _ => ?_) _ _ ?_) | rfl | exact .inr rfl | exact .inr id
    | (exact .inr (fun _ => rfl)) | exact .inl ‹_› | (simp; done) | split | dsimp only

theorem Kept.onFrame (h : Kept x r s) (i : Nat) (seq : Nat) (f : Frame → Frame) : Kept x r (s.onFrame i seq f) := by
  unfold State.onFrame
  repeat' with_reducible first
    | assumption | apply Kept.ite | apply Kept.onStream | (refine Kept.foldl _ (fun _ _ _ => ?_) _ _ ?_) | rfl
    | exact .inr rfl | exact .inr id | (exact .inr (fun _ => rfl)) | exact .inl ‹_› | (simp; done) | split
    | dsimp only

theorem Kept.recordIntake (h : Kept x r s) (i : Nat) (f : Frame) (p : Profile) : Kept x r (s.recordIntake i f p) := by
  unfold State.recordIntake
  repeat' with_reducible first
    | assumption | apply Kept.ite | apply Kept.record | (refine Kept.foldl _ (fun _ _ _ => ?_) _ _ ?_) | rfl
    | exact .inr rfl | exact .inr id | (exact .inr (fun _ => rfl)) | exact .inl ‹_› | (simp; done) | split
    | dsimp only

theorem Kept.publish (h : Kept x r s) (i : Nat) (f : Frame) : Kept x r (s.publish i f) := by
  unfold State.publish
  repeat' with_reducible first
    | assumption | apply Kept.ite | apply Kept.putBoard | apply Kept.bump | apply Kept.onStream | apply Kept.onFrame
    | apply Kept.recordIntake | apply Kept.kick | (refine Kept.foldl _ (fun _ _ _ => ?_) _ _ ?_) | rfl
    | exact .inr rfl | exact .inr id | (exact .inr (fun _ => rfl)) | exact .inl ‹_› | (simp; done) | split
    | dsimp only

theorem Kept.publishReady (i k : Nat) : ∀ {s : State}, Kept x r s → Kept x r (State.publishReady i k s) := by
  induction k with
  | zero => intro s h; exact h.onStream _ _
  | succ k ih =>
    intro s h
    unfold State.publishReady
    split
    · exact h.onStream _ _
    · exact ih (h.publish _ _)

theorem Kept.publishAll (h : Kept x r s) (i : Nat) : Kept x r (s.publishAll i) := by
  unfold State.publishAll
  repeat' with_reducible first
    | assumption | apply Kept.ite | apply Kept.publishReady | (refine Kept.foldl _ (fun _ _ _ => ?_) _ _ ?_) | rfl
    | exact .inr rfl | exact .inr id | (exact .inr (fun _ => rfl)) | exact .inl ‹_› | (simp; done) | split
    | dsimp only

theorem Kept.resolve (h : Kept x r s) (i : Nat) (seq : Nat) (cause : Nat) (ts : Nat) : Kept x r (s.resolve i seq cause ts) := by
  unfold State.resolve
  repeat' with_reducible first
    | assumption | apply Kept.ite | apply Kept.onFrame | apply Kept.leavePipe | apply Kept.onStream
    | apply Kept.publishAll | (refine Kept.foldl _ (fun _ _ _ => ?_) _ _ ?_) | rfl | exact .inr rfl | exact .inr id
    | (exact .inr (fun _ => rfl)) | exact .inl ‹_› | (simp; done) | split | dsimp only

theorem Kept.voidLate (h : Kept x r s) (i : Nat) (f : Frame) : Kept x r (s.voidLate i f) := by
  unfold State.voidLate
  repeat' with_reducible first
    | assumption | apply Kept.ite | apply Kept.resolve | (refine Kept.foldl _ (fun _ _ _ => ?_) _ _ ?_) | rfl
    | exact .inr rfl | exact .inr id | (exact .inr (fun _ => rfl)) | exact .inl ‹_› | (simp; done) | split
    | dsimp only

theorem Kept.void (h : Kept x r s) (i : Nat) (seq : Nat) (cause : Nat) : Kept x r (s.void i seq cause) := by
  unfold State.void
  repeat' with_reducible first
    | assumption | apply Kept.ite | apply Kept.voidLate | apply Kept.resolve | apply Kept.bump
    | (refine Kept.foldl _ (fun _ _ _ => ?_) _ _ ?_) | rfl | exact .inr rfl | exact .inr id
    | (exact .inr (fun _ => rfl)) | exact .inl ‹_› | (simp; done) | split | dsimp only

theorem Kept.voidOpen (h : Kept x r s) (port : Nat) (vc : Nat) (cause : Nat) : Kept x r (s.voidOpen port vc cause) := by
  unfold State.voidOpen
  repeat' with_reducible first
    | assumption | apply Kept.ite | apply Kept.void | (refine Kept.foldl _ (fun _ _ _ => ?_) _ _ ?_) | rfl
    | exact .inr rfl | exact .inr id | (exact .inr (fun _ => rfl)) | exact .inl ‹_› | (simp; done) | split
    | dsimp only

theorem Kept.header (h : Kept x r s) (port vc : Nat) (e : HeaderEcc) : Kept x r (s.header port vc e).2 := by
  cases e
  · exact h
  · exact h.onPort _ _
  · exact (h.onPort _ _).voidOpen _ _ _

theorem Kept.startFrame (h : Kept x r s) (i : Nat) : Kept x r (s.startFrame i) := by
  unfold State.startFrame
  repeat' with_reducible first
    | assumption | apply Kept.ite | apply Kept.bump | apply Kept.inject | apply Kept.onItk | apply Kept.onStream
    | apply Kept.void | (refine Kept.foldl _ (fun _ _ _ => ?_) _ _ ?_) | rfl | exact .inr rfl | exact .inr id
    | (exact .inr (fun _ => rfl)) | exact .inl ‹_› | (simp; done) | split | dsimp only

theorem Kept.addLine (h : Kept x r s) (i : Nat) (f : Frame) (y : StreamCfg) (payload : List Byte) : Kept x r (s.addLine i f y payload) := by
  unfold State.addLine
  repeat' with_reducible first
    | assumption | apply Kept.ite | apply Kept.void | apply Kept.onFrame
    | (refine Kept.foldl _ (fun _ _ _ => ?_) _ _ ?_) | rfl | exact .inr rfl | exact .inr id
    | (exact .inr (fun _ => rfl)) | exact .inl ‹_› | (simp; done) | split | dsimp only

theorem Kept.takeBuf (h : Kept x r s) (i : Nat) (f : Frame) : Kept x r (s.takeBuf i f) := by
  unfold State.takeBuf
  repeat' with_reducible first
    | assumption | apply Kept.ite | apply Kept.void | apply Kept.onFrame
    | (refine Kept.foldl _ (fun _ _ _ => ?_) _ _ ?_) | rfl | exact .inr rfl | exact .inr id
    | (exact .inr (fun _ => rfl)) | exact .inl ‹_› | (simp; done) | split | dsimp only

theorem Kept.runFw {op : Nat} {c : Cmd} {body : State → State} (h : Kept x r s)
    (hb : ∀ u, Kept x r u → Kept x r (body u)) : Kept x r (runFw op c s body) := by
  unfold Machine.runFw
  exact .ite h (h.runCmd hb)

theorem Kept.bitmapFrames (h : Kept x r s) (bm : List Byte) : Kept x r (s.bitmapFrames bm) := by
  unfold State.bitmapFrames
  repeat' with_reducible first
    | assumption | apply Kept.ite | apply Kept.onCan | (refine Kept.foldl _ (fun _ _ _ => ?_) _ _ ?_) | rfl
    | exact .inr rfl | exact .inr id | (exact .inr (fun _ => rfl)) | exact .inl ‹_› | (simp; done) | split
    | dsimp only

theorem Kept.recordLink (h : Kept x r s) : Kept x r s.recordLink := by
  unfold State.recordLink
  repeat' with_reducible first
    | assumption | apply Kept.ite | apply Kept.onRec | (refine Kept.foldl _ (fun _ _ _ => ?_) _ _ ?_) | rfl
    | exact .inr rfl | exact .inr id | (exact .inr (fun _ => rfl)) | exact .inl ‹_› | (simp; done) | split
    | dsimp only

theorem Kept.endReplay (h : Kept x r s) (status : Nat) : Kept x r (s.endReplay status) := by
  unfold State.endReplay
  repeat' with_reducible first
    | assumption | apply Kept.ite | apply Kept.onRec | apply Kept.finish
    | (refine Kept.foldl _ (fun _ _ _ => ?_) _ _ ?_) | rfl | exact .inr rfl | exact .inr id
    | (exact .inr (fun _ => rfl)) | exact .inl ‹_› | (simp; done) | split | dsimp only

theorem Kept.replayNode (h : Kept x r s) (n : Nat) (e : List Byte) : Kept x r (s.replayNode n e) := by
  unfold State.replayNode
  repeat' with_reducible first
    | assumption | apply Kept.ite | apply Kept.goodNode | apply Kept.staleNode
    | (refine Kept.foldl _ (fun _ _ _ => ?_) _ _ ?_) | rfl | exact .inr rfl | exact .inr id
    | (exact .inr (fun _ => rfl)) | exact .inl ‹_› | (simp; done) | split | dsimp only

theorem Kept.replayEntries (ns : List Nat) : ∀ {s : State} (d : List Byte), Kept x r s →
    Kept x r (s.replayEntries ns d) := by
  induction ns with
  | nil => intro s d h; exact h
  | cons n ns ih => intro s d h; exact ih _ (h.replayNode _ _)

theorem Kept.replayLink (h : Kept x r s) (q : List Byte) : Kept x r (s.replayLink q) := by
  unfold State.replayLink
  repeat' with_reducible first
    | assumption | apply Kept.ite | apply Kept.replayEntries | apply Kept.sampleEstops | apply Kept.bump
    | (refine Kept.foldl _ (fun _ _ _ => ?_) _ _ ?_) | rfl | exact .inr rfl | exact .inr id
    | (exact .inr (fun _ => rfl)) | exact .inl ‹_› | (simp; done) | split | dsimp only

theorem Kept.replayCan (h : Kept x r s) (q : List Byte) : Kept x r (s.replayCan q) := by
  unfold State.replayCan
  repeat' with_reducible first
    | assumption | apply Kept.ite | apply Kept.canStore | (refine Kept.foldl _ (fun _ _ _ => ?_) _ _ ?_) | rfl
    | exact .inr rfl | exact .inr id | (exact .inr (fun _ => rfl)) | exact .inl ‹_› | (simp; done) | split
    | dsimp only

theorem Kept.writeThin (p : Profile) (a : Nat) (os : List Nat) : ∀ {s : State} (d : List Byte), Kept x r s →
    Kept x r (s.writeThin p a os d) := by
  induction os with
  | nil => intro s d h; exact h
  | cons o os ih => intro s d h; exact ih _ (h.write _ _)

theorem Kept.replaySample (h : Kept x r s) (shift : Nat) (q : List Byte) : Kept x r (s.replaySample shift q) := by
  unfold State.replaySample
  repeat' with_reducible first
    | assumption | apply Kept.ite | apply Kept.writeThin | apply Kept.publish
    | (refine Kept.foldl _ (fun _ _ _ => ?_) _ _ ?_) | rfl | exact .inr rfl | exact .inr id
    | (exact .inr (fun _ => rfl)) | exact .inl ‹_› | (simp; done) | split | dsimp only

theorem Kept.replayRecord (h : Kept x r s) (p : Replay) (q : List Byte) : Kept x r (s.replayRecord p q) := by
  unfold State.replayRecord
  repeat' with_reducible first
    | assumption | apply Kept.ite | apply Kept.replayLink | apply Kept.replayCan | apply Kept.replaySample
    | (refine Kept.foldl _ (fun _ _ _ => ?_) _ _ ?_) | rfl | exact .inr rfl | exact .inr id
    | (exact .inr (fun _ => rfl)) | exact .inl ‹_› | (simp; done) | split | dsimp only

theorem Kept.checkReplay (h : Kept x r s) : Kept x r s.checkReplay := by
  unfold State.checkReplay
  repeat' with_reducible first
    | assumption | apply Kept.ite | apply Kept.endReplay | (refine Kept.foldl _ (fun _ _ _ => ?_) _ _ ?_) | rfl
    | exact .inr rfl | exact .inr id | (exact .inr (fun _ => rfl)) | exact .inl ‹_› | (simp; done) | split
    | dsimp only

theorem Kept.fetchFault (h : Kept x r s) (g : Nat) : Kept x r (s.fetchFault g) := by
  unfold State.fetchFault
  repeat' with_reducible first
    | assumption | apply Kept.ite | apply Kept.bankEvents | apply Kept.loadCode | apply Kept.tileFault
    | (refine Kept.foldl _ (fun _ _ _ => ?_) _ _ ?_) | rfl | exact .inr rfl | exact .inr id
    | (exact .inr (fun _ => rfl)) | exact .inl ‹_› | (simp; done) | split | dsimp only

theorem Kept.tileOp (h : Kept x r s) (g : Nat) (flips : List Nat) {f : Core → State → State}
    (hf : ∀ k u, Kept x r u → Kept x r (f k u)) : Kept x r (s.tileOp g flips f) := by
  unfold State.tileOp
  exact .ite (.ite ((h.flipParity _).fetchFault _) (hf _ _ (h.flipParity _))) h

theorem Kept.onReg (h : Kept x r s) (g : Nat) (f : RegBlock → RegBlock) : Kept x r (s.onReg g f) := by
  unfold State.onReg
  repeat' with_reducible first
    | assumption | apply Kept.ite | apply Kept.onCore | (refine Kept.foldl _ (fun _ _ _ => ?_) _ _ ?_) | rfl
    | exact .inr rfl | exact .inr id | (exact .inr (fun _ => rfl)) | exact .inl ‹_› | (simp; done) | split
    | dsimp only

theorem Kept.advance (h : Kept x r s) (g : Nat) : Kept x r (s.advance g) := by
  unfold State.advance
  repeat' with_reducible first
    | assumption | apply Kept.ite | apply Kept.onReg | (refine Kept.foldl _ (fun _ _ _ => ?_) _ _ ?_) | rfl
    | exact .inr rfl | exact .inr id | (exact .inr (fun _ => rfl)) | exact .inl ‹_› | (simp; done) | split
    | dsimp only

theorem Kept.readOwn (h : Kept x r s) (g : Nat) (rs : List (Nat × Nat)) {f : State → State}
    (hf : ∀ u, Kept x r u → Kept x r (f u)) : Kept x r (s.readOwn g rs f) := by
  unfold State.readOwn
  exact .ite (Kept.tileFault (Kept.foldl _ (fun _ _ hu => hu.bankEvents _ _) _ _ h) _ _) (hf _ h)

theorem Kept.startDma (h : Kept x r s) (g : Nat) (ch : Nat) : Kept x r (s.startDma g ch) := by
  unfold State.startDma
  repeat' with_reducible first
    | assumption | apply Kept.ite | apply Kept.onCore | (refine Kept.foldl _ (fun _ _ _ => ?_) _ _ ?_) | rfl
    | exact .inr rfl | exact .inr id | (exact .inr (fun _ => rfl)) | exact .inl ‹_› | (simp; done) | split
    | dsimp only

theorem Kept.resume (h : Kept x r s) (g : Nat) : Kept x r (s.resume g) := by
  unfold State.resume
  repeat' with_reducible first
    | assumption | apply Kept.ite | apply Kept.onCore | apply Kept.mark | apply Kept.startDma
    | (refine Kept.foldl _ (fun _ _ _ => ?_) _ _ ?_) | rfl | exact .inr rfl | exact .inr id
    | (exact .inr (fun _ => rfl)) | exact .inl ‹_› | (simp; done) | split | dsimp only

theorem Kept.peerRun (h : Kept x r s) (kind : Nat) (g : Nat) (y : DmaDesc) (a : Nat) (data : List Byte) : Kept x r (s.peerRun kind g y a data) := by
  unfold State.peerRun
  repeat' with_reducible first
    | assumption | apply Kept.ite | apply Kept.leavePackage | (refine Kept.foldl _ (fun _ _ _ => ?_) _ _ ?_) | rfl
    | exact .inr rfl | exact .inr id | (exact .inr (fun _ => rfl)) | exact .inl ‹_› | (simp; done) | split
    | dsimp only

theorem Kept.dmaRun (g ch : Nat) (y : DmaDesc) (o : DmaOp) (free : Bool) (u : DmaRun) (t : Nat × Int × Int)
    (h : Kept x r u.s) : Kept x r (dmaRun g ch y o free u t).s := by
  have k (q : List Byte) : Kept x r (if isPeer t.2.1.toNat then u.s.peerRun 4 g y t.2.1.toNat []
      else u.s.carryRead (u.s.coreOrigin g) (g / 16 + 1) g t.2.1.toNat q).bump :=
    Kept.bump (.ite (h.peerRun _ _ _ _ _) (h.carryRead _ _ _ _ _))
  have e (z : State) (q : List Byte) (hz : Kept x r z) : Kept x r (if isPeer t.2.2.toNat then
      ({ s := z.peerRun 5 g y t.2.2.toNat q } : DmaRun)
    else if (z.dramWrite t.2.2.toNat q []).1 then
      { s := (z.dramWrite t.2.2.toNat q []).2.tileFault g 8, dead := true }
    else { s := (z.dramWrite t.2.2.toNat q []).2.carryWrite (u.s.coreOrigin g) (g / 16 + 1) g t.2.2.toNat q }).s := by
    split
    · exact Kept.peerRun hz 5 g y t.2.2.toNat q
    · split
      · exact Kept.tileFault (hz.dramWrite t.2.2.toNat q []) g 8
      · exact Kept.carryWrite (hz.dramWrite t.2.2.toNat q []) _ _ _ _ _
  unfold Machine.dmaRun
  dsimp only
  split
  · exact h
  · split
    · exact ((h.afterRead _ _).bankEvents _ _).tileFault _ _
    · exact e _ _ (k _)

theorem Kept.dmaCopy (h : Kept x r s) (g ch : Nat) (o : DmaOp) (srcs : List Int) :
    Kept x r (s.dmaCopy g ch o srcs).s := by
  unfold State.dmaCopy
  have hf : ∀ (b : Bool) (l : List (Nat × Int × Int)) (u : DmaRun), Kept x r u.s →
      Kept x r (l.foldl (Machine.dmaRun g ch (parseDma o.desc) o b) u).s := by
    intro b l
    induction l with
    | nil => intro u hu; exact hu
    | cons i l ih => intro u hu; exact ih _ (Kept.dmaRun _ _ _ _ _ _ _ hu)
  exact hf _ _ { s := s } h

theorem Kept.waitFor (h : Kept x r s) (g : Nat) (w : CoreWait) : Kept x r (s.waitFor g w) := by
  unfold State.waitFor
  repeat' with_reducible first
    | assumption | apply Kept.ite | apply Kept.onCore | apply Kept.resume
    | (refine Kept.foldl _ (fun _ _ _ => ?_) _ _ ?_) | rfl | exact .inr rfl | exact .inr id
    | (exact .inr (fun _ => rfl)) | exact .inl ‹_› | (simp; done) | split | dsimp only

theorem Kept.afterTileRead (h : Kept x r s) (g : Nat) (a : Nat) (n : Nat) : Kept x r (s.afterTileRead g a n) := by
  unfold State.afterTileRead
  repeat' with_reducible first
    | assumption | apply Kept.ite | apply Kept.bump | (refine Kept.foldl _ (fun _ _ _ => ?_) _ _ ?_) | rfl
    | exact .inr rfl | exact .inr id | (exact .inr (fun _ => rfl)) | exact .inl ‹_› | (simp; done) | split
    | dsimp only

theorem Kept.scalarStep (h : Kept x r s) (g : Nat) (k : Core) (op : Scalar) : Kept x r (s.scalarStep g k op) := by
  unfold State.scalarStep
  repeat' with_reducible first
    | assumption | apply Kept.ite | apply Kept.onReg | apply Kept.bump | apply Kept.advance | apply Kept.tileFault
    | (refine Kept.readOwn ?_ _ _ (fun _ _ => ?_)) | apply Kept.afterTileRead | apply Kept.writeNat
    | (refine Kept.foldl _ (fun _ _ _ => ?_) _ _ ?_) | rfl | exact .inr rfl | exact .inr id
    | (exact .inr (fun _ => rfl)) | exact .inl ‹_› | (simp; done) | split | dsimp only

theorem Kept.unitOp (h : Kept x r s) (g : Nat) (flips : List Nat) {f : Core → State → State}
    (hf : ∀ k u, Kept x r u → Kept x r (f k u)) : Kept x r (s.unitOp g flips f) := by
  unfold State.unitOp
  exact .ite (hf _ _ (h.flipParity _)) h

theorem Kept.retireSpare (h : Kept x r s) (d : Nat) (u : Nat) : Kept x r (s.retireSpare d u) := by
  unfold State.retireSpare
  repeat' with_reducible first
    | assumption | apply Kept.ite | apply Kept.onPhys | apply Kept.retire
    | (refine Kept.foldl _ (fun _ _ _ => ?_) _ _ ?_) | rfl | exact .inr rfl | exact .inr id
    | (exact .inr (fun _ => rfl)) | exact .inl ‹_› | (simp; done) | split | dsimp only

theorem Kept.serviceTested (h : Kept x r s) (d : Nat) (u : Nat) : Kept x r (s.serviceTested d u) := by
  unfold State.serviceTested
  repeat' with_reducible first
    | assumption | apply Kept.ite | apply Kept.serviceIdle | apply Kept.retireAtMark | apply Kept.takeBank
    | apply Kept.retireSpare | (refine Kept.foldl _ (fun _ _ _ => ?_) _ _ ?_) | rfl | exact .inr rfl | exact .inr id
    | (exact .inr (fun _ => rfl)) | exact .inl ‹_› | (simp; done) | split | dsimp only

theorem Kept.vopBlock (h : Kept x r s) (g : Nat) (d : List Byte) (p : List Byte) : Kept x r (s.vopBlock g d p) := by
  unfold State.vopBlock
  repeat' with_reducible first
    | assumption | apply Kept.ite | apply Kept.tileFault | apply Kept.waitFor
    | (refine Kept.foldl _ (fun _ _ _ => ?_) _ _ ?_) | rfl | exact .inr rfl | exact .inr id
    | (exact .inr (fun _ => rfl)) | exact .inl ‹_› | (simp; done) | split | dsimp only

theorem Kept.dmaLookups (g pool : Nat) (l : List Nat) : ∀ {s : State}, Kept x r s →
    Kept x r (s.dmaLookups g pool l).2 := by
  induction l with
  | nil => intro s h; exact h
  | cons i l ih =>
    intro s h
    unfold State.dmaLookups
    dsimp only
    split
    · exact ih (h.coreLookup _ _ _)
    · exact h.coreLookup _ _ _

end Sys2Proof.Machine
end

