-- ==== Sys2Proof/Laws/KeptSystem.lean ====
section
/-! SUPPORT. What a step keeps (`Kept`), carried through DRAM, the ring, power, the start and the time base. -/

namespace Sys2Proof.Machine

open Sys2Proof.Safety

variable {x : Exempt} {r s : State}

theorem Kept.sendPacket (h : Kept x r s) (src : Nat) (dst : Nat) (vc : Nat) (kind : Nat) (p : RingPacket) : Kept x r (s.sendPacket src dst vc kind p) := by
  unfold State.sendPacket
  repeat' with_reducible first
    | assumption | apply Kept.ite | apply Kept.onRing | apply Kept.launch
    | (refine Kept.foldl _ (fun _ _ _ => ?_) _ _ ?_) | rfl | exact .inr rfl | exact .inr id
    | (exact .inr (fun _ => rfl)) | exact .inl ‹_› | (simp; done) | split | dsimp only

theorem Kept.answerRing (h : Kept x r s) (g : Nat) (dir : RingDir) (nak : Bool) (n : Nat) : Kept x r (s.answerRing g dir nak n) := by
  unfold State.answerRing
  repeat' with_reducible first
    | assumption | apply Kept.ite | apply Kept.onSegDir | (refine Kept.foldl _ (fun _ _ _ => ?_) _ _ ?_) | rfl
    | exact .inr rfl | exact .inr id | (exact .inr (fun _ => rfl)) | exact .inl ‹_› | (simp; done) | split
    | dsimp only

theorem Kept.crcFailure (h : Kept x r s) (g : Nat) (dir : RingDir) (lanes : List Nat) (injected : Bool) : Kept x r (s.crcFailure g dir lanes injected) := by
  unfold State.crcFailure
  repeat' with_reducible first
    | assumption | apply Kept.ite | apply Kept.onSeg | apply Kept.errEvent | apply Kept.errEvents
    | apply Kept.onSegDir | (refine Kept.foldl _ (fun _ _ _ => ?_) _ _ ?_) | rfl | exact .inr rfl | exact .inr id
    | (exact .inr (fun _ => rfl)) | exact .inl ‹_› | (simp; done) | split | dsimp only

theorem Kept.keepFlit (h : Kept x r s) (g : Nat) (dir : RingDir) (f : Flit) : Kept x r (s.keepFlit g dir f) := by
  unfold State.keepFlit
  repeat' with_reducible first
    | assumption | apply Kept.ite | apply Kept.onSegDir | apply Kept.freeBuffers
    | (refine Kept.foldl _ (fun _ _ _ => ?_) _ _ ?_) | rfl | exact .inr rfl | exact .inr id
    | (exact .inr (fun _ => rfl)) | exact .inl ‹_› | (simp; done) | split | dsimp only

theorem Kept.acceptFlit (h : Kept x r s) (g : Nat) (dir : RingDir) (f : Flit) : Kept x r (s.acceptFlit g dir f) := by
  unfold State.acceptFlit
  repeat' with_reducible first
    | assumption | apply Kept.ite | apply Kept.onSegDir | apply Kept.answerRing | apply Kept.freeBuffers
    | apply Kept.keepFlit | apply Kept.forwardFlit | (refine Kept.foldl _ (fun _ _ _ => ?_) _ _ ?_) | rfl
    | exact .inr rfl | exact .inr id | (exact .inr (fun _ => rfl)) | exact .inl ‹_› | (simp; done) | split
    | dsimp only

theorem Kept.arriveFlit (h : Kept x r s) (g : Nat) (dir : RingDir) (f : Flit) (lanes : List Nat) (injected : Bool) : Kept x r (s.arriveFlit g dir f lanes injected) := by
  unfold State.arriveFlit
  repeat' with_reducible first
    | assumption | apply Kept.ite | apply Kept.crcFailure | apply Kept.answerRing | apply Kept.acceptFlit
    | (refine Kept.foldl _ (fun _ _ _ => ?_) _ _ ?_) | rfl | exact .inr rfl | exact .inr id
    | (exact .inr (fun _ => rfl)) | exact .inl ‹_› | (simp; done) | split | dsimp only

theorem Kept.releaseFlit (h : Kept x r s) (i : Nat) : Kept x r (s.releaseFlit i) := by
  unfold State.releaseFlit
  repeat' with_reducible first
    | assumption | apply Kept.ite | apply Kept.onFi | apply Kept.arriveFlit
    | (refine Kept.foldl _ (fun _ _ _ => ?_) _ _ ?_) | rfl | exact .inr rfl | exact .inr id
    | (exact .inr (fun _ => rfl)) | exact .inl ‹_› | (simp; done) | split | dsimp only

theorem Kept.injectFlit (h : Kept x r s) (g : Nat) (dir : RingDir) (f : Flit) (lanes : List Nat) : Kept x r (s.injectFlit g dir f lanes) := by
  unfold State.injectFlit
  repeat' with_reducible first
    | assumption | apply Kept.ite | apply Kept.inject | apply Kept.arriveFlit | apply Kept.onFi
    | apply Kept.releaseFlit | (refine Kept.foldl _ (fun _ _ _ => ?_) _ _ ?_) | rfl | exact .inr rfl | exact .inr id
    | (exact .inr (fun _ => rfl)) | exact .inl ‹_› | (simp; done) | split | dsimp only

theorem Kept.retrain (h : Kept x r s) (g : Nat) : Kept x r (s.retrain g) := by
  unfold State.retrain
  repeat' with_reducible first
    | assumption | apply Kept.ite | apply Kept.onSeg | apply Kept.decideSafe | apply Kept.deviceFault
    | (refine Kept.foldl _ (fun _ _ _ => ?_) _ _ ?_) | rfl | exact .inr rfl | exact .inr id
    | (exact .inr (fun _ => rfl)) | exact .inl ‹_› | (simp; done) | split | dsimp only

theorem Kept.retireRingLane (h : Kept x r s) (g : Nat) (dir : RingDir) (lane : Nat) : Kept x r (s.retireRingLane g dir lane) := by
  unfold State.retireRingLane
  repeat' with_reducible first
    | assumption | apply Kept.ite | apply Kept.retire | apply Kept.onSegDir | apply Kept.setDegraded
    | (refine Kept.foldl _ (fun _ _ _ => ?_) _ _ ?_) | rfl | exact .inr rfl | exact .inr id
    | (exact .inr (fun _ => rfl)) | exact .inl ‹_› | (simp; done) | split | dsimp only

theorem Kept.answerFree (h : Kept x r s) (vc : Nat) (dst : Nat) (d : Desc) (status : Nat) : Kept x r (s.answerFree vc dst d status) := by
  unfold State.answerFree
  repeat' with_reducible first
    | assumption | apply Kept.ite | apply Kept.sendPacket | apply Kept.bump
    | (refine Kept.foldl _ (fun _ _ _ => ?_) _ _ ?_) | rfl | exact .inr rfl | exact .inr id
    | (exact .inr (fun _ => rfl)) | exact .inl ‹_› | (simp; done) | split | dsimp only

theorem Kept.serveRead (h : Kept x r s) (vc : Nat) (src : Nat) (d : Desc) (ecc : List Ecc) (flips : List Nat) : Kept x r (s.serveRead vc src d ecc flips) := by
  unfold State.serveRead
  repeat' with_reducible first
    | assumption | apply Kept.ite | apply Kept.flipParity | apply Kept.dramRead | apply Kept.busRead
    | apply Kept.bankEvents | apply Kept.sendPacket | (refine Kept.foldl _ (fun _ _ _ => ?_) _ _ ?_) | rfl
    | exact .inr rfl | exact .inr id | (exact .inr (fun _ => rfl)) | exact .inl ‹_› | (simp; done) | split
    | dsimp only

theorem Kept.serveWrite (h : Kept x r s) (d : Desc) (data : List Byte) (poison : Bool) (ecc : List Ecc) :
    Kept x r (s.serveWrite d data poison ecc).2 := by
  unfold State.serveWrite
  dsimp only
  split
  · exact h
  · split
    · with_reducible exact h.writeReg _ _
    · exact Kept.dramWrite h d.dpa (data.take d.length) ecc

theorem Kept.responseFault (h : Kept x r s) (d : Desc) (poison : Bool) : Kept x r (s.responseFault d poison) := by
  unfold State.responseFault
  repeat' with_reducible first
    | assumption | apply Kept.ite | apply Kept.tileFault | (refine Kept.foldl _ (fun _ _ _ => ?_) _ _ ?_) | rfl
    | exact .inr rfl | exact .inr id | (exact .inr (fun _ => rfl)) | exact .inl ‹_› | (simp; done) | split
    | dsimp only

theorem Kept.servePeer (h : Kept x r s) (a : Nat) (len : Nat) (tag : Nat) (src : Nat) (write : Bool) (data : List Byte) : Kept x r (s.servePeer a len tag src write data) := by
  unfold State.servePeer
  repeat' with_reducible first
    | assumption | apply Kept.ite | apply Kept.onRing | apply Kept.dramWrite | apply Kept.carryWrite
    | apply Kept.dramRead | apply Kept.bankEvents | apply Kept.carryRead
    | (refine Kept.foldl _ (fun _ _ _ => ?_) _ _ ?_) | rfl | exact .inr rfl | exact .inr id
    | (exact .inr (fun _ => rfl)) | exact .inl ‹_› | (simp; done) | split | dsimp only

theorem Kept.selectCode (h : Kept x r s) (d : Nat) (o : Nat) : Kept x r (s.selectCode d o) := by
  unfold State.selectCode
  repeat' with_reducible first
    | assumption | apply Kept.ite | apply Kept.onPwr | apply Kept.onPins
    | (refine Kept.foldl _ (fun _ _ _ => ?_) _ _ ?_) | rfl | exact .inr rfl | exact .inr id
    | (exact .inr (fun _ => rfl)) | exact .inl ‹_› | (simp; done) | split | dsimp only

theorem Kept.changeOp (h : Kept x r s) (d : Nat) (o : Nat) : Kept x r (s.changeOp d o) := by
  unfold State.changeOp
  repeat' with_reducible first
    | assumption | apply Kept.ite | apply Kept.selectCode | apply Kept.onPwr
    | (refine Kept.foldl _ (fun _ _ _ => ?_) _ _ ?_) | rfl | exact .inr rfl | exact .inr id
    | (exact .inr (fun _ => rfl)) | exact .inl ‹_› | (simp; done) | split | dsimp only

theorem Kept.onTherm (h : Kept x r s) (i : Nat) (f : Therm → Therm) : Kept x r (s.onTherm i f) := by
  unfold State.onTherm
  repeat' with_reducible first
    | assumption | apply Kept.ite | apply Kept.onPwr | (refine Kept.foldl _ (fun _ _ _ => ?_) _ _ ?_) | rfl
    | exact .inr rfl | exact .inr id | (exact .inr (fun _ => rfl)) | exact .inl ‹_› | (simp; done) | split
    | dsimp only

theorem Kept.shiftTherm (h : Kept x r s) : Kept x r s.shiftTherm := by
  unfold State.shiftTherm
  repeat' with_reducible first
    | assumption | apply Kept.ite | apply Kept.onPwr | (refine Kept.foldl _ (fun _ _ _ => ?_) _ _ ?_) | rfl
    | exact .inr rfl | exact .inr id | (exact .inr (fun _ => rfl)) | exact .inl ‹_› | (simp; done) | split
    | dsimp only

theorem Kept.stepDown (h : Kept x r s) (ds : List Nat) : Kept x r (s.stepDown ds) := by
  unfold State.stepDown
  repeat' with_reducible first
    | assumption | apply Kept.ite | apply Kept.changeOp | (refine Kept.foldl _ (fun _ _ _ => ?_) _ _ ?_) | rfl
    | exact .inr rfl | exact .inr id | (exact .inr (fun _ => rfl)) | exact .inl ‹_› | (simp; done) | split
    | dsimp only

theorem Kept.park (h : Kept x r s) : Kept x r s.park := by
  unfold State.park
  repeat' with_reducible first
    | assumption | apply Kept.ite | apply Kept.onPwr | apply Kept.stopJob
    | (refine Kept.foldl _ (fun _ _ _ => ?_) _ _ ?_) | rfl | exact .inr rfl | exact .inr id
    | (exact .inr (fun _ => rfl)) | exact .inl ‹_› | (simp; done) | split | dsimp only

theorem Kept.decidePower (h : Kept x r s) (p : Nat) : Kept x r (s.decidePower p) := by
  unfold State.decidePower
  repeat' with_reducible first
    | assumption | apply Kept.ite | apply Kept.stepDown | apply Kept.changeOp | apply Kept.onPwr
    | apply Kept.raiseEvent | (refine Kept.foldl _ (fun _ _ _ => ?_) _ _ ?_) | rfl | exact .inr rfl | exact .inr id
    | (exact .inr (fun _ => rfl)) | exact .inl ‹_› | (simp; done) | split | dsimp only

theorem Kept.tripDie (h : Kept x r s) (d : Nat) : Kept x r (s.tripDie d) := by
  unfold State.tripDie
  repeat' with_reducible first
    | assumption | apply Kept.ite | apply Kept.onTherm | apply Kept.deviceFault | apply Kept.decideSafe
    | apply Kept.failOn | apply Kept.selectCode | apply Kept.onPwr | apply Kept.onDram
    | (refine Kept.foldl _ (fun _ _ _ => ?_) _ _ ?_) | rfl | exact .inr rfl | exact .inr id
    | (exact .inr (fun _ => rfl)) | exact .inl ‹_› | (simp; done) | split | dsimp only

theorem Kept.sampleJunction (h : Kept x r s) (i : Nat) (t : Nat) : Kept x r (s.sampleJunction i t) := by
  unfold State.sampleJunction
  repeat' with_reducible first
    | assumption | apply Kept.ite | apply Kept.onTherm | apply Kept.raiseEvent | apply Kept.tripDie
    | apply Kept.deviceFault | apply Kept.decideSafe | (refine Kept.foldl _ (fun _ _ _ => ?_) _ _ ?_) | rfl
    | exact .inr rfl | exact .inr id | (exact .inr (fun _ => rfl)) | exact .inl ‹_› | (simp; done) | split
    | dsimp only

theorem Kept.report (h : Kept x r s) (d : Nat) (body : List Nat) : Kept x r (s.report d body) := by
  unfold State.report
  repeat' with_reducible first
    | assumption | apply Kept.ite | apply Kept.launch | (refine Kept.foldl _ (fun _ _ _ => ?_) _ _ ?_) | rfl
    | exact .inr rfl | exact .inr id | (exact .inr (fun _ => rfl)) | exact .inl ‹_› | (simp; done) | split
    | dsimp only

theorem Kept.sampleTemps (h : Kept x r s) (t : TempSample) : Kept x r (s.sampleTemps t) := by
  unfold State.sampleTemps
  repeat' with_reducible first
    | assumption | apply Kept.ite | apply Kept.shiftTherm | apply Kept.report | apply Kept.onTherm
    | apply Kept.sampleStack | apply Kept.sampleJunction | (refine Kept.foldl _ (fun _ _ _ => ?_) _ _ ?_) | rfl
    | exact .inr rfl | exact .inr id | (exact .inr (fun _ => rfl)) | exact .inl ‹_› | (simp; done) | split
    | dsimp only

theorem Kept.wakeDie (h : Kept x r s) (d : Nat) : Kept x r (s.wakeDie d) := by
  unfold State.wakeDie
  repeat' with_reducible first
    | assumption | apply Kept.ite | apply Kept.selectCode | apply Kept.onPwr | apply Kept.onDram | apply Kept.onTb
    | apply Kept.clearSpad | (refine Kept.foldl _ (fun _ _ _ => ?_) _ _ ?_) | rfl | exact .inr rfl | exact .inr id
    | (exact .inr (fun _ => rfl)) | exact .inl ‹_› | (simp; done) | split | dsimp only

theorem Kept.modeOutputs (h : Kept x r s) (hx : x.mode = true) : Kept x r s.modeOutputs := by
  unfold State.modeOutputs
  repeat' with_reducible first
    | assumption | apply Kept.ite | apply Kept.canStopDisallowed | apply Kept.driveSafe | apply Kept.driveCams
    | (refine Kept.foldl _ (fun _ _ _ => ?_) _ _ ?_) | rfl | exact .inr rfl | exact .inr id
    | (exact .inr (fun _ => rfl)) | exact .inl ‹_› | (simp; done) | split | dsimp only

theorem Kept.enterConfig (h : Kept x r s) (hx : x.mode = true) : Kept x r s.enterConfig := by
  unfold State.enterConfig
  repeat' with_reducible first
    | assumption | apply Kept.ite | apply Kept.enterMode | apply Kept.onFw | apply Kept.raiseEvent
    | apply Kept.modeOutputs | (refine Kept.foldl _ (fun _ _ _ => ?_) _ _ ?_) | rfl | exact .inr rfl | exact .inr id
    | (exact .inr (fun _ => rfl)) | exact .inl ‹_› | (simp; done) | split | dsimp only

theorem Kept.backToConfig (h : Kept x r s) (hx : x.mode = true) (hy : x.safe = true) : Kept x r s.backToConfig := by
  unfold State.backToConfig
  repeat' with_reducible first
    | assumption | apply Kept.ite | apply Kept.endSafe | apply Kept.endReplay | apply Kept.onTb
    | apply Kept.enterConfig | (refine Kept.foldl _ (fun _ _ _ => ?_) _ _ ?_) | rfl | exact .inr rfl | exact .inr id
    | (exact .inr (fun _ => rfl)) | exact .inl ‹_› | (simp; done) | split | dsimp only

theorem Kept.requestRun (h : Kept x r s) (c : Cmd) : Kept x r (s.requestRun c) := by
  unfold State.requestRun
  repeat' with_reducible first
    | assumption | apply Kept.ite | apply Kept.await | apply Kept.onTb | apply Kept.driveCams
    | (refine Kept.foldl _ (fun _ _ _ => ?_) _ _ ?_) | rfl | exact .inr rfl | exact .inr id
    | (exact .inr (fun _ => rfl)) | exact .inl ‹_› | (simp; done) | split | dsimp only

theorem Kept.dropRun (h : Kept x r s) (q : RunReq) (status : Nat) : Kept x r (s.dropRun q status) := by
  unfold State.dropRun
  repeat' with_reducible first
    | assumption | apply Kept.ite | apply Kept.onTb | apply Kept.driveCams | apply Kept.finish
    | (refine Kept.foldl _ (fun _ _ _ => ?_) _ _ ?_) | rfl | exact .inr rfl | exact .inr id
    | (exact .inr (fun _ => rfl)) | exact .inl ‹_› | (simp; done) | split | dsimp only

theorem Kept.enterBench (h : Kept x r s) (m : Mode) (hx : x.mode = true) : Kept x r (s.enterBench m) := by
  unfold State.enterBench
  repeat' with_reducible first
    | assumption | apply Kept.ite | apply Kept.dropRun | apply Kept.onAsz | apply Kept.enterMode
    | apply Kept.modeOutputs | (refine Kept.foldl _ (fun _ _ _ => ?_) _ _ ?_) | rfl | exact .inr rfl | exact .inr id
    | (exact .inr (fun _ => rfl)) | exact .inl ‹_› | (simp; done) | split | dsimp only

theorem Kept.startClose (h : Kept x r s) (k : Nat) : Kept x r (s.startClose k) := by
  unfold State.startClose
  repeat' with_reducible first
    | assumption | apply Kept.ite | apply Kept.onCtx | apply Kept.requestEnd
    | (refine Kept.foldl _ (fun _ _ _ => ?_) _ _ ?_) | rfl | exact .inr rfl | exact .inr id
    | (exact .inr (fun _ => rfl)) | exact .inl ‹_› | (simp; done) | split | dsimp only

theorem Kept.freeSeqs (h : Kept x r s) (k : Nat) : Kept x r (s.freeSeqs k) := by
  unfold State.freeSeqs
  repeat' with_reducible first
    | assumption | apply Kept.ite | apply Kept.onSeq | apply Kept.removeSeq
    | (refine Kept.foldl _ (fun _ _ _ => ?_) _ _ ?_) | rfl | exact .inr rfl | exact .inr id
    | (exact .inr (fun _ => rfl)) | exact .inl ‹_› | (simp; done) | split | dsimp only

theorem Kept.settleClose (h : Kept x r s) (k : Nat) : Kept x r (s.settleClose k) := by
  unfold State.settleClose
  repeat' with_reducible first
    | assumption | apply Kept.ite | apply Kept.freeSeqs | apply Kept.onHl | apply Kept.onCtx | apply Kept.finish
    | (refine Kept.foldl _ (fun _ _ _ => ?_) _ _ ?_) | rfl | exact .inr rfl | exact .inr id
    | (exact .inr (fun _ => rfl)) | exact .inl ‹_› | (simp; done) | split | dsimp only

theorem Kept.settleCloses (h : Kept x r s) : Kept x r s.settleCloses := by
  unfold State.settleCloses
  repeat' with_reducible first
    | assumption | apply Kept.ite | apply Kept.settleClose | (refine Kept.foldl _ (fun _ _ _ => ?_) _ _ ?_) | rfl
    | exact .inr rfl | exact .inr id | (exact .inr (fun _ => rfl)) | exact .inl ‹_› | (simp; done) | split
    | dsimp only

theorem Kept.inResetFrom (h : Kept x r s) (hm : x.mode = true) (hl : x.link = true) (hs : x.safe = true)
    (hp : x.pairs = true) : Kept x r s.inResetFrom :=
  ⟨h.1, fun e => cellsFilter_sorted _ _ 0 (h.2 e), fun _ => by
    have hr : Shaped State.reset := by unfold Shaped; decide +kernel
    exact hr,
    .inl hm, .inl hl, .inl hs, .inl hp, .inl hp⟩

theorem Kept.enterRecovery (h : Kept x r s) (reason : Nat) (hx : x.mode = true) : Kept x r (s.enterRecovery reason) := by
  unfold State.enterRecovery
  repeat' with_reducible first
    | assumption | apply Kept.ite | apply Kept.onFw | apply Kept.onDev | apply Kept.onCan | apply Kept.driveSyncOut
    | (refine Kept.foldl _ (fun _ _ _ => ?_) _ _ ?_) | rfl | exact .inr rfl | exact .inr id
    | (exact .inr (fun _ => rfl)) | exact .inl ‹_› | (simp; done) | split | dsimp only

theorem Kept.applyCore (h : Kept x r s) (d : Nat) (u : Nat) : Kept x r (s.applyCore d u) := by
  unfold State.applyCore
  repeat' with_reducible first
    | assumption | apply Kept.ite | apply Kept.onPhys | apply Kept.remap | apply Kept.onSpr
    | (refine Kept.foldl _ (fun _ _ _ => ?_) _ _ ?_) | rfl | exact .inr rfl | exact .inr id
    | (exact .inr (fun _ => rfl)) | exact .inl ‹_› | (simp; done) | split | dsimp only

theorem Kept.applyEntry (h : Kept x r s) (q : WearEntry) : Kept x r (s.applyEntry q) := by
  unfold State.applyEntry
  repeat' with_reducible first
    | assumption | apply Kept.ite | apply Kept.applyPipe | apply Kept.onSpr | apply Kept.applyCore
    | apply Kept.onPhys | apply Kept.onSegDir | apply Kept.onDram | apply Kept.onSol | apply Kept.onItk
    | (refine Kept.foldl _ (fun _ _ _ => ?_) _ _ ?_) | rfl | exact .inr rfl | exact .inr id
    | (exact .inr (fun _ => rfl)) | exact .inl ‹_› | (simp; done) | split | dsimp only

theorem Kept.copyStaged (h : Kept x r s) (report : StartReport) : Kept x r (s.copyStaged report).1 := by
  unfold State.copyStaged
  repeat' with_reducible first
    | assumption | apply Kept.ite | apply Kept.onFw | (refine Kept.foldl _ (fun _ _ _ => ?_) _ _ ?_) | rfl
    | exact .inr rfl | exact .inr id | (exact .inr (fun _ => rfl)) | exact .inl ‹_› | (simp; done) | split
    | dsimp only

theorem Kept.readImage (h : Kept x r s) (keyMatches : Bool) (ms : Nat) : Kept x r (s.readImage keyMatches ms) := by
  unfold State.readImage
  repeat' with_reducible first
    | assumption | apply Kept.ite | apply Kept.onFw | (refine Kept.foldl _ (fun _ _ _ => ?_) _ _ ?_) | rfl
    | exact .inr rfl | exact .inr id | (exact .inr (fun _ => rfl)) | exact .inl ‹_› | (simp; done) | split
    | dsimp only

theorem Kept.readConfig (h : Kept x r s) : Kept x r s.readConfig := by
  unfold State.readConfig
  repeat' with_reducible first
    | assumption | apply Kept.ite | apply Kept.onFw | (refine Kept.foldl _ (fun _ _ _ => ?_) _ _ ?_) | rfl
    | exact .inr rfl | exact .inr id | (exact .inr (fun _ => rfl)) | exact .inl ‹_› | (simp; done) | split
    | dsimp only

theorem Kept.readWear (h : Kept x r s) (rebuilt : List WearEntry) : Kept x r (s.readWear rebuilt) := by
  unfold State.readWear
  repeat' with_reducible first
    | assumption | apply Kept.ite | apply Kept.onSpr | apply Kept.onFw | apply Kept.raiseEvent
    | (refine Kept.foldl _ (fun _ _ _ => ?_) _ _ ?_) | rfl | exact .inr rfl | exact .inr id
    | (exact .inr (fun _ => rfl)) | exact .inl ‹_› | (simp; done) | split | dsimp only

theorem Kept.startSegment (h : Kept x r s) (g : Nat) (fwd : Bool) (rev : Bool) : Kept x r (s.startSegment g fwd rev) := by
  unfold State.startSegment
  repeat' with_reducible first
    | assumption | apply Kept.ite | apply Kept.onSeg | apply Kept.deviceFault | apply Kept.onSpr
    | (refine Kept.foldl _ (fun _ _ _ => ?_) _ _ ?_) | rfl | exact .inr rfl | exact .inr id
    | (exact .inr (fun _ => rfl)) | exact .inl ‹_› | (simp; done) | split | dsimp only

theorem Kept.startDie (h : Kept x r s) (d : Nat) (die stack : Bool) : Kept x r (s.startDie d die stack) := by
  unfold State.startDie
  dsimp only
  refine .ite (Kept.onKv (Kept.onTb (h.onDram _ _) _ (.inr rfl)) _) (Kept.onSpr (Kept.deviceFault ?_ _) _)
  exact Kept.newMap (Kept.onKv (Kept.onTb (h.onDram _ _) _ (.inr rfl)) _) _ rfl (by simp)

theorem Kept.applyConfig (h : Kept x r s) : Kept x r s.applyConfig := by
  unfold State.applyConfig
  dsimp only
  refine Kept.newCan (Kept.newStreams (Kept.newTable (Kept.onAsz (Kept.onTb (h.onDev _ (.inr rfl)) _ (.inr rfl)) _
    rfl (.inr id) (.inr id) (.inr id)) _ rfl rfl ?_) _ rfl ?_ ?_ rfl) _ ?_ <;> simp

theorem Kept.initMemory (h : Kept x r s) : Kept x r s.initMemory := by
  unfold State.initMemory
  exact Kept.foldl _ (fun _ _ hu => hu.write _ _) _ _ (h.onMem _ (cellsFilter_sorted _ _ 0))

theorem Kept.applyFindings (h : Kept x r s) (f : SelftestReport) : Kept x r (s.applyFindings f) := by
  unfold State.applyFindings
  repeat' with_reducible first
    | assumption | apply Kept.ite | apply Kept.errEvent | (refine Kept.foldl _ (fun _ _ _ => ?_) _ _ ?_) | rfl
    | exact .inr rfl | exact .inr id | (exact .inr (fun _ => rfl)) | exact .inl ‹_› | (simp; done) | split
    | dsimp only

theorem Kept.countEdge (h : Kept x r s) : Kept x r s.countEdge := by
  unfold State.countEdge
  repeat' with_reducible first
    | assumption | apply Kept.ite | apply Kept.onTb | (refine Kept.foldl _ (fun _ _ _ => ?_) _ _ ?_) | rfl
    | exact .inr rfl | exact .inr id | (exact .inr (fun _ => rfl)) | exact .inl ‹_› | (simp; done) | split
    | dsimp only

theorem Kept.countLink (h : Kept x r s) (hx : x.link = true) : Kept x r s.countLink :=
  ⟨h.1, h.2, h.3, h.4, .inl hx, h.6, h.7, h.8⟩

theorem Kept.countMile (h : Kept x r s) : Kept x r s.countMile := by
  unfold State.countMile
  repeat' with_reducible first
    | assumption | apply Kept.ite | apply Kept.onTb | (refine Kept.foldl _ (fun _ _ _ => ?_) _ _ ?_) | rfl
    | exact .inr rfl | exact .inr id | (exact .inr (fun _ => rfl)) | exact .inl ‹_› | (simp; done) | split
    | dsimp only

theorem Kept.writeSnapshots (h : Kept x r s) (tr : Table × Nat) (link : Nat) : Kept x r (s.writeSnapshots tr link) := by
  unfold State.writeSnapshots
  repeat' with_reducible first
    | assumption | apply Kept.ite | apply Kept.writeSnapshot | (refine Kept.foldl _ (fun _ _ _ => ?_) _ _ ?_) | rfl
    | exact .inr rfl | exact .inr id | (exact .inr (fun _ => rfl)) | exact .inl ‹_› | (simp; done) | split
    | dsimp only

theorem Kept.chargeJobs (h : Kept x r s) : Kept x r s.chargeJobs := by
  unfold State.chargeJobs
  repeat' with_reducible first
    | assumption | apply Kept.ite | apply Kept.chargeLink | (refine Kept.foldl _ (fun _ _ _ => ?_) _ _ ?_) | rfl
    | exact .inr rfl | exact .inr id | (exact .inr (fun _ => rfl)) | exact .inl ‹_› | (simp; done) | split
    | dsimp only

theorem Kept.applyBands (h : Kept x r s) : Kept x r s.applyBands :=
  ⟨h.1, h.2, fun e => by simpa [Shaped, State.applyBands] using h.3 e, h.4, h.5, h.6, h.7, h.8⟩

theorem Kept.releaseDue (h : Kept x r s) : Kept x r s.releaseDue := by
  unfold State.releaseDue
  repeat' with_reducible first
    | assumption | apply Kept.ite | apply Kept.releaseFlit | apply Kept.releaseHeld | apply Kept.onFi
    | (refine Kept.foldl _ (fun _ _ _ => ?_) _ _ ?_) | rfl | exact .inr rfl | exact .inr id
    | (exact .inr (fun _ => rfl)) | exact .inl ‹_› | (simp; done) | split | dsimp only

theorem Kept.drainWindows (h : Kept x r s) : Kept x r s.drainWindows := by
  unfold State.drainWindows
  repeat' with_reducible first
    | assumption | apply Kept.ite | apply Kept.onHl | (refine Kept.foldl _ (fun _ _ _ => ?_) _ _ ?_) | rfl
    | exact .inr rfl | exact .inr id | (exact .inr (fun _ => rfl)) | exact .inl ‹_› | (simp; done) | split
    | dsimp only

theorem Kept.serviceLasting (h : Kept x r s) : Kept x r s.serviceLasting := by
  unfold State.serviceLasting
  repeat' with_reducible first
    | assumption | apply Kept.ite | apply Kept.retirePipe | apply Kept.serviceTested
    | (refine Kept.foldl _ (fun _ _ _ => ?_) _ _ ?_) | rfl | exact .inr rfl | exact .inr id
    | (exact .inr (fun _ => rfl)) | exact .inl ‹_› | (simp; done) | split | dsimp only

theorem Kept.endSlots (h : Kept x r s) : Kept x r s.endSlots := by
  unfold State.endSlots
  repeat' with_reducible first
    | assumption | apply Kept.ite | apply Kept.onSegDir | (refine Kept.foldl _ (fun _ _ _ => ?_) _ _ ?_) | rfl
    | exact .inr rfl | exact .inr id | (exact .inr (fun _ => rfl)) | exact .inl ‹_› | (simp; done) | split
    | dsimp only

theorem Kept.endLink (h : Kept x r s) : Kept x r s.endLink := by
  unfold State.endLink
  repeat' with_reducible first
    | assumption | apply Kept.ite | apply Kept.serviceLasting | apply Kept.recordLink | apply Kept.checkReplay
    | apply Kept.countEdge | apply Kept.drainRecorder | apply Kept.writeSnapshots | apply Kept.drainWindows
    | apply Kept.endSlots | (refine Kept.foldl _ (fun _ _ _ => ?_) _ _ ?_) | rfl | exact .inr rfl | exact .inr id
    | (exact .inr (fun _ => rfl)) | exact .inl ‹_› | (simp; done) | split | dsimp only

theorem Kept.pumpAll (h : Kept x r s) : Kept x r s.pumpAll := by
  unfold State.pumpAll
  repeat' with_reducible first
    | assumption | apply Kept.ite | apply Kept.pump | (refine Kept.foldl _ (fun _ _ _ => ?_) _ _ ?_) | rfl
    | exact .inr rfl | exact .inr id | (exact .inr (fun _ => rfl)) | exact .inl ‹_› | (simp; done) | split
    | dsimp only

theorem Kept.beginLink (h : Kept x r s) (estopA : Bool) (estopB : Bool) (hx : x.link = true) : Kept x r (s.beginLink estopA estopB) := by
  unfold State.beginLink
  repeat' with_reducible first
    | assumption | apply Kept.ite | apply Kept.countLink | apply Kept.linesNewLink | apply Kept.applyBands
    | apply Kept.sampleEstops | apply Kept.countMile | apply Kept.driveSyncOut | apply Kept.driveCams
    | apply Kept.chargeJobs | apply Kept.releaseDue | apply Kept.pumpAll | apply Kept.runExports
    | apply Kept.settleCloses | (refine Kept.foldl _ (fun _ _ _ => ?_) _ _ ?_) | rfl | exact .inr rfl
    | exact .inr id | (exact .inr (fun _ => rfl)) | exact .inl ‹_› | (simp; done) | split | dsimp only

theorem Kept.raiseP0 (h : Kept x r s) : Kept x r s.raiseP0 := by
  unfold State.raiseP0
  repeat' with_reducible first
    | assumption | apply Kept.ite | apply Kept.changeOp | (refine Kept.foldl _ (fun _ _ _ => ?_) _ _ ?_) | rfl
    | exact .inr rfl | exact .inr id | (exact .inr (fun _ => rfl)) | exact .inl ‹_› | (simp; done) | split
    | dsimp only

theorem Kept.changeRow (h : Kept x r s) : Kept x r s.changeRow := by
  unfold State.changeRow
  repeat' with_reducible first
    | assumption | apply Kept.ite | apply Kept.tableSwitch | apply Kept.raiseP0 | apply Kept.onSch
    | apply Kept.sched | (refine Kept.foldl _ (fun _ _ _ => ?_) _ _ ?_) | rfl | exact .inr rfl | exact .inr id
    | (exact .inr (fun _ => rfl)) | exact .inl ‹_› | (simp; done) | split | dsimp only

theorem Kept.startRun (h : Kept x r s) (q : RunReq) (hx : x.mode = true) : Kept x r (s.startRun q) := by
  unfold State.startRun
  repeat' with_reducible first
    | assumption | apply Kept.ite | apply Kept.onTb | apply Kept.onAsz | apply Kept.onSol | apply Kept.enterMode
    | apply Kept.writeSnapshots | apply Kept.modeOutputs | apply Kept.finish
    | (refine Kept.foldl _ (fun _ _ _ => ?_) _ _ ?_) | rfl | exact .inr rfl | exact .inr id
    | (exact .inr (fun _ => rfl)) | exact .inl ‹_› | (simp; done) | split | dsimp only

theorem Kept.leave (h : Kept x r s) (kind : Nat) (d : Desc) (data : List Byte) : Kept x r (s.leave kind d data) := by
  unfold State.leave
  repeat' with_reducible first
    | assumption | apply Kept.ite | apply Kept.leavePackage | (refine Kept.foldl _ (fun _ _ _ => ?_) _ _ ?_) | rfl
    | exact .inr rfl | exact .inr id | (exact .inr (fun _ => rfl)) | exact .inl ‹_› | (simp; done) | split
    | dsimp only

theorem Kept.sendCounts (h : Kept x r s) : Kept x r s.sendCounts := by
  unfold State.sendCounts
  repeat' with_reducible first
    | assumption | apply Kept.ite | apply Kept.carryMessage | apply Kept.onTb
    | (refine Kept.foldl _ (fun _ _ _ => ?_) _ _ ?_) | rfl | exact .inr rfl | exact .inr id
    | (exact .inr (fun _ => rfl)) | exact .inl ‹_› | (simp; done) | split | dsimp only

end Sys2Proof.Machine
end

