-- ==== Sys2Proof/WellFormed.lean ====
section
/-! DEFINITION. Which commands are well formed: every operand in the range that its field, port, unit or register
number has. The meanings are total without it. -/

namespace Sys2Proof

/-- Every field of a command fits its place in the header (R421). -/
def Cmd.wf (c : Cmd) : Bool :=
  c.ring ≤ 256 && c.family < 256 && c.operation < 256 && c.flags < 2 ^ 16 && c.tag < 2 ^ 32 && c.context < 2 ^ 16 &&
    c.partition < 256 && c.rsv11 < 256 && c.length < 2 ^ 32 && c.payload < 2 ^ 64 && c.deadline < 2 ^ 64 &&
    c.rsv32 < 2 ^ 64 && c.pw.length = 5 && c.pw.all (· < 2 ^ 32) && c.crc < 2 ^ 32

/-- A well-formed command of a family and operation (R433). -/
def Cmd.names (c : Cmd) (family operation : Nat) : Bool := c.wf && c.family = family && c.operation = operation

/-- An entry of the wear record that R508 allows. -/
def WearEntry.wf (r : WearEntry) : Bool :=
  match r.kind with
  | 1 => r.place < 4 && r.unit < 18 && r.detail = 0
  | 2 => r.place < 4 && r.unit < 18 && r.detail < 66
  | 3 => r.place < 5 && r.unit < 2 && r.detail < 136
  | 4 => r.place < 4 && r.unit < 32 && r.detail < 128
  | 5 => r.place < 4 && r.unit < 32 && r.detail < 2 ^ 20
  | 6 => r.place < 4 && r.unit = 0 && r.detail < 2 ^ 20
  | 7 => r.place = 4 && r.unit < 17 && r.detail = 0
  | 8 => r.place = 4 && r.unit < 5 && r.detail = 0
  | _ => false

/-- A flit whose fields fit their bits (R42). -/
def Flit.wf (f : Flit) : Bool :=
  f.dest < 8 && f.src < 8 && f.vc < 4 && f.kind < 16 && f.seq < 4096 && f.rsvSeq < 16 && f.crc < 2 ^ 32 &&
    f.body.length = 64

/-- A descriptor whose fields fit their bytes (R44). -/
def Desc.wf (d : Desc) : Bool :=
  d.dpa < 2 ^ 64 && d.length ≤ 256 && d.tag < 2 ^ 16 && d.status < 256 && d.requester < 256 && d.peer < 256

def Ecc.wf (e : Ecc) : Bool :=
  match e with
  | .ok => true
  | .corrected => true
  | .uncorrectable => true
  | .retried n lanes => 1 ≤ n && n ≤ 3 && lanes.all (· < 128)
  | .transferFailed lanes => lanes.all (· < 128)

def VectorResult.wf (r : VectorResult) : Bool :=
  match r with
  | .pass => true
  | .coreFail => true
  | .bankFail b => b < 66

/-- A CAN frame within its format (R449, R457). -/
def CanFrame.wf (f : CanFrame) : Bool :=
  f.id < (if f.xtd then 2 ^ 29 else 2 ^ 11) && f.dlc < 16 && f.data.length ≤ 64 && !(f.remote && f.fdf) &&
    (!f.brs || f.fdf)

/-- Register numbers below 32 and sizes of 1, 2, 4 or 8 bytes (R98, R99). -/
def Scalar.wf (op : Scalar) : Bool :=
  match op with
  | .alu _ d a b => d < 32 && a < 32 && b < 32
  | .aluImm _ d a _ => d < 32 && a < 32
  | .branch _ a b _ => a < 32 && b < 32
  | .jump _ => true
  | .call d _ => d < 32
  | .ret a => a < 32
  | .load n _ d a _ => (n = 1 || n = 2 || n = 4 || n = 8) && d < 32 && a < 32
  | .store n b a _ => (n = 1 || n = 2 || n = 4 || n = 8) && b < 32 && a < 32
  | .undefined => true

/-- Well-formed commands. -/
def Instr.wf (i : Instr) : Bool :=
  match i with
  | .devInfo c => c.names 1 1
  | .devMode c => c.names 1 2
  | .devContextOpen c => c.names 1 3
  | .devContextClose c => c.names 1 4
  | .devIdentity c => c.names 1 5
  | .devAttest c => c.names 1 6
  | .memAlloc c => c.names 2 1
  | .memFree c => c.names 2 2
  | .memCopy c => c.names 2 3
  | .memFill c => c.names 2 4
  | .memWindowOpen c => c.names 2 5
  | .memWindowClose c => c.names 2 6
  | .windowDrainDone slot => slot < 64
  | .jobSubmit c => c.names 3 1
  | .jobCancel c => c.names 3 2
  | .jobQuery c => c.names 3 3
  | .schLoad c => c.names 4 1
  | .schArm c => c.names 4 2
  | .schPartition c => c.names 4 3
  | .schQuery c => c.names 4 4
  | .kvPoolCreate c => c.names 5 1
  | .kvSeqCreate c => c.names 5 2
  | .kvSeqFork c => c.names 5 3
  | .kvSeqFree c => c.names 5 4
  | .kvSwapArea c => c.names 5 5
  | .kvSwapOut c => c.names 5 6
  | .kvSwapIn c => c.names 5 7
  | .kvCompact c => c.names 5 8
  | .kvQuery c => c.names 5 9
  | .solModelLoad c => c.names 6 1
  | .solTasksLoad c => c.names 6 2
  | .solContacts c => c.names 6 3
  | .solStart c => c.names 6 4
  | .solStop c => c.names 6 5
  | .solQuery c => c.names 6 6
  | .itkStreamConfig c => c.names 7 1
  | .itkPipeConfig c => c.names 7 2
  | .itkStreamStart c => c.names 7 3
  | .itkStreamStop c => c.names 7 4
  | .jlTrain c => c.names 8 1
  | .lineTrainingComplete line report => line < 16 && decide (report.nodes.length ≤ 4)
  | .jlNodeConfig c => c.names 8 2
  | .jlStart c => c.names 8 3
  | .jlStop c => c.names 8 4
  | .canConfig c => c.names 9 1
  | .canFilters c => c.names 9 2
  | .canSend c => c.names 9 3
  | .canMode c => c.names 9 4
  | .safeConfig c => c.names 10 1
  | .safeTrip c => c.names 10 2
  | .safeRelease c => c.names 10 3
  | .safeQuery c => c.names 10 4
  | .fwBegin c => c.names 11 1
  | .fwPiece c => c.names 11 2
  | .fwStatus c => c.names 11 3
  | .fwCommit c => c.names 11 4
  | .fwAbort c => c.names 11 5
  | .cfgRead c => c.names 12 1
  | .cfgWrite c => c.names 12 2
  | .cfgCommit c => c.names 12 3
  | .recConfig c => c.names 13 1
  | .recFreeze c => c.names 13 2
  | .recExport c => c.names 13 3
  | .recReplay c => c.names 13 4
  | .testInject c => c.names 14 1
  | .testSelftest c _ => c.names 14 2
  | .testLoopback c unitsInError => c.names 14 3 && unitsInError ≤ 1024
  | .pwrStateEnterRetainedIdle c => c.names 15 1 && (c.pw.getD 0 0).testBit 0
  | .pwrStateLeaveRetainedIdle c => c.names 15 1 && !(c.pw.getD 0 0).testBit 0
  | .pwrLimit c => c.names 15 2
  | .pwrQuery c => c.names 15 3
  | .sqDoorbell ctx value _ => ctx < 256 && value < 2 ^ 32
  | .cqDoorbell ctx value => ctx < 256 && value < 2 ^ 32
  | .commandTake => true
  | .commandStartDeadlineExpiry ctx => ctx < 256
  | .devResetWrite value => value < 2 ^ 32
  | .ctx0Enable value => value < 2 ^ 32 && value.testBit 31
  | .ctx0Disable value => value < 2 ^ 32 && !value.testBit 31
  | .bar2BaseWrite value => value < 2 ^ 32
  | .bar2Read offset len => 0 < len && offset + len ≤ 2 ^ 30
  | .bar2Write offset data => 0 < data.length && offset + data.length ≤ 2 ^ 30
  | .canRxqReleaseWrite k f value => k < 4 && f < 2 && value < 2 ^ 32
  | .ptmRequest value => value < 2 ^ 32
  | .ptmIntervalExpiry => true
  | .ptmDialogComplete _ => true
  | .ptmHostLoRead _ => true
  | .loRegisterRead _ offset => offset % 4 = 0 && offset < 2 ^ 25
  | .rcRegisterRead offset => offset % 4 = 0 && offset < 2 ^ 25
  | .registerWrite offset value => offset % 4 = 0 && offset < 2 ^ 25 && value < 2 ^ 32
  | .hostLinkDown _ => true
  | .hubResetRelease bootsel => bootsel < 4
  | .startSequenceComplete report => report.segFwd.length = 5 && report.segRev.length = 5 && report.dieOk.length = 4 && report.stackOk.length = 4 && report.rebuilt.all WearEntry.wf
  | .resetAssert => true
  | .powerLoss => true
  | .linkBoundary _ _ => true
  | .chainBoundary temps => temps.junction.length = 5 && temps.stack.length = 4
  | .furlongBoundary power => power.die.length = 4
  | .opChangeSettled die => die < 4
  | .linkCountCheck die count => die < 4 && count < 2 ^ 64
  | .runEntryAtMile => true
  | .syncAlignEdge cycles => 1 ≤ cycles && cycles ≤ 3216
  | .syncAlignTimeout => true
  | .syncInEdge cycle => cycle < 3216
  | .syncLost => true
  | .ringFlitReceive seg _ flit lanes => seg < 5 && flit.wf && lanes.all (· < 136)
  | .ringAck seg _ seq => seg < 5 && seq < 4096
  | .ringNak seg _ seq => seg < 5 && seq < 4096
  | .ringAckTimeout seg _ => seg < 5
  | .ringCredit seg _ vc count => seg < 5 && vc < 4 && 1 ≤ count && count ≤ 128
  | .ringRetrainDone seg _ _ => seg < 5
  | .ringLaneSpare seg _ scanFails => seg < 5 && scanFails.all (· < 136)
  | .ringReadRequest vc src d ecc _ => vc < 4 && src < 5 && d.wf && ecc.all Ecc.wf
  | .ringWriteRequest vc src d data _ ecc => vc < 4 && src < 5 && d.wf && data.length = d.length && ecc.all Ecc.wf
  | .ringReadResponse d data _ => d.wf && (d.status ≠ 0 || data.length = d.length)
  | .ringWriteResponse d => d.wf
  | .ringMessage d => d.wf
  | .peerAccess link slot _ len src write data => link < 2 && src.tag < 65536 && slot < 64 && src.package < 4 && 1 ≤ len && len ≤ 256 && (!write || data.length = len)
  | .plinkTrain link lanes far => link < 2 && (lanes = 0 || lanes = 4 || lanes = 8) && far < 4
  | .rowRemapDone die => die < 4
  | .dramRefresh die channel scanFails => die < 4 && channel < 32 && scanFails.all (· < 128)
  | .patrolScrubRead die ecc => die < 4 && ecc.wf
  | .tmark core _ => core < 64
  | .halt core => core < 64
  | .mxm core gDesc gAct gWt gOut m n _ => core < 64 && gDesc < 32 && gAct < 32 && gWt < 32 && gOut < 32 && m < 65536 && n < 65536
  | .vop core gDesc _ => core < 64 && gDesc < 32
  | .gridld core grid gAddr => core < 64 && grid < 4 && gAddr < 32
  | .dma core channel gDesc _ => core < 64 && channel < 4 && gDesc < 32
  | .dwait core mask => core < 64 && mask < 16
  | .uwait core mask => core < 64 && mask < 4
  | .sig core gRank sem => core < 64 && gRank < 32 && sem < 16
  | .waits core sem gCount => core < 64 && sem < 16 && gCount < 32
  | .live core entry gBase gLen => core < 64 && entry < 16 && gBase < 32 && gLen < 32
  | .flagrd core gD => core < 64 && gD < 32
  | .rankdpa core gD gRank => core < 64 && gD < 32 && gRank < 32
  | .tsrd core gD => core < 64 && gD < 32
  | .scalarInstruction core op _ => core < 64 && op.wf
  | .matrixInstructionComplete core _ => core < 64
  | .vectorInstructionComplete core _ => core < 64
  | .dmaDescriptorComplete core channel _ => core < 64 && channel < 4
  | .tileTimerExpiry core => core < 64
  | .contextSaveDone core => core < 64
  | .contextRestoreDone core => core < 64
  | .bankMigrationDone core _ => core < 64
  | .selftestVector die phys result => die < 4 && phys < 18 && result.wf
  | .ftLookup index pool requester => index < 2 ^ 32 && pool < 256 && requester < 72
  | .ftRelease x => x.index < 2 ^ 23 && x.requester < 72
  | .ftRefAdd index _ => index < 2 ^ 23
  | .ftRefSub index => index < 2 ^ 23
  | .ftCas index expected new => index < 2 ^ 23 && expected < 2 ^ 64 && new < 2 ^ 64
  | .ftAlloc die pool state => die < 4 && pool < 256 && state < 8
  | .kvWriteResolution ctx x => ctx < 256 && x.tag < 2 ^ 32
  | .swapOutFrameDone index _ => index < 2 ^ 23
  | .swapInFrameDone index _ _ => index < 2 ^ 23
  | .swapReadRetry index _ _ => index < 2 ^ 23
  | .compactionMove x => x.index < 2 ^ 23
  | .chainGuardStart => true
  | .schSwitchDecision => true
  | .saveDeadlineExpiry core => core < 64
  | .jobPlacement part => part < 16
  | .rowEventRelease ev => ev < 8
  | .rowEventSelftest ev => ev < 8
  | .selftestSlotEnd part => part < 16
  | .rowEventBgdWindow ev => ev < 8
  | .bgdWindowEnd => true
  | .periodicRelease ctx tag => ctx < 256 && tag < 2 ^ 32
  | .budgetExpiry ctx tag => ctx < 256 && tag < 2 ^ 32
  | .jobDeadlineExpiry ctx tag => ctx < 256 && tag < 2 ^ 32
  | .csiFrameStart port vc _ => port < 8 && vc < 16
  | .csiLongPacket port vc dt _ _ _ => port < 8 && vc < 16 && dt < 64
  | .csiFrameEnd port vc _ => port < 8 && vc < 16
  | .csiPacketDiscard port h => port < 8 && h.vc < 16 && h.dt < 64
  | .pipeAssign => true
  | .sampleResolved stream seq _ => stream < 16 && seq < 2 ^ 32
  | .decodeBudgetExpiry stream seq => stream < 16 && seq < 2 ^ 32
  | .pipeCheckFrameDone pipe _ => pipe < 5
  | .downFrameSend => true
  | .upFrameReceive line _ => line < 16
  | .upCommaWindowClose line _ => line < 16
  | .upFrameDeadline => true
  | .frontStageStart => true
  | .solveStageStart _ => true
  | .resultHandoff => true
  | .stageDeadlineMiss _ => true
  | .clusterCheck cluster _ => cluster < 17
  | .solverMemoryRewrite => true
  | .holdLimitReached => true
  | .assizeFirstPart => true
  | .assizeCheck => true
  | .assizeDeadlineMiss => true
  | .assizeCopyCheck _ => true
  | .assizeCopyReload => true
  | .watchdogWindowClose w => w < 64
  | .lockstepMismatch _ => true
  | .heartbeatLoss _ => true
  | .estopChannelAssert _ => true
  | .estopChannelDeassert _ => true
  | .estopDiscrepancy => true
  | .estopClear => true
  | .safeStateEntry => true
  | .torqueOffPhaseStart => true
  | .safeReleaseEffect => true
  | .clockFault => true
  | .supplyFault x => x.rail < 16
  | .safetyParamsLost => true
  | .canFrameReceive k frame => k < 4 && frame.wf
  | .canArbitration k => k < 4
  | .canFrameTransmitted k _ => k < 4
  | .canBusOff k => k < 4
  | .canBusOffRecovered k => k < 4
  | .canStuckDominant k => k < 4
  | .canTxTimeout k => k < 4
  | .canModeChangeEffect k => k < 4
  | .canFilterBankSwitch k => k < 4
  | .canRecoveryPauseTimeout => true
  | .wearRecordWrite => true
  | .retainedIdleEntered => true
  | .retainedIdleLeft => true
  | .recorderFreeze => true
  | .replayEvent => true
  | .hostLinkUp width rate _ => (width = 4 || width = 8 || width = 16) && 1 ≤ rate && rate ≤ 5
  | .csiPortLinkUp port lanes => port < 8 && (lanes = 1 || lanes = 2 || lanes = 4)
  | .csiPortLinkDown port => port < 8
  | .canBusError k _ => k < 4
  | .canIntegrateAgain k => k < 4
  | .hostDmaReadCompletion ctx tag _ => ctx < 256 && tag < 2 ^ 32
  | .flashOperationDone _ => true

end Sys2Proof
end

