-- ==== Sys2Proof/Tests/Slice0.lean ====
section
/-! SUPPORT. The model's own tests: an ill-formed term for each check of WellFormed, worked examples of the manual,
and for every statement with hypotheses a theorem whose states and operands meet them, clause by clause. -/

namespace Sys2Proof.Tests
open Sys2Proof Sys2Proof.Machine Sys2Proof.Safety

set_option Elab.async false

/-- Context 0 with rings of 64 places in host memory. -/
def ctx0 : Ctx := { isOpen := true, sqAddr := hostBase, cqAddr := hostBase + 65536, sqLog := 6, cqLog := 6 }

/-- A device in CONFIG: link up, context 0 open with its rings in host memory, every die in service. -/
def up : State :=
  { State.reset with
    tb := { link := 1000, mile := 0, dieLink := [1000, 1000, 1000, 1000] }
    dev := { mode := .config, inReset := false, fwReady := true }
    hl := { linkUp := true, ctxs := ctx0 :: List.replicate 255 {} }
    dram := List.replicate 4 { inService := true, powered := true, trained := true, fwLoaded := true } }

/-- The device in a mode. -/
def inMode (m : Mode) : State := up.onDev fun d => { d with mode := m }

/-- A command of context 0 with its parameter words and payload. -/
def cm (f o : Nat) (ws : List Nat := []) (d : List Byte := []) : Cmd :=
  { family := f, operation := o, flags := 4, pw := ws ++ List.replicate (5 - ws.length) 0, length := d.length, data := d }

/-- The command waits as the next of context 0. -/
def at0 (s : State) (c : Cmd) : State := s.onCtx 0 fun x => { x with slots := [{ cmd := c }], nextSeq := 1 }

/-- The command waits as the next of context 9, with the context's number as its ring. -/
def at9 (s : State) (c : Cmd) : State := s.onCtx 9 fun _ => { ctx0 with slots := [{ cmd := c }], nextSeq := 1 }

/-- A zero payload from one byte to another, with fields in rising order: offset, width, value. -/
def recordFrom (pos n : Nat) : List (Nat × Nat × Nat) → List Byte
  | [] => List.replicate (n - pos) 0
  | f :: r => List.replicate (f.1 - pos) 0 ++ (leBytes f.2.1 f.2.2 ++ recordFrom (f.1 + f.2.1) n r)

/-- A zero payload of a length with those fields. -/
def record (n : Nat) (fs : List (Nat × Nat × Nat)) : List Byte := recordFrom 0 n fs

/-- A device that may enter RUN (R346, R303, R337, R407). -/
def ready : State :=
  { up with
    sch := { up.sch with active := { up.sch.active with id := 1 }, jobs := [{ partition := 0, key := { tag := 9 } }] }
    sol := { up.sol with state := .running }
    asz := { up.asz with paramsValid := true } }

/-- RUN at a mile boundary with the grid locked to SYNC_IN. -/
def synced : State :=
  (inMode .run).onTb fun t => { t with link := 8000, syncUsed := true }

/-- A PTM path to the root. -/
def ptmUp : State := up.onTb fun t => { t with ptmPath := true }

/-- A CAN controller with two elements in receive FIFO 0 and one in FIFO 1. -/
def filled (k : Nat) : State := up.onCan k fun c => { c with
  fifo0 := { c.fifo0 with size := 4, fill := 2, get := 3 }, fifo1 := { c.fifo1 with size := 4, fill := 1 } }

/-- Every ring segment is up. -/
def ringUp : State :=
  up.onRing fun r => { r with segs := List.replicate 5 { fwd := { up := true }, rev := { up := true } } }

/-- An open peer window of one page of hub memory for package 3. -/
def windowUp : State := up.onHl fun h => { h with
  windows := h.windows.set 63 { isOpen := true, base := hubBase, size := 4096, read := true, write := true, mask := 8 } }

/-- A link boundary at a furlong and chain boundary. -/
def atFurlong (s : State) : State := s.onTb fun t => { t with link := 2000 }

/-- The first entry of die 1's frame table. -/
def withEntry (e : FtEntry) : State := up.setEntry 2097152 e

/-- A KV pool of 64 frames of 2 KiB on die 0, its first frame taken. -/
def kvPool : Pool :=
  { id := 1, fmt := 7, dieMask := 1, heads := 1, hd16 := 1, frameKib := 2, layers := 1, framesPerDie := 64
    entriesPerDie := 64
    dies := [{ base := 2 ^ 30, frames := { bound := 64, used := [0] }, entries := { bound := 64, used := [0] } }, {}, {},
             {}] }

/-- A DEL sequence of one page with its block table at 4096. -/
def kvSeq : KvSeq := { id := 7, pool := 1, cls := 2, priority := 1, maxTokens := 16, length := 16, bt := [4096, 0, 0, 0] }

/-- The device with that pool, the given sequences, the first frame as given, and a swap area. -/
def kvUp (qs : List KvSeq) (e : FtEntry) : State :=
  ((up.onKv fun k => { k with
    pools := [kvPool], seqs := qs, area := some (hostBase + 2 ^ 30, 1024), swapUnits := { bound := 1024 } }).setEntry 0
      e).writeNat 4096 4 0

/-- The entry of the first frame: resident, with one reference. -/
def oneRef : FtEntry := { state := ftResident, refs := 1, pool := 1 }

/-- A job that writes the first token of the sequence. -/
def writer : Job :=
  { key := { tag := 5 }, partition := 2, bindings := [{ seq := 7, flags := 2, writeCount := 1, wlist := hubBase }] }

/-- A die's part of the pool with its one frame taken. -/
def fullDie : PoolDie :=
  { base := 2 ^ 30, frames := { bound := 1, used := [0] }, entries := { bound := 1, used := [0] } }

/-- The pool's one frame is taken and the sequence has no page. -/
def noRoom (qs : List KvSeq) : State :=
  ((kvUp qs oneRef).onKv fun k => { k with
    pools := [{ kvPool with framesPerDie := 1, dies := [fullDie, {}, {}, {}] }] }).writeNat 4096 4 noFrame

def withJobs (s : State) (js : List Job) : State := s.onSch fun x => { x with jobs := js }

/-- Rows whose partition 2 holds the given cores, and partition 0 its own. -/
def rowOf (m : Nat) (e : RowEvent) : TableRow :=
  { masks := [0x3C, 0, m] ++ List.replicate 13 0, events := e :: List.replicate 7 {} }

/-- Partition 2 holds cores 62 and 63 in row 0 alone; row 0 carries the given event. -/
def schUp (e : RowEvent) (js : List Job) : State :=
  withJobs (up.onSch fun x => { x with
    active := { id := 1, rows := rowOf 0xC000000000000000 e :: List.replicate 79 (rowOf 0 {}) }
    classes := [0, 3, 3] ++ List.replicate 13 7 }) js

/-- A link of the chain in progress. -/
def inLink (n : Nat) (s : State) : State := s.onTb fun t => { t with link := n }

/-- A job of partition 2 with one core. -/
def job5 : Job := { key := { tag := 5 }, partition := 2, mode := 1, period := 1, budget := 95, maxLive := 64 }

/-- That job placed on core 63, which does as given. -/
def placed63 (j : Job) (r : CoreRun) (s : State) : State :=
  (withJobs s [{ j with placed := [63], state := .running }]).onCore 63 fun k => { k with run := r, job := some j.key }

/-- Core 63 runs a tile of that job. -/
def tileUp : State := placed63 job5 .running (schUp {} [])

/-- The job as it stands there. -/
def job63 : Job := { job5 with placed := [63], state := .running }

/-- The P0 job's descriptor: 4 cores, period 1, code in hub memory. -/
def p0Block : List Byte :=
  record 128 [(1, 1, 4), (3, 1, 1), (4, 1, 1), (6, 1, 255), (12, 4, 100), (20, 4, 1024), (24, 8, hubBase), (32, 4, 4)]

/-- A background job's descriptor: 1 core, once, code in hub memory. -/
def bgdBlock : List Byte := record 128 [(0, 1, 3), (1, 1, 1), (6, 1, 255), (12, 4, 95), (24, 8, hubBase), (32, 4, 4)]

/-- A matrix descriptor in modes INT8: reduction length 16, output in format 3. -/
def mxBytes : List Byte := record 32 [(0, 1, 2), (1, 1, 3), (2, 1, 3), (3, 1, 3), (12, 4, 16)]
def mxTile : MatrixOp := { desc := mxBytes, act := 64, wt := 128, out := 192, m := 1, n := 1 }
/-- A vector descriptor: one element, no parameter block. -/
def vecBytes : List Byte := record 32 [(0, 1, 1), (1, 1, 7), (2, 1, 7), (4, 4, 1), (8, 4, 64), (12, 4, 128), (16, 4, 192)]
/-- A DMA descriptor: 8 bytes from hub memory to the core's scratchpad. -/
def dmaBytes : List Byte := record 64 [(0, 8, hubBase), (8, 8, spadOf 63 + 4096), (16, 4, 8), (20, 2, 1), (22, 2, 1)]

/-- The header of a table of one row of bytes, as the shadow holds it, with its check. -/
def tableHead : List Byte :=
  record 64 [(0, 4, 0x54535755), (4, 2, 1), (6, 2, 80), (8, 4, 9), (12, 4, crc32c (record 12 [(0, 4, 0x54535755), (4, 2, 1),
    (6, 2, 80), (8, 4, 9)] ++ record 192 [(0, 1, 0x3C)]))]

/-- Row 79 of the shadow is still to come. -/
def lastRow : State := up.onSch fun x => { x with
  shadow := .part, shadowTable := { header := tableHead, id := 9, rows := List.replicate 79 (rowOf 0 {}) } }

/-- FP32 1.0. -/
def one32 : Nat := 0x3F800000

/-- A fixed base and one body whose joint 63 turns about x (R310, R311). -/
def modelBytes : List Byte :=
  record 320 [(0, 4, 7), (4, 1, 2), (5, 1, 0xFF), (64, 1, 0xFF), (65, 1, 3), (66, 1, 0xFF), (80, 4, one32), (193, 1, 1),
    (194, 1, 63), (196, 4, one32), (208, 4, one32), (276, 4, 0xBF800000), (280, 4, one32), (284, 4, one32),
    (288, 4, one32), (296, 4, one32), (300, 4, one32), (308, 4, one32)]

/-- One posture task on joint 63. -/
def taskBytes : List Byte := record 64 [(0, 4, 1), (4, 1, 1), (16, 1, 5), (18, 1, 63), (19, 1, 1)]

/-- One contact frame and one point. -/
def contactBytes : List Byte :=
  record 64 [(0, 1, 1), (1, 1, 1), (12, 4, one32), (28, 4, one32), (36, 4, one32)]

/-- The engine is loaded, and node 63 carries joint 63. -/
def solUp (x : EngState) : State :=
  (up.onSol fun y => { y with
    state := x, model := some (parseModel modelBytes), tasks := some (parseTasks taskBytes), contacts := some {} }).onJl
      fun j => { j with table := j.table.set 63 (some { joint := 63 }) }

/-- A result of link 999. -/
def result : Result := { n := 999, sampleTs := linkTs 999 }

/-- What the front stage of link 999 hands on. -/
def front : FrontData := { n := 999 }

/-- A safety parameter block that passes R407. -/
def safeBlock : List Byte :=
  record 832 [(0, 1, 1), (8, 4, 0x3F000000), (16, 4, one32), (20, 4, one32), (24, 4, one32), (28, 4, 50000), (40, 2, 98),
    (42, 2, 100)]

/-- RUN with valid safety parameters. -/
def runSafe : State := (inMode .run).onAsz fun a => { a with paramsValid := true, params := safeBlock }

/-- A RAW8 stream of 16 by 16 pixels on port 7, channel 15, with two buffers in hub memory. -/
def streamBytes : List Byte :=
  record 64 [(0, 1, 15), (1, 1, 7), (2, 1, 15), (3, 1, 0x2A), (4, 2, 16), (6, 2, 16), (8, 4, 256), (13, 1, 15),
    (14, 1, 2), (20, 4, 1000), (32, 8, hubBase), (40, 8, hubBase + 4096)]

/-- A profile that suits it. -/
def profileBytes : List Byte :=
  record 128 [(0, 1, 15), (3, 1, 4), (6, 1, 1), (64, 2, 16), (66, 2, 16), (72, 2, 16), (74, 2, 16)]

/-- That stream, running or not, with the given frames. -/
def streamUp (run : Bool) (fs : List Frame) : State :=
  (up.onStream 15 fun x => { x with
    cfg := some (parseStream streamBytes), running := run, frames := fs, nextSeq := 4 }).onItk fun k => { k with
      profiles := k.profiles.set 15 (some (parseProfile profileBytes)) }

/-- A frame after its first line, on pipe 0. -/
def frame1 : Frame :=
  { seq := 3, lines := 1, bytes := 16, firstWc := 16, pipe := some 0, buffer := some 0, payload := List.replicate 16 5 }

/-- Line 15 in training. -/
def training : State := up.onLine 15 fun x => { x with state := .training, trainStart := 1000 }

/-- Line 15 as its training left it, with one node as configured. -/
def lineReadyUp : State :=
  (up.onLine 15 fun x => { x with state := .configured, found := [{ serial := 9, staleLimit := 1 }] }).onJl fun j => { j with
    table := j.table.set 60 (some { joint := 63, serial := 9 }) }

/-- Line 15 in service, with a run of missed frames. -/
def lineUp (k : Nat) : State := up.onLine 15 fun x => { x with state := .running, missRun := k }

/-- An up-frame slot with its check. -/
def slotBytes : List Byte :=
  record 44 [(38, 2, 1)] ++ leBytes 4 (crc32c (record 44 [(38, 2, 1)]))

/-- A CAN.CONFIG block: 80 clocks to a bit, 8 in the data phase, FIFOs of 4 elements. -/
def canBytes : List Byte := record 32 [(0, 4, 0x247600), (4, 4, 0x10400), (12, 1, 4), (13, 1, 4), (14, 1, 3)]

/-- A filter list of one standard element that leads to FIFO 0. -/
def filterBytes : List Byte := record 32 [(0, 1, 1), (16, 4, 0x014FFFFF)]

/-- A frame to send: identifier 0x123, 8 bytes. -/
def canElem : List Byte := record 72 [(0, 4, 0x123), (4, 4, 8)]

/-- Controller 3 active, with frames in buffers 1 and 2. -/
def canUp (x : Option Nat) (r : Option (Nat × Nat)) : State := up.onCan 3 fun c => { c with
  mode := 1, configured := true, request := x, sending := r
  fifo0 := { c.fifo0 with size := 4 }, fifo1 := { c.fifo1 with size := 4 }
  tx := ((c.tx.set 1 { elem := canElem, pending := true }).set 2 { elem := record 72 [(0, 4, 0x122)], pending := true }) }

/-- A firmware header: format 1, kind 1, body of one byte over one piece. -/
def fwBytes : List Byte :=
  record 256 [(0, 4, 0x57465755), (4, 2, 1), (6, 1, 1), (8, 4, 0x4800), (12, 4, 1), (20, 4, 65537), (24, 4, 65536), (28, 4, 2)]

/-- An image is being received; some pieces are present. -/
def receiving (ps : List Nat) : State := up.onFw fun f => { f with staging := .receiving, header := fwBytes, present := ps }

/-- A REC.CONFIG block: 256 MiB on die 3, every kind. -/
def recBytes : List Byte := record 32 [(0, 1, 3), (1, 1, 0x1F), (2, 1, 1), (3, 1, 0xF), (4, 4, 256), (8, 4, 10)]

/-- A LINK record of no node. -/
def linkRec : List Byte := record 32 [(0, 1, 1), (2, 2, 32), (8, 8, 65536000)]

/-- The recorder in a state, with that record. -/
def recUp (x : RecState) (s : State) : State := s.onRec fun r => { r with
  state := x, kinds := 0x1F, ringMib := 256, ringBase := 2 ^ 30, postLinks := 10, records := [linkRec]
  freezeAt := if x = .post then some 1000 else none }

/-- A TEST.INJECT block for slot 15. -/
def injectBytes : List Byte := record 32 [(0, 1, 15), (1, 1, 4), (4, 1, 1), (5, 1, 1)]

/-- One entry and one frame are left on die 3. -/
def lastPlace : PoolDie := { base := 2 ^ 30, frames := { bound := 1 }, entries := { bound := 1 } }
def allocUp : State := up.onKv fun k => { k with pools := [{ kvPool with dieMask := 8, dies := [{}, {}, {}, lastPlace] }] }

/-! ### Well-formedness: an ill-formed term for each check -/

/-- The report of a start that met no fault. -/
def report : StartReport :=
  { segFwd := List.replicate 5 true, segRev := List.replicate 5 true, dieOk := List.replicate 4 true
    stackOk := List.replicate 4 true }

def refused (l : List Instr) : Bool := l.all fun i => !i.wf

/-- Each field of a command one past its range. -/
theorem test_wf_refuses_header_fields :
    refused ([{ cm 1 1 with ring := 257 }, { cm 1 1 with flags := 65536 }, { cm 1 1 with tag := 2 ^ 32 },
      { cm 1 1 with context := 65536 }, { cm 1 1 with partition := 256 }, { cm 1 1 with rsv11 := 256 },
      { cm 1 1 with length := 2 ^ 32 }, { cm 1 1 with payload := 2 ^ 64 }, { cm 1 1 with deadline := 2 ^ 64 },
      { cm 1 1 with rsv32 := 2 ^ 64 }, { cm 1 1 with pw := [0, 0, 0, 0] }, { cm 1 1 with pw := [0, 0, 2 ^ 32, 0, 0] },
      { cm 1 1 with crc := 2 ^ 32 }].map .devInfo) = true ∧
    { cm 1 1 with family := 256 }.wf = false ∧ { cm 1 1 with operation := 256 }.wf = false := by decide +kernel

/-- A command under another row's name (R433). -/
theorem test_wf_refuses_other_rows :
    refused [.devInfo (cm 1 2), .devMode (cm 1 1), .devContextOpen (cm 2 3), .devContextClose (cm 1 3), .devIdentity (cm 1 6),
      .devAttest (cm 1 5), .memAlloc (cm 2 2), .memFree (cm 2 1), .memCopy (cm 2 4), .memFill (cm 2 3),
      .memWindowOpen (cm 2 6), .memWindowClose (cm 2 5), .jobSubmit (cm 3 2), .jobCancel (cm 3 3), .jobQuery (cm 3 1),
      .schLoad (cm 4 2), .schArm (cm 4 1), .schPartition (cm 4 4), .schQuery (cm 4 3), .kvPoolCreate (cm 5 2),
      .kvSeqCreate (cm 5 1), .kvSeqFork (cm 5 4), .kvSeqFree (cm 5 3), .kvSwapArea (cm 5 6), .kvSwapOut (cm 5 5),
      .kvSwapIn (cm 5 6), .kvCompact (cm 5 9), .kvQuery (cm 5 8)] = true := by decide +kernel

theorem test_wf_refuses_other_rows_of_control :
    refused [.solModelLoad (cm 6 2), .solTasksLoad (cm 6 1), .solContacts (cm 6 4), .solStart (cm 6 5), .solStop (cm 6 4),
      .solQuery (cm 6 7), .itkStreamConfig (cm 7 2), .itkPipeConfig (cm 7 1), .itkStreamStart (cm 7 4),
      .itkStreamStop (cm 7 3), .jlTrain (cm 8 2), .jlNodeConfig (cm 8 1), .jlStart (cm 8 4), .jlStop (cm 8 3),
      .canConfig (cm 9 2), .canFilters (cm 9 1), .canSend (cm 9 4), .canMode (cm 9 3), .safeConfig (cm 10 2),
      .safeTrip (cm 10 1), .safeRelease (cm 10 4), .safeQuery (cm 10 3), .fwBegin (cm 11 2), .fwPiece (cm 11 1),
      .fwStatus (cm 11 4), .fwCommit (cm 11 3), .fwAbort (cm 11 4), .cfgRead (cm 12 2), .cfgWrite (cm 12 1),
      .cfgCommit (cm 12 2), .recConfig (cm 13 2), .recFreeze (cm 13 1), .recExport (cm 13 4), .recReplay (cm 13 3),
      .testInject (cm 14 2), .testSelftest (cm 14 1) {}, .testLoopback (cm 14 2) 0, .testLoopback (cm 14 3) 1025,
      .pwrStateEnterRetainedIdle (cm 15 1 [2]), .pwrStateEnterRetainedIdle (cm 15 2 [1]),
      .pwrStateLeaveRetainedIdle (cm 15 1 [1]), .pwrStateLeaveRetainedIdle (cm 15 3), .pwrLimit (cm 15 3),
      .pwrQuery (cm 15 2)] = true := by decide +kernel

theorem test_wf_refuses_host_accesses :
    refused [.windowDrainDone 64, .sqDoorbell 256 0 [], .sqDoorbell 0 (2 ^ 32) [], .cqDoorbell 256 0, .cqDoorbell 0 (2 ^ 32),
      .commandStartDeadlineExpiry 256, .devResetWrite (2 ^ 32), .ctx0Enable (2 ^ 32), .ctx0Enable 7,
      .ctx0Disable (2 ^ 32), .ctx0Disable 0x80000000, .bar2BaseWrite (2 ^ 32), .bar2Read 0 0, .bar2Read (2 ^ 30) 1,
      .bar2Write 0 [], .bar2Write (2 ^ 30) [1], .canRxqReleaseWrite 4 0 0, .canRxqReleaseWrite 0 2 0,
      .canRxqReleaseWrite 0 0 (2 ^ 32), .ptmRequest (2 ^ 32), .loRegisterRead 0 2, .loRegisterRead 0 (2 ^ 25),
      .rcRegisterRead 1, .rcRegisterRead (2 ^ 25), .registerWrite 2 0, .registerWrite (2 ^ 25) 0,
      .registerWrite 0 (2 ^ 32), .hostLinkUp 2 1 true, .hostLinkUp 16 0 true, .hostLinkUp 16 6 true,
      .hostDmaReadCompletion 256 0 [], .hostDmaReadCompletion 0 (2 ^ 32) []] = true := by decide +kernel

theorem test_wf_refuses_device_events :
    refused [.hubResetRelease 4, .startSequenceComplete { report with segFwd := [] }, .startSequenceComplete { report with segRev := [] },
      .startSequenceComplete { report with dieOk := [] }, .startSequenceComplete { report with stackOk := [] },
      .chainBoundary { stack := [0, 0, 0, 0] }, .chainBoundary { junction := [0, 0, 0, 0, 0] }, .furlongBoundary {},
      .opChangeSettled 4, .linkCountCheck 4 0, .linkCountCheck 0 (2 ^ 64), .syncAlignEdge 0, .syncAlignEdge 3217,
      .syncInEdge 3216, .rowRemapDone 4, .dramRefresh 4 0 [], .dramRefresh 0 32 [], .dramRefresh 0 0 [128],
      .patrolScrubRead 4 .ok, .patrolScrubRead 0 (.retried 0 []), .patrolScrubRead 0 (.retried 4 []),
      .patrolScrubRead 0 (.retried 1 [128]), .patrolScrubRead 0 (.transferFailed [128]), .supplyFault ⟨16, 0, 0⟩] = true := by
  decide +kernel

/-- Entries of a rebuilt wear record outside R508. -/
theorem test_wf_refuses_wear_entries :
    ([⟨0, 0, 0, 0⟩, ⟨1, 4, 0, 0⟩, ⟨1, 0, 18, 0⟩, ⟨1, 0, 0, 1⟩, ⟨2, 4, 0, 0⟩, ⟨2, 0, 18, 0⟩, ⟨2, 0, 0, 66⟩, ⟨3, 5, 0, 0⟩,
      ⟨3, 0, 2, 0⟩, ⟨3, 0, 0, 136⟩, ⟨4, 4, 0, 0⟩, ⟨4, 0, 32, 0⟩, ⟨4, 0, 0, 128⟩, ⟨5, 4, 0, 0⟩, ⟨5, 0, 32, 0⟩,
      ⟨5, 0, 0, 2 ^ 20⟩, ⟨6, 4, 0, 0⟩, ⟨6, 0, 1, 0⟩, ⟨6, 0, 0, 2 ^ 20⟩, ⟨7, 3, 0, 0⟩, ⟨7, 4, 17, 0⟩, ⟨7, 4, 0, 1⟩,
      ⟨8, 3, 0, 0⟩, ⟨8, 4, 5, 0⟩, ⟨8, 4, 0, 1⟩, ⟨9, 0, 0, 0⟩] : List WearEntry).all (fun r => !r.wf &&
        !(Instr.startSequenceComplete { report with rebuilt := [r] }).wf) =
      true := by decide +kernel

theorem test_wf_refuses_ring_packets :
    refused ([{ dest := 8 }, { src := 8 }, { vc := 4 }, { kind := 16 }, { seq := 4096 }, { rsvSeq := 16 },
      { crc := 2 ^ 32 }].map fun f : Flit => .ringFlitReceive 0 .fwd { f with body := List.replicate 64 0 } []) = true ∧
    refused [.ringFlitReceive 0 .fwd {} [], .ringFlitReceive 5 .fwd { body := List.replicate 64 0 } [], .ringFlitReceive 0 .fwd { body := List.replicate 64 0 } [136],
      .ringAck 5 .fwd 0, .ringAck 0 .fwd 4096, .ringNak 5 .fwd 0, .ringNak 0 .fwd 4096, .ringAckTimeout 5 .fwd,
      .ringCredit 5 .fwd 0 1, .ringCredit 0 .fwd 4 1, .ringCredit 0 .fwd 0 0, .ringCredit 0 .fwd 0 129,
      .ringRetrainDone 5 true true, .ringLaneSpare 5 .fwd [], .ringLaneSpare 0 .fwd [136]] = true := by decide +kernel

theorem test_wf_refuses_descriptors :
    refused ([{ dpa := 2 ^ 64 }, { length := 257 }, { tag := 65536 }, { status := 256 }, { requester := 256 },
      { peer := 256 }].flatMap fun d : Desc => [.ringReadRequest 0 0 d [] [], .ringReadResponse { d with status := d.status + 1 } [] false,
        .ringWriteResponse d, .ringMessage d]) = true ∧
    refused [.ringReadRequest 4 0 {} [] [], .ringReadRequest 0 5 {} [] [], .ringReadRequest 0 0 {} [.retried 0 []] [],
      .ringWriteRequest 4 0 {} [] false [], .ringWriteRequest 0 5 {} [] false [],
      .ringWriteRequest 0 0 { dpa := 2 ^ 64 } [] false [], .ringWriteRequest 0 0 {} [1] false [],
      .ringReadResponse {} [1] false, .peerAccess 2 0 0 1 ⟨0, 0⟩ false [], .peerAccess 0 64 0 1 ⟨0, 0⟩ false [],
      .peerAccess 0 0 0 1 ⟨4, 0⟩ false [], .peerAccess 0 0 0 0 ⟨0, 0⟩ false [], .peerAccess 0 0 0 257 ⟨0, 0⟩ false [],
      .peerAccess 0 0 0 1 ⟨0, 65536⟩ false [], .peerAccess 0 0 0 2 ⟨0, 0⟩ true [1], .plinkTrain 2 8 0, .plinkTrain 0 7 0,
      .plinkTrain 0 8 4] = true := by decide +kernel

theorem test_wf_refuses_core_instructions :
    refused [.tmark 64 [], .halt 64, .mxm 64 0 0 0 0 0 0 [], .mxm 0 32 0 0 0 0 0 [], .mxm 0 0 32 0 0 0 0 [],
      .mxm 0 0 0 32 0 0 0 [], .mxm 0 0 0 0 32 0 0 [], .mxm 0 0 0 0 0 65536 0 [], .mxm 0 0 0 0 0 0 65536 [],
      .vop 64 0 [], .vop 0 32 [], .gridld 64 0 0, .gridld 0 4 0, .gridld 0 0 32, .dma 64 0 0 [], .dma 0 4 0 [],
      .dma 0 0 32 [], .dwait 64 0, .dwait 0 16, .uwait 64 0, .uwait 0 4, .sig 64 0 0, .sig 0 32 0, .sig 0 0 16,
      .waits 64 0 0, .waits 0 16 0, .waits 0 0 32, .live 64 0 0 0, .live 0 16 0 0, .live 0 0 32 0, .live 0 0 0 32,
      .flagrd 64 0, .flagrd 0 32, .rankdpa 64 0 0, .rankdpa 0 32 0, .rankdpa 0 0 32, .tsrd 64 0, .tsrd 0 32,
      .matrixInstructionComplete 64 [], .vectorInstructionComplete 64 [], .dmaDescriptorComplete 64 0 [],
      .dmaDescriptorComplete 0 4 [], .tileTimerExpiry 64, .contextSaveDone 64, .contextRestoreDone 64,
      .bankMigrationDone 64 [], .saveDeadlineExpiry 64, .selftestVector 4 0 .pass, .selftestVector 0 18 .pass,
      .selftestVector 0 0 (.bankFail 66)] = true := by decide +kernel

theorem test_wf_refuses_scalar_forms :
    refused (.scalarInstruction 64 .undefined [] ::
      ([.alu .add 32 0 0, .alu .add 0 32 0, .alu .add 0 0 32, .aluImm .add 32 0 0, .aluImm .add 0 32 0, .branch .eq 32 0 0,
        .branch .eq 0 32 0, .call 32 0, .ret 32, .load 3 false 0 0 0, .load 8 false 32 0 0, .load 8 false 0 32 0,
        .store 16 0 0 0, .store 1 32 0 0, .store 1 0 32 0] : List Scalar).map fun op => .scalarInstruction 0 op []) = true := by
  decide +kernel

theorem test_wf_refuses_kv_and_schedule_events :
    refused [.ftLookup (2 ^ 32) 0 0, .ftLookup 0 256 0, .ftLookup 0 0 72, .ftRelease ⟨(2 ^ 23), 0⟩, .ftRelease ⟨0, 72⟩, .ftRefAdd (2 ^ 23) 0, .ftRefSub (2 ^ 23),
      .ftCas (2 ^ 23) 0 0, .ftCas 0 (2 ^ 64) 0, .ftCas 0 0 (2 ^ 64), .ftAlloc 4 0 0, .ftAlloc 0 256 0, .ftAlloc 0 0 8,
      .kvWriteResolution 256 ⟨0, []⟩, .kvWriteResolution 0 ⟨(2 ^ 32), []⟩, .swapOutFrameDone (2 ^ 23) true,
      .swapInFrameDone (2 ^ 23) true [], .swapReadRetry (2 ^ 23) true [], .compactionMove ⟨(2 ^ 23), []⟩, .jobPlacement 16,
      .rowEventRelease 8, .rowEventSelftest 8, .selftestSlotEnd 16, .rowEventBgdWindow 8, .periodicRelease 256 0,
      .periodicRelease 0 (2 ^ 32), .budgetExpiry 256 0, .budgetExpiry 0 (2 ^ 32), .jobDeadlineExpiry 256 0,
      .jobDeadlineExpiry 0 (2 ^ 32)] = true := by decide +kernel

theorem test_wf_refuses_port_events :
    refused [.csiFrameStart 8 0 .ok, .csiFrameStart 0 16 .ok, .csiLongPacket 8 0 0 [] .ok true, .csiLongPacket 0 16 0 [] .ok true,
      .csiLongPacket 0 0 64 [] .ok true, .csiFrameEnd 8 0 .ok, .csiFrameEnd 0 16 .ok, .csiPacketDiscard 8 ⟨0, 0, .ok⟩,
      .csiPacketDiscard 0 ⟨16, 0, .ok⟩, .csiPacketDiscard 0 ⟨0, 64, .ok⟩, .csiPortLinkUp 8 1, .csiPortLinkUp 0 3,
      .csiPortLinkDown 8, .sampleResolved 16 0 true,
      .sampleResolved 0 (2 ^ 32) true, .decodeBudgetExpiry 16 0, .decodeBudgetExpiry 0 (2 ^ 32),
      .pipeCheckFrameDone 5 true, .lineTrainingComplete 16 {}, .lineTrainingComplete 0 { nodes := List.replicate 5 {} },
      .upFrameReceive 16 [], .upCommaWindowClose 16 true, .clusterCheck 17 true, .watchdogWindowClose 64,
      .canArbitration 4, .canFrameTransmitted 4 none, .canBusOff 4, .canBusOffRecovered 4, .canStuckDominant 4,
      .canTxTimeout 4, .canModeChangeEffect 4, .canFilterBankSwitch 4, .canBusError 4 {}, .canIntegrateAgain 4,
      .canFrameReceive 4 {}, .canFrameReceive 0 { id := 2048 }, .canFrameReceive 0 { id := 2 ^ 29, xtd := true },
      .canFrameReceive 0 { dlc := 16 }, .canFrameReceive 0 { fdf := true, data := List.replicate 65 0 },
      .canFrameReceive 0 { remote := true, fdf := true }, .canFrameReceive 0 { brs := true }] = true := by decide +kernel

/-- Operands at the top of their ranges are accepted. -/
theorem test_wf_accepts_bounds :
    ([.devInfo (cm 1 1), .windowDrainDone 63, .bar2Read (2 ^ 30 - 1) 1, .registerWrite (2 ^ 25 - 4) (2 ^ 32 - 1),
      .syncAlignEdge 3216, .ringCredit 4 .rev 3 128, .peerAccess 1 63 0 256 ⟨3, 65535⟩ false [], .mxm 63 31 31 31 31 65535 65535 [],
      .scalarInstruction 63 (.load 8 true 31 31 (-8)) [], .ftCas (2 ^ 23 - 1) (2 ^ 64 - 1) 0, .hostLinkUp 16 5 false,
      .canFrameReceive 3 { id := 2 ^ 29 - 1, xtd := true, dlc := 15 }] : List Instr).all Instr.wf = true := by decide +kernel

/-! ### The manual's worked examples -/

/-- What a command answers, or the state before it. -/
def after (i : Instr) (s : State) : State := (nextOf (exec i s)).getD s

/-- R25, chapter 01: with 37 cycles left to slew, the next link has 201 cycles and 36 are left. -/
theorem test_link_slews :
    slewed 37 = (201, 36) ∧ slewed 0 = (200, 0) ∧ (slewed (-1)).1 = 199 := by decide +kernel

/-- Chapter 02: CD3 reads S1 against the ring's direction; core 5 of CD2 begins at 0x0042_0500_0000. -/
theorem test_ring_example :
    routeDir 4 2 = .rev ∧ spadOf 37 = 0x004205000000 ∧ isDram 0x000A00001000 = true ∧
      servingDie 0x000A00001000 = 2 := by decide +kernel

/-- Chapter 06: the granule 0x0013_4567_89C0 lies in channel 7, bank 15, DRAM die 4, row 3,349 of S2. -/
theorem test_dram_address_example :
    chanOf 0x0013456789C0 = 7 ∧ rowBank 0x0013456789C0 = 15 ∧ rowDie 0x0013456789C0 = 4 ∧
      rowNumber 0x0013456789C0 = 3349 ∧ 0x0013456789C0 / stackSize = 2 := by decide +kernel

/-- Chapter 06: what CD2's registers show of that error. -/
theorem test_dram_error_registers :
    let s := up.uncorrectableError 0x0013456789C0
    s.reg 0x01200410 = 0x456789C0 ∧ s.reg 0x01200414 = 0x13 ∧ s.reg 0x01200404 = 0x00010000 := by decide +kernel

/-- Chapter 05: bank 7 of core 9 of CD2 has retired, one spare is left, three events are counted. -/
theorem test_spad_status_example :
    let s := up.onCore 41 fun k => { k with retiredA := 7, sparesLeft := 1, parityEvents := 3, lastBank := 7 }
    s.reg 0x01200248 = 0x1FE1C000 ∧ s.reg 0x0120024C = 0x07000003 := by decide +kernel

/-- Chapter 03: the group sum of the W4A8 example is 29,892. -/
def exampleBlock (c e : Int) : List Int := (List.range 16).map fun (i : Nat) => c * ((i : Int) - 8) + e
def exampleGrid : List Int := (up.core 0).reg.grids.getD 0 []

theorem test_matrix_group_sum :
    groupInt ((List.range 64).map fun i => intOperand 0 0 exampleGrid (i % 16))
      (exampleBlock 3 5 ++ exampleBlock (-2) 10 ++ exampleBlock 5 (-3) ++ exampleBlock 1 0) = 29892 := by decide +kernel

/-- Chapter 03: its scale, channel record, token scale and conversion give 0xC5, or 0xFF with sat. -/
theorem test_matrix_output_example :
    let acc := add32 .zero (mul32 (ofInt 29892 0) (decodeUE5M3 0x4D))
    let x : MxDesc := { ofmt := 4, ch := true, tok := true, bias := true, outZp := 128, scaleInv := 0x41800000 }
    let ch := leBytes 4 0x3D400000 ++ leBytes 4 0xBFA00000
    finishOutput x ch (leBytes 4 0x3E200000) 0 0 0 acc = (0xC5, 0) ∧
      finishOutput { x with scaleInv := 0x42800000 } ch (leBytes 4 0x3E200000) 0 0 0 acc = (0xFF, flagSat) := by
  decide +kernel

/-- R208, chapter 08: entry 0x1234 of die 1 lies at 0x000F_FC00_91A0. -/
theorem test_frame_entry_address :
    entryAddr 0x201234 = 0x000FFC0091A0 ∧ (parseEntry 0x4C40000414004000).number = 0x4000 ∧
      (parseEntry 0x4C40000414004000).gen = 3 ∧ (parseEntry 0x4C40000414004000).word = 0x4C40000414004000 := by
  decide +kernel

/-- Pool 5 of the example, on CD1. -/
def frameUp (w : Nat) : State :=
  (up.onKv fun k => { k with pools := [{ kvPool with id := 5, dieMask := 2 }] }).writeNat (entryAddr 0x201234) 8 w

/-- Chapter 08: the entry's words as references and readers come and go. -/
theorem test_frame_ref_add :
    (after (.ftRefAdd 0x201234 2) (frameUp 0x4C40000414004000)).entryWord 0x201234 = 0x4E40000C14004000 := by decide +kernel

theorem test_frame_lookup_and_release :
    (after (.ftLookup 0x201234 5 0xF0) (frameUp 0x4E40000C14004000)).entryWord 0x201234 = 0x4E40400C14004000 ∧
      (after (.ftRelease ⟨0x201234, 5⟩) (frameUp 0x4E40800814004000)).entryWord 0x201234 = 0x4E40400814004000 := by decide +kernel

theorem test_frame_ref_sub :
    (after (.ftRefSub 0x201234) (frameUp 0x4E40400814004000)).entryWord 0x201234 = 0x4E40400414004000 ∧
      (after (.ftRefSub 0x201234) (frameUp 0x4E40000414004000)).entryWord 0x201234 = 0x4C00000014004000 := by decide +kernel

/-- Chapter 12: JL_STATUS[4] of a running line with three nodes. -/
theorem test_line_status_example :
    (up.onLine 4 fun x => { x with state := .running, found := [{}, {}, {}], maxSegment := 12 }).reg 0x00080020 =
      0x8C0C0000 := by decide +kernel

/-- Chapter 13: 25.421875 / 8 as a slot's torque; chapter 15: damping 40 / 64. -/
theorem test_slot_words :
    encode32 0 (div32 (decode32 0x41CB6000) (decode32 0x41000000)) = 0x404B6000 ∧
      encode32 0 (div32 (decode32 0x42200000) (decode32 0x42800000)) = 0x3F200000 := by decide +kernel

/-- Chapter 13: joint 0 of the bench slide may accelerate between -5,312.5 and 4,687.5. -/
theorem test_limit_bounds_example :
    let x := limitBounds 100 { qMax := one32, vMax := one32 } (decode32 0x3F000000) (decode32 0x3D800000)
    encode32 0 x.1 = 0xC5A60400 ∧ encode32 0 x.2.1 = 0x45927C00 ∧ x.2.2 = false := by decide +kernel

/-- Chapter 14: SCH_PART_STATUS[3] with one job running and one that waits. -/
theorem test_part_status_example :
    (withJobs (up.onSch fun x => { x with
      active := { id := 1, rows := [{ masks := [0x3C, 0, 0x00FFFF0000000000, 0x000000FF00000000] }] }
      classes := [0, 7, 1, 2], row := 0 })
      [{ key := { tag := 9 }, partition := 3, state := .running }, { key := { tag := 7 }, partition := 3, state := .preempted }]).reg
        0x0003004C = 0x40080101 := by decide +kernel

/-- Chapter 15: the registers after three disagreements within 100 links. -/
theorem test_assize_registers :
    let s := (inLink 125200 runSafe).onAsz fun a => { a with
      safe := true, firstCause := 6, causes := 0x40, entryLink := 125160, disagreements := 3
      disagreeLinks := [125097, 125099, 125160] }
    s.reg 0x00050000 = 0xBE060000 ∧ s.reg 0x00050004 = 0x40 ∧ s.reg 0x00050008 = 0x0001E8E8 ∧
      s.reg 0x00050014 = 0x00030103 := by decide +kernel

/-- Chapter 16: the fork's header and its completion entry. -/
theorem test_fork_header :
    ({ ring := 3, family := 5, operation := 3, flags := 4, tag := 0x101, context := 3, length := 32
       pw := [17, 18, 4096, 0, 0] } : Cmd).headerBytes.take 52 =
      [5, 3, 4, 0, 1, 1, 0, 0, 3, 0, 0, 0, 0x20, 0, 0, 0] ++ List.replicate 24 0 ++
        [0x11, 0, 0, 0, 0x12, 0, 0, 0, 0, 0x10, 0, 0] := by decide +kernel

theorem test_fork_completion :
    let e := entryBytes { tag := 0x101, status := 0, opcode := 5 + 256 * 3, res0 := 90112 } 0 1 true
    e.take 16 = [1, 1, 0, 0, 0, 0, 5, 3, 0, 0x60, 1, 0, 0, 0, 0, 0] ∧ (e.drop 40).take 3 = [1, 0, 1] ∧ e.length = 64 := by
  decide +kernel

/-- Chapter 18: the timing words of 1 Mbit/s with 5 Mbit/s data, and CAN_STATUS[2]. -/
theorem test_can_timing_example :
    arbParts 0x0F1E7C00 = (1, 63, 16, 16) ∧ timingOk (arbParts 0x0F1E7C00) 80 = true ∧
      dataParts 0x01330A00 = (1, 11, 4, 4) ∧ timingOk (dataParts 0x01330A00) 8 = true ∧
      (up.onCan 2 fun c => { c with mode := 1, loopDelay := 12 }).reg 0x00090200 = 0x2000000C := by decide +kernel

/-- Chapter 19: an image of 80,000,000 bytes has 1,221 pieces, the last of 46,080 bytes. -/
theorem test_firmware_pieces :
    let f : Fw := { header := record 256 [(20, 4, 80000000), (28, 4, 1221)] }
    ceilDiv 80000000 65536 = f.pieceCount ∧ f.pieceLen 1220 = 46080 ∧ f.pieceLen 1219 = 65536 := by decide +kernel

/-- Chapter 20: lane 37 of SEG2 in the wear record, and its registers. -/
theorem test_wear_entry_example :
    wearEntryBytes { kind := 3, place := 2, detail := 37 } = [3, 2, 0, 0, 0x25, 0, 0, 0] ∧
      (up.onSegDir 2 .fwd fun x => { x with sparesLeft := 7 }).reg 0x000D0028 = 0x78000000 ∧
      (up.onSpr fun p => { p with last := { kind := 3, place := 2 } }).reg 0x000D0040 = 0x03020000 := by decide +kernel

/-- Chapter 21: PWR_STATUS under a cap of 71 W. -/
theorem test_power_status_example :
    (up.onPwr fun p => { p with cap := 71, op := [0, 2, 3, 3] }).reg 0x000E0000 = 0x004700F8 := by decide +kernel

/-- Chapter 23: what a driver reads as it brings up context 0. -/
theorem test_bring_up_registers :
    up.reg 0 = 0x57554800 ∧ up.reg 8 = 0x80000000 ∧ State.reset.reg 8 = 0x0000000F ∧
      (up.onCtx 0 fun x => { x with sqHead := 1 }).reg 0x00022000 = 0x80000001 := by decide +kernel

/-- Chapter 23: step 7 opens the context, and with a submission size of 3 the enable reads 0. -/
theorem test_context_enable :
    let s := up.onHl fun h => { h with ctx0Sq := 0x800123400000, ctx0Cq := 0x800123410000, ctxs := List.replicate 256 {} }
    ((after (.ctx0Enable 0x80100808) s).ctx 0).isOpen = true ∧ (after (.ctx0Enable 0x80100808) s).hl.ctx0Cfg = 0x80100808 ∧
      ((after (.ctx0Enable 0x80100803) s).ctx 0).isOpen = false ∧
      (after (.ctx0Enable 0x80100803) s).hl.ctx0Cfg = 0x40100803 := by decide +kernel

/-- A queue of commands: the front one runs, the rest stay; an empty queue idles. -/
theorem test_step_takes_the_front :
    step { up with pending := [.canIntegrateAgain 3, .resultHandoff] } =
      exec (.canIntegrateAgain 3) { up with pending := [.resultHandoff] } ∧ step up = .next up := ⟨rfl, rfl⟩

/-- No row of the table gives bits: no word spells a command. -/
theorem test_no_word_decodes : decodeTableWord 8 0 = none ∧ State.reset.withFetchWord 8 0 = State.reset := ⟨rfl, rfl⟩

/-! ### Lemmas for the witnesses -/

/-- Where one place is left, that place is taken. -/
theorem placeRange_of_one {lo hi n align : Nat} {taken : List (Nat × Nat)} {draw a : Nat}
    (ha : alignUp align lo = a) (h : (hi - n - a) / align = 0) (hf : fits lo hi n taken a = true) :
    placeRange lo hi n align taken draw = some a := by
  simp [placeRange, ha, h, Nat.mod_one, hf]

/-- Where one range is taken that holds the whole region, there is no place. -/
theorem placeRange_full {lo hi n align draw : Nat} {taken : List (Nat × Nat)} (hn : 0 < n) (h : lo < hi)
    (ht : (lo, hi - lo) ∈ taken) : placeRange lo hi n align taken draw = none := by
  have h0 : ∀ a, fits lo hi n taken a = false := by
    intro a
    rw [Bool.eq_false_iff]
    intro hf
    simp only [fits, Bool.and_eq_true, decide_eq_true_eq, List.all_eq_true] at hf
    have := hf.2 _ ht
    simp [overlaps] at this
    omega
  have h1 : ∀ l : List Nat, l.filter (fits lo hi n taken) = [] := by
    intro l; simp [List.filter_eq_nil_iff, h0]
  simp [placeRange, h0, h1]

/-- The present TS lies in the link in progress. -/
theorem linkTs_le_tsNow (s : State) : linkTs s.tb.link ≤ s.tsNow := Nat.le_add_right _ _

theorem tsNow_lt (s : State) : s.tsNow < linkTs s.tb.link + 65536 := by
  unfold State.tsNow State.tsAt
  apply Nat.add_lt_add_left
  rcases Nat.eq_zero_or_pos s.linkCycles with h | h
  · simp [h]
  · rw [Nat.div_lt_iff_lt_mul h, Nat.mul_comm 65536]
    exact Nat.mul_lt_mul_of_pos_right (by omega) (by decide)

/-- A deadline before the link in progress has passed. -/
theorem deadlinePassed_of_lt (s : State) {d : Nat} (h0 : d ≠ 0) (h : d < linkTs s.tb.link) :
    s.deadlinePassed d = true := by
  have := linkTs_le_tsNow s
  simp only [State.deadlinePassed, Bool.and_eq_true, decide_eq_true_eq, ne_eq]
  exact ⟨by simpa using h0, by omega⟩

/-- The identity answer fits 70,000 bytes. -/
theorem identity_length : (identityHead ++ Config.certChain).length ≤ 70000 := by
  have h : identityHead.length ≤ 2000 := by decide +kernel
  have h2 : Config.certChain.length ≤ 64993 := by
    simp only [Config.certChain, List.length_map, List.length_range]
    exact Nat.le_of_lt (Nat.mod_lt _ (by decide))
  rw [List.length_append]; omega

theorem inHost_base {n : Nat} (h : n ≤ 70000) : inHost hostBase n = true := by
  have h1 : hostBase + 70000 ≤ hostTop := by decide +kernel
  have h2 : hostBase + n ≤ hostTop := Nat.le_trans (Nat.add_le_add_left h _) h1
  exact (Bool.and_eq_true _ _).mpr ⟨decide_eq_true (Nat.le_refl _), decide_eq_true h2⟩

theorem dmaRange_host (s : State) {n : Nat} (h : n ≤ 70000) : s.dmaRange hostBase n = true := by
  rw [State.dmaRange, payloadRange, inHost_base h]; rfl

/-- No range that begins above every region is one that hub DMA reaches. -/
theorem dmaRange_above (s : State) {a n : Nat} (h : hostTop < a) (hb : hubTop < a) (hd : isDram a = false)
    (hs : isSpad a = false) : s.dmaRange a n = false := by
  have h1 : inHost a n = false := by simp [inHost]; omega
  have h2 : inHub a n = false := by simp [inHub]; omega
  simp [State.dmaRange, payloadRange, inOpenDram, inSpad, h1, h2, hd, hs]

theorem dmaRange_zero (s : State) {n : Nat} (h : n ≤ 70000) : s.dmaRange 0 n = true := by
  have h1 : n ≤ stackSize := Nat.le_trans h (by decide +kernel)
  have h2 : n ≤ reservedOff := Nat.le_trans h (by decide +kernel)
  have h3 : isDram 0 = true := by decide +kernel
  simp [State.dmaRange, payloadRange, inOpenDram, h1, h2, h3]

/-- A core whose next instruction has bad parity in its first byte. -/
theorem fetchBad_of {s : State} {g b : Nat} (h : spadOf g + 4 * (s.core g).reg.pc = b)
    (hb : s.mem.badParity = [b]) : s.fetchBad g = true := by
  simp [State.fetchBad, State.rangePoisoned, h, hb, Config.instrWords]

/-- One byte of bad parity below the next instruction leaves its fetch good. -/
theorem fetchBad_below {s : State} {g b : Nat} (h : b < spadOf g + 4 * (s.core g).reg.pc) (hp : s.mem.poison = [])
    (hb : s.mem.badParity = [b]) : s.fetchBad g = false := by
  simp [State.fetchBad, State.rangePoisoned, hb, hp]
  omega

/-- Every row of a table of equal rows has the masks of its first. -/
theorem mask_of_equal_rows {t : Table} {x : TableRow} {n : Nat} (h : t.rows = List.replicate n x) {r : Nat} (hr : r < n)
    (p : Nat) : t.mask r p = x.masks.getD p 0 := by
  simp [Table.mask, h, hr]

/-- A test that every row passes fails nowhere. -/
theorem firstFail_none {test : Nat → Nat → Bool} {w : Nat} (h : ∀ r, r < 80 → ∀ i, i < w → test r i = true) :
    firstFail test w = none := by
  simp only [firstFail, List.findSome?_eq_none_iff, List.mem_range, Option.map_eq_none_iff, List.find?_eq_none]
  intro r hr i hi
  simp [h r hr i hi]

/-- A table of 80 equal rows without events passes R356 where its head, its check word and its row do. -/
theorem tableCheck_of_equal_rows {s : State} {t : Table} {x : TableRow} {n : Nat} (hn : n = 80)
    (hr : t.rows = List.replicate n x)
    (h1 : fieldAt t.header 0 4 = 0x54535755 ∧ fieldAt t.header 4 2 = 1 ∧ fieldAt t.header 6 2 = 80 ∧
      fieldAt t.header 8 4 ≠ 0 ∧ fieldAt t.header 16 48 = 0)
    (h2 : fieldAt t.header 12 4 = crc32c (t.header.take 12 ++ t.rowBytes))
    (h3 : ∀ p, p < 16 → (x.masks.getD p 0 &&& (List.range p).foldl (fun m q => m ||| x.masks.getD q 0) 0) = 0)
    (h4 : ∀ p, p < 16 → s.allPresent (x.masks.getD p 0) = true)
    (h5 : x.masks.getD 0 0 ≠ 0 ∧ popcount64 (x.masks.getD 0 0) ≤ 16 ∧ oneDie (x.masks.getD 0 0) = true)
    (h6 : ∀ p, p < 16 → x.masks.getD p 0 = 0 ∨ s.sch.classes.getD p 7 ≠ 7)
    (h7 : ∀ i, x.events.getD i {} = {}) (h9 : s.sch.jobs = []) : s.tableCheck t = none := by
  have e3 : firstFail (fun r p => t.mask r p &&& t.below r p = 0) 16 = none := firstFail_none fun r hr' p hp => by
    simpa only [Table.below, mask_of_equal_rows hr (hn ▸ hr'), decide_eq_true_eq] using h3 p hp
  have e4 : s.absentCheck t = none := firstFail_none fun r hr' p hp => by
    rw [mask_of_equal_rows hr (hn ▸ hr')]; exact h4 p hp
  have e5 : firstFail (fun r _ => t.mask r 0 = t.mask 0 0 && t.mask r 0 ≠ 0 && popcount64 (t.mask r 0) ≤ 16 &&
      oneDie (t.mask r 0)) 1 = none := firstFail_none fun r hr' i _ => by
    rw [mask_of_equal_rows hr (hn ▸ hr'), mask_of_equal_rows hr (r := 0) (by omega)]; simp only [h5]; simpa using h5.1
  have e6 : firstFail (fun r p => t.mask r p = 0 || s.sch.classes.getD p 7 ≠ 7) 16 = none :=
    firstFail_none fun r hr' p hp => by
      rw [mask_of_equal_rows hr (hn ▸ hr')]; simpa only [Bool.or_eq_true, decide_eq_true_eq] using h6 p hp
  have he : ∀ r, r < 80 → ∀ i, ((t.rows.getD r {}).events).getD i {} = {} := fun r hr' i => by
    have : t.rows.getD r {} = x := by simp [hr, hn ▸ hr']
    rw [this]; exact h7 i
  have e7 : firstFail (fun r i => eventOk (((t.rows.getD r {}).events).getD i {})) 8 = none :=
    firstFail_none fun r hr' i _ => by rw [he r hr' i]; decide
  have e8 : firstFail (fun r i => (((t.rows.getD r {}).events).getD i {}).kind ≠ 2 ||
      (s.sch.classes.getD (((t.rows.getD r {}).events).getD i {}).partition 7 = 3 &&
        t.mask r (((t.rows.getD r {}).events).getD i {}).partition ≠ 0)) 8 = none :=
    firstFail_none fun r hr' i _ => by rw [he r hr' i]; simp
  have e9 : s.liveCheck t = none := by simp [State.liveCheck, h9]
  simp only [State.tableCheck, e3, e4, e5, e6, e7, e8, e9, Option.map_none]
  simp [h1, ← h2]

/-- Where one number is free, that one is taken. -/
theorem take_of_one {f : FreeList} {d : Nat} (h : f.count = 1) :
    f.take d = some (nthFree f.used 0, { f with used := insertNat (nthFree f.used 0) f.used }) := by
  simp [FreeList.take, h, Nat.mod_one]

theorem ftAlloc_of_one {s : State} {die pool state : Nat} (p : Pool) (x : PoolDie) (hp : s.pool pool = some p)
    (hd : p.onDie die = true) (hx : p.die die = x) (he : x.entries.count = 1) (hf : x.frames.count = 1)
    (hs : state ≠ ftSwapped) :
    let k := nthFree x.entries.used 0
    let f := nthFree x.frames.used 0
    let index := die * 2 ^ 21 + x.firstEntry + k
    s.ftAlloc die pool state 0 = some (index,
      (s.onPoolDie pool die fun y => { y with
        entries := { x.entries with used := insertNat k x.entries.used }
        frames := { x.frames with used := insertNat f x.frames.used } }).setEntry index
          { home := die, gen := (s.entry index).gen + 1, state := state, refs := 1, pool := pool, number := f }) := by
  simp [State.ftAlloc, hp, hd, hx, take_of_one he, take_of_one hf, hs]

theorem writePoisoned_clean {s : State} {a n : Nat} (h : s.dramDead a = false) (hp : s.mem.poison = []) :
    s.writePoisoned a n = false := by simp [State.writePoisoned, h, hp]

/-! ### A witness for every statement with hypotheses -/

theorem witness_EmptyQueueIdles :
    (∃ (s : State), s.pending = []) :=
  let s : State := up
  ⟨s, (by decide +kernel)⟩

theorem witness_MemoryStaysCanonical :
    (∃ (s : State) (t : State), s.mem.wf = true ∧ step s = .next t) :=
  let s : State := up
  let t : State := up
  ⟨s, t, ⟨(by decide +kernel), rfl⟩⟩

theorem witness_TablesKeepTheirSizes :
    (∃ (s : State) (t : State), Shaped s ∧ step s = .next t) :=
  let s : State := up
  let t : State := up
  ⟨s, t, ⟨(by unfold Shaped; decide +kernel), rfl⟩⟩

theorem witness_LinkCountStepsByOne :
    (∃ (c : Instr) (s : State) (t : State), exec c s = .next t) :=
  let c : Instr := .canIntegrateAgain 3
  let s : State := up
  let t : State := (nextOf (exec c s)).getD up
  ⟨c, s, t, rfl⟩

theorem witness_OnlyNamedCommandsChangeTheMode :
    (∃ (c : Instr) (s : State) (t : State), exec c s = .next t ∧ (∀ x, c ≠ .devMode x) ∧ c ≠ .runEntryAtMile ∧ (∀ k, c
      ≠ .syncAlignEdge k) ∧ (∀ r, c ≠ .startSequenceComplete r) ∧ (∀ b, c ≠ .hubResetRelease b) ∧ c ≠ .resetAssert ∧ c
      ≠ .powerLoss ∧ (∀ v, c ≠ .devResetWrite v)) :=
  let c : Instr := .canIntegrateAgain 3
  let s : State := inMode .run
  let t : State := (nextOf (exec c s)).getD up
  ⟨c, s, t, ⟨rfl, (fun _ h => Instr.noConfusion h), (by decide +kernel), (fun _ h => Instr.noConfusion h), (fun _ h => Instr.noConfusion h), (fun _ h => Instr.noConfusion h), (by decide +kernel), (by decide +kernel), (fun _ h => Instr.noConfusion h)⟩⟩

theorem witness_SafeStateEndsOnlyWhereNamed :
    (∃ (c : Instr) (s : State) (t : State), exec c s = .next t ∧ s.asz.safe = true ∧ c ≠ .safeReleaseEffect ∧ (∀ x, c
      ≠ .devMode x) ∧ c ≠ .resetAssert ∧ c ≠ .powerLoss ∧ (∀ v, c ≠ .devResetWrite v)) :=
  let c : Instr := .canIntegrateAgain 3
  let s : State := runSafe.onAsz (fun a => { a with safe := true })
  let t : State := (nextOf (exec c s)).getD up
  ⟨c, s, t, ⟨rfl, (by decide +kernel), (by decide +kernel), (fun _ h => Instr.noConfusion h), (by decide +kernel), (by decide +kernel), (fun _ h => Instr.noConfusion h)⟩⟩

theorem witness_LostPairStaysLost :
    (∃ (c : Instr) (s : State) (t : State), exec c s = .next t ∧ c ≠ .resetAssert ∧ c ≠ .powerLoss ∧ (∀ v, c ≠
      .devResetWrite v) ∧ s.asz.pairAOk = false) ∧
    (∃ (c : Instr) (s : State) (t : State), exec c s = .next t ∧ c ≠ .resetAssert ∧ c ≠ .powerLoss ∧ (∀ v, c ≠
      .devResetWrite v) ∧ s.asz.pairBOk = false) :=
  ⟨let c : Instr := .canIntegrateAgain 3
   let s : State := runSafe.onAsz (fun a => { a with pairAOk := false })
   let t : State := (nextOf (exec c s)).getD up
   ⟨c, s, t, ⟨rfl, (by decide +kernel), (by decide +kernel), (fun _ h => Instr.noConfusion h), (by decide +kernel)⟩⟩,
   let c : Instr := .canIntegrateAgain 3
   let s : State := runSafe.onAsz (fun a => { a with pairBOk := false })
   let t : State := (nextOf (exec c s)).getD up
   ⟨c, s, t, ⟨rfl, (by decide +kernel), (by decide +kernel), (fun _ h => Instr.noConfusion h), (by decide +kernel)⟩⟩⟩

theorem witness_DevInfoAndModeComplete :
    (∃ (c : Cmd) (s : State), Starts 1 1 c s) ∧
    (∃ (c : Cmd) (s : State), Starts 1 2 c s ∧ s.dev.mode ≠ .start ∧ (c.word 0 % 16 = s.dev.mode.code ∨ (c.word 0 % 16
      = 1 ∧ s.dev.mode = .degraded))) ∧
    (∃ (c : Cmd) (s : State), Starts 1 2 c s ∧ s.dev.mode = .config ∧ c.word 0 % 16 = 3) ∧
    (∃ (c : Cmd) (s : State), Starts 1 2 c s ∧ s.dev.mode = .config ∧ c.word 0 % 16 = 5) ∧
    (∃ (c : Cmd) (s : State), Starts 1 2 c s ∧ (s.dev.mode = .run ∨ s.dev.mode = .degraded ∨ s.dev.mode = .test ∨
      s.dev.mode = .replay) ∧ c.word 0 % 16 = 0 ∧ (s.asz.safe = true → s.asz.torqueOff = true)) ∧
    (∃ (c : Cmd) (s : State), Starts 1 2 c s ∧ s.dev.mode = .config ∧ s.tb.runReq = none ∧ c.word 0 % 16 = 1 ∧ (begun
      c s).runStatus = stOk) ∧
    (∃ (c : Cmd) (s : State), Starts 1 2 c s ∧ s.dev.mode = .config ∧ s.tb.runReq ≠ none ∧ c.word 0 % 16 = 1 ∧ (begun
      c s).runStatus = stOk) :=
  ⟨let c : Cmd := cm 1 1
   let s : State := at0 up c
   ⟨c, s, (by unfold Starts; decide +kernel)⟩,
   let c : Cmd := cm 1 2 [0]
   let s : State := at0 up c
   ⟨c, s, (by unfold Starts; decide +kernel)⟩,
   let c : Cmd := cm 1 2 [3]
   let s : State := at0 up c
   ⟨c, s, (by unfold Starts; decide +kernel)⟩,
   let c : Cmd := cm 1 2 [5]
   let s : State := at0 up c
   ⟨c, s, (by unfold Starts; decide +kernel)⟩,
   let c : Cmd := cm 1 2 [0]
   let s : State := at0 (inMode .run) c
   ⟨c, s, (by unfold Starts; decide +kernel)⟩,
   let c : Cmd := cm 1 2 [1]
   let s : State := at0 ready c
   ⟨c, s, (by unfold Starts; decide +kernel)⟩,
   let c : Cmd := cm 1 2 [1]
   let s : State := at0 (ready.onTb fun t => { t with runReq := some {} }) c
   ⟨c, s, (by unfold Starts; decide +kernel)⟩⟩

theorem witness_DevModeRefusals :
    (∃ (c : Cmd) (s : State), Starts 1 2 c s ∧ 6 ≤ c.word 0 % 16) ∧
    (∃ (c : Cmd) (s : State) (m : Mode), Starts 1 2 c s ∧ c.word 0 % 16 = m.code ∧ (m = .degraded ∨ m = .recovery) ∧
      s.dev.mode ≠ m) ∧
    (∃ (c : Cmd) (s : State), Starts 1 2 c s ∧ (s.dev.mode = .run ∨ s.dev.mode = .degraded) ∧ (c.word 0 % 16 = 3 ∨
      c.word 0 % 16 = 5)) ∧
    (∃ (c : Cmd) (s : State), Starts 1 2 c s ∧ (s.dev.mode = .test ∨ s.dev.mode = .replay) ∧ (c.word 0 % 16 = 1 ∨
      c.word 0 % 16 = 3 ∨ c.word 0 % 16 = 5) ∧ c.word 0 % 16 ≠ s.dev.mode.code) ∧
    (∃ (c : Cmd) (s : State), Starts 1 2 c s ∧ s.dev.mode = .config ∧ c.word 0 % 16 = 1 ∧ (begun c s).runStatus ≠
      stOk) ∧
    (∃ (c : Cmd) (s : State), Starts 1 2 c s ∧ (s.dev.mode = .run ∨ s.dev.mode = .degraded) ∧ c.word 0 % 16 = 0 ∧
      s.asz.safe = true ∧ s.asz.torqueOff = false) :=
  ⟨let c : Cmd := cm 1 2 [6]
   let s : State := at0 up c
   ⟨c, s, (by unfold Starts; decide +kernel)⟩,
   let c : Cmd := cm 1 2 [2]
   let s : State := at0 up c
   let m : Mode := .degraded
   ⟨c, s, m, (by unfold Starts; decide +kernel)⟩,
   let c : Cmd := cm 1 2 [3]
   let s : State := at0 (inMode .run) c
   ⟨c, s, (by unfold Starts; decide +kernel)⟩,
   let c : Cmd := cm 1 2 [3]
   let s : State := at0 (inMode .replay) c
   ⟨c, s, (by unfold Starts; decide +kernel)⟩,
   let c : Cmd := cm 1 2 [1]
   let s : State := at0 (up) c
   ⟨c, s, (by unfold Starts; decide +kernel)⟩,
   let c : Cmd := cm 1 2 [0]
   let s : State := at0 ((inMode .run).onAsz fun z => { z with safe := true }) c
   ⟨c, s, (by unfold Starts; decide +kernel)⟩⟩

theorem witness_ContextsOpenAndClose :
    (∃ (c : Cmd) (s : State) (k : Nat), Starts 1 3 c s ∧ Shaped s ∧ (begun c s).freeCtx = some k ∧ ctxBlockBad c.data
      = false) ∧
    (∃ (c : Cmd) (s : State) (k : Nat), Starts 1 4 c s ∧ Shaped s ∧ c.word 0 % 256 = k ∧ k ≠ 0 ∧ c.ring ≠ k ∧ (s.ctx
      k).isOpen = true ∧ (s.ctx k).closing = false ∧ (s.ctx k).slots = [] ∧ (s.sch.jobs.all fun j => j.key.ctx ≠ k) =
      true ∧ (s.kv.seqs.all fun q => q.ctx ≠ k) = true) ∧
    (∃ (c : Cmd) (s : State), Starts 1 3 c s ∧ (begun c s).freeCtx = none) ∧
    (∃ (c : Cmd) (s : State), Starts 1 3 c s ∧ (begun c s).freeCtx ≠ none ∧ ctxBlockBad c.data = true) ∧
    (∃ (c : Cmd) (s : State) (k : Nat), Starts 1 4 c s ∧ c.word 0 % 256 = k ∧ (k = 0 ∨ (s.ctx k).isOpen = false)) ∧
    (∃ (c : Cmd) (s : State) (k : Nat), Starts 1 4 c s ∧ c.word 0 % 256 = k ∧ k ≠ 0 ∧ (s.ctx k).isOpen = true ∧ (s.ctx
      k).closing = true) ∧
    (∃ (c : Cmd) (s : State) (k : Nat), Starts 1 4 c s ∧ c.word 0 % 256 = k ∧ k ≠ 0 ∧ (s.ctx k).isOpen = true ∧ (s.ctx
      k).closing = false) :=
  ⟨let c : Cmd := cm 1 3 [] (record 64 [(0, 8, hostBase + 2 ^ 20), (8, 8, hostBase + 2 ^ 21), (16, 1, 6), (17, 1, 16),
      (18, 1, 255)])
   let s : State := at0 up c
   let k : Nat := 1
   ⟨c, s, k, (by unfold Starts Shaped; decide +kernel)⟩,
   let c : Cmd := cm 1 4 [255]
   let s : State := at0 (up.onCtx 255 fun x => { x with isOpen := true }) c
   let k : Nat := 255
   ⟨c, s, k, (by unfold Starts Shaped; decide +kernel)⟩,
   let c : Cmd := cm 1 3 [] (record 64 [])
   let s : State := at0 (up.onHl fun h => { h with ctxs := ctx0 :: List.replicate 255 { isOpen := true } }) c
   ⟨c, s, (by unfold Starts; decide +kernel)⟩,
   let c : Cmd := cm 1 3 [] (record 64 [(16, 1, 17)])
   let s : State := at0 (up) c
   ⟨c, s, (by unfold Starts; decide +kernel)⟩,
   let c : Cmd := cm 1 4 [0]
   let s : State := at0 (up) c
   let k : Nat := 0
   ⟨c, s, k, (by unfold Starts; decide +kernel)⟩,
   let c : Cmd := cm 1 4 [255]
   let s : State := at0 (up.onCtx 255 fun x => { x with isOpen := true, closing := true }) c
   let k : Nat := 255
   ⟨c, s, k, (by unfold Starts; decide +kernel)⟩,
   let c : Cmd := cm 1 4 [255]
   let s : State := at0 (up.onCtx 255 fun x => { x with isOpen := true }) c
   let k : Nat := 255
   ⟨c, s, k, (by unfold Starts; decide +kernel)⟩⟩

theorem witness_IdentityAndAttestationWriteTheirRecords :
    (∃ (c : Cmd) (s : State),
      let out := identityHead ++ Config.certChain
      Starts 1 5 c s ∧ out.length ≤ c.word 2 ∧ (if s.dev.mode = .recovery then inHost (c.addr 0) out.length else
      (begun c s).dmaRange (c.addr 0) out.length) = true ∧ s.writePoisoned (c.addr 0) out.length = false) ∧
    (∃ (c : Cmd) (s : State),
      let m := (begun c s).statement c.data ++ Config.deviceSign ((begun c s).statement c.data)
      Starts 1 6 c s ∧ s.fw.keyMatches = true ∧ 352 ≤ c.word 2 ∧ (if s.dev.mode = .recovery then inHost (c.addr 0)
      m.length else (begun c s).dmaRange (c.addr 0) m.length) = true ∧ s.writePoisoned (c.addr 0) m.length = false) ∧
    (∃ (c : Cmd) (s : State), Starts 1 5 c s ∧ c.word 2 < (identityHead ++ Config.certChain).length) ∧
    (∃ (c : Cmd) (s : State),
      let out := identityHead ++ Config.certChain
      let reach := if s.dev.mode = .recovery then inHost (c.addr 0) out.length else (begun c s).dmaRange (c.addr 0)
        out.length
      Starts 1 5 c s ∧ out.length ≤ c.word 2 ∧ reach = false) ∧
    (∃ (c : Cmd) (s : State),
      let out := identityHead ++ Config.certChain
      let reach := if s.dev.mode = .recovery then inHost (c.addr 0) out.length else (begun c s).dmaRange (c.addr 0)
        out.length
      Starts 1 5 c s ∧ out.length ≤ c.word 2 ∧ reach = true ∧ s.writePoisoned (c.addr 0) out.length = true) ∧
    (∃ (c : Cmd) (s : State),
      let m := (begun c s).statement c.data ++ Config.deviceSign ((begun c s).statement c.data)
      let reach := if s.dev.mode = .recovery then inHost (c.addr 0) m.length else (begun c s).dmaRange (c.addr 0)
        m.length
      Starts 1 6 c s ∧ s.fw.keyMatches = true ∧ 352 ≤ c.word 2 ∧ reach = false) ∧
    (∃ (c : Cmd) (s : State),
      let m := (begun c s).statement c.data ++ Config.deviceSign ((begun c s).statement c.data)
      let reach := if s.dev.mode = .recovery then inHost (c.addr 0) m.length else (begun c s).dmaRange (c.addr 0)
        m.length
      Starts 1 6 c s ∧ s.fw.keyMatches = true ∧ 352 ≤ c.word 2 ∧ reach = true ∧ s.writePoisoned (c.addr 0) m.length =
      true) ∧
    (∃ (c : Cmd) (s : State), Starts 1 6 c s ∧ s.fw.keyMatches = false) ∧
    (∃ (c : Cmd) (s : State), Starts 1 6 c s ∧ s.fw.keyMatches = true ∧ c.word 2 < 352) :=
  ⟨let c : Cmd := cm 1 5 [0, 0x8000, 2 ^ 32 - 1]
   let s : State := at0 (up) c
   ⟨c, s, ⟨(by unfold Starts; decide +kernel), (Nat.le_trans identity_length
      (by decide +kernel)),
      (by have h : c.addr 0 = hostBase := (by decide +kernel); rw [h]; exact dmaRange_host _ identity_length),
      (writePoisoned_clean (by decide +kernel) rfl)⟩⟩,
   let c : Cmd := cm 1 6 [0, 0x8000, 352] (record 64 [])
   let s : State := at0 up c
   ⟨c, s, (by unfold Starts; decide +kernel)⟩,
   let c : Cmd := cm 1 5 [0, 0x8000, 0]
   let s : State := at0 (up) c
   ⟨c, s, ⟨(by unfold Starts; decide +kernel), (by decide +kernel)⟩⟩,
   let c : Cmd := cm 1 5 [2 ^ 32 - 1, 2 ^ 32 - 1, 2 ^ 32 - 1]
   let s : State := at0 (up) c
   ⟨c, s, ⟨(by unfold Starts; decide +kernel), (Nat.le_trans identity_length (by decide +kernel)),
      (by rw [if_neg (by decide +kernel)]; exact dmaRange_above _ (by decide +kernel) (by decide +kernel) (by decide +kernel) (by decide +kernel))⟩⟩,
   let c : Cmd := cm 1 5 [0, 0, 2 ^ 32 - 1]
   let s : State := at0 (up.onDram 0 fun d => { d with dead := true }) c
   ⟨c, s, ⟨(by unfold Starts; decide +kernel), (Nat.le_trans identity_length (by decide +kernel)),
      (by rw [if_neg (by decide +kernel)]; have h : c.addr 0 = 0 := (by decide +kernel); rw [h]; exact dmaRange_zero _ identity_length),
      (by have h : s.dramDead (c.addr 0) = true := (by decide +kernel); simp only [State.writePoisoned, h, Bool.true_or])⟩⟩,
   let c : Cmd := cm 1 6 [2 ^ 32 - 1, 2 ^ 32 - 1, 352] (record 32 [])
   let s : State := at0 (up) c
   ⟨c, s, (by unfold Starts; decide +kernel)⟩,
   let c : Cmd := cm 1 6 [0, 0, 352] (record 32 [])
   let s : State := at0 (up.onDram 0 fun d => { d with dead := true }) c
   ⟨c, s, (by unfold Starts; decide +kernel)⟩,
   let c : Cmd := cm 1 6 [0, 0x8000, 352] (record 64 [])
   let s : State := at0 (up.onFw fun f => { f with keyMatches := false }) c
   ⟨c, s, (by unfold Starts; decide +kernel)⟩,
   let c : Cmd := cm 1 6 [0, 0x8000, 351] (record 64 [])
   let s : State := at0 (up) c
   ⟨c, s, (by unfold Starts; decide +kernel)⟩⟩

theorem witness_DoorbellsMoveTheirRings :
    (∃ (s : State) (k : Nat) (v : Nat), Shaped s ∧ k < 256 ∧ (s.ctx k).isOpen = true ∧ v < 2 ^ (s.ctx k).sqLog) ∧
    (∃ (s : State) (k : Nat) (v : Nat), Shaped s ∧ k < 256 ∧ ((s.ctx k).isOpen = false ∨ 2 ^ (s.ctx k).sqLog ≤ v)) ∧
    (∃ (s : State) (k : Nat) (v : Nat), Shaped s ∧ k < 256 ∧ (s.ctx k).isOpen = true ∧ v < 2 ^ (s.ctx k).cqLog ∧
      (s.ctx k).waiting = []) ∧
    (∃ (s : State) (k : Nat) (v : Nat), Shaped s ∧ k < 256 ∧ ((s.ctx k).isOpen = false ∨ 2 ^ (s.ctx k).cqLog ≤ v)) :=
  ⟨let s : State := up
   let k : Nat := 0
   let v : Nat := 63
   ⟨s, k, v, (by unfold Shaped; decide +kernel)⟩,
   let s : State := up
   let k : Nat := 0
   let v : Nat := 64
   ⟨s, k, v, (by unfold Shaped; decide +kernel)⟩,
   let s : State := up
   let k : Nat := 0
   let v : Nat := 63
   ⟨s, k, v, (by unfold Shaped; decide +kernel)⟩,
   let s : State := up
   let k : Nat := 0
   let v : Nat := 64
   ⟨s, k, v, (by unfold Shaped; decide +kernel)⟩⟩

theorem witness_CommandsAreTakenInTurn :
    (∃ (s : State) (k : Nat),
      let h := s.headHeader k
      let c : Cmd := { h with data := if bitAt h.flags 2 then s.inlineBytes k h.length else s.payloadBytes h }
      Shaped s ∧ s.dev.fwReady = true ∧ s.hl.linkUp = true ∧ s.hubDead = false ∧ s.turn = some k ∧ cmdEntries h ≤ 2 ^
      (s.ctx k).sqLog - 1 ∧ s.takeStatus c = stOk) ∧
    (∃ (s : State) (k : Nat), s.dev.fwReady = true ∧ s.hl.linkUp = true ∧ s.hubDead = false ∧ s.turn = some k) ∧
    (∃ (s : State), (s.dev.fwReady = false ∨ s.hl.linkUp = false ∨ s.hubDead = true ∨ s.turn = none)) ∧
    (∃ (s : State) (c : Cmd), Shaped s ∧ c.ring < 256 ∧ s.takeStatus c = stOk) ∧
    (∃ (s : State) (c : Cmd), Shaped s ∧ c.ring < 256 ∧ s.takeStatus c ≠ stOk) ∧
    (∃ (s : State) (k : Nat), ((s.ctx k).slots.find? fun x => x.state = .waiting && s.deadlinePassed x.cmd.deadline &&
      !(x.cmd.family = 3 && x.cmd.operation = 1)) = none) ∧
    (∃ (s : State) (k : Nat) (sl : Slot), ((s.ctx k).slots.find? fun x => x.state = .waiting && s.deadlinePassed
      x.cmd.deadline && !(x.cmd.family = 3 && x.cmd.operation = 1)) = some sl) :=
  ⟨let s : State := ((up.write hostBase (record 64 [(0, 1, 1), (1, 1, 1), (2, 2, 4)])).onCtx 0 fun x =>
      { x with sqTail := 1 })
   let k : Nat := 0
   ⟨s, k, (by unfold Shaped; decide +kernel)⟩,
   let s : State := ((up.write hostBase (record 64 [(0, 1, 1), (1, 1, 1), (2, 2, 4)])).onCtx 0 fun x =>
      { x with sqTail := 1 })
   let k : Nat := 0
   ⟨s, k, (by decide +kernel)⟩,
   let s : State := up.onCtx 0 (fun x => { x with slots := [{ cmd := { cm 1 1 with deadline := 1 } }] })
   ⟨s, (by decide +kernel)⟩,
   let c : Cmd := cm 1 1
   let s : State := up
   ⟨s, c, (by unfold Shaped; decide +kernel)⟩,
   let c : Cmd := cm 1 0
   let s : State := up
   ⟨s, c, (by unfold Shaped; decide +kernel)⟩,
   let s : State := ((up.write hostBase (record 64 [(0, 1, 1), (1, 1, 1), (2, 2, 4)])).onCtx 0 fun x =>
      { x with sqTail := 1 })
   let k : Nat := 0
   ⟨s, k, (by decide +kernel)⟩,
   let s : State := up.onCtx 0 (fun x => { x with slots := [{ cmd := { cm 1 1 with deadline := 1 } }] })
   let k : Nat := 0
   let sl : Slot := { cmd := { cm 1 1 with deadline := 1 } }
   ⟨s, k, sl, (by have h : s.deadlinePassed 1 = true := deadlinePassed_of_lt s (by decide) (by decide +kernel); exact List.find?_cons_of_pos (by simp [h, cm]))⟩⟩

theorem witness_CompletionIsWrittenOnce :
    (∃ (s : State) (c : Cmd) (sl : Slot),
      let x := s.ctx c.ring
      Shaped s ∧ Uninjected s ∧ c.ring < 256 ∧ x.isOpen = true ∧ x.closing = false ∧ x.waiting = [] ∧ x.cqRoom = true
      ∧ s.hl.linkUp = true ∧ x.slots = [sl] ∧ sl.cmd = c ∧ sl.state = .started ∧ x.muteBelow ≤ sl.seq) ∧
    (∃ (s : State) (c : Cmd) (sl : Slot) (j : _),
      let x := s.ctx c.ring
      Shaped s ∧ Uninjected s ∧ c.ring < 256 ∧ x.isOpen = true ∧ x.closing = false ∧ x.waiting = [] ∧ x.cqRoom = true
      ∧ s.hl.linkUp = true ∧ x.slots = [sl] ∧ sl.cmd = c ∧ sl.state = .started ∧ x.muteBelow ≤ sl.seq ∧ j ≠ c.ring) :=
  ⟨let s : State := begun (cm 1 1) (at0 up (cm 1 1))
   let c : Cmd := cm 1 1
   let sl : Slot := { cmd := cm 1 1, state := .started }
   ⟨s, c, sl, (by unfold Shaped Uninjected; decide +kernel)⟩,
   let s : State := begun (cm 1 1) (at0 up (cm 1 1))
   let c : Cmd := cm 1 1
   let sl : Slot := { cmd := cm 1 1, state := .started }
   let j := 255
   ⟨s, c, sl, j, (by unfold Shaped Uninjected; decide +kernel)⟩⟩

theorem witness_ResetsAndStart :
    (∃ (s : State) (v : Nat), v % 2 ^ 32 = 0xA5A50001 ∧ s.dev.mode ≠ .run ∧ s.dev.mode ≠ .degraded ∧ s.dev.mode ≠
      .replay ∧ s.asz.safe = false) ∧
    (∃ (s : State) (v : Nat), (v % 2 ^ 32 ≠ 0xA5A50001 ∨ s.dev.mode = .run ∨ s.dev.mode = .degraded ∨ s.dev.mode =
      .replay ∨ s.asz.safe = true)) ∧
    (∃ (s : State), s.dev.inReset = true) ∧
    (∃ (s : State) (r : StartReport), s.dev.inReset = false ∧ s.dev.mode = .start ∧ (s.dev.bootsel = 1 ∨ s.dev.bootsel
      = 2 ∨ r.loaderOk = false)) ∧
    (∃ (s : State) (r : StartReport), s.dev.inReset = false ∧ s.dev.mode = .start ∧ (s.dev.bootsel = 0 ∨ s.dev.bootsel
      = 3) ∧ r.loaderOk = true ∧ r.imageOk = false ∧ r.imageOkAfterCopy = false) ∧
    (∃ (s : State) (r : StartReport), s.dev.inReset = false ∧ s.dev.mode = .start ∧ (s.dev.bootsel = 0 ∨ s.dev.bootsel
      = 3) ∧ r.loaderOk = true ∧ r.imageOk = true) :=
  ⟨let s : State := up
   let v : Nat := 0xA5A50001
   ⟨s, v, (by decide +kernel)⟩,
   let s : State := inMode .run
   let v : Nat := 0xA5A50001
   ⟨s, v, (by decide +kernel)⟩,
   let s : State := State.reset
   ⟨s, (by decide +kernel)⟩,
   let s : State := inMode .start
   let r : StartReport :=
      { loaderOk := false, dieOk := [true, true, true, true], stackOk := [true, true, true, true] }
   ⟨s, r, (by decide +kernel)⟩,
   let s : State := up.onDev fun d => { d with mode := .start, bootsel := 3 }
   let r : StartReport := { imageOk := false, imageOkAfterCopy := false }
   ⟨s, r, (by decide +kernel)⟩,
   let s : State := inMode .start
   let r : StartReport := { dieOk := [true, true, true, true], stackOk := [true, true, true, true] }
   ⟨s, r, (by decide +kernel)⟩⟩

theorem witness_ContextZeroOpensByItsRegister :
    (∃ (s : State) (v : Nat), Shaped s ∧ bitAt s.hl.ctx0Cfg 31 = false ∧ ctx0Ok s.hl.ctx0Sq s.hl.ctx0Cq ((v |||
      0x80000000) &&& 0x00FFFFFF) = true) ∧
    (∃ (s : State) (v : Nat), bitAt s.hl.ctx0Cfg 31 = false ∧ ctx0Ok s.hl.ctx0Sq s.hl.ctx0Cq ((v ||| 0x80000000) &&&
      0x00FFFFFF) = false) ∧
    (∃ (s : State) (v : Nat), bitAt s.hl.ctx0Cfg 31 = true ∧ bitAt (v ||| 0x80000000) 31 = true) ∧
    (∃ (s : State) (v : Nat), bitAt s.hl.ctx0Cfg 31 = false ∧ bitAt (v % 2 ^ 31) 31 = false) ∧
    (∃ (s : State) (v : Nat), Shaped s ∧ bitAt s.hl.ctx0Cfg 31 = true ∧ bitAt (v % 2 ^ 31) 31 = false) :=
  ⟨let s : State := up.onHl (fun h => { h with ctx0Sq := hostBase, ctx0Cq := hostBase + 65536 })
   let v : Nat := 0x80FF0606
   ⟨s, v, (by unfold Shaped; decide +kernel)⟩,
   let s : State := up.onHl (fun h => { h with ctx0Sq := hostBase + 1, ctx0Cq := hostBase + 65536 })
   let v : Nat := 0x80FF0606
   ⟨s, v, (by decide +kernel)⟩,
   let s : State := up.onHl (fun h => { h with ctx0Cfg := 0x80FF0606 })
   let v : Nat := 0
   ⟨s, v, (by decide +kernel)⟩,
   let s : State := up.onHl (fun h => { h with ctx0Sq := hostBase, ctx0Cq := hostBase + 65536 })
   let v : Nat := 0x80FF0606
   ⟨s, v, (by decide +kernel)⟩,
   let s : State := up.onHl (fun h => { h with ctx0Cfg := 0x80FF0606 })
   let v : Nat := 0
   ⟨s, v, (by unfold Shaped; decide +kernel)⟩⟩

theorem witness_Bar2AccessesReachOrAreRefused :
    (∃ (s : State) (o : Nat) (d : List Byte), s.mem.wf = true ∧ s.bar2Ok (s.hl.bar2Base * 2 ^ 30 + o) d.length = true
      ∧ s.writePoisoned (s.hl.bar2Base * 2 ^ 30 + o) d.length = false) ∧
    (∃ (s : State) (o : Nat) (d : List Byte), s.bar2Ok (s.hl.bar2Base * 2 ^ 30 + o) d.length = true ∧ s.dramDead
      (s.hl.bar2Base * 2 ^ 30 + o) = true) ∧
    (∃ (s : State) (o : Nat) (d : List Byte), s.bar2Ok (s.hl.bar2Base * 2 ^ 30 + o) d.length = false) ∧
    (∃ (s : State) (o : Nat) (n : Nat), s.bar2Ok (s.hl.bar2Base * 2 ^ 30 + o) n = false) ∧
    (∃ (s : State) (o : Nat) (n : Nat), s.bar2Ok (s.hl.bar2Base * 2 ^ 30 + o) n = true) ∧
    (∃ (s : State) (o : Nat) (n : Nat), s.bar2Ok (s.hl.bar2Base * 2 ^ 30 + o) n = true ∧ s.readPoisoned (s.hl.bar2Base
      * 2 ^ 30 + o) n = false) :=
  ⟨let s : State := up
   let o : Nat := reservedOff % 2 ^ 30 - 4
   let d : List Byte := [1, 2, 3, 4]
   ⟨s, o, d, (by decide +kernel)⟩,
   let s : State := up.onDram 0 fun d => { d with dead := true }
   let o : Nat := 2 ^ 29
   let d : List Byte := [1, 2]
   ⟨s, o, d, (by decide +kernel)⟩,
   let s : State := up.onHl (fun h => { h with bar2Base := 0x1FF })
   let o : Nat := 0
   let d : List Byte := [1]
   ⟨s, o, d, (by decide +kernel)⟩,
   let s : State := up.onHl (fun h => { h with bar2Base := 0x1FF })
   let o : Nat := 0
   let n : Nat := 1
   ⟨s, o, n, (by decide +kernel)⟩,
   let s : State := up
   let o : Nat := 0
   let n : Nat := 8
   ⟨s, o, n, (by decide +kernel)⟩,
   let s : State := up
   let o : Nat := 0
   let n : Nat := 8
   ⟨s, o, n, (by decide +kernel)⟩⟩

theorem witness_RegisterReadsLatchAndClear :
    (∃ (o : Nat), o % 4 = 0) ∧
    (∃ (o : Nat), o % 4 ≠ 0) :=
  ⟨let o : Nat := 0
   ⟨o, (by decide +kernel)⟩,
   let o : Nat := 0x10001
   ⟨o, (by decide +kernel)⟩⟩

theorem witness_RegisterWritesTakeTheirFields :
    (∃ (s : State), s.dev.mode = .config) ∧
    (∃ (s : State), s.dev.mode ≠ .config) ∧
    (∃ (o : Nat), (o % 4 ≠ 0 ∨ o = 0x10000)) ∧
    (∃ (s : State) (v : Nat), bitAt v 31 = true ∧ bitAt v 30 = false ∧ v % 256 = 0 ∧ s.tb.ptmBusy = false ∧
      s.tb.ptmPath = true ∧ s.hl.linkUp = true) ∧
    (∃ (s : State), s.tb.ptmInterval ≤ s.tb.ptmMiles ∧ s.tb.ptmBusy = false ∧ s.tb.ptmPath = true ∧ s.hl.linkUp =
      true) ∧
    (∃ (s : State), s.tb.ptmBusy = true) ∧
    (∃ (s : State) (k : Nat) (f : Nat) (v : Nat), (if f = 0 then (s.canAt k).fifo0 else (s.canAt k).fifo1).fill < v %
      128) ∧
    (∃ (s : State) (k : Nat) (v : Nat), 0 < v % 128 ∧ v % 128 ≤ (s.canAt k).fifo0.fill) ∧
    (∃ (s : State) (k : Nat) (v : Nat), 0 < v % 128 ∧ v % 128 ≤ (s.canAt k).fifo1.fill) :=
  ⟨let s : State := up
   ⟨s, (by decide +kernel)⟩,
   let s : State := inMode .run
   ⟨s, (by decide +kernel)⟩,
   let o : Nat := 0x10000
   ⟨o, (by decide +kernel)⟩,
   let s : State := ptmUp
   let v : Nat := 0x80000000
   ⟨s, v, (by decide +kernel)⟩,
   let s : State := ptmUp.onTb (fun t => { t with ptmMiles := 64 })
   ⟨s, (by decide +kernel)⟩,
   let s : State := up.onTb (fun t => { t with ptmBusy := true })
   ⟨s, (by decide +kernel)⟩,
   let s : State := filled 3
   let k : Nat := 3
   let f : Nat := 0
   let v : Nat := 3
   ⟨s, k, f, v, (by decide +kernel)⟩,
   let s : State := filled 3
   let k : Nat := 3
   let v : Nat := 2
   ⟨s, k, v, (by decide +kernel)⟩,
   let s : State := filled 3
   let k : Nat := 3
   let v : Nat := 1
   ⟨s, k, v, (by decide +kernel)⟩⟩

theorem witness_LinkBoundarySlewsTheGrid :
    (∃ (s : State), s.dev.inReset = true) ∧
    (∃ (s : State), s.dev.inReset = false) ∧
    (∃ (s : State) (cyc : Nat) (e : Int), s.syncMeasured = true ∧ cyc < s.linkCycles ∧ s.syncError cyc = some e) :=
  ⟨let s : State := State.reset
   ⟨s, (by decide +kernel)⟩,
   let c : Cmd := cm 10 4
   let s : State := at0 runSafe c
   ⟨s, (by decide +kernel)⟩,
   let s : State := synced
   let cyc : Nat := 16
   let e : Int := 1
   ⟨s, cyc, e, (by decide +kernel)⟩⟩

theorem witness_SyncEdgesAreMeasuredOrStray :
    (∃ (s : State) (cyc : Nat), s.syncMeasured = true ∧ cyc < s.linkCycles ∧ s.syncError cyc = none) ∧
    (∃ (s : State) (cyc : Nat), (s.syncMeasured = false ∨ s.linkCycles ≤ cyc)) ∧
    (∃ (s : State), (s.syncMeasured = false ∨ s.syncBoundary s.tb.link = false ∨ s.tb.edgeSeen = true ∨
      s.tb.edgeMissed = 0)) ∧
    (∃ (s : State), s.tb.runReq = none) ∧
    (∃ (s : State) (r : RunReq), s.tb.runReq = some r ∧ (r.sync = true ∨ s.mileLink s.tb.link = false ∨ s.tb.link ≤
      r.link)) ∧
    (∃ (s : State) (r : RunReq), s.tb.runReq = some r ∧ r.sync = false ∧ s.mileLink s.tb.link = true ∧ r.link <
      s.tb.link ∧ s.runStatus ≠ stOk) ∧
    (∃ (s : State) (r : RunReq) (k : _), s.tb.runReq = some r ∧ (r.sync = false ∨ k = 0 ∨ s.linkCycles < k)) ∧
    (∃ (s : State) (r : RunReq) (k : _), s.tb.runReq = some r ∧ r.sync = true ∧ 0 < k ∧ k ≤ s.linkCycles ∧ s.runStatus
      ≠ stOk) ∧
    (∃ (s : State) (r : RunReq), s.tb.runReq = some r ∧ (r.sync = false ∨ s.tb.link < r.link + 2 * s.syncPeriod)) ∧
    (∃ (s : State), s.syncMeasured = true ∧ s.syncBoundary s.tb.link = true ∧ s.tb.edgeSeen = false ∧ s.tb.edgeMissed
      ≠ 0) ∧
    (∃ (s : State) (r : RunReq), s.tb.runReq = some r ∧ r.sync = false ∧ s.mileLink s.tb.link = true ∧ r.link <
      s.tb.link ∧ s.runStatus = stOk) ∧
    (∃ (s : State) (r : RunReq) (k : Nat), s.tb.runReq = some r ∧ r.sync = true ∧ 0 < k ∧ k ≤ s.linkCycles ∧
      s.runStatus = stOk) ∧
    (∃ (s : State) (r : RunReq), s.tb.runReq = some r ∧ r.sync = true ∧ r.link + 2 * s.syncPeriod ≤ s.tb.link) :=
  ⟨let s : State := synced
   let cyc : Nat := 1600
   ⟨s, cyc, (by decide +kernel)⟩,
   let s : State := up
   let cyc : Nat := 0
   ⟨s, cyc, (by decide +kernel)⟩,
   let s : State := synced
   ⟨s, (by decide +kernel)⟩,
   let s : State := synced
   ⟨s, (by decide +kernel)⟩,
   let s : State := ready.onTb (fun t => { t with runReq := some { sync := true } })
   let r : RunReq := { sync := true }
   ⟨s, r, (by decide +kernel)⟩,
   let s : State := up.onTb fun t => { t with link := 8000, runReq := some {} }
   let r : RunReq := {}
   ⟨s, r, (by decide +kernel)⟩,
   let s : State := up.onTb fun t => { t with runReq := some { sync := true } }
   let r : RunReq := { sync := true }
   let k := 0
   ⟨s, r, k, (by decide +kernel)⟩,
   let s : State := up.onTb fun t => { t with runReq := some { sync := true } }
   let r : RunReq := { sync := true }
   let k := 3200
   ⟨s, r, k, (by decide +kernel)⟩,
   let s : State := ready.onTb (fun t => { t with link := 8000, runReq := some { link := 7999 } })
   let r : RunReq := { link := 7999 }
   ⟨s, r, (by decide +kernel)⟩,
   let s : State := synced.onTb (fun t => { t with edgeMissed := 1 })
   ⟨s, (by decide +kernel)⟩,
   let s : State := ready.onTb (fun t => { t with link := 8000, runReq := some { link := 7999 } })
   let r : RunReq := { link := 7999 }
   ⟨s, r, (by decide +kernel)⟩,
   let s : State := ready.onTb (fun t => { t with runReq := some { sync := true } })
   let r : RunReq := { sync := true }
   let k : Nat := 3200
   ⟨s, r, k, (by decide +kernel)⟩,
   let s : State := ready.onTb (fun t => { t with link := 16000, runReq := some { sync := true } })
   let r : RunReq := { sync := true }
   ⟨s, r, (by decide +kernel)⟩⟩

theorem witness_RingFlitsAreCheckedAndAnswered :
    (∃ (s : State) (g : Nat) (dir : RingDir), Shaped s ∧ g < 5 ∧ ((s.segDir g dir).up = false ∨ (s.seg g).retraining =
      true)) ∧
    (∃ (s : State) (g : Nat) (dir : RingDir) (f : Flit), Shaped s ∧ g < 5 ∧ (s.segDir g dir).up = true ∧ (s.seg
      g).retraining = false ∧ Uninjected s ∧ f.sequenced = true) ∧
    (∃ (s : State) (g : Nat) (dir : RingDir) (f : Flit), Shaped s ∧ g < 5 ∧ (s.segDir g dir).up = true ∧ (s.seg
      g).retraining = false ∧ f.sequenced = false ∧ f.crc = f.check) :=
  ⟨let s : State := up
   let g : Nat := 4
   let dir : RingDir := .rev
   ⟨s, g, dir, (by unfold Shaped; decide +kernel)⟩,
   let s : State := ringUp
   let g : Nat := 4
   let dir : RingDir := .rev
   let f : Flit := { kind := 4 }
   ⟨s, g, dir, f, (by unfold Shaped Uninjected; decide +kernel)⟩,
   let s : State := ringUp
   let g : Nat := 4
   let dir : RingDir := .rev
   let f : Flit := { kind := 3, crc := Flit.check { kind := 3 } }
   ⟨s, g, dir, f, (by unfold Shaped; decide +kernel)⟩⟩

theorem witness_RingSendersRetryAndRetrain :
    (∃ (s : State) (g : Nat) (dir : RingDir) (q : Nat), Shaped s ∧ g < 5 ∧ ((s.segDir g dir).replay.any fun f => f.seq
      = q) = true) ∧
    (∃ (s : State) (g : Nat) (dir : RingDir) (q : Nat),
      let run := if (s.segDir g dir).nakSeq = some q then (s.segDir g dir).nakRun + 1 else 1
      Shaped s ∧ g < 5 ∧ (s.segDir g dir).up = true ∧ (s.seg g).retraining = false ∧ run < 8) ∧
    (∃ (s : State) (g : Nat) (dir : RingDir) (q : Nat),
      let run := if (s.segDir g dir).nakSeq = some q then (s.segDir g dir).nakRun + 1 else 1
      Shaped s ∧ g < 5 ∧ (s.segDir g dir).up = true ∧ (s.seg g).retraining = false ∧ 8 ≤ run) ∧
    (∃ (s : State) (g : Nat) (dir : RingDir), (s.segDir g dir).up = true ∧ (s.seg g).retraining = false) ∧
    (∃ (s : State) (g : Nat) (dir : RingDir) (v : Nat), (s.segDir g dir).up = true ∧ v < 4 ∧ ((s.segDir g
      dir).sendQ.all fun q => q.isEmpty) = true ∧ Shaped s ∧ g < 5) ∧
    (∃ (s : State) (g : Nat) (dir : RingDir) (v : Nat), (s.segDir g dir).up = true ∧ v < 4 ∧ Shaped s ∧ g < 5) ∧
    (∃ (s : State) (g : Nat), Shaped s ∧ g < 5 ∧ (s.seg g).retraining = true) :=
  ⟨let s : State := ringUp.onSegDir 4 .fwd (fun d =>
      { d with replay := [{ kind := 4, seq := 4095 }, { kind := 4, seq := 0 }] })
   let g : Nat := 4
   let dir : RingDir := .fwd
   let q : Nat := 4095
   ⟨s, g, dir, q, (by unfold Shaped; decide +kernel)⟩,
   let s : State := ringUp.onSegDir 4 .fwd (fun d =>
      { d with replay := [{ kind := 4, seq := 4095 }, { kind := 4, seq := 0 }] })
   let g : Nat := 4
   let dir : RingDir := .fwd
   let q : Nat := 4095
   ⟨s, g, dir, q, (by unfold Shaped; decide +kernel)⟩,
   let s : State := ringUp.onSegDir 4 .fwd (fun d =>
      { d with nakSeq := some 3, nakRun := 7, replay := [{ kind := 4, seq := 3 }] })
   let g : Nat := 4
   let dir : RingDir := .fwd
   let q : Nat := 3
   ⟨s, g, dir, q, (by unfold Shaped; decide +kernel)⟩,
   let s : State := ringUp.onSegDir 4 .fwd (fun d =>
      { d with replay := [{ kind := 4, seq := 4095 }, { kind := 4, seq := 0 }] })
   let g : Nat := 4
   let dir : RingDir := .fwd
   ⟨s, g, dir, (by decide +kernel)⟩,
   let s : State := ringUp.onSegDir 4 .fwd (fun d => { d with credits := [0, 0, 0, 0] })
   let g : Nat := 4
   let dir : RingDir := .fwd
   let v : Nat := 3
   ⟨s, g, dir, v, (by unfold Shaped; decide +kernel)⟩,
   let s : State := ringUp.onSegDir 4 .fwd (fun d => { d with credits := [0, 0, 0, 0] })
   let g : Nat := 4
   let dir : RingDir := .fwd
   let v : Nat := 3
   ⟨s, g, dir, v, (by unfold Shaped; decide +kernel)⟩,
   let s : State := ringUp.onSeg 4 (fun x => { x with retraining := true })
   let g : Nat := 4
   ⟨s, g, (by unfold Shaped; decide +kernel)⟩⟩

theorem witness_RingLanesTakeSpares :
    (∃ (s : State) (g : Nat), Shaped s ∧ g < 5 ∧ s.phase s.tb.link % 100 ≠ 0) ∧
    (∃ (s : State) (g : Nat), Shaped s ∧ g < 5 ∧ s.phase s.tb.link % 100 = 0) :=
  ⟨let s : State := ringUp.onTb (fun t => { t with link := 1001 })
   let g : Nat := 4
   ⟨s, g, (by unfold Shaped; decide +kernel)⟩,
   let s : State := ringUp.onSpr (fun p => { p with lasting := [ringLane 4 .rev 135] })
   let g : Nat := 4
   ⟨s, g, (by unfold Shaped; decide +kernel)⟩⟩

theorem witness_RingAccessesReadAndWriteMemory :
    (∃ (s : State) (v : Nat) (d : Desc), s.channelFits v d = true ∧ s.accessStatus d.requester d.dpa d.length false ≠
      0) ∧
    (∃ (s : State) (v : Nat) (d : Desc), s.channelFits v d = true ∧ s.accessStatus d.requester d.dpa d.length false =
      0 ∧ isReg d.dpa = false ∧ s.leavesDevice d.dpa = false) ∧
    (∃ (s : State) (v : Nat) (d : Desc), s.channelFits v d = true ∧ s.accessStatus d.requester d.dpa d.length false =
      0 ∧ isReg d.dpa = true) ∧
    (∃ (s : State) (v : Nat) (d : Desc), s.channelFits v d = true ∧ s.accessStatus d.requester d.dpa d.length false =
      0 ∧ isPeer d.dpa = true) ∧
    (∃ (s : State) (v : Nat) (d : Desc) (data : List Byte), s.mem.wf = true ∧ s.channelFits v d = true ∧
      s.accessStatus d.requester d.dpa d.length true = 0 ∧ s.leavesDevice d.dpa = false ∧ isReg d.dpa = false ∧
      data.length = d.length ∧ s.writePoisoned d.dpa d.length = false) ∧
    (∃ (s : State) (v : Nat) (d : Desc), s.channelFits v d = true ∧ s.accessStatus d.requester d.dpa d.length true = 0
      ∧ s.leavesDevice d.dpa = false) ∧
    (∃ (s : State) (v : Nat) (d : Desc), s.channelFits v d = true ∧ s.accessStatus d.requester d.dpa d.length true ≠
      0) :=
  ⟨let s : State := up
   let v : Nat := 0
   let d : Desc := { requester := 0xFF, dpa := hubBase }
   ⟨s, v, d, (by decide +kernel)⟩,
   let s : State := up
   let v : Nat := 0
   let d : Desc := { requester := 0xFF, dpa := hubBase, length := 256 }
   ⟨s, v, d, (by decide +kernel)⟩,
   let s : State := up
   let v : Nat := 3
   let d : Desc := { requester := 0xFF, dpa := regBase, length := 4 }
   ⟨s, v, d, (by decide +kernel)⟩,
   let s : State := tileUp
   let v : Nat := 2
   let d : Desc := { requester := 63, dpa := peerBase, length := 256, peer := 4 }
   ⟨s, v, d, (by decide +kernel)⟩,
   let s : State := up
   let v : Nat := 0
   let d : Desc := { requester := 0xFF, dpa := hubBase, length := 2 }
   let data : List Byte := [1, 2]
   ⟨s, v, d, data, (by decide +kernel)⟩,
   let s : State := up
   let v : Nat := 0
   let d : Desc := { requester := 0xFF, dpa := hubBase, length := 2 }
   ⟨s, v, d, (by decide +kernel)⟩,
   let s : State := up
   let v : Nat := 0
   let d : Desc := { requester := 0xFF, dpa := hubBase, length := 257 }
   ⟨s, v, d, (by decide +kernel)⟩⟩

theorem witness_ResponsesAndPeersReachTheirTarget :
    (∃ (s : State) (d : Desc) (po : Bool), (64 ≤ d.requester ∨ (s.core d.requester).run ≠ .running ∨ (d.status = 0 ∧
      po = false))) ∧
    (∃ (s : State) (d : Desc), (64 ≤ d.requester ∨ (s.core d.requester).run ≠ .running ∨ d.status = 0)) ∧
    (∃ (s : State) (k : Nat) (o : Nat) (n : Nat) (src : Nat) (w : Bool) (data : List Byte), (s.hl.windows.getD k
      {}).admits o (if w then data.length else n) src w = false) ∧
    (∃ (s : State) (k : Nat) (o : Nat) (src : Nat) (data : List Byte),
      let a := (s.hl.windows.getD k {}).base + o
      s.mem.wf = true ∧ (s.hl.windows.getD k {}).admits o data.length src true = true ∧ (inOpenDram a data.length =
      true ∨ (inSpad a data.length = true ∧ s.corePresent (spadCore a) = true) ∨ (inHub a data.length = true ∧
      touchesTarget a data.length = false)) ∧ s.writePoisoned a data.length = false) ∧
    (∃ (s : State) (k : Nat) (o : Nat) (n : Nat) (src : Nat),
      let a := (s.hl.windows.getD k {}).base + o
      (s.hl.windows.getD k {}).admits o n src false = true ∧ (inOpenDram a n = true ∨ (inSpad a n = true ∧
      s.corePresent (spadCore a) = true) ∨ (inHub a n = true ∧ touchesTarget a n = false))) ∧
    (∃ (s : State) (l : Nat), Shaped s ∧ l < 2) :=
  ⟨let s : State := up
   let d : Desc := { requester := 64 }
   let po : Bool := true
   ⟨s, d, po, (by decide +kernel)⟩,
   let s : State := up
   let d : Desc := { requester := 63 }
   ⟨s, d, (by decide +kernel)⟩,
   let s : State := windowUp
   let k : Nat := 63
   let o : Nat := 4093
   let n : Nat := 4
   let src : Nat := 3
   let w : Bool := true
   let data : List Byte := [1, 2, 3, 4]
   ⟨s, k, o, n, src, w, data, (by decide +kernel)⟩,
   let s : State := windowUp
   let k : Nat := 63
   let o : Nat := 4092
   let src : Nat := 3
   let data : List Byte := [1, 2, 3, 4]
   ⟨s, k, o, src, data, (by decide +kernel)⟩,
   let s : State := windowUp
   let k : Nat := 63
   let o : Nat := 4095
   let n : Nat := 1
   let src : Nat := 3
   ⟨s, k, o, n, src, (by decide +kernel)⟩,
   let s : State := up
   let l : Nat := 1
   ⟨s, l, (by unfold Shaped; decide +kernel)⟩⟩

theorem witness_StacksScrubRefreshAndRemap :
    (∃ (s : State) (d : Nat), s.scrubs = true ∧ (s.dramAt d).serves = true ∧ s.mem.poison.contains (d * stackSize +
      (s.dramAt d).scrub) = false) ∧
    (∃ (s : State) (d : Nat), Shaped s ∧ d < 4 ∧ s.scrubs = true ∧ (s.dramAt d).serves = true) ∧
    (∃ (s : State) (d : Nat), Shaped s ∧ d < 4 ∧ s.scrubs = true ∧ (s.dramAt d).serves = true ∧ (s.dramAt d).scrub <
      stackSize) ∧
    (∃ (s : State) (d : Nat) (ch : Nat), (s.dramAt d).serves = true ∧ (s.dramAt d).scanDue.contains ch = false ∧
      s.lastingTsv d ch = []) ∧
    (∃ (s : State) (d : Nat) (ch : Nat) (l : Nat), Shaped s ∧ d < 4 ∧ (s.dramAt d).serves = true ∧ (s.dramAt
      d).scanDue.contains ch = false ∧ s.lastingTsv d ch = [l] ∧ ((s.dramAt d).lanesRetired.filter fun x => x.1 = ch
      && x.2 / 64 = l / 64).length < 2) ∧
    (∃ (s : State) (d : Nat) (x : Remap), Shaped s ∧ d < 4 ∧ (s.dramAt d).remaps.find? (·.copying) = some x ∧
      s.spr.entries.length < 4091) :=
  ⟨let s : State := up.onDram 3 (fun m => { m with scrub := stackSize - 64 })
   let d : Nat := 3
   ⟨s, d, (by decide +kernel)⟩,
   let s : State := up.onDram 3 (fun m => { m with scrub := stackSize - 64 })
   let d : Nat := 3
   ⟨s, d, (by unfold Shaped; decide +kernel)⟩,
   let s : State := up.onDram 3 (fun m => { m with scrub := stackSize - 64 })
   let d : Nat := 3
   ⟨s, d, (by unfold Shaped; decide +kernel)⟩,
   let s : State := up
   let d : Nat := 3
   let ch : Nat := 31
   ⟨s, d, ch, (by decide +kernel)⟩,
   let s : State := up.onSpr (fun p => { p with lasting := [tsvLane 3 31 127] })
   let d : Nat := 3
   let ch : Nat := 31
   let l : Nat := 127
   ⟨s, d, ch, l, (by unfold Shaped; decide +kernel)⟩,
   let s : State := up.onDram 3 (fun m => { m with remaps := [{ row := rowEntry (3 * stackSize) }] })
   let d : Nat := 3
   let x : Remap := { row := rowEntry (3 * stackSize) }
   ⟨s, d, x, (by unfold Shaped; decide +kernel)⟩⟩

theorem witness_ChainAndFurlongBoundariesSampleTheDevice :
    (∃ (s : State), Shaped s ∧ s.chainLink s.tb.link = true ∧ s.up = true) ∧
    (∃ (s : State), s.chainLink s.tb.link = false) ∧
    (∃ (s : State) (p : PowerSample), Shaped s ∧ s.phase s.tb.link % 1000 = 0 ∧ s.up = true ∧ s.pwr.state = .active ∧
      s.pwr.cap * 1000 < p.package) ∧
    (∃ (s : State), Shaped s ∧ s.phase s.tb.link % 1000 = 0 ∧ s.up = true) ∧
    (∃ (s : State) (d : Nat) (o : Nat), s.pwr.settling.getD d none = some o) ∧
    (∃ (s : State) (d : Nat), s.up = true ∧ d < 4 ∧ (s.dramAt d).inService = true ∧ s.pwr.off.getD d false = false ∧
      Shaped s ∧ s.tb.dieLink.length = 4 ∧ s.tb.countDue.getD d false = true) ∧
    (∃ (s : State) (d : Nat) (n : Nat), s.up = true ∧ d < 4 ∧ (s.dramAt d).inService = true ∧ s.pwr.off.getD d false =
      false ∧ Shaped s ∧ s.tb.dieLink.length = 4 ∧ s.tb.countDue.getD d false = true ∧ n ≠ s.tb.link) :=
  ⟨let s : State := atFurlong up
   ⟨s, (by unfold Shaped; decide +kernel)⟩,
   let s : State := up.onTb (fun t => { t with link := 1001 })
   ⟨s, (by decide +kernel)⟩,
   let s : State := atFurlong up
   let p : PowerSample := { package := 120001, die := [1, 2, 3, 4] }
   ⟨s, p, (by unfold Shaped; decide +kernel)⟩,
   let s : State := atFurlong up
   ⟨s, (by unfold Shaped; decide +kernel)⟩,
   let s : State := up.onPwr (fun p => { p with settling := [none, none, none, some 1] })
   let d : Nat := 3
   let o : Nat := 1
   ⟨s, d, o, (by decide +kernel)⟩,
   let s : State := (ringUp.onTb fun t => { t with countDue := [false, false, false, true] })
   let d : Nat := 3
   ⟨s, d, (by unfold Shaped; decide +kernel)⟩,
   let s : State := (ringUp.onTb fun t => { t with countDue := [false, false, false, true] })
   let d : Nat := 3
   let n : Nat := 0
   ⟨s, d, n, (by unfold Shaped; decide +kernel)⟩⟩

theorem witness_PowerCommandsAndRetainedIdle :
    (∃ (c : Cmd) (s : State), Starts 0xF 2 c s ∧ 40 ≤ c.word 0 ∧ c.word 0 ≤ 120) ∧
    (∃ (c : Cmd) (s : State), Starts 0xF 2 c s ∧ c.word 0 = 0) ∧
    (∃ (c : Cmd) (s : State), Starts 0xF 2 c s ∧ 0 < c.word 0 ∧ (c.word 0 < 40 ∨ 120 < c.word 0)) ∧
    (∃ (c : Cmd) (s : State), Starts 0xF 3 c s) ∧
    (∃ (c : Cmd) (s : State), Starts 0xF 1 c s ∧ Shaped s ∧ bitAt (c.word 0) 0 = true ∧ s.dev.mode = .config ∧
      s.pwr.state = .active ∧ s.transfersRun = false) ∧
    (∃ (c : Cmd) (s : State), Starts 0xF 1 c s ∧ bitAt (c.word 0) 0 = true ∧ s.dev.mode ≠ .config) ∧
    (∃ (c : Cmd) (s : State), Starts 0xF 1 c s ∧ bitAt (c.word 0) 0 = true ∧ s.dev.mode = .config ∧ (s.pwr.state =
      .entering ∨ s.pwr.state = .leaving ∨ (s.pwr.state = .active ∧ s.transfersRun = true))) ∧
    (∃ (c : Cmd) (s : State), Starts 0xF 1 c s ∧ bitAt (c.word 0) 0 = true ∧ s.dev.mode = .config ∧ s.pwr.state =
      .retained) ∧
    (∃ (c : Cmd) (s : State), Starts 0xF 1 c s ∧ bitAt (c.word 0) 0 = false ∧ (s.pwr.state = .entering ∨ s.pwr.state =
      .leaving)) ∧
    (∃ (c : Cmd) (s : State), Starts 0xF 1 c s ∧ bitAt (c.word 0) 0 = false ∧ s.pwr.state = .active) ∧
    (∃ (c : Cmd), bitAt (c.word 0) 0 = false) ∧
    (∃ (c : Cmd), bitAt (c.word 0) 0 = true) ∧
    (∃ (s : State), s.pwr.state ≠ .entering) ∧
    (∃ (s : State), s.pwr.state ≠ .leaving) ∧
    (∃ (s : State), Shaped s ∧ s.pwr.state = .entering) ∧
    (∃ (c : Cmd) (s : State), Starts 0xF 1 c s ∧ bitAt (c.word 0) 0 = false ∧ s.pwr.state = .retained) ∧
    (∃ (s : State), Shaped s ∧ s.pwr.state = .leaving) :=
  ⟨let c : Cmd := cm 15 2 [40]
   let s : State := at0 up c
   ⟨c, s, (by unfold Starts; decide +kernel)⟩,
   let c : Cmd := cm 15 2 [0]
   let s : State := at0 up c
   ⟨c, s, (by unfold Starts; decide +kernel)⟩,
   let c : Cmd := cm 15 2 [39]
   let s : State := at0 up c
   ⟨c, s, (by unfold Starts; decide +kernel)⟩,
   let c : Cmd := cm 15 3
   let s : State := at0 up c
   ⟨c, s, (by unfold Starts; decide +kernel)⟩,
   let c : Cmd := cm 15 1 [1]
   let s : State := at0 up c
   ⟨c, s, (by unfold Starts Shaped; decide +kernel)⟩,
   let c : Cmd := cm 0xF 1 [1]
   let s : State := at0 (inMode .run) c
   ⟨c, s, (by unfold Starts; decide +kernel)⟩,
   let c : Cmd := cm 0xF 1 [1]
   let s : State := at0 (up.onPwr fun p => { p with state := .entering }) c
   ⟨c, s, (by unfold Starts; decide +kernel)⟩,
   let c : Cmd := cm 0xF 1 [1]
   let s : State := at0 (up.onPwr fun p => { p with state := .retained }) c
   ⟨c, s, (by unfold Starts; decide +kernel)⟩,
   let c : Cmd := cm 0xF 1 [2]
   let s : State := at0 (up.onPwr fun p => { p with state := .leaving }) c
   ⟨c, s, (by unfold Starts; decide +kernel)⟩,
   let c : Cmd := cm 0xF 1 [2]
   let s : State := at0 (up) c
   ⟨c, s, (by unfold Starts; decide +kernel)⟩,
   let c : Cmd := cm 15 2 [40]
   ⟨c, (by decide +kernel)⟩,
   let c : Cmd := cm 15 2 [39]
   ⟨c, (by decide +kernel)⟩,
   let c : Cmd := cm 15 2 [40]
   let s : State := at0 up c
   ⟨s, (by decide +kernel)⟩,
   let c : Cmd := cm 15 2 [40]
   let s : State := at0 up c
   ⟨s, (by decide +kernel)⟩,
   let s : State := up.onPwr (fun p => { p with state := .entering })
   ⟨s, (by unfold Shaped; decide +kernel)⟩,
   let c : Cmd := cm 15 1 [0]
   let s : State := at0 (up.onPwr fun p => { p with state := .retained }) c
   ⟨c, s, (by unfold Starts; decide +kernel)⟩,
   let s : State := up.onPwr (fun p => { p with state := .leaving, off := [true, true, true, true] })
   ⟨s, (by unfold Shaped; decide +kernel)⟩⟩

theorem witness_MemoryIsPlacedInFreeRanges :
    (∃ (c : Cmd) (s : State) (d : Nat) (a : Nat), Starts 2 1 c s ∧ c.word 0 % 16 = d ∧ d < 4 ∧ (s.dramAt d).inService
      = true ∧ 0 < c.word 1 ∧ 12 ≤ c.word 2 % 32 ∧ c.word 2 % 32 ≤ 30 ∧ s.placeDram d (c.word 1 * 4096) (2 ^ (c.word 2
      % 32)) 0 = some a) ∧
    (∃ (c : Cmd) (s : State) (d : Nat) (a : Nat) (x : _), Starts 2 1 c s ∧ c.word 0 % 16 = d ∧ d < 4 ∧ (s.dramAt
      d).inService = true ∧ 0 < c.word 1 ∧ 12 ≤ c.word 2 % 32 ∧ c.word 2 % 32 ≤ 30 ∧ s.placeDram d (c.word 1 * 4096)
      (2 ^ (c.word 2 % 32)) 0 = some a ∧ x ∈ s.hl.allocs) ∧
    (∃ (c : Cmd) (s : State) (d : Nat) (a : Nat) (m : _) (b : _), Starts 2 1 c s ∧ c.word 0 % 16 = d ∧ d < 4 ∧
      (s.dramAt d).inService = true ∧ 0 < c.word 1 ∧ 12 ≤ c.word 2 % 32 ∧ c.word 2 % 32 ≤ 30 ∧ s.placeDram d (c.word 1
      * 4096) (2 ^ (c.word 2 % 32)) 0 = some a ∧ m ∈ s.dram ∧ b ∈ m.withdrawn) ∧
    (∃ (c : Cmd) (s : State) (a : Nat), Starts 2 1 c s ∧ c.word 0 % 16 = 4 ∧ 0 < c.word 1 ∧ 12 ≤ c.word 2 % 32 ∧
      c.word 2 % 32 ≤ 30 ∧ s.placeHub (c.word 1 * 4096) (2 ^ (c.word 2 % 32)) 0 = some a) ∧
    (∃ (c : Cmd) (s : State) (a : Nat) (x : _), Starts 2 1 c s ∧ c.word 0 % 16 = 4 ∧ 0 < c.word 1 ∧ 12 ≤ c.word 2 % 32
      ∧ c.word 2 % 32 ≤ 30 ∧ s.placeHub (c.word 1 * 4096) (2 ^ (c.word 2 % 32)) 0 = some a ∧ x ∈ s.hl.allocs) ∧
    (∃ (c : Cmd) (s : State),
      let d := c.word 0 % 16
      let al := c.word 2 % 32
      Starts 2 1 c s ∧ (4 < d ∨ c.word 1 = 0 ∨ al < 12 ∨ 30 < al)) ∧
    (∃ (c : Cmd) (s : State),
      let d := c.word 0 % 16
      let n := c.word 1 * 4096
      let al := c.word 2 % 32
      let found := if d = 4 then s.placeHub n (2 ^ al) 0 else if (s.dramAt d).inService = true then s.placeDram d n (2
        ^ al) 0 else none
      Starts 2 1 c s ∧ d ≤ 4 ∧ 0 < c.word 1 ∧ 12 ≤ al ∧ al ≤ 30 ∧ found = none) ∧
    (∃ (c : Cmd) (s : State), Starts 2 2 c s ∧ s.allocAt (c.addr 0) = none) ∧
    (∃ (c : Cmd) (s : State) (x : Alloc), Starts 2 2 c s ∧ s.allocAt (c.addr 0) = some x ∧ s.holdsTable x = false ∧
      s.underWindow x = false ∧ s.namedByJob x = false) ∧
    (∃ (c : Cmd) (s : State) (x : Alloc), Starts 2 2 c s ∧ s.allocAt (c.addr 0) = some x ∧ (s.holdsTable x = true ∨
      s.underWindow x = true ∨ s.namedByJob x = true)) :=
  ⟨let c : Cmd := cm 2 1 [3, 0x7FBFFF, 30]
   let s : State := at0 (up.onHl fun h =>
      { h with allocs := [{ base := 3 * stackSize + reservedOff - 4096, size := 4096 }] }) c
   let d : Nat := 3
   let a : Nat := 3 * stackSize
   ⟨c, s, d, a, ⟨(by unfold Starts; decide +kernel), (by decide +kernel), (by decide +kernel), (by decide +kernel), (by decide +kernel), (by decide +kernel), (by decide +kernel), (placeRange_of_one (by decide +kernel) (by decide +kernel) (by decide +kernel))⟩⟩,
   let c : Cmd := cm 2 1 [3, 0x7FBFFF, 30]
   let s : State := at0 (up.onHl fun h =>
      { h with allocs := [{ base := 3 * stackSize + reservedOff - 4096, size := 4096 }] }) c
   let d : Nat := 3
   let a : Nat := 3 * stackSize
   let x := { base := 3 * stackSize + reservedOff - 4096, size := 4096 }
   ⟨c, s, d, a, x, ⟨(by unfold Starts; decide +kernel), (by decide +kernel), (by decide +kernel), (by decide +kernel), (by decide +kernel), (by decide +kernel), (by decide +kernel), (placeRange_of_one (by decide +kernel) (by decide +kernel) (by decide +kernel)), (by decide +kernel)⟩⟩,
   let c : Cmd := cm 2 1 [0, 0x7FBFF8, 30]
   let s : State := at0 (up.onDram 0 fun m => { m with withdrawn := [reservedOff - 32768] }) c
   let d : Nat := 0
   let a : Nat := 0
   let m := { up.dramAt 0 with withdrawn := [reservedOff - 32768] }
   let b := reservedOff - 32768
   ⟨c, s, d, a, m, b, ⟨(by unfold Starts; decide +kernel), (by decide +kernel), (by decide +kernel), (by decide +kernel), (by decide +kernel), (by decide +kernel), (by decide +kernel), (placeRange_of_one (by decide +kernel) (by decide +kernel) (by decide +kernel)), (by decide +kernel)⟩⟩,
   let c : Cmd := cm 2 1 [4, 0x17FC, 27]
   let s : State := at0 (up.onHl fun h => { h with allocs := [{ base := targetBase - 4096, size := 4096 }] }) c
   let a : Nat := hubBase
   ⟨c, s, a, ⟨(by unfold Starts; decide +kernel), (by decide +kernel), (by decide +kernel), (by decide +kernel), (by decide +kernel), (placeRange_of_one (by decide +kernel) (by decide +kernel) (by decide +kernel))⟩⟩,
   let c : Cmd := cm 2 1 [4, 0x17FC, 27]
   let s : State := at0 (up.onHl fun h => { h with allocs := [{ base := targetBase - 4096, size := 4096 }] }) c
   let a : Nat := hubBase
   let x := { base := targetBase - 4096, size := 4096 }
   ⟨c, s, a, x, ⟨(by unfold Starts; decide +kernel), (by decide +kernel), (by decide +kernel), (by decide +kernel), (by decide +kernel), (placeRange_of_one (by decide +kernel) (by decide +kernel) (by decide +kernel)), (by decide +kernel)⟩⟩,
   let c : Cmd := cm 2 1 [5, 1, 12]
   let s : State := at0 (up) c
   ⟨c, s, (by unfold Starts; decide +kernel)⟩,
   let c : Cmd := cm 2 1 [3, 1, 12]
   let s : State := at0 (up.onDram 3 fun d => { d with inService := false }) c
   ⟨c, s, (by unfold Starts; decide +kernel)⟩,
   let c : Cmd := cm 2 2 [4096]
   let s : State := at0 (up) c
   ⟨c, s, (by unfold Starts; decide +kernel)⟩,
   let c : Cmd := cm 2 2 [4096]
   let s : State := at0 (up.onHl fun h => { h with allocs := [{ base := 4096, size := 4096 }] }) c
   let x : Alloc := { base := 4096, size := 4096 }
   ⟨c, s, x, (by unfold Starts; decide +kernel)⟩,
   let c : Cmd := cm 2 2 [4096]
   let s : State := at0 (up.onHl fun h =>
      { h with allocs := [{ base := 4096, size := 4096 }], windows := h.windows.set 0 { isOpen := true, base := 4096, size := 4096 } })
      c
   let x : Alloc := { base := 4096, size := 4096 }
   ⟨c, s, x, (by unfold Starts; decide +kernel)⟩⟩

theorem witness_CopiesAndFillsWriteTheirRange :
    (∃ (c : Cmd) (s : State), Starts 2 3 c s ∧ (c.word 4 = 0 ∨ overlaps (c.addr 0) (c.word 4) (c.addr 2) (c.word 4) =
      true ∨ s.dmaRange (c.addr 0) (c.word 4) = false ∨ s.dmaRange (c.addr 2) (c.word 4) = false)) ∧
    (∃ (c : Cmd) (s : State), Starts 2 3 c s ∧ 0 < c.word 4 ∧ overlaps (c.addr 0) (c.word 4) (c.addr 2) (c.word 4) =
      false ∧ s.dmaRange (c.addr 0) (c.word 4) = true ∧ s.dmaRange (c.addr 2) (c.word 4) = true ∧ isHost (c.addr 0) =
      true) ∧
    (∃ (c : Cmd) (s : State), Starts 2 3 c s ∧ 0 < c.word 4 ∧ overlaps (c.addr 0) (c.word 4) (c.addr 2) (c.word 4) =
      false ∧ s.dmaRange (c.addr 0) (c.word 4) = true ∧ s.dmaRange (c.addr 2) (c.word 4) = true ∧ isHost (c.addr 0) =
      false ∧ s.readPoisoned (c.addr 0) (c.word 4) = false ∧ s.writePoisoned (c.addr 2) (c.word 4) = false) ∧
    (∃ (c : Cmd) (s : State), Starts 2 3 c s ∧ 0 < c.word 4 ∧ overlaps (c.addr 0) (c.word 4) (c.addr 2) (c.word 4) =
      false ∧ s.dmaRange (c.addr 0) (c.word 4) = true ∧ s.dmaRange (c.addr 2) (c.word 4) = true ∧ isHost (c.addr 0) =
      false ∧ s.readPoisoned (c.addr 0) (c.word 4) = true) ∧
    (∃ (s : State), s.hl.linkUp = false) ∧
    (∃ (s : State) (ctx : Nat) (tag : Nat) (src : Nat) (dst : Nat) (n : Nat) (data : List HostRun) (o : Open),
      s.hl.linkUp = true ∧ (s.hl.opens.find? fun o => o.cmd.ring = ctx && o.cmd.tag = tag && (match o.wait
      with | .copyRead _ _ _ => true | _ => false)) = some o ∧ o.wait = .copyRead src dst n ∧ s.dmaRange src n = true
      ∧ s.dmaRange dst n = true ∧ (s.hostRuns data).readPoisoned src n = false ∧ (s.hostRuns data).writePoisoned dst n
      = false) ∧
    (∃ (s : State) (ctx : Nat) (tag : Nat) (src : Nat) (dst : Nat) (n : Nat) (o : Open), s.hl.linkUp = true ∧
      (s.hl.opens.find? fun o => o.cmd.ring = ctx && o.cmd.tag = tag && (match o.wait
      with | .copyRead _ _ _ => true | _ => false)) = some o ∧ o.wait = .copyRead src dst n ∧ (s.dmaRange src n =
      false ∨ s.dmaRange dst n = false)) ∧
    (∃ (c : Cmd) (s : State), Starts 2 4 c s ∧ (c.word 2 % 4 ≠ 0 ∨ s.dmaRange (c.addr 0) (c.word 2) = false)) ∧
    (∃ (c : Cmd) (s : State), Starts 2 4 c s ∧ c.word 2 % 4 = 0 ∧ s.dmaRange (c.addr 0) (c.word 2) = true ∧
      s.writePoisoned (c.addr 0) (c.word 2) = false) ∧
    (∃ (c : Cmd) (s : State) (i : _), Starts 2 4 c s ∧ c.word 2 % 4 = 0 ∧ s.dmaRange (c.addr 0) (c.word 2) = true ∧
      s.writePoisoned (c.addr 0) (c.word 2) = false ∧ i < c.word 2) ∧
    (∃ (s : State), s.mem.wf = true) ∧
    (∃ (s : State) (a : Nat) (bs : List Byte) (b : _), s.mem.wf = true ∧ (b < a ∨ a + bs.length ≤ b)) :=
  ⟨let c : Cmd := cm 2 3 [0, 0, 0, 0, 4096]
   let s : State := at0 (up) c
   ⟨c, s, (by unfold Starts; decide +kernel)⟩,
   let c : Cmd := cm 2 3 [0, 0x8000, 8, 0, 8]
   let s : State := at0 up c
   ⟨c, s, (by unfold Starts; decide +kernel)⟩,
   let c : Cmd := cm 2 3 [0, 0, 8, 0, 8]
   let s : State := at0 up c
   ⟨c, s, (by unfold Starts; decide +kernel)⟩,
   let c : Cmd := cm 2 3 [0, 0, 4096, 0, 64]
   let s : State := at0 (up.onMem fun m => { m with poison := [0] }) c
   ⟨c, s, (by unfold Starts; decide +kernel)⟩,
   let s : State := up.onHl fun h => { h with linkUp := false }
   ⟨s, (by decide +kernel)⟩,
   let s : State := up.onHl (fun h =>
      { h with opens := [{ cmd := cm 2 3 [0, 0x8000, 8, 0, 2], wait := .copyRead hostBase 8 2 }] })
   let ctx : Nat := 0
   let tag : Nat := 0
   let src : Nat := hostBase
   let dst : Nat := 8
   let n : Nat := 2
   let data : List HostRun := [(hostBase, [1, 2])]
   let o : Open := { cmd := cm 2 3 [0, 0x8000, 8, 0, 2], wait := .copyRead hostBase 8 2 }
   ⟨s, ctx, tag, src, dst, n, data, o, (by decide +kernel)⟩,
   let s : State := up.onHl fun h => { h with opens := [{ wait := .copyRead hostBase (2 ^ 63) 0 }] }
   let ctx : Nat := 0
   let tag : Nat := 0
   let src : Nat := hostBase
   let dst : Nat := 2 ^ 63
   let n : Nat := 0
   let o : Open := { wait := .copyRead hostBase (2 ^ 63) 0 }
   ⟨s, ctx, tag, src, dst, n, o, (by decide +kernel)⟩,
   let c : Cmd := cm 2 4 [0, 0, 6]
   let s : State := at0 (up) c
   ⟨c, s, (by unfold Starts; decide +kernel)⟩,
   let c : Cmd := cm 2 4 [8, 0, 8, 0x01020304]
   let s : State := at0 up c
   ⟨c, s, (by unfold Starts; decide +kernel)⟩,
   let c : Cmd := cm 2 4 [8, 0, 8, 0x01020304]
   let s : State := at0 up c
   let i := 7
   ⟨c, s, i, (by unfold Starts; decide +kernel)⟩,
   let c : Cmd := cm 2 3 [0, 0x8000, 8, 0, 8]
   let s : State := at0 up c
   ⟨s, (by decide +kernel)⟩,
   let s : State := up
   let a : Nat := hubBase
   let bs : List Byte := [1, 0, 2]
   let b := hubBase + 3
   ⟨s, a, bs, b, (by decide +kernel)⟩⟩

theorem witness_PeerWindowsOpenAndClose :
    (∃ (c : Cmd) (s : State) (k : Nat), Starts 2 5 c s ∧ c.word 0 % 64 = k ∧ 0 < c.word 3 ∧ c.word 3 * 4096 ≤ 2 ^ 34 ∧
      c.addr 1 % 4096 = 0 ∧ windowRange (c.addr 1) (c.word 3 * 4096) = true ∧ (s.hl.windows.getD k {}).isOpen = false
      ∧ (s.hl.windows.getD k {}).closing = false) ∧
    (∃ (c : Cmd) (s : State) (k : Nat), Starts 2 5 c s ∧ c.word 0 % 64 = k ∧ 0 < c.word 3 ∧ c.word 3 * 4096 ≤ 2 ^ 34 ∧
      c.addr 1 % 4096 = 0 ∧ windowRange (c.addr 1) (c.word 3 * 4096) = true ∧ ((s.hl.windows.getD k {}).isOpen = true
      ∨ (s.hl.windows.getD k {}).closing = true)) ∧
    (∃ (c : Cmd) (s : State), Starts 2 5 c s ∧ (c.word 3 = 0 ∨ 2 ^ 34 < c.word 3 * 4096 ∨ c.addr 1 % 4096 ≠ 0 ∨
      windowRange (c.addr 1) (c.word 3 * 4096) = false)) ∧
    (∃ (c : Cmd) (s : State), Starts 2 6 c s ∧ (s.hl.windows.getD (c.word 0 % 64) {}).isOpen = false) ∧
    (∃ (s : State) (k : Nat), ((s.hl.windows.getD k {}).closing = false ∨ (s.hl.windows.getD k {}).inFlight ≠ 0)) ∧
    (∃ (c : Cmd) (s : State) (k : Nat), Starts 2 6 c s ∧ c.word 0 % 64 = k ∧ (s.hl.windows.getD k {}).isOpen = true ∧
      (s.hl.windows.getD k {}).inFlight = 0) ∧
    (∃ (c : Cmd) (s : State) (k : Nat), Starts 2 6 c s ∧ c.word 0 % 64 = k ∧ (s.hl.windows.getD k {}).isOpen = true ∧
      (s.hl.windows.getD k {}).inFlight ≠ 0 ∧ Shaped s) ∧
    (∃ (s : State) (k : Nat), (s.hl.windows.getD k {}).closing = true ∧ (s.hl.windows.getD k {}).inFlight = 0) :=
  ⟨let c : Cmd := cm 2 5 [63 + 0x8300, 0, 0x48, 1]
   let s : State := at0 up c
   let k : Nat := 63
   ⟨c, s, k, (by unfold Starts; decide +kernel)⟩,
   let c : Cmd := cm 2 5 [63 + 0x8300, 0, 0x48, 1]
   let s : State := at0 windowUp c
   let k : Nat := 63
   ⟨c, s, k, (by unfold Starts; decide +kernel)⟩,
   let c : Cmd := cm 2 5 [0, 0, 0, 0]
   let s : State := at0 (up) c
   ⟨c, s, (by unfold Starts; decide +kernel)⟩,
   let c : Cmd := cm 2 6 [63]
   let s : State := at0 (up) c
   ⟨c, s, (by unfold Starts; decide +kernel)⟩,
   let c : Cmd := cm 2 5 [63 + 0x8300, 0, 0x48, 1]
   let s : State := at0 up c
   let k : Nat := 63
   ⟨s, k, (by decide +kernel)⟩,
   let c : Cmd := cm 2 6 [63]
   let s : State := at0 windowUp c
   let k : Nat := 63
   ⟨c, s, k, (by unfold Starts; decide +kernel)⟩,
   let c : Cmd := cm 2 6 [63]
   let s : State := at0 (windowUp.onHl fun h =>
      { h with windows := h.windows.set 63 { isOpen := true, inFlight := 1 } }) c
   let k : Nat := 63
   ⟨c, s, k, (by unfold Starts Shaped; decide +kernel)⟩,
   let s : State := up.onHl (fun h => { h with windows := h.windows.set 63 { closing := true } })
   let k : Nat := 63
   ⟨s, k, (by decide +kernel)⟩⟩

theorem witness_FrameTableOperationsAreExact :
    (∃ (w : _), w < 2 ^ 64) ∧
    (∃ (s : State) (index : Nat) (pool : Nat) (r : Nat), 64 ≤ r ∧ index < 2 ^ 23 ∧ s.mem.wf = true ∧ (s.entry
      index).readable (idxDie index) pool = true ∧ (s.entry index).readers < 255 ∧ s.kv.engineReads.contains (r,
      index) = false) ∧
    (∃ (s : State) (index : Nat) (pool : Nat) (r : Nat), 64 ≤ r ∧ index < 2 ^ 23 ∧ (s.entry index).readable (idxDie
      index) pool = true ∧ s.kv.engineReads.contains (r, index) = true) ∧
    (∃ (s : State) (index : Nat) (pool : Nat) (r : Nat), 64 ≤ r ∧ index < 2 ^ 23 ∧ (s.entry index).readable (idxDie
      index) pool = false) ∧
    (∃ (s : State) (index : Nat) (pool : Nat) (r : Nat), r < 64 ∧ (s.core r).run = .running ∧ index < 2 ^ 23 ∧
      s.lookupOpen r index = true ∧ s.mem.wf = true ∧ (s.entry index).readable (idxDie index) pool = true ∧ (s.entry
      index).readers < 255 ∧ (s.core r).readers.contains index = false ∧ (s.core r).readers.length < 256) ∧
    (∃ (s : State) (index : Nat) (pool : Nat) (r : Nat), r < 64 ∧ (s.core r).run = .running ∧ index < 2 ^ 23 ∧
      s.lookupOpen r index = true ∧ (s.entry index).readable (idxDie index) pool = true ∧ (s.core r).readers.contains
      index = true) ∧
    (∃ (s : State) (index : Nat) (pool : Nat) (r : Nat), r < 64 ∧ (s.core r).run = .running ∧ index < 2 ^ 23 ∧
      s.lookupOpen r index = true ∧ (s.entry index).readable (idxDie index) pool = true ∧ (s.core r).readers.contains
      index = false ∧ 256 ≤ (s.core r).readers.length) ∧
    (∃ (s : State) (index : Nat) (pool : Nat) (r : Nat), r < 64 ∧ (s.core r).run = .running ∧ index < 2 ^ 23 ∧
      s.lookupOpen r index = true ∧ (s.entry index).readable (idxDie index) pool = false) ∧
    (∃ (s : State) (r : Nat), r < 64 ∧ (s.core r).run ≠ .running) ∧
    (∃ (s : State) (index : Nat) (r : Nat), r < 64 ∧ (s.core r).run = .running ∧ index < 2 ^ 23 ∧ s.lookupOpen r index
      = false) ∧
    (∃ (s : State) (index : Nat) (r : Nat), r < 64 ∧ (s.core r).run = .running ∧ 2 ^ 23 ≤ index) ∧
    (∃ (index : Nat) (r : Nat), 64 ≤ r ∧ 2 ^ 23 ≤ index) ∧
    (∃ (s : State) (index : Nat), s.mem.wf = true ∧ 0 < (s.entry index).readers ∧ (1 < (s.entry index).readers ∨ 0 <
      (s.entry index).refs)) ∧
    (∃ (s : State) (index : Nat), s.mem.wf = true ∧ (s.entry index).readers = 1 ∧ (s.entry index).refs = 0 ∧ ((s.entry
      index).state = ftResident ∨ (s.entry index).state = ftPinned)) ∧
    (∃ (s : State) (index : Nat) (n : Nat), s.mem.wf = true ∧ (s.entry index).refs + n ≤ 4095) ∧
    (∃ (s : State) (index : Nat) (n : Nat), s.mem.wf = true ∧ 4095 < (s.entry index).refs + n) ∧
    (∃ (s : State) (index : Nat), s.mem.wf = true ∧ 0 < (s.entry index).refs ∧ (1 < (s.entry index).refs ∨ 0 <
      (s.entry index).readers)) ∧
    (∃ (s : State) (index : Nat), s.mem.wf = true ∧ (s.entry index).refs = 1 ∧ (s.entry index).readers = 0 ∧ ((s.entry
      index).state = ftResident ∨ (s.entry index).state = ftPinned ∨ (s.entry index).state = ftSwapped)) ∧
    (∃ (s : State) (index : Nat) (e : Nat), s.entryWord index = e) ∧
    (∃ (s : State) (index : Nat) (e : Nat), s.entryWord index ≠ e) ∧
    (∃ (s : State) (u : State) (die : Nat) (pool : Nat) (state : Nat) (index : Nat), s.mem.wf = true ∧ s.ftAlloc die
      pool state 0 = some (index, u) ∧ die < 4 ∧ pool < 64 ∧ state < 8 ∧ index / 2 ^ 21 = die) ∧
    (∃ (s : State) (die : Nat) (pool : Nat) (state : Nat), s.ftAlloc die pool state 0 = none) :=
  ⟨let w := 2 ^ 64 - 1
   ⟨w, (by decide +kernel)⟩,
   let s : State := withEntry { home := 1, state := ftResident, readers := 254 }
   let index : Nat := 2097152
   let pool : Nat := 0
   let r : Nat := 64
   ⟨s, index, pool, r, (by decide +kernel)⟩,
   let s : State := (withEntry { home := 1, state := ftResident, readers := 1 }).onKv fun k =>
      { k with engineReads := [(71, 2097152)] }
   let index : Nat := 2097152
   let pool : Nat := 0
   let r : Nat := 71
   ⟨s, index, pool, r, (by decide +kernel)⟩,
   let s : State := up
   let index : Nat := 5
   let pool : Nat := 0
   let r : Nat := 64
   ⟨s, index, pool, r, (by decide +kernel)⟩,
   let s : State := tileUp.setEntry 2097152 { home := 1, state := ftResident, readers := 254 }
   let index : Nat := 2097152
   let pool : Nat := 0
   let r : Nat := 63
   ⟨s, index, pool, r, (by decide +kernel)⟩,
   let s : State := (tileUp.setEntry 2097152 ({ home := 1, state := ftResident, readers := 254 } : FtEntry)).onCore 63
      fun k => { k with readers := [2097152] }
   let index : Nat := 2097152
   let pool : Nat := 0
   let r : Nat := 63
   ⟨s, index, pool, r, (by decide +kernel)⟩,
   let s : State := (tileUp.setEntry 2097152 ({ home := 1, state := ftResident, readers := 254 } : FtEntry)).onCore 63
      fun k => { k with readers := List.replicate 256 0 }
   let index : Nat := 2097152
   let pool : Nat := 0
   let r : Nat := 63
   ⟨s, index, pool, r, (by decide +kernel)⟩,
   let s : State := tileUp
   let index : Nat := 2097152
   let pool : Nat := 0
   let r : Nat := 63
   ⟨s, index, pool, r, (by decide +kernel)⟩,
   let s : State := up
   let r : Nat := 63
   ⟨s, r, (by decide +kernel)⟩,
   let s : State := tileUp.onDram 3 fun d => { d with p0Mask := 2 ^ 63 }
   let index : Nat := 2 ^ 23 - 1
   let r : Nat := 63
   ⟨s, index, r, (by decide +kernel)⟩,
   let s : State := tileUp
   let index : Nat := 2 ^ 23
   let r : Nat := 63
   ⟨s, index, r, (by decide +kernel)⟩,
   let index : Nat := 2 ^ 23
   let r : Nat := 64
   ⟨index, r, (by decide +kernel)⟩,
   let s : State := withEntry { home := 1, state := ftResident, readers := 254 }
   let index : Nat := 2097152
   ⟨s, index, (by decide +kernel)⟩,
   let s : State := withEntry { state := ftResident, readers := 1 }
   let index : Nat := 2097152
   ⟨s, index, (by decide +kernel)⟩,
   let s : State := withEntry { state := ftResident, refs := 1 }
   let index : Nat := 2097152
   let n : Nat := 4094
   ⟨s, index, n, (by decide +kernel)⟩,
   let s : State := withEntry { state := ftResident, refs := 1 }
   let index : Nat := 2097152
   let n : Nat := 4095
   ⟨s, index, n, (by decide +kernel)⟩,
   let s : State := withEntry { state := ftResident, refs := 2 }
   let index : Nat := 2097152
   ⟨s, index, (by decide +kernel)⟩,
   let s : State := withEntry { state := ftResident, refs := 1 }
   let index : Nat := 2097152
   ⟨s, index, (by decide +kernel)⟩,
   let s : State := up
   let index : Nat := 0
   let e : Nat := 0
   ⟨s, index, e, (by decide +kernel)⟩,
   let s : State := up
   let index : Nat := 0
   let e : Nat := 1
   ⟨s, index, e, (by decide +kernel)⟩,
   let s : State := allocUp
   let die : Nat := 3
   let pool : Nat := 1
   let state : Nat := ftResident
   let index : Nat := _
   let u : State := _
   ⟨s, u, die, pool, state, index, ⟨(by decide +kernel), ftAlloc_of_one
      { kvPool with dieMask := 8, dies := [{}, {}, {}, lastPlace] } lastPlace (by decide +kernel)
      (by decide +kernel) (by decide +kernel) rfl rfl (by decide), (by decide +kernel)⟩⟩,
   let s : State := up
   let die : Nat := 3
   let pool : Nat := 1
   let state : Nat := ftResident
   ⟨s, die, pool, state, (by decide +kernel)⟩⟩

theorem witness_PoolsAndSequencesAreCreated :
    (∃ (c : Cmd) (s : State),
      let p := parsePool c.data
      Starts 5 1 c s ∧ (poolBad p = true ∨ (s.pool p.id).isSome = true)) ∧
    (∃ (c : Cmd) (s : State),
      let p := parsePool c.data
      let full := p.dieList.any fun d => decide (tableEntries < s.entriesUsed d + p.entriesPerDie)
      Starts 5 1 c s ∧ poolBad p = false ∧ s.pool p.id = none ∧ full = true) ∧
    (∃ (c : Cmd) (s : State),
      let p := parsePool c.data
      let full := p.dieList.any fun d => decide (tableEntries < s.entriesUsed d + p.entriesPerDie)
      Starts 5 1 c s ∧ poolBad p = false ∧ s.pool p.id = none ∧ full = false ∧ s.poolPlaces p = none) ∧
    (∃ (c : Cmd) (s : State) (places : _),
      let p := parsePool c.data
      let full := p.dieList.any fun d => decide (tableEntries < s.entriesUsed d + p.entriesPerDie)
      Starts 5 1 c s ∧ poolBad p = false ∧ s.pool p.id = none ∧ full = false ∧ s.poolPlaces p = some places) ∧
    (∃ (c : Cmd) (s : State),
      let q := parseSeq c.ring c.data
      Starts 5 2 c s ∧ s.pool q.pool = none) ∧
    (∃ (c : Cmd) (s : State) (p : _),
      let q := parseSeq c.ring c.data
      Starts 5 2 c s ∧ s.pool q.pool = some p ∧ (4095 < q.id ∨ (s.seqAt q.id).isSome = true ∨ 3 < q.cls ∨ 7 <
      q.priority ∨ q.maxTokens < 16 ∨ 262144 < q.maxTokens ∨ q.maxTokens % 16 ≠ 0 ∨ tablesBad p q = true ∨ fieldAt
      c.data 5 3 ≠ 0 ∨ fieldAt c.data 12 4 ≠ 0 ∨ fieldAt c.data 48 16 ≠ 0)) ∧
    (∃ (c : Cmd) (s : State) (p : _),
      let q := parseSeq c.ring c.data
      Starts 5 2 c s ∧ s.pool q.pool = some p ∧ q.id ≤ 4095 ∧ s.seqAt q.id = none ∧ q.cls ≤ 3 ∧ q.priority ≤ 7 ∧ 16 ≤
      q.maxTokens ∧ q.maxTokens ≤ 262144 ∧ q.maxTokens % 16 = 0 ∧ fieldAt c.data 5 3 = 0 ∧ fieldAt c.data 12 4 = 0 ∧
      fieldAt c.data 48 16 = 0 ∧ tablesBad p q = false ∧ s.ownsTables c.ring p q = false) ∧
    (∃ (c : Cmd) (s : State) (p : _),
      let q := parseSeq c.ring c.data
      let short := p.dieList.any fun d => decide (p.freeFrames d < p.layers * q.pages ∨ p.freeIndexes d < p.layers *
        q.pages)
      Starts 5 2 c s ∧ s.pool q.pool = some p ∧ q.id ≤ 4095 ∧ s.seqAt q.id = none ∧ q.cls ≤ 3 ∧ q.priority ≤ 7 ∧ 16 ≤
      q.maxTokens ∧ q.maxTokens ≤ 262144 ∧ q.maxTokens % 16 = 0 ∧ fieldAt c.data 5 3 = 0 ∧ fieldAt c.data 12 4 = 0 ∧
      fieldAt c.data 48 16 = 0 ∧ tablesBad p q = false ∧ s.ownsTables c.ring p q = true ∧ q.cls ≤ 1 ∧ short = true) ∧
    (∃ (c : Cmd) (s : State) (p : _),
      let q := parseSeq c.ring c.data
      let short := p.dieList.any fun d => decide (p.freeFrames d < p.layers * q.pages ∨ p.freeIndexes d < p.layers *
        q.pages)
      Starts 5 2 c s ∧ s.pool q.pool = some p ∧ q.id ≤ 4095 ∧ s.seqAt q.id = none ∧ q.cls ≤ 3 ∧ q.priority ≤ 7 ∧ 16 ≤
      q.maxTokens ∧ q.maxTokens ≤ 262144 ∧ q.maxTokens % 16 = 0 ∧ fieldAt c.data 5 3 = 0 ∧ fieldAt c.data 12 4 = 0 ∧
      fieldAt c.data 48 16 = 0 ∧ tablesBad p q = false ∧ s.ownsTables c.ring p q = true ∧ q.cls ≤ 1 ∧ short = false) ∧
    (∃ (c : Cmd) (s : State) (p : _),
      let q := parseSeq c.ring c.data
      Starts 5 2 c s ∧ s.pool q.pool = some p ∧ q.id ≤ 4095 ∧ s.seqAt q.id = none ∧ q.cls ≤ 3 ∧ q.priority ≤ 7 ∧ 16 ≤
      q.maxTokens ∧ q.maxTokens ≤ 262144 ∧ q.maxTokens % 16 = 0 ∧ fieldAt c.data 5 3 = 0 ∧ fieldAt c.data 12 4 = 0 ∧
      fieldAt c.data 48 16 = 0 ∧ tablesBad p q = false ∧ s.ownsTables c.ring p q = true ∧ 2 ≤ q.cls ∧ s.mem.wf = true) ∧
    (∃ (c : Cmd) (s : State), Starts 5 3 c s ∧ s.seqNamed (c.word 0) = none) ∧
    (∃ (c : Cmd) (s : State) (q : _),
      let p := (s.pool q.pool).getD {}
      let child : KvSeq :=
        { q with id := c.word 1, ctx := c.ring, length := c.word 2, state := .active, bt := btOf c.data 0, freeing := false }
      let frames := s.framesOf p q 0 (ceilDiv (c.word 2) 16)
      let st := if 4095 < c.word 1 ∨ (s.seqAt (c.word 1)).isSome = true ∨ q.length < c.word 2 ∨ tablesBad p child =
        true then stBadParam else if s.ownsTables c.ring p child = false then stDenied else if q.cls ≤ 1 then
        stClassDenied else if q.state ≠ .active then stKvSwapped else if ∃ i ∈ frames, (s.entry i).state = ftPinned
        then stBusy else if ∃ i ∈ frames, 4095 ≤ (s.entry i).refs then stLimit else stOk
      Starts 5 3 c s ∧ s.seqNamed (c.word 0) = some q ∧ st ≠ stOk) ∧
    (∃ (c : Cmd) (s : State) (q : _),
      let p := (s.pool q.pool).getD {}
      let child : KvSeq :=
        { q with id := c.word 1, ctx := c.ring, length := c.word 2, state := .active, bt := btOf c.data 0, freeing := false }
      let frames := s.framesOf p q 0 (ceilDiv (c.word 2) 16)
      let st := if 4095 < c.word 1 ∨ (s.seqAt (c.word 1)).isSome = true ∨ q.length < c.word 2 ∨ tablesBad p child =
        true then stBadParam else if s.ownsTables c.ring p child = false then stDenied else if q.cls ≤ 1 then
        stClassDenied else if q.state ≠ .active then stKvSwapped else if ∃ i ∈ frames, (s.entry i).state = ftPinned
        then stBusy else if ∃ i ∈ frames, 4095 ≤ (s.entry i).refs then stLimit else stOk
      Starts 5 3 c s ∧ s.seqNamed (c.word 0) = some q ∧ st = stOk) ∧
    (∃ (c : Cmd) (s : State), Starts 5 4 c s ∧ s.seqNamed (c.word 0) = none) ∧
    (∃ (c : Cmd) (s : State) (q : _), Starts 5 4 c s ∧ s.seqNamed (c.word 0) = some q ∧ s.seqInUse q.id = true) ∧
    (∃ (c : Cmd) (s : State) (q : _), Starts 5 4 c s ∧ s.seqNamed (c.word 0) = some q ∧ s.seqInUse q.id = false ∧
      s.seqMoving q = true) ∧
    (∃ (c : Cmd) (s : State) (q : _), Starts 5 4 c s ∧ s.seqNamed (c.word 0) = some q ∧ s.seqInUse q.id = false ∧
      s.seqMoving q = false) ∧
    (∃ (c : Cmd) (s : State), Starts 5 9 c s ∧ bitAt (c.word 0) 31 = false ∧ s.seqNamed (c.word 0) = none) ∧
    (∃ (c : Cmd) (s : State) (q : _), Starts 5 9 c s ∧ bitAt (c.word 0) 31 = false ∧ s.seqNamed (c.word 0) = some q) ∧
    (∃ (c : Cmd) (s : State), Starts 5 9 c s ∧ bitAt (c.word 0) 31 = true ∧ s.pool (c.word 0 % 256) = none) ∧
    (∃ (c : Cmd) (s : State) (p : _),
      let d := bitsOf (c.word 0) 9 8
      Starts 5 9 c s ∧ bitAt (c.word 0) 31 = true ∧ s.pool (c.word 0 % 256) = some p ∧ p.onDie d = false) ∧
    (∃ (c : Cmd) (s : State) (p : _),
      let d := bitsOf (c.word 0) 9 8
      Starts 5 9 c s ∧ bitAt (c.word 0) 31 = true ∧ s.pool (c.word 0 % 256) = some p ∧ p.onDie d = true) :=
  ⟨let c : Cmd := cm 5 1 [] (record 64 [])
   let s : State := at0 (up) c
   ⟨c, s, (by unfold Starts; decide +kernel)⟩,
   let c : Cmd := cm 5 1 [] (record 64 [(0, 1, 63), (1, 1, 7), (2, 1, 1), (3, 1, 1), (4, 1, 1), (5, 1, 64), (6, 2, 1),
      (8, 4, 1), (12, 4, 2 ^ 21)])
   let s : State := at0 (up.onKv fun k => { k with pools := [kvPool] }) c
   ⟨c, s, (by unfold Starts; decide +kernel)⟩,
   let c : Cmd := cm 5 1 [] (record 64 [(0, 1, 63), (1, 1, 7), (2, 1, 1), (3, 1, 1), (4, 1, 1), (5, 1, 64), (6, 2, 1),
      (8, 4, 1), (12, 4, 1)])
   let s : State := at0 (up.onDram 0 fun d => { d with inService := false }) c
   ⟨c, s, (by unfold Starts; decide +kernel)⟩,
   let c : Cmd := cm 5 1 [] (record 64 [(0, 1, 63), (1, 1, 7), (2, 1, 1), (3, 1, 1), (4, 1, 1), (5, 1, 64), (6, 2, 1),
      (8, 4, 523264), (12, 4, 523264)])
   let s : State := at0 (up) c
   let places := [(0, 0)]
   ⟨c, s, places, ⟨(by unfold Starts; decide +kernel), (by decide +kernel), (by decide +kernel), (by decide +kernel),
      (by have h : s.placeDram 0 (parsePool c.data).regionBytes 4096 0 = some 0 := placeRange_of_one (by decide +kernel) (by decide +kernel) (by decide +kernel); have hd : (parsePool c.data).dieList = [0] := (by decide +kernel); have hi : (s.dramAt 0).inService = true := (by decide +kernel); simp only [State.poolPlaces, hd, List.foldr, hi, if_true, h]; rfl)⟩⟩,
   let c : Cmd := cm 5 2 [] (record 64 [])
   let s : State := at0 (up) c
   ⟨c, s, (by unfold Starts; decide +kernel)⟩,
   let c : Cmd := cm 5 2 [] (record 64 [(0, 2, 4095), (2, 1, 1), (3, 1, 2), (8, 4, 0), (16, 8, 8192)])
   let s : State := at0 (kvUp [kvSeq] oneRef) c
   let p := kvPool
   ⟨c, s, p, (by unfold Starts; decide +kernel)⟩,
   let c : Cmd :=
      { cm 5 2 [] (record 64 [(0, 2, 4095), (2, 1, 1), (3, 1, 2), (8, 4, 16), (16, 8, 8192)]) with ring := 9 }
   let s : State := at9 ((kvUp [kvSeq] oneRef).onHl fun h => { h with allocs := [{ base := 0, size := 2 ^ 16 }] }) c
   let p := kvPool
   ⟨c, s, p, (by unfold Starts; decide +kernel)⟩,
   let c : Cmd := cm 5 2 [] (record 64 [(0, 2, 4095), (2, 1, 1), (3, 1, 1), (8, 4, 2048), (16, 8, 8192)])
   let s : State := at0 (kvUp [kvSeq] oneRef) c
   let p := kvPool
   ⟨c, s, p, (by unfold Starts; decide +kernel)⟩,
   let c : Cmd := cm 5 2 [] (record 64 [(0, 2, 4095), (2, 1, 1), (3, 1, 1), (8, 4, 16), (16, 8, 8192)])
   let s : State := at0 (kvUp [kvSeq] oneRef) c
   let p := kvPool
   ⟨c, s, p, (by unfold Starts; decide +kernel)⟩,
   let c : Cmd := cm 5 2 [] (record 64 [(0, 2, 4095), (2, 1, 1), (3, 1, 2), (8, 4, 16), (16, 8, 8192)])
   let s : State := at0 (kvUp [kvSeq] oneRef) c
   let p : Pool := kvPool
   ⟨c, s, p, (by unfold Starts; decide +kernel)⟩,
   let c : Cmd := cm 5 3 [7] (record 32 [])
   let s : State := at0 (up) c
   ⟨c, s, (by unfold Starts; decide +kernel)⟩,
   let c : Cmd := cm 5 3 [7, 4096] (record 32 [])
   let s : State := at0 (kvUp [kvSeq] oneRef) c
   let q := kvSeq
   ⟨c, s, q, (by unfold Starts; decide +kernel)⟩,
   let c : Cmd := cm 5 3 [7, 4095, 16] (record 32 [(0, 8, 8192)])
   let s : State := at0 (kvUp [kvSeq] oneRef) c
   let q : KvSeq := kvSeq
   ⟨c, s, q, (by unfold Starts; decide +kernel)⟩,
   let c : Cmd := cm 5 4 [7]
   let s : State := at0 (up) c
   ⟨c, s, (by unfold Starts; decide +kernel)⟩,
   let c : Cmd := cm 5 4 [7]
   let s : State := at0 (withJobs (kvUp [kvSeq] oneRef) [writer]) c
   let q : KvSeq := kvSeq
   ⟨c, s, q, (by unfold Starts; decide +kernel)⟩,
   let c : Cmd := cm 5 4 [7]
   let s : State := at0 ((kvUp [kvSeq] oneRef).onKv fun k => { k with xfers := [{}] }) c
   let q := kvSeq
   ⟨c, s, q, (by unfold Starts; decide +kernel)⟩,
   let c : Cmd := cm 5 4 [7]
   let s : State := at0 (kvUp [kvSeq] oneRef) c
   let q : KvSeq := kvSeq
   ⟨c, s, q, (by unfold Starts; decide +kernel)⟩,
   let c : Cmd := cm 5 9 [7]
   let s : State := at0 (up) c
   ⟨c, s, (by unfold Starts; decide +kernel)⟩,
   let c : Cmd := cm 5 9 [7]
   let s : State := at0 (kvUp [kvSeq] oneRef) c
   let q : KvSeq := kvSeq
   ⟨c, s, q, (by unfold Starts; decide +kernel)⟩,
   let c : Cmd := cm 5 9 [0x80000001]
   let s : State := at0 (up) c
   ⟨c, s, (by unfold Starts; decide +kernel)⟩,
   let c : Cmd := cm 5 9 [0x80000101]
   let s : State := at0 (kvUp [kvSeq] oneRef) c
   let p := kvPool
   ⟨c, s, p, (by unfold Starts; decide +kernel)⟩,
   let c : Cmd := cm 5 9 [0x80000001]
   let s : State := at0 (kvUp [kvSeq] oneRef) c
   let p : Pool := kvPool
   ⟨c, s, p, (by unfold Starts; decide +kernel)⟩⟩

theorem witness_SwappingMovesFramesAndStates :
    (∃ (c : Cmd) (s : State),
      let bad := decide (c.addr 0 % 4096 ≠ 0 ∨ c.word 2 = 0 ∨ 65535 < c.word 2) || !inHost (c.addr 0) (c.word 2 * 2 ^
        20)
      Starts 5 5 c s ∧ bad = true) ∧
    (∃ (c : Cmd) (s : State),
      let bad := decide (c.addr 0 % 4096 ≠ 0 ∨ c.word 2 = 0 ∨ 65535 < c.word 2) || !inHost (c.addr 0) (c.word 2 * 2 ^
        20)
      Starts 5 5 c s ∧ bad = false ∧ s.anySwapped = true) ∧
    (∃ (c : Cmd) (s : State),
      let bad := decide (c.addr 0 % 4096 ≠ 0 ∨ c.word 2 = 0 ∨ 65535 < c.word 2) || !inHost (c.addr 0) (c.word 2 * 2 ^
        20)
      Starts 5 5 c s ∧ bad = false ∧ s.anySwapped = false) ∧
    (∃ (c : Cmd) (s : State), Starts 5 6 c s ∧ s.seqNamed (c.word 0) = none) ∧
    (∃ (c : Cmd) (s : State) (q : _), Starts 5 6 c s ∧ s.seqNamed (c.word 0) = some q ∧ q.cls ≤ 1) ∧
    (∃ (c : Cmd) (s : State) (q : _), Starts 5 6 c s ∧ s.seqNamed (c.word 0) = some q ∧ 2 ≤ q.cls ∧ q.state ≠ .active) ∧
    (∃ (c : Cmd) (s : State) (q : _), Starts 5 6 c s ∧ s.seqNamed (c.word 0) = some q ∧ 2 ≤ q.cls ∧ q.state = .active
      ∧ s.swapFits q = false) ∧
    (∃ (c : Cmd) (s : State) (q : _), Starts 5 6 c s ∧ s.seqNamed (c.word 0) = some q ∧ 2 ≤ q.cls ∧ q.state = .active
      ∧ s.swapFits q = true) ∧
    (∃ (c : Cmd) (s : State), Starts 5 7 c s ∧ s.seqNamed (c.word 0) = none) ∧
    (∃ (c : Cmd) (s : State) (q : _), Starts 5 7 c s ∧ s.seqNamed (c.word 0) = some q ∧ q.cls ≤ 1) ∧
    (∃ (c : Cmd) (s : State) (q : _), Starts 5 7 c s ∧ s.seqNamed (c.word 0) = some q ∧ 2 ≤ q.cls ∧ q.state = .active) ∧
    (∃ (c : Cmd) (s : State) (q : _), Starts 5 7 c s ∧ s.seqNamed (c.word 0) = some q ∧ 2 ≤ q.cls ∧ (q.state =
      .suspending ∨ q.state = .resuming)) ∧
    (∃ (c : Cmd) (s : State) (q : _), Starts 5 7 c s ∧ s.seqNamed (c.word 0) = some q ∧ 2 ≤ q.cls ∧ q.state =
      .suspended ∧ s.canResume q = false) ∧
    (∃ (c : Cmd) (s : State) (q : _), Starts 5 7 c s ∧ s.seqNamed (c.word 0) = some q ∧ 2 ≤ q.cls ∧ q.state =
      .suspended ∧ s.canResume q = true) ∧
    (∃ (s : State) (id : Nat) (q : KvSeq), s.seqAt id = some q ∧ q.state = .suspending ∧ s.seqRuns id = false ∧
      s.seqMoving q = false ∧ s.privateFrames q = []) ∧
    (∃ (s : State) (index : Nat) (x : Xfer), s.xfer index true = some x ∧ s.hl.linkUp = false) ∧
    (∃ (s : State) (index : Nat) (x : Xfer), s.xfer index true = some x) ∧
    (∃ (s : State) (index : Nat) (x : Xfer), s.xfer index true = some x ∧ s.hl.linkUp = true ∧ s.mem.wf = true ∧
      x.unit < 2 ^ 26) ∧
    (∃ (s : State) (index : Nat) (x : Xfer), s.xfer index false = some x ∧ s.hl.linkUp = true ∧ x.failed = false) ∧
    (∃ (s : State) (index : Nat) (x : Xfer), s.xfer index false = some x ∧ s.hl.linkUp = true ∧ x.failed = true) ∧
    (∃ (s : State) (index : Nat) (x : Xfer), s.xfer index false = some x ∧ s.hl.linkUp = true ∧ x.failed = true ∧
      s.phase s.tb.link % 100 = 0 ∧ x.failedAt < s.tb.link) ∧
    (∃ (s : State) (index : Nat) (x : Xfer), s.xfer index false = some x ∧ s.hl.linkUp = true ∧ x.failed = true ∧
      s.phase s.tb.link % 100 = 0 ∧ x.failedAt < s.tb.link ∧ x.retries < 2) ∧
    (∃ (s : State) (index : Nat) (x : Xfer), s.xfer index false = some x ∧ s.hl.linkUp = true ∧ x.failed = true ∧
      s.phase s.tb.link % 100 = 0 ∧ x.failedAt < s.tb.link ∧ 2 ≤ x.retries) ∧
    (∃ (s : State) (index : Nat), s.mem.wf = true ∧ index < 2 ^ 23) :=
  ⟨let c : Cmd := cm 5 5 [0, 0x8000, 65536]
   let s : State := at0 (up) c
   ⟨c, s, (by unfold Starts; decide +kernel)⟩,
   let c : Cmd := cm 5 5 [0, 0x8000, 65535]
   let s : State := at0 (kvUp [kvSeq] { oneRef with state := ftSwapped }) c
   ⟨c, s, (by unfold Starts; decide +kernel)⟩,
   let c : Cmd := cm 5 5 [0, 0x8000, 65535]
   let s : State := at0 up c
   ⟨c, s, (by unfold Starts; decide +kernel)⟩,
   let c : Cmd := cm 5 6 [7]
   let s : State := at0 (up) c
   ⟨c, s, (by unfold Starts; decide +kernel)⟩,
   let c : Cmd := cm 5 6 [7]
   let s : State := at0 (kvUp [{ kvSeq with cls := 1 }] oneRef) c
   let q := { kvSeq with cls := 1 }
   ⟨c, s, q, (by unfold Starts; decide +kernel)⟩,
   let c : Cmd := cm 5 6 [7]
   let s : State := at0 (kvUp [{ kvSeq with state := .resuming }] oneRef) c
   let q := { kvSeq with state := .resuming }
   ⟨c, s, q, (by unfold Starts; decide +kernel)⟩,
   let c : Cmd := cm 5 6 [7]
   let s : State := at0 ((kvUp [kvSeq] oneRef).onKv fun k => { k with area := none }) c
   let q := kvSeq
   ⟨c, s, q, (by unfold Starts; decide +kernel)⟩,
   let c : Cmd := cm 5 6 [7]
   let s : State := at0 (kvUp [kvSeq] oneRef) c
   let q : KvSeq := kvSeq
   ⟨c, s, q, (by unfold Starts; decide +kernel)⟩,
   let c : Cmd := cm 5 7 [7]
   let s : State := at0 (up) c
   ⟨c, s, (by unfold Starts; decide +kernel)⟩,
   let c : Cmd := cm 5 7 [7]
   let s : State := at0 (kvUp [{ kvSeq with cls := 1 }] oneRef) c
   let q := { kvSeq with cls := 1 }
   ⟨c, s, q, (by unfold Starts; decide +kernel)⟩,
   let c : Cmd := cm 5 7 [7]
   let s : State := at0 (kvUp [kvSeq] oneRef) c
   let q : KvSeq := kvSeq
   ⟨c, s, q, (by unfold Starts; decide +kernel)⟩,
   let c : Cmd := cm 5 7 [7]
   let s : State := at0 (kvUp [{ kvSeq with state := .resuming }] oneRef) c
   let q := { kvSeq with state := .resuming }
   ⟨c, s, q, (by unfold Starts; decide +kernel)⟩,
   let c : Cmd := cm 5 7 [7]
   let s : State := at0 ((kvUp [{ kvSeq with state := .suspended }] { oneRef with state := ftSwapped }).onKv fun k =>
      { k with pools := [{ kvPool with framesPerDie := 1, dies := [fullDie, {}, {}, {}] }] }) c
   let q := { kvSeq with state := .suspended }
   ⟨c, s, q, (by unfold Starts; decide +kernel)⟩,
   let c : Cmd := cm 5 7 [7]
   let s : State := at0 (kvUp [{ kvSeq with state := .suspended }] { oneRef with state := ftSwapped }) c
   let q : KvSeq := { kvSeq with state := .suspended }
   ⟨c, s, q, (by unfold Starts; decide +kernel)⟩,
   let s : State := kvUp [{ kvSeq with state := .suspending }] { oneRef with state := ftSwapped }
   let id : Nat := 7
   let q : KvSeq := { kvSeq with state := .suspending }
   ⟨s, id, q, (by decide +kernel)⟩,
   let s : State := ((kvUp [] { oneRef with state := ftSwappingOut }).onKv fun k => { k with xfers := [{}] }).onHl fun
      h => { h with linkUp := false }
   let index : Nat := 0
   let x : Xfer := {}
   ⟨s, index, x, (by decide +kernel)⟩,
   let s : State := (kvUp [] { oneRef with state := ftSwappingOut }).onKv (fun k =>
      { k with xfers := [{ unit := 2 ^ 26 - 1 }] })
   let index : Nat := 0
   let x : Xfer := { unit := 2 ^ 26 - 1 }
   ⟨s, index, x, (by decide +kernel)⟩,
   let s : State := (kvUp [] { oneRef with state := ftSwappingOut }).onKv (fun k =>
      { k with xfers := [{ unit := 2 ^ 26 - 1 }] })
   let index : Nat := 0
   let x : Xfer := { unit := 2 ^ 26 - 1 }
   ⟨s, index, x, (by decide +kernel)⟩,
   let s : State := (kvUp [] { oneRef with state := ftSwappingIn }).onKv (fun k =>
      { k with xfers := [{ out := false }] })
   let index : Nat := 0
   let x : Xfer := { out := false }
   ⟨s, index, x, (by decide +kernel)⟩,
   let s : State := (kvUp [] { oneRef with state := ftSwappingIn }).onKv (fun k =>
      { k with xfers := [{ out := false, failed := true, retries := 1 }] })
   let index : Nat := 0
   let x : Xfer := { out := false, failed := true, retries := 1 }
   ⟨s, index, x, (by decide +kernel)⟩,
   let s : State := (kvUp [] { oneRef with state := ftSwappingIn }).onKv (fun k =>
      { k with xfers := [{ out := false, failed := true, retries := 1 }] })
   let index : Nat := 0
   let x : Xfer := { out := false, failed := true, retries := 1 }
   ⟨s, index, x, (by decide +kernel)⟩,
   let s : State := (kvUp [] { oneRef with state := ftSwappingIn }).onKv (fun k =>
      { k with xfers := [{ out := false, failed := true, retries := 1 }] })
   let index : Nat := 0
   let x : Xfer := { out := false, failed := true, retries := 1 }
   ⟨s, index, x, (by decide +kernel)⟩,
   let s : State := (kvUp [] { oneRef with state := ftSwappingIn }).onKv (fun k =>
      { k with xfers := [{ out := false, failed := true, retries := 2 }] })
   let index : Nat := 0
   let x : Xfer := { out := false, failed := true, retries := 2 }
   ⟨s, index, x, (by decide +kernel)⟩,
   let s : State := (kvUp [] { oneRef with state := ftSwappingOut }).onKv (fun k =>
      { k with xfers := [{ unit := 2 ^ 26 - 1 }] })
   let index : Nat := 0
   ⟨s, index, (by decide +kernel)⟩⟩

theorem witness_WriteResolutionAndCompaction :
    (∃ (s : State) (ctx : Nat) (tag : Nat) (j : Job),
      let bs := j.bindings.filter Binding.writes
      let waits := (bs.any fun b => !(s.seqAt b.seq).any fun q => q.state = .active) || bs.any fun b => (s.writeFrames
        b).any fun i => i ≠ noFrame && (s.entry i).state = ftPinned
      s.job { ctx := ctx, tag := tag } = some j ∧ (j.resolved = true ∨ bs = [] ∨ waits = true)) ∧
    (∃ (s : State) (ctx : Nat) (tag : Nat) (j : Job) (bad : List Nat),
      let bs := j.bindings.filter Binding.writes
      let r := s.resolveAll bs bad
      let waits := (bs.any fun b => !(s.seqAt b.seq).any fun q => q.state = .active) || bs.any fun b => (s.writeFrames
        b).any fun i => i ≠ noFrame && (s.entry i).state = ftPinned
      s.job { ctx := ctx, tag := tag } = some j ∧ j.resolved = false ∧ bs ≠ [] ∧ waits = false ∧ r.lacks = none) ∧
    (∃ (s : State) (ctx : Nat) (tag : Nat) (j : Job) (bad : List Nat) (q : _) (d : _),
      let bs := j.bindings.filter Binding.writes
      let r := s.resolveAll bs bad
      let waits := (bs.any fun b => !(s.seqAt b.seq).any fun q => q.state = .active) || bs.any fun b => (s.writeFrames
        b).any fun i => i ≠ noFrame && (s.entry i).state = ftPinned
      s.job { ctx := ctx, tag := tag } = some j ∧ j.resolved = false ∧ bs ≠ [] ∧ waits = false ∧ r.lacks = some (q, d)
      ∧ ((r.s.pool q.pool).getD {}).freeIndexes d = 0) ∧
    (∃ (s : State) (ctx : Nat) (tag : Nat) (j : Job) (bad : List Nat) (q : _) (d : _),
      let bs := j.bindings.filter Binding.writes
      let r := s.resolveAll bs bad
      let waits := (bs.any fun b => !(s.seqAt b.seq).any fun q => q.state = .active) || bs.any fun b => (s.writeFrames
        b).any fun i => i ≠ noFrame && (s.entry i).state = ftPinned
      s.job { ctx := ctx, tag := tag } = some j ∧ j.resolved = false ∧ bs ≠ [] ∧ waits = false ∧ r.lacks = some (q, d)
      ∧ ((r.s.pool q.pool).getD {}).freeIndexes d ≠ 0 ∧ (s.kv.seqs.any fun v => v.pool = q.pool && v.state =
      .suspending) = true) ∧
    (∃ (s : State) (ctx : Nat) (tag : Nat) (j : Job) (bad : List Nat) (q : _) (d : _),
      let bs := j.bindings.filter Binding.writes
      let r := s.resolveAll bs bad
      let waits := (bs.any fun b => !(s.seqAt b.seq).any fun q => q.state = .active) || bs.any fun b => (s.writeFrames
        b).any fun i => i ≠ noFrame && (s.entry i).state = ftPinned
      s.job { ctx := ctx, tag := tag } = some j ∧ j.resolved = false ∧ bs ≠ [] ∧ waits = false ∧ r.lacks = some (q, d)
      ∧ ((r.s.pool q.pool).getD {}).freeIndexes d ≠ 0 ∧ (s.kv.seqs.any fun v => v.pool = q.pool && v.state =
      .suspending) = false ∧ s.victim q = none) ∧
    (∃ (s : State) (ctx : Nat) (tag : Nat) (j : Job) (bad : List Nat) (q : _) (d : _) (v : _),
      let bs := j.bindings.filter Binding.writes
      let r := s.resolveAll bs bad
      let waits := (bs.any fun b => !(s.seqAt b.seq).any fun q => q.state = .active) || bs.any fun b => (s.writeFrames
        b).any fun i => i ≠ noFrame && (s.entry i).state = ftPinned
      s.job { ctx := ctx, tag := tag } = some j ∧ j.resolved = false ∧ bs ≠ [] ∧ waits = false ∧ r.lacks = some (q, d)
      ∧ ((r.s.pool q.pool).getD {}).freeIndexes d ≠ 0 ∧ (s.kv.seqs.any fun v => v.pool = q.pool && v.state =
      .suspending) = false ∧ s.victim q = some v) ∧
    (∃ (s : State) (j : Job), s.job j.key = some j ∧ j.placed = []) ∧
    (∃ (s : State) (q : KvSeq) (v : KvSeq), s.victim q = some v) ∧
    (∃ (s : State) (q : KvSeq) (v : KvSeq) (w : _), s.victim q = some v ∧ w ∈ s.kv.seqs ∧ w.pool = q.pool ∧ w.id ≠
      q.id ∧ 2 ≤ w.cls ∧ w.state = .active ∧ w.freeing = false ∧ w.priority < q.priority) ∧
    (∃ (s : State) (q : KvSeq) (v : KvSeq) (w : _), s.victim q = some v ∧ w ∈ s.kv.seqs ∧ w.pool = q.pool ∧ w.id ≠
      q.id ∧ 2 ≤ w.cls ∧ w.state = .active ∧ w.freeing = false ∧ w.priority < q.priority ∧ w.cls = v.cls) ∧
    (∃ (c : Cmd) (s : State), Starts 5 8 c s ∧ s.pool (c.word 0) = none) ∧
    (∃ (c : Cmd) (s : State) (p : _), Starts 5 8 c s ∧ s.pool (c.word 0) = some p ∧ (c.word 1 = 0 ∨ p.framesPerDie <
      c.word 1)) ∧
    (∃ (c : Cmd) (s : State) (p : _), Starts 5 8 c s ∧ s.pool (c.word 0) = some p ∧ 0 < c.word 1 ∧ c.word 1 ≤
      p.framesPerDie ∧ s.kv.compaction ≠ none) ∧
    (∃ (c : Cmd) (s : State) (p : _),
      let short := p.dieList.any fun d => let used := (p.die d).frames.used; let below := (used.filter fun u => decide (u < c.word 1)).length; decide (c.word 1 - below < used.length - below)
      Starts 5 8 c s ∧ s.pool (c.word 0) = some p ∧ 0 < c.word 1 ∧ c.word 1 ≤ p.framesPerDie ∧ s.kv.compaction = none
      ∧ short = true) ∧
    (∃ (c : Cmd) (s : State) (p : _),
      let short := p.dieList.any fun d => let used := (p.die d).frames.used; let below := (used.filter fun u => decide (u < c.word 1)).length; decide (c.word 1 - below < used.length - below)
      Starts 5 8 c s ∧ s.pool (c.word 0) = some p ∧ 0 < c.word 1 ∧ c.word 1 ≤ p.framesPerDie ∧ s.kv.compaction = none
      ∧ short = false) ∧
    (∃ (s : State) (index : Nat) (x : Compaction),
      let p := (s.pool x.pool).getD {}
      s.kv.compaction = some x ∧ (s.sch.bgdUntil ≤ s.tb.link ∨ (s.aboveTarget p x.target).contains index = false ∨
      s.triedNow x index = true)) ∧
    (∃ (s : State) (index : Nat) (x : Compaction),
      let p := (s.pool x.pool).getD {}
      let room := x.target - (((p.die (idxDie index)).frames.used).filter fun u => decide (u < x.target)).length
      s.kv.compaction = some x ∧ s.tb.link < s.sch.bgdUntil ∧ (s.aboveTarget p x.target).contains index = true ∧
      s.triedNow x index = false ∧ ((s.entry index).state ≠ ftResident ∨ (s.entry index).readers ≠ 0 ∨ room = 0)) ∧
    (∃ (s : State) (index : Nat) (x : Compaction),
      let p := (s.pool x.pool).getD {}
      let room := x.target - (((p.die (idxDie index)).frames.used).filter fun u => decide (u < x.target)).length
      s.kv.compaction = some x ∧ s.tb.link < s.sch.bgdUntil ∧ (s.aboveTarget p x.target).contains index = true ∧
      s.triedNow x index = false ∧ (s.entry index).state = ftResident ∧ (s.entry index).readers = 0 ∧ 0 < room ∧
      s.mem.wf = true) :=
  ⟨let s : State := withJobs (up) [writer]
   let ctx : Nat := 0
   let tag : Nat := 5
   let j : Job := writer
   ⟨s, ctx, tag, j, (by decide +kernel)⟩,
   let s : State := withJobs (kvUp [kvSeq] oneRef) [writer]
   let bad : List Nat := []
   let ctx : Nat := 0
   let tag : Nat := 5
   let j : Job := writer
   ⟨s, ctx, tag, j, bad, (by decide +kernel)⟩,
   let s : State := withJobs (noRoom [kvSeq]) [writer]
   let bad : List Nat := []
   let q := kvSeq
   let d := 0
   let ctx : Nat := 0
   let tag : Nat := 5
   let j : Job := writer
   ⟨s, ctx, tag, j, bad, q, d, (by decide +kernel)⟩,
   let s : State := withJobs ((noRoom [kvSeq, { kvSeq with id := 9, state := .suspending }]).onKv fun k =>
      { k with pools := [{ kvPool with framesPerDie := 1, dies := [{ fullDie with entries := { bound := 2, used := [0] } }, {}, {}, {}] }] })
      [writer]
   let bad : List Nat := []
   let q := kvSeq
   let d := 0
   let ctx : Nat := 0
   let tag : Nat := 5
   let j : Job := writer
   ⟨s, ctx, tag, j, bad, q, d, (by decide +kernel)⟩,
   let s : State := withJobs ((noRoom [kvSeq]).onKv fun k =>
      { k with pools := [{ kvPool with framesPerDie := 1, dies := [{ fullDie with entries := { bound := 2, used := [0] } }, {}, {}, {}] }] })
      [writer]
   let bad : List Nat := []
   let q := kvSeq
   let d := 0
   let ctx : Nat := 0
   let tag : Nat := 5
   let j : Job := writer
   ⟨s, ctx, tag, j, bad, q, d, (by decide +kernel)⟩,
   let s : State := withJobs ((noRoom [kvSeq, { kvSeq with id := 9, priority := 0 }]).onKv fun k =>
      { k with pools := [{ kvPool with framesPerDie := 1, dies := [{ fullDie with entries := { bound := 2, used := [0] } }, {}, {}, {}] }] })
      [writer]
   let bad : List Nat := []
   let q := kvSeq
   let d := 0
   let v := { kvSeq with id := 9, priority := 0 }
   let ctx : Nat := 0
   let tag : Nat := 5
   let j : Job := writer
   ⟨s, ctx, tag, j, bad, q, d, v, (by decide +kernel)⟩,
   let s : State := withJobs (kvUp [kvSeq] oneRef) [writer]
   let j : Job := writer
   ⟨s, j, (by decide +kernel)⟩,
   let s : State := noRoom [kvSeq, { kvSeq with id := 9, priority := 0 }]
   let q : KvSeq := kvSeq
   let v : KvSeq := { kvSeq with id := 9, priority := 0 }
   ⟨s, q, v, (by decide +kernel)⟩,
   let s : State := noRoom [kvSeq, { kvSeq with id := 9, priority := 0 }]
   let q : KvSeq := kvSeq
   let v : KvSeq := { kvSeq with id := 9, priority := 0 }
   let w : KvSeq := { kvSeq with id := 9, priority := 0 }
   ⟨s, q, v, w, (by decide +kernel)⟩,
   let s : State := noRoom [kvSeq, { kvSeq with id := 9, priority := 0 }]
   let q : KvSeq := kvSeq
   let v : KvSeq := { kvSeq with id := 9, priority := 0 }
   let w : KvSeq := { kvSeq with id := 9, priority := 0 }
   ⟨s, q, v, w, (by decide +kernel)⟩,
   let c : Cmd := cm 5 8 [1, 1]
   let s : State := at0 (up) c
   ⟨c, s, (by unfold Starts; decide +kernel)⟩,
   let c : Cmd := cm 5 8 [1, 65]
   let s : State := at0 (kvUp [kvSeq] oneRef) c
   let p := kvPool
   ⟨c, s, p, (by unfold Starts; decide +kernel)⟩,
   let c : Cmd := cm 5 8 [1, 1]
   let s : State := at0 ((kvUp [kvSeq] oneRef).onKv fun k => { k with compaction := some {} }) c
   let p := kvPool
   ⟨c, s, p, (by unfold Starts; decide +kernel)⟩,
   let c : Cmd := cm 5 8 [1, 1]
   let s : State := at0 ((kvUp [kvSeq] oneRef).onKv fun k =>
      { k with pools := [{ kvPool with dies := [{ fullDie with frames := { bound := 64, used := [0, 5] } }, {}, {}, {}] }] })
      c
   let p := { kvPool with dies := [{ fullDie with frames := { bound := 64, used := [0, 5] } }, {}, {}, {}] }
   ⟨c, s, p, (by unfold Starts; decide +kernel)⟩,
   let c : Cmd := cm 5 8 [1, 64]
   let s : State := at0 (kvUp [kvSeq] oneRef) c
   let p := kvPool
   ⟨c, s, p, (by unfold Starts; decide +kernel)⟩,
   let s : State := (kvUp [kvSeq] oneRef).onKv fun k => { k with compaction := some {} }
   let index : Nat := 0
   let x : Compaction := {}
   ⟨s, index, x, (by decide +kernel)⟩,
   let s : State := ((kvUp [kvSeq] { oneRef with number := 63, readers := 1 }).onKv fun k =>
      { k with compaction := some { pool := 1, target := 63 } }).onSch fun x => { x with bgdUntil := 1001 }
   let index : Nat := 0
   let x : Compaction := { pool := 1, target := 63 }
   ⟨s, index, x, (by decide +kernel)⟩,
   let s : State := ((kvUp [kvSeq] { oneRef with number := 63 }).onKv fun k =>
      { k with compaction := some { pool := 1, target := 63 } }).onSch (fun x => { x with bgdUntil := 1001 })
   let index : Nat := 0
   let x : Compaction := { pool := 1, target := 63 }
   ⟨s, index, x, (by decide +kernel)⟩⟩

theorem witness_JobsAreSubmittedCancelledAndQueried :
    (∃ (c : Cmd) (s : State), Starts 3 1 c s ∧ (begun c s).submitStatus c (parseJob c) ≠ stOk) ∧
    (∃ (c : Cmd) (s : State), Starts 3 1 c s ∧ (begun c s).submitStatus c (parseJob c) = stOk ∧ (begun c
      s).saveAreasFor (parseJob c) = none) ∧
    (∃ (c : Cmd) (s : State) (areas : List Nat), Starts 3 1 c s ∧ (begun c s).submitStatus c (parseJob c) = stOk ∧
      (begun c s).saveAreasFor (parseJob c) = some areas) ∧
    (∃ (c : Cmd) (s : State), Starts 3 2 c s ∧ s.namedJob c = none) ∧
    (∃ (c : Cmd) (s : State) (j : _), Starts 3 2 c s ∧ s.namedJob c = some j ∧ j.partition = 0 ∧ (s.running = true ∨
      s.dev.mode = .replay)) ∧
    (∃ (c : Cmd) (s : State) (j : _), Starts 3 2 c s ∧ s.namedJob c = some j ∧ (j.partition = 0 → s.running = false ∧
      s.dev.mode ≠ .replay)) ∧
    (∃ (c : Cmd) (s : State) (j : _), Starts 3 2 c s ∧ s.namedJob c = some j ∧ (j.partition = 0 → s.running = false ∧
      s.dev.mode ≠ .replay) ∧ j.placed = []) ∧
    (∃ (c : Cmd) (s : State), Starts 3 3 c s ∧ s.namedJob c = none) ∧
    (∃ (c : Cmd) (s : State) (j : _), Starts 3 3 c s ∧ s.namedJob c = some j) :=
  ⟨let c : Cmd := cm 3 1 [] (record 128 [])
   let s : State := at0 up c
   ⟨c, s, (by unfold Starts; decide +kernel)⟩,
   let c : Cmd := { cm 3 1 [] bgdBlock with partition := 2 }
   let s : State := at0 (((schUp {} []).onSch fun x =>
      { x with active := { id := 1, rows := [rowOf (2 ^ 63) {}] } }).onHl fun h =>
      { h with allocs := [{ base := 3 * stackSize, size := reservedOff, firmware := true }] }) c
   ⟨c, s, ⟨(by unfold Starts; decide +kernel), (by decide +kernel),
      (by
        have h : (begun c s).placeDram 3 ((begun c s).coresOn (parseJob c) 3 * (parseJob c).saveBytes) 64 3 = none :=
          placeRange_full (by decide +kernel) (by decide +kernel) (by decide +kernel)
        have hp : ¬ (parseJob c).partition = 0 := by decide +kernel
        have h3 : (decide (0 < (begun c s).coresOn (parseJob c) 3) && ((begun c s).dramAt 3).inService) = true := by
          decide +kernel
        rw [State.saveAreasFor, if_neg hp, show List.range 4 = [0, 1, 2, 3] from rfl, List.foldr, List.foldr, List.foldr,
          List.foldr, h3, if_pos rfl, h]; rfl)⟩⟩,
   let c : Cmd := cm 3 1 [] p0Block
   let s : State := at0 up c
   let areas : List Nat := [0, 0, 0, 0]
   ⟨c, s, areas, (by unfold Starts; decide +kernel)⟩,
   let c : Cmd := cm 3 2 [5, 0]
   let s : State := at0 (up) c
   ⟨c, s, (by unfold Starts; decide +kernel)⟩,
   let c : Cmd := cm 3 2 [5, 0]
   let s : State := at0 ((inMode .run).onSch fun x => { x with jobs := [{ job5 with partition := 0 }] }) c
   let j := { job5 with partition := 0 }
   ⟨c, s, j, (by unfold Starts; decide +kernel)⟩,
   let c : Cmd := cm 3 2 [5, 0]
   let s : State := at0 (schUp {} [job5]) c
   let j : Job := job5
   ⟨c, s, j, (by unfold Starts; decide +kernel)⟩,
   let c : Cmd := cm 3 2 [5, 0]
   let s : State := at0 (schUp {} [job5]) c
   let j : Job := job5
   ⟨c, s, j, (by unfold Starts; decide +kernel)⟩,
   let c : Cmd := cm 3 3 [5, 0]
   let s : State := at0 (up) c
   ⟨c, s, (by unfold Starts; decide +kernel)⟩,
   let c : Cmd := cm 3 3 [5, 0]
   let s : State := at0 (schUp {} [job5]) c
   let j : Job := job5
   ⟨c, s, j, (by unfold Starts; decide +kernel)⟩⟩

theorem witness_TablesAreLoadedArmedAndSwitched :
    (∃ (c : Cmd) (s : State) (first : Nat) (count : Nat),
      let head := if first = 0 then 64 else 0
      Starts 4 1 c s ∧ c.word 0 % 256 = first ∧ bitsOf (c.word 0) 15 8 = count ∧ c.length ≠ head + 192 * count) ∧
    (∃ (c : Cmd) (s : State) (first : Nat) (count : Nat),
      let head := if first = 0 then 64 else 0
      let inTurn := first = 0 ∨ (s.sch.shadow = .part ∧ s.sch.shadowTable.rows.length = first)
      Starts 4 1 c s ∧ c.word 0 % 256 = first ∧ bitsOf (c.word 0) 15 8 = count ∧ c.length = head + 192 * count ∧ (80 <
      first + count ∨ ¬inTurn)) ∧
    (∃ (c : Cmd) (s : State) (first : Nat) (count : Nat),
      let head := if first = 0 then 64 else 0
      let inTurn := first = 0 ∨ (s.sch.shadow = .part ∧ s.sch.shadowTable.rows.length = first)
      Starts 4 1 c s ∧ c.word 0 % 256 = first ∧ bitsOf (c.word 0) 15 8 = count ∧ c.length = head + 192 * count ∧
      inTurn ∧ first + count < 80) ∧
    (∃ (c : Cmd) (s : State) (first : Nat) (count : Nat),
      let head := if first = 0 then 64 else 0
      let inTurn := first = 0 ∨ (s.sch.shadow = .part ∧ s.sch.shadowTable.rows.length = first)
      let old : Table := if first = 0 then { header := c.data.take 64, id := fieldAt c.data 8 4 } else
        s.sch.shadowTable
      let bytes := if first = 0 then c.data.drop 64 else c.data
      let t : Table :=
        { old with rows := old.rows ++ (List.range count).map fun i => parseRow ((bytes.drop (192 * i)).take 192), rowBytes := old.rowBytes ++ bytes }
      Starts 4 1 c s ∧ c.word 0 % 256 = first ∧ bitsOf (c.word 0) 15 8 = count ∧ c.length = head + 192 * count ∧
      inTurn ∧ first + count = 80 ∧ s.tableCheck t = none) ∧
    (∃ (c : Cmd) (s : State) (first : Nat) (count : Nat) (code : _) (row : _) (i : _),
      let head := if first = 0 then 64 else 0
      let inTurn := first = 0 ∨ (s.sch.shadow = .part ∧ s.sch.shadowTable.rows.length = first)
      let old : Table := if first = 0 then { header := c.data.take 64, id := fieldAt c.data 8 4 } else
        s.sch.shadowTable
      let bytes := if first = 0 then c.data.drop 64 else c.data
      let t : Table :=
        { old with rows := old.rows ++ (List.range count).map fun i => parseRow ((bytes.drop (192 * i)).take 192), rowBytes := old.rowBytes ++ bytes }
      Starts 4 1 c s ∧ c.word 0 % 256 = first ∧ bitsOf (c.word 0) 15 8 = count ∧ c.length = head + 192 * count ∧
      inTurn ∧ first + count = 80 ∧ s.tableCheck t = some (code, row, i)) ∧
    (∃ (c : Cmd) (s : State), Starts 4 2 c s) ∧
    (∃ (c : Cmd) (s : State) (p : Nat) (k : Nat), Starts 4 3 c s ∧ c.word 0 % 16 = p ∧ bitsOf (c.word 0) 11 8 = k ∧
      s.dev.mode ≠ .config) ∧
    (∃ (c : Cmd) (s : State) (p : Nat) (k : Nat), Starts 4 3 c s ∧ c.word 0 % 16 = p ∧ bitsOf (c.word 0) 11 8 = k ∧
      s.dev.mode = .config ∧ (p = 0 ∨ (k ≠ 1 ∧ k ≠ 2 ∧ k ≠ 3 ∧ k ≠ 15))) ∧
    (∃ (c : Cmd) (s : State) (p : Nat) (k : Nat),
      let used := (s.sch.jobs.any fun j => j.partition = p) || (k = 15 && (s.sch.active.gives p || (s.sch.shadow =
        .valid && s.sch.shadowTable.gives p) || (s.sch.switchAt.isSome && s.sch.next.gives p)))
      Starts 4 3 c s ∧ c.word 0 % 16 = p ∧ bitsOf (c.word 0) 11 8 = k ∧ s.dev.mode = .config ∧ p ≠ 0 ∧ (k = 1 ∨ k = 2
      ∨ k = 3 ∨ k = 15) ∧ used = true) ∧
    (∃ (c : Cmd) (s : State) (p : Nat) (k : Nat),
      let used := (s.sch.jobs.any fun j => j.partition = p) || (k = 15 && (s.sch.active.gives p || (s.sch.shadow =
        .valid && s.sch.shadowTable.gives p) || (s.sch.switchAt.isSome && s.sch.next.gives p)))
      Starts 4 3 c s ∧ c.word 0 % 16 = p ∧ bitsOf (c.word 0) 11 8 = k ∧ s.dev.mode = .config ∧ p ≠ 0 ∧ (k = 1 ∨ k = 2
      ∨ k = 3 ∨ k = 15) ∧ used = false) ∧
    (∃ (c : Cmd) (s : State), Starts 4 4 c s ∧ bitAt (c.word 0) 31 = true ∧ (s.ctx (c.word 0 % 256)).isOpen = false) ∧
    (∃ (c : Cmd) (s : State), Starts 4 4 c s ∧ bitAt (c.word 0) 31 = true ∧ (s.ctx (c.word 0 % 256)).isOpen = true) ∧
    (∃ (c : Cmd) (s : State), Starts 4 4 c s ∧ bitAt (c.word 0) 31 = false) ∧
    (∃ (s : State), (s.sch.armed = false ∨ s.tb.link ≤ s.sch.armLink ∨ s.phase (s.tb.link + 5) % 8000 ≠ 0 ∨
      s.sch.switchAt = some (s.tb.link + 5) ∨ s.sch.deferAt = some (s.tb.link + 5))) ∧
    (∃ (s : State), s.sch.armed = true ∧ s.sch.armLink < s.tb.link ∧ s.phase (s.tb.link + 5) % 8000 = 0 ∧ s.up = true
      ∧ s.sch.switchAt ≠ some (s.tb.link + 5) ∧ s.sch.deferAt ≠ some (s.tb.link + 5)) :=
  ⟨let c : Cmd := cm 4 1 [1 + 256] (record 64 [])
   let s : State := at0 (up) c
   let first : Nat := 1
   let count : Nat := 1
   ⟨c, s, first, count, (by unfold Starts; decide +kernel)⟩,
   let c : Cmd := cm 4 1 [1 + 256] (record 192 [])
   let s : State := at0 (up) c
   let first : Nat := 1
   let count : Nat := 1
   ⟨c, s, first, count, (by unfold Starts; decide +kernel)⟩,
   let c : Cmd := cm 4 1 [1 + 256] (record 192 [(0, 1, 0x3C)])
   let s : State := at0 (up.onSch fun x => { x with shadow := .part, shadowTable := { rows := [rowOf 0 {}] } }) c
   let first : Nat := 1
   let count : Nat := 1
   ⟨c, s, first, count, (by unfold Starts; decide +kernel)⟩,
   let c : Cmd := cm 4 1 [79 + 256] (record 192 [(0, 1, 0x3C)])
   let s : State := at0 (lastRow) c
   let first : Nat := 79
   let count : Nat := 1
   ⟨c, s, first, count, ⟨(by unfold Starts; decide +kernel), (by decide +kernel), (by decide +kernel), (by decide +kernel), (by decide +kernel), (by decide +kernel),
      tableCheck_of_equal_rows (n := 80) (x := rowOf 0 {}) rfl (by decide +kernel) (by decide +kernel) (by decide +kernel) (by decide +kernel) (by decide +kernel) (by decide +kernel) (by decide +kernel)
        (fun i => by by_cases h : i < 8 <;> [(interval_cases i <;> rfl); simp [rowOf, List.getD, h]]) rfl⟩⟩,
   let c : Cmd := cm 4 1 [79 + 256] (record 192 [(0, 1, 0x3D)])
   let s : State := at0 lastRow c
   let first : Nat := 79
   let count : Nat := 1
   let code : Nat := 2
   let row : Nat := 0
   let i : Nat := 0
   ⟨c, s, first, count, code, row, i, (by unfold Starts; decide +kernel)⟩,
   let c : Cmd := cm 4 2
   let s : State := at0 up c
   ⟨c, s, (by unfold Starts; decide +kernel)⟩,
   let c : Cmd := cm 4 3 [15 + 0x300]
   let s : State := at0 (inMode .run) c
   let p : Nat := 15
   let k : Nat := 3
   ⟨c, s, p, k, (by unfold Starts; decide +kernel)⟩,
   let c : Cmd := cm 4 3 [0x300]
   let s : State := at0 (up) c
   let p : Nat := 0
   let k : Nat := 3
   ⟨c, s, p, k, (by unfold Starts; decide +kernel)⟩,
   let c : Cmd := cm 4 3 [2 + 0xF00]
   let s : State := at0 (schUp {} []) c
   let p : Nat := 2
   let k : Nat := 15
   ⟨c, s, p, k, (by unfold Starts; decide +kernel)⟩,
   let c : Cmd := cm 4 3 [15 + 0x300]
   let s : State := at0 up c
   let p : Nat := 15
   let k : Nat := 3
   ⟨c, s, p, k, (by unfold Starts; decide +kernel)⟩,
   let c : Cmd := cm 4 4 [0x800000FF]
   let s : State := at0 (up) c
   ⟨c, s, (by unfold Starts; decide +kernel)⟩,
   let c : Cmd := cm 4 4 [0x80000000]
   let s : State := at0 up c
   ⟨c, s, (by unfold Starts; decide +kernel)⟩,
   let c : Cmd := cm 4 4 [0]
   let s : State := at0 up c
   ⟨c, s, (by unfold Starts; decide +kernel)⟩,
   let c : Cmd := cm 4 1 [1 + 256] (record 192 [(0, 1, 0x3C)])
   let s : State := at0 (up.onSch fun x => { x with shadow := .part, shadowTable := { rows := [rowOf 0 {}] } }) c
   ⟨s, (by decide +kernel)⟩,
   let s : State := inLink 7995 (up.onSch fun x =>
      { x with armed := true, shadow := .valid, shadowTable := { rows := List.replicate 80 (rowOf 0 {}) } })
   ⟨s, (by decide +kernel)⟩⟩

theorem witness_TheGuardStopsWhatMoves :
    (∃ (s : State) (j : Job), s.phase s.tb.link % 100 = 95 ∧ s.up = true ∧ (s.sch.jobs.filter fun j => j.partition ≠ 0
      && j.placed.any s.coreMoving) = [j] ∧ s.job j.key = some j ∧ j.state = .running ∧ j.endWith = none ∧ (∀ g ∈
      j.placed, (s.core g).run = .running)) ∧
    (∃ (s : State), s.phase s.tb.link % 100 ≠ 95) ∧
    (∃ (s : State) (g : Nat), s.overstays g = true) ∧
    (∃ (s : State) (g : Nat) (j : Job), s.coreJob g = some j ∧ s.sch.active.holder s.sch.row g = some j.partition) ∧
    (∃ (s : State) (part : Nat) (j : Job) (gs : List Nat), s.up = true ∧ 0 < j.cores ∧ s.sch.jobs.filter (s.candidate
      part) = [j] ∧ s.pickCores ((List.range 64).filter (s.coreFree part)) j = some gs) ∧
    (∃ (s : State) (part : Nat) (j : Job) (gs : List Nat) (g : _), s.up = true ∧ 0 < j.cores ∧ s.sch.jobs.filter
      (s.candidate part) = [j] ∧ s.pickCores ((List.range 64).filter (s.coreFree part)) j = some gs ∧ g ∈ gs) ∧
    (∃ (s : State) (part : Nat) (j : Job) (gs : List Nat) (g : _) (x : _), s.up = true ∧ 0 < j.cores ∧
      s.sch.jobs.filter (s.candidate part) = [j] ∧ s.pickCores ((List.range 64).filter (s.coreFree part)) j = some gs
      ∧ j.usesMask = false ∧ g < 64 ∧ s.coreFree part g = true ∧ g ∉ gs ∧ x ∈ gs) ∧
    (∃ (s : State) (part : Nat) (j : Job), s.up = true ∧ s.sch.jobs.filter (s.candidate part) = [j] ∧ s.pickCores
      ((List.range 64).filter (s.coreFree part)) j = none) ∧
    (∃ (s : State) (part : Nat), s.up = true ∧ s.sch.jobs.filter (s.candidate part) = []) :=
  ⟨let s : State := inLink 1095 tileUp
   let j : Job := job63
   ⟨s, j, (by decide +kernel)⟩,
   let s : State := inLink 1094 tileUp
   ⟨s, (by decide +kernel)⟩,
   let s : State := tileUp.onSch (fun x => { x with row := 1 })
   let g : Nat := 63
   ⟨s, g, (by decide +kernel)⟩,
   let s : State := tileUp
   let g : Nat := 63
   let j : Job := job63
   ⟨s, g, j, (by decide +kernel)⟩,
   let s : State := schUp {} [{ job5 with cores := 2, releasePending := true }]
   let part : Nat := 2
   let j : Job := { job5 with cores := 2, releasePending := true }
   let gs : List Nat := [62, 63]
   ⟨s, part, j, gs, (by decide +kernel)⟩,
   let s : State := schUp {} [{ job5 with cores := 2, releasePending := true }]
   let part : Nat := 2
   let j : Job := { job5 with cores := 2, releasePending := true }
   let gs : List Nat := [62, 63]
   let g : Nat := 63
   ⟨s, part, j, gs, g, (by decide +kernel)⟩,
   let s : State := schUp {} [{ job5 with cores := 1, releasePending := true }]
   let part : Nat := 2
   let j : Job := { job5 with cores := 1, releasePending := true }
   let gs : List Nat := [62]
   let g : Nat := 63
   let x : Nat := 62
   ⟨s, part, j, gs, g, x, (by decide +kernel)⟩,
   let s : State := schUp {} [{ job5 with cores := 3, releasePending := true }]
   let part : Nat := 2
   let j : Job := { job5 with cores := 3, releasePending := true }
   ⟨s, part, j, (by decide +kernel)⟩,
   let s : State := schUp {} [job5]
   let part : Nat := 2
   ⟨s, part, (by decide +kernel)⟩⟩

theorem witness_ReleasesBudgetsAndDeadlines :
    (∃ (s : State) (ctx : Nat) (tag : Nat) (j : Job), s.job { ctx := ctx, tag := tag } = some j ∧ s.periodicDue j
      s.tb.link = true ∧ s.releaseMode j = true ∧ j.releasedAt ≠ some s.tb.link ∧ (j.partition ≠ 0 ∨ s.asz.pairBOk =
      true) ∧ j.released = false ∧ j.endWith = none ∧ (j.state ≠ .idle ∨ (s.inGuard && j.placed.any s.coreMoving) =
      false)) ∧
    (∃ (s : State) (ctx : Nat) (tag : Nat) (j : Job), s.job { ctx := ctx, tag := tag } = some j ∧ s.periodicDue j
      s.tb.link = true ∧ s.releaseMode j = true ∧ j.releasedAt ≠ some s.tb.link ∧ (j.partition ≠ 0 ∨ s.asz.pairBOk =
      true) ∧ j.released = false ∧ j.endWith = none ∧ j.state = .idle ∧ (s.inGuard && j.placed.any s.coreMoving) =
      true ∧ (∀ g ∈ j.placed, s.liveBad g = false)) ∧
    (∃ (s : State) (ctx : Nat) (tag : Nat) (j : Job), s.job { ctx := ctx, tag := tag } = some j ∧ s.periodicDue j
      s.tb.link = true ∧ s.releaseMode j = true ∧ j.releasedAt ≠ some s.tb.link ∧ (j.partition ≠ 0 ∨ s.asz.pairBOk =
      true) ∧ j.released = false ∧ j.endWith.isSome = true) ∧
    (∃ (s : State) (ctx : Nat) (tag : Nat) (j : Job), s.job { ctx := ctx, tag := tag } = some j ∧ s.periodicDue j
      s.tb.link = true ∧ s.releaseMode j = true ∧ j.releasedAt ≠ some s.tb.link ∧ (j.partition ≠ 0 ∨ s.asz.pairBOk =
      true) ∧ j.released = true) ∧
    (∃ (s : State) (ctx : Nat) (tag : Nat) (j : Job), s.job { ctx := ctx, tag := tag } = some j ∧ (s.periodicDue j
      s.tb.link = false ∨ s.releaseMode j = false ∨ j.releasedAt = some s.tb.link ∨ (j.partition = 0 ∧ s.asz.pairBOk =
      false))) ∧
    (∃ (s : State) (ev : Nat), s.eventNow ev 1 = none) ∧
    (∃ (s : State) (ev : Nat) (e : _) (j : _), s.eventNow ev 1 = some e ∧ (s.sch.jobs.filter fun j => j.mode = 2 &&
      j.releaseId = e.releaseId && s.releaseMode j && j.releasedAt ≠ some s.tb.link) = [j]) ∧
    (∃ (s : State) (ctx : Nat) (tag : Nat) (j : Job), s.job { ctx := ctx, tag := tag } = some j ∧ (j.charged <
      j.budget ∨ j.released = false ∨ j.overrun = true ∨ j.endWith.isSome = true)) ∧
    (∃ (s : State) (ctx : Nat) (tag : Nat) (j : Job), s.job { ctx := ctx, tag := tag } = some j ∧ j.budget ≤ j.charged
      ∧ j.released = true ∧ j.overrun = false ∧ j.endWith = none ∧ j.placed ≠ [] ∧ (∀ g ∈ j.placed, (s.core g).run =
      .running)) ∧
    (∃ (s : State) (ctx : Nat) (tag : Nat) (j : Job), s.job { ctx := ctx, tag := tag } = some j ∧ j.budget ≤ j.charged
      ∧ j.released = true ∧ j.overrun = false ∧ j.endWith = none ∧ j.placed = [] ∧ j.mode ≠ 0) ∧
    (∃ (s : State) (ctx : Nat) (tag : Nat) (j : Job), s.job { ctx := ctx, tag := tag } = some j ∧ j.budget ≤ j.charged
      ∧ j.released = true ∧ j.overrun = false ∧ j.endWith = none ∧ j.placed = [] ∧ j.mode = 0) ∧
    (∃ (s : State) (ctx : Nat) (tag : Nat) (j : Job), s.job { ctx := ctx, tag := tag } = some j ∧ j.state = .queued ∧
      j.everRan = false ∧ s.deadlinePassed j.deadline = true) ∧
    (∃ (s : State) (ctx : Nat) (tag : Nat) (j : Job), s.job { ctx := ctx, tag := tag } = some j ∧ (j.state ≠ .queued ∨
      j.everRan = true ∨ s.deadlinePassed j.deadline = false)) :=
  ⟨let s : State := schUp {} [job5]
   let ctx : Nat := 0
   let tag : Nat := 5
   let j : Job := job5
   ⟨s, ctx, tag, j, (by decide +kernel)⟩,
   let s : State := inLink 1095 (withJobs tileUp [{ job63 with state := .idle, offset := 95 }])
   let j : Job := { job63 with state := .idle, offset := 95 }
   let ctx : Nat := 0
   let tag : Nat := 5
   ⟨s, ctx, tag, j, (by decide +kernel)⟩,
   let s : State := schUp {} [{ job5 with endWith := some 9 }]
   let j : Job := { job5 with endWith := some 9 }
   let ctx : Nat := 0
   let tag : Nat := 5
   ⟨s, ctx, tag, j, (by decide +kernel)⟩,
   let s : State := schUp {} [{ job5 with released := true }]
   let ctx : Nat := 0
   let tag : Nat := 5
   let j : Job := { job5 with released := true }
   ⟨s, ctx, tag, j, (by decide +kernel)⟩,
   let s : State := inLink 1001 (schUp {} [job5])
   let ctx : Nat := 0
   let tag : Nat := 5
   let j : Job := job5
   ⟨s, ctx, tag, j, (by decide +kernel)⟩,
   let s : State := up
   let ev : Nat := 0
   ⟨s, ev, (by decide +kernel)⟩,
   let s : State := inLink 1099 (schUp { kind := 1, offset := 99, releaseId := 15 }
      [{ job5 with mode := 2, releaseId := 15 }])
   let ev : Nat := 0
   let e : RowEvent := { kind := 1, offset := 99, releaseId := 15 }
   let j : Job := { job5 with mode := 2, releaseId := 15 }
   ⟨s, ev, e, j, (by decide +kernel)⟩,
   let s : State := schUp {} [job5]
   let ctx : Nat := 0
   let tag : Nat := 5
   let j : Job := job5
   ⟨s, ctx, tag, j, (by decide +kernel)⟩,
   let s : State := placed63 { job5 with charged := 95, released := true } .running (schUp {} [])
   let ctx : Nat := 0
   let tag : Nat := 5
   let j : Job := { job63 with charged := 95, released := true }
   ⟨s, ctx, tag, j, (by decide +kernel)⟩,
   let s : State := schUp {} [{ job5 with charged := 95, released := true }]
   let ctx : Nat := 0
   let tag : Nat := 5
   let j : Job := { job5 with charged := 95, released := true }
   ⟨s, ctx, tag, j, (by decide +kernel)⟩,
   let s : State := schUp {} [{ job5 with mode := 0, charged := 95, released := true }]
   let j : Job := { job5 with mode := 0, charged := 95, released := true }
   let ctx : Nat := 0
   let tag : Nat := 5
   ⟨s, ctx, tag, j, (by decide +kernel)⟩,
   let s : State := schUp {} [{ job5 with deadline := 1 }]
   let j : Job := { job5 with deadline := 1 }
   let ctx : Nat := 0
   let tag : Nat := 5
   ⟨s, ctx, tag, j, ⟨(by decide +kernel), (by decide +kernel), (by decide +kernel), deadlinePassed_of_lt s (by decide +kernel) (by decide +kernel)⟩⟩,
   let s : State := schUp {} [job5]
   let ctx : Nat := 0
   let tag : Nat := 5
   let j : Job := job5
   ⟨s, ctx, tag, j, (by decide +kernel)⟩⟩

theorem witness_SlotsWindowsSavesAndRestores :
    (∃ (s : State) (ev : Nat) (e : RowEvent), s.eventNow ev 2 = some e ∧ s.sch.classes.getD e.partition 7 = 3 ∧ (∀ x ∈
      s.sch.slots, x.1 ≠ e.partition) ∧ (∀ j ∈ s.sch.jobs, ∀ g ∈ j.placed, bitAt (s.maskNow e.partition) g = false)) ∧
    (∃ (s : State) (ev : Nat) (e : RowEvent), s.eventNow ev 2 = some e ∧ s.sch.classes.getD e.partition 7 = 3 ∧
      (s.sch.slots.any fun x => x.1 = e.partition) = true) ∧
    (∃ (s : State) (part : Nat) (x : Nat × Nat × Nat × List Nat), (s.sch.slots.find? fun x => x.1 = part) = some x ∧
      s.tb.link + 1 < x.2.2.1) ∧
    (∃ (s : State) (part : Nat) (x : Nat × Nat × Nat × List Nat), (s.sch.slots.find? fun x => x.1 = part) = some x ∧
      x.2.2.1 ≤ s.tb.link + 1) ∧
    (∃ (s : State) (ev : Nat), s.eventNow ev 3 = none) ∧
    (∃ (s : State) (ev : Nat) (e : _), s.eventNow ev 3 = some e) ∧
    (∃ (s : State), s.sch.bgdUntil ≤ s.tb.link) ∧
    (∃ (s : State), s.tb.link < s.sch.bgdUntil) ∧
    (∃ (s : State) (g : Nat), (s.core g).run ≠ .saving) ∧
    (∃ (s : State) (g : Nat) (j : Job), (s.core g).run = .saving ∧ s.coreJob g = some j ∧ (∃ h ∈ j.placed, h ≠ g ∧
      s.physOf h ≠ s.physOf g ∧ s.physOf h ≠ none ∧ (s.core h).run ≠ .saved)) ∧
    (∃ (s : State) (g : Nat) (j : Job), (s.core g).run = .saving ∧ s.coreJob g = some j ∧ j.placed ≠ [] ∧ (∀ h ∈
      j.placed, h ≠ g → (s.core h).run = .saved) ∧ j.overrun = false ∧ s.spr.lasting = []) ∧
    (∃ (s : State) (g : Nat) (j : Job) (v : Saved), s.coreJob g = some j ∧ (s.core g).run = .restoring ∧
      (j.saves.find? fun o => o.rank = (s.core g).rank) = some v ∧ v.poisoned = false ∧ (v.addr = 0 ∨ s.readPoisoned
      v.addr v.bytes = false) ∧ s.readPoisoned j.codeAddr j.codeBytes = false) ∧
    (∃ (s : State) (g : Nat) (j : Job) (v : Saved), s.coreJob g = some j ∧ (s.core g).run = .restoring ∧
      (j.saves.find? fun o => o.rank = (s.core g).rank) = some v ∧ (v.poisoned = true ∨ (v.addr ≠ 0 ∧ s.readPoisoned
      v.addr v.bytes = true) ∨ s.readPoisoned j.codeAddr j.codeBytes = true)) ∧
    (∃ (s : State) (g : Nat), (s.core g).migrating = none) ∧
    (∃ (s : State) (g : Nat) (b : _), (s.core g).migrating = some b) :=
  ⟨let s : State := inLink 1094 (schUp { kind := 2, offset := 94, partition := 2, length := 1 } [])
   let ev : Nat := 0
   let e : RowEvent := { kind := 2, offset := 94, partition := 2, length := 1 }
   ⟨s, ev, e, (by decide +kernel)⟩,
   let s : State := (inLink 1094 (schUp { kind := 2, offset := 94, partition := 2, length := 1 } [])).onSch fun x =>
      { x with slots := [(2, 990, 1001, [62, 63])] }
   let ev : Nat := 0
   let e : RowEvent := { kind := 2, offset := 94, partition := 2, length := 1 }
   ⟨s, ev, e, (by decide +kernel)⟩,
   let s : State := up.onSch fun x => { x with slots := [(2, 990, 1002, [62, 63])] }
   let part : Nat := 2
   let x : Nat × Nat × Nat × List Nat := (2, 990, 1002, [62, 63])
   ⟨s, part, x, (by decide +kernel)⟩,
   let s : State := (schUp {} []).onSch (fun x => { x with slots := [(2, 990, 1001, [62, 63])] })
   let part : Nat := 2
   let x : Nat × Nat × Nat × List Nat := (2, 990, 1001, [62, 63])
   ⟨s, part, x, (by decide +kernel)⟩,
   let s : State := inLink 1094 (schUp { kind := 2, offset := 94, partition := 2, length := 1 } [])
   let ev : Nat := 0
   ⟨s, ev, (by decide +kernel)⟩,
   let s : State := inLink 1094 (schUp { kind := 3, offset := 94, length := 1 } [])
   let ev : Nat := 0
   let e : RowEvent := { kind := 3, offset := 94, length := 1 }
   ⟨s, ev, e, (by decide +kernel)⟩,
   let s : State := inLink 1094 (schUp { kind := 2, offset := 94, partition := 2, length := 1 } [])
   ⟨s, (by decide +kernel)⟩,
   let s : State := up.onSch fun x => { x with bgdUntil := 1001 }
   ⟨s, (by decide +kernel)⟩,
   let s : State := withJobs (placed63 job5 .restoring (schUp {} []))
      [{ job63 with saves := [{}], saveAreas := [0, 0, 0, 4096] }]
   let g : Nat := 63
   ⟨s, g, (by decide +kernel)⟩,
   let s : State := withJobs (placed63 job5 .saving (schUp {} [])) [{ job63 with placed := [62, 63] }]
   let g : Nat := 63
   let j : Job := { job63 with placed := [62, 63] }
   ⟨s, g, j, (by decide +kernel)⟩,
   let s : State := withJobs (placed63 job5 .saving (schUp {} [])) [job63]
   let g : Nat := 63
   let j : Job := job63
   ⟨s, g, j, (by decide +kernel)⟩,
   let s : State := withJobs (placed63 job5 .restoring (schUp {} []))
      [{ job63 with saves := [{}], saveAreas := [0, 0, 0, 4096] }]
   let g : Nat := 63
   let j : Job := { job63 with saves := [{}], saveAreas := [0, 0, 0, 4096] }
   let v : Saved := {}
   ⟨s, g, j, v, (by decide +kernel)⟩,
   let s : State := withJobs (placed63 job5 .restoring (schUp {} [])) [{ job63 with saves := [{ poisoned := true }] }]
   let g : Nat := 63
   let j : Job := { job63 with saves := [{ poisoned := true }] }
   let v : Saved := { poisoned := true }
   ⟨s, g, j, v, (by decide +kernel)⟩,
   let s : State := withJobs (placed63 job5 .saving (schUp {} [])) [{ job63 with placed := [62, 63] }]
   let g : Nat := 63
   ⟨s, g, (by decide +kernel)⟩,
   let s : State := tileUp.onCore 63 fun k => { k with migrating := some 65 }
   let g : Nat := 63
   let b := 65
   ⟨s, g, b, (by decide +kernel)⟩⟩

theorem witness_ScalarInstructionsWriteTheirRegister :
    (∃ (s : State) (g : Nat) (flips : List Nat),
      let u := s.flipParity (flips.filter isSpad)
      s.ready g = true ∧ u.fetchBad g = true) ∧
    (∃ (s : State) (g : Nat) (flips : List Nat),
      let u := s.flipParity (flips.filter isSpad)
      s.ready g = true ∧ u.fetchBad g = false) ∧
    (∃ (s : State) (g : Nat) (flips : List Nat) (size : _) (a : _) (off : _) (o : _),
      let u := s.flipParity (flips.filter isSpad)
      let k := s.core g
      s.ready g = true ∧ u.fetchBad g = false ∧ scalarAddr (k.reg.get a) off size = some o ∧ u.readPoisoned (spadOf g
      + o) size = false) ∧
    (∃ (s : State) (g : Nat) (flips : List Nat) (size : _) (a : _) (off : _) (o : _),
      let u := s.flipParity (flips.filter isSpad)
      let k := s.core g
      s.ready g = true ∧ u.fetchBad g = false ∧ scalarAddr (k.reg.get a) off size = some o ∧ u.readPoisoned (spadOf g
      + o) size = true) ∧
    (∃ (s : State) (g : Nat) (flips : List Nat) (size : _) (a : _) (off : _) (o : _),
      let u := s.flipParity (flips.filter isSpad)
      let k := s.core g
      s.ready g = true ∧ u.fetchBad g = false ∧ scalarAddr (k.reg.get a) off size = some o ∧ s.meetsCode (spadOf g +
      o) size = false) ∧
    (∃ (s : State) (g : Nat) (flips : List Nat) (size : _) (a : _) (off : _),
      let u := s.flipParity (flips.filter isSpad)
      let k := s.core g
      s.ready g = true ∧ u.fetchBad g = false ∧ scalarAddr (k.reg.get a) off size = none) ∧
    (∃ (s : State) (g : Nat) (flips : List Nat) (size : _) (a : _) (off : _),
      let u := s.flipParity (flips.filter isSpad)
      let k := s.core g
      s.ready g = true ∧ u.fetchBad g = false ∧ (scalarAddr (k.reg.get a) off size = none ∨ ∃ o, scalarAddr (k.reg.get
      a) off size = some o ∧ s.meetsCode (spadOf g + o) size = true)) ∧
    (∃ (s : State) (g : Nat), s.ready g = true ∧ s.fetchBad g = false) ∧
    (∃ (s : State) (g : Nat), s.ready g = true ∧ s.fetchBad g = true) ∧
    (∃ (s : State) (g : Nat), s.ready g = false) :=
  ⟨let s : State := tileUp
   let g : Nat := 63
   let flips : List Nat := [spadOf 63]
   ⟨s, g, flips, ⟨(by decide +kernel), fetchBad_of (b := spadOf 63) (by decide +kernel) (by decide +kernel)⟩⟩,
   let s : State := tileUp
   let g : Nat := 63
   let flips : List Nat := []
   ⟨s, g, flips, (by decide +kernel)⟩,
   let s : State := tileUp
   let g : Nat := 63
   let flips : List Nat := []
   let size : Nat := 8
   let a : Nat := 0
   let off : Int := 0x5FFFF8
   let o : Nat := 0x5FFFF8
   ⟨s, g, flips, size, a, off, o, (by decide +kernel)⟩,
   let s : State := (tileUp.onMem fun m => { m with badParity := [spadOf 63] }).onCore 63 fun k =>
      { k with reg := { k.reg with pc := 16 } }
   let g : Nat := 63
   let flips : List Nat := []
   let size := 8
   let a := 0
   let off := 0
   let o := 0
   ⟨s, g, flips, size, a, off, o, ⟨(by decide +kernel), fetchBad_below (b := spadOf 63) (by decide +kernel) (by decide +kernel) (by decide +kernel), (by decide +kernel)⟩⟩,
   let s : State := tileUp
   let g : Nat := 63
   let flips : List Nat := []
   let size : Nat := 8
   let a : Nat := 0
   let off : Int := 0x5FFFF8
   let o : Nat := 0x5FFFF8
   ⟨s, g, flips, size, a, off, o, (by decide +kernel)⟩,
   let off := 0x5FFFF9
   let s : State := tileUp
   let g : Nat := 63
   let flips : List Nat := []
   let size := 8
   let a := 0
   ⟨s, g, flips, size, a, off, (by decide +kernel)⟩,
   let off := 0x5FFFF9
   let s : State := tileUp
   let g : Nat := 63
   let flips : List Nat := []
   let size := 8
   let a := 0
   ⟨s, g, flips, size, a, off, (by decide +kernel)⟩,
   let s : State := tileUp
   let g : Nat := 63
   ⟨s, g, (by decide +kernel)⟩,
   let s : State := tileUp.onMem fun m => { m with badParity := [spadOf 63] }
   let g : Nat := 63
   ⟨s, g, ⟨(by decide +kernel), fetchBad_of (b := spadOf 63) (by decide +kernel) (by decide +kernel)⟩⟩,
   let s : State := up
   let g : Nat := 63
   ⟨s, g, (by decide +kernel)⟩⟩

theorem witness_TileInstructionsSetTheCoreState :
    (∃ (s : State) (g : Nat), s.ready g = true ∧ s.fetchBad g = false) ∧
    (∃ (s : State) (g : Nat) (e : _) (b : _) (l : _) (j : _),
      let k := s.core g
      let v := k.reg.live.set (e % 16) (if k.reg.get l = 0 then (0, 0) else (k.reg.get b % 2 ^ 32, k.reg.get l))
      s.ready g = true ∧ s.fetchBad g = false ∧ s.coreJob g = some j ∧ 4 * (v.map (·.2)).sum ≤ j.maxLive) ∧
    (∃ (s : State) (g : Nat) (e : _) (b : _) (l : _) (j : _),
      let k := s.core g
      let v := k.reg.live.set (e % 16) (if k.reg.get l = 0 then (0, 0) else (k.reg.get b % 2 ^ 32, k.reg.get l))
      s.ready g = true ∧ s.fetchBad g = false ∧ s.coreJob g = some j ∧ j.maxLive < 4 * (v.map (·.2)).sum) ∧
    (∃ (s : State) (g : Nat) (a : _),
      let k := s.core g
      s.ready g = true ∧ s.fetchBad g = false ∧ inOwn (k.reg.get a) 16 = false) ∧
    (∃ (s : State) (g : Nat) (a : _),
      let k := s.core g
      let w := spadOf g + 4 * k.reg.get a
      s.ready g = true ∧ s.fetchBad g = false ∧ inOwn (k.reg.get a) 16 = true ∧ s.readPoisoned w 16 = true) ∧
    (∃ (s : State) (g : Nat) (a : _),
      let k := s.core g
      let w := spadOf g + 4 * k.reg.get a
      s.ready g = true ∧ s.fetchBad g = false ∧ inOwn (k.reg.get a) 16 = true ∧ s.readPoisoned w 16 = false) ∧
    (∃ (s : State) (g : Nat) (i : Instr), s.ready g = true ∧ s.fetchBad g = true ∧ ((∃ m, i = .dwait g m) ∨ (∃ m, i =
      .uwait g m) ∨ (∃ a b, i = .waits g a b) ∨ (∃ a b, i = .sig g a b) ∨ (∃ e b l, i = .live g e b l) ∨ (∃ a b, i =
      .gridld g a b))) ∧
    (∃ (s : State) (g : Nat) (i : Instr), s.ready g = false ∧ ((∃ m, i = .dwait g m) ∨ (∃ m, i = .uwait g m) ∨ (∃ a b,
      i = .waits g a b) ∨ (∃ a b, i = .sig g a b) ∨ (∃ e b l, i = .live g e b l) ∨ (∃ a b, i = .gridld g a b))) :=
  ⟨let s : State := tileUp
   let g : Nat := 63
   ⟨s, g, (by decide +kernel)⟩,
   let s : State := tileUp.onCore 63 (fun k =>
      { k with reg := { k.reg with g := [0, 0, 16] ++ List.replicate 29 0 } })
   let g : Nat := 63
   let e := 15
   let b := 1
   let l := 2
   let j := job63
   ⟨s, g, e, b, l, j, (by decide +kernel)⟩,
   let s : State := tileUp.onCore 63 (fun k =>
      { k with reg := { k.reg with g := [0, 0, 17] ++ List.replicate 29 0 } })
   let g : Nat := 63
   let e := 15
   let b := 1
   let l := 2
   let j := job63
   ⟨s, g, e, b, l, j, (by decide +kernel)⟩,
   let s : State := tileUp.onCore 63 (fun k =>
      { k with reg := { k.reg with g := [0, 0x180000 - 3] ++ List.replicate 30 0 } })
   let g : Nat := 63
   let a : Nat := 1
   let k := s.core g
   ⟨s, g, a, (by decide +kernel)⟩,
   let s : State := (tileUp.onMem fun m => { m with badParity := [spadOf 63] }).onCore 63 fun k =>
      { k with reg := { k.reg with pc := 16 } }
   let g : Nat := 63
   let a := 0
   ⟨s, g, a, ⟨(by decide +kernel), fetchBad_below (b := spadOf 63) (by decide +kernel) (by decide +kernel) (by decide +kernel), (by decide +kernel)⟩⟩,
   let s : State := tileUp
   let g : Nat := 63
   let a : Nat := 0
   ⟨s, g, a, (by decide +kernel)⟩,
   let s : State := tileUp.onMem fun m => { m with badParity := [spadOf 63] }
   let g : Nat := 63
   let i : Instr := .dwait 63 0
   ⟨s, g, i, ⟨(by decide +kernel), fetchBad_of (b := spadOf 63) (by decide +kernel) (by decide +kernel), .inl ⟨0, rfl⟩⟩⟩,
   let s : State := up
   let g : Nat := 63
   let i : Instr := .dwait 63 0
   ⟨s, g, i, ⟨(by decide +kernel), .inl ⟨0, rfl⟩⟩⟩⟩

theorem witness_UnitsTakeTheirDescriptors :
    (∃ (s : State) (g : Nat) (flips : List Nat) (gd : _),
      let u := s.flipParity (flips.filter isSpad)
      let k := s.core g
      s.ready g = true ∧ u.fetchBad g = false ∧ inOwn (k.reg.get gd) 32 = false) ∧
    (∃ (s : State) (g : Nat) (flips : List Nat) (gd : _) (ga : _) (gw : _) (go : _) (m : _) (n : _),
      let u := s.flipParity (flips.filter isSpad)
      let k := s.core g
      let a := spadOf g + 4 * k.reg.get gd
      let op : MatrixOp :=
        { desc := u.tileBytes g a 32, act := k.reg.get ga, wt := k.reg.get gw, out := k.reg.get go, m := m, n := n, grids := k.reg.grids }
      let bad := mxFormatBad op.desc m n || ((parseMx op.desc).cont && k.heldShape ≠ some (m, n))
      s.ready g = true ∧ u.fetchBad g = false ∧ inOwn (k.reg.get gd) 32 = true ∧ u.readPoisoned a 32 = false ∧ bad =
      true) ∧
    (∃ (s : State) (g : Nat) (flips : List Nat) (gd : _) (ga : _) (gw : _) (go : _) (m : _) (n : _),
      let u := s.flipParity (flips.filter isSpad)
      let k := s.core g
      let a := spadOf g + 4 * k.reg.get gd
      let op : MatrixOp :=
        { desc := u.tileBytes g a 32, act := k.reg.get ga, wt := k.reg.get gw, out := k.reg.get go, m := m, n := n, grids := k.reg.grids }
      let bad := mxFormatBad op.desc m n || ((parseMx op.desc).cont && k.heldShape ≠ some (m, n))
      s.ready g = true ∧ u.fetchBad g = false ∧ inOwn (k.reg.get gd) 32 = true ∧ u.readPoisoned a 32 = false ∧ bad =
      false ∧ u.rangesOk g op.reads [op.writes] = false) ∧
    (∃ (s : State) (g : Nat) (flips : List Nat) (gd : _) (ga : _) (gw : _) (go : _) (m : _) (n : _),
      let u := s.flipParity (flips.filter isSpad)
      let k := s.core g
      let a := spadOf g + 4 * k.reg.get gd
      let op : MatrixOp :=
        { desc := u.tileBytes g a 32, act := k.reg.get ga, wt := k.reg.get gw, out := k.reg.get go, m := m, n := n, grids := k.reg.grids }
      let bad := mxFormatBad op.desc m n || ((parseMx op.desc).cont && k.heldShape ≠ some (m, n))
      s.ready g = true ∧ u.fetchBad g = false ∧ inOwn (k.reg.get gd) 32 = true ∧ u.readPoisoned a 32 = false ∧ bad =
      false ∧ u.rangesOk g op.reads [op.writes] = true) ∧
    (∃ (s : State) (g : Nat) (flips : List Nat) (gd : _),
      let u := s.flipParity (flips.filter isSpad)
      let k := s.core g
      let a := spadOf g + 4 * k.reg.get gd
      let d := u.tileBytes g a 32
      s.ready g = true ∧ u.fetchBad g = false ∧ inOwn (k.reg.get gd) 32 = true ∧ u.readPoisoned a 32 = false ∧
      vFormatBad d = true) ∧
    (∃ (s : State) (g : Nat) (flips : List Nat) (gd : _),
      let u := s.flipParity (flips.filter isSpad)
      let k := s.core g
      let a := spadOf g + 4 * k.reg.get gd
      let d := u.tileBytes g a 32
      let v := parseV d
      let able := v.op ≠ 0x11 ∨ maskCapable ((s.cores.map.getD g none).getD 0) = true
      s.ready g = true ∧ u.fetchBad g = false ∧ inOwn (k.reg.get gd) 32 = true ∧ u.readPoisoned a 32 = false ∧
      vFormatBad d = false ∧ ¬able) ∧
    (∃ (s : State) (g : Nat) (flips : List Nat) (gd : _),
      let u := s.flipParity (flips.filter isSpad)
      let k := s.core g
      let a := spadOf g + 4 * k.reg.get gd
      let d := u.tileBytes g a 32
      let v := parseV d
      let w := u.afterTileRead g a 32
      let b := spadOf g + 4 * v.param
      let p := if v.hasParam = true then w.tileBytes g b v.paramBytes else []
      let able := v.op ≠ 0x11 ∨ maskCapable ((s.cores.map.getD g none).getD 0) = true
      s.ready g = true ∧ u.fetchBad g = false ∧ inOwn (k.reg.get gd) 32 = true ∧ u.readPoisoned a 32 = false ∧
      vFormatBad d = false ∧ able ∧ (v.hasParam = true → inOwn v.param v.paramBytes = true ∧ u.readPoisoned b
      v.paramBytes = false) ∧ (v.op = 0x10 → argBlock p = 16 ∨ argBlock p = 32) ∧ u.rangesOk g (v.reads p) (v.writes
      p) = true) ∧
    (∃ (s : State) (g : Nat) (flips : List Nat) (gd : _),
      let u := s.flipParity (flips.filter isSpad)
      let k := s.core g
      s.ready g = true ∧ u.fetchBad g = false ∧ inOwn (k.reg.get gd) 64 = false) ∧
    (∃ (s : State) (g : Nat) (flips : List Nat) (gd : _),
      let u := s.flipParity (flips.filter isSpad)
      let k := s.core g
      let a := spadOf g + 4 * k.reg.get gd
      let d := u.tileBytes g a 64
      s.ready g = true ∧ u.fetchBad g = false ∧ inOwn (k.reg.get gd) 64 = true ∧ u.readPoisoned a 64 = false ∧
      dmaFieldsBad d = true) ∧
    (∃ (s : State) (g : Nat) (flips : List Nat) (gd : _),
      let u := s.flipParity (flips.filter isSpad)
      let k := s.core g
      let a := spadOf g + 4 * k.reg.get gd
      let d := u.tileBytes g a 64
      let x := parseDma d
      let w := u.afterTileRead g a 64
      let cause := w.dmaCause g x (if (x.gather && x.xlate) = true then [] else x.srcs (w.plainBases g x))
      s.ready g = true ∧ u.fetchBad g = false ∧ inOwn (k.reg.get gd) 64 = true ∧ u.readPoisoned a 64 = false ∧
      dmaFieldsBad d = false ∧ ((x.indexRange g).any fun r => u.readPoisoned r.1 r.2) = false ∧ cause ≠ 0) ∧
    (∃ (s : State) (g : Nat) (flips : List Nat) (gd : _),
      let u := s.flipParity (flips.filter isSpad)
      let k := s.core g
      let a := spadOf g + 4 * k.reg.get gd
      let d := u.tileBytes g a 64
      let x := parseDma d
      let w := u.afterTileRead g a 64
      let cause := w.dmaCause g x (if (x.gather && x.xlate) = true then [] else x.srcs (w.plainBases g x))
      s.ready g = true ∧ u.fetchBad g = false ∧ inOwn (k.reg.get gd) 64 = true ∧ u.readPoisoned a 64 = false ∧
      dmaFieldsBad d = false ∧ ((x.indexRange g).any fun r => u.readPoisoned r.1 r.2) = false ∧ cause = 0) ∧
    (∃ (s : State) (g : Nat),
      let k := s.core g
      (s.core g).run = .running ∧ k.matrix = []) ∧
    (∃ (s : State) (g : Nat) (flips : List Nat) (o : _) (rest : _),
      let u := s.flipParity (flips.filter isSpad)
      let k := s.core g
      (s.core g).run = .running ∧ k.matrix = o :: rest ∧ ((ownRanges g o.reads).any fun r => u.readPoisoned r.1 r.2) =
      true) ∧
    (∃ (s : State) (g : Nat) (flips : List Nat) (o : _) (rest : _),
      let u := s.flipParity (flips.filter isSpad)
      let k := s.core g
      (s.core g).run = .running ∧ k.matrix = o :: rest ∧ ((ownRanges g o.reads).any fun r => u.readPoisoned r.1 r.2) =
      false ∧ (parseMx o.desc).hold = false) ∧
    (∃ (s : State) (g : Nat) (flips : List Nat) (o : _) (rest : _),
      let u := s.flipParity (flips.filter isSpad)
      let k := s.core g
      (s.core g).run = .running ∧ k.matrix = o :: rest ∧ ((ownRanges g o.reads).any fun r => u.readPoisoned r.1 r.2) =
      false ∧ (parseMx o.desc).hold = true) ∧
    (∃ (s : State) (g : Nat),
      let k := s.core g
      (s.core g).run = .running ∧ k.vector = []) ∧
    (∃ (s : State) (g : Nat) (flips : List Nat) (o : _) (rest : _),
      let u := s.flipParity (flips.filter isSpad)
      let k := s.core g
      let rs := ownRanges g ((parseV o.desc).reads o.param)
      (s.core g).run = .running ∧ k.vector = o :: rest ∧ (rs.any fun r => u.readPoisoned r.1 r.2) = true) ∧
    (∃ (s : State) (g : Nat) (flips : List Nat) (o : _) (rest : _),
      let u := s.flipParity (flips.filter isSpad)
      let k := s.core g
      let rs := ownRanges g ((parseV o.desc).reads o.param)
      (s.core g).run = .running ∧ k.vector = o :: rest ∧ (rs.any fun r => u.readPoisoned r.1 r.2) = false) ∧
    (∃ (s : State) (g : Nat) (ch : _),
      let k := s.core g
      (s.core g).run = .running ∧ k.dmaQueue ch = []) ∧
    (∃ (s : State) (g : Nat) (flips : List Nat) (ch : _) (o : _) (rest : _),
      let u := s.flipParity (flips.filter isSpad)
      let k := s.core g
      let x := parseDma o.desc
      (s.core g).run = .running ∧ k.dmaQueue ch = o :: rest ∧ x.cnt1 = 1 ∧ x.cnt2 = 1 ∧ x.gather = false ∧ u.dmaCause
      g x [(x.src : Int)] = 0 ∧ isPeer x.src = false ∧ isPeer x.dst = false ∧ u.readPoisoned x.src x.len = false ∧
      u.writePoisoned x.dst x.len = false) ∧
    (∃ (s : State) (g : Nat) (flips : List Nat) (ch : _) (o : _) (rest : _),
      let u := s.flipParity (flips.filter isSpad)
      let k := s.core g
      let x := parseDma o.desc
      (s.core g).run = .running ∧ k.dmaQueue ch = o :: rest ∧ x.cnt1 = 1 ∧ x.cnt2 = 1 ∧ x.gather = false ∧ u.dmaCause
      g x [(x.src : Int)] = 0 ∧ isPeer x.src = false ∧ isPeer x.dst = false ∧ u.readPoisoned x.src x.len = false ∧
      u.writePoisoned x.dst x.len = false ∧ overlaps x.src x.len x.dst x.len = false ∧ o.seen = some [u.bytesAt x.src
      x.len] ∧ u.early g ch x.src x.len = false) ∧
    (∃ (s : State) (g : Nat), (s.core g).wait = .none) :=
  ⟨let s : State := (tileUp.onCore 63 fun k =>
      { k with reg := { k.reg with g := [0, 0x180000] ++ List.replicate 30 0 } })
   let g : Nat := 63
   let flips : List Nat := []
   let gd := 1
   ⟨s, g, flips, gd, (by decide +kernel)⟩,
   let s : State := (tileUp.write (spadOf 63) mxBytes).onCore 63 fun k =>
      { k with reg := { k.reg with g := [0, 64, 128, 192] ++ List.replicate 28 0 } }
   let m := 0
   let n := 0
   let g : Nat := 63
   let flips : List Nat := []
   let gd := 0
   let ga := 1
   let gw := 2
   let go := 3
   ⟨s, g, flips, gd, ga, gw, go, m, n, (by decide +kernel)⟩,
   let s : State := (tileUp.write (spadOf 63) mxBytes).onCore 63 fun k =>
      { k with reg := { k.reg with g := [0, 64, 128, 0x180000] ++ List.replicate 28 0 } }
   let m := 1
   let n := 1
   let g : Nat := 63
   let flips : List Nat := []
   let gd := 0
   let ga := 1
   let gw := 2
   let go := 3
   ⟨s, g, flips, gd, ga, gw, go, m, n, (by decide +kernel)⟩,
   let s : State := (tileUp.write (spadOf 63) mxBytes).onCore 63 (fun k =>
      { k with reg := { k.reg with g := [0, 64, 128, 192] ++ List.replicate 28 0 } })
   let g : Nat := 63
   let flips : List Nat := []
   let gd : Nat := 0
   let ga : Nat := 1
   let gw : Nat := 2
   let go : Nat := 3
   let m : Nat := 64
   let n : Nat := 64
   ⟨s, g, flips, gd, ga, gw, go, m, n, (by decide +kernel)⟩,
   let s : State := (tileUp.write (spadOf 63) mxBytes).onCore 63 (fun k =>
      { k with reg := { k.reg with g := [0, 64, 128, 192] ++ List.replicate 28 0 } })
   let g : Nat := 63
   let flips : List Nat := []
   let gd : Nat := 0
   ⟨s, g, flips, gd, (by decide +kernel)⟩,
   let s : State := (tileUp.write (spadOf 63) (record 32 [(0, 1, 0x11), (1, 1, 8), (2, 1, 8), (4, 4, 4096), (8, 4,
      64), (12, 4, 8192), (16, 4, 65536)])).onCore 63 id
   let g : Nat := 63
   let flips : List Nat := []
   let gd := 0
   ⟨s, g, flips, gd, (by decide +kernel)⟩,
   let s : State := tileUp.write (spadOf 63) vecBytes
   let g : Nat := 63
   let flips : List Nat := []
   let gd : Nat := 0
   ⟨s, g, flips, gd, (by decide +kernel)⟩,
   let s : State := (tileUp.onCore 63 fun k =>
      { k with reg := { k.reg with g := [0, 0x180000] ++ List.replicate 30 0 } })
   let g : Nat := 63
   let flips : List Nat := []
   let gd := 1
   ⟨s, g, flips, gd, (by decide +kernel)⟩,
   let s : State := (tileUp.write (spadOf 63) mxBytes).onCore 63 (fun k =>
      { k with reg := { k.reg with g := [0, 64, 128, 192] ++ List.replicate 28 0 } })
   let g : Nat := 63
   let flips : List Nat := []
   let gd : Nat := 0
   ⟨s, g, flips, gd, (by decide +kernel)⟩,
   let s : State := tileUp.write (spadOf 63) (record 64 [(0, 8, hubBase), (8, 8, spadOf 62), (16, 4, 8), (20, 2, 1),
      (22, 2, 1)])
   let g : Nat := 63
   let flips : List Nat := []
   let gd := 0
   ⟨s, g, flips, gd, (by decide +kernel)⟩,
   let s : State := tileUp.write (spadOf 63) dmaBytes
   let g : Nat := 63
   let flips : List Nat := []
   let gd : Nat := 0
   ⟨s, g, flips, gd, (by decide +kernel)⟩,
   let s : State := (tileUp.write (spadOf 63) mxBytes).onCore 63 (fun k =>
      { k with reg := { k.reg with g := [0, 64, 128, 192] ++ List.replicate 28 0 } })
   let g : Nat := 63
   ⟨s, g, (by decide +kernel)⟩,
   let s : State := tileUp.onCore 63 fun k => { k with matrix := [mxTile] }
   let g : Nat := 63
   let flips : List Nat := [spadOf 63 + 256]
   let o := mxTile
   let rest := []
   ⟨s, g, flips, o, rest, (by decide +kernel)⟩,
   let s : State := tileUp.onCore 63 (fun k => { k with matrix := [mxTile] })
   let g : Nat := 63
   let flips : List Nat := []
   let o : MatrixOp := mxTile
   let rest : List MatrixOp := []
   ⟨s, g, flips, o, rest, (by decide +kernel)⟩,
   let s : State := tileUp.onCore 63 fun k =>
      { k with matrix := [{ mxTile with desc := record 32 [(0, 1, 2), (1, 1, 3), (2, 1, 3), (3, 1, 3), (5, 1, 16), (12, 4, 16)] }] }
   let g : Nat := 63
   let flips : List Nat := []
   let o := { mxTile with desc := record 32 [(0, 1, 2), (1, 1, 3), (2, 1, 3), (3, 1, 3), (5, 1, 16), (12, 4, 16)] }
   let rest := []
   ⟨s, g, flips, o, rest, (by decide +kernel)⟩,
   let s : State := (tileUp.write (spadOf 63) mxBytes).onCore 63 (fun k =>
      { k with reg := { k.reg with g := [0, 64, 128, 192] ++ List.replicate 28 0 } })
   let g : Nat := 63
   ⟨s, g, (by decide +kernel)⟩,
   let s : State := tileUp.onCore 63 fun k => { k with vector := [{ desc := vecBytes }] }
   let g : Nat := 63
   let flips : List Nat := [spadOf 63 + 256]
   let o := { desc := vecBytes }
   let rest := []
   ⟨s, g, flips, o, rest, (by decide +kernel)⟩,
   let s : State := tileUp.onCore 63 fun k => { k with vector := [{ desc := vecBytes }] }
   let g : Nat := 63
   let flips : List Nat := []
   let o := { desc := vecBytes }
   let rest := []
   ⟨s, g, flips, o, rest, (by decide +kernel)⟩,
   let s : State := tileUp
   let g : Nat := 63
   let ch := 3
   ⟨s, g, ch, (by decide +kernel)⟩,
   let s : State := (tileUp.write hubBase [1, 2, 3]).onCore 63 fun k =>
      { k with dma := [[], [], [], [{ desc := dmaBytes }]] }
   let g : Nat := 63
   let flips : List Nat := []
   let ch := 3
   let o := { desc := dmaBytes }
   let rest := []
   ⟨s, g, flips, ch, o, rest, (by decide +kernel)⟩,
   let s : State := (tileUp.write hubBase [1, 2, 3]).onCore 63 fun k =>
      { k with dma := [[], [], [], [{ desc := dmaBytes, seen := some [(tileUp.write hubBase [1, 2, 3]).bytesAt hubBase 8] }]] }
   let g : Nat := 63
   let flips : List Nat := []
   let ch := 3
   let o := { desc := dmaBytes, seen := some [(tileUp.write hubBase [1, 2, 3]).bytesAt hubBase 8] }
   let rest := []
   ⟨s, g, flips, ch, o, rest, (by decide +kernel)⟩,
   let s : State := (tileUp.write (spadOf 63) mxBytes).onCore 63 (fun k =>
      { k with reg := { k.reg with g := [0, 64, 128, 192] ++ List.replicate 28 0 } })
   let g : Nat := 63
   ⟨s, g, (by decide +kernel)⟩⟩

theorem witness_MarksEndTilesAndJobs :
    (∃ (s : State) (g : Nat) (flips : List Nat) (j : Job),
      let k := s.core g
      s.ready g = true ∧ s.coreJob g = some j ∧ s.spr.lasting = [] ∧ (s.flipParity (flips.filter isSpad)).fetchBad g =
      false ∧ s.fetchBad g = false ∧ k.allIdle = true ∧ k.readers = [] ∧ k.sigs = [] ∧ k.migrating = none ∧ k.stopReq
      = false ∧ j.endWith = none) ∧
    (∃ (s : State) (g : Nat) (flips : List Nat) (j : Job),
      let k := s.core g
      s.ready g = true ∧ s.coreJob g = some j ∧ s.spr.lasting = [] ∧ (s.flipParity (flips.filter isSpad)).fetchBad g =
      false ∧ s.fetchBad g = false ∧ k.allIdle = true ∧ k.readers = [] ∧ k.sigs = [] ∧ k.migrating = none ∧ k.stopReq
      = false ∧ j.endWith = none ∧ j.state = .running ∧ j.halted.length + 1 < j.placed.length) ∧
    (∃ (s : State) (g : Nat) (flips : List Nat) (j : Job),
      let k := s.core g
      s.ready g = true ∧ s.coreJob g = some j ∧ s.spr.lasting = [] ∧ (s.flipParity (flips.filter isSpad)).fetchBad g =
      false ∧ s.fetchBad g = false ∧ k.allIdle = true ∧ k.readers = [] ∧ k.sigs = [] ∧ k.migrating = none ∧ k.stopReq
      = false ∧ j.endWith = none ∧ j.state = .running ∧ j.placed.length = j.halted.length + 1 ∧ j.mode ≠ 0) ∧
    (∃ (s : State) (g : Nat) (flips : List Nat) (j : Job),
      let k := s.core g
      s.ready g = true ∧ s.coreJob g = some j ∧ s.spr.lasting = [] ∧ (s.flipParity (flips.filter isSpad)).fetchBad g =
      false ∧ s.fetchBad g = false ∧ k.allIdle = true ∧ k.readers = [] ∧ k.sigs = [] ∧ k.migrating = none ∧ k.stopReq
      = false ∧ j.endWith = none ∧ j.state = .running ∧ j.placed = [g] ∧ j.halted = [] ∧ j.mode = 0) ∧
    (∃ (s : State) (g : Nat) (flips : List Nat),
      let u := s.flipParity (flips.filter isSpad)
      s.ready g = true ∧ u.fetchBad g = true) ∧
    (∃ (s : State) (g : Nat), s.ready g = true ∧ s.fetchBad g = true) ∧
    (∃ (s : State) (g : Nat) (flips : List Nat),
      let u := s.flipParity (flips.filter isSpad)
      s.ready g = true ∧ (s.core g).allIdle = false ∧ u.fetchBad g = false) ∧
    (∃ (s : State) (g : Nat), s.ready g = true ∧ (s.core g).allIdle = false ∧ s.fetchBad g = false) ∧
    (∃ (s : State) (g : Nat), (s.core g).run = .running ∧ (s.core g).tileStart + 262144 ≤ s.tsNow) ∧
    (∃ (s : State) (g : Nat), s.tsNow < (s.core g).tileStart + 262144) ∧
    (∃ (s : State) (g : Nat), (s.core g).run ≠ .running) ∧
    (∃ (s : State) (die : Nat) (u : Nat), ((s.phys (physIndex die u)).run = .selftest ∨ (s.spareCores die).contains u
      = true ∨ s.testsP0 die u = true)) ∧
    (∃ (s : State) (die : Nat) (u : Nat), (s.phys (physIndex die u)).run ≠ .selftest ∧ (s.spareCores die).contains u =
      false ∧ s.testsP0 die u = false) :=
  ⟨let s : State := tileUp
   let g : Nat := 63
   let flips : List Nat := []
   let j : Job := job63
   ⟨s, g, flips, j, (by decide +kernel)⟩,
   let s : State := withJobs tileUp [{ job63 with placed := [63, 62] }]
   let g : Nat := 63
   let flips : List Nat := []
   let j : Job := { job63 with placed := [63, 62] }
   ⟨s, g, flips, j, (by decide +kernel)⟩,
   let s : State := tileUp
   let g : Nat := 63
   let flips : List Nat := []
   let j : Job := job63
   ⟨s, g, flips, j, (by decide +kernel)⟩,
   let s : State := withJobs tileUp [{ job63 with mode := 0 }]
   let g : Nat := 63
   let flips : List Nat := []
   let j : Job := { job63 with mode := 0 }
   ⟨s, g, flips, j, (by decide +kernel)⟩,
   let s : State := tileUp
   let g : Nat := 63
   let flips : List Nat := [spadOf 63]
   ⟨s, g, flips, ⟨(by decide +kernel), fetchBad_of (b := spadOf 63) (by decide +kernel) (by decide +kernel)⟩⟩,
   let s : State := tileUp.onMem fun m => { m with badParity := [spadOf 63] }
   let g : Nat := 63
   ⟨s, g, ⟨(by decide +kernel), fetchBad_of (b := spadOf 63) (by decide +kernel) (by decide +kernel)⟩⟩,
   let s : State := tileUp.onCore 63 fun k => { k with vector := [{ desc := vecBytes }] }
   let g : Nat := 63
   let flips : List Nat := []
   ⟨s, g, flips, (by decide +kernel)⟩,
   let s : State := tileUp.onCore 63 fun k => { k with vector := [{ desc := vecBytes }] }
   let g : Nat := 63
   ⟨s, g, (by decide +kernel)⟩,
   let s : State := tileUp
   let g : Nat := 63
   ⟨s, g, ⟨(by decide +kernel), Nat.le_trans (by decide +kernel) (linkTs_le_tsNow s)⟩⟩,
   let s : State := tileUp.onCore 63 (fun k => { k with tileStart := 2 ^ 64 })
   let g : Nat := 63
   ⟨s, g, Nat.lt_of_lt_of_le (tsNow_lt s) (by decide +kernel)⟩,
   let s : State := up
   let g : Nat := 63
   ⟨s, g, (by decide +kernel)⟩,
   let s : State := up.onPhys 71 (fun k => { k with run := .selftest })
   let die : Nat := 3
   let u : Nat := 17
   ⟨s, die, u, (by decide +kernel)⟩,
   let s : State := up
   let die : Nat := 3
   let u : Nat := 0
   ⟨s, die, u, (by decide +kernel)⟩⟩

theorem witness_SolverTakesModelTasksAndContacts :
    (∃ (c : Cmd) (s : State), Starts 6 1 c s ∧ s.sol.state = .running) ∧
    (∃ (c : Cmd) (s : State),
      let n := fieldAt c.data 4 1
      Starts 6 1 c s ∧ s.sol.state ≠ .running ∧ (n < 2 ∨ 65 < n)) ∧
    (∃ (c : Cmd) (s : State),
      let n := fieldAt c.data 4 1
      Starts 6 1 c s ∧ s.sol.state ≠ .running ∧ 2 ≤ n ∧ n ≤ 65 ∧ c.length ≠ 64 + 128 * n) ∧
    (∃ (c : Cmd) (s : State),
      let n := fieldAt c.data 4 1
      Starts 6 1 c s ∧ s.sol.state ≠ .running ∧ 2 ≤ n ∧ n ≤ 65 ∧ c.length = 64 + 128 * n ∧ modelBad (parseModel
      c.data) = true) ∧
    (∃ (c : Cmd) (s : State),
      let n := fieldAt c.data 4 1
      Starts 6 1 c s ∧ s.sol.state ≠ .running ∧ 2 ≤ n ∧ n ≤ 65 ∧ c.length = 64 + 128 * n ∧ modelBad (parseModel
      c.data) = false) ∧
    (∃ (c : Cmd) (s : State), Starts 6 2 c s ∧ s.sol.model = none) ∧
    (∃ (c : Cmd) (s : State) (m : Model), Starts 6 2 c s ∧ s.sol.model = some m ∧ s.sol.pending ≠ none) ∧
    (∃ (c : Cmd) (s : State) (m : Model),
      let n := fieldAt c.data 4 1
      Starts 6 2 c s ∧ s.sol.model = some m ∧ s.sol.pending = none ∧ (n = 0 ∨ 32 < n)) ∧
    (∃ (c : Cmd) (s : State) (m : Model),
      let n := fieldAt c.data 4 1
      Starts 6 2 c s ∧ s.sol.model = some m ∧ s.sol.pending = none ∧ 1 ≤ n ∧ n ≤ 32 ∧ c.length ≠ 16 + 48 * n) ∧
    (∃ (c : Cmd) (s : State) (m : Model),
      let n := fieldAt c.data 4 1
      let x := parseTasks c.data
      let bad := !finite32 (fieldAt c.data 8 4) || !finite32 x.reg || ((List.range n).any fun i => taskBad m
        (taskRecord c.data i)) || s.sol.tasks.any (fun y => y.id = x.id)
      Starts 6 2 c s ∧ s.sol.model = some m ∧ s.sol.pending = none ∧ 1 ≤ n ∧ n ≤ 32 ∧ c.length = 16 + 48 * n ∧ bad =
      true) ∧
    (∃ (c : Cmd) (s : State) (m : Model),
      let n := fieldAt c.data 4 1
      let x := parseTasks c.data
      let bad := !finite32 (fieldAt c.data 8 4) || !finite32 x.reg || ((List.range n).any fun i => taskBad m
        (taskRecord c.data i)) || s.sol.tasks.any (fun y => y.id = x.id)
      Starts 6 2 c s ∧ s.sol.model = some m ∧ s.sol.pending = none ∧ 1 ≤ n ∧ n ≤ 32 ∧ c.length = 16 + 48 * n ∧ bad =
      false ∧ tasksLimit c.data x = true) ∧
    (∃ (c : Cmd) (s : State) (m : Model),
      let n := fieldAt c.data 4 1
      let x := parseTasks c.data
      let bad := !finite32 (fieldAt c.data 8 4) || !finite32 x.reg || ((List.range n).any fun i => taskBad m
        (taskRecord c.data i)) || s.sol.tasks.any (fun y => y.id = x.id)
      Starts 6 2 c s ∧ s.sol.model = some m ∧ s.sol.pending = none ∧ 1 ≤ n ∧ n ≤ 32 ∧ c.length = 16 + 48 * n ∧ bad =
      false ∧ tasksLimit c.data x = false) ∧
    (∃ (c : Cmd) (s : State), Starts 6 3 c s ∧ s.sol.state = .running) ∧
    (∃ (c : Cmd) (s : State), Starts 6 3 c s ∧ s.sol.state ≠ .running ∧ s.sol.model = none) ∧
    (∃ (c : Cmd) (s : State) (m : Model),
      let nf := fieldAt c.data 0 1
      let np := fieldAt c.data 1 1
      Starts 6 3 c s ∧ s.sol.state ≠ .running ∧ s.sol.model = some m ∧ (8 < nf ∨ 16 < np)) ∧
    (∃ (c : Cmd) (s : State) (m : Model),
      let nf := fieldAt c.data 0 1
      let np := fieldAt c.data 1 1
      Starts 6 3 c s ∧ s.sol.state ≠ .running ∧ s.sol.model = some m ∧ nf ≤ 8 ∧ np ≤ 16 ∧ c.length ≠ 8 + 32 * nf + 24
      * np) ∧
    (∃ (c : Cmd) (s : State) (m : Model),
      let nf := fieldAt c.data 0 1
      let np := fieldAt c.data 1 1
      let bad := !allZero c.data 2 6 || ((List.range nf).any fun i => frameBad m (contactFrame c.data i)) ||
        ((List.range np).any fun i => pointBad nf (contactPoint c.data i))
      Starts 6 3 c s ∧ s.sol.state ≠ .running ∧ s.sol.model = some m ∧ nf ≤ 8 ∧ np ≤ 16 ∧ c.length = 8 + 32 * nf + 24
      * np ∧ bad = true) ∧
    (∃ (c : Cmd) (s : State) (m : Model),
      let nf := fieldAt c.data 0 1
      let np := fieldAt c.data 1 1
      let bad := !allZero c.data 2 6 || ((List.range nf).any fun i => frameBad m (contactFrame c.data i)) ||
        ((List.range np).any fun i => pointBad nf (contactPoint c.data i))
      Starts 6 3 c s ∧ s.sol.state ≠ .running ∧ s.sol.model = some m ∧ nf ≤ 8 ∧ np ≤ 16 ∧ c.length = 8 + 32 * nf + 24
      * np ∧ bad = false) ∧
    (∃ (c : Cmd) (s : State), Starts 6 4 c s ∧ s.dev.mode ≠ .config) ∧
    (∃ (c : Cmd) (s : State), Starts 6 4 c s ∧ s.dev.mode = .config ∧ s.sol.state = .running) ∧
    (∃ (c : Cmd) (s : State), Starts 6 4 c s ∧ s.dev.mode = .config ∧ s.sol.state ≠ .running ∧ s.startUnready = true) ∧
    (∃ (c : Cmd) (s : State), Starts 6 4 c s ∧ s.dev.mode = .config ∧ s.sol.state ≠ .running ∧ s.startUnready = false
      ∧ (s.sol.clustersLost = true ∨ 100 < c.word 0 % 256)) ∧
    (∃ (c : Cmd) (s : State), Starts 6 4 c s ∧ s.dev.mode = .config ∧ s.sol.state ≠ .running ∧ s.startUnready = false
      ∧ s.sol.clustersLost = false ∧ c.word 0 % 256 ≤ 100) ∧
    (∃ (c : Cmd) (s : State), Starts 6 5 c s ∧ s.running = false) ∧
    (∃ (c : Cmd) (s : State), Starts 6 5 c s ∧ s.running = true) ∧
    (∃ (c : Cmd) (s : State), Starts 6 6 c s) :=
  ⟨let c : Cmd := cm 6 1 [] modelBytes
   let s : State := at0 (solUp .running) c
   ⟨c, s, (by unfold Starts; decide +kernel)⟩,
   let c : Cmd := cm 6 1 [] (record 192 [(4, 1, 1)])
   let s : State := at0 (up) c
   ⟨c, s, (by unfold Starts; decide +kernel)⟩,
   let c : Cmd := cm 6 1 [] (record 192 [(4, 1, 2)])
   let s : State := at0 (up) c
   ⟨c, s, (by unfold Starts; decide +kernel)⟩,
   let c : Cmd := cm 6 1 [] (record 320 [(4, 1, 2)])
   let s : State := at0 (up) c
   ⟨c, s, (by unfold Starts; decide +kernel)⟩,
   let c : Cmd := cm 6 1 [] modelBytes
   let s : State := at0 (up) c
   ⟨c, s, (by unfold Starts; decide +kernel)⟩,
   let c : Cmd := cm 6 2 [] taskBytes
   let s : State := at0 (up) c
   ⟨c, s, (by unfold Starts; decide +kernel)⟩,
   let c : Cmd := cm 6 2 [] taskBytes
   let s : State := at0 ((solUp .running).onSol fun y => { y with pending := some {} }) c
   let m : Model := parseModel modelBytes
   ⟨c, s, m, (by unfold Starts; decide +kernel)⟩,
   let c : Cmd := cm 6 2 [] (record 64 [])
   let s : State := at0 (solUp .loaded) c
   let m : Model := parseModel modelBytes
   ⟨c, s, m, (by unfold Starts; decide +kernel)⟩,
   let c : Cmd := cm 6 2 [] (record 80 [(4, 1, 1)])
   let s : State := at0 (solUp .loaded) c
   let m : Model := parseModel modelBytes
   ⟨c, s, m, (by unfold Starts; decide +kernel)⟩,
   let c : Cmd := cm 6 2 [] taskBytes
   let s : State := at0 (solUp .loaded) c
   let m : Model := parseModel modelBytes
   ⟨c, s, m, (by unfold Starts; decide +kernel)⟩,
   let c : Cmd := cm 6 2 [] (record 64 [(0, 4, 1), (4, 1, 1), (5, 1, 17), (16, 1, 5), (18, 1, 63), (19, 1, 1)])
   let s : State := at0 ((solUp .loaded).onSol fun y => { y with tasks := none }) c
   let m : Model := parseModel modelBytes
   ⟨c, s, m, (by unfold Starts; decide +kernel)⟩,
   let c : Cmd := cm 6 2 [] taskBytes
   let s : State := at0 ((solUp .loaded).onSol fun y => { y with tasks := none }) c
   let m : Model := parseModel modelBytes
   ⟨c, s, m, (by unfold Starts; decide +kernel)⟩,
   let c : Cmd := cm 6 3 [] contactBytes
   let s : State := at0 (solUp .running) c
   ⟨c, s, (by unfold Starts; decide +kernel)⟩,
   let c : Cmd := cm 6 3 [] contactBytes
   let s : State := at0 (up) c
   ⟨c, s, (by unfold Starts; decide +kernel)⟩,
   let c : Cmd := cm 6 3 [] (record 64 [(0, 1, 9)])
   let s : State := at0 (solUp .loaded) c
   let m : Model := parseModel modelBytes
   ⟨c, s, m, (by unfold Starts; decide +kernel)⟩,
   let c : Cmd := cm 6 3 [] (record 72 [(0, 1, 1), (1, 1, 1)])
   let s : State := at0 (solUp .loaded) c
   let m : Model := parseModel modelBytes
   ⟨c, s, m, (by unfold Starts; decide +kernel)⟩,
   let c : Cmd := cm 6 3 [] (record 64 [(0, 1, 1), (1, 1, 1), (2, 1, 1)])
   let s : State := at0 (solUp .loaded) c
   let m : Model := parseModel modelBytes
   ⟨c, s, m, (by unfold Starts; decide +kernel)⟩,
   let c : Cmd := cm 6 3 [] contactBytes
   let s : State := at0 (solUp .loaded) c
   let m : Model := parseModel modelBytes
   ⟨c, s, m, (by unfold Starts; decide +kernel)⟩,
   let c : Cmd := cm 6 4
   let s : State := at0 (inMode .run) c
   ⟨c, s, (by unfold Starts; decide +kernel)⟩,
   let c : Cmd := cm 6 4
   let s : State := at0 (solUp .running) c
   ⟨c, s, (by unfold Starts; decide +kernel)⟩,
   let c : Cmd := cm 6 4
   let s : State := at0 (up) c
   ⟨c, s, (by unfold Starts; decide +kernel)⟩,
   let c : Cmd := cm 6 4 [101]
   let s : State := at0 (solUp .loaded) c
   ⟨c, s, (by unfold Starts; decide +kernel)⟩,
   let c : Cmd := cm 6 4 [100]
   let s : State := at0 (solUp .loaded) c
   ⟨c, s, (by unfold Starts; decide +kernel)⟩,
   let c : Cmd := cm 6 5
   let s : State := at0 (solUp .running) c
   ⟨c, s, (by unfold Starts; decide +kernel)⟩,
   let c : Cmd := cm 6 5
   let s : State := at0 (inMode .run) c
   ⟨c, s, (by unfold Starts; decide +kernel)⟩,
   let c : Cmd := cm 6 6
   let s : State := at0 (solUp .running) c
   ⟨c, s, (by unfold Starts; decide +kernel)⟩⟩

theorem witness_SolverStagesHandTheirResultOn :
    (∃ (s : State) (m : Model) (x : TaskSet) (k : Contacts), s.sol.model = some m ∧ s.sol.tasks = some x ∧
      s.sol.contacts = some k ∧ s.sol.state = .running ∧ s.sol.startLink < s.tb.link ∧ s.linesResolved = true ∧ (∀ f ∈
      s.sol.front, f.n ≠ s.tb.link)) ∧
    (∃ (s : State) (m : Model) (x : TaskSet) (k : Contacts), s.sol.model = some m ∧ s.sol.tasks = some x ∧
      s.sol.contacts = some k ∧ (s.sol.state ≠ .running ∨ s.tb.link ≤ s.sol.startLink ∨ s.linesResolved = false ∨ (∃ f
      ∈ s.sol.front, f.n = s.tb.link))) ∧
    (∃ (s : State), (s.sol.model = none ∨ s.sol.tasks = none ∨ s.sol.contacts = none)) ∧
    (∃ (s : State) (f : FrontData), s.sol.front = some f ∧ f.n + 1 = s.tb.link) ∧
    (∃ (s : State), (∀ f ∈ s.sol.front, f.n + 1 ≠ s.tb.link)) ∧
    (∃ (lost : Bool), lost = true) ∧
    (∃ (s : State) (r : Result), s.sol.solved = some r ∧ r.n + 1 = s.tb.link) ∧
    (∃ (s : State) (r : Result), s.sol.solved = some r ∧ r.n + 1 = s.tb.link ∧ bitAt r.flags 11 = false) ∧
    (∃ (s : State) (r : Result), s.sol.solved = some r ∧ bitAt r.flags 11 = true) ∧
    (∃ (s : State), (∀ r ∈ s.sol.solved, r.n + 1 ≠ s.tb.link)) ∧
    (∃ (s : State) (u : Nat), s.sol.clustersRetired.contains u = true) ∧
    (∃ (s : State) (u : Nat), s.sol.clustersRetired.contains u = false ∧ s.isRetired (clusterEntry u) = false ∧
      s.isLasting (clusterEntry u) = false) ∧
    (∃ (s : State), s.sol.memRewrite = true ∧ s.phase s.tb.link % 100 = 0) ∧
    (∃ (s : State), (s.sol.memRewrite = false ∨ s.phase s.tb.link % 100 ≠ 0)) :=
  ⟨let s : State := solUp .running
   let m : Model := parseModel modelBytes
   let x : TaskSet := parseTasks taskBytes
   let k : Contacts := {}
   ⟨s, m, x, k, (by decide +kernel)⟩,
   let s : State := solUp .loaded
   let m : Model := parseModel modelBytes
   let x : TaskSet := parseTasks taskBytes
   let k : Contacts := {}
   ⟨s, m, x, k, (by decide +kernel)⟩,
   let s : State := up.onSpr (fun p => { p with windows := [(clusterEntry 16, [999])] })
   ⟨s, (by decide +kernel)⟩,
   let s : State := (solUp .running).onSol (fun y => { y with front := some front })
   let f : FrontData := front
   ⟨s, f, (by decide +kernel)⟩,
   let s : State := solUp .running
   ⟨s, (by decide +kernel)⟩,
   let lost : Bool := true
   ⟨lost, (by decide +kernel)⟩,
   let s : State := (solUp .running).onSol (fun y => { y with solved := some result })
   let r : Result := result
   ⟨s, r, (by decide +kernel)⟩,
   let s : State := (solUp .running).onSol (fun y => { y with solved := some result })
   let r : Result := result
   ⟨s, r, (by decide +kernel)⟩,
   let s : State := (solUp .running).onSol fun y => { y with solved := some { result with flags := 2048 } }
   let r : Result := { result with flags := 2048 }
   ⟨s, r, (by decide +kernel)⟩,
   let s : State := solUp .running
   ⟨s, (by decide +kernel)⟩,
   let s : State := up.onSol fun y => { y with clustersRetired := [16] }
   let u : Nat := 16
   ⟨s, u, (by decide +kernel)⟩,
   let s : State := up.onSpr (fun p => { p with windows := [(clusterEntry 16, [999])] })
   let u : Nat := 16
   ⟨s, u, (by decide +kernel)⟩,
   let s : State := (solUp .running).onSol (fun y => { y with memRewrite := true })
   ⟨s, (by decide +kernel)⟩,
   let s : State := solUp .running
   ⟨s, (by decide +kernel)⟩⟩

theorem witness_AssizeJudgesEveryResult :
    (∃ (s : State), s.asz.copyModel ≠ [] ∧ s.linesResolved = true) ∧
    (∃ (s : State), (s.asz.copyModel = [] ∨ s.linesResolved = false)) ∧
    (∃ (s : State) (r : Result) (x : LinkState), s.asz.check = some r ∧ r.n + 2 = s.tb.link ∧ (s.asz.firstParts.find?
      fun p => p.1 = r.n) = some (r.n, x)) ∧
    (∃ (s : State), (∀ r ∈ s.asz.check, r.n + 2 ≠ s.tb.link ∨ (s.asz.firstParts.find? fun p => p.1 = r.n) = none)) ∧
    (∃ (s : State) (r : Result), s.asz.check = some r ∧ r.n + 2 = s.tb.link) ∧
    (∃ (s : State), (∀ r ∈ s.asz.check, r.n + 2 ≠ s.tb.link)) ∧
    (∃ (s : State), s.running = true ∧ s.asz.safe = false) ∧
    (∃ (s : State), s.running = true ∧ s.asz.safe = false ∧ (s.inWindow 100 s.asz.disagreeLinks).length = 2) ∧
    (∃ (s : State), s.running = true ∧ s.asz.safe = false ∧ (s.inWindow 100 s.asz.disagreeLinks).length < 2 ∧
      (s.inWindow 1000 s.asz.disagreeLinks).length < 9) ∧
    (∃ (s : State), s.asz.reloadDue = true ∧ s.phase s.tb.link % 100 = 0) ∧
    (∃ (s : State), (s.asz.reloadDue = false ∨ s.phase s.tb.link % 100 ≠ 0)) ∧
    (∃ (s : State) (flips : List Nat),
      let all := flips.foldl (fun bs k => flipBit k bs) (s.asz.copyModel ++ s.asz.copyContacts)
      (s.asz.copyModel = [] ∨ crc32c all = s.asz.copyCrc)) ∧
    (∃ (s : State) (flips : List Nat),
      let all := flips.foldl (fun bs k => flipBit k bs) (s.asz.copyModel ++ s.asz.copyContacts)
      s.asz.copyModel ≠ [] ∧ crc32c all ≠ s.asz.copyCrc) ∧
    (∃ (s : State) (flips : List Nat),
      let all := flips.foldl (fun bs k => flipBit k bs) (s.asz.copyModel ++ s.asz.copyContacts)
      s.asz.copyModel ≠ [] ∧ crc32c all ≠ s.asz.copyCrc ∧ s.running = true) :=
  ⟨let s : State := up.onAsz (fun a => { a with copyModel := modelBytes })
   ⟨s, (by decide +kernel)⟩,
   let s : State := up.onAsz (fun a => { a with check := some { result with n := 998 }, firstParts := [(998, {})] })
   ⟨s, (by decide +kernel)⟩,
   let s : State := up.onAsz (fun a => { a with check := some { result with n := 998 }, firstParts := [(998, {})] })
   let r : Result := { result with n := 998 }
   let x : LinkState := {}
   ⟨s, r, x, (by decide +kernel)⟩,
   let s : State := up.onAsz (fun a => { a with copyModel := modelBytes })
   ⟨s, (by decide +kernel)⟩,
   let s : State := up.onAsz (fun a => { a with check := some { result with n := 998 }, firstParts := [(998, {})] })
   let r : Result := { result with n := 998 }
   ⟨s, r, (by decide +kernel)⟩,
   let s : State := up.onAsz (fun a => { a with copyModel := modelBytes })
   ⟨s, (by decide +kernel)⟩,
   let s : State := runSafe
   ⟨s, (by decide +kernel)⟩,
   let s : State := runSafe.onAsz (fun a => { a with disagreeLinks := [901, 1000] })
   ⟨s, (by decide +kernel)⟩,
   let s : State := runSafe
   ⟨s, (by decide +kernel)⟩,
   let s : State := (solUp .running).onAsz (fun a => { a with reloadDue := true })
   ⟨s, (by decide +kernel)⟩,
   let s : State := up.onAsz (fun a => { a with copyModel := modelBytes })
   ⟨s, (by decide +kernel)⟩,
   let s : State := up
   let flips : List Nat := []
   ⟨s, flips, (by decide +kernel)⟩,
   let s : State := runSafe.onAsz fun a => { a with copyModel := [1] }
   let flips : List Nat := [7]
   ⟨s, flips, (by decide +kernel)⟩,
   let s : State := runSafe.onAsz fun a => { a with copyModel := [1] }
   let flips : List Nat := [7]
   ⟨s, flips, (by decide +kernel)⟩⟩

theorem witness_MonitorsDecideTheSafeState :
    (∃ (s : State), s.asz.pairAOk = true) ∧
    (∃ (s : State), s.asz.pairBOk = true) ∧
    (∃ (s : State), s.asz.pairBOk = false) ∧
    (∃ (s : State), s.asz.pairAOk = false) ∧
    (∃ (s : State) (w : Nat) (k : Nat) (p : Nat × Nat × Nat × Nat), s.wdParams w = some p ∧ w < 64 ∧ Shaped s ∧
      s.tb.link = s.tb.mile + p.2.1 + p.2.2.2 + k * p.1 ∧ 0 < p.1 ∧ s.running = true ∧ s.asz.pairAOk = true ∧ s.wdArms
      w p k = true ∧ (s.watchdog w).kicked.contains (s.wdOpen p k) = false ∧ (s.watchdog w).lastFault ≠ some
      s.tb.link) ∧
    (∃ (s : State) (w : Nat) (k : Nat) (p : Nat × Nat × Nat × Nat), s.wdParams w = some p ∧ s.tb.link = s.tb.mile +
      p.2.1 + p.2.2.2 + k * p.1 ∧ 0 < p.1 ∧ (s.judging = false ∨ s.wdArms w p k = false ∨ (s.watchdog
      w).kicked.contains (s.wdOpen p k) = true)) ∧
    (∃ (s : State) (w : Nat) (p : Nat × Nat × Nat × Nat), s.wdParams w = some p ∧ (s.tb.link < s.tb.mile + p.2.1 +
      p.2.2.2 ∨ (s.tb.link - (s.tb.mile + p.2.1 + p.2.2.2)) % p.1 ≠ 0)) ∧
    (∃ (s : State) (w : Nat), s.wdParams w = none) ∧
    (∃ (s : State), s.running = true ∧ s.asz.safe = false) ∧
    (∃ (s : State) (rail : _) (first : _) (second : _), s.running = true ∧ s.asz.safe = false ∧ (rail < 4 → (s.dramAt
      rail).inService = true) ∧ s.railGood rail first = false ∧ s.railGood rail second = false) ∧
    (∃ (s : State), s.running = true ∧ s.asz.safe = false ∧ s.sol.holdLimit ≤ s.sol.holdRun) ∧
    (∃ (s : State), s.running = true ∧ s.asz.safe = true) ∧
    (∃ (s : State) (rail : Nat), rail < 4 ∧ (s.dramAt rail).inService = false) ∧
    (∃ (s : State) (rail : Nat) (first : Nat) (second : Nat), rail ≠ 15 ∧ (s.railGood rail first = true ∨ s.railGood
      rail second = true)) ∧
    (∃ (s : State) (first : Nat) (second : Nat), (s.railGood 15 first = true ∨ s.railGood 15 second = true)) ∧
    (∃ (s : State) (rail : Nat) (first : Nat) (second : Nat), s.running = false ∧ s.asz.safe = false ∧ s.dev.mode ≠
      .replay ∧ s.railGood rail first = false ∧ s.railGood rail second = false) ∧
    (∃ (s : State), s.running = false ∧ s.dev.mode ≠ .replay) ∧
    (∃ (s : State), s.running = true) ∧
    (∃ (s : State), (s.asz.safe = true ∨ s.sol.holdRun < s.sol.holdLimit)) :=
  ⟨let s : State := runSafe
   ⟨s, (by decide +kernel)⟩,
   let s : State := runSafe
   ⟨s, (by decide +kernel)⟩,
   let s : State := runSafe.onAsz (fun a => { a with pairBOk := false })
   ⟨s, (by decide +kernel)⟩,
   let s : State := runSafe.onAsz (fun a => { a with pairAOk := false })
   ⟨s, (by decide +kernel)⟩,
   let s : State := inLink 1000 (runSafe.onAsz fun a =>
      { a with watchdogs := a.watchdogs.set 1 { source := some 10 } })
   let w : Nat := 1
   let k : Nat := 999
   let p : Nat × Nat × Nat × Nat := (1, 0, 0, 1)
   ⟨s, w, k, p, (by unfold Shaped; decide +kernel)⟩,
   let s : State := runSafe
   let w : Nat := 1
   let k : Nat := 999
   let p : Nat × Nat × Nat × Nat := (1, 0, 0, 1)
   ⟨s, w, k, p, (by decide +kernel)⟩,
   let s : State := inLink 1001 runSafe
   let w : Nat := 0
   let p : Nat × Nat × Nat × Nat := (100, 0, 98, 100)
   ⟨s, w, p, (by decide +kernel)⟩,
   let s : State := up
   let w : Nat := 0
   ⟨s, w, (by decide +kernel)⟩,
   let s : State := runSafe
   ⟨s, (by decide +kernel)⟩,
   let s : State := runSafe
   let rail := 3
   let first := 0
   let second := 0
   ⟨s, rail, first, second, (by decide +kernel)⟩,
   let s : State := runSafe.onSol (fun y => { y with holdRun := 25 })
   ⟨s, (by decide +kernel)⟩,
   let s : State := runSafe.onAsz (fun a => { a with safe := true, firstCause := 2 })
   ⟨s, (by decide +kernel)⟩,
   let s : State := runSafe.onDram 3 (fun d => { d with inService := false })
   let rail : Nat := 3
   ⟨s, rail, (by decide +kernel)⟩,
   let s : State := up
   let rail : Nat := 4
   let first : Nat := 750000
   let second : Nat := 0
   ⟨s, rail, first, second, (by decide +kernel)⟩,
   let s : State := up
   let first : Nat := 3300000
   let second : Nat := 0
   ⟨s, first, second, (by decide +kernel)⟩,
   let s : State := up
   let rail : Nat := 4
   let first : Nat := 0
   let second : Nat := 0
   ⟨s, rail, first, second, (by decide +kernel)⟩,
   let s : State := up
   ⟨s, (by decide +kernel)⟩,
   let s : State := runSafe
   ⟨s, (by decide +kernel)⟩,
   let s : State := runSafe
   ⟨s, (by decide +kernel)⟩⟩

theorem witness_EmergencyStopsAndTheSafeSequence :
    (∃ (s : State), 2 ≤ s.asz.estopA.lowRun ∧ s.asz.estopA.asserted = false ∧ s.asz.estopA.chatter = false ∧
      s.dev.mode ≠ .replay) ∧
    (∃ (s : State), 2 ≤ s.asz.estopB.lowRun ∧ s.asz.estopB.asserted = false ∧ s.asz.estopB.chatter = false ∧
      s.dev.mode ≠ .replay) ∧
    (∃ (s : State), s.asz.estopA.lowRun < 2) ∧
    (∃ (s : State), s.asz.estopA.highRun < 2) ∧
    (∃ (s : State), 2 ≤ s.asz.estopA.highRun) ∧
    (∃ (s : State), 2 ≤ s.asz.estopB.highRun) ∧
    (∃ (s : State), s.asz.estopB.highRun < 2) ∧
    (∃ (s : State), s.asz.estopB.lowRun < 2) ∧
    (∃ (s : State), s.asz.estopA.asserted = true) ∧
    (∃ (s : State), s.asz.estopB.asserted = true) ∧
    (∃ (s : State), 2 ≤ s.asz.estopA.lowRun ∧ s.asz.estopA.asserted = false) ∧
    (∃ (s : State), 2 ≤ s.asz.estopB.lowRun ∧ s.asz.estopB.asserted = false) ∧
    (∃ (s : State), 100 < s.asz.differRun ∧ s.asz.discrepancy = false) ∧
    (∃ (s : State), (s.asz.differRun ≤ 100 ∨ s.asz.discrepancy = true)) ∧
    (∃ (s : State), 1000 ≤ s.asz.clearRun) ∧
    (∃ (s : State), s.asz.clearRun < 1000) ∧
    (∃ (s : State), s.asz.entryPending = true ∧ s.asz.safe = true ∧ s.running = true ∧ s.dev.inReset = false ∧
      s.asz.vauxBad = false) ∧
    (∃ (s : State), s.asz.entryPending = true) ∧
    (∃ (s : State), s.asz.entryPending = false) ∧
    (∃ (s : State), s.asz.safe = true ∧ s.dampOver = true) ∧
    (∃ (s : State), (s.asz.safe = false ∨ s.dampOver = false)) ∧
    (∃ (s : State), (∀ l ∈ s.asz.releaseAt, s.tb.link < l)) ∧
    (∃ (s : State) (l : Nat), s.asz.releaseAt = some l ∧ l ≤ s.tb.link ∧ s.asz.releaseCancelled = false) ∧
    (∃ (s : State) (l : Nat), s.asz.releaseAt = some l ∧ l ≤ s.tb.link ∧ s.asz.releaseCancelled = true) ∧
    (∃ (c : Cmd) (s : State), Starts 0xA 3 c s ∧ s.asz.safe = false) ∧
    (∃ (c : Cmd) (s : State), Starts 0xA 3 c s ∧ s.asz.safe = true ∧ s.mayRelease = false) ∧
    (∃ (c : Cmd) (s : State), Starts 0xA 3 c s ∧ s.asz.safe = true ∧ s.mayRelease = true) ∧
    (∃ (c : Cmd) (s : State), Starts 0xA 1 c s ∧ s.dev.mode = .config ∧ paramsStatus c.data = stOk) ∧
    (∃ (c : Cmd) (s : State), Starts 0xA 1 c s ∧ s.dev.mode = .config ∧ paramsStatus c.data ≠ stOk) ∧
    (∃ (c : Cmd) (s : State), Starts 0xA 1 c s ∧ s.dev.mode ≠ .config) :=
  ⟨let s : State := runSafe.onAsz (fun a => { a with estopA := { lowRun := 2 } })
   ⟨s, (by decide +kernel)⟩,
   let s : State := runSafe.onAsz (fun a => { a with estopB := { lowRun := 2 } })
   ⟨s, (by decide +kernel)⟩,
   let s : State := runSafe.onAsz (fun a => { a with estopB := { lowRun := 2 } })
   ⟨s, (by decide +kernel)⟩,
   let s : State := runSafe.onAsz (fun a => { a with estopA := { lowRun := 2 } })
   ⟨s, (by decide +kernel)⟩,
   let s : State := runSafe.onAsz (fun a => { a with estopA := { highRun := 2, asserted := true } })
   ⟨s, (by decide +kernel)⟩,
   let s : State := runSafe.onAsz (fun a => { a with estopB := { highRun := 2, asserted := true } })
   ⟨s, (by decide +kernel)⟩,
   let s : State := runSafe.onAsz (fun a => { a with estopA := { lowRun := 2 } })
   ⟨s, (by decide +kernel)⟩,
   let s : State := runSafe.onAsz (fun a => { a with estopA := { lowRun := 2 } })
   ⟨s, (by decide +kernel)⟩,
   let s : State := runSafe.onAsz (fun a => { a with estopA := { highRun := 1, asserted := true } })
   ⟨s, (by decide +kernel)⟩,
   let s : State := runSafe.onAsz (fun a => { a with estopB := { highRun := 2, asserted := true } })
   ⟨s, (by decide +kernel)⟩,
   let s : State := runSafe.onAsz (fun a => { a with estopA := { lowRun := 2 } })
   ⟨s, (by decide +kernel)⟩,
   let s : State := runSafe.onAsz (fun a => { a with estopB := { lowRun := 2 } })
   ⟨s, (by decide +kernel)⟩,
   let s : State := runSafe.onAsz (fun a => { a with differRun := 101 })
   ⟨s, (by decide +kernel)⟩,
   let s : State := runSafe.onAsz (fun a => { a with estopA := { lowRun := 2 } })
   ⟨s, (by decide +kernel)⟩,
   let s : State := runSafe.onAsz (fun a => { a with clearRun := 1000 })
   ⟨s, (by decide +kernel)⟩,
   let s : State := runSafe.onAsz (fun a => { a with estopA := { lowRun := 2 } })
   ⟨s, (by decide +kernel)⟩,
   let s : State := runSafe.onAsz (fun a => { a with safe := true, entryPending := true })
   ⟨s, (by decide +kernel)⟩,
   let s : State := runSafe.onAsz (fun a => { a with safe := true, entryPending := true })
   ⟨s, (by decide +kernel)⟩,
   let s : State := runSafe.onAsz (fun a => { a with estopA := { lowRun := 2 } })
   ⟨s, (by decide +kernel)⟩,
   let s : State := inLink 1000000 (runSafe.onAsz fun a => { a with safe := true })
   ⟨s, (by decide +kernel)⟩,
   let s : State := runSafe.onAsz (fun a => { a with estopA := { lowRun := 2 } })
   ⟨s, (by decide +kernel)⟩,
   let s : State := runSafe.onAsz (fun a => { a with estopA := { lowRun := 2 } })
   ⟨s, (by decide +kernel)⟩,
   let s : State := runSafe.onAsz (fun a => { a with safe := true, releaseAt := some 1000 })
   let l : Nat := 1000
   ⟨s, l, (by decide +kernel)⟩,
   let s : State := runSafe.onAsz (fun a => { a with safe := true, releaseAt := some 1000, releaseCancelled := true })
   let l : Nat := 1000
   ⟨s, l, (by decide +kernel)⟩,
   let c : Cmd := cm 10 3
   let s : State := at0 runSafe c
   ⟨c, s, (by unfold Starts; decide +kernel)⟩,
   let c : Cmd := cm 10 3
   let s : State := at0 (runSafe.onAsz fun a => { a with safe := true }) c
   ⟨c, s, (by unfold Starts; decide +kernel)⟩,
   let c : Cmd := cm 10 3
   let s : State := at0 ((runSafe.onAsz fun a => { a with safe := true, torqueOff := true }).onSol fun y =>
      { y with state := .running }) c
   ⟨c, s, (by unfold Starts; decide +kernel)⟩,
   let c : Cmd := cm 10 1 [] safeBlock
   let s : State := at0 up c
   ⟨c, s, (by unfold Starts; decide +kernel)⟩,
   let c : Cmd := cm 10 1 [] (record 832 [])
   let s : State := at0 up c
   ⟨c, s, (by unfold Starts; decide +kernel)⟩,
   let c : Cmd := cm 10 1 [] safeBlock
   let s : State := at0 runSafe c
   ⟨c, s, (by unfold Starts; decide +kernel)⟩⟩

theorem witness_SafeTripAndQueryAnswer :
    (∃ (c : Cmd) (s : State), Starts 0xA 2 c s ∧ s.running = true) ∧
    (∃ (c : Cmd) (s : State), Starts 0xA 2 c s ∧ s.running = false) ∧
    (∃ (c : Cmd) (s : State), Starts 0xA 4 c s) :=
  ⟨let c : Cmd := cm 10 2
   let s : State := at0 runSafe c
   ⟨c, s, (by unfold Starts; decide +kernel)⟩,
   let c : Cmd := cm 10 2
   let s : State := at0 up c
   ⟨c, s, (by unfold Starts; decide +kernel)⟩,
   let c : Cmd := cm 10 4
   let s : State := at0 runSafe c
   ⟨c, s, (by unfold Starts; decide +kernel)⟩⟩

theorem witness_IntakeTakesFramesToSamples :
    (∃ (c : Cmd) (s : State),
      let i := fieldAt c.data 0 1
      Starts 7 1 c s ∧ (s.stream i).running = false ∧ s.dev.mode ≠ .recovery ∧ streamLimit (parseStream c.data) =
      false ∧ s.streamBad c.data i (parseStream c.data) = false) ∧
    (∃ (c : Cmd) (s : State),
      let i := fieldAt c.data 0 1
      Starts 7 1 c s ∧ (s.stream i).running = true) ∧
    (∃ (c : Cmd) (s : State),
      let i := fieldAt c.data 0 1
      Starts 7 1 c s ∧ (s.stream i).running = false ∧ s.dev.mode = .recovery) ∧
    (∃ (c : Cmd) (s : State),
      let i := fieldAt c.data 0 1
      Starts 7 1 c s ∧ (s.stream i).running = false ∧ s.dev.mode ≠ .recovery ∧ streamLimit (parseStream c.data) =
      true) ∧
    (∃ (c : Cmd) (s : State),
      let i := fieldAt c.data 0 1
      Starts 7 1 c s ∧ (s.stream i).running = false ∧ s.dev.mode ≠ .recovery ∧ streamLimit (parseStream c.data) =
      false ∧ s.streamBad c.data i (parseStream c.data) = true) ∧
    (∃ (c : Cmd) (s : State),
      let i := fieldAt c.data 0 1
      Starts 7 2 c s ∧ s.profileBusy i = true) ∧
    (∃ (c : Cmd) (s : State),
      let i := fieldAt c.data 0 1
      Starts 7 2 c s ∧ s.profileBusy i = false ∧ profileLimit i (parseProfile c.data) = true) ∧
    (∃ (c : Cmd) (s : State),
      let i := fieldAt c.data 0 1
      Starts 7 2 c s ∧ s.profileBusy i = false ∧ profileLimit i (parseProfile c.data) = false ∧ profileBad
      (parseProfile c.data) = true) ∧
    (∃ (c : Cmd) (s : State),
      let i := fieldAt c.data 0 1
      Starts 7 2 c s ∧ s.profileBusy i = false ∧ profileLimit i (parseProfile c.data) = false ∧ profileBad
      (parseProfile c.data) = false) ∧
    (∃ (c : Cmd) (s : State) (x : StreamCfg) (p : Profile),
      let i := c.word 0 % 16
      Starts 7 3 c s ∧ Shaped s ∧ (s.stream i).running = false ∧ (s.stream i).cfg = some x ∧ s.itk.profiles.getD
      x.profile none = some p ∧ profileSuits x p = true ∧ (∀ b, b < x.nbuf → p.tensorBytes ≤ x.room b)) ∧
    (∃ (c : Cmd) (s : State),
      let i := c.word 0 % 16
      Starts 7 3 c s ∧ (s.stream i).running = true) ∧
    (∃ (c : Cmd) (s : State),
      let i := c.word 0 % 16
      Starts 7 3 c s ∧ (s.stream i).running = false ∧ ((s.stream i).cfg = none ∨ ∃ x, (s.stream i).cfg = some x ∧
      (s.itk.profiles.getD x.profile none = none ∨ ∃ p, s.itk.profiles.getD x.profile none = some p ∧ profileSuits x p
      = false))) ∧
    (∃ (c : Cmd) (s : State) (x : _) (p : _),
      let i := c.word 0 % 16
      Starts 7 3 c s ∧ (s.stream i).running = false ∧ (s.stream i).cfg = some x ∧ s.itk.profiles.getD x.profile none =
      some p ∧ profileSuits x p = true ∧ (∃ b, b < x.nbuf ∧ x.room b < p.tensorBytes)) ∧
    (∃ (c : Cmd) (s : State),
      let i := c.word 0 % 16
      Starts 7 4 c s ∧ Shaped s ∧ (s.stream i).running = true) ∧
    (∃ (c : Cmd) (s : State), Starts 7 4 c s ∧ (s.stream (c.word 0 % 16)).running = false) ∧
    (∃ (s : State), s.replaying = true) ∧
    (∃ (s : State), s.replaying = false) ∧
    (∃ (s : State) (port : Nat) (vc : Nat), s.replaying = false ∧ s.streamOn port vc = none) ∧
    (∃ (s : State) (port : Nat) (vc : Nat) (dt : Nat), s.replaying = false ∧ s.streamOn port vc = none ∧ dtAccepted dt
      = true) ∧
    (∃ (s : State) (port : Nat) (vc : Nat) (i : Nat) (x : StreamCfg), Shaped s ∧ Uninjected s ∧ s.replaying = false ∧
      s.streamOn port vc = some i ∧ (s.stream i).cfg = some x ∧ (s.stream i).current = none ∧ ((x.bufs.take
      x.nbuf).any s.bufShut) = false) ∧
    (∃ (s : State) (port : Nat) (vc : Nat) (i : Nat), s.replaying = false ∧ s.streamOn port vc = some i ∧ (s.stream
      i).current = none) ∧
    (∃ (s : State) (port : Nat) (vc : Nat) (i : Nat) (f : _), s.replaying = false ∧ s.streamOn port vc = some i ∧
      (s.stream i).current = some f) ∧
    (∃ (s : State) (port : Nat) (vc : Nat) (dt : Nat) (i : Nat) (d : List Byte) (x : StreamCfg) (f : Frame),
      s.replaying = false ∧ dtAccepted dt = true ∧ s.streamOn port vc = some i ∧ (s.stream i).cfg = some x ∧ (s.stream
      i).current = some f ∧ f.flipped d.length = false ∧ f.resolved = none ∧ f.lines ≠ 0 ∧ f.pipe ≠ none ∧ f.lines <
      x.allLines ∧ (x.embLines < f.lines → d.length = f.firstWc) ∧ f.bytes + d.length ≤ x.maxBytes) ∧
    (∃ (s : State) (dt : Nat), s.replaying = false ∧ dtAccepted dt = false) ∧
    (∃ (s : State) (port : Nat) (vc : Nat) (dt : Nat) (i : _), s.replaying = false ∧ dtAccepted dt = true ∧ s.streamOn
      port vc = some i ∧ (s.stream i).current = none) ∧
    (∃ (s : State) (port : Nat) (vc : Nat) (dt : Nat) (d : List Byte) (i : _) (f : _), s.replaying = false ∧
      dtAccepted dt = true ∧ s.streamOn port vc = some i ∧ (s.stream i).current = some f ∧ f.flipped d.length = false
      ∧ f.resolved ≠ none) ∧
    (∃ (s : State) (port : Nat) (vc : Nat) (dt : Nat) (d : List Byte) (i : _) (f : _), s.replaying = false ∧
      dtAccepted dt = true ∧ s.streamOn port vc = some i ∧ (s.stream i).current = some f ∧ f.flipped d.length = false
      ∧ f.resolved = none ∧ f.lines ≠ 0) ∧
    (∃ (s : State) (port : Nat) (vc : Nat) (dt : Nat) (d : List Byte) (i : _) (f : _), s.replaying = false ∧
      dtAccepted dt = true ∧ s.streamOn port vc = some i ∧ (s.stream i).current = some f ∧ f.flipped d.length = false
      ∧ f.resolved = none ∧ f.lines = 0 ∧ firstOk ((s.stream i).cfg.getD {}) dt d.length = false) ∧
    (∃ (s : State) (port : Nat) (vc : Nat) (dt : Nat), s.replaying = false ∧ dtAccepted dt = true ∧ s.streamOn port vc
      = none) ∧
    (∃ (s : State) (port : Nat) (vc : Nat) (i : Nat) (f : Frame), s.replaying = false ∧ s.streamOn port vc = some i ∧
      (s.stream i).current = some f ∧ ((s.stream i).cfg.getD {}).allLines ≤ f.lines) ∧
    (∃ (s : State) (port : Nat) (vc : Nat) (i : Nat) (f : _), s.replaying = false ∧ s.streamOn port vc = some i ∧
      (s.stream i).current = some f ∧ f.lines < ((s.stream i).cfg.getD {}).allLines) ∧
    (∃ (s : State) (dt : Nat), s.replaying = false ∧ dtAccepted dt = true) ∧
    (∃ (s : State) (u : Nat) (i : Nat) (f : Frame), (s.itk.pipes.findIdx? fun p => p.inService && p.frame.isNone) =
      some u ∧ (sortBy earlier s.waitingFrames).head? = some (i, f)) ∧
    (∃ (s : State) (u : Nat) (i : Nat) (f : Frame) (g : _), (s.itk.pipes.findIdx? fun p => p.inService &&
      p.frame.isNone) = some u ∧ (sortBy earlier s.waitingFrames).head? = some (i, f) ∧ g ∈ s.waitingFrames) ∧
    (∃ (s : State), ((s.itk.pipes.findIdx? fun p => p.inService && p.frame.isNone) = none ∨ s.waitingFrames = [])) ∧
    (∃ (s : State) (i : Nat) (q : Nat) (f : Frame),
      let x := (s.stream i).cfg.getD {}
      let p := (s.itk.profiles.getD x.profile none).getD {}
      let a := x.bufs.getD (f.buffer.getD 0) 0
      ((s.stream i).frames.find? fun f => f.seq = q) = some f ∧ f.resolved = none ∧ f.ended = true ∧ f.pipe ≠ none ∧
      s.frameHeld i f = false ∧ s.tb.link < f.startLink + f.budget ∧ s.tensorRefused a p.tensorBytes = false) ∧
    (∃ (s : State) (i : Nat) (q : Nat) (f : Frame),
      let x := (s.stream i).cfg.getD {}
      let p := (s.itk.profiles.getD x.profile none).getD {}
      let a := x.bufs.getD (f.buffer.getD 0) 0
      ((s.stream i).frames.find? fun f => f.seq = q) = some f ∧ f.resolved = none ∧ f.ended = true ∧ f.pipe ≠ none ∧
      s.frameHeld i f = false ∧ s.tb.link < f.startLink + f.budget ∧ s.tensorRefused a p.tensorBytes = true) ∧
    (∃ (s : State) (i : Nat) (q : Nat) (f : Frame), ((s.stream i).frames.find? fun f => f.seq = q) = some f ∧
      f.resolved = none ∧ f.ended = true ∧ f.pipe ≠ none ∧ s.frameHeld i f = false ∧ s.tb.link < f.startLink +
      f.budget) ∧
    (∃ (s : State) (i : Nat) (q : Nat) (f : Frame), ((s.stream i).frames.find? fun f => f.seq = q) = some f ∧
      f.resolved = none ∧ f.ended = true ∧ f.pipe ≠ none ∧ s.frameHeld i f = false ∧ f.startLink + f.budget ≤
      s.tb.link) ∧
    (∃ (s : State) (i : Nat) (q : Nat), ((s.stream i).frames.find? fun f => f.seq = q) = none) ∧
    (∃ (s : State) (i : Nat) (q : Nat) (f : Frame), ((s.stream i).frames.find? fun f => f.seq = q) = some f ∧
      f.resolved ≠ none) ∧
    (∃ (s : State) (i : Nat) (q : Nat) (f : Frame), ((s.stream i).frames.find? fun f => f.seq = q) = some f ∧
      (f.resolved ≠ none ∨ f.ended = false ∨ f.pipe = none ∨ s.frameHeld i f = true)) ∧
    (∃ (s : State) (i : Nat) (q : Nat) (f : Frame), ((s.stream i).frames.find? fun f => f.seq = q) = some f ∧
      f.resolved = none ∧ s.tb.link < f.startLink + f.budget) ∧
    (∃ (s : State) (i : Nat) (q : Nat) (f : Frame), ((s.stream i).frames.find? fun f => f.seq = q) = some f ∧
      f.resolved = none ∧ f.startLink + f.budget ≤ s.tb.link) ∧
    (∃ (s : State) (u : Nat), (s.itk.pipes.getD u {}).retired = false ∧ (s.itk.pipes.getD u {}).frame = none ∧
      s.waitingFrames = []) ∧
    (∃ (s : State) (u : Nat), ((s.itk.pipes.getD u {}).retired = true ∨ (s.itk.pipes.getD u {}).frame ≠ none ∨
      s.waitingFrames ≠ [])) ∧
    (∃ (n : Nat), (n = 1 ∨ n = 2 ∨ n = 4)) ∧
    (∃ (n : Nat), n ≠ 1 ∧ n ≠ 2 ∧ n ≠ 4) :=
  ⟨let c : Cmd := cm 7 1 [] streamBytes
   let s : State := at0 up c
   ⟨c, s, (by unfold Starts; decide +kernel)⟩,
   let c : Cmd := cm 7 1 [] streamBytes
   let s : State := at0 (streamUp true []) c
   ⟨c, s, (by unfold Starts; decide +kernel)⟩,
   let c : Cmd := cm 7 1 [] streamBytes
   let s : State := at0 (inMode .recovery) c
   ⟨c, s, (by unfold Starts; decide +kernel)⟩,
   let c : Cmd := cm 7 1 [] (record 64 [(0, 1, 16)])
   let s : State := at0 (up) c
   ⟨c, s, (by unfold Starts; decide +kernel)⟩,
   let c : Cmd := cm 7 1 [] (streamBytes.set 30 1)
   let s : State := at0 (up) c
   ⟨c, s, (by unfold Starts; decide +kernel)⟩,
   let c : Cmd := cm 7 2 [] profileBytes
   let s : State := at0 (streamUp true []) c
   ⟨c, s, (by unfold Starts; decide +kernel)⟩,
   let c : Cmd := cm 7 2 [] (record 128 [(0, 1, 16)])
   let s : State := at0 (up) c
   ⟨c, s, (by unfold Starts; decide +kernel)⟩,
   let c : Cmd := cm 7 2 [] (profileBytes.set 127 1)
   let s : State := at0 (up) c
   ⟨c, s, (by unfold Starts; decide +kernel)⟩,
   let c : Cmd := cm 7 2 [] profileBytes
   let s : State := at0 up c
   ⟨c, s, (by unfold Starts; decide +kernel)⟩,
   let c : Cmd := cm 7 3 [15]
   let s : State := at0 (streamUp false []) c
   let x : StreamCfg := parseStream streamBytes
   let p : Profile := parseProfile profileBytes
   ⟨c, s, x, p, (by unfold Starts Shaped; decide +kernel)⟩,
   let c : Cmd := cm 7 3 [15]
   let s : State := at0 (streamUp true []) c
   ⟨c, s, (by unfold Starts; decide +kernel)⟩,
   let c : Cmd := cm 7 3 [15]
   let s : State := at0 (up) c
   ⟨c, s, (by unfold Starts; decide +kernel)⟩,
   let c : Cmd := cm 7 3 [15]
   let s : State := at0 ((streamUp false []).onStream 15 fun x =>
      { x with cfg := some (parseStream (record 64 [(0, 1, 15), (1, 1, 7), (2, 1, 15), (3, 1, 0x2A), (4, 2, 16), (6, 2, 16), (8, 4, 256), (13, 1, 15), (14, 1, 2), (20, 4, 1000), (32, 8, hubBase), (40, 8, hubBase + 64)])) })
      c
   let x := parseStream (record 64 [(0, 1, 15), (1, 1, 7), (2, 1, 15), (3, 1, 0x2A), (4, 2, 16), (6, 2, 16), (8, 4,
      256), (13, 1, 15), (14, 1, 2), (20, 4, 1000), (32, 8, hubBase), (40, 8, hubBase + 64)])
   let p := parseProfile profileBytes
   ⟨c, s, x, p, (by unfold Starts; decide +kernel)⟩,
   let c : Cmd := cm 7 4 [15]
   let s : State := at0 (streamUp true []) c
   ⟨c, s, (by unfold Starts Shaped; decide +kernel)⟩,
   let c : Cmd := cm 7 4 [15]
   let s : State := at0 (up) c
   ⟨c, s, (by unfold Starts; decide +kernel)⟩,
   let s : State := (inMode .replay).onRec fun r => { r with replay := some {} }
   ⟨s, (by decide +kernel)⟩,
   let c : Cmd := cm 7 1 [] streamBytes
   let s : State := at0 up c
   ⟨s, (by decide +kernel)⟩,
   let s : State := up
   let port : Nat := 7
   let vc : Nat := 15
   ⟨s, port, vc, (by decide +kernel)⟩,
   let s : State := up
   let port : Nat := 7
   let vc : Nat := 15
   let dt : Nat := 0x2A
   ⟨s, port, vc, dt, (by decide +kernel)⟩,
   let s : State := streamUp true []
   let port : Nat := 7
   let vc : Nat := 15
   let i : Nat := 15
   let x : StreamCfg := parseStream streamBytes
   ⟨s, port, vc, i, x, (by unfold Shaped Uninjected; decide +kernel)⟩,
   let s : State := streamUp true []
   let port : Nat := 7
   let vc : Nat := 15
   let i : Nat := 15
   ⟨s, port, vc, i, (by decide +kernel)⟩,
   let s : State := streamUp true [frame1]
   let port : Nat := 7
   let vc : Nat := 15
   let i : Nat := 15
   let f : Frame := frame1
   ⟨s, port, vc, i, f, (by decide +kernel)⟩,
   let s : State := streamUp true [frame1]
   let port : Nat := 7
   let vc : Nat := 15
   let dt : Nat := 0x2A
   let i : Nat := 15
   let d : List Byte := List.replicate 16 5
   let x : StreamCfg := parseStream streamBytes
   let f : Frame := frame1
   ⟨s, port, vc, dt, i, d, x, f, (by decide +kernel)⟩,
   let s : State := up
   let dt : Nat := 0x3F
   ⟨s, dt, (by decide +kernel)⟩,
   let s : State := streamUp true []
   let port : Nat := 7
   let vc : Nat := 15
   let dt : Nat := 0x2A
   let i := 15
   ⟨s, port, vc, dt, i, (by decide +kernel)⟩,
   let s : State := streamUp true [{ frame1 with resolved := some 1 }]
   let port : Nat := 7
   let vc : Nat := 15
   let dt : Nat := 0x2A
   let d : List Byte := []
   let i := 15
   let f := { frame1 with resolved := some 1 }
   ⟨s, port, vc, dt, d, i, f, (by decide +kernel)⟩,
   let s : State := streamUp true [frame1]
   let port : Nat := 7
   let vc : Nat := 15
   let dt : Nat := 0x2A
   let i : Nat := 15
   let d : List Byte := List.replicate 16 5
   let f : Frame := frame1
   ⟨s, port, vc, dt, d, i, f, (by decide +kernel)⟩,
   let s : State := streamUp true [{ frame1 with lines := 0 }]
   let port : Nat := 7
   let vc : Nat := 15
   let dt : Nat := 0x2A
   let d : List Byte := []
   let i := 15
   let f := { frame1 with lines := 0 }
   ⟨s, port, vc, dt, d, i, f, (by decide +kernel)⟩,
   let s : State := up
   let port : Nat := 7
   let vc : Nat := 15
   let dt : Nat := 0x2A
   ⟨s, port, vc, dt, (by decide +kernel)⟩,
   let s : State := streamUp true [{ frame1 with lines := 16 }]
   let port : Nat := 7
   let vc : Nat := 15
   let i : Nat := 15
   let f : Frame := { frame1 with lines := 16 }
   ⟨s, port, vc, i, f, (by decide +kernel)⟩,
   let s : State := streamUp true [frame1]
   let port : Nat := 7
   let vc : Nat := 15
   let i : Nat := 15
   let f : Frame := frame1
   ⟨s, port, vc, i, f, (by decide +kernel)⟩,
   let s : State := streamUp true [frame1]
   let dt : Nat := 0x2A
   ⟨s, dt, (by decide +kernel)⟩,
   let s : State := streamUp true [{ frame1 with pipe := none }]
   let u : Nat := 0
   let i : Nat := 15
   let f : Frame := { frame1 with pipe := none }
   ⟨s, u, i, f, (by decide +kernel)⟩,
   let s : State := streamUp true [{ frame1 with pipe := none }]
   let u : Nat := 0
   let i : Nat := 15
   let f : Frame := { frame1 with pipe := none }
   let g : Nat × Frame := (15, { frame1 with pipe := none })
   ⟨s, u, i, f, g, (by decide +kernel)⟩,
   let c : Cmd := cm 7 1 [] streamBytes
   let s : State := at0 up c
   ⟨s, (by decide +kernel)⟩,
   let s : State := streamUp true [{ frame1 with ended := true, startLink := 1000, budget := 1 }]
   let i : Nat := 15
   let q : Nat := 3
   let f : Frame := { frame1 with ended := true, startLink := 1000, budget := 1 }
   ⟨s, i, q, f, (by decide +kernel)⟩,
   let s : State := (streamUp true [{ frame1 with ended := true, startLink := 1000, budget := 1 }]).onStream 15 fun x
      => { x with cfg := some { parseStream streamBytes with bufs := [targetBase] } }
   let i : Nat := 15
   let q : Nat := 3
   let f : Frame := { frame1 with ended := true, startLink := 1000, budget := 1 }
   ⟨s, i, q, f, (by decide +kernel)⟩,
   let s : State := streamUp true [{ frame1 with ended := true, startLink := 1000, budget := 1 }]
   let i : Nat := 15
   let q : Nat := 3
   let f : Frame := { frame1 with ended := true, startLink := 1000, budget := 1 }
   ⟨s, i, q, f, (by decide +kernel)⟩,
   let s : State := streamUp true [{ frame1 with ended := true }]
   let i : Nat := 15
   let q : Nat := 3
   let f : Frame := { frame1 with ended := true }
   ⟨s, i, q, f, (by decide +kernel)⟩,
   let s : State := up
   let i : Nat := 15
   let q : Nat := 3
   ⟨s, i, q, (by decide +kernel)⟩,
   let s : State := streamUp true [{ frame1 with resolved := some 1 }]
   let i : Nat := 15
   let q : Nat := 3
   let f : Frame := { frame1 with resolved := some 1 }
   ⟨s, i, q, f, (by decide +kernel)⟩,
   let s : State := streamUp true [{ frame1 with startLink := 1000, budget := 1 }]
   let i : Nat := 15
   let q : Nat := 3
   let f : Frame := { frame1 with startLink := 1000, budget := 1 }
   ⟨s, i, q, f, (by decide +kernel)⟩,
   let s : State := streamUp true [{ frame1 with startLink := 1000, budget := 1 }]
   let i : Nat := 15
   let q : Nat := 3
   let f : Frame := { frame1 with startLink := 1000, budget := 1 }
   ⟨s, i, q, f, (by decide +kernel)⟩,
   let s : State := streamUp true [{ frame1 with ended := true }]
   let i : Nat := 15
   let q : Nat := 3
   let f : Frame := { frame1 with ended := true }
   ⟨s, i, q, f, (by decide +kernel)⟩,
   let s : State := up
   let u : Nat := 4
   ⟨s, u, (by decide +kernel)⟩,
   let s : State := streamUp true [{ frame1 with pipe := none }]
   let u : Nat := 0
   ⟨s, u, (by decide +kernel)⟩,
   let n : Nat := 4
   ⟨n, (by decide +kernel)⟩,
   let n : Nat := 3
   ⟨n, (by decide +kernel)⟩⟩

theorem witness_LinesCarryCommandsAndSamples :
    (∃ (c : Cmd) (s : State), Starts 8 1 c s ∧ Shaped s ∧ (s.dev.mode = .config ∨ s.dev.mode = .test) ∧ c.word 0 %
      65536 ≠ 0 ∧ (∀ l ∈ maskLines (c.word 0 % 65536), (s.line l).state ≠ .running ∧ (s.line l).state ≠ .training)) ∧
    (∃ (c : Cmd) (s : State), Starts 8 1 c s ∧ s.dev.mode ≠ .config ∧ s.dev.mode ≠ .test) ∧
    (∃ (c : Cmd) (s : State),
      let ls := maskLines (c.word 0 % 65536)
      Starts 8 1 c s ∧ (s.dev.mode = .config ∨ s.dev.mode = .test) ∧ (∃ l ∈ ls, (s.line l).state = .running ∨ (s.line
      l).state = .training)) ∧
    (∃ (c : Cmd) (s : State), Starts 8 1 c s ∧ (s.dev.mode = .config ∨ s.dev.mode = .test) ∧ c.word 0 % 65536 = 0) ∧
    (∃ (s : State) (l : Nat), (s.line l).state ≠ .training) ∧
    (∃ (s : State) (l : Nat), Shaped s ∧ l < 16 ∧ (s.line l).state = .training) ∧
    (∃ (c : Cmd) (s : State),
      let l := fieldAt c.data 0 1
      let n := 4 * l + fieldAt c.data 1 1
      Starts 8 2 c s ∧ s.dev.mode = .config ∧ (s.line l).state ≠ .running ∧ nodeLimit c.data = false ∧ s.nodeBad
      c.data n = false) ∧
    (∃ (c : Cmd) (s : State), Starts 8 2 c s ∧ s.dev.mode ≠ .config) ∧
    (∃ (c : Cmd) (s : State),
      let l := fieldAt c.data 0 1
      Starts 8 2 c s ∧ s.dev.mode = .config ∧ (s.line l).state = .running) ∧
    (∃ (c : Cmd) (s : State),
      let l := fieldAt c.data 0 1
      Starts 8 2 c s ∧ s.dev.mode = .config ∧ (s.line l).state ≠ .running ∧ nodeLimit c.data = true) ∧
    (∃ (c : Cmd) (s : State),
      let l := fieldAt c.data 0 1
      let n := 4 * l + fieldAt c.data 1 1
      Starts 8 2 c s ∧ s.dev.mode = .config ∧ (s.line l).state ≠ .running ∧ nodeLimit c.data = false ∧ s.nodeBad
      c.data n = true) ∧
    (∃ (c : Cmd) (s : State), Starts 8 3 c s ∧ s.dev.mode ≠ .config ∧ s.dev.mode ≠ .test) ∧
    (∃ (c : Cmd) (s : State), Starts 8 3 c s ∧ (s.dev.mode = .config ∨ s.dev.mode = .test) ∧ (∃ l ∈ maskLines (c.word
      0), s.lineReady l = false)) ∧
    (∃ (c : Cmd) (s : State), Starts 8 4 c s ∧ s.running = true) ∧
    (∃ (c : Cmd) (s : State), Starts 8 3 c s ∧ Shaped s ∧ (s.dev.mode = .config ∨ s.dev.mode = .test) ∧ (∀ l ∈
      maskLines (c.word 0), s.lineReady l = true)) ∧
    (∃ (c : Cmd) (s : State), Starts 8 4 c s ∧ Shaped s ∧ s.running = false) ∧
    (∃ (s : State), Shaped s ∧ Uninjected s) ∧
    (∃ (s : State) (l : Nat), (s.line l).state = .running ∧ (s.line l).upDone = false ∧ s.replaying = false ∧
      Uninjected s) ∧
    (∃ (s : State) (l : Nat), ((s.line l).state ≠ .running ∨ (s.line l).upDone = true ∨ s.replaying = true)) ∧
    (∃ (s : State) (l : Nat) (w : Nat) (j : Inject), (s.line l).state = .running ∧ (s.line l).upDone = false ∧
      s.replaying = false ∧ (s.inject 3 l 1).1 = some (w, j)) ∧
    (∃ (s : State) (n : Nat) (d : List Byte) (ok : Bool),
      let crcOk := decide (d.length = 48) && decide (fieldAt d 44 4 = crc32c (d.take 44))
      let inTurn := match (s.node n).refCounter with | none => true | some (v, l) => decide (fieldAt d 40 2 = (v +
        (s.tb.link - l)) % 65536)
      Shaped s ∧ n < 64 ∧ ok = true ∧ crcOk = true ∧ bitAt (fieldAt d 38 2) 0 = true ∧ inTurn = true) ∧
    (∃ (s : State) (n : Nat) (d : List Byte) (ok : Bool),
      let crcOk := decide (d.length = 48) && decide (fieldAt d 44 4 = crc32c (d.take 44))
      let inTurn := match (s.node n).refCounter with | none => true | some (v, l) => decide (fieldAt d 40 2 = (v +
        (s.tb.link - l)) % 65536)
      Shaped s ∧ n < 64 ∧ (ok = false ∨ crcOk = false ∨ bitAt (fieldAt d 38 2) 0 = false ∨ inTurn = false)) ∧
    (∃ (s : State) (l : Nat), Shaped s ∧ l < 16 ∧ (s.line l).state = .running) ∧
    (∃ (s : State) (l : Nat), Shaped s ∧ l < 16 ∧ (s.line l).state = .running ∧ (s.line l).missRun < 3) ∧
    (∃ (s : State) (l : Nat), Shaped s ∧ l < 16 ∧ (s.line l).state = .running ∧ (s.line l).missRun = 3) ∧
    (∃ (s : State) (l : Nat), Shaped s ∧ l < 16 ∧ (s.line l).state = .running ∧ 3 < (s.line l).missRun) ∧
    (∃ (s : State) (l : Nat), (s.line l).state ≠ .running) ∧
    (∃ (s : State), Shaped s) :=
  ⟨let c : Cmd := cm 8 1 [0x8001]
   let s : State := at0 up c
   ⟨c, s, (by unfold Starts Shaped; decide +kernel)⟩,
   let c : Cmd := cm 8 1 [1]
   let s : State := at0 (inMode .run) c
   ⟨c, s, (by unfold Starts; decide +kernel)⟩,
   let c : Cmd := cm 8 1 [0x8000]
   let s : State := at0 (lineUp 0) c
   ⟨c, s, (by unfold Starts; decide +kernel)⟩,
   let c : Cmd := cm 8 1 [0]
   let s : State := at0 (up) c
   ⟨c, s, (by unfold Starts; decide +kernel)⟩,
   let s : State := lineUp 0
   let l : Nat := 15
   ⟨s, l, (by decide +kernel)⟩,
   let s : State := training
   let l : Nat := 15
   ⟨s, l, (by unfold Shaped; decide +kernel)⟩,
   let c : Cmd := cm 8 2 [] (record 32 [(0, 1, 15), (1, 1, 3), (2, 1, 0xFF)])
   let s : State := at0 up c
   ⟨c, s, (by unfold Starts; decide +kernel)⟩,
   let c : Cmd := cm 8 2 [] (record 32 [(0, 1, 15), (1, 1, 3), (2, 1, 0xFF)])
   let s : State := at0 (inMode .run) c
   ⟨c, s, (by unfold Starts; decide +kernel)⟩,
   let c : Cmd := cm 8 2 [] (record 32 [(0, 1, 15), (1, 1, 3), (2, 1, 0xFF)])
   let s : State := at0 (lineUp 0) c
   ⟨c, s, (by unfold Starts; decide +kernel)⟩,
   let c : Cmd := cm 8 2 [] (record 32 [(0, 1, 16)])
   let s : State := at0 (up) c
   ⟨c, s, (by unfold Starts; decide +kernel)⟩,
   let c : Cmd := cm 8 2 [] (record 32 [(0, 1, 15), (1, 1, 3), (2, 1, 0xFF), (31, 1, 1)])
   let s : State := at0 (up) c
   ⟨c, s, (by unfold Starts; decide +kernel)⟩,
   let c : Cmd := cm 8 3 [1]
   let s : State := at0 (inMode .run) c
   ⟨c, s, (by unfold Starts; decide +kernel)⟩,
   let c : Cmd := cm 8 3 [0x8000]
   let s : State := at0 (up) c
   ⟨c, s, (by unfold Starts; decide +kernel)⟩,
   let c : Cmd := cm 8 4 [0x8000]
   let s : State := at0 (inMode .run) c
   ⟨c, s, (by unfold Starts; decide +kernel)⟩,
   let c : Cmd := cm 8 3 [0x8000]
   let s : State := at0 lineReadyUp c
   ⟨c, s, (by unfold Starts Shaped; decide +kernel)⟩,
   let c : Cmd := cm 8 4 [0x8000]
   let s : State := at0 (lineUp 0) c
   ⟨c, s, (by unfold Starts Shaped; decide +kernel)⟩,
   let s : State := lineUp 0
   ⟨s, (by unfold Shaped Uninjected; decide +kernel)⟩,
   let s : State := lineUp 0
   let l : Nat := 15
   ⟨s, l, (by unfold Uninjected; decide +kernel)⟩,
   let s : State := training
   let l : Nat := 15
   ⟨s, l, (by decide +kernel)⟩,
   let s : State :=
      { lineUp 0 with fi := up.fi.set 15 { armed := true, target := 3, index := 15, dir := 1, action := 1, trigger := 2, value := 1 } }
   let l : Nat := 15
   let w : Nat := 15
   let j : Inject :=
      { armed := true, target := 3, index := 15, dir := 1, action := 1, trigger := 2, value := 1, units := 1, done := 1, injected := 1 }
   ⟨s, l, w, j, (by decide +kernel)⟩,
   let s : State := lineUp 0
   let n : Nat := 63
   let d : List Byte := slotBytes
   let ok : Bool := true
   ⟨s, n, d, ok, (by unfold Shaped; decide +kernel)⟩,
   let s : State := lineUp 0
   let n : Nat := 63
   let d : List Byte := slotBytes
   let ok : Bool := false
   ⟨s, n, d, ok, (by unfold Shaped; decide +kernel)⟩,
   let s : State := lineUp 0
   let l : Nat := 15
   ⟨s, l, (by unfold Shaped; decide +kernel)⟩,
   let s : State := lineUp 0
   let l : Nat := 15
   ⟨s, l, (by unfold Shaped; decide +kernel)⟩,
   let s : State := lineUp 3
   let l : Nat := 15
   ⟨s, l, (by unfold Shaped; decide +kernel)⟩,
   let s : State := lineUp 4
   let l : Nat := 15
   ⟨s, l, (by unfold Shaped; decide +kernel)⟩,
   let s : State := training
   let l : Nat := 15
   ⟨s, l, (by decide +kernel)⟩,
   let c : Cmd := cm 8 1 [0x8001]
   let s : State := at0 up c
   ⟨s, (by unfold Shaped; decide +kernel)⟩⟩

theorem witness_CanControllersFollowTheirCommands :
    (∃ (c : Cmd) (s : State),
      let k := c.word 0 % 4
      Starts 9 1 c s ∧ (s.canAt k).mode ≠ 0) ∧
    (∃ (c : Cmd) (s : State),
      let k := c.word 0 % 4
      Starts 9 1 c s ∧ (s.canAt k).mode = 0 ∧ canConfigStatus (activeBankOf (s.canAt k)) c.data = stOk) ∧
    (∃ (c : Cmd) (s : State),
      let k := c.word 0 % 4
      Starts 9 1 c s ∧ (s.canAt k).mode = 0 ∧ canConfigStatus (activeBankOf (s.canAt k)) c.data ≠ stOk) ∧
    (∃ (c : Cmd) (s : State),
      let k := c.word 0 % 4
      let x := s.canAt k
      Starts 9 2 c s ∧ Shaped s ∧ canFiltersStatus x.fifo0.size x.fifo1.size c.data = stOk ∧ x.switchPending = false) ∧
    (∃ (c : Cmd) (s : State),
      let x := s.canAt (c.word 0 % 4)
      let st := canFiltersStatus x.fifo0.size x.fifo1.size c.data
      Starts 9 2 c s ∧ st ≠ stOk) ∧
    (∃ (c : Cmd) (s : State),
      let x := s.canAt (c.word 0 % 4)
      let st := canFiltersStatus x.fifo0.size x.fifo1.size c.data
      Starts 9 2 c s ∧ st = stOk ∧ x.switchPending = true) ∧
    (∃ (s : State) (k : Nat), (s.canAt k).switchPending = true) ∧
    (∃ (s : State) (k : Nat), (s.canAt k).switchPending = false) ∧
    (∃ (c : Cmd) (s : State),
      let m := c.word 1 % 8
      Starts 9 4 c s ∧ 4 < m) ∧
    (∃ (c : Cmd) (s : State),
      let m := c.word 1 % 8
      Starts 9 4 c s ∧ m ≤ 4 ∧ s.canModeAllowed m = false) ∧
    (∃ (c : Cmd) (s : State),
      let x := s.canAt (c.word 0 % 4)
      let m := c.word 1 % 8
      Starts 9 4 c s ∧ s.canModeAllowed m = true ∧ (m = 1 ∨ m = 3 ∨ m = 4) ∧ x.configured = false) ∧
    (∃ (c : Cmd) (s : State),
      let x := s.canAt (c.word 0 % 4)
      let m := c.word 1 % 8
      Starts 9 4 c s ∧ m ≤ 4 ∧ s.canModeAllowed m = true ∧ (m = 1 ∨ m = 3 ∨ m = 4 → x.configured = true) ∧ x.request ≠
      none) ∧
    (∃ (c : Cmd) (s : State),
      let k := c.word 0 % 4
      let m := c.word 1 % 8
      Starts 9 4 c s ∧ m ≤ 4 ∧ s.canModeAllowed m = true ∧ (m = 1 ∨ m = 3 ∨ m = 4 → (s.canAt k).configured = true) ∧
      (s.canAt k).request = none) ∧
    (∃ (s : State) (k : Nat) (m : Nat), k < 4 ∧ Shaped s ∧ (s.canAt k).request = some m) ∧
    (∃ (s : State) (k : Nat), (s.canAt k).request = none) ∧
    (∃ (c : Cmd) (s : State),
      let k := c.word 0 % 4
      Starts 9 3 c s ∧ (s.canAt k).mode ≠ 1 ∧ (s.canAt k).mode ≠ 4) ∧
    (∃ (c : Cmd) (s : State),
      let k := c.word 0 % 4
      Starts 9 3 c s ∧ ((s.canAt k).mode = 1 ∨ (s.canAt k).mode = 4) ∧ s.freeTx k = none) ∧
    (∃ (c : Cmd) (s : State),
      let k := c.word 0 % 4
      Starts 9 3 c s ∧ ((s.canAt k).mode = 1 ∨ (s.canAt k).mode = 4) ∧ s.freeTx k ≠ none ∧ txElemBad (s.canAt k)
      c.data = true) ∧
    (∃ (c : Cmd) (s : State) (b : Nat),
      let k := c.word 0 % 4
      Starts 9 3 c s ∧ ((s.canAt k).mode = 1 ∨ (s.canAt k).mode = 4) ∧ s.freeTx k = some b ∧ txElemBad (s.canAt k)
      c.data = false) ∧
    (∃ (s : State) (k : Nat) (b : Nat), ((s.canAt k).mode = 1 ∨ (s.canAt k).mode = 4) ∧ (s.canAt k).errState ≠ 2 ∧
      (s.canAt k).noStart = false ∧ (s.canAt k).forcedRecessive = false ∧ (s.canAt k).sending = none ∧ (s.canCtrl = k
      → 31 ∉ s.txReady k) ∧ bestTx (s.canAt k) (s.txReady k) = some b) ∧
    (∃ (s : State) (k : Nat) (b : Nat) (o : _), ((s.canAt k).mode = 1 ∨ (s.canAt k).mode = 4) ∧ (s.canAt k).errState ≠
      2 ∧ (s.canAt k).noStart = false ∧ (s.canAt k).forcedRecessive = false ∧ (s.canAt k).sending = none ∧ (s.canCtrl
      = k → 31 ∉ s.txReady k) ∧ bestTx (s.canAt k) (s.txReady k) = some b ∧ o ∈ s.txReady k) ∧
    (∃ (s : State) (k : Nat), (((s.canAt k).mode ≠ 1 ∧ (s.canAt k).mode ≠ 4) ∨ (s.canAt k).errState = 2 ∨ (s.canAt
      k).noStart = true ∨ (s.canAt k).forcedRecessive = true ∨ (s.canAt k).sending ≠ none ∨ s.txReady k = [])) ∧
    (∃ (s : State) (k : Nat), s.canCtrl = k ∧ ((s.canAt k).mode = 1 ∨ (s.canAt k).mode = 4) ∧ (s.canAt k).errState ≠ 2
      ∧ (s.canAt k).noStart = false ∧ (s.canAt k).forcedRecessive = false ∧ (s.canAt k).sending = none ∧ 31 ∈
      s.txReady k) ∧
    (∃ (s : State) (k : Nat) (b : Nat) (ts : Nat) (d : Option Nat), k < 4 ∧ Shaped s ∧ Uninjected s ∧ b < (s.canAt
      k).tx.length ∧ (s.canAt k).sending = some (b, ts) ∧ ((s.canAt k).compensated b = true → (s.canAt k).tdcFails d =
      false)) ∧
    (∃ (s : State) (k : Nat) (b : Nat) (ts : Nat) (d : Option Nat), (s.canAt k).sending = some (b, ts) ∧ (s.canAt
      k).compensated b = true ∧ (s.canAt k).tdcFails d = true) ∧
    (∃ (s : State) (k : Nat) (b : Nat) (ts : Nat) (d : Option Nat) (w : Nat) (j : Inject) (u : State), (s.canAt
      k).sending = some (b, ts) ∧ ((s.canAt k).compensated b = true → (s.canAt k).tdcFails d = false) ∧ (if (s.canAt
      k).compensated b then s.onCan k fun x => { x with loopDelay := d.getD 0 } else s).inject 4 k 0 = (some (w, j),
      u) ∧ j.action = 1) ∧
    (∃ (s : State) (k : Nat) (b : Nat) (ts : Nat) (d : Option Nat) (w : Nat) (j : Inject) (u : State), (s.canAt
      k).sending = some (b, ts) ∧ ((s.canAt k).compensated b = true → (s.canAt k).tdcFails d = false) ∧ (if (s.canAt
      k).compensated b then s.onCan k fun x => { x with loopDelay := d.getD 0 } else s).inject 4 k 0 = (some (w, j),
      u) ∧ j.action = 2) ∧
    (∃ (s : State) (k : Nat) (b : Nat) (ts : Nat) (d : Option Nat) (w : Nat) (j : Inject) (u : State), (s.canAt
      k).sending = some (b, ts) ∧ ((s.canAt k).compensated b = true → (s.canAt k).tdcFails d = false) ∧ (if (s.canAt
      k).compensated b then s.onCan k fun x => { x with loopDelay := d.getD 0 } else s).inject 4 k 0 = (some (w, j),
      u) ∧ j.action ≠ 1 ∧ j.action ≠ 2) ∧
    (∃ (s : State) (k : Nat), (s.canAt k).sending = none) ∧
    (∃ (s : State) (k : Nat) (f : CanFrame), s.canRecovery = false ∧ s.up = true ∧ (s.canAt k).hears f = true) ∧
    (∃ (s : State) (k : Nat) (f : CanFrame), (s.canRecovery = false ∨ k ≠ 0) ∧ (s.up = false ∨ (s.canAt k).hears f =
      false)) ∧
    (∃ (s : State) (k : Nat) (f : CanFrame), k ≠ 0 ∧ s.up = true ∧ (s.canAt k).hears f = true) ∧
    (∃ (s : State) (f : CanFrame), s.canRecovery = true ∧ f.id = 0x7E0 ∧ f.xtd = false ∧ f.fdf = true ∧ f.brs = true ∧
      f.data.length = 64) ∧
    (∃ (s : State) (f : CanFrame), s.canRecovery = true ∧ (f.id ≠ 0x7E0 ∨ f.xtd = true ∨ f.fdf = false ∨ f.brs = false
      ∨ f.data.length ≠ 64)) ∧
    (∃ (q : RxFifo), q.fill < q.size ∧ q.size ≤ q.elems.length ∧ q.put < q.size) ∧
    (∃ (q : RxFifo), q.fill = q.size) ∧
    (∃ (s : State) (k : Nat), k < 4 ∧ Shaped s ∧ (s.canAt k).mode = 1 ∧ (s.canAt k).errState = 0) ∧
    (∃ (s : State) (k : Nat), k < 4 ∧ Shaped s ∧ ((s.canAt k).mode = 1 ∨ (s.canAt k).mode = 4) ∧ (s.canAt k).errState
      ≠ 2) ∧
    (∃ (s : State) (k : Nat), k < 4 ∧ Shaped s ∧ ((s.canAt k).mode ≠ 1 ∧ (s.canAt k).mode ≠ 4 ∨ (s.canAt k).errState =
      2)) ∧
    (∃ (s : State) (k : Nat), k < 4 ∧ Shaped s ∧ (s.canAt k).errState ≠ 2 ∧ 255 < (s.canAt k).tecCount) ∧
    (∃ (s : State) (k : Nat), ((s.canAt k).errState = 2 ∨ (s.canAt k).tecCount ≤ 255)) ∧
    (∃ (s : State) (k : Nat), ((s.canAt k).errState ≠ 2 ∨ (s.canAt k).recovering = false)) ∧
    (∃ (s : State) (k : Nat), (s.canAt k).mode = 0) ∧
    (∃ (s : State) (k : Nat), (s.canAt k).mode ≠ 1 ∧ (s.canAt k).mode ≠ 4) ∧
    (∃ (s : State) (k : Nat), k < 4 ∧ Shaped s ∧ (s.canAt k).errState = 2 ∧ (s.canAt k).recovering = true) ∧
    (∃ (s : State) (k : Nat), k < 4 ∧ Shaped s ∧ (s.canAt k).mode ≠ 0) ∧
    (∃ (s : State) (k : Nat), ((s.canAt k).mode = 1 ∨ (s.canAt k).mode = 4)) :=
  ⟨let c : Cmd := cm 9 1 [3] canBytes
   let s : State := at0 (canUp none none) c
   ⟨c, s, (by unfold Starts; decide +kernel)⟩,
   let c : Cmd := cm 9 1 [3] canBytes
   let s : State := at0 up c
   ⟨c, s, (by unfold Starts; decide +kernel)⟩,
   let c : Cmd := cm 9 1 [3] (record 32 [])
   let s : State := at0 (up) c
   ⟨c, s, (by unfold Starts; decide +kernel)⟩,
   let c : Cmd := cm 9 2 [3] filterBytes
   let s : State := at0 (canUp none none) c
   ⟨c, s, (by unfold Starts Shaped; decide +kernel)⟩,
   let c : Cmd := cm 9 2 [3] (record 32 [(0, 1, 200)])
   let s : State := at0 (up) c
   ⟨c, s, (by unfold Starts; decide +kernel)⟩,
   let c : Cmd := cm 9 2 [3] filterBytes
   let s : State := at0 ((canUp none none).onCan 3 fun c => { c with switchPending := true }) c
   ⟨c, s, (by unfold Starts; decide +kernel)⟩,
   let s : State := (canUp none none).onCan 3 (fun x => { x with switchPending := true })
   let k : Nat := 3
   ⟨s, k, (by decide +kernel)⟩,
   let c : Cmd := cm 9 1 [3] canBytes
   let s : State := at0 (canUp none none) c
   let k : Nat := c.word 0 % 4
   ⟨s, k, (by decide +kernel)⟩,
   let c : Cmd := cm 9 4 [3, 5]
   let s : State := at0 (up) c
   ⟨c, s, (by unfold Starts; decide +kernel)⟩,
   let c : Cmd := cm 9 4 [3, 3]
   let s : State := at0 (inMode .run) c
   ⟨c, s, (by unfold Starts; decide +kernel)⟩,
   let c : Cmd := cm 9 4 [3, 1]
   let s : State := at0 (up) c
   ⟨c, s, (by unfold Starts; decide +kernel)⟩,
   let c : Cmd := cm 9 4 [3, 0]
   let s : State := at0 (canUp (some 0) none) c
   ⟨c, s, (by unfold Starts; decide +kernel)⟩,
   let c : Cmd := cm 9 4 [3, 1]
   let s : State := at0 (canUp none none) c
   ⟨c, s, (by unfold Starts; decide +kernel)⟩,
   let s : State := canUp (some 0) none
   let k : Nat := 3
   let m : Nat := 0
   ⟨s, k, m, (by unfold Shaped; decide +kernel)⟩,
   let c : Cmd := cm 9 1 [3] canBytes
   let s : State := at0 (canUp none none) c
   let k : Nat := c.word 0 % 4
   ⟨s, k, (by decide +kernel)⟩,
   let c : Cmd := cm 9 3 [3] canElem
   let s : State := at0 (up) c
   ⟨c, s, (by unfold Starts; decide +kernel)⟩,
   let c : Cmd := cm 9 3 [3] canElem
   let s : State := at0 ((canUp none none).onCan 3 fun c =>
      { c with tx := c.tx.map fun t => { t with pending := true } }) c
   ⟨c, s, (by unfold Starts; decide +kernel)⟩,
   let c : Cmd := cm 9 3 [3] (record 72 [(0, 4, 2 ^ 31)])
   let s : State := at0 (canUp none none) c
   ⟨c, s, (by unfold Starts; decide +kernel)⟩,
   let c : Cmd := cm 9 3 [3] canElem
   let s : State := at0 (canUp none none) c
   let b : Nat := 0
   ⟨c, s, b, (by unfold Starts; decide +kernel)⟩,
   let s : State := canUp none none
   let k : Nat := 3
   let b : Nat := 2
   ⟨s, k, b, (by decide +kernel)⟩,
   let s : State := canUp none none
   let k : Nat := 3
   let b : Nat := 2
   let o : Nat := 1
   ⟨s, k, b, o, (by decide +kernel)⟩,
   let c : Cmd := cm 9 1 [3] canBytes
   let s : State := at0 up c
   let k : Nat := c.word 0 % 4
   ⟨s, k, (by decide +kernel)⟩,
   let s : State := ((canUp none none).onAsz fun a =>
      { a with paramsValid := true, params := record 832 [(1, 1, 3)] }).onCan 3 (fun x =>
      { x with tx := x.tx.set 31 { elem := canElem, pending := true } })
   let k : Nat := 3
   ⟨s, k, (by decide +kernel)⟩,
   let s : State := canUp none (some (2, 65536000))
   let k : Nat := 3
   let b : Nat := 2
   let ts : Nat := 65536000
   let d : Option Nat := none
   ⟨s, k, b, ts, d, (by unfold Shaped Uninjected; decide +kernel)⟩,
   let s : State := (canUp none (some (2, 65536000))).onCan 3 fun c =>
      { c with dataTiming := 2 ^ 24, tx := c.tx.set 2 { elem := record 72 [(4, 4, 48)], pending := true } }
   let k : Nat := 3
   let b : Nat := 2
   let ts : Nat := 65536000
   let d : Option Nat := none
   ⟨s, k, b, ts, d, (by decide +kernel)⟩,
   let s : State :=
      { canUp none (some (2, 65536000)) with fi := up.fi.set 15 { armed := true, target := 4, index := 3, dir := 0, action := 1, trigger := 2, value := 1 } }
   let k : Nat := 3
   let b : Nat := 2
   let ts : Nat := 65536000
   let d : Option Nat := none
   let w : Nat := 15
   let j : Inject :=
      { armed := true, target := 4, index := 3, dir := 0, action := 1, trigger := 2, value := 1, units := 1, done := 1, injected := 1 }
   let u : State := (s.inject 4 3 0).2
   ⟨s, k, b, ts, d, w, j, u, ⟨(by decide +kernel), (by decide +kernel), (by rw [if_neg (by decide +kernel)]; exact Prod.ext (by decide +kernel) rfl), (by decide +kernel)⟩⟩,
   let s : State :=
      { canUp none (some (2, 65536000)) with fi := up.fi.set 15 { armed := true, target := 4, index := 3, dir := 0, action := 2, trigger := 2, value := 1 } }
   let k : Nat := 3
   let b : Nat := 2
   let ts : Nat := 65536000
   let d : Option Nat := none
   let w : Nat := 15
   let j : Inject :=
      { armed := true, target := 4, index := 3, dir := 0, action := 2, trigger := 2, value := 1, units := 1, done := 1, injected := 1 }
   let u : State := (s.inject 4 3 0).2
   ⟨s, k, b, ts, d, w, j, u, ⟨(by decide +kernel), (by decide +kernel), (by rw [if_neg (by decide +kernel)]; exact Prod.ext (by decide +kernel) rfl), (by decide +kernel)⟩⟩,
   let s : State :=
      { canUp none (some (2, 65536000)) with fi := up.fi.set 15 { armed := true, target := 4, index := 3, dir := 0, action := 3, trigger := 2, value := 1 } }
   let k : Nat := 3
   let b : Nat := 2
   let ts : Nat := 65536000
   let d : Option Nat := none
   let w : Nat := 15
   let j : Inject :=
      { armed := true, target := 4, index := 3, dir := 0, action := 3, trigger := 2, value := 1, units := 1, done := 1, injected := 1 }
   let u : State := (s.inject 4 3 0).2
   ⟨s, k, b, ts, d, w, j, u, ⟨(by decide +kernel), (by decide +kernel), (by rw [if_neg (by decide +kernel)]; exact Prod.ext (by decide +kernel) rfl), (by decide +kernel)⟩⟩,
   let c : Cmd := cm 9 1 [3] canBytes
   let s : State := at0 (canUp none none) c
   let k : Nat := c.word 0 % 4
   ⟨s, k, (by decide +kernel)⟩,
   let s : State := canUp none none
   let k : Nat := 3
   let f : CanFrame := { id := 0x123, dlc := 1, data := [7] }
   ⟨s, k, f, (by decide +kernel)⟩,
   let s : State := inMode .start
   let k : Nat := 3
   let f : CanFrame := {}
   ⟨s, k, f, (by decide +kernel)⟩,
   let s : State := canUp none none
   let k : Nat := 3
   let f : CanFrame := { id := 0x123, dlc := 1, data := [7] }
   ⟨s, k, f, (by decide +kernel)⟩,
   let s : State := (inMode .recovery).onDev fun d => { d with bootsel := 2 }
   let f : CanFrame := { id := 0x7E0, fdf := true, brs := true, data := List.replicate 64 0 }
   ⟨s, f, (by decide +kernel)⟩,
   let s : State := (inMode .recovery).onDev fun d => { d with bootsel := 2 }
   let f : CanFrame := {}
   ⟨s, f, (by decide +kernel)⟩,
   let q : RxFifo := { size := 4, fill := 3, put := 3 }
   ⟨q, (by decide +kernel)⟩,
   let q : RxFifo := { size := 4, fill := 4 }
   ⟨q, (by decide +kernel)⟩,
   let c : Cmd := cm 9 1 [3] canBytes
   let s : State := at0 (canUp none none) c
   let k : Nat := c.word 0 % 4
   ⟨s, k, (by unfold Shaped; decide +kernel)⟩,
   let c : Cmd := cm 9 1 [3] canBytes
   let s : State := at0 (canUp none none) c
   let k : Nat := c.word 0 % 4
   ⟨s, k, (by unfold Shaped; decide +kernel)⟩,
   let c : Cmd := cm 9 1 [3] canBytes
   let s : State := at0 up c
   let k : Nat := c.word 0 % 4
   ⟨s, k, (by unfold Shaped; decide +kernel)⟩,
   let s : State := (canUp none none).onCan 3 (fun c => { c with tecCount := 256, errState := 1 })
   let k : Nat := 3
   ⟨s, k, (by unfold Shaped; decide +kernel)⟩,
   let c : Cmd := cm 9 1 [3] canBytes
   let s : State := at0 (canUp none none) c
   let k : Nat := c.word 0 % 4
   ⟨s, k, (by decide +kernel)⟩,
   let c : Cmd := cm 9 1 [3] canBytes
   let s : State := at0 (canUp none none) c
   let k : Nat := c.word 0 % 4
   ⟨s, k, (by decide +kernel)⟩,
   let c : Cmd := cm 9 1 [3] canBytes
   let s : State := at0 up c
   let k : Nat := c.word 0 % 4
   ⟨s, k, (by decide +kernel)⟩,
   let c : Cmd := cm 9 1 [3] canBytes
   let s : State := at0 up c
   let k : Nat := c.word 0 % 4
   ⟨s, k, (by decide +kernel)⟩,
   let s : State := (canUp none none).onCan 3 (fun c => { c with errState := 2, recovering := true })
   let k : Nat := 3
   ⟨s, k, (by unfold Shaped; decide +kernel)⟩,
   let c : Cmd := cm 9 1 [3] canBytes
   let s : State := at0 (canUp none none) c
   let k : Nat := c.word 0 % 4
   ⟨s, k, (by unfold Shaped; decide +kernel)⟩,
   let c : Cmd := cm 9 1 [3] canBytes
   let s : State := at0 (canUp none none) c
   let k : Nat := c.word 0 % 4
   ⟨s, k, (by decide +kernel)⟩⟩

theorem witness_FirmwareAndConfigurationReachFlash :
    (∃ (s : State), s.fw.busy = true) ∧
    (∃ (s : State), s.fw.op ≠ none) ∧
    (∃ (c : Cmd) (s : State), Starts 0xB 1 c s ∧ s.fw.busy = false ∧ (s.fw.staging = .empty ∨ s.fw.staging =
      .installed) ∧ (hdrKind c.data ≠ 2 ∨ s.dev.mode = .recovery)) ∧
    (∃ (c : Cmd) (s : State), Starts 0xB 1 c s ∧ s.fw.busy = false ∧ s.fw.staging = .receiving) ∧
    (∃ (c : Cmd) (s : State), Starts 0xB 1 c s ∧ s.fw.busy = false ∧ (s.fw.staging = .committed ∨ s.fw.staging =
      .copying)) ∧
    (∃ (c : Cmd) (s : State), Starts 0xB 1 c s ∧ s.fw.busy = false ∧ (s.fw.staging = .empty ∨ s.fw.staging =
      .installed) ∧ hdrKind c.data = 2 ∧ s.dev.mode ≠ .recovery) ∧
    (∃ (c : Cmd) (s : State),
      let n := s.fw.pieceLen (c.word 0)
      Starts 0xB 2 c s ∧ s.fw.op = none ∧ c.data.length ≠ n) ∧
    (∃ (c : Cmd) (s : State),
      let n := s.fw.pieceLen (c.word 0)
      Starts 0xB 2 c s ∧ s.fw.op = none ∧ c.data.length = n ∧ (s.fw.staging ≠ .receiving ∨ s.fw.pieceCount ≤ c.word
      0)) ∧
    (∃ (c : Cmd) (s : State),
      let n := s.fw.pieceLen (c.word 0)
      Starts 0xB 2 c s ∧ s.fw.op = none ∧ c.data.length = n ∧ s.fw.staging = .receiving ∧ c.word 0 < s.fw.pieceCount ∧
      crc32c c.data ≠ c.word 1) ∧
    (∃ (c : Cmd) (s : State), Starts 0xB 2 c s ∧ s.fw.op = none ∧ c.data.length = s.fw.pieceLen (c.word 0) ∧
      s.fw.staging = .receiving ∧ c.word 0 < s.fw.pieceCount ∧ crc32c c.data = c.word 1 ∧ s.fw.present.contains
      (c.word 0) = true) ∧
    (∃ (c : Cmd) (s : State), Starts 0xB 2 c s ∧ s.fw.op = none ∧ c.data.length = s.fw.pieceLen (c.word 0) ∧
      s.fw.staging = .receiving ∧ c.word 0 < s.fw.pieceCount ∧ crc32c c.data = c.word 1 ∧ s.fw.present.contains
      (c.word 0) = false) ∧
    (∃ (s : State) (i : Nat) (d : List Byte), s.fw.op = some (.piece i d)) ∧
    (∃ (s : State) (d : List Byte), s.fw.op = some (.cfgCommit d)) ∧
    (∃ (s : State) (h : Nat) (d : List Byte), s.fw.op = some (.wear h d)) ∧
    (∃ (s : State), s.fw.op = none) ∧
    (∃ (f : List Host.Cell), (∀ b c, f = b ++ c → ∀ x ∈ b, ∀ y ∈ c, x.1 < y.1)) ∧
    (∃ (f : List Host.Cell) (a : Nat) (d : List Byte) (b : _), (∀ b c, f = b ++ c → ∀ x ∈ b, ∀ y ∈ c, x.1 < y.1) ∧ (b
      < a ∨ a + d.length ≤ b)) ∧
    (∃ (c : Cmd) (s : State), Starts 0xB 3 c s ∧ s.fw.busy = false ∧ s.fw.staging ≠ .receiving) ∧
    (∃ (c : Cmd) (s : State), Starts 0xB 3 c s ∧ s.fw.busy = false ∧ s.fw.staging = .receiving ∧ c.word 2 <
      s.fw.bitmap.length) ∧
    (∃ (c : Cmd) (s : State), Starts 0xB 3 c s ∧ s.fw.busy = false ∧ s.fw.staging = .receiving ∧ s.fw.bitmap.length ≤
      c.word 2 ∧ c.ring ≠ 256) ∧
    (∃ (c : Cmd) (s : State), Starts 0xB 3 c s ∧ s.fw.busy = false ∧ s.fw.staging = .receiving ∧ s.fw.bitmap.length ≤
      c.word 2 ∧ c.ring = 256 ∧ c.addr 0 ≠ 0) ∧
    (∃ (c : Cmd) (s : State), Starts 0xB 3 c s ∧ s.fw.busy = false ∧ s.fw.staging = .receiving ∧ s.fw.bitmap.length ≤
      c.word 2 ∧ c.ring = 256 ∧ c.addr 0 = 0) ∧
    (∃ (c : Cmd) (s : State), Starts 0xB 4 c s ∧ s.fw.busy = false ∧ (s.fw.staging ≠ .receiving ∨ s.fw.missing ≠ [])) ∧
    (∃ (c : Cmd) (s : State), Starts 0xB 4 c s ∧ s.fw.busy = false ∧ s.fw.staging = .receiving ∧ s.fw.missing = [] ∧
      s.dev.mode ≠ .recovery) ∧
    (∃ (c : Cmd) (s : State), Starts 0xB 4 c s ∧ s.fw.busy = false ∧ s.fw.staging = .receiving ∧ s.fw.missing = [] ∧
      s.dev.mode = .recovery) ∧
    (∃ (c : Cmd) (s : State), Starts 0xB 5 c s ∧ s.fw.busy = false ∧ s.fw.staging ≠ .receiving ∧ s.fw.staging ≠
      .committed) ∧
    (∃ (c : Cmd) (s : State), Starts 0xB 5 c s ∧ s.fw.busy = false ∧ (s.fw.staging = .receiving ∨ s.fw.staging =
      .committed)) ∧
    (∃ (c : Cmd) (s : State), Starts 0xC 1 c s ∧ c.word 0 + c.word 1 ≤ cfgBytes) ∧
    (∃ (c : Cmd) (s : State), Starts 0xC 1 c s ∧ cfgBytes < c.word 0 + c.word 1) ∧
    (∃ (c : Cmd) (s : State), Starts 0xC 2 c s ∧ cfgBytes < c.word 0 + c.data.length) ∧
    (∃ (c : Cmd) (s : State), Starts 0xC 2 c s ∧ c.word 0 + c.data.length ≤ cfgBytes ∧ s.fw.work.length = cfgBytes) ∧
    (∃ (c : Cmd) (s : State), Starts 0xC 3 c s ∧ s.fw.op = none) ∧
    (∃ (s : State), s.spr.writeDue ≠ none ∧ s.fw.op = none) ∧
    (∃ (s : State), (s.spr.writeDue = none ∨ s.fw.op ≠ none)) :=
  ⟨let s : State := (receiving [0]).onFw (fun f => { f with op := some (.piece 1 [5]) })
   ⟨s, (by decide +kernel)⟩,
   let s : State := (receiving [0]).onFw (fun f => { f with op := some (.piece 1 [5]) })
   ⟨s, (by decide +kernel)⟩,
   let c : Cmd := cm 0xB 1 [] fwBytes
   let s : State := at0 up c
   ⟨c, s, (by unfold Starts; decide +kernel)⟩,
   let c : Cmd := cm 0xB 1 [] fwBytes
   let s : State := at0 (receiving []) c
   ⟨c, s, (by unfold Starts; decide +kernel)⟩,
   let c : Cmd := cm 0xB 1 [] fwBytes
   let s : State := at0 (up.onFw fun f => { f with staging := .committed }) c
   ⟨c, s, (by unfold Starts; decide +kernel)⟩,
   let c : Cmd := cm 0xB 1 [] (record 256 [(6, 1, 2)])
   let s : State := at0 (up) c
   ⟨c, s, (by unfold Starts; decide +kernel)⟩,
   let c : Cmd := cm 0xB 2 [0] (List.replicate 9 5)
   let s : State := at0 (receiving []) c
   ⟨c, s, (by unfold Starts; decide +kernel)⟩,
   let c : Cmd := cm 0xB 2 [1] [5]
   let s : State := at0 ((receiving []).onFw fun f => { f with staging := .empty }) c
   ⟨c, s, (by unfold Starts; decide +kernel)⟩,
   let c : Cmd := cm 0xB 2 [1, 1] [5]
   let s : State := at0 (receiving []) c
   ⟨c, s, (by unfold Starts; decide +kernel)⟩,
   let c : Cmd := cm 0xB 2 [1, crc32c [5]] [5]
   let s : State := at0 (receiving [1]) c
   ⟨c, s, (by unfold Starts; decide +kernel)⟩,
   let c : Cmd := cm 0xB 2 [1, crc32c [5]] [5]
   let s : State := at0 (receiving [0]) c
   ⟨c, s, (by unfold Starts; decide +kernel)⟩,
   let s : State := (receiving [0]).onFw (fun f => { f with op := some (.piece 1 [5]) })
   let i : Nat := 1
   let d : List Byte := [5]
   ⟨s, i, d, (by decide +kernel)⟩,
   let s : State := up.onFw fun f => { f with op := some (.cfgCommit []) }
   let d : List Byte := []
   ⟨s, d, (by decide +kernel)⟩,
   let s : State := up.onFw fun f => { f with op := some (.wear 1 []) }
   let h : Nat := 1
   let d : List Byte := []
   ⟨s, h, d, (by decide +kernel)⟩,
   let c : Cmd := cm 0xB 1 [] fwBytes
   let s : State := at0 up c
   ⟨s, (by decide +kernel)⟩,
   let f : List Host.Cell := []
   ⟨f, (fun b c h x hx => by rw [(List.nil_eq_append_iff.1 h).1] at hx; cases hx)⟩,
   let f : List Host.Cell := []
   let a : Nat := 1
   let d : List Byte := []
   let b := 0
   ⟨f, a, d, b, ⟨(fun b c h x hx => by rw [(List.nil_eq_append_iff.1 h).1] at hx; cases hx), .inl (by decide)⟩⟩,
   let c : Cmd := cm 0xB 3 [0, 0x8000, 4096]
   let s : State := at0 (up) c
   ⟨c, s, (by unfold Starts; decide +kernel)⟩,
   let c : Cmd := cm 0xB 3 [0, 0x8000, 0]
   let s : State := at0 (receiving []) c
   ⟨c, s, (by unfold Starts; decide +kernel)⟩,
   let c : Cmd := cm 0xB 3 [hostBase % 2 ^ 32, hostBase / 2 ^ 32, 1]
   let s : State := at0 (receiving [0]) c
   ⟨c, s, (by unfold Starts; decide +kernel)⟩,
   let c : Cmd := { cm 0xB 3 [8, 0, 4096] with ring := 256 }
   let s : State := (receiving []).onHl fun h => { h with canCtx := { slots := [{ cmd := c }] } }
   ⟨c, s, (by unfold Starts; decide +kernel)⟩,
   let c : Cmd := { cm 0xB 3 [0, 0, 4096] with ring := 256 }
   let s : State := (receiving []).onHl fun h => { h with canCtx := { slots := [{ cmd := c }] } }
   ⟨c, s, (by unfold Starts; decide +kernel)⟩,
   let c : Cmd := cm 0xB 4
   let s : State := at0 (receiving [0]) c
   ⟨c, s, (by unfold Starts; decide +kernel)⟩,
   let c : Cmd := cm 0xB 4
   let s : State := at0 (receiving [0, 1]) c
   ⟨c, s, (by unfold Starts; decide +kernel)⟩,
   let c : Cmd := cm 0xB 4
   let s : State := at0 ((receiving [0, 1]).onDev fun d => { d with mode := .recovery }) c
   ⟨c, s, (by unfold Starts; decide +kernel)⟩,
   let c : Cmd := cm 0xB 5
   let s : State := at0 (up) c
   ⟨c, s, (by unfold Starts; decide +kernel)⟩,
   let c : Cmd := cm 0xB 5
   let s : State := at0 (receiving [0]) c
   ⟨c, s, (by unfold Starts; decide +kernel)⟩,
   let c : Cmd := cm 0xC 1 [12287, 1]
   let s : State := at0 up c
   ⟨c, s, (by unfold Starts; decide +kernel)⟩,
   let c : Cmd := cm 0xC 1 [12287, 2]
   let s : State := at0 up c
   ⟨c, s, (by unfold Starts; decide +kernel)⟩,
   let c : Cmd := cm 0xC 2 [12288] [5]
   let s : State := at0 up c
   ⟨c, s, (by unfold Starts; decide +kernel)⟩,
   let c : Cmd := cm 0xC 2 [12287] [5]
   let s : State := at0 (up.onFw fun f => { f with work := List.replicate 12288 0 }) c
   ⟨c, s, (by unfold Starts; decide +kernel)⟩,
   let c : Cmd := cm 0xC 3
   let s : State := at0 up c
   ⟨c, s, (by unfold Starts; decide +kernel)⟩,
   let s : State := up.onSpr (fun p => { p with writeDue := some 8000 })
   ⟨s, (by decide +kernel)⟩,
   let c : Cmd := cm 0xB 1 [] fwBytes
   let s : State := at0 up c
   ⟨s, (by decide +kernel)⟩⟩

theorem witness_RecorderAndTestCommandsAnswer :
    (∃ (c : Cmd) (s : State) (base : Nat), Starts 0xD 1 c s ∧ s.dev.mode ≠ .replay ∧ (s.dev.mode = .config ∨
      s.recd.hasRing (fieldAt c.data 0 1) (recMib c.data) = true) ∧ recLimit c.data = false ∧ recReserved c.data =
      false ∧ (begun c s).placeRing (fieldAt c.data 0 1) (recMib c.data) = some base) ∧
    (∃ (c : Cmd) (s : State),
      let open_ := s.dev.mode ≠ .replay ∧ (s.dev.mode = .config ∨ s.recd.hasRing (fieldAt c.data 0 1) (recMib c.data)
        = true)
      Starts 0xD 1 c s ∧ ¬ open_) ∧
    (∃ (c : Cmd) (s : State),
      let open_ := s.dev.mode ≠ .replay ∧ (s.dev.mode = .config ∨ s.recd.hasRing (fieldAt c.data 0 1) (recMib c.data)
        = true)
      Starts 0xD 1 c s ∧ open_ ∧ recLimit c.data = true) ∧
    (∃ (c : Cmd) (s : State),
      let open_ := s.dev.mode ≠ .replay ∧ (s.dev.mode = .config ∨ s.recd.hasRing (fieldAt c.data 0 1) (recMib c.data)
        = true)
      Starts 0xD 1 c s ∧ open_ ∧ recLimit c.data = false ∧ recReserved c.data = true) ∧
    (∃ (c : Cmd) (s : State),
      let open_ := s.dev.mode ≠ .replay ∧ (s.dev.mode = .config ∨ s.recd.hasRing (fieldAt c.data 0 1) (recMib c.data)
        = true)
      Starts 0xD 1 c s ∧ open_ ∧ recLimit c.data = false ∧ recReserved c.data = false ∧ (begun c s).placeRing (fieldAt
      c.data 0 1) (recMib c.data) = none) ∧
    (∃ (c : Cmd) (s : State), Starts 0xD 2 c s ∧ s.recd.state = .stopped) ∧
    (∃ (c : Cmd) (s : State), Starts 0xD 2 c s ∧ s.recd.state = .recording) ∧
    (∃ (c : Cmd) (s : State), Starts 0xD 2 c s ∧ s.recd.state = .post) ∧
    (∃ (c : Cmd) (s : State), Starts 0xD 2 c s ∧ s.recd.state = .frozen) ∧
    (∃ (s : State), (s.recd.state ≠ .post ∨ s.recd.freezeAt = none)) ∧
    (∃ (s : State) (l : Nat), s.recd.state = .post ∧ s.recd.freezeAt = some l ∧ s.tb.link < l) ∧
    (∃ (s : State) (l : Nat), s.recd.state = .post ∧ s.recd.freezeAt = some l ∧ l ≤ s.tb.link) ∧
    (∃ (c : Cmd) (s : State),
      let flash := bitAt (c.word 3) 0
      let ready := (flash = true ∧ s.recd.flashCopy ≠ []) ∨ (flash = false ∧ s.recd.state = .frozen)
      Starts 0xD 3 c s ∧ ¬ ready) ∧
    (∃ (c : Cmd) (s : State),
      let flash := bitAt (c.word 3) 0
      let n := (s.exportBytes flash).length
      let ready := (flash = true ∧ s.recd.flashCopy ≠ []) ∨ (flash = false ∧ s.recd.state = .frozen)
      Starts 0xD 3 c s ∧ ready ∧ c.word 2 < n) ∧
    (∃ (c : Cmd) (s : State),
      let flash := bitAt (c.word 3) 0
      let n := (s.exportBytes flash).length
      let ready := (flash = true ∧ s.recd.flashCopy ≠ []) ∨ (flash = false ∧ s.recd.state = .frozen)
      Starts 0xD 3 c s ∧ ready ∧ n ≤ c.word 2 ∧ inHost (c.addr 0) n = false) ∧
    (∃ (c : Cmd) (s : State),
      let flash := bitAt (c.word 3) 0
      let n := (s.exportBytes flash).length
      let ready := (flash = true ∧ s.recd.flashCopy ≠ []) ∨ (flash = false ∧ s.recd.state = .frozen)
      Starts 0xD 3 c s ∧ ready ∧ n ≤ c.word 2 ∧ inHost (c.addr 0) n = true ∧ s.bgdOpen = false) ∧
    (∃ (c : Cmd) (s : State),
      let flash := bitAt (c.word 3) 0
      let n := (s.exportBytes flash).length
      let ready := (flash = true ∧ s.recd.flashCopy ≠ []) ∨ (flash = false ∧ s.recd.state = .frozen)
      Starts 0xD 3 c s ∧ ready ∧ n ≤ c.word 2 ∧ inHost (c.addr 0) n = true ∧ s.bgdOpen = true) ∧
    (∃ (s : State) (flash : Bool), flash = false ∧ s.dramDead s.recd.ringBase = true) ∧
    (∃ (s : State) (flash : Bool), (flash = true ∨ s.dramDead s.recd.ringBase = false)) ∧
    (∃ (c : Cmd) (s : State) (rs : List (List Byte)) (first : Nat) (mile : Nat), Starts 0xD 4 c s ∧ s.dev.mode =
      .replay ∧ allZero c.data 24 8 = true ∧ (begun c s).dmaRange (fieldAt c.data 8 8) (fieldAt c.data 16 8) = true ∧
      s.recd.replay = none ∧ (begun c s).recording (fieldAt c.data 0 8) = .ok (rs, first, mile)) ∧
    (∃ (c : Cmd) (s : State), Starts 0xD 4 c s ∧ s.dev.mode ≠ .replay) ∧
    (∃ (c : Cmd) (s : State),
      let good := allZero c.data 24 8 && (begun c s).dmaRange (fieldAt c.data 8 8) (fieldAt c.data 16 8)
      Starts 0xD 4 c s ∧ s.dev.mode = .replay ∧ good = false) ∧
    (∃ (c : Cmd) (s : State),
      let good := allZero c.data 24 8 && (begun c s).dmaRange (fieldAt c.data 8 8) (fieldAt c.data 16 8)
      Starts 0xD 4 c s ∧ s.dev.mode = .replay ∧ good = true ∧ s.recd.replay ≠ none) ∧
    (∃ (c : Cmd) (s : State) (st : _),
      let good := allZero c.data 24 8 && (begun c s).dmaRange (fieldAt c.data 8 8) (fieldAt c.data 16 8)
      Starts 0xD 4 c s ∧ s.dev.mode = .replay ∧ good = true ∧ s.recd.replay = none ∧ (begun c s).recording (fieldAt
      c.data 0 8) = .error st) ∧
    (∃ (s : State), s.recd.replay = none) ∧
    (∃ (s : State) (p : Replay),
      let rest := p.records.filter fun r => !p.due s.tb.link r || isInput r
      s.recd.replay = some p ∧ rest.find? (p.due s.tb.link) = none) ∧
    (∃ (s : State) (p : Replay) (r : _),
      let rest := p.records.filter fun r => !p.due s.tb.link r || isInput r
      s.recd.replay = some p ∧ rest.find? (p.due s.tb.link) = some r) ∧
    (∃ (s : State) (p : Replay), s.recd.replay = some p ∧ (∀ r ∈ p.records, p.due s.tb.link r = false)) ∧
    (∃ (s : State) (p : Replay) (r : List Byte) (rest : List (List Byte)), s.recd.replay = some p ∧ p.records = r ::
      rest ∧ p.due s.tb.link r = true ∧ isInput r = true ∧ (∀ x ∈ rest, p.due s.tb.link x = false)) ∧
    (∃ (c : Cmd) (s : State), Starts 0xE 1 c s ∧ (s.dev.mode ≠ .test ∨ s.sol.state = .running ∨ (∃ j ∈ s.sch.jobs,
      j.partition = 0 ∧ j.state ≠ .ended))) ∧
    (∃ (c : Cmd) (s : State), Starts 0xE 1 c s ∧ s.dev.mode = .test ∧ s.sol.state ≠ .running ∧ (∀ j ∈ s.sch.jobs,
      j.partition ≠ 0 ∨ j.state = .ended) ∧ s.injectLimit c.data = true) ∧
    (∃ (c : Cmd) (s : State), Starts 0xE 1 c s ∧ s.dev.mode = .test ∧ s.sol.state ≠ .running ∧ (∀ j ∈ s.sch.jobs,
      j.partition ≠ 0 ∨ j.state = .ended) ∧ s.injectLimit c.data = false ∧ injectReserved c.data = true) ∧
    (∃ (c : Cmd) (s : State), Starts 0xE 1 c s ∧ s.dev.mode = .test ∧ s.sol.state ≠ .running ∧ (∀ j ∈ s.sch.jobs,
      j.partition ≠ 0 ∨ j.state = .ended) ∧ s.injectLimit c.data = false ∧ injectReserved c.data = false) ∧
    (∃ (c : Cmd) (s : State), Starts 0xE 2 c s ∧ s.dev.mode ≠ .test) ∧
    (∃ (c : Cmd) (s : State), Starts 0xE 2 c s ∧ s.dev.mode = .test) ∧
    (∃ (c : Cmd) (s : State), Starts 0xE 3 c s ∧ s.dev.mode = .test ∧ loopTarget (c.word 0 % 16) (bitsOf (c.word 0) 15
      8) = true) ∧
    (∃ (c : Cmd) (s : State), Starts 0xE 3 c s ∧ s.dev.mode ≠ .test) ∧
    (∃ (c : Cmd) (s : State), Starts 0xE 3 c s ∧ s.dev.mode = .test ∧ loopTarget (c.word 0 % 16) (bitsOf (c.word 0) 15
      8) = false) :=
  ⟨let c : Cmd := cm 0xD 1 [] recBytes
   let s : State := at0 (recUp .recording (up.onRec fun r => { r with die := 3 })) c
   let base : Nat := 2 ^ 30
   ⟨c, s, base, (by unfold Starts; decide +kernel)⟩,
   let c : Cmd := cm 0xD 1 [] recBytes
   let s : State := at0 (inMode .run) c
   ⟨c, s, (by unfold Starts; decide +kernel)⟩,
   let c : Cmd := cm 0xD 1 [] (record 32 [(0, 1, 4)])
   let s : State := at0 (up) c
   ⟨c, s, (by unfold Starts; decide +kernel)⟩,
   let c : Cmd := cm 0xD 1 [] (recBytes.set 31 1)
   let s : State := at0 (up) c
   ⟨c, s, (by unfold Starts; decide +kernel)⟩,
   let c : Cmd := cm 0xD 1 [] recBytes
   let s : State := at0 (up.onDram 3 fun d => { d with inService := false }) c
   ⟨c, s, (by unfold Starts; decide +kernel)⟩,
   let c : Cmd := cm 0xD 2
   let s : State := at0 up c
   ⟨c, s, (by unfold Starts; decide +kernel)⟩,
   let c : Cmd := cm 0xD 2
   let s : State := at0 (recUp .recording up) c
   ⟨c, s, (by unfold Starts; decide +kernel)⟩,
   let c : Cmd := cm 0xD 2
   let s : State := at0 (recUp .post up) c
   ⟨c, s, (by unfold Starts; decide +kernel)⟩,
   let c : Cmd := cm 0xD 2
   let s : State := at0 (recUp .frozen up) c
   ⟨c, s, (by unfold Starts; decide +kernel)⟩,
   let c : Cmd := cm 0xD 1 [] recBytes
   let s : State := at0 (recUp .recording (up.onRec fun r => { r with die := 3 })) c
   ⟨s, (by decide +kernel)⟩,
   let s : State := inLink 999 (recUp .post up)
   let l : Nat := 1000
   ⟨s, l, (by decide +kernel)⟩,
   let s : State := recUp .post up
   let l : Nat := 1000
   ⟨s, l, (by decide +kernel)⟩,
   let c : Cmd := cm 0xD 3 [0, 0x8000, 4096, 0]
   let s : State := at0 (up) c
   ⟨c, s, (by unfold Starts; decide +kernel)⟩,
   let c : Cmd := cm 0xD 3 [0, 0x8000, 0, 0]
   let s : State := at0 (recUp .frozen up) c
   ⟨c, s, (by unfold Starts; decide +kernel)⟩,
   let c : Cmd := cm 0xD 3 [0, 0, 4096, 0]
   let s : State := at0 (recUp .frozen up) c
   ⟨c, s, (by unfold Starts; decide +kernel)⟩,
   let c : Cmd := cm 0xD 3 [hostBase % 2 ^ 32, hostBase / 2 ^ 32, 96]
   let s : State := at0 (recUp .frozen up) c
   ⟨c, s, (by unfold Starts; decide +kernel)⟩,
   let c : Cmd := cm 0xD 3 [0, 0x8000, 4096, 0]
   let s : State := at0 ((recUp .frozen up).onSch fun x => { x with bgdUntil := 1001 }) c
   ⟨c, s, (by unfold Starts; decide +kernel)⟩,
   let s : State := up.onDram 0 fun d => { d with dead := true }
   let flash : Bool := false
   ⟨s, flash, (by decide +kernel)⟩,
   let s : State := up
   let flash : Bool := true
   ⟨s, flash, (by decide +kernel)⟩,
   let c : Cmd := cm 0xD 4 [] (record 32 [(8, 8, hubBase), (16, 8, 4096)])
   let s : State := at0 (recUp .frozen (inMode .replay)) c
   let rs : List (List Byte) := [linkRec]
   let first : Nat := 1000
   let mile : Nat := 0
   ⟨c, s, rs, first, mile, (by unfold Starts; decide +kernel)⟩,
   let c : Cmd := cm 0xD 4 [] (record 32 [])
   let s : State := at0 (up) c
   ⟨c, s, (by unfold Starts; decide +kernel)⟩,
   let c : Cmd := cm 0xD 4 [] (record 32 [(24, 1, 1)])
   let s : State := at0 (inMode .replay) c
   ⟨c, s, (by unfold Starts; decide +kernel)⟩,
   let c : Cmd := cm 0xD 4 [] (record 32 [])
   let s : State := at0 ((inMode .replay).onRec fun r => { r with replay := some {} }) c
   ⟨c, s, (by unfold Starts; decide +kernel)⟩,
   let c : Cmd := cm 0xD 4 [] (record 32 [])
   let s : State := at0 (inMode .replay) c
   let st := stBusy
   ⟨c, s, st, ⟨(by unfold Starts; decide +kernel), (by decide +kernel), (by decide +kernel), (by decide +kernel), rfl⟩⟩,
   let c : Cmd := cm 0xD 1 [] recBytes
   let s : State := at0 (recUp .recording (up.onRec fun r => { r with die := 3 })) c
   ⟨s, (by decide +kernel)⟩,
   let s : State := (inMode .replay).onRec (fun r =>
      { r with replay := some { records := [linkRec], firstLink := 1000, t0 := 1001 } })
   let p : Replay := { records := [linkRec], firstLink := 1000, t0 := 1001 }
   ⟨s, p, (by decide +kernel)⟩,
   let s : State := (inMode .replay).onRec (fun r =>
      { r with replay := some { records := [linkRec], firstLink := 1000, t0 := 1000 } })
   let p : Replay := { records := [linkRec], firstLink := 1000, t0 := 1000 }
   let r : List Byte := linkRec
   ⟨s, p, r, (by decide +kernel)⟩,
   let s : State := (inMode .replay).onRec (fun r =>
      { r with replay := some { records := [linkRec], firstLink := 1000, t0 := 1001 } })
   let p : Replay := { records := [linkRec], firstLink := 1000, t0 := 1001 }
   ⟨s, p, (by decide +kernel)⟩,
   let s : State := (inMode .replay).onRec (fun r =>
      { r with replay := some { records := [linkRec], firstLink := 1000, t0 := 1000 } })
   let p : Replay := { records := [linkRec], firstLink := 1000, t0 := 1000 }
   let r : List Byte := linkRec
   let rest : List (List Byte) := []
   ⟨s, p, r, rest, (by decide +kernel)⟩,
   let c : Cmd := cm 0xE 1 [] injectBytes
   let s : State := at0 (up) c
   ⟨c, s, (by unfold Starts; decide +kernel)⟩,
   let c : Cmd := cm 0xE 1 [] (record 32 [(0, 1, 16)])
   let s : State := at0 (inMode .test) c
   ⟨c, s, (by unfold Starts; decide +kernel)⟩,
   let c : Cmd := cm 0xE 1 [] (injectBytes.set 31 1)
   let s : State := at0 (inMode .test) c
   ⟨c, s, (by unfold Starts; decide +kernel)⟩,
   let c : Cmd := cm 0xE 1 [] injectBytes
   let s : State := at0 (inMode .test) c
   ⟨c, s, (by unfold Starts; decide +kernel)⟩,
   let c : Cmd := cm 0xE 2 [1]
   let s : State := at0 up c
   ⟨c, s, (by unfold Starts; decide +kernel)⟩,
   let c : Cmd := cm 0xE 2 [1]
   let s : State := at0 (inMode .test) c
   ⟨c, s, (by unfold Starts; decide +kernel)⟩,
   let c : Cmd := cm 0xE 3 [0x305]
   let s : State := at0 (inMode .test) c
   ⟨c, s, (by unfold Starts; decide +kernel)⟩,
   let c : Cmd := cm 0xE 3
   let s : State := at0 (up) c
   ⟨c, s, (by unfold Starts; decide +kernel)⟩,
   let c : Cmd := cm 0xE 3 [15]
   let s : State := at0 (inMode .test) c
   ⟨c, s, (by unfold Starts; decide +kernel)⟩⟩

theorem witness_QueriesAndTheHostLinkKeepTheDevice :
    (∃ (c : Cmd) (s : State) (i : Instr), Uninjected s ∧ (i = .devInfo c ∨ i = .jobQuery c ∨ i = .schQuery c ∨ i =
      .kvQuery c ∨ i = .solQuery c ∨ i = .safeQuery c ∨ i = .pwrQuery c)) ∧
    (∃ (s : State), s.dev.inReset = false) ∧
    (∃ (s : State), s.dev.inReset = true) :=
  ⟨let c : Cmd := cm 1 1
   let s : State := up
   let i : Instr := .devInfo c
   ⟨c, s, i, ⟨(by unfold Uninjected; decide +kernel), .inl rfl⟩⟩,
   let c : Cmd := cm 10 4
   let s : State := at0 runSafe c
   ⟨s, (by decide +kernel)⟩,
   let s : State := State.reset
   ⟨s, (by decide +kernel)⟩⟩

end Sys2Proof.Tests
end

section
/-! What every command keeps (`Kept`), one lemma per row of the dispatch, and O8. -/

namespace Sys2Proof.Machine

open Sys2Proof.Safety

/-- The command answers a next state, and that state keeps all that the exemption does not let go. -/
def Keeps (x : Exempt) (s : State) (o : Out) : Prop := ∃ t, o = .next t ∧ Kept x s t

variable {x : Exempt} {r s : State}

theorem Keeps.next {t : State} (ht : Kept x s s → Kept x s t) : Keeps x s (.next t) := ⟨t, rfl, ht (.refl x s)⟩

/-! The frames that commands share: a host command, a firmware command, a tile instruction, a unit's completion. -/

theorem Keeps.runCmd {fam op : Nat} {c : Cmd} {body : State → State} (hb : ∀ u, Kept x s u → Kept x s (body u)) :
    Keeps x s (.next (runCmd fam op c s body)) := .next fun h => h.runCmd hb

theorem Keeps.runFw {op : Nat} {c : Cmd} {body : State → State} (hb : ∀ u, Kept x s u → Kept x s (body u)) :
    Keeps x s (.next (runFw op c s body)) := .next fun h => h.runFw hb

theorem Keeps.tileOp {g : Nat} {flips : List Nat} {f : Core → State → State}
    (hf : ∀ k u, Kept x s u → Kept x s (f k u)) : Keeps x s (.next (s.tileOp g flips f)) :=
  .next fun h => h.tileOp g flips hf

theorem Keeps.unitOp {g : Nat} {flips : List Nat} {f : Core → State → State}
    (hf : ∀ k u, Kept x s u → Kept x s (f k u)) : Keeps x s (.next (s.unitOp g flips f)) :=
  .next fun h => h.unitOp g flips hf

/-! An operation that a condition leaves out keeps what the state before it keeps. -/

theorem Kept.iteFrom {c : Prop} [Decidable c] {a b : State} (h : Kept x r a) (hb : Kept x r a → Kept x r b) :
    Kept x r (if c then a else b) := .ite h (hb h)

theorem Kept.iteTo {c : Prop} [Decidable c] {a b : State} (h : Kept x r b) (ha : Kept x r b → Kept x r a) :
    Kept x r (if c then a else b) := .ite (ha h) h

/-! Device, memory and windows. -/

theorem execDevInfo_keeps (c : Cmd) : Keeps x s (execDevInfo c s) := .runCmd fun _ h => h.complete ..

theorem execDevMode_keeps (c : Cmd) (hm : x.mode = true) (hs : x.safe = true) : Keeps x s (execDevMode c s) :=
  .runCmd fun _ h => .ite (h.complete ..) (.ite (h.complete ..) (.ite (h.requestRun _)
    (.ite ((h.backToConfig hm hs).complete ..) ((h.enterBench _ hm).complete ..))))

theorem execDevContextOpen_keeps (c : Cmd) : Keeps x s (execDevContextOpen c s) := .runCmd fun _ h => by
  dsimp only
  split
  · exact h.complete ..
  · exact .ite (h.complete ..) ((h.onCtx _ _).complete ..)

theorem execDevContextClose_keeps (c : Cmd) : Keeps x s (execDevContextClose c s) :=
  .runCmd fun _ h => .ite (h.complete ..) (.ite (h.complete ..) (((h.startClose _).await _ _).settleClose _))

theorem execDevIdentity_keeps (c : Cmd) : Keeps x s (execDevIdentity c s) :=
  .runCmd fun _ h => .ite (h.complete ..) (h.output ..)

theorem execDevAttest_keeps (c : Cmd) : Keeps x s (execDevAttest c s) :=
  .runCmd fun _ h => .ite (h.complete ..) (.ite (h.complete ..) (h.output ..).bump)

theorem execMemAlloc_keeps (c : Cmd) : Keeps x s (execMemAlloc c s) := .runCmd fun _ h => .ite (h.complete ..) (by
  dsimp only
  generalize (if c.word 0 % 16 = 4 then _ else _ : Option Nat) = found
  cases found
  · exact h.complete ..
  · exact (h.addAlloc _).bump.complete ..)

theorem execMemFree_keeps (c : Cmd) : Keeps x s (execMemFree c s) := .runCmd fun _ h => by
  split
  · exact h.complete ..
  · exact .ite (h.complete ..) ((h.dropAlloc _).complete ..)

theorem execMemCopy_keeps (c : Cmd) : Keeps x s (execMemCopy c s) :=
  .runCmd fun _ h => .ite (h.complete ..) (.ite (h.await ..) (h.runCopy ..))

theorem execMemFill_keeps (c : Cmd) : Keeps x s (execMemFill c s) :=
  .runCmd fun _ h => .ite (h.complete ..) (.ite ((h.putOut _ _).complete ..) ((h.putOut _ _).complete ..))

theorem execMemWindowOpen_keeps (c : Cmd) : Keeps x s (execMemWindowOpen c s) :=
  .runCmd fun _ h => .ite (h.complete ..) (.ite (h.complete ..)
    ((h.onHl _ rfl List.length_set).complete ..))

theorem execMemWindowClose_keeps (c : Cmd) : Keeps x s (execMemWindowClose c s) :=
  .runCmd fun _ h => .ite (h.complete ..) (.ite ((h.onHl _ rfl List.length_set).complete ..)
    ((h.onHl _ rfl List.length_set).await ..))

theorem execWindowDrainDone_keeps (slot : Nat) : Keeps x s (execWindowDrainDone slot s) :=
  .next fun h => .ite ((h.onHl _ rfl List.length_set).finish ..) h

/-! Jobs and the schedule. -/

theorem execJobSubmit_keeps (c : Cmd) : Keeps x s (execJobSubmit c s) := .runCmd fun _ h => .ite (h.complete ..) (by
  split
  · exact h.complete ..
  · exact h.bump.acceptJob ..)

theorem execJobCancel_keeps (c : Cmd) : Keeps x s (execJobCancel c s) := .runCmd fun _ h => by
  split
  · exact h.complete ..
  · exact .ite (h.complete ..) ((h.complete ..).requestEnd ..)

theorem execJobQuery_keeps (c : Cmd) : Keeps x s (execJobQuery c s) := .runCmd fun _ h => by
  split <;> exact h.complete ..

theorem execSchLoad_keeps (c : Cmd) : Keeps x s (execSchLoad c s) :=
  .runCmd fun _ h => .ite (h.complete ..) (.ite (h.complete ..)
    (.ite ((h.onSch _).validate _) ((h.onSch _).complete ..)))

theorem execSchArm_keeps (c : Cmd) : Keeps x s (execSchArm c s) := .runCmd fun _ h => (h.onSch _).await ..

theorem execSchPartition_keeps (c : Cmd) : Keeps x s (execSchPartition c s) :=
  .runCmd fun _ h => .ite (h.complete ..) (.ite (h.complete ..) (.ite (h.complete ..) ((h.onSch _).complete ..)))

theorem execSchQuery_keeps (c : Cmd) : Keeps x s (execSchQuery c s) :=
  .runCmd fun _ h => .ite (.ite (h.complete ..) (h.complete ..)) (h.complete ..)

theorem execChainGuardStart_keeps : Keeps x s (execChainGuardStart s) :=
  .next fun h => .ite h (Kept.foldl _ (fun _ _ hu => hu.stopJob _) _ _ h)

theorem execSchSwitchDecision_keeps : Keeps x s (execSchSwitchDecision s) :=
  .next fun h => .ite h ((h.onHl _ rfl rfl).onSch _)

theorem execSaveDeadlineExpiry_keeps (core : Nat) : Keeps x s (execSaveDeadlineExpiry core s) :=
  .next fun h => .ite (h.failOn ..) h

theorem execJobPlacement_keeps (part : Nat) : Keeps x s (execJobPlacement part s) :=
  .next fun h => .ite h (Kept.foldl _ (fun _ _ hu => by
    split
    · exact hu
    · exact hu.placeJob ..) _ _ h)

theorem execRowEventRelease_keeps (ev : Nat) : Keeps x s (execRowEventRelease ev s) := .next fun h => by
  split
  · exact h
  · exact Kept.foldl _ (fun _ _ hu => hu.releaseJob _) _ _ h

theorem execRowEventSelftest_keeps (ev : Nat) : Keeps x s (execRowEventSelftest ev s) := .next fun h => by
  split
  · exact h
  · exact .ite h (.ite (h.onSch _) (Kept.foldl _ (fun _ _ hu => hu.stopJob _) _ _ (h.onSch _)).beginSelftests)

theorem execSelftestSlotEnd_keeps (part : Nat) : Keeps x s (execSelftestSlotEnd part s) := .next fun h => by
  split
  · exact h
  · exact .ite h (Kept.foldl _ (fun _ _ hu => .ite (hu.freeCore _) hu) _ _ (h.onSch _))

theorem execRowEventBgdWindow_keeps (ev : Nat) : Keeps x s (execRowEventBgdWindow ev s) := .next fun h => by
  split
  · exact h
  · exact (h.onSch _).runExports

theorem execBgdWindowEnd_keeps : Keeps x s (execBgdWindowEnd s) := .next fun h => .ite (h.onSch _) h

theorem execPeriodicRelease_keeps (ctx tag : Nat) : Keeps x s (execPeriodicRelease ctx tag s) := .next fun h => by
  split
  · exact h
  · exact .ite (h.releaseJob _) h

theorem execBudgetExpiry_keeps (ctx tag : Nat) : Keeps x s (execBudgetExpiry ctx tag s) := .next fun h => by
  split
  · exact h
  · refine .ite h (.ite (.ite (((h.onSch _).onJob _ _).endJob _ _) (((h.onSch _).releaseCompletion _ _ _).onJob _ _))
      (Kept.foldl _ (fun _ _ hu => ?_) _ _ ((h.onSch _).onJob _ _)))
    split
    · exact hu.onCore _ _
    · exact hu.onCore _ _
    · exact hu.haltCore _
    · exact hu

theorem execJobDeadlineExpiry_keeps (ctx tag : Nat) : Keeps x s (execJobDeadlineExpiry ctx tag s) := .next fun h => by
  split
  · exact h
  · exact .ite (h.bump.endJob _ _) h

/-! The KV manager and the frame tables. -/

theorem Kept.newPage (h : Kept x r s) (q : KvSeq) (state : Nat) (pl : Nat × Nat × Nat) :
    Kept x r (s.newPage q state pl) := by
  unfold State.newPage
  split
  · exact h
  · next e => exact ((h.ftAlloc e).writeNat _ _ _).bump

theorem execKvPoolCreate_keeps (c : Cmd) : Keeps x s (execKvPoolCreate c s) :=
  .runCmd fun _ h => .ite (h.complete ..) (.ite (h.complete ..) (by
    split
    · exact h.complete ..
    · exact (Kept.foldl _ (fun _ _ hu => hu.poolOnDie _ _ _) _ _ (h.onKv _)).bump.complete ..))

theorem execKvSeqCreate_keeps (c : Cmd) : Keeps x s (execKvSeqCreate c s) := .runCmd fun _ h => by
  dsimp only
  split
  · exact h.complete ..
  · exact .ite (h.complete ..) (.ite (h.complete ..) (.ite (h.complete ..) ((Kept.onKv (.ite
      (Kept.foldl _ (fun _ _ hu => hu.newPage _ _ _) _ _ (h.clearTables _ _)) (h.clearTables _ _)) _).complete ..)))

theorem execKvSeqFork_keeps (c : Cmd) : Keeps x s (execKvSeqFork c s) := .runCmd fun _ h => by
  dsimp only
  split
  · exact h.complete ..
  · exact .ite (h.complete ..) (.ite (h.complete ..) (.ite (h.complete ..) (.ite (h.complete ..) (.ite (h.complete ..)
      (.ite (h.complete ..) ((Kept.foldl _ (fun _ _ hu => hu.shareElem _ _ _) _ _
        (h.clearTables _ _)).onKv _ |>.complete ..))))))

theorem execKvSeqFree_keeps (c : Cmd) : Keeps x s (execKvSeqFree c s) := .runCmd fun _ h => by
  split
  · exact h.complete ..
  · exact .ite (h.complete ..) (.ite ((h.onSeq _ _).await ..) ((h.removeSeq _).complete ..))

theorem execKvSwapArea_keeps (c : Cmd) : Keeps x s (execKvSwapArea c s) :=
  .runCmd fun _ h => .ite (h.complete ..) (.ite (h.complete ..) ((h.onKv _).complete ..))

theorem execKvSwapOut_keeps (c : Cmd) : Keeps x s (execKvSwapOut c s) := .runCmd fun _ h => by
  split
  · exact h.complete ..
  · exact .ite (h.complete ..) (.ite (h.complete ..) (.ite (h.complete ..) ((h.await _ _).suspendSeq _)))

theorem execKvSwapIn_keeps (c : Cmd) : Keeps x s (execKvSwapIn c s) := .runCmd fun _ h => by
  split
  · exact h.complete ..
  · exact .ite (h.complete ..) (.ite (h.complete ..) (.ite (h.complete ..) (.ite (h.complete ..)
      ((h.await _ _).resumeSeq _))))

theorem execKvCompact_keeps (c : Cmd) : Keeps x s (execKvCompact c s) := .runCmd fun _ h => by
  dsimp only
  split
  · exact h.complete ..
  · exact .ite (h.complete ..) (.ite (h.complete ..) (.ite (h.complete ..) ((h.onKv _).await _ _).checkCompacted))

theorem execKvQuery_keeps (c : Cmd) : Keeps x s (execKvQuery c s) := .runCmd fun _ h => .ite
  (by
    split
    · exact h.complete ..
    · exact .ite (h.complete ..) (h.complete ..))
  (by split <;> exact h.complete ..)

theorem execFtLookup_keeps (index pool requester : Nat) : Keeps x s (execFtLookup index pool requester s) :=
  .next fun h => .ite (.ite (h.coreLookup _ _ _) h) (h.engineLookup ..)

theorem execFtRelease_keeps (y : FrameUse) : Keeps x s (execFtRelease y s) :=
  .next fun h => ((h.ftRelease _).onKv _).onCore _ _

theorem execFtRefAdd_keeps (index n : Nat) : Keeps x s (execFtRefAdd index n s) :=
  .next fun h => .ite (h.ftRefAdd ..) h

theorem execFtRefSub_keeps (index : Nat) : Keeps x s (execFtRefSub index s) := .next fun h => h.ftRefSub _

theorem execFtCas_keeps (index expected new : Nat) : Keeps x s (execFtCas index expected new s) :=
  .next fun h => h.ftCas ..

theorem execFtAlloc_keeps (die pool state : Nat) : Keeps x s (execFtAlloc die pool state s) := .next fun h => by
  split
  · next e => exact (h.ftAlloc e).bump
  · exact h

theorem execKvWriteResolution_keeps (ctx : Nat) (y : WriteTry) : Keeps x s (execKvWriteResolution ctx y s) :=
  .next fun h => by
    split
    · exact h
    · refine .ite h (.ite h (.ite h ?_))
      dsimp only
      split
      · exact ((h.resolveAll _ _).onJob _ _).startPlaced _
      · refine .ite (h.requestEnd ..) (.ite h ?_)
        split
        · exact h.requestEnd ..
        · exact .ite (h.suspendSeq _) (h.requestEnd ..)

theorem execSwapOutFrameDone_keeps (index : Nat) (ok : Bool) : Keeps x s (execSwapOutFrameDone index ok s) :=
  .next fun h => by
    split
    · exact h
    · exact .ite h (((((Kept.foldl _ (fun _ _ hu => .ite hu (hu.write _ _)) _ _ h).carryRead _ _ _ _ _).hostRequest
        _ _ _ _).hostRequest _ _ _ _ |>.onPoolDie _ _ _ |>.setEntry _ _ |>.dropXfer _ |>.countMove _).afterXfer)

theorem execSwapInFrameDone_keeps (index : Nat) (ok : Bool) (data : List Byte) :
    Keeps x s (execSwapInFrameDone index ok data s) := .next fun h => by
  split
  · exact h
  · exact .ite h (.ite (((h.readUnits _ _).frameIn _ _).inDone _ _) ((h.readUnits _ _).onKv _))

theorem execSwapReadRetry_keeps (index : Nat) (ok : Bool) (data : List Byte) :
    Keeps x s (execSwapReadRetry index ok data s) := .next fun h => by
  split
  · exact h
  · exact .ite h (.ite (((h.readUnits _ _).frameIn _ _).inDone _ _) (.ite
      (((h.readUnits _ _).poisonGranules _ _).inDone _ _) ((h.readUnits _ _).onKv _)))

theorem execCompactionMove_keeps (m : FrameCopy) : Keeps x s (execCompactionMove m s) := .next fun h => by
  split
  · exact h
  · exact .ite h (.ite (h.failMove _ _) (.ite (h.failMove _ _)
      ((h.copyFrame _ _ _ _).onPoolDie _ _ _ |>.setEntry _ _ |>.onKv _ |>.countMove _).bump.checkCompacted))

/-! The dynamics engine and the joint lines. -/

theorem execSolModelLoad_keeps (c : Cmd) : Keeps x s (execSolModelLoad c s) :=
  .runCmd fun _ h => .ite (h.complete ..) (.ite (h.complete ..) (.ite (h.complete ..) (.ite (h.complete ..)
    (((h.onSol _).copyToAssize _ _).complete ..))))

theorem execSolTasksLoad_keeps (c : Cmd) : Keeps x s (execSolTasksLoad c s) := .runCmd fun _ h => by
  dsimp only
  split
  · exact h.complete ..
  · exact .ite (h.complete ..) (.ite (h.complete ..) (.ite (h.complete ..) (.ite (h.complete ..) (.ite (h.complete ..)
      ((h.onSol _).complete ..)))))

theorem execSolContacts_keeps (c : Cmd) : Keeps x s (execSolContacts c s) := .runCmd fun _ h =>
  .ite (h.complete ..) (by
    split
    · exact h.complete ..
    · exact .ite (h.complete ..) (.ite (h.complete ..) (.ite (h.complete ..)
        (((h.onSol _).copyToAssize _ _).complete ..))))

theorem execSolStart_keeps (c : Cmd) : Keeps x s (execSolStart c s) :=
  .runCmd fun _ h => .ite (h.complete ..) (.ite (h.complete ..) (.ite (h.complete ..) (.ite (h.complete ..)
    ((((h.onSol _).wdStart _).wdStart _).complete ..))))

theorem execSolStop_keeps (c : Cmd) : Keeps x s (execSolStop c s) :=
  .runCmd fun _ h => .ite (h.complete ..) (.ite ((((h.onSol _).wdStop _).wdStop _).complete ..) (h.complete ..))

theorem execSolQuery_keeps (c : Cmd) : Keeps x s (execSolQuery c s) := .runCmd fun _ h => h.complete ..

theorem execFrontStageStart_keeps : Keeps x s (execFrontStageStart s) := .next fun h => by
  split
  · exact .ite h (h.readTargets.onSol _).bump
  · exact h

theorem execSolveStageStart_keeps (memory : Secded) : Keeps x s (execSolveStageStart memory s) := .next fun h => by
  split
  · exact h
  · exact .ite h (((h.onSol _).kick _).bump)

theorem execResultHandoff_keeps : Keeps x s (execResultHandoff s) := .next fun h => by
  split
  · exact h
  · exact .ite h (.iteFrom (.iteTo ((h.onSol _).onAsz _ rfl (.inr id) (.inr id) (.inr id)) fun k => k.raiseEvent _)
      fun k => k.kick _)

theorem execStageDeadlineMiss_keeps (solve : Bool) : Keeps x s (execStageDeadlineMiss solve s) := .next fun h => .ite
  (by
    split
    · exact h
    · exact .ite h (h.onSol _))
  (by
    split
    · exact h
    · exact .ite h (h.onSol _).bump)

theorem execClusterCheck_keeps (cluster : Nat) (ok : Bool) : Keeps x s (execClusterCheck cluster ok s) :=
  .next fun h => .ite h (h.errEvent _)

theorem execSolverMemoryRewrite_keeps : Keeps x s (execSolverMemoryRewrite s) := .next fun h => .ite (h.onSol _) h

theorem execHoldLimitReached_keeps : Keeps x s (execHoldLimitReached s) := .next fun h => .ite (h.decideSafe _) h

theorem execJlTrain_keeps (c : Cmd) : Keeps x s (execJlTrain c s) :=
  .runCmd fun _ h => .ite (h.complete ..) (.ite (h.complete ..) (.ite (h.complete ..)
    ((Kept.foldl _ (fun _ _ hu => hu.onLine _ _) _ _ h).await ..)))

theorem execLineTrainingComplete_keeps (line : Nat) (report : TrainReport) :
    Keeps x s (execLineTrainingComplete line report s) :=
  .next fun h => .ite h ((Kept.testLine (Kept.foldl _ (fun _ _ hu => hu.onNode _ _) _ _ (h.onLine _ _)) _).onHl _
    rfl rfl).finishTrain

theorem execJlNodeConfig_keeps (c : Cmd) : Keeps x s (execJlNodeConfig c s) :=
  .runCmd fun _ h => .ite (h.complete ..) (.ite (h.complete ..) (.ite (h.complete ..) (.ite (h.complete ..)
    (((h.onJl _ rfl rfl List.length_set).testLine _).complete ..))))

theorem execJlStart_keeps (c : Cmd) : Keeps x s (execJlStart c s) :=
  .runCmd fun _ h => .ite (h.complete ..) (.ite (h.complete ..) (.ite (h.complete ..)
    (((Kept.foldl _ (fun _ _ hu => hu.startLine _) _ _ h).wdStart _).complete ..)))

theorem execJlStop_keeps (c : Cmd) : Keeps x s (execJlStop c s) :=
  .runCmd fun _ h => .ite (h.complete ..)
    ((Kept.foldl _ (fun _ _ hu => (hu.onLine _ _).muteLine _) _ _ h).complete ..)

theorem execDownFrameSend_keeps : Keeps x s (execDownFrameSend s) := .next fun h => .iteFrom
  ((Kept.onAsz (Kept.foldl _ (fun _ _ hu => hu.onNode _ _) _ _ h) _ rfl (.inr id) (.inr id)
    (.inr id)).countHold.captureSlots.onAsz _ rfl (.inr id) (.inr id) (.inr id))
  fun k => (Kept.foldl _ (fun _ _ hu => hu.sendLine _) _ _ k).kick _

theorem execUpFrameReceive_keeps (line : Nat) (bytes : List Byte) : Keeps x s (execUpFrameReceive line bytes s) :=
  .next fun h => .ite h (by
    have k := (h.inject 3 line 1).onJl (fun j => { j with injected := j.injected || (s.inject 3 line 1).1.isSome })
      rfl rfl rfl
    dsimp only
    split
    · exact k.judgeFrame _ _
    · exact .ite (k.judgeFrame _ _) k)

theorem execUpCommaWindowClose_keeps (line : Nat) (seen : Bool) : Keeps x s (execUpCommaWindowClose line seen s) :=
  .next fun h => .ite h (.ite (h.onLine _ _) (.ite ((h.onLine _ _).lineDown _) (h.onLine _ _)))

theorem execUpFrameDeadline_keeps : Keeps x s (execUpFrameDeadline s) :=
  .next fun h => .ite (h.onJl _ (List.length_map _) rfl rfl) (Kept.foldl _ (fun _ _ hu => hu.lateLine _) _ _ h)

/-! Intake. -/

theorem execItkStreamConfig_keeps (c : Cmd) : Keeps x s (execItkStreamConfig c s) :=
  .runCmd fun _ h => .ite (h.complete ..) (.ite (h.complete ..) (.ite (h.complete ..) (.ite (h.complete ..)
    ((h.onStream _ _).complete ..))))

theorem execItkPipeConfig_keeps (c : Cmd) : Keeps x s (execItkPipeConfig c s) :=
  .runCmd fun _ h => .ite (h.complete ..) (.ite (h.complete ..) (.ite (h.complete ..)
    ((h.onItk _ rfl rfl List.length_set rfl).complete ..)))

theorem execItkStreamStart_keeps (c : Cmd) : Keeps x s (execItkStreamStart c s) := .runCmd fun _ h =>
  .ite (h.complete ..) (by
    split
    · exact h.complete ..
    · split
      · exact h.complete ..
      · exact .ite (h.complete ..) (.ite (h.complete ..) (((h.onStream _ _).wdStart _).complete ..)))

theorem execItkStreamStop_keeps (c : Cmd) : Keeps x s (execItkStreamStop c s) := .runCmd fun _ h =>
  .ite (h.complete ..) (((Kept.onStream (Kept.foldl _ (fun _ _ hu => hu.void _ _ _) _ _ h) _ _).wdStop _).complete ..)

theorem execPipeAssign_keeps : Keeps x s (execPipeAssign s) := .next fun h => by
  split
  · exact (h.onPipe _ _).onFrame _ _ _
  · exact h

theorem execCsiFrameStart_keeps (port vc : Nat) (ecc : HeaderEcc) : Keeps x s (execCsiFrameStart port vc ecc s) :=
  .next fun h => .ite h (by
    have k := h.header port vc ecc
    dsimp only
    split
    · exact k
    · refine .ite k (Kept.startFrame ?_ _)
      split
      · exact k
      · exact Kept.onStream (Kept.onFrame (.ite (k.void _ _ _) k) _ _ _) _ _)

theorem execCsiLongPacket_keeps (port vc dt : Nat) (payload : List Byte) (ecc : HeaderEcc) (crcOk : Bool) :
    Keeps x s (execCsiLongPacket port vc dt payload ecc crcOk s) := .next fun h => .ite h (by
  have k := h.header port vc ecc
  refine .ite k (.ite (Kept.voidOpen (.ite (k.onPort _ _) ((k.onPort _ _).onPort _ _)) _ _ _)
    (.ite (.ite k (k.onPort _ _)) ?_))
  split
  · exact k
  · split
    · exact k
    · refine .ite ((k.onPort _ _).voidOpen _ _ _) (.ite k (.ite (.ite (k.void _ _ _) ?_) (k.addLine _ _ _ _)))
      dsimp only
      split
      · exact .ite ((k.takeBuf _ _).addLine _ _ _ _) (k.takeBuf _ _)
      · exact k.takeBuf _ _)

theorem execCsiFrameEnd_keeps (port vc : Nat) (ecc : HeaderEcc) : Keeps x s (execCsiFrameEnd port vc ecc s) :=
  .next fun h => .ite h (by
    have k := h.header port vc ecc
    dsimp only
    split
    · exact k
    · split
      · exact k
      · exact .ite k (Kept.onStream (Kept.leavePipe (Kept.onFrame (.ite (k.void _ _ _) k) _ _ _) _ _) _ _))

theorem execCsiPacketDiscard_keeps (port : Nat) (p : CsiHeader) : Keeps x s (execCsiPacketDiscard port p s) :=
  .next fun h => .ite h (.ite (h.header _ _ _) ((h.header _ _ _).onPort _ _))

theorem execSampleResolved_keeps (stream seq : Nat) (writeOk : Bool) :
    Keeps x s (execSampleResolved stream seq writeOk s) := .next fun h => by
  split
  · exact h
  · exact .ite h (.ite (h.voidLate _ _) (.ite (h.void _ _ _)
      ((((h.write _ _).carryWrite _ _ _ _ _).onFrame _ _ _).resolve _ _ _ _).bump))

theorem execDecodeBudgetExpiry_keeps (stream seq : Nat) : Keeps x s (execDecodeBudgetExpiry stream seq s) :=
  .next fun h => by
    split
    · exact h
    · exact .ite h (h.voidLate _ _)

theorem execPipeCheckFrameDone_keeps (pipe : Nat) (ok : Bool) : Keeps x s (execPipeCheckFrameDone pipe ok s) :=
  .next fun h => .ite h (h.errEvent _)

theorem execCsiPortLinkUp_keeps (port lanes : Nat) : Keeps x s (execCsiPortLinkUp port lanes s) :=
  .next fun h => .ite (h.onPort _ _) h

theorem execCsiPortLinkDown_keeps (port : Nat) : Keeps x s (execCsiPortLinkDown port s) := .next fun h => h.onPort _ _

/-! CAN FD. -/

theorem execCanConfig_keeps (c : Cmd) : Keeps x s (execCanConfig c s) :=
  .runCmd fun _ h => .ite (h.complete ..) (.ite (h.complete ..) ((h.onCan _ _).complete ..))

theorem execCanFilters_keeps (c : Cmd) : Keeps x s (execCanFilters c s) :=
  .runCmd fun _ h => .ite (h.complete ..) (.ite (h.complete ..)
    (.ite (((h.onCan _ _).await _ _).canSwitch _) ((h.onCan _ _).await _ _)))

theorem execCanSend_keeps (c : Cmd) : Keeps x s (execCanSend c s) := .runCmd fun _ h => .ite (h.complete ..) (by
  split
  · exact h.complete ..
  · exact .ite (h.complete ..) ((h.onCan _ _).await ..))

theorem execCanMode_keeps (c : Cmd) : Keeps x s (execCanMode c s) :=
  .runCmd fun _ h => .ite (h.complete ..) (.ite (h.complete ..) (.ite (h.complete ..) (.ite (h.complete ..)
    ((h.onCan _ _).await ..))))

theorem execCanRxqReleaseWrite_keeps (k f value : Nat) : Keeps x s (execCanRxqReleaseWrite k f value s) :=
  .next fun h => h.releaseRxq ..

theorem execCanFrameReceive_keeps (k : Nat) (frame : CanFrame) : Keeps x s (execCanFrameReceive k frame s) :=
  .next fun h => .ite (.ite (h.canRecoveryFrame _) h) (.ite ((h.canStore _ _).canRecDown _) h)

theorem execCanArbitration_keeps (k : Nat) : Keeps x s (execCanArbitration k s) := .next fun h => .ite h (by
  dsimp only
  split
  · exact h
  · exact (h.onCan _ _).bump)

theorem Kept.of_inject (h : Kept x r s) {target index dir : Nat} {w : Option (Nat × Inject)} {t : State}
    (e : s.inject target index dir = (w, t)) : Kept x r t := by
  have k := h.inject target index dir
  rwa [e] at k

theorem execCanFrameTransmitted_keeps (k : Nat) (loopDelay : Option Nat) :
    Keeps x s (execCanFrameTransmitted k loopDelay s) := .next fun h => by
  split
  · exact h
  · refine .ite (h.onCan _ _) ?_
    dsimp only
    split
    · next e => exact (Kept.canUnhold (Kept.of_inject (.ite (h.onCan _ _) h) e) _).canSent _ _ _
    · next e =>
      have j := Kept.of_inject (.ite (h.onCan _ _) h) e
      exact .ite ((j.onCan _ _).finish ..) (.ite (j.onCan _ _) ((j.onCan _ _).onFi _ _))

theorem execCanBusOff_keeps (k : Nat) : Keeps x s (execCanBusOff k s) :=
  .next fun h => .ite ((h.onCan _ _).raiseEvent _) h

theorem execCanBusOffRecovered_keeps (k : Nat) : Keeps x s (execCanBusOffRecovered k s) := .next fun h => h.onCan _ _

theorem execCanStuckDominant_keeps (k : Nat) : Keeps x s (execCanStuckDominant k s) :=
  .next fun h => .ite h ((h.onCan _ _).raiseEvent _)

theorem execCanTxTimeout_keeps (k : Nat) : Keeps x s (execCanTxTimeout k s) := .next fun h => .ite h (h.onCan _ _)

theorem execCanModeChangeEffect_keeps (k : Nat) : Keeps x s (execCanModeChangeEffect k s) := .next fun h => by
  split
  · exact h.canModeEffect _ _
  · exact h

theorem execCanFilterBankSwitch_keeps (k : Nat) : Keeps x s (execCanFilterBankSwitch k s) :=
  .next fun h => .ite (h.canSwitch _) h

theorem execCanRecoveryPauseTimeout_keeps : Keeps x s (execCanRecoveryPauseTimeout s) := .next fun h => h.onCan _ _

theorem execCanBusError_keeps (k : Nat) (err : CanError) : Keeps x s (execCanBusError k err s) :=
  .next fun h => h.onCan _ _

theorem execCanIntegrateAgain_keeps (k : Nat) : Keeps x s (execCanIntegrateAgain k s) := .next fun h => h.onCan _ _

/-! The Assize, watchdogs, emergency stops and the safe state. -/

theorem execSafeConfig_keeps (c : Cmd) : Keeps x s (execSafeConfig c s) :=
  .runCmd fun _ h => .ite (h.complete ..) (.ite (h.complete ..)
    ((h.onAsz _ rfl (.inr id) (.inr id) (.inr id)).complete ..))

theorem execSafeTrip_keeps (c : Cmd) : Keeps x s (execSafeTrip c s) :=
  .runCmd fun _ h => .ite ((h.decideSafe _).complete ..) (h.complete ..)

theorem execSafeRelease_keeps (c : Cmd) : Keeps x s (execSafeRelease c s) :=
  .runCmd fun _ h => .ite (h.complete ..) (.ite (h.complete ..)
    ((h.onAsz _ rfl (.inr id) (.inr id) (.inr id)).await ..))

theorem execSafeQuery_keeps (c : Cmd) : Keeps x s (execSafeQuery c s) := .runCmd fun _ h => h.complete ..

theorem execAssizeFirstPart_keeps : Keeps x s (execAssizeFirstPart s) :=
  .next fun h => .ite h (h.onAsz _ rfl (.inr id) (.inr id) (.inr id)).bump

theorem execAssizeCheck_keeps : Keeps x s (execAssizeCheck s) := .next fun h => by
  split
  · exact h
  · split
    · exact h
    · exact .ite h (.ite (h.onAsz _ rfl (.inr id) (.inr id) (.inr id))
        (h.onAsz _ rfl (.inr id) (.inr id) (.inr id)).disagree)

theorem execAssizeDeadlineMiss_keeps : Keeps x s (execAssizeDeadlineMiss s) := .next fun h => by
  split
  · exact h
  · exact .ite h (h.onAsz _ rfl (.inr id) (.inr id) (.inr id)).disagree

theorem execAssizeCopyCheck_keeps (flips : List Nat) : Keeps x s (execAssizeCopyCheck flips s) := .next fun h =>
  .iteFrom (h.onAsz _ rfl (.inr id) (.inr id) (.inr id)) fun k => k.decideSafe _

theorem execAssizeCopyReload_keeps : Keeps x s (execAssizeCopyReload s) := .next fun h => .ite h (h.copyToAssize ..)

theorem execWatchdogWindowClose_keeps (w : Nat) : Keeps x s (execWatchdogWindowClose w s) := .next fun h => by
  split
  · exact h
  · exact .ite h (.ite (h.wdFaulty _) h)

theorem execLockstepMismatch_keeps (pair : Pair) : Keeps x s (execLockstepMismatch pair s) :=
  .next fun h => h.haltPair _

theorem execHeartbeatLoss_keeps (pair : Pair) : Keeps x s (execHeartbeatLoss pair s) :=
  .next fun h => .ite (h.haltPair _) h

theorem execEstopChannelAssert_keeps (ch : Pair) : Keeps x s (execEstopChannelAssert ch s) := .next fun h => by
  cases ch <;> exact .ite h (.iteFrom (h.onAsz _ rfl (.inr id) (.inr id) (.inr id)) fun k => k.decideSafe _)

theorem execEstopChannelDeassert_keeps (ch : Pair) : Keeps x s (execEstopChannelDeassert ch s) := .next fun h => by
  cases ch <;> exact .ite h (h.onAsz _ rfl (.inr id) (.inr id) (.inr id))

theorem execEstopDiscrepancy_keeps : Keeps x s (execEstopDiscrepancy s) :=
  .next fun h => .ite h (((h.onAsz _ rfl (.inr id) (.inr id) (.inr id)).raiseEvent _).decideSafe _)

theorem execEstopClear_keeps : Keeps x s (execEstopClear s) :=
  .next fun h => .ite h (h.onAsz _ rfl (.inr id) (.inr id) (.inr id))

theorem execSafeStateEntry_keeps : Keeps x s (execSafeStateEntry s) :=
  .next fun h => .ite h ((h.onAsz _ rfl (.inr id) (.inr id) (.inr id)).driveSafe.broadcast.raiseEvent _)

theorem execTorqueOffPhaseStart_keeps : Keeps x s (execTorqueOffPhaseStart s) :=
  .next fun h => .ite (h.onAsz _ rfl (.inr id) (.inr id) (.inr id)) h

theorem execSafeReleaseEffect_keeps (hs : x.safe = true) : Keeps x s (execSafeReleaseEffect s) := .next fun h => by
  split
  · exact h
  · exact .ite h (.ite ((h.onAsz _ rfl (.inr id) (.inr id) (.inr id)).finish ..)
      (((h.onAsz _ rfl (.inr id) (.inr id) (.inr id)).onSol _).endSafe hs))

theorem execClockFault_keeps : Keeps x s (execClockFault s) := .next fun h => (h.onTb _ (.inr rfl)).decideSafe _

theorem execSupplyFault_keeps (y : RailSamples) : Keeps x s (execSupplyFault y s) := .next fun h =>
  .ite h (.iteFrom (.ite (h.onAsz _ rfl (.inr id) (.inr id) (.inr id)).driveSafe h) fun k => (k.decideSafe _).driveSafe)

theorem execSafetyParamsLost_keeps : Keeps x s (execSafetyParamsLost s) := .next fun h =>
  .iteTo (h.onAsz _ rfl (.inr id) (.inr id) (.inr id)) fun k => k.decideSafe _

/-! Firmware, configuration, the recorder, tests and power. -/

theorem execFwBegin_keeps (c : Cmd) : Keeps x s (execFwBegin c s) := .runFw fun _ h => by
  dsimp only
  split
  · exact h.complete ..
  · exact h.complete ..
  · exact h.complete ..
  · exact .ite (h.complete ..) (.ite (h.complete ..) ((h.onFw _).complete ..))

theorem execFwPiece_keeps (c : Cmd) : Keeps x s (execFwPiece c s) := .next fun h => .ite h (h.runFw fun _ h =>
  .ite (h.complete ..) (.ite (h.complete ..) (.ite (h.complete ..) (.ite (h.complete ..) ((h.onFw _).await ..)))))

theorem execFwStatus_keeps (c : Cmd) : Keeps x s (execFwStatus c s) := .runFw fun _ h =>
  .ite (h.complete ..) (.ite (h.complete ..) (.ite (.ite (h.complete ..) ((h.complete ..).bitmapFrames _)) (h.output ..)))

theorem execFwCommit_keeps (c : Cmd) : Keeps x s (execFwCommit c s) := .runFw fun _ h =>
  .ite (h.complete ..) (.ite ((h.onFw _).complete ..) (.ite ((h.onFw _).complete ..) ((h.onFw _).complete ..)))

theorem execFwAbort_keeps (c : Cmd) : Keeps x s (execFwAbort c s) :=
  .runFw fun _ h => .ite ((h.onFw _).complete ..) (h.complete ..)

theorem execCfgRead_keeps (c : Cmd) : Keeps x s (execCfgRead c s) :=
  .runCmd fun _ h => .ite (h.complete ..) (h.output ..)

theorem execCfgWrite_keeps (c : Cmd) : Keeps x s (execCfgWrite c s) :=
  .runCmd fun _ h => .ite (h.complete ..) ((h.onFw _).complete ..)

theorem execCfgCommit_keeps (c : Cmd) : Keeps x s (execCfgCommit c s) := .next fun h => .ite h (h.runCmd fun _ h => by
  dsimp only
  split
  · exact (h.complete ..).bump
  · exact (h.onFw _).await ..)

theorem execWearRecordWrite_keeps : Keeps x s (execWearRecordWrite s) := .next fun h => .ite h (h.onFw _)

theorem execFlashOperationDone_keeps (ok : Bool) : Keeps x s (execFlashOperationDone ok s) := .next fun h => by
  split
  · exact h
  · refine .ite h ?_
    split
    · exact (h.onFw _).finish ..
    · exact (h.onFw _).finish ..
    · exact (h.onFw _).onSpr _

theorem execRecConfig_keeps (c : Cmd) : Keeps x s (execRecConfig c s) := .runCmd fun _ h =>
  .ite (h.complete ..) (.ite (h.complete ..) (.ite (h.complete ..) (by
    split
    · exact h.complete ..
    · exact (h.startRing _ _).complete ..)))

theorem execRecFreeze_keeps (c : Cmd) : Keeps x s (execRecFreeze c s) := .runCmd fun _ h => by
  split
  · exact h.complete ..
  · exact (h.recTrigger _).complete ..
  · exact (h.recTrigger _).await ..

theorem execRecorderFreeze_keeps : Keeps x s (execRecorderFreeze s) :=
  .next fun h => .ite h (((h.onRec _).onRec _).finish ..)

theorem execRecExport_keeps (c : Cmd) : Keeps x s (execRecExport c s) :=
  .runCmd fun _ h => .ite (h.complete ..) (.ite (h.complete ..) (.ite (h.complete ..) (h.await ..).runExports))

theorem execRecReplay_keeps (c : Cmd) : Keeps x s (execRecReplay c s) := .runCmd fun _ h =>
  .ite (h.complete ..) (.ite (h.complete ..) (.ite (h.complete ..) (by
    split
    · exact h.complete ..
    · exact (h.onRec _).canStopDisallowed.await ..)))

theorem execReplayEvent_keeps : Keeps x s (execReplayEvent s) := .next fun h => by
  split
  · exact h
  · dsimp only
    split
    · exact h.onRec _
    · exact (h.onRec _).replayRecord _ _

theorem execTestInject_keeps (c : Cmd) : Keeps x s (execTestInject c s) :=
  .runCmd fun _ h => .ite (h.complete ..) (.ite (h.complete ..) (.ite (h.complete ..) ((h.onFi _ _).complete ..)))

theorem execTestSelftest_keeps (c : Cmd) (found : SelftestReport) : Keeps x s (execTestSelftest c found s) :=
  .runCmd fun _ h => .ite (h.complete ..) ((h.applyFindings _).complete ..)

theorem execTestLoopback_keeps (c : Cmd) (unitsInError : Nat) : Keeps x s (execTestLoopback c unitsInError s) :=
  .runCmd fun _ h => .ite (h.complete ..) (.ite (h.complete ..) (h.complete ..))

theorem execPwrStateEnterRetainedIdle_keeps (c : Cmd) : Keeps x s (execPwrStateEnterRetainedIdle c s) :=
  .next fun h => .ite h (h.runCmd fun _ h => .ite (h.complete ..) (.ite (h.complete ..) (.ite (h.complete ..)
    (.ite (h.complete ..) ((Kept.foldl _ (fun _ _ hu => hu.onDram _ _) _ _ (h.onPwr _ rfl rfl rfl rfl rfl)).await ..)))))

theorem execRetainedIdleEntered_keeps : Keeps x s (execRetainedIdleEntered s) := .next fun h => .ite h
  ((Kept.onCores (Kept.foldl _ (fun _ _ hu => hu.onDram _ _) _ _ (h.newOff _ rfl rfl rfl rfl rfl)) _
    (List.length_map _) rfl).finish ..)

theorem execPwrStateLeaveRetainedIdle_keeps (c : Cmd) : Keeps x s (execPwrStateLeaveRetainedIdle c s) :=
  .next fun h => .ite h (h.runCmd fun _ h => .ite (h.complete ..) (.ite (h.complete ..)
    ((h.onPwr _ rfl rfl rfl rfl rfl).await ..)))

theorem execRetainedIdleLeft_keeps : Keeps x s (execRetainedIdleLeft s) := .next fun h => .ite h
  ((Kept.onPwr (Kept.foldl _ (fun _ _ hu => hu.wakeDie _) _ _ h) _ rfl rfl rfl rfl rfl).finish ..)

theorem execPwrLimit_keeps (c : Cmd) : Keeps x s (execPwrLimit c s) := .runCmd fun _ h =>
  .ite ((h.onPwr _ rfl rfl rfl rfl rfl).complete ..) (.ite (h.complete ..)
    ((h.onPwr _ rfl rfl rfl rfl rfl).complete ..))

theorem execPwrQuery_keeps (c : Cmd) : Keeps x s (execPwrQuery c s) := .runCmd fun _ h => h.complete ..

theorem execOpChangeSettled_keeps (die : Nat) : Keeps x s (execOpChangeSettled die s) := .next fun h => by
  split
  · exact h
  · exact h.onPwr _ List.length_set List.length_set rfl rfl rfl

theorem execFurlongBoundary_keeps (power : PowerSample) : Keeps x s (execFurlongBoundary power s) := .next fun h =>
  .ite h (.ite (h.shiftTherm.onPwr _ rfl rfl rfl rfl rfl) ((h.shiftTherm.onPwr _ rfl rfl rfl rfl rfl).decidePower _).park)

/-! Rings, registers and the host link. -/

theorem execSqDoorbell_keeps (ctx value : Nat) (host : List HostRun) : Keeps x s (execSqDoorbell ctx value host s) :=
  .next fun h => .ite ((h.hostRuns _).onCtx _ _) ((h.hostRuns _).onCtx _ _)

theorem execCqDoorbell_keeps (ctx value : Nat) : Keeps x s (execCqDoorbell ctx value s) :=
  .next fun h => .ite ((h.onCtx _ _).flushRing _) (h.onCtx _ _)

theorem execCommandTake_keeps : Keeps x s (execCommandTake s) := .next fun h => .ite h (by
  split
  · exact h
  · exact (h.onHl _ rfl rfl).takeFrom _)

theorem execCommandStartDeadlineExpiry_keeps (ctx : Nat) : Keeps x s (execCommandStartDeadlineExpiry ctx s) :=
  .next fun h => by
    split
    · exact h
    · exact (h.onCtx _ _).bump.produce _ _

theorem execCtx0Enable_keeps (value : Nat) : Keeps x s (execCtx0Enable value s) := .next fun h => h.writeCtx0Cfg _

theorem execCtx0Disable_keeps (value : Nat) : Keeps x s (execCtx0Disable value s) := .next fun h => h.writeCtx0Cfg _

theorem execBar2BaseWrite_keeps (value : Nat) : Keeps x s (execBar2BaseWrite value s) :=
  .next fun h => h.onHl _ rfl rfl

theorem Kept.onBus (h : Kept x r s) (b : BusReply) : Kept x r (s.onHl fun l => { l with bus := b }) := h.onHl _ rfl rfl

theorem execBar2Read_keeps (offset len : Nat) : Keeps x s (execBar2Read offset len s) := .next fun h =>
  .ite (h.bar2Refuse.onBus _) (Kept.onBus (((h.afterRead _ _).bankEvents _ _).carryRead ..) _)

theorem execBar2Write_keeps (offset : Nat) (data : List Byte) : Keeps x s (execBar2Write offset data s) :=
  .next fun h => .ite h.bar2Refuse (h.putOut _ _)

theorem execPtmRequest_keeps (value : Nat) : Keeps x s (execPtmRequest value s) := .next fun h => h.writePtm _

theorem execPtmIntervalExpiry_keeps : Keeps x s (execPtmIntervalExpiry s) := .next fun h => .ite h.startPtm h

theorem execPtmDialogComplete_keeps (result : PtmResult) : Keeps x s (execPtmDialogComplete result s) :=
  .next fun h => .ite h (by cases result <;> exact h.onTb _ (.inr rfl))

theorem execPtmHostLoRead_keeps (requester : Nat) : Keeps x s (execPtmHostLoRead requester s) :=
  .next fun h => h.busRead ..

theorem execLoRegisterRead_keeps (requester offset : Nat) : Keeps x s (execLoRegisterRead requester offset s) :=
  .next fun h => h.busRead ..

theorem execRcRegisterRead_keeps (offset : Nat) : Keeps x s (execRcRegisterRead offset s) := .next fun h => h.busRead ..

theorem execRegisterWrite_keeps (offset value : Nat) : Keeps x s (execRegisterWrite offset value s) :=
  .next fun h => h.writeReg ..

theorem execHostLinkUp_keeps (width rate : Nat) (ptm : Bool) : Keeps x s (execHostLinkUp width rate ptm s) :=
  .next fun h => .ite h (Kept.foldl _ (fun _ _ hu => hu.flushRing _) _ _
    ((h.onHl _ rfl rfl).onTb _ (.inr rfl)).hostSlots)

theorem execHostLinkDown_keeps (how : LinkDownKind) : Keeps x s (execHostLinkDown how s) :=
  .next fun h => .ite h (Kept.foldl _ (fun _ _ hu => hu.startClose _) _ _
    ((h.onHl _ rfl rfl).onTb _ (.inr rfl)).disableCtx0).settleCloses

theorem execHostDmaReadCompletion_keeps (ctx tag : Nat) (data : List HostRun) :
    Keeps x s (execHostDmaReadCompletion ctx tag data s) := .next fun h => .ite h (by
  split
  · exact h
  · split
    · exact ((h.hostRuns _).onHl _ rfl rfl).runCopy _ _ _ _
    · exact h)

/-! Resets, the start and the time base. -/

theorem execResetAssert_keeps (hm : x.mode = true) (hl : x.link = true) (hs : x.safe = true) (hp : x.pairs = true) :
    Keeps x s (execResetAssert s) := .next fun h => h.inResetFrom hm hl hs hp

theorem execPowerLoss_keeps (hm : x.mode = true) (hl : x.link = true) (hs : x.safe = true) (hp : x.pairs = true) :
    Keeps x s (execPowerLoss s) := .next fun h => h.inResetFrom hm hl hs hp

theorem execDevResetWrite_keeps (value : Nat) (hm : x.mode = true) (hl : x.link = true) (hs : x.safe = true)
    (hp : x.pairs = true) : Keeps x s (execDevResetWrite value s) := .next fun h => .ite (h.inResetFrom hm hl hs hp) h

theorem execHubResetRelease_keeps (bootsel : Nat) (hm : x.mode = true) : Keeps x s (execHubResetRelease bootsel s) :=
  .next fun h => .ite h (by
    have k : Kept x s { s with starts := s.starts + 1 } := ⟨h.1, h.2, h.3, h.4, h.5, h.6, h.7, h.8⟩
    exact ((k.onDev _ (.inl hm)).onFw _).driveSafe.driveSyncOut)

theorem execStartSequenceComplete_keeps (report : StartReport) (hm : x.mode = true) :
    Keeps x s (execStartSequenceComplete report s) := .next fun h => by
  refine .ite h (.ite (h.enterRecovery _ hm) (.ite (h.enterRecovery _ hm) ?_))
  have copied := h.copyStaged report
  split
  next e =>
    rw [e] at copied
    refine .ite (copied.enterRecovery _ hm) (.ite (Kept.enterBench ?started _ hm) (Kept.enterConfig ?started hm))
    have wear := (copied.readImage report.keyMatches report.startMs).readConfig.readWear report.rebuilt
    have segments := Kept.foldl _ (fun _ g hu => hu.startSegment g (report.segFwd.getD g true)
      (report.segRev.getD g true)) (List.range 5) _ wear
    have dies := fun es => Kept.foldl _ (fun _ d hu => hu.startDie d (report.dieOk.getD d true)
      (report.stackOk.getD d true)) (List.range 4) _ (Kept.foldl _ (fun _ q hu => hu.applyEntry q) es _ segments)
    exact (((dies _).applyConfig.initMemory.sendP0Mask.onFw _).onDev _ (.inr rfl)).onSch _

theorem execLinkBoundary_keeps (estopA estopB : Bool) (hl : x.link = true) :
    Keeps x s (execLinkBoundary estopA estopB s) := .next fun h => .ite h (h.endLink.beginLink _ _ hl)

theorem execChainBoundary_keeps (temps : TempSample) : Keeps x s (execChainBoundary temps s) :=
  .next fun h => .ite h (h.sendCounts.changeRow.resumeCheck.taskSwitch.serviceClusters.sampleTemps _)

theorem execLinkCountCheck_keeps (die count : Nat) : Keeps x s (execLinkCountCheck die count s) :=
  .next fun h => .ite h (.iteFrom (h.onTb _ (.inr rfl)) fun k => ((k.onDram _ _).deviceFault _).decideSafe _)

theorem execRunEntryAtMile_keeps (hm : x.mode = true) : Keeps x s (execRunEntryAtMile s) := .next fun h => by
  split
  · exact h
  · exact .ite h (.ite (h.dropRun _ _) (h.startRun _ hm))

theorem execSyncAlignEdge_keeps (cycles : Nat) (hm : x.mode = true) (hl : x.link = true) :
    Keeps x s (execSyncAlignEdge cycles s) := .next fun h => by
  split
  · exact h
  · exact .ite h (.ite (h.dropRun _ _) ((((h.endLink.onTb _ (.inr rfl)).onSch _).beginLink _ _ hl).startRun _ hm))

theorem execSyncAlignTimeout_keeps : Keeps x s (execSyncAlignTimeout s) := .next fun h => by
  split
  · exact h
  · exact .ite h (h.dropRun _ _)

theorem execSyncInEdge_keeps (cycle : Nat) : Keeps x s (execSyncInEdge cycle s) := .next fun h => .ite h (by
  split <;> exact h.onTb _ (.inr rfl))

theorem execSyncLost_keeps : Keeps x s (execSyncLost s) := .next fun h => .ite h ((h.onTb _ (.inr rfl)).raiseEvent _)

/-! The package ring and the stacked DRAM. -/

theorem execRingFlitReceive_keeps (seg : Nat) (dir : RingDir) (flit : Flit) (lanes : List Nat) :
    Keeps x s (execRingFlitReceive seg dir flit lanes s) :=
  .next fun h => .ite h (.ite ((h.onSegDir _ _ _).injectFlit ..) ((h.onSegDir _ _ _).arriveFlit ..))

theorem execRingAck_keeps (seg : Nat) (dir : RingDir) (seq : Nat) : Keeps x s (execRingAck seg dir seq s) :=
  .next fun h => .ite ((h.onSegDir _ _ _).pump _ _) h

theorem execRingNak_keeps (seg : Nat) (dir : RingDir) (seq : Nat) : Keeps x s (execRingNak seg dir seq s) :=
  .next fun h => .ite h (.iteTo (h.onSegDir _ _ _) fun k => k.retrain _)

theorem execRingAckTimeout_keeps (seg : Nat) (dir : RingDir) : Keeps x s (execRingAckTimeout seg dir s) :=
  .next fun h => .ite h (h.onSegDir _ _ _)

theorem execRingCredit_keeps (seg : Nat) (dir : RingDir) (vc count : Nat) :
    Keeps x s (execRingCredit seg dir vc count s) := .next fun h => .ite h ((h.onSegDir _ _ _).pump _ _)

theorem execRingRetrainDone_keeps (seg : Nat) (fwdUp revUp : Bool) :
    Keeps x s (execRingRetrainDone seg fwdUp revUp s) :=
  .next fun h => .ite h (((h.onSeg _ _).pump _ _).pump _ _)

theorem execRingLaneSpare_keeps (seg : Nat) (dir : RingDir) (scanFails : List Nat) :
    Keeps x s (execRingLaneSpare seg dir scanFails s) :=
  .next fun h => .ite h (Kept.foldl _ (fun _ _ hu => hu.retireRingLane _ _ _) _ _
    (Kept.foldl _ (fun _ _ hu => hu.makeLasting _) _ _ (h.onSegDir _ _ _)))

theorem execRingReadRequest_keeps (vc src : Nat) (d : Desc) (ecc : List Ecc) (flips : List Nat) :
    Keeps x s (execRingReadRequest vc src d ecc flips s) :=
  .next fun h => .ite h (.ite (h.answerFree ..) (.ite (h.leave ..) (h.serveRead ..)))

theorem execRingWriteRequest_keeps (vc src : Nat) (d : Desc) (data : List Byte) (poison : Bool) (ecc : List Ecc) :
    Keeps x s (execRingWriteRequest vc src d data poison ecc s) := .next fun h => .ite h (.ite (h.leave ..) (by
  split
  next e =>
    split at e
    · cases e
      exact h.sendPacket ..
    · have k := h.serveWrite d data poison ecc
      rw [e] at k
      exact k.sendPacket ..))

theorem execRingReadResponse_keeps (d : Desc) (data : List Byte) (poison : Bool) :
    Keeps x s (execRingReadResponse d data poison s) := .next fun h => (h.onRing _ rfl rfl).responseFault _ _

theorem execRingWriteResponse_keeps (d : Desc) : Keeps x s (execRingWriteResponse d s) :=
  .next fun h => (h.onRing _ rfl rfl).responseFault _ _

theorem execRingMessage_keeps (d : Desc) : Keeps x s (execRingMessage d s) := .next fun h => h.onRing _ rfl rfl

theorem execPeerAccess_keeps (link slot offset len : Nat) (src : PeerSource) (write : Bool) (data : List Byte) :
    Keeps x s (execPeerAccess link slot offset len src write data s) := .next fun h =>
  .ite (((h.inject _ _ _).onHl _ rfl (List.length_modify ..)).servePeer ..)
    ((h.inject _ _ _).onRing _ rfl (List.length_modify ..))

theorem execPlinkTrain_keeps (link lanes far : Nat) : Keeps x s (execPlinkTrain link lanes far s) :=
  .next fun h => .iteTo (h.onRing _ rfl List.length_set) fun k => k.raiseEvent _

theorem execRowRemapDone_keeps (die : Nat) : Keeps x s (execRowRemapDone die s) := .next fun h => h.remapDone _

theorem execDramRefresh_keeps (die channel : Nat) (scanFails : List Nat) :
    Keeps x s (execDramRefresh die channel scanFails s) :=
  .next fun h => .ite h (Kept.foldl _ (fun _ _ hu => hu.retireTsvLane _ _ _) _ _
    (.ite (Kept.foldl _ (fun _ _ hu => hu.makeLasting _) _ _ (h.onDram _ _)) h))

theorem execPatrolScrubRead_keeps (die : Nat) (ecc : Ecc) : Keeps x s (execPatrolScrubRead die ecc s) :=
  .next fun h => .ite h (.iteTo ((h.readGranule _ _).onDram _ _) fun k => k.raiseEvent _)

/-! Tile programs and their units. -/

theorem execTmark_keeps (core : Nat) (flips : List Nat) : Keeps x s (execTmark core flips s) :=
  .tileOp fun _ _ h => h.waitFor ..

theorem execHalt_keeps (core : Nat) : Keeps x s (execHalt core s) := .tileOp fun _ _ h => h.waitFor ..

theorem execMxm_keeps (core gDesc gAct gWt gOut m n : Nat) (flips : List Nat) :
    Keeps x s (execMxm core gDesc gAct gWt gOut m n flips s) := .tileOp fun _ _ h =>
  .ite (h.tileFault _ _) (h.readOwn _ _ fun _ h => .ite ((h.afterTileRead _ _ _).tileFault _ _)
    (.ite ((h.afterTileRead _ _ _).tileFault _ _) ((h.afterTileRead _ _ _).waitFor _ _)))

theorem execVop_keeps (core gDesc : Nat) (flips : List Nat) : Keeps x s (execVop core gDesc flips s) :=
  .tileOp fun _ _ h => .ite (h.tileFault _ _) (h.readOwn _ _ fun _ h => by
    have k {a n : Nat} := h.afterTileRead core a n
    exact .ite (k.tileFault _ _) (.ite (k.tileFault _ _) (.ite (k.vopBlock _ _ _) (.ite (k.tileFault _ _)
      (k.readOwn _ _ fun _ h => (h.afterTileRead _ _ _).vopBlock _ _ _)))))

theorem execGridld_keeps (core grid gAddr : Nat) : Keeps x s (execGridld core grid gAddr s) := .tileOp fun _ _ h =>
  .ite (h.tileFault _ _) (h.readOwn _ _ fun _ h => (h.afterTileRead _ _ _).onReg _ _)

theorem execDma_keeps (core channel gDesc : Nat) (flips : List Nat) : Keeps x s (execDma core channel gDesc flips s) :=
  .tileOp fun _ _ h => .ite (h.tileFault _ _) (h.readOwn _ _ fun _ h => .ite ((h.afterTileRead _ _ _).tileFault _ _)
    ((h.afterTileRead _ _ _).readOwn _ _ fun _ h => .ite (h.tileFault _ _) (h.waitFor _ _)))

theorem execDwait_keeps (core mask : Nat) : Keeps x s (execDwait core mask s) := .tileOp fun _ _ h => h.waitFor ..

theorem execUwait_keeps (core mask : Nat) : Keeps x s (execUwait core mask s) := .tileOp fun _ _ h => h.waitFor ..

theorem execSig_keeps (core gRank sem : Nat) : Keeps x s (execSig core gRank sem s) :=
  .tileOp fun _ _ h => (h.onCore _ _).advance _

theorem execWaits_keeps (core sem gCount : Nat) : Keeps x s (execWaits core sem gCount s) :=
  .tileOp fun _ _ h => h.onCore _ _

theorem execLive_keeps (core entry gBase gLen : Nat) : Keeps x s (execLive core entry gBase gLen s) :=
  .tileOp fun _ _ h => .ite (h.tileFault _ _) (h.onReg _ _)

theorem execFlagrd_keeps (core gD : Nat) : Keeps x s (execFlagrd core gD s) := .tileOp fun _ _ h => h.onReg _ _

theorem execRankdpa_keeps (core gD gRank : Nat) : Keeps x s (execRankdpa core gD gRank s) :=
  .tileOp fun _ _ h => (h.onReg _ _).bump

theorem execTsrd_keeps (core gD : Nat) : Keeps x s (execTsrd core gD s) := .tileOp fun _ _ h => (h.onReg _ _).bump

theorem execScalarInstruction_keeps (core : Nat) (op : Scalar) (flips : List Nat) :
    Keeps x s (execScalarInstruction core op flips s) := .tileOp fun _ _ h => h.scalarStep ..

theorem execMatrixInstructionComplete_keeps (core : Nat) (flips : List Nat) :
    Keeps x s (execMatrixInstructionComplete core flips s) := .unitOp fun _ _ h => by
  split
  · exact h
  · exact h.readOwn _ _ fun _ h => .ite ((h.onCore _ _).bump.resume _) (((h.write _ _).bump.onCore _ _).resume _)

theorem execVectorInstructionComplete_keeps (core : Nat) (flips : List Nat) :
    Keeps x s (execVectorInstructionComplete core flips s) := .unitOp fun _ _ h => by
  split
  · exact h
  · exact h.readOwn _ _ fun _ h =>
      ((Kept.bump (Kept.foldl _ (fun _ _ hu => hu.write _ _) _ _ h)).onCore _ _).resume _

theorem Kept.lookupsIf (h : Kept x r s) (c : Prop) [Decidable c] (g pool : Nat) (l : List Nat) :
    Kept x r (if c then s.dmaLookups g pool l else (true, s)).2 := by
  split
  · exact Kept.dmaLookups g pool l h
  · exact h

theorem execDmaDescriptorComplete_keeps (core channel : Nat) (flips : List Nat) :
    Keeps x s (execDmaDescriptorComplete core channel flips s) := .unitOp fun _ _ h => by
  split
  · exact h
  · exact h.readOwn _ _ fun _ h => .iteFrom (h.lookupsIf _ _ _ _) fun k => .ite (k.tileFault _ _)
      (.iteFrom (k.dmaCopy _ _ _ _) fun k => ((k.onCore _ _).startDma _ _).resume _)

theorem execTileTimerExpiry_keeps (core : Nat) : Keeps x s (execTileTimerExpiry core s) :=
  .next fun h => .ite (h.tileFault _ _) h

theorem execContextSaveDone_keeps (core : Nat) : Keeps x s (execContextSaveDone core s) :=
  .next fun h => .ite (Kept.foldl _ (fun _ _ hu => hu.driveOut _) _ _ (h.saveDone _)) h

theorem execContextRestoreDone_keeps (core : Nat) : Keeps x s (execContextRestoreDone core s) := .next fun h => by
  split
  · exact h
  · dsimp only
    split
    · exact h
    · exact .ite h (.ite ((h.afterRead _ _).failOn _ _) (Kept.onCore (Kept.loadDescs (Kept.loadCode
        (Kept.foldl _ (fun _ _ hu => hu.write _ _) _ _ (Kept.clearSpad (.ite h (h.carryRead ..)) _)) _ _) _ _) _ _).bump)

theorem execBankMigrationDone_keeps (core : Nat) (flips : List Nat) : Keeps x s (execBankMigrationDone core flips s) :=
  .next fun h => by
    split
    · exact h
    · exact Kept.onCore (Kept.foldl _ (fun _ _ hu => hu.bankEvents _ _) _ _ (h.flipParity _)) _ _

theorem execSelftestVector_keeps (die phys : Nat) (result : VectorResult) :
    Keeps x s (execSelftestVector die phys result s) := .next fun h => .ite h (by
  cases result with
  | pass => exact h.onPhys _ _
  | coreFail => exact h.errEvent _
  | bankFail b => exact h.errEvent _)

/-! The commands that may change a kept item, and what every command keeps. -/

/-- What the manual lets a command change beside what every other keeps: the mode (R6, R21, R22, R471), LINK_COUNT
(R10, R22), the safe state (R402, R404), and all of these and the pairs where the device is reset (R548, R562, R564). -/
def exempt : Instr → Exempt
  | .devMode _ => { mode := true, safe := true }
  | .runEntryAtMile => { mode := true }
  | .syncAlignEdge _ => { mode := true, link := true }
  | .startSequenceComplete _ => { mode := true }
  | .hubResetRelease _ => { mode := true }
  | .linkBoundary _ _ => { link := true }
  | .safeReleaseEffect => { safe := true }
  | .resetAssert => { mode := true, link := true, safe := true, pairs := true }
  | .powerLoss => { mode := true, link := true, safe := true, pairs := true }
  | .devResetWrite _ => { mode := true, link := true, safe := true, pairs := true }
  | _ => {}

/-- Every command answers a next state and keeps what its exemption does not let go. -/
theorem exec_keeps (c : Instr) (s : State) : Keeps (exempt c) s (exec c s) :=
  match c with
  | .devInfo c => execDevInfo_keeps c
  | .devMode c => execDevMode_keeps c rfl rfl
  | .devContextOpen c => execDevContextOpen_keeps c
  | .devContextClose c => execDevContextClose_keeps c
  | .devIdentity c => execDevIdentity_keeps c
  | .devAttest c => execDevAttest_keeps c
  | .memAlloc c => execMemAlloc_keeps c
  | .memFree c => execMemFree_keeps c
  | .memCopy c => execMemCopy_keeps c
  | .memFill c => execMemFill_keeps c
  | .memWindowOpen c => execMemWindowOpen_keeps c
  | .memWindowClose c => execMemWindowClose_keeps c
  | .windowDrainDone slot => execWindowDrainDone_keeps slot
  | .jobSubmit c => execJobSubmit_keeps c
  | .jobCancel c => execJobCancel_keeps c
  | .jobQuery c => execJobQuery_keeps c
  | .schLoad c => execSchLoad_keeps c
  | .schArm c => execSchArm_keeps c
  | .schPartition c => execSchPartition_keeps c
  | .schQuery c => execSchQuery_keeps c
  | .kvPoolCreate c => execKvPoolCreate_keeps c
  | .kvSeqCreate c => execKvSeqCreate_keeps c
  | .kvSeqFork c => execKvSeqFork_keeps c
  | .kvSeqFree c => execKvSeqFree_keeps c
  | .kvSwapArea c => execKvSwapArea_keeps c
  | .kvSwapOut c => execKvSwapOut_keeps c
  | .kvSwapIn c => execKvSwapIn_keeps c
  | .kvCompact c => execKvCompact_keeps c
  | .kvQuery c => execKvQuery_keeps c
  | .solModelLoad c => execSolModelLoad_keeps c
  | .solTasksLoad c => execSolTasksLoad_keeps c
  | .solContacts c => execSolContacts_keeps c
  | .solStart c => execSolStart_keeps c
  | .solStop c => execSolStop_keeps c
  | .solQuery c => execSolQuery_keeps c
  | .itkStreamConfig c => execItkStreamConfig_keeps c
  | .itkPipeConfig c => execItkPipeConfig_keeps c
  | .itkStreamStart c => execItkStreamStart_keeps c
  | .itkStreamStop c => execItkStreamStop_keeps c
  | .jlTrain c => execJlTrain_keeps c
  | .lineTrainingComplete line report => execLineTrainingComplete_keeps line report
  | .jlNodeConfig c => execJlNodeConfig_keeps c
  | .jlStart c => execJlStart_keeps c
  | .jlStop c => execJlStop_keeps c
  | .canConfig c => execCanConfig_keeps c
  | .canFilters c => execCanFilters_keeps c
  | .canSend c => execCanSend_keeps c
  | .canMode c => execCanMode_keeps c
  | .safeConfig c => execSafeConfig_keeps c
  | .safeTrip c => execSafeTrip_keeps c
  | .safeRelease c => execSafeRelease_keeps c
  | .safeQuery c => execSafeQuery_keeps c
  | .fwBegin c => execFwBegin_keeps c
  | .fwPiece c => execFwPiece_keeps c
  | .fwStatus c => execFwStatus_keeps c
  | .fwCommit c => execFwCommit_keeps c
  | .fwAbort c => execFwAbort_keeps c
  | .cfgRead c => execCfgRead_keeps c
  | .cfgWrite c => execCfgWrite_keeps c
  | .cfgCommit c => execCfgCommit_keeps c
  | .recConfig c => execRecConfig_keeps c
  | .recFreeze c => execRecFreeze_keeps c
  | .recExport c => execRecExport_keeps c
  | .recReplay c => execRecReplay_keeps c
  | .testInject c => execTestInject_keeps c
  | .testSelftest c found => execTestSelftest_keeps c found
  | .testLoopback c unitsInError => execTestLoopback_keeps c unitsInError
  | .pwrStateEnterRetainedIdle c => execPwrStateEnterRetainedIdle_keeps c
  | .pwrStateLeaveRetainedIdle c => execPwrStateLeaveRetainedIdle_keeps c
  | .pwrLimit c => execPwrLimit_keeps c
  | .pwrQuery c => execPwrQuery_keeps c
  | .sqDoorbell ctx value host => execSqDoorbell_keeps ctx value host
  | .cqDoorbell ctx value => execCqDoorbell_keeps ctx value
  | .commandTake => execCommandTake_keeps
  | .commandStartDeadlineExpiry ctx => execCommandStartDeadlineExpiry_keeps ctx
  | .devResetWrite value => execDevResetWrite_keeps value rfl rfl rfl rfl
  | .ctx0Enable value => execCtx0Enable_keeps value
  | .ctx0Disable value => execCtx0Disable_keeps value
  | .bar2BaseWrite value => execBar2BaseWrite_keeps value
  | .bar2Read offset len => execBar2Read_keeps offset len
  | .bar2Write offset data => execBar2Write_keeps offset data
  | .canRxqReleaseWrite k f value => execCanRxqReleaseWrite_keeps k f value
  | .ptmRequest value => execPtmRequest_keeps value
  | .ptmIntervalExpiry => execPtmIntervalExpiry_keeps
  | .ptmDialogComplete result => execPtmDialogComplete_keeps result
  | .ptmHostLoRead requester => execPtmHostLoRead_keeps requester
  | .loRegisterRead requester offset => execLoRegisterRead_keeps requester offset
  | .rcRegisterRead offset => execRcRegisterRead_keeps offset
  | .registerWrite offset value => execRegisterWrite_keeps offset value
  | .hostLinkDown how => execHostLinkDown_keeps how
  | .hubResetRelease bootsel => execHubResetRelease_keeps bootsel rfl
  | .startSequenceComplete report => execStartSequenceComplete_keeps report rfl
  | .resetAssert => execResetAssert_keeps rfl rfl rfl rfl
  | .powerLoss => execPowerLoss_keeps rfl rfl rfl rfl
  | .linkBoundary estopA estopB => execLinkBoundary_keeps estopA estopB rfl
  | .chainBoundary temps => execChainBoundary_keeps temps
  | .furlongBoundary power => execFurlongBoundary_keeps power
  | .opChangeSettled die => execOpChangeSettled_keeps die
  | .linkCountCheck die count => execLinkCountCheck_keeps die count
  | .runEntryAtMile => execRunEntryAtMile_keeps rfl
  | .syncAlignEdge cycles => execSyncAlignEdge_keeps cycles rfl rfl
  | .syncAlignTimeout => execSyncAlignTimeout_keeps
  | .syncInEdge cycle => execSyncInEdge_keeps cycle
  | .syncLost => execSyncLost_keeps
  | .ringFlitReceive seg dir flit lanes => execRingFlitReceive_keeps seg dir flit lanes
  | .ringAck seg dir seq => execRingAck_keeps seg dir seq
  | .ringNak seg dir seq => execRingNak_keeps seg dir seq
  | .ringAckTimeout seg dir => execRingAckTimeout_keeps seg dir
  | .ringCredit seg dir vc count => execRingCredit_keeps seg dir vc count
  | .ringRetrainDone seg fwdUp revUp => execRingRetrainDone_keeps seg fwdUp revUp
  | .ringLaneSpare seg dir scanFails => execRingLaneSpare_keeps seg dir scanFails
  | .ringReadRequest vc src d ecc flips => execRingReadRequest_keeps vc src d ecc flips
  | .ringWriteRequest vc src d data poison ecc => execRingWriteRequest_keeps vc src d data poison ecc
  | .ringReadResponse d data poison => execRingReadResponse_keeps d data poison
  | .ringWriteResponse d => execRingWriteResponse_keeps d
  | .ringMessage d => execRingMessage_keeps d
  | .peerAccess link slot offset len src write data => execPeerAccess_keeps link slot offset len src write data
  | .plinkTrain link lanes far => execPlinkTrain_keeps link lanes far
  | .rowRemapDone die => execRowRemapDone_keeps die
  | .dramRefresh die channel scanFails => execDramRefresh_keeps die channel scanFails
  | .patrolScrubRead die ecc => execPatrolScrubRead_keeps die ecc
  | .tmark core flips => execTmark_keeps core flips
  | .halt core => execHalt_keeps core
  | .mxm core gDesc gAct gWt gOut m n flips => execMxm_keeps core gDesc gAct gWt gOut m n flips
  | .vop core gDesc flips => execVop_keeps core gDesc flips
  | .gridld core grid gAddr => execGridld_keeps core grid gAddr
  | .dma core channel gDesc flips => execDma_keeps core channel gDesc flips
  | .dwait core mask => execDwait_keeps core mask
  | .uwait core mask => execUwait_keeps core mask
  | .sig core gRank sem => execSig_keeps core gRank sem
  | .waits core sem gCount => execWaits_keeps core sem gCount
  | .live core entry gBase gLen => execLive_keeps core entry gBase gLen
  | .flagrd core gD => execFlagrd_keeps core gD
  | .rankdpa core gD gRank => execRankdpa_keeps core gD gRank
  | .tsrd core gD => execTsrd_keeps core gD
  | .scalarInstruction core op flips => execScalarInstruction_keeps core op flips
  | .matrixInstructionComplete core flips => execMatrixInstructionComplete_keeps core flips
  | .vectorInstructionComplete core flips => execVectorInstructionComplete_keeps core flips
  | .dmaDescriptorComplete core channel flips => execDmaDescriptorComplete_keeps core channel flips
  | .tileTimerExpiry core => execTileTimerExpiry_keeps core
  | .contextSaveDone core => execContextSaveDone_keeps core
  | .contextRestoreDone core => execContextRestoreDone_keeps core
  | .bankMigrationDone core flips => execBankMigrationDone_keeps core flips
  | .selftestVector die phys result => execSelftestVector_keeps die phys result
  | .ftLookup index pool requester => execFtLookup_keeps index pool requester
  | .ftRelease x => execFtRelease_keeps x
  | .ftRefAdd index n => execFtRefAdd_keeps index n
  | .ftRefSub index => execFtRefSub_keeps index
  | .ftCas index expected new => execFtCas_keeps index expected new
  | .ftAlloc die pool state => execFtAlloc_keeps die pool state
  | .kvWriteResolution ctx x => execKvWriteResolution_keeps ctx x
  | .swapOutFrameDone index ok => execSwapOutFrameDone_keeps index ok
  | .swapInFrameDone index ok data => execSwapInFrameDone_keeps index ok data
  | .swapReadRetry index ok data => execSwapReadRetry_keeps index ok data
  | .compactionMove x => execCompactionMove_keeps x
  | .chainGuardStart => execChainGuardStart_keeps
  | .schSwitchDecision => execSchSwitchDecision_keeps
  | .saveDeadlineExpiry core => execSaveDeadlineExpiry_keeps core
  | .jobPlacement part => execJobPlacement_keeps part
  | .rowEventRelease ev => execRowEventRelease_keeps ev
  | .rowEventSelftest ev => execRowEventSelftest_keeps ev
  | .selftestSlotEnd part => execSelftestSlotEnd_keeps part
  | .rowEventBgdWindow ev => execRowEventBgdWindow_keeps ev
  | .bgdWindowEnd => execBgdWindowEnd_keeps
  | .periodicRelease ctx tag => execPeriodicRelease_keeps ctx tag
  | .budgetExpiry ctx tag => execBudgetExpiry_keeps ctx tag
  | .jobDeadlineExpiry ctx tag => execJobDeadlineExpiry_keeps ctx tag
  | .csiFrameStart port vc ecc => execCsiFrameStart_keeps port vc ecc
  | .csiLongPacket port vc dt payload ecc crcOk => execCsiLongPacket_keeps port vc dt payload ecc crcOk
  | .csiFrameEnd port vc ecc => execCsiFrameEnd_keeps port vc ecc
  | .csiPacketDiscard port header => execCsiPacketDiscard_keeps port header
  | .pipeAssign => execPipeAssign_keeps
  | .sampleResolved stream seq writeOk => execSampleResolved_keeps stream seq writeOk
  | .decodeBudgetExpiry stream seq => execDecodeBudgetExpiry_keeps stream seq
  | .pipeCheckFrameDone pipe ok => execPipeCheckFrameDone_keeps pipe ok
  | .downFrameSend => execDownFrameSend_keeps
  | .upFrameReceive line bytes => execUpFrameReceive_keeps line bytes
  | .upCommaWindowClose line seen => execUpCommaWindowClose_keeps line seen
  | .upFrameDeadline => execUpFrameDeadline_keeps
  | .frontStageStart => execFrontStageStart_keeps
  | .solveStageStart memoryError => execSolveStageStart_keeps memoryError
  | .resultHandoff => execResultHandoff_keeps
  | .stageDeadlineMiss solve => execStageDeadlineMiss_keeps solve
  | .clusterCheck cluster ok => execClusterCheck_keeps cluster ok
  | .solverMemoryRewrite => execSolverMemoryRewrite_keeps
  | .holdLimitReached => execHoldLimitReached_keeps
  | .assizeFirstPart => execAssizeFirstPart_keeps
  | .assizeCheck => execAssizeCheck_keeps
  | .assizeDeadlineMiss => execAssizeDeadlineMiss_keeps
  | .assizeCopyCheck flips => execAssizeCopyCheck_keeps flips
  | .assizeCopyReload => execAssizeCopyReload_keeps
  | .watchdogWindowClose w => execWatchdogWindowClose_keeps w
  | .lockstepMismatch pair => execLockstepMismatch_keeps pair
  | .heartbeatLoss pair => execHeartbeatLoss_keeps pair
  | .estopChannelAssert ch => execEstopChannelAssert_keeps ch
  | .estopChannelDeassert ch => execEstopChannelDeassert_keeps ch
  | .estopDiscrepancy => execEstopDiscrepancy_keeps
  | .estopClear => execEstopClear_keeps
  | .safeStateEntry => execSafeStateEntry_keeps
  | .torqueOffPhaseStart => execTorqueOffPhaseStart_keeps
  | .safeReleaseEffect => execSafeReleaseEffect_keeps rfl
  | .clockFault => execClockFault_keeps
  | .supplyFault x => execSupplyFault_keeps x
  | .safetyParamsLost => execSafetyParamsLost_keeps
  | .canFrameReceive k frame => execCanFrameReceive_keeps k frame
  | .canArbitration k => execCanArbitration_keeps k
  | .canFrameTransmitted k loopDelay => execCanFrameTransmitted_keeps k loopDelay
  | .canBusOff k => execCanBusOff_keeps k
  | .canBusOffRecovered k => execCanBusOffRecovered_keeps k
  | .canStuckDominant k => execCanStuckDominant_keeps k
  | .canTxTimeout k => execCanTxTimeout_keeps k
  | .canModeChangeEffect k => execCanModeChangeEffect_keeps k
  | .canFilterBankSwitch k => execCanFilterBankSwitch_keeps k
  | .canRecoveryPauseTimeout => execCanRecoveryPauseTimeout_keeps
  | .wearRecordWrite => execWearRecordWrite_keeps
  | .retainedIdleEntered => execRetainedIdleEntered_keeps
  | .retainedIdleLeft => execRetainedIdleLeft_keeps
  | .recorderFreeze => execRecorderFreeze_keeps
  | .replayEvent => execReplayEvent_keeps
  | .hostLinkUp width rate ptm => execHostLinkUp_keeps width rate ptm
  | .csiPortLinkUp port lanes => execCsiPortLinkUp_keeps port lanes
  | .csiPortLinkDown port => execCsiPortLinkDown_keeps port
  | .canBusError k err => execCanBusError_keeps k err
  | .canIntegrateAgain k => execCanIntegrateAgain_keeps k
  | .hostDmaReadCompletion ctx tag data => execHostDmaReadCompletion_keeps ctx tag data
  | .flashOperationDone ok => execFlashOperationDone_keeps ok

theorem exec_kept {c : Instr} {s t : State} (h : exec c s = .next t) : Kept (exempt c) s t := by
  obtain ⟨u, hu, k⟩ := exec_keeps c s
  cases hu.symm.trans h
  exact k

/-- The commands that may change the mode are those that the manual names. -/
theorem exempt_mode_of_not_named {c : Instr} (hmode : ∀ y, c ≠ .devMode y) (hentry : c ≠ .runEntryAtMile)
    (hedge : ∀ k, c ≠ .syncAlignEdge k) (hstart : ∀ q, c ≠ .startSequenceComplete q)
    (hrelease : ∀ b, c ≠ .hubResetRelease b) (hreset : c ≠ .resetAssert) (hpower : c ≠ .powerLoss)
    (hwrite : ∀ v, c ≠ .devResetWrite v) : (exempt c).mode = false := by
  unfold exempt
  split
  · exact absurd rfl (hmode _)
  · exact absurd rfl hentry
  · exact absurd rfl (hedge _)
  · exact absurd rfl (hstart _)
  · exact absurd rfl (hrelease _)
  · rfl
  · rfl
  · exact absurd rfl hreset
  · exact absurd rfl hpower
  · exact absurd rfl (hwrite _)
  · rfl

/-- Settles O8: `exec_kept` for a command whose exemption does not let the mode go. -/
theorem onlyNamedCommandsChangeTheMode : Obligations.OnlyNamedCommandsChangeTheMode := by
  intro c s t h hmode hentry hedge hstart hrelease hreset hpower hwrite
  have hx := exempt_mode_of_not_named hmode hentry hedge hstart hrelease hreset hpower hwrite
  exact (exec_kept h).mode.resolve_left (by simp [hx])

end Sys2Proof.Machine
end

section
/-! DEV.INFO and DEV.MODE: what a mode change leaves, the status of a request, and O11 and O12. -/

namespace Sys2Proof.Safety

open Sys2Proof.Machine

variable {r s : State}

theorem KeepsBlocks.finish (h : KeepsBlocks r s) (p : Wait → Bool) (status res0 res1 res2 : Nat) :
    KeepsBlocks r (s.finish p status res0 res1 res2) :=
  KeepsBlocks.foldl _ (fun _ _ hu => hu.complete ..) _ _ (h.onHl _)

theorem KeepsBlocks.canStopDisallowed (h : KeepsBlocks r s) : KeepsBlocks r s.canStopDisallowed :=
  KeepsBlocks.foldl _ (fun _ _ hu => .ite hu ((hu.finish ..).onCan _ _)) _ _ h

theorem KeepsBlocks.control (h : KeepsBlocks r s) : s.tb = r.tb ∧ s.dev = r.dev ∧ s.asz = r.asz := by
  obtain ⟨-, -, -, htb, hdev, -, -, -, -, -, -, -, hasz, -⟩ := h
  exact ⟨htb, hdev, hasz⟩

end Sys2Proof.Safety

namespace Sys2Proof.Machine

open Sys2Proof.Safety

/-! Records, events, outputs and completions leave the time base, the device block and the Assize as they are. -/

@[simp] theorem State.finish_control (s : State) (p : Wait → Bool) (status res0 res1 res2 : Nat) :
    (s.finish p status res0 res1 res2).tb = s.tb ∧ (s.finish p status res0 res1 res2).dev = s.dev ∧
      (s.finish p status res0 res1 res2).asz = s.asz :=
  ((KeepsBlocks.refl s).finish ..).control

@[simp] theorem State.canStopDisallowed_control (s : State) :
    s.canStopDisallowed.tb = s.tb ∧ s.canStopDisallowed.dev = s.dev ∧ s.canStopDisallowed.asz = s.asz :=
  (KeepsBlocks.refl s).canStopDisallowed.control

@[simp] theorem State.sched_control (s : State) (code : Nat) (part arg0 : Option Nat) :
    (s.sched code part arg0).tb = s.tb ∧ (s.sched code part arg0).dev = s.dev ∧ (s.sched code part arg0).asz = s.asz :=
  ⟨rfl, rfl, rfl⟩

@[simp] theorem State.recTrigger_control (s : State) (safety : Bool) :
    (s.recTrigger safety).tb = s.tb ∧ (s.recTrigger safety).dev = s.dev ∧ (s.recTrigger safety).asz = s.asz := by
  unfold State.recTrigger
  split <;> exact ⟨rfl, rfl, rfl⟩

@[simp] theorem State.sendVector_control (s : State) (v : Nat) :
    (s.sendVector v).tb = s.tb ∧ (s.sendVector v).dev = s.dev ∧ (s.sendVector v).asz = s.asz :=
  ((KeepsBlocks.refl s).sendVector v).control

@[simp] theorem State.raiseEvent_control (s : State) (v : Nat) :
    (s.raiseEvent v).tb = s.tb ∧ (s.raiseEvent v).dev = s.dev ∧ (s.raiseEvent v).asz = s.asz := by
  unfold State.raiseEvent
  dsimp only
  split <;> split <;> simp

@[simp] theorem State.driveSafe_control (s : State) :
    s.driveSafe.tb = s.tb ∧ s.driveSafe.dev = s.dev ∧ s.driveSafe.asz = s.asz := ⟨rfl, rfl, rfl⟩

@[simp] theorem State.driveCams_control (s : State) :
    s.driveCams.tb = s.tb ∧ s.driveCams.dev = s.dev ∧ s.driveCams.asz = s.asz := ⟨rfl, rfl, rfl⟩

@[simp] theorem State.modeOutputs_control (s : State) :
    s.modeOutputs.tb = s.tb ∧ s.modeOutputs.dev = s.dev ∧ s.modeOutputs.asz = s.asz := by
  simp [State.modeOutputs]

@[simp] theorem State.endReplay_control (s : State) (status : Nat) :
    (s.endReplay status).tb = s.tb ∧ (s.endReplay status).dev = s.dev ∧ (s.endReplay status).asz = s.asz := by
  simp [State.endReplay]

/-! What the parts of a mode change do to these blocks. -/

@[simp] theorem State.enterMode_control (s : State) (m : Mode) :
    (s.enterMode m).tb = s.tb ∧ (s.enterMode m).dev = { s.dev with mode := m } ∧ (s.enterMode m).asz = s.asz := by
  simp [State.enterMode]

@[simp] theorem State.enterConfig_control (s : State) :
    s.enterConfig.tb = s.tb ∧ s.enterConfig.dev = { s.dev with mode := .config } ∧ s.enterConfig.asz = s.asz := by
  unfold State.enterConfig
  dsimp only
  split <;> simp

@[simp] theorem State.endSafe_control (s : State) :
    s.endSafe.tb = s.tb ∧ s.endSafe.dev = s.dev ∧ s.endSafe.asz.safe = false := by
  simp [State.endSafe]

@[simp] theorem State.dropRun_control (s : State) (q : RunReq) (status : Nat) :
    (s.dropRun q status).tb = { s.tb with runReq := none, camHeld := false } ∧ (s.dropRun q status).dev = s.dev ∧
      (s.dropRun q status).asz = s.asz := by
  simp [State.dropRun]

/-- R6, R404: leaving for CONFIG ends the safe state, and the grid goes on. -/
theorem State.backToConfig_control (s : State) :
    s.backToConfig.dev.mode = .config ∧ s.backToConfig.asz.safe = false ∧
      s.backToConfig.tb.link = s.tb.link ∧ s.backToConfig.tb.mile = s.tb.mile := by
  unfold State.backToConfig
  dsimp only
  by_cases hs : s.asz.safe = true
  · rw [if_pos hs]
    split <;> simp
  · rw [if_neg hs]
    split <;> simp [hs]

/-- R6, R537: the entry to TEST or REPLAY ends a waiting request for RUN, and the grid goes on. -/
theorem State.enterBench_control (s : State) (m : Mode) :
    (s.enterBench m).dev.mode = m ∧ (s.enterBench m).tb.runReq = none ∧ (s.enterBench m).tb.link = s.tb.link ∧
      (s.enterBench m).tb.mile = s.tb.mile ∧
      (s.enterBench m).asz = if m = .replay then { s.asz with disagreeLinks := [] } else s.asz := by
  cases hreq : s.tb.runReq with
  | none => by_cases hm : m = .replay <;> simp [State.enterBench, hreq, hm]
  | some q => by_cases hm : m = .replay <;> simp [State.enterBench, hreq, hm]

@[simp] theorem begun_coreMask (c : Cmd) (s : State) : (begun c s).coreMask = s.coreMask := by
  simp [State.coreMask, State.corePresent, State.physOf, State.dramAt]

@[simp] theorem begun_cfgOk (c : Cmd) (s : State) : (begun c s).cfgOk = s.cfgOk := by
  simp [State.cfgOk]

/-! The status of a request, case by case of R6. -/

@[simp] theorem Mode.code_inj {a b : Mode} : a.code = b.code ↔ a = b := by
  cases a <;> cases b <;> simp [Mode.code]

theorem Mode.code_lt_six {m : Mode} (h : m ≠ .start) : m.code < 6 := by
  cases m <;> simp_all [Mode.code]

/-- The request names the mode that the device is in; a request for RUN names DEGRADED too (R6). -/
def State.NamesMode (s : State) (m : Nat) : Prop := m = s.dev.mode.code ∨ (m = 1 ∧ s.dev.mode = .degraded)

section ModeStatus

variable {s : State} {m : Nat}

theorem modeStatus_reserved (hm : 6 ≤ m) : s.modeStatus m = stBadParam := by
  simp [State.modeStatus, hm]

theorem modeStatus_present (hm : m < 6) (h : s.NamesMode m) : s.modeStatus m = stOk := by
  unfold State.modeStatus
  rw [if_neg (by omega), if_pos (by simpa [State.NamesMode] using h)]

theorem modeStatus_change (hm : m < 6) (h : ¬ s.NamesMode m) : s.modeStatus m =
    if m = 2 || m = 4 then stMode
    else if s.dev.mode = .config then (if m = 1 then s.runStatus else stOk)
    else if m = 0 then (if s.asz.safe && !s.asz.torqueOff then stSafeState else stOk)
    else stMode := by
  unfold State.modeStatus
  rw [if_neg (by omega), if_neg (by simpa [State.NamesMode] using h)]

end ModeStatus

/-! DEV.MODE where the command starts: a refusal, the mode that the device is in, and a change. -/

section DevMode

variable {c : Cmd} {s : State}

theorem exec_devMode_refused (h : Starts 1 2 c s) {st : Nat} (hst : (begun c s).modeStatus (c.word 0 % 16) = st)
    (hne : st ≠ stOk) : exec (.devMode c) s = .next ((begun c s).complete c st s.dev.mode.code) := by
  show execDevMode c s = _
  unfold execDevMode
  rw [runCmd_starts h]
  simp [hst, hne]

theorem exec_devMode_present (h : Starts 1 2 c s) (hm : c.word 0 % 16 < 6) (hn : s.NamesMode (c.word 0 % 16)) :
    exec (.devMode c) s = .next ((begun c s).complete c stOk s.dev.mode.code) := by
  have hst : (begun c s).modeStatus (c.word 0 % 16) = stOk :=
    modeStatus_present hm (by simpa [State.NamesMode] using hn)
  show execDevMode c s = _
  unfold execDevMode
  rw [runCmd_starts h]
  simp only [hst, begun_dev]
  rw [if_neg (by simp), if_pos (by simpa [State.NamesMode] using hn)]

theorem exec_devMode_change (h : Starts 1 2 c s) (hst : (begun c s).modeStatus (c.word 0 % 16) = stOk)
    (hn : ¬ s.NamesMode (c.word 0 % 16)) : exec (.devMode c) s = .next (
      if c.word 0 % 16 = 1 then (begun c s).requestRun c
      else if c.word 0 % 16 = 0 then (begun c s).backToConfig.complete c stOk s.dev.mode.code
      else ((begun c s).enterBench (if c.word 0 % 16 = 3 then .test else .replay)).complete c stOk
        s.dev.mode.code) := by
  show execDevMode c s = _
  unfold execDevMode
  rw [runCmd_starts h]
  simp only [hst, begun_dev]
  rw [if_neg (by simp), if_neg (by simpa [State.NamesMode] using hn)]

theorem exec_devMode_config (h : Starts 1 2 c s)
    (hmode : s.dev.mode = .run ∨ s.dev.mode = .degraded ∨ s.dev.mode = .test ∨ s.dev.mode = .replay)
    (hm : c.word 0 % 16 = 0) (hsafe : s.asz.safe = true → s.asz.torqueOff = true) :
    exec (.devMode c) s = .next ((begun c s).backToConfig.complete c stOk s.dev.mode.code) := by
  have hn : ¬ s.NamesMode (c.word 0 % 16) := by
    rcases hmode with e | e | e | e <;> simp [State.NamesMode, e, hm, Mode.code]
  have hc : s.dev.mode ≠ .config := by
    rcases hmode with e | e | e | e <;> simp [e]
  have hst : (begun c s).modeStatus (c.word 0 % 16) = stOk := by
    rw [modeStatus_change (by omega) (by simpa [State.NamesMode] using hn)]
    cases hs : s.asz.safe with
    | false => simp [hm, hc, hs]
    | true => simp [hm, hc, hsafe hs]
  rw [exec_devMode_change h hst hn]
  simp [hm]

theorem exec_devMode_bench (h : Starts 1 2 c s) (hmode : s.dev.mode = .config) {m : Mode}
    (hm : m = .test ∨ m = .replay) (hw : c.word 0 % 16 = m.code) :
    exec (.devMode c) s = .next (((begun c s).enterBench m).complete c stOk 0) := by
  have hn : ¬ s.NamesMode (c.word 0 % 16) := by
    rcases hm with rfl | rfl <;> simp [State.NamesMode, hmode, hw, Mode.code]
  have hst : (begun c s).modeStatus (c.word 0 % 16) = stOk := by
    rw [modeStatus_change (hw ▸ Mode.code_lt_six (by rcases hm with rfl | rfl <;> simp))
      (by simpa [State.NamesMode] using hn)]
    rcases hm with rfl | rfl <;> simp [hmode, hw, Mode.code]
  rw [exec_devMode_change h hst hn]
  rcases hm with rfl | rfl <;> simp [hmode, hw, Mode.code]

theorem exec_devMode_run (h : Starts 1 2 c s) (hmode : s.dev.mode = .config) (hw : c.word 0 % 16 = 1)
    (hrun : (begun c s).runStatus = stOk) : exec (.devMode c) s = .next ((begun c s).requestRun c) := by
  have hn : ¬ s.NamesMode (c.word 0 % 16) := by simp [State.NamesMode, hmode, hw, Mode.code]
  have hst : (begun c s).modeStatus (c.word 0 % 16) = stOk := by
    rw [modeStatus_change (by omega) (by simpa [State.NamesMode] using hn)]
    simp [hmode, hw, hrun]
  rw [exec_devMode_change h hst hn, if_pos hw]

end DevMode

/-- A first request for RUN is held until its boundary or edge, with the triggers held where the edge counts. -/
theorem requestRun_first {c : Cmd} {s : State} (h : s.tb.runReq = none) :
    (s.requestRun c).dev = s.dev ∧
      (s.requestRun c).tb.runReq = some
        { ring := c.ring, tag := c.tag, link := s.tb.link, sync := bitAt s.tb.syncCtrl 0, previous := s.dev.mode.code } ∧
      (s.requestRun c).tb.camHeld = bitAt s.tb.syncCtrl 0 ∧
      (s.requestRun c).hl.opens = s.hl.opens ++ [{ cmd := c, wait := .runEntry }] := by
  unfold State.requestRun
  simp [h, State.await, State.driveCams]

theorem requestRun_joins {c : Cmd} {s : State} (h : s.tb.runReq ≠ none) : s.requestRun c = s.await c .runEntry := by
  unfold State.requestRun
  simp [Option.isSome_iff_ne_none, h]

/-- Settles O11: DEV.INFO answers in one step, and each allowed request of DEV.MODE has its equation above. -/
theorem devInfoAndModeComplete : Obligations.DevInfoAndModeComplete := by
  refine ⟨fun c s h => ?_, fun c s h hs hm => ?_, fun c s h hc hw => ?_, fun c s h hc hw => ?_,
    fun c s h hmode hw hsafe => ?_, fun c s h hc hreq hw hrun => ?_, fun c s h hc hreq hw hrun => ?_⟩
  · show execDevInfo c s = _
    unfold execDevInfo
    rw [runCmd_starts h]
    simp [State.cfgOk]
  · have hlt := Mode.code_lt_six hs
    exact exec_devMode_present h (by omega) hm
  · obtain ⟨hmode, hreq, hlink, hmile, hasz⟩ := (begun c s).enterBench_control .test
    exact ⟨_, exec_devMode_bench h hc (.inl rfl) hw, hmode, by simpa using hasz, hreq, by simpa using hlink,
      by simpa using hmile⟩
  · obtain ⟨hmode, hreq, hlink, hmile, hasz⟩ := (begun c s).enterBench_control .replay
    exact ⟨_, exec_devMode_bench h hc (.inr rfl) hw, hmode, by simp [hasz], hreq, by simpa using hlink,
      by simpa using hmile⟩
  · obtain ⟨hconfig, hends, hlink, hmile⟩ := (begun c s).backToConfig_control
    exact ⟨_, exec_devMode_config h hmode hw hsafe, hconfig, hends, by simpa using hlink, by simpa using hmile⟩
  · obtain ⟨hdev, hfirst, hheld, hopens⟩ := requestRun_first (c := c) (s := begun c s) (by simpa using hreq)
    exact ⟨_, exec_devMode_run h hc hw hrun, by simpa [hdev] using hc, by simpa [hc, Mode.code] using hfirst,
      by simpa using hheld, by simpa using hopens⟩
  · rw [exec_devMode_run h hc hw hrun, requestRun_joins (by simpa using hreq)]

/-- Settles O12: each refusal of R6 by the status that `modeStatus` gives it. -/
theorem devModeRefusals : Obligations.DevModeRefusals := by
  refine ⟨fun c s h hw => ?_, fun c s m h hw hm hne => ?_, fun c s h hmode hw => ?_, fun c s h hmode hw hne => ?_,
    fun c s h hc hw hrun => ?_, fun c s h hmode hw hsafe hoff => ?_⟩
  · exact exec_devMode_refused h (modeStatus_reserved hw) (by decide)
  · refine exec_devMode_refused h ?_ (by decide)
    rw [modeStatus_change]
    · rcases hm with rfl | rfl <;> simp [hw, Mode.code]
    · rcases hm with rfl | rfl <;> simp [hw, Mode.code]
    · rcases hm with rfl | rfl <;> simp [State.NamesMode, hw, hne.symm] <;> simp [Mode.code]
  · refine exec_devMode_refused h ?_ (by decide)
    rw [modeStatus_change (by omega)]
    · rcases hmode with e | e <;> rcases hw with w | w <;> simp [e, w]
    · rcases hmode with e | e <;> rcases hw with w | w <;> simp [State.NamesMode, e, w, Mode.code]
  · refine exec_devMode_refused h ?_ (by decide)
    rw [modeStatus_change (by omega)]
    · rcases hmode with e | e <;> rcases hw with w | w | w <;> simp [e, w]
    · rcases hmode with e | e <;> simpa [State.NamesMode, e] using hne
  · have hst : (begun c s).modeStatus (c.word 0 % 16) = (begun c s).runStatus := by
      rw [modeStatus_change (by omega) (by simp [State.NamesMode, hc, hw, Mode.code])]
      simp [hc, hw]
    simpa [hc, Mode.code] using exec_devMode_refused h hst hrun
  · refine exec_devMode_refused h ?_ (by decide)
    rw [modeStatus_change (by omega)]
    · rcases hmode with e | e <;> simp [e, hw, hsafe, hoff]
    · rcases hmode with e | e <;> simp [State.NamesMode, e, hw, Mode.code]

end Sys2Proof.Machine
end

section
/-! The grid view: the time base, the row in force, the power block and the straps. One lemma per operation that
leaves them as they are, for the operations of which a link, a chain and a furlong boundary are made. -/

namespace Sys2Proof.Machine

open Sys2Proof.Safety

/-- What only the commands of the tick grid, of the power controller and of reset move (R9, R18, R471, R516). -/
structure Grid where
  tb : TimeBase
  row : Nat
  pwr : Pwr
  inReset : Bool
  bootsel : Nat

/-- The grid view of a state. -/
def State.grid (s : State) : Grid := ⟨s.tb, s.sch.row, s.pwr, s.dev.inReset, s.dev.bootsel⟩

theorem tb_of_grid {s t : State} (h : t.grid = s.grid) : t.tb = s.tb := congrArg Grid.tb h
theorem row_of_grid {s t : State} (h : t.grid = s.grid) : t.sch.row = s.sch.row := congrArg Grid.row h
theorem pwr_of_grid {s t : State} (h : t.grid = s.grid) : t.pwr = s.pwr := congrArg Grid.pwr h

/-! Choices, folds and the updates of other blocks. -/

@[simp] theorem ite_grid {c : Prop} [Decidable c] (a b : State) :
    (if c then a else b).grid = if c then a.grid else b.grid := apply_ite State.grid c a b

/-- What each turn of a fold leaves, the fold leaves. -/
theorem foldl_keeps {α β γ : Type} (view : β → γ) {f : β → α → β} (hf : ∀ u i, view (f u i) = view u) (l : List α) :
    ∀ s, view (l.foldl f s) = view s := by
  induction l with
  | nil => intro s; rfl
  | cons i l ih => intro s; exact (ih (f s i)).trans (hf s i)

@[simp] theorem foldl_grid {α : Type} {f : State → α → State} (hf : ∀ u i, (f u i).grid = u.grid) (l : List α)
    (s : State) : (l.foldl f s).grid = s.grid := foldl_keeps State.grid hf l s

@[simp] theorem State.onPins_grid (s : State) (f : Pins → Pins) : (s.onPins f).grid = s.grid := rfl
@[simp] theorem State.onHl_grid (s : State) (f : HostLink → HostLink) : (s.onHl f).grid = s.grid := rfl
@[simp] theorem State.onMem_grid (s : State) (f : Memory → Memory) : (s.onMem f).grid = s.grid := rfl
@[simp] theorem State.onRing_grid (s : State) (f : Ring → Ring) : (s.onRing f).grid = s.grid := rfl
@[simp] theorem State.onCores_grid (s : State) (f : Cores → Cores) : (s.onCores f).grid = s.grid := rfl
@[simp] theorem State.onDram_grid (s : State) (d : Nat) (f : Dram → Dram) : (s.onDram d f).grid = s.grid := rfl
@[simp] theorem State.onKv_grid (s : State) (f : Kv → Kv) : (s.onKv f).grid = s.grid := rfl
@[simp] theorem State.onSol_grid (s : State) (f : Sol → Sol) : (s.onSol f).grid = s.grid := rfl
@[simp] theorem State.onJl_grid (s : State) (f : Jl → Jl) : (s.onJl f).grid = s.grid := rfl
@[simp] theorem State.onAsz_grid (s : State) (f : Asz → Asz) : (s.onAsz f).grid = s.grid := rfl
@[simp] theorem State.onItk_grid (s : State) (f : Itk → Itk) : (s.onItk f).grid = s.grid := rfl
@[simp] theorem State.onCan_grid (s : State) (k : Nat) (f : Can → Can) : (s.onCan k f).grid = s.grid := rfl
@[simp] theorem State.onFw_grid (s : State) (f : Fw → Fw) : (s.onFw f).grid = s.grid := rfl
@[simp] theorem State.onSpr_grid (s : State) (f : Spr → Spr) : (s.onSpr f).grid = s.grid := rfl
@[simp] theorem State.onRec_grid (s : State) (f : Rec → Rec) : (s.onRec f).grid = s.grid := rfl
@[simp] theorem State.onFi_grid (s : State) (i : Nat) (f : Inject → Inject) : (s.onFi i f).grid = s.grid := rfl
@[simp] theorem State.bump_grid (s : State) : s.bump.grid = s.grid := rfl

/-- A change of the schedule that leaves the row in force. -/
@[simp] theorem State.onSch_grid (s : State) (f : Sch → Sch) (h : (f s.sch).row = s.sch.row) :
    (s.onSch f).grid = s.grid := by
  simp [State.grid, h]

/-- A change of the device block that leaves the straps. -/
@[simp] theorem State.onDev_grid (s : State) (f : Dev → Dev)
    (h : (f s.dev).inReset = s.dev.inReset ∧ (f s.dev).bootsel = s.dev.bootsel) : (s.onDev f).grid = s.grid := by
  simp [State.grid, h]

@[simp] theorem State.onCtx_grid (s : State) (k : Nat) (f : Ctx → Ctx) : (s.onCtx k f).grid = s.grid := by
  unfold State.onCtx
  split <;> rfl

@[simp] theorem State.onPhys_grid (s : State) (p : Nat) (f : Core → Core) : (s.onPhys p f).grid = s.grid := rfl

@[simp] theorem State.onCore_grid (s : State) (g : Nat) (f : Core → Core) : (s.onCore g f).grid = s.grid := by
  unfold State.onCore
  split <;> rfl

@[simp] theorem State.onSeg_grid (s : State) (g : Nat) (f : Segment → Segment) : (s.onSeg g f).grid = s.grid := rfl
@[simp] theorem State.onSegDir_grid (s : State) (g : Nat) (d : RingDir) (f : SegDir → SegDir) :
    (s.onSegDir g d f).grid = s.grid := rfl
@[simp] theorem State.onPipe_grid (s : State) (u : Nat) (f : Pipe → Pipe) : (s.onPipe u f).grid = s.grid := rfl
@[simp] theorem State.onWd_grid (s : State) (w : Nat) (f : Watchdog → Watchdog) : (s.onWd w f).grid = s.grid := rfl
@[simp] theorem State.onPool_grid (s : State) (id : Nat) (f : Pool → Pool) : (s.onPool id f).grid = s.grid := rfl
@[simp] theorem State.onPoolDie_grid (s : State) (id d : Nat) (f : PoolDie → PoolDie) :
    (s.onPoolDie id d f).grid = s.grid := rfl
@[simp] theorem State.onSeq_grid (s : State) (id : Nat) (f : KvSeq → KvSeq) : (s.onSeq id f).grid = s.grid := rfl
@[simp] theorem State.onJob_grid (s : State) (k : JobKey) (f : Job → Job) : (s.onJob k f).grid = s.grid := rfl

/-! Memory, records, events and error windows. -/

@[simp] theorem State.write_grid (s : State) (a : Nat) (bs : List Byte) : (s.write a bs).grid = s.grid := rfl
@[simp] theorem State.writeNat_grid (s : State) (a n v : Nat) : (s.writeNat a n v).grid = s.grid := rfl
@[simp] theorem State.poisonGranules_grid (s : State) (gs : List Nat) (k : Bool) :
    (s.poisonGranules gs k).grid = s.grid := rfl
@[simp] theorem State.clearSpad_grid (s : State) (g : Nat) : (s.clearSpad g).grid = s.grid := rfl
@[simp] theorem State.fillFree_grid (s : State) (a n : Nat) : (s.fillFree a n).grid = s.grid := rfl
@[simp] theorem State.sched_grid (s : State) (code : Nat) (part arg0 : Option Nat) :
    (s.sched code part arg0).grid = s.grid := rfl

@[simp] theorem State.capture_grid (s : State) (r : List Byte) : (s.capture r).grid = s.grid := by
  unfold State.capture
  split
  · rfl
  · simp

@[simp] theorem State.recTrigger_grid (s : State) (safety : Bool) : (s.recTrigger safety).grid = s.grid := by
  unfold State.recTrigger
  split <;> rfl

/-- What a completion leaves includes the grid view. -/
theorem KeepsBlocks.grid {r s : State} (h : KeepsBlocks r s) : s.grid = r.grid := by
  obtain ⟨-, -, -, htb, hdev, -, -, -, -, hsch, -, -, -, -, -, -, hpwr, -⟩ := h
  simp [State.grid, htb, hdev, hsch, hpwr]

@[simp] theorem State.sendVector_grid (s : State) (v : Nat) : (s.sendVector v).grid = s.grid :=
  KeepsBlocks.grid ((KeepsBlocks.refl s).sendVector v)
@[simp] theorem State.hostRequest_grid (s : State) (engine : Nat) (write : Bool) (a n : Nat) :
    (s.hostRequest engine write a n).grid = s.grid :=
  KeepsBlocks.grid ((KeepsBlocks.refl s).hostRequest engine write a n)
@[simp] theorem State.produce_grid (s : State) (ring : Nat) (c : Completion) : (s.produce ring c).grid = s.grid :=
  KeepsBlocks.grid ((KeepsBlocks.refl s).produce ring c)
@[simp] theorem State.complete_grid (s : State) (c : Cmd) (status res0 res1 res2 : Nat) :
    (s.complete c status res0 res1 res2).grid = s.grid :=
  KeepsBlocks.grid ((KeepsBlocks.refl s).complete c status res0 res1 res2)
@[simp] theorem State.finish_grid (s : State) (p : Wait → Bool) (status res0 res1 res2 : Nat) :
    (s.finish p status res0 res1 res2).grid = s.grid :=
  KeepsBlocks.grid ((KeepsBlocks.refl s).finish p status res0 res1 res2)

@[simp] theorem State.raiseEvent_grid (s : State) (v : Nat) : (s.raiseEvent v).grid = s.grid := by
  simp [State.raiseEvent]
@[simp] theorem State.deviceFault_grid (s : State) (b : Nat) : (s.deviceFault b).grid = s.grid := by
  simp [State.deviceFault]
@[simp] theorem State.enterMode_grid (s : State) (m : Mode) : (s.enterMode m).grid = s.grid := by
  simp [State.enterMode]
@[simp] theorem State.setDegraded_grid (s : State) : s.setDegraded.grid = s.grid := by
  unfold State.setDegraded
  dsimp only
  split <;> simp

@[simp] theorem State.decideSafe_grid (s : State) (c : Nat) : (s.decideSafe c).grid = s.grid := by
  simp [State.decideSafe]
@[simp] theorem State.makeLasting_grid (s : State) (r : WearEntry) : (s.makeLasting r).grid = s.grid := by
  simp [State.makeLasting]
@[simp] theorem State.errEvent_grid (s : State) (r : WearEntry) : (s.errEvent r).grid = s.grid := by
  simp [State.errEvent]
@[simp] theorem State.errEvents_grid (s : State) (rs : List WearEntry) : (s.errEvents rs).grid = s.grid := by
  simp [State.errEvents]
@[simp] theorem State.retire_grid (s : State) (r : WearEntry) : (s.retire r).grid = s.grid := by
  simp [State.retire]

/-! The ring carries flits: nothing has changed but the ring and the count of free draws with the instant they give. -/

/-- The state without the ring and without the free draws (R38, log 2). -/
def State.offRing (s : State) : State := { s with ring := State.reset.ring, free := 0, instant := 0 }

theorem grid_of_offRing {s t : State} (h : t.offRing = s.offRing) : t.grid = s.grid :=
  show t.offRing.grid = s.offRing.grid by rw [h]
theorem dev_of_offRing {s t : State} (h : t.offRing = s.offRing) : t.dev = s.dev :=
  show t.offRing.dev = s.offRing.dev by rw [h]

@[simp] theorem ite_offRing {c : Prop} [Decidable c] (a b : State) :
    (if c then a else b).offRing = if c then a.offRing else b.offRing := apply_ite State.offRing c a b
@[simp] theorem State.bump_offRing (s : State) : s.bump.offRing = s.offRing := rfl
@[simp] theorem State.onSeg_offRing (s : State) (g : Nat) (f : Segment → Segment) :
    (s.onSeg g f).offRing = s.offRing := rfl
@[simp] theorem State.onSegDir_offRing (s : State) (g : Nat) (d : RingDir) (f : SegDir → SegDir) :
    (s.onSegDir g d f).offRing = s.offRing := rfl
@[simp] theorem State.freeBuffers_offRing (s : State) (g : Nat) (dir : RingDir) (v n : Nat) :
    (s.freeBuffers g dir v n).offRing = s.offRing := rfl
@[simp] theorem State.idleSlots_offRing (s : State) (g : Nat) (dir : RingDir) :
    (s.idleSlots g dir).offRing = s.offRing := rfl
@[simp] theorem State.countVc0_offRing (s : State) (g : Nat) (dir : RingDir) :
    (s.countVc0 g dir).offRing = s.offRing := by
  simp [State.countVc0]

@[simp] theorem pumpN_offRing (g : Nat) (dir : RingDir) (k : Nat) :
    ∀ s : State, (State.pumpN g dir k s).offRing = s.offRing := by
  induction k with
  | zero => intro s; rfl
  | succ k ih =>
    intro s
    unfold State.pumpN
    split
    · rfl
    · dsimp only
      split
      · split <;> simp [ih]
      · simp [ih]

@[simp] theorem State.pump_offRing (s : State) (g : Nat) (dir : RingDir) : (s.pump g dir).offRing = s.offRing := by
  simp [State.pump]
@[simp] theorem State.queueFlits_offRing (s : State) (g : Nat) (dir : RingDir) (v : Nat) (fs : List Flit) :
    (s.queueFlits g dir v fs).offRing = s.offRing := by
  simp [State.queueFlits]
@[simp] theorem State.forwardFlit_offRing (s : State) (g : Nat) (dir : RingDir) (f : Flit) :
    (s.forwardFlit g dir f).offRing = s.offRing := by
  simp [State.forwardFlit]
@[simp] theorem State.launch_offRing (s : State) (src dst vc kind : Nat) (p : RingPacket) :
    (s.launch src dst vc kind p).offRing = s.offRing := by
  simp [State.launch]

@[simp] theorem State.carryRead_offRing (s : State) (o : Origin) (die req a : Nat) (data : List Byte) :
    (s.carryRead o die req a data).offRing = s.offRing := by
  unfold State.carryRead
  split
  · rfl
  · exact foldl_keeps State.offRing (by simp) _ s

@[simp] theorem State.carryWrite_offRing (s : State) (o : Origin) (die req a : Nat) (data : List Byte) :
    (s.carryWrite o die req a data).offRing = s.offRing := by
  unfold State.carryWrite
  split
  · rfl
  · exact foldl_keeps State.offRing (by simp) _ s

@[simp] theorem State.carryMessage_offRing (s : State) (o : Origin) (dst : Nat) (body : List Byte) :
    (s.carryMessage o dst body).offRing = s.offRing := by
  simp [State.carryMessage]

/-! The grid view through the ring and through units that injection delayed. -/

@[simp] theorem State.freeBuffers_grid (s : State) (g : Nat) (dir : RingDir) (v n : Nat) :
    (s.freeBuffers g dir v n).grid = s.grid := rfl
@[simp] theorem State.pump_grid (s : State) (g : Nat) (dir : RingDir) : (s.pump g dir).grid = s.grid :=
  grid_of_offRing (s.pump_offRing g dir)
@[simp] theorem State.forwardFlit_grid (s : State) (g : Nat) (dir : RingDir) (f : Flit) :
    (s.forwardFlit g dir f).grid = s.grid := grid_of_offRing (s.forwardFlit_offRing g dir f)
@[simp] theorem State.launch_grid (s : State) (src dst vc kind : Nat) (p : RingPacket) :
    (s.launch src dst vc kind p).grid = s.grid := grid_of_offRing (s.launch_offRing src dst vc kind p)
@[simp] theorem State.carryRead_grid (s : State) (o : Origin) (die req a : Nat) (data : List Byte) :
    (s.carryRead o die req a data).grid = s.grid := grid_of_offRing (s.carryRead_offRing o die req a data)
@[simp] theorem State.carryWrite_grid (s : State) (o : Origin) (die req a : Nat) (data : List Byte) :
    (s.carryWrite o die req a data).grid = s.grid := grid_of_offRing (s.carryWrite_offRing o die req a data)
@[simp] theorem State.carryMessage_grid (s : State) (o : Origin) (dst : Nat) (body : List Byte) :
    (s.carryMessage o dst body).grid = s.grid := grid_of_offRing (s.carryMessage_offRing o dst body)
@[simp] theorem State.report_grid (s : State) (d : Nat) (body : List Nat) : (s.report d body).grid = s.grid := by
  simp [State.report]
@[simp] theorem State.answerRing_grid (s : State) (g : Nat) (dir : RingDir) (nak : Bool) (n : Nat) :
    (s.answerRing g dir nak n).grid = s.grid := rfl
@[simp] theorem State.crcFailure_grid (s : State) (g : Nat) (dir : RingDir) (lanes : List Nat) (injected : Bool) :
    (s.crcFailure g dir lanes injected).grid = s.grid := by
  simp [State.crcFailure]
@[simp] theorem State.keepFlit_grid (s : State) (g : Nat) (dir : RingDir) (f : Flit) :
    (s.keepFlit g dir f).grid = s.grid := by
  simp [State.keepFlit]
@[simp] theorem State.acceptFlit_grid (s : State) (g : Nat) (dir : RingDir) (f : Flit) :
    (s.acceptFlit g dir f).grid = s.grid := by
  simp [State.acceptFlit]
@[simp] theorem State.arriveFlit_grid (s : State) (g : Nat) (dir : RingDir) (f : Flit) (lanes : List Nat)
    (injected : Bool) : (s.arriveFlit g dir f lanes injected).grid = s.grid := by
  simp [State.arriveFlit]

@[simp] theorem State.releaseFlit_grid (s : State) (i : Nat) : (s.releaseFlit i).grid = s.grid := by
  unfold State.releaseFlit
  dsimp only
  split <;> simp

@[simp] theorem State.releaseHeld_grid (s : State) (i : Nat) : (s.releaseHeld i).grid = s.grid := by
  unfold State.releaseHeld
  split <;> simp

/-! DRAM accesses with their errors. -/

@[simp] theorem State.withdrawBlock_grid (s : State) (r : WearEntry) : (s.withdrawBlock r).grid = s.grid := by
  simp [State.withdrawBlock]
@[simp] theorem State.remapRow_grid (s : State) (r : WearEntry) : (s.remapRow r).grid = s.grid := by
  simp [State.remapRow]
@[simp] theorem State.laneEvents_grid (s : State) (d ch retries : Nat) (lanes : List Nat) (failed : Bool) :
    (s.laneEvents d ch retries lanes failed).grid = s.grid := by
  simp [State.laneEvents]
@[simp] theorem State.correctedError_grid (s : State) (a : Nat) : (s.correctedError a).grid = s.grid := by
  simp [State.correctedError]
@[simp] theorem State.uncorrectableError_grid (s : State) (a : Nat) : (s.uncorrectableError a).grid = s.grid := by
  simp [State.uncorrectableError]

@[simp] theorem State.readGranule_grid (s : State) (g : Nat) (e : Ecc) : (s.readGranule g e).2.grid = s.grid := by
  unfold State.readGranule
  split <;> simp

@[simp] theorem readGranules_grid (gs : List Nat) :
    ∀ (es : List Ecc) (s : State), (State.readGranules gs es s).2.grid = s.grid := by
  induction gs with
  | nil => intro es s; rfl
  | cons g gs ih => intro es s; exact (ih _ _).trans (s.readGranule_grid g _)

@[simp] theorem State.dramRead_grid (s : State) (a n : Nat) (ecc : List Ecc) :
    (s.dramRead a n ecc).2.grid = s.grid := by
  unfold State.dramRead
  split
  · rfl
  · split
    · rfl
    · exact readGranules_grid _ _ s

@[simp] theorem State.afterRead_grid (s : State) (a n : Nat) : (s.afterRead a n).grid = s.grid := s.dramRead_grid a n []

@[simp] theorem State.writeGranule_grid (s : State) (a : Nat) (data : List Byte) (g : Nat) (e : Ecc) :
    (s.writeGranule a data g e).2.grid = s.grid := by
  unfold State.writeGranule
  dsimp only
  split
  · simp
  · split <;> simp
  · split <;> simp
  · split
    · simp
    · split <;> simp
  · split <;> simp

@[simp] theorem writeGranules_grid (a : Nat) (data : List Byte) (gs : List Nat) :
    ∀ (es : List Ecc) (s : State), (State.writeGranules a data gs es s).2.grid = s.grid := by
  induction gs with
  | nil => intro es s; rfl
  | cons g gs ih => intro es s; exact (ih _ _).trans (s.writeGranule_grid a data g _)

@[simp] theorem State.dramWrite_grid (s : State) (a : Nat) (data : List Byte) (ecc : List Ecc) :
    (s.dramWrite a data ecc).2.grid = s.grid := by
  unfold State.dramWrite
  split
  · rfl
  · split
    · rfl
    · exact writeGranules_grid a data _ ecc s

@[simp] theorem State.bankEvents_grid (s : State) (a n : Nat) : (s.bankEvents a n).grid = s.grid := by
  simp [State.bankEvents]
@[simp] theorem State.tripStack_grid (s : State) (d : Nat) : (s.tripStack d).grid = s.grid := by
  simp [State.tripStack]
@[simp] theorem State.sampleStack_grid (s : State) (d t : Nat) : (s.sampleStack d t).grid = s.grid := by
  simp [State.sampleStack]

/-! The frame table, the sample board and the watchdogs. -/

@[simp] theorem State.putBoard_grid (s : State) (st seq : Nat) (entry : List Byte) :
    (s.putBoard st seq entry).grid = s.grid := rfl
@[simp] theorem State.republish_grid (s : State) (g : Nat) : (s.republish g).grid = s.grid := by
  unfold State.republish
  exact foldl_grid (by simp) _ _

@[simp] theorem State.wdFaulty_grid (s : State) (w : Nat) : (s.wdFaulty w).grid = s.grid := by
  simp [State.wdFaulty]
@[simp] theorem State.wdStop_grid (s : State) (w : Nat) : (s.wdStop w).grid = s.grid := by
  simp [State.wdStop]
@[simp] theorem State.setEntry_grid (s : State) (index : Nat) (e : FtEntry) : (s.setEntry index e).grid = s.grid := rfl
@[simp] theorem State.returnFrame_grid (s : State) (index : Nat) : (s.returnFrame index).grid = s.grid := by
  simp [State.returnFrame]
@[simp] theorem State.maybeReturn_grid (s : State) (index : Nat) : (s.maybeReturn index).grid = s.grid := by
  simp [State.maybeReturn]
@[simp] theorem State.ftRelease_grid (s : State) (index : Nat) : (s.ftRelease index).grid = s.grid := by
  simp [State.ftRelease]
@[simp] theorem State.ftRefSub_grid (s : State) (index : Nat) : (s.ftRefSub index).grid = s.grid := by
  simp [State.ftRefSub]
@[simp] theorem State.unpin_grid (s : State) (index : Nat) : (s.unpin index).grid = s.grid := by
  simp [State.unpin]

/-! Cores and jobs. -/

@[simp] theorem State.takeBank_grid (s : State) (d u b : Nat) : (s.takeBank d u b).grid = s.grid := by
  simp [State.takeBank]

@[simp] theorem State.remap_grid (s : State) (g : Nat) (q : Option Nat) : (s.remap g q).grid = s.grid := by
  unfold State.remap
  dsimp only
  split
  · rfl
  · cases q <;> simp

@[simp] theorem State.retireCore_grid (s : State) (d u : Nat) (absent : Bool) :
    (s.retireCore d u absent).grid = s.grid := by
  simp [State.retireCore]

@[simp] theorem State.moveIdle_grid (s : State) (g : Nat) : (s.moveIdle g).grid = s.grid := by
  unfold State.moveIdle
  split <;> simp

@[simp] theorem State.dropAlloc_grid (s : State) (base : Nat) : (s.dropAlloc base).grid = s.grid := rfl
@[simp] theorem State.releaseCompletion_grid (s : State) (j : Job) (status : Nat) (overrun : Bool) :
    (s.releaseCompletion j status overrun).grid = s.grid := s.produce_grid _ _
@[simp] theorem State.endCompletion_grid (s : State) (j : Job) (status : Nat) :
    (s.endCompletion j status).grid = s.grid := s.produce_grid _ _

@[simp] theorem State.endJob_grid (s : State) (k : JobKey) (status : Nat) : (s.endJob k status).grid = s.grid := by
  unfold State.endJob
  split
  · rfl
  · simp

@[simp] theorem State.retireIdle_grid (s : State) (g : Nat) : (s.retireIdle g).grid = s.grid := by
  unfold State.retireIdle
  dsimp only
  split
  · rfl
  · split
    · simp
    · split <;> simp

@[simp] theorem State.serviceIdle_grid (s : State) (g : Nat) : (s.serviceIdle g).grid = s.grid := by
  unfold State.serviceIdle
  split
  · rfl
  · simp

@[simp] theorem State.beginSelftests_grid (s : State) : s.beginSelftests.grid = s.grid := by
  simp [State.beginSelftests]
@[simp] theorem State.freeCore_grid (s : State) (g : Nat) : (s.freeCore g).grid = s.grid := by
  simp [State.freeCore]
@[simp] theorem State.vacate_grid (s : State) (g : Nat) : (s.vacate g).grid = s.grid := by
  simp [State.vacate]
@[simp] theorem State.loadSpad_grid (s : State) (g : Nat) (j : Job) : (s.loadSpad g j).grid = s.grid := by
  simp [State.loadSpad, State.loadCode, State.loadDescs]

@[simp] theorem State.leaveCore_grid (s : State) (k : JobKey) (g : Nat) : (s.leaveCore k g).grid = s.grid := by
  unfold State.leaveCore
  dsimp only
  split <;> simp

@[simp] theorem State.endOnCore_grid (s : State) (g : Nat) : (s.endOnCore g).grid = s.grid := by
  unfold State.endOnCore
  split <;> simp

@[simp] theorem State.endPart_grid (s : State) (k : JobKey) (g : Nat) : (s.endPart k g).grid = s.grid := by
  simp [State.endPart]

@[simp] theorem State.requestEnd_grid (s : State) (k : JobKey) (status : Nat) :
    (s.requestEnd k status).grid = s.grid := by
  unfold State.requestEnd
  split <;> simp

@[simp] theorem State.failOn_grid (s : State) (g status : Nat) : (s.failOn g status).grid = s.grid := by
  unfold State.failOn
  split <;> simp

@[simp] theorem State.liveFault_grid (s : State) (g : Nat) : (s.liveFault g).grid = s.grid := by
  simp [State.liveFault]

@[simp] theorem State.saveCore_grid (s : State) (g : Nat) : (s.saveCore g).grid = s.grid := by
  unfold State.saveCore
  split <;> simp

@[simp] theorem State.checkPreempted_grid (s : State) (k : JobKey) : (s.checkPreempted k).grid = s.grid := by
  unfold State.checkPreempted
  split <;> simp

@[simp] theorem State.saveDone_grid (s : State) (g : Nat) : (s.saveDone g).grid = s.grid := by
  unfold State.saveDone
  split <;> simp

@[simp] theorem State.stopJob_grid (s : State) (k : JobKey) : (s.stopJob k).grid = s.grid := by
  unfold State.stopJob
  split
  · rfl
  · split
    · rfl
    · exact (State.checkPreempted_grid _ _).trans ((foldl_grid (fun u g => by split <;> simp) _ _).trans
        (State.onJob_grid s k _))

@[simp] theorem State.moveAtMark_grid (s : State) (g : Nat) (j : Job) (q : Option Nat) :
    (s.moveAtMark g j q).grid = s.grid := by
  cases q with
  | none => simp [State.moveAtMark]
  | some u =>
    refine (foldl_grid (by intros; rfl) _ _).trans ?_
    simp

@[simp] theorem State.maskChecks_grid (s : State) : s.maskChecks.grid = s.grid := by
  simp [State.maskChecks]

@[simp] theorem State.retireAtMark_grid (s : State) (g : Nat) : (s.retireAtMark g).grid = s.grid := by
  unfold State.retireAtMark
  split
  · simp
  · rfl

/-! Sequences and their swaps. -/

@[simp] theorem State.removeSeq_grid (s : State) (id : Nat) : (s.removeSeq id).grid = s.grid := by
  unfold State.removeSeq
  split <;> simp

@[simp] theorem State.beginOut_grid (s : State) (index : Nat) : (s.beginOut index).grid = s.grid := by
  unfold State.beginOut
  dsimp only
  split
  · rfl
  · split <;> simp

@[simp] theorem State.checkSuspended_grid (s : State) (id : Nat) : (s.checkSuspended id).grid = s.grid := by
  unfold State.checkSuspended
  split <;> simp

@[simp] theorem State.driveOut_grid (s : State) (id : Nat) : (s.driveOut id).grid = s.grid := by
  unfold State.driveOut
  split <;> simp

@[simp] theorem State.checkActive_grid (s : State) (id : Nat) : (s.checkActive id).grid = s.grid := by
  unfold State.checkActive
  split <;> simp

@[simp] theorem State.beginIn_grid (s : State) (index : Nat) : (s.beginIn index).grid = s.grid := by
  unfold State.beginIn
  dsimp only
  split
  · rfl
  · split <;> simp

@[simp] theorem State.resumeSeq_grid (s : State) (id : Nat) : (s.resumeSeq id).grid = s.grid := by
  unfold State.resumeSeq
  split <;> simp

@[simp] theorem State.resumeCheck_grid (s : State) : s.resumeCheck.grid = s.grid := by
  simp [State.resumeCheck]

@[simp] theorem State.freeSeqs_grid (s : State) (k : Nat) : (s.freeSeqs k).grid = s.grid := by
  simp [State.freeSeqs]
@[simp] theorem State.settleClose_grid (s : State) (k : Nat) : (s.settleClose k).grid = s.grid := by
  simp [State.settleClose]
@[simp] theorem State.settleCloses_grid (s : State) : s.settleCloses.grid = s.grid := by
  unfold State.settleCloses
  exact foldl_grid State.settleClose_grid _ _


/-! The parts of a link boundary and of a chain boundary. -/

@[simp] theorem State.driveSyncOut_grid (s : State) : s.driveSyncOut.grid = s.grid := rfl
@[simp] theorem State.driveCams_grid (s : State) : s.driveCams.grid = s.grid := rfl
@[simp] theorem State.sendP0Mask_grid (s : State) : s.sendP0Mask.grid = s.grid := rfl
@[simp] theorem State.applyBands_grid (s : State) : s.applyBands.grid = s.grid := rfl
@[simp] theorem State.linesNewLink_grid (s : State) : s.linesNewLink.grid = s.grid := rfl
@[simp] theorem State.drainWindows_grid (s : State) : s.drainWindows.grid = s.grid := rfl
@[simp] theorem State.recordLink_grid (s : State) : s.recordLink.grid = s.grid := rfl
@[simp] theorem State.chargeLink_grid (s : State) (k : JobKey) : (s.chargeLink k).grid = s.grid := rfl

@[simp] theorem State.chatterCauses_grid (s : State) (before after : Estop) (c : Nat) :
    (s.chatterCauses before after c).grid = s.grid := by
  simp [State.chatterCauses]
@[simp] theorem State.sampleEstops_grid (s : State) (a b : Bool) : (s.sampleEstops a b).grid = s.grid := by
  simp [State.sampleEstops]
@[simp] theorem State.ringWrite_grid (s : State) (a : Nat) (bytes : List Byte) :
    (s.ringWrite a bytes).grid = s.grid := by
  simp [State.ringWrite]
@[simp] theorem State.drainRecorder_grid (s : State) : s.drainRecorder.grid = s.grid := by
  unfold State.drainRecorder
  dsimp only
  split
  · rfl
  · rw [State.onRec_grid, State.ringWrite_grid, State.ringWrite_grid]

@[simp] theorem State.runExport_grid (s : State) (o : Open) : (s.runExport o).grid = s.grid := by
  unfold State.runExport
  split
  · simp
  · rfl

@[simp] theorem State.runExports_grid (s : State) : s.runExports.grid = s.grid := by
  simp [State.runExports]

@[simp] theorem State.endReplay_grid (s : State) (status : Nat) : (s.endReplay status).grid = s.grid := by
  simp [State.endReplay]

@[simp] theorem State.checkReplay_grid (s : State) : s.checkReplay.grid = s.grid := by
  unfold State.checkReplay
  split <;> simp

@[simp] theorem State.putSnapshot_grid (s : State) (j : Job) : (s.putSnapshot j).grid = s.grid := by
  unfold State.putSnapshot
  split <;> simp

@[simp] theorem State.writeSnapshot_grid (s : State) (j : Job) (n : Nat) : (s.writeSnapshot j n).grid = s.grid := by
  simp [State.writeSnapshot]
@[simp] theorem State.writeSnapshots_grid (s : State) (tr : Table × Nat) (link : Nat) :
    (s.writeSnapshots tr link).grid = s.grid := by
  simp [State.writeSnapshots]
@[simp] theorem State.chargeJobs_grid (s : State) : s.chargeJobs.grid = s.grid := by
  unfold State.chargeJobs
  exact foldl_grid (by intros; rfl) _ _


@[simp] theorem State.releaseDue_grid (s : State) : s.releaseDue.grid = s.grid := by
  unfold State.releaseDue
  exact foldl_grid (fun u i => by split <;> simp) _ _

@[simp] theorem State.endSlots_grid (s : State) : s.endSlots.grid = s.grid := by
  unfold State.endSlots
  exact foldl_grid (by intros; rfl) _ _

@[simp] theorem State.pumpAll_grid (s : State) : s.pumpAll.grid = s.grid := by
  unfold State.pumpAll
  exact foldl_grid (by simp) _ _


@[simp] theorem State.retirePipe_grid (s : State) (u : Nat) : (s.retirePipe u).grid = s.grid := by
  simp [State.retirePipe]
@[simp] theorem State.retireSpare_grid (s : State) (d u : Nat) : (s.retireSpare d u).grid = s.grid := by
  simp [State.retireSpare]

@[simp] theorem State.serviceTested_grid (s : State) (d u : Nat) : (s.serviceTested d u).grid = s.grid := by
  unfold State.serviceTested
  split <;> simp

@[simp] theorem State.serviceLasting_grid (s : State) : s.serviceLasting.grid = s.grid := by
  unfold State.serviceLasting
  split
  · rfl
  · exact (foldl_grid State.retirePipe_grid _ _).trans (foldl_grid (fun u p => u.serviceTested_grid _ _) _ s)

@[simp] theorem State.taskSwitch_grid (s : State) : s.taskSwitch.grid = s.grid := by
  unfold State.taskSwitch
  split
  · rfl
  · split <;> rfl

@[simp] theorem State.retireCluster_grid (s : State) (u : Nat) : (s.retireCluster u).grid = s.grid := by
  simp [State.retireCluster]
@[simp] theorem State.serviceClusters_grid (s : State) : s.serviceClusters.grid = s.grid := by
  simp [State.serviceClusters]
@[simp] theorem State.tableSwitch_grid (s : State) : s.tableSwitch.grid = s.grid := by
  simp [State.tableSwitch]

end Sys2Proof.Machine
end

section
/-! The tick grid: the link boundary, SYNC_IN and the entry to RUN. O7, O23 and O24. -/

namespace Sys2Proof.Machine

open Sys2Proof.Safety

/-! The time base over the end of a link and the begin of the next. -/

theorem State.countEdge_tb (s : State) :
    ∃ n b, s.countEdge.tb = { s.tb with edgeMissed := n, edgeSeen := b } := by
  unfold State.countEdge
  split
  · exact ⟨_, _, rfl⟩
  · exact ⟨s.tb.edgeMissed, s.tb.edgeSeen, rfl⟩

theorem State.countMile_tb (s : State) : ∃ n, s.countMile.tb = { s.tb with ptmMiles := n } := by
  unfold State.countMile
  split
  · exact ⟨_, rfl⟩
  · exact ⟨s.tb.ptmMiles, rfl⟩

/-- The end of a link closes the edge's window and leaves the rest of the time base (R26). -/
theorem State.endLink_tb (s : State) :
    ∃ n b, s.endLink.tb = { s.tb with edgeMissed := n, edgeSeen := b } := by
  obtain ⟨n, b, hedge⟩ := s.serviceLasting.recordLink.checkReplay.countEdge_tb
  have before : s.serviceLasting.recordLink.checkReplay.tb = s.tb := tb_of_grid (by simp)
  have after : s.endLink.tb = s.serviceLasting.recordLink.checkReplay.countEdge.tb :=
    tb_of_grid (by simp [State.endLink])
  exact ⟨n, b, by rw [after, hedge, before]⟩

/-- What begins with a link leaves the time base as the boundary set it, but for the miles since a PTM dialog. -/
theorem State.beginLink_tb (s : State) (a b : Bool) :
    ∃ n, (s.beginLink a b).tb = { s.countLink.tb with ptmMiles := n } := by
  unfold State.beginLink
  dsimp only
  generalize hu : (if s.countLink.linesNewLink.applyBands.replaying = true then _ else _ : State) = u
  have hgrid : u.grid = s.countLink.grid := by
    rw [← hu]
    simp
  obtain ⟨n, hmile⟩ := u.countMile_tb
  refine ⟨n, ?_⟩
  rw [← tb_of_grid hgrid, ← hmile]
  exact tb_of_grid (by simp)

/-- R10, R25: the count, the length of the link that begins, and the error left. -/
theorem State.nextLink_tb (s : State) (a b : Bool) :
    (s.endLink.beginLink a b).tb.link = s.tb.link + 1 ∧
      (s.endLink.beginLink a b).tb.cycles = (slewed s.tb.phaseErr).1 ∧
      (s.endLink.beginLink a b).tb.phaseErr = (slewed s.tb.phaseErr).2 ∧
      (s.endLink.beginLink a b).tb.mile = s.tb.mile := by
  obtain ⟨m, e, hend⟩ := s.endLink_tb
  obtain ⟨n, hbegin⟩ := s.endLink.beginLink_tb a b
  rw [hbegin]
  simp [State.countLink, hend]

theorem exec_linkBoundary_reset {s : State} (h : s.dev.inReset = true) (a b : Bool) :
    exec (.linkBoundary a b) s = .next s := by
  show execLinkBoundary a b s = _
  simp [execLinkBoundary, h]

theorem exec_linkBoundary_counts {s : State} (h : s.dev.inReset = false) (a b : Bool) :
    exec (.linkBoundary a b) s = .next (s.endLink.beginLink a b) := by
  show execLinkBoundary a b s = _
  simp [execLinkBoundary, h]

/-- Settles O23: `State.nextLink_tb` gives the boundary, the rule of R24 the edge. -/
theorem linkBoundarySlewsTheGrid : Obligations.LinkBoundarySlewsTheGrid := by
  refine ⟨fun s a b h => exec_linkBoundary_reset h a b, fun s a b h => ?_, fun s cyc e hm hc he => ?_⟩
  · obtain ⟨hlink, hcycles, herr, hmile⟩ := s.nextLink_tb a b
    refine ⟨_, exec_linkBoundary_counts h a b, hlink, ?_, ?_, hmile⟩
    · rw [hcycles, slewed]
      split
      · rfl
      · split <;> rfl
    · rw [herr, slewed]
      split
      · rfl
      · split <;> rfl
  · show execSyncInEdge cyc s = _
    simp [execSyncInEdge, hm, he, Nat.not_le.mpr hc]

/-! An event sets its bit, and leaves memory as it is (R443). -/

@[simp] theorem State.sendVector_events (s : State) (v : Nat) : (s.sendVector v).hl.events = s.hl.events := by
  unfold State.sendVector
  split <;> rfl

@[simp] theorem State.sendVector_mem (s : State) (v : Nat) : (s.sendVector v).mem = s.mem := by
  unfold State.sendVector
  split <;> rfl

@[simp] theorem State.recTrigger_mem (s : State) (safety : Bool) : (s.recTrigger safety).mem = s.mem := by
  unfold State.recTrigger
  split <;> rfl

@[simp] theorem State.raiseEvent_mem (s : State) (v : Nat) : (s.raiseEvent v).mem = s.mem := by
  unfold State.raiseEvent
  dsimp only
  split <;> split <;> simp

theorem State.raiseEvent_event (s : State) (v : Nat) : bitAt (s.raiseEvent v).hl.events v = true := by
  unfold State.raiseEvent
  dsimp only
  generalize (if v = 1 && bitAt s.recd.triggers 1 then s.recTrigger true else s) = u
  split
  · assumption
  · simp [bitAt]

/-! The entry to RUN. -/

@[simp] theorem State.putSnapshot_dev (s : State) (j : Job) : (s.putSnapshot j).dev = s.dev := by
  unfold State.putSnapshot
  split
  · rfl
  · exact (dev_of_offRing (State.carryWrite_offRing ..)).trans rfl

@[simp] theorem State.writeSnapshot_dev (s : State) (j : Job) (n : Nat) : (s.writeSnapshot j n).dev = s.dev := by
  unfold State.writeSnapshot
  dsimp only
  split
  · rfl
  · exact (State.putSnapshot_dev _ _).trans rfl

@[simp] theorem State.writeSnapshots_dev (s : State) (tr : Table × Nat) (link : Nat) :
    (s.writeSnapshots tr link).dev = s.dev := by
  unfold State.writeSnapshots
  exact foldl_keeps State.dev (by simp) _ s

@[simp] theorem State.writeSnapshots_tb (s : State) (tr : Table × Nat) (link : Nat) :
    (s.writeSnapshots tr link).tb = s.tb := tb_of_grid (s.writeSnapshots_grid tr link)

@[simp] theorem State.enterMode_spr (s : State) (m : Mode) : (s.enterMode m).spr = s.spr := rfl

/-- RUN begins, in DEGRADED where a resource is lacking, and the grid goes on (R21, R506). -/
theorem State.startRun_control (s : State) (r : RunReq) :
    (s.startRun r).dev.mode = (if s.spr.degraded then .degraded else .run) ∧ (s.startRun r).tb.runReq = none ∧
      (s.startRun r).tb.mile = s.tb.mile ∧ (s.startRun r).tb.link = s.tb.link := by
  by_cases h : s.spr.degraded = true <;> simp [State.startRun, h]

/-- The link that an edge ends, with the mile base at the link that it begins (R22). -/
def State.aligned (s : State) : State :=
  let s := s.endLink.onTb fun t => { t with mile := t.link + 1 }
  let s := s.onSch fun x => { x with
    switchAt := x.switchAt.map fun _ => s.tb.mile, deferAt := x.deferAt.map fun _ => s.tb.mile }
  s.beginLink s.asz.estopA.raw s.asz.estopB.raw

theorem State.aligned_tb (s : State) : s.aligned.tb.link = s.tb.link + 1 ∧ s.aligned.tb.mile = s.tb.link + 1 := by
  obtain ⟨m, e, hend⟩ := s.endLink_tb
  unfold State.aligned
  dsimp only
  generalize hu : State.onSch _ _ = u
  have htb : u.tb = { s.endLink.tb with mile := s.endLink.tb.link + 1 } := by
    rw [← hu]
    rfl
  obtain ⟨n, hbegin⟩ := u.beginLink_tb u.asz.estopA.raw u.asz.estopB.raw
  rw [hbegin]
  simp [State.countLink, htb, hend]

section Align

variable {s : State} {r : RunReq} {k : Nat}

theorem exec_syncAlignEdge_waits (h : s.tb.runReq = some r) (hk : r.sync = false ∨ k = 0 ∨ s.linkCycles < k) :
    exec (.syncAlignEdge k) s = .next s := by
  show execSyncAlignEdge k s = _
  unfold execSyncAlignEdge
  rw [h]
  rcases hk with hk | hk | hk <;> simp [hk]

theorem exec_syncAlignEdge_drops (h : s.tb.runReq = some r) (hs : r.sync = true) (h0 : 0 < k) (hk : k ≤ s.linkCycles)
    (hrun : s.runStatus ≠ stOk) : exec (.syncAlignEdge k) s = .next (s.dropRun r s.runStatus) := by
  show execSyncAlignEdge k s = _
  unfold execSyncAlignEdge
  rw [h]
  dsimp only
  rw [if_neg (by simp [hs]; omega), if_pos hrun]

theorem exec_syncAlignEdge_starts (h : s.tb.runReq = some r) (hs : r.sync = true) (h0 : 0 < k) (hk : k ≤ s.linkCycles)
    (hrun : s.runStatus = stOk) : exec (.syncAlignEdge k) s = .next (s.aligned.startRun r) := by
  show execSyncAlignEdge k s = _
  unfold execSyncAlignEdge
  rw [h]
  dsimp only
  rw [if_neg (by simp [hs]; omega), if_neg (by simp [hrun])]
  rfl

theorem exec_runEntryAtMile_waits (h : s.tb.runReq = some r)
    (hr : r.sync = true ∨ s.mileLink s.tb.link = false ∨ s.tb.link ≤ r.link) : exec .runEntryAtMile s = .next s := by
  show execRunEntryAtMile s = _
  unfold execRunEntryAtMile
  rw [h]
  rcases hr with hr | hr | hr <;> simp [hr]

theorem exec_runEntryAtMile_acts (h : s.tb.runReq = some r) (hs : r.sync = false) (hmile : s.mileLink s.tb.link = true)
    (hlink : r.link < s.tb.link) : exec .runEntryAtMile s =
      .next (if s.runStatus = stOk then s.startRun r else s.dropRun r s.runStatus) := by
  show execRunEntryAtMile s = _
  unfold execRunEntryAtMile
  rw [h]
  dsimp only
  rw [if_neg (by simpa [hs, hmile] using hlink), ite_not]

theorem exec_syncAlignTimeout_waits (h : s.tb.runReq = some r)
    (hr : r.sync = false ∨ s.tb.link < r.link + 2 * s.syncPeriod) : exec .syncAlignTimeout s = .next s := by
  show execSyncAlignTimeout s = _
  unfold execSyncAlignTimeout
  rw [h]
  rcases hr with hr | hr <;> simp [hr]

theorem exec_syncAlignTimeout_drops (h : s.tb.runReq = some r) (hs : r.sync = true)
    (hlink : r.link + 2 * s.syncPeriod ≤ s.tb.link) : exec .syncAlignTimeout s = .next (s.dropRun r stTimeout) := by
  show execSyncAlignTimeout s = _
  unfold execSyncAlignTimeout
  rw [h]
  simp [hs, Nat.not_lt.mpr hlink]

theorem exec_syncLost_waits (h : s.syncMeasured = false ∨ s.syncBoundary s.tb.link = false ∨ s.tb.edgeSeen = true ∨
    s.tb.edgeMissed = 0) : exec .syncLost s = .next s := by
  show execSyncLost s = _
  unfold execSyncLost
  rcases h with h | h | h | h <;> simp [h]

theorem exec_syncLost_frees (hm : s.syncMeasured = true) (hb : s.syncBoundary s.tb.link = true)
    (hseen : s.tb.edgeSeen = false) (hmissed : s.tb.edgeMissed ≠ 0) : exec .syncLost s =
      .next ((s.onTb fun t => { t with syncLost := true, syncFree := true, phaseErr := 0 }).raiseEvent 2) := by
  show execSyncLost s = _
  simp [execSyncLost, hm, hb, hseen, hmissed]

end Align

/-- With no request for RUN waiting, its boundary, its edge and its timeout change nothing. -/
theorem exec_noRequest {s : State} (h : s.tb.runReq = none) : exec .runEntryAtMile s = .next s ∧
    exec .syncAlignTimeout s = .next s ∧ ∀ k, exec (.syncAlignEdge k) s = .next s := by
  refine ⟨?_, ?_, fun k => ?_⟩
  · show execRunEntryAtMile s = _
    simp [execRunEntryAtMile, h]
  · show execSyncAlignTimeout s = _
    simp [execSyncAlignTimeout, h]
  · show execSyncAlignEdge k s = _
    simp [execSyncAlignEdge, h]

/-- Settles O24: each command by its equation above, with what the entry to RUN and the end of a request leave. -/
theorem syncEdgesAreMeasuredOrStray : Obligations.SyncEdgesAreMeasuredOrStray := by
  refine ⟨fun s cyc hm hc he => ?_, fun s cyc h => ?_, fun s h => exec_syncLost_waits h, fun s h => exec_noRequest h,
    fun s r h => ⟨exec_runEntryAtMile_waits h, fun hs hmile hlink hrun => ?_, fun k => exec_syncAlignEdge_waits h,
      fun k hs h0 hk hrun => exec_syncAlignEdge_drops h hs h0 hk hrun, exec_syncAlignTimeout_waits h⟩,
    fun s hm hb hseen hmissed => ?_, fun s r h hs hmile hlink hrun => ?_, fun s r k h hs h0 hk hrun => ?_,
    fun s r h hs hlink => ?_⟩
  · show execSyncInEdge cyc s = _
    simp [execSyncInEdge, hm, he, Nat.not_le.mpr hc]
  · show execSyncInEdge cyc s = _
    rcases h with h | h <;> simp [execSyncInEdge, h]
  · rw [exec_runEntryAtMile_acts h hs hmile hlink, if_neg hrun]
  · exact ⟨_, exec_syncLost_frees hm hb hseen hmissed, by simp, by simp, State.raiseEvent_event _ 2, by simp⟩
  · obtain ⟨hmode, hreq, hbase, hcount⟩ := s.startRun_control r
    exact ⟨_, by rw [exec_runEntryAtMile_acts h hs hmile hlink, if_pos hrun], hmode, hreq, hbase, hcount⟩
  · obtain ⟨hmode, hreq, hbase, hcount⟩ := s.aligned.startRun_control r
    obtain ⟨hlink, hmile⟩ := s.aligned_tb
    refine ⟨_, exec_syncAlignEdge_starts h hs h0 hk hrun, ?_, hcount.trans hlink, hbase.trans hmile, hreq⟩
    rw [hmode]
    split
    · exact .inr rfl
    · exact .inl rfl
  · exact ⟨_, exec_syncAlignTimeout_drops h hs hlink, by simp⟩

/-! LINK_COUNT over every command. -/

/-- R22: an edge that does not begin RUN leaves the count, and one that does begins the next link. -/
theorem exec_syncAlignEdge_link {k : Nat} {s t : State} (h : exec (.syncAlignEdge k) s = .next t) :
    t.tb.link = s.tb.link ∨ t.tb.link = s.tb.link + 1 := by
  cases hreq : s.tb.runReq with
  | none =>
    cases ((exec_noRequest hreq).2.2 k).symm.trans h
    exact .inl rfl
  | some r =>
    by_cases hwait : r.sync = false ∨ k = 0 ∨ s.linkCycles < k
    · cases (exec_syncAlignEdge_waits hreq hwait).symm.trans h
      exact .inl rfl
    · simp only [not_or, Bool.not_eq_false, Nat.not_lt] at hwait
      obtain ⟨hs, h0, hk⟩ := hwait
      by_cases hrun : s.runStatus = stOk
      · obtain rfl : s.aligned.startRun r = t := Host.Outcome.next.inj
          ((exec_syncAlignEdge_starts hreq hs (Nat.pos_of_ne_zero h0) hk hrun).symm.trans h)
        obtain ⟨-, -, -, hcount⟩ := s.aligned.startRun_control r
        exact .inr (hcount.trans s.aligned_tb.1)
      · cases (exec_syncAlignEdge_drops hreq hs (Nat.pos_of_ne_zero h0) hk hrun).symm.trans h
        exact .inl (by simp)

theorem exec_linkBoundary_link {a b : Bool} {s t : State} (h : exec (.linkBoundary a b) s = .next t) :
    t.tb.link = s.tb.link ∨ t.tb.link = s.tb.link + 1 := by
  cases hreset : s.dev.inReset with
  | true =>
    cases (exec_linkBoundary_reset hreset a b).symm.trans h
    exact .inl rfl
  | false =>
    obtain rfl : s.endLink.beginLink a b = t :=
      Host.Outcome.next.inj ((exec_linkBoundary_counts hreset a b).symm.trans h)
    exact .inr (s.nextLink_tb a b).1

/-- A write to DEV_RESET resets the device or changes nothing (R548). -/
theorem exec_devResetWrite_cases (v : Nat) (s : State) :
    exec (.devResetWrite v) s = .next s.inResetFrom ∨ exec (.devResetWrite v) s = .next s := by
  show execDevResetWrite v s = _ ∨ execDevResetWrite v s = _
  unfold execDevResetWrite
  split
  · exact .inl rfl
  · exact .inr rfl

/-- The commands that count a link, and those that reset the device, are the ones that the count is exempt for. -/
theorem exempt_link_cases {c : Instr} (h : (exempt c).link = true) : (∃ a b, c = .linkBoundary a b) ∨
    (∃ k, c = .syncAlignEdge k) ∨ c = .resetAssert ∨ c = .powerLoss ∨ ∃ v, c = .devResetWrite v := by
  unfold exempt at h
  split at h <;> simp_all

/-- Settles O7: `exec_kept` for the commands that are not exempt, and the equation of each that is. -/
theorem linkCountStepsByOne : Obligations.LinkCountStepsByOne := by
  intro c s t h
  by_cases hx : (exempt c).link = true
  · obtain ⟨a, b, rfl⟩ | ⟨k, rfl⟩ | rfl | rfl | ⟨v, rfl⟩ := exempt_link_cases hx
    · exact (exec_linkBoundary_link h).imp id fun e => .inl ⟨e, .inl ⟨a, b, rfl⟩⟩
    · exact (exec_syncAlignEdge_link h).imp id fun e => .inl ⟨e, .inr ⟨k, rfl⟩⟩
    · cases h
      exact .inr (.inr ⟨rfl, rfl⟩)
    · cases h
      exact .inr (.inr ⟨rfl, rfl⟩)
    · obtain e | e := exec_devResetWrite_cases v s
      · cases e.symm.trans h
        exact .inr (.inr ⟨rfl, rfl⟩)
      · cases e.symm.trans h
        exact .inl rfl
  · exact .inl ((exec_kept h).link.resolve_left hx)

end Sys2Proof.Machine
end

section
/-! Resets and the start sequence (R471 to R473, R548, R562 to R564). O18. -/

namespace Sys2Proof.Machine

open Sys2Proof.Safety

/-! Reset: every block at its reset values, the host's memory and the flash as they were. -/

/-- A listing restricted to some addresses reads at them as the whole one. -/
theorem cellGet_filter (p : Nat → Bool) (m : List Host.Cell) {a : Nat} (h : p a = true) :
    cellGet (m.filter fun c => p c.1) a = cellGet m a := by
  induction m with
  | nil => rfl
  | cons c m ih =>
    obtain ⟨k, v⟩ := c
    by_cases hk : k = a
    · subst hk
      simp [h, cellGet]
    · by_cases hp : p k = true <;> simp [hp, cellGet, hk, ih]

theorem byteAt_inResetFrom (s : State) {a : Nat} (h : isHost a = true) : s.inResetFrom.byteAt a = s.byteAt a :=
  congrArg (fun c => c.getD (unlisted s.starts a)) (cellGet_filter isHost s.mem.cells h)

theorem inResetFrom_inReset (s : State) : InReset s s.inResetFrom := by
  refine ⟨rfl, rfl, rfl, rfl, rfl, rfl, rfl, rfl, rfl, rfl, rfl, rfl, rfl, rfl, rfl, rfl, rfl, rfl, rfl,
    fun a h => byteAt_inResetFrom s h, fun hop hmode => ?_, rfl⟩
  have hcaught : s.copyCaught = false := by simp [State.copyCaught, hmode]
  simp [State.inResetFrom, hcaught, Fw.survivor, hop]

theorem exec_devResetWrite_resets {s : State} {v : Nat} (hv : v % 2 ^ 32 = 0xA5A50001) (hrun : s.dev.mode ≠ .run)
    (hdeg : s.dev.mode ≠ .degraded) (hrep : s.dev.mode ≠ .replay) (hsafe : s.asz.safe = false) :
    exec (.devResetWrite v) s = .next s.inResetFrom := by
  show execDevResetWrite v s = _
  unfold execDevResetWrite
  rw [if_pos (by simpa [State.running, hrun, hdeg, hrep, hsafe] using hv)]

theorem exec_devResetWrite_ignored {s : State} {v : Nat} (h : v % 2 ^ 32 ≠ 0xA5A50001 ∨ s.dev.mode = .run ∨
    s.dev.mode = .degraded ∨ s.dev.mode = .replay ∨ s.asz.safe = true) : exec (.devResetWrite v) s = .next s := by
  show execDevResetWrite v s = _
  unfold execDevResetWrite
  rw [if_neg]
  rcases h with h | h | h | h | h
  · simp only [h, decide_false, Bool.false_and]
    decide
  all_goals simp [h, State.running]

theorem exec_hubResetRelease_starts {s : State} (h : s.dev.inReset = true) (b : Nat) :
    ∃ t : State, exec (.hubResetRelease b) s = .next t ∧ t.dev.inReset = false ∧ t.dev.mode = .start ∧
      t.dev.bootsel = b % 4 ∧ t.tb = s.tb ∧ t.starts = s.starts + 1 ∧ t.mem = s.mem ∧ t.asz = s.asz := by
  show ∃ t : State, execHubResetRelease b s = .next t ∧ _
  unfold execHubResetRelease
  rw [if_neg (by simp [h])]
  exact ⟨_, rfl, rfl, rfl, rfl, rfl, rfl, rfl, rfl⟩

/-! RECOVERY. -/

/-- The ROM takes commands, and memory holds what it held (R472). -/
theorem State.enterRecovery_control (s : State) (reason : Nat) :
    (s.enterRecovery reason).dev.mode = .recovery ∧ (s.enterRecovery reason).dev.fwReady = true ∧
      (s.enterRecovery reason).fw.recoveryReason = reason ∧ (s.enterRecovery reason).mem = s.mem := by
  unfold State.enterRecovery
  dsimp only
  split <;> exact ⟨rfl, rfl, rfl, rfl⟩

section Start

variable {s : State} {r : StartReport}

theorem exec_start_strapped (hin : s.dev.inReset = false) (hmode : s.dev.mode = .start)
    (hb : s.dev.bootsel = 1 ∨ s.dev.bootsel = 2) : exec (.startSequenceComplete r) s = .next (s.enterRecovery 1) := by
  show execStartSequenceComplete r s = _
  unfold execStartSequenceComplete
  rw [if_neg (by simp [hin, hmode]), if_pos (by simpa using hb)]

theorem exec_start_loaderFails (hin : s.dev.inReset = false) (hmode : s.dev.mode = .start)
    (hb : ¬(s.dev.bootsel = 1 ∨ s.dev.bootsel = 2)) (hl : r.loaderOk = false) :
    exec (.startSequenceComplete r) s = .next (s.enterRecovery 2) := by
  show execStartSequenceComplete r s = _
  unfold execStartSequenceComplete
  rw [if_neg (by simp [hin, hmode]), if_neg (by simpa using hb), if_pos (by simp [hl])]

/-- Steps 5 to 7 of the start: the segments train, the wear record is applied, the dies load (R471). -/
def State.bootUnits (s : State) (report : StartReport) : State :=
  let s := (List.range 5).foldl (fun x g =>
    x.startSegment g (report.segFwd.getD g true) (report.segRev.getD g true)) s
  let s := s.spr.entries.foldl State.applyEntry s
  (List.range 4).foldl (fun x d => x.startDie d (report.dieOk.getD d true) (report.stackOk.getD d true)) s

/-- Firmware is ready, with the row of the link in progress (R471 step 9). -/
def State.bootEnd (s : State) : State :=
  let s := (s.onFw fun f => { f with stage := 9 }).onDev fun d => { d with fwReady := true }
  s.onSch fun x => { x with row := s.chainRow }

/-- Steps 3 to 9 of the start from a state with an image that passed (R471), up to the mode. -/
def State.bootFrom (s : State) (report : StartReport) : State :=
  ((((s.readImage report.keyMatches report.startMs).readConfig).readWear report.rebuilt).bootUnits
    report).applyConfig.initMemory.sendP0Mask.bootEnd

/-- The mode in which a start ends (R471 step 9). -/
def State.enterFirst (s : State) : State := if s.dev.bootsel = 3 then s.enterBench .test else s.enterConfig

theorem exec_start_loads (hin : s.dev.inReset = false) (hmode : s.dev.mode = .start)
    (hb : ¬(s.dev.bootsel = 1 ∨ s.dev.bootsel = 2)) (hl : r.loaderOk = true) :
    exec (.startSequenceComplete r) s = .next
      (if (s.copyStaged r).2 then ((s.copyStaged r).1.bootFrom r).enterFirst
        else (s.copyStaged r).1.enterRecovery 3) := by
  show execStartSequenceComplete r s = _
  unfold execStartSequenceComplete
  rw [if_neg (by simp [hin, hmode]), if_neg (by simpa using hb), if_neg (by simp [hl])]
  generalize s.copyStaged r = p
  obtain ⟨u, ok⟩ := p
  cases ok <;> rfl

theorem copyStaged_passes (h : r.imageOk = true) : (s.copyStaged r).2 = true := by
  simp [State.copyStaged, h]

theorem copyStaged_fails (h : r.imageOk = false) (hcopy : r.imageOkAfterCopy = false) :
    (s.copyStaged r).2 = false := by
  unfold State.copyStaged
  dsimp only
  generalize (if s.fw.staging = .committed || s.fw.staging = .copying then
    s.onFw fun f => { f.install with copied := true } else s) = u
  rw [if_neg (by simp [h])]
  split
  · exact hcopy
  · rfl

end Start

/-- The loader's copy changes the firmware block alone (R471 step 2). -/
theorem copyStaged_fw (s : State) (r : StartReport) : ∃ w, (s.copyStaged r).1 = { s with fw := w } := by
  unfold State.copyStaged
  dsimp only
  generalize hu : (if s.fw.staging = .committed || s.fw.staging = .copying then
    s.onFw fun f => { f.install with copied := true } else s) = u
  have hw : ∃ w, u = { s with fw := w } := by
    rw [← hu]
    split
    · exact ⟨_, rfl⟩
    · exact ⟨s.fw, rfl⟩
  obtain ⟨w, rfl⟩ := hw
  split
  · exact ⟨w, rfl⟩
  · split
    · exact ⟨_, rfl⟩
    · exact ⟨w, rfl⟩

/-! The straps over the start sequence. -/

/-- What HUB_RESET_RELEASE latches, and only a reset changes (R470, R563). -/
def State.straps (s : State) : Bool × Nat := (s.dev.inReset, s.dev.bootsel)

theorem straps_of_grid {s t : State} (h : t.grid = s.grid) : t.straps = s.straps :=
  congrArg (fun g : Grid => (g.inReset, g.bootsel)) h

@[simp] theorem State.readImage_grid (s : State) (keyMatches : Bool) (ms : Nat) :
    (s.readImage keyMatches ms).grid = s.grid := s.onFw_grid _
@[simp] theorem State.readConfig_grid (s : State) : s.readConfig.grid = s.grid := s.onFw_grid _

@[simp] theorem State.readWear_grid (s : State) (rebuilt : List WearEntry) : (s.readWear rebuilt).grid = s.grid := by
  simp [State.readWear]

@[simp] theorem State.startSegment_grid (s : State) (g : Nat) (fwd rev : Bool) :
    (s.startSegment g fwd rev).grid = s.grid := by
  unfold State.startSegment
  dsimp only
  split <;> simp

@[simp] theorem State.applyCore_grid (s : State) (d u : Nat) : (s.applyCore d u).grid = s.grid := by
  unfold State.applyCore
  dsimp only
  split <;> simp

@[simp] theorem State.applyEntry_grid (s : State) (r : WearEntry) : (s.applyEntry r).grid = s.grid := by
  unfold State.applyEntry
  dsimp only
  split <;> simp

/-- A device fault leaves of the device block all but the cause and its link (R547). -/
@[simp] theorem State.deviceFault_dev (s : State) (b : Nat) : (s.deviceFault b).dev = { s.dev with
    faultLink := if s.dev.faultCause = 0 then s.tb.link else s.dev.faultLink
    faultCause := s.dev.faultCause ||| 2 ^ b } := by
  simp [State.deviceFault]

theorem State.startDie_straps (s : State) (d : Nat) (die stack : Bool) :
    (s.startDie d die stack).straps = s.straps := by
  unfold State.startDie
  dsimp only
  split
  · rfl
  · simp [State.straps]

theorem State.initMemory_grid (s : State) : s.initMemory.grid = s.grid := by
  unfold State.initMemory
  exact foldl_grid (by simp) _ _

theorem State.bootUnits_straps (s : State) (r : StartReport) : (s.bootUnits r).straps = s.straps := by
  unfold State.bootUnits
  refine (foldl_keeps State.straps (fun u d => u.startDie_straps d _ _) _ _).trans (straps_of_grid ?_)
  exact (foldl_grid State.applyEntry_grid _ _).trans (foldl_grid (fun u g => u.startSegment_grid g _ _) _ s)

theorem State.applyConfig_straps (s : State) : s.applyConfig.straps = s.straps := by
  simp [State.applyConfig, State.straps]

theorem State.bootEnd_dev (s : State) : s.bootEnd.dev = { s.dev with fwReady := true } := rfl

theorem State.bootEnd_straps (s : State) : s.bootEnd.straps = s.straps := by
  unfold State.straps
  rw [State.bootEnd_dev]

/-- R471: the start keeps the straps. -/
theorem State.bootFrom_straps (s : State) (r : StartReport) : (s.bootFrom r).straps = s.straps := by
  unfold State.bootFrom
  generalize hu : State.bootUnits _ r = u
  calc u.applyConfig.initMemory.sendP0Mask.bootEnd.straps
      = u.applyConfig.initMemory.sendP0Mask.straps := State.bootEnd_straps _
    _ = u.applyConfig.straps := straps_of_grid ((State.sendP0Mask_grid _).trans (State.initMemory_grid _))
    _ = u.straps := u.applyConfig_straps
    _ = (State.readWear _ r.rebuilt).straps := hu ▸ State.bootUnits_straps _ r
    _ = s.straps := straps_of_grid (by simp)

@[simp] theorem State.enterBench_dev (s : State) (m : Mode) : (s.enterBench m).dev = { s.dev with mode := m } := by
  cases hreq : s.tb.runReq with
  | none => by_cases hm : m = .replay <;> simp [State.enterBench, hreq, hm]
  | some q => by_cases hm : m = .replay <;> simp [State.enterBench, hreq, hm]

theorem State.enterFirst_dev (s : State) :
    s.enterFirst.dev = { s.dev with mode := if s.dev.bootsel = 3 then .test else .config } := by
  unfold State.enterFirst
  split <;> simp

/-- Settles O18: `inResetFrom_inReset` gives the resets, and one equation each the ends of a start. -/
theorem resetsAndStart : Obligations.ResetsAndStart := by
  refine ⟨fun s => ⟨_, rfl, inResetFrom_inReset s⟩, fun s => ⟨_, rfl, inResetFrom_inReset s⟩,
    fun s v hv hrun hdeg hrep hsafe =>
      ⟨_, exec_devResetWrite_resets hv hrun hdeg hrep hsafe, inResetFrom_inReset s⟩,
    fun s v h => exec_devResetWrite_ignored h, fun s b h => exec_hubResetRelease_starts h b,
    fun s r hin hmode h => ?_, fun s r hin hmode hb hl him hcopy => ?_, fun s r hin hmode hb hl him => ?_⟩
  · by_cases hb : s.dev.bootsel = 1 ∨ s.dev.bootsel = 2
    · obtain ⟨hrec, hready, hreason, hmem⟩ := s.enterRecovery_control 1
      exact ⟨_, exec_start_strapped hin hmode hb, hrec, hready, by rw [hreason, if_pos hb], hmem⟩
    · obtain ⟨hrec, hready, hreason, hmem⟩ := s.enterRecovery_control 2
      exact ⟨_, exec_start_loaderFails hin hmode hb (by tauto), hrec, hready, by rw [hreason, if_neg hb], hmem⟩
  · obtain ⟨w, hw⟩ := copyStaged_fw s r
    obtain ⟨hrec, hready, hreason, hmem⟩ := (s.copyStaged r).1.enterRecovery_control 3
    refine ⟨_, exec_start_loads hin hmode (by omega) hl, ?_⟩
    rw [copyStaged_fails him hcopy]
    exact ⟨hrec, hready, hreason, by rw [if_neg (by simp), hmem, hw]⟩
  · obtain ⟨w, hw⟩ := copyStaged_fw s r
    have hready : ((s.copyStaged r).1.bootFrom r).dev.fwReady = true := by rw [State.bootFrom, State.bootEnd_dev]
    have hkept : ((s.copyStaged r).1.bootFrom r).straps = s.straps := by rw [State.bootFrom_straps, hw]; rfl
    obtain ⟨hreset, hsel⟩ := Prod.mk.inj hkept
    refine ⟨_, exec_start_loads hin hmode (by omega) hl, ?_⟩
    rw [copyStaged_passes him, if_pos rfl, State.enterFirst_dev]
    exact ⟨by rw [hsel], hready, hreset.trans hin⟩

end Sys2Proof.Machine
end

section
/-! Chain and furlong boundaries, operating points and the dies' counts (R12, R357, R517 to R522). O31. -/

namespace Sys2Proof.Machine

open Sys2Proof.Safety

/-- Entries set one after the other: each reads as its own value, every other as it was. -/
theorem getD_foldl_set {α : Type} (v : Nat → α) (a : α) (d : Nat) (l : List Nat) :
    ∀ c : List α, d < c.length →
      (l.foldl (fun c i => c.set i (v i)) c).getD d a = if d ∈ l then v d else c.getD d a := by
  induction l with
  | nil => intro c _; simp
  | cons i l ih =>
    intro c hd
    rw [List.foldl_cons, ih _ (by simpa using hd)]
    by_cases hl : d ∈ l
    · simp [hl]
    · by_cases hi : i = d
      · subst hi
        simp [hl, hd]
      · simp [hl, Ne.symm hi, hi]

/-! Operating points: what a change leaves, and the point that lowering takes at once (R517). -/

/-- What a change of an operating point leaves: the time base, the temperatures, the dies switched off, the averages. -/
structure Gauges where
  tb : TimeBase
  therm : List Therm
  off : List Bool
  packageMw : Nat
  dieMw : List Nat

def State.gauges (s : State) : Gauges := ⟨s.tb, s.pwr.therm, s.pwr.off, s.pwr.packageMw, s.pwr.dieMw⟩

theorem gauges_of_grid {s t : State} (h : t.grid = s.grid) : t.gauges = s.gauges :=
  congrArg (fun g : Grid => (⟨g.tb, g.pwr.therm, g.pwr.off, g.pwr.packageMw, g.pwr.dieMw⟩ : Gauges)) h

theorem tb_of_gauges {s t : State} (h : t.gauges = s.gauges) : t.tb = s.tb := congrArg Gauges.tb h
theorem therm_of_gauges {s t : State} (h : t.gauges = s.gauges) : t.pwr.therm = s.pwr.therm := congrArg Gauges.therm h
theorem off_of_gauges {s t : State} (h : t.gauges = s.gauges) : t.pwr.off = s.pwr.off := congrArg Gauges.off h

theorem averages_of_gauges {s t : State} (h : t.gauges = s.gauges) :
    t.pwr.packageMw = s.pwr.packageMw ∧ t.pwr.dieMw = s.pwr.dieMw :=
  ⟨congrArg Gauges.packageMw h, congrArg Gauges.dieMw h⟩

@[simp] theorem State.selectCode_gauges (s : State) (d o : Nat) : (s.selectCode d o).gauges = s.gauges := by
  unfold State.selectCode
  dsimp only
  split <;> rfl

@[simp] theorem State.selectCode_row (s : State) (d o : Nat) : (s.selectCode d o).sch.row = s.sch.row := by
  unfold State.selectCode
  dsimp only
  split <;> rfl

@[simp] theorem State.selectCode_op (s : State) (d o : Nat) : (s.selectCode d o).pwr.op = s.pwr.op := by
  unfold State.selectCode
  dsimp only
  split <;> rfl

@[simp] theorem State.changeOp_gauges (s : State) (d o : Nat) : (s.changeOp d o).gauges = s.gauges := by
  unfold State.changeOp
  split <;> exact (s.selectCode_gauges d o)

theorem State.changeOp_lowers {s : State} {d o : Nat} (h : s.opOf d ≤ o) :
    (s.changeOp d o).pwr.op = s.pwr.op.set d o := by
  unfold State.changeOp
  rw [if_neg (Nat.not_lt.mpr h)]
  simp

theorem State.changeOp_opOf {s : State} {d o : Nat} (h : s.opOf d ≤ o) (hd : d < s.pwr.op.length) (i : Nat) :
    (s.changeOp d o).opOf i = if i = d then o else s.opOf i := by
  unfold State.opOf
  rw [State.changeOp_lowers h]
  by_cases hi : i = d
  · subst hi
    simp [hd]
  · simp [hi, Ne.symm hi]

@[simp] theorem State.stepDown_gauges (s : State) (ds : List Nat) : (s.stepDown ds).gauges = s.gauges := by
  unfold State.stepDown
  refine foldl_keeps State.gauges (fun u d => ?_) ds s
  split
  · simp
  · rfl

/-- A step down by one on each die of the list that is above OP3 (R518). -/
theorem State.stepDown_op {ds : List Nat} (hn : ds.Nodup) : ∀ s : State, (∀ d ∈ ds, d < s.pwr.op.length) → ∀ e,
    (s.stepDown ds).opOf e = if e ∈ ds ∧ s.opOf e < 3 then s.opOf e + 1 else s.opOf e := by
  induction ds with
  | nil => intro s _ e; simp [State.stepDown]
  | cons d ds ih =>
    intro s hlen e
    obtain ⟨hd, hds⟩ := List.nodup_cons.mp hn
    have hfirst : d < s.pwr.op.length := hlen d (by simp)
    have hrest : ∀ i ∈ ds, i < s.pwr.op.length := fun i hi => hlen i (by simp [hi])
    show ((if s.opOf d < 3 then s.changeOp d (s.opOf d + 1) else s).stepDown ds).opOf e = _
    by_cases hlow : s.opOf d < 3
    · have hle : s.opOf d ≤ s.opOf d + 1 := Nat.le_succ _
      rw [if_pos hlow, ih hds _ (by simpa [State.changeOp_lowers hle] using hrest), State.changeOp_opOf hle hfirst]
      by_cases he : e = d
      · subst he
        simp [hd, hlow]
      · simp [he]
    · rw [if_neg hlow, ih hds _ hrest]
      by_cases he : e = d
      · subst he
        simp [hlow]
      · simp [he]

@[simp] theorem State.raiseP0_gauges (s : State) : s.raiseP0.gauges = s.gauges := by
  unfold State.raiseP0
  split
  · rfl
  · simp

/-! The furlong boundary (R518). -/

/-- The maxima of the furlong just ended are taken: the junction samples stay, and all outside the power block. -/
theorem State.shiftTherm_pwr (s : State) : ∃ a l,
    s.shiftTherm = { s with pwr := { s.pwr with shiftedAt := a, therm := l } } ∧
      l.map Therm.junction = s.pwr.therm.map Therm.junction := by
  unfold State.shiftTherm
  split
  · exact ⟨s.pwr.shiftedAt, s.pwr.therm, rfl, rfl⟩
  · exact ⟨_, _, rfl, by simp⟩

theorem State.park_grid (s : State) : ∃ l, s.park.grid = { s.grid with pwr := { s.pwr with parked := l } } := by
  unfold State.park
  dsimp only
  split
  · exact ⟨_, (foldl_grid (by simp) _ _).trans rfl⟩
  · exact ⟨_, rfl⟩

theorem State.park_gauges (s : State) : s.park.gauges = s.gauges := by
  obtain ⟨l, h⟩ := s.park_grid
  exact congrArg (fun g : Grid => (⟨g.tb, g.pwr.therm, g.pwr.off, g.pwr.packageMw, g.pwr.dieMw⟩ : Gauges)) h

theorem State.decidePower_gauges (s : State) (p : Nat) : (s.decidePower p).gauges = s.gauges := by
  unfold State.decidePower
  dsimp only
  generalize hu : (if s.pwr.cap * 1000 < p then s.stepDown s.ruled else _ : State) = u
  have hkept : u.gauges = s.gauges := by
    rw [← hu]
    split
    · simp
    · split
      · split
        · simp
        · split <;> simp
      · simp
  split
  · exact (gauges_of_grid (State.raiseEvent_grid _ 12)).trans hkept
  · exact hkept

/-- Over the cap every ruled die is stepped down, and the cap is unmet where none is above OP3 then. -/
theorem State.decidePower_over {s : State} {p : Nat} (h : s.pwr.cap * 1000 < p) : (s.decidePower p).pwr =
    { (s.stepDown s.ruled).pwr with capUnmet := s.ruled.all fun d => (s.stepDown s.ruled).opOf d = 3 } := by
  unfold State.decidePower
  dsimp only
  rw [if_pos h]
  cases hall : s.ruled.all fun d => (s.stepDown s.ruled).opOf d = 3
  · simp [h]
  · rw [if_pos (by simp [h])]
    exact (pwr_of_grid (State.raiseEvent_grid _ 12)).trans rfl

/-- The state in which a furlong boundary decides: the averages of the furlong just ended are in (R518). -/
def State.averaged (s : State) (power : PowerSample) : State :=
  s.shiftTherm.onPwr fun p => { p with
    packageMw := power.package, dieMw := (List.range 4).map fun d => power.die.getD d 0 }

theorem exec_furlongBoundary {s : State} (hphase : s.phase s.tb.link % 1000 = 0) (hup : s.up = true) (p : PowerSample) :
    exec (.furlongBoundary p) s = .next (if s.pwr.state = .active then ((s.averaged p).decidePower p.package).park
      else s.averaged p) := by
  obtain ⟨a, l, hshift, -⟩ := s.shiftTherm_pwr
  have hstate : (s.averaged p).pwr.state = s.pwr.state := by rw [State.averaged, hshift]; rfl
  show execFurlongBoundary p s = .next _
  unfold execFurlongBoundary
  rw [if_neg (by simp [hphase, hup]), ← hstate]
  by_cases hact : (s.averaged p).pwr.state = .active
  · rw [if_pos hact]
    exact congrArg _ (if_neg (not_not.mpr hact))
  · rw [if_neg hact]
    exact congrArg _ (if_pos hact)

/-- The averages are in, and the schedule, the operating points and the cap are as they were. -/
theorem State.averaged_power (s : State) (p : PowerSample) : (s.averaged p).tb = s.tb ∧
    (s.averaged p).pwr.packageMw = p.package ∧
    (s.averaged p).pwr.dieMw = ((List.range 4).map fun d => p.die.getD d 0) ∧
    (s.averaged p).pwr.op = s.pwr.op ∧ (s.averaged p).pwr.cap = s.pwr.cap ∧ (s.averaged p).ruled = s.ruled := by
  obtain ⟨a, l, hshift, -⟩ := s.shiftTherm_pwr
  unfold State.averaged
  rw [hshift]
  exact ⟨rfl, rfl, rfl, rfl, rfl, rfl⟩

/-- The averages stay through the decision and the parking. -/
theorem furlong_averages (s : State) (p : PowerSample) :
    (((s.averaged p).decidePower p.package).park).gauges = (s.averaged p).gauges :=
  (State.park_gauges _).trans (State.decidePower_gauges _ _)

/-- What a furlong over the cap leaves of the operating points (R518). -/
theorem furlong_over {s : State} {p : PowerSample} (hlen : s.pwr.op.length = 4) (h : s.pwr.cap * 1000 < p.package) :
    (∀ d, (((s.averaged p).decidePower p.package).park).opOf d =
      if d ∈ s.ruled ∧ s.opOf d < 3 then s.opOf d + 1 else s.opOf d) ∧
    (((s.averaged p).decidePower p.package).park).pwr.capUnmet =
      s.ruled.all fun d => decide (2 ≤ s.opOf d ∧ s.opOf d ≤ 3) := by
  obtain ⟨-, -, -, hop, hcap, hruled⟩ := s.averaged_power p
  obtain ⟨l, hpark⟩ := ((s.averaged p).decidePower p.package).park_grid
  have hpwr := congrArg Grid.pwr hpark
  have hopOf : ∀ d, (s.averaged p).opOf d = s.opOf d := fun d => congrArg (fun o => o.getD d 0) hop
  have hstep : ∀ d, ((s.averaged p).stepDown s.ruled).opOf d =
      if d ∈ s.ruled ∧ s.opOf d < 3 then s.opOf d + 1 else s.opOf d := by
    intro d
    have hnodup : s.ruled.Nodup := List.nodup_range.filter _
    rw [State.stepDown_op hnodup, hopOf]
    intro i hi
    rw [hop, hlen]
    exact List.mem_range.mp (List.mem_of_mem_filter hi)
  have hdecide := State.decidePower_over (s := s.averaged p) (p := p.package) (by rw [hcap]; exact h)
  rw [hruled] at hdecide
  constructor
  · intro d
    rw [← hstep]
    show ((((s.averaged p).decidePower p.package).park).grid.pwr.op).getD d 0 = _
    rw [hpark]
    show ((s.averaged p).decidePower p.package).pwr.op.getD d 0 = _
    rw [hdecide]
    rfl
  · show (((s.averaged p).decidePower p.package).park).grid.pwr.capUnmet = _
    rw [hpark]
    show ((s.averaged p).decidePower p.package).pwr.capUnmet = _
    rw [hdecide]
    rw [Bool.eq_iff_iff, List.all_eq_true, List.all_eq_true]
    refine forall₂_congr fun d hd => ?_
    rw [hstep]
    by_cases hlow : s.opOf d < 3 <;> simp [hd, hlow] <;> omega

/-! The chain boundary: the counts go out and the row changes (R12, R357). -/

/-- A die has a count to check. -/
def Grid.markDue (g : Grid) (d : Nat) : Grid :=
  { g with tb := { g.tb with countDue := g.tb.countDue.set d true } }

theorem foldl_markDue (l : List Nat) : ∀ g : Grid, l.foldl Grid.markDue g =
    { g with tb := { g.tb with countDue := l.foldl (fun c d => c.set d true) g.tb.countDue } } := by
  induction l with
  | nil => intro g; rfl
  | cons d l ih => intro g; exact ih (g.markDue d)

theorem State.onTb_grid (s : State) (f : TimeBase → TimeBase) : (s.onTb f).grid = { s.grid with tb := f s.grid.tb } :=
  rfl

/-- The counts go out to the dies that hold one, and nothing else of the grid view changes. -/
theorem State.sendCounts_grid (s : State) : s.sendCounts.grid = { s.grid with tb := { s.tb with
    countDue := ((List.range 4).filter s.dieCounts).foldl (fun c d => c.set d true) s.tb.countDue } } := by
  rw [State.sendCounts, ← List.foldl_hom State.grid (g₂ := Grid.markDue), foldl_markDue]
  · rfl
  · intro u d
    rw [State.onTb_grid, State.carryMessage_grid]
    rfl

theorem State.sendCounts_leaves (s : State) : s.sendCounts.pwr = s.pwr ∧ s.sendCounts.tb.link = s.tb.link ∧
    s.sendCounts.tb.mile = s.tb.mile ∧ s.sendCounts.tb.countDue =
      ((List.range 4).filter s.dieCounts).foldl (fun c d => c.set d true) s.tb.countDue := by
  have h := s.sendCounts_grid
  exact ⟨congrArg Grid.pwr h, congrArg (fun g : Grid => g.tb.link) h, congrArg (fun g : Grid => g.tb.mile) h,
    congrArg (fun g : Grid => g.tb.countDue) h⟩

/-- The row in force becomes the row of the chain that begins. -/
theorem State.changeRow_row (s : State) : s.changeRow.sch.row = s.changeRow.chainRow := by
  unfold State.changeRow
  generalize s.tableSwitch.raiseP0 = y
  dsimp only
  split
  · assumption
  · rfl

theorem State.changeRow_gauges (s : State) : s.changeRow.gauges = s.gauges := by
  have hswitch : s.tableSwitch.raiseP0.gauges = s.gauges :=
    (State.raiseP0_gauges _).trans (gauges_of_grid s.tableSwitch_grid)
  unfold State.changeRow
  generalize s.tableSwitch.raiseP0 = y at hswitch ⊢
  dsimp only
  split <;> exact hswitch

/-! The samples of a chain boundary (R521). -/

/-- The junction temperatures that stand in TEMPS. -/
def State.junctions (s : State) : List Nat := s.pwr.therm.map Therm.junction

/-- The time base and the row in force. -/
def State.clock (s : State) : TimeBase × Nat := (s.tb, s.sch.row)

theorem tb_of_clock {s t : State} (h : t.clock = s.clock) : t.tb = s.tb := congrArg Prod.fst h
theorem row_of_clock {s t : State} (h : t.clock = s.clock) : t.sch.row = s.sch.row := congrArg Prod.snd h

theorem State.thermOf_junction (s : State) (i : Nat) : (s.thermOf i).junction = s.junctions.getD i 0 :=
  (List.getD_map s.pwr.therm {} Therm.junction).symm

theorem junctions_of_grid {s t : State} (h : t.grid = s.grid) : t.junctions = s.junctions :=
  congrArg (fun g : Grid => g.pwr.therm.map Therm.junction) h

theorem clock_of_grid {s t : State} (h : t.grid = s.grid) : t.clock = s.clock :=
  congrArg (fun g : Grid => (g.tb, g.row)) h

theorem State.onTherm_clock (s : State) (i : Nat) (f : Therm → Therm) : (s.onTherm i f).clock = s.clock := by
  simp [State.clock, State.onTherm]

theorem State.onTherm_junctions_kept (s : State) (i : Nat) {f : Therm → Therm} (h : ∀ t, (f t).junction = t.junction) :
    (s.onTherm i f).junctions = s.junctions := by
  refine List.ext_getElem (by simp [State.junctions, State.onTherm]) fun k _ _ => ?_
  simp only [State.junctions, State.onTherm, State.onPwr_pwr, List.getElem_map, List.getElem_modify]
  split <;> simp [h]

theorem State.onTherm_junctions_set (s : State) (i t : Nat) {f : Therm → Therm} (h : ∀ x, (f x).junction = t) :
    (s.onTherm i f).junctions = s.junctions.set i t := by
  refine List.ext_getElem (by simp [State.junctions, State.onTherm]) fun k _ _ => ?_
  simp only [State.junctions, State.onTherm, State.onPwr_pwr, List.getElem_map, List.getElem_modify, List.getElem_set]
  split <;> simp [h]

/-- A trip of a logic die leaves the clock and the samples (R522). -/
theorem State.tripDie_samples (s : State) (d : Nat) :
    (s.tripDie d).clock = s.clock ∧ (s.tripDie d).junctions = s.junctions := by
  unfold State.tripDie
  dsimp only
  generalize hu : List.foldl _ _ _ = u
  have hgrid : u.grid = (s.onTherm d fun t => { t with tripped := true }).grid := by
    rw [← hu]
    exact (foldl_grid (by simp) _ _).trans (by simp)
  constructor
  · calc _ = (u.selectCode d 3).clock := by simp [State.clock]
      _ = u.clock := Prod.ext (tb_of_gauges (u.selectCode_gauges d 3)) (u.selectCode_row d 3)
      _ = (s.onTherm d fun t => { t with tripped := true }).clock := clock_of_grid hgrid
      _ = s.clock := s.onTherm_clock d _
  · calc _ = (u.selectCode d 3).junctions := by simp [State.junctions]
      _ = u.junctions := congrArg (List.map Therm.junction) (therm_of_gauges (u.selectCode_gauges d 3))
      _ = (s.onTherm d fun t => { t with tripped := true }).junctions := junctions_of_grid hgrid
      _ = s.junctions := s.onTherm_junctions_kept d fun _ => rfl

/-- A junction sample is taken, whatever it then trips (R521, R522). -/
theorem State.sampleJunction_samples (s : State) (i t : Nat) :
    (s.sampleJunction i t).clock = s.clock ∧ (s.sampleJunction i t).junctions = s.junctions.set i t := by
  unfold State.sampleJunction
  dsimp only
  generalize hx : s.onTherm i _ = x
  have hclock : x.clock = s.clock := by rw [← hx, State.onTherm_clock]
  have hjunctions : x.junctions = s.junctions.set i t := by
    rw [← hx]
    exact s.onTherm_junctions_set i t fun _ => rfl
  generalize hu : (if i = 4 && decide (100 ≤ t) && !(s.thermOf i).hot then x.raiseEvent 12 else x) = u
  have hgrid : u.grid = x.grid := by
    rw [← hu]
    simp
  rw [← hclock, ← hjunctions, ← clock_of_grid hgrid, ← junctions_of_grid hgrid]
  split
  · exact ⟨rfl, rfl⟩
  · split
    · exact u.tripDie_samples i
    · have htrip : (((u.onTherm 4 fun y => { y with tripped := true }).deviceFault 3).decideSafe 21).grid =
          (u.onTherm 4 fun y => { y with tripped := true }).grid := by simp
      exact ⟨(clock_of_grid htrip).trans (u.onTherm_clock 4 _),
        (junctions_of_grid htrip).trans (u.onTherm_junctions_kept 4 fun _ => rfl)⟩

/-- The samples of a list of logic dies. -/
theorem sampleJunctions_samples (v : Nat → Nat) (l : List Nat) (s : State) :
    (l.foldl (fun x i => x.sampleJunction i (v i)) s).clock = s.clock ∧
      (l.foldl (fun x i => x.sampleJunction i (v i)) s).junctions = l.foldl (fun c i => c.set i (v i)) s.junctions :=
  ⟨foldl_keeps State.clock (fun u i => (u.sampleJunction_samples i (v i)).1) l s,
    (List.foldl_hom State.junctions fun u i => (u.sampleJunction_samples i (v i)).2.symm).symm⟩

/-- The report and the stack sample of one die leave the clock and the junction samples. -/
theorem State.sampleDie_samples (s : State) (d v : Nat) (body : List Nat) :
    (((s.report d body).onTherm d fun y => { y with runStack := max y.runStack v }).sampleStack d v).clock = s.clock ∧
      (((s.report d body).onTherm d fun y => { y with runStack := max y.runStack v }).sampleStack d v).junctions =
        s.junctions := by
  have hgrid := s.report_grid d body
  have hstack := ((s.report d body).onTherm d fun y => { y with runStack := max y.runStack v }).sampleStack_grid d v
  constructor
  · rw [clock_of_grid hstack, State.onTherm_clock, clock_of_grid hgrid]
  · rw [junctions_of_grid hstack, ← junctions_of_grid hgrid]
    exact State.onTherm_junctions_kept _ d fun _ => rfl

/-- The samples of a chain boundary: the hub's, and that of every die that is switched on (R521). -/
theorem State.sampleTemps_samples (s : State) (x : TempSample) (hlen : s.pwr.therm.length = 5) :
    (s.sampleTemps x).clock = s.clock ∧ ∀ i, i = 4 ∨ (i < 4 ∧ s.pwr.off.getD i false = false) →
      ((s.sampleTemps x).thermOf i).junction = x.junction.getD i 0 := by
  unfold State.sampleTemps
  dsimp only
  generalize hw : (if s.phase s.tb.link % 1000 = 0 then s.shiftTherm else s) = w
  have hshift : w.clock = s.clock ∧ w.pwr.off = s.pwr.off ∧ w.junctions.length = 5 := by
    obtain ⟨a, l, hpwr, hmap⟩ := s.shiftTherm_pwr
    rw [← hw, ← hlen, ← List.length_map Therm.junction, ← hmap, hpwr]
    split
    · exact ⟨rfl, rfl, rfl⟩
    · exact ⟨rfl, rfl, by rw [hmap]; rfl⟩
  obtain ⟨hclock, hoff, hlength⟩ := hshift
  rw [hoff]
  generalize hon : (List.range 4).filter (fun d => !(s.pwr.off.getD d false)) = on
  generalize hu : on.foldl _ w = u
  have hdies : u.clock = w.clock ∧ u.junctions = w.junctions := by
    rw [← hu]
    exact ⟨foldl_keeps State.clock (fun y d => (y.sampleDie_samples d _ _).1) on w,
      foldl_keeps State.junctions (fun y d => (y.sampleDie_samples d _ _).2) on w⟩
  obtain ⟨hucl, hujn⟩ := hdies
  obtain ⟨hcl, hjn⟩ := sampleJunctions_samples (fun i => x.junction.getD i 0) (on ++ [4]) u
  refine ⟨hcl.trans (hucl.trans hclock), fun i hi => ?_⟩
  have hmem : i ∈ on ++ [4] := by
    rw [← hon]
    rcases hi with rfl | ⟨hlt, hi⟩
    · simp
    · simpa [hlt] using .inl hi
  have hfour : i < u.junctions.length := by
    rw [hujn, hlength]
    omega
  rw [State.thermOf_junction, hjn, getD_foldl_set _ _ _ _ _ hfour, if_pos hmem]

theorem exec_chainBoundary {s : State} (hchain : s.chainLink s.tb.link = true) (hup : s.up = true) (x : TempSample) :
    exec (.chainBoundary x) s =
      .next (s.sendCounts.changeRow.resumeCheck.taskSwitch.serviceClusters.sampleTemps x) := by
  show execChainBoundary x s = _
  simp [execChainBoundary, hchain, hup]

/-- Between the counts and the samples of a chain boundary the row changes, and nothing of the time base, of the
temperatures or of the dies switched off. -/
theorem chainBoundary_beforeSamples (s : State) :
    s.sendCounts.changeRow.resumeCheck.taskSwitch.serviceClusters.gauges = s.sendCounts.gauges ∧
      s.sendCounts.changeRow.resumeCheck.taskSwitch.serviceClusters.sch.row = s.sendCounts.chainRow := by
  have hgrid : s.sendCounts.changeRow.resumeCheck.taskSwitch.serviceClusters.grid = s.sendCounts.changeRow.grid := by
    simp
  have hgauges := s.sendCounts.changeRow_gauges
  refine ⟨(gauges_of_grid hgrid).trans hgauges, ?_⟩
  have htb := tb_of_gauges hgauges
  rw [row_of_grid hgrid, State.changeRow_row, State.chainRow, State.chainRow, State.phase, State.phase, htb]

/-- R12, R357, R521: what a chain boundary leaves of the grid, the row, the counts and the samples. -/
theorem exec_chainBoundary_samples {s : State} (hchain : s.chainLink s.tb.link = true) (hup : s.up = true)
    (hlen : s.pwr.therm.length = 5) (x : TempSample) :
    ∃ t : State, exec (.chainBoundary x) s = .next t ∧ t.sch.row = s.chainRow ∧ t.tb = s.sendCounts.tb ∧
      ∀ i, i = 4 ∨ (i < 4 ∧ s.pwr.off.getD i false = false) → (t.thermOf i).junction = x.junction.getD i 0 := by
  obtain ⟨hpwr, hlink, hmile, -⟩ := s.sendCounts_leaves
  obtain ⟨hgauges, hrow⟩ := chainBoundary_beforeSamples s
  have hchainRow : s.sendCounts.chainRow = s.chainRow := by
    rw [State.chainRow, State.chainRow, State.phase, State.phase, hlink, hmile]
  obtain ⟨hclock, hjunction⟩ := State.sampleTemps_samples _ x (by rw [therm_of_gauges hgauges, hpwr, hlen])
  refine ⟨_, exec_chainBoundary hchain hup x, ?_, ?_, fun i hi => hjunction i ?_⟩
  · rw [row_of_clock hclock, hrow, hchainRow]
  · rw [tb_of_clock hclock, tb_of_gauges hgauges]
  · rw [off_of_gauges hgauges, hpwr]
    exact hi

/-! The safe state and a device fault: the bits that they set, and the stacks as they were (R400, R547). -/

@[simp] theorem State.sendVector_dram (s : State) (v : Nat) : (s.sendVector v).dram = s.dram := by
  unfold State.sendVector
  split <;> rfl

@[simp] theorem State.recTrigger_dram (s : State) (safety : Bool) : (s.recTrigger safety).dram = s.dram := by
  unfold State.recTrigger
  split <;> rfl

@[simp] theorem State.raiseEvent_dram (s : State) (v : Nat) : (s.raiseEvent v).dram = s.dram := by
  unfold State.raiseEvent
  dsimp only
  split <;> split <;> simp

@[simp] theorem State.deviceFault_leaves (s : State) (b : Nat) :
    (s.deviceFault b).dram = s.dram ∧ (s.deviceFault b).asz = s.asz := by
  simp [State.deviceFault]

theorem State.deviceFault_cause (s : State) (b : Nat) : bitAt (s.deviceFault b).dev.faultCause b = true := by
  simp [bitAt]

@[simp] theorem State.capture_leaves (s : State) (r : List Byte) :
    (s.capture r).dev = s.dev ∧ (s.capture r).dram = s.dram ∧ (s.capture r).asz = s.asz := by
  unfold State.capture
  split
  · exact ⟨rfl, rfl, rfl⟩
  · split <;> exact ⟨rfl, rfl, rfl⟩

@[simp] theorem State.sched_dram (s : State) (code : Nat) (part arg0 : Option Nat) :
    (s.sched code part arg0).dram = s.dram := rfl

/-- A cause that only a start clears is latched, in RUN the safe state is decided, and the device block and the stacks
are as they were. -/
theorem State.decideSafe_latches (s : State) {c : Nat} (h : startOnly c = true) :
    (s.decideSafe c).dev = s.dev ∧ (s.decideSafe c).dram = s.dram ∧
      bitAt (s.decideSafe c).asz.startCauses c = true ∧ (s.running = true → (s.decideSafe c).asz.safe = true) := by
  have h12 : c ≠ 12 := by
    rintro rfl
    exact absurd h (by decide)
  unfold State.decideSafe
  dsimp only
  rw [if_pos h, if_neg h12]
  generalize hx : s.onAsz (fun a => { a with startCauses := a.startCauses ||| 2 ^ c }) = x
  have hbit : bitAt x.asz.startCauses c = true := by
    rw [← hx]
    simp [bitAt]
  have hdev : x.dev = s.dev := by rw [← hx]; rfl
  have hdram : x.dram = s.dram := by rw [← hx]; rfl
  have hrun : s.running = x.running := by rw [State.running, State.running, hdev]
  rw [hrun, ← hdev, ← hdram]
  split
  · next hreplay =>
    simp [hbit, State.running, hreplay]
  · split
    · next hidle =>
      exact ⟨rfl, rfl, hbit, fun hr => absurd hr (by simpa using hidle)⟩
    · split
      · next hsafe =>
        simp [hbit, hsafe]
      · split <;> simp [hbit]

/-! The dies' counts (R12). -/

/-- A die has taken the count that was due. -/
def State.takeCount (s : State) (d n : Nat) : State :=
  s.onTb fun t => { t with dieLink := t.dieLink.set d n, countDue := t.countDue.set d false }

/-- The count of a die differs from that of the hub. -/
def State.failCount (s : State) (d : Nat) : State :=
  ((s.onDram d fun m => { m with tbFault := true }).deviceFault 0).decideSafe 15

section Counts

variable {s : State} {d n : Nat}

theorem dieCounts_of_on (hin : (s.dramAt d).inService = true) (hon : s.pwr.off.getD d false = false) :
    s.dieCounts d = true := by
  rw [State.dieCounts, hin, hon]
  rfl

theorem exec_linkCountCheck (hup : s.up = true) (hdie : s.dieCounts d = true) (hdue : s.tb.countDue.getD d false = true)
    (hd : d < s.tb.dieLink.length) : exec (.linkCountCheck d n) s =
      .next (if n = s.tb.link then s.takeCount d n else (s.takeCount d n).failCount d) := by
  show execLinkCountCheck d n s = _
  unfold execLinkCountCheck
  rw [if_neg (by simpa [hup, hdie] using hdue)]
  simp [hd, State.takeCount, State.failCount]

/-- A die whose count differs is marked, with the device fault and cause 15 (R12). -/
theorem State.failCount_marks (s : State) (hd : d < s.dram.length) :
    ((s.failCount d).dramAt d).tbFault = true ∧ bitAt (s.failCount d).dev.faultCause 0 = true ∧
      bitAt (s.failCount d).asz.startCauses 15 = true ∧ (s.running = true → (s.failCount d).asz.safe = true) := by
  unfold State.failCount
  generalize hu : s.onDram d (fun m => { m with tbFault := true }) = u
  obtain ⟨hdev, hdram, hbit, hsafe⟩ := (u.deviceFault 0).decideSafe_latches (c := 15) (by decide)
  refine ⟨?_, ?_, hbit, fun hr => hsafe ?_⟩
  · rw [State.dramAt, hdram, (u.deviceFault_leaves 0).1, ← hu]
    simp [State.onDram, hd]
  · rw [hdev]
    exact u.deviceFault_cause 0
  · rw [State.running, State.deviceFault_dev, ← hu]
    exact hr

end Counts

/-- Settles O31: the samples by `exec_chainBoundary_samples`, the steps by `furlong_over`, each other command by its
equation. -/
theorem chainAndFurlongBoundariesSampleTheDevice : Obligations.ChainAndFurlongBoundariesSampleTheDevice := by
  refine ⟨fun s x hs hchain hup => ?_, fun s x hchain => ?_, fun s p hs hphase hup hact hcap => ?_,
    fun s p hs hphase hup => ?_, fun s d o h => ?_, fun s d hup hd hin hon hs hlen hdue => ?_,
    fun s d n hup hd hin hon hs hlen hdue hn => ?_⟩
  · obtain ⟨-, -, -, -, -, -, -, -, -, -, -, -, -, htherm⟩ := hs
    obtain ⟨t, ht, hrow, htb, hjunction⟩ := exec_chainBoundary_samples hchain hup htherm x
    obtain ⟨-, hlink, hmile, hsent⟩ := s.sendCounts_leaves
    refine ⟨t, ht, hrow, htb ▸ hlink, htb ▸ hmile, fun d hd hdie hlen => ?_, hjunction 4 (.inl rfl),
      fun d hd hon => hjunction d (.inr ⟨hd, hon⟩)⟩
    rw [htb, hsent, getD_foldl_set (fun _ => true) _ _ _ _ (by omega), if_pos (by simp [hd, hdie])]
  · show execChainBoundary x s = _
    simp [execChainBoundary, hchain]
  · obtain ⟨-, -, -, -, -, -, -, -, -, hlen, -⟩ := hs
    obtain ⟨hop, hunmet⟩ := furlong_over (p := p) hlen hcap
    obtain ⟨-, hmw, -⟩ := s.averaged_power p
    refine ⟨_, by rw [exec_furlongBoundary hphase hup, if_pos hact],
      (averages_of_gauges (furlong_averages s p)).1.trans hmw, fun d hd hlow => ?_, fun d hd => ?_, hunmet⟩
    · rw [hop, if_pos ⟨hd, hlow⟩]
    · rw [hop, if_neg fun h => hd h.1]
  · obtain ⟨htb, hmw, hdie, -⟩ := s.averaged_power p
    by_cases hact : s.pwr.state = .active
    · have hkept := furlong_averages s p
      obtain ⟨hpackage, hdies⟩ := averages_of_gauges hkept
      exact ⟨_, by rw [exec_furlongBoundary hphase hup, if_pos hact], hpackage.trans hmw, hdies.trans hdie,
        (tb_of_gauges hkept).trans htb⟩
    · exact ⟨_, by rw [exec_furlongBoundary hphase hup, if_neg hact], hmw, hdie, htb⟩
  · show execOpChangeSettled d s = _
    simp only [execOpChangeSettled, h]
  · rw [exec_linkCountCheck hup (dieCounts_of_on hin hon) hdue (by omega), if_pos rfl, State.takeCount]
  · obtain ⟨-, -, hdram, -⟩ := hs
    exact ⟨_, by rw [exec_linkCountCheck hup (dieCounts_of_on hin hon) hdue (by omega), if_neg hn],
      (s.takeCount d n).failCount_marks (by rw [State.takeCount, State.onTb_dram]; omega)⟩

end Sys2Proof.Machine
end

section
/-! The memory's canonical form over every step. O4. -/

namespace Sys2Proof.Machine

open Sys2Proof.Safety

/-- A step keeps the canonical form as its front command does (`Kept.wf`); with an empty queue nothing changes. -/
theorem step_wf {s t : State} (hwf : s.mem.wf = true) (h : step s = .next t) : t.mem.wf = true := by
  unfold step at h
  split at h
  · cases h
    exact hwf
  · exact (exec_kept h).wf hwf

/-- Settles O4: every command of the table keeps the canonical form. -/
theorem memoryStaysCanonical : Obligations.MemoryStaysCanonical := fun _ _ hwf h => step_wf hwf h

end Sys2Proof.Machine
end

section
/-! The segments of the ring: what an update of one leaves, and what may happen when a sender's flits go out
(R38, R49 to R54). -/

namespace Sys2Proof.Machine

/-- The direction of a segment. -/
def Segment.along (x : Segment) : RingDir → SegDir
  | .fwd => x.fwd
  | .rev => x.rev

theorem State.segDir_eq (s : State) (g : Nat) (dir : RingDir) : s.segDir g dir = (s.seg g).along dir := by
  cases dir <;> rfl

/-! Reading a segment after an update. -/

section Reads

variable (s : State) {g i : Nat} {dir e : RingDir}

theorem State.seg_onSeg_same (f : Segment → Segment) (h : g < s.ring.segs.length) :
    (s.onSeg g f).seg g = f (s.seg g) := by
  simp [State.seg, State.onSeg, h]

theorem State.seg_onSeg_other (f : Segment → Segment) (h : i ≠ g) : (s.onSeg g f).seg i = s.seg i := by
  simp [State.seg, State.onSeg, Ne.symm h]

/-- What an update keeps of every segment, it keeps of the segment read. -/
theorem State.seg_onSeg_rel {R : Segment → Segment → Prop} (hrefl : ∀ x, R x x) (f : Segment → Segment)
    (hf : ∀ x, R x (f x)) (g i : Nat) : R (s.seg i) ((s.onSeg g f).seg i) := by
  by_cases hi : i = g
  · subst hi
    by_cases hlen : i < s.ring.segs.length
    · rw [s.seg_onSeg_same f hlen]
      exact hf _
    · have hout : (s.onSeg i f).seg i = s.seg i := by simp [State.seg, State.onSeg, hlen]
      rw [hout]
      exact hrefl _
  · rw [s.seg_onSeg_other f hi]
    exact hrefl _

theorem State.segDir_onSegDir_same (f : SegDir → SegDir) (h : g < s.ring.segs.length) :
    (s.onSegDir g dir f).segDir g dir = f (s.segDir g dir) := by
  cases dir <;> simp [State.segDir, State.onSegDir, s.seg_onSeg_same _ h]

theorem State.segDir_onSegDir_other (f : SegDir → SegDir) (h : i ≠ g) :
    (s.onSegDir g dir f).segDir i e = s.segDir i e := by
  cases e <;> simp [State.segDir, State.onSegDir, s.seg_onSeg_other _ h]

/-- What an update keeps of every segment direction, it keeps of the one read. -/
theorem State.segDir_onSegDir_rel {R : SegDir → SegDir → Prop} (hrefl : ∀ d, R d d) (f : SegDir → SegDir)
    (hf : ∀ d, R d (f d)) (g : Nat) (dir : RingDir) (i : Nat) (e : RingDir) :
    R (s.segDir i e) ((s.onSegDir g dir f).segDir i e) := by
  have hseg := s.seg_onSeg_rel (R := fun x y => R x.fwd y.fwd ∧ R x.rev y.rev) (fun _ => ⟨hrefl _, hrefl _⟩)
    (fun x => match dir with
      | .fwd => { x with fwd := f x.fwd }
      | .rev => { x with rev := f x.rev })
    (fun x => by cases dir <;> simp [hrefl, hf]) g i
  cases e
  · exact hseg.1
  · exact hseg.2

/-- An update of a segment puts the segment as it then reads in its place. -/
theorem State.onSeg_eq_set (f : Segment → Segment) (g : Nat) :
    s.onSeg g f = s.onRing fun r => { r with segs := r.segs.set g (f (s.seg g)) } := by
  suffices hsegs : s.ring.segs.modify g f = s.ring.segs.set g (f (s.seg g)) by
    simp [State.onSeg, State.onRing, hsegs]
  by_cases hlen : g < s.ring.segs.length
  · simp [State.seg, List.modify_eq_set_get, hlen]
  · rw [List.modify_eq_self (by omega), List.set_eq_of_length_le (by omega)]

/-- Two updates that agree on the segment direction as it stands are one. -/
theorem State.onSegDir_congr {f k : SegDir → SegDir} (h : f (s.segDir g dir) = k (s.segDir g dir)) :
    s.onSegDir g dir f = s.onSegDir g dir k := by
  rw [State.onSegDir, State.onSegDir, State.onSeg_eq_set, State.onSeg_eq_set]
  cases dir <;> simp_all [State.segDir]

end Reads

/-! The single steps in which the flits of a sender go out, and that a pump is made of them. -/

/-- What one turn of a sender may change: the draw of the idle slots, the count of VC0 flits without a token, slots
that go by, a flit sent, and the buffer that it leaves free at the die where it was passed on (R49 to R51). -/
inductive PumpStep (g : Nat) (dir : RingDir) : State → State → Prop
  | draw (s : State) : PumpStep g dir s s.bump
  | count (s : State) : PumpStep g dir s ((s.onSeg g fun x => { x with vc0Over := satInc 65535 x.vc0Over }).onSegDir
      g dir fun d => { d with vc0Waits := true })
  | pass (s : State) (n : SegDir → Nat) : PumpStep g dir s (s.onSegDir g dir fun d => d.pass (n d))
  | send (s : State) (v : Nat) (deficits : List Nat) : PumpStep g dir s (s.onSegDir g dir fun d => d.send v deficits)
  | free (s : State) (v : Nat) : PumpStep g dir s (s.freeBuffers (upstream g dir) dir v 1)

theorem pumpN_steps (g : Nat) (dir : RingDir) (k : Nat) :
    ∀ s : State, Relation.ReflTransGen (PumpStep g dir) s (State.pumpN g dir k s) := by
  induction k with
  | zero => exact fun s => .refl
  | succ k ih =>
    intro s
    have hcount : Relation.ReflTransGen (PumpStep g dir) s (s.countVc0 g dir) := by
      unfold State.countVc0
      dsimp only
      split
      · exact .single (.count s)
      · exact .refl
    unfold State.pumpN
    dsimp only
    split
    · exact .refl
    · refine hcount.trans ?_
      split
      · split
        · exact .head (.pass _ fun _ => 1) (ih _)
        · exact .refl
      · next v deficits _ =>
        refine .head (.send _ v deficits) ?_
        split
        · exact .head (.free _ _) (ih _)
        · exact ih _

theorem State.idleSlots_steps (s : State) (g : Nat) (dir : RingDir) :
    Relation.ReflTransGen (PumpStep g dir) s (s.idleSlots g dir) := by
  unfold State.idleSlots
  exact .head (.pass s fun d => s.draw 0 % (s.linkSlots g dir - d.slots + 1)) (.single (.draw _))

/-- A pump is a run of single steps. -/
theorem State.pump_steps (s : State) (g : Nat) (dir : RingDir) :
    Relation.ReflTransGen (PumpStep g dir) s (s.pump g dir) := by
  unfold State.pump
  dsimp only
  split
  · exact .refl
  · exact (s.idleSlots_steps g dir).trans (pumpN_steps g dir _ _)

/-- Flits go out on a segment direction, or arrive there at their die: the number that its receiver needs, its latest
answer and whether it is trained are as they were, and the replay buffer has but grown. -/
structure SegDir.Sent (a b : SegDir) : Prop where
  rxSeq : b.rxSeq = a.rxSeq
  answer : b.answer = a.answer
  up : b.up = a.up
  replay : ∃ more, b.replay = a.replay ++ more

theorem SegDir.Sent.refl (a : SegDir) : a.Sent a := ⟨rfl, rfl, rfl, [], by simp⟩

theorem SegDir.Sent.trans {a b c : SegDir} (h : a.Sent b) (k : b.Sent c) : a.Sent c := by
  obtain ⟨m, hm⟩ := h.replay
  obtain ⟨n, hn⟩ := k.replay
  exact ⟨k.rxSeq.trans h.rxSeq, k.answer.trans h.answer, k.up.trans h.up, m ++ n, by simp [hm, hn]⟩

theorem SegDir.sent_send (d : SegDir) (v : Nat) (deficits : List Nat) : d.Sent (d.send v deficits) := by
  unfold SegDir.send
  split
  · exact .refl d
  · exact ⟨rfl, rfl, rfl, _, rfl⟩

/-- The state without its segments and without the free draws: packets delivered, P-links and all other blocks. -/
def State.offSegs (s : State) : State := { s with ring := { s.ring with segs := [] }, free := 0, instant := 0 }

/-- Flits have gone out somewhere on the ring: nothing else has changed. -/
structure State.Sends (s t : State) : Prop where
  outside : t.offSegs = s.offSegs
  retraining : ∀ i, (t.seg i).retraining = (s.seg i).retraining
  sent : ∀ i e, (s.segDir i e).Sent (t.segDir i e)

theorem State.Sends.refl (s : State) : s.Sends s := ⟨rfl, fun _ => rfl, fun _ _ => .refl _⟩

theorem State.Sends.trans {s t u : State} (h : s.Sends t) (k : t.Sends u) : s.Sends u :=
  ⟨k.outside.trans h.outside, fun i => (k.retraining i).trans (h.retraining i),
    fun i e => (h.sent i e).trans (k.sent i e)⟩

theorem State.sends_onSeg (s : State) (g : Nat) (f : Segment → Segment)
    (hf : ∀ x, (f x).retraining = x.retraining ∧ x.fwd.Sent (f x).fwd ∧ x.rev.Sent (f x).rev) :
    s.Sends (s.onSeg g f) where
  outside := rfl
  retraining i := s.seg_onSeg_rel (R := fun x y => y.retraining = x.retraining) (fun _ => rfl) f (fun x => (hf x).1) g i
  sent i e := by
    have hseg := s.seg_onSeg_rel (R := fun x y => x.fwd.Sent y.fwd ∧ x.rev.Sent y.rev) (fun _ => ⟨.refl _, .refl _⟩) f
      (fun x => (hf x).2) g i
    cases e
    · exact hseg.1
    · exact hseg.2

theorem State.sends_onSegDir (s : State) (g : Nat) (dir : RingDir) (f : SegDir → SegDir)
    (hf : ∀ d : SegDir, d.Sent (f d)) : s.Sends (s.onSegDir g dir f) :=
  s.sends_onSeg g _ fun x => by cases dir <;> simp [hf, SegDir.Sent.refl]

theorem State.sends_freeBuffers (s : State) (g : Nat) (dir : RingDir) (v n : Nat) : s.Sends (s.freeBuffers g dir v n) :=
  s.sends_onSegDir g dir _ fun _ => ⟨rfl, rfl, rfl, [], by simp⟩

theorem PumpStep.sends {g : Nat} {dir : RingDir} {s t : State} (h : PumpStep g dir s t) : s.Sends t := by
  cases h with
  | draw => exact ⟨rfl, fun _ => rfl, fun _ _ => .refl _⟩
  | count =>
    refine (s.sends_onSeg g _ ?_).trans (State.sends_onSegDir _ g dir _ ?_)
    · exact fun _ => ⟨rfl, .refl _, .refl _⟩
    · exact fun _ => ⟨rfl, rfl, rfl, [], by simp⟩
  | pass n => exact s.sends_onSegDir g dir _ fun _ => ⟨rfl, rfl, rfl, [], by simp [SegDir.pass]⟩
  | send v deficits => exact s.sends_onSegDir g dir _ fun d => d.sent_send v deficits
  | free v => exact s.sends_freeBuffers _ dir v 1

theorem State.sends_pump (s : State) (g : Nat) (dir : RingDir) : s.Sends (s.pump g dir) := by
  have hsteps := s.pump_steps g dir
  generalize s.pump g dir = t at hsteps ⊢
  induction hsteps with
  | refl => exact .refl s
  | tail _ hstep ih => exact ih.trans hstep.sends

theorem State.sends_forwardFlit (s : State) (g : Nat) (dir : RingDir) (f : Flit) : s.Sends (s.forwardFlit g dir f) :=
  (s.sends_onSegDir g dir _ fun d => by split <;> exact ⟨rfl, rfl, rfl, [], by simp⟩).trans (State.sends_pump _ g dir)

theorem State.sends_launch (s : State) (src dst vc kind : Nat) (p : RingPacket) :
    s.Sends (s.launch src dst vc kind p) := by
  unfold State.launch
  split
  · exact .refl s
  · exact (s.sends_onSegDir _ _ _ fun d => by split <;> exact ⟨rfl, rfl, rfl, [], by simp⟩).trans
      (State.sends_pump _ _ _)

/-- A flit that ends at its die: the flits of its packet join there, and its buffers may be free (R45, R49). -/
theorem State.sends_keepFlit (s : State) (g : Nat) (dir : RingDir) (f : Flit) : s.Sends (s.keepFlit g dir f) := by
  unfold State.keepFlit
  dsimp only
  split
  · refine (s.sends_onSegDir g dir _ ?_).trans (State.sends_freeBuffers _ g dir _ _)
    exact fun _ => ⟨rfl, rfl, rfl, [], by simp⟩
  · exact s.sends_onSegDir g dir _ fun _ => ⟨rfl, rfl, rfl, [], by simp⟩

/-! The blocks outside the segments. -/

section Outside

variable {s t : State}

theorem State.Sends.mem (h : s.Sends t) : t.mem = s.mem := show t.offSegs.mem = s.offSegs.mem by rw [h.outside]
theorem State.Sends.starts (h : s.Sends t) : t.starts = s.starts :=
  show t.offSegs.starts = s.offSegs.starts by rw [h.outside]
theorem State.Sends.tb (h : s.Sends t) : t.tb = s.tb := show t.offSegs.tb = s.offSegs.tb by rw [h.outside]
theorem State.Sends.hl (h : s.Sends t) : t.hl = s.hl := show t.offSegs.hl = s.offSegs.hl by rw [h.outside]
theorem State.Sends.asz (h : s.Sends t) : t.asz = s.asz := show t.offSegs.asz = s.offSegs.asz by rw [h.outside]
theorem State.Sends.packet (h : s.Sends t) : t.ring.sent = s.ring.sent :=
  show t.offSegs.ring.sent = s.offSegs.ring.sent by rw [h.outside]

end Outside

/-! The buffers that are owed at the sender's own segment direction are not the sender's to free (R49). -/

theorem upstream_ne (g : Nat) (dir : RingDir) : upstream g dir ≠ g := by
  cases dir <;> simp only [upstream] <;> omega

theorem SegDir.send_owed (d : SegDir) (v : Nat) (deficits : List Nat) : (d.send v deficits).owed = d.owed := by
  unfold SegDir.send
  split <;> rfl

theorem PumpStep.owed {g : Nat} {dir : RingDir} {s t : State} (h : PumpStep g dir s t) :
    (t.segDir g dir).owed = (s.segDir g dir).owed := by
  have hown (u : State) (f : SegDir → SegDir) (hf : ∀ d, (f d).owed = d.owed) :
      ((u.onSegDir g dir f).segDir g dir).owed = (u.segDir g dir).owed :=
    u.segDir_onSegDir_rel (R := fun a b => b.owed = a.owed) (fun _ => rfl) f hf g dir g dir
  cases h with
  | draw => rfl
  | count =>
    refine (hown _ (fun d => { d with vc0Waits := true }) fun _ => rfl).trans ?_
    have hseg := s.seg_onSeg_rel (R := fun x y => y.fwd = x.fwd ∧ y.rev = x.rev) (fun _ => ⟨rfl, rfl⟩)
      (fun x => { x with vc0Over := satInc 65535 x.vc0Over }) (fun _ => ⟨rfl, rfl⟩) g g
    cases dir
    · exact congrArg SegDir.owed hseg.1
    · exact congrArg SegDir.owed hseg.2
  | pass n => exact hown s _ fun _ => rfl
  | send v deficits => exact hown s _ fun d => d.send_owed v deficits
  | free v => rw [State.freeBuffers, s.segDir_onSegDir_other _ (upstream_ne g dir).symm]

theorem State.pump_owed (s : State) (g : Nat) (dir : RingDir) :
    ((s.pump g dir).segDir g dir).owed = (s.segDir g dir).owed := by
  have hsteps := s.pump_steps g dir
  generalize s.pump g dir = t at hsteps ⊢
  induction hsteps with
  | refl => rfl
  | tail _ hstep ih => exact hstep.owed.trans ih

/-- Where nothing waits, nothing goes out. -/
theorem State.pump_empty {s : State} {g : Nat} {dir : RingDir}
    (h : ((s.segDir g dir).sendQ.all fun q => q.isEmpty) = true) : s.pump g dir = s := by
  have hsum : ((s.segDir g dir).sendQ.map List.length).sum = 0 := by
    simpa [List.sum_eq_zero_iff] using h
  simp [State.pump, hsum]

end Sys2Proof.Machine
end

section
/-! The receivers and senders of the segments, and their lanes. O25, O26 and O27. -/

namespace Sys2Proof.Machine

open Sys2Proof.Safety

/-! Records, events, error windows and retirements leave the ring as it is (R443, R500, R507). -/

@[simp] theorem State.sendVector_ring (s : State) (v : Nat) : (s.sendVector v).ring = s.ring := by
  unfold State.sendVector
  split <;> rfl

@[simp] theorem State.recTrigger_ring (s : State) (safety : Bool) : (s.recTrigger safety).ring = s.ring := by
  unfold State.recTrigger
  split <;> rfl

@[simp] theorem State.raiseEvent_ring (s : State) (v : Nat) : (s.raiseEvent v).ring = s.ring := by
  unfold State.raiseEvent
  dsimp only
  split <;> split <;> simp

@[simp] theorem State.deviceFault_ring (s : State) (b : Nat) : (s.deviceFault b).ring = s.ring := by
  simp [State.deviceFault]

@[simp] theorem State.sched_ring (s : State) (code : Nat) (part arg0 : Option Nat) :
    (s.sched code part arg0).ring = s.ring := rfl

@[simp] theorem State.capture_ring (s : State) (r : List Byte) : (s.capture r).ring = s.ring := by
  unfold State.capture
  split
  · rfl
  · split <;> rfl

@[simp] theorem State.decideSafe_ring (s : State) (c : Nat) : (s.decideSafe c).ring = s.ring := by
  simp only [State.decideSafe, apply_ite State.ring, State.bump_ring, State.capture_ring, State.onAsz_ring,
    State.recTrigger_ring, State.sched_ring, ite_self]

@[simp] theorem State.setDegraded_leaves (s : State) : s.setDegraded.ring = s.ring ∧ s.setDegraded.mem = s.mem := by
  unfold State.setDegraded
  dsimp only
  split <;> exact ⟨rfl, rfl⟩

/-- A resource that becomes lasting changes the wear block alone. -/
theorem State.makeLasting_spr (s : State) (r : WearEntry) : ∃ w, s.makeLasting r = s.onSpr fun _ => w := by
  unfold State.makeLasting
  split
  · exact ⟨s.spr, rfl⟩
  · exact ⟨_, rfl⟩

/-- An error event changes the wear block alone. -/
theorem State.errEvent_spr (s : State) (r : WearEntry) : ∃ w, s.errEvent r = s.onSpr fun _ => w := by
  unfold State.errEvent
  dsimp only
  split
  · exact ⟨s.spr, rfl⟩
  · split
    · obtain ⟨w, hw⟩ := State.makeLasting_spr (s.onSpr fun p => { p with
        windows := (r, s.tb.link :: (s.windowOf r).filter fun l => s.tb.link < l + windowLinks) ::
          p.windows.filter fun x => x.1 ≠ r }) r
      exact ⟨w, hw⟩
    · exact ⟨_, rfl⟩

/-- What each turn changes of the wear block alone, a fold does. -/
theorem foldl_spr {α : Type} {f : State → α → State} (hf : ∀ u i, ∃ w, f u i = u.onSpr fun _ => w) (l : List α) :
    ∀ s : State, ∃ w, l.foldl f s = s.onSpr fun _ => w := by
  induction l with
  | nil => exact fun s => ⟨s.spr, rfl⟩
  | cons i l ih =>
    intro s
    obtain ⟨v, hv⟩ := hf s i
    obtain ⟨w, hw⟩ := ih (f s i)
    exact ⟨w, by rw [List.foldl_cons, hw, hv]; rfl⟩

theorem State.errEvents_spr (s : State) (rs : List WearEntry) : ∃ w, s.errEvents rs = s.onSpr fun _ => w :=
  foldl_spr State.errEvent_spr rs s

@[simp] theorem State.retire_leaves (s : State) (r : WearEntry) :
    (s.retire r).ring = s.ring ∧ (s.retire r).mem = s.mem := by
  unfold State.retire
  dsimp only
  split <;> simp

/-! The receiver (R43, R55, R57). -/

section Receiver

variable {s : State} {g : Nat} {dir : RingDir}

/-- Without an armed slot no unit is acted on, and the slots are as they were (R538). -/
theorem injectAll_unarmed (target index dir link : Nat) (draw : Nat → Nat) (l : List Inject)
    (h : ∀ j ∈ l, j.armed = false) : ∀ i taken, injectAll target index dir link draw i taken l = (l, none) := by
  induction l with
  | nil => exact fun _ _ => rfl
  | cons j l ih =>
    intro i taken
    have hj : j.armed = false := h j (by simp)
    simp [injectAll, Inject.meet, hj, ih fun j hm => h j (by simp [hm])]

theorem inject_uninjected (h : Uninjected s) (target index d : Nat) : s.inject target index d = (none, s.bump) := by
  have hall : ∀ j ∈ s.fi, j.armed = false := fun j hj => by
    have := List.all_eq_true.mp h j hj
    simp_all
  simp [State.inject, injectAll_unarmed _ _ _ _ _ _ hall]

theorem reorders_uninjected (h : Uninjected s) (target index d : Nat) : s.reorders target index d = [] := by
  have hheld (i : Nat) : (s.fi.getD i {}).held = none := by
    rw [List.getD_eq_getElem?_getD]
    cases hi : s.fi[i]? with
    | none => rfl
    | some j =>
      have := List.all_eq_true.mp h j (List.mem_of_getElem? hi)
      simp_all
  simp only [State.reorders, List.filter_eq_nil_iff, hheld]
  simp

/-- Where injection is not armed, a sequenced flit arrives as it was sent. -/
theorem injectFlit_uninjected (h : Uninjected s) (f : Flit) (lanes : List Nat) :
    s.injectFlit g dir f lanes = s.bump.arriveFlit g dir f lanes false := by
  simp [State.injectFlit, inject_uninjected h, reorders_uninjected h]

/-! What becomes of a flit that meets the receiver, case by case. -/

theorem arriveFlit_bad {f : Flit} (hcrc : f.crc ≠ f.check) (lanes : List Nat) (injected : Bool) :
    s.arriveFlit g dir f lanes injected =
      (s.crcFailure g dir lanes injected).answerRing g dir true (s.segDir g dir).rxSeq := by
  simp [State.arriveFlit, hcrc]

theorem arriveFlit_unsequenced {f : Flit} (hcrc : f.crc = f.check) (hf : f.sequenced = false) (lanes : List Nat)
    (injected : Bool) : s.arriveFlit g dir f lanes injected = s := by
  simp [State.arriveFlit, hcrc, hf]

theorem arriveFlit_inOrder {f : Flit} (hcrc : f.crc = f.check) (hf : f.sequenced = true)
    (hseq : f.seq = (s.segDir g dir).rxSeq) (lanes : List Nat) (injected : Bool) :
    s.arriveFlit g dir f lanes injected = s.acceptFlit g dir f := by
  simp [State.arriveFlit, hcrc, hf, hseq]

theorem arriveFlit_again {f : Flit} (hcrc : f.crc = f.check) (hf : f.sequenced = true)
    (hseq : f.seq ≠ (s.segDir g dir).rxSeq) (hold : ((s.segDir g dir).rxSeq + 4096 - f.seq) % 4096 ≤ 2048)
    (lanes : List Nat) (injected : Bool) : s.arriveFlit g dir f lanes injected = s := by
  simp [State.arriveFlit, hcrc, hf, hseq, hold]

theorem arriveFlit_outOfOrder {f : Flit} (hcrc : f.crc = f.check) (hf : f.sequenced = true)
    (hseq : f.seq ≠ (s.segDir g dir).rxSeq) (hnew : 2048 < ((s.segDir g dir).rxSeq + 4096 - f.seq) % 4096)
    (lanes : List Nat) (injected : Bool) :
    s.arriveFlit g dir f lanes injected = s.answerRing g dir true (s.segDir g dir).rxSeq := by
  simp [State.arriveFlit, hcrc, hf, hseq, hnew]

theorem State.segs_length_onSegDir (s : State) (g : Nat) (dir : RingDir) (f : SegDir → SegDir) :
    (s.onSegDir g dir f).ring.segs.length = s.ring.segs.length := by
  simp [State.onSegDir, State.onSeg]

theorem State.answerRing_reads (s : State) (dir : RingDir) (nak : Bool) (n : Nat) (hg : g < s.ring.segs.length) :
    (s.answerRing g dir nak n).segDir g dir = { s.segDir g dir with answer := some (nak, n) } :=
  s.segDir_onSegDir_same _ hg

/-- A segment with one more failed check. -/
def Segment.countCrc (x : Segment) : Segment := { x with crcErrors := satInc 65535 x.crcErrors }

/-- A failed check is counted, its events change the wear block alone, and a scan of the lanes may be due (R57). -/
theorem State.crcFailure_parts (s : State) (g : Nat) (dir : RingDir) (lanes : List Nat) : ∃ x : State,
    s.crcFailure g dir lanes false = (if windowK ≤ (x.windowOf (dirCounter g dir)).length then
      x.onSegDir g dir fun d => { d with scanDue := true } else x) ∧
    (x.mem = s.mem ∧ x.tb = s.tb ∧ x.hl = s.hl) ∧ x.ring = (s.onSeg g Segment.countCrc).ring := by
  obtain ⟨v, hv⟩ := (s.onSeg g Segment.countCrc).errEvent_spr (dirCounter g dir)
  obtain ⟨w, hw⟩ := ((s.onSeg g Segment.countCrc).onSpr fun _ => v).errEvents_spr (lanes.map (ringLane g dir))
  refine ⟨((s.onSeg g Segment.countCrc).onSpr fun _ => v).onSpr fun _ => w, ?_, ⟨rfl, rfl, rfl⟩, rfl⟩
  rw [← hw, ← hv]
  rfl

/-- The receiver needs after a failed check the number that it needed. -/
theorem State.crcFailure_counts (s : State) (dir : RingDir) (lanes : List Nat) (hg : g < s.ring.segs.length) :
    let t := s.crcFailure g dir lanes false
    (t.mem = s.mem ∧ t.tb = s.tb ∧ t.hl = s.hl) ∧ g < t.ring.segs.length ∧
      (t.segDir g dir).rxSeq = (s.segDir g dir).rxSeq ∧ (t.seg g).crcErrors = satInc 65535 (s.seg g).crcErrors := by
  obtain ⟨x, hfail, hblocks, hring⟩ := s.crcFailure_parts g dir lanes
  have hseg : x.seg g = (s.seg g).countCrc := by
    rw [State.seg, hring]
    exact s.seg_onSeg_same _ hg
  have hlen : g < x.ring.segs.length := by
    rw [hring]
    simpa [State.onSeg] using hg
  have hrx : (x.segDir g dir).rxSeq = (s.segDir g dir).rxSeq := by
    rw [State.segDir_eq, State.segDir_eq, hseg]
    cases dir <;> rfl
  dsimp only
  rw [hfail]
  split
  · refine ⟨hblocks, by rwa [State.segs_length_onSegDir], ?_, ?_⟩
    · rw [State.segDir_onSegDir_same _ _ hlen]
      exact hrx
    · rw [State.onSegDir, State.seg_onSeg_same _ _ hlen, hseg]
      cases dir <;> rfl
  · exact ⟨hblocks, hlen, hrx, by rw [hseg]; rfl⟩

/-- An accepted flit: the number needed moves on and ACK names it; what becomes of the flit is the ring's (R40, R55). -/
theorem State.acceptFlit_acks (s : State) (dir : RingDir) (f : Flit) (hg : g < s.ring.segs.length) :
    let t := s.acceptFlit g dir f
    (t.mem = s.mem ∧ t.tb = s.tb ∧ t.hl = s.hl) ∧ (t.segDir g dir).rxSeq = ((s.segDir g dir).rxSeq + 1) % 4096 ∧
      (t.segDir g dir).answer = some (false, f.seq) := by
  obtain ⟨u, hu⟩ : ∃ u, u = (s.onSegDir g dir fun d => { d with rxSeq := (d.rxSeq + 1) % 4096 }).answerRing g dir
      false f.seq := ⟨_, rfl⟩
  have hacked : (u.segDir g dir).rxSeq = ((s.segDir g dir).rxSeq + 1) % 4096 ∧
      (u.segDir g dir).answer = some (false, f.seq) := by
    rw [hu, State.answerRing_reads _ _ _ _ (by rwa [State.segs_length_onSegDir]), State.segDir_onSegDir_same _ _ hg]
    exact ⟨rfl, rfl⟩
  have hmem : u.mem = s.mem := hu ▸ rfl
  have htb : u.tb = s.tb := hu ▸ rfl
  have hhl : u.hl = s.hl := hu ▸ rfl
  have hsends : u.Sends (s.acceptFlit g dir f) := by
    unfold State.acceptFlit
    dsimp only
    rw [← hu]
    split
    · exact State.sends_freeBuffers ..
    · split
      · exact State.sends_keepFlit ..
      · exact State.sends_forwardFlit ..
  have hsent := hsends.sent g dir
  exact ⟨⟨hsends.mem.trans hmem, hsends.tb.trans htb, hsends.hl.trans hhl⟩, hsent.rxSeq.trans hacked.1,
    hsent.answer.trans hacked.2⟩

/-- The flit has left the wire, and the injection slots have been asked. -/
def State.offWire (s : State) (g : Nat) (dir : RingDir) : State :=
  (s.onSegDir g dir fun d => { d with wire := d.wire.drop 1 }).bump

theorem State.offWire_reads (s : State) (g : Nat) (dir : RingDir) :
    (s.offWire g dir).ring.segs.length = s.ring.segs.length ∧
      ((s.offWire g dir).segDir g dir).rxSeq = (s.segDir g dir).rxSeq ∧
      ((s.offWire g dir).segDir g dir).answer = (s.segDir g dir).answer ∧
      ((s.offWire g dir).seg g).crcErrors = (s.seg g).crcErrors := by
  have hdir := s.segDir_onSegDir_rel (R := fun a b => b.rxSeq = a.rxSeq ∧ b.answer = a.answer) (fun _ => ⟨rfl, rfl⟩)
    (fun d => { d with wire := d.wire.drop 1 }) (fun _ => ⟨rfl, rfl⟩) g dir g dir
  refine ⟨s.segs_length_onSegDir g dir fun d => { d with wire := d.wire.drop 1 }, hdir.1, hdir.2, ?_⟩
  refine s.seg_onSeg_rel (R := fun x y => y.crcErrors = x.crcErrors) (fun _ => rfl) _ (fun x => ?_) g g
  cases dir <;> rfl

theorem exec_ringFlitReceive_ignored (h : (s.segDir g dir).up = false ∨ (s.seg g).retraining = true) (f : Flit)
    (lanes : List Nat) : exec (.ringFlitReceive g dir f lanes) s = .next s := by
  show execRingFlitReceive g dir f lanes s = _
  rcases h with h | h <;> simp [execRingFlitReceive, h]

theorem exec_ringFlitReceive_sequenced (hup : (s.segDir g dir).up = true) (hre : (s.seg g).retraining = false)
    (hinj : Uninjected s) {f : Flit} (hf : f.sequenced = true) (lanes : List Nat) :
    exec (.ringFlitReceive g dir f lanes) s = .next ((s.offWire g dir).arriveFlit g dir f lanes false) := by
  have hinject := injectFlit_uninjected (g := g) (dir := dir) (f := f)
    (show Uninjected (s.onSegDir g dir fun d => { d with wire := d.wire.drop 1 }) from hinj) lanes
  show execRingFlitReceive g dir f lanes s = _
  simp only [execRingFlitReceive, hup, hre, hf, hinject]
  rfl

theorem exec_ringFlitReceive_unsequenced (hup : (s.segDir g dir).up = true) (hre : (s.seg g).retraining = false)
    {f : Flit} (hf : f.sequenced = false) (hcrc : f.crc = f.check) (lanes : List Nat) :
    exec (.ringFlitReceive g dir f lanes) s =
      .next (s.onSegDir g dir fun d => { d with wire := d.wire.drop 1 }) := by
  show execRingFlitReceive g dir f lanes s = _
  simp [execRingFlitReceive, hup, hre, hf, arriveFlit_unsequenced hcrc hf]

end Receiver

/-- A ring of the shape of R38 has every segment that a command may name. -/
theorem segs_of_shaped {s : State} {g : Nat} (h : Shaped s) (hg : g < 5) : g < s.ring.segs.length := by
  obtain ⟨-, -, -, -, -, ⟨hsegs, -⟩, -⟩ := h
  omega

/-- Settles O25: the flit leaves the wire, and the receiver's cases (`arriveFlit_bad` to `arriveFlit_outOfOrder`) say
what it answers. -/
theorem ringFlitsAreCheckedAndAnswered : Obligations.RingFlitsAreCheckedAndAnswered := by
  intro s g dir f lanes hshape hg
  have hlen := segs_of_shaped hshape hg
  refine ⟨fun h => exec_ringFlitReceive_ignored h f lanes, fun hup hre hinj hf => ?_,
    fun hup hre hf hcrc => exec_ringFlitReceive_unsequenced hup hre hf hcrc lanes⟩
  obtain ⟨hulen, hurx, huanswer, hucount⟩ := s.offWire_reads g dir
  have hexec := exec_ringFlitReceive_sequenced hup hre hinj hf lanes
  generalize hu : s.offWire g dir = u at hulen hurx huanswer hucount hexec
  have hmem : u.mem = s.mem := hu ▸ rfl
  have htb : u.tb = s.tb := hu ▸ rfl
  have hhl : u.hl = s.hl := hu ▸ rfl
  refine ⟨_, hexec, ?_⟩
  rw [← hulen] at hlen
  rw [← hurx, ← huanswer, ← hucount, ← hmem, ← htb, ← hhl]
  by_cases hcrc : f.crc = f.check
  · by_cases hseq : f.seq = (u.segDir g dir).rxSeq
    · obtain ⟨⟨hm, ht, hh⟩, hrx, hanswer⟩ := u.acceptFlit_acks dir f hlen
      rw [arriveFlit_inOrder hcrc hf hseq]
      exact ⟨hm, ht, hh, fun h => absurd hcrc h, fun _ _ => ⟨hrx, hanswer⟩, fun _ h => absurd hseq h,
        fun _ h => absurd hseq h⟩
    · by_cases hold : ((u.segDir g dir).rxSeq + 4096 - f.seq) % 4096 ≤ 2048
      · rw [arriveFlit_again hcrc hf hseq hold]
        exact ⟨rfl, rfl, rfl, fun h => absurd hcrc h, fun _ h => absurd h hseq, fun _ _ _ => ⟨rfl, rfl⟩,
          fun _ _ h => absurd hold (by omega)⟩
      · rw [arriveFlit_outOfOrder hcrc hf hseq (by omega), State.answerRing_reads _ _ _ _ hlen]
        exact ⟨rfl, rfl, rfl, fun h => absurd hcrc h, fun _ h => absurd h hseq, fun _ _ h => absurd h hold,
          fun _ _ _ => ⟨rfl, rfl⟩⟩
  · obtain ⟨⟨hm, ht, hh⟩, hclen, hrx, hcount⟩ := u.crcFailure_counts dir lanes hlen
    rw [arriveFlit_bad hcrc, State.answerRing_reads _ _ _ _ hclen]
    refine ⟨hm, ht, hh, fun _ => ⟨rfl, hrx, ?_⟩, fun h => absurd h hcrc, fun h => absurd h hcrc, fun h => absurd h hcrc⟩
    rw [State.answerRing, State.onSegDir, State.seg_onSeg_same _ _ hclen]
    cases dir <;> exact hcount

/-! The sender: acknowledgements, retry, credits and retraining (R49, R55, R56, R59). -/

section Sender

variable {s : State} {g : Nat} {dir : RingDir}

theorem exec_ringAck {q : Nat} (h : ((s.segDir g dir).replay.any fun f => f.seq = q) = true) :
    exec (.ringAck g dir q) s =
      .next ((s.onSegDir g dir fun d => { d with replay := afterSeq q d.replay }).pump g dir) := by
  show execRingAck g dir q s = _
  simp only [execRingAck, h, if_true]

/-- The sender takes a NAK: the run of its number goes on or begins anew, and the flits from it on are sent again. -/
def SegDir.takeNak (q : Nat) (d : SegDir) : SegDir :=
  { d with nakRun := if d.nakSeq = some q then d.nakRun + 1 else 1, nakSeq := some q
           wire := d.wire ++ fromSeq q d.replay }

theorem exec_ringNak (hup : (s.segDir g dir).up = true) (hre : (s.seg g).retraining = false)
    (hg : g < s.ring.segs.length) (q : Nat) : exec (.ringNak g dir q) s =
      .next (if 8 ≤ ((s.segDir g dir).takeNak q).nakRun then (s.onSegDir g dir fun d => d.takeNak q).retrain g
        else s.onSegDir g dir fun d => d.takeNak q) := by
  have hopen : (!(s.segDir g dir).up || (s.seg g).retraining) = false := by simp [hup, hre]
  rw [← s.segDir_onSegDir_same (fun d => d.takeNak q) hg]
  show execRingNak g dir q s = _
  unfold execRingNak
  rw [hopen]
  rfl

/-- A segment that begins its retraining: the flits on the wires are lost, and the replay buffers stay. -/
def Segment.lost (x : Segment) : Segment :=
  { x with
    retraining := true, retrains := satInc 255 x.retrains
    fwd := { x.fwd with wire := [], nakSeq := none, nakRun := 0 }
    rev := { x.rev with wire := [], nakSeq := none, nakRun := 0 } }

theorem State.retrain_seg (s : State) (hg : g < s.ring.segs.length) : (s.retrain g).seg g = (s.seg g).lost := by
  have hring : (s.retrain g).ring = (s.onSeg g Segment.lost).ring := by
    unfold State.retrain
    dsimp only
    split <;> simp <;> rfl
  rw [State.seg, hring]
  exact s.seg_onSeg_same _ hg

theorem exec_ringAckTimeout (hup : (s.segDir g dir).up = true) (hre : (s.seg g).retraining = false) :
    exec (.ringAckTimeout g dir) s = .next (s.onSegDir g dir fun d => { d with wire := d.wire ++ d.replay }) := by
  show execRingAckTimeout g dir s = _
  simp [execRingAckTimeout, hup, hre]

/-- The sender gets credits back, as far as they are owed and up to the buffers of the channel. -/
def SegDir.takeCredit (v n : Nat) (d : SegDir) : SegDir :=
  { d with credits := d.credits.modify v fun c => min (vcBuffers.getD v 0) (c + min n (d.owed.getD v 0))
           owed := d.owed.modify v (· - n) }

theorem exec_ringCredit {v : Nat} (hup : (s.segDir g dir).up = true) (hv : v < 4) (n : Nat) :
    exec (.ringCredit g dir v n) s = .next ((s.onSegDir g dir fun d => d.takeCredit v n).pump g dir) := by
  show execRingCredit g dir v n s = _
  have hvc : ¬4 ≤ v := by omega
  simp [execRingCredit, hup, hvc, SegDir.takeCredit]

/-- The segment as its retraining leaves it: each direction that trained sends its replay buffer again. -/
def Segment.retrained (fwdUp revUp : Bool) (x : Segment) : Segment :=
  { x with
    retraining := false
    fwd := { x.fwd with up := fwdUp, wire := if fwdUp then x.fwd.replay else [] }
    rev := { x.rev with up := revUp, wire := if revUp then x.rev.replay else [] } }

theorem exec_ringRetrainDone (hre : (s.seg g).retraining = true) (a b : Bool) : exec (.ringRetrainDone g a b) s =
    .next (((s.onSeg g fun x => x.retrained a b).pump g .fwd).pump g .rev) := by
  show execRingRetrainDone g a b s = _
  simp [execRingRetrainDone, hre, Segment.retrained]

end Sender

/-- Settles O26: each message of a receiver by its equation, and what goes out after it by `State.sends_pump`. -/
theorem ringSendersRetryAndRetrain : Obligations.RingSendersRetryAndRetrain := by
  refine ⟨fun s g dir q hs hg hq => ?_, fun s g dir q hs hg hup hre => ?_,
    fun s g dir hup hre => exec_ringAckTimeout hup hre, fun s g dir v n hup hv hempty hs hg => ?_,
    fun s g dir v n hup hv hs hg => ?_, fun s g a b hs hg hre => ?_⟩
  · have hsends := (s.onSegDir g dir fun d => { d with replay := afterSeq q d.replay }).sends_pump g dir
    obtain ⟨more, hmore⟩ := (hsends.sent g dir).replay
    rw [s.segDir_onSegDir_same _ (segs_of_shaped hs hg)] at hmore
    exact ⟨_, more, exec_ringAck hq, hmore, hsends.mem, hsends.hl⟩
  · have hlen := segs_of_shaped hs hg
    have hexec := exec_ringNak hup hre hlen q
    refine ⟨fun hrun => ?_, fun hrun => ?_⟩
    · rw [hexec, if_neg (by simpa [SegDir.takeNak] using hrun)]
      exact congrArg Host.Outcome.next (s.onSegDir_congr rfl)
    · have hseg := (s.onSegDir g dir fun d => d.takeNak q).retrain_seg (g := g) (by rwa [State.segs_length_onSegDir])
      rw [State.onSegDir, s.seg_onSeg_same _ hlen] at hseg
      refine ⟨(s.onSegDir g dir fun d => d.takeNak q).retrain g, hexec.trans (congrArg _ (if_pos hrun)), ?_⟩
      rw [State.segDir_eq, State.segDir_eq, State.onSegDir, hseg]
      cases dir <;> exact ⟨rfl, rfl, rfl, rfl, rfl⟩
  · rw [exec_ringCredit hup hv, State.pump_empty]
    · rfl
    · rw [s.segDir_onSegDir_same _ (segs_of_shaped hs hg)]
      exact hempty
  · have hsends := (s.onSegDir g dir fun d => d.takeCredit v n).sends_pump g dir
    refine ⟨_, exec_ringCredit hup hv n, ?_, hsends.mem, hsends.hl⟩
    rw [State.pump_owed, s.segDir_onSegDir_same _ (segs_of_shaped hs hg)]
    rfl
  · have hseg := s.seg_onSeg_same (fun x => x.retrained a b) (segs_of_shaped hs hg)
    have hexec := exec_ringRetrainDone hre a b
    have hmem : (s.onSeg g fun x => x.retrained a b).mem = s.mem := rfl
    have hasz : (s.onSeg g fun x => x.retrained a b).asz = s.asz := rfl
    generalize (s.onSeg g fun x => x.retrained a b) = u at hseg hexec hmem hasz
    have hsends := (u.sends_pump g .fwd).trans (State.sends_pump _ g .rev)
    have hfwd : (u.segDir g .fwd).up = a := by rw [State.segDir_eq, hseg]; rfl
    have hrev : (u.segDir g .rev).up = b := by rw [State.segDir_eq, hseg]; rfl
    generalize (u.pump g .fwd).pump g .rev = t at hsends hexec
    exact ⟨t, hexec, (hsends.retraining g).trans (by rw [hseg]; rfl), (hsends.sent g .fwd).up.trans hfwd,
      (hsends.sent g .rev).up.trans hrev, hsends.mem.trans hmem, hsends.asz.trans hasz⟩

/-! Lanes (R41, R58, R497). -/

/-- A lane is retired: a spare takes its place, or the direction runs at 64 lanes. -/
def SegDir.retireLane (d : SegDir) (lane : Nat) : SegDir :=
  { d with retired := d.retired ++ [lane], sparesLeft := d.sparesLeft - 1
           narrow := d.narrow || decide (d.sparesLeft = 0) }

/-- Lanes that are retired one after the other use the spares that are left; one beyond them leaves 64 lanes. -/
theorem SegDir.foldl_retireLane (lanes : List Nat) : ∀ d : SegDir, lanes.foldl SegDir.retireLane d =
    { d with retired := d.retired ++ lanes, sparesLeft := d.sparesLeft - lanes.length
             narrow := d.narrow || decide (d.sparesLeft < lanes.length) } := by
  induction lanes with
  | nil => simp
  | cons l lanes ih =>
    intro d
    have hnarrow : (d.narrow || decide (d.sparesLeft = 0) || decide (d.sparesLeft - 1 < lanes.length)) =
        (d.narrow || decide (d.sparesLeft < lanes.length + 1)) := by
      rw [Bool.or_assoc]
      congr 1
      by_cases h0 : d.sparesLeft = 0
      · simp [h0]
      · simp only [h0, decide_false, Bool.false_or, decide_eq_decide]
        omega
    have hspares : d.sparesLeft - 1 - lanes.length = d.sparesLeft - (lanes.length + 1) := by omega
    rw [List.foldl_cons, ih, List.append_cons d.retired, List.length_cons, ← hnarrow, ← hspares]
    rfl

section Lanes

variable {s : State} {g : Nat} {dir : RingDir}

theorem State.retireRingLane_reads (s : State) (dir : RingDir) (lane : Nat) (hg : g < s.ring.segs.length) :
    (s.retireRingLane g dir lane).mem = s.mem ∧ g < (s.retireRingLane g dir lane).ring.segs.length ∧
      (s.retireRingLane g dir lane).segDir g dir = (s.segDir g dir).retireLane lane := by
  obtain ⟨u, hu⟩ : ∃ u, u = (s.retire (ringLane g dir lane)).onSegDir g dir fun d =>
    { d with retired := d.retired ++ [lane] } := ⟨_, rfl⟩
  obtain ⟨hring, hmem⟩ := s.retire_leaves (ringLane g dir lane)
  have hretired : g < (s.retire (ringLane g dir lane)).ring.segs.length := by rwa [hring]
  have hlen : g < u.ring.segs.length := by rwa [hu, State.segs_length_onSegDir]
  have humem : u.mem = s.mem := by rw [hu]; exact hmem
  have hread : u.segDir g dir = { s.segDir g dir with retired := (s.segDir g dir).retired ++ [lane] } := by
    rw [hu, State.segDir_onSegDir_same _ _ hretired, State.segDir_eq, State.segDir_eq, State.seg, hring]
    rfl
  unfold State.retireRingLane
  dsimp only
  rw [← hu]
  split
  · next hspare =>
    refine ⟨humem, by rwa [State.segs_length_onSegDir], ?_⟩
    rw [State.segDir_onSegDir_same _ _ hlen, hread]
    simp [SegDir.retireLane, Nat.ne_of_gt hspare]
  · next hnone =>
    obtain ⟨v, hv⟩ : ∃ v, v = u.onSegDir g dir fun d => { d with narrow := true } := ⟨_, rfl⟩
    obtain ⟨hdring, hdmem⟩ := v.setDegraded_leaves
    have hvread : v.setDegraded.segDir g dir = v.segDir g dir := by
      rw [State.segDir_eq, State.segDir_eq, State.seg, hdring, State.seg]
    rw [← hv, hvread, hdring, hdmem]
    refine ⟨hv ▸ humem, by rwa [hv, State.segs_length_onSegDir], ?_⟩
    rw [hv, State.segDir_onSegDir_same _ _ hlen, hread]
    simp [SegDir.retireLane, show (s.segDir g dir).sparesLeft = 0 by omega]

theorem foldl_retireRingLane_reads (lanes : List Nat) : ∀ s : State, g < s.ring.segs.length →
    (lanes.foldl (fun x l => x.retireRingLane g dir l) s).mem = s.mem ∧
      (lanes.foldl (fun x l => x.retireRingLane g dir l) s).segDir g dir =
        lanes.foldl SegDir.retireLane (s.segDir g dir) := by
  induction lanes with
  | nil => exact fun s _ => ⟨rfl, rfl⟩
  | cons l lanes ih =>
    intro s hg
    obtain ⟨hmem, hlen, hread⟩ := s.retireRingLane_reads dir l hg
    obtain ⟨hmem', hread'⟩ := ih _ hlen
    exact ⟨hmem'.trans hmem, by rw [List.foldl_cons, hread', hread, List.foldl_cons]⟩

theorem exec_ringLaneSpare_waits (h : s.phase s.tb.link % 100 ≠ 0) (fails : List Nat) :
    exec (.ringLaneSpare g dir fails) s = .next s := by
  show execRingLaneSpare g dir fails s = _
  simp [execRingLaneSpare, h]

/-- The lanes found by a due scan change the wear block alone, and the lanes that were lasting are retired. -/
theorem exec_ringLaneSpare_retires (h : s.phase s.tb.link % 100 = 0) (fails : List Nat) :
    ∃ w, exec (.ringLaneSpare g dir fails) s = .next ((s.lastingLanes g dir).foldl (fun x l => x.retireRingLane g dir l)
      ((s.onSegDir g dir fun d => { d with scanDue := false }).onSpr fun _ => w)) := by
  obtain ⟨w, hw⟩ := foldl_spr (f := fun x l => x.makeLasting (ringLane g dir l)) (fun u l => u.makeLasting_spr _)
    (if (s.segDir g dir).scanDue then fails else []) (s.onSegDir g dir fun d => { d with scanDue := false })
  refine ⟨w, ?_⟩
  rw [← hw]
  show execRingLaneSpare g dir fails s = _
  simp only [execRingLaneSpare, h, ne_eq, not_true_eq_false, if_false]

end Lanes

/-- Settles O27: the lanes that were lasting are retired one after the other (`SegDir.foldl_retireLane`). -/
theorem ringLanesTakeSpares : Obligations.RingLanesTakeSpares := by
  refine fun s g dir fails hs hg => ⟨fun h => exec_ringLaneSpare_waits h fails, fun h => ?_⟩
  have hlen := segs_of_shaped hs hg
  obtain ⟨w, hexec⟩ := exec_ringLaneSpare_retires (g := g) (dir := dir) h fails
  obtain ⟨hmem, hread⟩ := foldl_retireRingLane_reads (g := g) (dir := dir) (s.lastingLanes g dir)
    ((s.onSegDir g dir fun d => { d with scanDue := false }).onSpr fun _ => w)
    (by rwa [State.onSpr_ring, State.segs_length_onSegDir])
  have hscan : ((s.onSegDir g dir fun d => { d with scanDue := false }).onSpr fun _ => w).segDir g dir =
      { s.segDir g dir with scanDue := false } := s.segDir_onSegDir_same (fun d => { d with scanDue := false }) hlen
  rw [hscan, SegDir.foldl_retireLane] at hread
  exact ⟨_, hexec, by rw [hread], by rw [hread], by rw [hread], by rw [hread], hmem⟩

end Sys2Proof.Machine
end

section
/-! Memory accesses: what a read and a write leave, and requests, responses and peer accesses at their target.
O28 and O29. -/

namespace Sys2Proof.Machine

open Sys2Proof.Safety

/-! What the retirement of rows and error events leave: memory, the Assize, power, and which stacks answer. -/

/-- What an access of memory finds beside the ring: memory, the count of starts, power and the stacks that do not
answer (R156, R173, R522); and the Assize. -/
structure Reach where
  mem : Memory
  starts : Nat
  asz : Asz
  pwr : Pwr
  silent : List Bool

def State.reach (s : State) : Reach := ⟨s.mem, s.starts, s.asz, s.pwr, s.dram.map fun m => m.dead || m.selfRefresh⟩

@[simp] theorem State.onSpr_reach (s : State) (f : Spr → Spr) : (s.onSpr f).reach = s.reach := rfl
@[simp] theorem State.onHl_reach (s : State) (f : HostLink → HostLink) : (s.onHl f).reach = s.reach := rfl

/-- A change of a stack's counters and tables leaves whether it answers. -/
@[simp] theorem State.onDram_reach (s : State) (d : Nat) (f : Dram → Dram)
    (h : ∀ m, (f m).dead = m.dead ∧ (f m).selfRefresh = m.selfRefresh) : (s.onDram d f).reach = s.reach := by
  suffices hsilent : (s.dram.modify d f).map (fun m => m.dead || m.selfRefresh) =
      s.dram.map fun m => m.dead || m.selfRefresh by
    simp [State.reach, hsilent]
  refine List.ext_getElem? fun i => ?_
  by_cases hi : d = i
  · cases hm : s.dram[i]? <;> simp [hi, hm, h]
  · simp [hi]

@[simp] theorem State.onCore_reach (s : State) (g : Nat) (f : Core → Core) : (s.onCore g f).reach = s.reach := by
  unfold State.onCore
  split <;> rfl

@[simp] theorem State.recTrigger_reach (s : State) (safety : Bool) : (s.recTrigger safety).reach = s.reach := by
  unfold State.recTrigger
  split <;> rfl

@[simp] theorem State.sendVector_reach (s : State) (v : Nat) : (s.sendVector v).reach = s.reach := by
  unfold State.sendVector
  split <;> rfl

@[simp] theorem State.raiseEvent_reach (s : State) (v : Nat) : (s.raiseEvent v).reach = s.reach := by
  unfold State.raiseEvent
  dsimp only
  split <;> split <;> simp

@[simp] theorem State.setDegraded_reach (s : State) : s.setDegraded.reach = s.reach := by
  unfold State.setDegraded
  dsimp only
  split <;> rfl

@[simp] theorem State.errEvent_reach (s : State) (r : WearEntry) : (s.errEvent r).reach = s.reach := by
  obtain ⟨w, hw⟩ := s.errEvent_spr r
  rw [hw]
  rfl

@[simp] theorem State.retire_reach (s : State) (r : WearEntry) : (s.retire r).reach = s.reach := by
  unfold State.retire
  dsimp only
  split <;> simp

@[simp] theorem State.withdrawBlock_reach (s : State) (r : WearEntry) : (s.withdrawBlock r).reach = s.reach := by
  unfold State.withdrawBlock
  dsimp only
  split <;> simp

@[simp] theorem State.remapRow_reach (s : State) (r : WearEntry) : (s.remapRow r).reach = s.reach := by
  unfold State.remapRow
  dsimp only
  split
  · rfl
  · split <;> simp

/-- The events against bad banks leave it (R147). -/
@[simp] theorem State.bankEvents_reach (s : State) (a n : Nat) : (s.bankEvents a n).reach = s.reach := by
  unfold State.bankEvents
  split
  · rfl
  · exact foldl_keeps State.reach (by simp) _ s

/-- An uncorrectable error poisons its granule and leaves the rest (R159). -/
theorem State.uncorrectableError_reach (s : State) (a : Nat) : (s.uncorrectableError a).reach =
    (s.poisonGranules [granule a] (s.mem.checkPat.contains (granule a))).reach := by
  unfold State.uncorrectableError
  dsimp only
  split <;> simp

/-! A read finds every byte and every poisoned granule as they were. -/

/-- A later read finds what an earlier one found. -/
structure State.Reread (s t : State) : Prop where
  cells : t.mem.cells = s.mem.cells
  badParity : t.mem.badParity = s.mem.badParity
  poison : ∀ g, g ∈ t.mem.poison ↔ g ∈ s.mem.poison
  starts : t.starts = s.starts
  asz : t.asz = s.asz
  pwr : t.reach.pwr = s.reach.pwr
  silent : t.reach.silent = s.reach.silent

theorem State.Reread.of_reach {s t : State} (h : t.reach = s.reach) : s.Reread t := by
  have hmem : t.mem = s.mem := congrArg Reach.mem h
  exact ⟨by rw [hmem], by rw [hmem], by simp [hmem], congrArg Reach.starts h, congrArg Reach.asz h,
    congrArg Reach.pwr h, congrArg Reach.silent h⟩

theorem State.Reread.refl (s : State) : s.Reread s := .of_reach rfl

theorem State.Reread.trans {s t u : State} (h : s.Reread t) (k : t.Reread u) : s.Reread u :=
  ⟨k.cells.trans h.cells, k.badParity.trans h.badParity, fun g => (k.poison g).trans (h.poison g),
    k.starts.trans h.starts, k.asz.trans h.asz, k.pwr.trans h.pwr, k.silent.trans h.silent⟩

section Reread

variable {s t : State}

theorem State.Reread.byteAt (h : s.Reread t) (a : Nat) : t.byteAt a = s.byteAt a := by
  rw [State.byteAt, State.byteAt, h.cells, h.starts]

theorem State.Reread.bytesAt (h : s.Reread t) (a n : Nat) : t.bytesAt a n = s.bytesAt a n := by
  simp [State.bytesAt, h.byteAt]

theorem State.silent_eq (s : State) (d : Nat) :
    s.reach.silent.getD d false = ((s.dramAt d).dead || (s.dramAt d).selfRefresh) := by
  cases hd : s.dram[d]? <;> simp [State.reach, State.dramAt, hd]

theorem State.Reread.dramDead (h : s.Reread t) (a : Nat) : t.dramDead a = s.dramDead a := by
  have hpwr : t.pwr = s.pwr := h.pwr
  rw [State.dramDead, State.dramDead, ← t.silent_eq, ← s.silent_eq, h.silent, hpwr]

theorem State.Reread.readPoisoned (h : s.Reread t) (a n : Nat) : t.readPoisoned a n = s.readPoisoned a n := by
  have hpoison : t.mem.poison.any (fun g => overlaps a n g 64) = s.mem.poison.any fun g => overlaps a n g 64 := by
    rw [Bool.eq_iff_iff]
    simp [h.poison]
  rw [State.readPoisoned, State.readPoisoned, State.rangePoisoned, State.rangePoisoned, h.dramDead, h.badParity,
    hpoison]

/-- The granule of a poisoned access was poisoned before, and is so after it. -/
theorem State.uncorrectableError_reread {g : Nat} (hg : granule g = g) (hp : g ∈ s.mem.poison) :
    s.Reread (s.uncorrectableError g) := by
  have hpoisoned : s.Reread (s.poisonGranules [g] (s.mem.checkPat.contains g)) := by
    refine ⟨rfl, rfl, fun i => ?_, rfl, rfl, rfl, rfl⟩
    by_cases hi : i = g
    · simp [State.poisonGranules, hi, hp]
    · simp [State.poisonGranules, hi]
  have hreach := s.uncorrectableError_reach g
  rw [hg] at hreach
  exact hpoisoned.trans (.of_reach hreach)

theorem State.readGranule_ok (s : State) (g : Nat) : s.readGranule g .ok =
    if g ∈ s.mem.poison then (true, s.uncorrectableError g) else (false, s) := by
  by_cases hp : g ∈ s.mem.poison <;> simp [State.readGranule, State.granuleEcc, hp]

/-- Granules read without an error of their own: the data is poisoned where one of them was. -/
theorem readGranules_reread (gs : List Nat) : ∀ s : State, (∀ g ∈ gs, granule g = g) →
    s.Reread (State.readGranules gs [] s).2 ∧ ((State.readGranules gs [] s).1 = true → ∃ g ∈ gs, g ∈ s.mem.poison) := by
  induction gs with
  | nil => exact fun s _ => ⟨.refl s, by simp [State.readGranules]⟩
  | cons g gs ih =>
    intro s hgs
    have hread : s.Reread (s.readGranule g .ok).2 ∧ ((s.readGranule g .ok).1 = true → g ∈ s.mem.poison) := by
      rw [State.readGranule_ok]
      split
      · next hp => exact ⟨State.uncorrectableError_reread (hgs g (by simp)) hp, fun _ => hp⟩
      · exact ⟨.refl s, by simp⟩
    obtain ⟨hrest, hbad⟩ := ih (s.readGranule g .ok).2 fun i hi => hgs i (by simp [hi])
    refine ⟨hread.1.trans hrest, fun h => ?_⟩
    rcases Bool.or_eq_true_iff.mp h with h | h
    · exact ⟨g, by simp, hread.2 h⟩
    · obtain ⟨i, hi, hp⟩ := hbad h
      exact ⟨i, by simp [hi], (hread.1.poison i).mp hp⟩

theorem readGranules_clean (gs : List Nat) (h : ∀ g ∈ gs, g ∉ s.mem.poison) :
    State.readGranules gs [] s = (false, s) := by
  induction gs with
  | nil => rfl
  | cons g gs ih =>
    have hg : s.readGranule g .ok = (false, s) := by rw [State.readGranule_ok, if_neg (h g (by simp))]
    show ((s.readGranule g .ok).1 || (State.readGranules gs [] (s.readGranule g .ok).2).1,
      (State.readGranules gs [] (s.readGranule g .ok).2).2) = _
    rw [hg, ih fun i hi => h i (by simp [hi])]
    rfl

/-- A granule of a range is a whole one, and meets the range. -/
theorem granulesOf_meets {a n g : Nat} (h : g ∈ granulesOf a n) : granule g = g ∧ overlaps a n g 64 = true := by
  unfold granulesOf at h
  split at h
  · simp at h
  · next hn =>
    obtain ⟨i, hi, rfl⟩ := List.mem_map.mp h
    rw [List.mem_range] at hi
    simp only [overlaps, Bool.and_eq_true, decide_eq_true_eq]
    unfold granule
    omega

theorem rangePoisoned_of_granule {a n g : Nat} (hg : g ∈ granulesOf a n) (hp : g ∈ s.mem.poison) :
    s.rangePoisoned a n = true := by
  rw [State.rangePoisoned, Bool.or_eq_true]
  exact .inl (List.any_eq_true.mpr ⟨g, hp, (granulesOf_meets hg).2⟩)

/-- A read that meets no error of its own: its data is poisoned only where the range was, and a later read finds the
same (R159). -/
theorem State.dramRead_reread (s : State) (a n : Nat) :
    s.Reread (s.dramRead a n []).2 ∧ ((s.dramRead a n []).1 = true → s.readPoisoned a n = true) := by
  unfold State.dramRead
  split
  · exact ⟨.refl s, by simp⟩
  · split
    · next hdead => exact ⟨.refl s, fun _ => by simp [State.readPoisoned, hdead]⟩
    · obtain ⟨hread, hbad⟩ := readGranules_reread (granulesOf a n) s fun g hg => (granulesOf_meets hg).1
      refine ⟨hread, fun h => ?_⟩
      obtain ⟨g, hg, hp⟩ := hbad h
      simp [State.readPoisoned, rangePoisoned_of_granule hg hp]

/-- A read of a range without poison changes nothing. -/
theorem State.dramRead_clean {a n : Nat} (h : s.readPoisoned a n = false) : s.dramRead a n [] = (false, s) := by
  obtain ⟨hrange, hdead⟩ := Bool.or_eq_false_iff.mp h
  unfold State.dramRead
  rw [hdead]
  split
  · rfl
  · refine readGranules_clean _ fun g hg hp => ?_
    rw [rangePoisoned_of_granule hg hp] at hrange
    contradiction

/-- A write that meets no poisoned part writes its bytes (R161). -/
theorem State.dramWrite_clean {a : Nat} {data : List Byte} (h : s.writePoisoned a data.length = false) :
    s.dramWrite a data [] = (false, s.write a data) := by
  have hdead : s.dramDead a = false := (Bool.or_eq_false_iff.mp h).1
  simp [State.dramWrite, hdead, h]

/-- A run that was written is read back. -/
theorem bytesAt_write (a : Nat) (bs : List Byte) (h : s.mem.wf = true) : (s.write a bs).bytesAt a bs.length = bs := by
  refine List.ext_getElem? fun i => ?_
  by_cases hi : i < bs.length
  · simp [State.bytesAt, byteAt_write_in s a bs (a + i) h (by omega) (by omega), hi]
  · simp [State.bytesAt, hi]

end Reread

/-! Requests at their target (R44, R46, R48, R63, R68). -/

section Requests

variable {s : State} {v src : Nat} {d : Desc}

/-- The answer of a die is the packet that it sent last; its flits change the ring alone. -/
theorem State.sendPacket_sends (s : State) (src dst vc kind : Nat) (p : RingPacket) :
    (s.sendPacket src dst vc kind p).ring.sent = some p ∧ (s.sendPacket src dst vc kind p).mem = s.mem ∧
      ∀ a, (s.sendPacket src dst vc kind p).byteAt a = s.byteAt a := by
  have hsends := (s.onRing fun r => { r with sent := some p }).sends_launch src dst vc kind p
  refine ⟨hsends.packet, hsends.mem, fun a => ?_⟩
  rw [State.sendPacket, State.byteAt, hsends.mem, hsends.starts]
  rfl

theorem exec_ringReadRequest_refused (hfits : s.channelFits v d = true)
    (h : s.accessStatus d.requester d.dpa d.length false ≠ 0) (e : List Ecc) (fl : List Nat) :
    exec (.ringReadRequest v src d e fl) s = .next (s.answerFree v src d 2) := by
  show execRingReadRequest v src d e fl s = _
  simp [execRingReadRequest, hfits, h]

theorem exec_ringReadRequest_leaves (hfits : s.channelFits v d = true)
    (h : s.accessStatus d.requester d.dpa d.length false = 0) (hout : s.leavesDevice d.dpa = true) (e : List Ecc)
    (fl : List Nat) : exec (.ringReadRequest v src d e fl) s = .next (s.leave 4 d []) := by
  show execRingReadRequest v src d e fl s = _
  simp [execRingReadRequest, hfits, h, hout]

theorem exec_ringReadRequest_served (hfits : s.channelFits v d = true)
    (h : s.accessStatus d.requester d.dpa d.length false = 0) (hin : s.leavesDevice d.dpa = false) :
    exec (.ringReadRequest v src d [] []) s = .next (s.serveRead v src d [] []) := by
  show execRingReadRequest v src d [] [] s = _
  simp [execRingReadRequest, hfits, h, hin]

/-- The answer that a read of memory makes: its bytes, and their poison (R145, R159). -/
def State.readAnswer (s : State) (d : Desc) : RingPacket :=
  { kind := 6, desc := { d with status := bit01 (s.readPoisoned d.dpa d.length) }
    data := s.bytesAt d.dpa d.length, poison := s.readPoisoned d.dpa d.length }

@[simp] theorem State.flipParity_nil (s : State) : s.flipParity [] = s := by simp [State.flipParity, State.onMem]

/-- A read of memory answers its bytes with their poison, and leaves every byte as it was. -/
theorem serveRead_memory (hreg : isReg d.dpa = false) : (s.serveRead v src d [] []).ring.sent = some (s.readAnswer d) ∧
    ∀ a, (s.serveRead v src d [] []).byteAt a = s.byteAt a := by
  obtain ⟨hread, hbad⟩ := s.dramRead_reread d.dpa d.length
  have hserve : s.serveRead v src d [] [] = ((s.dramRead d.dpa d.length []).2.bankEvents d.dpa d.length).sendPacket
      (servingDie d.dpa) src v 6 (s.readAnswer d) := by
    have hpoison : ((s.dramRead d.dpa d.length []).1 || (s.dramRead d.dpa d.length []).2.readPoisoned d.dpa d.length) =
        s.readPoisoned d.dpa d.length := by
      rw [hread.readPoisoned]
      cases hb : (s.dramRead d.dpa d.length []).1
      · rfl
      · simp [hbad hb]
    simp [State.serveRead, State.readAnswer, hreg, hpoison, hread.bytesAt]
  obtain ⟨hsent, -, hbytes⟩ := State.sendPacket_sends ((s.dramRead d.dpa d.length []).2.bankEvents d.dpa d.length)
    (servingDie d.dpa) src v 6 (s.readAnswer d)
  have hall := hread.trans (.of_reach (State.bankEvents_reach _ d.dpa d.length))
  rw [hserve]
  exact ⟨hsent, fun a => (hbytes a).trans (hall.byteAt a)⟩

/-- The registers lie apart from memory and from what lies outside the device (R60). -/
theorem isReg_apart {a : Nat} (h : isReg a = true) :
    isDram a = false ∧ isSpad a = false ∧ isPeer a = false ∧ isHost a = false := by
  simp only [isReg, Bool.and_eq_true, decide_eq_true_eq] at h
  unfold regBase regTop at h
  refine ⟨?_, ?_, ?_, ?_⟩
  · simp only [isDram, decide_eq_false_iff_not]
    unfold dramTop
    omega
  · have htop : ¬a < spadTop := by
      unfold spadTop
      omega
    simp [isSpad, htop]
  · simp only [isPeer, Bool.and_eq_false_iff, decide_eq_false_iff_not]
    unfold peerBase
    omega
  · simp only [isHost, Bool.and_eq_false_iff, decide_eq_false_iff_not]
    unfold hostBase
    omega

/-- A die's read of a register latches, and clears nothing (R542, R543). -/
theorem State.busRead_keeps (s : State) (r off : Nat) : (s.busRead (r + 1) off).mem = s.mem ∧
    ∀ a, (s.busRead (r + 1) off).byteAt a = s.byteAt a := by
  have hlatch : (s.latchRead (r + 1) off).reach = s.reach := 
    foldl_keeps State.reach (f := fun x off => x.setLatch (r + 1) off (s.reg off)) (fun _ _ => rfl) _ s
  have hbus : (s.busRead (r + 1) off).reach = s.reach := by
    unfold State.busRead
    dsimp only
    rw [if_neg (by omega)]
    split
    · exact hlatch
    · rfl
  have hread := State.Reread.of_reach hbus
  exact ⟨congrArg Reach.mem hbus, hread.byteAt⟩

/-- A read of a register answers its word, and leaves every byte as it was. -/
theorem serveRead_register (hreg : isReg d.dpa = true) : ∃ p, (s.serveRead v src d [] []).ring.sent = some p ∧
    p.kind = 6 ∧ p.data = leBytes 4 (s.readReg (d.requester + 1) (d.dpa - regBase)) ∧
    ∀ a, (s.serveRead v src d [] []).byteAt a = s.byteAt a := by
  obtain ⟨hdram, hspad, -, -⟩ := isReg_apart hreg
  have hserve : s.serveRead v src d [] [] = (s.busRead (d.requester + 1) (d.dpa - regBase)).sendPacket
      (servingDie d.dpa) src v 6
      { s.readAnswer d with data := leBytes 4 (s.readReg (d.requester + 1) (d.dpa - regBase)) } := by
    simp [State.serveRead, State.readAnswer, State.dramRead, State.bankEvents, hdram, hspad, hreg]
  obtain ⟨hsent, -, hbytes⟩ := State.sendPacket_sends (s.busRead (d.requester + 1) (d.dpa - regBase))
    (servingDie d.dpa) src v 6
    { s.readAnswer d with data := leBytes 4 (s.readReg (d.requester + 1) (d.dpa - regBase)) }
  rw [hserve]
  exact ⟨_, hsent, rfl, rfl, fun a => (hbytes a).trans ((s.busRead_keeps _ _).2 a)⟩

theorem exec_ringWriteRequest_refused (hfits : s.channelFits v d = true)
    (h : s.accessStatus d.requester d.dpa d.length true ≠ 0) (data : List Byte) (po : Bool) (e : List Ecc) :
    exec (.ringWriteRequest v src d data po e) s =
      .next (s.sendPacket (servingDie d.dpa) src v 7 { kind := 7, desc := { d with status := 2 } }) := by
  show execRingWriteRequest v src d data po e s = _
  simp [execRingWriteRequest, hfits, h]

theorem exec_ringWriteRequest_served (hfits : s.channelFits v d = true)
    (h : s.accessStatus d.requester d.dpa d.length true = 0) (hin : s.leavesDevice d.dpa = false) (data : List Byte)
    (po : Bool) (e : List Ecc) : exec (.ringWriteRequest v src d data po e) s =
      .next ((s.serveWrite d data po e).2.sendPacket (servingDie d.dpa) src v 7
        { kind := 7, desc := { d with status := (s.serveWrite d data po e).1 } }) := by
  show execRingWriteRequest v src d data po e s = _
  simp [execRingWriteRequest, hfits, h, hin]

/-- A write of memory that meets no poisoned part stores its bytes. -/
theorem serveWrite_memory {data : List Byte} (hreg : isReg d.dpa = false) (hlen : data.length = d.length)
    (hclean : s.writePoisoned d.dpa d.length = false) : s.serveWrite d data false [] = (0, s.write d.dpa data) := by
  have hwrite := State.dramWrite_clean (data := data) (hlen ▸ hclean)
  simp [State.serveWrite, hreg, ← hlen, hwrite, bit01]

end Requests

/-- Settles O28: each outcome of a request by its equation; what a served access leaves by `serveRead_memory`,
`serveRead_register` and `serveWrite_memory`. -/
theorem ringAccessesReadAndWriteMemory : Obligations.RingAccessesReadAndWriteMemory := by
  refine ⟨fun s v src d e fl hfits h => ?_, fun s v src d hfits h hreg hin => ?_, fun s v src d hfits h hreg => ?_,
    fun s v src d e fl hfits h hpeer => ?_, fun s v src d data hwf hfits h hin hreg hlen hclean => ?_,
    fun s v src d data e hfits h hin => ?_, fun s v src d data po e hfits h => ?_⟩
  · obtain ⟨hsent, hmem, -⟩ := s.sendPacket_sends (servingDie d.dpa) src v 6
      { kind := 6, desc := { d with status := 2 }, data := s.freeBytes d.length }
    exact ⟨_, _, exec_ringReadRequest_refused hfits h e fl, hsent, rfl, rfl, hmem⟩
  · exact ⟨_, exec_ringReadRequest_served hfits h hin, serveRead_memory hreg⟩
  · obtain ⟨-, -, hpeer, hhost⟩ := isReg_apart hreg
    obtain ⟨p, hp⟩ := serveRead_register (s := s) (v := v) (src := src) hreg
    exact ⟨_, p, exec_ringReadRequest_served hfits h (by simp [State.leavesDevice, hpeer, hhost]), hp⟩
  · refine ⟨_, exec_ringReadRequest_leaves hfits h (by simp [State.leavesDevice, hpeer]) e fl, ?_⟩
    rw [State.leave, if_pos hpeer]
    exact ⟨rfl, rfl⟩
  · have hexec := exec_ringWriteRequest_served (src := src) hfits h hin data false []
    rw [serveWrite_memory hreg hlen hclean] at hexec
    obtain ⟨hsent, -, hbytes⟩ := (s.write d.dpa data).sendPacket_sends (servingDie d.dpa) src v 7
      { kind := 7, desc := { d with status := 0 } }
    refine ⟨_, hexec, ?_, fun a ha => ?_, hsent⟩
    · rw [State.bytesAt, List.map_congr_left fun i _ => hbytes (d.dpa + i), ← hlen]
      exact bytesAt_write d.dpa data hwf
    · rw [hbytes]
      exact byteAt_write_out s d.dpa data a hwf (hlen.symm ▸ ha)
  · obtain ⟨hsent, hmem, -⟩ := s.sendPacket_sends (servingDie d.dpa) src v 7
      { kind := 7, desc := { d with status := 1 } }
    exact ⟨_, exec_ringWriteRequest_served hfits h hin data true e, hmem, hsent⟩
  · obtain ⟨hsent, hmem, -⟩ := s.sendPacket_sends (servingDie d.dpa) src v 7
      { kind := 7, desc := { d with status := 2 } }
    exact ⟨_, exec_ringWriteRequest_refused hfits h data po e, hmem, hsent⟩

end Sys2Proof.Machine
end

section
/-! Responses at their requester, peer accesses and the training of P-links. O29. -/

namespace Sys2Proof.Machine

open Sys2Proof.Safety

/-! What the ring's transfers leave outside the ring. -/

theorem mem_of_offRing {s t : State} (h : t.offRing = s.offRing) : t.mem = s.mem :=
  show t.offRing.mem = s.offRing.mem by rw [h]
theorem starts_of_offRing {s t : State} (h : t.offRing = s.offRing) : t.starts = s.starts :=
  show t.offRing.starts = s.offRing.starts by rw [h]
theorem asz_of_offRing {s t : State} (h : t.offRing = s.offRing) : t.asz = s.asz :=
  show t.offRing.asz = s.offRing.asz by rw [h]
theorem cores_of_offRing {s t : State} (h : t.offRing = s.offRing) : t.cores = s.cores :=
  show t.offRing.cores = s.offRing.cores by rw [h]

theorem byteAt_of_offRing {s t : State} (h : t.offRing = s.offRing) (a : Nat) : t.byteAt a = s.byteAt a := by
  rw [State.byteAt, State.byteAt, mem_of_offRing h, starts_of_offRing h]

theorem bytesAt_congr {s t : State} (h : ∀ a, t.byteAt a = s.byteAt a) (a n : Nat) : t.bytesAt a n = s.bytesAt a n := by
  simp [State.bytesAt, h]

/-! Responses (R44, R46, R63, R114). -/

/-- A response for a requester that is no running core, or a good one, only reaches its requester. -/
theorem responseFault_quiet {s : State} {d : Desc} {po : Bool}
    (h : 64 ≤ d.requester ∨ (s.core d.requester).run ≠ .running ∨ (d.status = 0 ∧ po = false)) :
    s.responseFault d po = s := by
  unfold State.responseFault
  rcases h with h | h | ⟨hstatus, hpo⟩
  · simp [h]
  · simp [h]
  · simp [hstatus, hpo]

/-! Peer accesses (R66, R67, R69). -/

section Peer

variable {s : State} {l k o n src tag a : Nat} {data : List Byte}

/-- The packet that was sent last, with all else as it was. -/
def State.putSent (s : State) (p : RingPacket) : State := s.onRing fun r => { r with sent := some p }

/-- The state in which an admitted access is served: injection has met it, and it is in flight in its window. -/
def State.inFlight (s : State) (l k : Nat) : State :=
  (s.inject 2 l 1).2.onHl fun h => { h with
    windows := h.windows.modify k fun x => { x with inFlight := x.inFlight + 1 } }

theorem exec_peerAccess_refused {w : Bool}
    (h : (s.hl.windows.getD k {}).admits o (if w then data.length else n) src w = false) :
    exec (.peerAccess l k o n ⟨src, tag⟩ w data) s = .next ((s.inject 2 l 1).2.onRing fun r => { r with
      plinks := r.plinks.modify l fun p => { p with refused := satInc 255 p.refused }
      sent := some { kind := if w then 7 else 6
                     desc := { s.peerDesc (peerBase + k * 2 ^ 34 + o) n tag src with status := 3 } } }) := by
  show execPeerAccess l k o n ⟨src, tag⟩ w data s = _
  simp only [execPeerAccess, h]
  rfl

theorem exec_peerAccess_admitted {w : Bool}
    (h : (s.hl.windows.getD k {}).admits o (if w then data.length else n) src w = true) :
    exec (.peerAccess l k o n ⟨src, tag⟩ w data) s = .next ((s.inFlight l k).servePeer
      ((s.hl.windows.getD k {}).base + o) (if w then data.length else n) tag src w data) := by
  show execPeerAccess l k o n ⟨src, tag⟩ w data s = _
  simp only [execPeerAccess, h]
  rfl

/-- The target of a peer access is there: DRAM outside the reserved regions, the scratchpad of a present core, or hub
memory outside the target region (R61, R318). -/
def State.peerReach (s : State) (a n : Nat) : Bool :=
  inOpenDram a n || (inSpad a n && s.corePresent (spadCore a)) || (inHub a n && !touchesTarget a n)

theorem peerReach_of (h : inOpenDram a n = true ∨ (inSpad a n = true ∧ s.corePresent (spadCore a) = true) ∨
    (inHub a n = true ∧ touchesTarget a n = false)) : s.peerReach a n = true := by
  unfold State.peerReach
  rcases h with h | ⟨hspad, hcore⟩ | ⟨hhub, htarget⟩ <;> simp [*]

theorem servePeer_write (hreach : s.peerReach a data.length = true)
    (hclean : s.writePoisoned a data.length = false) :
    s.servePeer a data.length tag src true data = ((s.write a data).carryWrite .bulk 0 0xFE a data).putSent
      { kind := 7, desc := { s.peerDesc a data.length tag src with status := 0 } } := by
  unfold State.peerReach at hreach
  simp only [State.servePeer, hreach, State.dramWrite_clean hclean]
  rfl

theorem servePeer_read (hreach : s.peerReach a n = true) : s.servePeer a n tag src false data =
    (((s.dramRead a n []).2.bankEvents a n).carryRead .bulk 0 0xFE a (s.bytesAt a n)).putSent
      { kind := 6, desc := { s.peerDesc a n tag src with status := bit01 (s.readPoisoned a n) }
        data := s.bytesAt a n, poison := s.readPoisoned a n } := by
  unfold State.peerReach at hreach
  simp only [State.servePeer, hreach]
  rfl

/-- A served write: the bytes stand at their place, and nothing of the other blocks has changed. -/
theorem servePeer_write_stores (hwf : s.mem.wf = true) (hreach : s.peerReach a data.length = true)
    (hclean : s.writePoisoned a data.length = false) :
    let t := s.servePeer a data.length tag src true data
    t.bytesAt a data.length = data ∧ (∀ b, b < a ∨ a + data.length ≤ b → t.byteAt b = s.byteAt b) ∧ t.asz = s.asz ∧
      t.cores = s.cores ∧
      t.ring.sent = some { kind := 7, desc := { s.peerDesc a data.length tag src with status := 0 } } := by
  dsimp only
  rw [servePeer_write hreach hclean]
  have hring := (s.write a data).carryWrite_offRing .bulk 0 0xFE a data
  have hbytes := byteAt_of_offRing hring
  refine ⟨?_, fun b hb => (hbytes b).trans (byteAt_write_out s a data b hwf hb), (asz_of_offRing hring :),
    (cores_of_offRing hring :), rfl⟩
  exact (bytesAt_congr hbytes a data.length).trans (bytesAt_write a data hwf)

/-- A served read: every byte and the Assize are as they were. -/
theorem servePeer_read_keeps (hreach : s.peerReach a n = true) :
    let t := s.servePeer a n tag src false data
    (∀ b, t.byteAt b = s.byteAt b) ∧ t.asz = s.asz ∧ t.ring.sent = some
      { kind := 6, desc := { s.peerDesc a n tag src with status := bit01 (s.readPoisoned a n) }
        data := s.bytesAt a n, poison := s.readPoisoned a n } := by
  dsimp only
  rw [servePeer_read hreach]
  have hring := ((s.dramRead a n []).2.bankEvents a n).carryRead_offRing .bulk 0 0xFE a (s.bytesAt a n)
  have hread := (s.dramRead_reread a n).1.trans (.of_reach (State.bankEvents_reach _ a n))
  exact ⟨fun b => (byteAt_of_offRing hring b).trans (hread.byteAt b), (asz_of_offRing hring).trans hread.asz, rfl⟩

end Peer

/-! P-links (R64, R65). -/

/-- A P-link after its training: at 8 or at 4 lanes, and not with fewer or on the own package's number. -/
def PLink.train (p : PLink) (package lanes far : Nat) : PLink :=
  let conflict := decide (far = package) && decide (4 ≤ lanes)
  let width := if conflict || lanes < 4 then 0 else if lanes < 8 then 1 else 2
  { p with trained := width ≠ 0, conflict := conflict, width := width, far := far % 4 }

theorem exec_plinkTrain {s : State} {l : Nat} (hl : l < s.ring.plinks.length) (n far : Nat) :
    ∃ t : State, exec (.plinkTrain l n far) s = .next t ∧ t.mem = s.mem ∧
      t.ring.plinks.getD l {} = (s.ring.plinks.getD l {}).train s.dev.package n far := by
  let u := s.onRing fun r => { r with
    plinks := r.plinks.set l ((s.ring.plinks.getD l {}).train s.dev.package n far) }
  have hread : u.ring.plinks.getD l {} = (s.ring.plinks.getD l {}).train s.dev.package n far := by
    simp [u, hl]
  obtain ⟨changed, hexec⟩ : ∃ changed : Bool, exec (.plinkTrain l n far) s =
      .next (if changed then u.raiseEvent 3 else u) := ⟨_, rfl⟩
  refine ⟨_, hexec, ?_⟩
  cases changed
  · exact ⟨rfl, hread⟩
  · exact ⟨u.raiseEvent_mem 3, (congrArg (fun r => r.plinks.getD l {}) (u.raiseEvent_ring 3)).trans hread⟩

/-- Settles O29: responses by `responseFault_quiet`, peer accesses by `servePeer_write_stores` and
`servePeer_read_keeps`, the training by `PLink.train`. -/
theorem responsesAndPeersReachTheirTarget : Obligations.ResponsesAndPeersReachTheirTarget := by
  refine ⟨fun s d data po h => ?_, fun s d h => ?_, fun s d => rfl, fun s l k o n src tag w data h => ?_,
    fun s l k o n src tag data hwf hadmits htarget hclean => ?_, fun s l k o n src tag data hadmits htarget => ?_,
    fun s l n far hs hl => ?_⟩
  · exact congrArg Host.Outcome.next (responseFault_quiet (s := s.onRing fun r => { r with
      readRsp := some { kind := 6, desc := d, data := data, poison := po } }) h)
  · refine congrArg Host.Outcome.next (responseFault_quiet (s := s.onRing fun r => { r with writeAck := some d }) ?_)
    exact h.imp_right fun h => h.imp_right fun h => ⟨h, rfl⟩
  · exact ⟨_, exec_peerAccess_refused h, fun _ => rfl, rfl, rfl, rfl⟩
  · exact ⟨_, exec_peerAccess_admitted (w := true) hadmits,
      servePeer_write_stores (s := s.inFlight l k) hwf (peerReach_of htarget) hclean⟩
  · exact ⟨_, exec_peerAccess_admitted (w := false) hadmits,
      servePeer_read_keeps (s := s.inFlight l k) (peerReach_of htarget)⟩
  · obtain ⟨-, -, -, -, -, ⟨-, hplinks⟩, -⟩ := hs
    obtain ⟨t, hexec, hmem, hread⟩ := exec_plinkTrain (s := s) (l := l) (by omega) n far
    refine ⟨t, hexec, ?_⟩
    rw [hread]
    refine ⟨rfl, fun hfar hn => ?_, fun hfar hn => ?_, fun hfar hn hn8 => ?_, fun hn => ?_, hmem⟩
    · simp [PLink.train, hfar, hn]
    · simp [PLink.train, hfar, show ¬n < 4 by omega, show ¬n < 8 by omega]
    · simp [PLink.train, hfar, show ¬n < 4 by omega, hn8]
    · simp [PLink.train, hn]

end Sys2Proof.Machine
end

section
/-! Transfers of hub DMA: copies, fills, and data from host memory. O34. -/

namespace Sys2Proof.Machine

open Sys2Proof.Safety

/-! What a transfer carries (`OnlyCarried`): memory, the ring, the requests of the host link and free draws. -/

/-- The requests of the host link without the ones that wait or were granted (R444, R445). -/
def HostLink.offReqs (h : HostLink) : HostLink := { h with reqs := [], reqTurn := 0, granted := [] }

/-- The state without all that a transfer may change. -/
def State.offCarry (s : State) : State :=
  { s with mem := State.reset.mem, ring := State.reset.ring, free := 0, instant := 0, hl := s.hl.offReqs }

theorem onlyCarried_iff {s t : State} : OnlyCarried s t ↔ t.offCarry = s.offCarry := by
  constructor
  · intro h
    rw [OnlyCarried] at h
    exact (congrArg State.offCarry h).trans rfl
  · intro h
    have hback : t = { t.offCarry with
        mem := t.mem, ring := t.ring, free := t.free, instant := t.instant
        hl := { t.offCarry.hl with reqs := t.hl.reqs, reqTurn := t.hl.reqTurn, granted := t.hl.granted } } := rfl
    rw [h] at hback
    exact hback

theorem offCarry_of_offRing {s t : State} (h : t.offRing = s.offRing) : t.offCarry = s.offCarry :=
  show t.offRing.offCarry = s.offRing.offCarry by rw [h]

theorem HostLink.grant_offReqs (n : Nat) : ∀ h : HostLink, (HostLink.grant n h).offReqs = h.offReqs := by
  induction n with
  | zero => exact fun h => rfl
  | succ n ih =>
    intro h
    refine (ih h.slot).trans ?_
    unfold HostLink.slot
    split <;> rfl

theorem State.hostSlots_carries (s : State) : s.hostSlots.offCarry = s.offCarry ∧ s.hostSlots.mem = s.mem := by
  unfold State.hostSlots
  split
  · have hreqs : (HostLink.grant s.hl.reqs.length { s.hl with granted := [] }).offReqs = s.hl.offReqs :=
      HostLink.grant_offReqs _ _
    refine ⟨?_, rfl⟩
    simp [State.offCarry, State.onHl, hreqs]
  · exact ⟨rfl, rfl⟩

theorem State.hostRequest_carries (s : State) (engine : Nat) (write : Bool) (a n : Nat) :
    (s.hostRequest engine write a n).offCarry = s.offCarry ∧ (s.hostRequest engine write a n).mem = s.mem := by
  unfold State.hostRequest
  split
  · exact ⟨rfl, rfl⟩
  · exact State.hostSlots_carries _

/-- Whether a write meets a poisoned part turns on memory, the stacks and power alone. -/
theorem writePoisoned_of_carried {s t : State} (hcarry : t.offCarry = s.offCarry) (hmem : t.mem = s.mem) (a n : Nat) :
    t.writePoisoned a n = s.writePoisoned a n := by
  have hdead : t.dramDead a = s.dramDead a := show t.offCarry.dramDead a = s.offCarry.dramDead a by rw [hcarry]
  rw [State.writePoisoned, State.writePoisoned, hdead, hmem]

theorem write_mem_congr {s t : State} (h : t.mem = s.mem) (a : Nat) (bs : List Byte) :
    (t.write a bs).mem = (s.write a bs).mem := by
  simp [State.write, h]

/-- Hub DMA writes a range without poisoned parts: the bytes stand there, and nothing else has changed. -/
theorem State.putOut_clean {s : State} {a : Nat} {out : List Byte} (h : s.writePoisoned a out.length = false) :
    (s.putOut a out).1 = false ∧ (s.putOut a out).2.mem = (s.write a out).mem ∧
      (s.putOut a out).2.offCarry = s.offCarry := by
  unfold State.putOut
  rw [State.dramWrite_clean h]
  obtain ⟨hcarry, hmem⟩ := (s.write a out).hostRequest_carries s.dataEngine true a out.length
  have hring := ((s.write a out).hostRequest s.dataEngine true a out.length).carryWrite_offRing .bulk 0 0xFE a out
  exact ⟨rfl, (mem_of_offRing hring).trans hmem, (offCarry_of_offRing hring).trans hcarry⟩

/-- Hub DMA moves a range without poison to one without poisoned parts. -/
theorem State.moveBytes_clean {s : State} {src dst n : Nat} (hr : s.readPoisoned src n = false)
    (hw : s.writePoisoned dst n = false) : (s.moveBytes src dst n).1 = false ∧
      (s.moveBytes src dst n).2.mem = (s.write dst (s.bytesAt src n)).mem ∧
      OnlyCarried s (s.moveBytes src dst n).2 := by
  obtain ⟨u, hu⟩ : ∃ u, u = (s.hostRequest s.dataEngine false src n).carryRead .bulk 0 0xFE src (s.bytesAt src n) :=
    ⟨_, rfl⟩
  have hmove : s.moveBytes src dst n = u.putOut dst (s.bytesAt src n) := by
    rw [hu, State.moveBytes, State.afterRead, State.dramRead_clean hr]
  obtain ⟨hcarry, hmem⟩ := s.hostRequest_carries s.dataEngine false src n
  have hring := (s.hostRequest s.dataEngine false src n).carryRead_offRing .bulk 0 0xFE src (s.bytesAt src n)
  rw [← hu] at hring
  have humem := (mem_of_offRing hring).trans hmem
  have hucarry := (offCarry_of_offRing hring).trans hcarry
  have hlen : (s.bytesAt src n).length = n := by simp [State.bytesAt]
  obtain ⟨hgood, hput, hkept⟩ := State.putOut_clean (s := u) (a := dst) (out := s.bytesAt src n)
    (by rw [hlen, writePoisoned_of_carried hucarry humem, hw])
  rw [hmove]
  exact ⟨hgood, hput.trans (write_mem_congr humem _ _), onlyCarried_iff.mpr (hkept.trans hucarry)⟩

/-! The copy (R433). -/

section Copy

variable {s : State} {c : Cmd} {src dst n : Nat}

theorem runCopy_unreachable (h : s.dmaRange src n = false ∨ s.dmaRange dst n = false) :
    s.runCopy c src dst n = s.complete c stBadParam := by
  unfold State.runCopy
  rcases h with h | h <;> simp [h]

/-- A copy without poison completes with its length, the bytes carried to their place. -/
theorem runCopy_copies (hsrc : s.dmaRange src n = true) (hdst : s.dmaRange dst n = true)
    (hr : s.readPoisoned src n = false) (hw : s.writePoisoned dst n = false) :
    ∃ u : State, s.runCopy c src dst n = u.complete c stOk n ∧
      u.mem = (s.write dst (s.bytesAt src n)).mem ∧ OnlyCarried s u := by
  obtain ⟨hgood, hmem, hcarried⟩ := State.moveBytes_clean hr hw
  refine ⟨_, ?_, hmem, hcarried⟩
  simp [State.runCopy, hsrc, hdst, hr, hgood]

theorem runCopy_poisoned (hsrc : s.dmaRange src n = true) (hdst : s.dmaRange dst n = true)
    (hr : s.readPoisoned src n = true) :
    ∃ (u : State) (k : Nat), s.runCopy c src dst n = u.complete c stMemPoison k := by
  refine ⟨(((s.copyPoisoned src dst n).2.afterRead src n).bankEvents src n).bump, (s.copyPoisoned src dst n).1, ?_⟩
  simp only [State.runCopy, hsrc, hdst, hr]
  rfl

@[simp] theorem begun_dmaRange (c : Cmd) (s : State) (a n : Nat) : (begun c s).dmaRange a n = s.dmaRange a n := by
  simp [State.dmaRange, State.corePresent, State.physOf, State.dramAt]

@[simp] theorem begun_dramDead (c : Cmd) (s : State) (a : Nat) : (begun c s).dramDead a = s.dramDead a := by
  simp [State.dramDead, State.dramAt]

@[simp] theorem begun_readPoisoned (c : Cmd) (s : State) (a n : Nat) :
    (begun c s).readPoisoned a n = s.readPoisoned a n := by
  simp [State.readPoisoned, State.rangePoisoned]

@[simp] theorem begun_writePoisoned (c : Cmd) (s : State) (a n : Nat) :
    (begun c s).writePoisoned a n = s.writePoisoned a n := by
  simp [State.writePoisoned]

@[simp] theorem begun_bytesAt (c : Cmd) (s : State) (a n : Nat) : (begun c s).bytesAt a n = s.bytesAt a n :=
  bytesAt_congr (fun a => by simp [State.byteAt]) a n

theorem exec_memCopy_refused (h : Starts 2 3 c s) (hbad : c.word 4 = 0 ∨
    overlaps (c.addr 0) (c.word 4) (c.addr 2) (c.word 4) = true ∨ s.dmaRange (c.addr 0) (c.word 4) = false ∨
      s.dmaRange (c.addr 2) (c.word 4) = false) :
    exec (.memCopy c) s = .next ((begun c s).complete c stBadParam) := by
  show execMemCopy c s = _
  rw [execMemCopy, runCmd_starts h]
  dsimp only
  rw [if_pos (by simpa [or_assoc] using hbad)]

/-- A copy that is not refused waits for the host's data, or runs. -/
theorem exec_memCopy_runs (h : Starts 2 3 c s) (hn : 0 < c.word 4)
    (hapart : overlaps (c.addr 0) (c.word 4) (c.addr 2) (c.word 4) = false)
    (hsrc : s.dmaRange (c.addr 0) (c.word 4) = true) (hdst : s.dmaRange (c.addr 2) (c.word 4) = true) :
    exec (.memCopy c) s = .next (if isHost (c.addr 0) then
        (begun c s).await c (.copyRead (c.addr 0) (c.addr 2) (c.word 4))
      else (begun c s).runCopy c (c.addr 0) (c.addr 2) (c.word 4)) := by
  show execMemCopy c s = _
  rw [execMemCopy, runCmd_starts h]
  dsimp only
  rw [if_neg (by simp [hapart, hsrc, hdst, Nat.ne_of_gt hn])]

end Copy

/-! Data from host memory (R444). -/

section Completion

variable {s : State} {ctx tag src dst n : Nat} {data : List HostRun} {o : Open}

theorem exec_hostDmaReadCompletion_down (h : s.hl.linkUp = false) :
    exec (.hostDmaReadCompletion ctx tag data) s = .next s := by
  show execHostDmaReadCompletion ctx tag data s = _
  simp [execHostDmaReadCompletion, h]

/-- A command waits for the data of a copy. -/
def awaitsCopy (ctx tag : Nat) (o : Open) : Bool :=
  o.cmd.ring = ctx && o.cmd.tag = tag && (match o.wait with | .copyRead _ _ _ => true | _ => false)

theorem exec_hostDmaReadCompletion_copies (hup : s.hl.linkUp = true)
    (ho : s.hl.opens.find? (awaitsCopy ctx tag) = some o) (hwait : o.wait = .copyRead src dst n) :
    exec (.hostDmaReadCompletion ctx tag data) s =
      .next (((s.hostRuns data).onHl fun h => { h with opens := h.opens.erase o }).runCopy o.cmd src dst n) := by
  show execHostDmaReadCompletion ctx tag data s = _
  unfold awaitsCopy at ho
  unfold execHostDmaReadCompletion
  rw [if_neg (by simp [hup])]
  split
  · next hnone => exact absurd (ho.symm.trans hnone) (by simp)
  · next x hsome =>
    obtain rfl : o = x := Option.some.inj (ho.symm.trans hsome)
    rw [hwait]

theorem hostRuns_dmaRange (s : State) (runs : List HostRun) (a n : Nat) :
    (s.hostRuns runs).dmaRange a n = s.dmaRange a n := by
  have hkept : ((s.hostRuns runs).cores, (s.hostRuns runs).dram) = (s.cores, s.dram) :=
    foldl_keeps (fun u : State => (u.cores, u.dram))
      (f := fun x (r : HostRun) => if inHost r.1 r.2.length then x.write r.1 r.2 else x)
      (fun u r => by split <;> rfl) runs s
  obtain ⟨hcores, hdram⟩ := Prod.mk.inj hkept
  simp [State.dmaRange, State.corePresent, State.physOf, State.dramAt, hcores, hdram]

end Completion

/-! The fill (R433). -/

section Fill

variable {s : State} {c : Cmd}

theorem exec_memFill_refused (h : Starts 2 4 c s)
    (hbad : c.word 2 % 4 ≠ 0 ∨ s.dmaRange (c.addr 0) (c.word 2) = false) :
    exec (.memFill c) s = .next ((begun c s).complete c stBadParam) := by
  show execMemFill c s = _
  rw [execMemFill, runCmd_starts h]
  dsimp only
  rw [if_pos (by simpa using hbad)]

theorem exec_memFill_writes (h : Starts 2 4 c s) (hword : c.word 2 % 4 = 0)
    (hdst : s.dmaRange (c.addr 0) (c.word 2) = true)
    (hgood : ((begun c s).putOut (c.addr 0) (fillBytes (c.word 3) (c.word 2))).1 = false) : exec (.memFill c) s =
      .next (((begun c s).putOut (c.addr 0) (fillBytes (c.word 3) (c.word 2))).2.complete c stOk) := by
  show execMemFill c s = _
  rw [execMemFill, runCmd_starts h]
  dsimp only
  rw [if_neg (by simp [hword, hdst]), if_neg (by simp [hgood])]

theorem length_leBytes (k : Nat) : ∀ v, (leBytes k v).length = k := by
  induction k with
  | zero => exact fun _ => rfl
  | succ k ih => exact fun v => congrArg (· + 1) (ih _)

theorem length_fillBytes {n : Nat} (p : Nat) (h : n % 4 = 0) : (fillBytes p n).length = n := by
  simp only [fillBytes, List.length_flatten, List.map_replicate, length_leBytes, List.sum_replicate_nat]
  omega

/-- A pattern repeated reads at each place as the pattern at the place's offset in it. -/
theorem getElem?_repeated {x : List Byte} {k i : Nat} (h : i < k * x.length) :
    (List.replicate k x).flatten[i]? = x[i % x.length]? := by
  induction k generalizing i with
  | zero => omega
  | succ k ih =>
    rw [List.replicate_succ, List.flatten_cons]
    by_cases hi : i < x.length
    · rw [List.getElem?_append_left hi, Nat.mod_eq_of_lt hi]
    · rw [List.getElem?_append_right (by omega), ih (by rw [Nat.succ_mul] at h; omega), ← Nat.mod_eq_sub_mod (by omega)]

end Fill

/-- Settles O34: copies by `runCopy_copies`, fills by `State.putOut_clean`, what a write leaves by
`byteAt_write_out`. -/
theorem copiesAndFillsWriteTheirRange : Obligations.CopiesAndFillsWriteTheirRange := by
  refine ⟨fun c s hs => ⟨exec_memCopy_refused hs, fun hn hapart hsrc hdst => ?_⟩,
    fun s ctx tag src dst n data o => ⟨exec_hostDmaReadCompletion_down, fun hup ho hwait => ?_⟩,
    fun c s hs => ⟨exec_memFill_refused hs, fun hword hdst hclean => ?_⟩,
    fun s a bs hwf => ⟨bytesAt_write a bs hwf, fun b hb => byteAt_write_out s a bs b hwf hb⟩⟩
  · have hexec := exec_memCopy_runs hs hn hapart hsrc hdst
    refine ⟨fun hhost => ?_, fun hhost hr hw => ?_, fun hhost hr => ?_⟩
    · rw [hexec, if_pos hhost]
    · obtain ⟨u, hcopy, hmem, hcarried⟩ := runCopy_copies (s := begun c s) (c := c) (src := c.addr 0) (dst := c.addr 2)
        (n := c.word 4) (by simpa using hsrc) (by simpa using hdst) (by simpa using hr) (by simpa using hw)
      refine ⟨u, by rw [hexec, if_neg (by simp [hhost]), hcopy], hmem.trans ?_, hcarried⟩
      rw [begun_bytesAt]
      exact write_mem_congr (begun_mem c s) _ _
    · obtain ⟨u, k, hcopy⟩ := runCopy_poisoned (s := begun c s) (c := c) (src := c.addr 0) (dst := c.addr 2)
        (n := c.word 4) (by simpa using hsrc) (by simpa using hdst) (by simpa using hr)
      exact ⟨u, k, by rw [hexec, if_neg (by simp [hhost]), hcopy]⟩
  · have hexec := exec_hostDmaReadCompletion_copies (data := data) hup ho hwait
    have hrange (a : Nat) : ((s.hostRuns data).onHl fun h => { h with opens := h.opens.erase o }).dmaRange a n =
        s.dmaRange a n := hostRuns_dmaRange s data a n
    refine ⟨fun hsrc hdst hr hw => ?_, fun hbad => ?_⟩
    · obtain ⟨u, hcopy, hmem, hcarried⟩ := runCopy_copies (c := o.cmd) ((hrange src).trans hsrc)
        ((hrange dst).trans hdst) hr hw
      exact ⟨u, by rw [hexec, hcopy], hmem, hcarried⟩
    · rw [hexec, runCopy_unreachable (by rwa [hrange, hrange])]
  · have hlen := length_fillBytes (c.word 3) hword
    obtain ⟨hgood, hmem, hkept⟩ := State.putOut_clean (s := begun c s) (a := c.addr 0)
      (out := fillBytes (c.word 3) (c.word 2)) (by rw [hlen]; simpa using hclean)
    refine ⟨⟨_, exec_memFill_writes hs hword hdst hgood, hmem.trans (write_mem_congr (begun_mem c s) _ _),
      onlyCarried_iff.mpr hkept⟩, hlen, fun i hi => ?_⟩
    rw [fillBytes, getElem?_repeated (by rw [length_leBytes]; omega), length_leBytes]

end Sys2Proof.Machine
end

section
/-! Peer windows. O35. -/

namespace Sys2Proof.Machine

open Sys2Proof.Safety

section Windows

variable {s : State} {c : Cmd} {k : Nat}

@[simp] theorem begun_windows (c : Cmd) (s : State) : (begun c s).hl.windows = s.hl.windows := by
  unfold begun State.onCtx
  split <;> rfl

/-- The window that MEM.WINDOW_OPEN asks for (R67). -/
def askedWindow (c : Cmd) : Window :=
  { isOpen := true, base := c.addr 1, size := c.word 3 * 4096, read := bitAt (c.word 0) 8
    write := bitAt (c.word 0) 9, mask := bitsOf (c.word 0) 15 12 }

/-- The range that MEM.WINDOW_OPEN names is not one that a window may have (R67). -/
def windowBad (c : Cmd) : Prop :=
  c.word 3 = 0 ∨ 2 ^ 34 < c.word 3 * 4096 ∨ c.addr 1 % 4096 ≠ 0 ∨ windowRange (c.addr 1) (c.word 3 * 4096) = false

/-- A window that closes while accesses are in flight (R70). -/
def Window.draining (w : Window) : Window := { w with isOpen := false, closing := true }

/-- The slot of a window holds this one. -/
def State.setWindow (s : State) (k : Nat) (w : Window) : State :=
  s.onHl fun h => { h with windows := h.windows.set k w }

theorem exec_memWindowOpen_bad (h : Starts 2 5 c s) (hbad : windowBad c) :
    exec (.memWindowOpen c) s = .next ((begun c s).complete c stBadParam) := by
  show execMemWindowOpen c s = _
  rw [execMemWindowOpen, runCmd_starts h]
  dsimp only
  rw [if_pos (by simpa [windowBad, or_assoc] using hbad)]

/-- A good range opens the window on a free slot, and finds a slot in use busy (log 20). -/
theorem exec_memWindowOpen_good (h : Starts 2 5 c s) (hgood : ¬windowBad c) : exec (.memWindowOpen c) s =
    .next (if (s.hl.windows.getD (c.word 0 % 64) {}).isOpen || (s.hl.windows.getD (c.word 0 % 64) {}).closing then
      (begun c s).complete c stBusy
    else ((begun c s).setWindow (c.word 0 % 64) (askedWindow c)).complete c stOk) := by
  show execMemWindowOpen c s = _
  rw [execMemWindowOpen, runCmd_starts h]
  dsimp only
  rw [if_neg (by simpa [windowBad, or_assoc] using hgood), begun_windows]
  rfl

/-- A closed window is refused; an idle one closes at once; a busy one refuses accesses and the command waits (R70). -/
theorem exec_memWindowClose (h : Starts 2 6 c s) : exec (.memWindowClose c) s =
    .next (if !(s.hl.windows.getD (c.word 0 % 64) {}).isOpen then (begun c s).complete c stBadParam
    else if (s.hl.windows.getD (c.word 0 % 64) {}).inFlight = 0 then
      ((begun c s).setWindow (c.word 0 % 64) {}).complete c stOk
    else ((begun c s).setWindow (c.word 0 % 64) (s.hl.windows.getD (c.word 0 % 64) {}).draining).await c
        (.windowDrain (c.word 0 % 64))) := by
  show execMemWindowClose c s = _
  rw [execMemWindowClose, runCmd_starts h]
  dsimp only
  rw [begun_windows]
  rfl

theorem exec_windowDrainDone_waits
    (h : (s.hl.windows.getD k {}).closing = false ∨ (s.hl.windows.getD k {}).inFlight ≠ 0) :
    exec (.windowDrainDone k) s = .next s := by
  show execWindowDrainDone k s = _
  unfold execWindowDrainDone
  rw [if_neg]
  rcases h with h | h
  · rw [h]
    exact Bool.false_ne_true
  · rw [decide_eq_false h, Bool.and_false]
    exact Bool.false_ne_true

theorem exec_windowDrainDone_ends (hclosing : (s.hl.windows.getD k {}).closing = true)
    (hidle : (s.hl.windows.getD k {}).inFlight = 0) :
    exec (.windowDrainDone k) s = .next ((s.setWindow k {}).finish (· = .windowDrain k) stOk) := by
  show execWindowDrainDone k s = _
  simp only [execWindowDrainDone, hclosing, hidle]
  rfl

theorem getD_setWindow (hk : k < s.hl.windows.length) (w : Window) : (s.setWindow k w).hl.windows.getD k {} = w := by
  simp [State.setWindow, hk]

/-- A window that is not open admits nothing. -/
theorem Window.admits_of_closed {w : Window} (h : w.isOpen = false) (o n src : Nat) (write : Bool) :
    w.admits o n src write = false := by
  simp [Window.admits, h]

end Windows

/-- Settles O35: each command by its equation. -/
theorem peerWindowsOpenAndClose : Obligations.PeerWindowsOpenAndClose := by
  refine ⟨fun c s k hs hk hsize hmax halign hrange => ?_, fun c s hs hbad => exec_memWindowOpen_bad hs hbad,
    fun c s hs hclosed => ?_, fun s k h => exec_windowDrainDone_waits h, fun c s k hs hk hopen => ?_,
    fun s k hclosing hidle => exec_windowDrainDone_ends hclosing hidle⟩
  · have hgood : ¬windowBad c := by
      rw [windowBad]
      simp [hrange, halign]
      omega
    have hexec := exec_memWindowOpen_good hs hgood
    rw [hk] at hexec
    refine ⟨fun hopen hclosing => ?_, fun hused => ?_⟩
    · rw [hexec, hopen, hclosing]
      rfl
    · rw [hexec, if_pos (Bool.or_eq_true_iff.mpr hused)]
  · rw [exec_memWindowClose hs, hclosed]
    rfl
  · have hexec := exec_memWindowClose hs
    rw [hk, hopen] at hexec
    refine ⟨fun hidle => hexec.trans (congrArg _ (if_pos hidle)), fun hbusy hshape => ?_⟩
    obtain ⟨⟨-, hwindows⟩, -⟩ := hshape
    have hread := getD_setWindow (s := begun c s) (k := k) (by rw [begun_windows]; omega)
      (s.hl.windows.getD k {}).draining
    have hopens := congrArg (· ++ [{ cmd := c, wait := .windowDrain k : Open }]) (begun_opens c s)
    exact ⟨((begun c s).setWindow k (s.hl.windows.getD k {}).draining).await c (.windowDrain k),
      hexec.trans (congrArg _ (if_neg hbusy)), congrArg Window.isOpen hread, congrArg Window.closing hread,
      Window.admits_of_closed (congrArg Window.isOpen hread), hopens, begun_mem c s,
      ((KeepsBlocks.begun s c).onHl _).await c _⟩

end Sys2Proof.Machine
end

section
/-! A core's own step: what an update of one core leaves, the sequencer's waits, reads of the own scratchpad. -/

namespace Sys2Proof.Safety

open Sys2Proof.Machine

variable {s t u : State} {g : Nat}

theorem OnlyCore.refl (g : Nat) (s : State) : OnlyCore g s s := ⟨rfl, fun _ _ => rfl⟩

theorem OnlyCore.physOf (h : OnlyCore g s t) (i : Nat) : t.physOf i = s.physOf i := by
  rw [h.1]
  rfl

theorem OnlyCore.trans (h : OnlyCore g s t) (k : OnlyCore g t u) : OnlyCore g s u := by
  refine ⟨?_, fun i hi => ?_⟩
  · have hu := k.1
    rw [h.1] at hu
    exact hu
  · exact (k.2 i (by rwa [h.physOf, h.physOf])).trans (h.2 i hi)

theorem OnlyCore.bump (h : OnlyCore g s t) : OnlyCore g s t.bump := h.trans ⟨rfl, fun _ _ => rfl⟩

/-- An update of a physical core leaves every logical core that stands on another. -/
theorem onPhys_core_ne {p i : Nat} (f : Core → Core) (h : s.physOf i ≠ some p) :
    (s.onPhys p f).core i = s.core i := by
  have hphys : (s.onPhys p f).physOf i = s.physOf i := rfl
  unfold State.core
  rw [hphys]
  split
  · next q hq =>
    have hne : p ≠ q := fun hpq => h (by rw [hq, hpq])
    simp [State.phys, hne]
  · rfl

theorem OnlyCore.onCore (s : State) (g : Nat) (f : Core → Core) : OnlyCore g s (s.onCore g f) := by
  unfold State.onCore
  split
  · next p hp => exact ⟨rfl, fun i hi => onPhys_core_ne f (by rwa [hp] at hi)⟩
  · exact .refl g s

/-- Nothing but free draws has been taken, with the instant they give (log 2). -/
def Drawn (s t : State) : Prop := ∃ n i, t = { s with free := n, instant := i }

theorem Drawn.refl (s : State) : Drawn s s := ⟨_, _, rfl⟩

theorem Drawn.trans (h : Drawn s t) (k : Drawn t u) : Drawn s u := by
  obtain ⟨n, i, rfl⟩ := h
  obtain ⟨m, j, rfl⟩ := k
  exact ⟨m, j, rfl⟩

/-- A read by a tile takes at most a draw. -/
theorem Drawn.afterTileRead (s : State) (i a n : Nat) : Drawn s (s.afterTileRead i a n) := by
  unfold State.afterTileRead
  split
  · exact ⟨_, _, rfl⟩
  · exact .refl s

theorem Drawn.onlyCore (h : Drawn s t) (g : Nat) : OnlyCore g s t := by
  obtain ⟨n, i, rfl⟩ := h
  exact ⟨rfl, fun _ _ => rfl⟩

theorem Drawn.core (h : Drawn s t) (g : Nat) : t.core g = s.core g := by
  obtain ⟨n, i, rfl⟩ := h
  rfl

end Sys2Proof.Safety

namespace Sys2Proof.Machine

open Sys2Proof.Safety

section CoreStep

variable {s t u : State} {g : Nat} {k : Core} {flips : List Nat}

/-- A core that runs stands on a physical core of the table (R130). -/
theorem physOf_of_running (h : (s.core g).run = .running) :
    ∃ p, s.physOf g = some p ∧ p < s.cores.phys.length := by
  unfold State.core at h
  split at h
  · next p hp =>
    refine ⟨p, hp, Nat.lt_of_not_le fun hout => ?_⟩
    rw [State.phys, List.getD_eq_default _ _ hout] at h
    contradiction
  · contradiction

/-- The update of a core that runs is what the core then is. -/
theorem State.onCore_core (h : (s.core g).run = .running) (f : Core → Core) :
    (s.onCore g f).core g = f (s.core g) := by
  obtain ⟨p, hp, hlt⟩ := physOf_of_running h
  have hp' : (s.onPhys p f).physOf g = some p := hp
  simp [State.onCore, State.core, State.phys, hp, hp', hlt]

theorem State.onCore_onCore (s : State) (g : Nat) (f f' : Core → Core) :
    (s.onCore g f).onCore g f' = s.onCore g fun y => f' (f y) := by
  unfold State.onCore
  cases hp : s.physOf g with
  | none => simp [hp]
  | some p =>
    have hp' : (s.onPhys p f).physOf g = some p := hp
    simp only [hp']
    exact congrArg (fun l => s.onCores fun c => { c with phys := l }) (List.modify_modify_eq ..)

/-- Nothing has changed but the core, which is now `k`, and the free draws. -/
def Becomes (g : Nat) (s t : State) (k : Core) : Prop := OnlyCore g s t ∧ t.core g = k

theorem Becomes.onCore (h : (s.core g).run = .running) (f : Core → Core) :
    Becomes g s (s.onCore g f) (f (s.core g)) := ⟨.onCore s g f, s.onCore_core h f⟩

theorem Becomes.of_only (h : OnlyCore g s t) (hk : Becomes g t u k) : Becomes g s u k := ⟨h.trans hk.1, hk.2⟩

theorem Becomes.onCore_drawn (hrun : (s.core g).run = .running) (h : Drawn s t) (f : Core → Core) :
    Becomes g s (t.onCore g f) (f (s.core g)) := by
  have hcore := h.core g
  rw [← hcore] at hrun ⊢
  exact .of_only (h.onlyCore g) (.onCore hrun f)

/-! The sequencer (R101, R145). -/

theorem ready_iff : s.ready g = true ↔ (s.core g).run = .running ∧ (s.core g).wait = .none := by
  simp [State.ready]

/-- An instruction of a core that is ready, fetched with good code bytes, is what its meaning makes of the core. -/
theorem exec_of_tileOp {i : Instr} {f : Core → State → State} (hi : exec i s = .next (s.tileOp g flips f))
    (h : s.ready g = true) (hfetch : (s.flipParity (flips.filter isSpad)).fetchBad g = false) :
    exec i s = .next (f (s.core g) (s.flipParity (flips.filter isSpad))) := by
  rw [hi]
  simp only [State.tileOp, h, hfetch]
  rfl

theorem exec_of_tileOp_unflipped {i : Instr} {f : Core → State → State} (hi : exec i s = .next (s.tileOp g [] f))
    (h : s.ready g = true) (hfetch : s.fetchBad g = false) : exec i s = .next (f (s.core g) s) := by
  have hs : s.flipParity ([].filter isSpad) = s := s.flipParity_nil
  rw [exec_of_tileOp hi h (by rwa [hs]), hs]

theorem tileOp_faults {f : Core → State → State} (h : s.ready g = true) (hfetch : s.fetchBad g = true) :
    s.tileOp g [] f = s.fetchFault g := by
  simp [State.tileOp, h, hfetch]

theorem tileOp_unready {f : Core → State → State} (h : s.ready g = false) : s.tileOp g flips f = s := by
  simp [State.tileOp, h]

/-- An instruction that goes on without a wait leaves the wait as it was: there was none. -/
theorem Core.noWait (h : k.wait = .none) : { k with wait := .none } = k := by
  rw [← h]

/-! Waits (R101, R102). -/

theorem State.resume_stays (h : (s.core g).canGo = false) : s.resume g = s := by
  simp [State.resume, h]

/-- The sequencer waits for what has not come. -/
theorem waitFor_waits (w : CoreWait) (hrun : (s.core g).run = .running)
    (h : ({ s.core g with wait := w } : Core).canGo = false) :
    s.waitFor g w = s.onCore g fun y => { y with wait := w } :=
  State.resume_stays (by rwa [s.onCore_core hrun])

/-- A wait for units or DMA channels: the core goes on where they are idle, and else waits. -/
theorem waitFor_idle {w : CoreWait} (h : s.ready g = true) (hw : (∃ m, w = .dma m) ∨ ∃ m, w = .units m) :
    Becomes g s (s.waitFor g w) (if ({ s.core g with wait := w } : Core).canGo = true
      then { s.core g with reg := (s.core g).reg.step } else { s.core g with wait := w }) := by
  obtain ⟨hrun, hwait⟩ := ready_iff.mp h
  split
  · next hgo =>
    have hgoes : s.waitFor g w = s.onCore g fun y => { y with wait := .none, reg := y.reg.step } := by
      rw [State.waitFor, State.resume, s.onCore_core hrun, if_neg (by simp [hgo])]
      rcases hw with ⟨m, rfl⟩ | ⟨m, rfl⟩
      · exact s.onCore_onCore g _ _
      · exact s.onCore_onCore g _ _
    rw [hgoes, ← Core.noWait hwait]
    exact .onCore hrun _
  · next hbusy =>
    rw [waitFor_waits w hrun (Bool.eq_false_iff.mpr hbusy)]
    exact .onCore hrun _

/-! Reads of the own scratchpad (R99, R103, R145). -/

theorem readOwn_clean {rs : List (Nat × Nat)} {f : State → State}
    (h : (rs.any fun r => s.readPoisoned r.1 r.2) = false) : s.readOwn g rs f = f s := by
  simp only [State.readOwn, h]
  rfl

theorem readOwn_poisoned {rs : List (Nat × Nat)} {f : State → State}
    (h : (rs.any fun r => s.readPoisoned r.1 r.2) = true) :
    s.readOwn g rs f = (rs.foldl (fun x r => x.bankEvents r.1 r.2) s).tileFault g 7 := by
  simp only [State.readOwn, h]
  rfl

theorem any_readPoisoned_singleton {a n : Nat} {b : Bool} (h : s.readPoisoned a n = b) :
    ([(a, n)].any fun r => s.readPoisoned r.1 r.2) = b := by
  simp [h]

theorem tileBytes_of_settled {a n : Nat} (h : s.early g 4 a n = false) : s.tileBytes g a n = s.bytesAt a n := by
  simp [State.tileBytes, h]

/-- A record of `n` bytes at a word address of the own scratchpad is read, and its bytes are used (R99, R145). -/
def State.readRecord (s : State) (g w n : Nat) (f : List Byte → State → State) : State :=
  if !inOwn w n then s.tileFault g 3
  else s.readOwn g [(spadOf g + 4 * w, n)] fun s =>
    f (s.tileBytes g (spadOf g + 4 * w) n) (s.afterTileRead g (spadOf g + 4 * w) n)

section Record

variable {w n : Nat} {f : List Byte → State → State}

theorem readRecord_outside (h : inOwn w n = false) : s.readRecord g w n f = s.tileFault g 3 := by
  simp only [State.readRecord, h]
  rfl

theorem readRecord_inside (h : inOwn w n = true) : s.readRecord g w n f =
    s.readOwn g [(spadOf g + 4 * w, n)] fun s =>
      f (s.tileBytes g (spadOf g + 4 * w) n) (s.afterTileRead g (spadOf g + 4 * w) n) := by
  simp only [State.readRecord, h]
  rfl

theorem readRecord_poisoned (h : inOwn w n = true) (hbad : s.readPoisoned (spadOf g + 4 * w) n = true) :
    s.readRecord g w n f = (s.bankEvents (spadOf g + 4 * w) n).tileFault g 7 := by
  rw [readRecord_inside h, readOwn_poisoned (any_readPoisoned_singleton hbad), List.foldl_cons, List.foldl_nil]

theorem readRecord_reads (h : inOwn w n = true) (hgood : s.readPoisoned (spadOf g + 4 * w) n = false) :
    s.readRecord g w n f =
      f (s.tileBytes g (spadOf g + 4 * w) n) (s.afterTileRead g (spadOf g + 4 * w) n) := by
  rw [readRecord_inside h, readOwn_clean (any_readPoisoned_singleton hgood)]

end Record

end CoreStep

end Sys2Proof.Machine
end

section
/-! Waits, signals, live regions and grid tables. O46. -/

namespace Sys2Proof.Machine

open Sys2Proof.Safety

section Tile

variable {s : State} {g : Nat}

/-- These instructions run as one on the core they name (R101). -/
theorem exec_tileOp {i : Instr} (h : (∃ m, i = .dwait g m) ∨ (∃ m, i = .uwait g m) ∨ (∃ a b, i = .waits g a b) ∨
    (∃ a b, i = .sig g a b) ∨ (∃ e b l, i = .live g e b l) ∨ (∃ a b, i = .gridld g a b)) :
    ∃ f, ∀ s, exec i s = .next (s.tileOp g [] f) := by
  rcases h with ⟨m, rfl⟩ | ⟨m, rfl⟩ | ⟨a, b, rfl⟩ | ⟨a, b, rfl⟩ | ⟨e, b, l, rfl⟩ | ⟨a, b, rfl⟩
  · exact ⟨_, fun _ => rfl⟩
  · exact ⟨_, fun _ => rfl⟩
  · exact ⟨_, fun _ => rfl⟩
  · exact ⟨_, fun _ => rfl⟩
  · exact ⟨_, fun _ => rfl⟩
  · exact ⟨_, fun _ => rfl⟩

variable (h : s.ready g = true) (hfetch : s.fetchBad g = false)

include h hfetch

theorem exec_dwait (mask : Nat) : ∃ t, exec (.dwait g mask) s = .next t ∧ Becomes g s t
    (if (s.core g).dmaIdle mask = true then { s.core g with reg := (s.core g).reg.step }
      else { s.core g with wait := .dma mask }) :=
  ⟨_, exec_of_tileOp_unflipped rfl h hfetch, waitFor_idle h (.inl ⟨mask, rfl⟩)⟩

theorem exec_uwait (mask : Nat) : ∃ t, exec (.uwait g mask) s = .next t ∧ Becomes g s t
    (if (s.core g).unitsIdle mask = true then { s.core g with reg := (s.core g).reg.step }
      else { s.core g with wait := .units mask }) :=
  ⟨_, exec_of_tileOp_unflipped rfl h hfetch, waitFor_idle h (.inr ⟨mask, rfl⟩)⟩

theorem exec_waits (i c : Nat) : ∃ t, exec (.waits g i c) s = .next t ∧ Becomes g s t
    (if (s.core g).reg.get c ≤ (s.core g).reg.sems.getD (i % 16) 0 then
      { s.core g with reg := { (s.core g).reg.step with
        sems := (s.core g).reg.sems.set (i % 16) ((s.core g).reg.sems.getD (i % 16) 0 - (s.core g).reg.get c) } }
      else { s.core g with wait := .sem (i % 16) ((s.core g).reg.get c) }) := by
  obtain ⟨hrun, hwait⟩ := ready_iff.mp h
  obtain ⟨honly, hcore⟩ := Becomes.onCore hrun fun y =>
    wakeSem { y with wait := .sem (i % 16) ((s.core g).reg.get c) }
  refine ⟨_, exec_of_tileOp_unflipped rfl h hfetch, honly, hcore.trans ?_⟩
  unfold wakeSem
  dsimp only
  split
  · rw [← Core.noWait hwait]
    rfl
  · rfl

theorem exec_sig (r i : Nat) : ∃ t, exec (.sig g r i) s = .next t ∧ Becomes g s t
    { s.core g with
      sigs := if (s.core g).reg.ranks.getD ((s.core g).reg.get r) 0xFF = 0xFF then (s.core g).sigs
        else (s.core g).sigs ++ [((s.core g).reg.ranks.getD ((s.core g).reg.get r) 0xFF, i % 16)]
      reg := (s.core g).reg.step } := by
  refine ⟨_, exec_of_tileOp_unflipped rfl h hfetch, ?_⟩
  rw [State.advance, State.onReg, State.onCore_onCore]
  exact .onCore (ready_iff.mp h).1 _

/-- The live entries after a LIVE (R122, log 161). -/
def liveAfter (k : Core) (e b l : Nat) : List (Nat × Nat) :=
  k.reg.live.set (e % 16) (if k.reg.get l = 0 then (0, 0) else (k.reg.get b % 2 ^ 32, k.reg.get l))

theorem exec_live_fits {e b l : Nat} {j : Job} (hj : s.coreJob g = some j)
    (hfit : 4 * ((liveAfter (s.core g) e b l).map (·.2)).sum ≤ j.maxLive) :
    ∃ t, exec (.live g e b l) s = .next t ∧ Becomes g s t
      { s.core g with reg := { (s.core g).reg.step with live := liveAfter (s.core g) e b l } } := by
  refine ⟨s.onReg g fun r => { r.step with live := liveAfter (s.core g) e b l },
    (exec_of_tileOp_unflipped rfl h hfetch).trans (congrArg _ ?_), .onCore (ready_iff.mp h).1 _⟩
  rw [hj]
  exact if_neg (Nat.not_lt.mpr hfit)

theorem exec_live_beyond {e b l : Nat} {j : Job} (hj : s.coreJob g = some j)
    (hfit : j.maxLive < 4 * ((liveAfter (s.core g) e b l).map (·.2)).sum) :
    exec (.live g e b l) s = .next (s.tileFault g 6) := by
  refine (exec_of_tileOp_unflipped rfl h hfetch).trans (congrArg _ ?_)
  rw [hj]
  exact if_pos hfit

/-- The core holds the 16 bytes as grid table `i` and goes on (R74). -/
def loadGrid (g i : Nat) (t : List Byte) (u : State) : State :=
  u.onReg g fun r => { r.step with grids := r.grids.set i (t.map fun b => b.toInt) }

theorem exec_gridld (i a : Nat) :
    exec (.gridld g i a) s = .next (s.readRecord g ((s.core g).reg.get a) 16 (loadGrid g i)) :=
  exec_of_tileOp_unflipped (f := fun k u => u.readRecord g (k.reg.get a) 16 (loadGrid g i)) rfl h hfetch

theorem exec_gridld_loads {i a : Nat} (hin : inOwn ((s.core g).reg.get a) 16 = true)
    (hgood : s.readPoisoned (spadOf g + 4 * (s.core g).reg.get a) 16 = false) :
    ∃ t, exec (.gridld g i a) s = .next t ∧ Becomes g s t
      { s.core g with reg := { (s.core g).reg.step with
        grids := (s.core g).reg.grids.set i
          ((s.tileBytes g (spadOf g + 4 * (s.core g).reg.get a) 16).map fun b => b.toInt) } } :=
  ⟨_, (exec_gridld h hfetch i a).trans (congrArg _ (readRecord_reads hin hgood)),
    .onCore_drawn (ready_iff.mp h).1 (.afterTileRead s g _ 16) _⟩

end Tile

/-- Settles O46: each instruction by its equation, bad code bytes and a core that is not ready by `tileOp`. -/
theorem tileInstructionsSetTheCoreState : Obligations.TileInstructionsSetTheCoreState := by
  refine ⟨fun s g h hfetch => ⟨exec_dwait h hfetch, exec_uwait h hfetch, exec_waits h hfetch, exec_sig h hfetch,
    fun e b l j hj => ⟨exec_live_fits h hfetch hj, exec_live_beyond h hfetch hj⟩,
    fun i a => ⟨fun hout => ?_, fun hin hbad => ?_, fun hin hgood => ?_⟩⟩,
    fun s g i h hfetch hi => ?_, fun s g i h hi => ?_⟩
  · rw [exec_gridld h hfetch, readRecord_outside hout]
  · rw [exec_gridld h hfetch, readRecord_poisoned hin hbad]
  · obtain ⟨t, hexec, honly, hcore⟩ := exec_gridld_loads (i := i) h hfetch hin hgood
    exact ⟨t, hexec, honly, hcore, tileBytes_of_settled⟩
  · obtain ⟨f, hexec⟩ := exec_tileOp hi
    rw [hexec, tileOp_faults h hfetch]
  · obtain ⟨f, hexec⟩ := exec_tileOp hi
    rw [hexec, tileOp_unready h]

end Sys2Proof.Machine
end

section
/-! Descriptors that units take: MXM, VOP and DMA. -/

namespace Sys2Proof.Safety

open Sys2Proof.Machine

variable {s t : State}

/-! What a draw leaves as it was: poison, ranges, the inputs of units, and the map of cores. -/

theorem Drawn.readPoisoned (h : Drawn s t) (a n : Nat) : t.readPoisoned a n = s.readPoisoned a n := by
  obtain ⟨m, i, rfl⟩ := h
  rfl

theorem Drawn.rangesOk (h : Drawn s t) (g : Nat) (rd wr : List (Nat × Nat)) :
    t.rangesOk g rd wr = s.rangesOk g rd wr := by
  obtain ⟨m, i, rfl⟩ := h
  rfl

theorem Drawn.cores (h : Drawn s t) : t.cores = s.cores := by
  obtain ⟨m, i, rfl⟩ := h
  rfl

theorem Drawn.entering (h : Drawn s t) (g : Nat) (w : CoreWait) : t.entering g w = s.entering g w := by
  obtain ⟨m, i, rfl⟩ := h
  cases w <;> rfl

end Sys2Proof.Safety

namespace Sys2Proof.Machine

open Sys2Proof.Safety

section Issue

variable {s t u : State} {g : Nat} {k : Core} {flips : List Nat}

/-! What an issue finds turns on memory and on what its core has queued, not on what the core waits for. -/

theorem State.onCore_matrixIn (s : State) (g : Nat) (f : Core → Core) (base : Nat) (o : MatrixOp) :
    (s.onCore g f).matrixIn base o = s.matrixIn base o := by
  unfold State.onCore
  split <;> rfl

theorem State.onCore_vectorIn (s : State) (g : Nat) (f : Core → Core) (base : Nat) (v : VDesc) (p : List Byte) :
    (s.onCore g f).vectorIn base v p = s.vectorIn base v p := by
  unfold State.onCore
  split <;> rfl

theorem outputs_waiting (hrun : (s.core g).run = .running) (w : CoreWait) (ch : Nat) :
    (s.onCore g fun y => { y with wait := w }).outputs g ch = s.outputs g ch := by
  rw [State.outputs, s.onCore_core hrun]
  rfl

theorem entering_waiting (hrun : (s.core g).run = .running) (w i : CoreWait) :
    (s.onCore g fun y => { y with wait := w }).entering g i = s.entering g i := by
  cases i with
  | issueMatrix op => simp only [State.entering, State.onCore_matrixIn, outputs_waiting hrun]
  | issueVector op => simp only [State.entering, State.onCore_vectorIn, outputs_waiting hrun]
  | _ => rfl

/-- An issue to the matrix or vector unit that goes on joins its queue as it finds its unit (R87, R101). -/
theorem waitFor_joins {w : CoreWait} (hrun : (s.core g).run = .running)
    (hw : (∃ op, w = .issueMatrix op) ∨ ∃ op, w = .issueVector op)
    (hgo : ({ s.core g with wait := w } : Core).canGo = true) :
    s.waitFor g w = s.onCore g fun y => y.push (s.entering g w) := by
  rw [State.waitFor, State.resume, s.onCore_core hrun, if_neg (by simp [hgo])]
  rcases hw with ⟨op, rfl⟩ | ⟨op, rfl⟩
  · exact (s.onCore_onCore g _ _).trans (by rw [entering_waiting hrun]; rfl)
  · exact (s.onCore_onCore g _ _).trans (by rw [entering_waiting hrun]; rfl)

/-- An issue to the matrix or vector unit joins the queue where there is room, and else waits. -/
theorem waitFor_unit {w : CoreWait} {room : Prop} [Decidable room] (hd : Drawn s t) (h : s.ready g = true)
    (hw : (∃ op, w = .issueMatrix op) ∨ ∃ op, w = .issueVector op)
    (hroom : ({ s.core g with wait := w } : Core).canGo = true ↔ room) :
    Becomes g s (t.waitFor g w) (if room then
      { (s.core g).push (s.entering g w) with wait := (s.core g).wait } else { s.core g with wait := w }) := by
  obtain ⟨hrun, hwait⟩ := ready_iff.mp h
  have hrunt : (t.core g).run = .running := by rw [hd.core, hrun]
  rw [← hd.core] at hroom
  split
  · next hfree =>
    rw [waitFor_joins hrunt hw (hroom.mpr hfree), hd.entering, hwait]
    have hpush : ({ (s.core g).push (s.entering g w) with wait := .none } : Core) =
        (s.core g).push (s.entering g w) := by
      rcases hw with ⟨op, rfl⟩ | ⟨op, rfl⟩ <;> rfl
    rw [hpush]
    exact .onCore_drawn hrun hd _
  · next hfull =>
    rw [waitFor_waits w hrunt (Bool.eq_false_iff.mpr fun hgo => hfull (hroom.mp hgo))]
    exact .onCore_drawn hrun hd _

theorem waitFor_issueMatrix (hd : Drawn s t) (h : s.ready g = true) (o : MatrixOp) :
    Becomes g s (t.waitFor g (.issueMatrix o))
      (if (s.core g).matrix.length < 2 then { s.core g with
        matrix := (s.core g).matrix ++ [{ o with seen := s.matrixIn (spadOf g) o, early := s.outputs g 4 }]
        reg := (s.core g).reg.step }
      else { s.core g with wait := .issueMatrix o }) :=
  waitFor_unit hd h (.inl ⟨o, rfl⟩) decide_eq_true_iff

theorem waitFor_issueVector (hd : Drawn s t) (h : s.ready g = true) (o : VectorOp) :
    Becomes g s (t.waitFor g (.issueVector o))
      (if (s.core g).vector.length < 2 then { s.core g with
        vector := (s.core g).vector ++ [{ o with
          seen := s.vectorIn (spadOf g) (parseV o.desc) o.param, early := s.outputs g 4 }]
        reg := (s.core g).reg.step }
      else { s.core g with wait := .issueVector o }) :=
  waitFor_unit hd h (.inr ⟨o, rfl⟩) decide_eq_true_iff

/-- An entry set to one with the same view leaves the view of the list. -/
theorem map_set_same {α β : Type} {f : α → β} {l : List α} {i : Nat} {x d : α} (h : f x = f (l.getD i d)) :
    (l.set i x).map f = l.map f := by
  refine List.ext_getElem? fun j => ?_
  by_cases hj : i = j
  · subst hj
    by_cases hi : i < l.length
    · simp [hi, h]
    · simp [hi]
  · simp [hj]

/-- The head of a channel notes its source bytes; every descriptor stays in its place (R109, R110). -/
theorem startDma_keeps (hrun : (s.core g).run = .running) (ch : Nat) :
    ∃ q, Becomes g s (s.startDma g ch) { s.core g with dma := q } ∧
      q.map (List.map DmaOp.desc) = (s.core g).dma.map (List.map DmaOp.desc) := by
  have hsame : Becomes g s s { s.core g with dma := (s.core g).dma } := ⟨.refl g s, rfl⟩
  unfold State.startDma
  split
  · exact ⟨_, hsame, rfl⟩
  · next o rest hq =>
    dsimp only
    split
    · exact ⟨_, hsame, rfl⟩
    · refine ⟨_, .onCore hrun _, map_set_same (d := []) ?_⟩
      exact (congrArg (List.map DmaOp.desc) hq).symm

/-- A DMA descriptor: it joins its channel where there is room, and else waits (R109). -/
theorem waitFor_issueDma (hd : Drawn s t) (h : s.ready g = true) (ch : Nat) (d : List Byte) : ∃ q,
    Becomes g s (t.waitFor g (.issueDma ch d)) (if ((s.core g).dmaQueue ch).length < 8
      then { s.core g with dma := q, reg := (s.core g).reg.step } else { s.core g with wait := .issueDma ch d }) ∧
    q.map (List.map DmaOp.desc) =
      ((s.core g).dma.modify ch (· ++ [{ desc := d }])).map (List.map DmaOp.desc) := by
  obtain ⟨hrun, hwait⟩ := ready_iff.mp h
  have hrunt : (t.core g).run = .running := by rw [hd.core, hrun]
  by_cases hroom : ((s.core g).dmaQueue ch).length < 8
  · have hgo : ({ t.core g with wait := .issueDma ch d } : Core).canGo = true := by
      rw [hd.core]
      exact decide_eq_true hroom
    have hgoes : t.waitFor g (.issueDma ch d) =
        (t.onCore g fun y => y.push (.issueDma ch d)).startDma g ch := by
      rw [State.waitFor, State.resume, t.onCore_core hrunt, if_neg (by simp [hgo])]
      exact congrArg (·.startDma g ch) (t.onCore_onCore g _ _)
    obtain ⟨honly, hcore⟩ := Becomes.onCore_drawn hrun hd fun y => y.push (.issueDma ch d)
    obtain ⟨q, hq, hdesc⟩ := startDma_keeps (by rw [hcore]; exact hrun) ch
    rw [hcore] at hq hdesc
    refine ⟨q, ?_, hdesc⟩
    rw [if_pos hroom, hgoes, ← Core.noWait hwait]
    exact .of_only honly hq
  · refine ⟨_, ?_, rfl⟩
    rw [if_neg hroom, waitFor_waits (.issueDma ch d) hrunt (by rw [hd.core]; exact decide_eq_false hroom)]
    exact .onCore_drawn hrun hd _

/-! The three instructions, after their descriptor has been read (R99, R100, R145). -/

/-- The matrix instruction that MXM makes of its operands and of the grid tables as they stand (R77, R104). -/
def matrixOp (k : Core) (ga gw go m n : Nat) (d : List Byte) : MatrixOp :=
  { desc := d, act := k.reg.get ga, wt := k.reg.get gw, out := k.reg.get go, m := m, n := n, grids := k.reg.grids }

/-- MXM with its descriptor's bytes (R85, R99, R104). -/
def issueMxm (g : Nat) (k : Core) (o : MatrixOp) (u : State) : State :=
  if mxFormatBad o.desc o.m o.n || ((parseMx o.desc).cont && k.heldShape ≠ some (o.m, o.n)) then u.tileFault g 2
  else if !u.rangesOk g o.reads [o.writes] then u.tileFault g 3
  else u.waitFor g (.issueMatrix o)

/-- VOP with its descriptor's bytes (R106, R107, R196, R259). -/
def issueVop (g : Nat) (d : List Byte) (u : State) : State :=
  if vFormatBad d then u.tileFault g 2
  else if (parseV d).op = 0x11 && !maskCapable ((u.cores.map.getD g none).getD 0) then u.tileFault g 4
  else if !(parseV d).hasParam then u.vopBlock g d []
  else u.readRecord g (parseV d).param (parseV d).paramBytes fun p v => v.vopBlock g d p

/-- DMA with its descriptor's bytes (R109 to R111). -/
def issueDma (g ch : Nat) (d : List Byte) (u : State) : State :=
  if dmaFieldsBad d then u.tileFault g 5
  else u.readOwn g ((parseDma d).indexRange g) fun u =>
    let cause := u.dmaCause g (parseDma d)
      (if (parseDma d).gather && (parseDma d).xlate then [] else (parseDma d).srcs (u.plainBases g (parseDma d)))
    if cause ≠ 0 then u.tileFault g cause else u.waitFor g (.issueDma (ch % 4) d)

section Exec

variable (h : s.ready g = true) (hfetch : (s.flipParity (flips.filter isSpad)).fetchBad g = false)

include h hfetch

theorem exec_mxm (gd ga gw go m n : Nat) : exec (.mxm g gd ga gw go m n flips) s =
    .next ((s.flipParity (flips.filter isSpad)).readRecord g ((s.core g).reg.get gd) 32 fun d =>
      issueMxm g (s.core g) (matrixOp (s.core g) ga gw go m n d)) :=
  exec_of_tileOp (f := fun k u => u.readRecord g (k.reg.get gd) 32 fun d =>
    issueMxm g k (matrixOp k ga gw go m n d)) rfl h hfetch

theorem exec_vop (gd : Nat) : exec (.vop g gd flips) s =
    .next ((s.flipParity (flips.filter isSpad)).readRecord g ((s.core g).reg.get gd) 32 (issueVop g)) :=
  exec_of_tileOp (f := fun k u => u.readRecord g (k.reg.get gd) 32 (issueVop g)) rfl h hfetch

theorem exec_dma (ch gd : Nat) : exec (.dma g ch gd flips) s =
    .next ((s.flipParity (flips.filter isSpad)).readRecord g ((s.core g).reg.get gd) 64 (issueDma g ch)) :=
  exec_of_tileOp (f := fun k u => u.readRecord g (k.reg.get gd) 64 (issueDma g ch)) rfl h hfetch

end Exec

/-! What the checks of a descriptor answer, after the draws of its read. -/

theorem issueMxm_bad {o : MatrixOp}
    (h : (mxFormatBad o.desc o.m o.n || ((parseMx o.desc).cont && k.heldShape ≠ some (o.m, o.n))) = true) :
    issueMxm g k o s = s.tileFault g 2 := if_pos h

section Mxm

variable {o : MatrixOp} (hd : Drawn s t)
  (h : (mxFormatBad o.desc o.m o.n || ((parseMx o.desc).cont && k.heldShape ≠ some (o.m, o.n))) = false)

include hd h

theorem issueMxm_outside (hr : s.rangesOk g o.reads [o.writes] = false) : issueMxm g k o t = t.tileFault g 3 := by
  simp only [issueMxm, h, hd.rangesOk, hr]
  rfl

theorem issueMxm_takes (hr : s.rangesOk g o.reads [o.writes] = true) :
    issueMxm g k o t = t.waitFor g (.issueMatrix o) := by
  simp only [issueMxm, h, hd.rangesOk, hr]
  rfl

end Mxm

theorem issueVop_bad {d : List Byte} (h : vFormatBad d = true) : issueVop g d s = s.tileFault g 2 := if_pos h

section Vop

variable {d : List Byte} (hd : Drawn s t) (h : vFormatBad d = false)

include hd

theorem vopBlock_takes {p : List Byte} (harg : (parseV d).op = 0x10 → argBlock p = 16 ∨ argBlock p = 32)
    (hr : s.rangesOk g ((parseV d).reads p) ((parseV d).writes p) = true) :
    t.vopBlock g d p = t.waitFor g (.issueVector { desc := d, param := p }) := by
  have harg' : ¬(((parseV d).op = 0x10 && argBlock p ≠ 16 && argBlock p ≠ 32) = true) := by
    simp only [Bool.and_eq_true, decide_eq_true_eq]
    rintro ⟨⟨hop, h16⟩, h32⟩
    exact (harg hop).elim h16 h32
  rw [State.vopBlock, if_neg harg', if_neg (by rw [hd.rangesOk, hr]; decide)]

include h

theorem issueVop_unable
    (hable : ¬((parseV d).op ≠ 0x11 ∨ maskCapable ((s.cores.map.getD g none).getD 0) = true)) :
    issueVop g d t = t.tileFault g 4 := by
  rw [← hd.cores] at hable
  unfold issueVop
  rw [if_neg (by simp [h]), if_pos (by simpa using hable)]

/-- The parameter block `p` of a vector descriptor, where it has one, is what the tile reads (R259, log 30). -/
theorem issueVop_takes {p : List Byte} (hp : p = if (parseV d).hasParam = true then
      t.tileBytes g (spadOf g + 4 * (parseV d).param) (parseV d).paramBytes else [])
    (hable : (parseV d).op ≠ 0x11 ∨ maskCapable ((s.cores.map.getD g none).getD 0) = true)
    (hparam : (parseV d).hasParam = true → inOwn (parseV d).param (parseV d).paramBytes = true ∧
      s.readPoisoned (spadOf g + 4 * (parseV d).param) (parseV d).paramBytes = false)
    (harg : (parseV d).op = 0x10 → argBlock p = 16 ∨ argBlock p = 32)
    (hr : s.rangesOk g ((parseV d).reads p) ((parseV d).writes p) = true) :
    ∃ u, Drawn s u ∧ issueVop g d t = u.waitFor g (.issueVector { desc := d, param := p }) := by
  rw [← hd.cores] at hable
  unfold issueVop
  rw [if_neg (by simp [h]), if_neg (by simpa [imp_iff_not_or] using hable)]
  by_cases hhas : (parseV d).hasParam = true
  · obtain ⟨hin, hgood⟩ := hparam hhas
    have hdu := hd.trans (.afterTileRead t g (spadOf g + 4 * (parseV d).param) (parseV d).paramBytes)
    refine ⟨_, hdu, ?_⟩
    rw [if_neg (by simp [hhas]), readRecord_reads hin (by rw [hd.readPoisoned, hgood]),
      ← vopBlock_takes hdu harg hr, hp, if_pos hhas]
  · refine ⟨t, hd, ?_⟩
    rw [if_pos (by simp [hhas]), ← vopBlock_takes hd harg hr, hp, if_neg hhas]

end Vop

theorem issueDma_bad {ch : Nat} {d : List Byte} (h : dmaFieldsBad d = true) :
    issueDma g ch d s = s.tileFault g 5 := if_pos h

/-- The fault of a DMA descriptor as the channel checks it before it queues it, or 0 (R111). -/
def queueCause (g : Nat) (x : DmaDesc) (u : State) : Nat :=
  u.dmaCause g x (if (x.gather && x.xlate) = true then [] else x.srcs (u.plainBases g x))

theorem issueDma_checks {ch : Nat} {d : List Byte} (hd : Drawn s t) (h : dmaFieldsBad d = false)
    (hr : (((parseDma d).indexRange g).any fun r => s.readPoisoned r.1 r.2) = false) :
    issueDma g ch d t = if queueCause g (parseDma d) t ≠ 0 then t.tileFault g (queueCause g (parseDma d) t)
      else t.waitFor g (.issueDma (ch % 4) d) := by
  unfold issueDma
  rw [if_neg (by simp [h]), readOwn_clean (by simpa only [hd.readPoisoned] using hr)]
  rfl

end Issue

end Sys2Proof.Machine
end

section
/-! What units and DMA channels leave as they complete, and O47. -/

namespace Sys2Proof.Machine

open Sys2Proof.Safety

section Units

variable {s : State} {g : Nat} {flips : List Nat}

theorem State.bump_onCore (s : State) (g : Nat) (f : Core → Core) : (s.onCore g f).bump = s.bump.onCore g f := by
  have hphys : s.bump.physOf g = s.physOf g := rfl
  unfold State.onCore
  rw [hphys]
  split <;> rfl

/-- A completion at a core that runs is what its meaning makes of the core, after the flips. -/
theorem exec_of_unitOp {i : Instr} {f : Core → State → State} (hi : exec i s = .next (s.unitOp g flips f))
    (hrun : (s.core g).run = .running) : exec i s = .next (f (s.core g) (s.flipParity (flips.filter isSpad))) := by
  rw [hi]
  simp only [State.unitOp, hrun]
  rfl

/-- The accumulators that a matrix instruction finds held (R86). -/
def heldCodes (k : Core) : List Nat := match k.held with | some h => h.2.2 | none => []

/-- The flags of a result join the flag word as the unit gives its place up (R95). -/
def flagged (g : Nat) (x : State) (f : Core → Core) (n : Nat) : State :=
  x.bump.onCore g fun y => { f y with reg := { y.reg with flags := y.reg.flags ||| n } }

/-- The matrix unit completes `o` (R86, R92, R95). -/
def matrixDone (g : Nat) (k : Core) (o : MatrixOp) (rest : List MatrixOp) (u : State) : State :=
  if (parseMx o.desc).hold = true then
    (flagged g u (fun y => { y with
      matrix := rest, held := some (o.m, o.n, (u.matrixKept (spadOf g) o (heldCodes k)).1) })
      (u.matrixKept (spadOf g) o (heldCodes k)).2).resume g
  else
    (flagged g (u.write (spadOf g + 4 * o.out) (u.matrixOutput (spadOf g) o (heldCodes k)).1)
      (fun y => { y with matrix := rest, held := none }) (u.matrixOutput (spadOf g) o (heldCodes k)).2).resume g

/-- The vector unit completes `o` (R94, R95, R108). -/
def vectorDone (g : Nat) (o : VectorOp) (rest : List VectorOp) (u : State) : State :=
  (flagged g ((u.vectorOutput (spadOf g) o).1.foldl (fun x w => x.write (spadOf g + w.1) w.2) u)
    (fun y => { y with vector := rest }) (u.vectorOutput (spadOf g) o).2).resume g

section Exec

variable (hrun : (s.core g).run = .running)

include hrun

theorem exec_matrixComplete_empty (h : (s.core g).matrix = []) :
    exec (.matrixInstructionComplete g flips) s = .next (s.flipParity (flips.filter isSpad)) := by
  refine (exec_of_unitOp rfl hrun).trans (congrArg _ ?_)
  rw [h]

theorem exec_matrixComplete {o : MatrixOp} {rest : List MatrixOp} (h : (s.core g).matrix = o :: rest) :
    exec (.matrixInstructionComplete g flips) s = .next ((s.flipParity (flips.filter isSpad)).readOwn g
      (ownRanges g o.reads) (matrixDone g (s.core g) o rest)) := by
  refine (exec_of_unitOp rfl hrun).trans (congrArg _ ?_)
  rw [h]
  refine congrArg (State.readOwn _ g _) (funext fun u => ?_)
  by_cases hhold : (parseMx o.desc).hold = true
  · exact (if_pos hhold).trans ((congrArg (·.resume g) (u.bump_onCore g _)).trans (if_pos hhold).symm)
  · exact (if_neg hhold).trans (if_neg hhold).symm

theorem exec_vectorComplete_empty (h : (s.core g).vector = []) :
    exec (.vectorInstructionComplete g flips) s = .next (s.flipParity (flips.filter isSpad)) := by
  refine (exec_of_unitOp rfl hrun).trans (congrArg _ ?_)
  rw [h]

theorem exec_vectorComplete {o : VectorOp} {rest : List VectorOp} (h : (s.core g).vector = o :: rest) :
    exec (.vectorInstructionComplete g flips) s = .next ((s.flipParity (flips.filter isSpad)).readOwn g
      (ownRanges g ((parseV o.desc).reads o.param)) (vectorDone g o rest)) := by
  refine (exec_of_unitOp rfl hrun).trans (congrArg _ ?_)
  rw [h]
  rfl

theorem exec_dmaComplete_empty {ch : Nat} (h : (s.core g).dmaQueue ch = []) :
    exec (.dmaDescriptorComplete g ch flips) s = .next (s.flipParity (flips.filter isSpad)) := by
  refine (exec_of_unitOp rfl hrun).trans (congrArg _ ?_)
  rw [h]

end Exec

end Units

/-! A plain DMA run: one row of one plane, no gather (R110). -/

section Plain

variable {s : State} {g ch : Nat} {x : DmaDesc}

theorem length_dmaData (s : State) (g ch : Nat) (o : DmaOp) (free : Bool) (i a n : Nat) :
    (s.dmaData g ch o free i a n).length = n := by
  simp [State.dmaData]

theorem DmaDesc.runs_plain (h1 : x.cnt1 = 1) (h2 : x.cnt2 = 1) : x.runs = [(0, 0)] := by
  rw [DmaDesc.runs, h1, h2]
  rfl

theorem DmaDesc.dsts_plain (h1 : x.cnt1 = 1) (h2 : x.cnt2 = 1) : x.dsts = [(x.dst : Int)] := by
  simp [DmaDesc.dsts, DmaDesc.runs_plain h1 h2]

theorem DmaDesc.srcs_plain (h1 : x.cnt1 = 1) (h2 : x.cnt2 = 1) (hg : x.gather = false) :
    x.srcs (s.plainBases g x) = [(x.src : Int)] := by
  simp [DmaDesc.srcs, DmaDesc.runs_plain h1 h2, State.plainBases, h2, hg]

/-- A run without poison between places of this package: its bytes are carried to their place (R37, R103, R114). -/
theorem dmaRun_clean {o : DmaOp} {free : Bool} {i src dst : Nat} (hsrc : isPeer src = false)
    (hdst : isPeer dst = false) (hr : s.readPoisoned src x.len = false) (hw : s.writePoisoned dst x.len = false) :
    ∃ w, dmaRun g ch x o free { s := s } (i, src, dst) = { s := w } ∧
      w.mem = (s.write dst (s.dmaData g ch o free i src x.len)).mem ∧ OnlyCarried s w := by
  obtain ⟨data, hdata⟩ : ∃ data, data = s.dmaData g ch o free i src x.len := ⟨_, rfl⟩
  obtain ⟨u, hu⟩ : ∃ u, u = (s.carryRead (s.coreOrigin g) (g / 16 + 1) g src data).bump := ⟨_, rfl⟩
  have hring : u.offRing = s.offRing := by rw [hu]; simp
  have hlen : data.length = x.len := hdata ▸ length_dmaData ..
  have hwrite : u.dramWrite dst data [] = (false, u.write dst data) := by
    refine State.dramWrite_clean ?_
    rw [hlen, writePoisoned_of_carried (offCarry_of_offRing hring) (mem_of_offRing hring), hw]
  have hwritten : (u.write dst data).offCarry = u.offCarry := rfl
  have hcarry := (u.write dst data).carryWrite_offRing (s.coreOrigin g) (g / 16 + 1) g dst data
  refine ⟨(u.write dst data).carryWrite (s.coreOrigin g) (g / 16 + 1) g dst data, ?_, ?_, ?_⟩
  · simp only [dmaRun, Int.toNat_natCast, hsrc, hdst, hr, Bool.false_eq_true, if_false, Bool.and_false, ← hdata, ← hu,
      hwrite]
  · rw [mem_of_offRing hcarry, write_mem_congr (mem_of_offRing hring), hdata]
  · exact onlyCarried_iff.mpr ((offCarry_of_offRing hcarry).trans (hwritten.trans (offCarry_of_offRing hring)))

theorem dmaCopy_plain (o : DmaOp) (h1 : (parseDma o.desc).cnt1 = 1) (h2 : (parseDma o.desc).cnt2 = 1) :
    s.dmaCopy g ch o [((parseDma o.desc).src : Int)] = dmaRun g ch (parseDma o.desc) o
      (overlaps (parseDma o.desc).src (parseDma o.desc).len (parseDma o.desc).dst (parseDma o.desc).len) { s := s }
      (0, (parseDma o.desc).src, (parseDma o.desc).dst) := by
  simp [State.dmaCopy, DmaDesc.overlapsSelf, DmaDesc.dsts_plain h1 h2]

/-- A channel completes its oldest descriptor, a plain run that may go where it goes (R109, R111 to R113). -/
theorem exec_dmaComplete_plain {flips : List Nat} {o : DmaOp} {rest : List DmaOp}
    (hrun : (s.core g).run = .running) (hq : (s.core g).dmaQueue ch = o :: rest)
    (h1 : (parseDma o.desc).cnt1 = 1) (h2 : (parseDma o.desc).cnt2 = 1) (hg : (parseDma o.desc).gather = false)
    (hc : (s.flipParity (flips.filter isSpad)).dmaCause g (parseDma o.desc) [((parseDma o.desc).src : Int)] = 0)
    {w : State} (hw : dmaRun g ch (parseDma o.desc) o
      (overlaps (parseDma o.desc).src (parseDma o.desc).len (parseDma o.desc).dst (parseDma o.desc).len)
      { s := s.flipParity (flips.filter isSpad) } (0, (parseDma o.desc).src, (parseDma o.desc).dst) = { s := w }) :
    exec (.dmaDescriptorComplete g ch flips) s =
      .next (((w.onCore g fun y => { y with dma := y.dma.set ch rest }).startDma g ch).resume g) := by
  have hidx : (parseDma o.desc).indexRange g = [] := by simp [DmaDesc.indexRange, hg]
  refine (exec_of_unitOp rfl hrun).trans (congrArg _ ?_)
  rw [hq]
  dsimp only
  rw [hidx, readOwn_clean rfl]
  simp only [hg, Bool.false_and, Bool.false_eq_true, if_false, Bool.not_true, DmaDesc.srcs_plain h1 h2 hg, hc,
    dmaCopy_plain o h1 h2, hw, ne_eq, not_true_eq_false]

/-! Where scratchpads lie, in numbers (R60). -/

theorem isSpad_iff (a : Nat) : isSpad a = true ↔ 0x4000000000 ≤ a ∧ a < 0x4400000000 ∧
    (a - 0x4000000000) % 0x100000000 < 0x10000000 ∧ (a - 0x4000000000) % 0x1000000 < 0x600000 := by
  simp only [isSpad, Bool.and_eq_true, decide_eq_true_eq, and_assoc]
  rfl

theorem spadCore_within {a n j : Nat} (h : inSpad a n = true) (hj : j < n) : spadCore (a + j) = spadCore a := by
  simp only [inSpad, Bool.and_eq_true, decide_eq_true_eq, isSpad_iff] at h
  have hroom : (a - 0x4000000000) % 0x1000000 + n ≤ 0x600000 := h.2
  show (a + j - 0x4000000000) / 0x100000000 * 16 + (a + j - 0x4000000000) % 0x100000000 / 0x1000000 =
    (a - 0x4000000000) / 0x100000000 * 16 + (a - 0x4000000000) % 0x100000000 / 0x1000000
  omega

theorem not_isSpad_of_openDram {a n j : Nat} (h : inOpenDram a n = true) (hj : j < n) : ¬isSpad (a + j) = true := by
  simp only [inOpenDram, isDram, Bool.and_eq_true, decide_eq_true_eq] at h
  have hplace : (n ≤ 0x800000000 ∧ a < 0x2000000000) ∧ a % 0x800000000 + n ≤ 0x7FC000000 := h
  rw [isSpad_iff]
  omega

theorem not_isSpad_above {a : Nat} (h : hubBase ≤ a) : ¬isSpad a = true := by
  have hplace : 0x4800000000 ≤ a := h
  rw [isSpad_iff]
  omega

/-- A run that a descriptor may name lies in one scratchpad, or apart from all of them (R60 to R62, R111). -/
theorem spadCore_of_runOk {peer : Bool} {a n j : Nat} (h : s.runOk peer a n = true) (hp : isPeer a = false) (hj : j < n)
    (hspad : isSpad (a + j) = true) : isSpad a = true ∧ spadCore (a + j) = spadCore a := by
  simp only [State.runOk, Int.toNat_natCast, hp, Bool.and_eq_true, Bool.or_eq_true, Bool.and_false, Bool.false_and,
    Bool.false_eq_true, or_false] at h
  obtain ⟨-, ((hdram | ⟨hin, -⟩) | hhub) | hhost⟩ := h
  · exact absurd hspad (not_isSpad_of_openDram hdram hj)
  · exact ⟨(Bool.and_eq_true_iff.mp hin).1, spadCore_within hin hj⟩
  · simp only [inHub, Bool.and_eq_true, decide_eq_true_eq] at hhub
    exact absurd hspad (not_isSpad_above (by omega))
  · simp only [inHost, Bool.and_eq_true, decide_eq_true_eq] at hhost
    have hplace : hubBase ≤ hostBase := by decide
    exact absurd hspad (not_isSpad_above (by omega))

theorem runOk_of_dmaCause {a : Int} (h : s.dmaCause g x [a] = 0) : s.runOk x.peer a x.len = true := by
  unfold State.dmaCause at h
  split at h
  · contradiction
  · next hok =>
    simp only [List.any_eq_true, not_exists, not_and] at hok
    simpa using hok a (by simp)

theorem overlaps_of_byte {a n j b m : Nat} (hj : j < n) (h : overlaps (a + j) 1 b m = true) :
    overlaps a n b m = true := by
  simp only [overlaps, Bool.and_eq_true, decide_eq_true_eq] at h ⊢
  omega

/-- A byte of a run that meets nothing still to be written meets nothing itself (R103). -/
theorem early_of_byte {a n j : Nat} (hc : s.dmaCause g x [(a : Int)] = 0) (hlen : x.len = n) (hp : isPeer a = false)
    (hj : j < n) (h : s.early g ch a n = false) : s.early g ch (a + j) 1 = false := by
  rw [Bool.eq_false_iff] at h ⊢
  refine fun hbyte => h ?_
  obtain ⟨r, hr, hover⟩ := List.any_eq_true.mp hbyte
  refine List.any_eq_true.mpr ⟨r, ?_, overlaps_of_byte hj hover⟩
  rcases List.mem_append.mp hr with hr | hr
  · exact List.mem_append_left _ hr
  · split at hr
    · next hother =>
      obtain ⟨hspad, hne⟩ := Bool.and_eq_true_iff.mp hother
      obtain ⟨hspad', hcore⟩ := spadCore_of_runOk (hlen ▸ runOk_of_dmaCause hc) hp hj hspad
      rw [hcore] at hne hr
      refine List.mem_append_right _ ?_
      rw [if_pos (by rw [hspad', hne]; rfl)]
      exact hr
    · contradiction

/-- The bytes of a run that no unit has overwritten, nor has yet to write, are those of its source (R103, R113). -/
theorem dmaData_settled {o : DmaOp} {a n : Nat} (hc : s.dmaCause g x [(a : Int)] = 0) (hlen : x.len = n)
    (hp : isPeer a = false) (hseen : o.seen = some [s.bytesAt a n]) (h : s.early g ch a n = false) :
    s.dmaData g ch o false 0 a n = s.bytesAt a n := by
  refine List.ext_getElem (by simp [length_dmaData, State.bytesAt]) fun j hj _ => ?_
  have hj : j < n := by rwa [length_dmaData] at hj
  simp [State.dmaData, hseen, early_of_byte hc hlen hp hj h, State.bytesAt, hj]

end Plain

/-- Settles O47: an issue by its descriptor's checks and `waitFor`, a completion by the equation of its unit. -/
theorem unitsTakeTheirDescriptors : Obligations.UnitsTakeTheirDescriptors := by
  refine ⟨fun s g flips h => ?_, fun s g flips hrun => ?_, fun s g h => ?_⟩
  · intro u k hfetch
    have hready : u.ready g = true := h
    refine ⟨fun gd ga gw go m n => ?_, fun gd => ?_, fun ch gd => ?_⟩
    · have hexec := exec_mxm h hfetch gd ga gw go m n
      refine ⟨fun hout => ?_, fun hin hgood => ?_⟩
      · rw [hexec, readRecord_outside hout]
      · rw [hexec, readRecord_reads hin hgood]
        have hd := Drawn.afterTileRead u g (spadOf g + 4 * k.reg.get gd) 32
        exact ⟨fun hbad => congrArg _ (issueMxm_bad hbad), fun hbad hr => congrArg _ (issueMxm_outside hd hbad hr),
          fun hbad hr => ⟨_, congrArg _ (issueMxm_takes hd hbad hr), waitFor_issueMatrix hd hready _⟩⟩
    · have hexec := exec_vop h hfetch gd
      refine ⟨fun hout => ?_, fun hin hgood => ?_⟩
      · rw [hexec, readRecord_outside hout]
      · rw [hexec, readRecord_reads hin hgood]
        have hd := Drawn.afterTileRead u g (spadOf g + 4 * k.reg.get gd) 32
        refine ⟨fun hbad => congrArg _ (issueVop_bad hbad),
          fun hbad hable => congrArg _ (issueVop_unable hd hbad hable),
          fun hbad hable hparam harg hr => ?_⟩
        obtain ⟨t, hdt, htakes⟩ := issueVop_takes hd hbad rfl hable hparam harg hr
        exact ⟨_, congrArg _ htakes, waitFor_issueVector hdt hready _⟩
    · have hexec := exec_dma h hfetch ch gd
      refine ⟨fun hout => ?_, fun hin hgood => ?_⟩
      · rw [hexec, readRecord_outside hout]
      · rw [hexec, readRecord_reads hin hgood]
        have hd := Drawn.afterTileRead u g (spadOf g + 4 * k.reg.get gd) 64
        refine ⟨fun hbad => congrArg _ (issueDma_bad hbad), fun hbad hidx => ?_⟩
        have hcheck := issueDma_checks (ch := ch) hd hbad hidx
        refine ⟨fun hcause => congrArg _ (hcheck.trans (if_pos hcause)), fun hcause => ?_⟩
        obtain ⟨q, ⟨honly, hcore⟩, hdesc⟩ := waitFor_issueDma hd hready (ch % 4) (u.tileBytes g _ 64)
        exact ⟨_, q, congrArg _ (hcheck.trans (if_neg (not_not.mpr hcause))), honly, hcore, hdesc⟩
  · intro u k flagged
    refine ⟨exec_matrixComplete_empty hrun, fun o rest hq => ?_, exec_vectorComplete_empty hrun, fun o rest hq => ?_,
      fun ch => exec_dmaComplete_empty hrun, fun ch o rest hq => ?_⟩
    · have hexec := exec_matrixComplete (flips := flips) hrun hq
      refine ⟨fun hbad => ?_, fun hgood => ?_⟩
      · rw [hexec, readOwn_poisoned hbad]
      · rw [hexec, readOwn_clean hgood]
        exact ⟨fun hhold => congrArg _ (if_neg (by simp [hhold])), fun hhold => congrArg _ (if_pos hhold)⟩
    · have hexec := exec_vectorComplete (flips := flips) hrun hq
      refine ⟨fun hbad => ?_, fun hgood => ?_⟩
      · rw [hexec, readOwn_poisoned hbad]
      · rw [hexec, readOwn_clean hgood]
        rfl
    · intro x data h1 h2 hg hc hsrc hdst hr hw
      obtain ⟨w, hrunw, hmem, hcarried⟩ := dmaRun_clean (s := u) (g := g) (ch := ch) (x := x) (o := o)
        (free := overlaps x.src x.len x.dst x.len) (i := 0) hsrc hdst hr hw
      refine ⟨⟨w, exec_dmaComplete_plain hrun hq h1 h2 hg hc hrunw, hmem, hcarried⟩, fun hapart hseen hearly => ?_⟩
      show u.dmaData g ch o (overlaps x.src x.len x.dst x.len) 0 x.src x.len = _
      rw [hapart]
      exact dmaData_settled hc rfl hsrc hseen hearly
  · exact State.resume_stays (by rw [Core.canGo, h])

end Sys2Proof.Machine
end

section
/-! Scalar instructions and the reads of flags, time and ranks. O45. -/

namespace Sys2Proof.Machine

open Sys2Proof.Safety

section Scalar

variable {s t u : State} {g : Nat} {k : Core} {flips : List Nat}

/-! General registers (R98). -/

theorem RegBlock.set_zero (r : RegBlock) (v : Nat) : r.set 0 v = r := rfl

theorem RegBlock.get_zero (r : RegBlock) : r.get 0 = 0 := rfl

/-! Updates of the register block that a core's step ends with. -/

theorem Becomes.bump (h : Becomes g s t k) : Becomes g s t.bump k := ⟨h.1.bump, h.2⟩

theorem Becomes.onReg (h : (s.core g).run = .running) (f : RegBlock → RegBlock) :
    Becomes g s (s.onReg g f) { s.core g with reg := f (s.core g).reg } := .onCore h _

/-- A step of the core that writes a register and goes on, with the free draw that it may have used (log 2). -/
theorem Becomes.writesReg (h : (s.core g).run = .running) (d v : Nat) :
    Becomes g s (s.onReg g fun x => x.step.set d v).bump { s.core g with reg := (s.core g).reg.step.set d v } :=
  (Becomes.onReg h _).bump

/-- An instruction with bad code bytes, after the flips, is the fault of its fetch (R145). -/
theorem tileOp_faults_flipped {f : Core → State → State} (h : s.ready g = true)
    (hbad : (s.flipParity (flips.filter isSpad)).fetchBad g = true) :
    s.tileOp g flips f = (s.flipParity (flips.filter isSpad)).fetchFault g := by
  simp only [State.tileOp, h, hbad, if_true]

section Exec

variable (h : s.ready g = true) (hfetch : (s.flipParity (flips.filter isSpad)).fetchBad g = false)

include h hfetch

/-- A scalar instruction with good code bytes is its step, after the flips. -/
theorem exec_scalar (op : Scalar) : exec (.scalarInstruction g op flips) s =
    .next ((s.flipParity (flips.filter isSpad)).scalarStep g (s.core g) op) :=
  exec_of_tileOp (f := fun k u => u.scalarStep g k op) rfl h hfetch

/-- A scalar instruction whose step makes `k` of the core makes `k` of it. -/
theorem exec_scalar_becomes {op : Scalar}
    (hk : Becomes g (s.flipParity (flips.filter isSpad))
      ((s.flipParity (flips.filter isSpad)).scalarStep g (s.core g) op) k) :
    ∃ t, exec (.scalarInstruction g op flips) s = .next t ∧ OnlyCore g (s.flipParity (flips.filter isSpad)) t ∧
      t.core g = k :=
  ⟨_, exec_scalar h hfetch op, hk⟩

end Exec

/-! The step of each scalar instruction, on a running core. -/

section Step

variable (hrun : (u.core g).run = .running)

include hrun

theorem scalarStep_branch (c : BrCond) (a b target : Nat) :
    Becomes g u (u.scalarStep g (u.core g) (.branch c a b target)) { u.core g with reg := { (u.core g).reg with
      pc := if brTaken c (BitVec.ofNat 64 ((u.core g).reg.get a)) (BitVec.ofNat 64 ((u.core g).reg.get b)) = true
        then target else (u.core g).reg.pc + Config.instrWords } } := by
  unfold State.scalarStep
  dsimp only
  split
  · exact .onReg hrun _
  · exact .onReg hrun _

end Step

theorem scalarStep_load_outside {size d a : Nat} {sgn : Bool} {off : Int}
    (ho : scalarAddr (k.reg.get a) off size = none) :
    u.scalarStep g k (.load size sgn d a off) = u.tileFault g 3 := by
  simp only [State.scalarStep, ho]

/-- A load inside the scratchpad reads its bytes into the register (R99, R103). -/
theorem scalarStep_load_inside {size d a o : Nat} {sgn : Bool} {off : Int}
    (ho : scalarAddr (k.reg.get a) off size = some o) :
    u.scalarStep g k (.load size sgn d a off) = u.readOwn g [(spadOf g + o, size)] fun s =>
      (s.afterTileRead g (spadOf g + o) size).onReg g fun x =>
        x.step.set d (loadValue size sgn (leNat (s.tileBytes g (spadOf g + o) size))) := by
  simp only [State.scalarStep, ho]

theorem scalarStep_store_stores {size b a o : Nat} {off : Int} (ho : scalarAddr (k.reg.get a) off size = some o)
    (hcode : u.meetsCode (spadOf g + o) size = false) :
    u.scalarStep g k (.store size b a off) = (u.writeNat (spadOf g + o) size (k.reg.get b)).advance g := by
  simp only [State.scalarStep, ho, hcode]
  rfl

/-- A store outside the scratchpad or into the code region ends the tile (R99, R100). -/
theorem scalarStep_store_faults {size b a : Nat} {off : Int} (ho : scalarAddr (k.reg.get a) off size = none ∨
      ∃ o, scalarAddr (k.reg.get a) off size = some o ∧ u.meetsCode (spadOf g + o) size = true) :
    u.scalarStep g k (.store size b a off) = u.tileFault g 3 := by
  rcases ho with ho | ⟨o, ho, hcode⟩
  · simp only [State.scalarStep, ho]
  · simp only [State.scalarStep, ho, hcode]
    rfl

/-! FLAGRD, TSRD and RANKDPA (R14, R60, R95, R101). -/

/-- These instructions run as one on the core they name. -/
theorem exec_readOp {d r : Nat} {i : Instr} (hi : i = .flagrd g d ∨ i = .tsrd g d ∨ i = .rankdpa g d r) :
    ∃ f, ∀ s, exec i s = .next (s.tileOp g [] f) := by
  rcases hi with rfl | rfl | rfl
  · exact ⟨_, fun _ => rfl⟩
  · exact ⟨_, fun _ => rfl⟩
  · exact ⟨_, fun _ => rfl⟩

theorem exec_readOp_faults {d r : Nat} {i : Instr} (hi : i = .flagrd g d ∨ i = .tsrd g d ∨ i = .rankdpa g d r)
    (h : s.ready g = true) (hbad : s.fetchBad g = true) : exec i s = .next (s.fetchFault g) := by
  obtain ⟨f, hexec⟩ := exec_readOp hi
  rw [hexec, tileOp_faults h hbad]

section Reads

variable (h : s.ready g = true) (hfetch : s.fetchBad g = false) (d : Nat)

include h hfetch

theorem exec_flagrd : ∃ t, exec (.flagrd g d) s = .next t ∧ Becomes g s t
    { s.core g with reg := (s.core g).reg.step.set d (s.core g).reg.flags } :=
  ⟨_, exec_of_tileOp_unflipped rfl h hfetch, .onReg (ready_iff.mp h).1 _⟩

theorem exec_tsrd : ∃ t, exec (.tsrd g d) s = .next t ∧ Becomes g s t
    { s.core g with reg := (s.core g).reg.step.set d s.tsNow } :=
  ⟨_, exec_of_tileOp_unflipped rfl h hfetch, .writesReg (ready_iff.mp h).1 d _⟩

/-- The address that RANKDPA gives: a free one for a rank without a core (log 95). -/
def rankAddr (s : State) (g r : Nat) : Nat :=
  if (s.core g).reg.ranks.getD ((s.core g).reg.get r) 0xFF = 0xFF then s.draw 1
  else spadOf ((s.core g).reg.ranks.getD ((s.core g).reg.get r) 0xFF)

theorem exec_rankdpa (r : Nat) : ∃ t, exec (.rankdpa g d r) s = .next t ∧ Becomes g s t
    { s.core g with reg := (s.core g).reg.step.set d (rankAddr s g r) } :=
  ⟨_, exec_of_tileOp_unflipped rfl h hfetch, .writesReg (ready_iff.mp h).1 d _⟩

end Reads

theorem rankAddr_of_core {r c : Nat} (hc : (s.core g).reg.ranks.getD ((s.core g).reg.get r) 0xFF = c)
    (h : c ≠ 0xFF) : rankAddr s g r = spadOf c := by
  rw [rankAddr, hc, if_neg h]

end Scalar

/-- Settles O45: a scalar instruction is its step (`exec_scalar`), read off its case. -/
theorem scalarInstructionsWriteTheirRegister : Obligations.ScalarInstructionsWriteTheirRegister := by
  refine ⟨fun r v => ⟨r.set_zero v, r.get_zero⟩, fun s g flips h => ?_, fun s g d h hfetch => ?_,
    fun s g d r h hbad => ?_, fun s g h op flips => congrArg _ (tileOp_unready h)⟩
  · intro u k bv
    have hrun : (u.core g).run = .running := (ready_iff.mp h).1
    refine ⟨fun hbad op => ?_, fun hfetch => ⟨fun op d a b => ?_, fun op d a imm => ?_, fun c a b target => ?_,
      fun target => ?_, fun d target => ?_, fun a => ?_, fun size sgn d a off o ho hgood => ?_,
      fun size sgn d a off o ho hbad => ?_, fun size b a off o ho hcode => ?_, fun size sgn d a off ho => ?_,
      fun size b a off ho => ?_, exec_scalar h hfetch .undefined⟩⟩
    · exact congrArg _ (tileOp_faults_flipped h hbad)
    · exact exec_scalar_becomes h hfetch (.writesReg hrun d _)
    · exact exec_scalar_becomes h hfetch (.writesReg hrun d _)
    · exact exec_scalar_becomes h hfetch (scalarStep_branch hrun c a b target)
    · exact exec_scalar_becomes h hfetch (.onReg hrun fun x => { x with pc := target })
    · exact exec_scalar_becomes h hfetch
        (.onReg hrun fun x => { x.set d (x.pc + Config.instrWords) with pc := target })
    · exact exec_scalar_becomes h hfetch (.onReg hrun fun x => { x with pc := x.get a })
    · obtain ⟨honly, hcore⟩ := Becomes.onCore_drawn hrun (.afterTileRead u g (spadOf g + o) size) fun y =>
        { y with reg := y.reg.step.set d (loadValue size sgn (leNat (u.tileBytes g (spadOf g + o) size))) }
      refine ⟨_, _, ?_, honly, hcore, fun hearly => congrArg leNat (tileBytes_of_settled (s := u) hearly)⟩
      rw [exec_scalar h hfetch, scalarStep_load_inside ho, readOwn_clean (any_readPoisoned_singleton hgood)]
      rfl
    · rw [exec_scalar h hfetch, scalarStep_load_inside ho, readOwn_poisoned (any_readPoisoned_singleton hbad),
        List.foldl_cons, List.foldl_nil]
    · exact ⟨_, (exec_scalar h hfetch _).trans (congrArg _ (scalarStep_store_stores ho hcode)),
        Becomes.onReg (s := u.writeNat (spadOf g + o) size (k.reg.get b)) hrun _⟩
    · rw [exec_scalar h hfetch, scalarStep_load_outside ho]
    · exact (exec_scalar h hfetch _).trans (congrArg _ (scalarStep_store_faults ho))
  · obtain ⟨t, hexec, honly, hcore⟩ := exec_flagrd h hfetch d
    obtain ⟨t', hexec', honly', hcore'⟩ := exec_tsrd h hfetch d
    refine ⟨⟨t, hexec, honly, hcore⟩, ⟨t', hexec', honly', hcore'⟩, fun r => ?_⟩
    obtain ⟨w, hw, honlyw, hcorew⟩ := exec_rankdpa h hfetch d r
    exact ⟨w, _, hw, honlyw, hcorew, fun c hc => rankAddr_of_core hc⟩
  · exact ⟨exec_readOp_faults (r := r) (.inl rfl) h hbad, exec_readOp_faults (r := r) (.inr (.inl rfl)) h hbad,
      exec_readOp_faults (.inr (.inr rfl)) h hbad⟩

end Sys2Proof.Machine
end

section
/-! The desk view: the schedule with its jobs, and the cores. One lemma per operation that leaves both, or the schedule
alone, as they were, for the operations of which the end of a job and the freeing of a core are made; then what these
two do to the jobs (R119, R366). -/

namespace Sys2Proof.Machine

open Sys2Proof.Safety

/-- What only the schedule, jobs and tiles move (R98, R343, R359). -/
structure Desk where
  sch : Sch
  cores : Cores

/-- The desk view of a state. -/
def State.desk (s : State) : Desk := ⟨s.sch, s.cores⟩

theorem sch_of_desk {s t : State} (h : t.desk = s.desk) : t.sch = s.sch := congrArg Desk.sch h
theorem cores_of_desk {s t : State} (h : t.desk = s.desk) : t.cores = s.cores := congrArg Desk.cores h
theorem desk_of_offRing {s t : State} (h : t.offRing = s.offRing) : t.desk = s.desk :=
  show t.offRing.desk = s.offRing.desk by rw [h]

theorem KeepsBlocks.desk {r s : State} (h : KeepsBlocks r s) : s.desk = r.desk := by
  obtain ⟨-, -, -, -, -, -, hcores, -, -, hsch, -⟩ := h
  rw [State.desk, hcores, hsch, State.desk]

/-! Choices, folds and the updates of other blocks. -/

@[simp] theorem ite_desk {c : Prop} [Decidable c] (a b : State) :
    (if c then a else b).desk = if c then a.desk else b.desk := apply_ite State.desk c a b
@[simp] theorem foldl_desk {α : Type} {f : State → α → State} (hf : ∀ u i, (f u i).desk = u.desk) (l : List α)
    (s : State) : (l.foldl f s).desk = s.desk := foldl_keeps State.desk hf l s
@[simp] theorem foldl_desk_sch {α : Type} {f : State → α → State} (hf : ∀ u i, (f u i).desk.sch = u.desk.sch)
    (l : List α) (s : State) : (l.foldl f s).desk.sch = s.desk.sch := foldl_keeps (fun u => u.desk.sch) hf l s

@[simp] theorem State.onHl_desk (s : State) (f : HostLink → HostLink) : (s.onHl f).desk = s.desk := rfl
@[simp] theorem State.onDev_desk (s : State) (f : Dev → Dev) : (s.onDev f).desk = s.desk := rfl
@[simp] theorem State.onDram_desk (s : State) (d : Nat) (f : Dram → Dram) : (s.onDram d f).desk = s.desk := rfl
@[simp] theorem State.onKv_desk (s : State) (f : Kv → Kv) : (s.onKv f).desk = s.desk := rfl
@[simp] theorem State.onAsz_desk (s : State) (f : Asz → Asz) : (s.onAsz f).desk = s.desk := rfl
@[simp] theorem State.onSpr_desk (s : State) (f : Spr → Spr) : (s.onSpr f).desk = s.desk := rfl
@[simp] theorem State.onRec_desk (s : State) (f : Rec → Rec) : (s.onRec f).desk = s.desk := rfl
@[simp] theorem State.bump_desk (s : State) : s.bump.desk = s.desk := rfl
@[simp] theorem State.write_desk (s : State) (a : Nat) (bs : List Byte) : (s.write a bs).desk = s.desk := rfl
@[simp] theorem State.poisonGranules_desk (s : State) (gs : List Nat) (k : Bool) :
    (s.poisonGranules gs k).desk = s.desk := rfl
@[simp] theorem State.clearSpad_desk (s : State) (g : Nat) : (s.clearSpad g).desk = s.desk := rfl
@[simp] theorem State.onCtx_desk (s : State) (k : Nat) (f : Ctx → Ctx) : (s.onCtx k f).desk = s.desk :=
  KeepsBlocks.desk ((KeepsBlocks.refl s).onCtx k f)
@[simp] theorem State.onWd_desk (s : State) (w : Nat) (f : Watchdog → Watchdog) : (s.onWd w f).desk = s.desk := rfl
@[simp] theorem State.onPoolDie_desk (s : State) (id d : Nat) (f : PoolDie → PoolDie) :
    (s.onPoolDie id d f).desk = s.desk := rfl

@[simp] theorem State.onSch_desk_sch (s : State) (f : Sch → Sch) : (s.onSch f).desk.sch = f s.desk.sch := rfl
@[simp] theorem State.onCores_desk_sch (s : State) (f : Cores → Cores) : (s.onCores f).desk.sch = s.desk.sch := rfl
@[simp] theorem State.onPhys_desk_sch (s : State) (p : Nat) (f : Core → Core) :
    (s.onPhys p f).desk.sch = s.desk.sch := rfl
@[simp] theorem State.onCore_desk_sch (s : State) (g : Nat) (f : Core → Core) :
    (s.onCore g f).desk.sch = s.desk.sch := by
  unfold State.onCore
  split <;> rfl

/-! Records, events, completions, error windows and transfers. -/

@[simp] theorem State.sched_desk (s : State) (code : Nat) (part arg0 : Option Nat) :
    (s.sched code part arg0).desk = s.desk := rfl
@[simp] theorem State.capture_desk (s : State) (r : List Byte) : (s.capture r).desk = s.desk := by
  unfold State.capture
  split
  · rfl
  · simp
@[simp] theorem State.recTrigger_desk (s : State) (safety : Bool) : (s.recTrigger safety).desk = s.desk := by
  unfold State.recTrigger
  split <;> rfl
@[simp] theorem State.sendVector_desk (s : State) (v : Nat) : (s.sendVector v).desk = s.desk :=
  KeepsBlocks.desk ((KeepsBlocks.refl s).sendVector v)
@[simp] theorem State.produce_desk (s : State) (ring : Nat) (c : Completion) : (s.produce ring c).desk = s.desk :=
  KeepsBlocks.desk ((KeepsBlocks.refl s).produce ring c)
@[simp] theorem State.releaseCompletion_desk (s : State) (j : Job) (status : Nat) (overrun : Bool) :
    (s.releaseCompletion j status overrun).desk = s.desk := s.produce_desk _ _
@[simp] theorem State.endCompletion_desk (s : State) (j : Job) (status : Nat) :
    (s.endCompletion j status).desk = s.desk := s.produce_desk _ _
@[simp] theorem State.raiseEvent_desk (s : State) (v : Nat) : (s.raiseEvent v).desk = s.desk := by
  simp [State.raiseEvent]
@[simp] theorem State.setDegraded_desk (s : State) : s.setDegraded.desk = s.desk := by
  unfold State.setDegraded
  dsimp only
  split <;> simp [State.enterMode]
@[simp] theorem State.decideSafe_desk (s : State) (c : Nat) : (s.decideSafe c).desk = s.desk := by
  simp [State.decideSafe]
@[simp] theorem State.makeLasting_desk (s : State) (r : WearEntry) : (s.makeLasting r).desk = s.desk := by
  simp [State.makeLasting]
@[simp] theorem State.errEvent_desk (s : State) (r : WearEntry) : (s.errEvent r).desk = s.desk := by
  simp [State.errEvent]
@[simp] theorem State.retire_desk (s : State) (r : WearEntry) : (s.retire r).desk = s.desk := by
  simp [State.retire]
@[simp] theorem State.carryRead_desk (s : State) (o : Origin) (die req a : Nat) (data : List Byte) :
    (s.carryRead o die req a data).desk = s.desk := desk_of_offRing (s.carryRead_offRing o die req a data)
@[simp] theorem State.carryWrite_desk (s : State) (o : Origin) (die req a : Nat) (data : List Byte) :
    (s.carryWrite o die req a data).desk = s.desk := desk_of_offRing (s.carryWrite_offRing o die req a data)

/-! A write of hub DMA, whose accesses meet no error but poison (R159, R161). -/

@[simp] theorem State.withdrawBlock_desk (s : State) (r : WearEntry) : (s.withdrawBlock r).desk = s.desk := by
  simp [State.withdrawBlock]
@[simp] theorem State.remapRow_desk (s : State) (r : WearEntry) : (s.remapRow r).desk = s.desk := by
  simp [State.remapRow]
@[simp] theorem State.uncorrectableError_desk (s : State) (a : Nat) : (s.uncorrectableError a).desk = s.desk := by
  simp [State.uncorrectableError]
@[simp] theorem State.writeGranule_ok_desk (s : State) (a : Nat) (data : List Byte) (g : Nat) :
    (s.writeGranule a data g .ok).2.desk = s.desk := by
  unfold State.writeGranule
  dsimp only
  split <;> simp
@[simp] theorem writeGranules_nil_desk (a : Nat) (data : List Byte) (gs : List Nat) :
    ∀ s : State, (State.writeGranules a data gs [] s).2.desk = s.desk := by
  induction gs with
  | nil => intro s; rfl
  | cons g gs ih => intro s; exact (ih _).trans (s.writeGranule_ok_desk a data g)
@[simp] theorem State.dramWrite_nil_desk (s : State) (a : Nat) (data : List Byte) :
    (s.dramWrite a data []).2.desk = s.desk := by
  unfold State.dramWrite
  split
  · rfl
  · split
    · rfl
    · exact writeGranules_nil_desk a data _ s

/-! The frame table, the sample board and the watchdogs. -/

@[simp] theorem State.putBoard_desk (s : State) (st seq : Nat) (entry : List Byte) :
    (s.putBoard st seq entry).desk = s.desk := rfl
@[simp] theorem State.republish_desk (s : State) (g : Nat) : (s.republish g).desk = s.desk := by
  unfold State.republish
  exact foldl_desk (by simp) _ _
@[simp] theorem State.wdFaulty_desk (s : State) (w : Nat) : (s.wdFaulty w).desk = s.desk := by
  simp [State.wdFaulty]
@[simp] theorem State.wdStart_desk (s : State) (w : Nat) : (s.wdStart w).desk = s.desk := rfl
@[simp] theorem State.wdStop_desk (s : State) (w : Nat) : (s.wdStop w).desk = s.desk := by
  simp [State.wdStop]
@[simp] theorem State.kick_desk (s : State) (w : Nat) : (s.kick w).desk = s.desk := by
  unfold State.kick
  split
  · rfl
  · split <;> simp
@[simp] theorem State.setEntry_desk (s : State) (index : Nat) (e : FtEntry) : (s.setEntry index e).desk = s.desk := rfl
@[simp] theorem State.maybeReturn_desk (s : State) (index : Nat) : (s.maybeReturn index).desk = s.desk := by
  simp [State.maybeReturn, State.returnFrame]
@[simp] theorem State.ftRelease_desk (s : State) (index : Nat) : (s.ftRelease index).desk = s.desk := by
  simp [State.ftRelease]
@[simp] theorem State.unpin_desk (s : State) (index : Nat) : (s.unpin index).desk = s.desk := by
  simp [State.unpin]
@[simp] theorem State.addAlloc_desk (s : State) (a : Alloc) : (s.addAlloc a).desk = s.desk := rfl
@[simp] theorem State.dropAlloc_desk (s : State) (base : Nat) : (s.dropAlloc base).desk = s.desk := rfl

/-! Banks and cores: the schedule is as it was. -/

@[simp] theorem State.takeBank_desk_sch (s : State) (d u b : Nat) : (s.takeBank d u b).desk.sch = s.desk.sch := by
  simp only [State.takeBank, ite_desk, apply_ite Desk.sch, State.makeLasting_desk, State.retire_desk,
    State.onPhys_desk_sch, ite_self]
@[simp] theorem State.remap_desk_sch (s : State) (g : Nat) (q : Option Nat) : (s.remap g q).desk.sch = s.desk.sch := by
  unfold State.remap
  dsimp only
  split
  · rfl
  · cases q <;> simp
@[simp] theorem State.retireCore_desk_sch (s : State) (d u : Nat) (absent : Bool) :
    (s.retireCore d u absent).desk.sch = s.desk.sch := by
  simp [State.retireCore, apply_ite Desk.sch]
@[simp] theorem State.moveIdle_desk_sch (s : State) (g : Nat) : (s.moveIdle g).desk.sch = s.desk.sch := by
  unfold State.moveIdle
  split
  · rfl
  · simp [apply_ite Desk.sch]
@[simp] theorem State.beginSelftests_desk_sch (s : State) : s.beginSelftests.desk.sch = s.desk.sch :=
  foldl_desk_sch (fun u g => by simp [apply_ite Desk.sch]) _ s

/-! Jobs by their name. -/

theorem key_of_job {s : State} {k : JobKey} {j : Job} (h : s.job k = some j) : j.key = k := by
  simpa using List.find?_some h

theorem job_of_sch {s t : State} (h : t.sch = s.sch) (k : JobKey) : t.job k = s.job k := by
  rw [State.job, h, State.job]

/-- The job of a name is what an update of that name makes of it. -/
theorem job_onJob {k : JobKey} {f : Job → Job} (hf : ∀ i, (f i).key = i.key) (s : State) :
    (s.onJob k f).job k = (s.job k).map f := by
  have hkeys : ((fun i : Job => decide (i.key = k)) ∘ fun i => if i.key = k then f i else i) =
      fun i => decide (i.key = k) := by
    funext i
    by_cases hi : i.key = k <;> simp [hi, hf]
  have hmap : (s.onJob k f).job k = (s.job k).map fun i => if i.key = k then f i else i := by
    show List.find? _ (List.map _ s.sch.jobs) = _
    rw [List.find?_map, hkeys]
    rfl
  rw [hmap]
  exact Option.map_congr fun i hi => if_pos (key_of_job hi)

/-! Jobs end; nothing else of the schedule changes. -/

/-- The jobs of some names have ended; the schedule and the other jobs are as they were (R366). -/
def OnlyEnds (s t : State) : Prop :=
  ∃ p : JobKey → Bool, t.sch = { s.sch with jobs := s.sch.jobs.filter fun j => p j.key }

theorem OnlyEnds.of_sch {s t : State} (h : t.sch = s.sch) : OnlyEnds s t := ⟨fun _ => true, by simp [h]⟩

theorem OnlyEnds.refl (s : State) : OnlyEnds s s := .of_sch rfl

theorem OnlyEnds.trans {s t u : State} (h : OnlyEnds s t) (k : OnlyEnds t u) : OnlyEnds s u := by
  obtain ⟨p, hp⟩ := h
  obtain ⟨q, hq⟩ := k
  exact ⟨fun i => p i && q i, by simp [hq, hp, List.filter_filter, Bool.and_comm]⟩

theorem OnlyEnds.then_sch {s t u : State} (h : OnlyEnds s t) (k : u.sch = t.sch) : OnlyEnds s u := h.trans (.of_sch k)

theorem OnlyEnds.foldl {α : Type} {f : State → α → State} (hf : ∀ u i, OnlyEnds u (f u i)) (l : List α) :
    ∀ s, OnlyEnds s (l.foldl f s) := by
  induction l with
  | nil => exact .refl
  | cons i l ih => exact fun s => (hf s i).trans (ih _)

theorem OnlyEnds.slots {s t : State} (h : OnlyEnds s t) : t.sch.slots = s.sch.slots := by
  obtain ⟨p, hp⟩ := h
  rw [hp]

/-- A job is as it was, or has ended. -/
theorem OnlyEnds.job {s t : State} (h : OnlyEnds s t) (k : JobKey) : t.job k = s.job k ∨ t.job k = none := by
  obtain ⟨p, hp⟩ := h
  rw [State.job, hp, State.job, List.find?_filter]
  by_cases hk : p k = true
  · refine .inl (List.find?_congr fun j _ => ?_)
    by_cases hj : j.key = k <;> simp [hj, hk]
  · refine .inr (List.find?_eq_none.mpr fun j _ => ?_)
    by_cases hj : j.key = k <;> simp [hj, hk]

/-- The end of a job takes it from the table, and nothing else of the schedule (R222, R368). -/
@[simp] theorem State.endJob_desk_sch (s : State) (k : JobKey) (status : Nat) :
    (s.endJob k status).desk.sch = { s.desk.sch with jobs := s.desk.sch.jobs.filter fun j => j.key ≠ k } := by
  unfold State.endJob
  split
  · next h =>
    rw [List.filter_eq_self.mpr]
    simpa [State.job, State.desk] using h
  · simp [apply_ite Desk.sch]

theorem State.endJob_job (s : State) (k : JobKey) (status : Nat) : (s.endJob k status).job k = none := by
  have hsch := s.endJob_desk_sch k status
  rw [State.job, List.find?_eq_none]
  intro j hj
  have hmem : j ∈ (s.endJob k status).desk.sch.jobs := hj
  rw [hsch] at hmem
  simpa using (List.mem_filter.mp hmem).2

theorem OnlyEnds.endJob (s : State) (k : JobKey) (status : Nat) : OnlyEnds s (s.endJob k status) :=
  ⟨fun i => i ≠ k, s.endJob_desk_sch k status⟩

theorem OnlyEnds.retireIdle (s : State) (g : Nat) : OnlyEnds s (s.retireIdle g) := by
  have hmoved : (s.decideSafe 12 |>.moveIdle g).desk.sch = s.desk.sch := by simp
  unfold State.retireIdle
  dsimp only
  split
  · exact .refl s
  · split
    · exact .of_sch (s.moveIdle_desk_sch g)
    · have hsafe : OnlyEnds s (s.decideSafe 12) := .of_sch (sch_of_desk (s.decideSafe_desk 12))
      split
      · exact .of_sch hmoved
      · split
        · exact hsafe.trans (.endJob _ _ _)
        · exact hsafe

theorem OnlyEnds.serviceIdle (s : State) (g : Nat) : OnlyEnds s (s.serviceIdle g) := by
  unfold State.serviceIdle
  split
  · exact .refl s
  · dsimp only
    refine .trans (.of_sch ?_) (.retireIdle _ g)
    show (ite _ _ _ : State).desk.sch = s.desk.sch
    simp

/-- A core that is freed may make way for another, and jobs end there (R131, R373); none changes. -/
theorem OnlyEnds.freeCore (s : State) (g : Nat) : OnlyEnds s (s.freeCore g) := by
  have hcleared : (((((s.core g).readers.foldl State.ftRelease s).clearSpad g).republish g).onCore g
      Core.cleared).desk.sch = s.desk.sch := by simp
  exact ((OnlyEnds.of_sch hcleared).trans (.serviceIdle _ g)).then_sch (State.beginSelftests_desk_sch _)

/-! Nothing lasting on the device: no bank and no core waits for its retirement (R496, R502). -/

section Quiet

variable {s : State} (h : s.spr.lasting = [])

include h

theorem lastingBanks_quiet (d u : Nat) : s.lastingBanks d u = [] := by
  rw [State.lastingBanks, h]
  rfl

theorem coreDue_quiet (g : Nat) : s.coreDue g = false := by
  unfold State.coreDue
  split
  · simp [State.isLasting, h]
  · rfl

theorem serviceIdle_quiet (g : Nat) : s.serviceIdle g = s := by
  unfold State.serviceIdle
  split
  · rfl
  · simp [lastingBanks_quiet h, State.retireIdle, coreDue_quiet h]

theorem retireAtMark_quiet (g : Nat) : s.retireAtMark g = s := by
  unfold State.retireAtMark
  split
  · simp [coreDue_quiet h]
  · rfl

end Quiet

end Sys2Proof.Machine
end

section
/-! JOB.SUBMIT, JOB.CANCEL and JOB.QUERY. O40. -/

namespace Sys2Proof.Machine

open Sys2Proof.Safety

/-! Jobs that a context has accepted, over completions (R368). -/

/-- The count of accepted jobs of a context (R368). -/
def State.acceptedOf (s : State) (k : Nat) : Nat := (s.ctx k).accepted

theorem acceptedOf_of_ctxs {s t : State} (h : t.hl.ctxs = s.hl.ctxs) (hcan : t.hl.canCtx = s.hl.canCtx) (k : Nat) :
    t.acceptedOf k = s.acceptedOf k := by
  rw [State.acceptedOf, State.ctx, h, hcan, State.acceptedOf, State.ctx]

/-- A context with a command that may start is in the table (R411). -/
theorem ctx_of_startable {s : State} {c : Cmd} (h : s.startable c = true) :
    c.ring = 256 ∨ c.ring < s.hl.ctxs.length := by
  by_contra hout
  obtain ⟨hcan, hlen⟩ := not_or.mp hout
  have hctx : s.ctx c.ring = {} := by
    rw [State.ctx, if_neg hcan, List.getD_eq_default _ _ (Nat.le_of_not_lt hlen)]
  simp [State.startable, hctx] at h

theorem ctx_onCtx_same {s : State} {k : Nat} (h : k = 256 ∨ k < s.hl.ctxs.length) (f : Ctx → Ctx) :
    (s.onCtx k f).ctx k = f (s.ctx k) := by
  by_cases hk : k = 256
  · simp [State.onCtx, State.ctx, hk]
  · have hlt := h.resolve_left hk
    simp [State.onCtx, State.ctx, hk, hlt]

/-- An update of a context that leaves its count of accepted jobs leaves every context's. -/
theorem acceptedOf_onCtx {f : Ctx → Ctx} (hf : ∀ x, (f x).accepted = x.accepted) (s : State) (i k : Nat) :
    (s.onCtx i f).acceptedOf k = s.acceptedOf k := by
  unfold State.acceptedOf State.ctx State.onCtx
  by_cases hi : i = 256
  · by_cases hk : k = 256
    · simp [hi, hk, hf]
    · simp [hi, hk]
  · by_cases hk : k = 256
    · simp [hi, hk]
    · simp only [hi, hk, if_false, State.onHl_hl, List.getD_eq_getElem?_getD, List.getElem?_modify]
      by_cases hik : i = k
      · cases s.hl.ctxs[k]? <;> simp [hik, hf]
      · simp [hik]

theorem HostLink.grant_ctxs (n : Nat) : ∀ h : HostLink,
    (HostLink.grant n h).ctxs = h.ctxs ∧ (HostLink.grant n h).canCtx = h.canCtx := by
  induction n with
  | zero => exact fun _ => ⟨rfl, rfl⟩
  | succ n ih =>
    intro h
    have hslot : h.slot.ctxs = h.ctxs ∧ h.slot.canCtx = h.canCtx := by
      unfold HostLink.slot
      split <;> exact ⟨rfl, rfl⟩
    exact ⟨(ih _).1.trans hslot.1, (ih _).2.trans hslot.2⟩

@[simp] theorem acceptedOf_hostRequest (s : State) (engine : Nat) (write : Bool) (a n k : Nat) :
    (s.hostRequest engine write a n).acceptedOf k = s.acceptedOf k := by
  unfold State.hostRequest State.hostSlots
  split
  · rfl
  · split
    · exact acceptedOf_of_ctxs (HostLink.grant_ctxs _ _).1 (HostLink.grant_ctxs _ _).2 k
    · rfl

@[simp] theorem acceptedOf_sendVector (s : State) (v k : Nat) : (s.sendVector v).acceptedOf k = s.acceptedOf k := by
  unfold State.sendVector
  split <;> rfl

@[simp] theorem acceptedOf_releaseHeld (s : State) (i k : Nat) : (s.releaseHeld i).acceptedOf k = s.acceptedOf k := by
  unfold State.releaseHeld
  split
  · exact acceptedOf_hostRequest ..
  · rfl

@[simp] theorem acceptedOf_writeEntry (s : State) (ring addr : Nat) (bs : List Byte) (k : Nat) :
    (s.writeEntry ring addr bs).acceptedOf k = s.acceptedOf k := by
  unfold State.writeEntry
  dsimp only
  refine (foldl_keeps (fun u => u.acceptedOf k) (fun u i => acceptedOf_releaseHeld u i k) _ _).trans ?_
  split
  · exact acceptedOf_hostRequest ..
  · split
    · rfl
    · split
      · exact acceptedOf_hostRequest ..
      · rfl

@[simp] theorem acceptedOf_bump (s : State) (k : Nat) : s.bump.acceptedOf k = s.acceptedOf k := rfl

/-- The context from which a completion has been written (R418, R419, R424). -/
def Ctx.afterEntry (c : Completion) (x : Ctx) : Ctx :=
  let x := (if c.settles then x.settle c.seq else x).bumpTail
  { x with waiting := x.waiting.erase c, stalled := false }

theorem Ctx.afterEntry_accepted (c : Completion) (x : Ctx) : (x.afterEntry c).accepted = x.accepted := by
  cases h : c.settles <;> simp [Ctx.afterEntry, Ctx.bumpTail, Ctx.settle, h]

@[simp] theorem acceptedOf_writeCompletion (s : State) (ring : Nat) (c : Completion) (k : Nat) :
    (s.writeCompletion ring c).acceptedOf k = s.acceptedOf k := by
  have hwritten : ∀ u : State, (u.onCtx ring (Ctx.afterEntry c)).acceptedOf k = u.acceptedOf k := fun u =>
    acceptedOf_onCtx (Ctx.afterEntry_accepted c) u ring k
  unfold State.writeCompletion
  extract_lets x s1 s2
  have hs2 : s2.acceptedOf k = s.acceptedOf k := (hwritten s1).trans (by simp [s1])
  split
  · rw [acceptedOf_sendVector, acceptedOf_onCtx (by intro; rfl), hs2]
  · exact hs2

theorem acceptedOf_flush (ring k n : Nat) : ∀ s : State, (State.flush ring n s).acceptedOf k = s.acceptedOf k := by
  induction n with
  | zero => exact fun _ => rfl
  | succ n ih =>
    intro s
    unfold State.flush
    split
    · rfl
    · split
      · rfl
      · split
        · exact (ih _).trans (acceptedOf_writeCompletion s ring _ k)
        · exact acceptedOf_onCtx (by intro; rfl) s ring k

theorem acceptedOf_flushRing (s : State) (ring k : Nat) : (s.flushRing ring).acceptedOf k = s.acceptedOf k :=
  acceptedOf_flush ring k _ s

@[simp] theorem State.flushRing_desk (s : State) (ring : Nat) : (s.flushRing ring).desk = s.desk :=
  KeepsBlocks.desk (KeepsBlocks.flush ring _ (KeepsBlocks.refl s))

/-! Acceptance (R361, R367, R368). -/

/-- The job that JOB.SUBMIT puts into the table: its descriptor, with the arrays read, its place in the order and its
first release (R361, R430). -/
def State.jobOf (s : State) (c : Cmd) (j : Job) (areas : List Nat) : Job :=
  { j with
    seq := s.seqOf c, attn := s.bytesAt j.attnAddr (176 * fieldAt c.data 56 2)
    vision := s.bytesAt j.visionAddr (80 * fieldAt c.data 58 2)
    bindings := (recordsOf (s.bytesAt j.kvAddr (32 * fieldAt c.data 60 2)) 32).map parseBinding
    usesMask := (recordsOf (s.bytesAt j.attnAddr (176 * fieldAt c.data 56 2)) 176).any fun d => bitAt (fieldAt d 4 1) 1
    order := s.sch.nextOrder, acceptedLink := s.tb.link, saveAreas := areas
    released := j.mode = 0, releasePending := j.mode = 0, releases := bit01 (j.mode = 0) }

/-- The save areas are taken (R123). -/
def State.takeAreas (s : State) (j : Job) (areas : List Nat) : State :=
  (List.range 4).foldl (fun x d => if areas.getD d 0 = 0 then x
    else x.addAlloc { base := areas.getD d 0, size := s.coresOn j d * j.saveBytes, firmware := true }) s

/-- The job is entered and counted, and its watchdogs start (R361, R368, R388). -/
def State.enterJob (s : State) (ring : Nat) (j : Job) : State :=
  let s := s.onSch fun x => { x with jobs := x.jobs ++ [j], nextOrder := x.nextOrder + 1 }
  let s := s.onCtx ring fun x => { x with accepted := (x.accepted + 1) % 2 ^ 32 }
  let s := if j.partition = 0 then s.wdStart 0 else s
  if j.wdSlot ≠ 0xFF then s.wdStart j.wdSlot else s

theorem acceptJob_eq (s : State) (c : Cmd) (j : Job) (areas : List Nat) : s.acceptJob c j areas =
    let t := (s.takeAreas (s.jobOf c j areas) areas).enterJob c.ring (s.jobOf c j areas)
    if j.mode = 0 then t else (t.onCtx c.ring fun x => x.settle (s.seqOf c)).flushRing c.ring := rfl

@[simp] theorem State.takeAreas_desk (s : State) (j : Job) (areas : List Nat) : (s.takeAreas j areas).desk = s.desk :=
  foldl_desk (by simp) _ s

theorem takeAreas_ctxs (s : State) (j : Job) (areas : List Nat) :
    (s.takeAreas j areas).hl.ctxs = s.hl.ctxs ∧ (s.takeAreas j areas).hl.canCtx = s.hl.canCtx := by
  have hboth := foldl_keeps (fun u : State => (u.hl.ctxs, u.hl.canCtx)) (f := fun x d => if areas.getD d 0 = 0 then x
    else x.addAlloc { base := areas.getD d 0, size := s.coresOn j d * j.saveBytes, firmware := true })
    (fun u d => by split <;> rfl) (List.range 4) s
  exact Prod.mk.inj hboth

@[simp] theorem State.enterJob_desk_sch (s : State) (ring : Nat) (j : Job) : (s.enterJob ring j).desk.sch =
    { s.desk.sch with jobs := s.desk.sch.jobs ++ [j], nextOrder := s.desk.sch.nextOrder + 1 } := by
  simp [State.enterJob]

theorem enterJob_accepted {s : State} {ring : Nat} (h : ring = 256 ∨ ring < s.hl.ctxs.length) (j : Job) :
    (s.enterJob ring j).acceptedOf ring = (s.acceptedOf ring + 1) % 2 ^ 32 := by
  have hwd : ∀ (u : State) (w : Nat), (u.wdStart w).acceptedOf ring = u.acceptedOf ring := fun _ _ => rfl
  unfold State.enterJob
  extract_lets s1 s2 s3
  have h2 : s2.acceptedOf ring = (s.acceptedOf ring + 1) % 2 ^ 32 :=
    congrArg Ctx.accepted (ctx_onCtx_same (s := s1) h fun x => { x with accepted := (x.accepted + 1) % 2 ^ 32 })
  have h3 : s3.acceptedOf ring = s2.acceptedOf ring := by
    unfold s3
    split
    · exact hwd s2 0
    · rfl
  split
  · rw [hwd, h3, h2]
  · rw [h3, h2]

theorem acceptJob_sch (s : State) (c : Cmd) (j : Job) (areas : List Nat) : (s.acceptJob c j areas).sch =
    { s.sch with jobs := s.sch.jobs ++ [s.jobOf c j areas], nextOrder := s.sch.nextOrder + 1 } := by
  show (s.acceptJob c j areas).desk.sch = { s.desk.sch with
    jobs := s.desk.sch.jobs ++ [s.jobOf c j areas], nextOrder := s.desk.sch.nextOrder + 1 }
  rw [acceptJob_eq]
  simp

theorem acceptJob_accepted {s : State} {c : Cmd} (h : c.ring = 256 ∨ c.ring < s.hl.ctxs.length) (j : Job)
    (areas : List Nat) : ((s.acceptJob c j areas).ctx c.ring).accepted = ((s.ctx c.ring).accepted + 1) % 2 ^ 32 := by
  obtain ⟨hctxs, hcan⟩ := takeAreas_ctxs s (s.jobOf c j areas) areas
  have hentered := enterJob_accepted (s := s.takeAreas (s.jobOf c j areas) areas) (by rwa [hctxs]) (s.jobOf c j areas)
  rw [acceptedOf_of_ctxs hctxs hcan] at hentered
  show (s.acceptJob c j areas).acceptedOf c.ring = _
  rw [acceptJob_eq]
  dsimp only
  split
  · exact hentered
  · rw [acceptedOf_flushRing, acceptedOf_onCtx (by intro; rfl), hentered, State.acceptedOf]

/-- A descriptor that passes R360 names no job of the table (R431). -/
theorem job_none_of_submitStatus {s : State} {c : Cmd} {j : Job} (h : s.submitStatus c j = stOk) :
    s.job j.key = none := by
  have passes : ∀ {p : Prop} [Decidable p] {a b : Nat}, (if p then a else b) = stOk → a ≠ stOk → ¬p ∧ b = stOk :=
    fun hite ha => (ite_eq_iff.mp hite).resolve_left fun hbad => ha hbad.2
  obtain ⟨-, h⟩ := passes h (by decide)
  obtain ⟨-, h⟩ := passes h (by decide)
  obtain ⟨-, h⟩ := passes h (by decide)
  obtain ⟨hfields, -⟩ := passes h (by decide)
  rw [Bool.not_eq_true] at hfields
  have hfree : (s.job j.key).isSome = false := (Bool.or_eq_false_iff.mp hfields).2
  simpa using hfree

/-! The three commands where they start. -/

section Commands

variable {c : Cmd} {s : State}

theorem ctx_of_begun (h : s.startable c = true) : c.ring = 256 ∨ c.ring < (begun c s).hl.ctxs.length := by
  refine (ctx_of_startable h).imp_right fun hlt => ?_
  unfold begun State.onCtx
  split
  · exact hlt
  · simpa using hlt

theorem exec_jobSubmit_refused (h : Starts 3 1 c s) (hst : (begun c s).submitStatus c (parseJob c) ≠ stOk) :
    exec (.jobSubmit c) s = .next ((begun c s).complete c ((begun c s).submitStatus c (parseJob c))) :=
  congrArg Host.Outcome.next ((runCmd_starts h _).trans (if_pos hst))

theorem exec_jobSubmit_good (h : Starts 3 1 c s) (hst : (begun c s).submitStatus c (parseJob c) = stOk) :
    exec (.jobSubmit c) s = .next (match (begun c s).saveAreasFor (parseJob c) with
      | none => (begun c s).complete c stNoMemory
      | some areas => ((begun c s).bump).acceptJob c (parseJob c) areas) := by
  refine congrArg Host.Outcome.next ((runCmd_starts h _).trans ?_)
  exact if_neg (not_not.mpr hst)

theorem exec_jobSubmit_noRoom (h : Starts 3 1 c s) (hst : (begun c s).submitStatus c (parseJob c) = stOk)
    (hareas : (begun c s).saveAreasFor (parseJob c) = none) :
    exec (.jobSubmit c) s = .next ((begun c s).complete c stNoMemory) := by
  rw [exec_jobSubmit_good h hst, hareas]

theorem exec_jobSubmit_accepts (h : Starts 3 1 c s) (hst : (begun c s).submitStatus c (parseJob c) = stOk)
    {areas : List Nat} (hareas : (begun c s).saveAreasFor (parseJob c) = some areas) :
    exec (.jobSubmit c) s = .next ((begun c s).bump.acceptJob c (parseJob c) areas) := by
  rw [exec_jobSubmit_good h hst, hareas]

@[simp] theorem begun_namedJob (c : Cmd) (s : State) : (begun c s).namedJob c = s.namedJob c :=
  job_of_sch (begun_sch c s) _

@[simp] theorem begun_running (c : Cmd) (s : State) : (begun c s).running = s.running := by
  simp [State.running]

theorem exec_jobCancel_unnamed (h : Starts 3 2 c s) (hj : s.namedJob c = none) :
    exec (.jobCancel c) s = .next ((begun c s).complete c stBadParam) := by
  refine congrArg _ ((runCmd_starts h _).trans ?_)
  rw [begun_namedJob, hj]

theorem exec_jobCancel_named (h : Starts 3 2 c s) {j : Job} (hj : s.namedJob c = some j) :
    exec (.jobCancel c) s = .next (if (j.partition = 0 && (s.running || s.dev.mode = .replay)) = true
      then (begun c s).complete c stMode else ((begun c s).complete c stOk).requestEnd j.key stCancelled) := by
  refine congrArg _ ((runCmd_starts h _).trans ?_)
  simp only [begun_namedJob, hj, begun_running, begun_dev]

theorem exec_jobQuery_unnamed (h : Starts 3 3 c s) (hj : s.namedJob c = none) :
    exec (.jobQuery c) s = .next ((begun c s).complete c stBadParam) := by
  refine congrArg _ ((runCmd_starts h _).trans ?_)
  rw [begun_namedJob, hj]

theorem exec_jobQuery_named (h : Starts 3 3 c s) {j : Job} (hj : s.namedJob c = some j) :
    exec (.jobQuery c) s = .next ((begun c s).complete c (if j.state = .preempted then stPreempted else stOk)
      j.state.code j.releases (resultWord2 j.flagRec j.reruns false)) := by
  refine congrArg _ ((runCmd_starts h _).trans ?_)
  rw [begun_namedJob, hj]

end Commands

/-- A job without a core that is to end has ended (R366). -/
theorem requestEnd_unplaced {s : State} {k : JobKey} {j : Job} (hj : s.job k = some j) (hplaced : j.placed = [])
    (status : Nat) : (s.requestEnd k status).job k = none := by
  simp only [State.requestEnd, hj, hplaced, if_true]
  exact State.endJob_job _ k _

/-- What an accepted job is (R361, R367, R430). -/
theorem jobOf_accepts (u : State) (c : Cmd) (areas : List Nat) :
    let j := u.jobOf c (parseJob c) areas
    j.key = { ctx := c.ring, tag := c.tag } ∧ j.state = .queued ∧ j.placed = [] ∧ j.cores = (parseJob c).cores ∧
      j.partition = c.partition ∧ j.mode = (parseJob c).mode ∧ j.codeAddr = (parseJob c).codeAddr ∧
      j.entryPc = (parseJob c).entryPc ∧ j.saveAreas = areas ∧ j.order = u.sch.nextOrder ∧
      j.releasePending = decide (j.mode = 0) :=
  ⟨rfl, rfl, rfl, rfl, rfl, rfl, rfl, rfl, rfl, rfl, rfl⟩

/-- The entry of a job whose name was free is the job of that name. -/
theorem job_of_entered {s t : State} {j : Job} {k : JobKey} (hkey : j.key = k) (hfree : s.job k = none)
    (hjobs : t.sch.jobs = s.sch.jobs ++ [j]) : t.job k = some j := by
  rw [State.job] at hfree
  rw [State.job, hjobs, List.find?_append, hfree]
  simp [hkey]

/-- Settles O40: each command by its equation where it starts, acceptance by what it enters in the table. -/
theorem jobsAreSubmittedCancelledAndQueried : Obligations.JobsAreSubmittedCancelledAndQueried := by
  refine ⟨fun c s h hst => exec_jobSubmit_refused h hst, fun c s h hst hareas => exec_jobSubmit_noRoom h hst hareas,
    fun c s areas h hst hareas => ?_, fun c s h => ⟨exec_jobCancel_unnamed h, fun j hj => ⟨fun hp hmode => ?_,
      fun hp => ⟨?_, fun hplaced => ?_⟩⟩⟩,
    fun c s h => ⟨exec_jobQuery_unnamed h, fun j hj => exec_jobQuery_named h hj⟩⟩
  · obtain ⟨-, -, hstart, -⟩ := id h
    have hsch := acceptJob_sch (begun c s).bump c (parseJob c) areas
    have hfree : s.job { ctx := c.ring, tag := c.tag } = none := by
      rw [← job_of_sch (begun_sch c s)]
      exact job_none_of_submitStatus hst
    have hjobs : ((begun c s).bump.acceptJob c (parseJob c) areas).sch.jobs =
        s.sch.jobs ++ [(begun c s).bump.jobOf c (parseJob c) areas] := by
      rw [hsch, State.bump_sch, begun_sch]
    obtain ⟨hkey, hstate, hplaced, hcores, hpart, hmode, hcode, hpc, hareas', horder, hpending⟩ :=
      jobOf_accepts (begun c s).bump c areas
    refine ⟨_, _, exec_jobSubmit_accepts h hst hareas, job_of_entered hkey hfree hjobs, hjobs, hstate, hplaced, hcores,
      hpart, hmode, hcode, hpc, hareas', ?_, hpending, ?_, ?_⟩
    · rw [horder, State.bump_sch, begun_sch]
    · rw [hsch, State.bump_sch, begun_sch]
    · refine (acceptJob_accepted (s := (begun c s).bump) (ctx_of_begun hstart) _ _).trans ?_
      exact congrArg (fun n => (n + 1) % 2 ^ 32) (acceptedOf_onCtx (by intro; rfl) s c.ring c.ring)
  · rw [exec_jobCancel_named h hj, if_pos (by simpa [hp] using hmode)]
  · rw [exec_jobCancel_named h hj, if_neg (by simpa using hp)]
  · refine ⟨_, by rw [exec_jobCancel_named h hj, if_neg (by simpa using hp)], ?_⟩
    have hfound : ((begun c s).complete c stOk).job j.key = some j := by
      rw [key_of_job hj, ← hj, State.namedJob]
      exact job_of_sch (sch_of_desk (KeepsBlocks.desk ((KeepsBlocks.begun s c).complete ..))) _
    exact requestEnd_unplaced hfound hplaced stCancelled

end Sys2Proof.Machine
end

section
/-! Counted bank events, and the update of a core that is not idle (R100, R147). -/

namespace Sys2Proof.Safety

open Sys2Proof.Machine

section

variable {g : Nat} {s t : State} (h : OnlyCore g s t)

include h

theorem OnlyCore.sch : t.sch = s.sch := by rw [h.1]
theorem OnlyCore.mem : t.mem = s.mem := by rw [h.1]
theorem OnlyCore.hl : t.hl = s.hl := by rw [h.1]
theorem OnlyCore.kv : t.kv = s.kv := by rw [h.1]
theorem OnlyCore.spr : t.spr = s.spr := by rw [h.1]

end

end Sys2Proof.Safety

namespace Sys2Proof.Machine

open Sys2Proof.Safety

section Count

variable {s t u : State} {g : Nat}

/-- A logical core that is not as an absent one reads stands on a physical core of the table (R130, R131). -/
theorem physOf_of_core_ne (h : s.core g ≠ {}) : ∃ p, s.physOf g = some p ∧ p < s.cores.phys.length := by
  unfold State.core at h
  split at h
  · next p hp =>
    refine ⟨p, hp, Nat.lt_of_not_le fun hout => h ?_⟩
    rw [State.phys, List.getD_eq_default _ _ hout]
  · exact absurd rfl h

/-- The update of a core on a physical core of the table is what every logical core there then is. -/
theorem onCore_core_same {i p : Nat} (hi : s.physOf i = some p) (hg : s.physOf g = some p)
    (hlt : p < s.cores.phys.length) (f : Core → Core) : (s.onCore g f).core i = f (s.core i) := by
  have hi' : (s.onPhys p f).physOf i = some p := hi
  simp [State.onCore, State.core, State.phys, hg, hi, hi', hlt]

theorem onCore_core_of_ne (h : s.core g ≠ {}) (f : Core → Core) : (s.onCore g f).core g = f (s.core g) := by
  obtain ⟨p, hp, hlt⟩ := physOf_of_core_ne h
  exact onCore_core_same hp hp hlt f

/-- A logical core is as it was after the update of a core, or has had it. -/
theorem core_onCore_cases (s : State) (g i : Nat) (f : Core → Core) :
    (s.onCore g f).core i = s.core i ∨ (s.onCore g f).core i = f (s.core i) := by
  by_cases hi : s.physOf i = s.physOf g
  · cases hg : s.physOf g with
    | none => exact .inl (by simp only [State.onCore, hg])
    | some p =>
      by_cases hlt : p < s.cores.phys.length
      · exact .inr (onCore_core_same (hi.trans hg) hg hlt f)
      · have hi' : (s.onPhys p f).physOf i = some p := hi.trans hg
        exact .inl (by simp [State.onCore, State.core, State.phys, hg, hi.trans hg, hi', hlt])
  · exact .inl ((OnlyCore.onCore s g f).2 i hi)

/-! Events against banks change the counts of cores and the error windows (R147, R500). -/

/-- Cores count parity events, and the error windows follow; nothing else changes (R147). -/
def BankCounted (s t : State) : Prop :=
  t = { s with cores := { s.cores with phys := t.cores.phys }, spr := t.spr } ∧
    ∀ g, ∃ n b, t.core g = { s.core g with parityEvents := n, lastBank := b }

theorem BankCounted.refl (s : State) : BankCounted s s := ⟨rfl, fun _ => ⟨_, _, rfl⟩⟩

theorem BankCounted.trans (h : BankCounted s t) (k : BankCounted t u) : BankCounted s u := by
  refine ⟨?_, fun g => ?_⟩
  · have hu := k.1
    rw [h.1] at hu
    exact hu
  · obtain ⟨n, b, ht⟩ := h.2 g
    obtain ⟨n', b', hu⟩ := k.2 g
    exact ⟨n', b', by rw [hu, ht]⟩

theorem BankCounted.foldl {α : Type} {f : State → α → State} (hf : ∀ x i, BankCounted x (f x i)) (l : List α) :
    ∀ s, BankCounted s (l.foldl f s) := by
  induction l with
  | nil => exact .refl
  | cons i l ih => exact fun s => (hf s i).trans (ih _)

theorem BankCounted.errEvent (s : State) (r : WearEntry) : BankCounted s (s.errEvent r) := by
  have hspr : s.errEvent r = { s with spr := (s.errEvent r).spr } := by
    simp only [State.errEvent, State.makeLasting]
    split
    · rfl
    · split
      · split <;> rfl
      · rfl
  rw [hspr]
  exact ⟨rfl, fun _ => ⟨_, _, rfl⟩⟩

/-- A core on which an event against a bank has been counted. -/
def Core.counted (b : Nat) (k : Core) : Core := { k with parityEvents := satInc 65535 k.parityEvents, lastBank := b }

theorem BankCounted.count (s : State) (c b : Nat) : BankCounted s (s.onCore c (Core.counted b)) := by
  refine ⟨?_, fun g => ?_⟩
  · unfold State.onCore
    split <;> rfl
  · rcases core_onCore_cases s c g (Core.counted b) with h | h
    · exact ⟨_, _, h⟩
    · exact ⟨_, _, h⟩

theorem BankCounted.bankEvents (s : State) (a n : Nat) : BankCounted s (s.bankEvents a n) := by
  unfold State.bankEvents
  split
  · exact .refl s
  · exact .foldl (fun x b => (BankCounted.count x _ b).trans (.errEvent _ _)) _ s

theorem BankCounted.sch (h : BankCounted s t) : t.sch = s.sch := by rw [h.1]
theorem BankCounted.mem (h : BankCounted s t) : t.mem = s.mem := by rw [h.1]
theorem BankCounted.hl (h : BankCounted s t) : t.hl = s.hl := by rw [h.1]

theorem BankCounted.course (h : BankCounted s t) (g : Nat) :
    (t.core g).run = (s.core g).run ∧ (t.core g).job = (s.core g).job := by
  obtain ⟨n, b, ht⟩ := h.2 g
  rw [ht]
  exact ⟨rfl, rfl⟩

theorem core_of_cores (h : t.cores = s.cores) (g : Nat) : t.core g = s.core g := by
  unfold State.core State.physOf State.phys
  rw [h]

/-- Counters written back to their array change no job and no core's course (R432). -/
theorem writeCounters_leaves (s : State) (j : Job) (g : Nat) : (s.writeCounters j).sch = s.sch ∧
    ((s.writeCounters j).core g).run = (s.core g).run ∧ ((s.writeCounters j).core g).job = (s.core g).job := by
  by_cases hbad : s.countersBad j = true
  · have hcounted : BankCounted s (s.writeCounters j) := by
      rw [State.writeCounters, if_pos hbad]
      exact .foldl (fun x (r : Nat × Nat) => BankCounted.bankEvents x r.1 r.2) _ s
    exact ⟨hcounted.sch, hcounted.course g⟩
  · have hdesk : (s.writeCounters j).desk = s.desk := by
      rw [State.writeCounters, if_neg hbad]
      exact foldl_desk (by simp) _ s
    rw [core_of_cores (cores_of_desk hdesk) g]
    exact ⟨sch_of_desk hdesk, rfl, rfl⟩

end Count

end Sys2Proof.Machine
end

section
/-! TMARK and HALT with nothing to retire, the tile timer and self-test vectors. O48. -/

namespace Sys2Proof.Machine

open Sys2Proof.Safety

/-! What a mark makes of a core and of its job (R116, R129). -/

/-- The register block with which the next tile begins. -/
def RegBlock.marked (r : RegBlock) : RegBlock :=
  { r with flags := 0, tiles := r.tiles + 1, reruns := 0, pc := r.pc + Config.instrWords }

/-- A core after steps 2 to 4 of the mark sequence. -/
def Core.marked (k : Core) : Core :=
  { k with reg := k.reg.marked, snap := k.reg.marked, readers := [], sigs := [], held := none, wait := .none }

/-- A job that keeps flags of a tile in its record. -/
def Job.flagged (flags : Nat) (j : Job) : Job := { j with flagRec := j.flagRec ||| flags }

/-- A job of which a core has halted. -/
def Job.haltedOn (rank : Nat) (j : Job) : Job := { j with halted := j.halted ++ [rank] }

/-- A job whose release has ended on its last core, at no stop request (R363, R364). -/
def Job.endRelease (j : Job) : Job := { j with
  released := false, overrun := false, halted := []
  state := if j.state = .stopping then .stopping else .idle }

/-- A job that ends with a status. -/
def Job.endsWith (status : Nat) (j : Job) : Job := { j with endWith := some status }

/-- A job that has left a core. -/
def Job.leaves (g : Nat) (j : Job) : Job := { j with placed := j.placed.filter (· ≠ g) }

/-- A core that has halted. -/
def Core.halts (k : Core) : Core := { k with run := .halted, stopReq := false }

/-- A core and its job at a mark without readers and signals. -/
def State.atMark (s : State) (g : Nat) (j : Job) : State :=
  (s.onJob j.key (Job.flagged (s.core g).reg.flags)).onCore g Core.marked

section Mark

variable {s : State} {g : Nat} {j : Job}

theorem onJob_onCore (s : State) (k : JobKey) (f : Job → Job) (g : Nat) (m : Core → Core) :
    (s.onCore g m).onJob k f = (s.onJob k f).onCore g m := by
  have hphys : (s.onJob k f).physOf g = s.physOf g := rfl
  unfold State.onCore
  rw [hphys]
  split <;> rfl

theorem onCore_sch (s : State) (g : Nat) (m : Core → Core) : (s.onCore g m).sch = s.sch :=
  s.onCore_desk_sch g m

theorem onCore_tsNow (s : State) (g : Nat) (m : Core → Core) : (s.onCore g m).tsNow = s.tsNow := by
  unfold State.onCore
  split <;> rfl

/-- The job that runs on a core is the one of its name. -/
theorem coreJob_eq_some : s.coreJob g = some j ↔ (s.core g).job = some j.key ∧ s.job j.key = some j := by
  refine ⟨fun h => ?_, fun ⟨hk, hj⟩ => by rw [State.coreJob, hk, Option.bind_some, hj]⟩
  obtain ⟨k, hk, hj⟩ := Option.bind_eq_some_iff.mp h
  rw [key_of_job hj]
  exact ⟨hk, hj⟩

/-- A mark that has waited for its units is performed (R116). -/
theorem resume_mark {halt : Bool} (hwait : (s.core g).wait = .mark halt) (hgo : (s.core g).canGo = true) :
    s.resume g = s.mark g halt := by
  simp [State.resume, hgo, hwait]

/-- A running core at a mark with its units idle, nothing outstanding, and nothing lasting on the device (R116). -/
structure QuietMark (s : State) (g : Nat) (j : Job) : Prop where
  run : (s.core g).run = .running
  job : s.coreJob g = some j
  lasting : s.spr.lasting = []
  idle : (s.core g).allIdle = true
  readers : (s.core g).readers = []
  sigs : (s.core g).sigs = []
  migrating : (s.core g).migrating = none
  noStop : (s.core g).stopReq = false
  noEnd : j.endWith = none

namespace QuietMark

variable (h : QuietMark s g j)

include h

/-- The core at the mark, with the job's record written; nothing else has changed. -/
theorem becomes : Becomes g (s.onJob j.key (Job.flagged (s.core g).reg.flags)) (s.atMark g j) (s.core g).marked :=
  .onCore (s := s.onJob j.key (Job.flagged (s.core g).reg.flags)) h.run Core.marked

theorem core : (s.atMark g j).core g = (s.core g).marked := h.becomes.2

theorem atMark_job : (s.atMark g j).job j.key = some (j.flagged (s.core g).reg.flags) := by
  rw [State.atMark, job_of_sch (onCore_sch _ g _), job_onJob (by intro; rfl), (coreJob_eq_some.mp h.job).2]
  rfl

theorem atMark_coreJob : (s.atMark g j).coreJob g = some (j.flagged (s.core g).reg.flags) := by
  refine coreJob_eq_some.mpr ⟨?_, h.atMark_job⟩
  rw [h.core]
  exact (coreJob_eq_some.mp h.job).1

theorem atMark_lasting : (s.atMark g j).spr.lasting = [] := by
  rw [h.becomes.1.spr]
  exact h.lasting

theorem markSteps_eq (halt : Bool) :
    (s.onCore g fun y => { y with wait := .mark halt }).markSteps g = s.atMark g j := by
  have hkey := (coreJob_eq_some.mp h.job).1
  simp only [State.markSteps, s.onCore_core h.run, h.readers, h.sigs, hkey, List.foldl_nil]
  rw [onJob_onCore, State.onCore_onCore]
  rfl

/-- No bank of the core is to be copied or switched (R148). -/
theorem banksAtMark_eq : (s.atMark g j).banksAtMark g = s.atMark g j := by
  have hmigrating : ((s.atMark g j).core g).migrating = none := by
    rw [h.core]
    exact h.migrating
  unfold State.banksAtMark
  split
  · rfl
  · simp [hmigrating, lastingBanks_quiet h.atMark_lasting]

/-- The core halts, or goes on with the next tile. -/
theorem waitFor_eq (halt : Bool) : s.waitFor g (.mark halt) =
    if halt = true then (s.atMark g j).haltCore g else (s.atMark g j).nextTile g := by
  have hgo : ({ s.core g with wait := .mark halt } : Core).canGo = true := h.idle
  have hmark : s.waitFor g (.mark halt) = (s.onCore g fun y => { y with wait := .mark halt }).mark g halt := by
    rw [← s.onCore_core h.run fun y => { y with wait := .mark halt }] at hgo
    exact resume_mark (congrArg Core.wait (s.onCore_core h.run _)) hgo
  have hrun : ((s.atMark g j).core g).run = .running := by
    rw [h.core]
    exact h.run
  have hstop : ((s.atMark g j).core g).stopReq = false := by
    rw [h.core]
    exact h.noStop
  have hend : ((s.atMark g j).coreJob g).any (fun i => i.endWith.isSome) = false := by
    simp [h.atMark_coreJob, Job.flagged, h.noEnd]
  rw [hmark, State.mark, h.markSteps_eq, h.banksAtMark_eq, retireAtMark_quiet h.atMark_lasting]
  simp only [hrun, hstop, hend]
  cases halt <;> rfl

/-- The core of a tile that begins, with the job's record written; nothing else has changed. -/
theorem nextTile_becomes : Becomes g (s.onJob j.key (Job.flagged (s.core g).reg.flags)) ((s.atMark g j).nextTile g)
    { (s.core g).marked with tileStart := s.tsNow } := by
  have hts : (s.atMark g j).tsNow = s.tsNow := onCore_tsNow ..
  have hrun : ((s.atMark g j).core g).run = .running := by
    rw [h.core]
    exact h.run
  have hnext : Becomes g (s.atMark g j) ((s.atMark g j).nextTile g)
      { (s.atMark g j).core g with tileStart := (s.atMark g j).tsNow } := (Becomes.onCore hrun _).bump
  rw [hts, h.core] at hnext
  exact .of_only h.becomes.1 hnext

theorem nextTile_job : ((s.atMark g j).nextTile g).job j.key = some (j.flagged (s.core g).reg.flags) :=
  (job_of_sch (onCore_sch _ g _) _).trans h.atMark_job

end QuietMark

/-! HALT (R116, R362 to R364). -/

/-- A core and its job once the core has halted. -/
def State.coreHalted (s : State) (g : Nat) (j : Job) : State :=
  (s.onCore g Core.halts).onJob j.key (Job.haltedOn (s.core g).rank)

theorem coreHalted_job (hj : s.job j.key = some j) :
    (s.coreHalted g j).job j.key = some (j.haltedOn (s.core g).rank) := by
  rw [State.coreHalted, job_onJob (by intro; rfl), job_of_sch (onCore_sch s g _), hj]
  rfl

theorem coreHalted_core (hrun : (s.core g).run = .running) : (s.coreHalted g j).core g = (s.core g).halts :=
  s.onCore_core hrun _

theorem haltCore_others (hjob : s.coreJob g = some j) (hstate : j.state = .running)
    (hmore : j.halted.length + 1 < j.placed.length) : s.haltCore g = s.coreHalted g j := by
  have hall : decide (j.placed.length ≤ j.halted.length + 1) = false := by simpa using hmore
  simp only [State.haltCore, hjob, hall, hstate]
  rfl

theorem haltCore_last (hjob : s.coreJob g = some j) (hstate : j.state = .running)
    (hlast : j.placed.length = j.halted.length + 1) : s.haltCore g = (s.coreHalted g j).allHalted j.key := by
  have hall : decide (j.placed.length ≤ j.halted.length + 1) = true := by simp [hlast]
  simp only [State.haltCore, hjob, hall, hstate]
  rfl

/-- The end of a periodic or event job's release sets the job's release fields, and no core's course. -/
theorem allHalted_release {k : JobKey} (hj : s.job k = some j) (hmode : j.mode ≠ 0) (g : Nat) :
    (s.allHalted k).job k = some j.endRelease ∧ ((s.allHalted k).core g).run = (s.core g).run := by
  obtain ⟨hsch, hrun, -⟩ := writeCounters_leaves s j g
  obtain ⟨u, hends, hdesk⟩ : ∃ u : State, s.allHalted k = u.onJob k Job.endRelease ∧
      u.desk = (s.writeCounters j).desk := by
    simp only [State.allHalted, hj, if_neg hmode]
    exact ⟨_, rfl, by simp⟩
  rw [hends, job_onJob (by intro; rfl), job_of_sch ((sch_of_desk hdesk).trans hsch), hj]
  exact ⟨rfl, (congrArg Core.run (core_of_cores (cores_of_desk hdesk) g)).trans hrun⟩

theorem leaveCore_eq (s : State) (k : JobKey) (g : Nat) :
    s.leaveCore k g = match (s.onJob k (Job.leaves g)).job k with
      | none => s.onJob k (Job.leaves g)
      | some j => if j.placed = [] then (s.onJob k (Job.leaves g)).endJob k (j.endWith.getD stOk)
        else s.onJob k (Job.leaves g) := rfl

theorem leaveCore_last {k : JobKey} (h : s.job k = none ∨ ∃ i, s.job k = some i ∧ i.placed = [g]) :
    (s.leaveCore k g).job k = none := by
  have hjob : (s.onJob k (Job.leaves g)).job k = (s.job k).map (Job.leaves g) := job_onJob (by intro; rfl) s
  rw [leaveCore_eq, hjob]
  rcases h with hnone | ⟨i, hi, hplaced⟩
  · rw [hnone] at hjob ⊢
    exact hjob
  · have hleft : (i.leaves g).placed = [] := by simp [Job.leaves, hplaced]
    simp only [hi, Option.map_some, if_pos hleft]
    exact State.endJob_job ..

/-- A job ends with the last core that it is to end on (R366). -/
theorem endPart_last {k : JobKey} {i : Job} (hcore : (s.core g).job = some k) (hi : s.job k = some i)
    (hplaced : i.placed = [g]) : (s.endPart k g).job k = none := by
  unfold State.endPart
  split
  · exact leaveCore_last (.inr ⟨i, hi, hplaced⟩)
  · rw [State.endOnCore, hcore]
    refine leaveCore_last (((OnlyEnds.freeCore s g).job k).symm.imp_right fun hsame => ⟨i, hsame.trans hi, hplaced⟩)

/-- A once job ends when its only core has halted (R362). -/
theorem allHalted_once (hcore : (s.core g).job = some j.key) (hj : s.job j.key = some j) (hmode : j.mode = 0)
    (hplaced : j.placed = [g]) : (s.allHalted j.key).job j.key = none := by
  obtain ⟨hsch, -, hjob⟩ := writeCounters_leaves s j g
  obtain ⟨status, hends⟩ : ∃ status, s.allHalted j.key =
      ((s.writeCounters j).onJob j.key (Job.endsWith status)).endPart j.key g := by
    simp only [State.allHalted, hj, if_pos hmode, hplaced, List.foldl_cons, List.foldl_nil]
    exact ⟨_, rfl⟩
  rw [hends]
  refine endPart_last (i := j.endsWith status) (hjob.trans hcore) ?_ hplaced
  rw [job_onJob (by intro; rfl), job_of_sch hsch, hj]
  rfl

end Mark

/-! The two instructions, and the timer (R101, R115, R145). -/

section Exec

variable {s : State} {g : Nat} {flips : List Nat}

theorem exec_tmark (h : s.ready g = true) (hfetch : (s.flipParity (flips.filter isSpad)).fetchBad g = false) :
    exec (.tmark g flips) s = .next ((s.flipParity (flips.filter isSpad)).waitFor g (.mark false)) :=
  exec_of_tileOp (f := fun _ u => u.waitFor g (.mark false)) rfl h hfetch

theorem exec_halt (h : s.ready g = true) (hfetch : s.fetchBad g = false) :
    exec (.halt g) s = .next (s.waitFor g (.mark true)) :=
  exec_of_tileOp_unflipped (f := fun _ u => u.waitFor g (.mark true)) rfl h hfetch

/-- A mark waits while a unit is busy. -/
theorem waitFor_mark_busy (hrun : (s.core g).run = .running) (hbusy : (s.core g).allIdle = false) (halt : Bool) :
    Becomes g s (s.waitFor g (.mark halt)) { s.core g with wait := .mark halt } := by
  rw [waitFor_waits (.mark halt) hrun hbusy]
  exact .onCore hrun _

/-- The timer ends a tile that runs for over four links (R115). -/
theorem exec_tileTimerExpiry (s : State) (g : Nat) : exec (.tileTimerExpiry g) s =
    .next (if (s.core g).run = .running ∧ (s.core g).tileStart + 262144 ≤ s.tsNow then s.tileFault g 1 else s) := by
  refine congrArg Host.Outcome.next (if_congr ?_ rfl rfl)
  simp

/-- A self-test vector of a unit that is not under test changes nothing (R503). -/
theorem exec_selftestVector (s : State) (die u : Nat) (r : VectorResult) : exec (.selftestVector die u r) s =
    .next (if (s.phys (physIndex die u)).run ≠ .selftest ∧ (s.spareCores die).contains u = false ∧
        s.testsP0 die u = false then s
      else match r with
        | .pass => s.onPhys (physIndex die u) fun y => { y with testVector := y.testVector + 1 }
        | .coreFail => s.errEvent (coreEntry die u)
        | .bankFail b => s.errEvent { kind := 2, place := die, unit := u, detail := b }) := by
  refine congrArg Host.Outcome.next (if_congr ?_ rfl rfl)
  simp [and_assoc]

end Exec

/-- Settles O48: a quiet mark is `State.atMark`, from which TMARK and HALT each go their way. -/
theorem marksEndTilesAndJobs : Obligations.MarksEndTilesAndJobs := by
  refine ⟨fun s g flips j hready hjob hlasting hflipped hfetch => ?_, fun s g flips hready => ?_,
    fun s g hrun hlate => ?_, fun s g hearly => ?_, fun s g hrun => ?_, fun s die u => ⟨fun htest => ?_, ?_⟩⟩
  · intro k r hidle hreaders hsigs hmigrating hstop hend
    obtain ⟨hrun, -⟩ := ready_iff.mp hready
    have hmark : QuietMark s g j := ⟨hrun, hjob, hlasting, hidle, hreaders, hsigs, hmigrating, hstop, hend⟩
    have hhalt : exec (.halt g) s = .next ((s.atMark g j).haltCore g) := by
      rw [exec_halt hready hfetch, hmark.waitFor_eq]
      rfl
    have hmarkrun : ((s.atMark g j).core g).run = .running := by
      rw [hmark.core]
      exact hrun
    have hhalted : ((s.atMark g j).coreHalted g (j.flagged k.reg.flags)).core g = (s.core g).marked.halts := by
      rw [coreHalted_core hmarkrun, hmark.core]
    have hentry : ((s.atMark g j).coreHalted g (j.flagged k.reg.flags)).job j.key =
        some ((j.flagged k.reg.flags).haltedOn k.rank) := by
      refine (coreHalted_job (j := j.flagged k.reg.flags) hmark.atMark_job).trans ?_
      rw [hmark.core]
      rfl
    refine ⟨?_, fun hstate hmore => ?_, fun hstate hlast hmode => ?_, fun hstate hplaced hnone hmode => ?_⟩
    · have hu : QuietMark (s.flipParity (flips.filter isSpad)) g j :=
        ⟨hrun, hjob, hlasting, hidle, hreaders, hsigs, hmigrating, hstop, hend⟩
      obtain ⟨honly, hcore⟩ := hu.nextTile_becomes
      have hexec := (exec_tmark hready hflipped).trans (congrArg _ (hu.waitFor_eq false))
      refine ⟨(State.atMark _ g j).nextTile g, _, hexec, congrArg Core.reg hcore,
        congrArg Core.snap hcore, (congrArg Core.run hcore).trans hrun, congrArg Core.wait hcore,
        congrArg Core.held hcore, congrArg Core.tileStart hcore, hu.nextTile_job, rfl, ?_, ?_, fun i hi => honly.2 i hi⟩
      · rw [honly.mem]
        rfl
      · exact honly.hl
    · refine ⟨_, _, hhalt.trans (congrArg _ (haltCore_others hmark.atMark_coreJob hstate hmore)),
        congrArg Core.run hhalted, congrArg Core.snap hhalted, hentry, rfl, ?_⟩
      exact (OnlyCore.onCore (s.atMark g j) g Core.halts).mem.trans hmark.becomes.1.mem
    · obtain ⟨hjob', hrun'⟩ := allHalted_release hentry hmode g
      refine ⟨_, _, hhalt.trans (congrArg _ (haltCore_last hmark.atMark_coreJob hstate hlast)),
        hrun'.trans (congrArg Core.run hhalted), hjob', if_neg ?_, rfl, rfl, rfl, rfl, rfl⟩
      simp [Job.haltedOn, Job.flagged, hstate]
    · refine ⟨_, hhalt.trans (congrArg _ (haltCore_last hmark.atMark_coreJob hstate ?_)), ?_⟩
      · simp [Job.flagged, hplaced, hnone]
      · exact allHalted_once (j := (j.flagged k.reg.flags).haltedOn _)
          ((congrArg Core.job hhalted).trans (coreJob_eq_some.mp hjob).1) hentry hmode hplaced
  · obtain ⟨hrun, -⟩ := ready_iff.mp hready
    intro u
    refine ⟨fun hbad => congrArg Host.Outcome.next (tileOp_faults_flipped hready hbad),
      fun hbad => congrArg Host.Outcome.next (tileOp_faults hready hbad), fun hbusy hfetch => ?_,
      fun hbusy hfetch => ?_⟩
    · exact ⟨_, exec_tmark hready hfetch, waitFor_mark_busy (s := u) hrun hbusy false⟩
    · exact ⟨_, exec_halt hready hfetch, waitFor_mark_busy hrun hbusy true⟩
  · rw [exec_tileTimerExpiry, if_pos ⟨hrun, hlate⟩]
  · rw [exec_tileTimerExpiry, if_neg (by omega)]
  · rw [exec_tileTimerExpiry, if_neg (fun h => hrun h.1)]
  · have hunder : ¬((s.phys (physIndex die u)).run ≠ .selftest ∧ (s.spareCores die).contains u = false ∧
        s.testsP0 die u = false) := by
      rintro ⟨hrun, hspare, hp0⟩
      rcases htest with h | h | h
      · exact hrun h
      · exact absurd h (by simp only [hspare, Bool.false_eq_true, not_false_eq_true])
      · exact absurd h (by simp only [hp0, Bool.false_eq_true, not_false_eq_true])
    refine ⟨?_, ?_, fun b => ?_⟩
    · rw [exec_selftestVector, if_neg hunder]
    · rw [exec_selftestVector, if_neg hunder]
    · rw [exec_selftestVector, if_neg hunder]
  · intro hrun hspare hp0 r
    rw [exec_selftestVector, if_pos ⟨hrun, hspare, hp0⟩]

end Sys2Proof.Machine
end

section
/-! Self-test slots, BGD windows, saves and restores of contexts, and copies of banks. O44. -/

namespace Sys2Proof.Machine

open Sys2Proof.Safety

section Slots

variable {s : State} {g : Nat}

/-! Self-test slots (R367, R369). -/

/-- A core of a slot is tested if it is idle and holds no job. -/
def State.testIdle (s : State) (g : Nat) : State :=
  if (s.core g).job = none && (s.core g).run = .idle then
    s.onCore g fun y => { y with run := .selftest, unitsOn := true }
  else s

/-- A core under test is cleared and returns to placement. -/
def State.endTest (s : State) (g : Nat) : State := if (s.core g).run = .selftest then s.freeCore g else s

theorem OnlyEnds.endTest (s : State) (g : Nat) : OnlyEnds s (s.endTest g) := by
  unfold State.endTest
  split
  · exact .freeCore s g
  · exact .refl s

theorem beginSelftests_eq (s : State) :
    s.beginSelftests = (s.sch.slots.flatMap fun x => x.2.2.2).foldl State.testIdle s := rfl

theorem testIdle_only (s : State) (g : Nat) : OnlyCore g s (s.testIdle g) := by
  unfold State.testIdle
  split
  · exact .onCore ..
  · exact .refl g s

/-- A core is as it was when a core of a slot is tested, or is under test. -/
theorem testIdle_core (s : State) (g i : Nat) : (s.testIdle g).core i = s.core i ∨
    (s.testIdle g).core i = { s.core i with run := .selftest, unitsOn := true } := by
  unfold State.testIdle
  split
  · exact core_onCore_cases s g i _
  · exact .inl rfl

/-- A core that holds no job stands idle on a physical core, or is under test. -/
def State.Testable (s : State) (i p : Nat) : Prop :=
  s.physOf i = some p ∧ p < s.cores.phys.length ∧ (s.core i).job = none ∧
    ((s.core i).run = .idle ∨ (s.core i).run = .selftest)

theorem State.Testable.testIdle {i p : Nat} (h : s.Testable i p) (g : Nat) : (s.testIdle g).Testable i p := by
  obtain ⟨hp, hlt, hjob, hrun⟩ := h
  have hlen : (s.testIdle g).cores.phys.length = s.cores.phys.length := by
    unfold State.testIdle State.onCore
    split
    · split
      · exact List.length_modify ..
      · rfl
    · rfl
  refine ⟨((testIdle_only s g).physOf i).trans hp, hlen ▸ hlt, ?_⟩
  rcases testIdle_core s g i with h | h
  · rw [h]
    exact ⟨hjob, hrun⟩
  · rw [h]
    exact ⟨hjob, .inr rfl⟩

theorem State.Testable.tested {i p : Nat} (h : s.Testable i p) : ((s.testIdle i).core i).run = .selftest := by
  obtain ⟨hp, hlt, hjob, hidle | htest⟩ := h
  · have hnow : ((s.core i).job = none && (s.core i).run = .idle) = true := by simp [hjob, hidle]
    rw [State.testIdle, if_pos hnow, onCore_core_same hp hp hlt]
  · have hnot : ¬((s.core i).job = none && (s.core i).run = .idle) = true := by simp [htest]
    rw [State.testIdle, if_neg hnot, htest]

theorem selftest_foldl {i : Nat} (gs : List Nat) : ∀ s : State, (s.core i).run = .selftest →
    ((gs.foldl State.testIdle s).core i).run = .selftest := by
  induction gs with
  | nil => exact fun _ h => h
  | cons g gs ih =>
    intro s h
    refine ih _ ?_
    rcases testIdle_core s g i with hsame | htest
    · rwa [hsame]
    · rw [htest]

/-- Every core that may be tested is under test when all have been looked at. -/
theorem State.Testable.foldl {i p : Nat} (gs : List Nat) (hi : i ∈ gs) : ∀ s : State, s.Testable i p →
    ((gs.foldl State.testIdle s).core i).run = .selftest := by
  induction gs with
  | nil => contradiction
  | cons g gs ih =>
    intro s h
    by_cases hg : i = g
    · subst hg
      exact selftest_foldl gs _ h.tested
    · exact ih ((List.mem_cons.mp hi).resolve_left hg) _ (h.testIdle g)

theorem State.Testable.beginSelftests {i p : Nat} (h : s.Testable i p) {x : Nat × Nat × Nat × List Nat}
    (hx : x ∈ s.sch.slots) (hi : i ∈ x.2.2.2) : (s.beginSelftests.core i).run = .selftest := by
  rw [beginSelftests_eq]
  exact State.Testable.foldl _ (List.mem_flatMap.mpr ⟨x, hx, hi⟩) s h

theorem beginSelftests_mem (s : State) : s.beginSelftests.mem = s.mem := by
  rw [beginSelftests_eq]
  exact foldl_keeps State.mem (fun u i => (testIdle_only u i).mem) _ s

theorem beginSelftests_spr (s : State) : s.beginSelftests.spr = s.spr := by
  rw [beginSelftests_eq]
  exact foldl_keeps State.spr (fun u i => (testIdle_only u i).spr) _ s

theorem beginSelftests_sch (s : State) : s.beginSelftests.sch = s.sch := s.beginSelftests_desk_sch

/-- A self-test event whose cores hold no job opens the slot (R369). -/
theorem exec_rowEventSelftest_opens {ev : Nat} {e : RowEvent} (he : s.eventNow ev 2 = some e)
    (hcls : s.sch.classes.getD e.partition 7 = 3) (hnew : ∀ x ∈ s.sch.slots, x.1 ≠ e.partition)
    (hfree : ∀ j ∈ s.sch.jobs, ∀ i ∈ j.placed, bitAt (s.maskNow e.partition) i = false) :
    exec (.rowEventSelftest ev) s = .next (s.onSch fun x => { x with
      slots := x.slots ++ [(e.partition, s.tb.link, s.tb.link + e.length,
        (List.range 64).filter fun i => bitAt (s.maskNow e.partition) i && s.corePresent i)] }).beginSelftests := by
  have hany : (s.sch.slots.any fun x => x.1 = e.partition) = false := by simpa using hnew
  have hnone : (s.sch.jobs.filter fun j => j.placed.any
      ((List.range 64).filter fun i => bitAt (s.maskNow e.partition) i && s.corePresent i).contains) = [] := by
    refine List.filter_eq_nil_iff.mpr fun j hj hplaced => ?_
    obtain ⟨i, hi, hgs⟩ := List.any_eq_true.mp hplaced
    have hbit := (List.mem_filter.mp (List.contains_iff_mem.mp hgs)).2
    rw [hfree j hj i hi] at hbit
    contradiction
  refine congrArg Host.Outcome.next ?_
  simp only [he, hcls, hany, ne_eq, not_true_eq_false, if_false, Bool.false_eq_true, State.onSch_sch, hnone,
    List.foldl_nil]

theorem exec_rowEventSelftest_lengthens {ev : Nat} {e : RowEvent} (he : s.eventNow ev 2 = some e)
    (hcls : s.sch.classes.getD e.partition 7 = 3) (hany : (s.sch.slots.any fun x => x.1 = e.partition) = true) :
    exec (.rowEventSelftest ev) s = .next (s.onSch fun x => { x with slots := x.slots.map fun y =>
      if y.1 = e.partition then (y.1, y.2.1, max y.2.2.1 (s.tb.link + e.length), y.2.2.2) else y }) := by
  refine congrArg Host.Outcome.next ?_
  simp only [he, hcls, hany, ne_eq, not_true_eq_false, if_false, if_true]

/-- The end of a slot frees the cores under test that it holds. -/
theorem exec_selftestSlotEnd {part : Nat} {x : Nat × Nat × Nat × List Nat}
    (hx : (s.sch.slots.find? fun x => x.1 = part) = some x) : exec (.selftestSlotEnd part) s =
      .next (if s.tb.link + 1 < x.2.2.1 then s
        else x.2.2.2.foldl State.endTest
          (s.onSch fun y => { y with slots := y.slots.filter fun z => z.1 ≠ part })) := by
  refine congrArg Host.Outcome.next ?_
  simp only [hx]
  rfl

end Slots

/-! BGD windows (R349). -/

/-- The blocks that the exports of a window do not touch. -/
def State.besideExports (s : State) : Desk × Asz := (s.desk, s.asz)

theorem besideExports_of_keeps {s t : State} (h : KeepsBlocks s t) : t.besideExports = s.besideExports := by
  obtain ⟨-, -, -, -, -, -, hcores, -, -, hsch, -, -, hasz, -⟩ := h
  rw [State.besideExports, State.desk, hsch, hcores, hasz]
  rfl

theorem besideExports_of_offRing {s t : State} (h : t.offRing = s.offRing) : t.besideExports = s.besideExports :=
  show t.offRing.besideExports = s.offRing.besideExports by rw [h]

theorem runExport_besides (s : State) (o : Open) : (s.runExport o).besideExports = s.besideExports := by
  unfold State.runExport
  split
  · next a n flash _ =>
    extract_lets s1 bytes s2
    split
    · exact besideExports_of_keeps (((KeepsBlocks.refl s).onHl _).complete ..)
    · have hs2 : s2.besideExports = s.besideExports := by
        unfold s2
        split
        · rfl
        · exact (besideExports_of_offRing (s1.carryRead_offRing ..)).trans rfl
      exact (besideExports_of_keeps ((((KeepsBlocks.refl s2).write a bytes).hostRequest ..).complete ..)).trans hs2
  · rfl

theorem runExports_besides (s : State) : s.runExports.besideExports = s.besideExports := by
  unfold State.runExports
  split
  · rfl
  · exact foldl_keeps State.besideExports runExport_besides _ s

theorem exec_rowEventBgdWindow_opens {s : State} {ev : Nat} {e : RowEvent} (he : s.eventNow ev 3 = some e) :
    exec (.rowEventBgdWindow ev) s =
      .next (s.onSch fun x => { x with bgdUntil := max x.bgdUntil (s.tb.link + e.length) }).runExports := by
  refine congrArg Host.Outcome.next ?_
  simp only [he]

/-! Saves of contexts (R124, R126, R367). -/

/-- A job of which the save of a rank stands as saved. -/
def Job.savesRank (rank : Nat) (dead : Bool) (j : Job) : Job := { j with
  saves := j.saves.map fun o => if o.rank = rank then { o with done := true, poisoned := dead } else o }

/-- A job whose cores have all been saved (R367). -/
def Job.preempts (j : Job) : Job := { j with state := .preempted, placed := [] }

/-- A job whose release waits for its next placement. -/
def Job.keepsRelease (j : Job) : Job := { j with releasePending := j.releasePending || j.released }

/-- A core whose save stands. -/
def Core.saves (k : Core) : Core := { k with run := .saved }

/-- The save area of a core has been written, where it answers. -/
def State.fillSave (s : State) (g : Nat) (j : Job) : State :=
  if j.saveAddr g = 0 || s.dramDead (j.saveAddr g) then s
  else s.fillFree (j.saveAddr g) (1024 + (((s.core g).snap.live.map (·.2)).sum * 4))

/-- A core and its job once the save of the core stands. -/
def State.savedOn (s : State) (g : Nat) (j : Job) : State :=
  ((s.fillSave g j).onJob j.key (Job.savesRank (s.core g).rank (s.dramDead (j.saveAddr g)))).onCore g Core.saves

section Save

variable {s : State} {g : Nat} {j : Job}

theorem fillFree_keeps (s : State) (a n : Nat) :
    (s.fillFree a n).desk = s.desk ∧ (s.fillFree a n).kv = s.kv ∧ (s.fillFree a n).spr = s.spr := ⟨rfl, rfl, rfl⟩

theorem fillSave_keeps (s : State) (g : Nat) (j : Job) :
    (s.fillSave g j).desk = s.desk ∧ (s.fillSave g j).kv = s.kv ∧ (s.fillSave g j).spr = s.spr := by
  unfold State.fillSave
  split
  · exact ⟨rfl, rfl, rfl⟩
  · exact fillFree_keeps ..

theorem saveDone_eq (hjob : s.coreJob g = some j) : s.saveDone g = (s.savedOn g j).checkPreempted j.key := by
  simp only [State.saveDone, hjob]
  rfl

theorem exec_contextSaveDone (hrun : (s.core g).run = .saving) (hjob : s.coreJob g = some j) :
    exec (.contextSaveDone g) s = .next
      ((((s.savedOn g j).checkPreempted j.key).kv.seqs.map (·.id)).foldl State.driveOut
        ((s.savedOn g j).checkPreempted j.key)) := by
  rw [← saveDone_eq hjob]
  exact congrArg Host.Outcome.next (if_pos hrun)

theorem fillSave_core (i : Nat) : (s.fillSave g j).core i = s.core i :=
  core_of_cores (cores_of_desk (fillSave_keeps s g j).1) i

/-- A core once its save stands; the others are as they were. -/
theorem savedOn_only (s : State) (g : Nat) (j : Job) : OnlyCore g
    ((s.fillSave g j).onJob j.key (Job.savesRank (s.core g).rank (s.dramDead (j.saveAddr g)))) (s.savedOn g j) :=
  .onCore ..

theorem physOf_of_cores {s t : State} (h : t.cores = s.cores) (i : Nat) : t.physOf i = s.physOf i := by
  rw [State.physOf, h, State.physOf]

theorem savedOn_physOf (i : Nat) : (s.savedOn g j).physOf i = s.physOf i :=
  ((savedOn_only s g j).physOf i).trans (physOf_of_cores (cores_of_desk (fillSave_keeps s g j).1) i)

theorem savedOn_other {i : Nat} (h : s.physOf i ≠ s.physOf g) : (s.savedOn g j).core i = s.core i := by
  have hphys := physOf_of_cores (cores_of_desk (fillSave_keeps s g j).1)
  refine ((savedOn_only s g j).2 i ?_).trans (fillSave_core i)
  exact fun hsame => h (((hphys i).symm.trans hsame).trans (hphys g))

theorem savedOn_saved (hrun : (s.core g).run = .saving) : ((s.savedOn g j).core g).run = .saved := by
  have hcore : (s.fillSave g j).core g ≠ {} := by
    intro habsent
    rw [fillSave_core] at habsent
    rw [habsent] at hrun
    contradiction
  exact congrArg Core.run (onCore_core_of_ne (s := (s.fillSave g j).onJob j.key _) hcore Core.saves)

/-- A core that was saved stays saved. -/
theorem savedOn_still {i : Nat} (h : (s.core i).run = .saved) : ((s.savedOn g j).core i).run = .saved := by
  rcases core_onCore_cases ((s.fillSave g j).onJob j.key _) g i Core.saves with hsame | hsaved
  · exact (congrArg Core.run (hsame.trans (fillSave_core i))).trans h
  · exact congrArg Core.run hsaved

theorem savedOn_job (hjob : s.coreJob g = some j) : (s.savedOn g j).job j.key =
    some (j.savesRank (s.core g).rank (s.dramDead (j.saveAddr g))) := by
  rw [State.savedOn, job_of_sch (onCore_sch _ g _), job_onJob (by intro; rfl),
    job_of_sch (sch_of_desk (fillSave_keeps s g j).1), (coreJob_eq_some.mp hjob).2]
  rfl

/-- A job with a core whose save goes on is not preempted yet. -/
theorem checkPreempted_waits {k : JobKey} {i : Nat} (hj : s.job k = some j) (hi : i ∈ j.placed)
    (hphys : s.physOf i ≠ none) (hrun : (s.core i).run ≠ .saved) : s.checkPreempted k = s := by
  have hnot : (j.placed.all fun g => (s.core g).run = .saved || (s.physOf g).isNone) = false := by
    refine List.all_eq_false.mpr ⟨i, hi, ?_⟩
    simp [hrun, hphys]
  simp only [State.checkPreempted, hj, hnot, Bool.not_false, Bool.or_true, if_true]

/-- A core that leaves a preempted job where nothing is lasting changes no job and no error window. -/
theorem vacate_quiet (h : s.spr.lasting = []) (g : Nat) : (s.vacate g).sch = s.sch ∧ (s.vacate g).spr = s.spr := by
  have hspr : (s.onCore g Core.cleared).spr = s.spr := (OnlyCore.onCore s g _).spr
  have hvacate : s.vacate g = (s.onCore g Core.cleared).beginSelftests := by
    rw [State.vacate, serviceIdle_quiet (by rw [hspr, h])]
  rw [hvacate, beginSelftests_sch, beginSelftests_spr]
  exact ⟨onCore_sch s g _, hspr⟩

theorem vacate_foldl_sch (gs : List Nat) : ∀ s : State, s.spr.lasting = [] → (gs.foldl State.vacate s).sch = s.sch := by
  induction gs with
  | nil => exact fun _ _ => rfl
  | cons g gs ih =>
    intro s h
    obtain ⟨hsch, hspr⟩ := vacate_quiet h g
    exact (ih _ (by rw [hspr, h])).trans hsch

/-- A job whose cores are all saved is preempted. -/
theorem checkPreempted_preempts {k : JobKey} (hj : s.job k = some j) (hplaced : j.placed ≠ [])
    (hsaved : ∀ i ∈ j.placed, (s.core i).run = .saved) (hover : j.overrun = false) (hlasting : s.spr.lasting = []) :
    (s.checkPreempted k).job k = some j.preempts.keepsRelease := by
  have hall : (j.placed.all fun g => (s.core g).run = .saved || (s.physOf g).isNone) = true :=
    List.all_eq_true.mpr fun i hi => by simp [hsaved i hi]
  have heq : s.checkPreempted k = ((j.placed.foldl State.vacate s).onJob k Job.preempts).onJob k Job.keepsRelease := by
    simp only [State.checkPreempted, hj, hall, hover, hplaced, Bool.not_true, Bool.or_false, decide_false]
    rfl
  rw [heq, job_onJob (by intro; rfl), job_onJob (by intro; rfl), job_of_sch (vacate_foldl_sch j.placed s hlasting), hj]
  rfl

end Save

/-! Restores of contexts (R124, R143, R159, R432). -/

/-- Bytes have been written or cleared, or carried over the ring, and no poison has come. -/
structure Refills (s t : State) : Prop where
  sch : t.sch = s.sch
  hl : t.hl = s.hl
  cores : t.cores = s.cores
  dram : t.dram = s.dram
  pwr : t.pwr = s.pwr
  poison : ∀ i ∈ t.mem.poison, i ∈ s.mem.poison
  badParity : ∀ i ∈ t.mem.badParity, i ∈ s.mem.badParity

namespace Refills

variable {s t u : State}

theorem refl (s : State) : Refills s s := ⟨rfl, rfl, rfl, rfl, rfl, fun _ h => h, fun _ h => h⟩

theorem trans (h : Refills s t) (k : Refills t u) : Refills s u :=
  ⟨k.sch.trans h.sch, k.hl.trans h.hl, k.cores.trans h.cores, k.dram.trans h.dram, k.pwr.trans h.pwr,
    fun i hi => h.poison i (k.poison i hi), fun i hi => h.badParity i (k.badParity i hi)⟩

theorem of_offRing (h : t.offRing = s.offRing) : Refills s t := by
  have field {α : Type} (f : State → α) (hf : ∀ u : State, f u.offRing = f u) : f t = f s := by rw [← hf, h, hf]
  have hmem := mem_of_offRing h
  exact ⟨field State.sch fun _ => rfl, field State.hl fun _ => rfl, cores_of_offRing h, field State.dram fun _ => rfl,
    field State.pwr fun _ => rfl, hmem ▸ fun _ h => h, hmem ▸ fun _ h => h⟩

theorem write (s : State) (a : Nat) (bs : List Byte) : Refills s (s.write a bs) :=
  ⟨rfl, rfl, rfl, rfl, rfl, fun _ => List.mem_of_mem_filter, fun _ => List.mem_of_mem_filter⟩

theorem clearSpad (s : State) (g : Nat) : Refills s (s.clearSpad g) :=
  ⟨rfl, rfl, rfl, rfl, rfl, fun _ h => h, fun _ => List.mem_of_mem_filter⟩

theorem foldl {α : Type} {f : State → α → State} (hf : ∀ u i, Refills u (f u i)) (l : List α) :
    ∀ s, Refills s (l.foldl f s) := by
  induction l with
  | nil => exact refl
  | cons i l ih => exact fun s => (hf s i).trans (ih _)

/-- What reads clean still reads clean. -/
theorem clean (h : Refills s t) {a n : Nat} (hs : s.readPoisoned a n = false) : t.readPoisoned a n = false := by
  obtain ⟨hrange, hdead⟩ := Bool.or_eq_false_iff.mp hs
  obtain ⟨hpoison, hparity⟩ := Bool.or_eq_false_iff.mp hrange
  refine Bool.or_eq_false_iff.mpr ⟨Bool.or_eq_false_iff.mpr ⟨?_, ?_⟩, ?_⟩
  · exact List.any_eq_false.mpr fun g hg => List.any_eq_false.mp hpoison g (h.poison g hg)
  · exact List.any_eq_false.mpr fun b hb => List.any_eq_false.mp hparity b (h.badParity b hb)
  · rw [← hdead, State.dramDead, State.dramAt, h.dram, h.pwr]
    rfl

theorem loadCode {j : Job} (hcode : s.readPoisoned j.codeAddr j.codeBytes = false) (g : Nat) :
    Refills s (s.loadCode g j) := by
  rw [State.loadCode, State.afterRead, State.dramRead_clean hcode]
  exact (of_offRing (State.carryRead_offRing ..)).trans (.write ..)

theorem loadDescs (s : State) (g : Nat) (j : Job) : Refills s (s.loadDescs g j) :=
  (Refills.write ..).trans (of_offRing (State.carryWrite_offRing ..))

end Refills

/-- The scratchpad of a core as a restore makes it. -/
def State.restoreSpad (s : State) (g : Nat) (j : Job) (v : Saved) : State :=
  let s := if v.addr = 0 then s
    else s.carryRead (classOrigin j.cls) (g / 16 + 1) 0xFF v.addr (s.bytesAt v.addr v.bytes)
  ((v.regions.foldl (fun x r => x.write (spadOf g + r.1) r.2) (s.clearSpad g)).loadCode g j).loadDescs g j

theorem Refills.restoreSpad {s : State} {j : Job} (hcode : s.readPoisoned j.codeAddr j.codeBytes = false) (g : Nat)
    (v : Saved) : Refills s (s.restoreSpad g j v) := by
  unfold State.restoreSpad
  extract_lets s1
  have hcarried : Refills s s1 := by
    unfold s1
    split
    · exact .refl s
    · exact .of_offRing (State.carryRead_offRing ..)
  have hregions := (hcarried.trans (.clearSpad s1 g)).trans (Refills.foldl (f := fun x (r : Nat × List Byte) =>
    x.write (spadOf g + r.1) r.2) (fun u r => .write ..) v.regions (s1.clearSpad g))
  exact (hregions.trans (.loadCode (hregions.clean hcode) g)).trans (.loadDescs ..)

/-- A core whose tile begins at the restored context, or that stands at its HALT. -/
def Core.restored (r : RegBlock) (ts : Nat) (halted : Bool) (k : Core) : Core :=
  if halted then { k.startTile r ts with run := .halted } else k.startTile r ts

/-- What the core then is, and what the tile's begin leaves. -/
theorem onCore_restored {u : State} {g : Nat} (hne : u.core g ≠ {}) (r : RegBlock) (ts : Nat) (halted : Bool) :
    let t := (u.onCore g (Core.restored r ts halted)).bump
    (t.core g).run = (if halted = true then .halted else .running) ∧ (t.core g).reg = r ∧ (t.core g).snap = r ∧
      t.sch = u.sch ∧ t.hl = u.hl := by
  intro t
  have hcore : t.core g = (u.core g).restored r ts halted := onCore_core_of_ne hne _
  have honly : OnlyCore g u t := (OnlyCore.onCore u g _).bump
  rw [hcore, honly.sch, honly.hl]
  cases halted <;> exact ⟨rfl, rfl, rfl, rfl, rfl⟩

section Restore

variable {s : State} {g : Nat} {j : Job} {v : Saved} (hjob : s.coreJob g = some j)
  (hrun : (s.core g).run = .restoring) (hv : (j.saves.find? fun o => o.rank = (s.core g).rank) = some v)

include hjob hrun hv

theorem exec_contextRestoreDone_poisoned (hbad : v.poisoned = true ∨
      (v.addr ≠ 0 ∧ s.readPoisoned v.addr v.bytes = true) ∨ s.readPoisoned j.codeAddr j.codeBytes = true) :
    exec (.contextRestoreDone g) s = .next ((s.afterRead v.addr v.bytes).failOn g stMemPoison) := by
  have hcond : (v.poisoned || (v.addr ≠ 0 && s.readPoisoned v.addr v.bytes) ||
      s.readPoisoned j.codeAddr j.codeBytes) = true := by
    simpa [or_assoc] using hbad
  refine congrArg Host.Outcome.next ?_
  simp only [hjob, hv, hrun, ne_eq, not_true_eq_false, if_false]
  exact if_pos hcond

theorem exec_contextRestoreDone_good (hgood : v.poisoned = false)
    (harea : v.addr = 0 ∨ s.readPoisoned v.addr v.bytes = false)
    (hcode : s.readPoisoned j.codeAddr j.codeBytes = false) :
    exec (.contextRestoreDone g) s = .next ((s.restoreSpad g j v).onCore g
      (Core.restored { v.reg with ranks := rankTable j.placed } (s.restoreSpad g j v).tsNow
        (j.halted.contains (s.core g).rank))).bump := by
  have hcond : ¬(v.poisoned || (v.addr ≠ 0 && s.readPoisoned v.addr v.bytes) ||
      s.readPoisoned j.codeAddr j.codeBytes) = true := by
    rcases harea with h | h <;> simp [hgood, hcode, h]
  refine congrArg Host.Outcome.next ?_
  simp only [hjob, hv, hrun, ne_eq, not_true_eq_false, if_false]
  exact if_neg hcond

theorem contextRestoreDone_restores (hgood : v.poisoned = false)
    (harea : v.addr = 0 ∨ s.readPoisoned v.addr v.bytes = false)
    (hcode : s.readPoisoned j.codeAddr j.codeBytes = false) :
    ∃ t : State, exec (.contextRestoreDone g) s = .next t ∧
      (t.core g).run = (if (s.core g).rank ∈ j.halted then .halted else .running) ∧
      (t.core g).reg = { v.reg with ranks := rankTable j.placed } ∧ (t.core g).snap = (t.core g).reg ∧
      t.sch = s.sch ∧ t.hl = s.hl := by
  have hrefills := Refills.restoreSpad hcode g v
  have hexec := exec_contextRestoreDone_good hjob hrun hv hgood harea hcode
  have hne : (s.restoreSpad g j v).core g ≠ {} := by
    intro habsent
    rw [core_of_cores hrefills.cores] at habsent
    rw [habsent] at hrun
    contradiction
  obtain ⟨hr, hreg, hsnap, hsch, hhl⟩ := onCore_restored hne { v.reg with ranks := rankTable j.placed }
    (s.restoreSpad g j v).tsNow (j.halted.contains (s.core g).rank)
  exact ⟨_, hexec, hr.trans (if_congr List.contains_iff_mem rfl rfl), hreg, hsnap.trans hreg.symm,
    hsch.trans hrefills.sch, hhl.trans hrefills.hl⟩

end Restore

/-! Copies of banks (R147 to R149). -/

/-- A core whose bank copy is done. -/
def Core.copied (k : Core) : Core := { k with copyDone := true }

section Copy

variable {s : State} {g b : Nat} {flips : List Nat}

/-- The events against the words that failed parity in a copy. -/
def State.countWords (s : State) (g b : Nat) : State := (s.bankWords g b).foldl (fun x w => x.bankEvents w 4) s

theorem BankCounted.countWords (s : State) (g b : Nat) : BankCounted s (s.countWords g b) :=
  .foldl (fun x w => .bankEvents x w 4) _ s

theorem exec_bankMigrationDone (h : (s.core g).migrating = some b) : exec (.bankMigrationDone g flips) s =
    .next (((s.flipParity (flips.filter isSpad)).countWords g b).onCore g Core.copied) := by
  refine congrArg Host.Outcome.next ?_
  simp only [h]
  rfl

/-- A finished copy is noted, and nothing that the copied words hold has changed. -/
theorem bankMigrationDone_notes (hb : (s.core g).migrating = some b) :
    ∃ t : State, exec (.bankMigrationDone g flips) s = .next t ∧ (t.core g).copyDone = true ∧
      (t.core g).migrating = some b ∧ (t.core g).reg = (s.core g).reg ∧ t.mem.cells = s.mem.cells ∧
      t.mem.poison = s.mem.poison ∧ t.sch = s.sch ∧ t.hl = s.hl ∧
      ((s.flipParity (flips.filter isSpad)).bankWords g b = [] → t.core g = { s.core g with copyDone := true }) := by
  have hexec := exec_bankMigrationDone (flips := flips) hb
  obtain ⟨u, hu⟩ : ∃ u, u = s.flipParity (flips.filter isSpad) := ⟨_, rfl⟩
  rw [← hu] at hexec ⊢
  have hucore : u.core g = s.core g := by rw [hu]; rfl
  have hcounted := BankCounted.countWords u g b
  obtain ⟨n, c, hcount⟩ := hcounted.2 g
  have hne : (u.countWords g b).core g ≠ {} := by
    intro habsent
    have hnone : (s.core g).migrating = none := by
      rw [← hucore]
      exact congrArg Core.migrating (hcount.symm.trans habsent)
    rw [hb] at hnone
    contradiction
  have hcore : ((u.countWords g b).onCore g Core.copied).core g = ((u.countWords g b).core g).copied :=
    onCore_core_of_ne hne _
  have honly := OnlyCore.onCore (u.countWords g b) g Core.copied
  have hmem := honly.mem.trans hcounted.mem
  refine ⟨_, hexec, by rw [hcore]; rfl, ?_, ?_, ?_, ?_, ?_, ?_, fun hclean => ?_⟩
  · rw [hcore, hcount, hucore]
    exact hb
  · rw [hcore, hcount, hucore]
    rfl
  · rw [hmem, hu]
    rfl
  · rw [hmem, hu]
    rfl
  · rw [honly.sch, hcounted.sch, hu, State.flipParity_sch]
  · rw [honly.hl, hcounted.hl, hu, State.flipParity_hl]
  · rw [hcore, State.countWords, hclean, List.foldl_nil, hucore]
    rfl

end Copy

/-- Settles O44: each event by its equation, a save by `checkPreempted`, a restore by what its bytes leave. -/
theorem slotsWindowsSavesAndRestores : Obligations.SlotsWindowsSavesAndRestores := by
  refine ⟨fun s ev e he hcls => ⟨fun hnew hfree => ?_, exec_rowEventSelftest_lengthens he hcls⟩,
    fun s part x hx => ⟨fun hopen => ?_, fun hend => ?_⟩, fun s ev => ⟨fun he => ?_, fun e he => ?_⟩,
    fun s => ⟨fun hend => congrArg Host.Outcome.next (if_pos hend),
      fun hopen => congrArg Host.Outcome.next (if_neg (Nat.not_le_of_gt hopen))⟩,
    fun s g hrun => congrArg Host.Outcome.next (if_neg hrun), fun s g j hrun hjob => ⟨?_, ?_⟩,
    fun s g j v hjob hrun hv => ⟨fun hgood harea hcode => ?_, exec_contextRestoreDone_poisoned hjob hrun hv⟩,
    fun s g flips => ⟨fun hnone => ?_, fun b hb => ?_⟩⟩
  · intro gs
    refine ⟨_, exec_rowEventSelftest_opens he hcls hnew hfree, congrArg Sch.slots (beginSelftests_sch _),
      beginSelftests_mem _, fun g hg p hp hlt hjob hidle => ?_⟩
    exact State.Testable.beginSelftests (x := (e.partition, s.tb.link, s.tb.link + e.length, gs))
      ⟨hp, hlt, hjob, .inl hidle⟩ (List.mem_append_right _ (List.mem_singleton_self _)) hg
  · rw [exec_selftestSlotEnd hx, if_pos hopen]
  · refine ⟨_, (exec_selftestSlotEnd hx).trans (congrArg Host.Outcome.next (if_neg (Nat.not_lt_of_ge hend))), ?_⟩
    exact (OnlyEnds.foldl OnlyEnds.endTest x.2.2.2 _).slots
  · refine congrArg Host.Outcome.next ?_
    simp only [he]
  · obtain ⟨hdesk, hasz⟩ := Prod.mk.inj (runExports_besides
      (s.onSch fun x => { x with bgdUntil := max x.bgdUntil (s.tb.link + e.length) }))
    exact ⟨_, exec_rowEventBgdWindow_opens he, sch_of_desk hdesk, hasz, (cores_of_desk hdesk).trans rfl⟩
  · rintro ⟨i, hi, -, hother, hphys, hsaved⟩
    have hwaits : (s.savedOn g j).checkPreempted j.key = s.savedOn g j := by
      refine checkPreempted_waits (savedOn_job hjob) hi ?_ ?_
      · rwa [savedOn_physOf]
      · rwa [savedOn_other hother]
    refine ⟨s.savedOn g j, ?_, savedOn_saved hrun, fun i h => savedOn_other h,
      (savedOn_only s g j).kv.trans (fillSave_keeps s g j).2.1, _, savedOn_job hjob, rfl, List.length_map ..⟩
    rw [exec_contextSaveDone hrun hjob, hwaits]
  · intro hplaced hsaved hover hlasting
    have hall : ∀ i ∈ j.placed, ((s.savedOn g j).core i).run = .saved := by
      intro i hi
      by_cases hg : i = g
      · rw [hg, savedOn_saved hrun]
      · exact savedOn_still (hsaved i hi hg)
    have hspr : (s.savedOn g j).spr = s.spr := (savedOn_only s g j).spr.trans (fillSave_keeps s g j).2.2
    have hjob' := checkPreempted_preempts (savedOn_job hjob) hplaced hall hover (by rw [hspr, hlasting])
    exact ⟨_, exec_contextSaveDone hrun hjob, _, hjob', rfl, rfl, rfl⟩
  · exact contextRestoreDone_restores hjob hrun hv hgood harea hcode
  · refine congrArg Host.Outcome.next ?_
    simp only [hnone]
  · exact bankMigrationDone_notes hb

end Sys2Proof.Machine
end

section
/-! Completions while the host link is down, writes that meet no listed granule, and DEV.IDENTITY after the copy of a
frame. O14. -/

namespace Sys2Proof.Machine

open Sys2Proof.Safety

/-! Completions leave the state of the host link (R418, R437). -/

theorem linkUp_of_carried {s t : State} (h : t.offCarry = s.offCarry) : t.hl.linkUp = s.hl.linkUp :=
  show t.offCarry.hl.linkUp = s.offCarry.hl.linkUp by rw [h]

theorem ctx_of_carried {s t : State} (h : t.offCarry = s.offCarry) (k : Nat) : t.ctx k = s.ctx k :=
  show t.offCarry.ctx k = s.offCarry.ctx k by rw [h]

@[simp] theorem linkUp_onCtx (s : State) (k : Nat) (f : Ctx → Ctx) : (s.onCtx k f).hl.linkUp = s.hl.linkUp := by
  unfold State.onCtx
  split <;> rfl

@[simp] theorem linkUp_hostRequest (s : State) (engine : Nat) (write : Bool) (a n : Nat) :
    (s.hostRequest engine write a n).hl.linkUp = s.hl.linkUp :=
  linkUp_of_carried (s.hostRequest_carries engine write a n).1

@[simp] theorem linkUp_sendVector (s : State) (v : Nat) : (s.sendVector v).hl.linkUp = s.hl.linkUp := by
  unfold State.sendVector
  split <;> rfl

theorem linkUp_releaseHeld (s : State) (i : Nat) : (s.releaseHeld i).hl.linkUp = s.hl.linkUp := by
  unfold State.releaseHeld
  split
  · exact linkUp_hostRequest ..
  · rfl

@[simp] theorem linkUp_writeEntry (s : State) (ring addr : Nat) (bs : List Byte) :
    (s.writeEntry ring addr bs).hl.linkUp = s.hl.linkUp := by
  unfold State.writeEntry
  dsimp only
  refine (foldl_keeps (fun u : State => u.hl.linkUp) linkUp_releaseHeld _ _).trans ?_
  split
  · exact linkUp_hostRequest ..
  · split
    · rfl
    · split
      · exact linkUp_hostRequest ..
      · rfl

@[simp] theorem linkUp_writeCompletion (s : State) (ring : Nat) (c : Completion) :
    (s.writeCompletion ring c).hl.linkUp = s.hl.linkUp := by
  unfold State.writeCompletion
  dsimp only
  split <;> simp

theorem linkUp_flush (ring n : Nat) : ∀ s : State, (State.flush ring n s).hl.linkUp = s.hl.linkUp := by
  induction n with
  | zero => exact fun _ => rfl
  | succ n ih =>
    intro s
    unfold State.flush
    split
    · rfl
    · split
      · rfl
      · split
        · exact (ih _).trans (linkUp_writeCompletion ..)
        · exact linkUp_onCtx ..

theorem linkUp_produce (s : State) (k : Nat) (x : Completion) : (s.produce k x).hl.linkUp = s.hl.linkUp := by
  unfold State.produce
  split
  · exact linkUp_onCtx ..
  · dsimp only
    split
    · exact linkUp_onCtx ..
    · split
      · exact linkUp_onCtx ..
      · exact (linkUp_flush k _ _).trans (linkUp_onCtx ..)

/-! While the link is down a produced completion waits at the end of its context's queue (R418, R437). -/

theorem flushRing_down {s : State} (hdown : s.hl.linkUp = false) (k : Nat) : s.flushRing k = s := by
  unfold State.flushRing
  cases (s.ctx k).waiting.length with
  | zero => rfl
  | succ n => simp [State.flush, hdown]

/-- The context takes every completion of its commands (R414, R429). -/
def Ctx.takesAll (x : Ctx) : Bool := x.isOpen && !x.closing && x.muteBelow = 0

theorem ctx_in_table {s : State} {k : Nat} (h : (s.ctx k).isOpen = true) : k = 256 ∨ k < s.hl.ctxs.length := by
  by_contra hout
  obtain ⟨hcan, hlen⟩ := not_or.mp hout
  rw [State.ctx, if_neg hcan, List.getD_eq_default _ _ (Nat.le_of_not_lt hlen)] at h
  contradiction

section Waits

variable {s u : State} {k : Nat} {x : Completion}

/-- An update of a context that leaves its state leaves whether it takes every completion. -/
theorem takesAll_onCtx {f : Ctx → Ctx} (hf : ∀ y, (f y).takesAll = y.takesAll) (s : State) (k : Nat) :
    ((s.onCtx k f).ctx k).takesAll = (s.ctx k).takesAll := by
  by_cases hin : k = 256 ∨ k < s.hl.ctxs.length
  · rw [ctx_onCtx_same hin, hf]
  · obtain ⟨hcan, hlen⟩ := not_or.mp hin
    simp [State.onCtx, State.ctx, hcan, Nat.le_of_not_lt hlen]

theorem takesAll_produce_down (hk : k ≠ 256) (hdown : s.hl.linkUp = false) (x : Completion) :
    ((s.produce k x).ctx k).takesAll = (s.ctx k).takesAll := by
  rw [State.produce, if_neg hk]
  dsimp only
  split
  · exact takesAll_onCtx (fun y => by split <;> rfl) s k
  · split
    · exact takesAll_onCtx (by intro; rfl) s k
    · rw [flushRing_down (by simpa using hdown)]
      exact takesAll_onCtx (by intro; rfl) s k

theorem waiting_produce_down (hk : k ≠ 256) (hdown : s.hl.linkUp = false) (htakes : (s.ctx k).takesAll = true)
    (hx : x.release = false) : ((s.produce k x).ctx k).waiting = (s.ctx k).waiting ++ [x] := by
  obtain ⟨⟨hopen, hclosing⟩, hmute⟩ : ((s.ctx k).isOpen = true ∧ (s.ctx k).closing = false) ∧
    (s.ctx k).muteBelow = 0 := by simpa [Ctx.takesAll] using htakes
  simp only [State.produce, if_neg hk, hopen, hclosing, hmute, hx]
  rw [if_neg (by simp), if_neg (by simp), flushRing_down (by simpa using hdown),
    ctx_onCtx_same (ctx_in_table hopen)]

/-- While the link is down a context that takes every completion shows with what status its command completed. -/
theorem status_of_complete_down {c : Cmd} {st st' r r' : Nat} (hring : c.ring ≠ 256) (hdown : s.hl.linkUp = false)
    (htakes : (s.ctx c.ring).takesAll = true) (h : s.complete c st r = u.complete c st' r') : st = st' := by
  have hudown : u.hl.linkUp = false := by
    rw [← hdown, ← linkUp_produce s c.ring, ← linkUp_produce u c.ring]
    exact congrArg (fun t : State => t.hl.linkUp) h.symm
  have hutakes : (u.ctx c.ring).takesAll = true := by
    rw [← htakes, ← takesAll_produce_down hring hdown, ← takesAll_produce_down hring hudown]
    exact congrArg (fun t : State => (t.ctx c.ring).takesAll) h.symm
  have hqueue : (s.ctx c.ring).waiting ++ [⟨s.seqOf c, c.tag, st, c.opcode, r, 0, 0, true, false⟩] =
      (u.ctx c.ring).waiting ++ [⟨u.seqOf c, c.tag, st', c.opcode, r', 0, 0, true, false⟩] := by
    rw [← waiting_produce_down hring hdown htakes rfl, ← waiting_produce_down hring hudown hutakes rfl]
    exact congrArg (fun t : State => (t.ctx c.ring).waiting) h
  exact congrArg Completion.status (List.head_eq_of_cons_eq (List.append_inj_right' hqueue rfl))

end Waits

/-! Writes none of whose granules memory lists as poisoned (R161). -/

section Unlisted

variable {s : State}

theorem writeGranules_unlisted (a : Nat) (data : List Byte) (gs : List Nat) : ∀ {s : State},
    (∀ g ∈ gs, g ∉ s.mem.poison) → (State.writeGranules a data gs [] s).1 = false ∧
      (State.writeGranules a data gs [] s).2.offCarry = s.offCarry := by
  induction gs with
  | nil => exact fun _ => ⟨rfl, rfl⟩
  | cons g gs ih =>
    intro s hgs
    have hone : s.writeGranule a data g .ok = (false, s.write (granulePart a data g).1 (granulePart a data g).2) := by
      simp [State.writeGranule, hgs g List.mem_cons_self]
    obtain ⟨hgood, hkept⟩ := ih (s := s.write (granulePart a data g).1 (granulePart a data g).2) fun i hi hp =>
      hgs i (List.mem_cons_of_mem g hi) (List.mem_of_mem_filter hp)
    simp only [State.writeGranules, List.headD_nil, List.tail_nil, hone]
    exact ⟨hgood, hkept⟩

/-- Hub DMA writes bytes in a stack that answers, where memory lists no granule of the range: the write passes. -/
theorem putOut_unlisted {a : Nat} {out : List Byte} (hdead : s.dramDead a = false)
    (hgs : ∀ g ∈ granulesOf a out.length, g ∉ s.mem.poison) :
    (s.putOut a out).1 = false ∧ (s.putOut a out).2.offCarry = s.offCarry := by
  have hwrite : (s.dramWrite a out []).1 = false ∧ (s.dramWrite a out []).2.offCarry = s.offCarry := by
    rw [State.dramWrite, if_neg (by simp [hdead])]
    split
    · exact ⟨rfl, rfl⟩
    · exact writeGranules_unlisted a out _ hgs
  refine ⟨hwrite.1, (offCarry_of_offRing (State.carryWrite_offRing _ .bulk 0 0xFE a out)).trans ?_⟩
  exact (State.hostRequest_carries _ _ true a out.length).1.trans hwrite.2

theorem output_written {c : Cmd} {a st r : Nat} {out : List Byte}
    (hreach : (if s.dev.mode = .recovery then inHost a out.length else s.dmaRange a out.length) = true)
    (hgood : (s.putOut a out).1 = false) : s.output c a out st r = (s.putOut a out).2.complete c st r := by
  simp [State.output, hreach, hgood]

/-! DEV.IDENTITY (R493). -/

/-- The identity record without its certificate chain has 1,496 bytes (R493). -/
theorem length_identityHead : identityHead.length = 1496 := by
  have hentry (place die : Nat) : (identityEntry place die).length = 40 := by simp [identityEntry, length_leBytes]
  simp [identityHead, length_leBytes, List.length_flatMap, hentry]

/-- The record with its chain fits the certificate block of 64 KiB and 1,496 bytes more (R475, R493). -/
theorem length_identity_lt : (identityHead ++ Config.certChain).length < 70000 := by
  have hchain : Config.certChain.length < 64993 := by
    simpa [Config.certChain] using Nat.mod_lt Config.certLength (by decide : 0 < 64993)
  rw [List.length_append, length_identityHead]
  omega

theorem exec_devIdentity_written {c : Cmd} (h : Starts 1 5 c s)
    (hroom : (identityHead ++ Config.certChain).length ≤ c.word 2)
    (hreach : (if s.dev.mode = .recovery then inHost (c.addr 0) (identityHead ++ Config.certChain).length
      else s.dmaRange (c.addr 0) (identityHead ++ Config.certChain).length) = true)
    (hgood : ((begun c s).putOut (c.addr 0) (identityHead ++ Config.certChain)).1 = false) :
    exec (.devIdentity c) s =
      .next (((begun c s).putOut (c.addr 0) (identityHead ++ Config.certChain)).2.complete c stOk
        (identityHead ++ Config.certChain).length) := by
  show execDevIdentity c s = _
  rw [execDevIdentity, runCmd_starts h]
  dsimp only
  rw [if_neg (Nat.not_lt_of_ge hroom), output_written (by simpa using hreach) hgood]

end Unlisted

/-! The copy of a frame whose first granule reads uncorrectable. An FP8 pool with 2 entries, one head and frames of
2 KiB begins with a scale plane of 8 bytes (R205), so its frames lie off the granules: the first granule of frame 0
begins 8 bytes before it, and `State.copyFrame` subtracts in the natural numbers. -/

/-- DEV.IDENTITY of context 0, with room for 2^32 - 1 bytes in open DRAM from 2060. -/
def identityAt2060 : Cmd := { family := 1, operation := 5, pw := [2060, 0, 2 ^ 32 - 1, 0, 0] }

theorem identityAt2060_room : (identityHead ++ Config.certChain).length ≤ identityAt2060.word 2 :=
  Nat.le_trans (Nat.le_of_lt length_identity_lt) (by decide)

/-- A device in RUN with its stacks in service and the host link down; the command is the next of context 0. -/
def beforeFrameCopy : State :=
  { State.reset with
    dev := { mode := .run, inReset := false, fwReady := true }
    hl := { ctxs := { isOpen := true, slots := [{ cmd := identityAt2060 }] } :: List.replicate 255 {} }
    dram := List.replicate 4 { inService := true, powered := true, trained := true, fwLoaded := true } }

/-- Frame 0 of the pool, at 8, has been copied to frame 1, at 2056; granule 0 read uncorrectable (R225). -/
def afterFrameCopy : State := beforeFrameCopy.copyFrame 8 2056 2048 [0]

/-- The poison of the copy is listed at 2056, which is no granule; that of granule 2048 is not listed. -/
theorem afterFrameCopy_poison : afterFrameCopy.mem.poison = [0, 2056] := by decide +kernel

theorem afterFrameCopy_starts : Starts 1 5 identityAt2060 afterFrameCopy := by
  unfold Starts
  decide +kernel

theorem afterFrameCopy_reaches {n : Nat} (h : n < 70000) :
    (if afterFrameCopy.dev.mode = .recovery then inHost 2060 n else afterFrameCopy.dmaRange 2060 n) = true := by
  have hsize : n ≤ stackSize := Nat.le_trans (Nat.le_of_lt h) (by decide)
  have hend : 2060 % stackSize + n ≤ reservedOff := Nat.le_trans (Nat.add_le_add_left (Nat.le_of_lt h) _) (by decide)
  have hdram : isDram 2060 = true := by decide
  have hmode : ¬afterFrameCopy.dev.mode = .recovery := by decide +kernel
  simp [State.dmaRange, payloadRange, inOpenDram, hmode, hsize, hend, hdram]

theorem afterFrameCopy_writePoisoned {n : Nat} (h : 64 ≤ n) : afterFrameCopy.writePoisoned 2060 n = true := by
  simp [State.writePoisoned, afterFrameCopy_poison, overlaps]
  omega

theorem afterFrameCopy_unlisted (n : Nat) : ∀ g ∈ granulesOf 2060 n, g ∉ afterFrameCopy.mem.poison := by
  intro g hg
  rw [afterFrameCopy_poison]
  unfold granulesOf at hg
  split at hg
  · contradiction
  · obtain ⟨i, -, rfl⟩ := List.mem_map.mp hg
    simp [granule]
    omega

/-- The command writes its record over the poison and completes with ST_OK; the completion waits for the link. -/
theorem exec_devIdentity_afterFrameCopy : ∃ v : State,
    exec (.devIdentity identityAt2060) afterFrameCopy =
      .next (v.complete identityAt2060 stOk (identityHead ++ Config.certChain).length) ∧
    v.hl.linkUp = false ∧ (v.ctx identityAt2060.ring).takesAll = true := by
  obtain ⟨hgood, hcarried⟩ := putOut_unlisted (s := begun identityAt2060 afterFrameCopy)
    (a := identityAt2060.addr 0) (out := identityHead ++ Config.certChain) (by rw [begun_dramDead]; decide +kernel)
    (by rw [begun_mem]; exact afterFrameCopy_unlisted _)
  refine ⟨_, exec_devIdentity_written afterFrameCopy_starts identityAt2060_room
    (afterFrameCopy_reaches length_identity_lt) hgood, ?_, ?_⟩
  · exact (linkUp_of_carried hcarried).trans (by decide +kernel)
  · exact (congrArg Ctx.takesAll (ctx_of_carried hcarried _)).trans (by decide +kernel)

/-- Refutes O14: after `afterFrameCopy` the destination holds poison and is written in part, but no granule of it is
listed, so DEV.IDENTITY completes with ST_OK, not with ST_MEM_POISON. -/
theorem not_identityAndAttestationWriteTheirRecords :
    ¬ Obligations.IdentityAndAttestationWriteTheirRecords := by
  rintro ⟨-, -, -, hrefused, -⟩
  have hlen : 64 ≤ (identityHead ++ Config.certChain).length := by
    rw [List.length_append, length_identityHead]
    omega
  obtain ⟨u, hpoison⟩ := (hrefused identityAt2060 afterFrameCopy afterFrameCopy_starts identityAt2060_room).2
    (by rw [begun_dmaRange]; exact afterFrameCopy_reaches length_identity_lt) (afterFrameCopy_writePoisoned hlen)
  obtain ⟨v, hok, hdown, htakes⟩ := exec_devIdentity_afterFrameCopy
  have hstatus : stOk = stMemPoison :=
    status_of_complete_down (by decide) hdown htakes (Host.Outcome.next.inj (hok.symm.trans hpoison))
  exact absurd hstatus (by decide)

end Sys2Proof.Machine
end

section
/-! The stacks: patrol scrub, lane spares at a refresh, and row remaps. O30. -/

namespace Sys2Proof.Machine

open Sys2Proof.Safety

/-! Updates of a stack. -/

/-- What an update of an entry leaves, the list of entries shows as it was. -/
theorem map_modify_of_keeps {α β : Type} {p : α → β} {f : α → α} (h : ∀ m, p (f m) = p m) (l : List α) (d : Nat) :
    (l.modify d f).map p = l.map p := by
  refine List.ext_getElem? fun i => ?_
  by_cases hi : d = i
  · cases hm : l[i]? <;> simp [hi, hm, h]
  · simp [hi]

/-- A stack that the table has reads as its update. -/
theorem State.dramAt_onDram {s : State} {d : Nat} (h : d < s.dram.length) (f : Dram → Dram) :
    (s.onDram d f).dramAt d = f (s.dramAt d) := by
  simp [State.dramAt, h]

/-- What an update of a stack leaves, every stack shows as it was. -/
theorem State.dramAt_onDram_keeps {β : Type} (p : Dram → β) {f : Dram → Dram} (h : ∀ m, p (f m) = p m) (s : State)
    (d i : Nat) : p ((s.onDram d f).dramAt i) = p (s.dramAt i) := by
  have hall := congrArg (fun l => l.getD i (p {})) (map_modify_of_keeps h s.dram d)
  simpa only [List.getD_map] using! hall

/-! What the retirement of rows and error events leave: memory, the scrub and the record of uncorrectable errors. -/

/-- The scrub pointer of a stack and its record of uncorrectable errors (R159, R166). -/
structure ScrubRecord where
  scrub : Nat
  lastUe : Nat
  uncorrected : Nat

def Dram.scrubRecord (m : Dram) : ScrubRecord := ⟨m.scrub, m.lastUe, m.uncorrected⟩

/-- Memory, and the scrub records of the stacks. -/
structure Patrol where
  mem : Memory
  records : List ScrubRecord

/-- The patrol view of a state. -/
def State.patrol (s : State) : Patrol := ⟨s.mem, s.dram.map Dram.scrubRecord⟩

theorem mem_of_patrol {s t : State} (h : t.patrol = s.patrol) : t.mem = s.mem := congrArg Patrol.mem h

theorem scrubRecord_of_patrol {s t : State} (h : t.patrol = s.patrol) (d : Nat) :
    (t.dramAt d).scrubRecord = (s.dramAt d).scrubRecord := by
  have hrecord := congrArg (fun p => p.records.getD d (Dram.scrubRecord {})) h
  simpa only [State.patrol, List.getD_map] using! hrecord

@[simp] theorem State.onDram_patrol (s : State) (d : Nat) (f : Dram → Dram)
    (h : ∀ m, (f m).scrub = m.scrub ∧ (f m).lastUe = m.lastUe ∧ (f m).uncorrected = m.uncorrected) :
    (s.onDram d f).patrol = s.patrol := by
  have hrecord (m : Dram) : (f m).scrubRecord = m.scrubRecord := by simp [Dram.scrubRecord, h m]
  simp [State.patrol, map_modify_of_keeps hrecord]

@[simp] theorem State.onSpr_patrol (s : State) (f : Spr → Spr) : (s.onSpr f).patrol = s.patrol := rfl

@[simp] theorem State.raiseEvent_patrol (s : State) (v : Nat) : (s.raiseEvent v).patrol = s.patrol := by
  simp [State.patrol]

@[simp] theorem State.setDegraded_patrol (s : State) : s.setDegraded.patrol = s.patrol := by
  unfold State.setDegraded
  dsimp only
  split <;> rfl

@[simp] theorem State.errEvent_patrol (s : State) (r : WearEntry) : (s.errEvent r).patrol = s.patrol := by
  obtain ⟨w, hw⟩ := s.errEvent_spr r
  rw [hw]
  rfl

@[simp] theorem State.errEvents_patrol (s : State) (rs : List WearEntry) : (s.errEvents rs).patrol = s.patrol :=
  foldl_keeps State.patrol (by simp) rs s

@[simp] theorem State.retire_patrol (s : State) (r : WearEntry) : (s.retire r).patrol = s.patrol := by
  unfold State.retire
  dsimp only
  split <;> simp

@[simp] theorem State.withdrawBlock_patrol (s : State) (r : WearEntry) : (s.withdrawBlock r).patrol = s.patrol := by
  unfold State.withdrawBlock
  dsimp only
  split <;> simp

@[simp] theorem State.remapRow_patrol (s : State) (r : WearEntry) : (s.remapRow r).patrol = s.patrol := by
  unfold State.remapRow
  dsimp only
  split
  · rfl
  · split <;> simp

@[simp] theorem State.laneEvents_patrol (s : State) (d ch retries : Nat) (lanes : List Nat) (failed : Bool) :
    (s.laneEvents d ch retries lanes failed).patrol = s.patrol := by
  unfold State.laneEvents
  dsimp only
  split
  · simp
  · split <;> simp

@[simp] theorem State.correctedError_patrol (s : State) (a : Nat) : (s.correctedError a).patrol = s.patrol := by
  unfold State.correctedError
  dsimp only
  split <;> simp

/-! Patrol scrub (R159, R166). -/

/-- The granule of an uncorrectable error is poisoned, its address recorded and counted (R159). -/
def State.noteUe (s : State) (a : Nat) : State :=
  (s.poisonGranules [granule a] (s.mem.checkPat.contains (granule a))).onDram (a / stackSize) fun m => { m with
    uncorrected := satInc 65535 m.uncorrected, lastUe := granule a }

theorem State.uncorrectableError_patrol (s : State) (a : Nat) :
    (s.uncorrectableError a).patrol = (s.noteUe a).patrol := by
  unfold State.uncorrectableError
  dsimp only
  split
  · rfl
  · exact State.remapRow_patrol ..

/-- What a granule's read leaves of memory and the scrub records: an uncorrectable error alone is noted. -/
theorem State.readGranule_patrol (s : State) (g : Nat) (e : Ecc) : (s.readGranule g e).2.patrol =
    (if s.granuleEcc g e = .uncorrectable then s.noteUe g else s).patrol := by
  unfold State.readGranule
  cases s.granuleEcc g e <;> simp [State.uncorrectableError_patrol]

/-- The scrubber of a stack moves on by one granule (R166). -/
def State.scrubOn (s : State) (d : Nat) : State := s.onDram d fun m => { m with scrub := (m.scrub + 64) % stackSize }

def ScrubRecord.next (r : ScrubRecord) : ScrubRecord := { r with scrub := (r.scrub + 64) % stackSize }

theorem State.scrubOn_patrol (s : State) (d : Nat) :
    (s.scrubOn d).patrol = { s.patrol with records := s.patrol.records.modify d ScrubRecord.next } := by
  suffices hrecords : (s.scrubOn d).dram.map Dram.scrubRecord = (s.dram.map Dram.scrubRecord).modify d .next by
    simp only [State.patrol, hrecords]
    rfl
  refine List.ext_getElem? fun i => ?_
  by_cases hi : d = i
  · cases hm : s.dram[i]? <;> simp [State.scrubOn, hi, hm, Dram.scrubRecord, ScrubRecord.next]
  · simp [State.scrubOn, hi]

/-- What the scrub's move to the next granule shows of its stack. -/
theorem dramAt_of_scrubOn {t u : State} {d : Nat} (h : t.patrol = (u.scrubOn d).patrol) (hd : d < u.dram.length) :
    (t.dramAt d).scrub = ((u.dramAt d).scrub + 64) % stackSize ∧ (t.dramAt d).lastUe = (u.dramAt d).lastUe ∧
      (t.dramAt d).uncorrected = (u.dramAt d).uncorrected := by
  have hrecord := scrubRecord_of_patrol h d
  rw [State.scrubOn, State.dramAt_onDram hd] at hrecord
  exact ⟨congrArg ScrubRecord.scrub hrecord, congrArg ScrubRecord.lastUe hrecord,
    congrArg ScrubRecord.uncorrected hrecord⟩

/-- The granule that the scrubber of a stack reads next (R166). -/
def State.scrubAt (s : State) (d : Nat) : Nat := d * stackSize + (s.dramAt d).scrub

/-- What the scrub notes of a granule before it moves on: an uncorrectable error. -/
def State.scrubNoted (s : State) (d : Nat) (e : Ecc) : State :=
  if s.granuleEcc (s.scrubAt d) e = .uncorrectable then s.noteUe (s.scrubAt d) else s

section Scrub

variable {s : State} {d : Nat}

theorem exec_patrolScrubRead (hs : s.scrubs = true) (hd : (s.dramAt d).serves = true) (e : Ecc) :
    exec (.patrolScrubRead d e) s = .next (if s.granuleEcc (s.scrubAt d) e = .uncorrectable then
      ((s.readGranule (s.scrubAt d) e).2.scrubOn d).raiseEvent 4 else (s.readGranule (s.scrubAt d) e).2.scrubOn d) := by
  show execPatrolScrubRead d e s = _
  unfold execPatrolScrubRead
  rw [hs, hd]
  rfl

/-- The scrub notes what its granule gives and moves on; an uncorrectable error raises event 4 (log 54). -/
theorem exec_patrolScrubRead_notes (hs : s.scrubs = true) (hd : (s.dramAt d).serves = true) (e : Ecc) :
    ∃ t : State, exec (.patrolScrubRead d e) s = .next t ∧ t.patrol = ((s.scrubNoted d e).scrubOn d).patrol ∧
      (s.granuleEcc (s.scrubAt d) e = .uncorrectable → bitAt t.hl.events 4 = true) := by
  have hmoved : ((s.readGranule (s.scrubAt d) e).2.scrubOn d).patrol = ((s.scrubNoted d e).scrubOn d).patrol := by
    rw [State.scrubOn_patrol, State.scrubOn_patrol, State.readGranule_patrol]
    rfl
  refine ⟨_, exec_patrolScrubRead hs hd e, ?_, fun hue => ?_⟩
  · split
    · rw [State.raiseEvent_patrol, hmoved]
    · exact hmoved
  · rw [if_pos hue]
    exact State.raiseEvent_event ..

theorem noteUe_scrub (a : Nat) : ((s.noteUe a).dramAt d).scrub = (s.dramAt d).scrub := by
  unfold State.noteUe
  rw [State.dramAt_onDram_keeps Dram.scrub]
  · rfl
  · exact fun _ => rfl

theorem noteUe_record (h : d < s.dram.length) {a : Nat} (ha : a / stackSize = d) :
    ((s.noteUe a).dramAt d).lastUe = granule a ∧
      ((s.noteUe a).dramAt d).uncorrected = satInc 65535 (s.dramAt d).uncorrected := by
  have hread : (s.noteUe a).dramAt d = { s.dramAt d with
      uncorrected := satInc 65535 (s.dramAt d).uncorrected, lastUe := granule a } := by
    unfold State.noteUe
    rw [ha]
    exact State.dramAt_onDram h _
  simp [hread]

theorem noteUe_poison (a : Nat) : granule a ∈ (s.noteUe a).mem.poison := by
  simp [State.noteUe, State.poisonGranules]

theorem scrubNoted_leaves (e : Ecc) : (s.scrubNoted d e).mem.cells = s.mem.cells ∧
    (s.scrubNoted d e).dram.length = s.dram.length ∧ ((s.scrubNoted d e).dramAt d).scrub = (s.dramAt d).scrub := by
  unfold State.scrubNoted
  split
  · exact ⟨rfl, by simp [State.noteUe], noteUe_scrub _⟩
  · exact ⟨rfl, rfl, rfl⟩

theorem granuleEcc_uncorrectable (g : Nat) : s.granuleEcc g .uncorrectable = .uncorrectable := by
  simp [State.granuleEcc]

theorem scrubAt_stack (h : (s.dramAt d).scrub < stackSize) : s.scrubAt d / stackSize = d := by
  have hpos : 0 < stackSize := Nat.zero_lt_of_lt h
  rw [State.scrubAt, Nat.add_comm, Nat.add_mul_div_right _ _ hpos, Nat.div_eq_of_lt h, Nat.zero_add]

end Scrub

/-! Lane spares at a refresh (R164, R172). -/

@[simp] theorem State.sendVector_spr (s : State) (v : Nat) : (s.sendVector v).spr = s.spr := by
  unfold State.sendVector
  split <;> rfl

@[simp] theorem State.recTrigger_spr (s : State) (safety : Bool) : (s.recTrigger safety).spr = s.spr := by
  unfold State.recTrigger
  split <;> rfl

@[simp] theorem State.raiseEvent_spr (s : State) (v : Nat) : (s.raiseEvent v).spr = s.spr := by
  unfold State.raiseEvent
  dsimp only
  split <;> split <;> simp

@[simp] theorem State.retire_dram (s : State) (r : WearEntry) : (s.retire r).dram = s.dram := by
  unfold State.retire
  dsimp only
  split <;> simp

/-- A retired resource is lasting no longer, and has its entry while the wear record has room (R507, R510). -/
theorem State.retire_enters (s : State) (r : WearEntry) : (s.retire r).isLasting r = false ∧
    (s.spr.entries.length < 4091 → r ∈ (s.retire r).spr.entries) := by
  unfold State.retire State.isLasting
  dsimp only
  split
  · exact ⟨by simp, fun hroom => by simp [hroom]⟩
  · exact ⟨by simp, fun hroom => by simp [hroom]⟩

section Refresh

variable {s : State} {d ch l : Nat}

theorem exec_dramRefresh_unscanned (hd : (s.dramAt d).serves = true) (hscan : (s.dramAt d).scanDue.contains ch = false)
    (fails : List Nat) : exec (.dramRefresh d ch fails) s =
      .next ((s.lastingTsv d ch).foldl (fun x l => x.retireTsvLane d ch l) s) := by
  show execDramRefresh d ch fails s = _
  unfold execDramRefresh
  rw [hd, hscan]
  rfl

theorem isLasting_of_mem_lastingTsv (h : l ∈ s.lastingTsv d ch) : s.isLasting (tsvLane d ch l) = true :=
  (List.mem_filter.mp h).2

/-- A lasting lane whose group has a spare left is replaced by it (R164). -/
theorem retireTsvLane_spared
    (h : ((s.dramAt d).lanesRetired.filter fun x => x.1 = ch && x.2 / 64 = l / 64).length < 2) :
    s.retireTsvLane d ch l =
      (s.retire (tsvLane d ch l)).onDram d fun m => { m with lanesRetired := m.lanesRetired ++ [(ch, l)] } :=
  if_pos h

end Refresh

/-! Row remaps (R168). -/

/-- The copy is complete: its entry becomes valid in place of an older one of its row (log 53). -/
def Remap.completes (x y : Remap) : Remap :=
  if y = x then { y with copying := false, valid := true }
  else if y.row = x.row then { y with valid := false } else y

theorem Remap.completes_self (x : Remap) : x.completes x = { x with copying := false, valid := true } := if_pos rfl

/-- After the copy the valid entry of its row is the one that was copied. -/
theorem Remap.completes_valid {x y : Remap} (hrow : (x.completes y).row = x.row) (hvalid : (x.completes y).valid = true) :
    x.completes y = { x with copying := false, valid := true } := by
  unfold Remap.completes at hrow hvalid ⊢
  split
  · next hxy => rw [hxy]
  · next hxy =>
    rw [if_neg hxy] at hrow hvalid
    split at hrow
    · next hold => simp [hold] at hvalid
    · contradiction

theorem exec_rowRemapDone {s : State} {d : Nat} {x : Remap} (h : (s.dramAt d).remaps.find? (·.copying) = some x) :
    exec (.rowRemapDone d) s = .next (((s.poisonGranules (s.mem.poison.filter fun g => rowEntry g = x.row) true).onDram d
      fun m => { m with remaps := m.remaps.map x.completes }).retire x.row) := by
  show execRowRemapDone d s = _
  unfold execRowRemapDone State.remapDone
  rw [h]
  rfl

/-- What ROW_REMAP_DONE leaves, where a copy was in progress. -/
theorem exec_rowRemapDone_completes {s : State} {d : Nat} {x : Remap}
    (h : (s.dramAt d).remaps.find? (·.copying) = some x) (hd : d < s.dram.length) :
    ∃ t : State, exec (.rowRemapDone d) s = .next t ∧ (t.dramAt d).remaps = (s.dramAt d).remaps.map x.completes ∧
      (s.spr.entries.length < 4091 → x.row ∈ t.spr.entries) ∧ t.mem.cells = s.mem.cells := by
  refine ⟨_, exec_rowRemapDone h, ?_, fun hroom => (State.retire_enters _ _).2 hroom, ?_⟩
  · rw [State.dramAt, State.retire_dram]
    exact congrArg Dram.remaps (State.dramAt_onDram (s := s.poisonGranules _ true) hd _)
  · rw [(State.retire_leaves _ _).2]
    rfl

/-- Settles O30: the scrub by what it notes, a refresh by the lanes it retires, a remap by `Remap.completes`. -/
theorem stacksScrubRefreshAndRemap : Obligations.StacksScrubRefreshAndRemap := by
  refine ⟨fun s d hs hd hclean => ?_, fun s d e hshape hd4 hs hd => ?_, fun s d hshape hd4 hs hd hbound => ?_,
    fun s d ch fails hd hscan hnone => ?_, fun s d ch l fails hshape hd4 hd hscan hlane hspare => ?_,
    fun s d x hshape hd4 hx hroom => ?_⟩
  · have hecc : s.granuleEcc (s.scrubAt d) .ok = .ok :=
      if_neg (by rw [State.scrubAt, hclean]; exact Bool.false_ne_true)
    rw [exec_patrolScrubRead hs hd, State.readGranule, hecc]
    rfl
  · obtain ⟨t, hexec, hpatrol, -⟩ := exec_patrolScrubRead_notes hs hd e
    obtain ⟨hcells, hlen, hscrub⟩ := scrubNoted_leaves (s := s) (d := d) e
    obtain ⟨-, -, hfour, -⟩ := hshape
    obtain ⟨hmoved, -⟩ := dramAt_of_scrubOn hpatrol (by omega)
    rw [hscrub] at hmoved
    exact ⟨t, hexec, hmoved, (congrArg Memory.cells (mem_of_patrol hpatrol)).trans hcells⟩
  · obtain ⟨t, hexec, hpatrol, hevent⟩ := exec_patrolScrubRead_notes hs hd .uncorrectable
    obtain ⟨-, hlen, hscrub⟩ := scrubNoted_leaves (s := s) (d := d) .uncorrectable
    obtain ⟨-, -, hfour, -⟩ := hshape
    have hue := granuleEcc_uncorrectable (s := s) (s.scrubAt d)
    obtain ⟨hmoved, hlast, hcount⟩ := dramAt_of_scrubOn hpatrol (by omega)
    rw [hscrub] at hmoved
    rw [show s.scrubNoted d .uncorrectable = s.noteUe (s.scrubAt d) from if_pos hue] at hpatrol hlast hcount
    obtain ⟨hnoted, hcounted⟩ := noteUe_record (s := s) (by omega) (scrubAt_stack hbound)
    refine ⟨t, hexec, ?_, hlast.trans hnoted, hcount.trans hcounted, hmoved, hevent hue⟩
    rw [mem_of_patrol hpatrol]
    exact noteUe_poison _
  · rw [exec_dramRefresh_unscanned hd hscan, hnone]
    rfl
  · obtain ⟨-, -, hfour, -⟩ := hshape
    refine ⟨(s.retire (tsvLane d ch l)).onDram d fun m => { m with lanesRetired := m.lanesRetired ++ [(ch, l)] },
      ?_, ?_, isLasting_of_mem_lastingTsv (by simp [hlane]), (s.retire_enters _).1, (s.retire_leaves _).2⟩
    · rw [exec_dramRefresh_unscanned hd hscan, hlane, ← retireTsvLane_spared hspare]
      rfl
    · rw [State.dramAt_onDram (by rw [State.retire_dram]; omega), State.dramAt, State.retire_dram]
      rfl
  · obtain ⟨-, -, hfour, -⟩ := hshape
    obtain ⟨t, hexec, hremaps, hentry, hcells⟩ := exec_rowRemapDone_completes hx (by omega)
    refine ⟨t, hexec, ?_⟩
    rw [← x.completes_self, hremaps]
    refine ⟨List.mem_map_of_mem (List.mem_of_find?_eq_some hx), fun y hy hrow hvalid => ?_, hentry hroom,
      hcells⟩
    obtain ⟨z, -, rfl⟩ := List.mem_map.mp hy
    rw [Remap.completes_valid hrow hvalid, x.completes_self]

end Sys2Proof.Machine
end

section
/-! Places for device memory: MEM.ALLOC and MEM.FREE. O33. -/

namespace Sys2Proof.Machine

open Sys2Proof.Safety

/-! Which place is taken (R155, log 24): one that is aligned and free. -/

theorem fits_iff {lo hi n a : Nat} {taken : List (Nat × Nat)} : fits lo hi n taken a = true ↔
    lo ≤ a ∧ a + n ≤ hi ∧ ∀ x ∈ taken, overlaps a n x.1 x.2 = false := by
  simp [fits, and_assoc]

theorem alignUp_mod (align a : Nat) : alignUp align a % align = 0 := Nat.mul_mod_left ..

theorem placeRange_sound {lo hi n align draw a : Nat} {taken : List (Nat × Nat)}
    (h : placeRange lo hi n align taken draw = some a) : a % align = 0 ∧ fits lo hi n taken a = true := by
  unfold placeRange at h
  dsimp only at h
  split at h
  · next hfits =>
    obtain rfl := Option.some.inj h
    exact ⟨by rw [Nat.add_mul_mod_self_left, alignUp_mod], hfits⟩
  · obtain ⟨hmem, hfits⟩ := List.mem_filter.mp (List.min?_mem h)
    obtain ⟨b, -, rfl⟩ := List.mem_map.mp hmem
    exact ⟨alignUp_mod align b, hfits⟩

theorem mem_takenRanges_of_alloc {s : State} {x : Alloc} (h : x ∈ s.hl.allocs) : (x.base, x.size) ∈ s.takenRanges :=
  List.mem_append_left _ (List.mem_map.mpr ⟨x, h, rfl⟩)

theorem mem_takenRanges_of_withdrawn {s : State} {m : Dram} {b : Nat} (hm : m ∈ s.dram) (hb : b ∈ m.withdrawn) :
    (b, 32768) ∈ s.takenRanges :=
  List.mem_append_right _ (List.mem_map.mpr ⟨b, List.mem_flatMap.mpr ⟨m, hm, hb⟩, rfl⟩)

/-! The commands. -/

@[simp] theorem begun_takenRanges (c : Cmd) (s : State) : (begun c s).takenRanges = s.takenRanges := by
  simp [State.takenRanges]

@[simp] theorem begun_draw (c : Cmd) (s : State) (i : Nat) : (begun c s).draw i = s.draw i := by simp [State.draw]

@[simp] theorem begun_placeDram (c : Cmd) (s : State) (d n align i : Nat) :
    (begun c s).placeDram d n align i = s.placeDram d n align i := by simp [State.placeDram]

@[simp] theorem begun_placeHub (c : Cmd) (s : State) (n align i : Nat) :
    (begun c s).placeHub n align i = s.placeHub n align i := by simp [State.placeHub]

/-- The words of MEM.ALLOC name no memory, no size or no alignment that it may have (R433). -/
def allocBad (c : Cmd) : Prop :=
  4 < c.word 0 % 16 ∨ c.word 1 = 0 ∨ c.word 2 % 32 < 12 ∨ 30 < c.word 2 % 32

/-- The place that the firmware finds for MEM.ALLOC (R155, R433). -/
def State.allocPlace (s : State) (c : Cmd) : Option Nat :=
  if c.word 0 % 16 = 4 then s.placeHub (c.word 1 * 4096) (2 ^ (c.word 2 % 32)) 0
  else if (s.dramAt (c.word 0 % 16)).inService = true then
    s.placeDram (c.word 0 % 16) (c.word 1 * 4096) (2 ^ (c.word 2 % 32)) 0
  else none

section Commands

variable {s : State} {c : Cmd}

theorem allocPlace_hub (h : c.word 0 % 16 = 4) :
    s.allocPlace c = s.placeHub (c.word 1 * 4096) (2 ^ (c.word 2 % 32)) 0 := if_pos h

theorem allocPlace_dram (h : c.word 0 % 16 < 4) (hin : (s.dramAt (c.word 0 % 16)).inService = true) :
    s.allocPlace c = s.placeDram (c.word 0 % 16) (c.word 1 * 4096) (2 ^ (c.word 2 % 32)) 0 :=
  (if_neg (Nat.ne_of_lt h)).trans (if_pos hin)

@[simp] theorem begun_allocPlace (c : Cmd) (s : State) : (begun c s).allocPlace c = s.allocPlace c := by
  simp [State.allocPlace, State.dramAt]

theorem exec_memAlloc_bad (h : Starts 2 1 c s) (hbad : allocBad c) :
    exec (.memAlloc c) s = .next ((begun c s).complete c stBadParam) := by
  show execMemAlloc c s = _
  rw [execMemAlloc, runCmd_starts h]
  dsimp only
  rw [if_pos (by simpa [allocBad, or_assoc] using hbad)]

/-- Words that are not bad are answered with the place found, or with its lack. -/
theorem exec_memAlloc_good (h : Starts 2 1 c s) (hgood : ¬allocBad c) : exec (.memAlloc c) s =
    .next ((s.allocPlace c).elim ((begun c s).complete c stNoMemory) fun a =>
      (((begun c s).addAlloc { base := a, size := c.word 1 * 4096, ctx := c.ring }).bump).complete c stOk a) := by
  show execMemAlloc c s = _
  rw [execMemAlloc, runCmd_starts h]
  dsimp only
  rw [if_neg (by simpa [allocBad, or_assoc] using hgood), ← begun_allocPlace]
  change Host.Outcome.next (match (begun c s).allocPlace c with | none => _ | some a => _) = _
  cases (begun c s).allocPlace c <;> rfl

@[simp] theorem begun_allocAt (c : Cmd) (s : State) (a : Nat) : (begun c s).allocAt a = s.allocAt a := by
  simp [State.allocAt]

@[simp] theorem begun_holdsTable (c : Cmd) (s : State) (x : Alloc) : (begun c s).holdsTable x = s.holdsTable x := by
  simp [State.holdsTable, State.pool]

@[simp] theorem begun_underWindow (c : Cmd) (s : State) (x : Alloc) :
    (begun c s).underWindow x = s.underWindow x := by simp [State.underWindow]

@[simp] theorem begun_namedByJob (c : Cmd) (s : State) (x : Alloc) : (begun c s).namedByJob x = s.namedByJob x := by
  simp [State.namedByJob]

theorem exec_memFree_none (h : Starts 2 2 c s) (hnone : s.allocAt (c.addr 0) = none) :
    exec (.memFree c) s = .next ((begun c s).complete c stBadParam) := by
  show execMemFree c s = _
  simp only [execMemFree, runCmd_starts h, begun_allocAt, hnone]

/-- An allocation in use is kept, and another one is dropped (R579). -/
theorem exec_memFree_some {x : Alloc} (h : Starts 2 2 c s) (hx : s.allocAt (c.addr 0) = some x) :
    exec (.memFree c) s = .next (if s.holdsTable x || s.underWindow x || s.namedByJob x then
      (begun c s).complete c stBusy else ((begun c s).dropAlloc x.base).complete c stOk) := by
  show execMemFree c s = _
  simp only [execMemFree, runCmd_starts h, begun_allocAt, hx, begun_holdsTable, begun_underWindow, begun_namedByJob]

end Commands

/-- Settles O33: the commands by their equations, the place by `placeRange_sound`. -/
theorem memoryIsPlacedInFreeRanges : Obligations.MemoryIsPlacedInFreeRanges := by
  refine ⟨fun c s d a hs hd hd4 hin hn hlo hhi hplace => ?_, fun c s a hs hd hn hlo hhi hplace => ?_,
    fun c s hs => ⟨exec_memAlloc_bad hs, fun hd hn hlo hhi hnone => ?_⟩, fun c s hs => exec_memFree_none hs,
    fun c s x hs hx => ⟨fun htable hwindow hjob => ?_, fun hused => ?_⟩⟩
  · subst hd
    have hexec := exec_memAlloc_good hs (by unfold allocBad; omega)
    rw [allocPlace_dram hd4 hin, hplace] at hexec
    obtain ⟨halign, hfits⟩ := placeRange_sound hplace
    obtain ⟨hfrom, hto, hfree⟩ := fits_iff.mp hfits
    exact ⟨hexec, halign, hfrom, hto, fun x hx => hfree _ (mem_takenRanges_of_alloc hx),
      fun m hm b hb => hfree _ (mem_takenRanges_of_withdrawn hm hb)⟩
  · have hexec := exec_memAlloc_good hs (by unfold allocBad; omega)
    rw [allocPlace_hub hd, hplace] at hexec
    obtain ⟨halign, hfits⟩ := placeRange_sound hplace
    obtain ⟨hfrom, hto, hfree⟩ := fits_iff.mp hfits
    exact ⟨hexec, halign, hfrom, hto, fun x hx => hfree _ (mem_takenRanges_of_alloc hx)⟩
  · have hfound : s.allocPlace c = none := hnone
    rw [exec_memAlloc_good hs (by unfold allocBad; omega), hfound]
    rfl
  · rw [exec_memFree_some hs hx, htable, hwindow, hjob]
    rfl
  · rw [exec_memFree_some hs hx, if_pos (by simpa [or_assoc] using hused)]

end Sys2Proof.Machine
end

section
/-! The frame-table agent: entries as 64-bit words, the six operations, and the return of a frame. O36. -/

namespace Sys2Proof.Machine

open Sys2Proof.Safety

/-! Entries as words (R209). -/

/-- The fields of an entry at their widths. -/
def FtEntry.wrap (e : FtEntry) : FtEntry :=
  { home := e.home % 4, gen := e.gen % 16, cow := e.cow, state := e.state % 8, readers := e.readers % 256
    refs := e.refs % 4096, rsv := e.rsv % 4, pool := e.pool % 64, number := e.number % 2 ^ 26 }

theorem bit01_bitAt (v i : Nat) : bit01 (bitAt v i) = bitsOf v i i := by
  have hbit : bitAt v i = decide (v / 2 ^ i % 2 = 1) := Nat.testBit_eq_decide_div_mod_eq ..
  rw [hbit, bit01, bitsOf, Nat.add_sub_cancel_left]
  simp only [decide_eq_true_eq]
  split <;> omega

theorem bit01_lt (b : Bool) : bit01 b < 2 := by cases b <;> decide

theorem bit01_injective : Function.Injective bit01 := by decide

/-- Fields of these widths, from bit 63 down, are read back from their word. -/
theorem fields_of_word {h g c s r f v p n w : Nat} (hh : h < 4) (hg : g < 16) (hc : c < 2) (hs : s < 8) (hr : r < 256)
    (hf : f < 4096) (hv : v < 4) (hp : p < 64) (hn : n < 2 ^ 26) (hw : w = h * 2 ^ 62 + g * 2 ^ 58 + c * 2 ^ 57 +
      s * 2 ^ 54 + r * 2 ^ 46 + f * 2 ^ 34 + v * 2 ^ 32 + p * 2 ^ 26 + n) :
    bitsOf w 63 62 = h ∧ bitsOf w 61 58 = g ∧ bit01 (bitAt w 57) = c ∧ bitsOf w 56 54 = s ∧ bitsOf w 53 46 = r ∧
      bitsOf w 45 34 = f ∧ bitsOf w 33 32 = v ∧ bitsOf w 31 26 = p ∧ bitsOf w 25 0 = n := by
  simp only [bitsOf, bit01_bitAt, Nat.reduceAdd, Nat.reduceSub]
  refine ⟨?_, ?_, ?_, ?_, ?_, ?_, ?_, ?_, ?_⟩ <;> omega

theorem parseEntry_word (e : FtEntry) : parseEntry e.word = e.wrap := by
  obtain ⟨hhome, hgen, hcow, hstate, hreaders, hrefs, hrsv, hpool, hnumber⟩ := fields_of_word (w := e.word)
    (Nat.mod_lt e.home (by decide)) (Nat.mod_lt e.gen (by decide)) (bit01_lt e.cow) (Nat.mod_lt e.state (by decide))
    (Nat.mod_lt e.readers (by decide)) (Nat.mod_lt e.refs (by decide)) (Nat.mod_lt e.rsv (by decide))
    (Nat.mod_lt e.pool (by decide)) (Nat.mod_lt e.number (Nat.two_pow_pos 26)) (by rw [FtEntry.word])
  replace hcow := bit01_injective hcow
  unfold parseEntry FtEntry.wrap
  generalize e.word = w at *
  rw [hhome, hgen, hcow, hstate, hreaders, hrefs, hrsv, hpool, hnumber]

theorem wrap_parseEntry (w : Nat) : (parseEntry w).wrap = parseEntry w := by
  simp [parseEntry, FtEntry.wrap, bitsOf]

/-- A field and the bits below it. -/
theorem bitsOf_add_mod (w : Nat) {hi lo top : Nat} (htop : hi + 1 = top) (h : lo ≤ top) :
    bitsOf w hi lo * 2 ^ lo + w % 2 ^ lo = w % 2 ^ top := by
  subst htop
  rw [bitsOf, ← Nat.add_sub_cancel' h, Nat.pow_add, Nat.mod_mul, Nat.add_sub_cancel_left]
  ring

theorem word_of_wrap {e : FtEntry} (h : e.wrap = e) : e.word = e.home * 2 ^ 62 + e.gen * 2 ^ 58 + bit01 e.cow * 2 ^ 57 +
    e.state * 2 ^ 54 + e.readers * 2 ^ 46 + e.refs * 2 ^ 34 + e.rsv * 2 ^ 32 + e.pool * 2 ^ 26 + e.number := by
  conv_rhs => rw [← h]
  rfl

theorem word_parseEntry {w : Nat} (h : w < 2 ^ 64) : (parseEntry w).word = w := by
  rw [word_of_wrap (wrap_parseEntry w)]
  simp only [parseEntry, bit01_bitAt]
  have hnumber : bitsOf w 25 0 = w % 2 ^ 26 := by rw [bitsOf, Nat.pow_zero, Nat.div_one]
  have field {hi lo top : Nat} (htop : hi + 1 = top) (h : lo ≤ top) := bitsOf_add_mod w htop h
  linarith [@field 63 62 64 rfl (by decide), @field 61 58 62 rfl (by decide), @field 57 57 58 rfl (by decide),
    @field 56 54 57 rfl (by decide), @field 53 46 54 rfl (by decide), @field 45 34 46 rfl (by decide),
    @field 33 32 34 rfl (by decide), @field 31 26 32 rfl (by decide), Nat.mod_eq_of_lt h]

theorem word_lt (e : FtEntry) : e.word < 2 ^ 64 := by
  have hcow := bit01_lt e.cow
  unfold FtEntry.word
  omega

theorem leNat_leBytes (k : Nat) : ∀ v, leNat (leBytes k v) = v % 256 ^ k := by
  induction k with
  | zero => intro v; simp [leBytes, leNat, Nat.mod_one]
  | succ k ih =>
    intro v
    rw [leBytes, leNat, ih, BitVec.toNat_ofNat, pow_succ' 256 k]
    exact Nat.mod_mul.symm

/-! The entry of an index is written, and nothing else of memory. -/

/-- The entry of the index is `e`, and every byte outside it is as it was. -/
def OnlyEntry (index : Nat) (e : FtEntry) (s t : State) : Prop :=
  t.entry index = e ∧ ∀ a, a < entryAddr index ∨ entryAddr index + 8 ≤ a → t.byteAt a = s.byteAt a

/-- Memory reads the same. -/
theorem byteAt_of_mem {s t : State} (hmem : t.mem = s.mem) (hstarts : t.starts = s.starts) (a : Nat) :
    t.byteAt a = s.byteAt a := by
  rw [State.byteAt, State.byteAt, hmem, hstarts]

theorem entryWord_of_mem {s t : State} (hmem : t.mem = s.mem) (hstarts : t.starts = s.starts) (index : Nat) :
    t.entryWord index = s.entryWord index := by
  rw [State.entryWord, State.entryWord, State.natAt, State.natAt, bytesAt_congr (byteAt_of_mem hmem hstarts)]

section Entries

variable {s t u : State} {index : Nat} {e f : FtEntry}

theorem wrap_entry (s : State) (index : Nat) : (s.entry index).wrap = s.entry index := wrap_parseEntry _

theorem entry_setEntry (h : s.mem.wf = true) (index : Nat) (e : FtEntry) :
    (s.setEntry index e).entry index = e.wrap := by
  have hread := bytesAt_write (s := s) (entryAddr index) (leBytes 8 e.word) h
  rw [length_leBytes] at hread
  have hword : (s.setEntry index e).entryWord index = e.word := by
    rw [State.entryWord, State.natAt, State.setEntry, State.writeNat, hread, leNat_leBytes]
    exact Nat.mod_eq_of_lt (word_lt e)
  rw [State.entry, hword, parseEntry_word]

theorem OnlyEntry.setEntry (h : s.mem.wf = true) (index : Nat) (e : FtEntry) :
    OnlyEntry index e.wrap s (s.setEntry index e) :=
  ⟨entry_setEntry h index e, fun a ha => byteAt_write_out s _ _ a h (by rwa [length_leBytes])⟩

/-- What leaves memory leaves it so. -/
theorem OnlyEntry.of_mem (h : OnlyEntry index e s t) (hmem : u.mem = t.mem) (hstarts : u.starts = t.starts) :
    OnlyEntry index e s u :=
  ⟨(congrArg parseEntry (entryWord_of_mem hmem hstarts index)).trans h.1,
    fun a ha => (byteAt_of_mem hmem hstarts a).trans (h.2 a ha)⟩

theorem OnlyEntry.trans (h : OnlyEntry index e s t) (k : OnlyEntry index f t u) : OnlyEntry index f s u :=
  ⟨k.1, fun a ha => (k.2 a ha).trans (h.2 a ha)⟩

/-- An entry with some fields changed within their widths is read back as written. -/
theorem OnlyEntry.setEntry_fits (h : s.mem.wf = true) (index : Nat) {e : FtEntry} (he : e.wrap = e) :
    OnlyEntry index e s (s.setEntry index e) := by
  have hset := OnlyEntry.setEntry h index e
  rwa [he] at hset

theorem wrap_readers {n : Nat} (he : e.wrap = e) (hn : n < 256) :
    ({ e with readers := n } : FtEntry).wrap = { e with readers := n } := by
  conv_rhs => rw [← he, ← Nat.mod_eq_of_lt hn]
  rfl

theorem wrap_refs {n : Nat} (he : e.wrap = e) (hn : n < 4096) (cow : Bool) :
    ({ e with refs := n, cow := cow } : FtEntry).wrap = { e with refs := n, cow := cow } := by
  conv_rhs => rw [← he, ← Nat.mod_eq_of_lt hn]
  rfl

theorem wrap_freed (he : e.wrap = e) :
    ({ e with state := ftFree, cow := false } : FtEntry).wrap = { e with state := ftFree, cow := false } := by
  conv_rhs => rw [← he]
  rfl

theorem readers_lt (he : e.wrap = e) : e.readers < 256 := by
  rw [← he]
  exact Nat.mod_lt _ (by decide)

theorem refs_lt (he : e.wrap = e) : e.refs < 4096 := by
  rw [← he]
  exact Nat.mod_lt _ (by decide)

end Entries

/-! The core and the pools beside the entry. -/

theorem State.onCore_leaves (s : State) (g : Nat) (f : Core → Core) :
    (s.onCore g f).mem = s.mem ∧ (s.onCore g f).starts = s.starts ∧ (s.onCore g f).kv = s.kv := by
  unfold State.onCore
  split <;> exact ⟨rfl, rfl, rfl⟩

/-- An update that an absent core shows no trace of is what a read shows. -/
theorem core_onCore {β : Type} (p : Core → β) (s : State) (g : Nat) (f : Core → Core)
    (h : p (f {}) = p {}) : p ((s.onCore g f).core g) = p (f (s.core g)) := by
  by_cases hg : s.core g = {}
  · rcases core_onCore_cases s g g f with hsame | hdone
    · rw [hsame, hg, h]
    · rw [hdone]
  · rw [onCore_core_of_ne hg]

theorem pool_onPoolDie (s : State) (id d : Nat) (f : PoolDie → PoolDie) :
    (s.onPoolDie id d f).pool id = (s.pool id).map fun p => { p with dies := p.dies.modify d f } := by
  show (s.kv.pools.map _).find? _ = (s.kv.pools.find? _).map _
  induction s.kv.pools with
  | nil => rfl
  | cons p ps ih =>
    by_cases hid : p.id = id
    · simp [hid]
    · simpa [hid] using ih

/-! The return of a frame (R211). -/

/-- The lists of a pool on a die after the return of a frame: the entry is free, and so is the frame of a resident
one. -/
def PoolDie.returned (x : PoolDie) (index : Nat) (e : FtEntry) : PoolDie :=
  { x with
    entries := x.entries.put (idxEntry index - x.firstEntry)
    frames := if e.state = ftResident || e.state = ftPinned then x.frames.put e.number else x.frames }

section Return

variable {s : State} {index : Nat}

theorem not_mem_put (f : FreeList) (n : Nat) : n ∉ (f.put n).used := by simp [FreeList.put]

theorem returnFrame_entry (h : s.mem.wf = true) (index : Nat) :
    OnlyEntry index { s.entry index with state := ftFree, cow := false } s (s.returnFrame index) := by
  refine (OnlyEntry.setEntry_fits h index (wrap_freed (wrap_entry s index))).of_mem ?_ ?_
  · unfold State.returnFrame
    dsimp only
    split <;> rfl
  · unfold State.returnFrame
    dsimp only
    split <;> rfl

theorem returnFrame_pool (s : State) (index : Nat) : (s.returnFrame index).pool (s.entry index).pool =
    (s.pool (s.entry index).pool).map fun p => { p with
      dies := p.dies.modify (idxDie index) fun x => x.returned index (s.entry index) } := by
  have hpool := pool_onPoolDie (s.setEntry index { s.entry index with state := ftFree, cow := false })
    (s.entry index).pool (idxDie index) fun x => x.returned index (s.entry index)
  unfold State.returnFrame
  dsimp only
  split <;> exact hpool

/-- On its die a pool has the entry of a returned frame free again, and the frame of a resident one. -/
theorem returnFrame_frees {p q : Pool} (hp : s.pool (s.entry index).pool = some p)
    (hq : (s.returnFrame index).pool (s.entry index).pool = some q) (hdie : idxDie index < p.dies.length) :
    idxEntry index - (p.die (idxDie index)).firstEntry ∉ (q.die (idxDie index)).entries.used ∧
      ((s.entry index).state = ftResident ∨ (s.entry index).state = ftPinned →
        (s.entry index).number ∉ (q.die (idxDie index)).frames.used) := by
  rw [returnFrame_pool, hp] at hq
  obtain rfl := Option.some.inj hq
  have hread : Pool.die { p with dies := p.dies.modify (idxDie index) fun x => x.returned index (s.entry index) }
      (idxDie index) = (p.die (idxDie index)).returned index (s.entry index) := by
    simp [Pool.die, hdie]
  rw [hread]
  refine ⟨not_mem_put _ _, fun hstate => ?_⟩
  have hframes : ((p.die (idxDie index)).returned index (s.entry index)).frames =
      (p.die (idxDie index)).frames.put (s.entry index).number := if_pos (by simpa using hstate)
  rw [hframes]
  exact not_mem_put _ _

theorem maybeReturn_held (h : 0 < (s.entry index).refs ∨ 0 < (s.entry index).readers) :
    s.maybeReturn index = s := by
  unfold State.maybeReturn
  dsimp only
  rw [if_neg]
  simp only [Bool.and_eq_true, decide_eq_true_eq]
  omega

theorem maybeReturn_free (hrefs : (s.entry index).refs = 0) (hreaders : (s.entry index).readers = 0)
    (hstate : (s.entry index).state = ftResident ∨ (s.entry index).state = ftPinned ∨
      (s.entry index).state = ftSwapped) : s.maybeReturn index = s.returnFrame index := by
  unfold State.maybeReturn
  dsimp only
  rw [if_pos]
  simpa [hrefs, hreaders, or_assoc] using hstate

end Return

/-! A decrement, and what it returns: RELEASE and REF_SUB (R211). -/

section Decrement

variable {s : State} {index : Nat} {e : FtEntry}

/-- An entry that keeps a reader or a reference after its decrement stands in its table. -/
theorem maybeReturn_setEntry_held (h : s.mem.wf = true) (he : e.wrap = e) (hheld : 0 < e.refs ∨ 0 < e.readers) :
    (s.setEntry index e).maybeReturn index = s.setEntry index e := by
  obtain ⟨hentry, -⟩ := OnlyEntry.setEntry_fits h index he
  exact maybeReturn_held (by rwa [hentry])

/-- An entry that the decrement leaves without readers and references is freed, and its pool has it back. -/
theorem maybeReturn_setEntry_free (h : s.mem.wf = true) (he : e.wrap = e) (hrefs : e.refs = 0)
    (hreaders : e.readers = 0) (hstate : e.state = ftResident ∨ e.state = ftPinned ∨ e.state = ftSwapped) :
    OnlyEntry index { e with state := ftFree, cow := false } s ((s.setEntry index e).maybeReturn index) ∧
      ∀ p q, s.pool e.pool = some p → ((s.setEntry index e).maybeReturn index).pool e.pool = some q →
        idxDie index < p.dies.length →
        idxEntry index - (p.die (idxDie index)).firstEntry ∉ (q.die (idxDie index)).entries.used ∧
          (e.state = ftResident ∨ e.state = ftPinned → e.number ∉ (q.die (idxDie index)).frames.used) := by
  have hset := OnlyEntry.setEntry_fits h index he
  have hentry := hset.1
  have hreturn := maybeReturn_free (s := s.setEntry index e) (index := index) (by rw [hentry, hrefs])
    (by rw [hentry, hreaders]) (by rwa [hentry])
  have hfreed := returnFrame_entry (s := s.setEntry index e) (write_wf _ _ _ h) index
  rw [hreturn]
  rw [hentry] at hfreed
  refine ⟨hset.trans hfreed, fun p q hp hq hdie => ?_⟩
  have hfrees := returnFrame_frees (s := s.setEntry index e) (index := index) (p := p) (q := q)
  rw [hentry] at hfrees
  exact hfrees hp hq hdie

end Decrement

/-! The six operations (R211). -/

/-- The requester holds the frame no longer (R213). -/
def State.dropUse (s : State) (x : FrameUse) : State :=
  (s.onKv fun k => { k with engineReads := k.engineReads.filter (· ≠ (x.requester, x.index)) }).onCore x.requester
    fun k => { k with readers := k.readers.filter (· ≠ x.index) }

/-- The frame-table agent has answered (R211). -/
def State.answer (s : State) (v : Option Nat) : State := s.onKv fun x => { x with reply := v }

section Operations

variable {s u : State} {index pool r : Nat}

theorem dropUse_leaves (s : State) (x : FrameUse) : (s.dropUse x).mem = s.mem ∧ (s.dropUse x).starts = s.starts ∧
    (s.dropUse x).kv = { s.kv with engineReads := s.kv.engineReads.filter (· ≠ (x.requester, x.index)) } :=
  State.onCore_leaves _ _ _

theorem dropUse_readers (s : State) (index r : Nat) :
    ((s.dropUse ⟨index, r⟩).core r).readers = (s.core r).readers.filter (· ≠ index) :=
  core_onCore Core.readers _ _ _ rfl

theorem dropUse_pool (s : State) (x : FrameUse) (id : Nat) : (s.dropUse x).pool id = s.pool id := by
  rw [State.pool, (dropUse_leaves s x).2.2, State.pool]

theorem exec_ftRelease (h : 0 < (s.entry index).readers) (r : Nat) : exec (.ftRelease ⟨index, r⟩) s =
    .next (((s.setEntry index { s.entry index with readers := (s.entry index).readers - 1 }).maybeReturn index).dropUse
      ⟨index, r⟩) :=
  congrArg (fun t => Host.Outcome.next (State.dropUse t ⟨index, r⟩)) (if_neg (Nat.ne_of_gt h))

theorem exec_ftRefSub (h : 0 < (s.entry index).refs) : exec (.ftRefSub index) s =
    .next ((s.setEntry index { s.entry index with refs := (s.entry index).refs - 1 }).maybeReturn index) :=
  congrArg Host.Outcome.next (if_neg (Nat.ne_of_gt h))

theorem wrap_released (s : State) (index : Nat) :
    ({ s.entry index with readers := (s.entry index).readers - 1 } : FtEntry).wrap =
      { s.entry index with readers := (s.entry index).readers - 1 } :=
  wrap_readers (wrap_entry s index) (by have := readers_lt (wrap_entry s index); omega)

theorem wrap_unreferenced (s : State) (index : Nat) :
    ({ s.entry index with refs := (s.entry index).refs - 1 } : FtEntry).wrap =
      { s.entry index with refs := (s.entry index).refs - 1 } :=
  wrap_refs (wrap_entry s index) (by have := refs_lt (wrap_entry s index); omega) _

/-- The entry with one more reader (R211). -/
def State.addReader (s : State) (index : Nat) : State :=
  s.setEntry index { s.entry index with readers := (s.entry index).readers + 1 }

theorem addReader_entry (h : s.mem.wf = true) (hroom : (s.entry index).readers < 255) :
    OnlyEntry index { s.entry index with readers := (s.entry index).readers + 1 } s (s.addReader index) :=
  OnlyEntry.setEntry_fits h index (wrap_readers (wrap_entry s index) (by omega))

theorem ftLookup_readable (h : (s.entry index).readable (idxDie index) pool = true) : s.ftLookup index pool =
    (some { s.entry index with readers := (s.entry index).readers + 1 }, s.addReader index) := if_pos h

theorem ftLookup_unreadable (h : (s.entry index).readable (idxDie index) pool = false) :
    s.ftLookup index pool = (none, s) := if_neg (by rw [h]; exact Bool.false_ne_true)

/-! LOOKUP by an engine of hub DMA. -/

theorem exec_ftLookup_engine (h : 64 ≤ r) :
    exec (.ftLookup index pool r) s = .next (s.engineLookup r index pool) :=
  congrArg Host.Outcome.next (if_neg (Nat.not_lt.mpr h))

theorem engineLookup_outside (h : 2 ^ 23 ≤ index) : s.engineLookup r index pool = s.answer none := if_pos h

theorem engineLookup_again (h : index < 2 ^ 23) (hheld : s.kv.engineReads.contains (r, index) = true) :
    s.engineLookup r index pool = s.answer
      (if (s.entry index).readable (idxDie index) pool = true then some (s.entryWord index) else none) := by
  unfold State.engineLookup
  rw [if_neg (Nat.not_le.mpr h), if_pos hheld]
  rfl

theorem engineLookup_unreadable (h : index < 2 ^ 23) (hbad : (s.entry index).readable (idxDie index) pool = false) :
    s.engineLookup r index pool = s.answer none := by
  cases hheld : s.kv.engineReads.contains (r, index)
  · unfold State.engineLookup
    rw [if_neg (Nat.not_le.mpr h), hheld, ftLookup_unreadable hbad]
    rfl
  · rw [engineLookup_again h hheld, hbad]
    rfl

/-- The first LOOKUP of a transfer adds its reader and returns the entry (R213). -/
theorem engineLookup_first (h : index < 2 ^ 23) (hread : (s.entry index).readable (idxDie index) pool = true)
    (hnew : s.kv.engineReads.contains (r, index) = false) : s.engineLookup r index pool =
      (s.addReader index).onKv fun x => { x with
        reply := some ((s.addReader index).entryWord index), engineReads := x.engineReads ++ [(r, index)] } := by
  unfold State.engineLookup
  rw [if_neg (Nat.not_le.mpr h), hnew, ftLookup_readable hread]
  rfl

/-! LOOKUP by the tile of a core. -/

theorem exec_ftLookup_idle (hr : r < 64) (h : (s.core r).run ≠ .running) :
    exec (.ftLookup index pool r) s = .next s :=
  congrArg Host.Outcome.next ((if_pos hr).trans (if_neg h))

theorem exec_ftLookup_tile (hr : r < 64) (h : (s.core r).run = .running) :
    exec (.ftLookup index pool r) s = .next (s.coreLookup r index pool).2 :=
  congrArg Host.Outcome.next ((if_pos hr).trans (if_pos h))

theorem coreLookup_outside (h : 2 ^ 23 ≤ index) : (s.coreLookup r index pool).2 = s.tileFault r 9 :=
  congrArg Prod.snd (if_pos h)

theorem coreLookup_closed (h : index < 2 ^ 23) (hopen : s.lookupOpen r index = false) :
    (s.coreLookup r index pool).2 = s.tileFault r 3 := by
  unfold State.coreLookup
  dsimp only
  rw [if_neg (Nat.not_le.mpr h), hopen]
  rfl

theorem coreLookup_unreadable (h : index < 2 ^ 23) (hopen : s.lookupOpen r index = true)
    (hbad : (s.entry index).readable (idxDie index) pool = false) :
    (s.coreLookup r index pool).2 = (s.answer none).tileFault r 9 := by
  unfold State.coreLookup
  dsimp only
  rw [if_neg (Nat.not_le.mpr h), hopen, hbad]
  rfl

/-- A readable entry: the tile holds it already, has no place for it (R212), or becomes its reader. -/
theorem coreLookup_readable (h : index < 2 ^ 23) (hopen : s.lookupOpen r index = true)
    (hread : (s.entry index).readable (idxDie index) pool = true) : (s.coreLookup r index pool).2 =
      if (s.core r).readers.contains index = true then s.answer (some (s.entryWord index))
      else if 256 ≤ (s.core r).readers.length then s.tileFault r 5
      else ((s.addReader index).onCore r fun y => { y with readers := y.readers ++ [index] }).answer
        (some ((s.addReader index).entryWord index)) := by
  unfold State.coreLookup
  dsimp only
  rw [if_neg (Nat.not_le.mpr h), if_neg (by simp [hopen]), if_neg (by simp [hread]), ftLookup_readable hread]
  split
  · rfl
  · split <;> rfl

/-- A tile becomes a reader of the entry, and holds it (R213). -/
theorem exec_ftLookup_reads (hwf : s.mem.wf = true) (hr : r < 64) (hrun : (s.core r).run = .running)
    (hindex : index < 2 ^ 23) (hopen : s.lookupOpen r index = true)
    (hread : (s.entry index).readable (idxDie index) pool = true) (hroom : (s.entry index).readers < 255)
    (hnew : (s.core r).readers.contains index = false) (hfew : (s.core r).readers.length < 256) :
    ∃ t : State, exec (.ftLookup index pool r) s = .next t ∧
      OnlyEntry index { s.entry index with readers := (s.entry index).readers + 1 } s t ∧
      t.kv = { s.kv with reply := some (t.entryWord index) } ∧ (t.core r).readers = (s.core r).readers ++ [index] := by
  have hcore : ((s.addReader index).core r).run = .running := hrun
  obtain ⟨hmem, hstarts, hkv⟩ :=
    (s.addReader index).onCore_leaves r fun y => { y with readers := y.readers ++ [index] }
  have hword := entryWord_of_mem hmem hstarts index
  refine ⟨_, (exec_ftLookup_tile hr hrun).trans (congrArg _ (coreLookup_readable hindex hopen hread)), ?_⟩
  rw [if_neg (by rw [hnew]; exact Bool.false_ne_true), if_neg (Nat.not_le.mpr hfew)]
  refine ⟨(addReader_entry hwf hroom).of_mem hmem hstarts, ?_, congrArg Core.readers (State.onCore_core hcore _)⟩
  exact (congrArg (fun k => { k with reply := some ((s.addReader index).entryWord index) }) hkv).trans
    (congrArg (fun w => { s.kv with reply := some w }) hword.symm)

/-! REF_ADD and ALLOC. -/

theorem exec_ftRefAdd_room {n : Nat} (h : (s.entry index).refs + n ≤ 4095) : exec (.ftRefAdd index n) s =
    .next (s.setEntry index { s.entry index with
      refs := (s.entry index).refs + n, cow := (s.entry index).cow || decide (1 < (s.entry index).refs + n) }) :=
  congrArg Host.Outcome.next (if_pos h)

/-- ALLOC writes the entry that it takes, and leaves the rest of memory. -/
theorem ftAlloc_writes {die state i : Nat} (h : s.ftAlloc die pool state i = some (index, u)) :
    ∃ (t : State) (n : Nat), t.mem = s.mem ∧ t.starts = s.starts ∧ u = t.setEntry index
      { home := die, gen := (s.entry index).gen + 1, state := state, refs := 1, pool := pool, number := n } := by
  unfold State.ftAlloc at h
  split at h
  · contradiction
  · split at h
    · contradiction
    · dsimp only at h
      split at h
      · contradiction
      · split at h <;> split at h
        · contradiction
        · obtain ⟨rfl, rfl⟩ := Prod.mk.inj (Option.some.inj h)
          refine ⟨_, _, ?_, ?_, rfl⟩ <;> rfl
        · contradiction
        · obtain ⟨rfl, rfl⟩ := Prod.mk.inj (Option.some.inj h)
          refine ⟨_, _, ?_, ?_, rfl⟩ <;> rfl

theorem exec_ftAlloc (s : State) (die pool state : Nat) : exec (.ftAlloc die pool state) s =
    .next ((s.ftAlloc die pool state 0).elim s fun x => x.2.bump) := by
  show execFtAlloc die pool state s = _
  unfold execFtAlloc
  cases s.ftAlloc die pool state 0 <;> rfl

/-- The entry that ALLOC makes: one reference, no readers, and the next generation. -/
theorem exec_ftAlloc_writes {die state : Nat} (hwf : s.mem.wf = true)
    (h : s.ftAlloc die pool state 0 = some (index, u)) :
    ∃ (t : State) (n : Nat), exec (.ftAlloc die pool state) s = .next t ∧ OnlyEntry index (FtEntry.wrap
      { home := die, gen := (s.entry index).gen + 1, state := state, refs := 1, pool := pool, number := n }) s t := by
  obtain ⟨t, n, hmem, hstarts, rfl⟩ := ftAlloc_writes h
  obtain ⟨hentry, hout⟩ := OnlyEntry.setEntry (s := t) (by rwa [hmem]) index
    { home := die, gen := (s.entry index).gen + 1, state := state, refs := 1, pool := pool, number := n }
  have hexec := exec_ftAlloc s die pool state
  rw [h] at hexec
  exact ⟨_, n, hexec, hentry, fun a ha => (hout a ha).trans (byteAt_of_mem hmem hstarts a)⟩

end Operations

/-- Settles O36: the operations by their equations, the entries by `OnlyEntry.setEntry`, the return of a frame by
`maybeReturn_setEntry_free`. -/
theorem frameTableOperationsAreExact : Obligations.FrameTableOperationsAreExact := by
  unfold Obligations.FrameTableOperationsAreExact
  intro outside answered
  refine ⟨fun w hw => word_parseEntry hw, fun s index pool r hr hindex => ⟨fun hwf hread hroom hnew => ?_,
      fun hread hheld => ?_, fun hbad => ?_⟩,
    fun s index pool r hr hrun hindex hopen => ⟨fun hwf hread hroom hnew hfew => ?_, fun hread hheld => ?_,
      fun hread hnew hfull => ?_, fun hbad => ?_⟩,
    fun s index pool r => ⟨exec_ftLookup_idle, fun hr hrun hindex hclosed => ?_, fun hr hrun hindex => ?_,
      fun hr hindex => ?_⟩,
    fun s index r hwf hreader hheld => ?_, fun s index r hwf hreaders hrefs hstate => ?_,
    fun s index n hwf => ⟨fun hroom => ?_, fun hfull => ?_⟩,
    fun s index hwf href hheld => ?_, fun s index hwf hrefs hreaders hstate => ?_,
    fun s index e n => ⟨fun hsame => ?_, fun hother => ?_⟩,
    fun s u die pool state index hwf halloc hdie hpool hstate _ => ?_, fun s die pool state hnone => ?_⟩
  · obtain ⟨hentry, hout⟩ := addReader_entry hwf hroom
    exact ⟨_, (exec_ftLookup_engine hr).trans (congrArg _ (engineLookup_first hindex hread hnew)), hentry, hout, rfl⟩
  · rw [exec_ftLookup_engine hr, engineLookup_again hindex hheld, hread]
    rfl
  · rw [exec_ftLookup_engine hr, engineLookup_unreadable hindex hbad]
    rfl
  · obtain ⟨t, hexec, ⟨hentry, hout⟩, hkv, hreaders⟩ :=
      exec_ftLookup_reads hwf hr hrun hindex hopen hread hroom hnew hfew
    exact ⟨t, hexec, hentry, hout, hkv, hreaders⟩
  · rw [exec_ftLookup_tile hr hrun, coreLookup_readable hindex hopen hread, if_pos hheld]
    rfl
  · rw [exec_ftLookup_tile hr hrun, coreLookup_readable hindex hopen hread,
      if_neg (by rw [hnew]; exact Bool.false_ne_true), if_pos hfull]
  · rw [exec_ftLookup_tile hr hrun, coreLookup_unreadable hindex hopen hbad]
    rfl
  · rw [exec_ftLookup_tile hr hrun, coreLookup_closed hindex hclosed]
  · rw [exec_ftLookup_tile hr hrun, coreLookup_outside hindex]
  · rw [exec_ftLookup_engine hr, engineLookup_outside hindex]
    rfl
  · have hset := OnlyEntry.setEntry_fits hwf index (wrap_released s index)
    have hstays := maybeReturn_setEntry_held (index := index) hwf (wrap_released s index) (by dsimp only; omega)
    have hexec := exec_ftRelease hreader r
    rw [hstays] at hexec
    obtain ⟨hmem, hstarts, hkv⟩ := dropUse_leaves
      (s.setEntry index { s.entry index with readers := (s.entry index).readers - 1 }) ⟨index, r⟩
    obtain ⟨hentry, hout⟩ := hset.of_mem hmem hstarts
    exact ⟨_, hexec, hentry, hout, hkv, dropUse_readers _ index r⟩
  · have hwrap := wrap_released s index
    have hexec := exec_ftRelease (s := s) (index := index) (by omega) r
    rw [hreaders] at hwrap hexec
    obtain ⟨hfreed, hpools⟩ := maybeReturn_setEntry_free hwf hwrap hrefs rfl (hstate.imp_right .inl)
    obtain ⟨hmem, hstarts, -⟩ := dropUse_leaves
      ((s.setEntry index { s.entry index with readers := 0 }).maybeReturn index) ⟨index, r⟩
    obtain ⟨hentry, hout⟩ := hfreed.of_mem hmem hstarts
    refine ⟨_, hexec, hentry, hout, fun p q hp hq hdie => (hpools p q hp ?_ hdie).2 hstate⟩
    exact (dropUse_pool _ _ _).symm.trans hq
  · obtain ⟨hentry, hout⟩ := OnlyEntry.setEntry_fits hwf index (wrap_refs (wrap_entry s index)
      (n := (s.entry index).refs + n) (by omega) ((s.entry index).cow || decide (1 < (s.entry index).refs + n)))
    exact ⟨_, exec_ftRefAdd_room hroom, hentry, hout, rfl⟩
  · exact congrArg Host.Outcome.next (if_neg (Nat.not_le.mpr hfull))
  · have hstays := maybeReturn_setEntry_held (index := index) hwf (wrap_unreferenced s index) (by dsimp only; omega)
    have hexec := exec_ftRefSub href
    rw [hstays] at hexec
    obtain ⟨hentry, hout⟩ := OnlyEntry.setEntry_fits hwf index (wrap_unreferenced s index)
    exact ⟨_, hexec, hentry, hout, rfl⟩
  · have hwrap := wrap_unreferenced s index
    have hexec := exec_ftRefSub (s := s) (index := index) (by omega)
    rw [hrefs] at hwrap hexec
    obtain ⟨⟨hentry, hout⟩, hpools⟩ := maybeReturn_setEntry_free hwf hwrap rfl hreaders hstate
    exact ⟨_, hexec, hentry, hout, fun p q hp hq hdie => (hpools p q hp hq hdie).1⟩
  · exact congrArg Host.Outcome.next (if_pos hsame)
  · exact congrArg Host.Outcome.next (if_neg hother)
  · obtain ⟨t, n, hexec, hentry, hout⟩ := exec_ftAlloc_writes hwf halloc
    exact ⟨t, hexec, (congrArg FtEntry.home hentry).trans (Nat.mod_eq_of_lt hdie), congrArg FtEntry.gen hentry,
      (congrArg FtEntry.state hentry).trans (Nat.mod_eq_of_lt hstate), congrArg FtEntry.refs hentry,
      congrArg FtEntry.readers hentry, (congrArg FtEntry.pool hentry).trans (Nat.mod_eq_of_lt hpool),
      congrArg FtEntry.cow hentry, hout⟩
  · rw [exec_ftAlloc, hnone]
    rfl

end Sys2Proof.Machine
end

section
/-! The KV manager's commands: what the mark of a slot leaves, what completes a command, pools, sequences and their
block tables. O37. -/

namespace Sys2Proof.Machine

open Sys2Proof.Safety

/-! The mark of a command's slot leaves all that lies outside the host link (R423). -/

/-- What no update of the host link changes, the mark of a slot leaves. -/
theorem of_begun {β : Type} (view : State → β) (h : ∀ (u : State) f, view (u.onHl f) = view u) (c : Cmd) (s : State) :
    view (begun c s) = view s := by
  unfold begun State.onCtx
  split <;> exact h _ _

section Begun

variable (c : Cmd) (s : State)

@[simp] theorem begun_pool (id : Nat) : (begun c s).pool id = s.pool id :=
  of_begun (·.pool id) (fun _ _ => rfl) c s
@[simp] theorem begun_entriesUsed (d : Nat) : (begun c s).entriesUsed d = s.entriesUsed d :=
  of_begun (·.entriesUsed d) (fun _ _ => rfl) c s
@[simp] theorem begun_seqAt (id : Nat) : (begun c s).seqAt id = s.seqAt id :=
  of_begun (·.seqAt id) (fun _ _ => rfl) c s
@[simp] theorem begun_seqNamed (id : Nat) : (begun c s).seqNamed id = s.seqNamed id :=
  of_begun (·.seqNamed id) (fun _ _ => rfl) c s
@[simp] theorem begun_entry (index : Nat) : (begun c s).entry index = s.entry index :=
  of_begun (·.entry index) (fun _ _ => rfl) c s
@[simp] theorem begun_framesOf (p : Pool) (q : KvSeq) (a b : Nat) :
    (begun c s).framesOf p q a b = s.framesOf p q a b := of_begun (·.framesOf p q a b) (fun _ _ => rfl) c s
@[simp] theorem begun_seqInUse (id : Nat) : (begun c s).seqInUse id = s.seqInUse id :=
  of_begun (·.seqInUse id) (fun _ _ => rfl) c s
@[simp] theorem begun_seqMoving (q : KvSeq) : (begun c s).seqMoving q = s.seqMoving q :=
  of_begun (·.seqMoving q) (fun _ _ => rfl) c s
@[simp] theorem begun_ownsTables (ctx : Nat) (p : Pool) (q : KvSeq) :
    (begun c s).ownsTables ctx p q = s.ownsTables ctx p q := by
  simp [State.ownsTables, State.ownsRange]
@[simp] theorem begun_poolPlaces (p : Pool) : (begun c s).poolPlaces p = s.poolPlaces p := by
  simp [State.poolPlaces, State.dramAt]

end Begun

/-! Pools (R203 to R205). -/

/-- The pool's lists on a die hold nothing yet, and its memory lies at `base` (R205, R208). -/
def PoolDie.FreshAt (p : Pool) (base : Nat) (x : PoolDie) : Prop :=
  x.base = base ∧ x.frames = { bound := p.framesPerDie } ∧ x.entries = { bound := p.entriesPerDie }

/-- A pool is placed on a die: its lists there are fresh, and nothing else of it changes. -/
theorem poolOnDie_pool (s : State) (p : Pool) (d base : Nat) : ∃ x : PoolDie, x.FreshAt p base ∧
    (s.poolOnDie p d base).pool p.id = (s.pool p.id).map fun q => { q with dies := q.dies.modify d fun _ => x } :=
  ⟨_, ⟨rfl, rfl, rfl⟩, pool_onPoolDie _ p.id d _⟩

theorem die_modify_same {q : Pool} {d : Nat} (h : d < q.dies.length) (x : PoolDie) :
    Pool.die { q with dies := q.dies.modify d fun _ => x } d = x := by
  simp [Pool.die, h]

theorem die_modify_ne (q : Pool) {d e : Nat} (h : d ≠ e) (f : PoolDie → PoolDie) :
    Pool.die { q with dies := q.dies.modify d f } e = q.die e := by
  simp [Pool.die, h]

/-- A pool is placed on several dies. -/
theorem foldl_poolOnDie_pool (p : Pool) (places : List (Nat × Nat)) : ∀ (s : State) (q : Pool),
    (places.map Prod.fst).Nodup → (∀ x ∈ places, x.1 < q.dies.length) → s.pool p.id = some q →
    ∃ r, (places.foldl (fun u x => u.poolOnDie p x.1 x.2) s).pool p.id = some r ∧ r = { q with dies := r.dies } ∧
      (∀ d, d ∉ places.map Prod.fst → r.die d = q.die d) ∧ ∀ x ∈ places, (r.die x.1).FreshAt p x.2 := by
  induction places with
  | nil => exact fun s q _ _ hq => ⟨q, hq, rfl, fun _ _ => rfl, by simp⟩
  | cons x places ih =>
    intro s q hnodup hlt hq
    obtain ⟨hnew, hnodup⟩ := List.nodup_cons.mp hnodup
    obtain ⟨y, hfresh, hpool⟩ := poolOnDie_pool s p x.1 x.2
    rw [hq] at hpool
    obtain ⟨r, hr, hfields, hothers, hplaced⟩ := ih _ _ hnodup (by simpa using fun z hz => hlt z (by simp [hz])) hpool
    refine ⟨r, hr, hfields, fun d hd => ?_, fun z hz => ?_⟩
    · rw [hothers d (List.not_mem_of_not_mem_cons hd), die_modify_ne q (List.ne_of_not_mem_cons hd).symm]
    · rcases List.mem_cons.mp hz with rfl | hz
      · rw [hothers _ hnew, die_modify_same (hlt z (by simp))]
        exact hfresh
      · exact hplaced z hz

theorem poolPlaces_dies {s : State} {p : Pool} {places : List (Nat × Nat)} (h : s.poolPlaces p = some places) :
    places.map Prod.fst = p.dieList := by
  unfold State.poolPlaces at h
  generalize p.dieList = ds at h ⊢
  induction ds generalizing places with
  | nil => cases h; rfl
  | cons d ds ih =>
    rw [List.foldr_cons] at h
    split at h
    · next l a hl _ => cases h; exact congrArg (d :: ·) (ih hl)
    · contradiction

theorem dieList_nodup (p : Pool) : p.dieList.Nodup := List.nodup_range.filter _

theorem mem_dieList {p : Pool} {d : Nat} : d ∈ p.dieList ↔ d < 4 ∧ p.onDie d = true := by simp [Pool.dieList]

/-- The block of KV.POOL_CREATE asks for more entries than a die's table has left (R204). -/
def State.tableFull (s : State) (p : Pool) : Bool :=
  p.dieList.any fun d => decide (tableEntries < s.entriesUsed d + p.entriesPerDie)

/-- The pool is entered in the list of pools and placed on its dies (R205, R208). -/
def State.makePool (s : State) (p : Pool) (places : List (Nat × Nat)) : State :=
  (places.foldl (fun u x => u.poolOnDie p x.1 x.2) (s.onKv fun k => { k with pools := k.pools ++ [p] })).bump

/-- A pool that is new by its id is found by it (R204). -/
theorem pool_appended {s : State} {p : Pool} (h : s.pool p.id = none) :
    (s.onKv fun k => { k with pools := k.pools ++ [p] }).pool p.id = some p := by
  rw [State.pool] at h
  rw [State.pool, State.onKv_kv, List.find?_append, h]
  simp

/-- A pool that is made has the fields of its block, and is fresh on each of its dies. -/
theorem makePool_pool {s : State} {p : Pool} {places : List (Nat × Nat)} (hdies : p.dies.length = 4)
    (hnew : s.pool p.id = none) (hfst : places.map Prod.fst = p.dieList) :
    ∃ q : Pool, (s.makePool p places).pool p.id = some q ∧ q = { p with dies := q.dies } ∧
      ∀ d a, (d, a) ∈ places → (q.die d).FreshAt p a := by
  have hlt (x : Nat × Nat) (hx : x ∈ places) : x.1 < p.dies.length := by
    have hmem : x.1 ∈ p.dieList := hfst ▸ List.mem_map_of_mem hx
    rw [hdies]
    exact (mem_dieList.mp hmem).1
  obtain ⟨q, hq, hfields, -, hfresh⟩ := foldl_poolOnDie_pool p places _ p (by rw [hfst]; exact dieList_nodup p) hlt
    (pool_appended hnew)
  exact ⟨q, hq, hfields, fun d a h => hfresh (d, a) h⟩

/-- Making a pool leaves memory and the sequences, and takes its allocations (R205). -/
theorem makePool_leaves (s : State) (p : Pool) (places : List (Nat × Nat)) :
    (s.makePool p places).mem = s.mem ∧ (s.makePool p places).kv.seqs = s.kv.seqs ∧
      (s.makePool p places).hl.allocs =
        s.hl.allocs ++ places.map fun x => { base := x.2, size := p.regionBytes, firmware := true } := by
  suffices h : ∀ u : State, let v := places.foldl (fun u x => u.poolOnDie p x.1 x.2) u
      v.mem = u.mem ∧ v.kv.seqs = u.kv.seqs ∧
        v.hl.allocs = u.hl.allocs ++ places.map fun x => { base := x.2, size := p.regionBytes, firmware := true } from
    h (s.onKv fun k => { k with pools := k.pools ++ [p] })
  induction places with
  | nil => exact fun u => ⟨rfl, rfl, by simp⟩
  | cons x places ih =>
    intro u
    obtain ⟨hmem, hseqs, hallocs⟩ := ih (u.poolOnDie p x.1 x.2)
    refine ⟨hmem, hseqs, hallocs.trans ?_⟩
    rw [List.map_cons, List.append_cons]
    rfl

section PoolCreate

variable {c : Cmd} {s : State}

theorem exec_kvPoolCreate (h : Starts 5 1 c s) : exec (.kvPoolCreate c) s = .next (
    if (poolBad (parsePool c.data) || (s.pool (parsePool c.data).id).isSome) = true then
      (begun c s).complete c stBadParam
    else if s.tableFull (parsePool c.data) = true then (begun c s).complete c stLimit
    else (s.poolPlaces (parsePool c.data)).elim ((begun c s).complete c stNoMemory) fun places =>
      ((begun c s).makePool (parsePool c.data) places).complete c stOk) := by
  refine congrArg Host.Outcome.next ((runCmd_starts h _).trans ?_)
  simp only [begun_pool, begun_entriesUsed, begun_poolPlaces]
  cases s.poolPlaces (parsePool c.data) <;> rfl

theorem exec_kvPoolCreate_new (h : Starts 5 1 c s) (hgood : poolBad (parsePool c.data) = false)
    (hnew : s.pool (parsePool c.data).id = none) : exec (.kvPoolCreate c) s = .next (
      if s.tableFull (parsePool c.data) = true then (begun c s).complete c stLimit
      else (s.poolPlaces (parsePool c.data)).elim ((begun c s).complete c stNoMemory) fun places =>
        ((begun c s).makePool (parsePool c.data) places).complete c stOk) := by
  rw [exec_kvPoolCreate h, if_neg (by simp [hgood, hnew])]

theorem exec_kvPoolCreate_fits (h : Starts 5 1 c s) (hgood : poolBad (parsePool c.data) = false)
    (hnew : s.pool (parsePool c.data).id = none) (hfits : s.tableFull (parsePool c.data) = false) :
    exec (.kvPoolCreate c) s =
      .next ((s.poolPlaces (parsePool c.data)).elim ((begun c s).complete c stNoMemory) fun places =>
        ((begun c s).makePool (parsePool c.data) places).complete c stOk) := by
  rw [exec_kvPoolCreate_new h hgood hnew, if_neg (by simp [hfits])]

end PoolCreate

/-! Block tables (R216). -/

/-- A byte that reads 0xFF still does after a run of 0xFF has been written anywhere. -/
theorem byteAt_write_ones_stays {s : State} (h : s.mem.wf = true) (a n : Nat) {b : Nat} (hb : s.byteAt b = 0xFF) :
    (s.write a (List.replicate n 0xFF)).byteAt b = 0xFF := by
  by_cases hin : a ≤ b ∧ b < a + n
  · rw [byteAt_write_in s a _ b h hin.1 (by simpa using hin.2), List.getD_replicate _ (by omega)]
  · rw [byteAt_write_out s a _ b h (by rw [List.length_replicate]; omega), hb]

/-- Runs of 0xFF at several places: each byte of each of them reads 0xFF. -/
theorem foldl_write_ones (base : Nat → Nat) (n : Nat) (ds : List Nat) : ∀ s : State, s.mem.wf = true →
    let u := ds.foldl (fun x d => x.write (base d) (List.replicate n 0xFF)) s
    (∀ b, s.byteAt b = 0xFF → u.byteAt b = 0xFF) ∧ ∀ d ∈ ds, ∀ i, i < n → u.byteAt (base d + i) = 0xFF := by
  induction ds with
  | nil => exact fun s _ => ⟨fun _ hb => hb, by simp⟩
  | cons d ds ih =>
    intro s hwf
    obtain ⟨hstays, hones⟩ := ih (s.write (base d) (List.replicate n 0xFF)) (write_wf _ _ _ hwf)
    refine ⟨fun b hb => hstays b (byteAt_write_ones_stays hwf _ _ hb), fun e he i hi => ?_⟩
    rcases List.mem_cons.mp he with rfl | he
    · refine hstays _ ?_
      rw [byteAt_write_in s (base e) _ _ hwf (by omega) (by rw [List.length_replicate]; omega),
        List.getD_replicate _ (by omega)]
    · exact hones e he i hi

/-- Every element of a cleared block table reads as no frame. -/
theorem clearTables_ones {s : State} (h : s.mem.wf = true) (p : Pool) (q : KvSeq) {d i : Nat} (hd : d < 4)
    (hdie : p.onDie d = true) (hi : i < tableBytes p q) :
    (s.clearTables p q).byteAt (q.bt.getD d 0 + i) = 0xFF :=
  (foldl_write_ones (fun d => q.bt.getD d 0) (tableBytes p q) p.dieList s h).2 d (mem_dieList.mpr ⟨hd, hdie⟩) i hi

@[simp] theorem State.clearTables_kv (s : State) (p : Pool) (q : KvSeq) : (s.clearTables p q).kv = s.kv :=
  foldl_keeps State.kv (f := fun x d => x.write (q.bt.getD d 0) (List.replicate (tableBytes p q) 0xFF))
    (fun _ _ => rfl) _ s

/-! The frame-table agent leaves the sequences and the swap transfers, the schedule and the cores (R211). -/

/-- What only the commands of sequences, swaps and compaction move of the KV manager. -/
structure KvWork where
  seqs : List KvSeq
  xfers : List Xfer
  compaction : Option Compaction

/-- The sequences, transfers and compaction of a state. -/
def State.kvWork (s : State) : KvWork := ⟨s.kv.seqs, s.kv.xfers, s.kv.compaction⟩

theorem seqs_of_kvWork {s t : State} (h : t.kvWork = s.kvWork) : t.kv.seqs = s.kv.seqs := congrArg KvWork.seqs h

@[simp] theorem State.setEntry_kvWork (s : State) (index : Nat) (e : FtEntry) :
    (s.setEntry index e).kvWork = s.kvWork := rfl
@[simp] theorem State.onPoolDie_kvWork (s : State) (id d : Nat) (f : PoolDie → PoolDie) :
    (s.onPoolDie id d f).kvWork = s.kvWork := rfl

@[simp] theorem State.maybeReturn_kvWork (s : State) (index : Nat) : (s.maybeReturn index).kvWork = s.kvWork := by
  unfold State.maybeReturn State.returnFrame
  dsimp only
  split
  · split <;> rfl
  · rfl

@[simp] theorem State.ftRefSub_kvWork (s : State) (index : Nat) : (s.ftRefSub index).kvWork = s.kvWork := by
  unfold State.ftRefSub
  dsimp only
  split
  · rfl
  · simp

/-- ALLOC takes from its pool's lists and writes an entry. -/
theorem ftAlloc_leaves {s u : State} {die pool state i index : Nat} (h : s.ftAlloc die pool state i = some (index, u)) :
    u.kvWork = s.kvWork ∧ u.desk = s.desk := by
  unfold State.ftAlloc at h
  split at h
  · contradiction
  · split at h
    · contradiction
    · dsimp only at h
      split at h
      · contradiction
      · split at h <;> split at h
        · contradiction
        · cases h; exact ⟨rfl, rfl⟩
        · contradiction
        · cases h; exact ⟨rfl, rfl⟩

@[simp] theorem State.newPage_kvWork (s : State) (q : KvSeq) (state : Nat) (pl : Nat × Nat × Nat) :
    (s.newPage q state pl).kvWork = s.kvWork := by
  unfold State.newPage
  split
  · rfl
  · next h => exact (ftAlloc_leaves h).1

@[simp] theorem State.shareElem_kv (s : State) (q child : KvSeq) (pl : Nat × Nat × Nat) :
    (s.shareElem q child pl).kv = s.kv := by
  unfold State.shareElem
  dsimp only
  split <;> rfl

/-! Sequences are created (R215 to R217, R576). -/

/-- A block of KV.SEQ_CREATE with a field that R215 or R576 does not allow. -/
def State.seqBad (s : State) (d : List Byte) (p : Pool) (q : KvSeq) : Bool :=
  4095 < q.id || (s.seqAt q.id).isSome || 3 < q.cls || 7 < q.priority || q.maxTokens < 16 || 262144 < q.maxTokens ||
    q.maxTokens % 16 ≠ 0 || fieldAt d 5 3 ≠ 0 || fieldAt d 12 4 ≠ 0 || fieldAt d 48 16 ≠ 0 || tablesBad p q

/-- A die of the pool lacks the frames or the entries of a whole sequence (R217). -/
def Pool.short (p : Pool) (q : KvSeq) : Bool :=
  p.dieList.any fun d => decide (p.freeFrames d < p.layers * q.pages ∨ p.freeIndexes d < p.layers * q.pages)

/-- The sequence is entered with the instant of its admission (R217). -/
def State.enterSeq (s : State) (q : KvSeq) : State :=
  s.onKv fun k => { k with seqs := k.seqs ++ [{ q with admitted := s.tsNow }] }

/-- Every page of a CTL or PER sequence gets a frame; none of another one does (R217). -/
def State.fillTables (s : State) (p : Pool) (q : KvSeq) : State :=
  if q.cls ≤ 1 then (pagePlaces p 0 q.pages).foldl (fun x pl => x.newPage q ftResident pl) s else s

/-- A sequence is created: its tables cleared and filled, and itself admitted (R216, R217). -/
def State.makeSeq (s : State) (p : Pool) (q : KvSeq) : State := ((s.clearTables p q).fillTables p q).enterSeq q

theorem seqBad_iff {s : State} {d : List Byte} {p : Pool} {q : KvSeq} : s.seqBad d p q = true ↔
    4095 < q.id ∨ (s.seqAt q.id).isSome = true ∨ 3 < q.cls ∨ 7 < q.priority ∨ q.maxTokens < 16 ∨
      262144 < q.maxTokens ∨ q.maxTokens % 16 ≠ 0 ∨ fieldAt d 5 3 ≠ 0 ∨ fieldAt d 12 4 ≠ 0 ∨ fieldAt d 48 16 ≠ 0 ∨
      tablesBad p q = true := by
  simp [State.seqBad, or_assoc]

/-- An admission enters the sequence, and changes nothing else of the KV manager. -/
theorem enterSeq_kv {s u : State} (h : u.kv = s.kv) (q : KvSeq) :
    ∃ n, (u.enterSeq q).kv = { s.kv with seqs := s.kv.seqs ++ [{ q with admitted := n }] } :=
  ⟨u.tsNow, by rw [State.enterSeq, State.onKv_kv, h]⟩

@[simp] theorem State.fillTables_kvWork (s : State) (p : Pool) (q : KvSeq) :
    (s.fillTables p q).kvWork = s.kvWork := by
  unfold State.fillTables
  split
  · exact foldl_keeps State.kvWork (by simp) _ s
  · rfl

theorem makeSeq_seqs (s : State) (p : Pool) (q : KvSeq) :
    ∃ n, (s.makeSeq p q).kv.seqs = s.kv.seqs ++ [{ q with admitted := n }] := by
  refine ⟨_, congrArg (· ++ [_]) ?_⟩
  rw [seqs_of_kvWork (State.fillTables_kvWork _ p q), State.clearTables_kv]

/-- Of a DEL or BGD sequence no frame is taken: its tables read as no frame throughout (R217). -/
theorem makeSeq_clear {s : State} {q : KvSeq} (h : s.mem.wf = true) (hcls : 2 ≤ q.cls) (p : Pool) :
    (∃ n, (s.makeSeq p q).kv = { s.kv with seqs := s.kv.seqs ++ [{ q with admitted := n }] }) ∧
      ∀ d i, d < 4 → p.onDie d = true → i < tableBytes p q → (s.makeSeq p q).byteAt (q.bt.getD d 0 + i) = 0xFF := by
  have hmake : s.makeSeq p q = (s.clearTables p q).enterSeq q := congrArg (State.enterSeq · q) (if_neg (by omega))
  rw [hmake]
  exact ⟨enterSeq_kv (s.clearTables_kv p q) q, fun d i hd hdie hi => clearTables_ones h p q hd hdie hi⟩

section SeqCreate

variable {c : Cmd} {s : State} {q : KvSeq}

theorem exec_kvSeqCreate (h : Starts 5 2 c s) (hq : parseSeq c.ring c.data = q) : exec (.kvSeqCreate c) s =
    .next ((s.pool q.pool).elim ((begun c s).complete c stBadParam) fun p =>
      if s.seqBad c.data p q = true then (begun c s).complete c stBadParam
      else if s.ownsTables c.ring p q = false then (begun c s).complete c stDenied
      else if q.cls ≤ 1 ∧ p.short q = true then (begun c s).complete c stNoMemory
      else ((begun c s).makeSeq p q).complete c stOk) := by
  refine congrArg Host.Outcome.next ((runCmd_starts h _).trans ?_)
  simp only [begun_pool, begun_seqAt, begun_ownsTables, hq]
  cases s.pool q.pool with
  | none => rfl
  | some p => simp [State.seqBad, Pool.short, State.makeSeq, State.fillTables, State.enterSeq]

theorem exec_kvSeqCreate_none (h : Starts 5 2 c s) (hq : parseSeq c.ring c.data = q) (hp : s.pool q.pool = none) :
    exec (.kvSeqCreate c) s = .next ((begun c s).complete c stBadParam) := by
  rw [exec_kvSeqCreate h hq, hp]
  rfl

theorem exec_kvSeqCreate_bad {p : Pool} (h : Starts 5 2 c s) (hq : parseSeq c.ring c.data = q)
    (hp : s.pool q.pool = some p) (hbad : s.seqBad c.data p q = true) :
    exec (.kvSeqCreate c) s = .next ((begun c s).complete c stBadParam) := by
  rw [exec_kvSeqCreate h hq, hp, Option.elim_some, if_pos hbad]

theorem exec_kvSeqCreate_good {p : Pool} (h : Starts 5 2 c s) (hq : parseSeq c.ring c.data = q)
    (hp : s.pool q.pool = some p) (hgood : s.seqBad c.data p q = false) : exec (.kvSeqCreate c) s = .next (
      if s.ownsTables c.ring p q = false then (begun c s).complete c stDenied
      else if q.cls ≤ 1 ∧ p.short q = true then (begun c s).complete c stNoMemory
      else ((begun c s).makeSeq p q).complete c stOk) := by
  rw [exec_kvSeqCreate h hq, hp, Option.elim_some, if_neg (by rw [hgood]; exact Bool.false_ne_true)]

theorem exec_kvSeqCreate_makes {p : Pool} (h : Starts 5 2 c s) (hq : parseSeq c.ring c.data = q)
    (hp : s.pool q.pool = some p) (hgood : s.seqBad c.data p q = false) (hown : s.ownsTables c.ring p q = true)
    (hroom : ¬(q.cls ≤ 1 ∧ p.short q = true)) :
    exec (.kvSeqCreate c) s = .next (((begun c s).makeSeq p q).complete c stOk) := by
  rw [exec_kvSeqCreate_good h hq hp hgood, if_neg (by simp [hown]), if_neg hroom]

end SeqCreate

/-! Sequences are forked (R223, R224). -/

/-- The child of a fork, before its admission (R223). -/
def forkChild (c : Cmd) (q : KvSeq) : KvSeq :=
  { q with id := c.word 1, ctx := c.ring, length := c.word 2, state := .active, bt := btOf c.data 0, freeing := false }

/-- The frames that a child shares with its parent (R223). -/
def State.forkFrames (s : State) (c : Cmd) (q : KvSeq) : List Nat :=
  s.framesOf ((s.pool q.pool).getD {}) q 0 (ceilDiv (c.word 2) 16)

/-- The status of a fork: the first check of R576 and R224 that fails. -/
def State.forkStatus (s : State) (c : Cmd) (q : KvSeq) : Nat :=
  let p := (s.pool q.pool).getD {}
  if 4095 < c.word 1 ∨ (s.seqAt (c.word 1)).isSome = true ∨ q.length < c.word 2 ∨ tablesBad p (forkChild c q) = true
    then stBadParam
  else if s.ownsTables c.ring p (forkChild c q) = false then stDenied
  else if q.cls ≤ 1 then stClassDenied
  else if q.state ≠ .active then stKvSwapped
  else if ∃ i ∈ s.forkFrames c q, (s.entry i).state = ftPinned then stBusy
  else if ∃ i ∈ s.forkFrames c q, 4095 ≤ (s.entry i).refs then stLimit
  else stOk

/-- The child's tables are cleared, it takes its parent's elements up to its length, and is admitted (R223). -/
def State.makeChild (s : State) (c : Cmd) (q : KvSeq) : State :=
  ((pagePlaces ((s.pool q.pool).getD {}) 0 (ceilDiv (c.word 2) 16)).foldl
    (fun x pl => x.shareElem q (forkChild c q) pl)
    (s.clearTables ((s.pool q.pool).getD {}) (forkChild c q))).enterSeq (forkChild c q)

theorem makeChild_kv (s : State) (c : Cmd) (q : KvSeq) :
    ∃ n, (s.makeChild c q).kv = { s.kv with seqs := s.kv.seqs ++ [{ forkChild c q with admitted := n }] } :=
  enterSeq_kv ((foldl_keeps State.kv (by simp) _ _).trans (s.clearTables_kv _ _)) _

/-- A command of which one check fails completes with its status; the next check decides otherwise. -/
theorem complete_ite {p : Prop} [Decidable p] {a b : Nat} (ha : a ≠ stOk) (s t : State) (c : Cmd) :
    (if (if p then a else b) = stOk then t else s.complete c (if p then a else b)) =
      if p then s.complete c a else if b = stOk then t else s.complete c b := by
  by_cases hp : p <;> simp [hp, ha]

section SeqFork

variable {c : Cmd} {s : State}

theorem exec_kvSeqFork (h : Starts 5 3 c s) : exec (.kvSeqFork c) s =
    .next ((s.seqNamed (c.word 0)).elim ((begun c s).complete c stBadParam) fun q =>
      if s.forkStatus c q = stOk then ((begun c s).makeChild c q).complete c stOk (s.forkFrames c q).length
      else (begun c s).complete c (s.forkStatus c q)) := by
  refine congrArg Host.Outcome.next ((runCmd_starts h _).trans ?_)
  simp only [begun_pool, begun_seqAt, begun_seqNamed, begun_ownsTables, begun_framesOf, begun_entry]
  cases s.seqNamed (c.word 0) with
  | none => rfl
  | some q =>
    unfold State.forkStatus
    dsimp only
    rw [Option.elim_some, complete_ite (a := stBadParam) (by decide), complete_ite (a := stDenied) (by decide),
      complete_ite (a := stClassDenied) (by decide), complete_ite (a := stKvSwapped) (by decide),
      complete_ite (a := stBusy) (by decide), complete_ite (a := stLimit) (by decide), if_pos rfl]
    simp [State.makeChild, State.enterSeq, State.forkFrames, forkChild, or_assoc]

theorem exec_kvSeqFork_refused {q : KvSeq} (h : Starts 5 3 c s) (hq : s.seqNamed (c.word 0) = some q)
    (hst : s.forkStatus c q ≠ stOk) :
    exec (.kvSeqFork c) s = .next ((begun c s).complete c (s.forkStatus c q)) := by
  rw [exec_kvSeqFork h, hq, Option.elim_some, if_neg hst]

theorem exec_kvSeqFork_makes {q : KvSeq} (h : Starts 5 3 c s) (hq : s.seqNamed (c.word 0) = some q)
    (hst : s.forkStatus c q = stOk) : exec (.kvSeqFork c) s =
      .next (((begun c s).makeChild c q).complete c stOk (s.forkFrames c q).length) := by
  rw [exec_kvSeqFork h, hq, Option.elim_some, if_pos hst]

end SeqFork

/-! Sequences are freed and queried (R214, R226, R433). -/

theorem seqAt_of_named {s : State} {id : Nat} {q : KvSeq} (h : s.seqNamed id = some q) :
    ∃ r, s.seqAt q.id = some r := by
  have hmem := List.mem_of_find?_eq_some h
  exact Option.isSome_iff_exists.mp (List.find?_isSome.mpr ⟨q, hmem, by simp⟩)

/-- A sequence of this number is removed, and every other one stays. -/
theorem removeSeq_seqs {s : State} {id : Nat} {q : KvSeq} (h : s.seqAt id = some q) :
    (s.removeSeq id).kv.seqs = s.kv.seqs.filter fun x => x.id ≠ id := by
  unfold State.removeSeq
  rw [h]
  exact congrArg (List.filter _) (seqs_of_kvWork (foldl_keeps State.kvWork (by simp) _ s))

section SeqFree

variable {c : Cmd} {s : State}

theorem exec_kvSeqFree (h : Starts 5 4 c s) : exec (.kvSeqFree c) s =
    .next ((s.seqNamed (c.word 0)).elim ((begun c s).complete c stBadParam) fun q =>
      if s.seqInUse q.id = true then (begun c s).complete c stBusy
      else if s.seqMoving q = true then
        ((begun c s).onSeq q.id fun q => { q with freeing := true }).await c (.seqFree q.id)
      else ((begun c s).removeSeq q.id).complete c stOk) := by
  refine congrArg Host.Outcome.next ((runCmd_starts h _).trans ?_)
  simp only [begun_seqNamed, begun_seqInUse, begun_seqMoving]
  cases s.seqNamed (c.word 0) <;> rfl

/-- The second result word of a query by sequence: its frames that are resident, and those that are swapped (R433). -/
def State.frameCounts (s : State) (q : KvSeq) : Nat :=
  let fs := s.framesOf ((s.pool q.pool).getD {}) q 0 q.pages
  (fs.filter fun i => (s.entry i).state = ftResident || (s.entry i).state = ftPinned).length +
    2 ^ 32 * (fs.filter fun i => (s.entry i).state = ftSwapped).length

theorem exec_kvQuery_seq (h : Starts 5 9 c s) (hsel : bitAt (c.word 0) 31 = false) : exec (.kvQuery c) s =
    .next ((s.seqNamed (c.word 0)).elim ((begun c s).complete c stBadParam) fun q =>
      (begun c s).complete c stOk (q.state.code + 2 ^ 32 * q.length) (s.frameCounts q)) := by
  refine congrArg Host.Outcome.next ((runCmd_starts h _).trans ?_)
  simp only [hsel, begun_seqNamed, begun_pool, begun_framesOf, begun_entry]
  cases s.seqNamed (c.word 0) <;> rfl

theorem exec_kvQuery_pool (h : Starts 5 9 c s) (hsel : bitAt (c.word 0) 31 = true) : exec (.kvQuery c) s =
    .next ((s.pool (c.word 0 % 256)).elim ((begun c s).complete c stBadParam) fun p =>
      if p.onDie (bitsOf (c.word 0) 9 8) = true then
        (begun c s).complete c stOk (p.freeFrames (bitsOf (c.word 0) 9 8)) (p.freeIndexes (bitsOf (c.word 0) 9 8))
      else (begun c s).complete c stBadParam) := by
  refine congrArg Host.Outcome.next ((runCmd_starts h _).trans ?_)
  simp only [hsel, begun_pool]
  cases s.pool (c.word 0 % 256) <;> rfl

end SeqFree

/-- Settles O37: the commands by their equations, pools by `makePool_pool`, sequences and children by what their making
leaves. -/
theorem poolsAndSequencesAreCreated : Obligations.PoolsAndSequencesAreCreated := by
  refine ⟨fun c s h => ⟨fun hbad => ?_, fun hgood hnew => ⟨fun hfull => ?_, fun hfits hnone => ?_,
      fun hfits places hplaces => ?_⟩⟩,
    fun c s h => ⟨exec_kvSeqCreate_none h rfl, fun p hp hbad => exec_kvSeqCreate_bad h rfl hp ?_,
      fun p hp hid hnone hcls hprio hmin hmax hpages hr5 hr12 hr48 htables => ?_⟩,
    fun c s h => ⟨fun hnone => ?_, fun q hq => ⟨fun hst => ?_, fun hst => ?_⟩⟩,
    fun c s h => ⟨fun hnone => ?_, fun q hq => ⟨fun huse => ?_, fun huse hmoving => ?_, fun huse hmoving => ?_⟩⟩,
    fun c s h hsel => ⟨fun hnone => ?_, fun q hq => ⟨s.frameCounts q, ?_⟩⟩,
    fun c s h hsel => ⟨fun hnone => ?_, fun p hp => ⟨fun hdie => ?_, fun hdie => ?_⟩⟩⟩
  · rw [exec_kvPoolCreate h, if_pos (by simpa using hbad)]
  · rw [exec_kvPoolCreate_new h hgood hnew]
    exact congrArg _ (if_pos hfull)
  · rw [exec_kvPoolCreate_fits h hgood hnew hfits, hnone]
    rfl
  · obtain ⟨q, hq, hfields, hfresh⟩ := makePool_pool (s := begun c s) rfl (by rwa [begun_pool])
      (poolPlaces_dies hplaces)
    obtain ⟨hmem, hseqs, hallocs⟩ := makePool_leaves (begun c s) (parsePool c.data) places
    refine ⟨_, q, ?_, hq, hfields, hmem.trans (begun_mem c s), hseqs.trans (congrArg Kv.seqs (begun_kv c s)), hfresh,
      hallocs.trans (congrArg (· ++ _) (begun_allocs c s))⟩
    rw [exec_kvPoolCreate_fits h hgood hnew hfits, hplaces]
    rfl
  · rw [seqBad_iff]
    tauto
  · have hgood : s.seqBad c.data p (parseSeq c.ring c.data) = false := by
      rw [Bool.eq_false_iff, Ne, seqBad_iff, hnone, htables]
      simp
      omega
    refine ⟨fun hown => ?_, fun hown hctl hshort => ?_, fun hown hctl hroom => ?_, fun hown hdel hwf => ?_⟩
    · rw [exec_kvSeqCreate_good h rfl hp hgood, if_pos hown]
    · rw [exec_kvSeqCreate_good h rfl hp hgood, if_neg (by simp [hown])]
      exact congrArg _ (if_pos ⟨hctl, hshort⟩)
    · obtain ⟨n, hseqs⟩ := makeSeq_seqs (begun c s) p (parseSeq c.ring c.data)
      rw [begun_kv] at hseqs
      exact ⟨_, n, exec_kvSeqCreate_makes h rfl hp hgood hown fun hno => Bool.eq_false_iff.mp hroom hno.2, hseqs⟩
    · obtain ⟨⟨n, hkv⟩, hones⟩ := makeSeq_clear (s := begun c s) (by rwa [begun_mem]) hdel p
      rw [begun_kv] at hkv
      exact ⟨_, n, exec_kvSeqCreate_makes h rfl hp hgood hown (by omega), hkv, hones⟩
  · rw [exec_kvSeqFork h, hnone]
    rfl
  · exact exec_kvSeqFork_refused h hq hst
  · obtain ⟨n, hkv⟩ := makeChild_kv (begun c s) c q
    rw [begun_kv] at hkv
    exact ⟨_, n, exec_kvSeqFork_makes h hq hst, hkv⟩
  · rw [exec_kvSeqFree h, hnone]
    rfl
  · rw [exec_kvSeqFree h, hq, Option.elim_some, if_pos huse]
  · rw [exec_kvSeqFree h, hq, Option.elim_some, if_neg (by simp [huse]), if_pos hmoving]
  · obtain ⟨r, hr⟩ := seqAt_of_named hq
    have hseqs := removeSeq_seqs (s := begun c s) (by rwa [begun_seqAt])
    rw [begun_kv] at hseqs
    rw [exec_kvSeqFree h, hq, Option.elim_some, if_neg (by simp [huse]), if_neg (by simp [hmoving])]
    exact ⟨_, rfl, hseqs⟩
  · rw [exec_kvQuery_seq h hsel, hnone]
    rfl
  · rw [exec_kvQuery_seq h hsel, hq]
    rfl
  · rw [exec_kvQuery_pool h hsel, hnone]
    rfl
  · rw [exec_kvQuery_pool h hsel, hp, Option.elim_some, if_neg (by simp [hdie])]
  · rw [exec_kvQuery_pool h hsel, hp, Option.elim_some, if_pos hdie]

end Sys2Proof.Machine
end

section
/-! What completions leave, the transfers of swapped frames, and the commands of the swap area. O38. -/

namespace Sys2Proof.Machine

open Sys2Proof.Safety

/-! A completion writes an entry and sends a vector; what shows none of its parts is as it was (R418, R428). -/

/-- A reading of the state that no part of a completion changes. -/
structure Uncompleted {β : Type} (view : State → β) : Prop where
  ctx : ∀ s k f, view (s.onCtx k f) = view s
  request : ∀ s engine write a n, view (s.hostRequest engine write a n) = view s
  vector : ∀ s v, view (s.sendVector v) = view s
  write : ∀ s a bs, view (s.write a bs) = view s
  slot : ∀ s target index dir, view (s.inject target index dir).2 = view s
  held : ∀ s i f, view (s.onFi i f) = view s
  reply : ∀ s k f, view (s.onCan k f) = view s
  bump : ∀ s, view s.bump = view s

namespace Uncompleted

variable {β : Type} {view : State → β} (h : Uncompleted view)
include h

theorem putEntry (s : State) (addr : Nat) (bs : List Byte) :
    view ((s.write addr bs).hostRequest 7 true addr 64) = view s :=
  (h.request _ _ _ _ _).trans (h.write _ _ _)

theorem releaseHeld (s : State) (i : Nat) : view (s.releaseHeld i) = view s := by
  unfold State.releaseHeld
  split
  · exact (h.held _ _ _).trans (h.putEntry _ _ _)
  · rfl

theorem writeEntry (s : State) (ring addr : Nat) (bs : List Byte) : view (s.writeEntry ring addr bs) = view s := by
  unfold State.writeEntry
  dsimp only
  refine (foldl_keeps view h.releaseHeld _ _).trans (.trans ?_ (h.slot s 6 ring 0))
  split
  · exact h.putEntry _ _ _
  · split
    · rfl
    · split
      · exact h.putEntry _ _ _
      · exact h.held _ _ _

theorem writeCompletion (s : State) (ring : Nat) (c : Completion) : view (s.writeCompletion ring c) = view s := by
  unfold State.writeCompletion
  extract_lets x s1 s2
  have hs2 : view s2 = view s := (h.ctx _ _ _).trans ((h.bump _).trans (h.writeEntry _ _ _ _))
  split
  · exact (h.vector _ _).trans ((h.ctx _ _ _).trans hs2)
  · exact hs2

theorem flush (ring n : Nat) : ∀ s : State, view (State.flush ring n s) = view s := by
  induction n with
  | zero => exact fun _ => rfl
  | succ n ih =>
    intro s
    unfold State.flush
    split
    · rfl
    · split
      · rfl
      · split
        · exact (ih _).trans (h.writeCompletion _ _ _)
        · exact h.ctx _ _ _

theorem produce (s : State) (ring : Nat) (c : Completion) : view (s.produce ring c) = view s := by
  unfold State.produce
  split
  · exact (h.ctx _ _ _).trans ((h.bump _).trans (h.reply _ _ _))
  · dsimp only
    split
    · exact h.ctx _ _ _
    · split
      · exact h.ctx _ _ _
      · exact (h.flush _ _ _).trans (h.ctx _ _ _)

theorem complete (s : State) (c : Cmd) (status res0 res1 res2 : Nat) :
    view (s.complete c status res0 res1 res2) = view s := h.produce _ _ _

end Uncompleted

theorem opens_of_carried {s t : State} (h : t.offCarry = s.offCarry) : t.hl.opens = s.hl.opens :=
  show t.offCarry.hl.opens = s.offCarry.hl.opens by rw [h]

theorem kv_of_carried {s t : State} (h : t.offCarry = s.offCarry) : t.kv = s.kv :=
  show t.offCarry.kv = s.offCarry.kv by rw [h]

/-- The commands that wait are as they were after a completion. -/
theorem uncompleted_opens : Uncompleted fun s => s.hl.opens where
  ctx s k f := by
    unfold State.onCtx
    split <;> rfl
  request s engine write a n := opens_of_carried (s.hostRequest_carries engine write a n).1
  vector s v := by
    unfold State.sendVector
    split <;> rfl
  write _ _ _ := rfl
  slot _ _ _ _ := rfl
  held _ _ _ := rfl
  reply _ _ _ := rfl
  bump _ := rfl

/-- What has come is waited for no more. -/
theorem finish_awaiting (s : State) (p : Wait → Bool) (status res0 res1 res2 : Nat) :
    (s.finish p status res0 res1 res2).awaiting p = [] := by
  have hopens : (s.finish p status res0 res1 res2).hl.opens = s.hl.opens.filter fun o => !p o.wait :=
    foldl_keeps (fun u : State => u.hl.opens) (fun u c => uncompleted_opens.complete u c status res0 res1 res2) _ _
  simp [State.awaiting, hopens, List.filter_filter]

@[simp] theorem State.finish_kv (s : State) (p : Wait → Bool) (status res0 res1 res2 : Nat) :
    (s.finish p status res0 res1 res2).kv = s.kv := by
  obtain ⟨-, -, -, -, -, -, -, -, hkv, -⟩ := (KeepsBlocks.refl s).finish p status res0 res1 res2
  exact hkv

/-! Sequences and transfers by their names. -/

/-- The first element of a kind, in a list of which the elements of a wider kind are updated within their kind. -/
theorem find?_map_ite {α : Type} {p : α → Bool} {c : α → Prop} [DecidablePred c] {f : α → α}
    (hc : ∀ a, p a = true → c a) (hf : ∀ a, p (f a) = p a) (l : List α) :
    (l.map fun a => if c a then f a else a).find? p = (l.find? p).map f := by
  induction l with
  | nil => rfl
  | cons a l ih =>
    rw [List.map_cons, List.find?_cons, List.find?_cons, ih]
    have hkind : p (if c a then f a else a) = p a := by split <;> simp [hf]
    rw [hkind]
    cases hp : p a with
    | false => rfl
    | true => simp [hc a hp]

theorem seqAt_onSeq {f : KvSeq → KvSeq} (hf : ∀ q, (f q).id = q.id) (s : State) (id : Nat) :
    (s.onSeq id f).seqAt id = (s.seqAt id).map f :=
  find?_map_ite (by simp) (by simp [hf]) s.kv.seqs

/-- The transfers of a frame change. -/
def State.onXfer (s : State) (index : Nat) (f : Xfer → Xfer) : State :=
  s.onKv fun k => { k with xfers := k.xfers.map fun y => if y.index = index then f y else y }

theorem xfer_onXfer {f : Xfer → Xfer} (hf : ∀ y, (f y).index = y.index ∧ (f y).out = y.out) (s : State) (index : Nat)
    (out : Bool) : (s.onXfer index f).xfer index out = (s.xfer index out).map f :=
  find?_map_ite (by simp +contextual) (by simp [hf]) s.kv.xfers

/-! The swap area and the commands (R230 to R232). -/

section Begun

variable (c : Cmd) (s : State)

@[simp] theorem begun_anySwapped : (begun c s).anySwapped = s.anySwapped :=
  of_begun State.anySwapped (fun _ _ => rfl) c s
@[simp] theorem begun_swapFits (q : KvSeq) : (begun c s).swapFits q = s.swapFits q :=
  of_begun (·.swapFits q) (fun _ _ => rfl) c s
@[simp] theorem begun_canResume (q : KvSeq) : (begun c s).canResume q = s.canResume q :=
  of_begun (·.canResume q) (fun _ _ => rfl) c s

end Begun

/-- The range of a swap area is not one of whole pages in host memory, or has no size that R232 allows. -/
def swapAreaBad (c : Cmd) : Bool :=
  decide (c.addr 0 % 4096 ≠ 0 ∨ c.word 2 = 0 ∨ 65535 < c.word 2) || !inHost (c.addr 0) (c.word 2 * 2 ^ 20)

section Commands

variable {c : Cmd} {s : State}

theorem exec_kvSwapArea (h : Starts 5 5 c s) : exec (.kvSwapArea c) s = .next (
    if swapAreaBad c = true then (begun c s).complete c stBadParam
    else if s.anySwapped = true then (begun c s).complete c stBusy
    else ((begun c s).onKv fun k => { k with
      area := some (c.addr 0, c.word 2 * 1024)
      swapUnits := { bound := c.word 2 * 1024, used := k.swapUnits.used } }).complete c stOk) := by
  refine congrArg Host.Outcome.next ((runCmd_starts h _).trans ?_)
  simp [swapAreaBad, or_assoc]

theorem exec_kvSwapOut (h : Starts 5 6 c s) : exec (.kvSwapOut c) s =
    .next ((s.seqNamed (c.word 0)).elim ((begun c s).complete c stBadParam) fun q =>
      if q.cls ≤ 1 then (begun c s).complete c stClassDenied
      else if q.state ≠ .active then (begun c s).complete c stKvSwapped
      else if s.swapFits q = false then (begun c s).complete c stNoMemory
      else ((begun c s).await c (.swapOut q.id)).suspendSeq q.id) := by
  refine congrArg Host.Outcome.next ((runCmd_starts h _).trans ?_)
  simp only [begun_seqNamed, begun_swapFits, Bool.not_eq_eq_eq_not, Bool.not_true]
  cases s.seqNamed (c.word 0) <;> rfl

theorem exec_kvSwapIn (h : Starts 5 7 c s) : exec (.kvSwapIn c) s =
    .next ((s.seqNamed (c.word 0)).elim ((begun c s).complete c stBadParam) fun q =>
      if q.cls ≤ 1 then (begun c s).complete c stClassDenied
      else if q.state = .active then (begun c s).complete c stOk
      else if q.state ≠ .suspended then (begun c s).complete c stBusy
      else if s.canResume q = false then (begun c s).complete c stNoMemory
      else ((begun c s).await c (.swapIn q.id)).resumeSeq q.id) := by
  refine congrArg Host.Outcome.next ((runCmd_starts h _).trans ?_)
  simp only [begun_seqNamed, begun_canResume, Bool.not_eq_eq_eq_not, Bool.not_true]
  cases s.seqNamed (c.word 0) <;> rfl

end Commands

/-- A suspending sequence with nothing left to run, to move or to swap out is suspended, and the commands that wait for
it complete (R231). -/
theorem checkSuspended_suspends {s : State} {id : Nat} {q : KvSeq} (hq : s.seqAt id = some q)
    (hstate : q.state = .suspending) (hruns : s.seqRuns id = false) (hmoving : s.seqMoving q = false)
    (hprivate : s.privateFrames q = []) : ∃ r, (s.checkSuspended id).seqAt id = some r ∧ r.state = .suspended ∧
      (s.checkSuspended id).awaiting (· = .swapOut id) = [] := by
  have hdone : s.checkSuspended id =
      (s.onSeq id fun q => { q with state := .suspended }).finish (· = .swapOut id) stOk := by
    simp [State.checkSuspended, hq, hstate, hruns, hmoving, hprivate]
  have hseq := seqAt_onSeq (f := fun q => { q with state := .suspended }) (fun _ => rfl) s id
  rw [hq] at hseq
  rw [hdone]
  refine ⟨{ q with state := .suspended }, ?_, rfl, finish_awaiting ..⟩
  rw [State.seqAt, State.finish_kv]
  exact hseq

/-! Transfers of frames (R214, R446, R447). -/

/-- The transfer of a frame is over: the frame is counted as moved (R214). -/
def State.endXfer (s : State) (index : Nat) : State := (s.dropXfer index).countMove (idxDie index)

theorem endXfer_entry (s : State) (index i : Nat) : (s.endXfer index).entry i = s.entry i := rfl

/-- The bytes of a frame go to its units of the swap area, and the confirming read follows (R446). -/
def State.sendFrame (s : State) (index : Nat) (x : Xfer) : State :=
  let n := ((s.pool (s.entry index).pool).getD {}).frameBytes
  let src := s.frameAddr index
  let t := (piecesOf src n).foldl (fun y pc =>
    if s.readPoisoned (src + pc.1) pc.2 then y
    else y.write (s.unitAddr x.unit + pc.1) (s.bytesAt (src + pc.1) pc.2)) s
  ((t.carryRead .bulk 0 0xFE src (t.bytesAt src n)).hostRequest t.swapEngine true (t.unitAddr x.unit) n).hostRequest
    t.swapEngine false (t.unitAddr x.unit + n - 1024) 4

theorem sendFrame_carries (s : State) (index : Nat) (x : Xfer) : (s.sendFrame index x).offCarry = s.offCarry := by
  unfold State.sendFrame
  extract_lets n src t
  have ht : t.offCarry = s.offCarry := foldl_keeps State.offCarry (fun u pc => by split <;> rfl) _ s
  exact (State.hostRequest_carries ..).1.trans ((State.hostRequest_carries ..).1.trans
    ((offCarry_of_offRing (t.carryRead_offRing ..)).trans ht))

theorem sendFrame_wf {s : State} (h : s.mem.wf = true) (index : Nat) (x : Xfer) :
    (s.sendFrame index x).mem.wf = true := by
  refine (Kept.hostRequest (Kept.hostRequest (Kept.carryRead (Kept.foldl _ (fun u pc hu => ?_) _ s (.refl {} s))
    ..) ..) ..).wf h
  exact .ite hu (hu.write _ _)

/-- The entry of a frame that has been swapped out (R214). -/
def FtEntry.sentTo (e : FtEntry) (unit : Nat) : FtEntry :=
  { e with state := ftSwapped, number := unit, gen := e.gen + 1 }

/-- A frame is swapped out: its bytes are in the swap area, its frame number is free, its entry names its units
(R214). -/
def State.outDone (s : State) (index : Nat) (x : Xfer) : State :=
  ((((s.sendFrame index x).onPoolDie ((s.pool (s.entry index).pool).getD {}).id (idxDie index) fun y =>
    { y with frames := y.frames.put (s.entry index).number }).setEntry index
      ((s.entry index).sentTo x.unit)).endXfer index)

theorem exec_swapOutFrameDone {s : State} {index : Nat} {x : Xfer} (hx : s.xfer index true = some x) (ok : Bool) :
    exec (.swapOutFrameDone index ok) s =
      .next (if (!ok || !s.hl.linkUp) = true then s else (s.outDone index x).afterXfer) := by
  refine congrArg Host.Outcome.next ?_
  rw [hx]
  rfl

theorem outDone_kv (s : State) (index : Nat) (x : Xfer) : (s.outDone index x).kv.seqs = s.kv.seqs ∧
    (s.outDone index x).kv.xfers = s.kv.xfers.filter fun y => y.index ≠ index := by
  have hkv := kv_of_carried (sendFrame_carries s index x)
  unfold State.outDone
  generalize s.sendFrame index x = t at hkv ⊢
  rw [← hkv]
  exact ⟨rfl, rfl⟩

theorem outDone_entry {s : State} (h : s.mem.wf = true) (index : Nat) (x : Xfer) :
    (s.outDone index x).entry index = ((s.entry index).sentTo x.unit).wrap := by
  have hwf := sendFrame_wf h index x
  rw [State.outDone, endXfer_entry]
  generalize s.sendFrame index x = t at hwf ⊢
  exact entry_setEntry hwf index _

/-- A frame is back: its entry is resident, and its units are free (R214). -/
def State.inEnd (s : State) (index : Nat) (x : Xfer) : State :=
  ((s.setEntry index { s.entry index with state := ftResident, gen := (s.entry index).gen + 1 }).onKv fun k => { k with
    swapUnits := k.swapUnits.putRun x.unit ((s.pool (s.entry index).pool).getD {}).frameKib }).endXfer index

theorem inDone_eq (s : State) (index : Nat) (x : Xfer) : s.inDone index x = (s.inEnd index x).afterXfer := rfl

theorem inEnd_entry {s : State} (h : s.mem.wf = true) (index : Nat) (x : Xfer) : (s.inEnd index x).entry index =
    ({ s.entry index with state := ftResident, gen := (s.entry index).gen + 1 } : FtEntry).wrap := by
  rw [State.inEnd, endXfer_entry]
  exact entry_setEntry h index _

/-! Reads of the swap area, and their retries (R444, R447). -/

section SwapIn

variable {s : State} {index : Nat} {x : Xfer}

theorem readUnits_leaves (s : State) (index : Nat) (x : Xfer) :
    (s.readUnits index x).kv = s.kv ∧ (s.readUnits index x).mem = s.mem := by
  obtain ⟨hcarry, hmem⟩ := s.hostRequest_carries s.swapEngine false (s.unitAddr x.unit)
    ((s.pool (s.entry index).pool).getD {}).frameBytes
  exact ⟨kv_of_carried hcarry, hmem⟩

/-- A read has failed in this link; it is tried again (R447). -/
def State.noteFailed (s : State) (index : Nat) (x : Xfer) (f : Xfer → Xfer) : State :=
  (s.readUnits index x).onXfer index f

/-- What is noted of a failed read is read back; memory is as it was. -/
theorem noteFailed_xfer (hx : s.xfer index false = some x) {f : Xfer → Xfer}
    (hf : ∀ y, (f y).index = y.index ∧ (f y).out = y.out) :
    (s.noteFailed index x f).mem = s.mem ∧ ∀ y, (s.noteFailed index x f).xfer index false = some y → y = f x := by
  obtain ⟨hkv, hmem⟩ := readUnits_leaves s index x
  refine ⟨hmem, fun y hy => ?_⟩
  have hxfer : (s.readUnits index x).xfer index false = some x := by
    rw [State.xfer, hkv]
    exact hx
  rw [State.noteFailed, xfer_onXfer hf, hxfer] at hy
  exact (Option.some.inj hy).symm

theorem exec_swapInFrameDone (hx : s.xfer index false = some x) (hup : s.hl.linkUp = true) (ok : Bool)
    (data : List Byte) : exec (.swapInFrameDone index ok data) s = .next (
      if x.failed = true then s
      else if ok = true then ((s.readUnits index x).frameIn index data).inDone index x
      else s.noteFailed index x fun y => { y with failed := true, failedAt := s.tb.link }) := by
  refine congrArg Host.Outcome.next ?_
  rw [hx]
  dsimp only
  rw [hup]
  rfl

/-- A failed read is due for a retry: a later chain boundary has come (R447). -/
def State.retryDue (s : State) (x : Xfer) : Prop :=
  x.failed = true ∧ s.phase s.tb.link % 100 = 0 ∧ x.failedAt < s.tb.link

theorem exec_swapReadRetry_early (hx : s.xfer index false = some x) (h : x.failed = false) (ok : Bool)
    (data : List Byte) : exec (.swapReadRetry index ok data) s = .next s := by
  refine congrArg Host.Outcome.next ?_
  simp only [hx, h, Bool.not_false, Bool.or_true, Bool.true_or, if_true]

theorem exec_swapReadRetry_due (hx : s.xfer index false = some x) (hup : s.hl.linkUp = true) (h : s.retryDue x)
    (ok : Bool) (data : List Byte) : exec (.swapReadRetry index ok data) s = .next (
      if ok = true then ((s.readUnits index x).frameIn index data).inDone index x
      else if 2 ≤ x.retries then ((s.readUnits index x).poisonGranules
        (granulesOf (s.frameAddr index) ((s.pool (s.entry index).pool).getD {}).frameBytes) true).inDone index x
      else s.noteFailed index x fun y => { y with retries := y.retries + 1, failedAt := s.tb.link }) := by
  obtain ⟨hfailed, hphase, hlater⟩ := h
  refine congrArg Host.Outcome.next ?_
  rw [hx]
  dsimp only
  rw [if_neg (by simp [hup, hfailed, hphase, hlater])]
  rfl

end SwapIn

/-- Granules that become poisoned with the check pattern are so. -/
theorem mem_poisonGranules {s : State} {gs : List Nat} {g : Nat} (h : g ∈ gs) :
    g ∈ (s.poisonGranules gs true).mem.poison ∧ g ∈ (s.poisonGranules gs true).mem.checkPat :=
  ⟨List.mem_append_right _ h, List.mem_append_right _ h⟩

/-- Settles O38: the commands and the transfers by their equations, suspension by `checkSuspended_suspends`, entries by
`outDone_entry` and `inEnd_entry`, retries by `noteFailed_xfer`. -/
theorem swappingMovesFramesAndStates : Obligations.SwappingMovesFramesAndStates := by
  refine ⟨fun c s h => ⟨fun hbad => ?_, fun hgood hswapped => ?_, fun hgood hnone => ?_⟩,
    fun c s h => ⟨fun hnone => ?_, fun q hq => ⟨fun hcls => ?_, fun hcls hstate => ?_, fun hcls hstate hfits => ?_,
      fun hcls hstate hfits => ?_⟩⟩,
    fun c s h => ⟨fun hnone => ?_, fun q hq => ⟨fun hcls => ?_, fun hcls hstate => ?_, fun hcls hstate => ?_,
      fun hcls hstate hroom => ?_, fun hcls hstate hroom => ?_⟩⟩,
    fun s id q hq hstate hruns hmoving hprivate => ?_,
    fun s index x hx => ⟨fun hdown => ?_, ?_, fun hup hwf hunit => ?_⟩,
    fun s index x data hx hup => ⟨fun hfresh => ⟨?_, exec_swapReadRetry_early hx hfresh true data, ?_⟩,
      fun hfailed => ?_, fun hfailed hphase hlater => ⟨?_, fun hfew => ?_, fun hmany => ?_⟩⟩,
    fun s index x hwf hindex => ?_⟩
  · rw [exec_kvSwapArea h]
    exact congrArg _ (if_pos hbad)
  · rw [exec_kvSwapArea h, hswapped]
    exact congrArg _ (if_neg (Bool.eq_false_iff.mp hgood))
  · rw [exec_kvSwapArea h, hnone]
    exact congrArg _ (if_neg (Bool.eq_false_iff.mp hgood))
  · rw [exec_kvSwapOut h, hnone, Option.elim_none]
  · rw [exec_kvSwapOut h, hq, Option.elim_some, if_pos hcls]
  · rw [exec_kvSwapOut h, hq, Option.elim_some, if_neg (by omega), if_pos hstate]
  · rw [exec_kvSwapOut h, hq, Option.elim_some, if_neg (by omega), if_neg (not_not.mpr hstate), if_pos hfits]
  · rw [exec_kvSwapOut h, hq, Option.elim_some, if_neg (by omega), if_neg (not_not.mpr hstate),
      if_neg (by simp [hfits])]
  · rw [exec_kvSwapIn h, hnone, Option.elim_none]
  · rw [exec_kvSwapIn h, hq, Option.elim_some, if_pos hcls]
  · rw [exec_kvSwapIn h, hq, Option.elim_some, if_neg (by omega), if_pos hstate]
  · rw [exec_kvSwapIn h, hq, Option.elim_some, if_neg (by omega)]
    rcases hstate with hstate | hstate <;> simp [hstate]
  · rw [exec_kvSwapIn h, hq, Option.elim_some, if_neg (by omega), if_neg (by simp [hstate]),
      if_neg (not_not.mpr hstate), if_pos hroom]
  · rw [exec_kvSwapIn h, hq, Option.elim_some, if_neg (by omega), if_neg (by simp [hstate]),
      if_neg (not_not.mpr hstate), if_neg (by simp [hroom])]
  · obtain ⟨r, hr, hsuspended, hdone⟩ := checkSuspended_suspends hq hstate hruns hmoving hprivate
    exact ⟨_, r, rfl, hr, hsuspended, hdone⟩
  · rw [exec_swapOutFrameDone hx, if_pos (by simp [hdown])]
  · exact exec_swapOutFrameDone hx false
  · have hentry := outDone_entry hwf index x
    obtain ⟨hseqs, hxfers⟩ := outDone_kv s index x
    refine ⟨s.outDone index x, ?_, hxfers, hseqs, ?_, ?_, ?_, ?_⟩
    · rw [exec_swapOutFrameDone hx, if_neg (by simp [hup])]
    · rw [hentry]; rfl
    · rw [hentry]; exact Nat.mod_eq_of_lt hunit
    · rw [hentry]; rfl
    · rw [hentry]; exact Nat.mod_eq_of_lt (b := 4096) (refs_lt (e := s.entry index) (wrap_entry s index))
  · rw [exec_swapInFrameDone hx hup, hfresh]
    rfl
  · obtain ⟨hmem, hnoted⟩ := noteFailed_xfer hx (f := fun y => { y with failed := true, failedAt := s.tb.link })
      fun _ => ⟨rfl, rfl⟩
    refine ⟨_, ?_, hmem, fun y hy => ?_⟩
    · rw [exec_swapInFrameDone hx hup, hfresh]
      rfl
    · rw [hnoted y hy]
      exact ⟨rfl, rfl⟩
  · rw [exec_swapInFrameDone hx hup, if_pos hfailed]
  · rw [exec_swapReadRetry_due hx hup ⟨hfailed, hphase, hlater⟩, if_pos rfl]
  · obtain ⟨hmem, hnoted⟩ := noteFailed_xfer hx
      (f := fun y => { y with retries := y.retries + 1, failedAt := s.tb.link }) fun _ => ⟨rfl, rfl⟩
    refine ⟨_, ?_, hmem, fun y hy => ?_⟩
    · rw [exec_swapReadRetry_due hx hup ⟨hfailed, hphase, hlater⟩, if_neg Bool.false_ne_true, if_neg (by omega)]
    · rw [hnoted y hy]
      exact ⟨rfl, rfl⟩
  · obtain ⟨hkv, hmem⟩ := readUnits_leaves s index x
    have hcells : (s.readUnits index x).mem.cells = s.mem.cells := by rw [hmem]
    refine ⟨(s.readUnits index x).poisonGranules _ true, ?_, hkv, hcells, fun g hg => mem_poisonGranules hg⟩
    rw [exec_swapReadRetry_due hx hup ⟨hfailed, hphase, hlater⟩, if_neg Bool.false_ne_true, if_pos hmany]
  · have hentry := inEnd_entry hwf index x
    exact ⟨s.inEnd index x, inDone_eq s index x, by rw [hentry]; rfl, by rw [hentry]; rfl, rfl, rfl⟩

end Sys2Proof.Machine
end

section
/-! Reads of a frame with their errors, write resolution, victims and compaction. O39. -/

namespace Sys2Proof.Machine

open Sys2Proof.Safety

/-! A read of DRAM with its errors leaves the schedule, the cores and the Assize (R158, R159, R163). -/

theorem dramRead_keeps {β : Type} {view : State → β} (h : ∀ u g e, view (u.readGranule g e).2 = view u) (s : State)
    (a n : Nat) (ecc : List Ecc) : view (s.dramRead a n ecc).2 = view s := by
  have hall (gs : List Nat) : ∀ (es : List Ecc) (u : State), view (State.readGranules gs es u).2 = view u := by
    induction gs with
    | nil => exact fun _ _ => rfl
    | cons g gs ih => exact fun es u => (ih _ _).trans (h u g _)
  unfold State.dramRead
  split
  · rfl
  · split
    · rfl
    · exact hall _ _ s

@[simp] theorem State.laneEvents_desk (s : State) (d ch retries : Nat) (lanes : List Nat) (failed : Bool) :
    (s.laneEvents d ch retries lanes failed).desk = s.desk := by
  simp [State.laneEvents, State.errEvents]

@[simp] theorem State.readGranule_desk (s : State) (g : Nat) (e : Ecc) : (s.readGranule g e).2.desk = s.desk := by
  unfold State.readGranule
  split <;> simp [State.correctedError]

@[simp] theorem State.dramRead_desk (s : State) (a n : Nat) (ecc : List Ecc) : (s.dramRead a n ecc).2.desk = s.desk :=
  dramRead_keeps State.readGranule_desk s a n ecc

@[simp] theorem State.laneEvents_reach (s : State) (d ch retries : Nat) (lanes : List Nat) (failed : Bool) :
    (s.laneEvents d ch retries lanes failed).reach = s.reach := by
  have hevents (u : State) (rs : List WearEntry) : (u.errEvents rs).reach = u.reach :=
    foldl_keeps State.reach (by simp) rs u
  unfold State.laneEvents
  dsimp only
  split
  · simp [hevents]
  · split <;> simp [hevents]

theorem asz_of_reach {s t : State} (h : t.reach = s.reach) : t.asz = s.asz := congrArg Reach.asz h

@[simp] theorem State.readGranule_asz (s : State) (g : Nat) (e : Ecc) : (s.readGranule g e).2.asz = s.asz := by
  unfold State.readGranule
  split
  · rfl
  · refine asz_of_reach ?_
    unfold State.correctedError
    dsimp only
    split <;> simp
  · exact congrArg Reach.asz (s.uncorrectableError_reach g)
  · exact asz_of_reach (s.laneEvents_reach ..)
  · exact asz_of_reach (s.laneEvents_reach ..)

/-! The copy of a frame and of its scale records (R225). -/

@[simp] theorem State.carryHub_desk (s : State) (o : Origin) (src dst : Nat) (data : List Byte) :
    (s.carryHub o src dst data).desk = s.desk := by
  simp [State.carryHub]

@[simp] theorem State.copyFrame_desk (s : State) (src dst n : Nat) (bad : List Nat) :
    (s.copyFrame src dst n bad).desk = s.desk := by
  simp [State.copyFrame]

@[simp] theorem State.copyScales_desk (s : State) (src dst n : Nat) : (s.copyScales src dst n).desk = s.desk := by
  simp [State.copyScales, State.afterRead]

@[simp] theorem State.copyFrame_asz (s : State) (src dst n : Nat) (bad : List Nat) :
    (s.copyFrame src dst n bad).asz = s.asz := by
  have hcarry (u : State) (data : List Byte) : (u.carryHub .bulk src dst data).asz = u.asz :=
    (asz_of_offRing (State.carryWrite_offRing ..)).trans (asz_of_offRing (State.carryRead_offRing ..))
  have hread (ecc : List Ecc) : (s.dramRead src n ecc).2.asz = s.asz := dramRead_keeps State.readGranule_asz s src n ecc
  unfold State.copyFrame
  extract_lets t lost u
  have hu : u.asz = s.asz := (hcarry _ _).trans (hread _)
  split
  · exact hu
  · exact hu

/-! Write resolution leaves the schedule and the cores until its job is marked (R220). -/

@[simp] theorem State.ftLookup_desk (s : State) (index pool : Nat) : (s.ftLookup index pool).2.desk = s.desk := by
  unfold State.ftLookup
  dsimp only
  split <;> rfl

@[simp] theorem State.ftRefSub_desk (s : State) (index : Nat) : (s.ftRefSub index).desk = s.desk := by
  simp [State.ftRefSub]

theorem copyOnWrite_desk {s t : State} {q : KvSeq} {pl : Nat × Nat × Nat} {old : Nat} {bad : List Nat}
    (h : s.copyOnWrite q pl old bad = some t) : t.desk = s.desk := by
  obtain ⟨⟨index, u⟩, hu, rfl⟩ := Option.map_eq_some_iff.mp h
  simp [State.writeNat, (ftAlloc_leaves hu).2]

theorem resolvePage_desk {s t : State} {q : KvSeq} {pl : Nat × Nat × Nat} {bad : List Nat}
    (h : s.resolvePage q pl bad = some t) : t.desk = s.desk := by
  unfold State.resolvePage at h
  dsimp only at h
  split at h
  · obtain ⟨⟨index, u⟩, hu, rfl⟩ := Option.map_eq_some_iff.mp h
    exact (ftAlloc_leaves hu).2
  · split at h
    · exact copyOnWrite_desk h
    · cases h
      split <;> rfl

theorem resolvingPage_desk (q : KvSeq) (bad : List Nat) (r : Resolving) (pl : Nat × Nat × Nat) :
    (r.page q bad pl).s.desk = r.s.desk := by
  unfold Resolving.page
  split
  · rfl
  · split
    · next h => exact resolvePage_desk h
    · rfl

theorem resolvingBinding_desk (bad : List Nat) (r : Resolving) (b : Binding) : (r.binding bad b).s.desk = r.s.desk := by
  unfold Resolving.binding
  split
  · rfl
  · next q _ =>
    have hpages := foldl_keeps (fun r : Resolving => r.s.desk) (resolvingPage_desk q bad)
      (pagePlaces ((r.s.pool q.pool).getD {}) b.firstPage b.endPage) r
    dsimp only
    split
    · exact hpages
    · exact hpages

theorem resolveAll_desk (s : State) (bs : List Binding) (bad : List Nat) : (s.resolveAll bs bad).s.desk = s.desk :=
  foldl_keeps (fun r : Resolving => r.s.desk) (resolvingBinding_desk bad) bs { s := s }

/-- The first tiles of a placed job start; jobs are as they were. -/
theorem startPlaced_job (s : State) (i k : JobKey) : (s.startPlaced i).job k = s.job k := by
  refine job_of_sch ?_ k
  show (s.startPlaced i).desk.sch = s.desk.sch
  unfold State.startPlaced
  split
  · rfl
  · rw [State.bump_desk]
    exact foldl_desk_sch (fun u g => by split <;> simp) _ s

/-! Write resolution (R220, R221, R228). -/

/-- A sequence that is written is not active, or a page that is written is pinned (R221). -/
def State.writeWaits (s : State) (bs : List Binding) : Bool :=
  (bs.any fun b => !(s.seqAt b.seq).any fun q => q.state = .active) ||
    bs.any fun b => (s.writeFrames b).any fun i => i ≠ noFrame && (s.entry i).state = ftPinned

/-- A sequence of the pool is being suspended (R228). -/
def State.suspends (s : State) (pool : Nat) : Bool :=
  s.kv.seqs.any fun v => v.pool = pool && v.state = .suspending

/-- What becomes of a resolution `r` that lacked an entry or a frame on die `d` (R228). -/
def State.afterLack (s r : State) (k : JobKey) (q : KvSeq) (d : Nat) : State :=
  if ((r.pool q.pool).getD {}).freeIndexes d = 0 then s.requestEnd k stNoMemory
  else if s.suspends q.pool = true then s
  else (s.victim q).elim (s.requestEnd k stNoMemory) fun v =>
    if s.swapFits v = true then s.suspendSeq v.id else s.requestEnd k stNoMemory

/-- A job whose writes are resolved, with the pages that it pins (R220). -/
def Job.resolvedWith (pins : List Nat) (x : Job) : Job := { x with resolved := true, pinned := pins }

/-- The job is marked resolved with its pages pinned, and its first tiles start (R220). -/
def State.markResolved (s : State) (k : JobKey) (bs : List Binding) : State :=
  (s.onJob k (Job.resolvedWith (bs.flatMap s.writeFrames))).startPlaced k

section WriteResolution

variable {s : State} {ctx tag : Nat} {j : Job}

theorem exec_kvWriteResolution (hj : s.job { ctx := ctx, tag := tag } = some j) {bs : List Binding}
    (hbs : j.bindings.filter Binding.writes = bs) (bad : List Nat) :
    exec (.kvWriteResolution ctx ⟨tag, bad⟩) s = .next (
      if (j.resolved || bs = []) = true then s
      else if s.writeWaits bs = true then s
      else (s.resolveAll bs bad).lacks.elim ((s.resolveAll bs bad).s.markResolved j.key bs) fun x =>
        s.afterLack (s.resolveAll bs bad).s j.key x.1 x.2) := by
  refine congrArg Host.Outcome.next ?_
  rw [hj]
  simp only [hbs, State.writeWaits, Bool.or_eq_true, ite_or]
  cases (s.resolveAll bs bad).lacks with
  | none => rfl
  | some x =>
    obtain ⟨q, d⟩ := x
    simp only [Option.elim_some, State.afterLack]
    cases s.victim q <;> rfl

theorem exec_kvWriteResolution_waits (hj : s.job { ctx := ctx, tag := tag } = some j) {bs : List Binding}
    (hbs : j.bindings.filter Binding.writes = bs) (h : j.resolved = true ∨ bs = [] ∨ s.writeWaits bs = true)
    (bad : List Nat) : exec (.kvWriteResolution ctx ⟨tag, bad⟩) s = .next s := by
  rw [exec_kvWriteResolution hj hbs]
  rcases h with h | h | h <;> simp [h]

theorem exec_kvWriteResolution_acts (hj : s.job { ctx := ctx, tag := tag } = some j) {bs : List Binding}
    (hbs : j.bindings.filter Binding.writes = bs) (hnew : j.resolved = false) (hsome : bs ≠ [])
    (hfree : s.writeWaits bs = false) (bad : List Nat) :
    exec (.kvWriteResolution ctx ⟨tag, bad⟩) s =
      .next ((s.resolveAll bs bad).lacks.elim ((s.resolveAll bs bad).s.markResolved j.key bs) fun x =>
        s.afterLack (s.resolveAll bs bad).s j.key x.1 x.2) := by
  rw [exec_kvWriteResolution hj hbs, if_neg (by simp [hnew, hsome]), if_neg (by simp [hfree])]

/-- A resolution that lacks nothing marks its job, with the pages that it pinned. -/
theorem markResolved_job (hj : s.job j.key = some j) (bs : List Binding) (bad : List Nat) :
    ∃ k, ((s.resolveAll bs bad).s.markResolved j.key bs).job j.key = some k ∧ k.resolved = true ∧
      k.pinned = bs.flatMap (s.resolveAll bs bad).s.writeFrames := by
  refine ⟨j.resolvedWith (bs.flatMap (s.resolveAll bs bad).s.writeFrames), ?_, rfl, rfl⟩
  rw [State.markResolved, startPlaced_job, job_onJob (f := Job.resolvedWith _) (fun _ => rfl),
    job_of_sch (sch_of_desk (resolveAll_desk s bs bad)), hj]
  rfl

end WriteResolution

/-! Victims (R228). -/

theorem sortBy_eq {α : Type} (before : α → α → Bool) (l : List α) :
    sortBy before l = l.insertionSort fun a b => before a b = true := by
  have hinsert (a : α) (l : List α) : insertBy before a l = l.orderedInsert (fun a b => before a b = true) a := by
    induction l with
    | nil => rfl
    | cons b l ih => rw [insertBy, List.orderedInsert_cons, ih]
  induction l with
  | nil => rfl
  | cons a l ih => rw [List.insertionSort_cons, ← ih, ← hinsert]; rfl

/-- The first of a sorted list is before every element, where the order is total and transitive. -/
theorem sortBy_head {α : Type} {before : α → α → Bool} (htotal : ∀ a b, before a b = true ∨ before b a = true)
    (htrans : ∀ a b c, before a b = true → before b c = true → before a c = true) {l : List α} {v : α}
    (h : (sortBy before l).head? = some v) : v ∈ l ∧ ∀ w ∈ l, w = v ∨ before v w = true := by
  have : Std.Total fun a b => before a b = true := ⟨htotal⟩
  have : IsTrans α fun a b => before a b = true := ⟨htrans⟩
  rw [sortBy_eq] at h
  have hsorted := List.pairwise_insertionSort (fun a b => before a b = true) l
  obtain ⟨rest, hrest⟩ := List.head?_eq_some_iff.mp h
  have hmem (w : α) : w ∈ l ↔ w = v ∨ w ∈ rest := by
    rw [← List.mem_insertionSort fun a b => before a b = true, hrest, List.mem_cons]
  rw [hrest] at hsorted
  refine ⟨(hmem v).mpr (.inl rfl), fun w hw => ((hmem w).mp hw).imp_right fun hin => ?_⟩
  exact (List.pairwise_cons.mp hsorted).1 w hin

theorem victimBefore_iff {a b : KvSeq} : victimBefore a b = true ↔
    b.cls < a.cls ∨
      (a.cls = b.cls ∧ (a.priority < b.priority ∨ (a.priority = b.priority ∧ b.admitted ≤ a.admitted))) := by
  simp [victimBefore]

/-- The victim is a candidate, and comes before every other one. -/
theorem victim_first {s : State} {q v : KvSeq} (h : s.victim q = some v) :
    (v ∈ s.kv.seqs ∧ v.pool = q.pool ∧ v.id ≠ q.id ∧ 2 ≤ v.cls ∧ v.state = .active) ∧
      ∀ w ∈ s.kv.seqs, w.pool = q.pool → w.id ≠ q.id → 2 ≤ w.cls → w.state = .active → w.freeing = false →
        w.priority < q.priority → w = v ∨ victimBefore v w = true := by
  obtain ⟨hmem, hfirst⟩ := sortBy_head (fun a b => by simp only [victimBefore_iff]; omega)
    (fun a b c => by simp only [victimBefore_iff]; omega) h
  simp only [List.mem_filter, Bool.and_eq_true, decide_eq_true_eq] at hmem hfirst
  obtain ⟨hseq, ⟨⟨⟨⟨hpool, hid⟩, hcls⟩, hstate⟩, -⟩, -⟩ := hmem
  exact ⟨⟨hseq, hpool, hid, hcls, hstate⟩, fun w hw hp hi hc hs hf hlow =>
    hfirst w ⟨hw, ⟨⟨⟨⟨hp, hi⟩, hc⟩, hs⟩, by simp [hf]⟩, by simp [hlow]⟩⟩

/-! Compaction (R225, R233, R234, R349). -/

/-- A die of the pool has too few free frames below the target for those at and above it (R234). -/
def Pool.cannotCompact (p : Pool) (target : Nat) : Bool :=
  p.dieList.any fun d =>
    let used := (p.die d).frames.used
    let below := (used.filter fun u => decide (u < target)).length
    decide (target - below < used.length - below)

theorem exec_kvCompact {c : Cmd} {s : State} (h : Starts 5 8 c s) : exec (.kvCompact c) s =
    .next ((s.pool (c.word 0)).elim ((begun c s).complete c stBadParam) fun p =>
      if c.word 1 = 0 ∨ p.framesPerDie < c.word 1 then (begun c s).complete c stBadParam
      else if s.kv.compaction ≠ none then (begun c s).complete c stBusy
      else if p.cannotCompact (c.word 1) = true then (begun c s).complete c stNoMemory
      else ((((begun c s).onKv fun k => { k with
        compaction := some { pool := p.id, target := c.word 1 } }).await c (.compact p.id)).checkCompacted)) := by
  refine congrArg Host.Outcome.next ((runCmd_starts h _).trans ?_)
  simp only [begun_pool, begun_kv, Bool.or_eq_true, decide_eq_true_eq, Option.isSome_iff_ne_none]
  cases s.pool (c.word 0) <;> rfl

section CompactionMove

variable {s : State} {x : Compaction} {index : Nat}

/-- The numbers below the target that are free on the frame's die (R233). -/
def State.roomBelow (s : State) (x : Compaction) (index : Nat) : Nat :=
  x.target - ((((s.pool x.pool).getD {}).die (idxDie index)).frames.used.filter fun u => decide (u < x.target)).length

/-- The number below the target that a frame takes: which one is the firmware's choice (R233, log 24). -/
def State.numberBelow (s : State) (x : Compaction) (index : Nat) : Nat :=
  nthFree (((s.pool x.pool).getD {}).die (idxDie index)).frames.used (s.draw 0 % s.roomBelow x index)

/-- One more frame has been moved (R233). -/
def State.noteMove (s : State) (x : Compaction) (d : Nat) : State :=
  ((s.onKv fun k => { k with compaction := some { x with moved := x.moved + 1 } }).countMove d).bump

/-- A copied frame takes number `f` of the pool: its old number is free, and its entry names the new one at the next
generation (R225, R233). -/
def State.renumber (s : State) (index pool f : Nat) (e : FtEntry) : State :=
  (s.onPoolDie pool (idxDie index) fun y => { y with
    frames := { y.frames.put e.number with used := insertNat f (y.frames.put e.number).used } }).setEntry index
      { e with number := f, gen := e.gen + 1 }

/-- The bytes of a frame are copied to the place of its new number (R225). -/
def State.copyBelow (s : State) (x : Compaction) (index : Nat) (bad : List Nat) : State :=
  let p := (s.pool x.pool).getD {}
  s.copyFrame (s.frameAddr index) (p.frameBase (idxDie index) (s.numberBelow x index)) p.frameBytes bad

/-- A frame that compaction moves (R233). -/
def State.moveFrame (s : State) (x : Compaction) (index : Nat) (bad : List Nat) : State :=
  ((s.copyBelow x index bad).renumber index ((s.pool x.pool).getD {}).id (s.numberBelow x index)
    (s.entry index)).noteMove x (idxDie index)

/-- No move is tried now: no BGD window is open, the frame needs none, or it was tried in this chain (R233, R349). -/
def State.moveWaits (s : State) (x : Compaction) (index : Nat) : Prop :=
  s.sch.bgdUntil ≤ s.tb.link ∨ (s.aboveTarget ((s.pool x.pool).getD {}) x.target).contains index = false ∨
    s.triedNow x index = true

/-- A frame cannot move: it is not resident, is read, or finds no number below the target (R233). -/
def State.moveFails (s : State) (x : Compaction) (index : Nat) : Prop :=
  (s.entry index).state ≠ ftResident ∨ (s.entry index).readers ≠ 0 ∨ s.roomBelow x index = 0

theorem exec_compactionMove_waits (hx : s.kv.compaction = some x) (h : s.moveWaits x index) (bad : List Nat) :
    exec (.compactionMove ⟨index, bad⟩) s = .next s := by
  refine congrArg Host.Outcome.next ?_
  rw [hx]
  exact if_pos (by simpa [State.moveWaits, or_assoc] using h)

theorem exec_compactionMove_fails (hx : s.kv.compaction = some x) (hnow : ¬s.moveWaits x index)
    (h : s.moveFails x index) (bad : List Nat) :
    exec (.compactionMove ⟨index, bad⟩) s = .next (s.failMove x index) := by
  refine congrArg Host.Outcome.next ?_
  rw [hx]
  refine (if_neg (by simpa [State.moveWaits, or_assoc] using hnow)).trans ?_
  by_cases hentry : (s.entry index).state ≠ ftResident ∨ (s.entry index).readers ≠ 0
  · exact if_pos (by simpa using hentry)
  · refine (if_neg (by simpa using hentry)).trans (if_pos ?_)
    exact (or_assoc.mpr h).resolve_left hentry

theorem exec_compactionMove_moves (hx : s.kv.compaction = some x) (hnow : ¬s.moveWaits x index)
    (h : ¬s.moveFails x index) (bad : List Nat) :
    exec (.compactionMove ⟨index, bad⟩) s = .next (s.moveFrame x index bad).checkCompacted := by
  obtain ⟨hentry, hroom⟩ := not_or.mp (mt or_assoc.mp h)
  refine congrArg Host.Outcome.next ?_
  rw [hx]
  exact (if_neg (by simpa [State.moveWaits, or_assoc] using hnow)).trans
    ((if_neg (by simpa using hentry)).trans (if_neg hroom))

/-- An entry with another number at another generation is read back at its widths. -/
theorem wrap_renumbered {e : FtEntry} (he : e.wrap = e) (gen number : Nat) :
    ({ e with gen := gen, number := number } : FtEntry).wrap =
      { e with gen := gen % 16, number := number % 2 ^ 26 } := by
  conv_rhs => rw [← he]
  rfl

@[simp] theorem noteMove_compaction (s : State) (x : Compaction) (d : Nat) :
    (s.noteMove x d).kv.compaction = some { x with moved := x.moved + 1 } := rfl
@[simp] theorem noteMove_sch (s : State) (x : Compaction) (d : Nat) : (s.noteMove x d).sch = s.sch := rfl
@[simp] theorem noteMove_asz (s : State) (x : Compaction) (d : Nat) : (s.noteMove x d).asz = s.asz := rfl
@[simp] theorem noteMove_entry (s : State) (x : Compaction) (d i : Nat) :
    (s.noteMove x d).entry i = s.entry i := rfl

@[simp] theorem renumber_sch (s : State) (index pool f : Nat) (e : FtEntry) :
    (s.renumber index pool f e).sch = s.sch := rfl
@[simp] theorem renumber_asz (s : State) (index pool f : Nat) (e : FtEntry) :
    (s.renumber index pool f e).asz = s.asz := rfl

theorem renumber_entry (h : s.mem.wf = true) (index pool f : Nat) {e : FtEntry} (he : e.wrap = e) :
    (s.renumber index pool f e).entry index = { e with gen := (e.gen + 1) % 16, number := f % 2 ^ 26 } := by
  rw [← wrap_renumbered he]
  exact entry_setEntry h index _

theorem copyBelow_wf (h : s.mem.wf = true) (x : Compaction) (index : Nat) (bad : List Nat) :
    (s.copyBelow x index bad).mem.wf = true := (Kept.copyFrame (.refl {} s) _ _ _ _).wf h

@[simp] theorem copyBelow_sch (s : State) (x : Compaction) (index : Nat) (bad : List Nat) :
    (s.copyBelow x index bad).sch = s.sch := sch_of_desk (State.copyFrame_desk ..)
@[simp] theorem copyBelow_asz (s : State) (x : Compaction) (index : Nat) (bad : List Nat) :
    (s.copyBelow x index bad).asz = s.asz := State.copyFrame_asz ..

/-- A move counts itself, leaves the schedule and the Assize, and writes its entry with the new number at the next
generation (R233). -/
theorem moveFrame_leaves (h : s.mem.wf = true) (x : Compaction) (index : Nat) (bad : List Nat) :
    (s.moveFrame x index bad).kv.compaction = some { x with moved := x.moved + 1 } ∧
      (s.moveFrame x index bad).sch = s.sch ∧ (s.moveFrame x index bad).asz = s.asz ∧
      (s.moveFrame x index bad).entry index = { s.entry index with
        gen := ((s.entry index).gen + 1) % 16, number := s.numberBelow x index % 2 ^ 26 } := by
  unfold State.moveFrame
  refine ⟨noteMove_compaction .., by simp, by simp, ?_⟩
  rw [noteMove_entry, renumber_entry (copyBelow_wf h x index bad) _ _ _ (wrap_entry s index)]

end CompactionMove

/-- Settles O39: write resolution by its equation and `markResolved_job`, the end of a job by `requestEnd_unplaced`, the
victim by `victim_first`, compaction by its equations and what a move leaves. -/
theorem writeResolutionAndCompaction : Obligations.WriteResolutionAndCompaction := by
  refine ⟨fun s ctx tag j bad hj => ⟨fun hwait => exec_kvWriteResolution_waits hj rfl hwait bad,
      fun hnew hsome hfree => ?_⟩,
    fun s j st hj hplaced => requestEnd_unplaced hj hplaced st, fun s q v hv => ?_,
    fun c s h => ⟨fun hnone => ?_, fun p hp => ⟨fun hbad => ?_, fun hpos hle => ⟨fun hbusy => ?_,
      fun hidle hshort => ?_, fun hidle hroom => ?_⟩⟩⟩,
    fun s index bad x hx => ⟨fun hwait => exec_compactionMove_waits hx hwait bad, fun hopen habove hfresh => ?_⟩⟩
  · have hexec := exec_kvWriteResolution_acts hj rfl hnew hsome hfree bad
    refine ⟨fun hnone => ?_, fun q d hlacks => ?_⟩
    · rw [hnone] at hexec
      obtain ⟨k, hk, hresolved, hpinned⟩ := markResolved_job (s := s) (by rwa [key_of_job hj])
        (j.bindings.filter Binding.writes) bad
      exact ⟨_, k, hexec, hk, hresolved, hpinned⟩
    · rw [hlacks] at hexec
      refine ⟨fun hempty => hexec.trans (congrArg _ (if_pos hempty)), fun hentries => ?_⟩
      replace hexec := hexec.trans (congrArg _ (if_neg hentries))
      refine ⟨fun hsusp => hexec.trans (congrArg _ (if_pos hsusp)), fun hsusp => ?_⟩
      replace hexec := hexec.trans (congrArg _ (if_neg (Bool.eq_false_iff.mp hsusp)))
      exact ⟨fun hnone => by rw [hexec, hnone]; rfl, fun v hv => by rw [hexec, hv]; rfl⟩
  · obtain ⟨⟨hseq, hpool, hid, hcls, hstate⟩, hfirst⟩ := victim_first hv
    refine ⟨hseq, hpool, hid, hcls, hstate, fun w hw hp hi hc hs hf hlow => ?_⟩
    rcases hfirst w hw hp hi hc hs hf hlow with rfl | hbefore
    · exact ⟨le_rfl, fun _ => le_rfl⟩
    · rw [victimBefore_iff] at hbefore
      omega
  · rw [exec_kvCompact h, hnone, Option.elim_none]
  · rw [exec_kvCompact h, hp, Option.elim_some, if_pos hbad]
  · rw [exec_kvCompact h, hp, Option.elim_some, if_neg (by omega), if_pos hbusy]
  · rw [exec_kvCompact h, hp, Option.elim_some, if_neg (by omega), if_neg (not_not.mpr hidle)]
    exact congrArg _ (if_pos hshort)
  · rw [exec_kvCompact h, hp, Option.elim_some, if_neg (by omega), if_neg (not_not.mpr hidle)]
    exact congrArg _ (if_neg (Bool.eq_false_iff.mp hroom))
  · have hnow : ¬s.moveWaits x index := by
      rintro (hclosed | hbelow | htried)
      · omega
      · exact Bool.eq_false_iff.mp hbelow habove
      · exact Bool.eq_false_iff.mp hfresh htried
    refine ⟨fun hfails => exec_compactionMove_fails hx hnow hfails bad, fun hstate hreaders hroom hwf => ?_⟩
    have hmoves : ¬s.moveFails x index := by
      rintro (hother | hread | hfull)
      · exact hother hstate
      · exact hread hreaders
      · exact Nat.ne_of_gt hroom hfull
    obtain ⟨hcount, hsch, hasz, hentry⟩ := moveFrame_leaves hwf x index bad
    exact ⟨_, exec_compactionMove_moves hx hnow hmoves bad, hcount, hsch, hasz, hentry⟩

end Sys2Proof.Machine
end

section
/-! Sensor intake (chapter 11): commands of streams and profiles, packets, pipes and samples, and what the
statement O55 of the intake rests on. -/

namespace Sys2Proof.Machine

open Sys2Proof.Safety

/-! The stream of a state. -/

theorem State.stream_onStream (s : State) {i : Nat} (f : Stream → Stream) (h : i < s.itk.streams.length) :
    (s.onStream i f).stream i = f (s.stream i) := by
  simp [State.stream, h]

theorem State.stream_onStream_ne (s : State) {i k : Nat} (f : Stream → Stream) (h : k ≠ i) :
    (s.onStream i f).stream k = s.stream k := by
  simp [State.stream, Ne.symm h, List.getD_eq_getElem?_getD]

@[simp] theorem begun_stream (c : Cmd) (s : State) (i : Nat) : (begun c s).stream i = s.stream i := by
  simp [State.stream]
@[simp] theorem begun_profileBusy (c : Cmd) (s : State) (i : Nat) : (begun c s).profileBusy i = s.profileBusy i := by
  simp [State.profileBusy]
@[simp] theorem begun_streamBad (c : Cmd) (s : State) (d : List Byte) (i : Nat) (x : StreamCfg) :
    (begun c s).streamBad d i x = s.streamBad d i x := by
  simp [State.streamBad]

/-! Records, events, the safe state and the watchdogs leave the intake. -/

@[simp] theorem State.recTrigger_itk (s : State) (safety : Bool) : (s.recTrigger safety).itk = s.itk := by
  unfold State.recTrigger
  split <;> rfl
@[simp] theorem State.sched_itk (s : State) (code : Nat) (part arg0 : Option Nat) :
    (s.sched code part arg0).itk = s.itk := rfl
@[simp] theorem State.capture_itk (s : State) (r : List Byte) : (s.capture r).itk = s.itk := by
  unfold State.capture
  split
  · rfl
  · split <;> rfl
@[simp] theorem State.sendVector_itk (s : State) (v : Nat) : (s.sendVector v).itk = s.itk := by
  unfold State.sendVector
  split <;> rfl
@[simp] theorem State.raiseEvent_itk (s : State) (v : Nat) : (s.raiseEvent v).itk = s.itk := by
  unfold State.raiseEvent
  dsimp only
  split <;> split <;> simp
@[simp] theorem State.decideSafe_itk (s : State) (c : Nat) : (s.decideSafe c).itk = s.itk := by
  simp only [State.decideSafe, apply_ite State.itk, State.bump_itk, State.capture_itk, State.onAsz_itk,
    State.recTrigger_itk, State.sched_itk, ite_self]
@[simp] theorem State.onWd_itk (s : State) (w : Nat) (f : Watchdog → Watchdog) : (s.onWd w f).itk = s.itk := rfl
@[simp] theorem State.wdFaulty_itk (s : State) (w : Nat) : (s.wdFaulty w).itk = s.itk := by
  simp only [State.wdFaulty, apply_ite State.itk, State.onWd_itk, State.onAsz_itk, State.sched_itk,
    State.recTrigger_itk, State.decideSafe_itk, State.raiseEvent_itk, ite_self]
@[simp] theorem State.wdStop_itk (s : State) (w : Nat) : (s.wdStop w).itk = s.itk := by
  simp only [State.wdStop, apply_ite State.itk, State.onWd_itk, State.wdFaulty_itk, ite_self]

/-! The commands. -/

section Commands

variable {c : Cmd} {s : State}

/-- ITK_STREAM_CONFIG answers by the first row of R264 that applies. -/
theorem exec_itkStreamConfig (h : Starts 7 1 c s) : exec (.itkStreamConfig c) s = .next (
    let i := fieldAt c.data 0 1
    let x := parseStream c.data
    if (s.stream i).running = true then (begun c s).complete c stBusy
    else if s.dev.mode = .recovery then (begun c s).complete c stMode
    else if streamLimit x = true then (begun c s).complete c stLimit
    else if s.streamBad c.data i x = true then (begun c s).complete c stBadParam
    else ((begun c s).onStream i fun y => { y with cfg := some x }).complete c stOk) := by
  refine congrArg _ ((runCmd_starts h _).trans ?_)
  simp only [begun_stream, begun_dev, begun_streamBad]

/-- ITK_PIPE_CONFIG answers by the first check of R271 that fails. -/
theorem exec_itkPipeConfig (h : Starts 7 2 c s) : exec (.itkPipeConfig c) s = .next (
    let i := fieldAt c.data 0 1
    let p := parseProfile c.data
    if s.profileBusy i = true then (begun c s).complete c stBusy
    else if profileLimit i p = true then (begun c s).complete c stLimit
    else if profileBad p = true then (begun c s).complete c stBadParam
    else ((begun c s).onItk fun x => { x with profiles := x.profiles.set i (some p) }).complete c stOk) := by
  refine congrArg _ ((runCmd_starts h _).trans ?_)
  simp only [begun_profileBusy]

theorem exec_itkStreamStart_busy (h : Starts 7 3 c s) (hrun : (s.stream (c.word 0 % 16)).running = true) :
    exec (.itkStreamStart c) s = .next ((begun c s).complete c stBusy) := by
  refine congrArg _ ((runCmd_starts h _).trans ?_)
  simp only [begun_stream, hrun, if_true]

theorem exec_itkStreamStart_unconfigured (h : Starts 7 3 c s) (hrun : (s.stream (c.word 0 % 16)).running = false)
    (hcfg : (s.stream (c.word 0 % 16)).cfg = none) :
    exec (.itkStreamStart c) s = .next ((begun c s).complete c stBadParam) := by
  refine congrArg _ ((runCmd_starts h _).trans ?_)
  simp only [begun_stream, hrun, hcfg, Bool.false_eq_true, if_false]

section Configured

variable {x : StreamCfg} (hrun : (s.stream (c.word 0 % 16)).running = false)
  (hcfg : (s.stream (c.word 0 % 16)).cfg = some x)

include hrun hcfg

theorem exec_itkStreamStart_noProfile (h : Starts 7 3 c s) (hp : s.itk.profiles.getD x.profile none = none) :
    exec (.itkStreamStart c) s = .next ((begun c s).complete c stBadParam) := by
  refine congrArg _ ((runCmd_starts h _).trans ?_)
  simp only [begun_stream, begun_itk, hrun, hcfg, hp, Bool.false_eq_true, if_false]

/-- A stream with a configuration and a profile starts as far as they fit and the rooms suffice (R265). -/
theorem exec_itkStreamStart_profile (h : Starts 7 3 c s) {p : Profile}
    (hp : s.itk.profiles.getD x.profile none = some p) : exec (.itkStreamStart c) s = .next (
      let i := c.word 0 % 16
      if profileSuits x p = false then (begun c s).complete c stBadParam
      else if ∃ b, b < x.nbuf ∧ x.room b < p.tensorBytes then (begun c s).complete c stLimit
      else (((begun c s).onStream i fun y => { y with
        running := true, nextSeq := 0, frames := [], decodes := []
        budget := if x.budget = 0 then x.period else x.budget }).wdStart (16 + i)).complete c stOk) := by
  refine congrArg _ ((runCmd_starts h _).trans ?_)
  simp only [begun_stream, begun_itk, hrun, hcfg, hp, Bool.false_eq_true, if_false, Bool.not_eq_true',
    List.any_eq_true, List.mem_range, decide_eq_true_eq]

/-- A stream that starts has no frame, opens with sequence 0, and arms its watchdog in this link (R265, R388). -/
theorem exec_itkStreamStart_starts (h : Starts 7 3 c s) (hshape : Shaped s) {p : Profile}
    (hp : s.itk.profiles.getD x.profile none = some p) (hsuits : profileSuits x p = true)
    (hroom : ∀ b, b < x.nbuf → p.tensorBytes ≤ x.room b) : let i := c.word 0 % 16
    ∃ u : State, exec (.itkStreamStart c) s = .next (u.complete c stOk) ∧ u.stream i = { s.stream i with
        running := true, nextSeq := 0, frames := [], decodes := []
        budget := if x.budget = 0 then x.period else x.budget } ∧
      (∀ k, k ≠ i → u.stream k = s.stream k) ∧ (u.watchdog (16 + i)).source = some s.tb.link ∧ u.mem = s.mem := by
  obtain ⟨-, -, -, -, -, -, -, ⟨-, hstreams, -⟩, hdogs, -⟩ := hshape
  have hrooms : ¬∃ b, b < x.nbuf ∧ x.room b < p.tensorBytes := fun ⟨b, hb, hless⟩ =>
    Nat.not_lt_of_ge (hroom b hb) hless
  have hi : c.word 0 % 16 < (begun c s).itk.streams.length := by rw [begun_itk]; omega
  refine ⟨_, (exec_itkStreamStart_profile hrun hcfg h hp).trans
    (congrArg _ ((if_neg (by simp [hsuits])).trans (if_neg hrooms))), ?_, fun k hk => ?_, ?_, begun_mem c s⟩
  · exact ((begun c s).stream_onStream _ hi).trans (by rw [begun_stream])
  · exact ((begun c s).stream_onStream_ne _ hk).trans (begun_stream c s k)
  · have hw : 16 + c.word 0 % 16 < s.asz.watchdogs.length := by omega
    simp [State.wdStart, State.onWd, State.watchdog, hw]

end Configured

theorem exec_itkStreamStop_idle (h : Starts 7 4 c s) (hrun : (s.stream (c.word 0 % 16)).running = false) :
    exec (.itkStreamStop c) s = .next ((begun c s).complete c stBadParam) := by
  refine congrArg _ ((runCmd_starts h _).trans ?_)
  simp only [begun_stream, hrun, Bool.not_false, if_true]

/-- A stream that runs is stopped, with its watchdog, after its open frames have become void (R266). -/
theorem exec_itkStreamStop_running (h : Starts 7 4 c s) (hrun : (s.stream (c.word 0 % 16)).running = true) :
    ∃ v : State, exec (.itkStreamStop c) s =
      .next (((v.onStream (c.word 0 % 16) fun x => { x with running := false, frames := [] }).wdStop
        (16 + c.word 0 % 16)).complete c stOk) := by
  have hbody := runCmd_starts h fun s =>
    let i := c.word 0 % 16
    if !(s.stream i).running then s.complete c stBadParam
    else
      let s := ((s.stream i).frames.filter fun f => f.resolved.isNone).foldl (fun x f => x.void i f.seq 9) s
      let s := (s.onStream i fun x => { x with running := false, frames := [] }).wdStop (16 + i)
      s.complete c stOk
  exact ⟨_, congrArg _ (hbody.trans (if_neg (by simp [hrun])))⟩

/-- A stream that a stop has named does not run, whichever it is: an unlisted one reads as idle. -/
theorem stream_stopped (v : State) (i w : Nat) :
    ((((v.onStream i fun x => { x with running := false, frames := [] }).wdStop w).stream i).running = false) ∧
      (((v.onStream i fun x => { x with running := false, frames := [] }).wdStop w).stream i).frames = [] := by
  have hkeep : ((v.onStream i fun x => { x with running := false, frames := [] }).wdStop w).stream i =
      (v.onStream i fun x => { x with running := false, frames := [] }).stream i := by
    simp [State.stream]
  rw [hkeep]
  by_cases hi : i < v.itk.streams.length
  · rw [v.stream_onStream _ hi]
    exact ⟨rfl, rfl⟩
  · simp [State.stream, List.getD_eq_getElem?_getD, hi]

end Commands

/-! Packets (R261, R262, R267, R268). -/

section Packets

variable {s : State} {port vc dt i : Nat} {d : List Byte} {f : Frame}

theorem exec_csiFrameStart_none (hlive : s.replaying = false) (hon : s.streamOn port vc = none) :
    exec (.csiFrameStart port vc .ok) s = .next s := by
  show execCsiFrameStart port vc .ok s = _
  simp [execCsiFrameStart, hlive, State.header, hon]

theorem exec_csiFrameStart_idle (hlive : s.replaying = false) (hon : s.streamOn port vc = some i)
    (hcur : (s.stream i).current = none) : exec (.csiFrameStart port vc .ok) s = .next (s.startFrame i) := by
  show execCsiFrameStart port vc .ok s = _
  simp [execCsiFrameStart, hlive, State.header, hon, hcur]

theorem exec_csiFrameStart_open (hlive : s.replaying = false) (hon : s.streamOn port vc = some i)
    (hcur : (s.stream i).current = some f) : exec (.csiFrameStart port vc .ok) s =
      .next (((((if f.resolved.isNone then s.void i f.seq 4 else s).onFrame i f.seq fun y =>
        { y with ended := true }).onStream i dropDone).startFrame i)) := by
  show execCsiFrameStart port vc .ok s = _
  simp [execCsiFrameStart, hlive, State.header, hon, hcur]

theorem exec_csiFrameEnd_none (hlive : s.replaying = false) (hon : s.streamOn port vc = none) :
    exec (.csiFrameEnd port vc .ok) s = .next s := by
  show execCsiFrameEnd port vc .ok s = _
  simp [execCsiFrameEnd, hlive, State.header, hon]

theorem exec_csiFrameEnd_idle (hlive : s.replaying = false) (hon : s.streamOn port vc = some i)
    (hcur : (s.stream i).current = none) : exec (.csiFrameEnd port vc .ok) s = .next s := by
  show execCsiFrameEnd port vc .ok s = _
  simp [execCsiFrameEnd, hlive, State.header, hon, hcur]

/-- The end of an open frame: one that is not resolved and lacks lines becomes void (R268). -/
theorem exec_csiFrameEnd_open (hlive : s.replaying = false) (hon : s.streamOn port vc = some i)
    (hcur : (s.stream i).current = some f) : exec (.csiFrameEnd port vc .ok) s =
      .next ((((if f.resolved.isNone && decide (f.lines < ((s.stream i).cfg.getD {}).allLines) then
        s.void i f.seq 4 else s).onFrame i f.seq fun y => { y with ended := true }).leavePipe i f.seq).onStream i
          dropDone) := by
  show execCsiFrameEnd port vc .ok s = _
  simp only [execCsiFrameEnd, hlive, State.header, hon, hcur, Bool.false_eq_true, if_false, Bool.not_true]
  rfl

/-- A long packet whose checks fail counts on its port and voids the frame open on its channel (R262). -/
theorem exec_csiLongPacket_bad (hlive : s.replaying = false) :
    exec (.csiLongPacket port vc dt d .ok false) s =
      .next ((if dtAccepted dt = true then s.onPort port fun p => { p with crcErrors := satInc 255 p.crcErrors }
        else (s.onPort port fun p => { p with crcErrors := satInc 255 p.crcErrors }).onPort port fun p =>
          { p with discarded := p.discarded + 1 }).voidOpen port vc 2) := by
  show execCsiLongPacket port vc dt d .ok false s = _
  simp [execCsiLongPacket, hlive, State.header]

theorem exec_csiLongPacket_discarded (hlive : s.replaying = false) (hdt : dtAccepted dt = false) :
    exec (.csiLongPacket port vc dt d .ok true) s =
      .next (s.onPort port fun p => { p with discarded := p.discarded + 1 }) := by
  show execCsiLongPacket port vc dt d .ok true s = _
  simp [execCsiLongPacket, hlive, State.header, hdt]

theorem exec_csiLongPacket_none (hlive : s.replaying = false) (hdt : dtAccepted dt = true)
    (hon : s.streamOn port vc = none) : exec (.csiLongPacket port vc dt d .ok true) s = .next s := by
  show execCsiLongPacket port vc dt d .ok true s = _
  simp [execCsiLongPacket, hlive, State.header, hdt, hon]

theorem exec_csiLongPacket_idle (hlive : s.replaying = false) (hdt : dtAccepted dt = true)
    (hon : s.streamOn port vc = some i) (hcur : (s.stream i).current = none) :
    exec (.csiLongPacket port vc dt d .ok true) s = .next s := by
  show execCsiLongPacket port vc dt d .ok true s = _
  simp [execCsiLongPacket, hlive, State.header, hdt, hon, hcur]

section Open

variable (hlive : s.replaying = false) (hdt : dtAccepted dt = true) (hon : s.streamOn port vc = some i)
  (hcur : (s.stream i).current = some f) (hflip : f.flipped d.length = false)

include hlive hdt hon hcur hflip

theorem exec_csiLongPacket_resolved (hres : f.resolved ≠ none) :
    exec (.csiLongPacket port vc dt d .ok true) s = .next s := by
  have hsome : f.resolved.isSome = true := Option.isSome_iff_ne_none.mpr hres
  show execCsiLongPacket port vc dt d .ok true s = _
  simp [execCsiLongPacket, hlive, State.header, hdt, hon, hcur, hflip, hsome]

theorem exec_csiLongPacket_line (hres : f.resolved = none) (hlines : f.lines ≠ 0) :
    exec (.csiLongPacket port vc dt d .ok true) s = .next (s.addLine i f ((s.stream i).cfg.getD {}) d) := by
  show execCsiLongPacket port vc dt d .ok true s = _
  simp [execCsiLongPacket, hlive, State.header, hdt, hon, hcur, hflip, hres, hlines]

theorem exec_csiLongPacket_firstBad (hres : f.resolved = none) (hlines : f.lines = 0)
    (hfirst : firstOk ((s.stream i).cfg.getD {}) dt d.length = false) :
    exec (.csiLongPacket port vc dt d .ok true) s = .next (s.void i f.seq 1) := by
  show execCsiLongPacket port vc dt d .ok true s = _
  simp [execCsiLongPacket, hlive, State.header, hdt, hon, hcur, hflip, hres, hlines, hfirst]

end Open

/-- A line inside the frame's limits, of a frame that has a pipe, is added (R268). -/
theorem addLine_fits {x : StreamCfg} (hroom : f.lines < x.allLines)
    (hwc : x.embLines < f.lines → d.length = f.firstWc) (hmax : f.bytes + d.length ≤ x.maxBytes)
    (hpipe : f.pipe ≠ none) : s.addLine i f x d = s.onFrame i f.seq fun y => y.addLine x d := by
  have hlimits : ¬(x.allLines ≤ f.lines ∨ (x.embLines < f.lines ∧ d.length ≠ f.firstWc) ∨
      x.maxBytes < f.bytes + d.length) := by
    rintro (hover | ⟨himage, hother⟩ | hbig)
    · omega
    · exact hother (hwc himage)
    · omega
  have hassigned : f.pipe.isNone = false := Option.isNone_eq_false_iff.mpr (Option.isSome_iff_ne_none.mpr hpipe)
  unfold State.addLine
  rw [if_neg (by simpa [or_assoc] using hlimits)]
  simp [hassigned]

theorem exec_csiPacketDiscard_ok (hlive : s.replaying = false) : exec (.csiPacketDiscard port ⟨vc, dt, .ok⟩) s =
    .next (if dtAccepted dt = true then s else s.onPort port fun p => { p with discarded := p.discarded + 1 }) := by
  show execCsiPacketDiscard port ⟨vc, dt, .ok⟩ s = _
  simp [execCsiPacketDiscard, hlive, State.header]

/-! Replay, and headers whose ECC is not clean (R262, R537). -/

theorem exec_packets_replaying (h : s.replaying = true) (e : HeaderEcc) (ok : Bool) :
    exec (.csiFrameStart port vc e) s = .next s ∧ exec (.csiFrameEnd port vc e) s = .next s ∧
      exec (.csiLongPacket port vc dt d e ok) s = .next s ∧ exec (.csiPacketDiscard port ⟨vc, dt, e⟩) s = .next s :=
  ⟨congrArg _ (if_pos h), congrArg _ (if_pos h), congrArg _ (if_pos h), congrArg _ (if_pos h)⟩

theorem exec_packets_uncorrectable (h : s.replaying = false) (ok : Bool) :
    let t := (s.header port vc .uncorrectable).2
    exec (.csiFrameStart port vc .uncorrectable) s = .next t ∧ exec (.csiFrameEnd port vc .uncorrectable) s = .next t ∧
      exec (.csiLongPacket port vc dt d .uncorrectable ok) s = .next t ∧
      exec (.csiPacketDiscard port ⟨vc, dt, .uncorrectable⟩) s = .next t := by
  refine ⟨?_, ?_, ?_, ?_⟩
  · show execCsiFrameStart port vc .uncorrectable s = _
    simp only [execCsiFrameStart, h, State.header, Bool.false_eq_true, if_false, Bool.not_false, if_true]
    split <;> rfl
  · show execCsiFrameEnd port vc .uncorrectable s = _
    simp only [execCsiFrameEnd, h, State.header, Bool.false_eq_true, if_false, Bool.not_false, if_true]
    split
    · rfl
    · split <;> rfl
  · show execCsiLongPacket port vc dt d .uncorrectable ok s = _
    simp [execCsiLongPacket, h, State.header]
  · show execCsiPacketDiscard port ⟨vc, dt, .uncorrectable⟩ s = _
    simp [execCsiPacketDiscard, h, State.header]

theorem exec_packets_corrected (h : s.replaying = false) (ok : Bool) :
    let t := s.onPort port fun p => { p with eccCorrected := satInc 255 p.eccCorrected }
    exec (.csiFrameStart port vc .corrected) s = exec (.csiFrameStart port vc .ok) t ∧
      exec (.csiFrameEnd port vc .corrected) s = exec (.csiFrameEnd port vc .ok) t ∧
      exec (.csiLongPacket port vc dt d .corrected ok) s = exec (.csiLongPacket port vc dt d .ok ok) t ∧
      exec (.csiPacketDiscard port ⟨vc, dt, .corrected⟩) s = exec (.csiPacketDiscard port ⟨vc, dt, .ok⟩) t := by
  have hs : ¬s.replaying = true := Bool.eq_false_iff.mp h
  exact ⟨congrArg _ ((if_neg hs).trans (if_neg hs).symm), congrArg _ ((if_neg hs).trans (if_neg hs).symm),
    congrArg _ ((if_neg hs).trans (if_neg hs).symm), congrArg _ ((if_neg hs).trans (if_neg hs).symm)⟩

end Packets

/-! The start of a frame (R267, R275, R281). -/

theorem streamOn_lt {s : State} {port vc i : Nat} (hon : s.streamOn port vc = some i) : i < 16 :=
  List.mem_range.mp (List.mem_of_find?_eq_some hon)

theorem bufShut_of_blocks {s t : State} (hcores : t.cores = s.cores) (hsch : t.sch = s.sch) (a : Nat) :
    t.bufShut a = s.bufShut a := by
  cases s
  cases t
  subst hcores hsch
  rfl

/-- The frame that a start opens while injection is not armed (R267, R275). -/
def State.openedFrame (s : State) (i : Nat) : Frame :=
  { seq := (s.stream i).nextSeq, order := s.itk.starts, startLink := s.tb.link, startTs := s.tsNow
    captureTs := (s.tsNow + 2 ^ 64 - ((s.stream i).cfg.getD {}).latency) % 2 ^ 64, budget := (s.stream i).budget
    strict := s.strictOrder }

theorem startFrame_opens {s : State} {i : Nat} {x : StreamCfg} (hinj : Uninjected s)
    (hcfg : (s.stream i).cfg = some x) (hopen : (x.bufs.take x.nbuf).any s.bufShut = false) :
    s.startFrame i = (s.bump.bump.onItk fun k => { k with starts := k.starts + 1 }).onStream i fun y => { y with
      nextSeq := (y.nextSeq + 1) % 2 ^ 32, frames := y.frames ++ [s.openedFrame i] } := by
  have hnone : s.bump.inject 5 i 0 = (none, s.bump.bump) := inject_uninjected (s := s.bump) hinj 5 i 0
  have hshut (t : State) (hcores : t.cores = s.cores) (hsch : t.sch = s.sch) :
      (x.bufs.take x.nbuf).any t.bufShut = false := by
    rwa [funext (bufShut_of_blocks hcores hsch)]
  unfold State.startFrame
  simp only [hnone, hcfg]
  refine (if_neg (by simp)).trans ((if_neg ?_).trans ?_)
  · exact Bool.eq_false_iff.mp (hshut _ rfl rfl)
  · rw [State.openedFrame, hcfg]
    rfl

theorem exec_csiFrameStart_opens {s : State} {port vc i : Nat} {x : StreamCfg} (hshape : Shaped s)
    (hinj : Uninjected s) (hlive : s.replaying = false) (hon : s.streamOn port vc = some i)
    (hcfg : (s.stream i).cfg = some x) (hcur : (s.stream i).current = none)
    (hopen : (x.bufs.take x.nbuf).any s.bufShut = false) :
    ∃ t : State, exec (.csiFrameStart port vc .ok) s = .next t ∧
      (t.stream i).frames = (s.stream i).frames ++ [s.openedFrame i] ∧
      (t.stream i).nextSeq = ((s.stream i).nextSeq + 1) % 2 ^ 32 ∧ t.mem = s.mem ∧ t.hl = s.hl := by
  obtain ⟨-, -, -, -, -, -, -, ⟨-, hstreams, -⟩, -⟩ := hshape
  have hi : i < s.itk.streams.length := hstreams ▸ streamOn_lt hon
  refine ⟨_, (exec_csiFrameStart_idle hlive hon hcur).trans
    (congrArg _ (startFrame_opens hinj hcfg hopen)), ?_, ?_, rfl, rfl⟩
  · rw [State.stream_onStream _ _ (by exact hi)]
    rfl
  · rw [State.stream_onStream _ _ (by exact hi)]
    rfl

/-! Pipes (R269, R498, R499). -/

/-- The first frame in the order of starts has the lowest number of all (R269). -/
theorem earliest_of_head {l : List (Nat × Frame)} : ∀ {v : Nat × Frame}, (sortBy earlier l).head? = some v →
    ∀ g ∈ l, v.2.order ≤ g.2.order := by
  induction l with
  | nil => simp
  | cons a l ih =>
    intro v h
    change (insertBy earlier a (sortBy earlier l)).head? = some v at h
    cases hl : sortBy earlier l with
    | nil =>
      obtain rfl : l = [] := by
        rw [sortBy_eq] at hl
        exact List.nil_perm.mp (hl ▸ List.perm_insertionSort _ l)
      obtain rfl : a = v := by simpa [sortBy, insertBy] using h
      simp
    | cons b r =>
      have hb := ih (v := b) (by rw [hl]; rfl)
      rw [hl, insertBy] at h
      by_cases hab : earlier a b = true
      · obtain rfl : a = v := by simpa [hab] using h
        have hlt : a.2.order < b.2.order := by simpa [earlier] using hab
        simpa using fun i f hg => Nat.le_trans (Nat.le_of_lt hlt) (hb (i, f) hg)
      · obtain rfl : b = v := by simpa [hab] using h
        have hle : b.2.order ≤ a.2.order := by simpa [earlier] using hab
        simpa using And.intro hle fun i f hg => hb (i, f) hg

theorem exec_pipeAssign_takes {s : State} {u i : Nat} {f : Frame}
    (hu : (s.itk.pipes.findIdx? fun p => p.inService && p.frame.isNone) = some u)
    (hf : (sortBy earlier s.waitingFrames).head? = some (i, f)) :
    exec .pipeAssign s = .next ((s.onPipe u fun p => { p with frame := some (i, f.seq) }).onFrame i f.seq fun y =>
      { y with pipe := some u }) := by
  show execPipeAssign s = _
  rw [execPipeAssign, hu, hf]

theorem exec_pipeAssign_idle {s : State}
    (h : (s.itk.pipes.findIdx? fun p => p.inService && p.frame.isNone) = none ∨ s.waitingFrames = []) :
    exec .pipeAssign s = .next s := by
  show execPipeAssign s = _
  rw [execPipeAssign]
  rcases h with hu | hf
  · rw [hu]
  · rw [hf]
    cases s.itk.pipes.findIdx? fun p => p.inService && p.frame.isNone <;> rfl

theorem exec_pipeCheckFrameDone_ok (s : State) (u : Nat) : exec (.pipeCheckFrameDone u true) s = .next s := by
  show execPipeCheckFrameDone u true s = _
  simp [execPipeCheckFrameDone]

/-- A check frame that fails counts against an idle pipe in service while no frame waits. -/
theorem exec_pipeCheckFrameDone_failed (s : State) (u : Nat) : exec (.pipeCheckFrameDone u false) s = .next (
    if (s.itk.pipes.getD u {}).retired = true ∨ (s.itk.pipes.getD u {}).frame ≠ none ∨ s.waitingFrames ≠ [] then s
    else s.errEvent (pipeEntry u)) := by
  show execPipeCheckFrameDone u false s = _
  simp [execPipeCheckFrameDone, or_assoc, Option.isSome_iff_ne_none]

/-! Samples (R270, R273, R276, R277). -/

/-- The tensor of a frame, as its stream and its profile have it (R270). -/
def Frame.tensor (f : Frame) (x : StreamCfg) (p : Profile) (nan : Nat) : List Byte :=
  Image.tensor { kind := x.kind, w := x.width, h := x.height, line := x.lineBytes, payload := f.payload } p nan

/-- The tensor of a frame has been written into its buffer, and the frame names its check (R270, R272). -/
def State.storeTensor (s : State) (i q a : Nat) (t : List Byte) : State :=
  ((s.write a t).carryWrite .realTime 0 0xFE a t).onFrame i q fun y =>
    { y with crc := crc32c t, tensorBytes := t.length, payload := [] }

theorem hl_of_offRing {s t : State} (h : t.offRing = s.offRing) : t.hl = s.hl :=
  show t.offRing.hl = s.offRing.hl by rw [h]
theorem itk_of_offRing {s t : State} (h : t.offRing = s.offRing) : t.itk = s.itk :=
  show t.offRing.itk = s.offRing.itk by rw [h]

theorem storeTensor_leaves (s : State) (i q a : Nat) (t : List Byte) :
    (s.storeTensor i q a t).mem.cells = cellsPut s.mem.cells a t ∧ (s.storeTensor i q a t).hl = s.hl ∧
      (s.storeTensor i q a t).asz = s.asz := by
  have hring := (s.write a t).carryWrite_offRing .realTime 0 0xFE a t
  exact ⟨congrArg Memory.cells (mem_of_offRing hring), (hl_of_offRing hring :), (asz_of_offRing hring :)⟩

section Samples

variable {s : State} {i q : Nat} {f : Frame}

theorem exec_sampleResolved_none (h : ((s.stream i).frames.find? fun f => f.seq = q) = none) (ok : Bool) :
    exec (.sampleResolved i q ok) s = .next s := by
  show execSampleResolved i q ok s = _
  rw [execSampleResolved, h]

theorem exec_decodeBudgetExpiry_none (h : ((s.stream i).frames.find? fun f => f.seq = q) = none) :
    exec (.decodeBudgetExpiry i q) s = .next s := by
  show execDecodeBudgetExpiry i q s = _
  rw [execDecodeBudgetExpiry, h]

variable (hf : ((s.stream i).frames.find? fun f => f.seq = q) = some f)

include hf

theorem seq_of_find : f.seq = q := by simpa using List.find?_some hf

theorem exec_decodeBudgetExpiry_some : exec (.decodeBudgetExpiry i q) s = .next (
    if f.resolved ≠ none ∨ s.tb.link < f.budgetEnd then s else s.resolve i q 6 (linkTs f.budgetEnd)) := by
  show execDecodeBudgetExpiry i q s = _
  rw [execDecodeBudgetExpiry, hf]
  simp [State.voidLate, seq_of_find hf, Option.isSome_iff_ne_none]

theorem exec_sampleResolved_early (h : f.resolved ≠ none ∨ f.ended = false ∨ f.pipe = none ∨ s.frameHeld i f = true)
    (ok : Bool) : exec (.sampleResolved i q ok) s = .next s := by
  show execSampleResolved i q ok s = _
  rw [execSampleResolved, hf]
  refine congrArg _ (if_pos ?_)
  simpa [or_assoc, Option.isSome_iff_ne_none] using h

section Due

variable (hres : f.resolved = none) (hended : f.ended = true) (hpipe : f.pipe ≠ none)
  (hheld : s.frameHeld i f = false)

include hres hended hpipe hheld

/-- A sample that is due is late, refused, or written and resolved (R273, R277). -/
theorem exec_sampleResolved_due {x : StreamCfg} {p : Profile} {a : Nat} (hx : (s.stream i).cfg.getD {} = x)
    (hp : (s.itk.profiles.getD x.profile none).getD {} = p) (ha : x.bufs.getD (f.buffer.getD 0) 0 = a) (ok : Bool) :
    exec (.sampleResolved i q ok) s = .next (
      let u := s.storeTensor i q a (f.tensor x p (nanPattern s.free 0))
      if f.budgetEnd ≤ s.tb.link then s.resolve i q 6 (linkTs f.budgetEnd)
      else if !ok || s.tensorRefused a p.tensorBytes then s.void i q 5
      else (u.resolve i q 0 (max u.tsNow f.startTs)).bump) := by
  have hdue : ¬(f.resolved.isSome || !f.ended || f.pipe.isNone || s.frameHeld i f) = true := by
    simp [hres, hended, hheld, hpipe]
  subst hx hp ha
  show execSampleResolved i q ok s = _
  rw [execSampleResolved, hf]
  refine congrArg _ ((if_neg hdue).trans ?_)
  rw [State.voidLate, seq_of_find hf]
  rfl

end Due

end Samples

/-! Ports (R260). -/

theorem exec_csiPortLinkUp (s : State) (port n : Nat) : exec (.csiPortLinkUp port n) s = .next (
    if n = 1 ∨ n = 2 ∨ n = 4 then s.onPort port fun p => { p with linkUp := true, lanes := n } else s) := by
  show execCsiPortLinkUp port n s = _
  simp [execCsiPortLinkUp, or_assoc]

/-! The instant of a step through a transfer on the ring (R14, R15, log 2). -/

/-- The free draws taken, and the instant of the latest capture. -/
def State.draws (s : State) : Nat × Nat := (s.free, s.instant)

@[simp] theorem pumpN_draws (g : Nat) (dir : RingDir) (k : Nat) :
    ∀ s : State, (State.pumpN g dir k s).draws = s.draws := by
  have hcount (s : State) : (s.countVc0 g dir).draws = s.draws := by
    unfold State.countVc0
    dsimp only
    split <;> rfl
  induction k with
  | zero => intro s; rfl
  | succ k ih =>
    intro s
    unfold State.pumpN
    split
    · rfl
    · dsimp only
      split
      · split
        · exact (ih _).trans (hcount s)
        · exact hcount s
      · refine (ih _).trans ?_
        split <;> exact hcount s

/-- What waits at a segment goes out after one free draw; where nothing waits none is taken. -/
theorem State.pump_draws (s : State) (g : Nat) (dir : RingDir) :
    (s.pump g dir).draws = if ((s.segDir g dir).sendQ.map List.length).sum = 0 then s.draws else s.bump.draws := by
  unfold State.pump
  dsimp only
  split
  · rfl
  · exact pumpN_draws g dir _ _

theorem instantNow_of_draws {s t : State} (htb : t.tb = s.tb) (h : t.draws = s.draws) :
    t.instantNow = s.instantNow := by
  obtain ⟨hfree, hinst⟩ := Prod.mk.inj h
  simp only [State.instantNow, State.linkCycles, htb, hfree, hinst]

theorem tb_of_offRing {s t : State} (h : t.offRing = s.offRing) : t.tb = s.tb :=
  show t.offRing.tb = s.offRing.tb by rw [h]

section Still

variable (hstill : ∀ n, Config.freeCycle (n + 1) = 0)

include hstill

/-- Where every draw after the first gives 0, the instant stays. -/
theorem instantNow_bump (s : State) : s.bump.instantNow = s.instantNow := by
  show s.instantNow + Config.freeCycle (s.free + 1) % _ = _
  rw [hstill, Nat.zero_mod, Nat.add_zero]

theorem instantNow_pump (s : State) (g : Nat) (dir : RingDir) : (s.pump g dir).instantNow = s.instantNow := by
  have hdraws := s.pump_draws g dir
  have htb := tb_of_offRing (s.pump_offRing g dir)
  split at hdraws
  · exact instantNow_of_draws htb hdraws
  · exact (instantNow_of_draws (s := s.bump) htb hdraws).trans (instantNow_bump hstill s)

theorem instantNow_launch (s : State) (src dst vc kind : Nat) (p : RingPacket) :
    (s.launch src dst vc kind p).instantNow = s.instantNow := by
  unfold State.launch
  split
  · rfl
  · exact (instantNow_pump hstill _ _ _).trans rfl

theorem instantNow_carryWrite (s : State) (o : Origin) (die req a : Nat) (data : List Byte) :
    (s.carryWrite o die req a data).instantNow = s.instantNow := by
  unfold State.carryWrite
  split
  · rfl
  · exact foldl_keeps State.instantNow
      (fun u p => (instantNow_launch hstill _ _ _ _ _ _).trans (instantNow_launch hstill u _ _ _ _ _)) _ s

/-- The tensor's way over the ring does not move the time stamp. -/
theorem tsNow_storeTensor (s : State) (i q a : Nat) (t : List Byte) : (s.storeTensor i q a t).tsNow = s.tsNow := by
  have htb := tb_of_offRing ((s.write a t).carryWrite_offRing .realTime 0 0xFE a t)
  have hinst := instantNow_carryWrite hstill (s.write a t) .realTime 0 0xFE a t
  show State.tsNow (State.carryWrite _ _ _ _ _ _) = _
  rw [State.tsNow, hinst]
  simp only [State.tsAt, State.linkCycles, htb]
  rfl

end Still

/-! What the resolution of a frame leaves in its stream (R272 to R276). -/

theorem frames_onStream (s : State) (i : Nat) {g : Stream → Stream} (hg : (g {}).frames = []) :
    ((s.onStream i g).stream i).frames = (g (s.stream i)).frames := by
  by_cases hi : i < s.itk.streams.length
  · rw [s.stream_onStream g hi]
  · have hread : s.stream i = {} := by simp [State.stream, List.getD_eq_getElem?_getD, hi]
    rw [hread, hg]
    simp [State.stream, List.getD_eq_getElem?_getD, hi]

theorem frames_onFrame (s : State) (i q : Nat) (g : Frame → Frame) :
    ((s.onFrame i q g).stream i).frames = (s.stream i).frames.map fun y => if y.seq = q then g y else y :=
  frames_onStream s i rfl

theorem stream_of_streams {s t : State} (h : t.itk.streams = s.itk.streams) (i : Nat) : t.stream i = s.stream i :=
  congrArg (fun l : List Stream => l.getD i {}) h

@[simp] theorem State.retire_itk (s : State) (r : WearEntry) : (s.retire r).itk = s.itk := by
  unfold State.retire
  dsimp only
  split
  · rfl
  · simp

@[simp] theorem State.setDegraded_itk (s : State) : s.setDegraded.itk = s.itk := by
  unfold State.setDegraded
  dsimp only
  split <;> rfl

theorem retirePipe_streams (s : State) (u : Nat) : (s.retirePipe u).itk.streams = s.itk.streams := by
  unfold State.retirePipe
  dsimp only
  split
  · rfl
  · split
    · simp
    · split <;> simp

theorem leavePipe_streams (s : State) (i q : Nat) : (s.leavePipe i q).itk.streams = s.itk.streams := by
  unfold State.leavePipe
  split
  · rfl
  · exact (retirePipe_streams _ _).trans rfl

@[simp] theorem State.kick_itk (s : State) (w : Nat) : (s.kick w).itk = s.itk := by
  unfold State.kick
  split
  · rfl
  · split <;> simp [apply_ite State.itk]

@[simp] theorem State.recordIntake_itk (s : State) (i : Nat) (f : Frame) (p : Profile) :
    (s.recordIntake i f p).itk = s.itk := by
  unfold State.recordIntake
  dsimp only
  split <;> rfl

@[simp] theorem State.putBoard_itk (s : State) (st seq : Nat) (entry : List Byte) :
    (s.putBoard st seq entry).itk = s.itk := rfl

/-- A publication marks the frame and leaves the others (R276, R278). -/
theorem frames_publish (s : State) (i : Nat) (f : Frame) : ((s.publish i f).stream i).frames =
    (s.stream i).frames.map fun y => if y.seq = f.seq then { y with published := true } else y := by
  unfold State.publish
  extract_lets x p ok entry s1 s2 s3
  have hkick : (if ok then s3.kick (16 + i) else s3).itk = s3.itk := by
    split
    · exact State.kick_itk s3 _
    · rfl
  have hrecord : s3.itk = (s2.onFrame i f.seq fun y => { y with published := true }).itk := State.recordIntake_itk ..
  have hframes : (s2.stream i).frames = (s1.stream i).frames := frames_onStream s1 i rfl
  have hboard : s1.itk = s.itk := (State.bump_itk _).trans (State.putBoard_itk s i f.seq entry)
  rw [stream_of_streams (congrArg Itk.streams (hkick.trans hrecord)), frames_onFrame, hframes,
    stream_of_streams (congrArg Itk.streams hboard)]

/-- What a publication leaves and what no dropping takes away holds of the frames that remain. -/
theorem publishReady_frames {P : Frame → Prop} (hP : ∀ y, P y → P { y with published := true }) (i : Nat) :
    ∀ (k : Nat) (s : State), (∀ y ∈ (s.stream i).frames, P y) →
      ∀ y ∈ ((State.publishReady i k s).stream i).frames, P y := by
  have hdrop (s : State) (h : ∀ y ∈ (s.stream i).frames, P y) :
      ∀ y ∈ ((s.onStream i dropDone).stream i).frames, P y := by
    intro y hy
    rw [frames_onStream s i rfl] at hy
    exact h y (List.mem_of_mem_filter hy)
  intro k
  induction k with
  | zero => exact hdrop
  | succ k ih =>
    intro s h
    unfold State.publishReady
    split
    · exact hdrop s h
    · refine ih _ fun y hy => ?_
      rw [frames_publish] at hy
      obtain ⟨z, hz, rfl⟩ := List.mem_map.mp hy
      split
      · exact hP z (h z hz)
      · exact h z hz

/-- A resolution enters the cause and the time from the frame's start, and then publishes what may be (R272, R276). -/
theorem resolve_publishes (s : State) (i q cause ts : Nat) : ∃ v : State, s.resolve i q cause ts = v.publishAll i ∧
    (v.stream i).frames = (s.stream i).frames.map fun y =>
      if y.seq = q then { y with resolved := some cause, took := ts - y.startTs } else y := by
  refine ⟨_, rfl, ?_⟩
  refine (frames_onStream _ i (by split <;> rfl)).trans ((by split <;> rfl : _ = (State.stream _ i).frames).trans ?_)
  rw [stream_of_streams (leavePipe_streams _ i q), frames_onFrame]

/-- The time that a resolved frame took runs from its start to the instant of its resolution (R276). -/
theorem took_of_resolve (s : State) (i q cause ts : Nat) :
    ∀ y ∈ ((s.resolve i q cause ts).stream i).frames, y.seq = q → y.took = ts - y.startTs := by
  obtain ⟨v, hv, hframes⟩ := resolve_publishes s i q cause ts
  rw [hv]
  refine publishReady_frames (P := fun y => y.seq = q → y.took = ts - y.startTs) (fun y hy => hy) i _ v fun y hy => ?_
  rw [hframes] at hy
  obtain ⟨z, -, rfl⟩ := List.mem_map.mp hy
  split
  · exact fun _ => rfl
  · next hz => exact fun hseq => absurd hseq hz

/-! A transfer that leaves its die takes a free draw, and the instant does not go back (R15). -/

theorem le_instantNow_bump (s : State) : s.instantNow ≤ s.bump.instantNow := Nat.le_add_right ..

theorem le_instantNow_launch (s : State) (src dst vc kind : Nat) (p : RingPacket) :
    s.instantNow ≤ (s.launch src dst vc kind p).instantNow := by
  unfold State.launch
  split
  · exact le_rfl
  · unfold State.queueFlits
    generalize hu : s.onSegDir _ _ _ = u
    have hs : s.instantNow = u.instantNow := by rw [← hu]; rfl
    have hdraws := u.pump_draws (segmentFrom src (routeDir src dst)) (routeDir src dst)
    have htb := tb_of_offRing (u.pump_offRing (segmentFrom src (routeDir src dst)) (routeDir src dst))
    split at hdraws
    · exact (hs.trans (instantNow_of_draws htb hdraws).symm).le
    · exact (hs.le.trans (le_instantNow_bump u)).trans (instantNow_of_draws (s := u.bump) htb hdraws).ge

theorem le_instantNow_foldl {α : Type} {f : State → α → State}
    (hf : ∀ u i, u.instantNow ≤ (f u i).instantNow) (l : List α) : ∀ s : State, s.instantNow ≤ (l.foldl f s).instantNow := by
  induction l with
  | nil => exact fun s => le_rfl
  | cons i l ih => exact fun s => (hf s i).trans (ih _)

/-- A packet on a segment direction on which nothing waits takes one free draw. -/
theorem launch_instantNow {s : State} {src dst v : Nat} (hne : src ≠ dst) (hv : v < 4)
    (hg : segmentFrom src (routeDir src dst) < s.ring.segs.length)
    (hfresh : s.segDir (segmentFrom src (routeDir src dst)) (routeDir src dst) = {}) (kind : Nat) (p : RingPacket) :
    (s.launch src dst v kind p).instantNow = s.bump.instantNow := by
  refine instantNow_of_draws (s := s.bump) (tb_of_offRing (s.launch_offRing ..)) ?_
  unfold State.launch
  rw [if_neg hne]
  unfold State.queueFlits
  rw [State.pump_draws, State.segDir_onSegDir_same _ _ hg, hfresh, if_neg]
  · rfl
  · interval_cases v <;> simp [packetFlits]

/-- A write to another die takes at least one free draw, unless it is of no byte. -/
theorem carryWrite_moves {s : State} {o : Origin} {die a : Nat} {data : List Byte} (hdata : data ≠ [])
    (hne : die ≠ servingDie a) (hg : segmentFrom die (routeDir die (servingDie a)) < s.ring.segs.length)
    (hfresh : s.segDir (segmentFrom die (routeDir die (servingDie a))) (routeDir die (servingDie a)) = {}) (req : Nat) :
    s.bump.instantNow ≤ (s.carryWrite o die req a data).instantNow := by
  have hchan : o.channel < 4 := by cases o <;> decide
  obtain ⟨r, hpieces⟩ : ∃ r, ringPieces data.length = (0, min 256 data.length) :: r := by
    have hlen : 0 < data.length := List.length_pos_of_ne_nil hdata
    obtain ⟨m, hm⟩ : ∃ m, ceilDiv data.length 256 = m + 1 := ⟨ceilDiv data.length 256 - 1, by unfold ceilDiv; omega⟩
    exact ⟨_, by rw [ringPieces, hm, List.range_succ_eq_map, List.map_cons]; rfl⟩
  unfold State.carryWrite
  rw [if_neg (Ne.symm hne), hpieces, List.foldl_cons]
  refine Nat.le_trans ?_ (le_instantNow_foldl
    (fun u p => (le_instantNow_launch u ..).trans (le_instantNow_launch _ ..)) r _)
  rw [← launch_instantNow hne hchan hg hfresh 5
    { kind := 5, desc := { dpa := a + 0, length := min 256 data.length, requester := req }
      data := (data.drop 0).take (min 256 data.length) }]
  exact le_instantNow_launch ..

/-! A sample whose tensor crosses the ring before it is resolved. Stream 0 writes to the scratchpad of core 0, on which
a job of a PER partition stands; the frame before this one is not resolved, so the sample waits for it (R273). -/

/-- The sample that is due: its lines are in, and it stands on pipe 0. -/
def dueFrame : Frame :=
  { seq := 1, order := 1, budget := 1, lines := 8, bytes := 128, firstWc := 16, ended := true, buffer := some 0
    pipe := some 0, payload := List.replicate 128 0 }

/-- One pixel of one channel as the whole tensor (R270). -/
def pixelProfile : Profile := { rw := 2, rh := 1, cw := 1, ch := 1 }

/-- A RAW8 stream of 16 by 8 pixels into the scratchpad of core 0. -/
def spadStream : StreamCfg :=
  { dt := 0x2A, width := 16, height := 8, maxBytes := 128, period := 1000, bufs := [spadOf 0, spadOf 0 + 64] }

/-- Link 0 with the given cycles, free draw and instant of the latest capture, and the sample due in it. -/
def sampleDue (free instant cycles : Nat) : State :=
  { State.reset with
    free := free
    instant := instant
    tb := { cycles := cycles }
    dev := { mode := .run, inReset := false, fwReady := true }
    cores := { phys := { job := some {} } :: List.replicate 71 {} }
    sch := { classes := 0 :: 1 :: List.replicate 14 7, jobs := [{ partition := 1 }] }
    itk := {
      profiles := some pixelProfile :: List.replicate 15 none
      pipes := [{ frame := some (0, 1) }, {}, {}, {}, { inService := false }]
      streams := { cfg := some spadStream, running := true, nextSeq := 2, frames := [{}, dueFrame] } ::
        List.replicate 15 {} } }

theorem length_tensor (m : Image) (p : Profile) (nan : Nat) : (m.tensor p nan).length = p.tensorBytes := by
  simp [Image.tensor, List.length_flatMap, length_leBytes, Profile.tensorBytes]
  ring

section Due

variable (n a k : Nat)

theorem sampleDue_find : (((sampleDue n a k).stream 0).frames.find? fun f => f.seq = 1) = some dueFrame := rfl
theorem sampleDue_frameHeld : (sampleDue n a k).frameHeld 0 dueFrame = false := rfl
theorem sampleDue_tensorRefused :
    (sampleDue n a k).tensorRefused (spadOf 0) pixelProfile.tensorBytes = false := rfl

end Due

/-- In link 0 of 65,536 k time-base cycles the time stamp counts units of k cycles. -/
theorem tsAt_wide {s : State} {k : Nat} (hlink : s.tb.link = 0) (hcycles : s.tb.cycles = 4096 * k) (c : Nat) :
    s.tsAt c = min c (65536 * k - 1) / k := by
  have hlen : s.linkCycles = k * 65536 := by rw [State.linkCycles, hcycles]; omega
  rw [State.tsAt, hlink, hlen, Nat.mul_div_mul_right _ _ (by decide), Nat.mul_comm k]
  simp [linkTs]

theorem exec_sampleDue (n a k : Nat) :
    let u := (sampleDue n a k).storeTensor 0 1 (spadOf 0) (dueFrame.tensor spadStream pixelProfile (nanPattern n 0))
    exec (.sampleResolved 0 1 true) (sampleDue n a k) = .next ((u.resolve 0 1 0 (max u.tsNow 0)).bump) := by
  refine (exec_sampleResolved_due (x := spadStream) (p := pixelProfile) (a := spadOf 0) (sampleDue_find n a k) rfl rfl
    (by decide) (sampleDue_frameHeld n a k) rfl rfl rfl true).trans
    (congrArg _ ((if_neg (by decide : ¬1 ≤ 0)).trans (if_neg ?_)))
  rw [sampleDue_tensorRefused n a k]
  decide

/-- The sample as its resolution leaves it. -/
def resolvedFrame (d : List Byte) (ts : Nat) : Frame :=
  { dueFrame with crc := crc32c d, tensorBytes := d.length, payload := [], resolved := some 0, took := ts }

/-- While the frame before it is not resolved the sample is not published, so it stays in its stream (R273). -/
theorem sampleDue_waits (n a k ts : Nat) (d : List Byte) : resolvedFrame d ts ∈
    ((((sampleDue n a k).storeTensor 0 1 (spadOf 0) d).resolve 0 1 0 ts).stream 0).frames := by
  obtain ⟨v, hv, hframes⟩ := resolve_publishes ((sampleDue n a k).storeTensor 0 1 (spadOf 0) d) 0 1 0 ts
  rw [State.storeTensor, frames_onFrame,
    stream_of_streams (congrArg Itk.streams (itk_of_offRing (State.carryWrite_offRing ..)))] at hframes
  replace hframes : (v.stream 0).frames = [{}, resolvedFrame d ts] := hframes
  have hnone : (v.stream 0).frames.find? (publishable (v.stream 0).frames) = none := by
    rw [hframes]
    rfl
  have hlen : (v.stream 0).frames.length = 2 := by rw [hframes]; rfl
  rw [hv, State.publishAll, hlen, State.publishReady, hnone]
  rw [frames_onStream v 0 rfl, dropDone, hframes]
  exact List.mem_cons_of_mem _ (List.mem_cons_self ..)

/-- The sample due in the last cycle before the time stamp counts on, with the given draw as the next. -/
def sampleOnEdge (n : Nat) : State :=
  sampleDue n (Config.freeCycle (n + 1)) (4096 * (Config.freeCycle n + Config.freeCycle (n + 1) + 1))

theorem sampleOnEdge_instantNow (n : Nat) :
    (sampleOnEdge n).instantNow = Config.freeCycle (n + 1) + Config.freeCycle n := by
  show Config.freeCycle (n + 1) + Config.freeCycle n % max 1 (4096 * _ * 16 - Config.freeCycle (n + 1)) = _
  rw [Nat.mod_eq_of_lt (by omega)]

theorem sampleOnEdge_tsNow (n : Nat) : (sampleOnEdge n).tsNow = 0 := by
  rw [State.tsNow, tsAt_wide rfl rfl, sampleOnEdge_instantNow]
  exact Nat.div_eq_of_lt (by omega)

/-- A draw that is not 0 brings the transfer, and the resolution after it, into the next unit of the time stamp. -/
theorem sampleOnEdge_moves {n : Nat} (h : Config.freeCycle (n + 1) ≠ 0) {d : List Byte} (hd : d ≠ []) :
    0 < ((sampleOnEdge n).storeTensor 0 1 (spadOf 0) d).tsNow := by
  have hnow := sampleOnEdge_instantNow n
  have hnext : (sampleOnEdge n).bump.instantNow =
      (sampleOnEdge n).instantNow + Config.freeCycle (n + 1) := by
    show (sampleOnEdge n).instantNow +
      Config.freeCycle (n + 1) % max 1 (4096 * _ * 16 - (sampleOnEdge n).instantNow) = _
    rw [hnow, Nat.mod_eq_of_lt (by omega)]
  have hmoved : (sampleOnEdge n).bump.instantNow ≤
      (((sampleOnEdge n).write (spadOf 0) d).carryWrite .realTime 0 0xFE (spadOf 0) d).instantNow :=
    carryWrite_moves (s := (sampleOnEdge n).write (spadOf 0) d) (die := 0) (a := spadOf 0) hd (by decide)
      (Nat.succ_pos 4) rfl 0xFE
  have htb := tb_of_offRing (((sampleOnEdge n).write (spadOf 0) d).carryWrite_offRing .realTime 0 0xFE (spadOf 0) d)
  show 0 < State.tsNow (State.carryWrite _ _ _ _ _ _)
  rw [State.tsNow, tsAt_wide (by rw [htb]; rfl) (by rw [htb]; rfl)]
  exact Nat.div_pos (by omega) (by omega)

/-- A draw that moves the instant refutes the clause of the written sample: the model takes the time of the resolution
behind the tensor's way over the ring, and the statement before it. -/
theorem not_intakeTakesFramesToSamples_of_draw {n : Nat} (h : Config.freeCycle (n + 1) ≠ 0) :
    ¬ Obligations.IntakeTakesFramesToSamples := by
  rintro ⟨-, -, -, -, -, -, -, -, -, -, -, -, -, -, -, -, -, -, hsample, -⟩
  let d := dueFrame.tensor spadStream pixelProfile (nanPattern n 0)
  let t := (sampleOnEdge n).storeTensor 0 1 (spadOf 0) d
  have hd : d ≠ [] := List.ne_nil_of_length_pos (by rw [show d.length = _ from length_tensor ..]; decide)
  obtain ⟨u, hexec, -⟩ := (hsample (sampleOnEdge n) 0 1 dueFrame (sampleDue_find ..) rfl rfl (by decide)
    (sampleDue_frameHeld ..)).1 Nat.zero_lt_one (sampleDue_tensorRefused ..)
  have hstates : (t.resolve 0 1 0 (max t.tsNow 0)).bump =
      (u.resolve 0 1 0 (max (sampleOnEdge n).tsNow 0)).bump :=
    Host.Outcome.next.inj ((exec_sampleDue n _ _).symm.trans hexec)
  have hkept : resolvedFrame d (max t.tsNow 0) ∈ ((t.resolve 0 1 0 (max t.tsNow 0)).bump.stream 0).frames :=
    sampleDue_waits ..
  rw [hstates, sampleOnEdge_tsNow] at hkept
  have htook : max t.tsNow 0 = 0 := took_of_resolve u 0 1 0 _ _ hkept rfl
  have hmoved : 0 < t.tsNow := sampleOnEdge_moves h hd
  omega

/-- The statement of the intake holds where no draw after the first moves the instant. -/
theorem intakeTakesFramesToSamples_of_still (hstill : ∀ n, Config.freeCycle (n + 1) = 0) :
    Obligations.IntakeTakesFramesToSamples := by
  refine ⟨fun c s h hrun hmode hlimit hbad => ?_, fun c s h => ⟨fun hrun => ?_, fun hrun hmode => ?_,
      fun hrun hmode hlimit => ?_, fun hrun hmode hlimit hbad => ?_⟩,
    fun c s h => ⟨fun hbusy => ?_, fun hbusy hlimit => ?_, fun hbusy hlimit hbad => ?_⟩,
    fun c s h hbusy hlimit hbad => ?_, fun c s x p h hshape hrun hcfg => exec_itkStreamStart_starts hrun hcfg h hshape,
    fun c s h => ⟨exec_itkStreamStart_busy h, fun hrun hwhy => ?_, fun x p hrun hcfg hp hsuits hroom => ?_⟩,
    fun c s h hshape hrun => ?_, fun c s h hrun => exec_itkStreamStop_idle h hrun,
    fun s port vc dt d ok e => ⟨fun hreplay => exec_packets_replaying hreplay e ok,
      fun hlive => exec_packets_uncorrectable hlive ok, fun hlive => exec_packets_corrected hlive ok,
      fun hlive hon => ⟨exec_csiFrameStart_none hlive hon, exec_csiFrameEnd_none hlive hon,
        fun hdt => exec_csiLongPacket_none hlive hdt hon⟩⟩,
    fun s port vc i x hshape hinj hlive hon hcfg hcur hopen => ?_,
    fun s port vc i hlive hon => ⟨exec_csiFrameStart_idle hlive hon, fun f => exec_csiFrameStart_open hlive hon⟩,
    fun s port vc dt i d x f hlive hdt hon hcfg hcur hflip hres hlines hpipe hroom hwc hmax => ?_,
    fun s port vc dt d hlive => ⟨exec_csiLongPacket_discarded hlive, exec_csiLongPacket_bad hlive,
      fun i hdt => exec_csiLongPacket_idle hlive hdt, fun i f hdt hon hcur hflip =>
        ⟨exec_csiLongPacket_resolved hlive hdt hon hcur hflip, exec_csiLongPacket_line hlive hdt hon hcur hflip,
          exec_csiLongPacket_firstBad hlive hdt hon hcur hflip⟩, fun hdt hon => ?_⟩,
    fun s port vc i f hlive hon hcur hlines => ?_,
    fun s port vc i hlive hon => ⟨exec_csiFrameEnd_idle hlive hon, fun f hcur hlines => ?_⟩,
    fun s port vc dt hlive => ⟨fun hdt => ?_, fun hdt => ?_⟩,
    fun s u i f hu hf => ⟨exec_pipeAssign_takes hu hf, earliest_of_head hf⟩, fun s => exec_pipeAssign_idle,
    fun s i q f hf hres hended hpipe hheld => ?_, fun s i q hnone =>
      ⟨exec_decodeBudgetExpiry_none hnone, exec_sampleResolved_none hnone⟩,
    fun s i q f hf => ⟨fun hres => ?_, exec_sampleResolved_early hf⟩,
    fun s i q f hf hres => ⟨fun hearly => ?_, fun hlate => ?_⟩,
    fun s u => ⟨exec_pipeCheckFrameDone_ok s u, fun hretired hframe hwait => ?_, fun hwhy => ?_⟩,
    fun s port n => ⟨rfl, fun hn => ?_, fun h1 h2 h4 => ?_⟩⟩
  · simp [exec_itkStreamConfig h, hrun, hmode, hlimit, hbad]
  · simp [exec_itkStreamConfig h, hrun]
  · simp [exec_itkStreamConfig h, hrun, hmode]
  · simp [exec_itkStreamConfig h, hrun, hmode, hlimit]
  · simp [exec_itkStreamConfig h, hrun, hmode, hlimit, hbad]
  · simp [exec_itkPipeConfig h, hbusy]
  · simp [exec_itkPipeConfig h, hbusy, hlimit]
  · simp [exec_itkPipeConfig h, hbusy, hlimit, hbad]
  · simp [exec_itkPipeConfig h, hbusy, hlimit, hbad]
  · rcases hwhy with hcfg | ⟨x, hcfg, hp | ⟨p, hp, hsuits⟩⟩
    · exact exec_itkStreamStart_unconfigured h hrun hcfg
    · exact exec_itkStreamStart_noProfile hrun hcfg h hp
    · exact (exec_itkStreamStart_profile hrun hcfg h hp).trans (congrArg _ (if_pos hsuits))
  · exact (exec_itkStreamStart_profile hrun hcfg h hp).trans
      (congrArg _ ((if_neg (by simp [hsuits])).trans (if_pos hroom)))
  · obtain ⟨v, hexec⟩ := exec_itkStreamStop_running h hrun
    exact ⟨_, hexec, stream_stopped v _ _⟩
  · obtain ⟨t, hexec, hframes, hseq, hmem, hhl⟩ := exec_csiFrameStart_opens hshape hinj hlive hon hcfg hcur hopen
    exact ⟨t, _, hexec, hframes, rfl, rfl, by simp [State.openedFrame, hcfg], rfl, rfl, hseq, hmem, hhl⟩
  · rw [exec_csiLongPacket_line hlive hdt hon hcur hflip hres hlines, hcfg, Option.getD_some,
      addLine_fits hroom hwc hmax hpipe]
  · rw [exec_csiLongPacket_bad hlive, if_pos hdt]
    refine congrArg _ ?_
    unfold State.voidOpen
    rw [show (s.onPort port fun p => { p with crcErrors := satInc 255 p.crcErrors }).streamOn port vc = none from hon]
  · rw [exec_csiFrameEnd_open hlive hon hcur, if_neg (by simp [Nat.not_lt_of_ge hlines])]
  · rw [exec_csiFrameEnd_open hlive hon hcur]
    simp [hlines]
  · rw [exec_csiPacketDiscard_ok hlive, if_pos hdt]
  · simp [exec_csiPacketDiscard_ok hlive, hdt]
  · have hdue := exec_sampleResolved_due hf hres hended hpipe hheld rfl rfl rfl
    refine ⟨fun hin hgood => ?_, fun hin hrefused => ?_, fun hin => ?_, fun hlate ok => ?_⟩
    · obtain ⟨hcells, hhl, hasz⟩ := storeTensor_leaves s i q _ _
      refine ⟨_, (hdue true).trans (congrArg _ ?_), hcells, hhl, hasz⟩
      refine (if_neg (Nat.not_le_of_lt hin)).trans ((if_neg (by rw [hgood]; decide)).trans ?_)
      rw [tsNow_storeTensor hstill]
      rfl
    · exact (hdue true).trans (congrArg _ ((if_neg (Nat.not_le_of_lt hin)).trans (if_pos (by rw [hrefused]; rfl))))
    · exact (hdue false).trans (congrArg _ ((if_neg (Nat.not_le_of_lt hin)).trans (if_pos rfl)))
    · exact (hdue ok).trans (congrArg _ (if_pos hlate))
  · rw [exec_decodeBudgetExpiry_some hf, if_pos (.inl hres)]
  · rw [exec_decodeBudgetExpiry_some hf, if_pos (.inr hearly)]
  · exact (exec_decodeBudgetExpiry_some hf).trans (congrArg _ (if_neg (by simp [hres, Frame.budgetEnd, hlate])))
  · rw [exec_pipeCheckFrameDone_failed, if_neg (by rw [hretired, hframe, hwait]; simp)]
  · rw [exec_pipeCheckFrameDone_failed, if_pos hwhy]
  · rw [exec_csiPortLinkUp, if_pos hn]
  · rw [exec_csiPortLinkUp, if_neg (by simp [h1, h2, h4])]

/-- The statement of the intake is one about `Config.freeCycle`, which has no body: it holds exactly if every draw after
the first is 0. Its clause of the written sample dates the resolution by the instant of the state before the step, and
the model by the instant after the transfer of the tensor has taken its draws (R14, log 2). -/
theorem intakeTakesFramesToSamples_iff :
    Obligations.IntakeTakesFramesToSamples ↔ ∀ n, Config.freeCycle (n + 1) = 0 :=
  ⟨fun h _ => by_contra fun hn => not_intakeTakesFramesToSamples_of_draw hn h, intakeTakesFramesToSamples_of_still⟩

end Sys2Proof.Machine
end

section
/-! Joint lines (chapter 12): training, the node table, start and stop, down frames, up frames and comma windows, and
what the statement O56 of the joint lines rests on. -/

namespace Sys2Proof.Machine

open Sys2Proof.Safety

/-! The line and the node of a state. -/

theorem State.line_onLine (s : State) {l : Nat} (f : Line → Line) (h : l < s.jl.lines.length) :
    (s.onLine l f).line l = f (s.line l) := by
  simp [State.line, h]

theorem State.line_onLine_ne (s : State) {l k : Nat} (f : Line → Line) (h : k ≠ l) :
    (s.onLine k f).line l = s.line l := by
  simp [State.line, h, List.getD_eq_getElem?_getD]

theorem State.node_onNode (s : State) {n : Nat} (f : Node → Node) (h : n < s.jl.nodes.length) :
    (s.onNode n f).node n = f (s.node n) := by
  simp [State.node, h]

theorem State.node_onNode_ne (s : State) {n m : Nat} (f : Node → Node) (h : m ≠ n) :
    (s.onNode m f).node n = s.node n := by
  simp [State.node, h, List.getD_eq_getElem?_getD]

theorem line_of_jl {s t : State} (h : t.jl = s.jl) (l : Nat) : t.line l = s.line l := by
  simp [State.line, h]
theorem node_of_jl {s t : State} (h : t.jl = s.jl) (n : Nat) : t.node n = s.node n := by
  simp [State.node, h]

theorem lines_of_shaped {s : State} {l : Nat} (h : Shaped s) (hl : l < 16) : l < s.jl.lines.length := by
  obtain ⟨-, -, -, -, -, -, ⟨hlines, -⟩, -⟩ := h
  omega

theorem nodes_of_shaped {s : State} {n : Nat} (h : Shaped s) (hn : n < 64) : n < s.jl.nodes.length := by
  obtain ⟨-, -, -, -, -, -, ⟨-, hnodes, -⟩, -⟩ := h
  omega

/-! The lines that a mask names, and the nodes of a line (R283). -/

theorem mem_maskLines {m l : Nat} : l ∈ maskLines m ↔ l < 16 ∧ bitAt m l = true := by
  simp [maskLines]

theorem maskLines_zero : maskLines 0 = [] := by decide

theorem maskLines_nodup (m : Nat) : (maskLines m).Nodup := List.nodup_range.filter _

theorem lineNodes_nodup (l : Nat) : (lineNodes l).Nodup :=
  List.nodup_range.map fun _ _ h => Nat.add_left_cancel h

theorem mem_lineNodes {l n : Nat} : n ∈ lineNodes l ↔ n / 4 = l := by
  simp only [lineNodes, List.mem_map, List.mem_range]
  exact ⟨fun ⟨p, hp, h⟩ => by omega, fun h => ⟨n % 4, by omega, by omega⟩⟩

/-- A fold that visits each place at most once, and whose turn at `k` alone moves what is read: it is moved once if `k`
is visited. `Q` is what the turns keep and the turn at `k` needs. -/
theorem foldl_moves_once {β γ : Type} (view : β → γ) (Q : β → Prop) {f : β → Nat → β} {g : γ → γ} {k : Nat}
    (hkeep : ∀ u i, Q u → Q (f u i)) (hmove : ∀ u, Q u → view (f u k) = g (view u))
    (hother : ∀ u i, i ≠ k → view (f u i) = view u) {l : List Nat} (hl : l.Nodup) :
    ∀ s, Q s → view (l.foldl f s) = if k ∈ l then g (view s) else view s := by
  induction l with
  | nil => exact fun _ _ => rfl
  | cons i l ih =>
    intro s hs
    obtain ⟨hi, hl⟩ := List.nodup_cons.mp hl
    rw [List.foldl_cons, ih hl _ (hkeep s i hs)]
    by_cases hk : i = k
    · subst hk
      simp [hi, hmove s hs]
    · simp [hother s i hk, Ne.symm hk]

/-- Updates of nodes, one after the other, change the list of nodes alone. -/
theorem foldl_onNode {α : Type} (i : α → Nat) (g : α → Node → Node) (ps : List α) : ∀ s : State,
    ps.foldl (fun x p => x.onNode (i p) (g p)) s =
      s.onJl fun j => { j with nodes := ps.foldl (fun ns p => ns.modify (i p) (g p)) j.nodes } := by
  induction ps with
  | nil => exact fun _ => rfl
  | cons p ps ih => exact fun s => ih _

/-- Updates of lines, one after the other, change the list of lines alone. -/
theorem foldl_onLine (g : Line → Line) (ls : List Nat) : ∀ s : State, ls.foldl (fun x l => x.onLine l g) s =
    s.onJl fun j => { j with lines := ls.foldl (fun xs l => xs.modify l g) j.lines } := by
  induction ls with
  | nil => exact fun _ => rfl
  | cons l ls ih => exact fun s => ih _

/-- Of lines updated one after the other, each is updated once if the list names it. -/
theorem line_foldl {f : State → Nat → State} (g : Line → Line)
    (hf : ∀ u i, (f u i).jl.lines = u.jl.lines.modify i g) {ls : List Nat} (hls : ls.Nodup) {s : State} {l : Nat}
    (hl : l < s.jl.lines.length) : (ls.foldl f s).line l = if l ∈ ls then g (s.line l) else s.line l :=
  foldl_moves_once (fun u : State => u.line l) (fun u => l < u.jl.lines.length) (fun u i h => by simpa [hf] using h)
    (fun u hu => by simp [State.line, hf, hu])
    (fun u i hi => by simp [State.line, hf, List.getD_eq_getElem?_getD, hi]) hls s hl

/-- A line that the list does not name is not updated. -/
theorem line_foldl_of_notMem {f : State → Nat → State} (g : Line → Line)
    (hf : ∀ u i, (f u i).jl.lines = u.jl.lines.modify i g) {ls : List Nat} (s : State) {l : Nat} (hl : l ∉ ls) :
    (ls.foldl f s).line l = s.line l := by
  refine List.foldlRecOn (motive := fun u : State => u.line l = s.line l) _ _ rfl fun u hu i hi => ?_
  have hne : i ≠ l := ne_of_mem_of_not_mem hi hl
  rw [← hu]
  simp [State.line, hf, List.getD_eq_getElem?_getD, hne]

/-! Records, events, the safe state, the watchdogs and completions leave the joint lines. -/

@[simp] theorem State.recTrigger_jl (s : State) (safety : Bool) : (s.recTrigger safety).jl = s.jl := by
  unfold State.recTrigger
  split <;> rfl
@[simp] theorem State.sched_jl (s : State) (code : Nat) (part arg0 : Option Nat) :
    (s.sched code part arg0).jl = s.jl := rfl
@[simp] theorem State.capture_jl (s : State) (r : List Byte) : (s.capture r).jl = s.jl := by
  unfold State.capture
  split
  · rfl
  · split <;> rfl
@[simp] theorem State.sendVector_jl (s : State) (v : Nat) : (s.sendVector v).jl = s.jl := by
  unfold State.sendVector
  split <;> rfl
@[simp] theorem State.raiseEvent_jl (s : State) (v : Nat) : (s.raiseEvent v).jl = s.jl := by
  unfold State.raiseEvent
  dsimp only
  split <;> split <;> simp
@[simp] theorem State.decideSafe_jl (s : State) (c : Nat) : (s.decideSafe c).jl = s.jl := by
  simp only [State.decideSafe, apply_ite State.jl, State.bump_jl, State.capture_jl, State.onAsz_jl,
    State.recTrigger_jl, State.sched_jl, ite_self]
@[simp] theorem State.onWd_jl (s : State) (w : Nat) (f : Watchdog → Watchdog) : (s.onWd w f).jl = s.jl := rfl
@[simp] theorem State.wdStart_jl (s : State) (w : Nat) : (s.wdStart w).jl = s.jl := rfl
@[simp] theorem State.wdFaulty_jl (s : State) (w : Nat) : (s.wdFaulty w).jl = s.jl := by
  simp only [State.wdFaulty, apply_ite State.jl, State.onWd_jl, State.onAsz_jl, State.sched_jl,
    State.recTrigger_jl, State.decideSafe_jl, State.raiseEvent_jl, ite_self]
@[simp] theorem State.kick_jl (s : State) (w : Nat) : (s.kick w).jl = s.jl := by
  unfold State.kick
  split
  · rfl
  · split <;> simp [apply_ite State.jl]
@[simp] theorem State.finish_jl (s : State) (p : Wait → Bool) (status res0 res1 res2 : Nat) :
    (s.finish p status res0 res1 res2).jl = s.jl := by
  obtain ⟨-, -, -, -, -, -, -, -, -, -, -, hjl, -⟩ := (KeepsBlocks.refl s).finish p status res0 res1 res2
  exact hjl

@[simp] theorem State.await_jl (s : State) (c : Cmd) (w : Wait) : (s.await c w).jl = s.jl := rfl
@[simp] theorem State.await_mem (s : State) (c : Cmd) (w : Wait) : (s.await c w).mem = s.mem := rfl
@[simp] theorem State.await_opens (s : State) (c : Cmd) (w : Wait) :
    (s.await c w).hl.opens = s.hl.opens ++ [{ cmd := c, wait := w }] := rfl

@[simp] theorem begun_line (c : Cmd) (s : State) (l : Nat) : (begun c s).line l = s.line l := by
  simp [State.line]
@[simp] theorem begun_nodeBad (c : Cmd) (s : State) (d : List Byte) (n : Nat) :
    (begun c s).nodeBad d n = s.nodeBad d n := by
  simp [State.nodeBad, State.entryOf]
@[simp] theorem begun_lineReady (c : Cmd) (s : State) : (begun c s).lineReady = s.lineReady := by
  funext l
  simp [State.lineReady, State.entryOf]

/-! Training (R299, R304). -/

theorem not_ne_config_and_ne_test {s : State} (h : s.dev.mode = .config ∨ s.dev.mode = .test) :
    ¬(s.dev.mode ≠ .config ∧ s.dev.mode ≠ .test) := by
  rwa [not_and_or, not_not, not_not]

/-- A line as its training begins in a link (R299). -/
def Line.inTraining (x : Line) (link : Nat) : Line :=
  { x with state := .training, trainStart := link, sendWhileDown := false }

/-- JL_TRAIN answers by the first check of R299 that fails, else puts its lines into training and waits. -/
theorem exec_jlTrain {c : Cmd} {s : State} (h : Starts 8 1 c s) : exec (.jlTrain c) s = .next (
    let m := c.word 0 % 65536
    if s.dev.mode ≠ .config ∧ s.dev.mode ≠ .test then (begun c s).complete c stMode
    else if ∃ l ∈ maskLines m, (s.line l).state = .running ∨ (s.line l).state = .training then
      (begun c s).complete c stBusy
    else if m = 0 then (begun c s).complete c stOk
    else ((maskLines m).foldl (fun x l => x.onLine l fun y => y.inTraining s.tb.link) (begun c s)).await c
      (.train m 0 0 false)) := by
  refine congrArg _ ((runCmd_starts h _).trans ?_)
  simp only [begun_dev, begun_tb, begun_line, Bool.and_eq_true, decide_eq_true_eq, List.any_eq_true, Bool.or_eq_true]
  rfl

/-- JL_TRAIN puts the lines that it names, and no other, into training, and waits (R299). -/
theorem exec_jlTrain_trains {c : Cmd} {s : State} (h : Starts 8 1 c s) (hshape : Shaped s)
    (hmode : s.dev.mode = .config ∨ s.dev.mode = .test) (hword : c.word 0 % 65536 ≠ 0)
    (hfree : ∀ l ∈ maskLines (c.word 0 % 65536), (s.line l).state ≠ .running ∧ (s.line l).state ≠ .training) :
    ∃ t : State, exec (.jlTrain c) s = .next t ∧
      t.hl.opens = s.hl.opens ++ [{ cmd := c, wait := .train (c.word 0 % 65536) 0 0 false }] ∧
      (∀ l, l < 16 → bitAt (c.word 0 % 65536) l = true → (t.line l).state = .training ∧
        (t.line l).trainStart = s.tb.link) ∧
      (∀ l, l < 16 → bitAt (c.word 0 % 65536) l = false → t.line l = s.line l) ∧ t.mem = s.mem := by
  have hbusy : ¬∃ l ∈ maskLines (c.word 0 % 65536), (s.line l).state = .running ∨ (s.line l).state = .training :=
    fun ⟨l, hl, hstate⟩ => hstate.elim (hfree l hl).1 (hfree l hl).2
  have hexec := (exec_jlTrain h).trans (congrArg _ ((if_neg (not_ne_config_and_ne_test hmode)).trans
    ((if_neg hbusy).trans (if_neg hword))))
  refine ⟨_, hexec, ?_, fun l hl hbit => ?_, fun l hl hbit => ?_, ?_⟩
  · rw [foldl_onLine, State.await_opens, State.onJl_hl, begun_opens]
  · have hlen : l < (begun c s).jl.lines.length := by
      simpa using lines_of_shaped hshape hl
    rw [line_of_jl (State.await_jl ..), line_foldl (fun y => y.inTraining s.tb.link) (fun _ _ => rfl)
      (maskLines_nodup _) hlen, if_pos (mem_maskLines.mpr ⟨hl, hbit⟩)]
    exact ⟨rfl, rfl⟩
  · rw [line_of_jl (State.await_jl ..), line_foldl_of_notMem (fun y => y.inTraining s.tb.link) (fun _ _ => rfl) _
      (by simp [mem_maskLines, hbit]), begun_line]
  · rw [foldl_onLine, State.await_mem, State.onJl_mem, begun_mem]

/-- The test of R304 takes an enumerated line on if every found node has an entry. -/
theorem testLine_enumerated {s : State} {l : Nat} (hl : l < s.jl.lines.length) (h : (s.line l).state = .enumerated) :
    (s.testLine l).line l =
      { s.line l with state := if s.allEntries l = true then .configured else .enumerated } := by
  unfold State.testLine
  simp only [h]
  split
  · exact s.line_onLine _ hl
  · rw [← h]

theorem testLine_failed {s : State} {l : Nat} (h : (s.line l).state = .failed) : s.testLine l = s := by
  simp [State.testLine, h]

theorem testLine_line_ne (s : State) {l k : Nat} (h : k ≠ l) : (s.testLine l).line k = s.line k := by
  unfold State.testLine
  dsimp only
  split
  · split
    · exact s.line_onLine_ne _ h.symm
    · rfl
  · split
    · rfl
    · exact s.line_onLine_ne _ h.symm
  · rfl

@[simp] theorem testLine_table (s : State) (l : Nat) : (s.testLine l).jl.table = s.jl.table := by
  unfold State.testLine
  dsimp only
  split
  · split <;> rfl
  · split <;> rfl
  · rfl

@[simp] theorem State.finishTrain_jl (s : State) : s.finishTrain.jl = s.jl :=
  foldl_keeps State.jl (fun u _ => u.finish_jl ..) _ s

/-- What a training report gives its line, before the test of R304. -/
def Line.reported (x : Line) (r : TrainReport) (why : Nat) : Line :=
  let nodes := r.nodes.take 4
  { x with
    state := if why = 0 then .enumerated else .failed
    reason := why, found := nodes, maxSegment := min 255 (r.segments.foldl max 0)
    delays := (List.range nodes.length).map fun p => (r.roundTrip.getD p 0 - (nodes.getD p {}).turn) / 2 }

/-- What a training report gives the node at a position of its line. -/
def Node.reported (y : Node) (r : TrainReport) (why p : Nat) : Node :=
  let nodes := r.nodes.take 4
  { y with present := why = 0 && decide (p < nodes.length), kind := (nodes.getD p {}).kind % 4 }

/-- A line and its nodes as they take a training report in (R299). -/
def State.reported (s : State) (l : Nat) (r : TrainReport) (why : Nat) : State :=
  (s.onLine l fun x => x.reported r why).onJl fun j =>
    { j with nodes := (List.range 4).foldl (fun ns p => ns.modify (4 * l + p) fun y => y.reported r why p) j.nodes }

/-- A report is taken in by its line and nodes, the test of R304 follows, and the commands that wait for the line learn
of its end. -/
theorem exec_lineTrainingComplete {s : State} {l : Nat} (h : (s.line l).state = .training) (r : TrainReport) :
    let why := trainReason (decide ((s.line l).trainStart + 500 < s.tb.link)) { r with nodes := r.nodes.take 4 }
    exec (.lineTrainingComplete l r) s = .next (((s.reported l r why).testLine l).onHl fun h => { h with
      opens := h.opens.map (trainWait l (r.nodes.take 4).length (why = 0)) }).finishTrain := by
  refine congrArg _ ((if_neg (by simp [h])).trans ?_)
  dsimp only
  rw [foldl_onNode]
  rfl

/-- A line that a report has ended: failed with its reason, or enumerated, or configured where every found node has an
entry (R299, R304). -/
theorem testLine_reported (s : State) {l : Nat} (hl : l < s.jl.lines.length) (r : TrainReport) (why : Nat) :
    let u := (s.reported l r why).testLine l
    (u.line l).found = r.nodes.take 4 ∧ (u.line l).reason = why ∧
      (u.line l).state = (if why ≠ 0 then .failed else
        if ((List.range (r.nodes.take 4).length).all fun p => (s.entryOf (4 * l + p)).isSome) = true then .configured
        else .enumerated) ∧
      (∀ k, k ≠ l → u.line k = s.line k) ∧ u.jl.table = s.jl.table := by
  have hline : (s.reported l r why).line l = (s.line l).reported r why := s.line_onLine _ hl
  have hother (k : Nat) (hk : k ≠ l) : ((s.reported l r why).testLine l).line k = s.line k :=
    (testLine_line_ne _ hk).trans (s.line_onLine_ne _ hk.symm)
  have htable : (s.reported l r why).jl.table = s.jl.table := rfl
  obtain rfl | hwhy := eq_or_ne why 0
  · have hl' : l < (s.reported l r 0).jl.lines.length := by simpa [State.reported] using hl
    dsimp only
    rw [testLine_enumerated hl' (by simp [hline, Line.reported]), testLine_table]
    refine ⟨by rw [hline]; rfl, by rw [hline]; rfl, ?_, hother, htable⟩
    simp [State.allEntries, State.entryOf, hline, htable, Line.reported]
  · rw [testLine_failed (by simp [hline, Line.reported, hwhy])] at hother ⊢
    exact ⟨by rw [hline]; rfl, by rw [hline]; rfl, by simp [hline, Line.reported, hwhy], hother, htable⟩

/-! The node table, start and stop (R300 to R304). -/

/-- JL_NODE_CONFIG answers by the first check of R301 that fails. -/
theorem exec_jlNodeConfig {c : Cmd} {s : State} (h : Starts 8 2 c s) : exec (.jlNodeConfig c) s = .next (
    let l := fieldAt c.data 0 1
    let n := 4 * l + fieldAt c.data 1 1
    if s.dev.mode ≠ .config then (begun c s).complete c stMode
    else if (s.line l).state = .running then (begun c s).complete c stBusy
    else if nodeLimit c.data = true then (begun c s).complete c stLimit
    else if s.nodeBad c.data n = true then (begun c s).complete c stBadParam
    else (((begun c s).onJl fun j => { j with
      table := j.table.set n (if fieldAt c.data 2 1 = 0xFF then none else some (parseNode c.data)) }).testLine
        l).complete c stOk) := by
  refine congrArg _ ((runCmd_starts h _).trans ?_)
  simp only [begun_dev, begun_line, begun_nodeBad]

/-- JL_START answers by the first check of R302 that fails. -/
theorem exec_jlStart {c : Cmd} {s : State} (h : Starts 8 3 c s) : exec (.jlStart c) s = .next (
    let ls := maskLines (c.word 0)
    if s.dev.mode ≠ .config ∧ s.dev.mode ≠ .test then (begun c s).complete c stMode
    else if ∃ l ∈ ls, s.lineReady l = false then (begun c s).complete c stBadParam
    else (if ls = [] then begun c s else (ls.foldl State.startLine (begun c s)).wdStart 3).complete c stOk) := by
  refine congrArg _ ((runCmd_starts h _).trans ?_)
  simp only [begun_dev, begun_lineReady, Bool.and_eq_true, decide_eq_true_eq, Bool.not_eq_true', List.all_eq_false,
    Bool.not_eq_true, apply_ite fun u : State => u.complete c stOk]

/-- A line as it starts (R304). -/
def Line.started (x : Line) : Line :=
  { x with state := .running, seq := 0, missRun := 0, stopping := false, sendWhileDown := false, upDone := false }

/-- A line as it is stopped: its last frame is still due (R304). -/
def Line.stopped (x : Line) : Line := { x with state := .configured, stopping := true }

/-- A node as its line starts (R304). -/
def Node.restarted (y : Node) : Node :=
  { y with slotCounter := 0, refCounter := none, staleRun := 0, slot := {}, slotSent := {} }

/-- JL_STOP is refused in RUN, else it takes its running lines out of RUNNING (R302, R304). -/
theorem exec_jlStop {c : Cmd} {s : State} (h : Starts 8 4 c s) : exec (.jlStop c) s = .next (
    if s.running = true then (begun c s).complete c stMode
    else (((maskLines (c.word 0)).filter fun l => (s.line l).state = .running).foldl
      (fun x l => (x.onLine l Line.stopped).muteLine l) (begun c s)).complete c stOk) := by
  refine congrArg _ ((runCmd_starts h _).trans ?_)
  simp only [begun_running, begun_line]
  rfl

theorem startLine_eq (s : State) (l : Nat) : s.startLine l = (s.onLine l Line.started).onJl fun j =>
    { j with nodes := (lineNodes l).foldl (fun ns n => ns.modify n Node.restarted) j.nodes } :=
  foldl_onNode (fun n => n) (fun _ => Node.restarted) _ _

theorem startLine_lines (s : State) (l : Nat) : (s.startLine l).jl.lines = s.jl.lines.modify l Line.started := by
  rw [startLine_eq]
  rfl

theorem muteLine_eq (s : State) (l : Nat) : s.muteLine l = s.onJl fun j =>
    { j with nodes := (lineNodes l).foldl (fun ns n => ns.modify n fun y => { y with stale := true }) j.nodes } :=
  foldl_onNode (fun n => n) (fun _ y => { y with stale := true }) _ _

@[simp] theorem muteLine_lines (s : State) (l : Nat) : (s.muteLine l).jl.lines = s.jl.lines := by
  rw [muteLine_eq]
  rfl

theorem stopLine_lines (s : State) (l : Nat) :
    ((s.onLine l Line.stopped).muteLine l).jl.lines = s.jl.lines.modify l Line.stopped := muteLine_lines ..

/-- A start sets the nodes of its line back, and no other (R304). -/
theorem node_startLine (s : State) (l n : Nat) :
    (s.startLine l).node n = if n / 4 = l then (s.node n).restarted else s.node n := by
  have hset (ns : List Node) : (ns.modify n Node.restarted).getD n {} = (ns.getD n {}).restarted := by
    rw [List.getD_eq_getElem?_getD, List.getD_eq_getElem?_getD, List.getElem?_modify_eq]
    cases ns[n]? with
    | none => rfl
    | some y => rfl
  have hfold := foldl_moves_once (fun ns : List Node => ns.getD n {}) (fun _ => True)
    (f := fun ns m => ns.modify m Node.restarted) (k := n) (fun _ _ h => h) (fun ns _ => hset ns)
    (fun _ _ hi => by simp [List.getD_eq_getElem?_getD, hi]) (lineNodes_nodup l) s.jl.nodes trivial
  simp only [mem_lineNodes] at hfold
  rw [startLine_eq]
  exact hfold

/-- Of the lines that start together, each sets back the nodes that are its own. -/
theorem node_foldl_startLine {ls : List Nat} (hls : ls.Nodup) (s : State) (n : Nat) :
    (ls.foldl State.startLine s).node n = if n / 4 ∈ ls then (s.node n).restarted else s.node n :=
  foldl_moves_once (fun u : State => u.node n) (fun _ => True) (fun _ _ h => h)
    (fun u _ => (node_startLine u _ n).trans (if_pos rfl))
    (fun u i hi => (node_startLine u i n).trans (if_neg hi.symm)) hls s trivial

/-- JL_START with every line ready runs the lines it names with sequence 0 and their nodes set back (R302, R304). -/
theorem exec_jlStart_runs {c : Cmd} {s : State} (h : Starts 8 3 c s) (hshape : Shaped s)
    (hmode : s.dev.mode = .config ∨ s.dev.mode = .test) (hready : ∀ l ∈ maskLines (c.word 0), s.lineReady l = true) :
    ∃ u : State, exec (.jlStart c) s = .next (u.complete c stOk) ∧
      (∀ l ∈ maskLines (c.word 0), (u.line l).state = .running ∧ (u.line l).seq = 0 ∧
        ∀ n, n / 4 = l → (u.node n).slotCounter = 0 ∧ (u.node n).staleRun = 0) ∧
      (∀ l, l ∉ maskLines (c.word 0) → u.line l = s.line l) ∧ u.mem = s.mem := by
  have hexec := (exec_jlStart h).trans (congrArg _ ((if_neg (not_ne_config_and_ne_test hmode)).trans
    (if_neg (by simpa using hready))))
  refine ⟨_, hexec, ?_⟩
  have hnodup := maskLines_nodup (c.word 0)
  by_cases hls : maskLines (c.word 0) = []
  · simp [hls]
  · rw [if_neg hls]
    refine ⟨fun l hl => ?_, fun l hl => ?_, ?_⟩
    · have hlen : l < (begun c s).jl.lines.length := by
        simpa using lines_of_shaped hshape (mem_maskLines.mp hl).1
      rw [line_of_jl (State.wdStart_jl ..), line_foldl _ startLine_lines hnodup hlen, if_pos hl]
      refine ⟨rfl, rfl, fun n hn => ?_⟩
      rw [node_of_jl (State.wdStart_jl ..), node_foldl_startLine hnodup, if_pos (hn ▸ hl)]
      exact ⟨rfl, rfl⟩
    · rw [line_of_jl (State.wdStart_jl ..), line_foldl_of_notMem _ startLine_lines _ hl, begun_line]
    · refine Eq.trans ?_ (begun_mem c s)
      exact foldl_keeps State.mem (fun u i => by rw [startLine_eq]; rfl) _ _

/-- JL_STOP outside RUN takes the running lines that it names to CONFIGURED, with one last frame due (R302, R304). -/
theorem exec_jlStop_stops {c : Cmd} {s : State} (h : Starts 8 4 c s) (hshape : Shaped s) (hrun : s.running = false) :
    ∃ u : State, exec (.jlStop c) s = .next (u.complete c stOk) ∧
      (∀ l ∈ maskLines (c.word 0), (s.line l).state = .running →
        (u.line l).state = .configured ∧ (u.line l).stopping = true) ∧
      (∀ l, l ∉ maskLines (c.word 0) ∨ (s.line l).state ≠ .running → u.line l = s.line l) ∧ u.mem = s.mem := by
  have hnodup := (maskLines_nodup (c.word 0)).filter fun l => (s.line l).state = .running
  refine ⟨_, (exec_jlStop h).trans (congrArg _ (if_neg (by simp [hrun]))), fun l hl hstate => ?_, fun l hl => ?_, ?_⟩
  · have hlen : l < (begun c s).jl.lines.length := by
      simpa using lines_of_shaped hshape (mem_maskLines.mp hl).1
    rw [line_foldl _ stopLine_lines hnodup hlen, if_pos (List.mem_filter.mpr ⟨hl, by simpa using hstate⟩)]
    exact ⟨rfl, rfl⟩
  · have hnot : l ∉ (maskLines (c.word 0)).filter fun l => (s.line l).state = .running := by
      simpa [← not_and_or] using hl
    rw [line_foldl_of_notMem _ stopLine_lines _ hnot, begun_line]
  · refine Eq.trans ?_ (begun_mem c s)
    exact foldl_keeps State.mem (fun u i => by rw [muteLine_eq]; rfl) _ _

/-! Down frames (R285, R294, R378). -/

/-- Every node's slot of this link is computed (R294). -/
def State.computeSlots (s : State) : State :=
  (List.range 64).foldl (fun x n => x.onNode n fun y => { y with slot := s.slotOf n }) s

/-- The computed slots go into the history of torques, holds are counted, a replay captures them, and the verdict on
the result that governed them is spent (R294, R335, R381, R537). -/
def State.computeCommands (s : State) : State :=
  let s1 := s.computeSlots
  let s2 := (s1.onAsz fun a => { a with tauPrev := s1.newTauPrev a.tauPrev }).countHold.captureSlots
  s2.onAsz fun a => { a with verdict := none, offUntilPass := a.offUntilPass && s2.passed.isNone }

/-- With both pairs halted no frame goes out; else each line that sends does, and watchdog 3 is kicked (R378, R387). -/
theorem exec_downFrameSend (s : State) : exec .downFrameSend s = .next (
    if !s.asz.pairAOk && !s.asz.pairBOk then s.computeCommands
    else (((List.range 16).filter fun l => (s.line l).sends).foldl State.sendLine s.computeCommands).kick 3) := rfl

theorem computeSlots_lines (s : State) : s.computeSlots.jl.lines = s.jl.lines := by
  rw [State.computeSlots, foldl_onNode (fun n => n), State.onJl_jl]

theorem computeSlots_slot (s : State) {n : Nat} (hn : n < 64) (hlen : n < s.jl.nodes.length) :
    (s.computeSlots.node n).slot = s.slotOf n := by
  have h := foldl_moves_once (fun u : State => u.node n) (fun u => n < u.jl.nodes.length)
    (f := fun x n => x.onNode n fun y => { y with slot := s.slotOf n }) (g := fun y => { y with slot := s.slotOf n })
    (k := n) (fun _ _ h => by simpa using h) (fun u hu => u.node_onNode _ hu) (fun u _ hi => u.node_onNode_ne _ hi)
    (List.nodup_range (n := 64)) s hlen
  rw [if_pos (List.mem_range.mpr hn)] at h
  exact congrArg Node.slot h

@[simp] theorem State.countHold_jl (s : State) : s.countHold.jl = s.jl := by
  unfold State.countHold
  split
  · rfl
  · split <;> rfl

@[simp] theorem State.captureSlots_jl (s : State) : s.captureSlots.jl = s.jl := by
  unfold State.captureSlots
  split
  · rfl
  · exact State.capture_jl ..

theorem computeCommands_jl (s : State) : s.computeCommands.jl = s.computeSlots.jl := by
  simp [State.computeCommands]

/-- A down frame gives its line the next sequence number, and touches no other line. -/
theorem sendLine_lines (s : State) (l : Nat) : ∃ sent, (s.sendLine l).jl.lines = s.jl.lines.modify l fun x =>
    { x with seq := (x.seq + 1) % 65536, stopping := false, downFrame := sent } := by
  unfold State.sendLine
  dsimp only
  rw [foldl_onNode (fun n => n), foldl_onNode (fun n => n)]
  exact ⟨_, rfl⟩

/-- Updates of nodes that keep a node's slot, one after the other, keep every slot. -/
theorem slot_foldl_modify {g : Node → Node} (hg : ∀ y, (g y).slot = y.slot) (ms : List Nat) (ns : List Node) (n : Nat) :
    ((ms.foldl (fun ns m => ns.modify m g) ns).getD n {}).slot = (ns.getD n {}).slot := by
  refine foldl_keeps (fun ns : List Node => (ns.getD n {}).slot) (fun ns m => ?_) ms ns
  rw [List.getD_eq_getElem?_getD, List.getD_eq_getElem?_getD, List.getElem?_modify]
  cases ns[n]? with
  | none => rfl
  | some y => by_cases hm : m = n <;> simp [hm, hg]

/-- A down frame leaves every computed slot. -/
theorem sendLine_slot (s : State) (l n : Nat) : ((s.sendLine l).node n).slot = (s.node n).slot := by
  unfold State.sendLine
  dsimp only
  rw [foldl_onNode (fun n => n), foldl_onNode (fun n => n)]
  refine (slot_foldl_modify (g := fun y => { y with slotCounter := (y.slotCounter + 1) % 65536 })
    (fun _ => rfl) (lineNodes l) _ n).trans ?_
  exact slot_foldl_modify (g := fun y => { y with
    slotSent := if (s.line l).stopping || s.dev.mode = .replay then {} else y.slot }) (fun _ => rfl) (lineNodes l) _ n

/-- A down frame leaves the Assize. -/
theorem sendLine_asz (s : State) (l : Nat) : (s.sendLine l).asz = s.asz := by
  unfold State.sendLine
  dsimp only
  rw [foldl_onNode (fun n => n), foldl_onNode (fun n => n)]
  rfl

/-- The sequence number of each line that sends rises by one, modulo 2^16 (R285). -/
theorem seq_foldl_sendLine {ls : List Nat} (hls : ls.Nodup) {s : State} {l : Nat} (hl : l < s.jl.lines.length) :
    ((ls.foldl State.sendLine s).line l).seq =
      if l ∈ ls then ((s.line l).seq + 1) % 65536 else (s.line l).seq := by
  refine foldl_moves_once (fun u : State => (u.line l).seq) (fun u => l < u.jl.lines.length)
    (g := fun n => (n + 1) % 65536) (fun u i h => ?_) (fun u hu => ?_) (fun u i hi => ?_) hls s hl
  · obtain ⟨sent, hsent⟩ := sendLine_lines u i
    simpa [hsent] using h
  · obtain ⟨sent, hsent⟩ := sendLine_lines u l
    simp [State.line, hsent, hu]
  · obtain ⟨sent, hsent⟩ := sendLine_lines u i
    simp [State.line, hsent, List.getD_eq_getElem?_getD, hi]

@[simp] theorem State.decideSafe_verdict (s : State) (c : Nat) : (s.decideSafe c).asz.verdict = s.asz.verdict := by
  simp [State.decideSafe, apply_ite fun u : State => u.asz.verdict]

@[simp] theorem State.onWd_verdict (s : State) (w : Nat) (f : Watchdog → Watchdog) :
    (s.onWd w f).asz.verdict = s.asz.verdict := rfl

@[simp] theorem State.wdFaulty_verdict (s : State) (w : Nat) : (s.wdFaulty w).asz.verdict = s.asz.verdict := by
  simp [State.wdFaulty, apply_ite fun u : State => u.asz.verdict]

/-- A kick leaves the verdict on a result. -/
theorem State.kick_verdict (s : State) (w : Nat) : (s.kick w).asz.verdict = s.asz.verdict := by
  unfold State.kick
  split
  · rfl
  · split
    · rfl
    · simp [apply_ite fun u : State => u.asz.verdict]

/-- A link's down frames: every node has its computed slot, the verdict is spent, and with a pair in service the
sequence numbers of the lines that send rise (R285, R294, R378). -/
theorem exec_downFrameSend_sends {s : State} (hshape : Shaped s) :
    ∃ t : State, exec .downFrameSend s = .next t ∧ (∀ n, n < 64 → (t.node n).slot = s.slotOf n) ∧
      t.asz.verdict = none ∧
      (s.asz.pairAOk = false → s.asz.pairBOk = false → ∀ l, t.line l = s.line l) ∧
      (s.asz.pairAOk = true ∨ s.asz.pairBOk = true → ∀ l, l < 16 →
        (t.line l).seq = if (s.line l).sends = true then ((s.line l).seq + 1) % 65536 else (s.line l).seq) := by
  have hjl := computeCommands_jl s
  have hline (l : Nat) : s.computeCommands.line l = s.line l := by
    simp [State.line, hjl, computeSlots_lines]
  have hslot (n : Nat) (hn : n < 64) : (s.computeCommands.node n).slot = s.slotOf n := by
    rw [node_of_jl hjl, computeSlots_slot s hn (nodes_of_shaped hshape hn)]
  refine ⟨_, exec_downFrameSend s, ?_⟩
  by_cases hpairs : (!s.asz.pairAOk && !s.asz.pairBOk) = true
  · rw [if_pos hpairs]
    have hhalted : s.asz.pairAOk = false ∧ s.asz.pairBOk = false := by simpa using hpairs
    exact ⟨hslot, rfl, fun _ _ => hline, fun hsend => absurd hsend (by simp [hhalted])⟩
  · rw [if_neg hpairs]
    have hnodup := (List.nodup_range (n := 16)).filter fun l => (s.line l).sends
    refine ⟨fun n hn => ?_, ?_, fun ha hb => absurd (by simp [ha, hb]) hpairs, fun _ l hl => ?_⟩
    · rw [node_of_jl (State.kick_jl ..), ← hslot n hn]
      exact foldl_keeps (fun u : State => (u.node n).slot) (fun u l => sendLine_slot u l n) _ _
    · rw [State.kick_verdict, foldl_keeps State.asz sendLine_asz]
      rfl
    · have hlen : l < s.computeCommands.jl.lines.length := by
        simpa [hjl, computeSlots_lines] using lines_of_shaped hshape hl
      rw [line_of_jl (State.kick_jl ..), seq_foldl_sendLine hnodup hlen, hline]
      simp [hl]

/-! Up frames and sample slots (R288, R295, R296). -/

section UpFrames

variable {s : State} {l : Nat}

theorem exec_upFrameReceive_idle (h : (s.line l).state ≠ .running ∨ (s.line l).upDone = true ∨ s.replaying = true)
    (d : List Byte) : exec (.upFrameReceive l d) s = .next s := by
  refine congrArg _ (if_pos ?_)
  rcases h with h | h | h <;> simp [h]

/-- A first up frame of a running line meets the injection slots, then is judged unless one of them holds it back. -/
theorem exec_upFrameReceive (hstate : (s.line l).state = .running) (hfirst : (s.line l).upDone = false)
    (hlive : s.replaying = false) (d : List Byte) : exec (.upFrameReceive l d) s = .next (
      let u := (s.inject 3 l 1).2.onJl fun j => { j with injected := j.injected || (s.inject 3 l 1).1.isSome }
      match (s.inject 3 l 1).1 with
      | none => u.judgeFrame l d
      | some (_, j) => if j.action = 2 then u.judgeFrame l (flipBit j.param d) else u) :=
  congrArg _ (if_neg (by simp [hstate, hfirst, hlive]))

end UpFrames

/-- The CRC of a sample slot is good (R289). -/
def slotCrcOk (d : List Byte) : Bool := decide (d.length = 48) && decide (fieldAt d 44 4 = crc32c (d.take 44))

/-- A sample slot's counter follows its reference (R295). -/
def State.slotInTurn (s : State) (n : Nat) (d : List Byte) : Bool :=
  match (s.node n).refCounter with
  | none => true
  | some (v, l) => decide (fieldAt d 40 2 = (v + (s.tb.link - l)) % 65536)

/-- The reference that a slot of good CRC leaves (R295). -/
def State.withReference (s : State) (n : Nat) (d : List Byte) : State :=
  if slotCrcOk d = true then s.onNode n fun y => { y with refCounter := some (fieldAt d 40 2, s.tb.link) } else s

theorem judgeSlot_eq (s : State) (ok : Bool) (n : Nat) (d : List Byte) : s.judgeSlot ok n d =
    if (ok && slotCrcOk d && bitAt (fieldAt d 38 2) 0 && s.slotInTurn n d) = true then (s.withReference n d).goodNode n d
    else (s.withReference n d).staleNode n := rfl

/-- A good slot gives its node a fresh sample and ends its run of stale ones (R295, R296). -/
theorem judgeSlot_good {s : State} {ok : Bool} {n : Nat} {d : List Byte} (hn : n < s.jl.nodes.length) (hok : ok = true)
    (hcrc : slotCrcOk d = true) (hbit : bitAt (fieldAt d 38 2) 0 = true) (hturn : s.slotInTurn n d = true) :
    let y := (s.judgeSlot ok n d).node n
    y.sample = d ∧ y.stale = false ∧ y.staleRun = 0 ∧ y.lost = false ∧
      y.refCounter = some (fieldAt d 40 2, s.tb.link) := by
  rw [judgeSlot_eq, if_pos (by simp [hok, hcrc, hbit, hturn]), State.withReference, if_pos hcrc, State.goodNode,
    State.node_onNode _ _ (by simpa using hn), State.node_onNode _ _ hn]
  exact ⟨rfl, rfl, rfl, rfl, rfl⟩

@[simp] theorem State.loseNode_node (s : State) {n : Nat} (hn : n < s.jl.nodes.length) :
    (s.loseNode n).node n = { s.node n with lost := true } := by
  have h : (s.loseNode n).jl = (s.onNode n fun y => { y with lost := true }).jl := by
    simp [State.loseNode, apply_ite State.jl]
  rw [node_of_jl h, State.node_onNode _ _ hn]

/-- A node whose slot is stale keeps its sample, and its run of stale slots grows (R295). -/
theorem staleNode_node (s : State) {n : Nat} (hn : n < s.jl.nodes.length) :
    let y := (s.staleNode n).node n
    y.sample = (s.node n).sample ∧ y.stale = true ∧ y.staleRun = satInc 255 (s.node n).staleRun := by
  unfold State.staleNode
  dsimp only
  split
  · rw [State.loseNode_node _ (by simpa using hn), State.node_onNode _ _ hn]
    exact ⟨rfl, rfl, rfl⟩
  · rw [State.node_onNode _ _ hn]
    exact ⟨rfl, rfl, rfl⟩

/-- A slot with any of the four tests failed is stale, whether or not its counter became the reference (R295). -/
theorem judgeSlot_bad {s : State} {ok : Bool} {n : Nat} {d : List Byte} (hn : n < s.jl.nodes.length)
    (hbad : ok = false ∨ slotCrcOk d = false ∨ bitAt (fieldAt d 38 2) 0 = false ∨ s.slotInTurn n d = false) :
    let y := (s.judgeSlot ok n d).node n
    y.sample = (s.node n).sample ∧ y.stale = true ∧ y.staleRun = satInc 255 (s.node n).staleRun := by
  have hkeep : ((s.withReference n d).node n).sample = (s.node n).sample ∧
      ((s.withReference n d).node n).staleRun = (s.node n).staleRun ∧ n < (s.withReference n d).jl.nodes.length := by
    unfold State.withReference
    split
    · rw [State.node_onNode _ _ hn]
      exact ⟨rfl, rfl, by simpa using hn⟩
    · exact ⟨rfl, rfl, hn⟩
  obtain ⟨hsample, hrun, hlen⟩ := hkeep
  rw [judgeSlot_eq, if_neg (by rcases hbad with h | h | h | h <;> simp [h]), ← hsample, ← hrun]
  exact staleNode_node _ hlen

/-! Comma windows and lines that go down (R305). -/

@[simp] theorem State.capture_hl (s : State) (r : List Byte) : (s.capture r).hl = s.hl := by
  unfold State.capture
  split
  · rfl
  · split <;> rfl

@[simp] theorem State.recTrigger_hl (s : State) (safety : Bool) : (s.recTrigger safety).hl = s.hl := by
  unfold State.recTrigger
  split <;> rfl

@[simp] theorem State.sched_hl (s : State) (code : Nat) (part arg0 : Option Nat) :
    (s.sched code part arg0).hl = s.hl := rfl

@[simp] theorem State.decideSafe_hl (s : State) (c : Nat) : (s.decideSafe c).hl = s.hl := by
  simp [State.decideSafe, apply_ite State.hl]

/-- In RUN every cause puts the device into the safe state, or is recorded in it (R400, R401). -/
theorem State.decideSafe_running (s : State) (c : Nat) (h : s.running = true) :
    (s.decideSafe c).asz.safe = true ∧ bitAt (s.decideSafe c).asz.causes c = true := by
  unfold State.decideSafe
  dsimp only
  generalize hx : (if c = 12 then (_ : State) else _) = x
  have hdev : x.dev = s.dev := by
    simp [← hx, apply_ite State.dev]
  have hlive : x.running = true := by
    rw [← h, State.running, State.running, hdev]
  have hmode : x.dev.mode ≠ .replay := by
    intro hreplay
    simp [State.running, hreplay] at hlive
  rw [if_neg hmode, if_neg (by simp [hlive])]
  split
  · next hsafe => simp [bitAt, hsafe]
  · split <;> simp [bitAt]

/-- A running line that goes down says so, with reason 4 and event 8; in RUN it is cause 10 of the safe state. -/
theorem lineDown_down (s : State) {l : Nat} (hl : l < s.jl.lines.length) :
    let t := s.lineDown l
    (t.line l).state = .down ∧ (t.line l).reason = 4 ∧ bitAt t.hl.events 8 = true ∧
      (s.running = true → t.asz.safe = true ∧ bitAt t.asz.causes 10 = true) := by
  unfold State.lineDown
  dsimp only
  have hline : ((((s.onLine l fun x => { x with state := .down, reason := 4, sendWhileDown := true }).muteLine
      l).raiseEvent 8).decideSafe 10).line l = { s.line l with state := .down, reason := 4, sendWhileDown := true } := by
    rw [line_of_jl ((State.decideSafe_jl ..).trans (State.raiseEvent_jl ..)), State.line, muteLine_lines]
    exact s.line_onLine _ hl
  rw [hline, State.decideSafe_hl]
  refine ⟨rfl, rfl, State.raiseEvent_event .., fun hrun => State.decideSafe_running _ _ ?_⟩
  rw [← hrun, muteLine_eq]
  simp [State.running]

section Comma

variable {s : State} {l : Nat}

theorem exec_upCommaWindowClose_idle (h : (s.line l).state ≠ .running) (seen : Bool) :
    exec (.upCommaWindowClose l seen) s = .next s := congrArg _ (if_pos h)

theorem exec_upCommaWindowClose_seen (h : (s.line l).state = .running) :
    exec (.upCommaWindowClose l true) s = .next (s.onLine l fun x => { x with missRun := 0 }) :=
  congrArg _ ((if_neg (by simp [h])).trans (if_pos rfl))

/-- A missing comma is counted; the fourth in a row takes the line down (R305). -/
theorem exec_upCommaWindowClose_missed (hl : l < s.jl.lines.length) (h : (s.line l).state = .running) :
    exec (.upCommaWindowClose l false) s = .next (
      let u := s.onLine l fun x => { x with missRun := x.missRun + 1, commaMiss := satInc 65535 x.commaMiss }
      if 3 ≤ (s.line l).missRun then u.lineDown l else u) := by
  refine congrArg _ ((if_neg (by simp [h])).trans ((if_neg (by simp)).trans ?_))
  dsimp only
  rw [s.line_onLine _ hl]
  exact if_congr Nat.lt_succ_iff rfl rfl

/-- A line whose fourth comma in a row is missing is down. -/
theorem exec_upCommaWindowClose_down (hl : l < s.jl.lines.length) (h : (s.line l).state = .running)
    (hmiss : 3 ≤ (s.line l).missRun) : ∃ t : State, exec (.upCommaWindowClose l false) s = .next t ∧
      (t.line l).state = .down ∧ (t.line l).reason = 4 ∧ bitAt t.hl.events 8 = true ∧
      (s.running = true → t.asz.safe = true ∧ bitAt t.asz.causes 10 = true) :=
  ⟨_, (exec_upCommaWindowClose_missed hl h).trans (congrArg _ (if_pos hmiss)),
    lineDown_down _ (by simpa using hl)⟩

end Comma

/-! The deadline of up frames (R295). -/

@[simp] theorem staleNode_lines (s : State) (n : Nat) : (s.staleNode n).jl.lines = s.jl.lines := by
  simp [State.staleNode, State.loseNode, apply_ite fun u : State => u.jl.lines]

/-- A line whose up frame is late counts as done, and no other line is touched. -/
theorem lateLine_lines (s : State) (l : Nat) :
    (s.lateLine l).jl.lines = s.jl.lines.modify l fun x => { x with upDone := true } :=
  foldl_keeps (fun u : State => u.jl.lines) staleNode_lines _ _

theorem linesResolved_iff (s : State) : s.linesResolved = true ↔
    ∀ l, l < s.jl.lines.length → (s.line l).state = .running → (s.line l).upDone = true := by
  simp only [State.linesResolved, List.all_eq_true, List.forall_mem_iff_getElem]
  refine forall_congr' fun l => forall_congr' fun hl => ?_
  simp [State.line, hl, imp_iff_not_or]

/-- After the deadline every running line has its up frame, or counts as done. -/
theorem exec_upFrameDeadline_resolves {s : State} (hshape : Shaped s) :
    ∃ t : State, exec .upFrameDeadline s = .next t ∧ t.linesResolved = true := by
  refine ⟨_, rfl, ?_⟩
  split
  · simp [State.linesResolved]
  · rw [linesResolved_iff]
    intro l hl
    have hlen : l < s.jl.lines.length := by
      rwa [foldl_keeps (fun u : State => u.jl.lines.length) fun u i => by simp [lateLine_lines]] at hl
    have hl16 : l < 16 := by
      obtain ⟨-, -, -, -, -, -, ⟨hlines, -⟩, -⟩ := hshape
      omega
    rw [line_foldl _ lateLine_lines (List.nodup_range.filter _) hlen]
    split
    · simp
    · next hnot => simpa [hl16] using hnot

/-! The statement. -/

/-- Settles O56: joint lines train, take their node table, start, carry commands down and samples up, and go down. -/
theorem linesCarryCommandsAndSamples : Obligations.LinesCarryCommandsAndSamples := by
  refine ⟨fun c s h hshape hmode hword hfree => ?_,
    fun c s h => ⟨fun hc ht => ?_, fun hmode hbusy => ?_, fun hmode hword => ?_⟩,
    fun s l r h => congrArg _ (if_pos h),
    fun s l r hshape hl h => ⟨_, exec_lineTrainingComplete h r, ?_⟩,
    fun c s h hmode hrun hlimit hbad => ?_,
    fun c s h => ⟨fun hmode => ?_, fun hmode hrun => ?_, fun hmode hrun hlimit => ?_, fun hmode hrun hlimit hbad => ?_⟩,
    fun c s h => ⟨fun hc ht => ?_, fun hmode hready => ?_⟩,
    fun c s h hrun => (exec_jlStop h).trans (congrArg _ (if_pos hrun)),
    fun c s h hshape hmode hready => exec_jlStart_runs h hshape hmode hready,
    fun c s h hshape hrun => exec_jlStop_stops h hshape hrun,
    fun s hshape _ => exec_downFrameSend_sends hshape,
    fun s l d hstate hfirst hlive hinj => ?_,
    fun s l d => ⟨fun h => exec_upFrameReceive_idle h d, fun hstate hfirst hlive w j hwho => ?_⟩,
    fun s n d ok hshape hn => ⟨judgeSlot_good (nodes_of_shaped hshape hn), judgeSlot_bad (nodes_of_shaped hshape hn)⟩,
    fun s l hshape hl hstate => ?_,
    fun s l seen h => exec_upCommaWindowClose_idle h seen,
    fun s l => ?_,
    fun s hshape => exec_upFrameDeadline_resolves hshape⟩
  · exact exec_jlTrain_trains h hshape hmode hword hfree
  · exact (exec_jlTrain h).trans (congrArg _ (if_pos ⟨hc, ht⟩))
  · exact (exec_jlTrain h).trans (congrArg _ ((if_neg (not_ne_config_and_ne_test hmode)).trans (if_pos hbusy)))
  · simp [exec_jlTrain h, hword, maskLines_zero, not_ne_config_and_ne_test hmode]
  · obtain ⟨hfound, hreason, hstate, hother, htable⟩ := testLine_reported s (lines_of_shaped hshape hl) r
      (trainReason (decide ((s.line l).trainStart + 500 < s.tb.link)) { r with nodes := r.nodes.take 4 })
    simp only [line_of_jl (State.finishTrain_jl _), State.finishTrain_jl]
    exact ⟨hfound, hreason, hstate, hother, htable⟩
  · simp [exec_jlNodeConfig h, hmode, hrun, hlimit, hbad]
  · simp [exec_jlNodeConfig h, hmode]
  · simp [exec_jlNodeConfig h, hmode, hrun]
  · simp [exec_jlNodeConfig h, hmode, hrun, hlimit]
  · simp [exec_jlNodeConfig h, hmode, hrun, hlimit, hbad]
  · exact (exec_jlStart h).trans (congrArg _ (if_pos ⟨hc, ht⟩))
  · exact (exec_jlStart h).trans (congrArg _ ((if_neg (not_ne_config_and_ne_test hmode)).trans (if_pos hready)))
  · rw [exec_upFrameReceive hstate hfirst hlive, inject_uninjected hinj]
    exact ⟨_, rfl, by simp, rfl, rfl, rfl⟩
  · simp [exec_upFrameReceive hstate hfirst hlive, hwho]
  · have hlen := lines_of_shaped hshape hl
    refine ⟨exec_upCommaWindowClose_seen hstate, fun hmiss => ?_, fun hmiss => ?_, fun hmiss => ?_⟩
    · exact (exec_upCommaWindowClose_missed hlen hstate).trans (congrArg _ (if_neg (by omega)))
    · exact exec_upCommaWindowClose_down hlen hstate hmiss.ge
    · obtain ⟨t, hexec, hdown, hreason, hevent, -⟩ := exec_upCommaWindowClose_down hlen hstate hmiss.le
      exact ⟨t, hexec, hdown, hreason, hevent⟩
  · unfold State.headerMode
    cases hsafe : s.safeNow
    · exact .inr ⟨rfl, rfl⟩
    · exact .inl ⟨rfl, rfl⟩

end Sys2Proof.Machine
end

section
/-! What a cause of the safe state and a watchdog fault do (R389, R399 to R401): the Assize they leave, and the blocks
that they do not touch. -/

namespace Sys2Proof.Machine

/-- A cause as it arises: one that only a start clears is latched, and cause 12 waits for a release of P0 (R399). -/
def Asz.latch (a : Asz) (c : Nat) : Asz :=
  { a with
    startCauses := if startOnly c then a.startCauses ||| 2 ^ c else a.startCauses
    p0ReleasedSince := if c = 12 then false else a.p0ReleasedSince }

/-- A cause in RUN: the first one decides the safe state, a later one is recorded (R400, R401). -/
def Asz.decide (a : Asz) (c link : Nat) : Asz :=
  if a.safe then { a with
    causes := a.causes ||| 2 ^ c, releaseCancelled := a.releaseCancelled || a.releaseAt.isSome }
  else { a with
    safe := true, torqueOff := false, entryPending := true, firstCause := c, causes := 2 ^ c
    entryLink := link, releaseAt := none, releaseCancelled := false, offUntilPass := false }

/-- The two updates with which a cause arises are `Asz.latch`. -/
theorem latched_eq (s : State) (c : Nat) :
    (if c = 12 then
      (if startOnly c then s.onAsz fun a => { a with startCauses := a.startCauses ||| 2 ^ c } else s).onAsz
        fun a => { a with p0ReleasedSince := false }
     else if startOnly c then s.onAsz fun a => { a with startCauses := a.startCauses ||| 2 ^ c } else s) =
    s.onAsz (·.latch c) := by
  unfold Asz.latch
  split <;> split <;> simp [State.onAsz]

/-- The cause is latched; in REPLAY its record is captured, in RUN the safe state is decided or the cause recorded. -/
theorem State.decideSafe_cases (s : State) (c : Nat) :
    (s.dev.mode = .replay ∧ ∃ r, s.decideSafe c = ((s.onAsz (·.latch c)).capture r).bump) ∨
    (s.dev.mode ≠ .replay ∧ s.running = false ∧ s.decideSafe c = s.onAsz (·.latch c)) ∨
    (s.running = true ∧ s.asz.safe = true ∧
      s.decideSafe c = s.onAsz fun a => (a.latch c).decide c s.tb.link) ∨
    (s.running = true ∧ s.asz.safe = false ∧
      let t := (s.onAsz fun a => (a.latch c).decide c s.tb.link).sched 7 none (some c)
      s.decideSafe c = if bitAt t.recd.triggers 0 then t.recTrigger true else t) := by
  unfold State.decideSafe
  dsimp only
  rw [latched_eq]
  generalize hu : s.onAsz (·.latch c) = u
  have hdev : u.dev = s.dev := by rw [← hu, State.onAsz_dev]
  have hsafe : u.asz.safe = s.asz.safe := by rw [← hu]; rfl
  have hrun : u.running = s.running := by rw [State.running, State.running, hdev]
  rw [hdev, hrun, hsafe]
  split
  · next hreplay => exact .inl ⟨hreplay, _, rfl⟩
  · next hreplay =>
    cases hr : s.running
    · exact .inr (.inl ⟨hreplay, rfl, rfl⟩)
    · cases hs : s.asz.safe
      · refine .inr (.inr (.inr ⟨rfl, rfl, ?_⟩))
        have hdecide : (s.onAsz fun a => (a.latch c).decide c s.tb.link) = u.onAsz fun a => { a with
            safe := true, torqueOff := false, entryPending := true, firstCause := c, causes := 2 ^ c
            entryLink := s.tb.link, releaseAt := none, releaseCancelled := false, offUntilPass := false } := by
          rw [← hu]
          simp [State.onAsz, Asz.decide, Asz.latch, hs]
        rw [hdecide, ← hu]
        rfl
      · refine .inr (.inr (.inl ⟨rfl, rfl, ?_⟩))
        rw [← hu]
        simp [State.onAsz, Asz.decide, Asz.latch, hs]

/-- Outside RUN and REPLAY a cause is latched and nothing else happens (R399). -/
theorem State.decideSafe_idle {s : State} (c : Nat) (hmode : s.dev.mode ≠ .replay) (hrun : s.running = false) :
    s.decideSafe c = s.onAsz (·.latch c) := by
  rcases s.decideSafe_cases c with ⟨h, -⟩ | ⟨-, -, h⟩ | ⟨h, -⟩ | ⟨h, -⟩
  · exact absurd h hmode
  · exact h
  all_goals exact absurd h (by simp [hrun])

/-- The Assize after a cause. -/
theorem State.decideSafe_asz (s : State) (c : Nat) :
    (s.decideSafe c).asz = if s.running then (s.asz.latch c).decide c s.tb.link else s.asz.latch c := by
  rcases s.decideSafe_cases c with ⟨hm, r, h⟩ | ⟨-, hr, h⟩ | ⟨hr, -, h⟩ | ⟨hr, -, h⟩
  · have hr : s.running = false := by simp [State.running, hm]
    simp [h, hr]
  · simp [h, hr]
  · simp [h, hr]
  · rw [h, if_pos hr]
    split <;> simp

/-! What no cause changes in the Assize: the pairs, the supply of the outputs, the parameters, the watchdogs' faults
and the result that waits for its check. -/

theorem Asz.latch_leaves (a : Asz) (c : Nat) :
    (a.latch c).pairAOk = a.pairAOk ∧ (a.latch c).pairBOk = a.pairBOk ∧ (a.latch c).vauxBad = a.vauxBad ∧
      (a.latch c).paramsValid = a.paramsValid ∧ (a.latch c).wdFault = a.wdFault ∧ (a.latch c).check = a.check :=
  ⟨rfl, rfl, rfl, rfl, rfl, rfl⟩

theorem Asz.decide_leaves (a : Asz) (c l : Nat) :
    (a.decide c l).pairAOk = a.pairAOk ∧ (a.decide c l).pairBOk = a.pairBOk ∧ (a.decide c l).vauxBad = a.vauxBad ∧
      (a.decide c l).paramsValid = a.paramsValid ∧ (a.decide c l).wdFault = a.wdFault ∧
      (a.decide c l).check = a.check := by
  unfold Asz.decide
  split <;> exact ⟨rfl, rfl, rfl, rfl, rfl, rfl⟩

@[simp] theorem State.decideSafe_assize (s : State) (c : Nat) :
    let a := (s.decideSafe c).asz
    a.pairAOk = s.asz.pairAOk ∧ a.pairBOk = s.asz.pairBOk ∧ a.vauxBad = s.asz.vauxBad ∧
      a.paramsValid = s.asz.paramsValid ∧ a.wdFault = s.asz.wdFault ∧ a.check = s.asz.check := by
  rw [State.decideSafe_asz]
  split
  · obtain ⟨ha, hb, hvaux, hparams, hfault, hcheck⟩ := (s.asz.latch c).decide_leaves c s.tb.link
    exact ⟨ha, hb, hvaux, hparams, hfault, hcheck⟩
  · exact s.asz.latch_leaves c

/-- The first cause in RUN decides the safe state (R400). -/
theorem State.decideSafe_first {s : State} (c : Nat) (hrun : s.running = true) (hsafe : s.asz.safe = false) :
    let a := (s.decideSafe c).asz
    a.safe = true ∧ a.firstCause = c ∧ a.entryLink = s.tb.link ∧ a.entryPending = true := by
  rw [State.decideSafe_asz, if_pos hrun]
  simp [Asz.decide, Asz.latch, hsafe]

/-- A later cause is recorded (R401). -/
theorem State.decideSafe_later {s : State} (c : Nat) (hrun : s.running = true) (hsafe : s.asz.safe = true) :
    let a := (s.decideSafe c).asz
    a.firstCause = s.asz.firstCause ∧ a.entryLink = s.asz.entryLink ∧ a.causes = s.asz.causes ||| 2 ^ c ∧
      a.torqueOff = s.asz.torqueOff := by
  rw [State.decideSafe_asz, if_pos hrun]
  simp [Asz.decide, Asz.latch, hsafe]

/-! Blocks that a cause does not touch. -/

@[simp] theorem State.capture_outside (s : State) (r : List Byte) :
    (s.capture r).tb = s.tb ∧ (s.capture r).pins = s.pins ∧ (s.capture r).sol = s.sol := by
  unfold State.capture
  split
  · exact ⟨rfl, rfl, rfl⟩
  · split <;> exact ⟨rfl, rfl, rfl⟩

@[simp] theorem State.recTrigger_outside (s : State) (safety : Bool) :
    (s.recTrigger safety).pins = s.pins ∧ (s.recTrigger safety).sol = s.sol := by
  unfold State.recTrigger
  split <;> exact ⟨rfl, rfl⟩

@[simp] theorem State.sched_outside (s : State) (code : Nat) (part arg0 : Option Nat) :
    (s.sched code part arg0).pins = s.pins ∧ (s.sched code part arg0).sol = s.sol := ⟨rfl, rfl⟩

@[simp] theorem State.decideSafe_outside (s : State) (c : Nat) :
    (s.decideSafe c).tb = s.tb ∧ (s.decideSafe c).dev = s.dev ∧ (s.decideSafe c).pins = s.pins ∧
      (s.decideSafe c).sol = s.sol := by
  rcases s.decideSafe_cases c with ⟨-, r, h⟩ | ⟨-, -, h⟩ | ⟨-, -, h⟩ | ⟨-, -, h⟩ <;> rw [h]
  · simp
  · simp
  · simp
  · split <;> simp

/-! A watchdog fault and a kick (R386, R389). -/

/-- A watchdog's first fault in a link is latched, then decided or raised as event 1. -/
theorem State.wdFaulty_fresh {s : State} {w : Nat} (hfresh : (s.watchdog w).lastFault ≠ some s.tb.link) :
    ∃ u : State, u.dev = s.dev ∧ u.hl = s.hl ∧ u.sol = s.sol ∧ u.asz.safe = s.asz.safe ∧
      u.asz.check = s.asz.check ∧ bitAt u.asz.wdFault w = true ∧ s.wdFaulty w =
        if w ≤ 3 || bitAt (fieldAt s.asz.params 32 8) w then u.decideSafe 11 else u.raiseEvent 1 := by
  unfold State.wdFaulty
  dsimp only
  rw [if_neg hfresh]
  generalize hv : ((s.onWd w fun d => { d with lastFault := some s.tb.link }).onAsz fun a => { a with
    wdFault := a.wdFault ||| 2 ^ w }).sched 8 none (some w) = v
  have hasz : v.asz = { s.asz with
      watchdogs := s.asz.watchdogs.modify w fun d => { d with lastFault := some s.tb.link }
      wdFault := s.asz.wdFault ||| 2 ^ w } := by rw [← hv]; rfl
  have hdev : v.dev = s.dev := by rw [← hv]; rfl
  have hhl : v.hl = s.hl := by rw [← hv]; rfl
  have hsol : v.sol = s.sol := by rw [← hv]; rfl
  generalize hu : (if bitAt v.recd.triggers 3 then v.recTrigger true else v) = u
  have hasz' : u.asz = v.asz := by simp [← hu, apply_ite State.asz]
  refine ⟨u, ?_, ?_, ?_, ?_, ?_, ?_, ?_⟩
  · simp [← hu, apply_ite State.dev, hdev]
  · simp [← hu, apply_ite State.hl, hhl]
  · simp [← hu, apply_ite State.sol, hsol]
  · rw [hasz', hasz]
  · rw [hasz', hasz]
  · simp [hasz', hasz, bitAt]
  · rw [hasz', hasz]

/-- A kick is without effect, counts in its window, or is a fault. -/
theorem State.kick_cases (s : State) (w : Nat) :
    s.kick w = s ∨ s.kick w = s.wdFaulty w ∨ ∃ f, s.kick w = s.onWd w f := by
  unfold State.kick
  split
  · exact .inl rfl
  · split
    · exact .inl rfl
    · split
      · exact .inl rfl
      · split
        · split
          · exact .inl rfl
          · split
            · exact .inr (.inl rfl)
            · exact .inr (.inr ⟨_, rfl⟩)
        · split
          · exact .inr (.inl rfl)
          · exact .inl rfl

/-- A kick of watchdogs 0 to 3 leaves the solver, the host link and the result that waits for its check. -/
theorem State.kick_leaves (s : State) {w : Nat} (hw : w ≤ 3) :
    (s.kick w).sol = s.sol ∧ (s.kick w).hl = s.hl ∧ (s.kick w).asz.check = s.asz.check := by
  rcases s.kick_cases w with h | h | ⟨f, h⟩ <;> rw [h]
  · exact ⟨rfl, rfl, rfl⟩
  · by_cases hfresh : (s.watchdog w).lastFault = some s.tb.link
    · rw [State.wdFaulty, if_pos hfresh]
      exact ⟨rfl, rfl, rfl⟩
    · obtain ⟨u, -, hhl, hsol, -, hcheck, -, hfault⟩ := State.wdFaulty_fresh hfresh
      rw [hfault, if_pos (by simp [hw])]
      simp [hhl, hsol, hcheck]
  · exact ⟨rfl, rfl, rfl⟩

end Sys2Proof.Machine
end

section
/-! The stages of the dynamics engine (R307, R309, R326 to R332, R340, R341). O50. -/

namespace Sys2Proof.Machine

/-! The front stage (R307, R313, R319). -/

section Front

variable {s : State} {m : Model} {x : TaskSet} {k : Contacts}

theorem exec_frontStageStart_unloaded (h : s.sol.model = none ∨ s.sol.tasks = none ∨ s.sol.contacts = none) :
    exec .frontStageStart s = .next s := by
  refine congrArg Host.Outcome.next ?_
  split
  · next hm hx hk => simp [hm, hx, hk] at h
  · rfl

/-- The target block (R319, R320): the targets in use change, and its flags leave room for STALE, flag 7. -/
theorem readTargets_cases (s : State) : ∃ (fl : Nat) (latest : Option Targets) (used : Bool),
    s.readTargets = (fl, s.onSol fun y => { y with
      latest := latest, targets := if used then latest.getD {} else y.targets }) ∧
    ∀ stale : Bool, bitAt (fl + if stale then 0x80 else 0) 7 = stale := by
  refine ⟨_, _, _, rfl, fun stale => ?_⟩
  have hflag (ok old : Bool) :
      bitAt ((if ok then 0 else 0x100) + (if old then 0x200 else 0) + if stale then 0x80 else 0) 7 = stale := by
    revert ok old stale
    decide
  exact hflag _ _

theorem linkState_onSol (s : State) (f : Sol → Sol) (m : Model) (last : List Nat) :
    (s.onSol f).linkState m last = s.linkState m last := rfl

/-- The stage with its three loads: it waits, or takes the link's samples and targets. -/
theorem exec_frontStageStart (hm : s.sol.model = some m) (hx : s.sol.tasks = some x) (hk : s.sol.contacts = some k) :
    exec .frontStageStart s = .next (
      if s.sol.state ≠ .running || s.tb.link ≤ s.sol.startLink || !s.linesResolved ||
          s.sol.front.any (fun f => f.n = s.tb.link) then s
      else
        let (fl, t) := s.readTargets
        let ls := t.linkState m t.sol.lastQuat
        (t.onSol fun y => { y with
          lastQuat := if m.floating then ls.quat else y.lastQuat
          front := some { n := t.tb.link, flags := fl + (if ls.stale then 0x80 else 0), model := m
                          tasks := x, contacts := k, targets := y.targets, q := ls.q, qd := ls.qd
                          quat := ls.quat, rate := ls.rate } }).bump) := by
  show execFrontStageStart s = _
  unfold execFrontStageStart
  rw [hm, hx, hk]

/-- A running solver takes the samples of a link whose lines are resolved. -/
theorem exec_frontStageStart_takes (hm : s.sol.model = some m) (hx : s.sol.tasks = some x)
    (hk : s.sol.contacts = some k) (hstate : s.sol.state = .running) (hstart : s.sol.startLink < s.tb.link)
    (hlines : s.linesResolved = true) (hfront : ∀ f ∈ s.sol.front, f.n ≠ s.tb.link) :
    ∃ t : State, ∃ f : FrontData, exec .frontStageStart s = .next t ∧ t.sol.front = some f ∧ f.n = s.tb.link ∧
      f.model = m ∧ f.tasks = x ∧ f.contacts = k ∧ f.targets = t.sol.targets ∧
      f.q = (s.linkState m s.sol.lastQuat).q ∧ f.qd = (s.linkState m s.sol.lastQuat).qd ∧
      f.quat = (s.linkState m s.sol.lastQuat).quat ∧ f.rate = (s.linkState m s.sol.lastQuat).rate ∧
      bitAt f.flags 7 = (s.linkState m s.sol.lastQuat).stale ∧ t.mem = s.mem ∧ t.hl = s.hl ∧ t.asz = s.asz := by
  obtain ⟨fl, latest, used, hread, hflags⟩ := readTargets_cases s
  rw [exec_frontStageStart hm hx hk, if_neg (by simpa [hstate, hlines, hstart, Option.any_eq_false] using hfront),
    hread]
  dsimp only
  rw [linkState_onSol]
  exact ⟨_, _, rfl, rfl, rfl, rfl, rfl, rfl, rfl, rfl, rfl, rfl, rfl, hflags _, rfl, rfl, rfl⟩

theorem exec_frontStageStart_idle (hm : s.sol.model = some m) (hx : s.sol.tasks = some x)
    (hk : s.sol.contacts = some k) (h : s.sol.state ≠ .running ∨ s.tb.link ≤ s.sol.startLink ∨
      s.linesResolved = false ∨ ∃ f ∈ s.sol.front, f.n = s.tb.link) : exec .frontStageStart s = .next s := by
  refine (exec_frontStageStart hm hx hk).trans (congrArg _ (if_pos ?_))
  rcases h with h | h | h | ⟨f, hf, hn⟩
  · simp [h]
  · simp [h]
  · simp [h]
  · simp [Option.mem_def.mp hf, hn]

end Front

/-! The solve stage (R307, R309, R326, R330, R341). -/

section Solve

variable {s : State} {f : FrontData} {r : Result}

theorem exec_solveStageStart (hf : s.sol.front = some f) (hn : f.n + 1 = s.tb.link) (e : Secded) :
    let o := f.solve s.sol.warm (decide (e = .uncorrectable)) (nanPattern s.free 0)
    exec (.solveStageStart e) s = .next (((s.onSol fun x => { x with
      front := none, solved := some o.1, warm := o.2
      memRewrite := x.memRewrite || decide (e = .uncorrectable)
      memCorrected := if e = .corrected then x.memCorrected + 1 else x.memCorrected }).kick 1).bump) := by
  show execSolveStageStart e s = _
  unfold execSolveStageStart
  rw [hf]
  exact congrArg _ (if_neg (not_not.mpr hn))

theorem exec_solveStageStart_idle (h : ∀ f ∈ s.sol.front, f.n + 1 ≠ s.tb.link) (e : Secded) :
    exec (.solveStageStart e) s = .next s := by
  refine congrArg Host.Outcome.next ?_
  split
  · rfl
  · next f hf => exact if_pos (h f hf)

/-- The front stage was late: the numbers of its result are open (R309). -/
theorem exec_stageDeadlineMiss_front (hf : s.sol.front = some f) (hn : f.n + 1 = s.tb.link) :
    exec (.stageDeadlineMiss false) s = .next (s.onSol fun x => { x with
      front := none, solved := some (s.overrunResult f), warm := none }).bump := by
  show execStageDeadlineMiss false s = _
  unfold execStageDeadlineMiss
  rw [hf]
  exact congrArg _ (if_neg (not_not.mpr hn))

theorem exec_stageDeadlineMiss_front_idle (h : ∀ f ∈ s.sol.front, f.n + 1 ≠ s.tb.link) :
    exec (.stageDeadlineMiss false) s = .next s := by
  refine congrArg Host.Outcome.next ((if_neg Bool.false_ne_true).trans ?_)
  split
  · rfl
  · next f hf => exact if_pos (h f hf)

/-- The solve stage: late once in its link, unless its result is an overrun already. -/
theorem exec_stageDeadlineMiss_solve (hr : s.sol.solved = some r) :
    exec (.stageDeadlineMiss true) s = .next (if r.n + 1 ≠ s.tb.link || bitAt r.flags 11 then s
      else s.onSol fun x => { x with warm := none, solved := some { r with flags := r.flags ||| 0x848 } }) := by
  show execStageDeadlineMiss true s = _
  unfold execStageDeadlineMiss
  rw [hr]
  rfl

theorem exec_stageDeadlineMiss_solve_idle (h : ∀ r ∈ s.sol.solved, r.n + 1 ≠ s.tb.link) :
    exec (.stageDeadlineMiss true) s = .next s := by
  refine congrArg _ ((if_pos rfl).trans ?_)
  split
  · rfl
  · next r hr => exact if_pos (by simp [h r hr])

/-- An iteration takes at most the steps that are left (R326). -/
theorem Qp.iterate_it_le (p : Qp) (refine tol : Nat) (k : Nat) :
    ∀ x : IterState, (p.iterate refine tol k x).it ≤ x.it + k := by
  induction k with
  | zero => exact fun x => le_rfl
  | succ k ih =>
    intro x
    have hnext (y : IterState) (hy : y.it = x.it + 1) : (p.iterate refine tol k y).it ≤ x.it + (k + 1) := by
      have := ih y
      omega
    unfold Qp.iterate
    dsimp only
    split
    · dsimp only
      omega
    · split
      · exact hnext _ rfl
      · split
        · exact hnext _ rfl
        · dsimp only
          omega

/-- The result of a solve is its link's, within the iteration cap; after a memory error the next start is cold. -/
theorem FrontData.solve_bounds (f : FrontData) (w : Option Warm) (lost : Bool) (nan : Nat) :
    (f.solve w lost nan).1.n = f.n ∧ (f.solve w lost nan).1.sampleTs = linkTs f.n ∧
      (f.solve w lost nan).1.iterations ≤ f.tasks.iterCap ∧ (f.solve w lost nan).1.tau.length = 64 ∧
      (lost = true → (f.solve w lost nan).2 = none) := by
  refine ⟨rfl, rfl, ?_, ?_, ?_⟩
  · exact (Qp.iterate_it_le ..).trans_eq (Nat.zero_add _)
  · simp [FrontData.solve, FrontData.torques]
  · rintro rfl
    simp [FrontData.solve]

end Solve

/-! The hand-off (R307, R332, R387). -/

@[simp] theorem State.raiseEvent_sol (s : State) (v : Nat) : (s.raiseEvent v).sol = s.sol := by
  simp [State.raiseEvent, State.sendVector, apply_ite State.sol]

theorem exec_resultHandoff_idle {s : State} (h : ∀ r ∈ s.sol.solved, r.n + 1 ≠ s.tb.link) :
    exec .resultHandoff s = .next s := by
  refine congrArg Host.Outcome.next ?_
  split
  · rfl
  · next r hr => exact if_pos (h r hr)

/-- The result shows in the registers, goes to the Assize unless it is a hold, and counts as a solver fault. -/
theorem exec_resultHandoff_shows {s : State} {r : Result} (hr : s.sol.solved = some r) (hn : r.n + 1 = s.tb.link) :
    ∃ t : State, exec .resultHandoff s = .next t ∧ t.sol.solved = none ∧ t.sol.last = some r ∧
      t.asz.check = (if bitAt r.flags 6 then none else some r) ∧
      t.sol.faults = (if solverFault r.flags then satInc 65535 s.sol.faults else s.sol.faults) ∧
      (solverFault r.flags = true → bitAt t.hl.events 6 = true) := by
  show ∃ t : State, execResultHandoff s = .next t ∧ _
  unfold execResultHandoff
  rw [hr]
  dsimp only
  rw [if_neg (not_not.mpr hn)]
  generalize hu : (s.onSol fun x => { x with
    solved := none, last := some r
    faults := if solverFault r.flags then satInc 65535 x.faults else x.faults
    pivotReg := if bitAt r.flags 2 then satInc 65535 x.pivotReg else x.pivotReg }).onAsz (fun a => { a with
    check := if bitAt r.flags 6 then none else some r }) = u
  generalize hv : (if solverFault r.flags then u.raiseEvent 6 else u) = v
  have hsol : v.sol = u.sol := by simp [← hv, apply_ite State.sol]
  have hcheck : v.asz = u.asz := by simp [← hv, apply_ite State.asz]
  have hevent (h : solverFault r.flags = true) : bitAt v.hl.events 6 = true := by
    rw [← hv, if_pos h]
    exact State.raiseEvent_event u 6
  have hkick : ∃ t : State, (if bitAt r.flags 11 then v else v.kick 2) = t ∧ t.sol = v.sol ∧ t.hl = v.hl ∧
      t.asz.check = v.asz.check := by
    split
    · exact ⟨_, rfl, rfl, rfl, rfl⟩
    · exact ⟨_, rfl, v.kick_leaves (by decide)⟩
  obtain ⟨t, ht, htsol, hthl, htcheck⟩ := hkick
  refine ⟨t, congrArg _ ht, ?_, ?_, ?_, ?_, ?_⟩
  · rw [htsol, hsol, ← hu]
    rfl
  · rw [htsol, hsol, ← hu]
    rfl
  · rw [htcheck, hcheck, ← hu]
    rfl
  · rw [htsol, hsol, ← hu]
    rfl
  · rwa [hthl]

/-! Clusters (R340, R500). -/

theorem exec_clusterCheck (s : State) (u : Nat) (ok : Bool) : exec (.clusterCheck u ok) s = .next (
    if ok || s.sol.clustersRetired.contains u then s else s.errEvent (clusterEntry u)) := rfl

theorem makeLasting_isLasting {s : State} {e : WearEntry} (hcount : s.stopsCounting e = false) (hkind : e.kind ≤ 8) :
    (s.makeLasting e).isLasting e = true := by
  unfold State.makeLasting
  split
  · next h => simpa [hcount, hkind.not_gt] using h
  · simp [State.isLasting]

/-- An error event makes a resource that counts and is not lasting so when two more lie in the window. -/
theorem errEvent_isLasting {s : State} {e : WearEntry} (hcount : s.stopsCounting e = false)
    (hlasting : s.isLasting e = false) (hkind : e.kind ≤ 8) : (s.errEvent e).isLasting e =
      decide (2 ≤ ((s.windowOf e).filter fun l => s.tb.link < l + windowLinks).length) := by
  unfold State.errEvent
  dsimp only
  rw [if_neg (by simp [hcount]), List.length_cons]
  split
  · next hmany =>
    refine (makeLasting_isLasting ?_ hkind).trans (decide_eq_true (Nat.le_of_succ_le_succ hmany)).symm
    exact hcount
  · next hfew =>
    exact hlasting.trans (decide_eq_false fun h => hfew (Nat.succ_le_succ h)).symm

/-- A failed check of a cluster that counts. -/
theorem exec_clusterCheck_counts {s : State} {u : Nat} (hcluster : s.sol.clustersRetired.contains u = false)
    (hretired : s.isRetired (clusterEntry u) = false) (hlasting : s.isLasting (clusterEntry u) = false) :
    ∃ t : State, exec (.clusterCheck u false) s = .next t ∧ t.sol = s.sol ∧ t.mem = s.mem ∧
      t.isLasting (clusterEntry u) =
        decide (2 ≤ ((s.windowOf (clusterEntry u)).filter fun l => s.tb.link < l + windowLinks).length) := by
  obtain ⟨w, hspr⟩ := s.errEvent_spr (clusterEntry u)
  refine ⟨s.errEvent (clusterEntry u), ?_, ?_, ?_, ?_⟩
  · rw [exec_clusterCheck, if_neg (by rw [hcluster]; decide)]
  · rw [hspr, State.onSpr_sol]
  · rw [hspr, State.onSpr_mem]
  · exact errEvent_isLasting (by simp [State.stopsCounting, hretired]) hlasting
      (show 7 ≤ 8 by decide)

/-! Solver memory (R341). -/

theorem exec_solverMemoryRewrite (s : State) : exec .solverMemoryRewrite s = .next (
    if s.sol.memRewrite && s.phase s.tb.link % 100 = 0 then
      s.onSol fun x => { x with memRewrite := false, warm := none }
    else s) := rfl

/-! The statement. -/

/-- Settles O50: each stage by its equation in its own link, the result by `FrontData.solve_bounds`, a cluster by
`errEvent_isLasting`. -/
theorem solverStagesHandTheirResultOn : Obligations.SolverStagesHandTheirResultOn := by
  refine ⟨fun s m x k hm hx hk => ⟨exec_frontStageStart_takes hm hx hk, exec_frontStageStart_idle hm hx hk⟩,
    fun s => exec_frontStageStart_unloaded, fun s f e hf hn => exec_solveStageStart hf hn e,
    fun s e h => ⟨exec_solveStageStart_idle h e, exec_stageDeadlineMiss_front_idle h⟩,
    FrontData.solve_bounds, fun s r => exec_resultHandoff_shows,
    fun s r hr hn hfresh => ?_, fun s r hr hlate => ?_,
    fun s h => ⟨exec_resultHandoff_idle h, exec_stageDeadlineMiss_solve_idle h⟩,
    fun s f hf hn => ⟨_, _, exec_stageDeadlineMiss_front hf hn, rfl, rfl, rfl, rfl, rfl, rfl, rfl⟩,
    fun s u => ?_, fun s u hretired => ?_, fun s u => exec_clusterCheck_counts,
    fun s hdue hchain => ?_, fun s h => ?_⟩
  · rw [exec_stageDeadlineMiss_solve hr, if_neg (by simp [hn, hfresh])]
  · rw [exec_stageDeadlineMiss_solve hr, if_pos (by simp [hlate])]
  · rw [exec_clusterCheck, if_pos (Bool.true_or _)]
  · rw [exec_clusterCheck, if_pos (by rw [hretired]; decide)]
  · rw [exec_solverMemoryRewrite, if_pos (by simp [hdue, hchain])]
  · rw [exec_solverMemoryRewrite, if_neg]
    rcases h with h | h <;> simp [h]

end Sys2Proof.Machine
end

section
/-! The monitors of the device (R335, R376, R377, R386, R389, R403, R407, R557): pairs, watchdogs, supplies, clock,
parameters and hold count. O52. -/

namespace Sys2Proof.Machine

theorem running_of_dev {s t : State} (h : t.dev = s.dev) : t.running = s.running := by
  rw [State.running, State.running, h]

/-! The fault outputs (R400, R405, R568). -/

theorem faultPin_halted (s : State) :
    s.faultPin false = if s.dev.inReset = true ∨ s.asz.vauxBad = true then .hiZ else .low := by
  simp [State.faultPin]

theorem faultPin_hiZ_iff (s : State) (ok : Bool) :
    s.faultPin ok = .hiZ ↔ s.dev.inReset = true ∨ s.asz.vauxBad = true := by
  unfold State.faultPin
  split
  · next h => simpa using h
  · next h =>
    have hdriven : ¬(s.dev.inReset = true ∨ s.asz.vauxBad = true) := by simpa using h
    split <;> simp [hdriven]

/-- Without VAUX the outputs float. -/
theorem driveSafe_floats {s : State} (h : s.asz.vauxBad = true) :
    s.driveSafe.pins.faultA = .hiZ ∧ s.driveSafe.pins.faultB = .hiZ ∧ s.driveSafe.pins.safeState = .hiZ :=
  ⟨(faultPin_hiZ_iff s _).mpr (.inr h), (faultPin_hiZ_iff s _).mpr (.inr h), if_pos (by simp [h])⟩

/-! The pairs (R376, R377): one argument for both. -/

/-- Whether a pair runs, its FAULT output and the cause of its halt. -/
def State.pairOk (s : State) : Pair → Bool
  | .a => s.asz.pairAOk
  | .b => s.asz.pairBOk
def State.faultOf (s : State) : Pair → Pin
  | .a => s.pins.faultA
  | .b => s.pins.faultB
def Pair.other : Pair → Pair
  | .a => .b
  | .b => .a
def Pair.cause : Pair → Nat
  | .a => 13
  | .b => 14

/-- A pair stops. -/
def Asz.halt (a : Asz) : Pair → Asz
  | .a => { a with pairAOk := false }
  | .b => { a with pairBOk := false }

theorem haltPair_eq {s : State} {p : Pair} (h : s.pairOk p = true) :
    s.haltPair p = (s.onAsz fun a => Asz.halt a p).driveSafe.decideSafe (Pair.cause p) := by
  cases p
  · exact if_neg (by simpa [State.pairOk] using h)
  · exact if_neg (by simpa [State.pairOk] using h)

/-- A pair that runs is halted, its output falls, and its cause arises. -/
theorem haltPair_halts {s : State} {p : Pair} (h : s.pairOk p = true) :
    (s.haltPair p).pairOk p = false ∧ (s.haltPair p).pairOk (Pair.other p) = s.pairOk (Pair.other p) ∧
      (s.haltPair p).faultOf p = (if s.dev.inReset = true ∨ s.asz.vauxBad = true then .hiZ else .low) ∧
      bitAt (s.haltPair p).asz.startCauses (Pair.cause p) = true ∧
      (s.running = true → (s.haltPair p).asz.safe = true ∧ bitAt (s.haltPair p).asz.causes (Pair.cause p) = true) := by
  rw [haltPair_eq h]
  generalize hu : (s.onAsz fun a => Asz.halt a p).driveSafe = u
  have hrun : u.running = s.running := by rw [← hu]; rfl
  have hfault : u.faultOf p = if s.dev.inReset = true ∨ s.asz.vauxBad = true then .hiZ else .low := by
    rw [← hu]
    cases p <;> exact faultPin_halted _
  obtain ⟨hhalted, hother⟩ : u.pairOk p = false ∧ u.pairOk (Pair.other p) = s.pairOk (Pair.other p) := by
    rw [← hu]
    cases p <;> exact ⟨rfl, rfl⟩
  have hstart : startOnly (Pair.cause p) = true := by cases p <;> decide
  have hkeeps (q : Pair) : (u.decideSafe (Pair.cause p)).pairOk q = u.pairOk q := by cases q <;> simp [State.pairOk]
  obtain ⟨-, -, hlatched, -⟩ := u.decideSafe_latches hstart
  refine ⟨(hkeeps p).trans hhalted, (hkeeps _).trans hother, ?_, hlatched, fun h => ?_⟩
  · cases p <;> simpa [State.faultOf] using hfault
  · exact u.decideSafe_running _ (hrun.trans h)

theorem exec_heartbeatLoss (s : State) (p : Pair) :
    exec (.heartbeatLoss p) s = .next (if s.pairOk (Pair.other p) then s.haltPair p else s) := by
  cases p <;> rfl

/-- A mismatch halts a pair that runs; with the other pair running, the loss of its heartbeat does the same. -/
theorem exec_lockstepMismatch_halts {s : State} {p : Pair} (h : s.pairOk p = true) :
    ∃ t : State, exec (.lockstepMismatch p) s = .next t ∧ t.pairOk p = false ∧
      t.pairOk (Pair.other p) = s.pairOk (Pair.other p) ∧
      t.faultOf p = (if s.dev.inReset = true ∨ s.asz.vauxBad = true then .hiZ else .low) ∧
      bitAt t.asz.startCauses (Pair.cause p) = true ∧
      (s.running = true → t.asz.safe = true ∧ bitAt t.asz.causes (Pair.cause p) = true) ∧
      (s.pairOk (Pair.other p) = true → exec (.heartbeatLoss p) s = .next t) := by
  obtain ⟨hhalted, hother, hpin, hcause, hsafe⟩ := haltPair_halts h
  exact ⟨_, rfl, hhalted, hother, hpin, hcause, hsafe, fun ho => by rw [exec_heartbeatLoss, if_pos ho]⟩

/-! The close of a watchdog's window (R386, R389). -/

section Watchdog

variable {s : State} {w k : Nat} {p : Nat × Nat × Nat × Nat}

theorem exec_watchdogWindowClose_unset (h : s.wdParams w = none) : exec (.watchdogWindowClose w) s = .next s := by
  show execWatchdogWindowClose w s = _
  unfold execWatchdogWindowClose
  rw [h]

theorem exec_watchdogWindowClose (hp : s.wdParams w = some p) :
    let base := s.tb.mile + p.2.1 + p.2.2.2
    let k := (s.tb.link - base) / p.1
    exec (.watchdogWindowClose w) s = .next (
      if s.tb.link < base || (s.tb.link - base) % p.1 ≠ 0 || !s.judging then s
      else if s.wdArms w p k && !(s.watchdog w).kicked.contains (s.wdOpen p k) then s.wdFaulty w else s) := by
  show execWatchdogWindowClose w s = _
  unfold execWatchdogWindowClose
  rw [hp]

/-- In the link in which window `k` closes. -/
theorem exec_watchdogWindowClose_at (hp : s.wdParams w = some p)
    (hlink : s.tb.link = s.tb.mile + p.2.1 + p.2.2.2 + k * p.1) (hperiod : 0 < p.1) :
    exec (.watchdogWindowClose w) s = .next (
      if s.judging && (s.wdArms w p k && !(s.watchdog w).kicked.contains (s.wdOpen p k)) then s.wdFaulty w else s) := by
  have hofs : s.tb.link - (s.tb.mile + p.2.1 + p.2.2.2) = k * p.1 := by omega
  rw [exec_watchdogWindowClose hp, hofs, Nat.mul_div_cancel _ hperiod]
  cases hj : s.judging
  · rw [if_pos (by simp), if_neg (by simp)]
  · rw [if_neg (by simp; omega), Bool.true_and]

/-- A fault of a watchdog that was none in this link: of watchdogs 0 to 3 it is cause 11, of another without its bit
of wd_safe_mask it raises event 1. -/
theorem wdFaulty_judged (hrun : s.running = true) (hfresh : (s.watchdog w).lastFault ≠ some s.tb.link) :
    bitAt (s.wdFaulty w).asz.wdFault w = true ∧
      (w ≤ 3 → (s.wdFaulty w).asz.safe = true ∧ bitAt (s.wdFaulty w).asz.causes 11 = true) ∧
      (3 < w → bitAt (fieldAt s.asz.params 32 8) w = false →
        (s.wdFaulty w).asz.safe = s.asz.safe ∧ bitAt (s.wdFaulty w).hl.events 1 = true) := by
  obtain ⟨u, hdev, -, -, hsafe, -, hmark, hfault⟩ := State.wdFaulty_fresh hfresh
  rw [hfault]
  refine ⟨?_, fun hw => ?_, fun hw hmask => ?_⟩
  · split <;> simpa using hmark
  · rw [if_pos (by simp [hw])]
    exact u.decideSafe_running 11 ((running_of_dev hdev).trans hrun)
  · rw [if_neg (by simp [hw, hmask])]
    exact ⟨by simpa using hsafe, u.raiseEvent_event 1⟩

end Watchdog

/-! Clock, parameters and hold count (R335, R403, R407). -/

theorem exec_clockFault (s : State) :
    exec .clockFault s = .next ((s.onTb fun t => { t with clockInternal := true }).decideSafe 19) := rfl

theorem exec_safetyParamsLost (s : State) : exec .safetyParamsLost s = .next (
    if s.running then (s.onAsz fun a => { a with paramsValid := false }).decideSafe 23
    else s.onAsz fun a => { a with paramsValid := false }) := rfl

theorem exec_holdLimitReached (s : State) : exec .holdLimitReached s = .next (
    if s.running && !s.asz.safe && s.sol.holdLimit ≤ s.sol.holdRun then s.decideSafe 8 else s) := rfl

section Causes

variable {s : State}

theorem exec_clockFault_decides (hrun : s.running = true) (hsafe : s.asz.safe = false) :
    ∃ t : State, exec .clockFault s = .next t ∧ t.tb.clockInternal = true ∧ t.asz.safe = true ∧
      t.asz.firstCause = 19 ∧ t.asz.entryLink = s.tb.link ∧ t.asz.entryPending = true := by
  obtain ⟨hentered, hcause, hlink, hpending⟩ :=
    State.decideSafe_first (s := s.onTb fun t => { t with clockInternal := true }) 19 hrun hsafe
  exact ⟨_, exec_clockFault s, by simp, hentered, hcause, hlink, hpending⟩

/-- Outside RUN and REPLAY the cause is latched for the next start. -/
theorem exec_clockFault_idle (hrun : s.running = false) (hmode : s.dev.mode ≠ .replay) :
    ∃ t : State, exec .clockFault s = .next t ∧ t.tb.clockInternal = true ∧ t.asz.safe = s.asz.safe ∧
      bitAt t.asz.startCauses 19 = true := by
  obtain ⟨-, -, hlatched, -⟩ :=
    (s.onTb fun t => { t with clockInternal := true }).decideSafe_latches (c := 19) (by decide)
  have hidle := State.decideSafe_idle (s := s.onTb fun t => { t with clockInternal := true }) 19 hmode hrun
  exact ⟨_, exec_clockFault s, by simp, by rw [hidle]; rfl, hlatched⟩

theorem exec_safetyParamsLost_decides (hrun : s.running = true) (hsafe : s.asz.safe = false) :
    ∃ t : State, exec .safetyParamsLost s = .next t ∧ t.asz.paramsValid = false ∧ t.asz.firstCause = 23 := by
  obtain ⟨-, hcause, -⟩ :=
    State.decideSafe_first (s := s.onAsz fun a => { a with paramsValid := false }) 23 hrun hsafe
  exact ⟨_, by rw [exec_safetyParamsLost, if_pos hrun], by simp, hcause⟩

theorem exec_holdLimitReached_decides (hrun : s.running = true) (hsafe : s.asz.safe = false)
    (hhold : s.sol.holdLimit ≤ s.sol.holdRun) : ∃ t : State, exec .holdLimitReached s = .next t ∧
      t.asz.safe = true ∧ t.asz.firstCause = 8 ∧ t.asz.entryPending = true := by
  obtain ⟨hentered, hcause, -, hpending⟩ := State.decideSafe_first 8 hrun hsafe
  exact ⟨_, by rw [exec_holdLimitReached, if_pos (by simp [hrun, hsafe, hhold])], hentered, hcause, hpending⟩

theorem exec_holdLimitReached_idle (h : s.running = false ∨ s.asz.safe = true ∨ s.sol.holdRun < s.sol.holdLimit) :
    exec .holdLimitReached s = .next s := by
  rw [exec_holdLimitReached, if_neg]
  rcases h with h | h | h <;> simp [h]

end Causes

/-! Supply samples (R403, R557, R558, R568). -/

/-- The later sample of VAUX says whether the fault outputs are driven. -/
def State.sampleVaux (s : State) (rail second : Nat) : State :=
  if rail = 15 then (s.onAsz fun a => { a with vauxBad := !s.railGood 15 second }).driveSafe else s

theorem sampleVaux_leaves (s : State) (rail second : Nat) :
    let u := s.sampleVaux rail second
    u.tb = s.tb ∧ u.dev = s.dev ∧ u.mem = s.mem ∧ u.asz.safe = s.asz.safe ∧ u.asz.causes = s.asz.causes ∧
      ∀ x, u.railGood rail x = s.railGood rail x := by
  unfold State.sampleVaux
  split <;> exact ⟨rfl, rfl, rfl, rfl, rfl, fun _ => rfl⟩

theorem exec_supplyFault (s : State) (rail first second : Nat) :
    exec (.supplyFault ⟨rail, first, second⟩) s = .next (
      if rail < 4 && !(s.dramAt rail).inService then s
      else if s.railGood rail first || s.railGood rail second then s.sampleVaux rail second
      else ((s.sampleVaux rail second).decideSafe 20).driveSafe) := by
  obtain ⟨-, -, -, -, -, hgood⟩ := sampleVaux_leaves s rail second
  rw [← hgood first, ← hgood second]
  rfl

section Supply

variable {s : State} {rail first second : Nat}

theorem exec_supplyFault_unwatched (hrail : rail < 4) (h : (s.dramAt rail).inService = false) :
    exec (.supplyFault ⟨rail, first, second⟩) s = .next s := by
  rw [exec_supplyFault, if_pos (by simp [hrail, h])]

theorem exec_supplyFault_good (h : s.railGood rail first = true ∨ s.railGood rail second = true) :
    exec (.supplyFault ⟨rail, first, second⟩) s = .next (
      if rail < 4 && !(s.dramAt rail).inService then s else s.sampleVaux rail second) := by
  rw [exec_supplyFault, if_pos (c := (_ || _) = true) (by simpa using h)]

theorem exec_supplyFault_bad (hservice : rail < 4 → (s.dramAt rail).inService = true)
    (hfirst : s.railGood rail first = false) (hsecond : s.railGood rail second = false) :
    exec (.supplyFault ⟨rail, first, second⟩) s = .next ((s.sampleVaux rail second).decideSafe 20).driveSafe := by
  rw [exec_supplyFault, if_neg, if_neg (by simp [hfirst, hsecond])]
  simpa using hservice

/-- In RUN two samples outside the window enter the safe state; without VAUX the outputs float. -/
theorem exec_supplyFault_decides (hrun : s.running = true) (hsafe : s.asz.safe = false)
    (hservice : rail < 4 → (s.dramAt rail).inService = true) (hfirst : s.railGood rail first = false)
    (hsecond : s.railGood rail second = false) :
    ∃ t : State, exec (.supplyFault ⟨rail, first, second⟩) s = .next t ∧ t.asz.safe = true ∧ t.asz.firstCause = 20 ∧
      t.asz.entryPending = true ∧ (rail = 15 → t.asz.vauxBad = true ∧ t.pins.faultA = .hiZ ∧
        t.pins.faultB = .hiZ ∧ t.pins.safeState = .hiZ) := by
  obtain ⟨-, hdev, -, hsafe', -⟩ := sampleVaux_leaves s rail second
  obtain ⟨hentered, hcause, -, hpending⟩ := State.decideSafe_first (s := s.sampleVaux rail second) 20
    ((running_of_dev hdev).trans hrun) (hsafe'.trans hsafe)
  refine ⟨_, exec_supplyFault_bad hservice hfirst hsecond, hentered, hcause, hpending, ?_⟩
  rintro rfl
  have hvaux : ((s.sampleVaux 15 second).decideSafe 20).asz.vauxBad = true := by
    simp [State.sampleVaux, hsecond]
  exact ⟨hvaux, driveSafe_floats hvaux⟩

/-- VAUX with a good sample: only the drive of the outputs follows the later one. -/
theorem exec_supplyFault_vaux (h : s.railGood 15 first = true ∨ s.railGood 15 second = true) :
    ∃ t : State, exec (.supplyFault ⟨15, first, second⟩) s = .next t ∧ t.asz.vauxBad = !s.railGood 15 second ∧
      t.asz.safe = s.asz.safe ∧ t.asz.causes = s.asz.causes ∧
      (t.pins.faultA = .hiZ ↔ s.dev.inReset = true ∨ s.railGood 15 second = false) := by
  refine ⟨_, exec_supplyFault_good h, rfl, rfl, rfl, ?_⟩
  refine (faultPin_hiZ_iff (s.onAsz fun a => { a with vauxBad := !s.railGood 15 second }) _).trans ?_
  simp

/-- Outside RUN and REPLAY the safe state is not entered, and memory is as it was. -/
theorem exec_supplyFault_idle (hrun : s.running = false) (hsafe : s.asz.safe = false) (hmode : s.dev.mode ≠ .replay)
    (hfirst : s.railGood rail first = false) (hsecond : s.railGood rail second = false) :
    ∃ t : State, exec (.supplyFault ⟨rail, first, second⟩) s = .next t ∧ t.asz.safe = false ∧ t.mem = s.mem := by
  by_cases hservice : rail < 4 → (s.dramAt rail).inService = true
  · obtain ⟨-, hdev, hmem, hsafe', -⟩ := sampleVaux_leaves s rail second
    refine ⟨_, exec_supplyFault_bad hservice hfirst hsecond, ?_⟩
    rw [State.decideSafe_idle 20 (by rwa [hdev]) ((running_of_dev hdev).trans hrun)]
    exact ⟨hsafe'.trans hsafe, hmem⟩
  · obtain ⟨hrail, hout⟩ := Classical.not_imp.mp hservice
    exact ⟨s, exec_supplyFault_unwatched hrail (by simpa using hout), hsafe, rfl⟩

end Supply

/-! The statement. -/

/-- Settles O52: pairs by `haltPair_halts`, watchdogs by `wdFaulty_judged`, each other monitor by its equation and what
a cause does (`State.decideSafe_first`, `State.decideSafe_later`, `State.decideSafe_idle`). -/
theorem monitorsDecideTheSafeState : Obligations.MonitorsDecideTheSafeState := by
  refine ⟨fun s => exec_lockstepMismatch_halts (p := .a), fun s => exec_lockstepMismatch_halts (p := .b),
    fun s => ⟨fun hb => ?_, fun ha => ?_⟩,
    fun s w k p hp _ _ hlink hperiod hrun hpairA harms hkick hfresh => ⟨s.wdFaulty w, ?_, wdFaulty_judged hrun hfresh⟩,
    fun s w k p hp hlink hperiod h => ?_, fun s w p hp h => ?_, fun s w => exec_watchdogWindowClose_unset,
    fun s hrun hsafe => ⟨exec_clockFault_decides hrun hsafe, fun _ _ _ => exec_supplyFault_decides hrun hsafe,
      exec_safetyParamsLost_decides hrun hsafe, exec_holdLimitReached_decides hrun hsafe⟩,
    fun s c => State.decideSafe_later c,
    fun s rail first second => ⟨exec_supplyFault_unwatched, fun hrail hgood => ?_, exec_supplyFault_vaux,
      exec_supplyFault_idle⟩,
    fun s hrun hmode => ⟨exec_clockFault_idle hrun hmode, ?_, exec_holdLimitReached_idle (.inl hrun)⟩,
    fun s => ⟨exec_clockFault s, fun hrun => ?_, fun h => exec_holdLimitReached_idle (.inr h)⟩⟩
  · rw [exec_heartbeatLoss, if_neg (by simp [State.pairOk, Pair.other, hb])]
  · rw [exec_heartbeatLoss, if_neg (by simp [State.pairOk, Pair.other, ha])]
  · have hjudging : s.judging = true := by simp [State.judging, hrun, hpairA]
    rw [exec_watchdogWindowClose_at hp hlink hperiod, if_pos (by rw [hjudging, harms, hkick]; rfl)]
  · rw [exec_watchdogWindowClose_at hp hlink hperiod, if_neg]
    rcases h with h | h | h <;> simp only [h] <;> simp
  · rw [exec_watchdogWindowClose hp, if_pos]
    rcases h with h | h <;> simp [h]
  · rw [exec_supplyFault_good hgood, State.sampleVaux, if_neg hrail, ite_self]
  · rw [exec_safetyParamsLost, if_neg (by simp [hrun])]
  · rw [exec_safetyParamsLost, if_pos hrun]

end Sys2Proof.Machine
end

section
/-! The front command, the empty queue, and what every step keeps: the queue, the sizes of the tables, the safe state and
the loss of a pair. O1, O2, O3, O5, O6, O9, O10. -/

namespace Sys2Proof.Machine

open Sys2Proof.Safety

/-- Settles O1: `step` reads the front of the queue. -/
theorem stepRunsTheFrontCommand : Obligations.StepRunsTheFrontCommand := fun _ _ => rfl

theorem step_idle {s : State} (h : s.pending = []) : step s = .next s := by
  unfold step
  rw [h]

/-- A run goes on from the state that its first step answers. -/
theorem run_succ {M : Host.Core} {s t : M.State} (k : Nat) (h : M.step s = .next t) : M.run (k + 1) s = M.run k t := by
  rw [Host.Core.run, h]

/-- Settles O2, by induction on the number of steps: none of them changes the state. -/
theorem emptyQueueIdles : Obligations.EmptyQueueIdles := by
  intro s k h
  induction k with
  | zero => rfl
  | succ k ih => exact (run_succ (M := Sys2Proof.core) k (step_idle h)).trans ih

/-- Settles O3: `exec_keeps` answers a next state, with the queue kept. -/
theorem execLeavesTheQueue : Obligations.ExecLeavesTheQueue := by
  intro c s
  obtain ⟨t, ht, hkept⟩ := exec_keeps c s
  exact ⟨t, ht, hkept.pending⟩

/-- A step keeps the sizes as its front command does (`Kept.shaped`); with an empty queue nothing changes. -/
theorem step_shaped {s t : State} (hs : Shaped s) (h : step s = .next t) : Shaped t := by
  unfold step at h
  split at h
  · cases h
    exact hs
  · exact (exec_kept h).shaped hs

/-- Settles O5: every command of the table keeps the sizes. -/
theorem tablesKeepTheirSizes : Obligations.TablesKeepTheirSizes := fun _ _ hs h => step_shaped hs h

/-- Settles O6: the defaults of the state's fields are canonical, of the stated sizes, and hold no command. -/
theorem resetMeetsTheInvariants : Obligations.ResetMeetsTheInvariants := by
  refine ⟨rfl, ?_, rfl⟩
  unfold Shaped
  decide +kernel

/-- The commands that may end the safe state are those that the manual names. -/
theorem exempt_safe_of_not_named {c : Instr} (hrelease : c ≠ .safeReleaseEffect) (hmode : ∀ x, c ≠ .devMode x)
    (hreset : c ≠ .resetAssert) (hpower : c ≠ .powerLoss) (hwrite : ∀ v, c ≠ .devResetWrite v) :
    (exempt c).safe = false := by
  unfold exempt
  split
  case h_1 => exact absurd rfl (hmode _)
  case h_7 => exact absurd rfl hrelease
  case h_8 => exact absurd rfl hreset
  case h_9 => exact absurd rfl hpower
  case h_10 => exact absurd rfl (hwrite _)
  all_goals rfl

/-- Settles O9: `exec_kept` for a command whose exemption does not let the safe state go. -/
theorem safeStateEndsOnlyWhereNamed : Obligations.SafeStateEndsOnlyWhereNamed := by
  intro c s t h hsafe hrelease hmode hreset hpower hwrite
  have hx := exempt_safe_of_not_named hrelease hmode hreset hpower hwrite
  exact (exec_kept h).safe.resolve_left (by simp [hx]) hsafe

/-- Only a reset brings a halted pair back. -/
theorem exempt_pairs_of_no_reset {c : Instr} (hreset : c ≠ .resetAssert) (hpower : c ≠ .powerLoss)
    (hwrite : ∀ v, c ≠ .devResetWrite v) : (exempt c).pairs = false := by
  unfold exempt
  split
  case h_8 => exact absurd rfl hreset
  case h_9 => exact absurd rfl hpower
  case h_10 => exact absurd rfl (hwrite _)
  all_goals rfl

/-- Settles O10: `exec_kept` for a command whose exemption does not let the pairs go. -/
theorem lostPairStaysLost : Obligations.LostPairStaysLost := by
  intro c s t h hreset hpower hwrite
  have hx : ¬(exempt c).pairs = true := by simp [exempt_pairs_of_no_reset hreset hpower hwrite]
  have hkept := exec_kept h
  exact ⟨hkept.pairA.resolve_left hx, hkept.pairB.resolve_left hx⟩

end Sys2Proof.Machine
end

section
/-! Doorbells and context 0: what a write to their registers does to a context (R415 to R420, R550 to R552). O15, O19. -/

namespace Sys2Proof.Machine

open Sys2Proof.Safety

/-! The context table. -/

theorem ctx_onCtx_ne (s : State) {j k : Nat} (h : j ≠ k) (f : Ctx → Ctx) : (s.onCtx k f).ctx j = s.ctx j := by
  have hmodify : (s.hl.ctxs.modify k f)[j]? = s.hl.ctxs[j]? := by simp [Ne.symm h]
  unfold State.onCtx
  split
  · next hk => simp [State.ctx, hk ▸ h]
  · simp [State.ctx, hmodify]

theorem in_ctxs_of_shaped {s : State} {k : Nat} (h : Shaped s) (hk : k < 256) : k = 256 ∨ k < s.hl.ctxs.length := by
  obtain ⟨⟨hctxs, -⟩, -⟩ := h
  omega

@[simp] theorem ctx_hostRuns (s : State) (runs : List HostRun) (k : Nat) : (s.hostRuns runs).ctx k = s.ctx k :=
  foldl_keeps (fun u : State => u.ctx k) (fun u r => by split <;> rfl) _ _

theorem KeepsBlocks.hostRuns (s : State) (runs : List HostRun) : KeepsBlocks s (s.hostRuns runs) :=
  KeepsBlocks.foldl _ (fun _ _ hu => .ite (hu.write _ _) hu) _ _ (.refl s)

theorem ctxs_length_hostRuns (s : State) (runs : List HostRun) : (s.hostRuns runs).hl.ctxs.length = s.hl.ctxs.length :=
  foldl_keeps (fun u : State => u.hl.ctxs.length) (fun u r => by split <;> rfl) _ _

/-- An update of one context: it becomes what the update makes of it, and nothing else changes. -/
theorem onCtx_only {s : State} {k : Nat} (h : k = 256 ∨ k < s.hl.ctxs.length) (f : Ctx → Ctx) :
    (s.onCtx k f).ctx k = f (s.ctx k) ∧ (∀ j, j ≠ k → (s.onCtx k f).ctx j = s.ctx j) ∧ (s.onCtx k f).mem = s.mem ∧
      KeepsBlocks s (s.onCtx k f) :=
  ⟨ctx_onCtx_same h f, fun _ hj => ctx_onCtx_ne s hj f, by simp, (KeepsBlocks.refl s).onCtx k f⟩

/-! Doorbells (R415, R418, R420). -/

section Doorbells

variable {s : State} {k v : Nat}

theorem exec_sqDoorbell_good (hopen : (s.ctx k).isOpen = true) (hv : v < 2 ^ (s.ctx k).sqLog) (host : List HostRun) :
    exec (.sqDoorbell k v host) s = .next ((s.hostRuns host).onCtx k fun x => { x with sqTail := v }) := by
  show execSqDoorbell k v host s = _
  simp [execSqDoorbell, hopen, hv]

theorem exec_sqDoorbell_bad (h : (s.ctx k).isOpen = false ∨ 2 ^ (s.ctx k).sqLog ≤ v) (host : List HostRun) :
    exec (.sqDoorbell k v host) s = .next ((s.hostRuns host).onCtx k doorbellError) := by
  show execSqDoorbell k v host s = _
  rcases h with h | h
  · simp [execSqDoorbell, h]
  · simp [execSqDoorbell, Nat.not_lt.mpr h]

/-- The context with its completion head moved, its message rearmed. -/
def Ctx.rearmed (v : Nat) (x : Ctx) : Ctx := { x with cqHead := v, msgSent := false, stalled := false }

theorem exec_cqDoorbell_good (hin : k = 256 ∨ k < s.hl.ctxs.length) (hopen : (s.ctx k).isOpen = true)
    (hv : v < 2 ^ (s.ctx k).cqLog) (hwait : (s.ctx k).waiting = []) :
    exec (.cqDoorbell k v) s = .next (s.onCtx k (Ctx.rearmed v)) := by
  have hnone : ((s.onCtx k (Ctx.rearmed v)).ctx k).waiting = [] := by rw [ctx_onCtx_same hin]; exact hwait
  have hflush : (s.onCtx k (Ctx.rearmed v)).flushRing k = s.onCtx k (Ctx.rearmed v) := by
    rw [State.flushRing, hnone]
    rfl
  show execCqDoorbell k v s = _
  rw [execCqDoorbell, if_pos (by simp [hopen, hv])]
  exact congrArg _ hflush

theorem exec_cqDoorbell_bad (h : (s.ctx k).isOpen = false ∨ 2 ^ (s.ctx k).cqLog ≤ v) :
    exec (.cqDoorbell k v) s = .next (s.onCtx k doorbellError) := by
  show execCqDoorbell k v s = _
  rcases h with h | h
  · simp [execCqDoorbell, h]
  · simp [execCqDoorbell, Nat.not_lt.mpr h]

/-- A submission doorbell takes the host's writes into memory and updates its context alone. -/
theorem sqDoorbell_only (hs : Shaped s) (hk : k < 256) (host : List HostRun) (f : Ctx → Ctx) :
    ((s.hostRuns host).onCtx k f).ctx k = f (s.ctx k) ∧
      (∀ j, j ≠ k → ((s.hostRuns host).onCtx k f).ctx j = s.ctx j) ∧
      ((s.hostRuns host).onCtx k f).mem = (s.hostRuns host).mem ∧ KeepsBlocks s ((s.hostRuns host).onCtx k f) := by
  have hin : k = 256 ∨ k < (s.hostRuns host).hl.ctxs.length := by
    rw [ctxs_length_hostRuns]
    exact in_ctxs_of_shaped hs hk
  obtain ⟨hself, hother, hmem, hblocks⟩ := onCtx_only hin f
  simp only [ctx_hostRuns] at hself hother
  exact ⟨hself, hother, hmem, (KeepsBlocks.hostRuns s host).trans hblocks⟩

end Doorbells

/-- Settles O15: each doorbell updates its context alone (`onCtx_only`, `sqDoorbell_only`). -/
theorem doorbellsMoveTheirRings : Obligations.DoorbellsMoveTheirRings :=
  ⟨fun _ _ _ host hs hk hopen hv => ⟨_, exec_sqDoorbell_good hopen hv host, sqDoorbell_only hs hk host _⟩,
    fun _ _ _ host hs hk h => ⟨_, exec_sqDoorbell_bad h host, sqDoorbell_only hs hk host _⟩,
    fun _ _ _ hs hk hopen hv hwait => ⟨_, exec_cqDoorbell_good (in_ctxs_of_shaped hs hk) hopen hv hwait,
      onCtx_only (in_ctxs_of_shaped hs hk) _⟩,
    fun _ _ _ hs hk h => ⟨_, exec_cqDoorbell_bad h, onCtx_only (in_ctxs_of_shaped hs hk) _⟩⟩

/-! Context 0 (R550 to R552). -/

section ContextZero

variable {s : State} {v : Nat}

/-- HL_CTX0_CFG with enable set, as `enableCtx0` leaves it beside the settings. -/
def State.enabledCfg (s : State) (v : Nat) : State := s.onHl fun h => { h with
  ctx0Cfg := 0x80000000 + (if bitAt h.ctx0Cfg 30 && !bitAt v 30 then 0x40000000 else 0) + (v &&& 0x00FFFFFF) }

theorem enableCtx0_good (h : ctx0Ok s.hl.ctx0Sq s.hl.ctx0Cq (v &&& 0x00FFFFFF) = true) : s.enableCtx0 v =
    (s.enabledCfg v).onCtx 0 fun x => openCtx x s.hl.ctx0Sq s.hl.ctx0Cq ((v &&& 0x00FFFFFF) % 256)
      (bitsOf (v &&& 0x00FFFFFF) 15 8) (bitsOf (v &&& 0x00FFFFFF) 23 16) := if_pos h

theorem enableCtx0_bad (h : ctx0Ok s.hl.ctx0Sq s.hl.ctx0Cq (v &&& 0x00FFFFFF) = false) : s.enableCtx0 v =
    s.onHl fun h => { h with ctx0Cfg := 0x40000000 + (v &&& 0x00FFFFFF) } :=
  if_neg (by simp [h])

/-- HL_CTX0_CFG with enable cleared. -/
def State.disabledCfg (s : State) : State := s.onHl fun h => { h with ctx0Cfg := h.ctx0Cfg % 2 ^ 31 }

/-- A context that its register closed (R552). -/
def Ctx.shut (x : Ctx) : Ctx := { x with
  isOpen := false, sqHead := x.sqTail, waiting := [], stalled := false, muteBelow := x.nextSeq
  slots := x.slots.filter fun sl => sl.state ≠ .completing }

theorem disableCtx0_eq (s : State) : s.disableCtx0 = s.disabledCfg.onCtx 0 Ctx.shut := rfl

theorem bitAt_enable (v : Nat) : bitAt (v ||| 0x80000000) 31 = true := by
  rw [bitAt, Nat.testBit_or]
  simp [show Nat.testBit 0x80000000 31 = true by decide]

theorem exec_ctx0Enable_closed (h : bitAt s.hl.ctx0Cfg 31 = false) (v : Nat) :
    exec (.ctx0Enable v) s = .next (s.enableCtx0 (v ||| 0x80000000)) := by
  show execCtx0Enable v s = _
  rw [execCtx0Enable, State.writeCtx0Cfg, if_neg (by simp [h]), if_pos (bitAt_enable v)]

theorem exec_ctx0Enable_open (h : bitAt s.hl.ctx0Cfg 31 = true) (v : Nat) : exec (.ctx0Enable v) s = .next s := by
  show execCtx0Enable v s = _
  rw [execCtx0Enable, State.writeCtx0Cfg, if_pos h, if_pos (bitAt_enable v)]

theorem exec_ctx0Disable_closed (h : bitAt s.hl.ctx0Cfg 31 = false) (hv : bitAt (v % 2 ^ 31) 31 = false) :
    exec (.ctx0Disable v) s = .next (s.onHl fun h => { h with
      ctx0Cfg := (if bitAt h.ctx0Cfg 30 && !bitAt (v % 2 ^ 31) 30 then 0x40000000 else 0) +
        (v % 2 ^ 31 &&& 0x00FFFFFF) }) := by
  show execCtx0Disable v s = _
  rw [execCtx0Disable, State.writeCtx0Cfg, if_neg (by simp [h]), if_neg (ne_true_of_eq_false hv)]

theorem exec_ctx0Disable_open (h : bitAt s.hl.ctx0Cfg 31 = true) (hv : bitAt (v % 2 ^ 31) 31 = false) :
    exec (.ctx0Disable v) s = .next s.disableCtx0 := by
  show execCtx0Disable v s = _
  rw [execCtx0Disable, State.writeCtx0Cfg, if_pos h, if_neg (ne_true_of_eq_false hv)]

end ContextZero

/-- Settles O19: `enableCtx0` and `disableCtx0` write HL_CTX0_CFG and update context 0. -/
theorem contextZeroOpensByItsRegister : Obligations.ContextZeroOpensByItsRegister := by
  have hin {u s : State} (hs : Shaped s) (h : u.hl.ctxs = s.hl.ctxs) : 0 = 256 ∨ 0 < u.hl.ctxs.length := by
    rw [h]
    exact in_ctxs_of_shaped hs (by decide)
  refine ⟨fun s v hs hclosed hok => ?_, fun s v hclosed hok => ?_, fun s v hopen _ => exec_ctx0Enable_open hopen v,
    fun s v hclosed hv => exec_ctx0Disable_closed hclosed hv, fun s v hs hopen hv => ?_⟩
  · obtain ⟨hctx, -, hmem, hblocks⟩ := onCtx_only (s := s.enabledCfg (v ||| 0x80000000)) (hin hs rfl)
      fun x => openCtx x s.hl.ctx0Sq s.hl.ctx0Cq (((v ||| 0x80000000) &&& 0x00FFFFFF) % 256)
        (bitsOf ((v ||| 0x80000000) &&& 0x00FFFFFF) 15 8) (bitsOf ((v ||| 0x80000000) &&& 0x00FFFFFF) 23 16)
    refine ⟨_, (exec_ctx0Enable_closed hclosed v).trans (congrArg _ (enableCtx0_good hok)), ?_, ?_, ?_, ?_, ?_, ?_, ?_, hmem,
      KeepsBlocks.trans ((KeepsBlocks.refl s).onHl _) hblocks⟩ <;> rw [hctx] <;> rfl
  · exact ⟨_, (exec_ctx0Enable_closed hclosed v).trans (congrArg _ (enableCtx0_bad hok)), rfl, rfl, rfl,
      (KeepsBlocks.refl s).onHl _⟩
  · obtain ⟨hctx, -, hmem, hblocks⟩ := onCtx_only (s := s.disabledCfg) (hin hs rfl) Ctx.shut
    exact ⟨_, exec_ctx0Disable_open hopen hv, by rw [disableCtx0_eq, hctx]; rfl, by rw [disableCtx0_eq, hctx]; rfl,
      by rw [disableCtx0_eq, hctx]; rfl, rfl, hmem, ((KeepsBlocks.refl s).onHl _).trans hblocks⟩

end Sys2Proof.Machine
end

section
/-! The completion of a command: its entry, its place, and what else it changes (R415, R418, R419, R424, R428). O17. -/

namespace Sys2Proof.Machine

open Sys2Proof.Safety

theorem in_ctxs_onCtx {s : State} {j : Nat} (h : j = 256 ∨ j < s.hl.ctxs.length) {k : Nat} {f : Ctx → Ctx} :
    j = 256 ∨ j < (s.onCtx k f).hl.ctxs.length := by
  unfold State.onCtx
  split
  · exact h
  · simpa using h

section Entry

variable {s : State}

/-- No slot of fault injection holds a unit back (R538). -/
theorem held_uninjected (h : Uninjected s) (i : Nat) : (s.fi.getD i {}).held = none := by
  rw [List.getD_eq_getElem?_getD]
  cases hi : s.fi[i]? with
  | none => rfl
  | some j =>
    have hj := List.all_eq_true.mp h j (List.mem_of_getElem? hi)
    simp_all

/-- Without injection an entry is written where it belongs, at once (R428). -/
theorem writeEntry_uninjected (h : Uninjected s) (ring addr : Nat) (bs : List Byte) :
    s.writeEntry ring addr bs = (s.bump.write addr bs).hostRequest 7 true addr 64 := by
  unfold State.writeEntry
  simp only [inject_uninjected h, held_uninjected h]
  simp

@[simp] theorem ctx_sendVector (s : State) (v k : Nat) : (s.sendVector v).ctx k = s.ctx k := by
  unfold State.sendVector
  split <;> rfl

@[simp] theorem ctx_hostRequest (s : State) (engine : Nat) (write : Bool) (a n k : Nat) :
    (s.hostRequest engine write a n).ctx k = s.ctx k :=
  ctx_of_carried (s.hostRequest_carries engine write a n).1 k

theorem ctxs_of_carried {s t : State} (h : t.offCarry = s.offCarry) : t.hl.ctxs = s.hl.ctxs :=
  show t.offCarry.hl.ctxs = s.offCarry.hl.ctxs by rw [h]

/-- Place of a completion in its ring. -/
def Ctx.entryAddr (x : Ctx) : Nat := x.cqAddr + 64 * x.cqTail

/-- The 64 bytes of a completion as the context writes it now. -/
def State.completionEntry (s : State) (x : Ctx) (c : Completion) : List Byte := entryBytes c s.tsNow x.sqHead x.phase

/-- The state with an entry written by engine 7. -/
def State.entryPut (s : State) (a : Nat) (bs : List Byte) : State := ((s.bump.write a bs).hostRequest 7 true a 64).bump

theorem entryPut_cells (s : State) (a : Nat) (bs : List Byte) :
    (s.entryPut a bs).mem.cells = cellsPut s.mem.cells a bs := by
  rw [State.entryPut, State.bump_mem, (State.hostRequest_carries ..).2]
  rfl

theorem entryPut_ctxs (s : State) (a : Nat) (bs : List Byte) : (s.entryPut a bs).hl.ctxs = s.hl.ctxs :=
  ctxs_of_carried ((s.bump.write a bs).hostRequest_carries 7 true a 64).1

theorem entryPut_ctx (s : State) (a : Nat) (bs : List Byte) (k : Nat) : (s.entryPut a bs).ctx k = s.ctx k :=
  ctx_hostRequest ..

/-- The state with a completion's entry written and its context moved on. -/
def State.entered (s : State) (ring : Nat) (c : Completion) : State :=
  (s.entryPut (s.ctx ring).entryAddr (s.completionEntry (s.ctx ring) c)).onCtx ring (Ctx.afterEntry c)

theorem writeCompletion_uninjected (h : Uninjected s) (ring : Nat) (c : Completion) : s.writeCompletion ring c =
    if (s.ctx ring).vector ≠ 0xFF ∧ !(s.ctx ring).msgSent then
      ((s.entered ring c).onCtx ring fun x => { x with msgSent := true }).sendVector (s.ctx ring).vector
    else s.entered ring c := by
  unfold State.writeCompletion
  dsimp only
  rw [writeEntry_uninjected h]
  rfl

theorem entered_cells (s : State) (ring : Nat) (c : Completion) : (s.entered ring c).mem.cells =
    cellsPut s.mem.cells (s.ctx ring).entryAddr (s.completionEntry (s.ctx ring) c) := by
  rw [State.entered, State.onCtx_mem, entryPut_cells]

theorem entered_ctx {ring : Nat} (hin : ring = 256 ∨ ring < s.hl.ctxs.length) (c : Completion) :
    (s.entered ring c).ctx ring = (s.ctx ring).afterEntry c ∧ ∀ j, j ≠ ring → (s.entered ring c).ctx j = s.ctx j :=
  ⟨(ctx_onCtx_same (by rwa [entryPut_ctxs]) _).trans (congrArg _ (entryPut_ctx ..)),
    fun _ hj => (ctx_onCtx_ne _ hj _).trans (entryPut_ctx ..)⟩

theorem entered_in_ctxs {ring : Nat} (hin : ring = 256 ∨ ring < s.hl.ctxs.length) (c : Completion) :
    ring = 256 ∨ ring < (s.entered ring c).hl.ctxs.length :=
  in_ctxs_onCtx (by rwa [entryPut_ctxs])

/-- Without injection a completion writes its entry and moves its context on (R418, R419, R424). -/
theorem writeCompletion_only (h : Uninjected s) {ring : Nat} (hin : ring = 256 ∨ ring < s.hl.ctxs.length)
    (c : Completion) : (s.writeCompletion ring c).mem.cells =
        cellsPut s.mem.cells (s.ctx ring).entryAddr (s.completionEntry (s.ctx ring) c) ∧
      (∃ m, (s.writeCompletion ring c).ctx ring = { (s.ctx ring).afterEntry c with msgSent := m }) ∧
      ∀ j, j ≠ ring → (s.writeCompletion ring c).ctx j = s.ctx j := by
  obtain ⟨hself, hother⟩ := entered_ctx hin c
  rw [writeCompletion_uninjected h]
  split
  · refine ⟨?_, ⟨true, ?_⟩, fun j hj => ?_⟩
    · rw [State.sendVector_mem, State.onCtx_mem, entered_cells]
    · rw [ctx_sendVector, ctx_onCtx_same (entered_in_ctxs hin c), hself]
    · rw [ctx_sendVector, ctx_onCtx_ne _ hj, hother j hj]
  · exact ⟨entered_cells s ring c, ⟨_, hself⟩, hother⟩

end Entry

section Produce

variable {s : State} {ring : Nat} {x : Completion}

/-- The context with a completion produced that waits to be written (R418). -/
def Ctx.produced (c : Completion) (x : Ctx) : Ctx := { x with
  waiting := x.waiting ++ [c]
  slots := x.slots.map fun sl => if c.settles && sl.seq = c.seq then { sl with state := .completing } else sl }

/-- A completion of an open context that takes it is written as far as R418 and R426 allow. -/
theorem produce_taken (hring : ring ≠ 256) (hopen : (s.ctx ring).isOpen = true) (hclosing : (s.ctx ring).closing = false)
    (hmute : (s.ctx ring).muteBelow ≤ x.seq) (hrelease : x.release = false) :
    s.produce ring x = (s.onCtx ring (Ctx.produced x)).flushRing ring := by
  rw [State.produce, if_neg hring]
  dsimp only
  rw [if_neg (by simp [hopen, hclosing, hmute]), if_neg (by simp [hrelease])]
  rfl

/-- The only completion that waits is written, where its ring has room and nothing stands before its command. -/
theorem flushRing_one (hup : s.hl.linkUp = true) (hwait : (s.ctx ring).waiting = [x])
    (hmay : (s.ctx ring).mayWrite x = true) (hroom : (s.ctx ring).cqRoom = true) :
    s.flushRing ring = s.writeCompletion ring x := by
  rw [State.flushRing, hwait]
  show State.flush ring 1 s = _
  rw [State.flush, if_neg (by simp [hup]), hwait]
  simp [hmay, hroom, State.flush]

@[simp] theorem onCtx_tsNow (s : State) (k : Nat) (f : Ctx → Ctx) : (s.onCtx k f).tsNow = s.tsNow := by
  simp [State.tsNow, State.tsAt, State.linkCycles, State.instantNow]

theorem length_entryBytes (c : Completion) (ts sqHead : Nat) (phase : Bool) :
    (entryBytes c ts sqHead phase).length = 64 := by
  simp [entryBytes, length_leBytes]

theorem seqOf_single {c : Cmd} {sl : Slot} (hslots : (s.ctx c.ring).slots = [sl]) (hcmd : sl.cmd = c)
    (hstate : sl.state = .started) : s.seqOf c = sl.seq := by
  simp [State.seqOf, hslots, hcmd, hstate]

/-- The only command of a context is settled as its completion, the only one, is written (R419, R424). -/
theorem afterEntry_produced {x : Ctx} {c : Completion} {sl : Slot} (hslots : x.slots = [sl]) (hwait : x.waiting = [])
    (hseq : c.seq = sl.seq) (hsettles : c.settles = true) :
    ((x.produced c).afterEntry c).slots = [] ∧ ((x.produced c).afterEntry c).waiting = [] ∧
      ((x.produced c).afterEntry c).cqTail = (x.cqTail + 1) % 2 ^ x.cqLog ∧
      ((x.produced c).afterEntry c).phase = if (x.cqTail + 1) % 2 ^ x.cqLog = 0 then !x.phase else x.phase := by
  simp [Ctx.afterEntry, Ctx.produced, Ctx.settle, Ctx.bumpTail, hslots, hwait, hseq, hsettles]

end Produce

/-- Settles O17: the completion is the only one that waits (`produce_taken`, `flushRing_one`), and its writing is
`writeCompletion_only`. -/
theorem completionIsWrittenOnce : Obligations.CompletionIsWrittenOnce := by
  intro s c sl st r0 r1 r2 x t hs huninj hring hopen hclosing hwait hroom hup hslots hcmd hstate hmute
  have hne : c.ring ≠ 256 := by omega
  obtain ⟨y, hy⟩ : ∃ y : Completion, y = { seq := sl.seq, tag := c.tag, status := st, opcode := c.opcode, res0 := r0,
                                           res1 := r1, res2 := r2 } := ⟨_, rfl⟩
  have hin := in_ctxs_of_shaped hs hring
  obtain ⟨u, hu⟩ : ∃ u, u = s.onCtx c.ring (Ctx.produced y) := ⟨_, rfl⟩
  have hctx : u.ctx c.ring = x.produced y := hu ▸ ctx_onCtx_same hin _
  have hwritten : t = u.writeCompletion c.ring y := by
    have hprod : t = s.produce c.ring y := by
      rw [hy, ← seqOf_single hslots hcmd hstate]
      rfl
    rw [hprod, produce_taken hne hopen hclosing (by rw [hy]; exact hmute) (by rw [hy]), ← hu]
    refine flushRing_one (by rw [hu, linkUp_onCtx]; exact hup) ?_ ?_ ?_
    · rw [hctx, Ctx.produced, hwait]
      rfl
    · rw [hctx, Ctx.produced, hslots]
      simp [Ctx.mayWrite, hy]
    · rw [hctx]
      exact hroom
  obtain ⟨hcells, ⟨m, hself⟩, hother⟩ := writeCompletion_only (s := u) (by rw [Uninjected, hu, State.onCtx_fi]; exact huninj)
    (ring := c.ring) (by rw [hu]; exact in_ctxs_onCtx hin) y
  rw [hctx] at hcells hself
  have hentry : u.completionEntry (x.produced y) y = entryBytes y s.tsNow x.sqHead x.phase := by
    rw [State.completionEntry, hu, onCtx_tsNow]
    rfl
  have hbefore : u.mem.cells = s.mem.cells := by rw [hu, State.onCtx_mem]
  obtain ⟨hslot, hnone, htail, hphase⟩ :=
    afterEntry_produced (x := x) (c := y) hslots hwait (by rw [hy]) (by rw [hy])
  rw [hwritten]
  refine ⟨⟨length_entryBytes .., ?_⟩, ?_, ?_, ?_, ?_, fun j hj => ?_, hwritten ▸ (KeepsBlocks.refl s).complete ..⟩
  · rw [hcells, hentry, hbefore, hy]
    rfl
  · rwa [hself]
  · rwa [hself]
  · rwa [hself]
  · rwa [hself]
  · rw [hother j hj, hu, ctx_onCtx_ne _ hj]

end Sys2Proof.Machine
end

section
/-! Registers: reads that latch and clear, and writes (R438, R443, R463, R541 to R553). O21, O22. -/

namespace Sys2Proof.Machine

open Sys2Proof.Safety

/-! Reads (R438, R542, R543, R549). -/

section Reads

variable {s : State} {r off : Nat}

@[simp] theorem latched_setLatch_same (s : State) (r off v : Nat) : (s.setLatch r off v).latched r off = v := by
  simp [State.latched, State.setLatch]

@[simp] theorem latched_setLatch_ne (s : State) {r off i v : Nat} (h : i ≠ off) :
    (s.setLatch r off v).latched r i = s.latched r i := by
  have hkept : (fun x : Nat × Nat × Nat => (!decide (x.1 = r) || !decide (x.2.1 = off)) &&
      (decide (x.1 = r) && decide (x.2.1 = i))) = fun x => decide (x.1 = r) && decide (x.2.1 = i) := by
    funext x
    by_cases hx : x.2.1 = i <;> simp [hx, h]
  simp [State.latched, State.setLatch, Ne.symm h, hkept]

/-- Every register that a list names is latched with its value, whatever was latched before. -/
theorem latched_foldl_setLatch (v : Nat → Nat) {i : Nat} (l : List Nat) : ∀ u : State,
    (i ∈ l ∨ u.latched r i = v i) → (l.foldl (fun x o => x.setLatch r o (v o)) u).latched r i = v i := by
  induction l with
  | nil => exact fun u h => h.resolve_left (by simp)
  | cons o l ih =>
    refine fun u h => ih _ ?_
    by_cases hio : i = o
    · exact .inr (by rw [hio, latched_setLatch_same])
    · rw [latched_setLatch_ne u hio]
      exact h.imp_left fun hm => (List.mem_cons.mp hm).resolve_left hio

theorem latched_latchRead (s : State) (r : Nat) {i : Nat} (h : i ∈ latchedBy off) :
    (s.latchRead r off).latched r i = s.reg i := latched_foldl_setLatch s.reg _ s (.inl h)

/-- What a read that clears leaves: the latches, memory and the mode. -/
def State.besidesRead (s : State) : List (Nat × Nat × Nat) × Memory × Dev := (s.hl.latches, s.mem, s.dev)

theorem besidesRead_eq {s t : State} (hl : t.hl.latches = s.hl.latches) (hmem : t.mem = s.mem) (hdev : t.dev = s.dev) :
    t.besidesRead = s.besidesRead := by
  rw [State.besidesRead, hl, hmem, hdev, State.besidesRead]

theorem besidesRead_onCtx (s : State) (k : Nat) (f : Ctx → Ctx) : (s.onCtx k f).besidesRead = s.besidesRead := by
  refine besidesRead_eq ?_ (by simp) (by simp)
  unfold State.onCtx
  split <;> rfl

/-- A case split leaves what both of its cases leave. -/
theorem besidesRead_ite {c : Prop} [Decidable c] {a b s : State} (ha : a.besidesRead = s.besidesRead)
    (hb : b.besidesRead = s.besidesRead) : (if c then a else b).besidesRead = s.besidesRead := by
  split <;> assumption

theorem clearA_besides (s : State) (off : Nat) : (s.clearA off).besidesRead = s.besidesRead :=
  besidesRead_ite (besidesRead_ite rfl rfl) (besidesRead_ite rfl (besidesRead_ite rfl (besidesRead_ite rfl
    (besidesRead_ite rfl (besidesRead_ite (besidesRead_onCtx ..) rfl)))))

theorem besidesRead_onAsz (s : State) (f : Asz → Asz) : (s.onAsz f).besidesRead = s.besidesRead :=
  rfl
theorem besidesRead_onKv (s : State) (f : Kv → Kv) : (s.onKv f).besidesRead = s.besidesRead :=
  rfl
theorem besidesRead_onPort (s : State) (k : Nat) (f : Port → Port) : (s.onPort k f).besidesRead = s.besidesRead :=
  rfl
theorem besidesRead_onStream (s : State) (k : Nat) (f : Stream → Stream) : (s.onStream k f).besidesRead = s.besidesRead :=
  rfl
theorem besidesRead_onLine (s : State) (k : Nat) (f : Line → Line) : (s.onLine k f).besidesRead = s.besidesRead :=
  rfl
theorem besidesRead_onNode (s : State) (k : Nat) (f : Node → Node) : (s.onNode k f).besidesRead = s.besidesRead :=
  rfl
theorem besidesRead_onCan (s : State) (k : Nat) (f : Can → Can) : (s.onCan k f).besidesRead = s.besidesRead :=
  rfl
theorem besidesRead_onFi (s : State) (k : Nat) (f : Inject → Inject) : (s.onFi k f).besidesRead = s.besidesRead :=
  rfl
theorem besidesRead_onPhys (s : State) (k : Nat) (f : Core → Core) : (s.onPhys k f).besidesRead = s.besidesRead :=
  rfl
theorem besidesRead_onDram (s : State) (k : Nat) (f : Dram → Dram) : (s.onDram k f).besidesRead = s.besidesRead :=
  rfl

theorem clearB_besides (s : State) (off : Nat) : (s.clearB off).besidesRead = s.besidesRead :=
  besidesRead_ite rfl (besidesRead_ite rfl (besidesRead_ite rfl (besidesRead_ite (besidesRead_onAsz ..)
    (besidesRead_ite (besidesRead_onAsz ..) (besidesRead_ite (besidesRead_onKv ..) (besidesRead_ite
      (besidesRead_onPort ..) (besidesRead_ite (besidesRead_onStream ..) rfl)))))))

theorem clearC_besides (s : State) (off : Nat) : (s.clearC off).besidesRead = s.besidesRead :=
  besidesRead_ite (besidesRead_onLine ..) (besidesRead_ite (besidesRead_onNode ..) (besidesRead_ite
    (besidesRead_ite (besidesRead_onCan ..) (besidesRead_ite (besidesRead_onCan ..)
      (besidesRead_ite (besidesRead_onCan ..) rfl)))
    (besidesRead_ite rfl (besidesRead_ite (besidesRead_onFi ..) (besidesRead_ite
      (besidesRead_ite (besidesRead_onPhys ..) (besidesRead_ite (besidesRead_onDram ..)
        (besidesRead_ite (besidesRead_onDram ..) rfl))) rfl)))))

theorem clearRc_besides (s : State) (off : Nat) : (s.clearRc off).besidesRead = s.besidesRead :=
  besidesRead_ite rfl (besidesRead_ite (clearA_besides s off) (besidesRead_ite (clearB_besides s off)
    (clearC_besides s off)))

theorem latchRead_hl (s : State) (r off : Nat) : ∃ l, s.latchRead r off = s.onHl fun h => { h with latches := l } := by
  have hall (v : Nat → Nat) (is : List Nat) : ∀ u : State,
      ∃ l, is.foldl (fun x o => x.setLatch r o (v o)) u = u.onHl fun h => { h with latches := l } := by
    induction is with
    | nil => exact fun u => ⟨_, rfl⟩
    | cons o is ih =>
      intro u
      obtain ⟨l, hl⟩ := ih (u.setLatch r o (v o))
      exact ⟨l, hl⟩
  exact hall s.reg _ s

/-- A read by a client changes its latches alone. -/
theorem busRead_client (h : r ≠ 0) (off : Nat) : ∃ l, s.busRead r off = (s.onHl fun h => { h with latches := l }).bump := by
  obtain ⟨l, hl⟩ := latchRead_hl s r off
  by_cases hoff : off % 4 = 0
  · exact ⟨l, by simp [State.busRead, h, hoff, hl]⟩
  · exact ⟨s.hl.latches, by simp [State.busRead, h, hoff]; rfl⟩

/-- An aligned host read latches, clears and replies. -/
theorem busRead_host (h : off % 4 = 0) :
    s.busRead 0 off = (((s.latchRead 0 off).clearRc off).reply off (s.readReg 0 off)).bump := by
  simp [State.busRead, h]

theorem busRead_latched (hoff : off % 4 = 0) {i : Nat} (hi : i ∈ latchedBy off) :
    (s.busRead r off).latched r i = s.reg i := by
  by_cases hr : r = 0
  · have hlatches : (s.busRead r off).hl.latches = (s.latchRead 0 off).hl.latches := by
      rw [hr, busRead_host hoff]
      exact congrArg Prod.fst (clearRc_besides (s.latchRead 0 off) off)
    rw [State.latched, hlatches, hr]
    exact latched_latchRead s 0 hi
  · have hread : s.busRead r off = (s.latchRead r off).bump := by simp [State.busRead, hr, hoff]
    rw [hread]
    exact latched_latchRead s r hi

/-- The blocks that hardware serves read their values in every mode (R544). -/
theorem reg_early (h : servedEarly off = true) : s.reg off = s.blockReg off := by simp [State.reg, h]

theorem busRead_reply (hoff : off % 4 = 0) : (s.busRead 0 off).hl.bus = { data := leBytes 4 (s.readReg 0 off) } := by
  rw [busRead_host hoff]
  simp [State.reply, hoff]

theorem besidesRead_reply (s : State) (off v : Nat) : (s.reply off v).besidesRead = s.besidesRead := rfl
theorem besidesRead_bump (s : State) : s.bump.besidesRead = s.besidesRead := rfl

/-- No read changes memory or the mode. -/
theorem busRead_leaves (s : State) (r off : Nat) :
    (s.busRead r off).mem = s.mem ∧ (s.busRead r off).dev = s.dev := by
  obtain ⟨u, l, hu, hread⟩ : ∃ u l, u = (s.onHl fun h => { h with latches := l }) ∧ s.busRead r off =
      (if r = 0 then (u.clearRc off).reply off (s.readReg r off) else u).bump := by
    obtain ⟨l, hl⟩ := latchRead_hl s r off
    by_cases hoff : off % 4 = 0
    · exact ⟨_, l, rfl, by simp [State.busRead, hoff, hl]⟩
    · exact ⟨_, s.hl.latches, rfl, by simp [State.busRead, hoff]; rfl⟩
  have hkept : (s.busRead r off).besidesRead = u.besidesRead := by
    rw [hread, besidesRead_bump]
    split
    · rw [besidesRead_reply, clearRc_besides]
    · rfl
  rw [hu] at hkept
  exact ⟨congrArg (fun x => x.2.1) hkept, congrArg (fun x => x.2.2) hkept⟩

/-- An aligned host read clears what its register clears, beside the latches and the reply. -/
theorem busRead_clears (h : off % 4 = 0) : ∃ l, s.busRead 0 off =
    (((s.onHl fun h => { h with latches := l }).clearRc off).reply off (s.readReg 0 off)).bump := by
  obtain ⟨l, hl⟩ := latchRead_hl s 0 off
  exact ⟨l, by rw [busRead_host h, hl]⟩

theorem clearRc_nothing (h : off = 0x10038 ∨ off = 0x10000) : s.clearRc off = s := by
  rcases h with rfl | rfl <;> simp [State.clearRc, State.clearA]

theorem clearRc_refused : s.clearRc 0x20008 = s.onHl fun h => { h with bar2Refused := 0 } := by
  simp [State.clearRc, State.clearA]

theorem clearRc_stray : s.clearRc 0x10024 = s.onTb fun t => { t with stray := 0 } := by
  simp [State.clearRc, State.clearA]

theorem busRead_misaligned (h : off % 4 ≠ 0) :
    s.busRead 0 off = (s.onHl fun h => { h with bus := { unsupported := true } }).bump := by
  simp [State.busRead, State.clearRc, State.reply, h]

end Reads

/-- Settles O21: what is latched is `busRead_latched`, the reply `busRead_reply`, and what no read changes
`busRead_leaves`. -/
theorem registerReadsLatchAndClear : Obligations.RegisterReadsLatchAndClear := by
  refine ⟨fun s r o ho => ⟨s.busRead r o, rfl, fun i hi => busRead_latched ho hi, fun hr => ?_, fun hr => ?_,
      (busRead_leaves s r o).1⟩,
    fun s r => ⟨s.busRead r 0x10038, rfl, ?_, ?_, ?_, fun hr => ?_, ?_, (busRead_leaves ..).1⟩,
    fun s => ⟨s.busRead 0 0x10000, rfl, ?_, ?_, ?_, (busRead_leaves ..).1⟩,
    fun s o ho => ⟨s.busRead 0 o, rfl, busRead_reply ho, (busRead_leaves s 0 o).1, ?_⟩,
    fun s => ⟨s.busRead 0 0x20008, rfl, ?_, ?_, (busRead_leaves ..).1, ?_⟩,
    fun s => ⟨s.busRead 0 0x10024, rfl, ?_, ?_, (busRead_leaves ..).1⟩,
    fun s o ho => ⟨s.busRead 0 o, rfl, ?_, (busRead_leaves s 0 o).1, ?_⟩⟩
  · rw [hr]
    exact busRead_reply ho
  · obtain ⟨l, hl⟩ := busRead_client hr o (s := s)
    rw [hl]
    exact ((KeepsBlocks.refl s).onHl _).bump
  · rw [busRead_latched (by decide) (by decide), reg_early (by decide)]
    rfl
  · rw [busRead_latched (by decide) (by decide), reg_early (by decide)]
    rfl
  · rw [busRead_latched (by decide) (by decide), reg_early (by decide)]
    rfl
  · rw [hr, busRead_reply (by decide), State.readReg, if_neg (by decide), reg_early (by decide)]
    rfl
  · by_cases hr : r = 0
    · obtain ⟨l, hl⟩ := busRead_clears (s := s) (off := 0x10038) (by decide)
      rw [hr, hl, clearRc_nothing (.inl rfl)]
      rfl
    · obtain ⟨l, hl⟩ := busRead_client hr 0x10038 (s := s)
      rw [hl]
      rfl
  · rw [busRead_reply (by decide), State.readReg, if_neg (by decide), reg_early (by decide)]
    rfl
  · rw [busRead_latched (by decide) (by decide), reg_early (by decide)]
    rfl
  · obtain ⟨l, hl⟩ := busRead_clears (s := s) (off := 0x10000) (by decide)
    rw [hl, clearRc_nothing (.inr rfl)]
    rfl
  · rw [(busRead_leaves s 0 o).2]
  · rw [busRead_reply (by decide), State.readReg, if_neg (by decide), reg_early (by decide)]
    rfl
  · obtain ⟨l, hl⟩ := busRead_clears (s := s) (off := 0x20008) (by decide)
    rw [hl, clearRc_refused]
    rfl
  · obtain ⟨l, hl⟩ := busRead_clears (s := s) (off := 0x20008) (by decide)
    rw [hl, clearRc_refused]
    exact ((((KeepsBlocks.refl s).onHl _).onHl _).onHl _).bump
  · rw [busRead_reply (by decide), State.readReg, if_neg (by decide), reg_early (by decide)]
    rfl
  · obtain ⟨l, hl⟩ := busRead_clears (s := s) (off := 0x10024) (by decide)
    rw [hl, clearRc_stray]
    rfl
  · rw [busRead_misaligned ho]
    rfl
  · rw [busRead_misaligned ho]
    exact ((KeepsBlocks.refl s).onHl _).bump

/-! Writes (R443, R463, R541, R549, R553). -/

section Writes

variable {s : State} {v k : Nat}

theorem exec_registerWrite_syncCtrl (s : State) (v : Nat) : exec (.registerWrite 0x10020 v) s =
    .next (if s.dev.mode = .config then s.onTb fun t => { t with syncCtrl := v % 2 ^ 32 &&& 0x1F } else s) := by
  show execRegisterWrite 0x10020 v s = _
  simp [execRegisterWrite, State.writeReg]

theorem exec_registerWrite_events (s : State) (v : Nat) : exec (.registerWrite 0x20010 v) s =
    .next (s.onHl fun h => { h with events := clearBits h.events (v % 2 ^ 32) }) := by
  show execRegisterWrite 0x20010 v s = _
  simp [execRegisterWrite, State.writeReg]

theorem exec_registerWrite_nothing {o : Nat} (h : o % 4 ≠ 0 ∨ o = 0x10000) (v : Nat) :
    exec (.registerWrite o v) s = .next s := by
  show execRegisterWrite o v s = _
  rcases h with h | rfl
  · rw [execRegisterWrite, State.writeReg, if_pos h]
  · simp [execRegisterWrite, State.writeReg]

/-- A dialog starts where none runs and a path exists (R448, R549). -/
theorem startPtm_starts (hbusy : s.tb.ptmBusy = false) (hpath : s.tb.ptmPath = true) (hup : s.hl.linkUp = true) :
    s.startPtm = s.onTb fun t => { t with ptmBusy := true, ptmMiles := 0 } := by
  rw [State.startPtm, if_neg (by simp [hbusy, hpath, hup])]

theorem exec_ptmRequest_starts (h31 : bitAt v 31 = true) (h30 : bitAt v 30 = false) (hv : v % 256 = 0)
    (hbusy : s.tb.ptmBusy = false) (hpath : s.tb.ptmPath = true) (hup : s.hl.linkUp = true) :
    exec (.ptmRequest v) s = .next (s.onTb fun t => { t with ptmBusy := true, ptmMiles := 0 }) := by
  show execPtmRequest v s = _
  rw [execPtmRequest, State.writePtm]
  simp only [h31, h30, hv]
  rw [if_pos trivial, startPtm_starts (by exact hbusy) (by exact hpath) (by exact hup)]
  simp [State.onTb]

/-- Releasing more elements than a FIFO holds (R463). -/
theorem releaseRxq_tooMany {f : Nat} (h : (if f = 0 then (s.canAt k).fifo0 else (s.canAt k).fifo1).fill < v % 128) :
    s.releaseRxq k f v = s.onCan k fun c => { c with releaseError := true } := by
  unfold State.releaseRxq
  dsimp only
  rw [if_neg (by omega), if_pos h]

theorem releaseRxq_some {f : Nat} (hv : 0 < v % 128)
    (h : v % 128 ≤ (if f = 0 then (s.canAt k).fifo0 else (s.canAt k).fifo1).fill) : s.releaseRxq k f v =
    if f = 0 then s.onCan k fun c => { c with fifo0 := c.fifo0.release (v % 128) }
    else s.onCan k fun c => { c with fifo1 := c.fifo1.release (v % 128) } := by
  unfold State.releaseRxq
  dsimp only
  rw [if_neg (by omega), if_neg (by omega)]

end Writes

/-- Settles O22: each write by its equation above. -/
theorem registerWritesTakeTheirFields : Obligations.RegisterWritesTakeTheirFields := by
  refine ⟨fun s v hmode => (exec_registerWrite_syncCtrl s v).trans (congrArg _ (if_pos hmode)),
    fun s v hmode => (exec_registerWrite_syncCtrl s v).trans (congrArg _ (if_neg hmode)),
    exec_registerWrite_events, fun s o v h => exec_registerWrite_nothing h v, fun s v => exec_ptmRequest_starts,
    fun s hdue hbusy hpath hup => ?_, fun s h cyc hbusy => ?_,
    fun s k f v h => congrArg _ (releaseRxq_tooMany h), fun s k v hv h => congrArg _ (releaseRxq_some (f := 0) hv h),
    fun s k v hv h => congrArg _ (releaseRxq_some (f := 1) hv h)⟩
  · show execPtmIntervalExpiry s = _
    rw [execPtmIntervalExpiry, if_pos hdue, startPtm_starts hbusy hpath hup]
  · constructor
    · show execPtmDialogComplete (.ok h cyc) s = _
      simp [execPtmDialogComplete, hbusy]
    · show execPtmDialogComplete .failed s = _
      simp [execPtmDialogComplete, hbusy]

end Sys2Proof.Machine
end

section
/-! BAR2 (R439 to R441). O20. -/

namespace Sys2Proof.Machine

open Sys2Proof.Safety

/-! What an access of memory leaves of the host link (R443). -/

/-- The host link without its events and messages. -/
def HostLink.offEvents (h : HostLink) : HostLink := { h with events := 0, pba := 0, sent := [] }

@[simp] theorem State.sendVector_offEvents (s : State) (v : Nat) :
    (s.sendVector v).hl.offEvents = s.hl.offEvents := by
  unfold State.sendVector
  split <;> rfl

@[simp] theorem State.raiseEvent_offEvents (s : State) (v : Nat) :
    (s.raiseEvent v).hl.offEvents = s.hl.offEvents := by
  unfold State.raiseEvent
  extract_lets t
  have ht : t.hl = s.hl := by
    simp only [t]
    split
    · exact State.recTrigger_hl ..
    · rfl
  split
  · rw [ht]
  · rw [State.sendVector_offEvents, ← ht]
    rfl

@[simp] theorem State.errEvent_hl (s : State) (r : WearEntry) : (s.errEvent r).hl = s.hl := by
  obtain ⟨w, hw⟩ := s.errEvent_spr r
  rw [hw, State.onSpr_hl]

@[simp] theorem State.errEvents_hl (s : State) (rs : List WearEntry) : (s.errEvents rs).hl = s.hl :=
  foldl_keeps State.hl State.errEvent_hl rs s

@[simp] theorem State.retire_offEvents (s : State) (r : WearEntry) : (s.retire r).hl.offEvents = s.hl.offEvents := by
  unfold State.retire
  dsimp only
  split <;> simp

@[simp] theorem State.enterMode_hl (s : State) (m : Mode) : (s.enterMode m).hl = s.hl := State.sched_hl ..

@[simp] theorem State.setDegraded_hl (s : State) : s.setDegraded.hl = s.hl := by
  unfold State.setDegraded
  dsimp only
  split <;> simp

@[simp] theorem State.withdrawBlock_offEvents (s : State) (r : WearEntry) :
    (s.withdrawBlock r).hl.offEvents = s.hl.offEvents := by
  unfold State.withdrawBlock
  dsimp only
  split <;> simp

@[simp] theorem State.remapRow_offEvents (s : State) (r : WearEntry) :
    (s.remapRow r).hl.offEvents = s.hl.offEvents := by
  unfold State.remapRow
  dsimp only
  split
  · rfl
  · split <;> simp

@[simp] theorem State.laneEvents_hl (s : State) (d ch retries : Nat) (lanes : List Nat) (failed : Bool) :
    (s.laneEvents d ch retries lanes failed).hl = s.hl := by
  unfold State.laneEvents
  dsimp only
  split
  · simp
  · split <;> simp

@[simp] theorem State.uncorrectableError_offEvents (s : State) (a : Nat) :
    (s.uncorrectableError a).hl.offEvents = s.hl.offEvents := by
  unfold State.uncorrectableError
  dsimp only
  split
  · rfl
  · exact State.remapRow_offEvents ..

theorem State.readGranule_offEvents (s : State) (g : Nat) (e : Ecc) :
    (s.readGranule g e).2.hl.offEvents = s.hl.offEvents := by
  unfold State.readGranule
  split <;> simp [State.correctedError]
  split <;> simp

theorem State.afterRead_offEvents (s : State) (a n : Nat) : (s.afterRead a n).hl.offEvents = s.hl.offEvents :=
  dramRead_keeps (view := fun u => u.hl.offEvents) State.readGranule_offEvents s a n []

section Bar2

variable {s : State} {o n : Nat} {d : List Byte}

theorem exec_bar2Write_good (h : s.bar2Ok (s.hl.bar2Base * 2 ^ 30 + o) d.length = true) :
    exec (.bar2Write o d) s = .next (s.putOut (s.hl.bar2Base * 2 ^ 30 + o) d).2 :=
  congrArg Host.Outcome.next (if_neg (c := (!s.bar2Ok (s.hl.bar2Base * 2 ^ 30 + o) d.length) = true) (by rw [h]; decide))

theorem exec_bar2Write_refused (h : s.bar2Ok (s.hl.bar2Base * 2 ^ 30 + o) d.length = false) :
    exec (.bar2Write o d) s = .next s.bar2Refuse :=
  congrArg Host.Outcome.next (if_pos (c := (!s.bar2Ok (s.hl.bar2Base * 2 ^ 30 + o) d.length) = true) (by rw [h]; rfl))

theorem exec_bar2Read_refused (h : s.bar2Ok (s.hl.bar2Base * 2 ^ 30 + o) n = false) : exec (.bar2Read o n) s =
    .next (s.bar2Refuse.onHl fun h => { h with bus := { data := List.replicate n 0xFF } }) :=
  congrArg Host.Outcome.next (if_pos (c := (!s.bar2Ok (s.hl.bar2Base * 2 ^ 30 + o) n) = true) (by rw [h]; rfl))

theorem bar2Refuse_refuses (s : State) (b : BusReply) :
    (s.bar2Refuse.onHl fun h => { h with bus := b }).hl.bar2Refused = satInc (2 ^ 32 - 1) s.hl.bar2Refused ∧
      (s.bar2Refuse.onHl fun h => { h with bus := b }).mem = s.mem ∧
      KeepsBlocks s (s.bar2Refuse.onHl fun h => { h with bus := b }) :=
  ⟨rfl, rfl, ((KeepsBlocks.refl s).onHl _).onHl _⟩

/-- What a BAR2 read leaves before its reply: what memory counts, and its way over the ring. -/
def State.bar2Fetched (s : State) (a n : Nat) : State :=
  ((s.afterRead a n).bankEvents a n).carryRead .bulk 0 0xFE a (s.bytesAt a n)

theorem exec_bar2Read_good (h : s.bar2Ok (s.hl.bar2Base * 2 ^ 30 + o) n = true) : exec (.bar2Read o n) s =
    .next ((s.bar2Fetched (s.hl.bar2Base * 2 ^ 30 + o) n).onHl fun h => { h with bus :=
      { data := s.bytesAt (s.hl.bar2Base * 2 ^ 30 + o) n
        poisoned := s.readPoisoned (s.hl.bar2Base * 2 ^ 30 + o) n } }) :=
  congrArg Host.Outcome.next (if_neg (c := (!s.bar2Ok (s.hl.bar2Base * 2 ^ 30 + o) n) = true) (by rw [h]; decide))

/-- A read leaves every byte, the Assize, the schedule and the count of refused accesses. -/
theorem bar2Fetched_leaves (s : State) (a n : Nat) : (s.bar2Fetched a n).mem.cells = s.mem.cells ∧
    (s.bar2Fetched a n).asz = s.asz ∧ (s.bar2Fetched a n).sch = s.sch ∧
    (s.bar2Fetched a n).hl.bar2Refused = s.hl.bar2Refused := by
  have hring : (s.bar2Fetched a n).offRing = ((s.afterRead a n).bankEvents a n).offRing := State.carryRead_offRing ..
  have hread := (s.dramRead_reread a n).1
  have hbank := BankCounted.bankEvents (s.afterRead a n) a n
  have hasz : ((s.afterRead a n).bankEvents a n).asz = (s.afterRead a n).asz := asz_of_reach (State.bankEvents_reach ..)
  have hdesk : (s.afterRead a n).sch = s.sch := sch_of_desk (State.dramRead_desk ..)
  have hrefused : (s.afterRead a n).hl.bar2Refused = s.hl.bar2Refused :=
    show (s.afterRead a n).hl.offEvents.bar2Refused = s.hl.offEvents.bar2Refused by rw [State.afterRead_offEvents]
  refine ⟨?_, ?_, ?_, ?_⟩
  · rw [mem_of_offRing hring, hbank.mem]
    exact hread.cells
  · rw [asz_of_offRing hring, hasz]
    exact hread.asz
  · rw [sch_of_desk (desk_of_offRing hring), hbank.sch, hdesk]
  · rw [hl_of_offRing hring, hbank.hl, hrefused]

/-- A read of a range without poison counts nothing. -/
theorem bar2Fetched_clean {a : Nat} (h : s.readPoisoned a n = false) :
    (s.bar2Fetched a n).offRing = s.offRing := by
  obtain ⟨hrange, -⟩ := Bool.or_eq_false_iff.mp h
  obtain ⟨-, hparity⟩ := Bool.or_eq_false_iff.mp hrange
  have hbad : s.badBanks a n = [] := by
    rw [State.badBanks, List.filter_eq_nil_iff.mpr (List.any_eq_false.mp hparity)]
    rfl
  have hbank : s.bankEvents a n = s := by simp [State.bankEvents, hbad]
  rw [State.bar2Fetched, State.carryRead_offRing, State.afterRead, State.dramRead_clean h, hbank]

/-- A write into a stack that does not answer leaves memory (R154, R509). -/
theorem putOut_dead {a : Nat} (h : s.dramDead a = true) : (s.putOut a d).2.mem = s.mem ∧ OnlyCarried s (s.putOut a d).2 := by
  obtain ⟨hcarry, hmem⟩ := s.hostRequest_carries s.dataEngine true a d.length
  have hring := (s.hostRequest s.dataEngine true a d.length).carryWrite_offRing .bulk 0 0xFE a d
  have hput : (s.putOut a d).2 = (s.hostRequest s.dataEngine true a d.length).carryWrite .bulk 0 0xFE a d := by
    rw [State.putOut, State.dramWrite, if_pos h]
  rw [hput]
  exact ⟨(mem_of_offRing hring).trans hmem, onlyCarried_iff.mpr ((offCarry_of_offRing hring).trans hcarry)⟩

/-- A write that meets no poisoned part puts its bytes at the address and no other. -/
theorem putOut_writes {a : Nat} (hwf : s.mem.wf = true) (h : s.writePoisoned a d.length = false) :
    (s.putOut a d).2.bytesAt a d.length = d ∧
      (∀ b, b < a ∨ a + d.length ≤ b → (s.putOut a d).2.byteAt b = s.byteAt b) ∧ OnlyCarried s (s.putOut a d).2 := by
  obtain ⟨-, hmem, hkept⟩ := State.putOut_clean h
  have hstarts : (s.putOut a d).2.starts = s.starts :=
    show (s.putOut a d).2.offCarry.starts = s.offCarry.starts by rw [hkept]
  have hbyte := byteAt_of_mem (s := s.write a d) hmem hstarts
  exact ⟨(bytesAt_congr hbyte _ _).trans (bytesAt_write a d hwf),
    fun b hb => (hbyte b).trans (byteAt_write_out s a d b hwf hb), onlyCarried_iff.mpr hkept⟩

/-- The host link answers a read with what memory gave. -/
theorem bar2Reply (s : State) (a n : Nat) (b : BusReply) {t : State}
    (ht : t = (s.bar2Fetched a n).onHl fun h => { h with bus := b }) :
    t.hl.bus = b ∧ t.hl.bar2Refused = s.hl.bar2Refused ∧ t.mem.cells = s.mem.cells ∧ t.asz = s.asz ∧ t.sch = s.sch := by
  obtain ⟨hcells, hasz, hsch, hrefused⟩ := bar2Fetched_leaves s a n
  subst ht
  exact ⟨rfl, hrefused, hcells, hasz, hsch⟩

/-- The answer to a read without poison is all that it changes. -/
theorem bar2Reply_clean {a : Nat} (h : s.readPoisoned a n = false) (b : BusReply) {t : State}
    (ht : t = (s.bar2Fetched a n).onHl fun h => { h with bus := b }) :
    t.mem = s.mem ∧ OnlyCarried (s.onHl fun h => { h with bus := b }) t := by
  have hreply : t.offRing = (s.onHl fun h => { h with bus := b }).offRing :=
    (congrArg State.offRing ht).trans (congrArg (State.onHl · fun h => { h with bus := b }) (bar2Fetched_clean h))
  exact ⟨(mem_of_offRing hreply :), onlyCarried_iff.mpr (offCarry_of_offRing hreply)⟩

end Bar2

/-- Settles O20: writes by `putOut_writes` and `putOut_dead`, reads by `bar2Reply` and `bar2Reply_clean`. -/
theorem bar2AccessesReachOrAreRefused : Obligations.Bar2AccessesReachOrAreRefused := by
  refine ⟨fun s v => rfl, fun s o d hwf hok hclean => ⟨_, exec_bar2Write_good hok, putOut_writes hwf hclean⟩,
    fun s o d hok hdead => ⟨_, exec_bar2Write_good hok, putOut_dead hdead⟩,
    fun s o d hok => exec_bar2Write_refused hok,
    fun s o n hok => ⟨_, exec_bar2Read_refused hok, rfl, rfl, bar2Refuse_refuses s _⟩, fun s o n hok => ?_,
    fun s o n hok hclean => ?_⟩
  · obtain ⟨hbus, hkept⟩ := bar2Reply s (s.hl.bar2Base * 2 ^ 30 + o) n _ rfl
    exact ⟨_, exec_bar2Read_good hok, congrArg BusReply.data hbus, congrArg BusReply.poisoned hbus,
      congrArg BusReply.unsupported hbus, hkept⟩
  · obtain ⟨hmem, hkept⟩ := bar2Reply_clean hclean { data := s.bytesAt (s.hl.bar2Base * 2 ^ 30 + o) n } rfl
    refine ⟨_, ?_, hmem, hkept⟩
    rw [exec_bar2Read_good hok, hclean]

end Sys2Proof.Machine
end

section
/-! Taking commands in turn (R416, R417, R422) and start deadlines (R427). O16. -/

namespace Sys2Proof.Machine

open Sys2Proof.Safety

/-- What the checks on a command read of the state (R422). -/
def State.checked (s : State) : State :=
  { State.reset with
    dev := s.dev, mem := s.mem, kv := s.kv, dram := s.dram, pwr := s.pwr, hl := { State.reset.hl with allocs := s.hl.allocs } }

theorem takeStatus_of_checked {s t : State} (h : t.checked = s.checked) (c : Cmd) : t.takeStatus c = s.takeStatus c :=
  show t.checked.takeStatus c = s.checked.takeStatus c by rw [h]

theorem checked_of_carried {s t : State} (hcarry : t.offCarry = s.offCarry) (hmem : t.mem = s.mem) :
    t.checked = s.checked :=
  show { t.offCarry with mem := t.mem }.checked = { s.offCarry with mem := s.mem }.checked by rw [hcarry, hmem]

@[simp] theorem checked_onCtx (s : State) (k : Nat) (f : Ctx → Ctx) : (s.onCtx k f).checked = s.checked := by
  unfold State.onCtx
  split <;> rfl

/-- A command that passes every check has a payload without poison (R422). -/
theorem readPoisoned_of_takeStatus {s : State} {c : Cmd} (h : s.takeStatus c = stOk) (hinline : c.isInline = false)
    (hlen : 0 < c.length) : s.readPoisoned c.payload c.length = false := by
  by_contra hp
  rw [Bool.not_eq_false] at hp
  simp only [State.takeStatus, hinline, hlen, hp] at h
  split at h
  · cases h
  · split at h
    · cases h
    · split at h <;> cases h

section Take

variable {s : State} {k : Nat} {c : Cmd}

theorem fetchEntries_carries (s : State) (k n : Nat) :
    (s.fetchEntries k n).offCarry = s.offCarry ∧ (s.fetchEntries k n).mem = s.mem :=
  ⟨foldl_keeps State.offCarry (fun u _ => (u.hostRequest_carries ..).1) _ _,
    foldl_keeps State.mem (fun u _ => (u.hostRequest_carries ..).2) _ _⟩

/-- Reading a payload without poison carries it, and no more. -/
theorem readPayload_carries (h : c.isInline = false → c.data ≠ [] → s.readPoisoned c.payload c.length = false) :
    (s.readPayload c).offCarry = s.offCarry ∧ (s.readPayload c).mem = s.mem := by
  unfold State.readPayload
  split
  · exact ⟨rfl, rfl⟩
  · next hread =>
    obtain ⟨hinline, hdata⟩ : c.isInline = false ∧ c.data ≠ [] := by simpa using hread
    obtain ⟨hcarry, hmem⟩ := s.hostRequest_carries s.dataEngine false c.payload c.length
    rw [State.afterRead, State.dramRead_clean (h hinline hdata)]
    exact ⟨(offCarry_of_offRing (State.carryRead_offRing ..)).trans hcarry,
      (mem_of_offRing (State.carryRead_offRing ..)).trans hmem⟩

theorem enterCommand_good (h : s.takeStatus c = stOk) : s.enterCommand c =
    (s.record 3 0 (leBytes 2 c.ring ++ leBytes 6 0 ++ c.headerBytes)).onCtx c.ring fun x => x.enter c .waiting :=
  if_pos h

theorem enterCommand_waits (hk : c.ring = 256 ∨ c.ring < s.hl.ctxs.length) (h : s.takeStatus c = stOk) :
    (s.enterCommand c).mem = s.mem ∧ (s.enterCommand c).ctx c.ring = (s.ctx c.ring).enter c .waiting ∧
      (∀ j, j ≠ c.ring → (s.enterCommand c).ctx j = s.ctx j) ∧ (s.enterCommand c).hl.rr = s.hl.rr := by
  rw [enterCommand_good h]
  refine ⟨State.onCtx_mem .., (ctx_onCtx_same (s := s.record _ _ _) hk _).trans rfl, fun j hj => ctx_onCtx_ne _ hj _, ?_⟩
  unfold State.onCtx
  split <;> rfl

theorem enterCommand_refused (hk : c.ring = 256 ∨ c.ring < s.hl.ctxs.length) (h : s.takeStatus c ≠ stOk) :
    ∃ u : State, s.enterCommand c = u.produce c.ring { seq := (s.ctx c.ring).nextSeq, tag := c.tag
                                                       status := s.takeStatus c, opcode := c.opcode } ∧
      u.ctx c.ring = (s.ctx c.ring).enter c .completing ∧ u.mem = s.mem := by
  have hctx : ((s.record 3 0 (leBytes 2 c.ring ++ leBytes 6 0 ++ c.headerBytes)).onCtx c.ring
      fun x => x.enter c .completing).ctx c.ring = (s.ctx c.ring).enter c .completing :=
    (ctx_onCtx_same (s := s.record _ _ _) hk _).trans rfl
  refine ⟨_, (if_neg h).trans ?_, hctx, State.onCtx_mem ..⟩
  rw [hctx]
  rfl

/-- The command at the head of a ring, with its payload (R417). -/
def State.headCmd (s : State) (k : Nat) : Cmd :=
  { s.headHeader k with data :=
      (if bitAt (s.headHeader k).flags 2 then s.inlineBytes k (s.headHeader k).length
        else s.payloadBytes (s.headHeader k)) }

theorem takeFrom_fits (h : cmdEntries (s.headHeader k) ≤ 2 ^ (s.ctx k).sqLog - 1) : s.takeFrom k =
    (((s.fetchEntries k (cmdEntries (s.headHeader k))).readPayload (s.headCmd k)).onCtx k fun x =>
      { x with sqHead := (x.sqHead + cmdEntries (s.headHeader k)) % 2 ^ x.sqLog }).enterCommand (s.headCmd k) :=
  if_neg (Nat.not_lt.mpr h)

theorem length_headCmd (hinline : (s.headCmd k).isInline = false) (hdata : (s.headCmd k).data ≠ []) :
    0 < (s.headCmd k).length := by
  refine Nat.pos_of_ne_zero fun hzero => hdata ?_
  have hflag : bitAt (s.headHeader k).flags 2 = false := hinline
  have hlen : (s.headHeader k).length = 0 := hzero
  simp [State.headCmd, hflag, State.payloadBytes, State.bytesAt, hlen]

/-- A command that passes every check is taken: the head moves past it and it waits in its ring. -/
theorem takeFrom_waits (hk : k = 256 ∨ k < s.hl.ctxs.length) (hfits : cmdEntries (s.headHeader k) ≤ 2 ^ (s.ctx k).sqLog - 1)
    (hok : s.takeStatus (s.headCmd k) = stOk) : (s.takeFrom k).hl.rr = s.hl.rr ∧
      (s.takeFrom k).ctx k = { s.ctx k with
        sqHead := ((s.ctx k).sqHead + cmdEntries (s.headHeader k)) % 2 ^ (s.ctx k).sqLog
        slots := (s.ctx k).slots ++ [{ cmd := s.headCmd k, seq := (s.ctx k).nextSeq, state := .waiting }]
        nextSeq := (s.ctx k).nextSeq + 1 } ∧
      (∀ j, j ≠ k → (s.takeFrom k).ctx j = s.ctx j) ∧ (s.takeFrom k).mem = s.mem := by
  obtain ⟨hfcarry, hfmem⟩ := fetchEntries_carries s k (cmdEntries (s.headHeader k))
  have hchecked := checked_of_carried hfcarry hfmem
  obtain ⟨hpcarry, hpmem⟩ := readPayload_carries (c := s.headCmd k) (s := s.fetchEntries k (cmdEntries (s.headHeader k)))
    fun hinline hdata => readPoisoned_of_takeStatus ((takeStatus_of_checked hchecked _).trans hok) hinline
      (length_headCmd hinline hdata)
  set u := (s.fetchEntries k (cmdEntries (s.headHeader k))).readPayload (s.headCmd k) with hu
  have hucarry := hpcarry.trans hfcarry
  have humem := hpmem.trans hfmem
  set v := u.onCtx k fun x => { x with sqHead := (x.sqHead + cmdEntries (s.headHeader k)) % 2 ^ x.sqLog } with hv
  have huk : k = 256 ∨ k < u.hl.ctxs.length := by rwa [ctxs_of_carried hucarry]
  have hvchecked : v.checked = s.checked := (checked_onCtx ..).trans (checked_of_carried hucarry humem)
  obtain ⟨hmem, hctx, hother, hrr⟩ := enterCommand_waits (c := s.headCmd k) (s := v) (in_ctxs_onCtx huk)
    ((takeStatus_of_checked hvchecked _).trans hok)
  rw [takeFrom_fits hfits]
  have hvctx : v.ctx k = { s.ctx k with
      sqHead := ((s.ctx k).sqHead + cmdEntries (s.headHeader k)) % 2 ^ (s.ctx k).sqLog } := by
    rw [hv, ctx_onCtx_same huk, ctx_of_carried hucarry]
  refine ⟨hrr.trans ?_, hctx.trans ?_, fun j hj => (hother j hj).trans ?_, hmem.trans ?_⟩
  · have : u.hl.rr = s.hl.rr := show u.offCarry.hl.rr = s.offCarry.hl.rr by rw [hucarry]
    rw [← this, hv]
    unfold State.onCtx
    split <;> rfl
  · show (v.ctx k).enter _ _ = _
    rw [hvctx]
    rfl
  · rw [hv, ctx_onCtx_ne _ hj, ctx_of_carried hucarry]
  · rw [hv, State.onCtx_mem, humem]

theorem lt_of_turn (h : s.turn = some k) : k < 256 := by
  unfold State.turn at h
  split at h
  · next hfind =>
    cases h
    exact List.mem_range.mp (List.mem_of_mem_drop (List.mem_of_find?_eq_some hfind))
  · exact List.mem_range.mp (List.mem_of_find?_eq_some h)

theorem exec_commandTake_turn (hready : s.dev.fwReady = true) (hup : s.hl.linkUp = true) (hhub : s.hubDead = false)
    (hturn : s.turn = some k) : exec .commandTake s = .next ((s.onHl fun h => { h with rr := (k + 1) % 256 }).takeFrom k) := by
  show execCommandTake s = _
  simp [execCommandTake, hready, hup, hhub, hturn]

theorem exec_commandTake_idle (h : s.dev.fwReady = false ∨ s.hl.linkUp = false ∨ s.hubDead = true ∨ s.turn = none) :
    exec .commandTake s = .next s := by
  show execCommandTake s = _
  unfold execCommandTake
  split
  · rfl
  · next hgo =>
    have hturn : s.turn = none := by
      rcases h with h | h | h | h
      · simp [h] at hgo
      · simp [h] at hgo
      · simp [h] at hgo
      · exact h
    rw [hturn]

/-- The first waiting command of a ring whose deadline passed; JOB.SUBMIT is left to the schedule (R427, R361). -/
def State.expired (s : State) (k : Nat) : Option Slot :=
  (s.ctx k).slots.find? fun x => x.state = .waiting && s.deadlinePassed x.cmd.deadline &&
    !(x.cmd.family = 3 && x.cmd.operation = 1)

theorem exec_commandStartDeadlineExpiry_none (h : s.expired k = none) : exec (.commandStartDeadlineExpiry k) s = .next s := by
  show execCommandStartDeadlineExpiry k s = _
  unfold execCommandStartDeadlineExpiry
  split
  · rfl
  · next hsome => cases hsome.symm.trans h

theorem exec_commandStartDeadlineExpiry_some {sl : Slot} (h : s.expired k = some sl) :
    exec (.commandStartDeadlineExpiry k) s = .next ((s.onCtx k fun x => { x with
        slots := x.slots.map fun o => if o.seq = sl.seq then { o with state := .completing } else o }).bump.produce k
      { seq := sl.seq, tag := sl.cmd.tag, status := stTimeout, opcode := sl.cmd.opcode }) := by
  show execCommandStartDeadlineExpiry k s = _
  unfold execCommandStartDeadlineExpiry
  split
  · next hnone => cases hnone.symm.trans h
  · next hsome =>
    cases hsome.symm.trans h
    rfl

end Take

/-- Settles O16: a good command by `takeFrom_waits`, one that fails by `enterCommand_refused`. -/
theorem commandsAreTakenInTurn : Obligations.CommandsAreTakenInTurn := by
  refine ⟨fun s k hs hready hup hhub hturn => ?_, fun s k hready hup hhub hturn => exec_commandTake_turn hready hup hhub hturn,
    fun s h => exec_commandTake_idle h, fun s c hs hc => ⟨fun hok => ?_, fun hbad => ?_⟩,
    fun s k hnone => exec_commandStartDeadlineExpiry_none hnone, fun s k sl hsl => ?_⟩
  · intro h c hfits hok
    have hk : k < 256 := lt_of_turn hturn
    obtain ⟨hrr, hctx, hother, hmem⟩ := takeFrom_waits (s := s.onHl fun h => { h with rr := (k + 1) % 256 })
      (in_ctxs_of_shaped hs hk) hfits hok
    exact ⟨_, exec_commandTake_turn hready hup hhub hturn, hrr, hctx, hother, congrArg Memory.cells hmem⟩
  · obtain ⟨hmem, hctx, -⟩ := enterCommand_waits (in_ctxs_of_shaped hs hc) hok
    exact ⟨hmem, hctx⟩
  · exact enterCommand_refused (in_ctxs_of_shaped hs hc) hbad
  · exact ⟨_, exec_commandStartDeadlineExpiry_some hsl, State.onCtx_mem .., ((KeepsBlocks.refl s).onCtx k _).bump⟩

end Sys2Proof.Machine
end

section
/-! Opening and closing contexts (R411 to R414, R419). O13. -/

namespace Sys2Proof.Machine

open Sys2Proof.Safety

/-! What completions leave of a context (R418, R419, R424). -/

/-- Whether a context is open, and whether it closes (R411, R414). -/
def State.standing (s : State) (k : Nat) : Bool × Bool := ((s.ctx k).isOpen, (s.ctx k).closing)

theorem standing_of_ctx {s t : State} {k : Nat} (h : t.ctx k = s.ctx k) : t.standing k = s.standing k := by
  rw [State.standing, State.standing, h]

theorem isOpen_of_standing {s t : State} {k : Nat} (h : t.standing k = s.standing k) :
    (t.ctx k).isOpen = (s.ctx k).isOpen := congrArg Prod.fst h

theorem closing_of_standing {s t : State} {k : Nat} (h : t.standing k = s.standing k) :
    (t.ctx k).closing = (s.ctx k).closing := congrArg Prod.snd h

/-- An update that leaves whether its context is open and closes leaves that of every context. -/
theorem standing_onCtx {f : Ctx → Ctx} (hopen : ∀ x, (f x).isOpen = x.isOpen) (hclosing : ∀ x, (f x).closing = x.closing)
    (s : State) (i k : Nat) : (s.onCtx i f).standing k = s.standing k := by
  by_cases hik : k = i
  · subst hik
    by_cases hin : k = 256 ∨ k < s.hl.ctxs.length
    · rw [State.standing, ctx_onCtx_same hin, hopen, hclosing, State.standing]
    · obtain ⟨hcan, hlen⟩ := not_or.mp hin
      simp [State.standing, State.onCtx, State.ctx, hcan, Nat.le_of_not_lt hlen]
  · exact standing_of_ctx (ctx_onCtx_ne s hik f)

@[simp] theorem standing_hostRequest (s : State) (engine : Nat) (write : Bool) (a n k : Nat) :
    (s.hostRequest engine write a n).standing k = s.standing k := standing_of_ctx (ctx_hostRequest ..)

@[simp] theorem standing_sendVector (s : State) (v k : Nat) : (s.sendVector v).standing k = s.standing k :=
  standing_of_ctx (ctx_sendVector ..)

@[simp] theorem standing_releaseHeld (s : State) (i k : Nat) : (s.releaseHeld i).standing k = s.standing k := by
  unfold State.releaseHeld
  split
  · exact standing_hostRequest ..
  · rfl

@[simp] theorem standing_writeEntry (s : State) (ring addr : Nat) (bs : List Byte) (k : Nat) :
    (s.writeEntry ring addr bs).standing k = s.standing k := by
  unfold State.writeEntry
  dsimp only
  refine (foldl_keeps (State.standing · k) (fun u i => standing_releaseHeld u i k) _ _).trans ?_
  split
  · exact standing_hostRequest ..
  · split
    · rfl
    · split
      · exact standing_hostRequest ..
      · rfl

@[simp] theorem standing_writeCompletion (s : State) (ring : Nat) (c : Completion) (k : Nat) :
    (s.writeCompletion ring c).standing k = s.standing k := by
  have hopen (x : Ctx) : (x.afterEntry c).isOpen = x.isOpen := by
    cases h : c.settles <;> simp [Ctx.afterEntry, Ctx.bumpTail, Ctx.settle, h]
  have hclosing (x : Ctx) : (x.afterEntry c).closing = x.closing := by
    cases h : c.settles <;> simp [Ctx.afterEntry, Ctx.bumpTail, Ctx.settle, h]
  unfold State.writeCompletion
  extract_lets x s1 s2
  have hs2 : s2.standing k = s.standing k := (standing_onCtx hopen hclosing s1 ring k).trans (standing_writeEntry ..)
  split
  · rw [standing_sendVector, standing_onCtx (by intro; rfl) (by intro; rfl), hs2]
  · exact hs2

theorem standing_flush (ring k n : Nat) : ∀ s : State, (State.flush ring n s).standing k = s.standing k := by
  induction n with
  | zero => exact fun _ => rfl
  | succ n ih =>
    intro s
    unfold State.flush
    split
    · rfl
    · split
      · rfl
      · split
        · exact (ih _).trans (standing_writeCompletion s ring _ k)
        · exact standing_onCtx (by intro; rfl) (by intro; rfl) s ring k

theorem standing_produce (s : State) (ring : Nat) (c : Completion) (k : Nat) :
    (s.produce ring c).standing k = s.standing k := by
  have hsettle (b : Bool) (x : Ctx) : (if b then x.settle c.seq else x).isOpen = x.isOpen ∧
      (if b then x.settle c.seq else x).closing = x.closing := by cases b <;> exact ⟨rfl, rfl⟩
  unfold State.produce
  split
  · exact (standing_onCtx (by intro; rfl) (by intro; rfl) _ 256 k).trans rfl
  · dsimp only
    split
    · exact standing_onCtx (fun x => (hsettle _ x).1) (fun x => (hsettle _ x).2) s ring k
    · split
      · exact standing_onCtx (by intro; rfl) (by intro; rfl) s ring k
      · exact (standing_flush ring k _ _).trans (standing_onCtx (by intro; rfl) (by intro; rfl) s ring k)

theorem standing_complete (s : State) (c : Cmd) (status res0 res1 res2 k : Nat) :
    (s.complete c status res0 res1 res2).standing k = s.standing k := standing_produce ..

theorem standing_finish (s : State) (p : Wait → Bool) (status res0 res1 res2 k : Nat) :
    (s.finish p status res0 res1 res2).standing k = s.standing k :=
  foldl_keeps (State.standing · k) (fun u c => standing_complete u c status res0 res1 res2 k) _ _

theorem standing_begun (c : Cmd) (s : State) (k : Nat) : (begun c s).standing k = s.standing k :=
  standing_onCtx (by intro; rfl) (by intro; rfl) s c.ring k

/-- A completion leaves the allocations. -/
theorem uncompleted_allocs : Uncompleted fun s => s.hl.allocs where
  ctx s k f := by
    unfold State.onCtx
    split <;> rfl
  request s engine write a n :=
    show (s.hostRequest engine write a n).offCarry.hl.allocs = s.offCarry.hl.allocs by
      rw [(s.hostRequest_carries engine write a n).1]
  vector s v := by
    unfold State.sendVector
    split <;> rfl
  write _ _ _ := rfl
  slot _ _ _ _ := rfl
  held _ _ _ := rfl
  reply _ _ _ := rfl
  bump _ := rfl

/-! DEV.CONTEXT_OPEN (R411, R412, R419). -/

section OpenClose

variable {c : Cmd} {s : State} {k : Nat}

/-- The context that DEV.CONTEXT_OPEN opens with its block. -/
def Ctx.opened (d : List Byte) (x : Ctx) : Ctx :=
  { openCtx x (fieldAt d 0 8) (fieldAt d 8 8) (fieldAt d 16 1) (fieldAt d 17 1) (fieldAt d 18 1) with
    accepted := 0, ended := 0 }

theorem exec_devContextOpen_full (h : Starts 1 3 c s) (hfree : (begun c s).freeCtx = none) :
    exec (.devContextOpen c) s = .next ((begun c s).complete c stLimit) := by
  refine congrArg Host.Outcome.next ((runCmd_starts h _).trans ?_)
  dsimp only
  rw [hfree]

theorem exec_devContextOpen_bad (h : Starts 1 3 c s) (hfree : (begun c s).freeCtx ≠ none) (hbad : ctxBlockBad c.data = true) :
    exec (.devContextOpen c) s = .next ((begun c s).complete c stBadParam) := by
  obtain ⟨k, hk⟩ := Option.ne_none_iff_exists'.mp hfree
  refine congrArg Host.Outcome.next ((runCmd_starts h _).trans ?_)
  dsimp only
  rw [hk]
  exact if_pos hbad

theorem exec_devContextOpen_opens (h : Starts 1 3 c s) (hfree : (begun c s).freeCtx = some k)
    (hgood : ctxBlockBad c.data = false) :
    exec (.devContextOpen c) s = .next (((begun c s).onCtx k (Ctx.opened c.data)).complete c stOk k) := by
  refine congrArg Host.Outcome.next ((runCmd_starts h _).trans ?_)
  dsimp only
  rw [hfree]
  exact if_neg (by simp [hgood])

/-- The free context found is the lowest (R411). -/
theorem freeCtx_lowest (h : s.freeCtx = some k) :
    1 ≤ k ∧ k < 256 ∧ ∀ j, 1 ≤ j → j < k → (s.ctx j).isOpen = true := by
  obtain ⟨hfree, i, hi, hik, hbefore⟩ := List.find?_eq_some_iff_getElem.mp h
  simp only [List.getElem_range, List.length_range, Bool.and_eq_true, decide_eq_true_eq] at hi hik hbefore hfree
  subst hik
  refine ⟨hfree.1, hi, fun j h1 hj => ?_⟩
  simpa [h1] using hbefore j hj

/-! DEV.CONTEXT_CLOSE (R414). -/

theorem exec_devContextClose_none (h : Starts 1 4 c s) (hk : c.word 0 % 256 = k) (hno : k = 0 ∨ (s.ctx k).isOpen = false) :
    exec (.devContextClose c) s = .next ((begun c s).complete c stBadParam) := by
  subst hk
  refine congrArg Host.Outcome.next ((runCmd_starts h _).trans (if_pos ?_))
  rw [isOpen_of_standing (standing_begun ..)]
  simpa using hno

theorem exec_devContextClose_busy (h : Starts 1 4 c s) (hk : c.word 0 % 256 = k) (h0 : k ≠ 0)
    (hopen : (s.ctx k).isOpen = true) (hclosing : (s.ctx k).closing = true) :
    exec (.devContextClose c) s = .next ((begun c s).complete c stBusy) := by
  subst hk
  refine congrArg Host.Outcome.next ((runCmd_starts h _).trans ((if_neg ?_).trans (if_pos ?_)))
  · rw [isOpen_of_standing (standing_begun ..)]
    simpa [hopen] using h0
  · rwa [closing_of_standing (standing_begun ..)]

theorem exec_devContextClose_begins (h : Starts 1 4 c s) (hk : c.word 0 % 256 = k) (h0 : k ≠ 0)
    (hopen : (s.ctx k).isOpen = true) (hclosing : (s.ctx k).closing = false) : exec (.devContextClose c) s =
      .next ((((begun c s).startClose k).await c (.contextClose k)).settleClose k) := by
  subst hk
  refine congrArg Host.Outcome.next ((runCmd_starts h _).trans ((if_neg ?_).trans (if_neg ?_)))
  · rw [isOpen_of_standing (standing_begun ..)]
    simpa [hopen] using h0
  · rw [closing_of_standing (standing_begun ..), hclosing]
    decide

/-- The context once its close has begun (R414). -/
def Ctx.closes (x : Ctx) : Ctx :=
  { x with
    closing := true, muteBelow := x.nextSeq, waiting := [], stalled := false, sqHead := x.sqTail
    slots := x.slots.filter fun sl => sl.state = .started }

theorem startClose_jobless (h : (s.sch.jobs.all fun j => j.key.ctx ≠ k) = true) : s.startClose k = s.onCtx k Ctx.closes := by
  have hjobs : (s.onCtx k Ctx.closes).sch.jobs.filter (fun j => j.key.ctx = k) = [] := by
    rw [State.onCtx_sch]
    exact List.filter_eq_nil_iff.mpr (by simpa using h)
  show ((s.onCtx k Ctx.closes).sch.jobs.filter fun j => j.key.ctx = k).foldl _ (s.onCtx k Ctx.closes) = _
  rw [hjobs]
  rfl

theorem freeSeqs_none (h : (s.kv.seqs.all fun q => q.ctx ≠ k) = true) : s.freeSeqs k = s := by
  have hseqs : s.kv.seqs.filter (fun q => q.ctx = k && !q.freeing) = [] :=
    List.filter_eq_nil_iff.mpr fun q hq => by
      have := List.all_eq_true.mp h q hq
      simp_all
  rw [State.freeSeqs, hseqs]
  rfl

/-- A close that holds nothing any more is settled: the context is closed and its allocations are free. -/
theorem settleClose_idle (hin : k = 256 ∨ k < s.hl.ctxs.length) (hclosing : (s.ctx k).closing = true)
    (hslots : (s.ctx k).slots = []) (hjobs : (s.sch.jobs.all fun j => j.key.ctx ≠ k) = true)
    (hseqs : (s.kv.seqs.all fun q => q.ctx ≠ k) = true) : ((s.settleClose k).ctx k).isOpen = false ∧
      (s.settleClose k).hl.allocs = s.hl.allocs.filter fun a => a.firmware || a.ctx ≠ k := by
  have hjobless : (s.sch.jobs.any fun j => j.key.ctx = k) = false := by simpa using hjobs
  have hseqless : (s.kv.seqs.any fun q => q.ctx = k) = false := by simpa using hseqs
  have hsettle : s.settleClose k = (((s.onHl fun h => { h with
      allocs := h.allocs.filter fun a => a.firmware || a.ctx ≠ k }).onCtx k fun x =>
      { x with isOpen := false, closing := false }).finish (· = .contextClose k) stOk) := by
    unfold State.settleClose
    simp [hclosing, hslots, hjobless, freeSeqs_none hseqs, hseqless]
  rw [hsettle]
  constructor
  · rw [isOpen_of_standing (standing_finish ..), ctx_onCtx_same (s := s.onHl _) hin]
  · refine (foldl_keeps (fun u : State => u.hl.allocs) (fun u c => uncompleted_allocs.complete u c stOk 0 0 0) _ _).trans ?_
    exact uncompleted_allocs.ctx ..

end OpenClose

/-- Settles O13: `freeCtx_lowest` for the context that is opened, `settleClose_idle` for the one that is closed. -/
theorem contextsOpenAndClose : Obligations.ContextsOpenAndClose := by
  refine ⟨fun c s k h hs hfree hgood => ?_, fun c s k h hs hk h0 hring hopen hclosing hslots hjobs hseqs => ?_,
    fun c s h => ⟨exec_devContextOpen_full h, exec_devContextOpen_bad h⟩,
    fun c s k h hk => ⟨exec_devContextClose_none h hk, exec_devContextClose_busy h hk, exec_devContextClose_begins h hk⟩⟩
  · obtain ⟨h1, hlt, hbefore⟩ := freeCtx_lowest hfree
    obtain ⟨hctx, hother, -⟩ := onCtx_only (s := begun c s) (in_ctxs_onCtx (in_ctxs_of_shaped hs hlt)) (Ctx.opened c.data)
    refine ⟨_, exec_devContextOpen_opens h hfree hgood, h1, hlt, ?_, ?_, ?_, ?_, ?_, ?_, ?_, ?_, ?_, ?_, ?_,
      fun j h1 hj => ?_, hother⟩
    iterate 11 rw [hctx]; rfl
    exact (isOpen_of_standing (standing_begun c s j)).symm.trans (hbefore j h1 hj)
  · have hlt : k < 256 := hk ▸ Nat.mod_lt _ (by decide)
    have hin := in_ctxs_of_shaped hs hlt
    have hbegun : (begun c s).ctx k = s.ctx k := ctx_onCtx_ne s (Ne.symm hring) _
    have hclose := startClose_jobless (s := begun c s) (k := k) (by simpa using hjobs)
    have hctx : ((begun c s).onCtx k Ctx.closes).ctx k = (s.ctx k).closes := by
      rw [ctx_onCtx_same (s := begun c s) (in_ctxs_onCtx hin), hbegun]
    rw [exec_devContextClose_begins h hk h0 hopen hclosing, hclose]
    obtain ⟨hclosed, hallocs⟩ := settleClose_idle (s := ((begun c s).onCtx k Ctx.closes).await c (.contextClose k))
      (k := k) (in_ctxs_onCtx (in_ctxs_onCtx hin)) (congrArg Ctx.closing hctx)
      ((congrArg Ctx.slots hctx).trans (by simp [Ctx.closes, hslots]))
      (by simpa [State.await] using hjobs) (by simpa [State.await] using hseqs)
    refine ⟨_, rfl, hclosed, fun a ha => ?_⟩
    rw [hallocs] at ha
    simpa using (List.mem_filter.mp ha).2

end Sys2Proof.Machine
end

section
/-! Causes of the safe state and the blocks that they leave; SAFE.TRIP and SAFE.QUERY (R399 to R401, R408). O54. -/

namespace Sys2Proof.Machine

open Sys2Proof.Safety

/-- In RUN a cause that arises is among the causes of the safe state that it decides or meets (R400, R401). -/
theorem State.decideSafe_causes {s : State} (c : Nat) (hrun : s.running = true) :
    (s.decideSafe c).asz.safe = true ∧ bitAt (s.decideSafe c).asz.causes c = true := by
  rw [State.decideSafe_asz, if_pos hrun]
  unfold Asz.decide
  split
  · next hsafe => exact ⟨hsafe, by simp [bitAt]⟩
  · exact ⟨rfl, by simp [bitAt]⟩

/-- Outside REPLAY, whose records are captured, a cause leaves memory. -/
theorem State.decideSafe_mem {s : State} (c : Nat) (hmode : s.dev.mode ≠ .replay) : (s.decideSafe c).mem = s.mem := by
  rcases s.decideSafe_cases c with ⟨h, -⟩ | ⟨-, -, h⟩ | ⟨-, -, h⟩ | ⟨-, -, h⟩
  · exact absurd h hmode
  · rw [h]; rfl
  · rw [h]; rfl
  · rw [h]
    split
    · exact State.recTrigger_mem ..
    · rfl

theorem ne_replay_of_running {s : State} (h : s.running = true) : s.dev.mode ≠ .replay := by
  intro hm
  simp [State.running, hm] at h

section Commands

variable {c : Cmd} {s : State}

@[simp] theorem running_begun (c : Cmd) (s : State) : (begun c s).running = s.running := running_of_dev (begun_dev c s)

theorem exec_safeTrip_trips (h : Starts 0xA 2 c s) (hrun : s.running = true) :
    exec (.safeTrip c) s = .next (((begun c s).decideSafe 1).complete c stOk) :=
  congrArg Host.Outcome.next ((runCmd_starts h _).trans (if_pos ((running_begun c s).trans hrun)))

theorem exec_safeTrip_outside (h : Starts 0xA 2 c s) (hrun : s.running = false) :
    exec (.safeTrip c) s = .next ((begun c s).complete c stMode) :=
  congrArg Host.Outcome.next ((runCmd_starts h _).trans (if_neg (by simp [hrun])))

theorem aszStatus_begun (c : Cmd) (s : State) : (begun c s).aszStatus = s.aszStatus :=
  of_begun State.aszStatus (fun _ _ => rfl) c s

theorem aszEstop_begun (c : Cmd) (s : State) : (begun c s).aszEstop = s.aszEstop :=
  of_begun State.aszEstop (fun _ _ => rfl) c s

theorem aszCounts_begun (c : Cmd) (s : State) : (begun c s).aszCounts = s.aszCounts :=
  of_begun State.aszCounts (fun _ _ => rfl) c s

theorem exec_safeQuery (h : Starts 0xA 4 c s) : exec (.safeQuery c) s =
    .next ((begun c s).complete c stOk (s.aszStatus + 2 ^ 32 * s.asz.causes) s.asz.entryLink
      (s.aszEstop + 2 ^ 32 * s.aszCounts)) := by
  refine congrArg Host.Outcome.next ((runCmd_starts h _).trans ?_)
  rw [aszStatus_begun, aszEstop_begun, aszCounts_begun, begun_asz]

end Commands

/-- Settles O54, by the equations of the two commands and what a cause does in RUN. -/
theorem safeTripAndQueryAnswer : Obligations.SafeTripAndQueryAnswer := by
  refine ⟨fun c s h hrun => ?_, fun c s h hrun => exec_safeTrip_outside h hrun, fun c s h => exec_safeQuery h⟩
  have hbrun : (begun c s).running = true := (running_begun c s).trans hrun
  obtain ⟨hsafe, hcause⟩ := State.decideSafe_causes 1 hbrun
  refine ⟨_, exec_safeTrip_trips h hrun, hsafe, hcause, fun hout => ?_, ?_, ?_⟩
  · obtain ⟨-, hfirst, hlink, hpending⟩ := State.decideSafe_first 1 hbrun ((congrArg Asz.safe (begun_asz c s)).trans hout)
    exact ⟨hfirst, hlink.trans (by rw [begun_tb]), hpending⟩
  · rw [State.decideSafe_mem 1 (ne_replay_of_running hbrun), begun_mem]
  · obtain ⟨htb, -⟩ := State.decideSafe_outside (begun c s) 1
    exact htb.trans (begun_tb c s)

end Sys2Proof.Machine
end

section
/-! The Assize's judgement of results (R379 to R385). O51. -/

namespace Sys2Proof.Machine

/-! The first part and the copies (R379, R380, R383). -/

section Judging

variable {s : State} {r : Result} {x : LinkState}

theorem exec_assizeFirstPart_idle (h : s.asz.copyModel = [] ∨ s.linesResolved = false) :
    exec .assizeFirstPart s = .next s :=
  congrArg Host.Outcome.next (if_pos (by simpa using h))

/-- The joint state of this link is kept for the second part. -/
theorem exec_assizeFirstPart_keeps (hmodel : s.asz.copyModel ≠ []) (hlines : s.linesResolved = true) :
    ∃ t : State, exec .assizeFirstPart s = .next t ∧
      t.asz.firstParts = (s.tb.link, s.linkState (parseModel s.asz.copyModel) s.asz.lastQuat) ::
        s.asz.firstParts.filter (fun x => x.1 + 1 = s.tb.link) ∧ t.mem = s.mem ∧ t.sol = s.sol ∧ t.hl = s.hl :=
  ⟨_, congrArg Host.Outcome.next (if_neg (by simp [hmodel, hlines])), rfl, rfl, rfl, rfl⟩

theorem exec_assizeCopyReload_due (hdue : s.asz.reloadDue = true) (hphase : s.phase s.tb.link % 100 = 0) :
    exec .assizeCopyReload s =
      .next (s.copyToAssize ((s.sol.model.map (·.raw)).getD []) ((s.sol.contacts.map (·.raw)).getD [])) :=
  congrArg Host.Outcome.next (if_neg (by simp [hdue, hphase]))

theorem exec_assizeCopyReload_idle (h : s.asz.reloadDue = false ∨ s.phase s.tb.link % 100 ≠ 0) :
    exec .assizeCopyReload s = .next s :=
  congrArg Host.Outcome.next (if_pos (by simpa using h))

/-! The second part (R381 to R384). -/

/-- With its first part kept, a result is judged two links after its samples. -/
theorem exec_assizeCheck_judges (hcheck : s.asz.check = some r) (hlink : r.n + 2 = s.tb.link)
    (hpart : (s.asz.firstParts.find? fun p => p.1 = r.n) = some (r.n, x)) :
    exec .assizeCheck s = .next (if s.resultPasses r x = true then
      s.onAsz fun a => { a with check := none, verdict := some (s.tb.link, r.tau) }
      else (s.onAsz fun a => { a with check := none }).disagree) := by
  show execAssizeCheck s = _
  unfold execAssizeCheck
  rw [hcheck]
  dsimp only
  rw [hpart]
  exact congrArg _ (if_neg (not_not.mpr hlink))

theorem exec_assizeCheck_idle
    (h : ∀ r ∈ s.asz.check, r.n + 2 ≠ s.tb.link ∨ (s.asz.firstParts.find? fun p => p.1 = r.n) = none) :
    exec .assizeCheck s = .next s := by
  show execAssizeCheck s = _
  unfold execAssizeCheck
  split
  · rfl
  · next r hr =>
    split
    · rfl
    · next hpart => exact congrArg _ (if_pos ((h r hr).resolve_right (by simp [hpart])))

theorem resultPasses_iff : s.resultPasses r x = true ↔ s.asz.paramsValid = true ∧ originOk r = true ∧
    s.residualOk r x = true ∧ s.limitOk (parseModel s.asz.copyModel) r = true ∧
      s.rateOk (parseModel s.asz.copyModel) r = true ∧ s.powerOk (parseModel s.asz.copyModel) r x = true := by
  simp only [State.resultPasses, Bool.and_eq_true, and_assoc]

theorem exec_assizeDeadlineMiss_due (hcheck : s.asz.check = some r) (hlink : r.n + 2 = s.tb.link) :
    exec .assizeDeadlineMiss s =
      .next ((s.onAsz fun a => { a with check := none, reloadDue := true }).disagree) := by
  show execAssizeDeadlineMiss s = _
  unfold execAssizeDeadlineMiss
  rw [hcheck]
  exact congrArg _ (if_neg (not_not.mpr hlink))

theorem exec_assizeDeadlineMiss_idle (h : ∀ r ∈ s.asz.check, r.n + 2 ≠ s.tb.link) :
    exec .assizeDeadlineMiss s = .next s := by
  show execAssizeDeadlineMiss s = _
  unfold execAssizeDeadlineMiss
  split
  · rfl
  · next r hr => exact congrArg _ (if_pos (h r hr))

end Judging

/-! Disagreements and their windows (R384, R385). -/

/-- The state once a disagreement is counted and stamped, before the windows are judged. -/
def State.disagreed (s : State) : State :=
  let s := (s.onAsz fun a => { a with
    disagreements := satInc 65535 a.disagreements
    disagreeLinks := if s.windowMode then s.tb.link :: s.inWindow 1000 a.disagreeLinks else a.disagreeLinks
    }).sched 6 none none
  if bitAt s.recd.triggers 2 then s.recTrigger true else s

theorem disagreed_control (s : State) : s.disagreed.tb = s.tb ∧ s.disagreed.dev = s.dev ∧
    s.disagreed.asz = { s.asz with
      disagreements := satInc 65535 s.asz.disagreements
      disagreeLinks := if s.windowMode then s.tb.link :: s.inWindow 1000 s.asz.disagreeLinks else s.asz.disagreeLinks } := by
  unfold State.disagreed
  extract_lets t
  split
  · obtain ⟨htb, hdev, hasz⟩ := t.recTrigger_control true
    exact ⟨htb, hdev, hasz⟩
  · exact ⟨rfl, rfl, rfl⟩

/-- A cause leaves the count and the stamps of the disagreements. -/
theorem State.decideSafe_disagreements (s : State) (c : Nat) :
    (s.decideSafe c).asz.disagreements = s.asz.disagreements ∧ (s.decideSafe c).asz.disagreeLinks = s.asz.disagreeLinks := by
  rw [State.decideSafe_asz]
  split
  · unfold Asz.decide
    split <;> exact ⟨rfl, rfl⟩
  · exact ⟨rfl, rfl⟩

/-- The narrower window of a list that the wider one has thinned. -/
theorem inWindow_inWindow (s : State) {w v : Nat} (h : w ≤ v) (ls : List Nat) :
    s.inWindow w (s.inWindow v ls) = s.inWindow w ls := by
  unfold State.inWindow
  rw [List.filter_filter]
  refine List.filter_congr fun l _ => ?_
  by_cases hw : s.tb.link < l + w
  · have hv : s.tb.link < l + v := by omega
    simp [hw, hv]
  · simp [hw]

theorem inWindow_of_tb {s t : State} (h : t.tb = s.tb) (w : Nat) (ls : List Nat) : t.inWindow w ls = s.inWindow w ls := by
  simp only [State.inWindow, h]

/-- A new stamp lies in every window. -/
theorem inWindow_stamped (s : State) {w v : Nat} (hw : 0 < w) (h : w ≤ v) (ls : List Nat) :
    (s.inWindow w (s.tb.link :: s.inWindow v ls)).length = (s.inWindow w ls).length + 1 := by
  have hnew : s.inWindow w (s.tb.link :: s.inWindow v ls) = s.tb.link :: s.inWindow w (s.inWindow v ls) :=
    List.filter_cons_of_pos (by simp [hw])
  rw [hnew, inWindow_inWindow s h, List.length_cons]

theorem windowMode_of_running {s : State} (h : s.running = true) : s.windowMode = true := by simp [State.windowMode, h]

/-- In RUN the windows judge the disagreement: the third within 100 links is cause 6, the tenth within 1,000 cause 7. -/
theorem disagree_eq {s : State} (hrun : s.running = true) : s.disagree =
    let t := if 2 ≤ (s.inWindow 100 s.asz.disagreeLinks).length then s.disagreed.decideSafe 6 else s.disagreed
    if 9 ≤ (s.inWindow 1000 s.asz.disagreeLinks).length then t.decideSafe 7 else t := by
  obtain ⟨htb, hdev, hasz⟩ := disagreed_control s
  have hmode : s.disagreed.windowMode = true := windowMode_of_running ((running_of_dev hdev).trans hrun)
  have hlinks : s.disagreed.asz.disagreeLinks = s.tb.link :: s.inWindow 1000 s.asz.disagreeLinks := by
    rw [hasz, if_pos (windowMode_of_running hrun)]
  have hwindow (t : State) (ht : t.tb = s.tb) (hl : t.asz.disagreeLinks = s.disagreed.asz.disagreeLinks) {w : Nat}
      (h0 : 0 < w) (hw : w ≤ 1000) :
      (t.inWindow w t.asz.disagreeLinks).length = (s.inWindow w s.asz.disagreeLinks).length + 1 := by
    rw [hl, hlinks, inWindow_of_tb ht, inWindow_stamped s h0 hw]
  have h100 := hwindow s.disagreed htb rfl (w := 100) (by decide) (by decide)
  obtain ⟨htb6, -⟩ := s.disagreed.decideSafe_outside 6
  have h6 := hwindow (s.disagreed.decideSafe 6) (htb6.trans htb) (State.decideSafe_disagreements ..).2 (w := 1000)
    (by decide) (by decide)
  have h1000 := hwindow s.disagreed htb rfl (w := 1000) (by decide) (by decide)
  have hdef : s.disagree = if !s.disagreed.windowMode then s.disagreed
      else
        let t := if 3 ≤ (s.disagreed.inWindow 100 s.disagreed.asz.disagreeLinks).length then s.disagreed.decideSafe 6
          else s.disagreed
        if 10 ≤ (t.inWindow 1000 t.asz.disagreeLinks).length then t.decideSafe 7 else t := rfl
  rw [hdef, if_neg (by simp [hmode]), h100]
  dsimp only
  by_cases hthird : 2 ≤ (s.inWindow 100 s.asz.disagreeLinks).length
  · rw [if_pos hthird, if_pos (Nat.succ_le_succ hthird), h6]
    exact if_congr Nat.succ_le_succ_iff rfl rfl
  · rw [if_neg hthird, if_neg (mt Nat.le_of_succ_le_succ hthird), h1000]
    exact if_congr Nat.succ_le_succ_iff rfl rfl

/-- What the windows leave of the count, and what they decide. -/
theorem disagree_decides {s : State} (hrun : s.running = true) (hsafe : s.asz.safe = false) :
    (s.disagree).asz.disagreements = satInc 65535 s.asz.disagreements ∧
    ((s.inWindow 100 s.asz.disagreeLinks).length = 2 → (s.disagree).asz.safe = true ∧
      (s.disagree).asz.firstCause = 6 ∧ (s.disagree).asz.entryLink = s.tb.link) ∧
    ((s.inWindow 100 s.asz.disagreeLinks).length < 2 → (s.inWindow 1000 s.asz.disagreeLinks).length < 9 →
      (s.disagree).asz.safe = false) := by
  obtain ⟨htb, hdev, hasz⟩ := disagreed_control s
  have hdrun : s.disagreed.running = true := (running_of_dev hdev).trans hrun
  have hdsafe : s.disagreed.asz.safe = false := by rw [hasz, hsafe]
  have hcount : s.disagreed.asz.disagreements = satInc 65535 s.asz.disagreements := by rw [hasz]
  rw [disagree_eq hrun]
  dsimp only
  refine ⟨?_, fun hthird => ?_, fun hfew hfew' => ?_⟩
  · have hkeep (b : Prop) [Decidable b] (u : State) (c : Nat) :
        (if b then u.decideSafe c else u).asz.disagreements = u.asz.disagreements := by
      split
      · exact (State.decideSafe_disagreements u c).1
      · rfl
    rw [hkeep, hkeep, hcount]
  · obtain ⟨hentered, hcause, hlink, -⟩ := State.decideSafe_first 6 hdrun hdsafe
    rw [htb] at hlink
    rw [if_pos hthird.ge]
    split
    · obtain ⟨-, hdev6, -⟩ := s.disagreed.decideSafe_outside 6
      have hrun6 := (running_of_dev hdev6).trans hdrun
      obtain ⟨hcause7, hlink7, -⟩ := State.decideSafe_later 7 hrun6 hentered
      exact ⟨(State.decideSafe_causes 7 hrun6).1, hcause7.trans hcause, hlink7.trans hlink⟩
    · exact ⟨hentered, hcause, hlink⟩
  · rw [if_neg (Nat.not_le.mpr hfew), if_neg (Nat.not_le.mpr hfew')]
    exact hdsafe

/-! The check of the copies (R380). -/

/-- The copies with the bits `flips` turned over, model then contacts. -/
def State.flipped (s : State) (flips : List Nat) : List Byte :=
  flips.foldl (fun bs k => flipBit k bs) (s.asz.copyModel ++ s.asz.copyContacts)

/-- The Assize with these copies. -/
def State.holding (s : State) (all : List Byte) : State :=
  s.onAsz fun a => { a with copyModel := all.take a.copyModel.length, copyContacts := all.drop a.copyModel.length }

theorem exec_assizeCopyCheck_good {s : State} {flips : List Nat}
    (h : s.asz.copyModel = [] ∨ crc32c (s.flipped flips) = s.asz.copyCrc) :
    exec (.assizeCopyCheck flips) s = .next (s.holding (s.flipped flips)) :=
  congrArg Host.Outcome.next (if_pos (Bool.or_eq_true_iff.mpr (h.imp decide_eq_true decide_eq_true)))

theorem exec_assizeCopyCheck_bad {s : State} {flips : List Nat} (hmodel : s.asz.copyModel ≠ [])
    (hcrc : crc32c (s.flipped flips) ≠ s.asz.copyCrc) :
    exec (.assizeCopyCheck flips) s = .next ((s.holding (s.flipped flips)).decideSafe 22) := by
  refine congrArg Host.Outcome.next (if_neg fun h => ?_)
  exact (Bool.or_eq_true_iff.mp h).elim (fun h => hmodel (of_decide_eq_true h)) fun h => hcrc (of_decide_eq_true h)

/-- Settles O51: each row by its equation, disagreements by `disagree_decides`, cause 22 by what a cause does. -/
theorem assizeJudgesEveryResult : Obligations.AssizeJudgesEveryResult := by
  refine ⟨fun s => exec_assizeFirstPart_keeps, fun s => exec_assizeFirstPart_idle, fun s r x => exec_assizeCheck_judges,
    fun s => exec_assizeCheck_idle, fun s r x => resultPasses_iff, fun s r => exec_assizeDeadlineMiss_due,
    fun s => exec_assizeDeadlineMiss_idle, fun s => disagree_decides,
    fun s hdue hphase => ⟨_, exec_assizeCopyReload_due hdue hphase, rfl, rfl, rfl, rfl, rfl⟩,
    fun s => exec_assizeCopyReload_idle, fun s flips => ⟨exec_assizeCopyCheck_good, fun hmodel hcrc => ?_⟩⟩
  obtain ⟨-, -, hlatched, -⟩ := (s.holding (s.flipped flips)).decideSafe_latches (c := 22) (by decide)
  exact ⟨exec_assizeCopyCheck_bad hmodel hcrc, hlatched, fun hrun => State.decideSafe_causes 22 hrun⟩

end Sys2Proof.Machine
end

section
/-! Emergency stops and the sequence of the safe state (R394 to R402, R407). O53. -/

namespace Sys2Proof.Machine

open Sys2Proof.Safety

/-! Emergency-stop channels: one argument for both (R394, R396). -/

/-- A channel of the Assize, and the cause that its assertion is. -/
def Asz.estop (a : Asz) : Pair → Estop
  | .a => a.estopA
  | .b => a.estopB
def Asz.onEstop (a : Asz) (p : Pair) (f : Estop → Estop) : Asz :=
  match p with
  | .a => { a with estopA := f a.estopA }
  | .b => { a with estopB := f a.estopB }
def Pair.estopCause : Pair → Nat
  | .a => 2
  | .b => 3

/-- The channel is asserted, or not. -/
def State.estopSet (s : State) (p : Pair) (v : Bool) : State :=
  s.onAsz fun a => Asz.onEstop a p fun e => { e with asserted := v }

section Channels

variable {s : State} {p : Pair}

theorem exec_estopChannelAssert (s : State) (p : Pair) : exec (.estopChannelAssert p) s = .next (
    if (Asz.estop s.asz p).lowRun < 2 || (Asz.estop s.asz p).asserted then s
    else if (Asz.estop s.asz p).chatter then s.estopSet p true
    else (s.estopSet p true).decideSafe (Pair.estopCause p)) := by
  cases p <;> rfl

theorem exec_estopChannelDeassert (s : State) (p : Pair) : exec (.estopChannelDeassert p) s =
    .next (if (Asz.estop s.asz p).highRun < 2 then s else s.estopSet p false) := by
  cases p <;> rfl

theorem exec_estopChannelAssert_due (hlow : 2 ≤ (Asz.estop s.asz p).lowRun) (hout : (Asz.estop s.asz p).asserted = false) :
    exec (.estopChannelAssert p) s = .next (if (Asz.estop s.asz p).chatter then s.estopSet p true
      else (s.estopSet p true).decideSafe (Pair.estopCause p)) := by
  rw [exec_estopChannelAssert, if_neg (by simp [hout, Nat.not_lt.mpr hlow])]

theorem exec_estopChannelAssert_idle (h : (Asz.estop s.asz p).lowRun < 2 ∨ (Asz.estop s.asz p).asserted = true) :
    exec (.estopChannelAssert p) s = .next s := by
  rw [exec_estopChannelAssert, if_pos (by simpa using h)]

theorem exec_estopChannelDeassert_due (hhigh : 2 ≤ (Asz.estop s.asz p).highRun) :
    exec (.estopChannelDeassert p) s = .next (s.estopSet p false) := by
  rw [exec_estopChannelDeassert, if_neg (Nat.not_lt.mpr hhigh)]

theorem exec_estopChannelDeassert_idle (h : (Asz.estop s.asz p).highRun < 2) :
    exec (.estopChannelDeassert p) s = .next s := by
  rw [exec_estopChannelDeassert, if_pos h]

/-- A cause leaves the channels and what follows from their runs. -/
theorem State.decideSafe_estops (s : State) (c : Nat) : (s.decideSafe c).asz.estopA = s.asz.estopA ∧
    (s.decideSafe c).asz.estopB = s.asz.estopB ∧ (s.decideSafe c).asz.discrepancy = s.asz.discrepancy ∧
      (s.decideSafe c).asz.clearRun = s.asz.clearRun ∧ (s.decideSafe c).asz.estopClear = s.asz.estopClear := by
  rw [State.decideSafe_asz]
  split
  · unfold Asz.decide
    split <;> exact ⟨rfl, rfl, rfl, rfl, rfl⟩
  · exact ⟨rfl, rfl, rfl, rfl, rfl⟩

/-- Two low samples assert a channel that does not chatter; in RUN its cause decides the safe state. -/
theorem exec_estopChannelAssert_asserts (hlow : 2 ≤ (Asz.estop s.asz p).lowRun)
    (hout : (Asz.estop s.asz p).asserted = false) (hquiet : (Asz.estop s.asz p).chatter = false)
    (hmode : s.dev.mode ≠ .replay) :
    ∃ t : State, exec (.estopChannelAssert p) s = .next t ∧ t.asz.estopA = (s.estopSet p true).asz.estopA ∧
      t.asz.estopB = (s.estopSet p true).asz.estopB ∧ t.mem = s.mem ∧
      (s.running = true → s.asz.safe = false → t.asz.safe = true ∧ t.asz.firstCause = Pair.estopCause p) ∧
      (s.running = false → t.asz.safe = s.asz.safe) := by
  have hsafe : (s.estopSet p true).asz.safe = s.asz.safe := by cases p <;> rfl
  obtain ⟨ha, hb, -⟩ := (s.estopSet p true).decideSafe_estops (Pair.estopCause p)
  refine ⟨_, (exec_estopChannelAssert_due hlow hout).trans (congrArg _ (if_neg (by simp [hquiet]))), ha, hb,
    State.decideSafe_mem _ hmode, fun hrun hnot => ?_, fun hrun => ?_⟩
  · obtain ⟨hentered, hcause, -⟩ := State.decideSafe_first (s := s.estopSet p true) (Pair.estopCause p) hrun
      (hsafe.trans hnot)
    exact ⟨hentered, hcause⟩
  · rw [State.decideSafe_idle (s := s.estopSet p true) _ hmode hrun]
    exact hsafe

end Channels

/-! Discrepancy and clearing (R397, R398). -/

section Discrepancy

variable {s : State}

theorem exec_estopDiscrepancy_idle (h : s.asz.differRun ≤ 100 ∨ s.asz.discrepancy = true) :
    exec .estopDiscrepancy s = .next s :=
  congrArg Host.Outcome.next (if_pos (by simpa using h))

theorem exec_estopDiscrepancy_latches (hrun : 100 < s.asz.differRun) (hdisc : s.asz.discrepancy = false) :
    ∃ t : State, exec .estopDiscrepancy s = .next t ∧ t.asz.discrepancy = true ∧ t.asz.clearRun = 0 ∧
      t.asz.estopClear = false ∧ bitAt t.hl.events 1 = true ∧
      (s.running = true → t.asz.safe = true ∧ bitAt t.asz.causes 4 = true) := by
  let u := s.onAsz fun a => { a with discrepancy := true, bothAsserted := false, clearRun := 0, estopClear := false }
  obtain ⟨-, hdev, hasz⟩ := u.raiseEvent_control 1
  obtain ⟨-, -, hlatched, hclear, hcleared⟩ := (u.raiseEvent 1).decideSafe_estops 4
  rw [hasz] at hlatched hclear hcleared
  refine ⟨(u.raiseEvent 1).decideSafe 4, congrArg Host.Outcome.next (if_neg ?_), hlatched, hclear, hcleared, ?_,
    fun h => State.decideSafe_causes 4 ((running_of_dev hdev).trans h)⟩
  · simp [hdisc, Nat.not_le.mpr hrun]
  · rw [State.decideSafe_hl]
    exact State.raiseEvent_event u 1

theorem exec_estopClear_due (h : 1000 ≤ s.asz.clearRun) :
    exec .estopClear s = .next (s.onAsz fun a => { a with estopClear := true }) :=
  congrArg Host.Outcome.next (if_neg (Nat.not_lt.mpr h))

theorem exec_estopClear_idle (h : s.asz.clearRun < 1000) : exec .estopClear s = .next s :=
  congrArg Host.Outcome.next (if_pos h)

end Discrepancy

/-! The entry and its phases (R400). -/

/-- The broadcast touches CAN alone. -/
theorem broadcast_leaves (s : State) : s.broadcast.asz = s.asz ∧ s.broadcast.mem = s.mem ∧ s.broadcast.pins = s.pins := by
  unfold State.broadcast
  dsimp only
  split
  · exact ⟨rfl, rfl, rfl⟩
  · split <;> exact ⟨rfl, rfl, rfl⟩

@[simp] theorem raiseEvent_pins (s : State) (v : Nat) : (s.raiseEvent v).pins = s.pins := by
  have hrec (b : Bool) : (if b then s.recTrigger true else s).pins = s.pins := by
    cases b
    · rfl
    · exact (s.recTrigger_outside true).1
  unfold State.raiseEvent
  extract_lets t
  split
  · exact hrec _
  · unfold State.sendVector
    split <;> exact hrec _

section Entry

variable {s : State}

/-- The outputs with which the safe state is entered. -/
def State.safeEntering (s : State) : State := (s.onAsz fun a => { a with entryPending := false }).driveSafe

theorem exec_safeStateEntry_pending (h : s.asz.entryPending = true) :
    exec .safeStateEntry s = .next (s.safeEntering.broadcast.raiseEvent 1) :=
  congrArg Host.Outcome.next (if_neg (by simp [h]))

theorem exec_safeStateEntry_idle (h : s.asz.entryPending = false) : exec .safeStateEntry s = .next s :=
  congrArg Host.Outcome.next (if_pos (by simp [h]))

theorem entry_leaves (s : State) : (s.safeEntering.broadcast.raiseEvent 1).asz = { s.asz with entryPending := false } ∧
    bitAt (s.safeEntering.broadcast.raiseEvent 1).hl.events 1 = true ∧
      (s.safeEntering.broadcast.raiseEvent 1).mem = s.mem ∧
        (s.safeEntering.broadcast.raiseEvent 1).pins = s.safeEntering.pins := by
  obtain ⟨hasz, hmem, hpins⟩ := broadcast_leaves s.safeEntering
  obtain ⟨-, -, hraised⟩ := s.safeEntering.broadcast.raiseEvent_control 1
  exact ⟨hraised.trans hasz, State.raiseEvent_event _ 1, (State.raiseEvent_mem ..).trans hmem,
    (raiseEvent_pins ..).trans hpins⟩

/-- In the safe state the fault outputs are low and the safe-state output is high. -/
theorem safeEntering_pins (hsafe : s.asz.safe = true) (hrun : s.running = true) (hreset : s.dev.inReset = false)
    (hvaux : s.asz.vauxBad = false) : s.safeEntering.pins.faultA = .low ∧ s.safeEntering.pins.faultB = .low ∧
      s.safeEntering.pins.safeState = .high := by
  have hfault (ok : Bool) : (s.onAsz fun a => { a with entryPending := false }).faultPin ok = .low := by
    simp [State.faultPin, hreset, hvaux, hsafe]
  have hpin : (s.onAsz fun a => { a with entryPending := false }).safePin = .high := by
    have hrun' : (s.onAsz fun a => { a with entryPending := false }).running = true := hrun
    simp [State.safePin, hreset, hvaux, hsafe, hrun']
  exact ⟨hfault _, hfault _, hpin⟩

theorem exec_torqueOffPhaseStart_due (hsafe : s.asz.safe = true) (hover : s.dampOver = true) :
    exec .torqueOffPhaseStart s = .next (s.onAsz fun a => { a with torqueOff := true }) :=
  congrArg Host.Outcome.next (if_pos (by simp [hsafe, hover]))

theorem exec_torqueOffPhaseStart_idle (h : s.asz.safe = false ∨ s.dampOver = false) :
    exec .torqueOffPhaseStart s = .next s :=
  congrArg Host.Outcome.next (if_neg (by rcases h with h | h <;> simp [h]))

end Entry

/-! The release (R402, R404). -/

section Release

variable {s : State} {l : Nat}

theorem exec_safeReleaseEffect_idle (h : ∀ l ∈ s.asz.releaseAt, s.tb.link < l) : exec .safeReleaseEffect s = .next s := by
  show execSafeReleaseEffect s = _
  unfold execSafeReleaseEffect
  split
  · rfl
  · next l hl => exact congrArg _ (if_pos (h l hl))

theorem exec_safeReleaseEffect_due (hat : s.asz.releaseAt = some l) (hl : l ≤ s.tb.link) :
    exec .safeReleaseEffect s = .next (if s.asz.releaseCancelled then
        (s.onAsz fun a => { a with releaseAt := none, releaseCancelled := false }).finish (· = .safeRelease) stSafeState
      else ((s.onAsz fun a => { a with disagreeLinks := [], offUntilPass := true }).onSol
        fun x => { x with holdRun := 0 }).endSafe) := by
  show execSafeReleaseEffect s = _
  unfold execSafeReleaseEffect
  rw [hat]
  exact congrArg _ (if_neg (Nat.not_lt.mpr hl))

theorem finish_outside (s : State) (p : Wait → Bool) (status res0 res1 res2 : Nat) :
    (s.finish p status res0 res1 res2).pins = s.pins ∧ (s.finish p status res0 res1 res2).sol = s.sol := by
  obtain ⟨-, -, hpins, -, -, -, -, -, -, -, hsol, -⟩ := (KeepsBlocks.refl s).finish p status res0 res1 res2
  exact ⟨hpins, hsol⟩

/-- The safe state ends: its causes go, and in RUN the fault output of a running pair rises again. -/
theorem endSafe_ends (s : State) : s.endSafe.asz = { s.asz with
      safe := false, torqueOff := false, entryPending := false, firstCause := 0, causes := 0, releaseAt := none
      releaseCancelled := false } ∧ s.endSafe.sol = s.sol ∧ s.endSafe.awaiting (· = .safeRelease) = [] ∧
    (s.running = true → s.dev.inReset = false → s.asz.vauxBad = false →
      s.endSafe.pins.safeState = .low ∧ (s.asz.pairAOk = true → s.endSafe.pins.faultA = .high)) := by
  let u := s.onAsz fun a => { a with
    safe := false, torqueOff := false, entryPending := false, firstCause := 0, causes := 0, releaseAt := none
    releaseCancelled := false }
  obtain ⟨-, -, hasz⟩ := u.driveSafe.finish_control (· = .safeRelease) stOk 0 0 0
  obtain ⟨hpins, hsol⟩ := finish_outside u.driveSafe (· = .safeRelease) stOk 0 0 0
  refine ⟨hasz, hsol, finish_awaiting .., fun hrun hreset hvaux => ?_⟩
  have hrun' : u.running = true := hrun
  have hpin : u.safePin = .low := by simp [State.safePin, u, hreset, hvaux]
  refine ⟨(congrArg Pins.safeState hpins).trans hpin, fun hpair => (congrArg Pins.faultA hpins).trans ?_⟩
  have hfault : u.faultPin true = .high := by
    simp [State.faultPin, hrun', u, hreset, hvaux]
  exact (congrArg u.faultPin hpair).trans hfault

end Release

/-! SAFE.RELEASE and SAFE.CONFIG (R402, R407). -/

section Commands

variable {c : Cmd} {s : State}

@[simp] theorem mayRelease_begun (c : Cmd) (s : State) : (begun c s).mayRelease = s.mayRelease :=
  of_begun State.mayRelease (fun _ _ => rfl) c s

theorem exec_safeRelease (h : Starts 0xA 3 c s) : exec (.safeRelease c) s = .next (
    if !s.asz.safe then (begun c s).complete c stOk
    else if !s.mayRelease then (begun c s).complete c stSafeState
    else ((begun c s).onAsz fun a => { a with releaseAt := some (a.releaseAt.getD (s.tb.link + 1)) }).await c
      .safeRelease) := by
  refine congrArg Host.Outcome.next ((runCmd_starts h _).trans ?_)
  rw [mayRelease_begun, begun_asz, begun_tb]

theorem exec_safeConfig (h : Starts 0xA 1 c s) : exec (.safeConfig c) s = .next (
    if s.dev.mode ≠ .config then (begun c s).complete c stMode
    else if paramsStatus c.data ≠ stOk then (begun c s).complete c (paramsStatus c.data)
    else ((begun c s).onAsz fun a => { a with params := c.data, paramsValid := true }).complete c stOk) := by
  refine congrArg Host.Outcome.next ((runCmd_starts h _).trans ?_)
  rw [begun_dev]

end Commands

/-- Settles O53: the channels by `exec_estopChannelAssert_asserts`, the entry by `entry_leaves` and `safeEntering_pins`, the
release by `endSafe_ends`. -/
theorem emergencyStopsAndTheSafeSequence : Obligations.EmergencyStopsAndTheSafeSequence := by
  refine ⟨fun s => exec_estopChannelAssert_asserts (p := .a), fun s hlow hout hquiet hmode => ?_,
    fun s => ⟨fun h => exec_estopChannelAssert_idle (p := .a) (.inl h), exec_estopChannelDeassert_idle (p := .a),
      exec_estopChannelDeassert_due (p := .a), exec_estopChannelDeassert_due (p := .b),
      exec_estopChannelDeassert_idle (p := .b), fun h => exec_estopChannelAssert_idle (p := .b) (.inl h),
      fun h => exec_estopChannelAssert_idle (p := .a) (.inr h), fun h => exec_estopChannelAssert_idle (p := .b) (.inr h),
      exec_estopChannelAssert_due (p := .a), exec_estopChannelAssert_due (p := .b)⟩,
    fun s => exec_estopDiscrepancy_latches,
    fun s => ⟨exec_estopDiscrepancy_idle, exec_estopClear_due, exec_estopClear_idle⟩,
    fun s hpending hsafe hrun hreset hvaux => ?_, fun s => ⟨fun hpending => ?_, exec_safeStateEntry_idle⟩,
    fun s => ⟨exec_torqueOffPhaseStart_due, exec_torqueOffPhaseStart_idle⟩, fun s => exec_safeReleaseEffect_idle,
    fun s l hat hl => ⟨fun hgo => ?_, fun hcancelled => ?_⟩,
    fun c s h => ⟨fun hsafe => ?_, fun hsafe hmay => ?_, fun hsafe hmay => ?_⟩,
    fun c s h => ⟨fun hmode hgood => ?_, fun hmode hbad => ?_, fun hmode => ?_⟩⟩
  · obtain ⟨t, hexec, ha, hb, hkept⟩ := exec_estopChannelAssert_asserts (p := .b) hlow hout hquiet hmode
    exact ⟨t, hexec, hb, ha, hkept⟩
  · obtain ⟨hasz, hevent, hmem, hpins⟩ := entry_leaves s
    obtain ⟨ha, hb, hhigh⟩ := safeEntering_pins hsafe hrun hreset hvaux
    rw [← hpins] at ha hb hhigh
    exact ⟨_, exec_safeStateEntry_pending hpending, by rw [hasz], ha, hb, hhigh, hevent, hmem, by rw [hasz, hsafe],
      by rw [hasz]⟩
  · obtain ⟨hasz, hevent, hmem, -⟩ := entry_leaves s
    exact ⟨_, exec_safeStateEntry_pending hpending, hasz, hevent, hmem⟩
  · obtain ⟨hasz, hsol, hawait, hpins⟩ := endSafe_ends
      ((s.onAsz fun a => { a with disagreeLinks := [], offUntilPass := true }).onSol fun x => { x with holdRun := 0 })
    exact ⟨_, (exec_safeReleaseEffect_due hat hl).trans (congrArg _ (if_neg (by simp [hgo]))), by rw [hasz], by rw [hasz],
      by rw [hasz]; rfl, by rw [hasz]; rfl, by rw [hsol]; rfl, hawait, hpins⟩
  · obtain ⟨-, -, hasz⟩ := (s.onAsz fun a => { a with releaseAt := none, releaseCancelled := false }).finish_control
      (· = .safeRelease) stSafeState 0 0 0
    exact ⟨_, (exec_safeReleaseEffect_due hat hl).trans (congrArg _ (if_pos hcancelled)), by rw [hasz]; rfl,
      by rw [hasz]; rfl, by rw [hasz]; rfl, finish_awaiting ..⟩
  · simp [exec_safeRelease h, hsafe]
  · simp [exec_safeRelease h, hsafe, hmay]
  · simp [exec_safeRelease h, hsafe, hmay]
  · simp [exec_safeConfig h, hmode, hgood]
  · simp [exec_safeConfig h, hmode, hbad]
  · simp [exec_safeConfig h, hmode]

end Sys2Proof.Machine
end

section
/-! Power commands and retained idle (R520, R524 to R527). O32. -/

namespace Sys2Proof.Machine

open Sys2Proof.Safety

/-- What each turn of a fold establishes for its element, and later turns keep, holds of every element at the end. -/
theorem foldl_establishes {σ : Type} {f : σ → Nat → σ} {Q : σ → Prop} {P : Nat → σ → Prop}
    (hQ : ∀ u i, Q u → Q (f u i)) (hset : ∀ u i, Q u → P i (f u i)) (hkeep : ∀ u i j, i ≠ j → P i u → P i (f u j))
    (l : List Nat) : ∀ u, Q u → ∀ i, (i ∈ l ∨ P i u) → P i (l.foldl f u) := by
  induction l with
  | nil => exact fun u _ i hi => hi.resolve_left List.not_mem_nil
  | cons j l ih =>
    intro u hu i hi
    refine ih (f u j) (hQ u j hu) i ?_
    by_cases hij : i = j
    · exact .inr (hij ▸ hset u i hu)
    · rcases hi with hi | hi
      · exact .inl ((List.mem_cons.mp hi).resolve_left hij)
      · exact .inr (hkeep u i j hij hi)

/-! PWR.LIMIT and PWR.QUERY (R433, R520). -/

section Commands

variable {c : Cmd} {s : State}

theorem exec_pwrLimit (h : Starts 0xF 2 c s) : exec (.pwrLimit c) s = .next (
    if c.word 0 = 0 then ((begun c s).onPwr fun p => { p with cap := 120 }).complete c stOk
    else if c.word 0 < 40 || 120 < c.word 0 then (begun c s).complete c stLimit
    else ((begun c s).onPwr fun p => { p with cap := c.word 0 }).complete c stOk) :=
  congrArg Host.Outcome.next (runCmd_starts h _)

theorem exec_pwrQuery (h : Starts 0xF 3 c s) : exec (.pwrQuery c) s = .next ((begun c s).complete c stOk s.pwr.packageMw
    ((s.pwr.therm.map (·.junction)).foldl max 0 + 256 * (s.dram.map (·.temp)).foldl max 0) s.opBits) := by
  have hop : (begun c s).opBits = s.opBits := of_begun State.opBits (fun _ _ => rfl) c s
  refine congrArg Host.Outcome.next ((runCmd_starts h _).trans ?_)
  rw [begun_pwr, begun_dram, hop]

/-! PWR.STATE (R524, R526, R527). -/

@[simp] theorem transfersRun_begun (c : Cmd) (s : State) : (begun c s).transfersRun = s.transfersRun := by
  rw [State.transfersRun, State.transfersRun, State.awaiting, State.awaiting, begun_sch, begun_kv, begun_opens]

/-- The stacks go to self-refresh. -/
def State.resting (s : State) : State :=
  (List.range 4).foldl (fun x d => x.onDram d fun m => { m with selfRefresh := true })
    (s.onPwr fun p => { p with state := .entering })

theorem exec_pwrStateEnterRetainedIdle (h : Starts 0xF 1 c s) (henter : bitAt (c.word 0) 0 = true) :
    exec (.pwrStateEnterRetainedIdle c) s = .next (
      if s.dev.mode ≠ .config then (begun c s).complete c stMode
      else if s.pwr.state = .entering || s.pwr.state = .leaving then (begun c s).complete c stBusy
      else if s.pwr.state = .retained then (begun c s).complete c stOk
      else if s.transfersRun then (begun c s).complete c stBusy
      else (begun c s).resting.await c .powerEnter) := by
  refine congrArg Host.Outcome.next ((if_neg (by simp [henter])).trans ((runCmd_starts h _).trans ?_))
  rw [begun_dev, begun_pwr, transfersRun_begun]
  rfl

theorem exec_pwrStateLeaveRetainedIdle (h : Starts 0xF 1 c s) (hleave : bitAt (c.word 0) 0 = false) :
    exec (.pwrStateLeaveRetainedIdle c) s = .next (
      if s.pwr.state = .entering || s.pwr.state = .leaving then (begun c s).complete c stBusy
      else if s.pwr.state = .active then (begun c s).complete c stOk
      else ((begun c s).onPwr fun p => { p with state := .leaving }).await c .powerLeave) := by
  refine congrArg Host.Outcome.next ((if_neg (by simp [hleave])).trans ((runCmd_starts h _).trans ?_))
  rw [begun_pwr]

theorem exec_pwrStateEnterRetainedIdle_leave (hleave : bitAt (c.word 0) 0 = false) :
    exec (.pwrStateEnterRetainedIdle c) s = .next s :=
  congrArg Host.Outcome.next (if_pos (by simp [hleave]))

theorem exec_pwrStateLeaveRetainedIdle_enter (henter : bitAt (c.word 0) 0 = true) :
    exec (.pwrStateLeaveRetainedIdle c) s = .next s :=
  congrArg Host.Outcome.next (if_pos henter)

end Commands

/-! The ends of the transition (R525, R526). -/

section Transition

variable {s : State}

theorem dramAt_onDram_ne (s : State) {i d : Nat} (h : i ≠ d) (f : Dram → Dram) : (s.onDram d f).dramAt i = s.dramAt i := by
  have hother : (s.dram.modify d f)[i]? = s.dram[i]? := by simp [Ne.symm h]
  simp [State.dramAt, hother]

/-- An update of every stack reaches each of them. -/
theorem foldl_onDram {β : Type} (p : Dram → β) {f : Dram → Dram} {v : β} (hf : ∀ m, p (f m) = v) {s : State}
    (hlen : s.dram.length = 4) {d : Nat} (hd : d < 4) :
    p (((List.range 4).foldl (fun x i => x.onDram i f) s).dramAt d) = v := by
  refine foldl_establishes (Q := fun u : State => u.dram.length = 4) (P := fun i u => i < 4 → p (u.dramAt i) = v)
    (fun u i hu => ?_) (fun u i hu hi => ?_) (fun u i j hij hu hi => ?_) (List.range 4) s hlen d
    (.inl (List.mem_range.mpr hd)) hd
  · simpa using hu
  · rw [State.dramAt_onDram (by omega), hf]
  · rw [dramAt_onDram_ne u hij, hu hi]

theorem resting_rests (hlen : s.dram.length = 4) : s.resting.pwr.state = .entering ∧
    (∀ d, d < 4 → (s.resting.dramAt d).selfRefresh = true) ∧ s.resting.hl = s.hl ∧ s.resting.mem = s.mem := by
  have hkeep := foldl_keeps (fun u : State => (u.pwr, u.hl, u.mem))
    (f := fun x d => x.onDram d fun m => { m with selfRefresh := true }) (fun _ _ => rfl) (List.range 4)
    (s.onPwr fun p => { p with state := .entering })
  obtain ⟨hpwr, hrest⟩ := Prod.mk.inj hkeep
  obtain ⟨hhl, hmem⟩ := Prod.mk.inj hrest
  refine ⟨congrArg Pwr.state hpwr, fun d hd => ?_, hhl, hmem⟩
  exact foldl_onDram Dram.selfRefresh (v := true) (by intro; rfl) (s := s.onPwr fun p => { p with state := .entering })
    hlen hd

theorem exec_retainedIdleEntered_idle (h : s.pwr.state ≠ .entering) : exec .retainedIdleEntered s = .next s :=
  congrArg Host.Outcome.next (if_pos h)

theorem exec_retainedIdleLeft_idle (h : s.pwr.state ≠ .leaving) : exec .retainedIdleLeft s = .next s :=
  congrArg Host.Outcome.next (if_pos h)

/-- A completion leaves power, the stacks and the time base. -/
theorem finish_power (s : State) (p : Wait → Bool) (status res0 res1 res2 : Nat) :
    (s.finish p status res0 res1 res2).pwr = s.pwr ∧ (s.finish p status res0 res1 res2).dram = s.dram := by
  obtain ⟨-, -, -, -, -, -, -, hdram, -, -, -, -, -, -, -, -, hpwr, -⟩ := (KeepsBlocks.refl s).finish p status res0 res1 res2
  exact ⟨hpwr, hdram⟩

/-- The compute dies are switched off. -/
def State.unpowered (s : State) : State :=
  (List.range 4).foldl (fun x d => x.onDram d fun m => { m with powered := false })
    (s.onPwr fun p => { p with state := .retained, off := [true, true, true, true] })

theorem unpowered_off (hlen : s.dram.length = 4) : s.unpowered.pwr.state = .retained ∧
    s.unpowered.pwr.off = [true, true, true, true] ∧ ∀ d, d < 4 → (s.unpowered.dramAt d).powered = false := by
  have hpwr := foldl_keeps State.pwr (f := fun x d => x.onDram d fun m => { m with powered := false })
    (fun _ _ => rfl) (List.range 4) (s.onPwr fun p => { p with state := .retained, off := [true, true, true, true] })
  refine ⟨congrArg Pwr.state hpwr, congrArg Pwr.off hpwr, fun d hd => ?_⟩
  exact foldl_onDram Dram.powered (v := false) (by intro; rfl)
    (s := s.onPwr fun p => { p with state := .retained, off := [true, true, true, true] }) hlen hd

theorem exec_retainedIdleEntered_switches (hlen : s.dram.length = 4) (hstate : s.pwr.state = .entering) :
    ∃ t : State, exec .retainedIdleEntered s = .next t ∧ t.pwr.state = .retained ∧ t.pwr.off = [true, true, true, true] ∧
      (∀ d, d < 4 → (t.dramAt d).powered = false) ∧ t.awaiting (· = .powerEnter) = [] := by
  obtain ⟨hretained, hoff, hdies⟩ := unpowered_off hlen
  obtain ⟨hpwr, hdram⟩ := finish_power (s.unpowered.onCores fun k =>
    { k with phys := k.phys.map fun q => { q.cleared with reg := {}, snap := {} } }) (· = .powerEnter) stOk 0 0 0
  refine ⟨_, congrArg Host.Outcome.next (if_neg (not_not.mpr hstate)), (congrArg Pwr.state hpwr).trans hretained,
    (congrArg Pwr.off hpwr).trans hoff, fun d hd => ?_, finish_awaiting ..⟩
  exact (congrArg (fun l => (l.getD d {}).powered) hdram).trans (hdies d hd)

/-! A die comes back (R526). -/

/-- A stack that comes back with its die. -/
def Dram.woken (m : Dram) : Dram := { m with powered := true, fwLoaded := true, selfRefresh := m.tripped }

theorem wakeDie_out {d : Nat} (h : (s.thermOf d).tripped = true ∨ (s.dramAt d).inService = false) : s.wakeDie d = s :=
  if_pos (by simpa using h)

theorem wakeDie_wakes {d : Nat} (htrip : (s.thermOf d).tripped = false) (hin : (s.dramAt d).inService = true) :
    (s.wakeDie d).dram = s.dram.modify d Dram.woken ∧ (s.wakeDie d).pwr.op = s.pwr.op.set d 0 ∧
      (s.wakeDie d).pwr.off = s.pwr.off.set d false ∧ (s.wakeDie d).pwr.therm = s.pwr.therm := by
  let u := (((s.selectCode d 0).onPwr fun p => { p with
      op := p.op.set d 0, settling := p.settling.set d none, off := p.off.set d false }).onDram d Dram.woken).onTb
    fun t => { t with dieLink := t.dieLink.set d t.link }
  have hwake : s.wakeDie d = (List.range 16).foldl (fun x c => x.clearSpad (16 * d + c)) u :=
    if_neg (by simp [htrip, hin])
  have hclear := foldl_keeps (fun u : State => (u.pwr, u.dram)) (f := fun x c => x.clearSpad (16 * d + c))
    (fun _ _ => rfl) (List.range 16) u
  rw [← hwake] at hclear
  obtain ⟨hpwr, hdram⟩ := Prod.mk.inj hclear
  have hselect : (s.selectCode d 0).dram = s.dram ∧ (s.selectCode d 0).pwr.op = s.pwr.op ∧
      (s.selectCode d 0).pwr.off = s.pwr.off ∧ (s.selectCode d 0).pwr.therm = s.pwr.therm := by
    unfold State.selectCode
    dsimp only
    split <;> exact ⟨rfl, rfl, rfl, rfl⟩
  obtain ⟨hsdram, hsop, hsoff, hstherm⟩ := hselect
  rw [hdram, hpwr]
  exact ⟨congrArg (List.modify · d Dram.woken) hsdram, congrArg (List.set · d 0) hsop, congrArg (List.set · d false) hsoff,
    hstherm⟩

/-- What the wake of other dies leaves: which dies tripped or are in service, and the sizes of the tables. -/
structure Wakes (s u : State) : Prop where
  therm : u.pwr.therm = s.pwr.therm
  dram : u.dram.map (fun m => (m.inService, m.tripped)) = s.dram.map fun m => (m.inService, m.tripped)
  op : u.pwr.op.length = s.pwr.op.length
  off : u.pwr.off.length = s.pwr.off.length

theorem Wakes.wakeDie {s u : State} (h : Wakes s u) (d : Nat) : Wakes s (u.wakeDie d) := by
  by_cases hout : (u.thermOf d).tripped = true ∨ (u.dramAt d).inService = false
  · rwa [wakeDie_out hout]
  · obtain ⟨htrip, hin⟩ := not_or.mp hout
    obtain ⟨hdram, hop, hoff, htherm⟩ := wakeDie_wakes (by simpa using htrip) (by simpa using hin)
    refine ⟨htherm.trans h.therm, ?_, ?_, ?_⟩
    · rw [hdram, map_modify_of_keeps (by intro; rfl), h.dram]
    · rw [hop, List.length_set, h.op]
    · rw [hoff, List.length_set, h.off]

/-- A die stands as retained idle leaves it. -/
def Awake (s : State) (d : Nat) (u : State) : Prop :=
  (u.dramAt d).powered = true ∧ (u.dramAt d).selfRefresh = (s.dramAt d).tripped ∧ u.opOf d = 0 ∧
    u.pwr.off.getD d false = false

/-- What a reading shows of every element of two lists, it shows at each place. -/
theorem getD_of_map {α β : Type} {f : α → β} {l k : List α} (h : l.map f = k.map f) (d : Nat) (a : α) :
    f (l.getD d a) = f (k.getD d a) := by
  rw [← List.getD_map (f := f), ← List.getD_map (f := f), h]

theorem Wakes.dies {s u : State} (h : Wakes s u) (d : Nat) : (u.thermOf d).tripped = (s.thermOf d).tripped ∧
    (u.dramAt d).inService = (s.dramAt d).inService ∧ (u.dramAt d).tripped = (s.dramAt d).tripped := by
  obtain ⟨hin, htrip⟩ := Prod.mk.inj (getD_of_map h.dram d {})
  exact ⟨by rw [State.thermOf, h.therm, State.thermOf], hin, htrip⟩

theorem wakeDie_awake {s u : State} (hs : Shaped s) (h : Wakes s u) {d : Nat} (hd : d < 4)
    (htrip : (s.thermOf d).tripped = false) (hin : (s.dramAt d).inService = true) : Awake s d (u.wakeDie d) := by
  obtain ⟨-, -, hdlen, -, -, -, -, -, -, hop4, -, -, hoff4, -⟩ := hs
  obtain ⟨hutrip, huin, hutripped⟩ := h.dies d
  obtain ⟨hdram, hop, hoff, -⟩ := wakeDie_wakes (hutrip.trans htrip) (huin.trans hin)
  have hlen : d < u.dram.length := by
    have := congrArg List.length h.dram
    simp only [List.length_map] at this
    omega
  have hdie : (u.wakeDie d).dramAt d = (u.dramAt d).woken := by
    rw [State.dramAt, hdram]
    exact State.dramAt_onDram hlen _
  refine ⟨by rw [hdie]; rfl, by rw [hdie]; exact hutripped, ?_, ?_⟩
  · have hlt : d < u.pwr.op.length := by rw [h.op]; omega
    simp [State.opOf, hop, hlt]
  · have hlt : d < u.pwr.off.length := by rw [h.off]; omega
    simp [hoff, hlt]

theorem Awake.wakeDie_ne {s u : State} {i d : Nat} (h : Awake s i u) (hid : i ≠ d) : Awake s i (u.wakeDie d) := by
  by_cases hout : (u.thermOf d).tripped = true ∨ (u.dramAt d).inService = false
  · rwa [wakeDie_out hout]
  · obtain ⟨htrip, hin⟩ := not_or.mp hout
    obtain ⟨hdram, hop, hoff, -⟩ := wakeDie_wakes (by simpa using htrip) (by simpa using hin)
    obtain ⟨hpowered, hrefresh, hpoint, hon⟩ := h
    have hdie : (u.wakeDie d).dramAt i = u.dramAt i := by
      rw [State.dramAt, hdram]
      exact dramAt_onDram_ne u hid _
    refine ⟨by rw [hdie, hpowered], by rw [hdie, hrefresh], ?_, ?_⟩
    · rw [State.opOf, hop, List.getD_eq_getElem?_getD, List.getElem?_set_ne (Ne.symm hid)]
      simpa [State.opOf] using hpoint
    · rw [hoff, List.getD_eq_getElem?_getD, List.getElem?_set_ne (Ne.symm hid)]
      simpa using hon

theorem exec_retainedIdleLeft_wakes (hs : Shaped s) (hstate : s.pwr.state = .leaving) :
    ∃ t : State, exec .retainedIdleLeft s = .next t ∧ t.pwr.state = .active ∧ t.awaiting (· = .powerLeave) = [] ∧
      (∀ d, d < 4 → (s.thermOf d).tripped = false → (s.dramAt d).inService = true →
        (t.dramAt d).powered = true ∧ (t.dramAt d).selfRefresh = (s.dramAt d).tripped ∧ t.opOf d = 0 ∧
        t.pwr.off.getD d false = false) := by
  obtain ⟨hpwr, hdram⟩ := finish_power (((List.range 4).foldl State.wakeDie s).onPwr fun p => { p with state := .active })
    (· = .powerLeave) stOk 0 0 0
  refine ⟨_, congrArg Host.Outcome.next (if_neg (not_not.mpr hstate)), congrArg Pwr.state hpwr, finish_awaiting ..,
    fun d hd htrip hin => ?_⟩
  have hawake := foldl_establishes (f := State.wakeDie) (Q := Wakes s)
    (P := fun i u => i < 4 → (s.thermOf i).tripped = false → (s.dramAt i).inService = true → Awake s i u)
    (fun u i hu => hu.wakeDie i) (fun u i hu hi htrip hin => wakeDie_awake hs hu hi htrip hin)
    (fun u i j hij hu hi htrip hin => (hu hi htrip hin).wakeDie_ne hij) (List.range 4) s ⟨rfl, rfl, rfl, rfl⟩ d
    (.inl (List.mem_range.mpr hd)) hd htrip hin
  obtain ⟨hpowered, hrefresh, hpoint, hon⟩ := hawake
  exact ⟨(congrArg (fun l => (l.getD d {}).powered) hdram).trans hpowered,
    (congrArg (fun l => (l.getD d {}).selfRefresh) hdram).trans hrefresh,
    (congrArg (fun p => p.op.getD d 0) hpwr).trans hpoint, (congrArg (fun p => p.off.getD d false) hpwr).trans hon⟩

end Transition

/-- Settles O32: the commands by their equations, the transition by `exec_retainedIdleEntered_switches` and
`exec_retainedIdleLeft_wakes`. -/
theorem powerCommandsAndRetainedIdle : Obligations.PowerCommandsAndRetainedIdle := by
  refine ⟨fun c s h => ⟨fun hlow hhigh => ?_, fun hzero => ?_, fun hpos hbad => ?_⟩, fun c s h => exec_pwrQuery h,
    fun c s h hs henter hmode hactive hquiet => ?_,
    fun c s h henter => ⟨fun hmode => ?_, fun hmode hbusy => ?_, fun hmode hretained => ?_⟩,
    fun c s h hleave => ⟨fun hbusy => ?_, fun hactive => ?_⟩,
    fun c s => ⟨exec_pwrStateEnterRetainedIdle_leave, exec_pwrStateLeaveRetainedIdle_enter⟩,
    fun s => ⟨exec_retainedIdleEntered_idle, exec_retainedIdleLeft_idle⟩, fun s hs hstate => ?_,
    fun c s h hleave hretained => ?_, fun s => exec_retainedIdleLeft_wakes⟩
  · rw [exec_pwrLimit h, if_neg (by omega), if_neg (by simp [Nat.not_lt.mpr hlow, Nat.not_lt.mpr hhigh])]
  · rw [exec_pwrLimit h, if_pos hzero]
  · rw [exec_pwrLimit h, if_neg (by omega), if_pos (by simpa using hbad)]
  · obtain ⟨-, -, hlen, -⟩ := hs
    obtain ⟨hstate, hrests, hhl, hmem⟩ := resting_rests (s := begun c s) (by simpa using hlen)
    refine ⟨(begun c s).resting.await c .powerEnter, ?_, hstate, hrests, ?_, hmem.trans (begun_mem c s)⟩
    · simp [exec_pwrStateEnterRetainedIdle h henter, hmode, hactive, hquiet]
    · rw [State.await, State.onHl_hl, hhl, begun_opens]
  · simp [exec_pwrStateEnterRetainedIdle h henter, hmode]
  · rcases hbusy with hbusy | hbusy | ⟨hactive, hbusy⟩
    · simp [exec_pwrStateEnterRetainedIdle h henter, hmode, hbusy]
    · simp [exec_pwrStateEnterRetainedIdle h henter, hmode, hbusy]
    · simp [exec_pwrStateEnterRetainedIdle h henter, hmode, hactive, hbusy]
  · simp [exec_pwrStateEnterRetainedIdle h henter, hmode, hretained]
  · rcases hbusy with hbusy | hbusy <;> simp [exec_pwrStateLeaveRetainedIdle h hleave, hbusy]
  · simp [exec_pwrStateLeaveRetainedIdle h hleave, hactive]
  · obtain ⟨-, -, hlen, -⟩ := hs
    exact exec_retainedIdleEntered_switches hlen hstate
  · simp [exec_pwrStateLeaveRetainedIdle h hleave, hretained]

end Sys2Proof.Machine
end

section
/-! CAN controllers (R450 to R469, R486). O57. -/

namespace Sys2Proof.Machine

open Sys2Proof.Safety

/-! A controller in the table, and what completions leave of it: all but the answers that CAN0 sends (R486). -/

theorem canAt_onCan {s : State} {k : Nat} (h : k < s.can.length) (f : Can → Can) : (s.onCan k f).canAt k = f (s.canAt k) := by
  simp [State.canAt, h]

theorem canAt_onCan_ne (s : State) {j k : Nat} (h : j ≠ k) (f : Can → Can) : (s.onCan k f).canAt j = s.canAt j := by
  have hother : (s.can.modify k f)[j]? = s.can[j]? := by simp [Ne.symm h]
  simp [State.canAt, hother]

theorem can_of_shaped {s : State} (h : Shaped s) {k : Nat} (hk : k < 4) : k < s.can.length := by
  obtain ⟨-, -, -, hcan, -⟩ := h
  omega

/-- An update that leaves the controller it is for leaves them all. -/
theorem onCan_fixed {s : State} {k : Nat} {f : Can → Can} (h : f (s.canAt k) = s.canAt k) : s.onCan k f = s := by
  have hcan : s.can.modify k f = s.can := by
    refine List.ext_getElem? fun i => ?_
    by_cases hi : k = i
    · subst hi
      cases hx : s.can[k]? with
      | none => simp [hx]
      | some x =>
        have hat : s.canAt k = x := by simp [State.canAt, hx]
        rw [hat] at h
        simp [hx, h]
    · simp [hi]
  simp [State.onCan, hcan]

/-- A controller without the answers that it sends. -/
def State.busAt (s : State) (k : Nat) : Can := { s.canAt k with replies := [] }

theorem busAt_of_can {s t : State} (h : t.can = s.can) (k : Nat) : t.busAt k = s.busAt k := by
  rw [State.busAt, State.canAt, h, State.busAt, State.canAt]

theorem can_of_carried {s t : State} (h : t.offCarry = s.offCarry) : t.can = s.can :=
  show t.offCarry.can = s.offCarry.can by rw [h]

@[simp] theorem can_hostRequest (s : State) (engine : Nat) (write : Bool) (a n : Nat) :
    (s.hostRequest engine write a n).can = s.can := can_of_carried (s.hostRequest_carries engine write a n).1

@[simp] theorem can_sendVector (s : State) (v : Nat) : (s.sendVector v).can = s.can := by
  unfold State.sendVector
  split <;> rfl

@[simp] theorem can_releaseHeld (s : State) (i : Nat) : (s.releaseHeld i).can = s.can := by
  unfold State.releaseHeld
  split
  · exact can_hostRequest ..
  · rfl

@[simp] theorem can_writeEntry (s : State) (ring addr : Nat) (bs : List Byte) : (s.writeEntry ring addr bs).can = s.can := by
  unfold State.writeEntry
  dsimp only
  refine (foldl_keeps State.can can_releaseHeld _ _).trans ?_
  split
  · exact can_hostRequest ..
  · split
    · rfl
    · split
      · exact can_hostRequest ..
      · rfl

@[simp] theorem can_writeCompletion (s : State) (ring : Nat) (c : Completion) : (s.writeCompletion ring c).can = s.can := by
  unfold State.writeCompletion
  dsimp only
  split <;> simp

theorem can_flush (ring n : Nat) : ∀ s : State, (State.flush ring n s).can = s.can := by
  induction n with
  | zero => exact fun _ => rfl
  | succ n ih =>
    intro s
    unfold State.flush
    split
    · rfl
    · split
      · rfl
      · split
        · exact (ih _).trans (can_writeCompletion ..)
        · exact State.onCtx_can ..

theorem busAt_produce (s : State) (ring : Nat) (c : Completion) (k : Nat) : (s.produce ring c).busAt k = s.busAt k := by
  unfold State.produce
  split
  · refine (busAt_of_can (State.onCtx_can ..) k).trans ?_
    have hall := map_modify_of_keeps (p := fun x : Can => { x with replies := [] })
      (f := fun x => { x with replies := x.replies ++ [(0x7E1, entryBytes c s.tsNow (s.draw 1 % 65536) (s.draw 2 % 2 = 1))] })
      (by intro; rfl) s.can 0
    exact getD_of_map hall k {}
  · dsimp only
    split
    · exact busAt_of_can (State.onCtx_can ..) k
    · split
      · exact busAt_of_can (State.onCtx_can ..) k
      · exact busAt_of_can ((can_flush ring _ _).trans (State.onCtx_can ..)) k

theorem busAt_finish (s : State) (p : Wait → Bool) (status res0 res1 res2 k : Nat) :
    (s.finish p status res0 res1 res2).busAt k = s.busAt k :=
  foldl_keeps (State.busAt · k) (fun u _ => busAt_produce u _ _ k) _ _

theorem can_length_produce (s : State) (ring : Nat) (c : Completion) : (s.produce ring c).can.length = s.can.length := by
  have hctx (u : State) (k : Nat) (f : Ctx → Ctx) : (u.onCtx k f).can.length = u.can.length :=
    congrArg List.length (State.onCtx_can ..)
  unfold State.produce
  split
  · exact (hctx _ _ _).trans (List.length_modify ..)
  · dsimp only
    split
    · exact hctx _ _ _
    · split
      · exact hctx _ _ _
      · exact (congrArg List.length (can_flush ring _ _)).trans (hctx _ _ _)

theorem can_length_finish (s : State) (p : Wait → Bool) (status res0 res1 res2 : Nat) :
    (s.finish p status res0 res1 res2).can.length = s.can.length :=
  foldl_keeps (fun u : State => u.can.length) (fun u _ => can_length_produce u _ _) _ _

@[simp] theorem can_recTrigger (s : State) (safety : Bool) : (s.recTrigger safety).can = s.can := by
  unfold State.recTrigger
  split <;> rfl

@[simp] theorem can_raiseEvent (s : State) (v : Nat) : (s.raiseEvent v).can = s.can := by
  simp [State.raiseEvent, apply_ite State.can]

/-! CAN.CONFIG and CAN.FILTERS (R455, R460, R461). -/

section Commands

variable {c : Cmd} {s : State} {k m : Nat}

@[simp] theorem canAt_begun (c : Cmd) (s : State) (k : Nat) : (begun c s).canAt k = s.canAt k := by
  rw [State.canAt, begun_can, State.canAt]

theorem exec_canConfig (h : Starts 9 1 c s) : exec (.canConfig c) s = .next (
    let k := c.word 0 % 4
    let st := canConfigStatus (activeBankOf (s.canAt k)) c.data
    if (s.canAt k).mode ≠ 0 then (begun c s).complete c stBusy
    else if st ≠ stOk then (begun c s).complete c st
    else ((begun c s).onCan k fun x => canConfigured x c.data).complete c stOk) := by
  refine congrArg Host.Outcome.next ((runCmd_starts h _).trans ?_)
  dsimp only
  rw [canAt_begun]

/-- The inactive bank takes the filters. -/
def Can.filtered (x : Can) (d : List Byte) : Can :=
  { x with banks := x.banks.set (1 - x.activeBank) (parseBank d), switchPending := true }

theorem exec_canFilters (h : Starts 9 2 c s) : exec (.canFilters c) s = .next (
    let k := c.word 0 % 4
    let x := s.canAt k
    let st := canFiltersStatus x.fifo0.size x.fifo1.size c.data
    if st ≠ stOk then (begun c s).complete c st
    else if x.switchPending then (begun c s).complete c stBusy
    else
      let u := ((begun c s).onCan k fun x => x.filtered c.data).await c (.canFilters k)
      if x.mode = 0 then u.canSwitch k else u) := by
  refine congrArg Host.Outcome.next ((runCmd_starts h _).trans ?_)
  dsimp only
  rw [canAt_begun]
  rfl

theorem canSwitch_bus (hk : k < s.can.length) : (s.canSwitch k).busAt k = { canSwitched (s.canAt k) with replies := [] } := by
  rw [State.canSwitch, busAt_finish, State.busAt, canAt_onCan hk]

theorem exec_canFilters_takes (h : Starts 9 2 c s) (hs : Shaped s) :
    let k := c.word 0 % 4
    let x := s.canAt k
    canFiltersStatus x.fifo0.size x.fifo1.size c.data = stOk → x.switchPending = false →
    ∃ t : State, exec (.canFilters c) s = .next t ∧
      (t.canAt k).banks = x.banks.set (1 - x.activeBank) (parseBank c.data) ∧
      (x.mode ≠ 0 → (t.canAt k).switchPending = true ∧ (t.canAt k).activeBank = x.activeBank ∧
        t.hl.opens = s.hl.opens ++ [{ cmd := c, wait := .canFilters k }]) ∧
      (x.mode = 0 → (t.canAt k).switchPending = false ∧ (t.canAt k).activeBank = 1 - x.activeBank ∧
        t.awaiting (· = .canFilters k) = []) := by
  intro k x hgood hidle
  let u := ((begun c s).onCan k fun x => x.filtered c.data).await c (.canFilters k)
  have hk : k < s.can.length := can_of_shaped hs (Nat.mod_lt _ (by decide))
  have hu : u.canAt k = x.filtered c.data := by
    show ((begun c s).onCan k fun x => x.filtered c.data).canAt k = _
    rw [canAt_onCan (by simpa using hk), canAt_begun]
  have hexec : exec (.canFilters c) s = .next (if x.mode = 0 then u.canSwitch k else u) := by
    rw [exec_canFilters h]
    exact congrArg _ ((if_neg (not_not.mpr hgood)).trans (if_neg (by simp [x, k] at hidle; simp [hidle])))
  by_cases hmode : x.mode = 0
  · have hbus := canSwitch_bus (s := u) (k := k) (by simpa [u, State.await] using hk)
    rw [hu] at hbus
    refine ⟨u.canSwitch k, by rw [hexec, if_pos hmode], congrArg Can.banks hbus, fun hne => absurd hmode hne,
      fun _ => ⟨congrArg Can.switchPending hbus, congrArg Can.activeBank hbus, finish_awaiting ..⟩⟩
  · refine ⟨u, by rw [hexec, if_neg hmode], congrArg Can.banks hu,
      fun _ => ⟨(congrArg Can.switchPending hu :), (congrArg Can.activeBank hu :), ?_⟩, fun h0 => absurd h0 hmode⟩
    show (begun c s).hl.opens ++ _ = _
    rw [begun_opens]

theorem exec_canFilterBankSwitch (s : State) (k : Nat) : exec (.canFilterBankSwitch k) s =
    .next (if (s.canAt k).switchPending then (s.onCan k canSwitched).finish (· = .canFilters k) stOk else s) := rfl

/-! CAN.MODE and CAN.SEND (R453, R454, R464). -/

@[simp] theorem canModeAllowed_begun (c : Cmd) (s : State) (m : Nat) : (begun c s).canModeAllowed m = s.canModeAllowed m :=
  of_begun (State.canModeAllowed · m) (fun _ _ => rfl) c s

/-- CAN.MODE's refusals in the order of its checks, and the request that it leaves. -/
theorem exec_canMode (h : Starts 9 4 c s) (hk : c.word 0 % 4 = k) (hm : c.word 1 % 8 = m) : exec (.canMode c) s = .next (
    if 4 < m then (begun c s).complete c stBadParam
    else if s.canModeAllowed m = false then (begun c s).complete c stMode
    else if (m = 1 ∨ m = 3 ∨ m = 4) ∧ (s.canAt k).configured = false then (begun c s).complete c stBadParam
    else if (s.canAt k).request ≠ none then (begun c s).complete c stBusy
    else ((begun c s).onCan k fun x => { x with
        request := some m, recovering := x.recovering || decide (m = 1 ∧ x.errState = 2) }).await c (.canMode k)) := by
  subst hk hm
  refine congrArg Host.Outcome.next ((runCmd_starts h _).trans ?_)
  dsimp only
  rw [canModeAllowed_begun, canAt_begun]
  refine if_congr Iff.rfl rfl (if_congr (by simp) rfl (if_congr ?_ rfl (if_congr ?_ rfl ?_)))
  · simp [or_assoc]
  · exact Option.isSome_iff_ne_none
  · simp only [Bool.decide_and]

theorem exec_canModeChangeEffect (h : (s.canAt k).request = some m) :
    exec (.canModeChangeEffect k) s = .next (s.canModeEffect k m) := by
  show execCanModeChangeEffect k s = _
  rw [execCanModeChangeEffect, h]

theorem exec_canModeChangeEffect_none (h : (s.canAt k).request = none) : exec (.canModeChangeEffect k) s = .next s := by
  show execCanModeChangeEffect k s = _
  rw [execCanModeChangeEffect, h]

/-- The mode asked for is in force and its command has completed. -/
theorem canModeEffect_takes (hk : k < s.can.length) : ((s.canModeEffect k m).canAt k).mode = m ∧
    ((s.canModeEffect k m).canAt k).request = none ∧ (s.canModeEffect k m).awaiting (· = .canMode k) = [] := by
  unfold State.canModeEffect
  extract_lets x s1 s2 s3
  have hlen1 : s1.can.length = s.can.length := by
    unfold s1
    split
    · exact (can_length_finish ..).trans (List.length_modify ..)
    · rfl
  have h2 : s2.canAt k = { s1.canAt k with mode := m, request := none, forcedRecessive := false } :=
    canAt_onCan (by omega) _
  have h3 : (s3.busAt k).mode = m ∧ (s3.busAt k).request = none := by
    unfold s3
    split
    · rw [canSwitch_bus (by simp [s2]; omega), h2]
      exact ⟨rfl, rfl⟩
    · exact ⟨congrArg Can.mode h2, congrArg Can.request h2⟩
  obtain ⟨hmode, hrequest⟩ := h3
  rw [← busAt_finish s3 (· = .canMode k) stOk 0 0 0] at hmode hrequest
  exact ⟨hmode, hrequest, finish_awaiting ..⟩

@[simp] theorem freeTx_begun (c : Cmd) (s : State) (k : Nat) : (begun c s).freeTx k = s.freeTx k :=
  of_begun (State.freeTx · k) (fun _ _ => rfl) c s

theorem exec_canSend_refused (h : Starts 9 3 c s) (h1 : (s.canAt (c.word 0 % 4)).mode ≠ 1)
    (h4 : (s.canAt (c.word 0 % 4)).mode ≠ 4) : exec (.canSend c) s = .next ((begun c s).complete c stMode) := by
  refine congrArg Host.Outcome.next ((runCmd_starts h _).trans (if_pos ?_))
  simp [h1, h4]

theorem exec_canSend_busy (h : Starts 9 3 c s)
    (hmode : (s.canAt (c.word 0 % 4)).mode = 1 ∨ (s.canAt (c.word 0 % 4)).mode = 4) (hfree : s.freeTx (c.word 0 % 4) = none) :
    exec (.canSend c) s = .next ((begun c s).complete c stBusy) := by
  refine congrArg Host.Outcome.next ((runCmd_starts h _).trans ((if_neg ?_).trans ?_))
  · rcases hmode with hmode | hmode <;> simp [hmode]
  · rw [freeTx_begun, hfree]

theorem exec_canSend_free {b : Nat} (h : Starts 9 3 c s)
    (hmode : (s.canAt (c.word 0 % 4)).mode = 1 ∨ (s.canAt (c.word 0 % 4)).mode = 4)
    (hfree : s.freeTx (c.word 0 % 4) = some b) : exec (.canSend c) s = .next (
      if txElemBad (s.canAt (c.word 0 % 4)) c.data then (begun c s).complete c stBadParam
      else ((begun c s).onCan (c.word 0 % 4) fun x => { x with
        tx := x.tx.set b { elem := c.data, pending := true, owner := some (c.ring, c.tag) } }).await c
          (.canSend (c.word 0 % 4) b)) := by
  refine congrArg Host.Outcome.next ((runCmd_starts h _).trans ((if_neg ?_).trans ?_))
  · rcases hmode with hmode | hmode <;> simp [hmode]
  · rw [freeTx_begun, hfree]
    exact congrArg (fun x => if txElemBad x c.data = true then _ else _) (canAt_begun c s _)

end Commands

/-! Arbitration among the waiting frames (R465). -/

/-- The frame offered is among those that wait, and none of them has a lower arbitration field. -/
theorem bestTx_least (x : Can) (ready : List Nat) : ∀ b, bestTx x ready = some b → b ∈ ready ∧
    ∀ o ∈ ready, arbField (x.tx.getD b {}).elem ≤ arbField (x.tx.getD o {}).elem := by
  induction ready with
  | nil => exact fun b h => absurd h (by simp [bestTx])
  | cons a ready ih =>
    intro b h
    unfold bestTx at h
    split at h
    · next hnone =>
      cases h
      have hempty : ready = [] := by
        cases ready with
        | nil => rfl
        | cons o l =>
          unfold bestTx at hnone
          split at hnone
          · cases hnone
          · split at hnone <;> cases hnone
      simp [hempty]
    · next w hw =>
      obtain ⟨hmem, hleast⟩ := ih w hw
      split at h
      · next hlower =>
        cases h
        refine ⟨List.mem_cons_of_mem _ hmem, fun o ho => ?_⟩
        rcases List.mem_cons.mp ho with rfl | ho
        · exact hlower.le
        · exact hleast o ho
      · next hlower =>
        cases h
        refine ⟨List.mem_cons_self, fun o ho => ?_⟩
        rcases List.mem_cons.mp ho with rfl | ho
        · exact le_rfl
        · exact (Nat.not_lt.mp hlower).trans (hleast o ho)

section Transmission

variable {s : State} {k b : Nat}

/-- The controller may offer a frame now (R465, R467 to R469). -/
def Can.offers (x : Can) : Bool :=
  (x.mode = 1 || x.mode = 4) && x.errState ≠ 2 && !x.noStart && !x.forcedRecessive && x.sending.isNone

theorem offers_of {x : Can} (hmode : x.mode = 1 ∨ x.mode = 4) (herr : x.errState ≠ 2) (hstart : x.noStart = false)
    (hforced : x.forcedRecessive = false) (hsending : x.sending = none) : x.offers = true := by
  rcases hmode with hmode | hmode <;> simp [Can.offers, hmode, herr, hstart, hforced, hsending]

/-- The buffer that is offered: the reserved one first (R465). -/
def State.offered (s : State) (k : Nat) : Option Nat :=
  if s.canCtrl = k && (s.txReady k).contains 31 then some 31 else bestTx (s.canAt k) (s.txReady k)

theorem exec_canArbitration_offers (hoffers : (s.canAt k).offers = true) (hb : s.offered k = some b) :
    exec (.canArbitration k) s = .next ((s.onCan k fun x => { x with sending := some (b, s.tsNow) }).bump) := by
  simp only [Can.offers, Bool.and_eq_true, Bool.or_eq_true, decide_eq_true_eq, Bool.not_eq_true',
    Option.isNone_iff_eq_none] at hoffers
  obtain ⟨⟨⟨⟨hmode, herr⟩, hstart⟩, hforced⟩, hsending⟩ := hoffers
  refine congrArg Host.Outcome.next ((if_neg ?_).trans ?_)
  · rcases hmode with hmode | hmode <;> simp [hmode, herr, hstart, hforced, hsending]
  · have hoffered : (if s.canCtrl = k && (s.txReady k).contains 31 then some 31 else bestTx (s.canAt k) (s.txReady k)) =
        some b := hb
    dsimp only
    rw [hoffered]

theorem exec_canArbitration_idle (h : ((s.canAt k).mode ≠ 1 ∧ (s.canAt k).mode ≠ 4) ∨ (s.canAt k).errState = 2 ∨
    (s.canAt k).noStart = true ∨ (s.canAt k).forcedRecessive = true ∨ (s.canAt k).sending ≠ none ∨ s.txReady k = []) :
    exec (.canArbitration k) s = .next s := by
  show execCanArbitration k s = _
  unfold execCanArbitration
  dsimp only
  split
  · rfl
  · next hgo =>
    have hempty : s.txReady k = [] := by
      rcases h with ⟨h1, h4⟩ | h | h | h | h | h
      · simp [h1, h4] at hgo
      · simp [h] at hgo
      · simp [h] at hgo
      · simp [h] at hgo
      · simp [Option.isSome_iff_ne_none.mpr h] at hgo
      · exact h
    simp [hempty, bestTx]

/-! The end of a frame (R452, R464, R538). -/

/-- The state in which a transmitted frame is judged: a compensated one leaves its loop delay. -/
def State.measured (s : State) (k b : Nat) (d : Option Nat) : State :=
  if (s.canAt k).compensated b then s.onCan k fun x => { x with loopDelay := d.getD 0 } else s

theorem exec_canFrameTransmitted_fails {ts : Nat} {d : Option Nat} (hsending : (s.canAt k).sending = some (b, ts))
    (hcomp : (s.canAt k).compensated b = true) (hfails : (s.canAt k).tdcFails d = true) :
    exec (.canFrameTransmitted k d) s = .next (s.onCan k fun x => canErrState { x with
      tdcFail := satInc 255 x.tdcFail, tecCount := min 256 (x.tecCount + 8), sending := none }) := by
  show execCanFrameTransmitted k d s = _
  rw [execCanFrameTransmitted, hsending]
  exact congrArg _ (if_pos (by simp [hcomp, hfails]))

theorem exec_canFrameTransmitted_none {d : Option Nat} (hsending : (s.canAt k).sending = none) :
    exec (.canFrameTransmitted k d) s = .next s := by
  show execCanFrameTransmitted k d s = _
  rw [execCanFrameTransmitted, hsending]

/-- Without an injection the frame has gone out. -/
theorem exec_canFrameTransmitted_sent {ts : Nat} {d : Option Nat} {u : State} (hsending : (s.canAt k).sending = some (b, ts))
    (hpass : (s.canAt k).compensated b = true → (s.canAt k).tdcFails d = false)
    (hinject : (s.measured k b d).inject 4 k 0 = (none, u)) :
    exec (.canFrameTransmitted k d) s = .next ((u.canUnhold k).canSent k b ts) := by
  show execCanFrameTransmitted k d s = _
  rw [execCanFrameTransmitted, hsending]
  refine congrArg _ ((if_neg ?_).trans ?_)
  · cases hcomp : (s.canAt k).compensated b
    · simp
    · simp [hpass hcomp]
  · show (match (s.measured k b d).inject 4 k 0 with | (none, u) => _ | (some (i, j), u) => _) = _
    rw [hinject]

/-- An injection drops the frame, has it repeated or holds it back. -/
theorem exec_canFrameTransmitted_injected {ts w : Nat} {j : Inject} {d : Option Nat} {u : State}
    (hsending : (s.canAt k).sending = some (b, ts))
    (hpass : (s.canAt k).compensated b = true → (s.canAt k).tdcFails d = false)
    (hinject : (s.measured k b d).inject 4 k 0 = (some (w, j), u)) :
    exec (.canFrameTransmitted k d) s = .next (
      if j.action = 1 then
        (u.onCan k fun x => { x with tx := x.tx.set b {}, sending := none }).finish (· = .canSend k b) stTimeout
      else if j.action = 2 then u.onCan k fun x => { x with sending := none }
      else (u.onCan k fun x => { x with sending := none }).onFi w fun y =>
        { y with held := some (b, if j.action = 3 then 0 else u.tb.link + j.param, []) }) := by
  show execCanFrameTransmitted k d s = _
  rw [execCanFrameTransmitted, hsending]
  refine congrArg _ ((if_neg ?_).trans ?_)
  · cases hcomp : (s.canAt k).compensated b
    · simp
    · simp [hpass hcomp]
  · show (match (s.measured k b d).inject 4 k 0 with | (none, u) => _ | (some (i, j), u) => _) = _
    rw [hinject]

/-- The controller from which a frame has gone out. -/
def Can.afterFrame (x : Can) (b : Nat) : Can :=
  canErrState { x with tx := x.tx.set b { elem := (x.tx.getD b {}).elem }, sending := none, tecCount := x.tecCount - 1 }

theorem afterFrame_leaves (x : Can) (b : Nat) :
    (x.afterFrame b).tx = x.tx.set b { elem := (x.tx.getD b {}).elem } ∧ (x.afterFrame b).sending = none ∧
      (x.afterFrame b).tecCount = x.tecCount - 1 := by
  unfold Can.afterFrame canErrState
  split <;> exact ⟨rfl, rfl, rfl⟩

theorem canSent_sends (hk : k < s.can.length) (hb : b < (s.canAt k).tx.length) (ts : Nat) :
    let t := s.canSent k b ts
    ((t.canAt k).tx.getD b {}).pending = false ∧ (t.canAt k).sending = none ∧
      (t.canAt k).tecCount = (s.canAt k).tecCount - 1 ∧ t.awaiting (· = .canSend k b) = [] := by
  intro t
  have hbus : t.busAt k = { (s.canAt k).afterFrame b with replies := [] } := by
    refine (busAt_finish ..).trans ?_
    rw [State.busAt]
    exact congrArg (fun x : Can => { x with replies := [] }) (canAt_onCan hk _)
  have hawait : t.awaiting (· = .canSend k b) = [] := by
    unfold t State.canSent
    exact finish_awaiting ..
  obtain ⟨htx, hsending, htec⟩ := afterFrame_leaves (s.canAt k) b
  refine ⟨?_, (congrArg Can.sending hbus).trans hsending, (congrArg Can.tecCount hbus).trans htec, hawait⟩
  have htxs : (t.canAt k).tx = _ := (congrArg Can.tx hbus).trans htx
  rw [htxs]
  simp [hb]

end Transmission

end Sys2Proof.Machine
end

section
/-! Reception and faults of CAN controllers (R459, R462, R467 to R469, R486). O57. -/

namespace Sys2Proof.Machine

open Sys2Proof.Safety

/-! Reception (R459, R486). -/

section Reception

variable {s : State} {k : Nat} {f : CanFrame}

theorem exec_canFrameReceive (s : State) (k : Nat) (f : CanFrame) : exec (.canFrameReceive k f) s = .next (
    if s.canRecovery && decide (k = 0) then
      (if f.id = 0x7E0 && !f.xtd && f.fdf && f.brs && decide (f.data.length = 64) then s.canRecoveryFrame f.data else s)
    else if s.up && (s.canAt k).hears f then (s.canStore k f).canRecDown k
    else s) := rfl

theorem exec_canFrameReceive_hears (hrom : s.canRecovery = false ∨ k ≠ 0) (hup : s.up = true)
    (hhears : (s.canAt k).hears f = true) :
    exec (.canFrameReceive k f) s = .next ((s.canStore k f).canRecDown k) := by
  rw [exec_canFrameReceive, if_neg (by rcases hrom with h | h <;> simp [h]), if_pos (by simp [hup, hhears])]

theorem exec_canFrameReceive_deaf (hrom : s.canRecovery = false ∨ k ≠ 0) (h : s.up = false ∨ (s.canAt k).hears f = false) :
    exec (.canFrameReceive k f) s = .next s := by
  rw [exec_canFrameReceive, if_neg (by rcases hrom with h | h <;> simp [h]),
    if_neg (by rcases h with h | h <;> simp [h])]

theorem exec_canFrameReceive_recovery (hrom : s.canRecovery = true) (hid : f.id = 0x7E0) (hxtd : f.xtd = false)
    (hfdf : f.fdf = true) (hbrs : f.brs = true) (hlen : f.data.length = 64) :
    exec (.canFrameReceive 0 f) s = .next (s.canRecoveryFrame f.data) := by
  rw [exec_canFrameReceive, if_pos (by simp [hrom]), if_pos (by simp [hid, hxtd, hfdf, hbrs, hlen])]

theorem exec_canFrameReceive_foreign (hrom : s.canRecovery = true)
    (h : f.id ≠ 0x7E0 ∨ f.xtd = true ∨ f.fdf = false ∨ f.brs = false ∨ f.data.length ≠ 64) :
    exec (.canFrameReceive 0 f) s = .next s := by
  rw [exec_canFrameReceive, if_pos (by simp [hrom]), if_neg]
  rcases h with h | h | h | h | h <;> simp [h]

end Reception

/-! Receive FIFOs (R462). -/

theorem store_full {q : RxFifo} (h : q.fill = q.size) (e : List Byte) : q.store e = { q with lost := satInc 255 q.lost } :=
  if_pos h

theorem store_room {q : RxFifo} (h : q.fill < q.size) (e : List Byte) : q.store e =
    { q with elems := q.elems.set q.put e, put := (q.put + 1) % q.size, fill := q.fill + 1 } :=
  if_neg (Nat.ne_of_lt h)

/-! Bus faults (R467 to R469). -/

section Faults

variable {s : State} {k : Nat}

/-- The controller once an error is counted. -/
def Can.counted (c : Can) (e : CanError) : Can :=
  canErrState { c with
    tecCount := if e.sending then min 256 (c.tecCount + e.tecStep) else c.tecCount
    recCount := if e.sending then c.recCount else min 256 (c.recCount + e.recStep)
    sending := if e.sending then none else c.sending }

theorem exec_canBusError (s : State) (k : Nat) (e : CanError) : exec (.canBusError k e) s =
    .next (s.onCan k fun c => if (c.mode ≠ 1 && c.mode ≠ 4) || c.errState = 2 then c else c.counted e) := rfl

theorem exec_canBusError_counts (hk : k < s.can.length) (e : CanError) (hmode : (s.canAt k).mode = 1 ∨ (s.canAt k).mode = 4)
    (herr : (s.canAt k).errState ≠ 2) : ∃ t : State, exec (.canBusError k e) s = .next t ∧
      t.canAt k = (s.canAt k).counted e ∧ ∀ j, j ≠ k → t.canAt j = s.canAt j := by
  refine ⟨_, exec_canBusError s k e, (canAt_onCan hk _).trans (if_neg ?_), fun j hj => canAt_onCan_ne s hj _⟩
  rcases hmode with hmode | hmode <;> simp [hmode, herr]

theorem exec_canBusError_idle (e : CanError)
    (h : (s.canAt k).mode ≠ 1 ∧ (s.canAt k).mode ≠ 4 ∨ (s.canAt k).errState = 2) :
    exec (.canBusError k e) s = .next s := by
  refine (exec_canBusError s k e).trans (congrArg _ (onCan_fixed (if_pos ?_)))
  simpa using h

/-- Out of bus off the counters alone say whether the controller is error passive. -/
theorem canErrState_passive {x : Can} (h : x.errState = 0) :
    (canErrState x).errState = 1 ↔ 127 < x.tecCount ∨ 127 < x.recCount := by
  unfold canErrState
  rw [if_neg (by simp [h])]
  dsimp only
  split
  · next hpassive => exact iff_of_true rfl (by simpa using hpassive)
  · next hactive => exact iff_of_false (by simp) (by simpa using hactive)

theorem canErrState_counts (x : Can) :
    (canErrState x).tecCount = x.tecCount ∧ (canErrState x).recCount = x.recCount := by
  unfold canErrState
  split <;> exact ⟨rfl, rfl⟩

/-- An error-active controller that counts: its transmit counter, and its error state by both counters. -/
theorem counted_active {c : Can} (h : c.errState = 0) (e : CanError) :
    (c.counted e).tecCount = (if e.sending = true then min 256 (c.tecCount + e.tecStep) else c.tecCount) ∧
      ((c.counted e).errState = 1 ↔ 127 < (c.counted e).tecCount ∨ 127 < (c.counted e).recCount) := by
  unfold Can.counted
  obtain ⟨htec, hrec⟩ := canErrState_counts { c with
    tecCount := if e.sending then min 256 (c.tecCount + e.tecStep) else c.tecCount
    recCount := if e.sending then c.recCount else min 256 (c.recCount + e.recStep)
    sending := if e.sending then none else c.sending }
  rw [htec, hrec]
  exact ⟨rfl, canErrState_passive (by exact h)⟩

theorem exec_canBusOff_enters (hk : k < s.can.length) (herr : (s.canAt k).errState ≠ 2) (htec : 255 < (s.canAt k).tecCount) :
    ∃ t : State, exec (.canBusOff k) s = .next t ∧ (t.canAt k).errState = 2 ∧ (t.canAt k).sending = none ∧
      (t.canAt k).busOffCount = satInc 255 (s.canAt k).busOffCount ∧ bitAt t.hl.events 9 = true ∧
      (t.canAt k).recovering = (s.canAt k).autoRecover := by
  let u := s.onCan k fun c => { c with
    errState := 2, busOffCount := satInc 255 c.busOffCount, sending := none, recovering := c.autoRecover }
  have hu : (u.raiseEvent 9).canAt k = { s.canAt k with
      errState := 2, busOffCount := satInc 255 (s.canAt k).busOffCount, sending := none
      recovering := (s.canAt k).autoRecover } := by
    rw [State.canAt, can_raiseEvent]
    exact canAt_onCan hk _
  refine ⟨u.raiseEvent 9, congrArg Host.Outcome.next (if_pos ⟨herr, htec⟩), ?_, ?_, ?_, State.raiseEvent_event u 9, ?_⟩
  all_goals rw [hu]

theorem exec_canBusOff_idle (h : (s.canAt k).errState = 2 ∨ (s.canAt k).tecCount ≤ 255) :
    exec (.canBusOff k) s = .next s := by
  refine congrArg Host.Outcome.next (if_neg ?_)
  rcases h with h | h
  · simp [h]
  · simp [Nat.not_lt.mpr h]

/-- The controller back from bus off. -/
def Can.recovered (c : Can) : Can := { c with errState := 0, recovering := false, tecCount := 0, recCount := 0 }

theorem exec_canBusOffRecovered (s : State) (k : Nat) : exec (.canBusOffRecovered k) s =
    .next (s.onCan k fun c => if c.errState = 2 && c.recovering then c.recovered else c) := rfl

theorem exec_canBusOffRecovered_idle (h : (s.canAt k).errState ≠ 2 ∨ (s.canAt k).recovering = false) :
    exec (.canBusOffRecovered k) s = .next s := by
  refine (exec_canBusOffRecovered s k).trans (congrArg _ (onCan_fixed (if_neg ?_)))
  rcases h with h | h <;> simp [h]

theorem exec_canBusOffRecovered_recovers (hk : k < s.can.length) (herr : (s.canAt k).errState = 2)
    (hrec : (s.canAt k).recovering = true) :
    ∃ t : State, exec (.canBusOffRecovered k) s = .next t ∧ t.canAt k = (s.canAt k).recovered :=
  ⟨_, exec_canBusOffRecovered s k, (canAt_onCan hk _).trans (if_pos (by simp [herr, hrec]))⟩

theorem exec_canStuckDominant_stops (hk : k < s.can.length) (hmode : (s.canAt k).mode ≠ 0) :
    ∃ t : State, exec (.canStuckDominant k) s = .next t ∧ (t.canAt k).stuck = true ∧ (t.canAt k).noStart = true ∧
      bitAt t.hl.events 9 = true := by
  let u := s.onCan k fun c => { c with stuck := true, noStart := true }
  have hu : (u.raiseEvent 9).canAt k = { s.canAt k with stuck := true, noStart := true } := by
    rw [State.canAt, can_raiseEvent]
    exact canAt_onCan hk _
  refine ⟨u.raiseEvent 9, congrArg Host.Outcome.next (if_neg hmode), ?_, ?_, State.raiseEvent_event u 9⟩
  all_goals rw [hu]

theorem exec_canStuckDominant_stopped (h : (s.canAt k).mode = 0) : exec (.canStuckDominant k) s = .next s :=
  congrArg Host.Outcome.next (if_pos h)

theorem exec_canTxTimeout_silent (h1 : (s.canAt k).mode ≠ 1) (h4 : (s.canAt k).mode ≠ 4) :
    exec (.canTxTimeout k) s = .next s :=
  congrArg Host.Outcome.next (if_pos ⟨h1, h4⟩)

theorem exec_canTxTimeout_stops (h : (s.canAt k).mode = 1 ∨ (s.canAt k).mode = 4) : exec (.canTxTimeout k) s =
    .next (s.onCan k fun c => { c with
      txTimeout := true, forcedRecessive := true, sending := none, request := some 0 }) :=
  congrArg Host.Outcome.next (if_neg (by rcases h with h | h <;> simp [h]))

end Faults

/-- The measurement of the loop delay leaves the frames, the counters and the injections. -/
theorem measured_leaves {s : State} {k : Nat} (hk : k < s.can.length) (b : Nat) (d : Option Nat) :
    ((s.measured k b d).canAt k).tx = (s.canAt k).tx ∧ ((s.measured k b d).canAt k).tecCount = (s.canAt k).tecCount ∧
      (s.measured k b d).can.length = s.can.length := by
  unfold State.measured
  split
  · rw [canAt_onCan hk]
    exact ⟨rfl, rfl, List.length_modify ..⟩
  · exact ⟨rfl, rfl, rfl⟩

theorem measured_uninjected {s : State} (h : Uninjected s) (k b : Nat) (d : Option Nat) :
    Uninjected (s.measured k b d) := by
  unfold State.measured
  split
  · exact h
  · exact h

/-- Settles O57: commands and events by their equations, `bestTx_least` for arbitration, `canSent_sends` for a frame
that went out, `exec_canBusError_counts` for errors. -/
theorem canControllersFollowTheirCommands : Obligations.CanControllersFollowTheirCommands := by
  refine ⟨fun c s h => ⟨fun hmode => ?_, fun hmode hgood => ?_, fun hmode hbad => ?_⟩,
    fun c s h hs => exec_canFilters_takes h hs, fun c s h => ⟨fun hbad => ?_, fun hgood hpending => ?_⟩,
    fun s k hpending => ?_, fun s k hpending => ?_,
    fun c s h => ⟨fun hbig => ?_, fun hsmall hallow => ?_, fun hallow hneeds hconf => ?_,
      fun hsmall hallow hconf hreq => ?_⟩,
    fun c s h hsmall hallow hconf hreq => ?_, fun s k m hk hs hreq => ?_, fun s k => exec_canModeChangeEffect_none,
    fun c s h => ⟨exec_canSend_refused h, exec_canSend_busy h, fun hmode hfree hbad => ?_⟩,
    fun c s b h hmode hfree hgood => ?_, fun s k b hmode herr hstart hforced hsending h31 hbest => ?_,
    fun s k => exec_canArbitration_idle, fun s k hctrl hmode herr hstart hforced hsending h31 => ?_,
    fun s k b ts d hk hs hinj hb hsending hpass => ?_,
    fun s k b ts d hsending => ⟨exec_canFrameTransmitted_fails hsending, fun hpass w j u hinject => ?_⟩,
    fun s k d => exec_canFrameTransmitted_none, fun s k f hrom => exec_canFrameReceive_hears (.inl hrom),
    fun s k f => ⟨exec_canFrameReceive_deaf, fun hk => exec_canFrameReceive_hears (.inr hk),
      exec_canFrameReceive_recovery, exec_canFrameReceive_foreign⟩,
    fun q e hroom hsize hput => ?_, fun q e hfull => ?_, fun s => rfl, fun s k e hk hs hmode herr => ?_,
    fun s k e hk hs => ⟨fun hmode herr => exec_canBusError_counts (can_of_shaped hs hk) e hmode herr,
      fun hout => ⟨s, exec_canBusError_idle e hout, rfl, rfl, rfl⟩⟩,
    fun s k hk hs => exec_canBusOff_enters (can_of_shaped hs hk), fun s k => exec_canBusOff_idle,
    fun s k hidle => ⟨s, exec_canBusOffRecovered_idle hidle, rfl, rfl, rfl⟩, fun s k => exec_canStuckDominant_stopped,
    fun s k => exec_canTxTimeout_silent, fun s k hk hs => exec_canBusOffRecovered_recovers (can_of_shaped hs hk),
    fun s k hk hs => exec_canStuckDominant_stops (can_of_shaped hs hk), fun s k => rfl,
    fun s k => exec_canTxTimeout_stops⟩
  · simp [exec_canConfig h, hmode]
  · simp [exec_canConfig h, hmode, hgood]
  · simp [exec_canConfig h, hmode, hbad]
  · rw [exec_canFilters h]
    exact congrArg _ (if_pos hbad)
  · rw [exec_canFilters h]
    exact congrArg _ ((if_neg (not_not.mpr hgood)).trans (if_pos hpending))
  · rw [exec_canFilterBankSwitch, if_pos hpending]
  · rw [exec_canFilterBankSwitch, if_neg (by simp [hpending])]
  · rw [exec_canMode h rfl rfl, if_pos hbig]
  · rw [exec_canMode h rfl rfl, if_neg (Nat.not_lt.mpr hsmall), if_pos hallow]
  · rw [exec_canMode h rfl rfl, if_neg (by omega), if_neg (by simp [hallow]), if_pos ⟨hneeds, hconf⟩]
  · rw [exec_canMode h rfl rfl, if_neg (Nat.not_lt.mpr hsmall), if_neg (by simp [hallow]),
      if_neg (fun hno => absurd (hconf hno.1) (by simp [hno.2])), if_pos hreq]
  · rw [exec_canMode h rfl rfl, if_neg (Nat.not_lt.mpr hsmall), if_neg (by simp [hallow]),
      if_neg (fun hno => absurd (hconf hno.1) (by simp [hno.2])), if_neg (not_not.mpr hreq)]
  · obtain ⟨hmode, hrequest, hawait⟩ := canModeEffect_takes (m := m) (can_of_shaped hs hk)
    exact ⟨_, exec_canModeChangeEffect hreq, hmode, hrequest, hawait⟩
  · obtain ⟨b, hb⟩ := Option.ne_none_iff_exists'.mp hfree
    rw [exec_canSend_free h hmode hb, if_pos hbad]
  · rw [exec_canSend_free h hmode hfree, if_neg (by simp [hgood])]
  · have hoffered : s.offered k = some b := by
      rw [State.offered, if_neg, hbest]
      simpa using h31
    exact ⟨exec_canArbitration_offers (offers_of hmode herr hstart hforced hsending) hoffered, bestTx_least _ _ _ hbest⟩
  · refine exec_canArbitration_offers (offers_of hmode herr hstart hforced hsending) ?_
    rw [State.offered, if_pos (by simp [hctrl, h31])]
  · obtain ⟨htx, htec, hlen⟩ := measured_leaves (can_of_shaped hs hk) b d
    have hinject : (s.measured k b d).inject 4 k 0 = (none, (s.measured k b d).bump) :=
      inject_uninjected (measured_uninjected hinj k b d) 4 k 0
    obtain ⟨hpending, hidle, hcount, hawait⟩ := canSent_sends (s := (s.measured k b d).bump.canUnhold k) (k := k) (b := b)
      (hlen.symm ▸ can_of_shaped hs hk) (htx.symm ▸ hb) ts
    exact ⟨_, exec_canFrameTransmitted_sent hsending hpass hinject, hpending, hidle,
      hcount.trans (congrArg (· - 1) htec), hawait⟩
  · have hexec := exec_canFrameTransmitted_injected (d := d) hsending hpass hinject
    refine ⟨fun h1 => ?_, fun h2 => ?_, fun h1 h2 => ?_⟩
    · rw [hexec, if_pos h1]
    · rw [hexec, if_neg (by omega), if_pos h2]
    · rw [hexec, if_neg h1, if_neg h2]
  · rw [store_room hroom]
    exact ⟨rfl, by simp [hput.trans_le hsize], rfl⟩
  · rw [store_full hfull]
    exact ⟨rfl, rfl, rfl⟩
  · obtain ⟨t, hexec, hcounted, hother⟩ := exec_canBusError_counts (can_of_shaped hs hk) e (.inl hmode) (by simp [herr])
    obtain ⟨htec, hpassive⟩ := counted_active herr e
    exact ⟨t, hexec, by rw [hcounted, htec], by rw [hcounted, hpassive], hother⟩

end Sys2Proof.Machine
end

section
/-! Flash: what a write and an erase leave at each address (R475, R480, R482). O58. -/

namespace Sys2Proof.Machine

/-! The listed bytes of flash. -/

theorem cellGet_append (l m : List Host.Cell) (a : Nat) : cellGet (l ++ m) a = (cellGet l a).or (cellGet m a) := by
  induction l with
  | nil => rfl
  | cons c l ih =>
    obtain ⟨k, v⟩ := c
    by_cases hk : k = a <;> simp [cellGet, hk, ih]

/-- An address that a filter takes out is not listed. -/
theorem cellGet_filter_out (p : Nat → Bool) (m : List Host.Cell) {a : Nat} (h : p a = false) :
    cellGet (m.filter fun c => p c.1) a = none := by
  induction m with
  | nil => rfl
  | cons c m ih =>
    obtain ⟨k, v⟩ := c
    by_cases hp : p k = true
    · have hk : k ≠ a := fun hka => by simp [hka, h] at hp
      simp [hp, cellGet, hk, ih]
    · simp [hp, ih]

/-- A run lists its own addresses only. -/
theorem cellGet_runCells_out (bs : List Byte) : ∀ {a b : Nat}, b < a ∨ a + bs.length ≤ b → cellGet (runCells a bs) b = none := by
  induction bs with
  | nil => exact fun _ => rfl
  | cons v bs ih =>
    intro a b h
    rw [List.length_cons] at h
    have htail := ih (a := a + 1) (b := b) (by omega)
    have hne : a ≠ b := by omega
    unfold runCells
    split
    · exact htail
    · simp [cellGet, hne, htail]

/-- A run reads as its bytes; those that read as erased flash are not listed. -/
theorem cellGet_runCells_in (bs : List Byte) : ∀ {a i : Nat} (h : i < bs.length),
    (cellGet (runCells a bs) (a + i)).getD 0xFF = bs[i] := by
  induction bs with
  | nil => exact fun h => absurd h (Nat.not_lt_zero _)
  | cons v bs ih =>
    intro a i h
    cases i with
    | zero =>
      unfold runCells
      split
      · next hv => simp [cellGet_runCells_out bs (a := a + 1) (b := a) (by omega), hv]
      · simp [cellGet]
    | succ i =>
      have htail := ih (a := a + 1) (i := i) (by simpa using h)
      rw [Nat.add_right_comm] at htail
      have hne : a ≠ a + i + 1 := by omega
      unfold runCells
      split
      · simpa [Nat.add_assoc] using htail
      · simpa [cellGet, hne, Nat.add_assoc] using htail

/-- Outside the range replaced, flash reads as before. -/
theorem flashByte_replace_out {f cs : List Host.Cell} {a n b : Nat} (h : b < a ∨ a + n ≤ b) (hcs : cellGet cs b = none) :
    flashByte (flashReplace f a n cs) b = flashByte f b := by
  unfold flashByte flashReplace
  rw [cellGet_append, cellGet_append, hcs]
  rcases h with h | h
  · rw [cellGet_filter (fun k => decide (k < a)) f (by simpa using h),
      cellGet_filter_out (fun k => decide (a + n ≤ k)) f (by simp; omega)]
    simp
  · rw [cellGet_filter_out (fun k => decide (k < a)) f (by simp; omega),
      cellGet_filter (fun k => decide (a + n ≤ k)) f (by simpa using h)]
    simp

/-- In the range replaced, flash reads as its new cells. -/
theorem flashByte_replace_in {f cs : List Host.Cell} {a n b : Nat} (hlow : a ≤ b) (hhigh : b < a + n) :
    flashByte (flashReplace f a n cs) b = (cellGet cs b).getD 0xFF := by
  unfold flashByte flashReplace
  rw [cellGet_append, cellGet_append, cellGet_filter_out (fun k => decide (k < a)) f (by simp; omega),
    cellGet_filter_out (fun k => decide (a + n ≤ k)) f (by simp; omega)]
  simp

theorem flashByte_write_out (f : List Host.Cell) {a b : Nat} {d : List Byte} (h : b < a ∨ a + d.length ≤ b) :
    flashByte (flashWrite f a d) b = flashByte f b := flashByte_replace_out h (cellGet_runCells_out d h)

/-- A run that was written is read back. -/
theorem flashBytes_write (f : List Host.Cell) (a : Nat) (d : List Byte) : flashBytes (flashWrite f a d) a d.length = d := by
  refine List.ext_getElem (by simp [flashBytes]) fun i _ hi => ?_
  simp only [flashBytes, List.getElem_map, List.getElem_range]
  exact (flashByte_replace_in (by omega) (by omega)).trans (cellGet_runCells_in d hi)

theorem flashByte_erased (f : List Host.Cell) {a n b : Nat} (hlow : a ≤ b) (hhigh : b < a + n) :
    flashByte (flashErase f a n) b = 0xFF := flashByte_replace_in hlow hhigh

/-! Runs of a record. -/

theorem length_splice {d x : List Byte} {o : Nat} (h : o + x.length ≤ d.length) : (splice d o x).length = d.length := by
  simp only [splice, List.length_append, List.length_take, List.length_drop]
  omega

/-- A run that was put into a record is read back. -/
theorem part_splice {d x : List Byte} {o : Nat} (h : o + x.length ≤ d.length) : part (splice d o x) o x.length = x := by
  have htake : (d.take o).length = o := by simp; omega
  rw [part, splice, List.append_assoc, List.drop_append_of_le_length htake.ge]
  simp

theorem getElem?_splice_out {d x : List Byte} {o i : Nat} (h : o + x.length ≤ d.length) (hi : i < o ∨ o + x.length ≤ i) :
    (splice d o x)[i]? = d[i]? := by
  have htake : (d.take o).length = o := by simp; omega
  rw [splice, List.append_assoc]
  rcases hi with hi | hi
  · rw [List.getElem?_append_left (by omega), List.getElem?_take_of_lt hi]
  · rw [List.getElem?_append_right (by omega), List.getElem?_append_right (by omega), List.getElem?_drop]
    congr 1
    omega

end Sys2Proof.Machine
end

section
/-! Firmware update, the configuration record and the wear record (R478 to R482, R490, R510). O58. -/

namespace Sys2Proof.Machine

open Sys2Proof.Safety

/-! FW commands (R478 to R482). -/

section Update

variable {c : Cmd} {s : State}

/-- While a piece is on its way to flash no FW command starts (R478). -/
theorem runFw_busy (h : s.fw.busy = true) (op : Nat) (body : State → State) : runFw op c s body = s := if_pos h

theorem runFw_starts {op : Nat} (h : Starts 0xB op c s) (hidle : s.fw.busy = false) (body : State → State) :
    runFw op c s body = body (begun c s) := by
  rw [runFw, if_neg (by simp [hidle]), runCmd_starts h]

theorem busy_of_idle (h : s.fw.op = none) : s.fw.busy = false := by rw [Fw.busy, h]

theorem exec_fwBegin_receiving (h : Starts 0xB 1 c s) (hidle : s.fw.busy = false) (hstage : s.fw.staging = .receiving) :
    exec (.fwBegin c) s = .next ((begun c s).complete c (if c.data = s.fw.header then stOk else stFwSequence)) := by
  refine congrArg Host.Outcome.next ((runFw_starts h hidle _).trans ?_)
  dsimp only
  rw [begun_fw, hstage]

theorem exec_fwBegin_late (h : Starts 0xB 1 c s) (hidle : s.fw.busy = false)
    (hstage : s.fw.staging = .committed ∨ s.fw.staging = .copying) :
    exec (.fwBegin c) s = .next ((begun c s).complete c stFwSequence) := by
  refine congrArg Host.Outcome.next ((runFw_starts h hidle _).trans ?_)
  dsimp only
  rw [begun_fw]
  rcases hstage with hstage | hstage <;> rw [hstage]

theorem exec_fwBegin_opens (h : Starts 0xB 1 c s) (hidle : s.fw.busy = false)
    (hstage : s.fw.staging = .empty ∨ s.fw.staging = .installed) : exec (.fwBegin c) s = .next (
      if hdrKind c.data = 2 && s.dev.mode ≠ .recovery then (begun c s).complete c stFwHeader
      else if headerStatus s.fw.floor c.data ≠ stOk then (begun c s).complete c (headerStatus s.fw.floor c.data)
      else ((begun c s).onFw fun f => { f with staging := .receiving, header := c.data, present := [] }).complete c stOk) := by
  refine congrArg Host.Outcome.next ((runFw_starts h hidle _).trans ?_)
  dsimp only
  rw [begun_fw, begun_dev]
  rcases hstage with hstage | hstage <;> rw [hstage]

theorem exec_fwPiece (h : Starts 0xB 2 c s) (hidle : s.fw.op = none) : exec (.fwPiece c) s = .next (
    if c.data.length ≠ s.fw.pieceLen (c.word 0) then (begun c s).complete c stBadLength
    else if s.fw.staging ≠ .receiving || s.fw.pieceCount ≤ c.word 0 then (begun c s).complete c stFwSequence
    else if crc32c c.data ≠ c.word 1 then (begun c s).complete c stCrc
    else if s.fw.present.contains (c.word 0) then (begun c s).complete c stOk
    else ((begun c s).onFw fun f => { f with op := some (.piece (c.word 0) c.data) }).await c .flash) := by
  refine congrArg Host.Outcome.next ((if_neg (by simp [hidle])).trans ((runFw_starts h (busy_of_idle hidle) _).trans ?_))
  rw [begun_fw]

theorem exec_fwPiece_flashing (h : s.fw.op ≠ none) : exec (.fwPiece c) s = .next s :=
  congrArg Host.Outcome.next (if_pos (Option.isSome_iff_ne_none.mpr h))

theorem exec_fwStatus (h : Starts 0xB 3 c s) (hidle : s.fw.busy = false) : exec (.fwStatus c) s = .next (
    if s.fw.staging ≠ .receiving then (begun c s).complete c stFwSequence
    else if c.word 2 < s.fw.bitmap.length then (begun c s).complete c stLimit s.fw.missing.length s.fw.firstMissing
    else if c.ring = 256 then
      (if c.addr 0 ≠ 0 then (begun c s).complete c stBadParam
       else ((begun c s).complete c stOk s.fw.missing.length s.fw.firstMissing).bitmapFrames s.fw.bitmap)
    else (begun c s).output c (c.addr 0) s.fw.bitmap stOk s.fw.missing.length s.fw.firstMissing) := by
  refine congrArg Host.Outcome.next ((runFw_starts h hidle _).trans ?_)
  rw [begun_fw]

theorem exec_fwCommit (h : Starts 0xB 4 c s) (hidle : s.fw.busy = false) : exec (.fwCommit c) s = .next (
    if s.fw.staging ≠ .receiving || s.fw.missing ≠ [] then (begun c s).complete c stFwSequence
    else if Config.sha512 (flashBytes s.fw.flash stagingFlash (hdrBody s.fw.header)) ≠ (s.fw.header.drop 64).take 64 then
      ((begun c s).onFw Fw.eraseStaging).complete c stFwSignature
    else if s.dev.mode = .recovery then ((begun c s).onFw Fw.install).complete c stOk
    else ((begun c s).onFw fun f => { f with staging := .committed }).complete c stOk) := by
  refine congrArg Host.Outcome.next ((runFw_starts h hidle _).trans ?_)
  rw [begun_fw, begun_dev]

theorem exec_fwAbort (h : Starts 0xB 5 c s) (hidle : s.fw.busy = false) : exec (.fwAbort c) s = .next (
    if s.fw.staging = .receiving || s.fw.staging = .committed then ((begun c s).onFw Fw.eraseStaging).complete c stOk
    else (begun c s).complete c stFwSequence) := by
  refine congrArg Host.Outcome.next ((runFw_starts h hidle _).trans ?_)
  rw [begun_fw]

end Update

/-! Flash operations (R480, R490, R491, R510). -/

section Flash

variable {s : State}

theorem exec_flashOperationDone_none (h : s.fw.op = none) (ok : Bool) : exec (.flashOperationDone ok) s = .next s := by
  show execFlashOperationDone ok s = _
  rw [execFlashOperationDone, h]

/-- After a mismatch the operation is done again. -/
theorem exec_flashOperationDone_mismatch (s : State) : exec (.flashOperationDone false) s = .next s := by
  refine congrArg Host.Outcome.next ?_
  split
  · rfl
  · exact if_pos rfl

theorem finish_fw (s : State) (p : Wait → Bool) (status res0 res1 res2 : Nat) :
    (s.finish p status res0 res1 res2).fw = s.fw := by
  obtain ⟨-, -, -, -, -, -, -, -, -, -, -, -, -, -, hfw, -⟩ := (KeepsBlocks.refl s).finish p status res0 res1 res2
  exact hfw

theorem exec_flashOperationDone_piece {i : Nat} {d : List Byte} (h : s.fw.op = some (.piece i d)) :
    ∃ t : State, exec (.flashOperationDone true) s = .next t ∧ t.fw.op = none ∧ t.fw.present = s.fw.present ++ [i] ∧
      t.fw.flash = flashWrite s.fw.flash (stagingFlash + 65536 * i) d ∧ t.awaiting (· = .flash) = [] := by
  let u := s.onFw fun f => { f with
    op := none, present := f.present ++ [i], flash := flashWrite f.flash (stagingFlash + 65536 * i) d }
  have hexec : exec (.flashOperationDone true) s = .next (u.finish (· = .flash) stOk) := by
    show execFlashOperationDone true s = _
    rw [execFlashOperationDone, h]
    rfl
  have hfw : (u.finish (· = .flash) stOk).fw = u.fw := finish_fw ..
  exact ⟨_, hexec, congrArg Fw.op hfw, congrArg Fw.present hfw, congrArg Fw.flash hfw, finish_awaiting ..⟩

theorem exec_flashOperationDone_cfgCommit {d : List Byte} (h : s.fw.op = some (.cfgCommit d)) :
    ∃ t : State, exec (.flashOperationDone true) s = .next t ∧ t.fw.op = none ∧
      t.fw.flash = flashWrite s.fw.flash cfgFlash d ∧ t.fw.work = s.fw.work ∧ t.awaiting (· = .flash) = [] := by
  let u := s.onFw fun f => { f with op := none, flash := flashWrite f.flash cfgFlash d, flashFormat := 1 }.markDirty
  have hexec : exec (.flashOperationDone true) s = .next (u.finish (· = .flash) stOk) := by
    show execFlashOperationDone true s = _
    rw [execFlashOperationDone, h]
    rfl
  have hfw : (u.finish (· = .flash) stOk).fw = u.fw := finish_fw ..
  exact ⟨_, hexec, congrArg Fw.op hfw, congrArg Fw.flash hfw, (congrArg Fw.work hfw :), finish_awaiting ..⟩

theorem exec_flashOperationDone_wear {half : Nat} {d : List Byte} (h : s.fw.op = some (.wear half d)) :
    ∃ t : State, exec (.flashOperationDone true) s = .next t ∧
      t.fw = { s.fw with op := none, flash := flashWrite s.fw.flash (wearFlash + 32768 * half) d } ∧ t.spr.half = half ∧
      t.spr.sequence = fieldAt d 8 4 ∧ t.spr.inFlash = fieldAt d 12 4 ∧ t.spr.entries = s.spr.entries ∧
      t.mem = s.mem := by
  have hexec : exec (.flashOperationDone true) s = .next ((s.onFw fun f =>
      { f with op := none, flash := flashWrite f.flash (wearFlash + 32768 * half) d }).onSpr fun p => { p with
        half := half, sequence := fieldAt d 8 4, inFlash := fieldAt d 12 4
        writeDue := if p.entries.length ≤ fieldAt d 12 4 then none else p.writeDue }) := by
    show execFlashOperationDone true s = _
    rw [execFlashOperationDone, h]
    rfl
  exact ⟨_, hexec, rfl, rfl, rfl, rfl, rfl, rfl⟩

end Flash

/-! The configuration and wear records (R490, R491, R510). -/

section Records

variable {c : Cmd} {s : State}

theorem exec_cfgRead (h : Starts 0xC 1 c s) : exec (.cfgRead c) s = .next (
    if cfgBytes < c.word 0 + c.word 1 then (begun c s).complete c stLimit
    else (begun c s).output c (c.addr 2) (part s.fw.work (c.word 0) (c.word 1)) s.cfgOk (c.word 1)) := by
  have hok : (begun c s).cfgOk = s.cfgOk := by rw [State.cfgOk, begun_fw, State.cfgOk]
  refine congrArg Host.Outcome.next ((runCmd_starts h _).trans ?_)
  rw [begun_fw, hok]

theorem exec_cfgWrite (h : Starts 0xC 2 c s) : exec (.cfgWrite c) s = .next (
    if cfgBytes < c.word 0 + c.data.length then (begun c s).complete c stLimit
    else ((begun c s).onFw fun f => { f with work := splice f.work (c.word 0) c.data }.markDirty).complete c stOk) :=
  congrArg Host.Outcome.next (runCmd_starts h _)

theorem exec_cfgCommit_flashing (h : s.fw.op ≠ none) : exec (.cfgCommit c) s = .next s :=
  congrArg Host.Outcome.next (if_pos (Option.isSome_iff_ne_none.mpr h))

/-- The record that CFG.COMMIT writes: the working copy with its sequence and check word. -/
def State.cfgNext (s : State) : List Byte := sealed (splice s.fw.work 12 (leBytes 4 s.nextCfgSeq))

theorem cfgNext_begun (c : Cmd) (s : State) : (begun c s).cfgNext = s.cfgNext :=
  of_begun State.cfgNext (fun _ _ => rfl) c s

theorem cfgFail_begun (c : Cmd) (s : State) (d : List Byte) : (begun c s).cfgFail d = s.cfgFail d :=
  of_begun (State.cfgFail · d) (fun _ _ => rfl) c s

theorem draw_begun (c : Cmd) (s : State) (i : Nat) : (begun c s).draw i = s.draw i :=
  of_begun (State.draw · i) (fun _ _ => rfl) c s

theorem exec_cfgCommit_fails {st base size : Nat} (h : Starts 0xC 3 c s) (hidle : s.fw.op = none)
    (hfail : s.cfgFail s.cfgNext = some (st, base, size)) :
    exec (.cfgCommit c) s = .next ((begun c s).complete c st (base + s.draw 0 % size)).bump := by
  have hbegun : (begun c s).cfgFail (begun c s).cfgNext = some (st, base, size) := by
    rw [cfgNext_begun, cfgFail_begun, hfail]
  refine congrArg Host.Outcome.next ((if_neg (by simp [hidle])).trans ((runCmd_starts h _).trans ?_))
  rw [← draw_begun c s]
  show (match (begun c s).cfgFail (begun c s).cfgNext with | some (st, base, size) => _ | none => _) = _
  rw [hbegun]

theorem exec_cfgCommit_passes (h : Starts 0xC 3 c s) (hidle : s.fw.op = none) (hpass : s.cfgFail s.cfgNext = none) :
    exec (.cfgCommit c) s = .next (((begun c s).onFw fun f => { f with
      work := s.cfgNext, op := some (.cfgCommit s.cfgNext) }).await c .flash) := by
  have hbegun : (begun c s).cfgFail (begun c s).cfgNext = none := by
    rw [cfgNext_begun, cfgFail_begun, hpass]
  refine congrArg Host.Outcome.next ((if_neg (by simp [hidle])).trans ((runCmd_starts h _).trans ?_))
  rw [← cfgNext_begun c s]
  show (match (begun c s).cfgFail (begun c s).cfgNext with | some (st, base, size) => _ | none => _) = _
  rw [hbegun]
  rfl

theorem exec_wearRecordWrite_due (hdue : s.spr.writeDue ≠ none) (hidle : s.fw.op = none) :
    exec .wearRecordWrite s = .next (s.onFw fun f => { f with
      op := some (.wear (1 - s.spr.half) (wearHalf ((s.spr.sequence + 1) % 2 ^ 32) s.spr.entries)) }) := by
  refine congrArg Host.Outcome.next (if_neg ?_)
  simpa [hidle] using hdue

theorem exec_wearRecordWrite_idle (h : s.spr.writeDue = none ∨ s.fw.op ≠ none) : exec .wearRecordWrite s = .next s := by
  refine congrArg Host.Outcome.next (if_pos ?_)
  rcases h with h | h
  · simp [h]
  · simp [Option.isSome_iff_ne_none.mpr h]

end Records

/-- Settles O58: each command by its equation, flash by `flashBytes_write` and `flashByte_erased`, the working copy by
`part_splice`. -/
theorem firmwareAndConfigurationReachFlash : Obligations.FirmwareAndConfigurationReachFlash := by
  refine ⟨fun c s hbusy => ?_, fun c s hop => ⟨exec_fwPiece_flashing hop, exec_cfgCommit_flashing hop⟩,
    fun c s h hidle hstage hkind => ?_,
    fun c s h hidle => ⟨exec_fwBegin_receiving h hidle, exec_fwBegin_late h hidle, fun hstage hkind hmode => ?_⟩,
    fun c s h hidle => ⟨fun hlen => ?_, fun hlen hout => ?_, fun hlen hstage hcount hcrc => ?_⟩,
    fun c s h hidle hlen hstage hcount hcrc => ⟨fun hhave => ?_, fun hnew => ?_⟩,
    fun s i d hop => ⟨exec_flashOperationDone_mismatch s, exec_flashOperationDone_piece hop⟩,
    fun s d hop => ⟨exec_flashOperationDone_mismatch s, exec_flashOperationDone_cfgCommit hop⟩,
    fun s half d hop => ⟨exec_flashOperationDone_mismatch s, exec_flashOperationDone_wear hop⟩,
    fun s ok hop => exec_flashOperationDone_none hop ok,
    fun f a d _ => ⟨flashBytes_write f a d, fun b hb => flashByte_write_out f hb⟩,
    fun c s h hidle => ⟨fun hstage => ?_, fun hstage hroom => ?_, fun hstage hroom hring => ?_,
      fun hstage hroom hring haddr => ?_, fun hstage hroom hring haddr => ?_⟩,
    fun c s h hidle => ⟨fun hout => ?_, fun hstage hall hmode => ?_, fun hstage hall hmode => ?_⟩,
    fun c s h hidle hrec hcom => ?_, fun c s h hidle hstage => ?_,
    fun c s h => ⟨fun hin => ?_, fun hout => ?_⟩, fun c s h => ⟨fun hout => ?_, fun hin hwork => ?_⟩,
    fun c s h hidle => ?_, fun s => exec_wearRecordWrite_due, fun s => exec_wearRecordWrite_idle⟩
  · have hop : s.fw.op ≠ none := fun hnone => absurd (busy_of_idle hnone) (by simp [hbusy])
    exact ⟨congrArg Host.Outcome.next (runFw_busy hbusy ..), exec_fwPiece_flashing hop,
      congrArg Host.Outcome.next (runFw_busy hbusy ..), congrArg Host.Outcome.next (runFw_busy hbusy ..),
      congrArg Host.Outcome.next (runFw_busy hbusy ..)⟩
  · rw [exec_fwBegin_opens h hidle hstage, if_neg (by simpa [imp_iff_not_or] using hkind), ite_not]
  · rw [exec_fwBegin_opens h hidle hstage, if_pos (by simp [hkind, hmode])]
  · rw [exec_fwPiece h hidle, if_pos hlen]
  · rw [exec_fwPiece h hidle, if_neg (not_not.mpr hlen), if_pos (by simpa using hout)]
  · rw [exec_fwPiece h hidle, if_neg (not_not.mpr hlen), if_neg (by simp [hstage, hcount]), if_pos hcrc]
  · rw [exec_fwPiece h hidle, if_neg (not_not.mpr hlen), if_neg (by simp [hstage, hcount]), if_neg (not_not.mpr hcrc),
      if_pos hhave]
  · rw [exec_fwPiece h hidle, if_neg (not_not.mpr hlen), if_neg (by simp [hstage, hcount]), if_neg (not_not.mpr hcrc),
      if_neg (Bool.eq_false_iff.mp hnew)]
  · rw [exec_fwStatus h hidle, if_pos hstage]
  · rw [exec_fwStatus h hidle, if_neg (not_not.mpr hstage), if_pos hroom]
  · rw [exec_fwStatus h hidle, if_neg (not_not.mpr hstage), if_neg (Nat.not_lt.mpr hroom), if_neg hring]
  · rw [exec_fwStatus h hidle, if_neg (not_not.mpr hstage), if_neg (Nat.not_lt.mpr hroom), if_pos hring, if_pos haddr]
  · rw [exec_fwStatus h hidle, if_neg (not_not.mpr hstage), if_neg (Nat.not_lt.mpr hroom), if_pos hring,
      if_neg (not_not.mpr haddr)]
  · rw [exec_fwCommit h hidle, if_pos (by simpa using hout)]
  · rw [exec_fwCommit h hidle, if_neg (by simp [hstage, hall]), if_neg hmode, ite_not]
  · rw [exec_fwCommit h hidle, if_neg (by simp [hstage, hall]), if_pos hmode, ite_not]
  · rw [exec_fwAbort h hidle, if_neg (by simp [hrec, hcom])]
  · rw [exec_fwAbort h hidle, if_pos (by simpa using hstage)]
    exact ⟨_, rfl, rfl, rfl, fun a hlow hhigh => flashByte_erased _ hlow hhigh, begun_mem c s⟩
  · rw [exec_cfgRead h, if_neg (Nat.not_lt.mpr hin)]
  · rw [exec_cfgRead h, if_pos hout]
  · rw [exec_cfgWrite h, if_pos hout]
  · rw [exec_cfgWrite h, if_neg (Nat.not_lt.mpr hin)]
    have hwork' : ((begun c s).onFw fun f => { f with work := splice f.work (c.word 0) c.data }.markDirty).fw.work =
        splice s.fw.work (c.word 0) c.data := by
      show splice (begun c s).fw.work (c.word 0) c.data = _
      rw [begun_fw]
    refine ⟨_, rfl, ?_, ?_, (congrArg Fw.flash (begun_fw c s) :), begun_mem c s, fun i hi => ?_⟩
    · rw [hwork', length_splice (by omega), hwork]
    · rw [hwork', part_splice (by omega)]
    · rw [hwork', getElem?_splice_out (by omega) hi]
  · intro d
    split
    · next hfail => exact exec_cfgCommit_fails h hidle hfail
    · next hpass => exact exec_cfgCommit_passes h hidle hpass

end Sys2Proof.Machine
end

section
/-! The recorder and the test commands (R503, R505, R533 to R539). O59. -/

namespace Sys2Proof.Machine

open Sys2Proof.Safety

/-! REC.CONFIG (R533). -/

section Recorder

variable {c : Cmd} {s : State}

/-- REC.CONFIG may change the ring: outside REPLAY, in CONFIG or where die and size stay. -/
def State.ringOpen (s : State) (d : List Byte) : Prop :=
  s.dev.mode ≠ .replay ∧ (s.dev.mode = .config ∨ s.recd.hasRing (fieldAt d 0 1) (recMib d) = true)

theorem exec_recConfig_shut (h : Starts 0xD 1 c s) (hopen : ¬s.ringOpen c.data) :
    exec (.recConfig c) s = .next ((begun c s).complete c stMode) := by
  refine congrArg Host.Outcome.next ((runCmd_starts h _).trans (if_pos ?_))
  rw [begun_dev, begun_recd]
  by_cases hreplay : s.dev.mode = .replay
  · simp [hreplay]
  · have hno := not_or.mp fun hor => hopen ⟨hreplay, hor⟩
    simp [hno]

theorem recConfig_open (hopen : s.ringOpen c.data) : ¬((decide (s.dev.mode = .replay) || !(decide (s.dev.mode = .config) ||
    s.recd.hasRing (fieldAt c.data 0 1) (recMib c.data))) = true) := by
  obtain ⟨hmode, hor | hor⟩ := hopen <;> simp [hmode, hor]

theorem exec_recConfig_limit (h : Starts 0xD 1 c s) (hopen : s.ringOpen c.data) (hlimit : recLimit c.data = true) :
    exec (.recConfig c) s = .next ((begun c s).complete c stLimit) :=
  congrArg Host.Outcome.next ((runCmd_starts h _).trans ((if_neg (by simpa using recConfig_open hopen)).trans (if_pos hlimit)))

theorem exec_recConfig_reserved (h : Starts 0xD 1 c s) (hopen : s.ringOpen c.data) (hlimit : recLimit c.data = false)
    (hreserved : recReserved c.data = true) : exec (.recConfig c) s = .next ((begun c s).complete c stBadParam) :=
  congrArg Host.Outcome.next ((runCmd_starts h _).trans ((if_neg (by simpa using recConfig_open hopen)).trans
    ((if_neg (by simp [hlimit])).trans (if_pos hreserved))))

theorem exec_recConfig_full (h : Starts 0xD 1 c s) (hopen : s.ringOpen c.data) (hlimit : recLimit c.data = false)
    (hreserved : recReserved c.data = false) (hplace : (begun c s).placeRing (fieldAt c.data 0 1) (recMib c.data) = none) :
    exec (.recConfig c) s = .next ((begun c s).complete c stNoMemory) := by
  refine congrArg Host.Outcome.next ((runCmd_starts h _).trans ((if_neg (by simpa using recConfig_open hopen)).trans
    ((if_neg (by simp [hlimit])).trans ((if_neg (by simp [hreserved])).trans ?_))))
  rw [hplace]

theorem exec_recConfig_starts {base : Nat} (h : Starts 0xD 1 c s) (hopen : s.ringOpen c.data)
    (hlimit : recLimit c.data = false) (hreserved : recReserved c.data = false)
    (hplace : (begun c s).placeRing (fieldAt c.data 0 1) (recMib c.data) = some base) :
    exec (.recConfig c) s = .next (((begun c s).startRing c.data base).complete c stOk) := by
  refine congrArg Host.Outcome.next ((runCmd_starts h _).trans ((if_neg (by simpa using recConfig_open hopen)).trans
    ((if_neg (by simp [hlimit])).trans ((if_neg (by simp [hreserved])).trans ?_))))
  rw [hplace]

/-- Whatever becomes of the old ring's place, memory is as it was. -/
theorem startRing_mem (s : State) (d : List Byte) (base : Nat) : (s.startRing d base).mem = s.mem := by
  unfold State.startRing
  dsimp only
  split
  · rfl
  · split <;> rfl

/-! REC.FREEZE and the freeze (R534, R535). -/

/-- A record leaves the recorder's state and its freeze. -/
theorem put_leaves (r : Rec) (kind flags ts : Nat) (body : List Byte) :
    (r.put kind flags ts body).state = r.state ∧ (r.put kind flags ts body).freezeAt = r.freezeAt ∧
      (r.put kind flags ts body).postLinks = r.postLinks := by
  unfold Rec.put
  split_ifs <;> exact ⟨rfl, rfl, rfl⟩

/-- A trigger of a recording ring starts the post-trigger links. -/
theorem recTrigger_recording (h : s.recd.state = .recording) (safety : Bool) : (s.recTrigger safety).recd.state = .post ∧
    (s.recTrigger safety).recd.freezeAt = some (s.tb.link + s.recd.postLinks) ∧
      (s.recTrigger safety).recd.safetyTrigger = safety := by
  obtain ⟨-, -, hpost⟩ := put_leaves s.recd 7 0 s.tsNow (leBytes 1 (s.draw 1) ++ leBytes 7 0)
  unfold State.recTrigger
  rw [h]
  exact ⟨rfl, congrArg (fun n => some (s.tb.link + n)) hpost, rfl⟩

/-- A later trigger changes neither the state nor the freeze. -/
theorem recTrigger_post (h : s.recd.state = .post) (safety : Bool) : (s.recTrigger safety).recd.state = .post ∧
    (s.recTrigger safety).recd.freezeAt = s.recd.freezeAt := by
  obtain ⟨hstate, hfreeze, -⟩ := put_leaves s.recd 7 0 s.tsNow (leBytes 1 (s.draw 1) ++ leBytes 7 0)
  unfold State.recTrigger
  rw [h]
  exact ⟨hstate.trans h, hfreeze⟩

theorem recTrigger_frozen (h : s.recd.state = .frozen) (safety : Bool) :
    s.recTrigger safety = s.onRec fun r => { r with missed := satInc 255 r.missed } := by
  unfold State.recTrigger
  rw [h]

theorem exec_recFreeze_stopped (h : Starts 0xD 2 c s) (hstate : s.recd.state = .stopped) :
    exec (.recFreeze c) s = .next ((begun c s).complete c stBusy) := by
  refine congrArg Host.Outcome.next ((runCmd_starts h _).trans ?_)
  rw [begun_recd, hstate]

theorem exec_recFreeze_frozen (h : Starts 0xD 2 c s) (hstate : s.recd.state = .frozen) : exec (.recFreeze c) s =
    .next (((begun c s).onRec fun r => { r with missed := satInc 255 r.missed }).complete c stOk) := by
  refine congrArg Host.Outcome.next ((runCmd_starts h _).trans ?_)
  rw [begun_recd, hstate, ← recTrigger_frozen (by rw [begun_recd, hstate])]

theorem exec_recFreeze_waits (h : Starts 0xD 2 c s) (hstate : s.recd.state = .recording ∨ s.recd.state = .post) :
    exec (.recFreeze c) s = .next (((begun c s).recTrigger false).await c .recFreeze) := by
  refine congrArg Host.Outcome.next ((runCmd_starts h _).trans ?_)
  rw [begun_recd]
  rcases hstate with hstate | hstate <;> rw [hstate]

theorem recFreeze_opens (c : Cmd) (s : State) : (((begun c s).recTrigger false).await c .recFreeze).hl.opens =
    s.hl.opens ++ [{ cmd := c, wait := .recFreeze }] := by
  rw [State.await, State.onHl_hl, State.recTrigger_hl, begun_opens]

theorem recFreeze_mem (c : Cmd) (s : State) : (((begun c s).recTrigger false).await c .recFreeze).mem = s.mem :=
  (State.recTrigger_mem ..).trans (begun_mem c s)

theorem exec_recorderFreeze_idle (h : s.recd.state ≠ .post ∨ ∀ l ∈ s.recd.freezeAt, s.tb.link < l) :
    exec .recorderFreeze s = .next s := by
  refine congrArg Host.Outcome.next (if_pos ?_)
  rcases h with h | h
  · simp [h]
  · simpa [Option.any_eq_false] using .inr h

theorem finish_recd (s : State) (p : Wait → Bool) (status res0 res1 res2 : Nat) :
    (s.finish p status res0 res1 res2).recd = s.recd := by
  obtain ⟨-, -, -, -, -, -, -, -, -, -, -, -, -, -, -, -, -, hrec⟩ := (KeepsBlocks.refl s).finish p status res0 res1 res2
  exact hrec

theorem exec_recorderFreeze_freezes {l : Nat} (hstate : s.recd.state = .post) (hat : s.recd.freezeAt = some l)
    (hl : l ≤ s.tb.link) : ∃ t : State, exec .recorderFreeze s = .next t ∧ t.recd.state = .frozen ∧
      t.recd.freezeAt = none ∧ t.recd.records = s.recd.records ∧ t.recd.mile = s.tb.mile ∧
      t.awaiting (· = .recFreeze) = [] ∧ (s.recd.safetyTrigger = false → t.recd.flashCopy = s.recd.flashCopy) ∧
      (s.recd.safetyTrigger = true → let kept := trimRecords (scratchBytes - 64) s.recd.records
        t.recd.flashCopy = (s.onRec fun r => { r with mile := s.tb.mile }).exportHeader kept ++ kept.flatten) := by
  let u := s.onRec fun r => { r with state := .frozen, freezeAt := none, mile := s.tb.mile }
  let kept := trimRecords (scratchBytes - 64) s.recd.records
  let v := u.onRec fun r => { r with
    flashCopy := if r.safetyTrigger then u.exportHeader kept ++ kept.flatten else r.flashCopy }
  have hv : (v.finish (· = .recFreeze) stOk).recd = v.recd := finish_recd ..
  refine ⟨v.finish (· = .recFreeze) stOk, congrArg Host.Outcome.next (if_neg (by simp [hstate, hat, hl])),
    congrArg Rec.state hv, congrArg Rec.freezeAt hv, (congrArg Rec.records hv :), (congrArg Rec.mile hv :),
    finish_awaiting .., fun hsafety => (congrArg Rec.flashCopy hv).trans ?_,
    fun hsafety => (congrArg Rec.flashCopy hv).trans ?_⟩
  · exact if_neg (by simp [u, hsafety])
  · exact if_pos hsafety

/-! REC.EXPORT and what a window writes (R536). -/

/-- The recording that REC.EXPORT names stands ready. -/
def State.exportReady (s : State) (flash : Bool) : Prop :=
  flash = true ∧ s.recd.flashCopy ≠ [] ∨ flash = false ∧ s.recd.state = .frozen

theorem exportReady_iff (flash : Bool) :
    s.exportReady flash ↔ ¬(if flash then s.recd.flashCopy = [] else s.recd.state ≠ .frozen) := by
  cases flash <;> simp [State.exportReady]

theorem exportBytes_begun (c : Cmd) (s : State) (flash : Bool) :
    (begun c s).exportBytes flash = s.exportBytes flash := of_begun (·.exportBytes flash) (fun _ _ => rfl) c s

theorem begun_linkUp (c : Cmd) (s : State) : (begun c s).hl.linkUp = s.hl.linkUp := by
  unfold begun State.onCtx
  split <;> rfl

theorem exec_recExport_busy (h : Starts 0xD 3 c s) (hready : ¬s.exportReady (bitAt (c.word 3) 0)) :
    exec (.recExport c) s = .next ((begun c s).complete c stBusy) := by
  refine congrArg Host.Outcome.next ((runCmd_starts h _).trans (if_pos ?_))
  rw [begun_recd]
  exact not_not.mp (mt (exportReady_iff _).mpr hready)

section Ready

variable (h : Starts 0xD 3 c s) (hready : s.exportReady (bitAt (c.word 3) 0))

include h hready

theorem exec_recExport_ready : exec (.recExport c) s = .next (
    if c.word 2 < (s.exportBytes (bitAt (c.word 3) 0)).length then (begun c s).complete c stLimit
    else if !inHost (c.addr 0) (s.exportBytes (bitAt (c.word 3) 0)).length then (begun c s).complete c stBadParam
    else ((begun c s).await c (.recExport (c.addr 0) (s.exportBytes (bitAt (c.word 3) 0)).length
      (bitAt (c.word 3) 0))).runExports) := by
  rw [← exportBytes_begun c]
  refine congrArg Host.Outcome.next ((runCmd_starts h _).trans (if_neg ?_))
  rw [begun_recd]
  exact (exportReady_iff _).mp hready

theorem exec_recExport_limit (hroom : c.word 2 < (s.exportBytes (bitAt (c.word 3) 0)).length) :
    exec (.recExport c) s = .next ((begun c s).complete c stLimit) :=
  (exec_recExport_ready h hready).trans (congrArg _ (if_pos hroom))

theorem exec_recExport_outside (hroom : (s.exportBytes (bitAt (c.word 3) 0)).length ≤ c.word 2)
    (hhost : inHost (c.addr 0) (s.exportBytes (bitAt (c.word 3) 0)).length = false) :
    exec (.recExport c) s = .next ((begun c s).complete c stBadParam) :=
  (exec_recExport_ready h hready).trans (congrArg _ ((if_neg (Nat.not_lt.mpr hroom)).trans (if_pos (by simp [hhost]))))

theorem exec_recExport_waits (hroom : (s.exportBytes (bitAt (c.word 3) 0)).length ≤ c.word 2)
    (hhost : inHost (c.addr 0) (s.exportBytes (bitAt (c.word 3) 0)).length = true) : exec (.recExport c) s =
      .next (((begun c s).await c (.recExport (c.addr 0) (s.exportBytes (bitAt (c.word 3) 0)).length
        (bitAt (c.word 3) 0))).runExports) :=
  (exec_recExport_ready h hready).trans (congrArg _ ((if_neg (Nat.not_lt.mpr hroom)).trans (if_neg (by simp [hhost]))))

end Ready

theorem runExports_shut (h : s.bgdOpen = false) : s.runExports = s := if_pos (by simp [h])

/-- A window is open after the command has been put to wait where it was open before. -/
theorem await_bgdOpen (c : Cmd) (s : State) (w : Wait) : ((begun c s).await c w).bgdOpen = s.bgdOpen := by
  show ((begun c s).tb.link < (begun c s).sch.bgdUntil && (begun c s).hl.linkUp) = _
  rw [begun_tb, begun_sch, begun_linkUp]
  rfl

theorem runExport_lost (c : Cmd) (s : State) (a n : Nat) (h : s.dramDead s.recd.ringBase = true) :
    s.runExport { cmd := c, wait := .recExport a n false } =
      (s.onHl fun x => { x with opens := x.opens.erase { cmd := c, wait := .recExport a n false } }).complete c stMemPoison :=
  if_pos (show (!false && s.dramDead s.recd.ringBase) = true by rw [h]; rfl)

theorem runExport_writes (c : Cmd) (s : State) (a n : Nat) (flash : Bool)
    (h : flash = true ∨ s.dramDead s.recd.ringBase = false) : ∃ u : State,
      s.runExport { cmd := c, wait := .recExport a n flash } = u.complete c stOk n ∧
      OnlyCarried ((s.onHl fun x => { x with opens := x.opens.erase { cmd := c, wait := .recExport a n flash } }).write a
        ((s.exportBytes flash).take n)) u ∧
      u.mem = ((s.onHl fun x => { x with opens := x.opens.erase { cmd := c, wait := .recExport a n flash } }).write a
        ((s.exportBytes flash).take n)).mem := by
  obtain ⟨rest, hrest⟩ : ∃ rest, rest = s.onHl fun x =>
      { x with opens := x.opens.erase { cmd := c, wait := .recExport a n flash } } := ⟨_, rfl⟩
  have hdead : ¬((!flash && rest.dramDead rest.recd.ringBase) = true) := by
    subst hrest
    show ¬((!flash && s.dramDead s.recd.ringBase) = true)
    rcases h with h | h <;> simp [h]
  have hbytes : rest.exportBytes flash = s.exportBytes flash := by subst hrest; rfl
  obtain ⟨carried, hcarried⟩ : ∃ x, x = if flash then rest else rest.carryRead .bulk 0 0xFE rest.recd.ringBase
    ((rest.exportBytes flash).take n) := ⟨_, rfl⟩
  have hring : carried.offRing = rest.offRing := by
    subst hcarried
    split
    · rfl
    · exact rest.carryRead_offRing ..
  obtain ⟨hcarry, hmem⟩ := (carried.write a ((s.exportBytes flash).take n)).hostRequest_carries 6 true a
    ((s.exportBytes flash).take n).length
  refine ⟨(carried.write a ((s.exportBytes flash).take n)).hostRequest 6 true a ((s.exportBytes flash).take n).length,
    ?_, ?_, ?_⟩
  · subst hrest hcarried
    exact if_neg hdead
  · subst hrest
    exact onlyCarried_iff.mpr (hcarry.trans (offCarry_of_offRing hring :))
  · subst hrest
    exact hmem.trans (write_mem_congr (mem_of_offRing hring) _ _)

/-! REC.REPLAY and the records it hands in (R537). -/

/-- What REC.REPLAY checks of its block before it looks at the recording. -/
def State.replayGood (s : State) (d : List Byte) : Bool :=
  allZero d 24 8 && s.dmaRange (fieldAt d 8 8) (fieldAt d 16 8)

theorem exec_recReplay_mode (h : Starts 0xD 4 c s) (hmode : s.dev.mode ≠ .replay) :
    exec (.recReplay c) s = .next ((begun c s).complete c stMode) :=
  congrArg Host.Outcome.next ((runCmd_starts h _).trans (if_pos (by rwa [begun_dev])))

section InReplay

variable (h : Starts 0xD 4 c s) (hmode : s.dev.mode = .replay)

include h hmode

theorem exec_recReplay_bad (hbad : (begun c s).replayGood c.data = false) :
    exec (.recReplay c) s = .next ((begun c s).complete c stBadParam) := by
  refine congrArg Host.Outcome.next ((runCmd_starts h _).trans ((if_neg (by rw [begun_dev, hmode]; simp)).trans (if_pos ?_)))
  simpa [State.replayGood, imp_iff_not_or] using hbad

end InReplay

theorem replayGood_passes (hgood : (begun c s).replayGood c.data = true) : ¬((!allZero c.data 24 8 ||
    !(begun c s).dmaRange (fieldAt c.data 8 8) (fieldAt c.data 16 8)) = true) := by
  simpa [State.replayGood] using hgood

section GoodReplay

variable (h : Starts 0xD 4 c s) (hmode : s.dev.mode = .replay) (hgood : (begun c s).replayGood c.data = true)

include h hmode hgood

theorem exec_recReplay_busy (hreplay : s.recd.replay ≠ none) :
    exec (.recReplay c) s = .next ((begun c s).complete c stBusy) := by
  refine congrArg Host.Outcome.next ((runCmd_starts h _).trans ((if_neg (by rw [begun_dev, hmode]; simp)).trans
    ((if_neg (replayGood_passes hgood)).trans (if_pos ?_))))
  rw [begun_recd]
  exact Option.isSome_iff_ne_none.mpr hreplay

variable (hreplay : s.recd.replay = none)

include hreplay

theorem exec_recReplay_unreadable {st : Nat} (hrec : (begun c s).recording (fieldAt c.data 0 8) = .error st) :
    exec (.recReplay c) s = .next ((begun c s).complete c st) := by
  refine congrArg Host.Outcome.next ((runCmd_starts h _).trans ((if_neg (by rw [begun_dev, hmode]; simp)).trans
    ((if_neg (replayGood_passes hgood)).trans ((if_neg (by rw [begun_recd, hreplay]; simp)).trans ?_))))
  rw [hrec]

theorem exec_recReplay_starts {rs : List (List Byte)} {first mile : Nat}
    (hrec : (begun c s).recording (fieldAt c.data 0 8) = .ok (rs, first, mile)) :
    exec (.recReplay c) s = .next ((((begun c s).onRec fun r => { r with replay := some {
      records := rs, firstLink := first, t0 := replayStart s.tb.link s.tb.mile first mile
      capture := fieldAt c.data 8 8, captureEnd := fieldAt c.data 8 8 + fieldAt c.data 16 8 } }).canStopDisallowed).await
        c .replay) := by
  refine congrArg Host.Outcome.next ((runCmd_starts h _).trans ((if_neg (by rw [begun_dev, hmode]; simp)).trans
    ((if_neg (replayGood_passes hgood)).trans ((if_neg (by rw [begun_recd, hreplay]; simp)).trans ?_))))
  rw [hrec]
  dsimp only
  rw [begun_tb]

end GoodReplay

theorem exec_replayEvent_idle (h : s.recd.replay = none) : exec .replayEvent s = .next s := by
  show execReplayEvent s = _
  rw [execReplayEvent, h]

section Replaying

variable {p : Replay} (h : s.recd.replay = some p)

include h

theorem exec_replayEvent_none {rest : List (List Byte)}
    (hrest : p.records.filter (fun r => !p.due s.tb.link r || isInput r) = rest) (hnone : rest.find? (p.due s.tb.link) = none) :
    exec .replayEvent s = .next (s.onRec fun x => { x with replay := some { p with records := rest } }) := by
  show execReplayEvent s = _
  rw [execReplayEvent, h]
  dsimp only
  rw [hrest, hnone]

theorem exec_replayEvent_hands {rest : List (List Byte)} {r : List Byte}
    (hrest : p.records.filter (fun r => !p.due s.tb.link r || isInput r) = rest)
    (hfound : rest.find? (p.due s.tb.link) = some r) : exec .replayEvent s =
      .next ((s.onRec fun x => { x with replay := some { p with records := rest.erase r } }).replayRecord p r) := by
  show execReplayEvent s = _
  rw [execReplayEvent, h]
  dsimp only
  rw [hrest, hfound]

theorem onRec_replay_same : (s.onRec fun x => { x with replay := some p }) = s := by
  have hrec : { s.recd with replay := some p } = s.recd := by rw [← h]
  exact congrArg (fun r => { s with recd := r }) hrec

/-- With no record due, an event of the replay changes nothing. -/
theorem exec_replayEvent_early (hdue : ∀ r ∈ p.records, p.due s.tb.link r = false) : exec .replayEvent s = .next s := by
  have hrest : p.records.filter (fun r => !p.due s.tb.link r || isInput r) = p.records :=
    List.filter_eq_self.mpr fun r hr => by simp [hdue r hr]
  rw [exec_replayEvent_none h hrest (List.find?_eq_none.mpr fun r hr => by simp [hdue r hr]), onRec_replay_same h]

/-- An input record that is due at the front is handed in. -/
theorem exec_replayEvent_front {r : List Byte} {rest : List (List Byte)} (hrecords : p.records = r :: rest)
    (hdue : p.due s.tb.link r = true) (hinput : isInput r = true) (hlater : ∀ x ∈ rest, p.due s.tb.link x = false) :
    exec .replayEvent s = .next ((s.onRec fun x => { x with replay := some { p with records := rest } }).replayRecord p r) := by
  have hrest : p.records.filter (fun r => !p.due s.tb.link r || isInput r) = r :: rest := by
    rw [hrecords]
    refine List.filter_eq_self.mpr fun x hx => ?_
    rcases List.mem_cons.mp hx with rfl | hx
    · simp [hinput]
    · simp [hlater x hx]
  rw [exec_replayEvent_hands h hrest (List.find?_cons_of_pos hdue), List.erase_cons_head]

end Replaying
end Recorder

/-! The test commands (R503, R505, R538, R539). -/

section Test

variable {c : Cmd} {s : State}

/-- P0 works: the solver runs or a job of partition 0 is not ended. -/
theorem p0_works_iff : (∃ j ∈ s.sch.jobs, j.partition = 0 ∧ j.state ≠ .ended) ↔
    (s.sch.jobs.any fun j => j.partition = 0 && j.state ≠ .ended) = true := by
  simp [List.any_eq_true]

theorem exec_testInject_mode (h : Starts 0xE 1 c s)
    (hmode : s.dev.mode ≠ .test ∨ s.sol.state = .running ∨ ∃ j ∈ s.sch.jobs, j.partition = 0 ∧ j.state ≠ .ended) :
    exec (.testInject c) s = .next ((begun c s).complete c stMode) := by
  refine congrArg Host.Outcome.next ((runCmd_starts h _).trans (if_pos ?_))
  rw [begun_dev, begun_sol, begun_sch]
  rw [p0_works_iff] at hmode
  simpa [or_assoc] using hmode

section Idle

variable (h : Starts 0xE 1 c s) (hmode : s.dev.mode = .test) (hsol : s.sol.state ≠ .running)
  (hjobs : ∀ j ∈ s.sch.jobs, j.partition ≠ 0 ∨ j.state = .ended)

include h hmode hsol hjobs

theorem exec_testInject_idle : exec (.testInject c) s = .next (
    if s.injectLimit c.data then (begun c s).complete c stLimit
    else if injectReserved c.data then (begun c s).complete c stBadParam
    else ((begun c s).onFi (fieldAt c.data 0 1) fun j => j.program c.data).complete c stOk) := by
  rw [← of_begun (·.injectLimit c.data) (fun _ _ => rfl) c s]
  refine congrArg Host.Outcome.next ((runCmd_starts h _).trans (if_neg ?_))
  rw [begun_dev, begun_sol, begun_sch]
  simpa [hmode, hsol, imp_iff_not_or] using hjobs

theorem exec_testInject_limit (hlimit : s.injectLimit c.data = true) :
    exec (.testInject c) s = .next ((begun c s).complete c stLimit) :=
  (exec_testInject_idle h hmode hsol hjobs).trans (congrArg _ (if_pos hlimit))

variable (hlimit : s.injectLimit c.data = false)

include hlimit

theorem exec_testInject_reserved (hreserved : injectReserved c.data = true) :
    exec (.testInject c) s = .next ((begun c s).complete c stBadParam) :=
  (exec_testInject_idle h hmode hsol hjobs).trans (congrArg _ ((if_neg (by simp [hlimit])).trans (if_pos hreserved)))

theorem exec_testInject_programs (hreserved : injectReserved c.data = false) : exec (.testInject c) s =
    .next (((begun c s).onFi (fieldAt c.data 0 1) fun j => j.program c.data).complete c stOk) :=
  (exec_testInject_idle h hmode hsol hjobs).trans
    (congrArg _ ((if_neg (by simp [hlimit])).trans (if_neg (by simp [hreserved]))))

end Idle

theorem exec_testSelftest_mode (h : Starts 0xE 2 c s) (hmode : s.dev.mode ≠ .test) (r : SelftestReport) :
    exec (.testSelftest c r) s = .next ((begun c s).complete c stMode) :=
  congrArg Host.Outcome.next ((runCmd_starts h _).trans (if_pos (by rwa [begun_dev])))

theorem exec_testSelftest_reports (h : Starts 0xE 2 c s) (hmode : s.dev.mode = .test) (r : SelftestReport) :
    exec (.testSelftest c r) s = .next (((begun c s).applyFindings (findingsOf (c.word 0) r)).complete c stOk
      (packWord [(0, min 255 (findingsOf (c.word 0) r).cores.dedup.length),
        (8, min 255 (findingsOf (c.word 0) r).banks.dedup.length),
        (16, min 15 (findingsOf (c.word 0) r).clusters.dedup.length),
        (20, min 7 (findingsOf (c.word 0) r).pipes.dedup.length)]) ((findingsOf (c.word 0) r).durationMs % 2 ^ 32)) :=
  congrArg Host.Outcome.next ((runCmd_starts h _).trans (if_neg (by rw [begun_dev, hmode]; simp)))

theorem exec_testLoopback_mode (h : Starts 0xE 3 c s) (hmode : s.dev.mode ≠ .test) (e : Nat) :
    exec (.testLoopback c e) s = .next ((begun c s).complete c stMode) :=
  congrArg Host.Outcome.next ((runCmd_starts h _).trans (if_pos (by rwa [begun_dev])))

section InTest

variable (h : Starts 0xE 3 c s) (hmode : s.dev.mode = .test) (e : Nat)

include h hmode

theorem exec_testLoopback_limit (htarget : loopTarget (c.word 0 % 16) (bitsOf (c.word 0) 15 8) = false) :
    exec (.testLoopback c e) s = .next ((begun c s).complete c stLimit) :=
  congrArg Host.Outcome.next ((runCmd_starts h _).trans
    ((if_neg (by rw [begun_dev, hmode]; simp)).trans (if_pos (by simp [htarget]))))

theorem exec_testLoopback_answers (htarget : loopTarget (c.word 0 % 16) (bitsOf (c.word 0) 15 8) = true) :
    exec (.testLoopback c e) s = .next ((begun c s).complete c stOk 1024 (min e 1024)) :=
  congrArg Host.Outcome.next ((runCmd_starts h _).trans
    ((if_neg (by rw [begun_dev, hmode]; simp)).trans (if_neg (by simp [htarget]))))

end InTest
end Test

/-- REC.REPLAY of a good recording: the replay stands in the recorder, and the command waits. -/
theorem recReplay_starts {c : Cmd} {s : State} (p : Replay) :
    ((((begun c s).onRec fun r => { r with replay := some p }).canStopDisallowed).await c .replay).recd.replay = some p ∧
      { cmd := c, wait := .replay } ∈
        ((((begun c s).onRec fun r => { r with replay := some p }).canStopDisallowed).await c .replay).hl.opens := by
  obtain ⟨-, -, -, -, -, -, -, -, -, -, -, -, -, -, -, -, -, hrec⟩ :=
    (KeepsBlocks.refl ((begun c s).onRec fun r => { r with replay := some p })).canStopDisallowed
  exact ⟨congrArg Rec.replay hrec, List.mem_append_right _ (List.mem_singleton.mpr rfl)⟩

/-- Settles O59: the recorder's commands and the test commands, case by case. -/
theorem recorderAndTestCommandsAnswer : Obligations.RecorderAndTestCommandsAnswer := by
  unfold Obligations.RecorderAndTestCommandsAnswer
  refine ⟨?_, ?_, ?_, ?_, ?_, ?_, ?_, ?_, ?_, fun s h => exec_replayEvent_idle h, ?_, ?_, ?_, ?_, ?_, ?_, ?_, ?_⟩
  · intro c s base h hmode hor hlimit hreserved hplace
    exact ⟨_, exec_recConfig_starts h ⟨hmode, hor⟩ hlimit hreserved hplace, rfl, rfl, rfl, rfl, rfl, rfl, rfl, rfl, rfl,
      (startRing_mem ..).trans (begun_mem c s)⟩
  · exact fun c s h => ⟨exec_recConfig_shut h, exec_recConfig_limit h, exec_recConfig_reserved h, exec_recConfig_full h⟩
  · intro c s h
    refine ⟨exec_recFreeze_stopped h, fun hstate => ?_, fun hstate => ?_, exec_recFreeze_frozen h⟩
    · obtain ⟨hpost, hfreeze, hsafety⟩ := recTrigger_recording ((congrArg Rec.state (begun_recd c s)).trans hstate) false
      rw [begun_tb, begun_recd] at hfreeze
      exact ⟨_, exec_recFreeze_waits h (.inl hstate), hpost, hfreeze, hsafety, recFreeze_opens c s, recFreeze_mem c s⟩
    · obtain ⟨hpost, hfreeze⟩ := recTrigger_post ((congrArg Rec.state (begun_recd c s)).trans hstate) false
      rw [begun_recd] at hfreeze
      exact ⟨_, exec_recFreeze_waits h (.inr hstate), hpost, hfreeze, recFreeze_opens c s, recFreeze_mem c s⟩
  · exact fun s h => exec_recorderFreeze_idle (h.imp_right fun hnone => by simp [hnone])
  · exact fun s l hstate hat => ⟨fun hl => exec_recorderFreeze_idle (.inr (by simpa [hat] using hl)),
      exec_recorderFreeze_freezes hstate hat⟩
  · intro c s h
    refine ⟨exec_recExport_busy h, exec_recExport_limit h, exec_recExport_outside h, fun hready hroom hhost hshut => ?_,
      fun hready hroom hhost _ => exec_recExport_waits h hready hroom hhost⟩
    rw [exec_recExport_waits h hready hroom hhost, runExports_shut ((await_bgdOpen ..).trans hshut)]
  · exact fun s a n c flash => ⟨fun hflash => by subst hflash; exact runExport_lost c s a n, runExport_writes c s a n flash⟩
  · intro c s rs first mile h hmode hzero hrange hreplay hrec
    obtain ⟨hstands, hwaits⟩ := recReplay_starts (c := c) (s := s) _
    exact ⟨_, _, exec_recReplay_starts h hmode (by simp [State.replayGood, hzero, hrange]) hreplay hrec, hstands,
      rfl, rfl, rfl, rfl, rfl, hwaits⟩
  · exact fun c s h => ⟨exec_recReplay_mode h, exec_recReplay_bad h, exec_recReplay_busy h,
      fun hmode hgood hreplay st => exec_recReplay_unreadable h hmode hgood hreplay⟩
  · exact fun s p h => ⟨exec_replayEvent_none h rfl, fun r => exec_replayEvent_hands h rfl⟩
  · exact fun s p => exec_replayEvent_early
  · exact fun s p r rest h => exec_replayEvent_front h
  · exact fun c s => exec_testInject_mode
  · exact fun c s h hmode hsol hjobs => ⟨exec_testInject_limit h hmode hsol hjobs,
      exec_testInject_reserved h hmode hsol hjobs, exec_testInject_programs h hmode hsol hjobs⟩
  · exact fun c s r h => ⟨fun hmode => exec_testSelftest_mode h hmode r, fun hmode => exec_testSelftest_reports h hmode r⟩
  · exact fun c s e h hmode => exec_testLoopback_answers h hmode e
  · exact fun c s e h => ⟨fun hmode => exec_testLoopback_mode h hmode e, fun hmode => exec_testLoopback_limit h hmode e⟩

end Sys2Proof.Machine
end

section
/-! Queries, and the host link going down and coming up (R433, R435, R437, R442, R552, R570). O60. -/

namespace Sys2Proof.Machine

open Sys2Proof.Safety

/-! What ending a job and freeing a sequence leave of the host link, the device block and the repair block. -/

/-- The host link, the device block and the repair block. -/
def State.shell (s : State) : HostLink × Dev × Spr := (s.hl, s.dev, s.spr)

@[simp] theorem State.setEntry_shell (s : State) (index : Nat) (e : FtEntry) : (s.setEntry index e).shell = s.shell := rfl

@[simp] theorem State.returnFrame_shell (s : State) (index : Nat) : (s.returnFrame index).shell = s.shell := by
  unfold State.returnFrame
  dsimp only
  split <;> rfl

@[simp] theorem State.maybeReturn_shell (s : State) (index : Nat) : (s.maybeReturn index).shell = s.shell := by
  unfold State.maybeReturn
  dsimp only
  split
  · exact s.returnFrame_shell index
  · rfl

@[simp] theorem State.ftRelease_shell (s : State) (index : Nat) : (s.ftRelease index).shell = s.shell := by
  unfold State.ftRelease
  dsimp only
  split
  · rfl
  · simp

@[simp] theorem State.ftRefSub_shell (s : State) (index : Nat) : (s.ftRefSub index).shell = s.shell := by
  unfold State.ftRefSub
  dsimp only
  split
  · rfl
  · simp

@[simp] theorem State.unpin_shell (s : State) (index : Nat) : (s.unpin index).shell = s.shell := by
  unfold State.unpin
  dsimp only
  split
  · simp
  · rfl

@[simp] theorem State.onCore_shell (s : State) (g : Nat) (f : Core → Core) : (s.onCore g f).shell = s.shell := by
  unfold State.onCore
  split <;> rfl

@[simp] theorem State.write_shell (s : State) (a : Nat) (bs : List Byte) : (s.write a bs).shell = s.shell := rfl
@[simp] theorem State.writeNat_shell (s : State) (a n v : Nat) : (s.writeNat a n v).shell = s.shell := rfl
@[simp] theorem State.bump_shell (s : State) : s.bump.shell = s.shell := rfl
@[simp] theorem State.onAsz_shell (s : State) (f : Asz → Asz) : (s.onAsz f).shell = s.shell := rfl
@[simp] theorem State.onWd_shell (s : State) (w : Nat) (f : Watchdog → Watchdog) : (s.onWd w f).shell = s.shell := rfl
@[simp] theorem State.sched_shell (s : State) (code : Nat) (part arg0 : Option Nat) :
    (s.sched code part arg0).shell = s.shell := rfl

@[simp] theorem State.clearSpad_shell (s : State) (g : Nat) : (s.clearSpad g).shell = s.shell := rfl

@[simp] theorem State.republish_shell (s : State) (g : Nat) : (s.republish g).shell = s.shell := by
  unfold State.republish
  refine foldl_keeps State.shell (fun u st => ?_) _ s
  simp [State.putBoard]

@[simp] theorem State.capture_shell (s : State) (r : List Byte) : (s.capture r).shell = s.shell := by
  unfold State.capture
  split
  · rfl
  · split <;> rfl

@[simp] theorem State.recTrigger_shell (s : State) (safety : Bool) : (s.recTrigger safety).shell = s.shell := by
  unfold State.recTrigger
  split <;> rfl

@[simp] theorem State.recTrigger_asz (s : State) (safety : Bool) : (s.recTrigger safety).asz = s.asz := by
  unfold State.recTrigger
  split <;> rfl

@[simp] theorem State.decideSafe_shell (s : State) (c : Nat) : (s.decideSafe c).shell = s.shell := by
  simp [State.decideSafe, apply_ite State.shell]

/-- A watchdog whose fault decides the safe state raises no event. -/
theorem State.wdFaulty_shell (s : State) {w : Nat} (h : bitAt (fieldAt s.asz.params 32 8) w = true) :
    (s.wdFaulty w).shell = s.shell := by
  unfold State.wdFaulty
  split
  · rfl
  · extract_lets s1 s2 s3
    have hs3 : s3.shell = s.shell ∧ s3.asz.params = s.asz.params := by
      unfold s3
      split
      · exact ⟨State.recTrigger_shell .., (congrArg Asz.params (State.recTrigger_asz s2 true) :)⟩
      · exact ⟨rfl, rfl⟩
    rw [if_pos (by simp [hs3.2, h]), State.decideSafe_shell, hs3.1]

/-- A watchdog that is stopped while it counts fails safe. -/
@[simp] theorem State.wdStop_shell (s : State) (w : Nat) : (s.wdStop w).shell = s.shell := by
  unfold State.wdStop
  extract_lets armed s1
  split
  · next hfails =>
    simp only [Bool.and_eq_true] at hfails
    exact State.wdFaulty_shell s1 hfails.2
  · rfl

@[simp] theorem State.beginSelftests_shell (s : State) : s.beginSelftests.shell = s.shell := by
  refine foldl_keeps State.shell (fun u g => ?_) _ s
  split <;> simp

@[simp] theorem State.removeSeq_shell (s : State) (id : Nat) : (s.removeSeq id).shell = s.shell := by
  unfold State.removeSeq
  split
  · rfl
  · exact foldl_keeps State.shell (fun u i => u.ftRefSub_shell i) _ s

@[simp] theorem State.freeSeqs_shell (s : State) (k : Nat) : (s.freeSeqs k).shell = s.shell := by
  refine foldl_keeps State.shell (fun u q => ?_) _ s
  split
  · rfl
  · split
    · rfl
    · simp

/-! A link that is down stays so, and contexts only close. -/

/-- The parts of the host link that its going down sets. -/
def HostLink.plug (h : HostLink) : Bool × Nat × Nat × List Nat := (h.linkUp, h.bar2Base, h.ctx0Cfg, h.msix)

/-- The link is down and no retirement is due. -/
def State.quiet (s : State) : Prop := s.spr.lasting = [] ∧ s.hl.linkUp = false

/-- From `r` to `s` the plug stays, no context opens and none that closes stops to, and from a quiet state the device
block and the pending bits stay. -/
structure Shuts (r s : State) : Prop where
  plug : s.hl.plug = r.hl.plug
  ctxs : ∀ k, (s.ctx k).isOpen = true → (r.ctx k).isOpen = true ∧ ((r.ctx k).closing = true → (s.ctx k).closing = true)
  quiet : r.quiet → s.quiet ∧ s.dev = r.dev ∧ s.hl.pba = r.hl.pba

namespace Shuts

theorem refl (s : State) : Shuts s s := ⟨rfl, fun _ h => ⟨h, id⟩, fun h => ⟨h, rfl, rfl⟩⟩

theorem trans {q r s : State} (h : Shuts q r) (h' : Shuts r s) : Shuts q s where
  plug := h'.plug.trans h.plug
  ctxs k hk :=
    have ⟨hr, hrs⟩ := h'.ctxs k hk
    have ⟨hq, hqr⟩ := h.ctxs k hr
    ⟨hq, hrs ∘ hqr⟩
  quiet hq :=
    have ⟨hr, hdev, hpba⟩ := h.quiet hq
    have ⟨hs, hdev', hpba'⟩ := h'.quiet hr
    ⟨hs, hdev'.trans hdev, hpba'.trans hpba⟩

theorem foldl {α : Type} {f : State → α → State} (hf : ∀ u i, Shuts u (f u i)) (l : List α) :
    ∀ s, Shuts s (l.foldl f s) := by
  induction l with
  | nil => exact refl
  | cons i l ih => exact fun s => (hf s i).trans (ih _)

theorem ite {p : Prop} [Decidable p] {s t u : State} (ht : Shuts s t) (hu : Shuts s u) : Shuts s (if p then t else u) := by
  split <;> assumption

theorem of_shell {s t : State} (h : t.shell = s.shell) : Shuts s t := by
  obtain ⟨hhl, hdev, hspr⟩ : t.hl = s.hl ∧ t.dev = s.dev ∧ t.spr = s.spr := by simpa [State.shell] using h
  have hctx (k : Nat) : t.ctx k = s.ctx k := by rw [State.ctx, State.ctx, hhl]
  exact ⟨by rw [hhl], fun k hk => by rw [hctx] at hk ⊢; exact ⟨hk, id⟩,
    fun hs => ⟨by rwa [State.quiet, hspr, hhl], hdev, by rw [hhl]⟩⟩

/-- Where a retirement is due, only the plug and the contexts count. -/
theorem of_lasting {s t : State} (hlasting : s.spr.lasting ≠ []) (h : t.hl.offEvents = s.hl.offEvents) : Shuts s t := by
  have hctx (k : Nat) : t.ctx k = s.ctx k :=
    show (if k = 256 then t.hl.offEvents.canCtx else t.hl.offEvents.ctxs.getD k {}) =
      (if k = 256 then s.hl.offEvents.canCtx else s.hl.offEvents.ctxs.getD k {}) by rw [h]
  exact ⟨show t.hl.offEvents.plug = s.hl.offEvents.plug by rw [h],
    fun k hk => by rw [hctx] at hk ⊢; exact ⟨hk, id⟩, fun hq => absurd hq.1 hlasting⟩

theorem onCtx {s : State} {k : Nat} {f : Ctx → Ctx} (hopen : ∀ x, (f x).isOpen = true → x.isOpen = true)
    (hclosing : ∀ x, (f x).isOpen = true → x.closing = true → (f x).closing = true) : Shuts s (s.onCtx k f) where
  plug := by
    unfold State.onCtx
    split <;> rfl
  ctxs i hi := by
    by_cases hik : i = k
    · subst hik
      by_cases hin : i = 256 ∨ i < s.hl.ctxs.length
      · rw [ctx_onCtx_same hin] at hi ⊢
        exact ⟨hopen _ hi, hclosing _ hi⟩
      · obtain ⟨hcan, hlen⟩ := not_or.mp hin
        simp_all [State.onCtx, State.ctx]
    · rw [ctx_onCtx_ne s hik] at hi ⊢
      exact ⟨hi, id⟩
  quiet hq := by
    unfold State.onCtx
    split <;> exact ⟨hq, rfl, rfl⟩

theorem onHl {s : State} {f : HostLink → HostLink} (h : ∀ x, (f x).plug = x.plug ∧ (f x).ctxs = x.ctxs ∧
    (f x).canCtx = x.canCtx ∧ (f x).pba = x.pba) : Shuts s (s.onHl f) := by
  obtain ⟨hplug, hctxs, hcan, hpba⟩ := h s.hl
  have hctx (k : Nat) : (s.onHl f).ctx k = s.ctx k := by simp [State.ctx, hctxs, hcan]
  have hup : (f s.hl).linkUp = s.hl.linkUp := congrArg Prod.fst hplug
  exact ⟨hplug, fun k hk => by rw [hctx] at hk ⊢; exact ⟨hk, id⟩,
    fun ⟨hlasting, hdown⟩ => ⟨⟨hlasting, hup.trans hdown⟩, rfl, hpba⟩⟩

end Shuts

/-- A reading of the host link that sees neither its contexts, nor its requests, nor its messages. -/
theorem uncompleted_hl {β : Type} {view : HostLink → β} (hctxs : ∀ h l, view { h with ctxs := l } = view h)
    (hcan : ∀ h x, view { h with canCtx := x } = view h) (hreqs : ∀ h : HostLink, view h.offReqs = view h)
    (hevents : ∀ h : HostLink, view h.offEvents = view h) : Uncompleted fun s => view s.hl where
  ctx s k f := by
    unfold State.onCtx
    split
    · exact hcan _ _
    · exact hctxs _ _
  request s engine write a n := by
    rw [← hreqs, ← hreqs s.hl]
    exact congrArg (fun t : State => view t.hl) (s.hostRequest_carries engine write a n).1
  vector s v := by
    rw [← hevents, ← hevents s.hl, State.sendVector_offEvents]
  write _ _ _ := rfl
  slot _ _ _ _ := rfl
  held _ _ _ := rfl
  reply _ _ _ := rfl
  bump _ := rfl

theorem uncompleted_plug : Uncompleted fun s => s.hl.plug :=
  uncompleted_hl (fun _ _ => rfl) (fun _ _ => rfl) (fun _ => rfl) fun _ => rfl

/-- With the link down a completion sets no pending bit: it waits. -/
theorem pba_produce_down {s : State} (hdown : s.hl.linkUp = false) (ring : Nat) (c : Completion) :
    (s.produce ring c).hl.pba = s.hl.pba := by
  have hctx (u : State) (k : Nat) (f : Ctx → Ctx) : (u.onCtx k f).hl.pba = u.hl.pba := by
    unfold State.onCtx
    split <;> rfl
  unfold State.produce
  split
  · exact hctx _ _ _
  · dsimp only
    split
    · exact hctx _ _ _
    · split
      · exact hctx _ _ _
      · rw [flushRing_down (by simpa using hdown), hctx]

theorem produce_shuts (s : State) (ring : Nat) (c : Completion) : Shuts s (s.produce ring c) where
  plug := uncompleted_plug.produce s ring c
  ctxs k hk := by
    rw [isOpen_of_standing (standing_produce s ring c k)] at hk
    rw [closing_of_standing (standing_produce s ring c k)]
    exact ⟨hk, id⟩
  quiet := fun ⟨hlasting, hdown⟩ => by
    obtain ⟨-, -, -, -, hdev, -, -, -, -, -, -, -, -, -, -, hspr, -, -⟩ := (KeepsBlocks.refl s).produce ring c
    exact ⟨⟨by rw [hspr, hlasting], (linkUp_produce s ring c).trans hdown⟩, hdev, pba_produce_down hdown ring c⟩

theorem finish_shuts (s : State) (p : Wait → Bool) (status res0 res1 res2 : Nat) :
    Shuts s (s.finish p status res0 res1 res2) :=
  (Shuts.onHl (f := fun h => { h with opens := h.opens.filter fun o => !p o.wait })
    fun _ => ⟨rfl, rfl, rfl, rfl⟩).trans (.foldl (fun u _ => produce_shuts u _ _) _ _)

theorem dropAlloc_shuts (s : State) (base : Nat) : Shuts s (s.dropAlloc base) :=
  .onHl (f := fun h => { h with allocs := h.allocs.filter fun a => a.base ≠ base }) fun _ => ⟨rfl, rfl, rfl, rfl⟩

/-! Cores that are retired, and jobs that end. -/

theorem lasting_of_coreDue {s : State} {g : Nat} (h : s.coreDue g = true) : s.spr.lasting ≠ [] := by
  unfold State.coreDue at h
  split at h
  · rintro hnone
    simp [State.isLasting, hnone] at h
  · contradiction

@[simp] theorem makeLasting_hl (s : State) (r : WearEntry) : (s.makeLasting r).hl = s.hl := by
  unfold State.makeLasting
  split <;> rfl

@[simp] theorem remap_shell (s : State) (g : Nat) (q : Option Nat) : (s.remap g q).shell = s.shell := by
  unfold State.remap
  split
  · rfl
  · dsimp only
    split <;> rfl

theorem retireCore_offEvents (s : State) (d u : Nat) (absent : Bool) :
    (s.retireCore d u absent).hl.offEvents = s.hl.offEvents := by
  unfold State.retireCore
  split
  · rfl
  · dsimp only
    split
    · rw [State.setDegraded_hl, State.retire_offEvents]
      rfl
    · exact State.retire_offEvents ..

theorem takeBank_offEvents (s : State) (d u b : Nat) : (s.takeBank d u b).hl.offEvents = s.hl.offEvents := by
  unfold State.takeBank
  dsimp only
  split
  · rw [makeLasting_hl]
  · exact State.retire_offEvents ..

theorem moveIdle_shuts (s : State) (g : Nat) : Shuts s (s.moveIdle g) := by
  unfold State.moveIdle
  split
  · exact .refl s
  · dsimp only
    split
    · exact .refl s
    · next hmoves =>
      have hdue : s.coreDue g = true := by
        by_contra hno
        simp [hno] at hmoves
      refine .of_lasting (lasting_of_coreDue hdue) ((retireCore_offEvents ..).trans ?_)
      exact congrArg (fun x : HostLink × Dev × Spr => x.1.offEvents)
        (foldl_keeps State.shell (fun u m => (State.clearSpad_shell _ _).trans (remap_shell u _ _)) _ s)

theorem endJob_shuts (s : State) (k : JobKey) (status : Nat) : Shuts s (s.endJob k status) := by
  unfold State.endJob
  split
  · exact .refl s
  · next j _ =>
    extract_lets s1 s2 s3 s4 s5 s6 s7 s8 s9 s10
    have h1 : Shuts s s1 := .foldl (fun u i => .of_shell (u.unpin_shell i)) _ s
    have h2 : Shuts s1 s2 := .ite (.of_shell rfl) (.refl _)
    have h3 : Shuts s2 s3 := .foldl (fun u a => .ite (.refl u) (dropAlloc_shuts u a)) _ _
    have h4 : Shuts s3 s4 := .of_shell rfl
    have h5 : Shuts s4 s5 := .onCtx (by intro _; exact id) (by intro _ _; exact id)
    have h6 : Shuts s5 s6 := produce_shuts ..
    have h7 : Shuts s6 s7 := .of_shell rfl
    have h8 : Shuts s7 s8 := .ite (.of_shell (State.wdStop_shell ..)) (.refl _)
    have h : Shuts s s8 := (((h1.trans h2).trans h3).trans (h4.trans h5)).trans (h6.trans (h7.trans h8))
    split
    · have h9 : Shuts s8 s9 := .of_shell (State.wdStop_shell ..)
      have h10 : Shuts s9 s10 := .ite (.of_shell (State.decideSafe_shell ..)) (.refl _)
      exact (h.trans (h9.trans h10)).trans (.foldl moveIdle_shuts _ _)
    · exact h

theorem retireIdle_shuts (s : State) (g : Nat) : Shuts s (s.retireIdle g) := by
  unfold State.retireIdle
  dsimp only
  split
  · exact .refl s
  · split
    · exact moveIdle_shuts s g
    · have hsafe : Shuts s (s.decideSafe 12) := .of_shell (State.decideSafe_shell ..)
      split
      · exact hsafe.trans (moveIdle_shuts _ g)
      · exact hsafe.trans (.ite (endJob_shuts ..) (.refl _))

theorem serviceIdle_shuts (s : State) (g : Nat) : Shuts s (s.serviceIdle g) := by
  unfold State.serviceIdle
  split
  · exact .refl s
  · next u _ =>
    dsimp only
    refine .trans ?_ (retireIdle_shuts _ g)
    split
    · next hnone =>
      rw [hnone]
      exact .refl s
    · next hbanks =>
      have hlasting : s.spr.lasting ≠ [] := fun hnone => hbanks (by simp [State.lastingBanks, hnone])
      exact .of_lasting hlasting
        (foldl_keeps (fun x : State => x.hl.offEvents) (fun x b => takeBank_offEvents x _ _ b) _ s)

theorem freeCore_shuts (s : State) (g : Nat) : Shuts s (s.freeCore g) := by
  unfold State.freeCore
  dsimp only
  refine (Shuts.of_shell ?_).trans ((serviceIdle_shuts _ g).trans (.of_shell (State.beginSelftests_shell _)))
  rw [State.onCore_shell, State.republish_shell]
  exact foldl_keeps State.shell (fun u i => u.ftRelease_shell i) _ s

theorem leaveCore_shuts (s : State) (k : JobKey) (g : Nat) : Shuts s (s.leaveCore k g) := by
  unfold State.leaveCore
  extract_lets s1
  have h1 : Shuts s s1 := .of_shell rfl
  refine h1.trans ?_
  split
  · exact .refl _
  · exact .ite (endJob_shuts ..) (.refl _)

theorem endPart_shuts (s : State) (k : JobKey) (g : Nat) : Shuts s (s.endPart k g) := by
  refine .ite (leaveCore_shuts s k g) ?_
  unfold State.endOnCore
  split
  · exact .refl s
  · exact (freeCore_shuts s g).trans (leaveCore_shuts ..)

theorem requestEnd_shuts (s : State) (k : JobKey) (status : Nat) : Shuts s (s.requestEnd k status) := by
  unfold State.requestEnd
  split
  · exact .refl s
  · extract_lets s1
    have h1 : Shuts s s1 := .of_shell rfl
    refine h1.trans ?_
    split
    · exact endJob_shuts ..
    · refine .foldl (fun u g => ?_) _ _
      exact .ite (.of_shell (State.onCore_shell ..)) (endPart_shuts u k g)

theorem startClose_shuts (s : State) (k : Nat) : Shuts s (s.startClose k) := by
  unfold State.startClose
  extract_lets s1
  have h1 : Shuts s s1 := .onCtx (by intro _; exact id) (by intro _ _ _; rfl)
  exact h1.trans (.foldl (fun u j => requestEnd_shuts u _ _) _ _)

theorem settleClose_shuts (s : State) (k : Nat) : Shuts s (s.settleClose k) := by
  unfold State.settleClose
  dsimp only
  refine .ite (.refl s) ?_
  have hseqs : Shuts s (s.freeSeqs k) := .of_shell (State.freeSeqs_shell s k)
  refine hseqs.trans (.ite (.refl _) ?_)
  generalize s.freeSeqs k = u
  refine .trans (.trans ?_ (.onCtx (by intro _ h; contradiction) (by intro _ h; contradiction))) (finish_shuts ..)
  exact .onHl (by intro _; exact ⟨rfl, rfl, rfl, rfl⟩)

/-! The host link going down (R437, R552, R570). -/

/-- A context that stands closes. -/
def State.closes (s : State) (k : Nat) : Prop := (s.ctx k).isOpen = true → (s.ctx k).closing = true

theorem Shuts.closes {r s : State} {k : Nat} (h : Shuts r s) (hr : r.closes k) : s.closes k := fun hopen =>
  have ⟨hropen, hclosing⟩ := h.ctxs k hopen
  hclosing (hr hropen)

theorem startClose_closes (s : State) (k : Nat) : (s.startClose k).closes k := by
  unfold State.startClose
  extract_lets s1
  have hclosing : s1.closes k := fun hopen => by
    by_cases hin : k = 256 ∨ k < s.hl.ctxs.length
    · rw [ctx_onCtx_same hin]
    · obtain ⟨hcan, hlen⟩ := not_or.mp hin
      simp [s1, State.onCtx, State.ctx, hcan, Nat.le_of_not_lt hlen] at hopen
  exact Shuts.closes (.foldl (fun u j => requestEnd_shuts u _ _) _ _) hclosing

theorem startCloses_closes (l : List Nat) (s : State) {k : Nat} (hk : k ∈ l) : (l.foldl State.startClose s).closes k :=
  foldl_establishes (Q := fun _ => True) (P := fun k u => u.closes k) (fun _ _ h => h) (fun u _ _ => startClose_closes u _)
    (fun u _ j _ h => (startClose_shuts u j).closes h) l s trivial k (.inl hk)

/-- The link down, context 0 disabled: the state whose contexts are then closed. -/
def State.unplugged (s : State) (how : LinkDownKind) : State :=
  ((s.onHl fun h => { h with
    linkUp := false
    linkDowns := if s.hl.linkUp && how ≠ .hotReset then satInc 65535 h.linkDowns else h.linkDowns
    msix := (List.replicate 64 [0, 0, 0, 1]).flatten, pba := 0, bar2Base := 0 }).onTb fun t => { t with
      ptmPath := false, ptmActive := false, ptmBusy := false }).disableCtx0

/-- The contexts that close with the link. -/
def State.hostContexts (s : State) : List Nat :=
  (List.range 256).filter fun k => 1 ≤ k && (s.ctx k).isOpen && !(s.ctx k).closing

theorem exec_hostLinkDown {s : State} (how : LinkDownKind) (h : s.dev.inReset = false) : exec (.hostLinkDown how) s =
    .next ((s.unplugged how).hostContexts.foldl State.startClose (s.unplugged how)).settleCloses :=
  congrArg Host.Outcome.next (if_neg (by simp [h]))

theorem unplugged_shuts (s : State) :
    Shuts s (s.hostContexts.foldl State.startClose s).settleCloses :=
  (Shuts.foldl startClose_shuts _ s).trans (.foldl settleClose_shuts _ _)

theorem unplugged_closes (s : State) {k : Nat} (hk : k < 256) (hpos : k ≠ 0) :
    (s.hostContexts.foldl State.startClose s).settleCloses.closes k := by
  by_cases hin : k ∈ s.hostContexts
  · exact Shuts.closes (.foldl settleClose_shuts _ _) (startCloses_closes _ s hin)
  · refine (unplugged_shuts s).closes fun hopen => ?_
    by_contra hclosing
    exact hin (List.mem_filter.mpr ⟨List.mem_range.mpr hk, by simp [hopen, hclosing]; omega⟩)

theorem unplugged_tb (s : State) : (s.hostContexts.foldl State.startClose s).settleCloses.tb = s.tb := by
  refine tb_of_grid ((State.settleCloses_grid _).trans (foldl_keeps State.grid (fun u k => ?_) _ s))
  unfold State.startClose
  exact (foldl_keeps State.grid (fun v j => State.requestEnd_grid v _ _) _ _).trans (State.onCtx_grid ..)

theorem plug_unplugged (s : State) (how : LinkDownKind) : (s.unplugged how).hl.plug =
    (false, 0, s.hl.ctx0Cfg % 2 ^ 31, (List.replicate 64 [0, 0, 0, 1]).flatten) := uncompleted_plug.ctx ..

theorem ctx0_unplugged (s : State) (how : LinkDownKind) : ((s.unplugged how).ctx 0).isOpen = false := by
  rw [State.unplugged, State.disableCtx0]
  generalize (State.onHl _ _) = u
  by_cases hin : 0 < u.hl.ctxs.length
  · rw [ctx_onCtx_same (.inr hin)]
  · simp [State.onCtx, State.ctx, Nat.le_of_not_lt hin]

theorem pba_disableCtx0 (s : State) : s.disableCtx0.hl.pba = s.hl.pba := by
  unfold State.disableCtx0 State.onCtx
  split <;> rfl

/-- Of a table of masked vectors, and beyond it, every vector is masked. -/
theorem freshVectors_getD (n : Nat) : ∀ v, (List.replicate n [0, 0, 0, 1]).flatten.getD (4 * v + 3) 1 = 1 := by
  induction n with
  | zero => exact fun _ => rfl
  | succ n ih =>
    intro v
    rw [List.replicate_succ, List.flatten_cons]
    cases v with
    | zero => rfl
    | succ v => exact ih v

theorem hostLinkDown_closes (s : State) (how : LinkDownKind) (h : s.dev.inReset = false) :
    ∃ t : State, exec (.hostLinkDown how) s = .next t ∧ t.hl.linkUp = false ∧ t.hl.bar2Base = 0 ∧
      t.tb.ptmPath = false ∧ t.tb.link = s.tb.link ∧ bitAt t.hl.ctx0Cfg 31 = false ∧
      (∀ v, v < 64 → t.vectorMasked v = true) ∧
      (s.spr.lasting = [] → t.dev = s.dev ∧ t.hl.pba = 0) ∧
      (Shaped s → (t.ctx 0).isOpen = false ∧
        ∀ k, k < 256 → (t.ctx k).isOpen = true → (t.ctx k).closing = true) := by
  obtain ⟨u, hu⟩ : ∃ u, u = s.unplugged how := ⟨_, rfl⟩
  have hshuts := unplugged_shuts u
  have htb := unplugged_tb u
  have hutb : u.tb = { s.tb with ptmPath := false, ptmActive := false, ptmBusy := false } := by
    rw [hu]
    exact State.onCtx_tb ..
  have hplug := hshuts.plug
  rw [hu, plug_unplugged, ← hu] at hplug
  simp only [HostLink.plug, Prod.mk.injEq] at hplug
  obtain ⟨hup, hbase, hcfg, hmsix⟩ := hplug
  refine ⟨_, (exec_hostLinkDown how h).trans (by rw [← hu]), hup, hbase, by rw [htb, hutb], by rw [htb, hutb], ?_, ?_, ?_, ?_⟩
  · rw [hcfg]
    exact (Nat.testBit_mod_two_pow ..).trans rfl
  · intro v _
    rw [State.vectorMasked, hmsix, freshVectors_getD]
    rfl
  · intro hlasting
    have hdown : u.hl.linkUp = false := by
      rw [hu]
      exact congrArg Prod.fst (plug_unplugged s how)
    have hspr : u.spr = s.spr := by
      rw [hu]
      exact State.onCtx_spr ..
    obtain ⟨-, hdev, hpba⟩ := hshuts.quiet ⟨by rw [hspr, hlasting], hdown⟩
    rw [hdev, hpba, hu]
    exact ⟨State.onCtx_dev .., pba_disableCtx0 _⟩
  · intro _
    have hclosed : ¬((u.hostContexts.foldl State.startClose u).settleCloses.ctx 0).isOpen = true := fun hopen => by
      have hno := ctx0_unplugged s how
      rw [← hu] at hno
      exact Bool.false_ne_true (hno.symm.trans (hshuts.ctxs 0 hopen).1)
    refine ⟨Bool.eq_false_iff.mpr hclosed, fun k hk hopen => ?_⟩
    by_cases hzero : k = 0
    · subst hzero
      exact (hclosed hopen).elim
    · exact unplugged_closes u hk hzero hopen

/-! The host link coming up (R435, R442). -/

/-- The state of the host link's port. -/
def HostLink.port (h : HostLink) : Bool × Nat × Nat := (h.linkUp, h.width, h.rate)

theorem uncompleted_port : Uncompleted fun s => s.hl.port :=
  uncompleted_hl (fun _ _ => rfl) (fun _ _ => rfl) (fun _ => rfl) fun _ => rfl

theorem exec_hostLinkUp {s : State} (w r : Nat) (ptm : Bool) (h : s.dev.inReset = false) : exec (.hostLinkUp w r ptm) s =
    .next ((List.range 256).foldl State.flushRing (((s.onHl fun h => { h with
      linkUp := true, width := w, rate := r }).onTb fun t => { t with ptmPath := ptm }).hostSlots)) :=
  congrArg Host.Outcome.next (if_neg (by simp [h]))

/-- Where no completion waits, none is written. -/
theorem flushRings_idle {s : State} (h : s.hl.ctxs.all (fun x => x.waiting.isEmpty) = true) :
    (List.range 256).foldl State.flushRing s = s := by
  have hfixed : ∀ l : List Nat, (∀ k ∈ l, k < 256) → l.foldl State.flushRing s = s := by
    intro l
    induction l with
    | nil => exact fun _ => rfl
    | cons k l ih =>
      intro hl
      have hwaiting : (s.ctx k).waiting = [] := by
        have hk : k ≠ 256 := Nat.ne_of_lt (hl k List.mem_cons_self)
        rw [State.ctx, if_neg hk]
        cases hx : s.hl.ctxs[k]? with
        | none => simp [List.getD, hx]
        | some x =>
          have hempty := List.all_eq_true.mp h x (List.mem_of_getElem? hx)
          simpa [List.getD, hx] using hempty
      have hflush : s.flushRing k = s := by rw [State.flushRing, hwaiting]; rfl
      rw [List.foldl_cons, hflush]
      exact ih fun i hi => hl i (List.mem_cons_of_mem _ hi)
  exact hfixed _ fun k hk => List.mem_range.mp hk

theorem KeepsBlocks.hostSlots {r s : State} (h : KeepsBlocks r s) : KeepsBlocks r s.hostSlots := by
  unfold State.hostSlots
  exact .ite (h.onHl _) h

theorem hostLinkUp_takes (s : State) (w r : Nat) (ptm : Bool) (h : s.dev.inReset = false) :
    ∃ t : State, exec (.hostLinkUp w r ptm) s = .next t ∧ t.hl.linkUp = true ∧ t.hl.width = w ∧ t.hl.rate = r ∧
      t.tb = { s.tb with ptmPath := ptm } ∧ t.dev = s.dev ∧
      (s.hl.ctxs.all (fun x => x.waiting.isEmpty) = true → t.mem = s.mem ∧ t.hl.ctxs = s.hl.ctxs) := by
  obtain ⟨u, hu⟩ : ∃ u, u = (s.onHl fun h => { h with linkUp := true, width := w, rate := r }).onTb fun t =>
    { t with ptmPath := ptm } := ⟨_, rfl⟩
  refine ⟨(List.range 256).foldl State.flushRing u.hostSlots, by rw [hu, exec_hostLinkUp w r ptm h], ?_⟩
  obtain ⟨hcarry, hmem⟩ := u.hostSlots_carries
  have hreqs : u.hostSlots.hl.offReqs = u.hl.offReqs := congrArg State.hl hcarry
  have hport : ((List.range 256).foldl State.flushRing u.hostSlots).hl.port = u.hl.port :=
    (foldl_keeps (fun x : State => x.hl.port) (fun x k => uncompleted_port.flush k _ x) _ _).trans
      (congrArg HostLink.port hreqs :)
  obtain ⟨-, -, -, htb, hdev, -⟩ : KeepsBlocks u ((List.range 256).foldl State.flushRing u.hostSlots) :=
    KeepsBlocks.foldl _ (fun _ k hx => KeepsBlocks.flush k _ hx) _ _ (KeepsBlocks.hostSlots (.refl u))
  have hup : ((List.range 256).foldl State.flushRing u.hostSlots).hl.port = (true, w, r) := by rw [hport, hu]; rfl
  obtain ⟨hlink, hwidth, hrate⟩ : _ ∧ _ ∧ _ := by simpa [HostLink.port] using hup
  refine ⟨hlink, hwidth, hrate, by rw [htb, hu]; rfl, by rw [hdev, hu]; rfl, fun hidle => ?_⟩
  have hctxs : u.hostSlots.hl.ctxs = s.hl.ctxs := by
    have hsame : u.hostSlots.hl.ctxs = u.hl.ctxs := (congrArg HostLink.ctxs hreqs :)
    rw [hsame, hu]
    rfl
  rw [flushRings_idle (by rw [hctxs, hidle])]
  exact ⟨hmem.trans (by rw [hu]; rfl), hctxs⟩

/-! Queries (R433). -/

theorem uncompleted_windows : Uncompleted fun s => s.hl.windows :=
  uncompleted_hl (fun _ _ => rfl) (fun _ _ => rfl) (fun _ => rfl) fun _ => rfl

section Fi

variable {s : State}

theorem fi_onCtx (s : State) (k : Nat) (f : Ctx → Ctx) : (s.onCtx k f).fi = s.fi := by
  unfold State.onCtx
  split <;> rfl

theorem fi_writeCompletion (h : Uninjected s) (ring : Nat) (c : Completion) : (s.writeCompletion ring c).fi = s.fi := by
  have hentered : (s.entered ring c).fi = s.fi := by
    refine (fi_onCtx ..).trans ?_
    exact (congrArg State.fi (State.hostRequest_carries ..).1 :)
  rw [writeCompletion_uninjected h]
  split
  · rw [← hentered, ← fi_onCtx (s.entered ring c) ring]
    unfold State.sendVector
    split <;> rfl
  · exact hentered

theorem fi_flush (ring n : Nat) : ∀ {s : State}, Uninjected s → (State.flush ring n s).fi = s.fi := by
  induction n with
  | zero => exact fun _ => rfl
  | succ n ih =>
    intro s h
    unfold State.flush
    split
    · rfl
    · split
      · rfl
      · next c _ =>
        split
        · have hfi := fi_writeCompletion h ring c
          exact (ih (by rwa [Uninjected, hfi])).trans hfi
        · exact fi_onCtx ..

theorem fi_produce (h : Uninjected s) (ring : Nat) (c : Completion) : (s.produce ring c).fi = s.fi := by
  unfold State.produce
  split
  · exact fi_onCtx ..
  · dsimp only
    split
    · exact fi_onCtx ..
    · split
      · exact fi_onCtx ..
      · exact (fi_flush ring _ (by rwa [Uninjected, fi_onCtx])).trans (fi_onCtx ..)

end Fi

/-- With the link down a completion writes no memory. -/
theorem mem_produce_down {s : State} (hdown : s.hl.linkUp = false) (ring : Nat) (c : Completion) :
    (s.produce ring c).mem = s.mem := by
  unfold State.produce
  split
  · exact State.onCtx_mem ..
  · dsimp only
    split
    · exact State.onCtx_mem ..
    · split
      · exact State.onCtx_mem ..
      · rw [flushRing_down (by simpa using hdown), State.onCtx_mem]

/-- From `s` to `t` a command was answered, at most: no block changes but the rings, their memory and CAN 0. -/
def OnlyAnswers (s t : State) : Prop :=
  KeepsBlocks s t ∧ t.fi = s.fi ∧ t.hl.opens = s.hl.opens ∧ t.hl.allocs = s.hl.allocs ∧ t.hl.windows = s.hl.windows ∧
    (s.hl.linkUp = false → t.mem = s.mem)

namespace OnlyAnswers

variable {s : State}

theorem refl (s : State) : OnlyAnswers s s := ⟨.refl s, rfl, rfl, rfl, rfl, fun _ => rfl⟩

theorem complete (h : Uninjected s) (c : Cmd) (status res0 res1 res2 : Nat) :
    OnlyAnswers s ((begun c s).complete c status res0 res1 res2) := by
  refine ⟨(KeepsBlocks.begun s c).complete .., ?_, ?_, ?_, ?_, fun hdown => ?_⟩
  · exact (fi_produce (by rwa [Uninjected, begun_fi]) ..).trans (begun_fi c s)
  · exact (uncompleted_opens.complete ..).trans (begun_opens c s)
  · exact (uncompleted_allocs.complete ..).trans (begun_allocs c s)
  · exact (uncompleted_windows.complete ..).trans (begun_windows c s)
  · exact (mem_produce_down ((begun_linkUp c s).trans hdown) ..).trans (begun_mem c s)

/-- A command whose body only completes it answers, or is refused before (R422, R423). -/
theorem runCmd (h : Uninjected s) {fam op : Nat} {c : Cmd} {body : State → State}
    (hbody : ∀ u, ∃ status res0 res1 res2, body u = u.complete c status res0 res1 res2) :
    OnlyAnswers s (Sys2Proof.Machine.runCmd fam op c s body) := by
  unfold Sys2Proof.Machine.runCmd
  split
  · exact .refl s
  · dsimp only
    split
    · exact complete h c stTimeout 0 0 0
    · split
      · exact complete h c stDenied 0 0 0
      · split
        · exact complete h c stMode 0 0 0
        · obtain ⟨status, res0, res1, res2, hanswer⟩ := hbody (begun c s)
          exact (congrArg (OnlyAnswers s) hanswer).mpr (complete h c status res0 res1 res2)

end OnlyAnswers

section Query

variable {s : State} (h : Uninjected s) (c : Cmd)

include h

theorem jobQuery_answers : ∃ t, exec (.jobQuery c) s = .next t ∧ OnlyAnswers s t := by
  refine ⟨_, rfl, .runCmd h fun u => ?_⟩
  split <;> exact ⟨_, _, _, _, rfl⟩

theorem schQuery_answers : ∃ t, exec (.schQuery c) s = .next t ∧ OnlyAnswers s t := by
  refine ⟨_, rfl, .runCmd h fun u => ?_⟩
  dsimp only
  split
  · split <;> exact ⟨_, _, _, _, rfl⟩
  · exact ⟨_, _, _, _, rfl⟩

theorem kvQuery_answers : ∃ t, exec (.kvQuery c) s = .next t ∧ OnlyAnswers s t := by
  refine ⟨_, rfl, .runCmd h fun u => ?_⟩
  dsimp only
  split
  · split
    · exact ⟨_, _, _, _, rfl⟩
    · split <;> exact ⟨_, _, _, _, rfl⟩
  · split <;> exact ⟨_, _, _, _, rfl⟩

theorem query_answers {i : Instr} (hi : i = .devInfo c ∨ i = .jobQuery c ∨ i = .schQuery c ∨ i = .kvQuery c ∨
    i = .solQuery c ∨ i = .safeQuery c ∨ i = .pwrQuery c) : ∃ t, exec i s = .next t ∧ OnlyAnswers s t := by
  rcases hi with rfl | rfl | rfl | rfl | rfl | rfl | rfl
  case inr.inl => exact jobQuery_answers h c
  case inr.inr.inl => exact schQuery_answers h c
  case inr.inr.inr.inl => exact kvQuery_answers h c
  all_goals exact ⟨_, rfl, .runCmd h fun _ => ⟨_, _, _, _, rfl⟩⟩

end Query

/-- Settles O60: the queries only complete, the link going down closes the contexts, and its coming up takes its state. -/
theorem queriesAndTheHostLinkKeepTheDevice : Obligations.QueriesAndTheHostLinkKeepTheDevice :=
  ⟨fun c _ _ h hi => query_answers h c hi, hostLinkDown_closes, hostLinkUp_takes, fun _ _ _ _ _ h =>
    ⟨congrArg Host.Outcome.next (if_pos h), congrArg Host.Outcome.next (if_pos h)⟩⟩

end Sys2Proof.Machine
end

section
/-! The table of the schedule: SCH.LOAD, SCH.ARM, SCH.PARTITION, SCH.QUERY and the switch decision (R345, R355 to
R358). O41. -/

namespace Sys2Proof.Machine

open Sys2Proof.Safety

variable {c : Cmd} {s : State}

/-! SCH.LOAD (R355, R356). -/

/-- The shadow table with the rows of a SCH.LOAD (R355). -/
def State.loaded (s : State) (c : Cmd) : Table :=
  let old : Table := if c.word 0 % 256 = 0 then { header := c.data.take 64, id := fieldAt c.data 8 4 }
    else s.sch.shadowTable
  let bytes := if c.word 0 % 256 = 0 then c.data.drop 64 else c.data
  { old with
    rows := old.rows ++ (List.range (bitsOf (c.word 0) 15 8)).map fun i => parseRow ((bytes.drop (192 * i)).take 192)
    rowBytes := old.rowBytes ++ bytes }

/-- The state that holds it in part. -/
def State.loading (s : State) (c : Cmd) : State :=
  (begun c s).onSch fun x => { x with shadow := .part, shadowTable := s.loaded c }

/-- The bytes of a SCH.LOAD: its rows, and the table's header before row 0. -/
def loadBytes (c : Cmd) : Nat := (if c.word 0 % 256 = 0 then 64 else 0) + 192 * bitsOf (c.word 0) 15 8

/-- The rows of a SCH.LOAD begin the table or continue the shadow. -/
def State.rowsInTurn (s : State) (c : Cmd) : Prop :=
  c.word 0 % 256 = 0 ∨ (s.sch.shadow = .part ∧ s.sch.shadowTable.rows.length = c.word 0 % 256)

theorem loaded_rows (h : s.rowsInTurn c) :
    (s.loaded c).rows.length = c.word 0 % 256 + bitsOf (c.word 0) 15 8 := by
  unfold State.loaded
  by_cases hfirst : c.word 0 % 256 = 0
  · simp [hfirst]
  · obtain ⟨-, hrows⟩ := h.resolve_left hfirst
    simp [hfirst, hrows]

theorem tableCheck_loading (t : Table) : (s.loading c).tableCheck t = s.tableCheck t :=
  of_begun (fun u => (u.onSch fun x => { x with shadow := .part, shadowTable := s.loaded c }).tableCheck t)
    (fun _ _ => rfl) c s

theorem exec_schLoad_length (h : Starts 4 1 c s) (hlen : c.length ≠ loadBytes c) :
    exec (.schLoad c) s = .next ((begun c s).complete c stBadLength) :=
  congrArg Host.Outcome.next ((runCmd_starts h _).trans (if_pos hlen))

section GoodLength

variable (h : Starts 4 1 c s) (hlen : c.length = loadBytes c)

include h hlen

theorem exec_schLoad_refused (hbad : 80 < c.word 0 % 256 + bitsOf (c.word 0) 15 8 ∨ ¬s.rowsInTurn c) :
    exec (.schLoad c) s = .next ((begun c s).complete c stBadParam) := by
  refine congrArg Host.Outcome.next ((runCmd_starts h _).trans ((if_neg (not_not.mpr hlen)).trans (if_pos ?_)))
  rw [begun_sch]
  rcases hbad with hbad | hbad
  · simp [hbad]
  · simp only [State.rowsInTurn, not_or, not_and] at hbad
    obtain ⟨hfirst, hrows⟩ := hbad
    by_cases hpart : s.sch.shadow = .part
    · simp [hfirst, hpart, Ne.symm (hrows hpart)]
    · simp [hfirst, hpart]

variable (hturn : s.rowsInTurn c) (hrows : c.word 0 % 256 + bitsOf (c.word 0) 15 8 ≤ 80)

include hturn hrows

theorem exec_schLoad_takes : exec (.schLoad c) s = .next (
    if (s.loaded c).rows.length = 80 then (s.loading c).validate c else (s.loading c).complete c stOk) := by
  refine congrArg Host.Outcome.next ((runCmd_starts h _).trans ((if_neg (not_not.mpr hlen)).trans ((if_neg ?_).trans ?_)))
  · rw [begun_sch]
    rcases hturn with hfirst | ⟨hpart, hloaded⟩
    · simp [hfirst]
      omega
    · simp [hpart, hloaded]
      omega
  · dsimp only
    rw [begun_sch]
    rfl

theorem exec_schLoad_part (hpart : c.word 0 % 256 + bitsOf (c.word 0) 15 8 < 80) :
    exec (.schLoad c) s = .next ((s.loading c).complete c stOk) := by
  rw [exec_schLoad_takes h hlen hturn hrows, loaded_rows hturn, if_neg (by omega)]

theorem exec_schLoad_valid (hall : c.word 0 % 256 + bitsOf (c.word 0) 15 8 = 80) (hcheck : s.tableCheck (s.loaded c) = none) :
    exec (.schLoad c) s = .next (((s.loading c).onSch fun x => { x with shadow := .valid }).complete c stOk) := by
  have hfine : (s.loading c).tableCheck (s.loading c).sch.shadowTable = none := (tableCheck_loading _).trans hcheck
  rw [exec_schLoad_takes h hlen hturn hrows, loaded_rows hturn, if_pos hall, State.validate, hfine]

theorem exec_schLoad_invalid (hall : c.word 0 % 256 + bitsOf (c.word 0) 15 8 = 80) {code row i : Nat}
    (hcheck : s.tableCheck (s.loaded c) = some (code, row, i)) : exec (.schLoad c) s =
      .next (((s.loading c).onSch fun x => { x with shadow := .invalid }).bump.complete c stTableInvalid
        (code + 2 ^ 8 * row + 2 ^ 16 * i)) := by
  have hfails : (s.loading c).tableCheck (s.loading c).sch.shadowTable = some (code, row, i) :=
    (tableCheck_loading _).trans hcheck
  rw [exec_schLoad_takes h hlen hturn hrows, loaded_rows hturn, if_pos hall, State.validate, hfails]

end GoodLength

/-! SCH.ARM, SCH.PARTITION and SCH.QUERY (R345, R357, R358, R368). -/

theorem exec_schArm (h : Starts 4 2 c s) : exec (.schArm c) s = .next (((begun c s).onSch fun x => { x with
    armed := true, armLink := if x.armed then x.armLink else s.tb.link }).await c (.arm s.tb.link false)) := by
  refine congrArg Host.Outcome.next ((runCmd_starts h _).trans ?_)
  rw [begun_tb]

/-- A partition cannot change: it has jobs, or it would lose its class while a table gives it cores (R345). -/
def State.partitionUsed (s : State) (p k : Nat) : Bool :=
  (s.sch.jobs.any fun j => j.partition = p) || (k = 15 && (s.sch.active.gives p ||
    (s.sch.shadow = .valid && s.sch.shadowTable.gives p) || (s.sch.switchAt.isSome && s.sch.next.gives p)))

theorem exec_schPartition_mode (h : Starts 4 3 c s) (hmode : s.dev.mode ≠ .config) :
    exec (.schPartition c) s = .next ((begun c s).complete c stMode) :=
  congrArg Host.Outcome.next ((runCmd_starts h _).trans (if_pos (by rwa [begun_dev])))

section InConfig

variable (h : Starts 4 3 c s) (hmode : s.dev.mode = .config)

include h hmode

theorem exec_schPartition_bad (hbad : c.word 0 % 16 = 0 ∨ (bitsOf (c.word 0) 11 8 ≠ 1 ∧ bitsOf (c.word 0) 11 8 ≠ 2 ∧
      bitsOf (c.word 0) 11 8 ≠ 3 ∧ bitsOf (c.word 0) 11 8 ≠ 15)) :
    exec (.schPartition c) s = .next ((begun c s).complete c stBadParam) := by
  refine congrArg Host.Outcome.next ((runCmd_starts h _).trans ((if_neg (by simp [hmode])).trans (if_pos ?_)))
  rcases hbad with hbad | ⟨h1, h2, h3, h15⟩
  · simp [hbad]
  · simp [h1, h2, h3, h15]

variable (hp : c.word 0 % 16 ≠ 0) (hk : bitsOf (c.word 0) 11 8 = 1 ∨ bitsOf (c.word 0) 11 8 = 2 ∨
  bitsOf (c.word 0) 11 8 = 3 ∨ bitsOf (c.word 0) 11 8 = 15)

include hp hk

theorem exec_schPartition_good : exec (.schPartition c) s = .next (
    if s.partitionUsed (c.word 0 % 16) (bitsOf (c.word 0) 11 8) then (begun c s).complete c stBusy
    else ((begun c s).onSch fun x => { x with
      classes := x.classes.set (c.word 0 % 16) (if bitsOf (c.word 0) 11 8 = 15 then 7 else bitsOf (c.word 0) 11 8)
      }).complete c stOk) := by
  refine congrArg Host.Outcome.next ((runCmd_starts h _).trans ((if_neg (by simp [hmode])).trans ((if_neg ?_).trans ?_)))
  · rcases hk with hk | hk | hk | hk <;> simp [hp, hk]
  · rw [begun_sch]
    rfl

theorem exec_schPartition_busy (hused : s.partitionUsed (c.word 0 % 16) (bitsOf (c.word 0) 11 8) = true) :
    exec (.schPartition c) s = .next ((begun c s).complete c stBusy) :=
  (exec_schPartition_good h hmode hp hk).trans (congrArg _ (if_pos hused))

theorem exec_schPartition_sets (hfree : s.partitionUsed (c.word 0 % 16) (bitsOf (c.word 0) 11 8) = false) :
    exec (.schPartition c) s = .next (((begun c s).onSch fun x => { x with
      classes := x.classes.set (c.word 0 % 16) (if bitsOf (c.word 0) 11 8 = 15 then 7 else bitsOf (c.word 0) 11 8)
      }).complete c stOk) :=
  (exec_schPartition_good h hmode hp hk).trans (congrArg _ (if_neg (by simp [hfree])))

end InConfig

/-- Of the contexts only the command's own slot changes as it starts. -/
theorem ctxCounts_begun (c : Cmd) (s : State) (k : Nat) : ((begun c s).ctx k).isOpen = (s.ctx k).isOpen ∧
    ((begun c s).ctx k).accepted = (s.ctx k).accepted ∧ ((begun c s).ctx k).ended = (s.ctx k).ended := by
  by_cases hk : k = c.ring
  · subst hk
    by_cases hin : c.ring = 256 ∨ c.ring < s.hl.ctxs.length
    · rw [show (begun c s).ctx c.ring = _ from ctx_onCtx_same hin _]
      exact ⟨rfl, rfl, rfl⟩
    · obtain ⟨hcan, hlen⟩ := not_or.mp hin
      simp [begun, State.onCtx, State.ctx, hcan, Nat.le_of_not_lt hlen]
  · rw [show (begun c s).ctx k = s.ctx k from ctx_onCtx_ne s hk _]
    exact ⟨rfl, rfl, rfl⟩

section Query

variable (h : Starts 4 4 c s)

include h

theorem exec_schQuery_context (hsel : bitAt (c.word 0) 31 = true) : exec (.schQuery c) s = .next (
    if (s.ctx (c.word 0 % 256)).isOpen then (begun c s).complete c stOk
      ((s.ctx (c.word 0 % 256)).accepted + 2 ^ 32 * (s.ctx (c.word 0 % 256)).ended)
    else (begun c s).complete c stBadParam) := by
  obtain ⟨hopen, haccepted, hended⟩ := ctxCounts_begun c s (c.word 0 % 256)
  refine congrArg Host.Outcome.next ((runCmd_starts h _).trans ((if_pos hsel).trans ?_))
  dsimp only
  rw [hopen, haccepted, hended]
  cases (s.ctx (c.word 0 % 256)).isOpen <;> rfl

theorem exec_schQuery_table (hsel : bitAt (c.word 0) 31 = false) : exec (.schQuery c) s = .next ((begun c s).complete c
    stOk s.schStatus s.sch.active.id (if s.sch.shadow = .empty then 0 else s.sch.shadowTable.id)) := by
  refine congrArg Host.Outcome.next ((runCmd_starts h _).trans ((if_neg (by simp [hsel])).trans ?_))
  rw [of_begun State.schStatus (fun _ _ => rfl), begun_sch]

end Query

/-! The switch decision (R357). -/

/-- The reason why the switch of the shadow is deferred, 0 for none (R357, R358). -/
def State.deferWhy (s : State) : Nat :=
  if s.sch.shadow ≠ .valid then 1
  else if (s.running = true ∨ s.dev.mode = .replay) ∧ s.sch.shadowTable.mask 0 0 ≠ s.p0Mask then 2
  else if s.absentCheck s.sch.shadowTable ≠ none then 3
  else if s.liveCheck s.sch.shadowTable ≠ none then 4
  else 0

theorem exec_schSwitchDecision_idle (h : s.sch.armed = false ∨ s.tb.link ≤ s.sch.armLink ∨
    s.phase (s.tb.link + 5) % 8000 ≠ 0 ∨ s.sch.switchAt = some (s.tb.link + 5) ∨ s.sch.deferAt = some (s.tb.link + 5)) :
    exec .schSwitchDecision s = .next s := by
  refine congrArg Host.Outcome.next (if_pos ?_)
  rcases h with h | h | h | h | h <;> simp [h]

/-- The state whose arms of earlier links are decided. -/
def State.armsDecided (s : State) : State := s.onHl fun h => { h with opens := h.opens.map (markDecided s.tb.link) }

/-- An arm of the link in progress is not decided. -/
theorem markDecided_later (link : Nat) (o : Open) :
    (markDecided link o).wait = .arm link false ↔ o.wait = .arm link false := by
  unfold markDecided
  split
  · next l d hwait =>
    split
    · next hlt => simp [hwait, Nat.ne_of_lt hlt]
    · rfl
  · rfl

theorem armsLater_decided (s : State) : s.armsDecided.armsLater = s.armsLater := by
  simp [State.armsLater, State.armsDecided, Function.comp_def, markDecided_later]

theorem exec_schSwitchDecision_decides (harmed : s.sch.armed = true) (hlink : s.sch.armLink < s.tb.link)
    (hphase : s.phase (s.tb.link + 5) % 8000 = 0) (hup : s.up = true) (hswitch : s.sch.switchAt ≠ some (s.tb.link + 5))
    (hdefer : s.sch.deferAt ≠ some (s.tb.link + 5)) : exec .schSwitchDecision s = .next (s.armsDecided.onSch fun x =>
      if s.deferWhy = 0 then { x with
        armed := s.armsLater, armLink := s.tb.link, switchAt := some (s.tb.link + 5), next := s.sch.shadowTable
        shadow := .empty, shadowTable := {}, lastDecision := 1, deferReason := 0 }
      else { x with deferAt := some (s.tb.link + 5), lastDecision := 2, deferReason := s.deferWhy }) := by
  have hwhy : s.deferWhy = (if s.sch.shadow ≠ .valid then 1
      else if (s.running || s.dev.mode = .replay) && s.sch.shadowTable.mask 0 0 ≠ s.p0Mask then 2
      else if (s.absentCheck s.sch.shadowTable).isSome then 3
      else if (s.liveCheck s.sch.shadowTable).isSome then 4
      else 0) := by
    simp [State.deferWhy, Option.isSome_iff_ne_none]
  refine congrArg Host.Outcome.next ((if_neg ?_).trans ?_)
  · simp [harmed, hphase, hup, hswitch, hdefer, hlink]
  · rw [hwhy, ← armsLater_decided]
    rfl

theorem schSwitchDecision_decides (harmed : s.sch.armed = true) (hlink : s.sch.armLink < s.tb.link)
    (hphase : s.phase (s.tb.link + 5) % 8000 = 0) (hup : s.up = true) (hswitch : s.sch.switchAt ≠ some (s.tb.link + 5))
    (hdefer : s.sch.deferAt ≠ some (s.tb.link + 5)) : ∃ t : State, exec .schSwitchDecision s = .next t ∧
      t.mem = s.mem ∧ t.sch.active = s.sch.active ∧
      (s.deferWhy ≠ 0 → t.sch = { s.sch with
        deferAt := some (s.tb.link + 5), lastDecision := 2, deferReason := s.deferWhy }) ∧
      (s.deferWhy = 0 → t.sch = { s.sch with
        armed := s.armsLater, armLink := s.tb.link, switchAt := some (s.tb.link + 5), next := s.sch.shadowTable
        shadow := .empty, shadowTable := {}, lastDecision := 1, deferReason := 0 }) := by
  refine ⟨_, exec_schSwitchDecision_decides harmed hlink hphase hup hswitch hdefer, rfl, ?_, fun hwhy => if_neg hwhy,
    fun hwhy => if_pos hwhy⟩
  show (if _ then _ else _ : Sch).active = _
  split <;> rfl

/-- Settles O41: each command's equations case by case, and what the decision makes of the schedule. -/
theorem tablesAreLoadedArmedAndSwitched : Obligations.TablesAreLoadedArmedAndSwitched := by
  unfold Obligations.TablesAreLoadedArmedAndSwitched
  refine ⟨?_, fun c s => exec_schArm, ?_, ?_, fun c s => exec_schQuery_table, fun s => exec_schSwitchDecision_idle,
    fun s => schSwitchDecision_decides⟩
  · intro c s first count h hfirst hcount
    subst hfirst hcount
    exact ⟨exec_schLoad_length h, exec_schLoad_refused h, fun hlen hturn =>
      ⟨fun hpart => exec_schLoad_part h hlen hturn hpart.le hpart, fun hall => exec_schLoad_valid h hlen hturn hall.le hall,
        fun hall code row i => exec_schLoad_invalid h hlen hturn hall.le hall⟩⟩
  · intro c s p k h hp hk
    subst hp hk
    exact ⟨exec_schPartition_mode h, exec_schPartition_bad h, fun hmode hp hk =>
      ⟨exec_schPartition_busy h hmode hp hk, exec_schPartition_sets h hmode hp hk⟩⟩
  · intro c s h hsel
    rw [exec_schQuery_context h hsel]
    exact ⟨fun hopen => congrArg _ (if_neg (by simp [hopen])), fun hopen => congrArg _ (if_pos hopen)⟩

end Sys2Proof.Machine
end

section
/-! The guard, late leavers and placement (R350, R351, R353, R354, R367). O42. -/

namespace Sys2Proof.Machine

open Sys2Proof.Safety

/-! Stop requests (R117, R351). -/

/-- A stop request to a core. -/
def State.askStop (s : State) (g : Nat) : State := s.onCore g fun y => { y with stopReq := true }

theorem askStop_leaves (s : State) (g : Nat) :
    (s.askStop g).sch = s.sch ∧ (s.askStop g).mem = s.mem ∧ (s.askStop g).hl = s.hl := by
  unfold State.askStop State.onCore
  split <;> exact ⟨rfl, rfl, rfl⟩

theorem askStop_core (s : State) (g i : Nat) : ((s.askStop g).core i).run = (s.core i).run ∧
    ((s.core i).stopReq = true → ((s.askStop g).core i).stopReq = true) := by
  rcases core_onCore_cases s g i fun y => { y with stopReq := true } with h | h
  · exact ⟨congrArg Core.run h, fun hstop => (congrArg Core.stopReq h).trans hstop⟩
  · exact ⟨(congrArg Core.run h).trans rfl, fun _ => (congrArg Core.stopReq h).trans rfl⟩

theorem askStops_leaves (l : List Nat) (s : State) : (l.foldl State.askStop s).sch = s.sch ∧
    (l.foldl State.askStop s).mem = s.mem ∧ (l.foldl State.askStop s).hl = s.hl :=
  ⟨foldl_keeps State.sch (fun u g => (askStop_leaves u g).1) l s,
    foldl_keeps State.mem (fun u g => (askStop_leaves u g).2.1) l s,
    foldl_keeps State.hl (fun u g => (askStop_leaves u g).2.2) l s⟩

theorem askStops_run (l : List Nat) (s : State) (i : Nat) :
    ((l.foldl State.askStop s).core i).run = (s.core i).run :=
  foldl_keeps (fun u : State => (u.core i).run) (fun u g => (askStop_core u g i).1) l s

/-- Of the cores that are asked, the running ones have the request. -/
theorem askStops_asked {l : List Nat} {s : State} {g : Nat} (hg : g ∈ l) (hrun : (s.core g).run = .running) :
    ((l.foldl State.askStop s).core g).stopReq = true := by
  refine foldl_establishes (Q := fun _ : State => True)
    (P := fun i u => (u.core i).run = .running → (u.core i).stopReq = true) (fun _ _ h => h) (fun u i _ hi => ?_)
    (fun u i j _ h hi => ?_) l s trivial g (.inl hg) ((askStops_run l s g).trans hrun)
  · rw [(askStop_core u i i).1] at hi
    exact congrArg Core.stopReq (State.onCore_core hi _)
  · obtain ⟨hrun, hstop⟩ := askStop_core u j i
    exact hstop (h (hrun.symm.trans hi))

/-- A turn that asks every running core to stop asks all of a job that runs. -/
theorem foldl_askStops {f : State → Nat → State} (hf : ∀ u g, (u.core g).run = .running → f u g = u.askStop g)
    (l : List Nat) : ∀ s : State, (∀ g ∈ l, (s.core g).run = .running) → l.foldl f s = l.foldl State.askStop s := by
  induction l with
  | nil => exact fun _ _ => rfl
  | cons g l ih =>
    intro s hrun
    rw [List.foldl_cons, List.foldl_cons, hf s g (hrun g List.mem_cons_self)]
    exact ih _ fun i hi => (askStop_core s g i).1.trans (hrun i (List.mem_cons_of_mem g hi))

section Guard

variable {s : State} {j : Job}

/-- A job one of whose cores runs is not preempted yet. -/
theorem checkPreempted_running {k : JobKey} {g : Nat} (hj : s.job k = some j) (hg : g ∈ j.placed)
    (hrun : (s.core g).run = .running) : s.checkPreempted k = s := by
  obtain ⟨p, hp, -⟩ := physOf_of_running hrun
  rw [State.checkPreempted, hj]
  refine if_pos (Bool.or_eq_true_iff.mpr (.inr ?_))
  rw [Bool.not_eq_true', List.all_eq_false]
  exact ⟨g, hg, by simp [hrun, hp]⟩

/-- What a stop request makes of a job. -/
def Job.asked (x : Job) : Job :=
  { x with
    state := if x.state = .idle then .preempted else .stopping
    releasePending := x.releasePending && x.state ≠ .idle }

/-- A running job all of whose cores run goes to STOPPING, with a stop request on each core (R351). -/
theorem stopJob_running (hj : s.job j.key = some j) (hplaced : j.placed ≠ []) (hend : j.endWith = none)
    (hstate : j.state = .running) (hrun : ∀ g ∈ j.placed, (s.core g).run = .running) :
    s.stopJob j.key = j.placed.foldl State.askStop (s.onJob j.key Job.asked) := by
  have hfold : s.stopJob j.key = (j.placed.foldl State.askStop (s.onJob j.key Job.asked)).checkPreempted j.key := by
    rw [State.stopJob, hj]
    refine (if_neg (by simp [hplaced, hend, hstate])).trans (congrArg (State.checkPreempted · j.key) ?_)
    refine foldl_askStops (fun u g hg => ?_) j.placed (s.onJob j.key Job.asked) hrun
    rw [hg]
    rfl
  obtain ⟨g, hg⟩ := List.exists_mem_of_ne_nil _ hplaced
  have hjob : (j.placed.foldl State.askStop (s.onJob j.key Job.asked)).job j.key = some j.asked := by
    rw [job_of_sch (askStops_leaves _ _).1, job_onJob (by intro; rfl), hj]
    rfl
  rw [hfold, checkPreempted_running hjob (g := g) hg ((askStops_run ..).trans (hrun g hg))]

theorem chainGuardStart_stops (hphase : s.phase s.tb.link % 100 = 95) (hup : s.up = true)
    (hmoves : (s.sch.jobs.filter fun j => j.partition ≠ 0 && j.placed.any s.coreMoving) = [j])
    (hj : s.job j.key = some j) (hstate : j.state = .running) (hend : j.endWith = none)
    (hrun : ∀ g ∈ j.placed, (s.core g).run = .running) :
    ∃ t : State, ∃ k : Job, exec .chainGuardStart s = .next t ∧ t.job j.key = some k ∧ k.state = .stopping ∧
      (∀ g ∈ j.placed, (t.core g).stopReq = true ∧ (t.core g).run = .running) ∧ t.mem = s.mem ∧ t.hl = s.hl := by
  have hplaced : j.placed ≠ [] := by
    have hin : j ∈ s.sch.jobs.filter fun j => j.partition ≠ 0 && j.placed.any s.coreMoving := by rw [hmoves]; simp
    rintro hnone
    simp [hnone] at hin
  have hexec : exec .chainGuardStart s = .next (s.stopJob j.key) :=
    congrArg Host.Outcome.next ((if_neg (by simp [hphase, hup])).trans (by rw [hmoves]; rfl))
  obtain ⟨hsch, hmem, hhl⟩ := askStops_leaves j.placed (s.onJob j.key Job.asked)
  rw [stopJob_running hj hplaced hend hstate hrun] at hexec
  refine ⟨_, j.asked, hexec, ?_, by simp [Job.asked, hstate], fun g hg => ?_, hmem, hhl⟩
  · rw [job_of_sch hsch, job_onJob (by intro; rfl), hj]
    rfl
  · exact ⟨askStops_asked hg (hrun g hg), (askStops_run ..).trans (hrun g hg)⟩

/-- A core that the row gives its job is not overstayed on (R353). -/
theorem overstays_of_holder {g : Nat} (hj : s.coreJob g = some j)
    (hholder : s.sch.active.holder s.sch.row g = some j.partition) : s.overstays g = false := by
  rw [State.overstays, hj]
  simp [hholder]

end Guard

/-! Placement (R354). -/

section Placement

variable {s : State} {j : Job} {free gs : List Nat}

/-- The cores picked are as many as the job has, of the free ones, and the first of these where it uses no masks. -/
theorem pickCores_picks (hcores : 0 < j.cores) (hnodup : free.Nodup) (h : s.pickCores free j = some gs) :
    gs.length = j.cores ∧ (∀ g ∈ gs, g ∈ free) ∧ (j.usesMask = false → gs = free.take j.cores) := by
  unfold State.pickCores at h
  extract_lets capable at h
  split at h
  · contradiction
  · next hroom =>
    split at h
    · cases h
      exact ⟨by simp; omega, fun g hg => List.mem_of_mem_take hg, fun _ => rfl⟩
    · next hmask =>
      split at h
      · contradiction
      · next g hg =>
        cases h
        have hin : g ∈ free := List.mem_of_find?_eq_some hg
        have hothers : (free.filter (· ≠ g)).length = free.length - 1 := by
          rw [← List.length_erase_of_mem hin, hnodup.erase_eq_filter]
          exact congrArg List.length (List.filter_congr fun x _ => by by_cases hx : x = g <;> simp [hx])
        refine ⟨?_, fun x hx => ?_, fun hno => by simp [hno] at hmask⟩
        · rw [List.length_cons, List.length_take, hothers]
          omega
        · rcases List.mem_cons.mp hx with rfl | hx
          · exact hin
          · exact (List.mem_filter.mp (List.mem_of_mem_take hx)).1

/-- Every core of an ascending list that is not among its first is above them. -/
theorem take_lt_of_pairwise {n g x : Nat} (hsorted : free.Pairwise (· < ·)) (hg : g ∈ free) (hout : g ∉ free.take n)
    (hx : x ∈ free.take n) : x < g := by
  rw [← List.take_append_drop n free] at hsorted hg
  exact (List.pairwise_append.mp hsorted).2.2 x hx g ((List.mem_append.mp hg).resolve_left hout)

theorem exec_jobPlacement_single {part : Nat} (hup : s.up = true) (hone : s.sch.jobs.filter (s.candidate part) = [j]) :
    exec (.jobPlacement part) s =
      .next (((s.pickCores ((List.range 64).filter (s.coreFree part)) j).map (s.placeJob j)).getD s) := by
  refine congrArg Host.Outcome.next ((if_neg (by simp [hup])).trans ?_)
  have hsort : sortBy placeBefore [j] = [j] := rfl
  rw [hone, hsort, List.foldl_cons, List.foldl_nil]
  cases s.pickCores ((List.range 64).filter (s.coreFree part)) j <;> rfl

theorem jobPlacement_places {part : Nat} (hup : s.up = true) (hcores : 0 < j.cores)
    (hone : s.sch.jobs.filter (s.candidate part) = [j])
    (hpick : s.pickCores ((List.range 64).filter (s.coreFree part)) j = some gs) :
    exec (.jobPlacement part) s = .next (s.placeJob j gs) ∧ gs.length = j.cores ∧
      (∀ g ∈ gs, s.coreFree part g = true) ∧
      (j.usesMask = false → ∀ g, g < 64 → s.coreFree part g = true → g ∉ gs → ∀ x ∈ gs, x < g) := by
  have hsorted : ((List.range 64).filter (s.coreFree part)).Pairwise (· < ·) := List.pairwise_lt_range.filter _
  obtain ⟨hlen, hfree, hlowest⟩ := pickCores_picks hcores (hsorted.imp Nat.ne_of_lt) hpick
  refine ⟨by rw [exec_jobPlacement_single hup hone, hpick]; rfl, hlen, fun g hg => (List.mem_filter.mp (hfree g hg)).2,
    fun hmask g hg hgfree hout x hx => ?_⟩
  rw [hlowest hmask] at hout hx
  exact take_lt_of_pairwise hsorted (List.mem_filter.mpr ⟨List.mem_range.mpr hg, hgfree⟩) hout hx

end Placement

/-- Settles O42: the stop of a running job, the late leaver by its row, and the cores that placement picks. -/
theorem theGuardStopsWhatMoves : Obligations.TheGuardStopsWhatMoves := by
  unfold Obligations.TheGuardStopsWhatMoves
  refine ⟨fun s j => chainGuardStart_stops, fun s hphase => congrArg Host.Outcome.next (if_pos (by simp [hphase])),
    fun s g hlate => congrArg Host.Outcome.next (if_pos hlate), fun s g j hj hholder => ?_,
    fun s part j gs => jobPlacement_places, fun s part j hup hone hnone => ?_, fun s part hup hnone => ?_⟩
  · exact congrArg Host.Outcome.next (if_neg (by simp [overstays_of_holder hj hholder]))
  · rw [exec_jobPlacement_single hup hone, hnone]
    rfl
  · exact congrArg Host.Outcome.next ((if_neg (by simp [hup])).trans (by rw [hnone]; rfl))

end Sys2Proof.Machine
end

section
/-! A release that ends its job: two jobs of one name (R349, R361, R496). O43. -/

namespace Sys2Proof.Machine

open Sys2Proof.Safety

/-- A periodic job of P1 that is idle on core 0, whose restore runs. -/
def idleTwin : Job := { partition := 1, mode := 1, period := 1, offset := 95, state := .idle, placed := [0] }

/-- RUN, in the first link of a guard. Row 0 gives core 0 to P0 and row 1 does not, so the core moves; its physical core
has a lasting fault, so it is to be retired. The job table holds an idle job on that core and one of P0, without cores,
of the same name. -/
def twinJobs : State :=
  { State.reset with
    dev := { State.reset.dev with mode := .run }
    tb := { State.reset.tb with link := 95 }
    sch := { State.reset.sch with
      active := { rows := [{ masks := [1] }] }
      jobs := [idleTwin, { partition := 0, state := .idle }] }
    cores := { State.reset.cores with phys := { run := .restoring } :: List.replicate 71 {} }
    spr := { State.reset.spr with lasting := [coreEntry 0 0] } }

/-- The job due for release is the one on core 0, idle, and its core moves in the guard. -/
theorem twinJobs_due : twinJobs.job {} = some idleTwin ∧ twinJobs.periodicDue idleTwin twinJobs.tb.link = true ∧
    twinJobs.releaseMode idleTwin = true ∧ (twinJobs.inGuard && idleTwin.placed.any twinJobs.coreMoving) = true ∧
    ∀ g ∈ idleTwin.placed, twinJobs.liveBad g = false := by
  decide

theorem exec_periodicRelease_twin : exec (.periodicRelease 0 0) twinJobs = .next (twinJobs.releaseJob idleTwin) := by
  obtain ⟨hjob, hdue, hmode, -⟩ := twinJobs_due
  show execPeriodicRelease 0 0 twinJobs = _
  rw [execPeriodicRelease, hjob]
  exact congrArg _ (if_pos (by simp [hdue, hmode]; decide))

/-- The restore is dropped and the core left; the retirement of a core of P0 then ends the job of P0, and by its name the
released one with it. -/
theorem twinJobs_ended : (twinJobs.releaseJob idleTwin).job {} = none := by
  decide

/-- Refutes O43: where two jobs of the table have one name, the release of an idle job on a core that moves and is to be
retired can end it, so no job of that name is left. -/
theorem not_releasesBudgetsAndDeadlines : ¬ Obligations.ReleasesBudgetsAndDeadlines := by
  intro h
  obtain ⟨hjob, hdue, hmode, hmoves, hlive⟩ := twinJobs_due
  obtain ⟨t, k, hexec, hk, -⟩ := (h.1 twinJobs 0 0 idleTwin hjob hdue hmode (by decide) (.inl (by decide))).2.1
    rfl rfl rfl hmoves hlive
  cases hexec.symm.trans exec_periodicRelease_twin
  exact absurd (hk.symm.trans twinJobs_ended) (by simp)

end Sys2Proof.Machine
end
